-- ==== Sys2Proof/Word.lean ====
section
/-!
DEFINITION. The word types of Teuri and the fields of a word, read by bit positions as the spec writes them ([hi:lo]).
-/

namespace Sys2Proof

/-- The least unit of memory. -/
abbrev Byte := BitVec 8
/-- An instruction word, a lane value, a mask. -/
abbrev Word32 := BitVec 32
/-- A scalar register. -/
abbrev Word64 := BitVec 64

/-- Bits [hi:lo] of a natural number, as a natural number. -/
def bitsOf (w hi lo : Nat) : Nat := w / 2 ^ lo % 2 ^ (hi + 1 - lo)

end Sys2Proof
end

