-- ==== Sys2Proof/Config.lean ====
section
/-!
DEFINITION. What the spec leaves open: uninterpreted values, each an opaque constant without a body. Nothing can be proved of a value
of one of them, so a statement holds whatever it is. The log entry that names each stands in its docstring.
-/

namespace Sys2Proof.Config

/-- Log 2. The reference cycles one step of the model takes, beyond the first (R2, R30: timing is outside the model). The argument is
the step's number. -/
opaque stepTime : Nat → Nat

/-- Log 2. How far a core's count of CYCLE is from the module's, up to 2 (R30): the core. -/
opaque clockSkew : Nat → Nat

/-- Log 10. The result a special function unit gives for an input, before the bounds of R186 are applied: operation number, input bits. -/
opaque sfu : Nat → BitVec 32 → BitVec 32

/-- Log 11. The converter's ASUM of R100: layer instance, column, exact sum. The bounds of R387 are applied to it. -/
opaque asum : Nat → Nat → Int → Int

/-- Log 11. The gain and offset a stack's calibration engine fits for a tile column (R389): stack, epoch, tile, column. -/
opaque epochGain : Nat → Nat → Nat → Nat → BitVec 32
opaque epochOffset : Nat → Nat → Nat → Nat → BitVec 32

/-- Log 11. The residual a calibration epoch leaves for a column of a tile (R391, R405): stack, epoch, tile, column. -/
opaque residual : Nat → Nat → Nat → Nat → BitVec 32

/-- Log 86. Table entries the walk cache of a cluster holds (R453), a size the spec does not give. -/
opaque walkCache : Nat

/-- Log 87. Whether the home slice's contention predictor finds a line contended (R294): the line, the state's counter. -/
opaque contended : Nat → Nat → Bool

/-- Log 12. Outside cryptographic standards (R470, R478, R479, R527 to R529), as uninterpreted functions of bytes. -/
opaque sha512 : List (BitVec 8) → BitVec 512
/-- Log 12. A signature, under the key named by the first argument, of a message. -/
opaque sign : Nat → List (BitVec 8) → List (BitVec 8)
/-- Log 12. Whether a signature verifies: key hash, message, signature. -/
opaque verify : BitVec 512 → List (BitVec 8) → List (BitVec 8) → Bool
/-- Log 12. Random bytes a partition's key is made from (R470): the draw's number. -/
opaque keyMaterial : Nat → BitVec 256
/-- Log 12. The certificates of the identity key and of the attestation key of a boot (R527): the number of the key's draw. -/
opaque certificates : Nat → List (BitVec 8)

/-- The module's identity (R527). Log 12. -/
opaque modId : BitVec 64

/-- Log 22. A byte of an operand range that no scratchpad share holds, though the range's first and last bytes lie in shares (R265, R377):
the state's counter, the offset. -/
opaque strayByte : Nat → Nat → BitVec 8

/-- Log 28. Whether a cluster passes its self-test at step 5 of boot (R526). -/
opaque selfTest : Nat → Bool
/-- Log 12. The firmware image step 1 of boot checks, its signature, and the key hash held in fuses (R526, R528): the boot's number. -/
opaque firmwareImage : Nat → List (BitVec 8)
opaque firmwareSig : Nat → List (BitVec 8)
opaque fuseHash : BitVec 512
/-- Log 102. A byte of memory read under another key than the one it was written under (R470, R471): the draw of the new key, the address. -/
opaque keyByte : Nat → Nat → BitVec 8
/-- Log 28. Whether a flit's CRC is right (R521); the spec names no polynomial. -/
opaque flitOk : List (BitVec 8) → Bool
/-- Log 103. The write a flit carries, if any (R503, R521), whose layout the spec does not give: source module, address, bytes. -/
opaque flitWrite : List (BitVec 8) → Option (Nat × Nat × List (BitVec 8))

/-- Log 27. The 64 bytes of a replay entry in a gang image, whose layout the spec does not give (R487): the name of the work, the entry's
number; TROUPE and batch number, with which it is tagged. -/
opaque replayRecord : Nat → Nat → Nat → Nat → BitVec 512

/-- Log 118. The LPDDR-6 row of its stack that a physical address of the module lies in, which the spec does not lay out (R515). -/
opaque rowOf : Nat → Nat

/-- Log 2. A free natural number for a choice the spec leaves open and bounds in the text: the counter of the state. -/
opaque freeNat : Nat → Nat

end Sys2Proof.Config
end

