-- ==== Sys2Proof/Machine/Bits.lean ====
section
/-!
DEFINITION. Integer operations on words: the edge cases of R77, counts, reversals, packed parts (R76) and bit fields (R114, R180).
-/

namespace Sys2Proof.Machine

/-- A bit as a word. -/
def ofBool {w : Nat} (b : Bool) : BitVec w := if b then 1 else 0

/-- Number of one bits, counting the lowest `n` bits of `x`. -/
def popNat : Nat → Nat → Nat
  | 0, _ => 0
  | n + 1, x => x % 2 + popNat n (x / 2)

/-- Number of leading zero bits of an `n`-bit number. -/
def clzNat (n x : Nat) : Nat := if x = 0 then n else n - 1 - Nat.log2 x

/-- Number of trailing zero bits, at most `n`. -/
def ctzNat : Nat → Nat → Nat
  | 0, _ => 0
  | n + 1, x => if x % 2 = 1 then 0 else 1 + ctzNat n (x / 2)

/-- The lowest `n` bits of `x` in reverse order. -/
def brevNat : Nat → Nat → Nat
  | 0, _ => 0
  | n + 1, x => x % 2 * 2 ^ n + brevNat n (x / 2)

def popc {w : Nat} (x : BitVec w) : BitVec w := .ofNat w (popNat w x.toNat)
def clz {w : Nat} (x : BitVec w) : BitVec w := .ofNat w (clzNat w x.toNat)
def ctz {w : Nat} (x : BitVec w) : BitVec w := .ofNat w (ctzNat w x.toNat)
def brev {w : Nat} (x : BitVec w) : BitVec w := .ofNat w (brevNat w x.toNat)

/-- Bits [2w-1:w] of the signed product (R77). -/
def mulh {w : Nat} (x y : BitVec w) : BitVec w := .ofInt w (x.toInt * y.toInt / 2 ^ w)
/-- Bits [2w-1:w] of the natural product (R77). -/
def mulhn {w : Nat} (x y : BitVec w) : BitVec w := .ofNat w (x.toNat * y.toNat / 2 ^ w)

/-- Signed quotient, truncated toward zero; by zero all ones; MIN by −1 gives MIN (R77). -/
def divs {w : Nat} (x y : BitVec w) : BitVec w :=
  if y = 0 then .allOnes w else .ofInt w (Int.tdiv x.toInt y.toInt)
/-- Natural quotient; by zero all ones (R77). -/
def divn {w : Nat} (x y : BitVec w) : BitVec w :=
  if y = 0 then .allOnes w else .ofNat w (x.toNat / y.toNat)
/-- Signed remainder with the dividend's sign; by zero the dividend; MIN by −1 gives 0 (R77). -/
def rems {w : Nat} (x y : BitVec w) : BitVec w :=
  if y = 0 then x else .ofInt w (Int.tmod x.toInt y.toInt)
/-- Natural remainder; by zero the dividend (R77). -/
def remn {w : Nat} (x y : BitVec w) : BitVec w :=
  if y = 0 then x else .ofNat w (x.toNat % y.toNat)

def mins {w : Nat} (x y : BitVec w) : BitVec w := if x.toInt ≤ y.toInt then x else y
def maxs {w : Nat} (x y : BitVec w) : BitVec w := if x.toInt ≤ y.toInt then y else x
def minn {w : Nat} (x y : BitVec w) : BitVec w := if x.toNat ≤ y.toNat then x else y
def maxn {w : Nat} (x y : BitVec w) : BitVec w := if x.toNat ≤ y.toNat then y else x

/-- An exact signed result clamped to the range of `w` bits (R77). -/
def clampS (w : Nat) (v : Int) : BitVec w :=
  if v < -(2 ^ (w - 1)) then .ofInt w (-(2 ^ (w - 1))) else if 2 ^ (w - 1) - 1 < v then .ofInt w (2 ^ (w - 1) - 1) else .ofInt w v
/-- An exact natural result clamped to 0 … 2^w − 1 (R77). -/
def clampN (w : Nat) (v : Int) : BitVec w :=
  if v < 0 then 0 else if 2 ^ w - 1 < v then .allOnes w else .ofInt w v

def addsS {w : Nat} (x y : BitVec w) : BitVec w := clampS w (x.toInt + y.toInt)
def subsS {w : Nat} (x y : BitVec w) : BitVec w := clampS w (x.toInt - y.toInt)
def addsN {w : Nat} (x y : BitVec w) : BitVec w := clampN w (x.toNat + y.toNat)
def subsN {w : Nat} (x y : BitVec w) : BitVec w := clampN w ((x.toNat : Int) - y.toNat)
/-- floor((x + y + 1) / 2), signed and exact (R77). -/
def avgS {w : Nat} (x y : BitVec w) : BitVec w := .ofInt w ((x.toInt + y.toInt + 1) / 2)
/-- floor((x + y + 1) / 2), natural and exact (R77). -/
def avgN {w : Nat} (x y : BitVec w) : BitVec w := .ofNat w ((x.toNat + y.toNat + 1) / 2)
/-- abs as signed; MIN gives MIN (R77). -/
def absS {w : Nat} (x : BitVec w) : BitVec w := if x.toInt < 0 then -x else x

/-- Applies an operation to each 16-bit part (R76). -/
def parts16 (f : BitVec 16 → BitVec 16 → BitVec 16) (x y : Word32) : Word32 :=
  f (x.extractLsb' 16 16) (y.extractLsb' 16 16) ++ f (x.extractLsb' 0 16) (y.extractLsb' 0 16)
/-- Applies an operation to each 8-bit part (R76). -/
def parts8 (f : BitVec 8 → BitVec 8 → BitVec 8) (x y : Word32) : Word32 :=
  f (x.extractLsb' 24 8) (y.extractLsb' 24 8) ++ f (x.extractLsb' 16 8) (y.extractLsb' 16 8) ++
    f (x.extractLsb' 8 8) (y.extractLsb' 8 8) ++ f (x.extractLsb' 0 8) (y.extractLsb' 0 8)

/-- The field mask (2^len − 1) × 2^pos of R114 and R180. -/
def fieldMask (w pos len : Nat) : BitVec w := .ofNat w ((2 ^ len - 1) * 2 ^ pos)
/-- BFX of R114: the field, zero-extended. -/
def bfx {w : Nat} (x : BitVec w) (pos len : Nat) : BitVec w := (x &&& fieldMask w pos len) >>> pos
/-- BFI of R114: the field of `x` inserted into `z`. -/
def bfi {w : Nat} (z x : BitVec w) (pos len : Nat) : BitVec w :=
  (z &&& ~~~ fieldMask w pos len) ||| ((x <<< pos) &&& fieldMask w pos len)

/-- The Mix function of R91. -/
def mix (seed id ctr : Word64) : Word64 :=
  let z := seed + 0x9E3779B97F4A7C15 * (id + 1)
  let z := z ^^^ (ctr * 0xD6E8FEB86659FD93)
  let z := (z ^^^ (z >>> 30)) * 0xBF58476D1CE4E5B9
  let z := (z ^^^ (z >>> 27)) * 0x94D049BB133111EB
  z ^^^ (z >>> 31)

/-- The integer square root, one bit of the root at a time from bit `n - 1` down. -/
def isqrt (n x : Nat) : Nat := go n 0
where
  go : Nat → Nat → Nat
  | 0, r => r
  | k + 1, r => if (r + 2 ^ k) * (r + 2 ^ k) ≤ x then go k (r + 2 ^ k) else go k r

end Sys2Proof.Machine
end

