-- ==== Sys2Proof/Machine/Float.lean ====
section
/-!
DEFINITION. Binary floating point (spec/04): a value is exact until it is rounded once. Formats of R78 and R79, special values of R83 to
R85, rounding of R87 to R89, saturation and edges of R95 to R97.
-/

namespace Sys2Proof.Machine

/-- A floating-point value: NaN, an infinity, or a signed magnitude `m × 2^e`. -/
inductive FVal where
  | nan
  | inf (neg : Bool)
  | fin (neg : Bool) (m : Nat) (e : Int)
  deriving DecidableEq, Repr

/-- How a format spends its top codes: infinities and NaNs, one NaN code and no infinity (E4M3), or neither (R79). -/
inductive Specials where
  | ieee | nanOnly | none
  deriving DecidableEq, Repr

/-- A binary format: exponent and fraction widths, bias, specials, canonical NaN (R78, R79). -/
structure Fmt where
  ebits : Nat
  fbits : Nat
  bias  : Nat
  spec  : Specials
  qnan  : Nat
  deriving DecidableEq, Repr

def fp64 : Fmt := ⟨11, 52, 1023, .ieee, 0x7FF8000000000000⟩
def fp32 : Fmt := ⟨8, 23, 127, .ieee, 0x7FC00000⟩
def fp16 : Fmt := ⟨5, 10, 15, .ieee, 0x7E00⟩
def bf16 : Fmt := ⟨8, 7, 127, .ieee, 0x7FC0⟩
def e4m3 : Fmt := ⟨4, 3, 7, .nanOnly, 0x7F⟩
def e5m2 : Fmt := ⟨5, 2, 15, .ieee, 0x7E⟩
def e3m2 : Fmt := ⟨3, 2, 3, .none, 0⟩
def e2m3 : Fmt := ⟨2, 3, 1, .none, 0⟩
def e2m1 : Fmt := ⟨2, 1, 1, .none, 0⟩

/-- The exponent of the format's quantum for subnormals. -/
def Fmt.minQ (f : Fmt) : Int := 1 - (f.bias : Int) - f.fbits
/-- The sign bit's weight. -/
def Fmt.signBit (f : Fmt) : Nat := 2 ^ (f.ebits + f.fbits)
/-- The code of the largest finite magnitude (R78, R79). -/
def Fmt.maxCode (f : Fmt) : Nat :=
  match f.spec with
  | .ieee => (2 ^ f.ebits - 1) * 2 ^ f.fbits - 1
  | .nanOnly => f.signBit - 2
  | .none => f.signBit - 1

/-- The value of a code (R78, R79). -/
def Fmt.unpack (f : Fmt) (code : Nat) : FVal :=
  let mag := code % f.signBit
  let neg := decide (code / f.signBit % 2 = 1)
  let ex := mag / 2 ^ f.fbits
  let fr := mag % 2 ^ f.fbits
  if f.maxCode < mag then
    if f.spec = .ieee ∧ fr = 0 then .inf neg else .nan
  else if ex = 0 then .fin neg fr f.minQ
  else .fin neg (fr + 2 ^ f.fbits) (f.minQ + ex - 1)

/-- The magnitude code of `m × 2^q`, a value the format holds. -/
def Fmt.packMag (f : Fmt) (m : Nat) (q : Int) : Nat :=
  if m = 0 then 0 else
    let k := Nat.log2 m
    let top := q + k
    if top < 1 - (f.bias : Int) then m * 2 ^ (q - f.minQ).toNat
    else (top + f.bias).toNat * 2 ^ f.fbits + (m * 2 ^ f.fbits / 2 ^ k - 2 ^ f.fbits)

def Fmt.signed (f : Fmt) (neg : Bool) (mag : Nat) : Nat := if neg then f.signBit + mag else mag
/-- An infinity's code; of a format without one, the largest finite code. -/
def Fmt.infCode (f : Fmt) (neg : Bool) : Nat :=
  match f.spec with
  | .ieee => f.signed neg (f.maxCode + 1)
  | _ => f.signed neg f.maxCode

/-- The rounding modes of R87, in code order 1 to 6. -/
inductive RMode where
  | rne | rtz | rdn | rup | rna | sr
  deriving DecidableEq, Repr

/-- Whether a magnitude whose kept part is `kept` and whose discarded part is `rem` of `2^sh` rounds away from zero (R87, R89).
`rho` is the 16-bit random value of SR. R89's steps and its last sentence differ where f is no multiple of 2^-16; the model takes the steps
(log 92). -/
def roundsUp (mode : RMode) (rho : Nat) (neg : Bool) (kept rem sh : Nat) : Bool :=
  match mode with
  | .rne => decide (2 ^ sh < 2 * rem) || (decide (2 ^ sh = 2 * rem) && decide (kept % 2 = 1))
  | .rtz => false
  | .rdn => neg && decide (0 < rem)
  | .rup => !neg && decide (0 < rem)
  | .rna => decide (2 ^ sh ≤ 2 * rem)
  | .sr => decide (2 ^ (sh + 16) ≤ rem * 2 ^ 16 + rho * 2 ^ sh)

/-- `m × 2^e` rounded to a multiple of `2^q`: the multiple. A far smaller magnitude than the quantum is first replaced by 2^-32 of
it, which every mode rounds alike. -/
def roundQ (mode : RMode) (rho : Nat) (neg : Bool) (m : Nat) (e q : Int) : Nat :=
  if m = 0 then 0
  else if q ≤ e then m * 2 ^ (e - q).toNat
  else
    let sh := (q - e).toNat
    let (m, sh) := if Nat.log2 m + 33 < sh then (1, 32) else (m, sh)
    let kept := m / 2 ^ sh
    if roundsUp mode rho neg kept (m % 2 ^ sh) sh then kept + 1 else kept

/-- Where R88 sends an overflow: to infinity, or to the largest finite value. -/
def overflowsToInf (mode : RMode) (neg : Bool) : Bool :=
  match mode with
  | .rne | .rna | .sr => true
  | .rtz => false
  | .rdn => neg
  | .rup => !neg

/-- What an overflow, an infinity or a NaN becomes in the destination. -/
inductive OvForm where
  /-- R88; formats without infinity by R97 -/
  | plain
  /-- R95 -/
  | sat
  deriving DecidableEq, Repr

/-- A finite overflow's code by R88, R95, R97. -/
def Fmt.overflowCode (f : Fmt) (form : OvForm) (mode : RMode) (neg : Bool) : Nat :=
  match form with
  | .sat => f.signed neg f.maxCode
  | .plain =>
    match f.spec with
    | .none => f.signed neg f.maxCode
    | .nanOnly => if overflowsToInf mode neg then f.signed neg (f.maxCode + 1) else f.signed neg f.maxCode
    | .ieee => if overflowsToInf mode neg then f.infCode neg else f.signed neg f.maxCode

/-- Rounds an exact value to a code of the format, once (R87 to R89, R95, R97). -/
def Fmt.round (f : Fmt) (form : OvForm) (mode : RMode) (rho : Nat) (x : FVal) : Nat :=
  match x with
  | .nan => f.qnan
  | .inf neg =>
    match form, f.spec with
    | .plain, .ieee => f.infCode neg
    | .plain, .nanOnly => f.signed neg (f.maxCode + 1)
    | _, _ => f.signed neg f.maxCode
  | .fin neg 0 _ => f.signed neg 0
  | .fin neg m e =>
    let q := max (e + Nat.log2 m - f.fbits) f.minQ
    let mag := f.packMag (roundQ mode rho neg m e q) q
    if f.maxCode < mag then f.overflowCode form mode neg else f.signed neg mag

/-- The plain rounding to FP32, as most instructions use it. -/
def round32 (mode : RMode) (rho : Nat) (x : FVal) : Word32 := .ofNat 32 (fp32.round .plain mode rho x)
def val32 (x : Word32) : FVal := fp32.unpack x.toNat

def FVal.neg : FVal → FVal
  | .nan => .nan
  | .inf s => .inf (!s)
  | .fin s m e => .fin (!s) m e

def FVal.isNan : FVal → Bool
  | .nan => true
  | _ => false

/-- The signed integer a finite value is, in units of `2^q`, for a `q` at or below its exponent. -/
def FVal.units (q : Int) : FVal → Int
  | .fin s m e => (if s then -1 else 1) * (m * 2 ^ (e - q).toNat : Nat)
  | _ => 0

/-- The least exponent among finite values. -/
def minExp : List FVal → Int → Int
  | [], q => q
  | .fin _ _ e :: xs, q => minExp xs (min e q)
  | _ :: xs, q => minExp xs q

def FVal.isNegZero : FVal → Bool
  | .fin true 0 _ => true
  | _ => false
def FVal.isPosZero : FVal → Bool
  | .fin false 0 _ => true
  | _ => false

/-- The exact sum of values (R85, R103): NaN with a NaN or with infinities of both signs; an exact zero takes the sign its terms
share, else + (− in RDN). -/
def sumExact (mode : RMode) (xs : List FVal) : FVal :=
  if xs.any FVal.isNan then .nan
  else if xs.contains (.inf true) && xs.contains (.inf false) then .nan
  else if xs.contains (.inf true) then .inf true
  else if xs.contains (.inf false) then .inf false
  else
    let q := minExp xs 0
    let v := (xs.map (FVal.units q)).foldl (· + ·) 0
    if v = 0 then
      if xs.all FVal.isNegZero && !xs.isEmpty then .fin true 0 0
      else if xs.all FVal.isPosZero then .fin false 0 0
      else .fin (mode == .rdn) 0 0
    else .fin (decide (v < 0)) v.natAbs q

/-- The exact product; ∞ × 0 is NaN (R85). -/
def FVal.mul : FVal → FVal → FVal
  | .nan, _ | _, .nan => .nan
  | .inf s, .inf t => .inf (s != t)
  | .inf s, .fin t m _ => if m = 0 then .nan else .inf (s != t)
  | .fin s m _, .inf t => if m = 0 then .nan else .inf (s != t)
  | .fin s m e, .fin t n f => .fin (s != t) (m * n) (e + f)

/-- The quotient to 130 further bits and a sticky bit: enough for one rounding to any format. -/
def FVal.div : FVal → FVal → FVal
  | .nan, _ | _, .nan => .nan
  | .inf _, .inf _ => .nan
  | .inf s, .fin t _ _ => .inf (s != t)
  | .fin s _ _, .inf t => .fin (s != t) 0 0
  | .fin s m e, .fin t n f =>
    if n = 0 then (if m = 0 then .nan else .inf (s != t))
    else
      let a := m * 2 ^ 130
      .fin (s != t) (2 * (a / n) + (if a % n = 0 then 0 else 1)) (e - f - 131)

/-- The square root to at least 60 bits and a sticky bit; of a negative number NaN, of −0 itself (R187). -/
def FVal.sqrt : FVal → FVal
  | .nan => .nan
  | .inf s => if s then .nan else .inf false
  | .fin s m e =>
    if m = 0 then .fin s 0 0
    else if s then .nan
    else
      let (m, e) := if e % 2 = 0 then (m, e) else (2 * m, e - 1)
      let a := m * 2 ^ 120
      let r := isqrt 90 a
      .fin false (2 * r + (if r * r = a then 0 else 1)) (e / 2 - 61)

/-- The order of two values; none when either is NaN. −0 and +0 are equal (R119, R176). -/
def FVal.cmp (x y : FVal) : Option Ordering :=
  let key (v : FVal) : Int :=        -- beyond every finite value
    match v with
    | .inf true => -2
    | .inf false => 2
    | _ => 0
  if x.isNan || y.isNan then none
  else if key x != 0 || key y != 0 then some (compare (key x) (key y))
  else
    let q := minExp [x, y] 0
    some (compare (x.units q) (y.units q))

/-- The smaller of two codes by R85: the other operand beside a NaN, the canonical NaN for two, −0 below +0. -/
def Fmt.minCode (f : Fmt) (a b : Nat) : Nat :=
  match (f.unpack a).cmp (f.unpack b) with
  | none => if (f.unpack a).isNan then (if (f.unpack b).isNan then f.qnan else b) else a
  | some .lt => a
  | some .gt => b
  | some .eq => if (f.unpack a).isNegZero then a else b
/-- The larger of two codes by R85. -/
def Fmt.largerCode (f : Fmt) (a b : Nat) : Nat :=
  match (f.unpack a).cmp (f.unpack b) with
  | none => if (f.unpack a).isNan then (if (f.unpack b).isNan then f.qnan else b) else a
  | some .gt => a
  | some .lt => b
  | some .eq => if (f.unpack a).isNegZero then b else a

/-- A code with a NaN made canonical (R83). -/
def Fmt.canon (f : Fmt) (a : Nat) : Nat := if (f.unpack a).isNan then f.qnan else a
/-- The sign cleared; a NaN canonical (R173, R174). -/
def Fmt.absCode (f : Fmt) (a : Nat) : Nat := if (f.unpack a).isNan then f.qnan else a % f.signBit
/-- The sign inverted; a NaN canonical (R173, R174). -/
def Fmt.negCode (f : Fmt) (a : Nat) : Nat :=
  if (f.unpack a).isNan then f.qnan else if a / f.signBit % 2 = 1 then a % f.signBit else f.signBit + a % f.signBit

/-- A subnormal replaced by a zero of its sign (R86). -/
def Fmt.flush (f : Fmt) (x : FVal) : FVal :=
  match x with
  | .fin s m e => if e = f.minQ ∧ m < 2 ^ f.fbits then .fin s 0 0 else .fin s m e
  | x => x

/-- A float as an integer in [lo, hi] by R96: `edge` is the plain form's value beyond the range, for ±∞ and for NaN. -/
def toIntR96 (sat : Bool) (mode : RMode) (rho : Nat) (lo hi edge : Int) (x : FVal) : Int :=
  match x with
  | .nan => if sat then 0 else edge
  | .inf s => if sat then (if s then lo else hi) else edge
  | .fin s m e =>
    -- a magnitude of 2^70 or more is beyond every range
    if m ≠ 0 ∧ 70 < e + Nat.log2 m then (if sat then (if s then lo else hi) else edge)
    else
      let r := roundQ mode rho s m e 0
      let v : Int := if s then -r else r
      if v < lo then (if sat then lo else edge) else if hi < v then (if sat then hi else edge) else v

/-- An integer as an exact value. -/
def ofIntVal (v : Int) : FVal := .fin (decide (v < 0)) v.natAbs 0

/-- VSCALE (R174): x × 2^n rounded once. -/
def scale32 (mode : RMode) (rho : Nat) (x : Word32) (n : Int) : Word32 :=
  match val32 x with
  | .fin s m e => round32 mode rho (.fin s m (e + n))
  | v => round32 mode rho v
/-- VGETEXP (R174). -/
def getexp32 (x : Word32) : Word32 :=
  match val32 x with
  | .nan => 0x7FC00000
  | .inf _ => 0x7F800000
  | .fin _ m e => if m = 0 then 0xFF800000 else round32 .rne 0 (ofIntVal (e + Nat.log2 m))
/-- VRND (R174): a zero result keeps the sign. -/
def rnd32 (mode : RMode) (rho : Nat) (x : Word32) : Word32 :=
  match val32 x with
  | .fin s m e => if 0 ≤ e then x else round32 .rne 0 (.fin s (roundQ mode rho s m e 0) 0)
  | v => round32 mode rho v
/-- VCLAMP (R173): the smaller of c and the larger of x and y. -/
def clamp32 (x y c : Word32) : Word32 := .ofNat 32 (fp32.minCode c.toNat (fp32.largerCode x.toNat y.toNat))

end Sys2Proof.Machine
end

