-- ==== Sys2Proof/Syntax.lean ====
section
/-!
DEFINITION. The instructions of Teuri: one constructor per row of spec/opcode_table.json.
The 271 words a troupe fetches, the 17 micro-op words a stack sequencer runs, and the 111 events that have no encoding
(spec/95: "steps, each whole and indivisible"). Operands are decoded: registers of class s, v and k by number, raw immediates
as their field's bits, codes as the names of the spec's tables.
-/

namespace Sys2Proof

/-- A scalar register number, class s of R35. -/
abbrev SReg := BitVec 6
/-- A vector register number, class v of R35 (the allocation bound is checked when the instruction runs). -/
abbrev VReg := BitVec 7
/-- A mask register number, class k of R35. -/
abbrev KReg := BitVec 3

/-- VCMPF conditions (R176), in code order. -/
inductive FCond where
  | eq | ne | lt | le | gt | ge | un | or
  deriving DecidableEq, Repr

/-- VCMPI conditions (R182), in code order. -/
inductive ICond where
  | eq | ne | lt | le | gt | ge | ltn | len | gtn | gen
  deriving DecidableEq, Repr

/-- BRC conditions (R126), in code order. -/
inductive BrCond where
  | eqz | nez | ltz | gez | lez | gtz
  deriving DecidableEq, Repr

/-- VCVT conversions (R50), in code order. -/
inductive CvtCode where
  | f32ToI32 | f32ToN32 | i32ToF32 | n32ToF32 | f32ToF16 | f16ToF32 | f32ToBf16 | bf16ToF32 | f32ToE4m3 | f32ToE5m2 | e4m3ToF32 | e5m2ToF32 | f32ToE2m1 | e2m1ToF32 | f32ToI8 | i8ToF32
  deriving DecidableEq, Repr

/-- VRED and VSCAN operations (R202), in code order. -/
inductive RedOp where
  | addI32 | addF32 | minI32 | maxI32 | minN32 | maxN32 | minF32 | maxF32 | and | or | xor
  deriving DecidableEq, Repr

/-- AMOA operations (R292), in code order. -/
inductive AmoaOp where
  | addI32 | addI64 | min | max | minn | maxn | faddF32 | faddBf16 | fminF32 | fmaxF32 | incWrap
  deriving DecidableEq, Repr

/-- AMOL operations (R293), in code order. -/
inductive AmolOp where
  | and | or | xor | swap | cas32 | cas64 | and64 | or64 | xor64
  deriving DecidableEq, Repr

/-- WAITC conditions (R297, R298), fn 4 to 7. -/
inductive WaitCond where
  | ge | eq | ne | gen
  deriving DecidableEq, Repr

/-- COPY element sizes (R348), fn 0 to 2. -/
inductive CopySize where
  | b4 | b8 | b16
  deriving DecidableEq, Repr

/-- COPYR operations (R349), in code order. -/
inductive CopyrOp where
  | addI32 | addF32 | addBf16 | addBf16SrSat | addBf16Sr | minI32 | maxI32 | and | or
  deriving DecidableEq, Repr

/-- Scopes of ORD (R43), in code order. -/
inductive OrdScope where
  | troupe | gang | device | system
  deriving DecidableEq, Repr

/-- Orders of ORD (R43), in code order. -/
inductive OrdOrder where
  | relaxed | acquire | release | acqRel
  deriving DecidableEq, Repr

/-- The two path slots of a troupe (R136). -/
inductive SlotId where
  | P | Q
  deriving DecidableEq, Repr

/-- Names a path of a resident gang: the gang's id in the model, the troupe's index, the slot. -/
structure PathId where
  gang   : Nat
  troupe : Nat
  slot   : SlotId
  deriving DecidableEq, Repr

/-- Who waits on a monitor: a path in WAITC, or the ringmaster for a card of a queue (R249, R298, R299). -/
inductive Watcher where
  | path (p : PathId)
  | card (q : Nat)
  deriving DecidableEq, Repr

/-- The six prices a PRICE_TABLE_UPDATE publishes (R231, R232): one token count per kind of wide work. -/
structure PriceArgs where
  mac16 : BitVec 32
  mac8  : BitVec 32
  mac4  : BitVec 32
  pass  : BitVec 32
  bsqp  : BitVec 32
  copyb : BitVec 32
  deriving DecidableEq, Repr

/-- What a DRAIN or RESUME command names (R482). -/
inductive DrainScope where
  | queue (q : Nat)
  | partition (p : Nat)
  | clusters (cs : List Nat)
  deriving DecidableEq, Repr

/-- Every row of the opcode table. -/
inductive Instr where
  /-- R110. Writes s[a] + s[b] modulo 2^64 to s[d]. -/
  | add (d : SReg) (a : SReg) (b : SReg)
  /-- R110. Writes s[a] - s[b] modulo 2^64 to s[d]. -/
  | sub (d : SReg) (a : SReg) (b : SReg)
  /-- R110. Writes the low 64 bits of the product to s[d]. -/
  | mul (d : SReg) (a : SReg) (b : SReg)
  /-- R110. Writes bits [127:64] of the signed product to s[d]. -/
  | mulh (d : SReg) (a : SReg) (b : SReg)
  /-- R110. Writes bits [127:64] of the natural product to s[d]. -/
  | mulhn (d : SReg) (a : SReg) (b : SReg)
  /-- R110. Writes the signed quotient, truncated toward zero, with the edge results of R77. -/
  | div (d : SReg) (a : SReg) (b : SReg)
  /-- R110. Writes the natural quotient, all ones for a zero divisor. -/
  | divn (d : SReg) (a : SReg) (b : SReg)
  /-- R110. Writes the signed remainder, which has the sign of the dividend. -/
  | rem (d : SReg) (a : SReg) (b : SReg)
  /-- R110. Writes the natural remainder. -/
  | remn (d : SReg) (a : SReg) (b : SReg)
  /-- R110. Writes the signed smaller of s[a] and s[b]. -/
  | min (d : SReg) (a : SReg) (b : SReg)
  /-- R110. Writes the signed larger of s[a] and s[b]. -/
  | max (d : SReg) (a : SReg) (b : SReg)
  /-- R110. Writes the natural smaller of s[a] and s[b]. -/
  | minn (d : SReg) (a : SReg) (b : SReg)
  /-- R110. Writes the natural larger of s[a] and s[b]. -/
  | maxn (d : SReg) (a : SReg) (b : SReg)
  /-- R112. Writes s[a] AND s[b]. -/
  | and (d : SReg) (a : SReg) (b : SReg)
  /-- R112. Writes s[a] OR s[b]. -/
  | or (d : SReg) (a : SReg) (b : SReg)
  /-- R112. Writes s[a] XOR s[b]. -/
  | xor (d : SReg) (a : SReg) (b : SReg)
  /-- R112. Writes s[a] AND NOT s[b]. -/
  | andn (d : SReg) (a : SReg) (b : SReg)
  /-- R112. Shifts s[a] left by s[b] mod 64. -/
  | shl (d : SReg) (a : SReg) (b : SReg)
  /-- R112. Shifts s[a] right logically by s[b] mod 64. -/
  | shr (d : SReg) (a : SReg) (b : SReg)
  /-- R112. Shifts s[a] right arithmetically by s[b] mod 64. -/
  | sar (d : SReg) (a : SReg) (b : SReg)
  /-- R112. Writes 1 when s[a] = s[b], else 0. -/
  | seq (d : SReg) (a : SReg) (b : SReg)
  /-- R112. Writes 1 when s[a] differs from s[b], else 0. -/
  | sne (d : SReg) (a : SReg) (b : SReg)
  /-- R112. Writes 1 when s[a] < s[b] as signed numbers. -/
  | slt (d : SReg) (a : SReg) (b : SReg)
  /-- R112. Writes 1 when s[a] < s[b] as natural numbers. -/
  | sltn (d : SReg) (a : SReg) (b : SReg)
  /-- R113. Writes s[a] when the old s[d] is nonzero, else s[b]. -/
  | sel (d : SReg) (a : SReg) (b : SReg)
  /-- R112. Counts the leading zero bits of s[a]. -/
  | clz (d : SReg) (a : SReg)
  /-- R112. Counts the trailing zero bits of s[a]. -/
  | ctz (d : SReg) (a : SReg)
  /-- R112. Counts the one bits of s[a]. -/
  | popc (d : SReg) (a : SReg)
  /-- R112. Reverses the bit order of s[a]. -/
  | brev (d : SReg) (a : SReg)
  /-- R114. Extracts a zero-extended bit field of s[a] at pos and len. -/
  | bfx (d : SReg) (a : SReg) (pos : BitVec 6) (len : BitVec 5)
  /-- R114. Inserts the low bits of s[a] into a field of s[d]. -/
  | bfi (d : SReg) (a : SReg) (pos : BitVec 6) (len : BitVec 5)
  /-- R115. Adds a sign-extended immediate to s[a]. -/
  | addi (d : SReg) (a : SReg) (imm : BitVec 11)
  /-- R115. ANDs s[a] with a zero-extended immediate. -/
  | andi (d : SReg) (a : SReg) (imm : BitVec 11)
  /-- R115. ORs s[a] with a zero-extended immediate. -/
  | ori (d : SReg) (a : SReg) (imm : BitVec 11)
  /-- R115. XORs s[a] with a zero-extended immediate. -/
  | xori (d : SReg) (a : SReg) (imm : BitVec 11)
  /-- R115. Shifts s[a] left by an immediate count. -/
  | shli (d : SReg) (a : SReg) (n : BitVec 6)
  /-- R115. Shifts s[a] right logically by an immediate count. -/
  | shri (d : SReg) (a : SReg) (n : BitVec 6)
  /-- R115. Shifts s[a] right arithmetically by an immediate count. -/
  | sari (d : SReg) (a : SReg) (n : BitVec 6)
  /-- R115. Writes 1 when s[a] is below a signed immediate. -/
  | slti (d : SReg) (a : SReg) (imm : BitVec 11)
  /-- R116. Writes a sign-extended immediate to s[d]. -/
  | movi (d : SReg) (imm : BitVec 18)
  /-- R116. Writes the address of its own word plus a byte offset to s[d]. -/
  | addpc (d : SReg) (imm : BitVec 18)
  /-- R118. Adds two FP64 values with one rounding. -/
  | sfaddF64 (d : SReg) (a : SReg) (b : SReg)
  /-- R118. Subtracts two FP64 values with one rounding. -/
  | sfsubF64 (d : SReg) (a : SReg) (b : SReg)
  /-- R118. Multiplies two FP64 values with one rounding. -/
  | sfmulF64 (d : SReg) (a : SReg) (b : SReg)
  /-- R118. Computes the FP64 fused value x*y + old s[d] with one rounding. -/
  | sffmaF64 (d : SReg) (a : SReg) (b : SReg)
  /-- R118. Divides two FP64 values, correctly rounded. -/
  | sfdivF64 (d : SReg) (a : SReg) (b : SReg)
  /-- R119. Writes the compare code 1, 2, 4 or 8 for two FP64 values. -/
  | sfcmpF64 (d : SReg) (a : SReg) (b : SReg)
  /-- R120. Converts an FP64 value or integer by the code held in s[b]. -/
  | sfcvtF64 (d : SReg) (a : SReg) (b : SReg)
  /-- R118. Adds two FP32 values with one rounding. -/
  | sfaddF32 (d : SReg) (a : SReg) (b : SReg)
  /-- R118. Subtracts two FP32 values with one rounding. -/
  | sfsubF32 (d : SReg) (a : SReg) (b : SReg)
  /-- R118. Multiplies two FP32 values with one rounding. -/
  | sfmulF32 (d : SReg) (a : SReg) (b : SReg)
  /-- R118. Computes the FP32 fused value x*y + old s[d] with one rounding. -/
  | sffmaF32 (d : SReg) (a : SReg) (b : SReg)
  /-- R118. Divides two FP32 values, correctly rounded. -/
  | sfdivF32 (d : SReg) (a : SReg) (b : SReg)
  /-- R119. Writes the compare code 1, 2, 4 or 8 for two FP32 values. -/
  | sfcmpF32 (d : SReg) (a : SReg) (b : SReg)
  /-- R120. Converts an FP32 value or integer by the code held in s[b]. -/
  | sfcvtF32 (d : SReg) (a : SReg) (b : SReg)
  /-- R122. Loads one byte, zero-extended, into s[d]. -/
  | ldb (d : SReg) (sa : SReg) (nd : BitVec 4) (imm : BitVec 8)
  /-- R122. Loads one byte, sign-extended, into s[d]. -/
  | ldbs (d : SReg) (sa : SReg) (nd : BitVec 4) (imm : BitVec 8)
  /-- R122. Loads two bytes, zero-extended, into s[d]. -/
  | ldh (d : SReg) (sa : SReg) (nd : BitVec 4) (imm : BitVec 8)
  /-- R122. Loads two bytes, sign-extended, into s[d]. -/
  | ldhs (d : SReg) (sa : SReg) (nd : BitVec 4) (imm : BitVec 8)
  /-- R122. Loads four bytes, zero-extended, into s[d]. -/
  | ldw (d : SReg) (sa : SReg) (nd : BitVec 4) (imm : BitVec 8)
  /-- R122. Loads four bytes, sign-extended, into s[d]. -/
  | ldws (d : SReg) (sa : SReg) (nd : BitVec 4) (imm : BitVec 8)
  /-- R122. Loads eight bytes into s[d]. -/
  | ldd (d : SReg) (sa : SReg) (nd : BitVec 4) (imm : BitVec 8)
  /-- R122. Stores bits [7:0] of s[d]. -/
  | stb (d : SReg) (sa : SReg) (nd : BitVec 4) (imm : BitVec 8)
  /-- R122. Stores bits [15:0] of s[d]. -/
  | sth (d : SReg) (sa : SReg) (nd : BitVec 4) (imm : BitVec 8)
  /-- R122. Stores bits [31:0] of s[d]. -/
  | stw (d : SReg) (sa : SReg) (nd : BitVec 4) (imm : BitVec 8)
  /-- R122. Stores all 64 bits of s[d]. -/
  | std (d : SReg) (sa : SReg) (nd : BitVec 4) (imm : BitVec 8)
  /-- R126. Transfers the path to a PC-relative target after checking it. -/
  | br (disp : BitVec 25)
  /-- R126. Transfers the path when the condition holds for s[a]. -/
  | brc (c : BrCond) (a : SReg) (disp : BitVec 14)
  /-- R126. Writes the return address to s62 and transfers to a relative target. -/
  | call (disp : BitVec 25)
  /-- R126. Writes the return address to s62 and transfers to s[a]. -/
  | callr (a : SReg)
  /-- R126. Transfers the path to s62. -/
  | ret
  /-- R126. Transfers the path to s[a]. -/
  | jmpr (a : SReg)
  /-- R129. Reads a special register into s[d]. -/
  | mfs (d : SReg) (n : BitVec 7)
  /-- R129. Writes a legal value to a writable special register. -/
  | mts (n : BitVec 7) (a : SReg)
  /-- R131. Consumes one issue slot and does nothing else. -/
  | nop
  /-- R132. Raises a BRK trap that carries a 14-bit code. -/
  | brk (code : BitVec 14)
  /-- R132. Raises a SYS trap that carries a 14-bit code. -/
  | sys (code : BitVec 14)
  /-- R130. Writes the CYCLE count to s[d]. -/
  | clk (d : SReg)
  /-- R133. Ends the lanes of the path and frees its slot; the troupe ends when nothing remains. -/
  | exit
  /-- R134. Holds the path back from selection after it issues. -/
  | yield
  /-- R445. Reads a control register at system privilege. -/
  | mfc (d : SReg) (n : BitVec 7)
  /-- R445. Writes a control register at system privilege; for EVENT, a one clears the bit. -/
  | mtc (n : BitVec 7) (a : SReg)
  /-- R446. Returns to SEPC and restores the attachments held in SATT0 and SATT1. -/
  | eret
  /-- R456. Removes covered translations and waits for the accesses that used them. -/
  | tlbi (a : SReg) (b : SReg)
  /-- R447. Sleeps until EVENT AND EVMASK is nonzero. -/
  | idle
  /-- R173. Adds FP32 lanes with one rounding. -/
  | vaddF32 (d : VReg) (a : VReg) (b : VReg)
  /-- R173. Subtracts FP32 lanes with one rounding. -/
  | vsubF32 (d : VReg) (a : VReg) (b : VReg)
  /-- R173. Multiplies FP32 lanes with one rounding. -/
  | vmulF32 (d : VReg) (a : VReg) (b : VReg)
  /-- R173. Computes x*y + c in FP32 with one rounding. -/
  | vfmaF32 (d : VReg) (a : VReg) (b : VReg)
  /-- R173. Computes x*y - c in FP32 with one rounding. -/
  | vfmsF32 (d : VReg) (a : VReg) (b : VReg)
  /-- R173. Computes c - x*y in FP32 with one rounding. -/
  | vfnmaF32 (d : VReg) (a : VReg) (b : VReg)
  /-- R173. Takes the FP32 minimum by the rules of R85. -/
  | vminF32 (d : VReg) (a : VReg) (b : VReg)
  /-- R173. Takes the FP32 maximum by the rules of R85. -/
  | vmaxF32 (d : VReg) (a : VReg) (b : VReg)
  /-- R173. Clears the sign bit of each lane. -/
  | vabsF32 (d : VReg) (a : VReg)
  /-- R173. Inverts the sign bit of each lane. -/
  | vnegF32 (d : VReg) (a : VReg)
  /-- R173. Computes x times 2^n with one rounding. -/
  | vscaleF32 (d : VReg) (a : VReg) (b : VReg)
  /-- R173. Writes floor(log2|x|) as an FP32 integer. -/
  | vgetexpF32 (d : VReg) (a : VReg)
  /-- R173. Rounds each lane to an integral FP32 value. -/
  | vrndF32 (d : VReg) (a : VReg)
  /-- R173. Clamps x between y and c. -/
  | vclampF32 (d : VReg) (a : VReg) (b : VReg)
  /-- R173. Copies 32 bits per lane unchanged. -/
  | vmovF32 (d : VReg) (a : VReg)
  /-- R175. Adds packed FP16 parts. -/
  | vaddF16x2 (d : VReg) (a : VReg) (b : VReg)
  /-- R175. Subtracts packed FP16 parts. -/
  | vsubF16x2 (d : VReg) (a : VReg) (b : VReg)
  /-- R175. Multiplies packed FP16 parts. -/
  | vmulF16x2 (d : VReg) (a : VReg) (b : VReg)
  /-- R175. Computes the fused multiply-add of packed FP16 parts. -/
  | vfmaF16x2 (d : VReg) (a : VReg) (b : VReg)
  /-- R175. Computes the fused multiply-subtract of packed FP16 parts. -/
  | vfmsF16x2 (d : VReg) (a : VReg) (b : VReg)
  /-- R175. Computes c - x*y for packed FP16 parts. -/
  | vfnmaF16x2 (d : VReg) (a : VReg) (b : VReg)
  /-- R175. Takes the minimum of packed FP16 parts. -/
  | vminF16x2 (d : VReg) (a : VReg) (b : VReg)
  /-- R175. Takes the maximum of packed FP16 parts. -/
  | vmaxF16x2 (d : VReg) (a : VReg) (b : VReg)
  /-- R175. Clears the sign of packed FP16 parts. -/
  | vabsF16x2 (d : VReg) (a : VReg)
  /-- R175. Inverts the sign of packed FP16 parts. -/
  | vnegF16x2 (d : VReg) (a : VReg)
  /-- R175. Adds packed BF16 parts. -/
  | vaddBf16x2 (d : VReg) (a : VReg) (b : VReg)
  /-- R175. Subtracts packed BF16 parts. -/
  | vsubBf16x2 (d : VReg) (a : VReg) (b : VReg)
  /-- R175. Multiplies packed BF16 parts. -/
  | vmulBf16x2 (d : VReg) (a : VReg) (b : VReg)
  /-- R175. Computes the fused multiply-add of packed BF16 parts. -/
  | vfmaBf16x2 (d : VReg) (a : VReg) (b : VReg)
  /-- R175. Computes the fused multiply-subtract of packed BF16 parts. -/
  | vfmsBf16x2 (d : VReg) (a : VReg) (b : VReg)
  /-- R175. Computes c - x*y for packed BF16 parts. -/
  | vfnmaBf16x2 (d : VReg) (a : VReg) (b : VReg)
  /-- R175. Takes the minimum of packed BF16 parts. -/
  | vminBf16x2 (d : VReg) (a : VReg) (b : VReg)
  /-- R175. Takes the maximum of packed BF16 parts. -/
  | vmaxBf16x2 (d : VReg) (a : VReg) (b : VReg)
  /-- R175. Clears the sign of packed BF16 parts. -/
  | vabsBf16x2 (d : VReg) (a : VReg)
  /-- R175. Inverts the sign of packed BF16 parts. -/
  | vnegBf16x2 (d : VReg) (a : VReg)
  /-- R176. Compares FP32 lanes and writes the result bits to a mask. -/
  | vcmpf (c : FCond) (d : KReg) (a : VReg) (b : VReg)
  /-- R177. Adds INT32 lanes modulo 2^32. -/
  | vaddI32 (d : VReg) (a : VReg) (b : VReg)
  /-- R177. Subtracts INT32 lanes modulo 2^32. -/
  | vsubI32 (d : VReg) (a : VReg) (b : VReg)
  /-- R177. Writes the low 32 bits of each lane product. -/
  | vmulI32 (d : VReg) (a : VReg) (b : VReg)
  /-- R177. Writes the high 32 bits of the signed product. -/
  | vmulh (d : VReg) (a : VReg) (b : VReg)
  /-- R177. Writes the high 32 bits of the natural product. -/
  | vmulhn (d : VReg) (a : VReg) (b : VReg)
  /-- R177. Computes x*y + c modulo 2^32. -/
  | vmad (d : VReg) (a : VReg) (b : VReg)
  /-- R177. Takes the signed minimum of the lanes. -/
  | vminI32 (d : VReg) (a : VReg) (b : VReg)
  /-- R177. Takes the signed maximum of the lanes. -/
  | vmaxI32 (d : VReg) (a : VReg) (b : VReg)
  /-- R177. Takes the natural minimum of the lanes. -/
  | vminn (d : VReg) (a : VReg) (b : VReg)
  /-- R177. Takes the natural maximum of the lanes. -/
  | vmaxn (d : VReg) (a : VReg) (b : VReg)
  /-- R177. Takes the signed absolute value; MIN stays MIN. -/
  | vabsI32 (d : VReg) (a : VReg)
  /-- R177. Negates each lane modulo 2^32. -/
  | vnegI32 (d : VReg) (a : VReg)
  /-- R177. Adds signed lanes with saturation. -/
  | vaddsI32 (d : VReg) (a : VReg) (b : VReg)
  /-- R177. Subtracts signed lanes with saturation. -/
  | vsubsI32 (d : VReg) (a : VReg) (b : VReg)
  /-- R177. Computes the signed rounded average of the lanes. -/
  | vavgI32 (d : VReg) (a : VReg) (b : VReg)
  /-- R178. Adds 16-bit parts with wrapping. -/
  | vaddI16 (d : VReg) (a : VReg) (b : VReg)
  /-- R178. Subtracts 16-bit parts with wrapping. -/
  | vsubI16 (d : VReg) (a : VReg) (b : VReg)
  /-- R178. Adds signed 16-bit parts with saturation. -/
  | vaddsI16 (d : VReg) (a : VReg) (b : VReg)
  /-- R178. Subtracts signed 16-bit parts with saturation. -/
  | vsubsI16 (d : VReg) (a : VReg) (b : VReg)
  /-- R178. Adds natural 16-bit parts with saturation. -/
  | vaddsN16 (d : VReg) (a : VReg) (b : VReg)
  /-- R178. Subtracts natural 16-bit parts with saturation. -/
  | vsubsN16 (d : VReg) (a : VReg) (b : VReg)
  /-- R178. Computes the signed rounded average of 16-bit parts. -/
  | vavgI16 (d : VReg) (a : VReg) (b : VReg)
  /-- R178. Computes the natural rounded average of 16-bit parts. -/
  | vavgN16 (d : VReg) (a : VReg) (b : VReg)
  /-- R178. Adds 8-bit parts with wrapping. -/
  | vaddI8 (d : VReg) (a : VReg) (b : VReg)
  /-- R178. Subtracts 8-bit parts with wrapping. -/
  | vsubI8 (d : VReg) (a : VReg) (b : VReg)
  /-- R178. Adds signed 8-bit parts with saturation. -/
  | vaddsI8 (d : VReg) (a : VReg) (b : VReg)
  /-- R178. Subtracts signed 8-bit parts with saturation. -/
  | vsubsI8 (d : VReg) (a : VReg) (b : VReg)
  /-- R178. Adds natural 8-bit parts with saturation. -/
  | vaddsN8 (d : VReg) (a : VReg) (b : VReg)
  /-- R178. Subtracts natural 8-bit parts with saturation. -/
  | vsubsN8 (d : VReg) (a : VReg) (b : VReg)
  /-- R178. Computes the signed rounded average of 8-bit parts. -/
  | vavgI8 (d : VReg) (a : VReg) (b : VReg)
  /-- R178. Computes the natural rounded average of 8-bit parts. -/
  | vavgN8 (d : VReg) (a : VReg) (b : VReg)
  /-- R179. ANDs the lanes. -/
  | vand (d : VReg) (a : VReg) (b : VReg)
  /-- R179. ORs the lanes. -/
  | vor (d : VReg) (a : VReg) (b : VReg)
  /-- R179. XORs the lanes. -/
  | vxor (d : VReg) (a : VReg) (b : VReg)
  /-- R179. Computes x AND NOT y in each lane. -/
  | vandn (d : VReg) (a : VReg) (b : VReg)
  /-- R179. Shifts each lane left by y mod 32. -/
  | vshl (d : VReg) (a : VReg) (b : VReg)
  /-- R179. Shifts each lane right logically by y mod 32. -/
  | vshr (d : VReg) (a : VReg) (b : VReg)
  /-- R179. Shifts each lane right arithmetically by y mod 32. -/
  | vsar (d : VReg) (a : VReg) (b : VReg)
  /-- R179. Counts the one bits of each lane. -/
  | vpopc (d : VReg) (a : VReg)
  /-- R179. Counts the leading zero bits of each lane. -/
  | vclz (d : VReg) (a : VReg)
  /-- R179. Reverses the bits of each lane. -/
  | vbrev (d : VReg) (a : VReg)
  /-- R180. Extracts a bit field whose position and length each lane takes from y. -/
  | vbfx (d : VReg) (a : VReg) (b : VReg)
  /-- R180. Inserts a bit field of x into c at the position and length in y. -/
  | vbfi (d : VReg) (a : VReg) (b : VReg)
  /-- R181. Selects v[a] or v[b] in each lane by a mask. -/
  | vsel (k : KReg) (d : VReg) (a : VReg) (b : VReg)
  /-- R182. Compares INT32 or n32 lanes into a mask. -/
  | vcmpi (c : ICond) (d : KReg) (a : VReg) (b : VReg)
  /-- R183. Converts, packs or unpacks lanes by the conversion code, with an optional saturating form. -/
  | vcvt (c : CvtCode) (d : VReg) (a : VReg) (sat : BitVec 1)
  /-- R185. Computes 1/x in each lane. -/
  | vrcp (d : VReg) (a : VReg)
  /-- R185. Computes 1/sqrt(x) in each lane. -/
  | vrsq (d : VReg) (a : VReg)
  /-- R185. Computes sqrt(x), correctly rounded in the mode. -/
  | vsqrt (d : VReg) (a : VReg)
  /-- R185. Computes 2^x in each lane. -/
  | vexp2 (d : VReg) (a : VReg)
  /-- R185. Computes log2 x in each lane. -/
  | vlog2 (d : VReg) (a : VReg)
  /-- R185. Computes sin(2 pi x) in each lane. -/
  | vsin (d : VReg) (a : VReg)
  /-- R185. Computes cos(2 pi x) in each lane. -/
  | vcos (d : VReg) (a : VReg)
  /-- R185. Computes tanh x in each lane. -/
  | vtanh (d : VReg) (a : VReg)
  /-- R185. Computes the logistic sigmoid in each lane. -/
  | vsigm (d : VReg) (a : VReg)
  /-- R189. Accumulates four signed 8-bit products into c modulo 2^32. -/
  | vdot4i (d : VReg) (a : VReg) (b : VReg)
  /-- R189. Accumulates four natural 8-bit products into c modulo 2^32. -/
  | vdot4n (d : VReg) (a : VReg) (b : VReg)
  /-- R189. Accumulates two BF16 products into FP32 with one rounding. -/
  | vdot2bf (d : VReg) (a : VReg) (b : VReg)
  /-- R189. Accumulates two FP16 products into FP32 with one rounding. -/
  | vdot2h (d : VReg) (a : VReg) (b : VReg)
  /-- R190. Writes bits [31:0] of s[a] into each lane. -/
  | vmovs (d : VReg) (a : SReg)
  /-- R190. Writes bits [63:32] of s[a] into each lane. -/
  | vmovsh (d : VReg) (a : SReg)
  /-- R191. Writes each lane's own number into that lane. -/
  | vlane (d : VReg)
  /-- R191. Writes 32 random bits into each lane and advances its draw counter. -/
  | vrand (d : VReg)
  /-- R192. Copies lane s[b] mod 32 of v[a] into s[d]. -/
  | vext (d : SReg) (a : VReg) (b : SReg)
  /-- R193. Writes a sign-extended immediate into each lane. -/
  | vmovi (d : VReg) (imm : BitVec 18)
  /-- R199. Reads, for each lane, the lane of its tile that v[b] indexes. -/
  | vshflIdx (d : VReg) (a : VReg) (b : VReg)
  /-- R199. Reads the lane s[b] below each lane within its tile. -/
  | vshflUp (d : VReg) (a : VReg) (b : SReg)
  /-- R199. Reads the lane s[b] above each lane within its tile. -/
  | vshflDown (d : VReg) (a : VReg) (b : SReg)
  /-- R199. Reads lane L XOR s[b] within the tile. -/
  | vshflXor (d : VReg) (a : VReg) (b : SReg)
  /-- R199. Broadcasts lane s[b] of each tile. -/
  | vshflBcast (d : VReg) (a : VReg) (b : SReg)
  /-- R199. The up shuffle with an immediate count. -/
  | vshflUpImm (d : VReg) (a : VReg) (n : BitVec 5)
  /-- R199. The down shuffle with an immediate count. -/
  | vshflDownImm (d : VReg) (a : VReg) (n : BitVec 5)
  /-- R199. The xor shuffle with an immediate count. -/
  | vshflXorImm (d : VReg) (a : VReg) (n : BitVec 5)
  /-- R199. The broadcast shuffle with an immediate lane. -/
  | vshflBcastImm (d : VReg) (a : VReg) (n : BitVec 5)
  /-- R200. Sets the bit of each lane whose tile holds any lane of the mask. -/
  | vany (d : SReg) (a : KReg)
  /-- R200. Sets the bit of each lane whose tile has all its path lanes in the mask. -/
  | vall (d : SReg) (a : KReg)
  /-- R200. Writes the mask ANDed with the path mask into s[d]. -/
  | vballot (d : SReg) (a : KReg)
  /-- R201. Marks the first active lane of each distinct value in each tile. -/
  | vmatch (d : KReg) (a : VReg)
  /-- R203. Reduces the active lanes of each tile by the selected operation. -/
  | vred (o : RedOp) (d : VReg) (a : VReg)
  /-- R203. Computes an inclusive scan over the active lanes of each tile. -/
  | vscan (o : RedOp) (d : VReg) (a : VReg)
  /-- R205. Inserts a score and index into each lane's top-k list. -/
  | vtopk (k : BitVec 4) (d : VReg) (a : VReg) (b : VReg)
  /-- R206. Branches by lane, splitting the path when both sides are nonempty. -/
  | brv (k : KReg) (disp : BitVec 14)
  /-- R207. Sets the path's join PC. -/
  | jpt (disp : BitVec 25)
  /-- R208. Arrives at the path's join entry and merges the path when the entry is complete. -/
  | join
  /-- R209. Moves the whole path when any of its lanes is set in the mask. -/
  | bany (k : KReg) (disp : BitVec 14)
  /-- R209. Moves the whole path when all of its lanes are set in the mask. -/
  | ball (k : KReg) (disp : BitVec 14)
  /-- R214. Adds the troupe to a circle's member set. -/
  | cjoin (a : SReg)
  /-- R214. Removes the troupe from a circle and wakes its sleepers on that circle. -/
  | cleave (a : SReg)
  /-- R215. Arrives at a circle, completing the phase when every member has arrived. -/
  | carrive (a : SReg)
  /-- R215. Sleeps while the troupe's arrival on the circle is owed. -/
  | cwait (a : SReg)
  /-- R213. Performs CARRIVE then CWAIT as one instruction. -/
  | csync (a : SReg)
  /-- R218. Reads a circle's member count, arrival count and phase. -/
  | ccount (d : SReg) (a : SReg)
  /-- R220. Writes an immediate to the path's FMT. -/
  | setfmt (imm : BitVec 18)
  /-- R220. Writes an immediate to TILESZ. -/
  | settile (imm : BitVec 18)
  /-- R288. Loads a byte per lane, zero-extended. -/
  | vldb (d : VReg) (sa : SReg) (b : VReg) (nd : BitVec 4) (sc : BitVec 1)
  /-- R288. Loads a byte per lane, sign-extended. -/
  | vldbs (d : VReg) (sa : SReg) (b : VReg) (nd : BitVec 4) (sc : BitVec 1)
  /-- R288. Loads two bytes per lane, zero-extended. -/
  | vldh (d : VReg) (sa : SReg) (b : VReg) (nd : BitVec 4) (sc : BitVec 1)
  /-- R288. Loads two bytes per lane, sign-extended. -/
  | vldhs (d : VReg) (sa : SReg) (b : VReg) (nd : BitVec 4) (sc : BitVec 1)
  /-- R288. Loads four bytes per lane. -/
  | vldw (d : VReg) (sa : SReg) (b : VReg) (nd : BitVec 4) (sc : BitVec 1)
  /-- R288. Loads eight bytes per lane into a register pair. -/
  | vldd (d : VReg) (sa : SReg) (b : VReg) (nd : BitVec 4) (sc : BitVec 1)
  /-- R288. Loads sixteen bytes per lane into a register quad. -/
  | vldq (d : VReg) (sa : SReg) (b : VReg) (nd : BitVec 4) (sc : BitVec 1)
  /-- R288. Stores a byte per lane. -/
  | vstb (d : VReg) (sa : SReg) (b : VReg) (nd : BitVec 4) (sc : BitVec 1)
  /-- R288. Stores two bytes per lane. -/
  | vsth (d : VReg) (sa : SReg) (b : VReg) (nd : BitVec 4) (sc : BitVec 1)
  /-- R288. Stores four bytes per lane. -/
  | vstw (d : VReg) (sa : SReg) (b : VReg) (nd : BitVec 4) (sc : BitVec 1)
  /-- R288. Stores eight bytes per lane from a register pair. -/
  | vstd (d : VReg) (sa : SReg) (b : VReg) (nd : BitVec 4) (sc : BitVec 1)
  /-- R288. Stores sixteen bytes per lane from a register quad. -/
  | vstq (d : VReg) (sa : SReg) (b : VReg) (nd : BitVec 4) (sc : BitVec 1)
  /-- R292. Performs an arithmetic read-modify-write per lane, optionally returning the old value. -/
  | amoa (o : AmoaOp) (d : VReg) (b : VReg) (sa : SReg) (ret : BitVec 1)
  /-- R293. Performs a logic, swap or compare-and-swap per lane, optionally returning the old value. -/
  | amol (o : AmolOp) (d : VReg) (b : VReg) (sa : SReg) (ret : BitVec 1)
  /-- R296. Scalar atomic add on 8 bytes, returning the old value. -/
  | samoadd (d : SReg) (a : SReg) (b : SReg)
  /-- R296. Scalar compare-and-swap against the old s[d]. -/
  | samocas (d : SReg) (a : SReg) (b : SReg)
  /-- R296. Scalar atomic swap. -/
  | samoswap (d : SReg) (a : SReg) (b : SReg)
  /-- R296. Scalar atomic signed maximum. -/
  | samomax (d : SReg) (a : SReg) (b : SReg)
  /-- R298. Reads a counter and sleeps on a monitor until the condition holds. -/
  | waitc (c : WaitCond) (a : SReg) (b : SReg)
  /-- R301. Orders the path's accesses at the ORD scope and order. -/
  | fence
  /-- R302. Writes back the line and marks it dead at every level. -/
  | cline (a : SReg)
  /-- R303. Prefetches a line down to the level that the scope names. -/
  | pf (a : SReg)
  /-- R304. Writes the flat alias of a private-window address. -/
  | gaddr (d : SReg) (a : SReg)
  /-- R348. Asynchronously copies 4, 8 or 16 bytes per lane. -/
  | copy (z : CopySize) (d : VReg) (a : VReg) (b : SReg)
  /-- R349. Asynchronously reduces a lane operand into memory at the home slice. -/
  | copyr (o : CopyrOp) (d : VReg) (a : VReg) (b : SReg)
  /-- R354. Copies a tensor between two shapes element by element. -/
  | tcopy (d : SReg) (a : SReg) (b : SReg)
  /-- R354. Transposes shape elements into the rows of a field. -/
  | tcopyIn (d : SReg) (a : SReg) (b : SReg)
  /-- R354. Transposes field rows out into shape elements. -/
  | tcopyOut (d : SReg) (a : SReg) (b : SReg)
  /-- R353. Writes a shape record into a free slot and returns its handle. -/
  | shpw (d : SReg) (a : SReg)
  /-- R353. Frees a shape slot and advances its generation. -/
  | shpi (a : SReg)
  /-- R336. Closes the open batch and returns its number. -/
  | sealB (d : SReg)
  /-- R337. Sleeps until batches 1 to n of the troupe have completed. -/
  | waitb (a : SReg)
  /-- R361. Queues a matrix multiply-accumulate into an ACS tile. -/
  | mma (d : SReg) (a : SReg) (b : SReg)
  /-- R364. Queues a multiply-accumulate whose B is shared with peer cores. -/
  | mmam (d : SReg) (a : SReg) (b : SReg)
  /-- R362. Queues a multiply-accumulate with structured sparse A. -/
  | mmas (d : SReg) (a : SReg) (b : SReg)
  /-- R363. Queues a multiply-accumulate with two B operands split at RBND. -/
  | mma2 (d : SReg) (a : SReg) (b : SReg)
  /-- R367. Loads a tile from a scratchpad image. -/
  | acld (d : SReg) (a : SReg) (b : SReg)
  /-- R367. Stores a tile to a scratchpad image with conversion. -/
  | acst (d : SReg) (a : SReg) (b : SReg)
  /-- R367. Fills a tile with a 32-bit value. -/
  | acz (a : SReg) (b : SReg)
  /-- R368. Ends the troupe's lease once its earlier matrix work has completed. -/
  | mrel
  /-- R395. Issues a fused analogue layer pass described by a layer record. -/
  | layer (a : SReg) (b : SReg)
  /-- R397. Issues a layer pass over two expert regions split at RBND. -/
  | layerx2 (a : SReg) (b : SReg)
  /-- R398. Issues a transposed pass that carries gradients back through a region. -/
  | layert (a : SReg) (b : SReg)
  /-- R405. Returns calibration and region information. -/
  | rceq (d : SReg) (a : SReg)
  /-- R406. Pins the current epochs of a region for the gang. -/
  | rcepin (a : SReg)
  /-- R407. Releases the gang's pin on a region. -/
  | rceunpin (a : SReg)
  /-- R418. Issues a bit-serial job on a field. -/
  | bsq (a : SReg) (b : SReg)
  /-- R414. Converts MSC ways into a field, or returns 0 when refused. -/
  | ways (d : SReg) (a : SReg) (b : SReg)
  /-- R415. Makes a field handle stale and queues the field's release. -/
  | waysrel (a : SReg)
  /-- R261. Reads a job card and posts it to a launch-fed queue. -/
  | launch (a : SReg) (b : SReg)
  /-- R508. Begins a NEAR region on an NMU of the data's home stack, or is refused silently. -/
  | migrate (a : SReg)
  /-- R509. Ends a NEAR region and ships the troupe's state home. -/
  | home
  /-- R41. Records a pending mask, zeroing, rounding and third-source attachment. -/
  | pfx (k : KReg) (z : BitVec 1) (rm : BitVec 3) (vc : VReg)
  /-- R43. Records a pending scope, order and ND attachment. -/
  | ord (scope : OrdScope) (order : OrdOrder) (nd : BitVec 4)
  /-- R44. Records pending high bits for the next immediate. -/
  | limm (high : BitVec 25)
  /-- R45. Records a pending hint of a given kind. -/
  | hint (kind : BitVec 4) (arg : BitVec 21)
  /-- R416. Sets the element width of the micro-op program. -/
  | bwid (a : BitVec 9)
  /-- R416. Inverts an element group into the destination rows. -/
  | bnot (a : BitVec 9) (d : BitVec 9)
  /-- R416. ANDs two element groups. -/
  | band (a : BitVec 9) (b : BitVec 9) (d : BitVec 9)
  /-- R416. ORs two element groups. -/
  | bor (a : BitVec 9) (b : BitVec 9) (d : BitVec 9)
  /-- R416. XORs two element groups. -/
  | bxor (a : BitVec 9) (b : BitVec 9) (d : BitVec 9)
  /-- R416. Adds two element groups modulo 2^w. -/
  | badd (a : BitVec 9) (b : BitVec 9) (d : BitVec 9)
  /-- R416. Subtracts two element groups modulo 2^w. -/
  | bsub (a : BitVec 9) (b : BitVec 9) (d : BitVec 9)
  /-- R416. Writes a flag row where a < b as natural numbers. -/
  | bcmplt (a : BitVec 9) (b : BitVec 9) (d : BitVec 9)
  /-- R416. Writes a flag row where a = b. -/
  | bcmpeq (a : BitVec 9) (b : BitVec 9) (d : BitVec 9)
  /-- R416. Selects a or b by the latest flag row. -/
  | bsel (a : BitVec 9) (b : BitVec 9) (d : BitVec 9)
  /-- R416. Shifts an element group left by a constant. -/
  | bshl (a : BitVec 9) (b : BitVec 9) (d : BitVec 9)
  /-- R416. Shifts an element group right by a constant. -/
  | bshr (a : BitVec 9) (b : BitVec 9) (d : BitVec 9)
  /-- R416. Counts the one bits of each element. -/
  | bpopc (a : BitVec 9) (d : BitVec 9)
  /-- R416. Copies an element group. -/
  | bcopy (a : BitVec 9) (d : BitVec 9)
  /-- R416. Sets every row of the destination to a constant bit. -/
  | bset (b : BitVec 9) (d : BitVec 9)
  /-- R416. Counts, per subarray, the bit lines whose flag row is set. -/
  | bcount (a : BitVec 9) (d : BitVec 9)
  /-- R416. Ends the micro-op program. -/
  | bend
  /-- R219. A path asleep in a circle wait wakes after the phase completes. -/
  | circleWake (p : PathId)
  /-- R337. A path asleep in WAITB wakes after the covered work completes. -/
  | waitbWake (p : PathId)
  /-- R447. A path asleep in IDLE wakes after an unmasked event bit is set. -/
  | idleWake (p : PathId)
  /-- R134. A YIELD hold ends once 16 cycles have passed. -/
  | yieldHoldExpire (p : PathId)
  /-- R162. A path that has been ready for 16 cycles without issuing becomes overdue. -/
  | pathOverdue (p : PathId)
  /-- R222. Packets advance one stop and the injector emits a packet. -/
  | ringCycle
  /-- R224. At each lap start the injector fixes every partition's token total. -/
  | injectorLapStart
  /-- R235. A head that has waited 256 ring cycles raises a pledge. -/
  | pledgeRaise (core : Nat)
  /-- R232. Firmware makes GEN odd, writes new prices, then makes GEN even and larger. -/
  | priceTableUpdate (t : PriceArgs)
  /-- R531. Firmware sets P, which publishes a new licence. -/
  | setPowerLimit (watts : Nat)
  /-- R228. Firmware sets the firmware token share. -/
  | setWfw (w : Nat)
  /-- R238. Firmware sets the target frequency of a cluster. -/
  | setClusterFrequency (cl : Nat) (mhz : Nat)
  /-- R238. Every 200 ns a cluster loop moves one 25 MHz step toward its setting. -/
  | fllStep (cl : Nat)
  /-- R239. A droop detector trips and the cluster's cycles stretch. -/
  | droopTrip (cl : Nat)
  /-- R239. The droop detector clears and cycles return to nominal. -/
  | droopClear (cl : Nat)
  /-- R240. Every 8 phases that keep a core late, its cluster rises one step and another falls. -/
  | boostStep (g : Nat) (core : Nat)
  /-- R240. Boost steps return 8 phases after a core ceases to be late. -/
  | boostReturn (core : Nat)
  /-- R241. The matrix engine finishes its 64 filler cycles and is ramped. -/
  | engineRampComplete (core : Nat)
  /-- R241. A ramped engine returns to idle when its hold time ends. -/
  | engineRampExpire (core : Nat)
  /-- R244. A doorbell store sets T to the maximum of T and the value written. -/
  | tailDoorbell (q : Nat) (v : BitVec 64) (size : Nat)
  /-- R253. System software resumes a halted queue by writing a new H. -/
  | headRegisterWrite (q : Nat) (v : BitVec 64)
  /-- R251. The ringmaster reads and checks the card at H, clears its slot and advances H. -/
  | cardFetch (q : Nat)
  /-- R257. The ringmaster places a gang on chosen cores and initialises its troupes. -/
  | gangPlace (q : Nat)
  /-- R133. A gang retires once every troupe has ended and its work has performed. -/
  | gangRetire (g : Nat)
  /-- R261. The ringmaster writes a posted card at T and raises T once slots are free. -/
  | launchPost (q : Nat)
  /-- R273. GCLK advances when the gang's retire count reaches N. -/
  | gclkAdvance (g : Nat)
  /-- R274. TCLK advances when the tenant accumulator reaches G. -/
  | tclkAdvance (part : Nat)
  /-- R276. A cache instance's epoch clock advances after E requests. -/
  | epochAdvance (inst : Nat)
  /-- R276. Every 16 requester ticks the rate j is re-measured. -/
  | rateRemeasure (inst : Nat) (req : Nat)
  /-- R280. Every 65,536 insertions a tenant's penalty p is adjusted. -/
  | penaltyWindowClose (inst : Nat) (part : Nat)
  /-- R307. A load binds its value and, on a miss, fills its line. -/
  | loadReturn (n : Nat)
  /-- R307. A store or atomic without return performs at its place and UAS falls. -/
  | storePerform (g : Nat) (t : Nat) (n : Nat)
  /-- R505. A write held by vector clocks is applied to a domain's view. -/
  | crossDomainWriteApply (dom : Nat) (n : Nat)
  /-- R299. A monitor fires on a write, an eviction or exhaustion, and its sleeper re-reads. -/
  | monitorFire (w : Watcher)
  /-- R300. Without a monitor entry, a wait re-reads every 1 µs. -/
  | monitorPoll (w : Watcher)
  /-- R452. A page walk ends in a translation or in a fault. -/
  | translationWalkComplete (n : Nat)
  /-- R345. The copy engine reads and writes an element at its home place. -/
  | copyElement (w : Nat) (n : Nat)
  /-- R338. An asynchronous copy completes and makes its counter add. -/
  | copyComplete (w : Nat)
  /-- R355. An ordered channel adds to its counter once a group has performed. -/
  | orderedGroupAdd (w : Nat)
  /-- R347. A recorded replay entry runs after a fault release or a resumption. -/
  | replayEntryRun (g : Nat) (n : Nat)
  /-- R373. The matrix engine takes the oldest waiting instruction of the queue's head troupe. -/
  | leaseStart (core : Nat)
  /-- R372. The engine applies one full-K step to a 16 by 32 block of the ACS. -/
  | accumulationStep (core : Nat)
  /-- R373. A lease ends after 50 µs at the next step boundary. -/
  | leaseExpire (core : Nat)
  /-- R376. A matrix-engine instruction completes and frees its queue entry. -/
  | matrixComplete (w : Nat)
  /-- R396. The matrix engine computes a layer's adapter term under the lease. -/
  | adapterStage (w : Nat)
  /-- R384. A tile pass starts once a pass slot is free. -/
  | tilePassStart (w : Nat) (n : Nat)
  /-- R385. A pass yields column sums that are calibrated and reduced in the base die. -/
  | tilePassComplete (w : Nat) (n : Nat)
  /-- R395. Fusion writes OUT and the counter add performs. -/
  | layerComplete (w : Nat)
  /-- R389. The RCE drives a tile with a probe vector in an idle slot. -/
  | rceProbePass (stack : Nat) (tile : Nat)
  /-- R389. A stack publishes fitted gains and offsets as its next epoch. -/
  | epochPublish (stack : Nat)
  /-- R392. The sequencer reprograms a tile into a spare, or in place once no hold remains. -/
  | tileRefresh (stack : Nat) (tile : Nat)
  /-- R406. A pin lapses 10 s after its RCEPIN retired. -/
  | pinLapse (g : Nat) (region : Nat)
  /-- R414. The granted ways are written back, invalidated and zeroed. -/
  | fieldConversionComplete (w : Nat)
  /-- R420. A stack sequencer starts a job once the earlier job has ended. -/
  | bsqJobStart (w : Nat)
  /-- R419. STATUS is written and the counter add is made after the job ends. -/
  | bsqJobComplete (w : Nat)
  /-- R415. After earlier work completes, the field's ways return to cache mode. -/
  | waysrelRelease (w : Nat)
  /-- R515. An activation is counted by source, with refresh management and alerts. -/
  | rowActivation (stack : Nat) (row : Nat) (source : Nat)
  /-- R515. A row's interval counts reset and its throttles end. -/
  | activationIntervalEnd (stack : Nat) (row : Nat)
  /-- R516. A sequencer without progress for 1 ms is reset and its fields are released. -/
  | sequencerWatchdogReset (stack : Nat)
  /-- R516. The reset ends; the stack qualifies for WAYS again and probes resume. -/
  | sequencerResetComplete (stack : Nat)
  /-- R512. An instruction outside the subset, a fault, a fifth level or a save ends the region. -/
  | nearRegionEnd (p : PathId)
  /-- R443. CYCLE reaching TMRCMP sets EVENT bit 2. -/
  | timerCompare
  /-- R465. A new time slot starts and cluster holders change. -/
  | slotStart
  /-- R483. A save finishes writing the image and frees the gang's resources. -/
  | saveComplete (g : Nat)
  /-- R485. At its deadline, a save turns unstarted items into replay entries. -/
  | saveForce (g : Nat)
  /-- R482. A drain command stops placement in its scope. -/
  | drain (scope : DrainScope) (deadline : Nat)
  /-- R482. A drain whose deadline passes escalates to saves. -/
  | drainDeadline (scope : DrainScope)
  /-- R482. A resume command restarts placement in a drained scope. -/
  | resume (scope : DrainScope)
  /-- R258. A save command naming partition 63 saves system gangs. -/
  | saveCommand (part : Nat)
  /-- R492. A saved gang is placed again and its image loaded before any troupe issues. -/
  | gangResume (g : Nat)
  /-- R468. A held cluster idle for 100 µs becomes lendable. -/
  | clusterLendable (cl : Nat)
  /-- R494. Firmware binds modules to one slot schedule. -/
  | switchGroupBind (members : List Nat) (leader : Nat)
  /-- R496. The leader sends a tick one slot length after the last start. -/
  | switchTickSend
  /-- R495. A member receives a tick and saves the outgoing partition's gangs. -/
  | switchTickReceive (slot : Nat)
  /-- R495. A member receives saved; with all in hand it starts the incoming partition. -/
  | savedMessage (m : Nat) (forced : Bool)
  /-- R465. Firmware sets the module-wide slot length. -/
  | setSlotLength (us : Nat)
  /-- R473. A freed pool entry is granted to a waiting request. -/
  | poolEntryRelease (pool : Nat) (part : Nat)
  /-- R464. Activation reads and checks a PCB and generates the key. -/
  | partitionActivate (part : Nat) (pcb : Nat)
  /-- R480. Deactivation closes the log, writes a signature and erases the key. -/
  | partitionDeactivate (part : Nat)
  /-- R463. UPDATE checks new share, quota and DN values for the next lap. -/
  | update (part : Nat) (pcb : Nat)
  /-- R469. The ringmaster reads a queue descriptor and enables the queue, or refuses it. -/
  | queueEnable (q : Nat) (desc : Nat)
  /-- R469. A queue is disabled, its handle made stale and STATE set to 2. -/
  | queueDisable (q : Nat)
  /-- R471. Moving a unit to another key slot invalidates its lines and zeroes it. -/
  | keyMapMove (unit : Nat) (slot : Nat)
  /-- R477. Each second the interval closes and a usage record is written. -/
  | usageIntervalClose (part : Nat)
  /-- R479. A signed record is written after 64 records or a LOGSIGN write. -/
  | signatureRecordWrite (part : Nat)
  /-- R477. A write to LOGSIGN requests a signature record. -/
  | logsign (part : Nat)
  /-- R477. The host advances the usage log head to the maximum written. -/
  | loghead (part : Nat) (v : BitVec 64)
  /-- R457. The host advances the fault ring head; waiting records are written. -/
  | frhead (part : Nat) (v : BitVec 64)
  /-- R459. Releases every recorded fault up to a SEQ for replay. -/
  | frreplay (part : Nat) (v : BitVec 64)
  /-- R459. Marks a fault failed so that its waiters trap or fail. -/
  | frfail (part : Nat) (v : BitVec 64)
  /-- R523. A write to a BAR register without its own row, such as the window register. -/
  | registerWrite (vf : Nat) (off : Nat) (v : BitVec 64)
  /-- R524. A host write through BAR2 is translated and performs at system scope. -/
  | hostBar2Write (vf : Nat) (off : Nat) (data : List (BitVec 8))
  /-- R524. A host read through BAR2 is translated and returns data. -/
  | hostBar2Read (vf : Nat) (off : Nat) (len : Nat)
  /-- R533. A function-level reset deactivates the function's partition. -/
  | vfFlr (vf : Nat)
  /-- R521. A flit is checked by CRC and retransmitted when the check fails. -/
  | flitReceive (port : Nat) (flit : List (BitVec 8))
  /-- R522. A failed port's traffic moves to other trained ports. -/
  | portFail (port : Nat)
  /-- R522. With no route for 100 µs, accesses to that module fail as machine checks. -/
  | routeLossTimeout (m : Nat)
  /-- R519. Firmware assigns the module number at fabric bring-up. -/
  | setModnum (m : Nat)
  /-- R526. Power good resets the module and starts the boot ROM. -/
  | powerGood
  /-- R526. A boot step completes and raises its READY bits, or sets FAIL. -/
  | bootStepComplete (ok : Bool)
  /-- R527. Returns the identity and attestation certificates. -/
  | cert
  /-- R528. Returns a signed attestation report for a nonce. -/
  | attest (part : Nat) (nonce : BitVec 512)
  /-- R529. Registers the SHA-512 of an image signing key. -/
  | imageKeyRegister (hash : BitVec 512)
  /-- R529. Verifies and loads an array image through the journal. -/
  | imgload (image : Nat)
  /-- R529. Enters a loaded region into the region tables of the named partitions. -/
  | region (region : Nat) (parts : List Nat)
  /-- R531. Every 1 ms firmware samples power and lowers frequencies when over. -/
  | powerSample (watts : Nat)
  /-- R532. A sensor reaching its throttle temperature starts power reduction and sets EVENT bit 3. -/
  | thermalThrottle (sensor : Nat)
  /-- R532. Every 10 ms P moves by 50 W down or back up. -/
  | throttleStep
  /-- R532. At a shutdown temperature the module stops within 1 ms. -/
  | thermalShutdown (sensor : Nat)
  /-- R530. Loss of power stops the module without saving state; tiles keep their weights, and an interrupted image load leaves its regions unavailable until the image is supplied again. -/
  | powerLoss
  /-- R521. A fabric port becomes trained when it begins exchanging flits with a peer or a switch, raising FAB and offering routes again. -/
  | portTrained (port : Nat)
  deriving DecidableEq, Repr

end Sys2Proof
end

