-- ==== Sys2Proof/WellFormed.lean ====
section
/-!
DEFINITION. What makes an instruction well formed: the checks of R35, R36, R41, R50 and R52 that depend on the word alone.
The checks that depend on the troupe (its vector allocation, its privilege, its pending attachments) are made when the
instruction runs (Machine/Operands.lean).
-/

namespace Sys2Proof

/-- Registers a conversion writes (R50). -/
def CvtCode.dstCount : CvtCode → Nat
  | .f16ToF32 | .bf16ToF32 => 2
  | .e4m3ToF32 | .e5m2ToF32 | .i8ToF32 => 4
  | .e2m1ToF32 => 8
  | _ => 1

/-- Registers a conversion reads (R50). -/
def CvtCode.srcCount : CvtCode → Nat
  | .f32ToF16 | .f32ToBf16 => 2
  | .f32ToE4m3 | .f32ToE5m2 | .f32ToI8 => 4
  | .f32ToE2m1 => 8
  | _ => 1

/-- Registers of an AMOL data group (R49). -/
def AmolOp.group : AmolOp → Nat
  | .cas32 | .and64 | .or64 | .xor64 => 2
  | .cas64 => 4
  | _ => 1

/-- The vector registers an instruction names, each with the length of its group (R35, R49, R50, R204). -/
def Instr.vregs : Instr → List (VReg × Nat)
  | .vaddF32 d a b => [(d, 1), (a, 1), (b, 1)]
  | .vsubF32 d a b => [(d, 1), (a, 1), (b, 1)]
  | .vmulF32 d a b => [(d, 1), (a, 1), (b, 1)]
  | .vfmaF32 d a b => [(d, 1), (a, 1), (b, 1)]
  | .vfmsF32 d a b => [(d, 1), (a, 1), (b, 1)]
  | .vfnmaF32 d a b => [(d, 1), (a, 1), (b, 1)]
  | .vminF32 d a b => [(d, 1), (a, 1), (b, 1)]
  | .vmaxF32 d a b => [(d, 1), (a, 1), (b, 1)]
  | .vabsF32 d a => [(d, 1), (a, 1)]
  | .vnegF32 d a => [(d, 1), (a, 1)]
  | .vscaleF32 d a b => [(d, 1), (a, 1), (b, 1)]
  | .vgetexpF32 d a => [(d, 1), (a, 1)]
  | .vrndF32 d a => [(d, 1), (a, 1)]
  | .vclampF32 d a b => [(d, 1), (a, 1), (b, 1)]
  | .vmovF32 d a => [(d, 1), (a, 1)]
  | .vaddF16x2 d a b => [(d, 1), (a, 1), (b, 1)]
  | .vsubF16x2 d a b => [(d, 1), (a, 1), (b, 1)]
  | .vmulF16x2 d a b => [(d, 1), (a, 1), (b, 1)]
  | .vfmaF16x2 d a b => [(d, 1), (a, 1), (b, 1)]
  | .vfmsF16x2 d a b => [(d, 1), (a, 1), (b, 1)]
  | .vfnmaF16x2 d a b => [(d, 1), (a, 1), (b, 1)]
  | .vminF16x2 d a b => [(d, 1), (a, 1), (b, 1)]
  | .vmaxF16x2 d a b => [(d, 1), (a, 1), (b, 1)]
  | .vabsF16x2 d a => [(d, 1), (a, 1)]
  | .vnegF16x2 d a => [(d, 1), (a, 1)]
  | .vaddBf16x2 d a b => [(d, 1), (a, 1), (b, 1)]
  | .vsubBf16x2 d a b => [(d, 1), (a, 1), (b, 1)]
  | .vmulBf16x2 d a b => [(d, 1), (a, 1), (b, 1)]
  | .vfmaBf16x2 d a b => [(d, 1), (a, 1), (b, 1)]
  | .vfmsBf16x2 d a b => [(d, 1), (a, 1), (b, 1)]
  | .vfnmaBf16x2 d a b => [(d, 1), (a, 1), (b, 1)]
  | .vminBf16x2 d a b => [(d, 1), (a, 1), (b, 1)]
  | .vmaxBf16x2 d a b => [(d, 1), (a, 1), (b, 1)]
  | .vabsBf16x2 d a => [(d, 1), (a, 1)]
  | .vnegBf16x2 d a => [(d, 1), (a, 1)]
  | .vcmpf _ _ a b => [(a, 1), (b, 1)]
  | .vaddI32 d a b => [(d, 1), (a, 1), (b, 1)]
  | .vsubI32 d a b => [(d, 1), (a, 1), (b, 1)]
  | .vmulI32 d a b => [(d, 1), (a, 1), (b, 1)]
  | .vmulh d a b => [(d, 1), (a, 1), (b, 1)]
  | .vmulhn d a b => [(d, 1), (a, 1), (b, 1)]
  | .vmad d a b => [(d, 1), (a, 1), (b, 1)]
  | .vminI32 d a b => [(d, 1), (a, 1), (b, 1)]
  | .vmaxI32 d a b => [(d, 1), (a, 1), (b, 1)]
  | .vminn d a b => [(d, 1), (a, 1), (b, 1)]
  | .vmaxn d a b => [(d, 1), (a, 1), (b, 1)]
  | .vabsI32 d a => [(d, 1), (a, 1)]
  | .vnegI32 d a => [(d, 1), (a, 1)]
  | .vaddsI32 d a b => [(d, 1), (a, 1), (b, 1)]
  | .vsubsI32 d a b => [(d, 1), (a, 1), (b, 1)]
  | .vavgI32 d a b => [(d, 1), (a, 1), (b, 1)]
  | .vaddI16 d a b => [(d, 1), (a, 1), (b, 1)]
  | .vsubI16 d a b => [(d, 1), (a, 1), (b, 1)]
  | .vaddsI16 d a b => [(d, 1), (a, 1), (b, 1)]
  | .vsubsI16 d a b => [(d, 1), (a, 1), (b, 1)]
  | .vaddsN16 d a b => [(d, 1), (a, 1), (b, 1)]
  | .vsubsN16 d a b => [(d, 1), (a, 1), (b, 1)]
  | .vavgI16 d a b => [(d, 1), (a, 1), (b, 1)]
  | .vavgN16 d a b => [(d, 1), (a, 1), (b, 1)]
  | .vaddI8 d a b => [(d, 1), (a, 1), (b, 1)]
  | .vsubI8 d a b => [(d, 1), (a, 1), (b, 1)]
  | .vaddsI8 d a b => [(d, 1), (a, 1), (b, 1)]
  | .vsubsI8 d a b => [(d, 1), (a, 1), (b, 1)]
  | .vaddsN8 d a b => [(d, 1), (a, 1), (b, 1)]
  | .vsubsN8 d a b => [(d, 1), (a, 1), (b, 1)]
  | .vavgI8 d a b => [(d, 1), (a, 1), (b, 1)]
  | .vavgN8 d a b => [(d, 1), (a, 1), (b, 1)]
  | .vand d a b => [(d, 1), (a, 1), (b, 1)]
  | .vor d a b => [(d, 1), (a, 1), (b, 1)]
  | .vxor d a b => [(d, 1), (a, 1), (b, 1)]
  | .vandn d a b => [(d, 1), (a, 1), (b, 1)]
  | .vshl d a b => [(d, 1), (a, 1), (b, 1)]
  | .vshr d a b => [(d, 1), (a, 1), (b, 1)]
  | .vsar d a b => [(d, 1), (a, 1), (b, 1)]
  | .vpopc d a => [(d, 1), (a, 1)]
  | .vclz d a => [(d, 1), (a, 1)]
  | .vbrev d a => [(d, 1), (a, 1)]
  | .vbfx d a b => [(d, 1), (a, 1), (b, 1)]
  | .vbfi d a b => [(d, 1), (a, 1), (b, 1)]
  | .vsel _ d a b => [(d, 1), (a, 1), (b, 1)]
  | .vcmpi _ _ a b => [(a, 1), (b, 1)]
  | .vcvt c d a _ => [(d, c.dstCount), (a, c.srcCount)]
  | .vrcp d a => [(d, 1), (a, 1)]
  | .vrsq d a => [(d, 1), (a, 1)]
  | .vsqrt d a => [(d, 1), (a, 1)]
  | .vexp2 d a => [(d, 1), (a, 1)]
  | .vlog2 d a => [(d, 1), (a, 1)]
  | .vsin d a => [(d, 1), (a, 1)]
  | .vcos d a => [(d, 1), (a, 1)]
  | .vtanh d a => [(d, 1), (a, 1)]
  | .vsigm d a => [(d, 1), (a, 1)]
  | .vdot4i d a b => [(d, 1), (a, 1), (b, 1)]
  | .vdot4n d a b => [(d, 1), (a, 1), (b, 1)]
  | .vdot2bf d a b => [(d, 1), (a, 1), (b, 1)]
  | .vdot2h d a b => [(d, 1), (a, 1), (b, 1)]
  | .vmovs d _ => [(d, 1)]
  | .vmovsh d _ => [(d, 1)]
  | .vlane d => [(d, 1)]
  | .vrand d => [(d, 1)]
  | .vext _ a _ => [(a, 1)]
  | .vmovi d _ => [(d, 1)]
  | .vshflIdx d a b => [(d, 1), (a, 1), (b, 1)]
  | .vshflUp d a _ => [(d, 1), (a, 1)]
  | .vshflDown d a _ => [(d, 1), (a, 1)]
  | .vshflXor d a _ => [(d, 1), (a, 1)]
  | .vshflBcast d a _ => [(d, 1), (a, 1)]
  | .vshflUpImm d a _ => [(d, 1), (a, 1)]
  | .vshflDownImm d a _ => [(d, 1), (a, 1)]
  | .vshflXorImm d a _ => [(d, 1), (a, 1)]
  | .vshflBcastImm d a _ => [(d, 1), (a, 1)]
  | .vmatch _ a => [(a, 1)]
  | .vred _ d a => [(d, 1), (a, 1)]
  | .vscan _ d a => [(d, 1), (a, 1)]
  | .vtopk k d a b => [(d, 2 * k.toNat), (a, 1), (b, 1)]
  | .vldb d _ b _ _ => [(d, 1), (b, 1)]
  | .vldbs d _ b _ _ => [(d, 1), (b, 1)]
  | .vldh d _ b _ _ => [(d, 1), (b, 1)]
  | .vldhs d _ b _ _ => [(d, 1), (b, 1)]
  | .vldw d _ b _ _ => [(d, 1), (b, 1)]
  | .vldd d _ b _ _ => [(d, 2), (b, 1)]
  | .vldq d _ b _ _ => [(d, 4), (b, 1)]
  | .vstb d _ b _ _ => [(d, 1), (b, 1)]
  | .vsth d _ b _ _ => [(d, 1), (b, 1)]
  | .vstw d _ b _ _ => [(d, 1), (b, 1)]
  | .vstd d _ b _ _ => [(d, 2), (b, 1)]
  | .vstq d _ b _ _ => [(d, 4), (b, 1)]
  | .amoa o d b _ _ => [(d, if o = .addI64 then 2 else 1), (b, 1)]
  | .amol o d b _ _ => [(d, o.group), (b, 1)]
  | .copy _ d a _ => [(d, 2), (a, 2)]
  | .copyr _ d a _ => [(d, 2), (a, 1)]
  | _ => []

/-- A group of 1, 2, 4 or 8 registers begins at a multiple of its length; a VTOPK group begins at an even register (R35, R50, R204). -/
def Instr.groupsAligned (i : Instr) : Bool :=
  match i with
  | .vtopk _ d _ _ => d.toNat % 2 == 0
  | _ => i.vregs.all fun (r, n) => r.toNat % n == 0

/-- The checks on the word itself (R35, R36, R41, R52, R205). -/
def Instr.fieldsOk : Instr → Bool
  | .bfx _ _ pos len | .bfi _ _ pos len => len != 0 && pos.toNat + len.toNat <= 64
  | .settile imm => imm == 2 || imm == 4 || imm == 8 || imm == 16 || imm == 32
  | .vcmpf _ d _ _ | .vcmpi _ d _ _ | .vmatch d _ => d != 0
  | .vtopk k _ _ _ => k != 0 && k.toNat <= 8
  | .pfx _ _ rm _ => rm != 7
  | _ => true

/-- A well-formed instruction: one the decoder of the hardware accepts in some troupe. -/
def Instr.wellFormed (i : Instr) : Bool := i.fieldsOk && i.groupsAligned

end Sys2Proof
end

