-- ==== Sys2Proof/Decode.lean ====
section
/-!
DEFINITION. Decoding and encoding of Teuri's 32-bit words, from the formats of R34, the opcode map of R49, the conversion codes of R50
and the micro-op map of R54. Decoding is total: a word that is no instruction is refused by name. The encoder after it is written
from the same tables. (`noncomputable` marks here are a limit of Lean's compiler on the number of constructors of one type; the
kernel evaluates every definition.)
-/

namespace Sys2Proof

/-- Why a word is no instruction (R52). Every one of them is an ILLOP of the troupe, or a fault of the micro-op program. -/
inductive DecodeError where
  /-- a reserved major, the all-zero word included, or a reserved micro-op code -/
  | reservedMajor
  /-- an unlisted fn, op or cond code of a listed major -/
  | reservedCode
  /-- a register field outside its class (R35) -/
  | badRegister
  /-- a nonzero field of class – or a nonzero reserved bit -/
  | unusedNotZero
  /-- a field value out of range in R36, R41, R50 or R205, or a misaligned register group -/
  | outOfRange
  deriving DecidableEq, Repr

/-- One decoding step after another: the first refusal stands. -/
def bind1 {α β : Type} (x : Except DecodeError α) (f : α → Except DecodeError β) : Except DecodeError β :=
  match x with
  | .ok a => f a
  | .error e => .error e

/-- A 7-bit field of class s (R35). -/
def sreg (n : Nat) : Except DecodeError SReg := if n < 64 then .ok (.ofNat 6 n) else .error .badRegister

/-- A 7-bit field of class k (R35). -/
def kreg (n : Nat) : Except DecodeError KReg := if n < 8 then .ok (.ofNat 3 n) else .error .badRegister

/-- A field of class –, or a reserved bit field, must be zero (R35, R39). -/
def zeroed (n : Nat) (x : Except DecodeError Instr) : Except DecodeError Instr :=
  if n = 0 then x else .error .unusedNotZero

/-- The code of FCond, as its table numbers it. -/
def FCond.ofCode (n : Nat) : Except DecodeError FCond :=
  match n with
  | 0 => .ok .eq
  | 1 => .ok .ne
  | 2 => .ok .lt
  | 3 => .ok .le
  | 4 => .ok .gt
  | 5 => .ok .ge
  | 6 => .ok .un
  | 7 => .ok .or
  | _ => .error .reservedCode

/-- The number of a code of FCond. -/
def FCond.toCode : FCond → Nat
  | .eq => 0
  | .ne => 1
  | .lt => 2
  | .le => 3
  | .gt => 4
  | .ge => 5
  | .un => 6
  | .or => 7

/-- The code of ICond, as its table numbers it. -/
def ICond.ofCode (n : Nat) : Except DecodeError ICond :=
  match n with
  | 0 => .ok .eq
  | 1 => .ok .ne
  | 2 => .ok .lt
  | 3 => .ok .le
  | 4 => .ok .gt
  | 5 => .ok .ge
  | 6 => .ok .ltn
  | 7 => .ok .len
  | 8 => .ok .gtn
  | 9 => .ok .gen
  | _ => .error .reservedCode

/-- The number of a code of ICond. -/
def ICond.toCode : ICond → Nat
  | .eq => 0
  | .ne => 1
  | .lt => 2
  | .le => 3
  | .gt => 4
  | .ge => 5
  | .ltn => 6
  | .len => 7
  | .gtn => 8
  | .gen => 9

/-- The code of BrCond, as its table numbers it. -/
def BrCond.ofCode (n : Nat) : Except DecodeError BrCond :=
  match n with
  | 0 => .ok .eqz
  | 1 => .ok .nez
  | 2 => .ok .ltz
  | 3 => .ok .gez
  | 4 => .ok .lez
  | 5 => .ok .gtz
  | _ => .error .reservedCode

/-- The number of a code of BrCond. -/
def BrCond.toCode : BrCond → Nat
  | .eqz => 0
  | .nez => 1
  | .ltz => 2
  | .gez => 3
  | .lez => 4
  | .gtz => 5

/-- The code of CvtCode, as its table numbers it. -/
def CvtCode.ofCode (n : Nat) : Except DecodeError CvtCode :=
  match n with
  | 0 => .ok .f32ToI32
  | 1 => .ok .f32ToN32
  | 2 => .ok .i32ToF32
  | 3 => .ok .n32ToF32
  | 4 => .ok .f32ToF16
  | 5 => .ok .f16ToF32
  | 6 => .ok .f32ToBf16
  | 7 => .ok .bf16ToF32
  | 8 => .ok .f32ToE4m3
  | 9 => .ok .f32ToE5m2
  | 10 => .ok .e4m3ToF32
  | 11 => .ok .e5m2ToF32
  | 12 => .ok .f32ToE2m1
  | 13 => .ok .e2m1ToF32
  | 14 => .ok .f32ToI8
  | 15 => .ok .i8ToF32
  | _ => .error .reservedCode

/-- The number of a code of CvtCode. -/
def CvtCode.toCode : CvtCode → Nat
  | .f32ToI32 => 0
  | .f32ToN32 => 1
  | .i32ToF32 => 2
  | .n32ToF32 => 3
  | .f32ToF16 => 4
  | .f16ToF32 => 5
  | .f32ToBf16 => 6
  | .bf16ToF32 => 7
  | .f32ToE4m3 => 8
  | .f32ToE5m2 => 9
  | .e4m3ToF32 => 10
  | .e5m2ToF32 => 11
  | .f32ToE2m1 => 12
  | .e2m1ToF32 => 13
  | .f32ToI8 => 14
  | .i8ToF32 => 15

/-- The code of RedOp, as its table numbers it. -/
def RedOp.ofCode (n : Nat) : Except DecodeError RedOp :=
  match n with
  | 0 => .ok .addI32
  | 1 => .ok .addF32
  | 2 => .ok .minI32
  | 3 => .ok .maxI32
  | 4 => .ok .minN32
  | 5 => .ok .maxN32
  | 6 => .ok .minF32
  | 7 => .ok .maxF32
  | 8 => .ok .and
  | 9 => .ok .or
  | 10 => .ok .xor
  | _ => .error .reservedCode

/-- The number of a code of RedOp. -/
def RedOp.toCode : RedOp → Nat
  | .addI32 => 0
  | .addF32 => 1
  | .minI32 => 2
  | .maxI32 => 3
  | .minN32 => 4
  | .maxN32 => 5
  | .minF32 => 6
  | .maxF32 => 7
  | .and => 8
  | .or => 9
  | .xor => 10

/-- The code of AmoaOp, as its table numbers it. -/
def AmoaOp.ofCode (n : Nat) : Except DecodeError AmoaOp :=
  match n with
  | 0 => .ok .addI32
  | 1 => .ok .addI64
  | 2 => .ok .min
  | 3 => .ok .max
  | 4 => .ok .minn
  | 5 => .ok .maxn
  | 6 => .ok .faddF32
  | 7 => .ok .faddBf16
  | 8 => .ok .fminF32
  | 9 => .ok .fmaxF32
  | 10 => .ok .incWrap
  | _ => .error .reservedCode

/-- The number of a code of AmoaOp. -/
def AmoaOp.toCode : AmoaOp → Nat
  | .addI32 => 0
  | .addI64 => 1
  | .min => 2
  | .max => 3
  | .minn => 4
  | .maxn => 5
  | .faddF32 => 6
  | .faddBf16 => 7
  | .fminF32 => 8
  | .fmaxF32 => 9
  | .incWrap => 10

/-- The code of AmolOp, as its table numbers it. -/
def AmolOp.ofCode (n : Nat) : Except DecodeError AmolOp :=
  match n with
  | 0 => .ok .and
  | 1 => .ok .or
  | 2 => .ok .xor
  | 3 => .ok .swap
  | 4 => .ok .cas32
  | 5 => .ok .cas64
  | 6 => .ok .and64
  | 7 => .ok .or64
  | 8 => .ok .xor64
  | _ => .error .reservedCode

/-- The number of a code of AmolOp. -/
def AmolOp.toCode : AmolOp → Nat
  | .and => 0
  | .or => 1
  | .xor => 2
  | .swap => 3
  | .cas32 => 4
  | .cas64 => 5
  | .and64 => 6
  | .or64 => 7
  | .xor64 => 8

/-- The code of WaitCond, as its table numbers it. -/
def WaitCond.ofCode (n : Nat) : Except DecodeError WaitCond :=
  match n with
  | 0 => .ok .ge
  | 1 => .ok .eq
  | 2 => .ok .ne
  | 3 => .ok .gen
  | _ => .error .reservedCode

/-- The number of a code of WaitCond. -/
def WaitCond.toCode : WaitCond → Nat
  | .ge => 0
  | .eq => 1
  | .ne => 2
  | .gen => 3

/-- The code of CopySize, as its table numbers it. -/
def CopySize.ofCode (n : Nat) : Except DecodeError CopySize :=
  match n with
  | 0 => .ok .b4
  | 1 => .ok .b8
  | 2 => .ok .b16
  | _ => .error .reservedCode

/-- The number of a code of CopySize. -/
def CopySize.toCode : CopySize → Nat
  | .b4 => 0
  | .b8 => 1
  | .b16 => 2

/-- The code of CopyrOp, as its table numbers it. -/
def CopyrOp.ofCode (n : Nat) : Except DecodeError CopyrOp :=
  match n with
  | 0 => .ok .addI32
  | 1 => .ok .addF32
  | 2 => .ok .addBf16
  | 3 => .ok .addBf16SrSat
  | 4 => .ok .addBf16Sr
  | 5 => .ok .minI32
  | 6 => .ok .maxI32
  | 7 => .ok .and
  | 8 => .ok .or
  | _ => .error .reservedCode

/-- The number of a code of CopyrOp. -/
def CopyrOp.toCode : CopyrOp → Nat
  | .addI32 => 0
  | .addF32 => 1
  | .addBf16 => 2
  | .addBf16SrSat => 3
  | .addBf16Sr => 4
  | .minI32 => 5
  | .maxI32 => 6
  | .and => 7
  | .or => 8

/-- The code of OrdScope, as its table numbers it. -/
def OrdScope.ofCode (n : Nat) : Except DecodeError OrdScope :=
  match n with
  | 0 => .ok .troupe
  | 1 => .ok .gang
  | 2 => .ok .device
  | 3 => .ok .system
  | _ => .error .reservedCode

/-- The number of a code of OrdScope. -/
def OrdScope.toCode : OrdScope → Nat
  | .troupe => 0
  | .gang => 1
  | .device => 2
  | .system => 3

/-- The code of OrdOrder, as its table numbers it. -/
def OrdOrder.ofCode (n : Nat) : Except DecodeError OrdOrder :=
  match n with
  | 0 => .ok .relaxed
  | 1 => .ok .acquire
  | 2 => .ok .release
  | 3 => .ok .acqRel
  | _ => .error .reservedCode

/-- The number of a code of OrdOrder. -/
def OrdOrder.toCode : OrdOrder → Nat
  | .relaxed => 0
  | .acquire => 1
  | .release => 2
  | .acqRel => 3

/-- Major 0x01, format A (R49). -/
def decode01 (w : Nat) : Except DecodeError Instr :=
  match bitsOf w 24 21 with
  | 0 => bind1 (sreg (bitsOf w 20 14)) fun d => bind1 (sreg (bitsOf w 13 7)) fun a => bind1 (sreg (bitsOf w 6 0)) fun b => .ok (.add d a b)
  | 1 => bind1 (sreg (bitsOf w 20 14)) fun d => bind1 (sreg (bitsOf w 13 7)) fun a => bind1 (sreg (bitsOf w 6 0)) fun b => .ok (.sub d a b)
  | 2 => bind1 (sreg (bitsOf w 20 14)) fun d => bind1 (sreg (bitsOf w 13 7)) fun a => bind1 (sreg (bitsOf w 6 0)) fun b => .ok (.mul d a b)
  | 3 => bind1 (sreg (bitsOf w 20 14)) fun d => bind1 (sreg (bitsOf w 13 7)) fun a => bind1 (sreg (bitsOf w 6 0)) fun b => .ok (.mulh d a b)
  | 4 => bind1 (sreg (bitsOf w 20 14)) fun d => bind1 (sreg (bitsOf w 13 7)) fun a => bind1 (sreg (bitsOf w 6 0)) fun b => .ok (.mulhn d a b)
  | 5 => bind1 (sreg (bitsOf w 20 14)) fun d => bind1 (sreg (bitsOf w 13 7)) fun a => bind1 (sreg (bitsOf w 6 0)) fun b => .ok (.div d a b)
  | 6 => bind1 (sreg (bitsOf w 20 14)) fun d => bind1 (sreg (bitsOf w 13 7)) fun a => bind1 (sreg (bitsOf w 6 0)) fun b => .ok (.divn d a b)
  | 7 => bind1 (sreg (bitsOf w 20 14)) fun d => bind1 (sreg (bitsOf w 13 7)) fun a => bind1 (sreg (bitsOf w 6 0)) fun b => .ok (.rem d a b)
  | 8 => bind1 (sreg (bitsOf w 20 14)) fun d => bind1 (sreg (bitsOf w 13 7)) fun a => bind1 (sreg (bitsOf w 6 0)) fun b => .ok (.remn d a b)
  | 9 => bind1 (sreg (bitsOf w 20 14)) fun d => bind1 (sreg (bitsOf w 13 7)) fun a => bind1 (sreg (bitsOf w 6 0)) fun b => .ok (.min d a b)
  | 10 => bind1 (sreg (bitsOf w 20 14)) fun d => bind1 (sreg (bitsOf w 13 7)) fun a => bind1 (sreg (bitsOf w 6 0)) fun b => .ok (.max d a b)
  | 11 => bind1 (sreg (bitsOf w 20 14)) fun d => bind1 (sreg (bitsOf w 13 7)) fun a => bind1 (sreg (bitsOf w 6 0)) fun b => .ok (.minn d a b)
  | 12 => bind1 (sreg (bitsOf w 20 14)) fun d => bind1 (sreg (bitsOf w 13 7)) fun a => bind1 (sreg (bitsOf w 6 0)) fun b => .ok (.maxn d a b)
  | _ => .error .reservedCode

/-- Major 0x02, format A (R49). -/
def decode02 (w : Nat) : Except DecodeError Instr :=
  match bitsOf w 24 21 with
  | 0 => bind1 (sreg (bitsOf w 20 14)) fun d => bind1 (sreg (bitsOf w 13 7)) fun a => bind1 (sreg (bitsOf w 6 0)) fun b => .ok (.and d a b)
  | 1 => bind1 (sreg (bitsOf w 20 14)) fun d => bind1 (sreg (bitsOf w 13 7)) fun a => bind1 (sreg (bitsOf w 6 0)) fun b => .ok (.or d a b)
  | 2 => bind1 (sreg (bitsOf w 20 14)) fun d => bind1 (sreg (bitsOf w 13 7)) fun a => bind1 (sreg (bitsOf w 6 0)) fun b => .ok (.xor d a b)
  | 3 => bind1 (sreg (bitsOf w 20 14)) fun d => bind1 (sreg (bitsOf w 13 7)) fun a => bind1 (sreg (bitsOf w 6 0)) fun b => .ok (.andn d a b)
  | 4 => bind1 (sreg (bitsOf w 20 14)) fun d => bind1 (sreg (bitsOf w 13 7)) fun a => bind1 (sreg (bitsOf w 6 0)) fun b => .ok (.shl d a b)
  | 5 => bind1 (sreg (bitsOf w 20 14)) fun d => bind1 (sreg (bitsOf w 13 7)) fun a => bind1 (sreg (bitsOf w 6 0)) fun b => .ok (.shr d a b)
  | 6 => bind1 (sreg (bitsOf w 20 14)) fun d => bind1 (sreg (bitsOf w 13 7)) fun a => bind1 (sreg (bitsOf w 6 0)) fun b => .ok (.sar d a b)
  | 7 => bind1 (sreg (bitsOf w 20 14)) fun d => bind1 (sreg (bitsOf w 13 7)) fun a => bind1 (sreg (bitsOf w 6 0)) fun b => .ok (.seq d a b)
  | 8 => bind1 (sreg (bitsOf w 20 14)) fun d => bind1 (sreg (bitsOf w 13 7)) fun a => bind1 (sreg (bitsOf w 6 0)) fun b => .ok (.sne d a b)
  | 9 => bind1 (sreg (bitsOf w 20 14)) fun d => bind1 (sreg (bitsOf w 13 7)) fun a => bind1 (sreg (bitsOf w 6 0)) fun b => .ok (.slt d a b)
  | 10 => bind1 (sreg (bitsOf w 20 14)) fun d => bind1 (sreg (bitsOf w 13 7)) fun a => bind1 (sreg (bitsOf w 6 0)) fun b => .ok (.sltn d a b)
  | 11 => bind1 (sreg (bitsOf w 20 14)) fun d => bind1 (sreg (bitsOf w 13 7)) fun a => bind1 (sreg (bitsOf w 6 0)) fun b => .ok (.sel d a b)
  | 12 => zeroed (bitsOf w 6 0) (bind1 (sreg (bitsOf w 20 14)) fun d => bind1 (sreg (bitsOf w 13 7)) fun a => .ok (.clz d a))
  | 13 => zeroed (bitsOf w 6 0) (bind1 (sreg (bitsOf w 20 14)) fun d => bind1 (sreg (bitsOf w 13 7)) fun a => .ok (.ctz d a))
  | 14 => zeroed (bitsOf w 6 0) (bind1 (sreg (bitsOf w 20 14)) fun d => bind1 (sreg (bitsOf w 13 7)) fun a => .ok (.popc d a))
  | 15 => zeroed (bitsOf w 6 0) (bind1 (sreg (bitsOf w 20 14)) fun d => bind1 (sreg (bitsOf w 13 7)) fun a => .ok (.brev d a))
  | _ => .error .reservedCode

/-- Major 0x03, format B (R49). -/
def decode03 (w : Nat) : Except DecodeError Instr :=
  bind1 (sreg (bitsOf w 24 18)) fun d => bind1 (sreg (bitsOf w 17 11)) fun a => .ok (.bfx d a (.ofNat 6 (bitsOf w 10 5)) (.ofNat 5 (bitsOf w 4 0)))

/-- Major 0x04, format B (R49). -/
def decode04 (w : Nat) : Except DecodeError Instr :=
  bind1 (sreg (bitsOf w 24 18)) fun d => bind1 (sreg (bitsOf w 17 11)) fun a => .ok (.bfi d a (.ofNat 6 (bitsOf w 10 5)) (.ofNat 5 (bitsOf w 4 0)))

/-- Major 0x05, format B (R49). -/
def decode05 (w : Nat) : Except DecodeError Instr :=
  bind1 (sreg (bitsOf w 24 18)) fun d => bind1 (sreg (bitsOf w 17 11)) fun a => .ok (.addi d a (.ofNat 11 (bitsOf w 10 0)))

/-- Major 0x06, format B (R49). -/
def decode06 (w : Nat) : Except DecodeError Instr :=
  bind1 (sreg (bitsOf w 24 18)) fun d => bind1 (sreg (bitsOf w 17 11)) fun a => .ok (.andi d a (.ofNat 11 (bitsOf w 10 0)))

/-- Major 0x07, format B (R49). -/
def decode07 (w : Nat) : Except DecodeError Instr :=
  bind1 (sreg (bitsOf w 24 18)) fun d => bind1 (sreg (bitsOf w 17 11)) fun a => .ok (.ori d a (.ofNat 11 (bitsOf w 10 0)))

/-- Major 0x08, format B (R49). -/
def decode08 (w : Nat) : Except DecodeError Instr :=
  bind1 (sreg (bitsOf w 24 18)) fun d => bind1 (sreg (bitsOf w 17 11)) fun a => .ok (.xori d a (.ofNat 11 (bitsOf w 10 0)))

/-- Major 0x09, format B (R49). -/
def decode09 (w : Nat) : Except DecodeError Instr :=
  zeroed (bitsOf w 10 6) (bind1 (sreg (bitsOf w 24 18)) fun d => bind1 (sreg (bitsOf w 17 11)) fun a => .ok (.shli d a (.ofNat 6 (bitsOf w 5 0))))

/-- Major 0x0A, format B (R49). -/
def decode0A (w : Nat) : Except DecodeError Instr :=
  zeroed (bitsOf w 10 6) (bind1 (sreg (bitsOf w 24 18)) fun d => bind1 (sreg (bitsOf w 17 11)) fun a => .ok (.shri d a (.ofNat 6 (bitsOf w 5 0))))

/-- Major 0x0B, format B (R49). -/
def decode0B (w : Nat) : Except DecodeError Instr :=
  zeroed (bitsOf w 10 6) (bind1 (sreg (bitsOf w 24 18)) fun d => bind1 (sreg (bitsOf w 17 11)) fun a => .ok (.sari d a (.ofNat 6 (bitsOf w 5 0))))

/-- Major 0x0C, format B (R49). -/
def decode0C (w : Nat) : Except DecodeError Instr :=
  bind1 (sreg (bitsOf w 24 18)) fun d => bind1 (sreg (bitsOf w 17 11)) fun a => .ok (.slti d a (.ofNat 11 (bitsOf w 10 0)))

/-- Major 0x0D, format C (R49). -/
def decode0D (w : Nat) : Except DecodeError Instr :=
  bind1 (sreg (bitsOf w 24 18)) fun d => .ok (.movi d (.ofNat 18 (bitsOf w 17 0)))

/-- Major 0x0E, format C (R49). -/
def decode0E (w : Nat) : Except DecodeError Instr :=
  bind1 (sreg (bitsOf w 24 18)) fun d => .ok (.addpc d (.ofNat 18 (bitsOf w 17 0)))

/-- Major 0x0F, format A (R49). -/
def decode0F (w : Nat) : Except DecodeError Instr :=
  match bitsOf w 24 21 with
  | 0 => bind1 (sreg (bitsOf w 20 14)) fun d => bind1 (sreg (bitsOf w 13 7)) fun a => bind1 (sreg (bitsOf w 6 0)) fun b => .ok (.sfaddF64 d a b)
  | 1 => bind1 (sreg (bitsOf w 20 14)) fun d => bind1 (sreg (bitsOf w 13 7)) fun a => bind1 (sreg (bitsOf w 6 0)) fun b => .ok (.sfsubF64 d a b)
  | 2 => bind1 (sreg (bitsOf w 20 14)) fun d => bind1 (sreg (bitsOf w 13 7)) fun a => bind1 (sreg (bitsOf w 6 0)) fun b => .ok (.sfmulF64 d a b)
  | 3 => bind1 (sreg (bitsOf w 20 14)) fun d => bind1 (sreg (bitsOf w 13 7)) fun a => bind1 (sreg (bitsOf w 6 0)) fun b => .ok (.sffmaF64 d a b)
  | 4 => bind1 (sreg (bitsOf w 20 14)) fun d => bind1 (sreg (bitsOf w 13 7)) fun a => bind1 (sreg (bitsOf w 6 0)) fun b => .ok (.sfdivF64 d a b)
  | 5 => bind1 (sreg (bitsOf w 20 14)) fun d => bind1 (sreg (bitsOf w 13 7)) fun a => bind1 (sreg (bitsOf w 6 0)) fun b => .ok (.sfcmpF64 d a b)
  | 6 => bind1 (sreg (bitsOf w 20 14)) fun d => bind1 (sreg (bitsOf w 13 7)) fun a => bind1 (sreg (bitsOf w 6 0)) fun b => .ok (.sfcvtF64 d a b)
  | 8 => bind1 (sreg (bitsOf w 20 14)) fun d => bind1 (sreg (bitsOf w 13 7)) fun a => bind1 (sreg (bitsOf w 6 0)) fun b => .ok (.sfaddF32 d a b)
  | 9 => bind1 (sreg (bitsOf w 20 14)) fun d => bind1 (sreg (bitsOf w 13 7)) fun a => bind1 (sreg (bitsOf w 6 0)) fun b => .ok (.sfsubF32 d a b)
  | 10 => bind1 (sreg (bitsOf w 20 14)) fun d => bind1 (sreg (bitsOf w 13 7)) fun a => bind1 (sreg (bitsOf w 6 0)) fun b => .ok (.sfmulF32 d a b)
  | 11 => bind1 (sreg (bitsOf w 20 14)) fun d => bind1 (sreg (bitsOf w 13 7)) fun a => bind1 (sreg (bitsOf w 6 0)) fun b => .ok (.sffmaF32 d a b)
  | 12 => bind1 (sreg (bitsOf w 20 14)) fun d => bind1 (sreg (bitsOf w 13 7)) fun a => bind1 (sreg (bitsOf w 6 0)) fun b => .ok (.sfdivF32 d a b)
  | 13 => bind1 (sreg (bitsOf w 20 14)) fun d => bind1 (sreg (bitsOf w 13 7)) fun a => bind1 (sreg (bitsOf w 6 0)) fun b => .ok (.sfcmpF32 d a b)
  | 14 => bind1 (sreg (bitsOf w 20 14)) fun d => bind1 (sreg (bitsOf w 13 7)) fun a => bind1 (sreg (bitsOf w 6 0)) fun b => .ok (.sfcvtF32 d a b)
  | _ => .error .reservedCode

/-- Major 0x10, format MS (R49). -/
def decode10 (w : Nat) : Except DecodeError Instr :=
  bind1 (sreg (bitsOf w 24 18)) fun d => .ok (.ldb d (.ofNat 6 (bitsOf w 17 12)) (.ofNat 4 (bitsOf w 11 8)) (.ofNat 8 (bitsOf w 7 0)))

/-- Major 0x11, format MS (R49). -/
def decode11 (w : Nat) : Except DecodeError Instr :=
  bind1 (sreg (bitsOf w 24 18)) fun d => .ok (.ldbs d (.ofNat 6 (bitsOf w 17 12)) (.ofNat 4 (bitsOf w 11 8)) (.ofNat 8 (bitsOf w 7 0)))

/-- Major 0x12, format MS (R49). -/
def decode12 (w : Nat) : Except DecodeError Instr :=
  bind1 (sreg (bitsOf w 24 18)) fun d => .ok (.ldh d (.ofNat 6 (bitsOf w 17 12)) (.ofNat 4 (bitsOf w 11 8)) (.ofNat 8 (bitsOf w 7 0)))

/-- Major 0x13, format MS (R49). -/
def decode13 (w : Nat) : Except DecodeError Instr :=
  bind1 (sreg (bitsOf w 24 18)) fun d => .ok (.ldhs d (.ofNat 6 (bitsOf w 17 12)) (.ofNat 4 (bitsOf w 11 8)) (.ofNat 8 (bitsOf w 7 0)))

/-- Major 0x14, format MS (R49). -/
def decode14 (w : Nat) : Except DecodeError Instr :=
  bind1 (sreg (bitsOf w 24 18)) fun d => .ok (.ldw d (.ofNat 6 (bitsOf w 17 12)) (.ofNat 4 (bitsOf w 11 8)) (.ofNat 8 (bitsOf w 7 0)))

/-- Major 0x15, format MS (R49). -/
def decode15 (w : Nat) : Except DecodeError Instr :=
  bind1 (sreg (bitsOf w 24 18)) fun d => .ok (.ldws d (.ofNat 6 (bitsOf w 17 12)) (.ofNat 4 (bitsOf w 11 8)) (.ofNat 8 (bitsOf w 7 0)))

/-- Major 0x16, format MS (R49). -/
def decode16 (w : Nat) : Except DecodeError Instr :=
  bind1 (sreg (bitsOf w 24 18)) fun d => .ok (.ldd d (.ofNat 6 (bitsOf w 17 12)) (.ofNat 4 (bitsOf w 11 8)) (.ofNat 8 (bitsOf w 7 0)))

/-- Major 0x17, format MS (R49). -/
def decode17 (w : Nat) : Except DecodeError Instr :=
  bind1 (sreg (bitsOf w 24 18)) fun d => .ok (.stb d (.ofNat 6 (bitsOf w 17 12)) (.ofNat 4 (bitsOf w 11 8)) (.ofNat 8 (bitsOf w 7 0)))

/-- Major 0x18, format MS (R49). -/
def decode18 (w : Nat) : Except DecodeError Instr :=
  bind1 (sreg (bitsOf w 24 18)) fun d => .ok (.sth d (.ofNat 6 (bitsOf w 17 12)) (.ofNat 4 (bitsOf w 11 8)) (.ofNat 8 (bitsOf w 7 0)))

/-- Major 0x19, format MS (R49). -/
def decode19 (w : Nat) : Except DecodeError Instr :=
  bind1 (sreg (bitsOf w 24 18)) fun d => .ok (.stw d (.ofNat 6 (bitsOf w 17 12)) (.ofNat 4 (bitsOf w 11 8)) (.ofNat 8 (bitsOf w 7 0)))

/-- Major 0x1A, format MS (R49). -/
def decode1A (w : Nat) : Except DecodeError Instr :=
  bind1 (sreg (bitsOf w 24 18)) fun d => .ok (.std d (.ofNat 6 (bitsOf w 17 12)) (.ofNat 4 (bitsOf w 11 8)) (.ofNat 8 (bitsOf w 7 0)))

/-- Major 0x1B, format E (R49). -/
def decode1B (w : Nat) : Except DecodeError Instr :=
  .ok (.br (.ofNat 25 (bitsOf w 24 0)))

/-- Major 0x1C, format D (R49). -/
def decode1C (w : Nat) : Except DecodeError Instr :=
  bind1 (BrCond.ofCode (bitsOf w 24 21)) fun c => bind1 (sreg (bitsOf w 20 14)) fun a => .ok (.brc c a (.ofNat 14 (bitsOf w 13 0)))

/-- Major 0x1D, format E (R49). -/
def decode1D (w : Nat) : Except DecodeError Instr :=
  .ok (.call (.ofNat 25 (bitsOf w 24 0)))

/-- Major 0x1E, format A (R49). -/
def decode1E (w : Nat) : Except DecodeError Instr :=
  match bitsOf w 24 21 with
  | 0 => zeroed (bitsOf w 20 14) (zeroed (bitsOf w 6 0) (bind1 (sreg (bitsOf w 13 7)) fun a => .ok (.callr a)))
  | 1 => zeroed (bitsOf w 20 14) (zeroed (bitsOf w 13 7) (zeroed (bitsOf w 6 0) (.ok .ret)))
  | 2 => zeroed (bitsOf w 20 14) (zeroed (bitsOf w 6 0) (bind1 (sreg (bitsOf w 13 7)) fun a => .ok (.jmpr a)))
  | 3 => zeroed (bitsOf w 6 0) (bind1 (sreg (bitsOf w 20 14)) fun d => .ok (.mfs d (.ofNat 7 (bitsOf w 13 7))))
  | 4 => zeroed (bitsOf w 6 0) (bind1 (sreg (bitsOf w 13 7)) fun a => .ok (.mts (.ofNat 7 (bitsOf w 20 14)) a))
  | 5 => zeroed (bitsOf w 20 14) (zeroed (bitsOf w 13 7) (zeroed (bitsOf w 6 0) (.ok .nop)))
  | 6 => zeroed (bitsOf w 20 14) (.ok (.brk (.ofNat 14 (bitsOf w 13 0))))
  | 7 => zeroed (bitsOf w 20 14) (.ok (.sys (.ofNat 14 (bitsOf w 13 0))))
  | 8 => zeroed (bitsOf w 13 7) (zeroed (bitsOf w 6 0) (bind1 (sreg (bitsOf w 20 14)) fun d => .ok (.clk d)))
  | 9 => zeroed (bitsOf w 20 14) (zeroed (bitsOf w 13 7) (zeroed (bitsOf w 6 0) (.ok .exit)))
  | 10 => zeroed (bitsOf w 20 14) (zeroed (bitsOf w 13 7) (zeroed (bitsOf w 6 0) (.ok .yield)))
  | 11 => zeroed (bitsOf w 6 0) (bind1 (sreg (bitsOf w 20 14)) fun d => .ok (.mfc d (.ofNat 7 (bitsOf w 13 7))))
  | 12 => zeroed (bitsOf w 6 0) (bind1 (sreg (bitsOf w 13 7)) fun a => .ok (.mtc (.ofNat 7 (bitsOf w 20 14)) a))
  | _ => .error .reservedCode

/-- Major 0x1F, format A (R49). -/
def decode1F (w : Nat) : Except DecodeError Instr :=
  match bitsOf w 24 21 with
  | 0 => zeroed (bitsOf w 20 14) (zeroed (bitsOf w 13 7) (zeroed (bitsOf w 6 0) (.ok .eret)))
  | 1 => zeroed (bitsOf w 20 14) (bind1 (sreg (bitsOf w 13 7)) fun a => bind1 (sreg (bitsOf w 6 0)) fun b => .ok (.tlbi a b))
  | 2 => zeroed (bitsOf w 20 14) (zeroed (bitsOf w 13 7) (zeroed (bitsOf w 6 0) (.ok .idle)))
  | _ => .error .reservedCode

/-- Major 0x20, format A (R49). -/
def decode20 (w : Nat) : Except DecodeError Instr :=
  match bitsOf w 24 21 with
  | 0 => .ok (.vaddF32 (.ofNat 7 (bitsOf w 20 14)) (.ofNat 7 (bitsOf w 13 7)) (.ofNat 7 (bitsOf w 6 0)))
  | 1 => .ok (.vsubF32 (.ofNat 7 (bitsOf w 20 14)) (.ofNat 7 (bitsOf w 13 7)) (.ofNat 7 (bitsOf w 6 0)))
  | 2 => .ok (.vmulF32 (.ofNat 7 (bitsOf w 20 14)) (.ofNat 7 (bitsOf w 13 7)) (.ofNat 7 (bitsOf w 6 0)))
  | 3 => .ok (.vfmaF32 (.ofNat 7 (bitsOf w 20 14)) (.ofNat 7 (bitsOf w 13 7)) (.ofNat 7 (bitsOf w 6 0)))
  | 4 => .ok (.vfmsF32 (.ofNat 7 (bitsOf w 20 14)) (.ofNat 7 (bitsOf w 13 7)) (.ofNat 7 (bitsOf w 6 0)))
  | 5 => .ok (.vfnmaF32 (.ofNat 7 (bitsOf w 20 14)) (.ofNat 7 (bitsOf w 13 7)) (.ofNat 7 (bitsOf w 6 0)))
  | 6 => .ok (.vminF32 (.ofNat 7 (bitsOf w 20 14)) (.ofNat 7 (bitsOf w 13 7)) (.ofNat 7 (bitsOf w 6 0)))
  | 7 => .ok (.vmaxF32 (.ofNat 7 (bitsOf w 20 14)) (.ofNat 7 (bitsOf w 13 7)) (.ofNat 7 (bitsOf w 6 0)))
  | 8 => zeroed (bitsOf w 6 0) (.ok (.vabsF32 (.ofNat 7 (bitsOf w 20 14)) (.ofNat 7 (bitsOf w 13 7))))
  | 9 => zeroed (bitsOf w 6 0) (.ok (.vnegF32 (.ofNat 7 (bitsOf w 20 14)) (.ofNat 7 (bitsOf w 13 7))))
  | 10 => .ok (.vscaleF32 (.ofNat 7 (bitsOf w 20 14)) (.ofNat 7 (bitsOf w 13 7)) (.ofNat 7 (bitsOf w 6 0)))
  | 11 => zeroed (bitsOf w 6 0) (.ok (.vgetexpF32 (.ofNat 7 (bitsOf w 20 14)) (.ofNat 7 (bitsOf w 13 7))))
  | 12 => zeroed (bitsOf w 6 0) (.ok (.vrndF32 (.ofNat 7 (bitsOf w 20 14)) (.ofNat 7 (bitsOf w 13 7))))
  | 13 => .ok (.vclampF32 (.ofNat 7 (bitsOf w 20 14)) (.ofNat 7 (bitsOf w 13 7)) (.ofNat 7 (bitsOf w 6 0)))
  | 14 => zeroed (bitsOf w 6 0) (.ok (.vmovF32 (.ofNat 7 (bitsOf w 20 14)) (.ofNat 7 (bitsOf w 13 7))))
  | _ => .error .reservedCode

/-- Major 0x21, format A (R49). -/
def decode21 (w : Nat) : Except DecodeError Instr :=
  match bitsOf w 24 21 with
  | 0 => .ok (.vaddF16x2 (.ofNat 7 (bitsOf w 20 14)) (.ofNat 7 (bitsOf w 13 7)) (.ofNat 7 (bitsOf w 6 0)))
  | 1 => .ok (.vsubF16x2 (.ofNat 7 (bitsOf w 20 14)) (.ofNat 7 (bitsOf w 13 7)) (.ofNat 7 (bitsOf w 6 0)))
  | 2 => .ok (.vmulF16x2 (.ofNat 7 (bitsOf w 20 14)) (.ofNat 7 (bitsOf w 13 7)) (.ofNat 7 (bitsOf w 6 0)))
  | 3 => .ok (.vfmaF16x2 (.ofNat 7 (bitsOf w 20 14)) (.ofNat 7 (bitsOf w 13 7)) (.ofNat 7 (bitsOf w 6 0)))
  | 4 => .ok (.vfmsF16x2 (.ofNat 7 (bitsOf w 20 14)) (.ofNat 7 (bitsOf w 13 7)) (.ofNat 7 (bitsOf w 6 0)))
  | 5 => .ok (.vfnmaF16x2 (.ofNat 7 (bitsOf w 20 14)) (.ofNat 7 (bitsOf w 13 7)) (.ofNat 7 (bitsOf w 6 0)))
  | 6 => .ok (.vminF16x2 (.ofNat 7 (bitsOf w 20 14)) (.ofNat 7 (bitsOf w 13 7)) (.ofNat 7 (bitsOf w 6 0)))
  | 7 => .ok (.vmaxF16x2 (.ofNat 7 (bitsOf w 20 14)) (.ofNat 7 (bitsOf w 13 7)) (.ofNat 7 (bitsOf w 6 0)))
  | 8 => zeroed (bitsOf w 6 0) (.ok (.vabsF16x2 (.ofNat 7 (bitsOf w 20 14)) (.ofNat 7 (bitsOf w 13 7))))
  | 9 => zeroed (bitsOf w 6 0) (.ok (.vnegF16x2 (.ofNat 7 (bitsOf w 20 14)) (.ofNat 7 (bitsOf w 13 7))))
  | _ => .error .reservedCode

/-- Major 0x22, format A (R49). -/
def decode22 (w : Nat) : Except DecodeError Instr :=
  match bitsOf w 24 21 with
  | 0 => .ok (.vaddBf16x2 (.ofNat 7 (bitsOf w 20 14)) (.ofNat 7 (bitsOf w 13 7)) (.ofNat 7 (bitsOf w 6 0)))
  | 1 => .ok (.vsubBf16x2 (.ofNat 7 (bitsOf w 20 14)) (.ofNat 7 (bitsOf w 13 7)) (.ofNat 7 (bitsOf w 6 0)))
  | 2 => .ok (.vmulBf16x2 (.ofNat 7 (bitsOf w 20 14)) (.ofNat 7 (bitsOf w 13 7)) (.ofNat 7 (bitsOf w 6 0)))
  | 3 => .ok (.vfmaBf16x2 (.ofNat 7 (bitsOf w 20 14)) (.ofNat 7 (bitsOf w 13 7)) (.ofNat 7 (bitsOf w 6 0)))
  | 4 => .ok (.vfmsBf16x2 (.ofNat 7 (bitsOf w 20 14)) (.ofNat 7 (bitsOf w 13 7)) (.ofNat 7 (bitsOf w 6 0)))
  | 5 => .ok (.vfnmaBf16x2 (.ofNat 7 (bitsOf w 20 14)) (.ofNat 7 (bitsOf w 13 7)) (.ofNat 7 (bitsOf w 6 0)))
  | 6 => .ok (.vminBf16x2 (.ofNat 7 (bitsOf w 20 14)) (.ofNat 7 (bitsOf w 13 7)) (.ofNat 7 (bitsOf w 6 0)))
  | 7 => .ok (.vmaxBf16x2 (.ofNat 7 (bitsOf w 20 14)) (.ofNat 7 (bitsOf w 13 7)) (.ofNat 7 (bitsOf w 6 0)))
  | 8 => zeroed (bitsOf w 6 0) (.ok (.vabsBf16x2 (.ofNat 7 (bitsOf w 20 14)) (.ofNat 7 (bitsOf w 13 7))))
  | 9 => zeroed (bitsOf w 6 0) (.ok (.vnegBf16x2 (.ofNat 7 (bitsOf w 20 14)) (.ofNat 7 (bitsOf w 13 7))))
  | _ => .error .reservedCode

/-- Major 0x23, format A (R49). -/
def decode23 (w : Nat) : Except DecodeError Instr :=
  bind1 (FCond.ofCode (bitsOf w 24 21)) fun c => bind1 (kreg (bitsOf w 20 14)) fun d => .ok (.vcmpf c d (.ofNat 7 (bitsOf w 13 7)) (.ofNat 7 (bitsOf w 6 0)))

/-- Major 0x24, format A (R49). -/
def decode24 (w : Nat) : Except DecodeError Instr :=
  match bitsOf w 24 21 with
  | 0 => .ok (.vaddI32 (.ofNat 7 (bitsOf w 20 14)) (.ofNat 7 (bitsOf w 13 7)) (.ofNat 7 (bitsOf w 6 0)))
  | 1 => .ok (.vsubI32 (.ofNat 7 (bitsOf w 20 14)) (.ofNat 7 (bitsOf w 13 7)) (.ofNat 7 (bitsOf w 6 0)))
  | 2 => .ok (.vmulI32 (.ofNat 7 (bitsOf w 20 14)) (.ofNat 7 (bitsOf w 13 7)) (.ofNat 7 (bitsOf w 6 0)))
  | 3 => .ok (.vmulh (.ofNat 7 (bitsOf w 20 14)) (.ofNat 7 (bitsOf w 13 7)) (.ofNat 7 (bitsOf w 6 0)))
  | 4 => .ok (.vmulhn (.ofNat 7 (bitsOf w 20 14)) (.ofNat 7 (bitsOf w 13 7)) (.ofNat 7 (bitsOf w 6 0)))
  | 5 => .ok (.vmad (.ofNat 7 (bitsOf w 20 14)) (.ofNat 7 (bitsOf w 13 7)) (.ofNat 7 (bitsOf w 6 0)))
  | 6 => .ok (.vminI32 (.ofNat 7 (bitsOf w 20 14)) (.ofNat 7 (bitsOf w 13 7)) (.ofNat 7 (bitsOf w 6 0)))
  | 7 => .ok (.vmaxI32 (.ofNat 7 (bitsOf w 20 14)) (.ofNat 7 (bitsOf w 13 7)) (.ofNat 7 (bitsOf w 6 0)))
  | 8 => .ok (.vminn (.ofNat 7 (bitsOf w 20 14)) (.ofNat 7 (bitsOf w 13 7)) (.ofNat 7 (bitsOf w 6 0)))
  | 9 => .ok (.vmaxn (.ofNat 7 (bitsOf w 20 14)) (.ofNat 7 (bitsOf w 13 7)) (.ofNat 7 (bitsOf w 6 0)))
  | 10 => zeroed (bitsOf w 6 0) (.ok (.vabsI32 (.ofNat 7 (bitsOf w 20 14)) (.ofNat 7 (bitsOf w 13 7))))
  | 11 => zeroed (bitsOf w 6 0) (.ok (.vnegI32 (.ofNat 7 (bitsOf w 20 14)) (.ofNat 7 (bitsOf w 13 7))))
  | 12 => .ok (.vaddsI32 (.ofNat 7 (bitsOf w 20 14)) (.ofNat 7 (bitsOf w 13 7)) (.ofNat 7 (bitsOf w 6 0)))
  | 13 => .ok (.vsubsI32 (.ofNat 7 (bitsOf w 20 14)) (.ofNat 7 (bitsOf w 13 7)) (.ofNat 7 (bitsOf w 6 0)))
  | 14 => .ok (.vavgI32 (.ofNat 7 (bitsOf w 20 14)) (.ofNat 7 (bitsOf w 13 7)) (.ofNat 7 (bitsOf w 6 0)))
  | _ => .error .reservedCode

/-- Major 0x25, format A (R49). -/
def decode25 (w : Nat) : Except DecodeError Instr :=
  match bitsOf w 24 21 with
  | 0 => .ok (.vaddI16 (.ofNat 7 (bitsOf w 20 14)) (.ofNat 7 (bitsOf w 13 7)) (.ofNat 7 (bitsOf w 6 0)))
  | 1 => .ok (.vsubI16 (.ofNat 7 (bitsOf w 20 14)) (.ofNat 7 (bitsOf w 13 7)) (.ofNat 7 (bitsOf w 6 0)))
  | 2 => .ok (.vaddsI16 (.ofNat 7 (bitsOf w 20 14)) (.ofNat 7 (bitsOf w 13 7)) (.ofNat 7 (bitsOf w 6 0)))
  | 3 => .ok (.vsubsI16 (.ofNat 7 (bitsOf w 20 14)) (.ofNat 7 (bitsOf w 13 7)) (.ofNat 7 (bitsOf w 6 0)))
  | 4 => .ok (.vaddsN16 (.ofNat 7 (bitsOf w 20 14)) (.ofNat 7 (bitsOf w 13 7)) (.ofNat 7 (bitsOf w 6 0)))
  | 5 => .ok (.vsubsN16 (.ofNat 7 (bitsOf w 20 14)) (.ofNat 7 (bitsOf w 13 7)) (.ofNat 7 (bitsOf w 6 0)))
  | 6 => .ok (.vavgI16 (.ofNat 7 (bitsOf w 20 14)) (.ofNat 7 (bitsOf w 13 7)) (.ofNat 7 (bitsOf w 6 0)))
  | 7 => .ok (.vavgN16 (.ofNat 7 (bitsOf w 20 14)) (.ofNat 7 (bitsOf w 13 7)) (.ofNat 7 (bitsOf w 6 0)))
  | 8 => .ok (.vaddI8 (.ofNat 7 (bitsOf w 20 14)) (.ofNat 7 (bitsOf w 13 7)) (.ofNat 7 (bitsOf w 6 0)))
  | 9 => .ok (.vsubI8 (.ofNat 7 (bitsOf w 20 14)) (.ofNat 7 (bitsOf w 13 7)) (.ofNat 7 (bitsOf w 6 0)))
  | 10 => .ok (.vaddsI8 (.ofNat 7 (bitsOf w 20 14)) (.ofNat 7 (bitsOf w 13 7)) (.ofNat 7 (bitsOf w 6 0)))
  | 11 => .ok (.vsubsI8 (.ofNat 7 (bitsOf w 20 14)) (.ofNat 7 (bitsOf w 13 7)) (.ofNat 7 (bitsOf w 6 0)))
  | 12 => .ok (.vaddsN8 (.ofNat 7 (bitsOf w 20 14)) (.ofNat 7 (bitsOf w 13 7)) (.ofNat 7 (bitsOf w 6 0)))
  | 13 => .ok (.vsubsN8 (.ofNat 7 (bitsOf w 20 14)) (.ofNat 7 (bitsOf w 13 7)) (.ofNat 7 (bitsOf w 6 0)))
  | 14 => .ok (.vavgI8 (.ofNat 7 (bitsOf w 20 14)) (.ofNat 7 (bitsOf w 13 7)) (.ofNat 7 (bitsOf w 6 0)))
  | 15 => .ok (.vavgN8 (.ofNat 7 (bitsOf w 20 14)) (.ofNat 7 (bitsOf w 13 7)) (.ofNat 7 (bitsOf w 6 0)))
  | _ => .error .reservedCode

/-- Major 0x26, format A (R49). -/
def decode26 (w : Nat) : Except DecodeError Instr :=
  match bitsOf w 24 21 with
  | 0 => .ok (.vand (.ofNat 7 (bitsOf w 20 14)) (.ofNat 7 (bitsOf w 13 7)) (.ofNat 7 (bitsOf w 6 0)))
  | 1 => .ok (.vor (.ofNat 7 (bitsOf w 20 14)) (.ofNat 7 (bitsOf w 13 7)) (.ofNat 7 (bitsOf w 6 0)))
  | 2 => .ok (.vxor (.ofNat 7 (bitsOf w 20 14)) (.ofNat 7 (bitsOf w 13 7)) (.ofNat 7 (bitsOf w 6 0)))
  | 3 => .ok (.vandn (.ofNat 7 (bitsOf w 20 14)) (.ofNat 7 (bitsOf w 13 7)) (.ofNat 7 (bitsOf w 6 0)))
  | 4 => .ok (.vshl (.ofNat 7 (bitsOf w 20 14)) (.ofNat 7 (bitsOf w 13 7)) (.ofNat 7 (bitsOf w 6 0)))
  | 5 => .ok (.vshr (.ofNat 7 (bitsOf w 20 14)) (.ofNat 7 (bitsOf w 13 7)) (.ofNat 7 (bitsOf w 6 0)))
  | 6 => .ok (.vsar (.ofNat 7 (bitsOf w 20 14)) (.ofNat 7 (bitsOf w 13 7)) (.ofNat 7 (bitsOf w 6 0)))
  | 7 => zeroed (bitsOf w 6 0) (.ok (.vpopc (.ofNat 7 (bitsOf w 20 14)) (.ofNat 7 (bitsOf w 13 7))))
  | 8 => zeroed (bitsOf w 6 0) (.ok (.vclz (.ofNat 7 (bitsOf w 20 14)) (.ofNat 7 (bitsOf w 13 7))))
  | 9 => zeroed (bitsOf w 6 0) (.ok (.vbrev (.ofNat 7 (bitsOf w 20 14)) (.ofNat 7 (bitsOf w 13 7))))
  | 10 => .ok (.vbfx (.ofNat 7 (bitsOf w 20 14)) (.ofNat 7 (bitsOf w 13 7)) (.ofNat 7 (bitsOf w 6 0)))
  | 11 => .ok (.vbfi (.ofNat 7 (bitsOf w 20 14)) (.ofNat 7 (bitsOf w 13 7)) (.ofNat 7 (bitsOf w 6 0)))
  | _ => .error .reservedCode

/-- Major 0x27, format A (R49). -/
def decode27 (w : Nat) : Except DecodeError Instr :=
  match bitsOf w 24 21 with
  | 0 | 1 | 2 | 3 | 4 | 5 | 6 | 7 => .ok (.vsel (.ofNat 3 (bitsOf w 23 21)) (.ofNat 7 (bitsOf w 20 14)) (.ofNat 7 (bitsOf w 13 7)) (.ofNat 7 (bitsOf w 6 0)))
  | _ => .error .reservedCode

/-- Major 0x28, format A (R49). -/
def decode28 (w : Nat) : Except DecodeError Instr :=
  bind1 (ICond.ofCode (bitsOf w 24 21)) fun c => bind1 (kreg (bitsOf w 20 14)) fun d => .ok (.vcmpi c d (.ofNat 7 (bitsOf w 13 7)) (.ofNat 7 (bitsOf w 6 0)))

/-- Major 0x29, format A (R49). -/
def decode29 (w : Nat) : Except DecodeError Instr :=
  zeroed (bitsOf w 6 1) (bind1 (CvtCode.ofCode (bitsOf w 24 21)) fun c => .ok (.vcvt c (.ofNat 7 (bitsOf w 20 14)) (.ofNat 7 (bitsOf w 13 7)) (.ofNat 1 (bitsOf w 0 0))))

/-- Major 0x2A, format A (R49). -/
def decode2A (w : Nat) : Except DecodeError Instr :=
  match bitsOf w 24 21 with
  | 0 => zeroed (bitsOf w 6 0) (.ok (.vrcp (.ofNat 7 (bitsOf w 20 14)) (.ofNat 7 (bitsOf w 13 7))))
  | 1 => zeroed (bitsOf w 6 0) (.ok (.vrsq (.ofNat 7 (bitsOf w 20 14)) (.ofNat 7 (bitsOf w 13 7))))
  | 2 => zeroed (bitsOf w 6 0) (.ok (.vsqrt (.ofNat 7 (bitsOf w 20 14)) (.ofNat 7 (bitsOf w 13 7))))
  | 3 => zeroed (bitsOf w 6 0) (.ok (.vexp2 (.ofNat 7 (bitsOf w 20 14)) (.ofNat 7 (bitsOf w 13 7))))
  | 4 => zeroed (bitsOf w 6 0) (.ok (.vlog2 (.ofNat 7 (bitsOf w 20 14)) (.ofNat 7 (bitsOf w 13 7))))
  | 5 => zeroed (bitsOf w 6 0) (.ok (.vsin (.ofNat 7 (bitsOf w 20 14)) (.ofNat 7 (bitsOf w 13 7))))
  | 6 => zeroed (bitsOf w 6 0) (.ok (.vcos (.ofNat 7 (bitsOf w 20 14)) (.ofNat 7 (bitsOf w 13 7))))
  | 7 => zeroed (bitsOf w 6 0) (.ok (.vtanh (.ofNat 7 (bitsOf w 20 14)) (.ofNat 7 (bitsOf w 13 7))))
  | 8 => zeroed (bitsOf w 6 0) (.ok (.vsigm (.ofNat 7 (bitsOf w 20 14)) (.ofNat 7 (bitsOf w 13 7))))
  | _ => .error .reservedCode

/-- Major 0x2B, format A (R49). -/
def decode2B (w : Nat) : Except DecodeError Instr :=
  match bitsOf w 24 21 with
  | 0 => .ok (.vdot4i (.ofNat 7 (bitsOf w 20 14)) (.ofNat 7 (bitsOf w 13 7)) (.ofNat 7 (bitsOf w 6 0)))
  | 1 => .ok (.vdot4n (.ofNat 7 (bitsOf w 20 14)) (.ofNat 7 (bitsOf w 13 7)) (.ofNat 7 (bitsOf w 6 0)))
  | 2 => .ok (.vdot2bf (.ofNat 7 (bitsOf w 20 14)) (.ofNat 7 (bitsOf w 13 7)) (.ofNat 7 (bitsOf w 6 0)))
  | 3 => .ok (.vdot2h (.ofNat 7 (bitsOf w 20 14)) (.ofNat 7 (bitsOf w 13 7)) (.ofNat 7 (bitsOf w 6 0)))
  | _ => .error .reservedCode

/-- Major 0x2C, format A (R49). -/
def decode2C (w : Nat) : Except DecodeError Instr :=
  match bitsOf w 24 21 with
  | 0 => zeroed (bitsOf w 6 0) (bind1 (sreg (bitsOf w 13 7)) fun a => .ok (.vmovs (.ofNat 7 (bitsOf w 20 14)) a))
  | 1 => zeroed (bitsOf w 6 0) (bind1 (sreg (bitsOf w 13 7)) fun a => .ok (.vmovsh (.ofNat 7 (bitsOf w 20 14)) a))
  | 2 => zeroed (bitsOf w 13 7) (zeroed (bitsOf w 6 0) (.ok (.vlane (.ofNat 7 (bitsOf w 20 14)))))
  | 3 => zeroed (bitsOf w 13 7) (zeroed (bitsOf w 6 0) (.ok (.vrand (.ofNat 7 (bitsOf w 20 14)))))
  | 4 => bind1 (sreg (bitsOf w 20 14)) fun d => bind1 (sreg (bitsOf w 6 0)) fun b => .ok (.vext d (.ofNat 7 (bitsOf w 13 7)) b)
  | _ => .error .reservedCode

/-- Major 0x2D, format C (R49). -/
def decode2D (w : Nat) : Except DecodeError Instr :=
  .ok (.vmovi (.ofNat 7 (bitsOf w 24 18)) (.ofNat 18 (bitsOf w 17 0)))

/-- Major 0x40, format A (R49). -/
def decode40 (w : Nat) : Except DecodeError Instr :=
  match bitsOf w 24 21 with
  | 0 => .ok (.vshflIdx (.ofNat 7 (bitsOf w 20 14)) (.ofNat 7 (bitsOf w 13 7)) (.ofNat 7 (bitsOf w 6 0)))
  | 1 => bind1 (sreg (bitsOf w 6 0)) fun b => .ok (.vshflUp (.ofNat 7 (bitsOf w 20 14)) (.ofNat 7 (bitsOf w 13 7)) b)
  | 2 => bind1 (sreg (bitsOf w 6 0)) fun b => .ok (.vshflDown (.ofNat 7 (bitsOf w 20 14)) (.ofNat 7 (bitsOf w 13 7)) b)
  | 3 => bind1 (sreg (bitsOf w 6 0)) fun b => .ok (.vshflXor (.ofNat 7 (bitsOf w 20 14)) (.ofNat 7 (bitsOf w 13 7)) b)
  | 4 => bind1 (sreg (bitsOf w 6 0)) fun b => .ok (.vshflBcast (.ofNat 7 (bitsOf w 20 14)) (.ofNat 7 (bitsOf w 13 7)) b)
  | 9 => zeroed (bitsOf w 6 5) (.ok (.vshflUpImm (.ofNat 7 (bitsOf w 20 14)) (.ofNat 7 (bitsOf w 13 7)) (.ofNat 5 (bitsOf w 4 0))))
  | 10 => zeroed (bitsOf w 6 5) (.ok (.vshflDownImm (.ofNat 7 (bitsOf w 20 14)) (.ofNat 7 (bitsOf w 13 7)) (.ofNat 5 (bitsOf w 4 0))))
  | 11 => zeroed (bitsOf w 6 5) (.ok (.vshflXorImm (.ofNat 7 (bitsOf w 20 14)) (.ofNat 7 (bitsOf w 13 7)) (.ofNat 5 (bitsOf w 4 0))))
  | 12 => zeroed (bitsOf w 6 5) (.ok (.vshflBcastImm (.ofNat 7 (bitsOf w 20 14)) (.ofNat 7 (bitsOf w 13 7)) (.ofNat 5 (bitsOf w 4 0))))
  | _ => .error .reservedCode

/-- Major 0x41, format A (R49). -/
def decode41 (w : Nat) : Except DecodeError Instr :=
  match bitsOf w 24 21 with
  | 0 => zeroed (bitsOf w 6 0) (bind1 (sreg (bitsOf w 20 14)) fun d => bind1 (kreg (bitsOf w 13 7)) fun a => .ok (.vany d a))
  | 1 => zeroed (bitsOf w 6 0) (bind1 (sreg (bitsOf w 20 14)) fun d => bind1 (kreg (bitsOf w 13 7)) fun a => .ok (.vall d a))
  | 2 => zeroed (bitsOf w 6 0) (bind1 (sreg (bitsOf w 20 14)) fun d => bind1 (kreg (bitsOf w 13 7)) fun a => .ok (.vballot d a))
  | 3 => zeroed (bitsOf w 6 0) (bind1 (kreg (bitsOf w 20 14)) fun d => .ok (.vmatch d (.ofNat 7 (bitsOf w 13 7))))
  | _ => .error .reservedCode

/-- Major 0x42, format A (R49). -/
def decode42 (w : Nat) : Except DecodeError Instr :=
  zeroed (bitsOf w 6 0) (bind1 (RedOp.ofCode (bitsOf w 24 21)) fun o => .ok (.vred o (.ofNat 7 (bitsOf w 20 14)) (.ofNat 7 (bitsOf w 13 7))))

/-- Major 0x43, format A (R49). -/
def decode43 (w : Nat) : Except DecodeError Instr :=
  zeroed (bitsOf w 6 0) (bind1 (RedOp.ofCode (bitsOf w 24 21)) fun o => .ok (.vscan o (.ofNat 7 (bitsOf w 20 14)) (.ofNat 7 (bitsOf w 13 7))))

/-- Major 0x44, format A (R49). -/
def decode44 (w : Nat) : Except DecodeError Instr :=
  .ok (.vtopk (.ofNat 4 (bitsOf w 24 21)) (.ofNat 7 (bitsOf w 20 14)) (.ofNat 7 (bitsOf w 13 7)) (.ofNat 7 (bitsOf w 6 0)))

/-- Major 0x45, format D (R49). -/
def decode45 (w : Nat) : Except DecodeError Instr :=
  match bitsOf w 24 21 with
  | 0 | 1 | 2 | 3 | 4 | 5 | 6 | 7 => zeroed (bitsOf w 20 14) (.ok (.brv (.ofNat 3 (bitsOf w 23 21)) (.ofNat 14 (bitsOf w 13 0))))
  | _ => .error .reservedCode

/-- Major 0x46, format E (R49). -/
def decode46 (w : Nat) : Except DecodeError Instr :=
  .ok (.jpt (.ofNat 25 (bitsOf w 24 0)))

/-- Major 0x47, format A (R49). -/
def decode47 (w : Nat) : Except DecodeError Instr :=
  match bitsOf w 24 21 with
  | 0 => zeroed (bitsOf w 20 14) (zeroed (bitsOf w 13 7) (zeroed (bitsOf w 6 0) (.ok .join)))
  | _ => .error .reservedCode

/-- Major 0x48, format D (R49). -/
def decode48 (w : Nat) : Except DecodeError Instr :=
  match bitsOf w 24 21 with
  | 0 | 1 | 2 | 3 | 4 | 5 | 6 | 7 => zeroed (bitsOf w 20 14) (.ok (.bany (.ofNat 3 (bitsOf w 23 21)) (.ofNat 14 (bitsOf w 13 0))))
  | 8 | 9 | 10 | 11 | 12 | 13 | 14 | 15 => zeroed (bitsOf w 20 14) (.ok (.ball (.ofNat 3 (bitsOf w 23 21)) (.ofNat 14 (bitsOf w 13 0))))
  | _ => .error .reservedCode

/-- Major 0x49, format A (R49). -/
def decode49 (w : Nat) : Except DecodeError Instr :=
  match bitsOf w 24 21 with
  | 0 => zeroed (bitsOf w 20 14) (zeroed (bitsOf w 6 0) (bind1 (sreg (bitsOf w 13 7)) fun a => .ok (.cjoin a)))
  | 1 => zeroed (bitsOf w 20 14) (zeroed (bitsOf w 6 0) (bind1 (sreg (bitsOf w 13 7)) fun a => .ok (.cleave a)))
  | 2 => zeroed (bitsOf w 20 14) (zeroed (bitsOf w 6 0) (bind1 (sreg (bitsOf w 13 7)) fun a => .ok (.carrive a)))
  | 3 => zeroed (bitsOf w 20 14) (zeroed (bitsOf w 6 0) (bind1 (sreg (bitsOf w 13 7)) fun a => .ok (.cwait a)))
  | 4 => zeroed (bitsOf w 20 14) (zeroed (bitsOf w 6 0) (bind1 (sreg (bitsOf w 13 7)) fun a => .ok (.csync a)))
  | 5 => zeroed (bitsOf w 6 0) (bind1 (sreg (bitsOf w 20 14)) fun d => bind1 (sreg (bitsOf w 13 7)) fun a => .ok (.ccount d a))
  | _ => .error .reservedCode

/-- Major 0x4A, format C (R49). -/
def decode4A (w : Nat) : Except DecodeError Instr :=
  zeroed (bitsOf w 24 18) (.ok (.setfmt (.ofNat 18 (bitsOf w 17 0))))

/-- Major 0x4B, format C (R49). -/
def decode4B (w : Nat) : Except DecodeError Instr :=
  zeroed (bitsOf w 24 18) (.ok (.settile (.ofNat 18 (bitsOf w 17 0))))

/-- Major 0x50, format M (R49). -/
def decode50 (w : Nat) : Except DecodeError Instr :=
  .ok (.vldb (.ofNat 7 (bitsOf w 24 18)) (.ofNat 6 (bitsOf w 17 12)) (.ofNat 7 (bitsOf w 11 5)) (.ofNat 4 (bitsOf w 4 1)) (.ofNat 1 (bitsOf w 0 0)))

/-- Major 0x51, format M (R49). -/
def decode51 (w : Nat) : Except DecodeError Instr :=
  .ok (.vldbs (.ofNat 7 (bitsOf w 24 18)) (.ofNat 6 (bitsOf w 17 12)) (.ofNat 7 (bitsOf w 11 5)) (.ofNat 4 (bitsOf w 4 1)) (.ofNat 1 (bitsOf w 0 0)))

/-- Major 0x52, format M (R49). -/
def decode52 (w : Nat) : Except DecodeError Instr :=
  .ok (.vldh (.ofNat 7 (bitsOf w 24 18)) (.ofNat 6 (bitsOf w 17 12)) (.ofNat 7 (bitsOf w 11 5)) (.ofNat 4 (bitsOf w 4 1)) (.ofNat 1 (bitsOf w 0 0)))

/-- Major 0x53, format M (R49). -/
def decode53 (w : Nat) : Except DecodeError Instr :=
  .ok (.vldhs (.ofNat 7 (bitsOf w 24 18)) (.ofNat 6 (bitsOf w 17 12)) (.ofNat 7 (bitsOf w 11 5)) (.ofNat 4 (bitsOf w 4 1)) (.ofNat 1 (bitsOf w 0 0)))

/-- Major 0x54, format M (R49). -/
def decode54 (w : Nat) : Except DecodeError Instr :=
  .ok (.vldw (.ofNat 7 (bitsOf w 24 18)) (.ofNat 6 (bitsOf w 17 12)) (.ofNat 7 (bitsOf w 11 5)) (.ofNat 4 (bitsOf w 4 1)) (.ofNat 1 (bitsOf w 0 0)))

/-- Major 0x55, format M (R49). -/
def decode55 (w : Nat) : Except DecodeError Instr :=
  .ok (.vldd (.ofNat 7 (bitsOf w 24 18)) (.ofNat 6 (bitsOf w 17 12)) (.ofNat 7 (bitsOf w 11 5)) (.ofNat 4 (bitsOf w 4 1)) (.ofNat 1 (bitsOf w 0 0)))

/-- Major 0x56, format M (R49). -/
def decode56 (w : Nat) : Except DecodeError Instr :=
  .ok (.vldq (.ofNat 7 (bitsOf w 24 18)) (.ofNat 6 (bitsOf w 17 12)) (.ofNat 7 (bitsOf w 11 5)) (.ofNat 4 (bitsOf w 4 1)) (.ofNat 1 (bitsOf w 0 0)))

/-- Major 0x57, format M (R49). -/
def decode57 (w : Nat) : Except DecodeError Instr :=
  .ok (.vstb (.ofNat 7 (bitsOf w 24 18)) (.ofNat 6 (bitsOf w 17 12)) (.ofNat 7 (bitsOf w 11 5)) (.ofNat 4 (bitsOf w 4 1)) (.ofNat 1 (bitsOf w 0 0)))

/-- Major 0x58, format M (R49). -/
def decode58 (w : Nat) : Except DecodeError Instr :=
  .ok (.vsth (.ofNat 7 (bitsOf w 24 18)) (.ofNat 6 (bitsOf w 17 12)) (.ofNat 7 (bitsOf w 11 5)) (.ofNat 4 (bitsOf w 4 1)) (.ofNat 1 (bitsOf w 0 0)))

/-- Major 0x59, format M (R49). -/
def decode59 (w : Nat) : Except DecodeError Instr :=
  .ok (.vstw (.ofNat 7 (bitsOf w 24 18)) (.ofNat 6 (bitsOf w 17 12)) (.ofNat 7 (bitsOf w 11 5)) (.ofNat 4 (bitsOf w 4 1)) (.ofNat 1 (bitsOf w 0 0)))

/-- Major 0x5A, format M (R49). -/
def decode5A (w : Nat) : Except DecodeError Instr :=
  .ok (.vstd (.ofNat 7 (bitsOf w 24 18)) (.ofNat 6 (bitsOf w 17 12)) (.ofNat 7 (bitsOf w 11 5)) (.ofNat 4 (bitsOf w 4 1)) (.ofNat 1 (bitsOf w 0 0)))

/-- Major 0x5B, format M (R49). -/
def decode5B (w : Nat) : Except DecodeError Instr :=
  .ok (.vstq (.ofNat 7 (bitsOf w 24 18)) (.ofNat 6 (bitsOf w 17 12)) (.ofNat 7 (bitsOf w 11 5)) (.ofNat 4 (bitsOf w 4 1)) (.ofNat 1 (bitsOf w 0 0)))

/-- Major 0x5C, format AM (R49). -/
def decode5C (w : Nat) : Except DecodeError Instr :=
  bind1 (AmoaOp.ofCode (bitsOf w 24 21)) fun o => .ok (.amoa o (.ofNat 7 (bitsOf w 20 14)) (.ofNat 7 (bitsOf w 13 7)) (.ofNat 6 (bitsOf w 6 1)) (.ofNat 1 (bitsOf w 0 0)))

/-- Major 0x5D, format AM (R49). -/
def decode5D (w : Nat) : Except DecodeError Instr :=
  bind1 (AmolOp.ofCode (bitsOf w 24 21)) fun o => .ok (.amol o (.ofNat 7 (bitsOf w 20 14)) (.ofNat 7 (bitsOf w 13 7)) (.ofNat 6 (bitsOf w 6 1)) (.ofNat 1 (bitsOf w 0 0)))

/-- Major 0x5E, format A (R49). -/
def decode5E (w : Nat) : Except DecodeError Instr :=
  match bitsOf w 24 21 with
  | 0 => bind1 (sreg (bitsOf w 20 14)) fun d => bind1 (sreg (bitsOf w 13 7)) fun a => bind1 (sreg (bitsOf w 6 0)) fun b => .ok (.samoadd d a b)
  | 1 => bind1 (sreg (bitsOf w 20 14)) fun d => bind1 (sreg (bitsOf w 13 7)) fun a => bind1 (sreg (bitsOf w 6 0)) fun b => .ok (.samocas d a b)
  | 2 => bind1 (sreg (bitsOf w 20 14)) fun d => bind1 (sreg (bitsOf w 13 7)) fun a => bind1 (sreg (bitsOf w 6 0)) fun b => .ok (.samoswap d a b)
  | 3 => bind1 (sreg (bitsOf w 20 14)) fun d => bind1 (sreg (bitsOf w 13 7)) fun a => bind1 (sreg (bitsOf w 6 0)) fun b => .ok (.samomax d a b)
  | 4 | 5 | 6 | 7 => zeroed (bitsOf w 20 14) (bind1 (WaitCond.ofCode (bitsOf w 22 21)) fun c => bind1 (sreg (bitsOf w 13 7)) fun a => bind1 (sreg (bitsOf w 6 0)) fun b => .ok (.waitc c a b))
  | 8 => zeroed (bitsOf w 20 14) (zeroed (bitsOf w 13 7) (zeroed (bitsOf w 6 0) (.ok .fence)))
  | 9 => zeroed (bitsOf w 20 14) (zeroed (bitsOf w 6 0) (bind1 (sreg (bitsOf w 13 7)) fun a => .ok (.cline a)))
  | 10 => zeroed (bitsOf w 20 14) (zeroed (bitsOf w 6 0) (bind1 (sreg (bitsOf w 13 7)) fun a => .ok (.pf a)))
  | 11 => zeroed (bitsOf w 6 0) (bind1 (sreg (bitsOf w 20 14)) fun d => bind1 (sreg (bitsOf w 13 7)) fun a => .ok (.gaddr d a))
  | _ => .error .reservedCode

/-- Major 0x60, format A (R49). -/
def decode60 (w : Nat) : Except DecodeError Instr :=
  match bitsOf w 24 21 with
  | 0 | 1 | 2 | 3 => bind1 (CopySize.ofCode (bitsOf w 22 21)) fun z => bind1 (sreg (bitsOf w 6 0)) fun b => .ok (.copy z (.ofNat 7 (bitsOf w 20 14)) (.ofNat 7 (bitsOf w 13 7)) b)
  | _ => .error .reservedCode

/-- Major 0x61, format A (R49). -/
def decode61 (w : Nat) : Except DecodeError Instr :=
  bind1 (CopyrOp.ofCode (bitsOf w 24 21)) fun o => bind1 (sreg (bitsOf w 6 0)) fun b => .ok (.copyr o (.ofNat 7 (bitsOf w 20 14)) (.ofNat 7 (bitsOf w 13 7)) b)

/-- Major 0x62, format A (R49). -/
def decode62 (w : Nat) : Except DecodeError Instr :=
  match bitsOf w 24 21 with
  | 0 => bind1 (sreg (bitsOf w 20 14)) fun d => bind1 (sreg (bitsOf w 13 7)) fun a => bind1 (sreg (bitsOf w 6 0)) fun b => .ok (.tcopy d a b)
  | 1 => bind1 (sreg (bitsOf w 20 14)) fun d => bind1 (sreg (bitsOf w 13 7)) fun a => bind1 (sreg (bitsOf w 6 0)) fun b => .ok (.tcopyIn d a b)
  | 2 => bind1 (sreg (bitsOf w 20 14)) fun d => bind1 (sreg (bitsOf w 13 7)) fun a => bind1 (sreg (bitsOf w 6 0)) fun b => .ok (.tcopyOut d a b)
  | _ => .error .reservedCode

/-- Major 0x63, format A (R49). -/
noncomputable def decode63 (w : Nat) : Except DecodeError Instr :=
  match bitsOf w 24 21 with
  | 0 => zeroed (bitsOf w 6 0) (bind1 (sreg (bitsOf w 20 14)) fun d => bind1 (sreg (bitsOf w 13 7)) fun a => .ok (.shpw d a))
  | 1 => zeroed (bitsOf w 20 14) (zeroed (bitsOf w 6 0) (bind1 (sreg (bitsOf w 13 7)) fun a => .ok (.shpi a)))
  | _ => .error .reservedCode

/-- Major 0x64, format A (R49). -/
noncomputable def decode64 (w : Nat) : Except DecodeError Instr :=
  match bitsOf w 24 21 with
  | 0 => zeroed (bitsOf w 13 7) (zeroed (bitsOf w 6 0) (bind1 (sreg (bitsOf w 20 14)) fun d => .ok (.sealB d)))
  | 1 => zeroed (bitsOf w 20 14) (zeroed (bitsOf w 6 0) (bind1 (sreg (bitsOf w 13 7)) fun a => .ok (.waitb a)))
  | _ => .error .reservedCode

/-- Major 0x65, format A (R49). -/
noncomputable def decode65 (w : Nat) : Except DecodeError Instr :=
  match bitsOf w 24 21 with
  | 0 => bind1 (sreg (bitsOf w 20 14)) fun d => bind1 (sreg (bitsOf w 13 7)) fun a => bind1 (sreg (bitsOf w 6 0)) fun b => .ok (.mma d a b)
  | 1 => bind1 (sreg (bitsOf w 20 14)) fun d => bind1 (sreg (bitsOf w 13 7)) fun a => bind1 (sreg (bitsOf w 6 0)) fun b => .ok (.mmam d a b)
  | 2 => bind1 (sreg (bitsOf w 20 14)) fun d => bind1 (sreg (bitsOf w 13 7)) fun a => bind1 (sreg (bitsOf w 6 0)) fun b => .ok (.mmas d a b)
  | 3 => bind1 (sreg (bitsOf w 20 14)) fun d => bind1 (sreg (bitsOf w 13 7)) fun a => bind1 (sreg (bitsOf w 6 0)) fun b => .ok (.mma2 d a b)
  | 4 => bind1 (sreg (bitsOf w 20 14)) fun d => bind1 (sreg (bitsOf w 13 7)) fun a => bind1 (sreg (bitsOf w 6 0)) fun b => .ok (.acld d a b)
  | 5 => bind1 (sreg (bitsOf w 20 14)) fun d => bind1 (sreg (bitsOf w 13 7)) fun a => bind1 (sreg (bitsOf w 6 0)) fun b => .ok (.acst d a b)
  | 6 => zeroed (bitsOf w 20 14) (bind1 (sreg (bitsOf w 13 7)) fun a => bind1 (sreg (bitsOf w 6 0)) fun b => .ok (.acz a b))
  | 7 => zeroed (bitsOf w 20 14) (zeroed (bitsOf w 13 7) (zeroed (bitsOf w 6 0) (.ok .mrel)))
  | _ => .error .reservedCode

/-- Major 0x66, format A (R49). -/
noncomputable def decode66 (w : Nat) : Except DecodeError Instr :=
  match bitsOf w 24 21 with
  | 0 => zeroed (bitsOf w 20 14) (bind1 (sreg (bitsOf w 13 7)) fun a => bind1 (sreg (bitsOf w 6 0)) fun b => .ok (.layer a b))
  | 1 => zeroed (bitsOf w 20 14) (bind1 (sreg (bitsOf w 13 7)) fun a => bind1 (sreg (bitsOf w 6 0)) fun b => .ok (.layerx2 a b))
  | 2 => zeroed (bitsOf w 20 14) (bind1 (sreg (bitsOf w 13 7)) fun a => bind1 (sreg (bitsOf w 6 0)) fun b => .ok (.layert a b))
  | 3 => zeroed (bitsOf w 6 0) (bind1 (sreg (bitsOf w 20 14)) fun d => bind1 (sreg (bitsOf w 13 7)) fun a => .ok (.rceq d a))
  | 4 => zeroed (bitsOf w 20 14) (zeroed (bitsOf w 6 0) (bind1 (sreg (bitsOf w 13 7)) fun a => .ok (.rcepin a)))
  | 5 => zeroed (bitsOf w 20 14) (zeroed (bitsOf w 6 0) (bind1 (sreg (bitsOf w 13 7)) fun a => .ok (.rceunpin a)))
  | _ => .error .reservedCode

/-- Major 0x67, format A (R49). -/
noncomputable def decode67 (w : Nat) : Except DecodeError Instr :=
  match bitsOf w 24 21 with
  | 0 => zeroed (bitsOf w 20 14) (bind1 (sreg (bitsOf w 13 7)) fun a => bind1 (sreg (bitsOf w 6 0)) fun b => .ok (.bsq a b))
  | 1 => bind1 (sreg (bitsOf w 20 14)) fun d => bind1 (sreg (bitsOf w 13 7)) fun a => bind1 (sreg (bitsOf w 6 0)) fun b => .ok (.ways d a b)
  | 2 => zeroed (bitsOf w 20 14) (zeroed (bitsOf w 6 0) (bind1 (sreg (bitsOf w 13 7)) fun a => .ok (.waysrel a)))
  | _ => .error .reservedCode

/-- Major 0x68, format A (R49). -/
noncomputable def decode68 (w : Nat) : Except DecodeError Instr :=
  match bitsOf w 24 21 with
  | 0 => zeroed (bitsOf w 20 14) (bind1 (sreg (bitsOf w 13 7)) fun a => bind1 (sreg (bitsOf w 6 0)) fun b => .ok (.launch a b))
  | _ => .error .reservedCode

/-- Major 0x69, format A (R49). -/
noncomputable def decode69 (w : Nat) : Except DecodeError Instr :=
  match bitsOf w 24 21 with
  | 0 => zeroed (bitsOf w 20 14) (zeroed (bitsOf w 6 0) (bind1 (sreg (bitsOf w 13 7)) fun a => .ok (.migrate a)))
  | 1 => zeroed (bitsOf w 20 14) (zeroed (bitsOf w 13 7) (zeroed (bitsOf w 6 0) (.ok .home)))
  | _ => .error .reservedCode

/-- Major 0x70, format P (R49). -/
noncomputable def decode70 (w : Nat) : Except DecodeError Instr :=
  zeroed (bitsOf w 10 0) (.ok (.pfx (.ofNat 3 (bitsOf w 24 22)) (.ofNat 1 (bitsOf w 21 21)) (.ofNat 3 (bitsOf w 20 18)) (.ofNat 7 (bitsOf w 17 11))))

/-- Major 0x71, format P (R49). -/
noncomputable def decode71 (w : Nat) : Except DecodeError Instr :=
  zeroed (bitsOf w 15 0) (bind1 (OrdScope.ofCode (bitsOf w 24 22)) fun scope => bind1 (OrdOrder.ofCode (bitsOf w 21 20)) fun order => .ok (.ord scope order (.ofNat 4 (bitsOf w 19 16))))

/-- Major 0x72, format P (R49). -/
noncomputable def decode72 (w : Nat) : Except DecodeError Instr :=
  .ok (.limm (.ofNat 25 (bitsOf w 24 0)))

/-- Major 0x73, format P (R49). -/
noncomputable def decode73 (w : Nat) : Except DecodeError Instr :=
  .ok (.hint (.ofNat 4 (bitsOf w 24 21)) (.ofNat 21 (bitsOf w 20 0)))

/-- The instruction a word holds by its major opcode, before the checks of `Instr.wellFormed` (R33, R49, R52). -/
noncomputable def decodeFields (w : Nat) : Except DecodeError Instr :=
  match bitsOf w 31 25 with
  | 0x01 => decode01 w
  | 0x02 => decode02 w
  | 0x03 => decode03 w
  | 0x04 => decode04 w
  | 0x05 => decode05 w
  | 0x06 => decode06 w
  | 0x07 => decode07 w
  | 0x08 => decode08 w
  | 0x09 => decode09 w
  | 0x0A => decode0A w
  | 0x0B => decode0B w
  | 0x0C => decode0C w
  | 0x0D => decode0D w
  | 0x0E => decode0E w
  | 0x0F => decode0F w
  | 0x10 => decode10 w
  | 0x11 => decode11 w
  | 0x12 => decode12 w
  | 0x13 => decode13 w
  | 0x14 => decode14 w
  | 0x15 => decode15 w
  | 0x16 => decode16 w
  | 0x17 => decode17 w
  | 0x18 => decode18 w
  | 0x19 => decode19 w
  | 0x1A => decode1A w
  | 0x1B => decode1B w
  | 0x1C => decode1C w
  | 0x1D => decode1D w
  | 0x1E => decode1E w
  | 0x1F => decode1F w
  | 0x20 => decode20 w
  | 0x21 => decode21 w
  | 0x22 => decode22 w
  | 0x23 => decode23 w
  | 0x24 => decode24 w
  | 0x25 => decode25 w
  | 0x26 => decode26 w
  | 0x27 => decode27 w
  | 0x28 => decode28 w
  | 0x29 => decode29 w
  | 0x2A => decode2A w
  | 0x2B => decode2B w
  | 0x2C => decode2C w
  | 0x2D => decode2D w
  | 0x40 => decode40 w
  | 0x41 => decode41 w
  | 0x42 => decode42 w
  | 0x43 => decode43 w
  | 0x44 => decode44 w
  | 0x45 => decode45 w
  | 0x46 => decode46 w
  | 0x47 => decode47 w
  | 0x48 => decode48 w
  | 0x49 => decode49 w
  | 0x4A => decode4A w
  | 0x4B => decode4B w
  | 0x50 => decode50 w
  | 0x51 => decode51 w
  | 0x52 => decode52 w
  | 0x53 => decode53 w
  | 0x54 => decode54 w
  | 0x55 => decode55 w
  | 0x56 => decode56 w
  | 0x57 => decode57 w
  | 0x58 => decode58 w
  | 0x59 => decode59 w
  | 0x5A => decode5A w
  | 0x5B => decode5B w
  | 0x5C => decode5C w
  | 0x5D => decode5D w
  | 0x5E => decode5E w
  | 0x60 => decode60 w
  | 0x61 => decode61 w
  | 0x62 => decode62 w
  | 0x63 => decode63 w
  | 0x64 => decode64 w
  | 0x65 => decode65 w
  | 0x66 => decode66 w
  | 0x67 => decode67 w
  | 0x68 => decode68 w
  | 0x69 => decode69 w
  | 0x70 => decode70 w
  | 0x71 => decode71 w
  | 0x72 => decode72 w
  | 0x73 => decode73 w
  | _ => .error .reservedMajor

/-- The instruction a troupe reads from a word (R19, R52). -/
noncomputable def decodeWord (w : BitVec 32) : Except DecodeError Instr :=
  bind1 (decodeFields w.toNat) fun i => if i.wellFormed then .ok i else .error .outOfRange

/-- The micro-op a sequencer reads from a word (R53, R54). The limits on a width, a count or a constant are the micro-op's own fault (R419). -/
noncomputable def decodeMicro (w : Nat) : Except DecodeError Instr :=
  match bitsOf w 31 27 with
  | 1 => zeroed (bitsOf w 8 0) (zeroed (bitsOf w 17 9) (.ok (.bwid (.ofNat 9 (bitsOf w 26 18)))))
  | 2 => zeroed (bitsOf w 17 9) (.ok (.bnot (.ofNat 9 (bitsOf w 26 18)) (.ofNat 9 (bitsOf w 8 0))))
  | 3 => .ok (.band (.ofNat 9 (bitsOf w 26 18)) (.ofNat 9 (bitsOf w 17 9)) (.ofNat 9 (bitsOf w 8 0)))
  | 4 => .ok (.bor (.ofNat 9 (bitsOf w 26 18)) (.ofNat 9 (bitsOf w 17 9)) (.ofNat 9 (bitsOf w 8 0)))
  | 5 => .ok (.bxor (.ofNat 9 (bitsOf w 26 18)) (.ofNat 9 (bitsOf w 17 9)) (.ofNat 9 (bitsOf w 8 0)))
  | 6 => .ok (.badd (.ofNat 9 (bitsOf w 26 18)) (.ofNat 9 (bitsOf w 17 9)) (.ofNat 9 (bitsOf w 8 0)))
  | 7 => .ok (.bsub (.ofNat 9 (bitsOf w 26 18)) (.ofNat 9 (bitsOf w 17 9)) (.ofNat 9 (bitsOf w 8 0)))
  | 8 => .ok (.bcmplt (.ofNat 9 (bitsOf w 26 18)) (.ofNat 9 (bitsOf w 17 9)) (.ofNat 9 (bitsOf w 8 0)))
  | 9 => .ok (.bcmpeq (.ofNat 9 (bitsOf w 26 18)) (.ofNat 9 (bitsOf w 17 9)) (.ofNat 9 (bitsOf w 8 0)))
  | 10 => .ok (.bsel (.ofNat 9 (bitsOf w 26 18)) (.ofNat 9 (bitsOf w 17 9)) (.ofNat 9 (bitsOf w 8 0)))
  | 11 => .ok (.bshl (.ofNat 9 (bitsOf w 26 18)) (.ofNat 9 (bitsOf w 17 9)) (.ofNat 9 (bitsOf w 8 0)))
  | 12 => .ok (.bshr (.ofNat 9 (bitsOf w 26 18)) (.ofNat 9 (bitsOf w 17 9)) (.ofNat 9 (bitsOf w 8 0)))
  | 13 => zeroed (bitsOf w 17 9) (.ok (.bpopc (.ofNat 9 (bitsOf w 26 18)) (.ofNat 9 (bitsOf w 8 0))))
  | 14 => zeroed (bitsOf w 17 9) (.ok (.bcopy (.ofNat 9 (bitsOf w 26 18)) (.ofNat 9 (bitsOf w 8 0))))
  | 15 => zeroed (bitsOf w 26 18) (.ok (.bset (.ofNat 9 (bitsOf w 17 9)) (.ofNat 9 (bitsOf w 8 0))))
  | 16 => zeroed (bitsOf w 17 9) (.ok (.bcount (.ofNat 9 (bitsOf w 26 18)) (.ofNat 9 (bitsOf w 8 0))))
  | 17 => zeroed (bitsOf w 8 0) (zeroed (bitsOf w 17 9) (zeroed (bitsOf w 26 18) (.ok .bend)))
  | _ => .error .reservedMajor

/-- A micro-op word read by its bits (R53). -/
noncomputable def decodeMicroOp (w : BitVec 32) : Except DecodeError Instr := decodeMicro w.toNat

/-- Four bytes as a little-endian word (R33): the first byte is bits [7:0]. -/
def wordOfBytes (b0 b1 b2 b3 : Byte) : BitVec 32 := b3 ++ b2 ++ b1 ++ b0

/-- Byte `k` of a word of `w` bits laid out little-endian. -/
def byteAt (w k : Nat) : Byte := .ofNat 8 (w / 2 ^ (8 * k))

/-- The word an opcode-table row stands for, laid out as memory holds it and read back: little-endian bytes (R33). -/
def tableWord (nbits w : Nat) : BitVec 32 :=
  let v := w % 2 ^ nbits
  wordOfBytes (byteAt v 0) (byteAt v 1) (byteAt v 2) (byteAt v 3)

/-- What the hardware reads from a row's word: a troupe's instruction, or, where no troupe has one in it, a sequencer's micro-op.
The micro-op words share their encodings with instruction words; which unit fetches a word decides what it is (R53). -/
noncomputable def decodeTableWord (nbits w : Nat) : Option Instr :=
  match decodeWord (tableWord nbits w) with
  | .ok i => some i
  | .error _ =>
    match decodeMicroOp (tableWord nbits w) with
    | .ok i => some i
    | .error _ => none

/-! The encoder: the formats of R34 written forward, then one line per instruction. -/

/-- Format A of R34. -/
def encA (maj fn d a b : Nat) : Nat := maj * 2 ^ 25 + fn * 2 ^ 21 + d * 2 ^ 14 + a * 2 ^ 7 + b

/-- Format B of R34. -/
def encB (maj d a imm : Nat) : Nat := maj * 2 ^ 25 + d * 2 ^ 18 + a * 2 ^ 11 + imm

/-- Format C of R34. -/
def encC (maj d imm : Nat) : Nat := maj * 2 ^ 25 + d * 2 ^ 18 + imm

/-- Format D of R34. -/
def encD (maj cond a imm : Nat) : Nat := maj * 2 ^ 25 + cond * 2 ^ 21 + a * 2 ^ 14 + imm

/-- Format E of R34. -/
def encE (maj imm : Nat) : Nat := maj * 2 ^ 25 + imm

/-- Format MS of R34. -/
def encMS (maj d sa nd imm : Nat) : Nat := maj * 2 ^ 25 + d * 2 ^ 18 + sa * 2 ^ 12 + nd * 2 ^ 8 + imm

/-- Format M of R34. -/
def encM (maj d sa b nd sc : Nat) : Nat := maj * 2 ^ 25 + d * 2 ^ 18 + sa * 2 ^ 12 + b * 2 ^ 5 + nd * 2 ^ 1 + sc

/-- Format AM of R34. -/
def encAM (maj fn d b sa ret : Nat) : Nat := maj * 2 ^ 25 + fn * 2 ^ 21 + d * 2 ^ 14 + b * 2 ^ 7 + sa * 2 ^ 1 + ret

/-- Format P of R34. -/
def encP (maj payload : Nat) : Nat := maj * 2 ^ 25 + payload

/-- The micro-op layout of R53. -/
def encMicro (op a b d : Nat) : Nat := op * 2 ^ 27 + a * 2 ^ 18 + b * 2 ^ 9 + d

/-- The word of an instruction as a number, from R34, R49, R50 and R54; an event has none. -/
def encodeNat : Instr → Option Nat
  | .add d a b => some (encA 0x01 0 d.toNat a.toNat b.toNat)
  | .sub d a b => some (encA 0x01 1 d.toNat a.toNat b.toNat)
  | .mul d a b => some (encA 0x01 2 d.toNat a.toNat b.toNat)
  | .mulh d a b => some (encA 0x01 3 d.toNat a.toNat b.toNat)
  | .mulhn d a b => some (encA 0x01 4 d.toNat a.toNat b.toNat)
  | .div d a b => some (encA 0x01 5 d.toNat a.toNat b.toNat)
  | .divn d a b => some (encA 0x01 6 d.toNat a.toNat b.toNat)
  | .rem d a b => some (encA 0x01 7 d.toNat a.toNat b.toNat)
  | .remn d a b => some (encA 0x01 8 d.toNat a.toNat b.toNat)
  | .min d a b => some (encA 0x01 9 d.toNat a.toNat b.toNat)
  | .max d a b => some (encA 0x01 10 d.toNat a.toNat b.toNat)
  | .minn d a b => some (encA 0x01 11 d.toNat a.toNat b.toNat)
  | .maxn d a b => some (encA 0x01 12 d.toNat a.toNat b.toNat)
  | .and d a b => some (encA 0x02 0 d.toNat a.toNat b.toNat)
  | .or d a b => some (encA 0x02 1 d.toNat a.toNat b.toNat)
  | .xor d a b => some (encA 0x02 2 d.toNat a.toNat b.toNat)
  | .andn d a b => some (encA 0x02 3 d.toNat a.toNat b.toNat)
  | .shl d a b => some (encA 0x02 4 d.toNat a.toNat b.toNat)
  | .shr d a b => some (encA 0x02 5 d.toNat a.toNat b.toNat)
  | .sar d a b => some (encA 0x02 6 d.toNat a.toNat b.toNat)
  | .seq d a b => some (encA 0x02 7 d.toNat a.toNat b.toNat)
  | .sne d a b => some (encA 0x02 8 d.toNat a.toNat b.toNat)
  | .slt d a b => some (encA 0x02 9 d.toNat a.toNat b.toNat)
  | .sltn d a b => some (encA 0x02 10 d.toNat a.toNat b.toNat)
  | .sel d a b => some (encA 0x02 11 d.toNat a.toNat b.toNat)
  | .clz d a => some (encA 0x02 12 d.toNat a.toNat 0)
  | .ctz d a => some (encA 0x02 13 d.toNat a.toNat 0)
  | .popc d a => some (encA 0x02 14 d.toNat a.toNat 0)
  | .brev d a => some (encA 0x02 15 d.toNat a.toNat 0)
  | .bfx d a pos len => some (encB 0x03 d.toNat a.toNat (pos.toNat * 32 + len.toNat))
  | .bfi d a pos len => some (encB 0x04 d.toNat a.toNat (pos.toNat * 32 + len.toNat))
  | .addi d a imm => some (encB 0x05 d.toNat a.toNat imm.toNat)
  | .andi d a imm => some (encB 0x06 d.toNat a.toNat imm.toNat)
  | .ori d a imm => some (encB 0x07 d.toNat a.toNat imm.toNat)
  | .xori d a imm => some (encB 0x08 d.toNat a.toNat imm.toNat)
  | .shli d a n => some (encB 0x09 d.toNat a.toNat n.toNat)
  | .shri d a n => some (encB 0x0A d.toNat a.toNat n.toNat)
  | .sari d a n => some (encB 0x0B d.toNat a.toNat n.toNat)
  | .slti d a imm => some (encB 0x0C d.toNat a.toNat imm.toNat)
  | .movi d imm => some (encC 0x0D d.toNat imm.toNat)
  | .addpc d imm => some (encC 0x0E d.toNat imm.toNat)
  | .sfaddF64 d a b => some (encA 0x0F 0 d.toNat a.toNat b.toNat)
  | .sfsubF64 d a b => some (encA 0x0F 1 d.toNat a.toNat b.toNat)
  | .sfmulF64 d a b => some (encA 0x0F 2 d.toNat a.toNat b.toNat)
  | .sffmaF64 d a b => some (encA 0x0F 3 d.toNat a.toNat b.toNat)
  | .sfdivF64 d a b => some (encA 0x0F 4 d.toNat a.toNat b.toNat)
  | .sfcmpF64 d a b => some (encA 0x0F 5 d.toNat a.toNat b.toNat)
  | .sfcvtF64 d a b => some (encA 0x0F 6 d.toNat a.toNat b.toNat)
  | .sfaddF32 d a b => some (encA 0x0F 8 d.toNat a.toNat b.toNat)
  | .sfsubF32 d a b => some (encA 0x0F 9 d.toNat a.toNat b.toNat)
  | .sfmulF32 d a b => some (encA 0x0F 10 d.toNat a.toNat b.toNat)
  | .sffmaF32 d a b => some (encA 0x0F 11 d.toNat a.toNat b.toNat)
  | .sfdivF32 d a b => some (encA 0x0F 12 d.toNat a.toNat b.toNat)
  | .sfcmpF32 d a b => some (encA 0x0F 13 d.toNat a.toNat b.toNat)
  | .sfcvtF32 d a b => some (encA 0x0F 14 d.toNat a.toNat b.toNat)
  | .ldb d sa nd imm => some (encMS 0x10 d.toNat sa.toNat nd.toNat imm.toNat)
  | .ldbs d sa nd imm => some (encMS 0x11 d.toNat sa.toNat nd.toNat imm.toNat)
  | .ldh d sa nd imm => some (encMS 0x12 d.toNat sa.toNat nd.toNat imm.toNat)
  | .ldhs d sa nd imm => some (encMS 0x13 d.toNat sa.toNat nd.toNat imm.toNat)
  | .ldw d sa nd imm => some (encMS 0x14 d.toNat sa.toNat nd.toNat imm.toNat)
  | .ldws d sa nd imm => some (encMS 0x15 d.toNat sa.toNat nd.toNat imm.toNat)
  | .ldd d sa nd imm => some (encMS 0x16 d.toNat sa.toNat nd.toNat imm.toNat)
  | .stb d sa nd imm => some (encMS 0x17 d.toNat sa.toNat nd.toNat imm.toNat)
  | .sth d sa nd imm => some (encMS 0x18 d.toNat sa.toNat nd.toNat imm.toNat)
  | .stw d sa nd imm => some (encMS 0x19 d.toNat sa.toNat nd.toNat imm.toNat)
  | .std d sa nd imm => some (encMS 0x1A d.toNat sa.toNat nd.toNat imm.toNat)
  | .br disp => some (encE 0x1B disp.toNat)
  | .brc c a disp => some (encD 0x1C c.toCode a.toNat disp.toNat)
  | .call disp => some (encE 0x1D disp.toNat)
  | .callr a => some (encA 0x1E 0 0 a.toNat 0)
  | .ret => some (encA 0x1E 1 0 0 0)
  | .jmpr a => some (encA 0x1E 2 0 a.toNat 0)
  | .mfs d n => some (encA 0x1E 3 d.toNat n.toNat 0)
  | .mts n a => some (encA 0x1E 4 n.toNat a.toNat 0)
  | .nop => some (encA 0x1E 5 0 0 0)
  | .brk code => some (encA 0x1E 6 0 (code.toNat / 2 ^ 7) (code.toNat % 2 ^ 7))
  | .sys code => some (encA 0x1E 7 0 (code.toNat / 2 ^ 7) (code.toNat % 2 ^ 7))
  | .clk d => some (encA 0x1E 8 d.toNat 0 0)
  | .exit => some (encA 0x1E 9 0 0 0)
  | .yield => some (encA 0x1E 10 0 0 0)
  | .mfc d n => some (encA 0x1E 11 d.toNat n.toNat 0)
  | .mtc n a => some (encA 0x1E 12 n.toNat a.toNat 0)
  | .eret => some (encA 0x1F 0 0 0 0)
  | .tlbi a b => some (encA 0x1F 1 0 a.toNat b.toNat)
  | .idle => some (encA 0x1F 2 0 0 0)
  | .vaddF32 d a b => some (encA 0x20 0 d.toNat a.toNat b.toNat)
  | .vsubF32 d a b => some (encA 0x20 1 d.toNat a.toNat b.toNat)
  | .vmulF32 d a b => some (encA 0x20 2 d.toNat a.toNat b.toNat)
  | .vfmaF32 d a b => some (encA 0x20 3 d.toNat a.toNat b.toNat)
  | .vfmsF32 d a b => some (encA 0x20 4 d.toNat a.toNat b.toNat)
  | .vfnmaF32 d a b => some (encA 0x20 5 d.toNat a.toNat b.toNat)
  | .vminF32 d a b => some (encA 0x20 6 d.toNat a.toNat b.toNat)
  | .vmaxF32 d a b => some (encA 0x20 7 d.toNat a.toNat b.toNat)
  | .vabsF32 d a => some (encA 0x20 8 d.toNat a.toNat 0)
  | .vnegF32 d a => some (encA 0x20 9 d.toNat a.toNat 0)
  | .vscaleF32 d a b => some (encA 0x20 10 d.toNat a.toNat b.toNat)
  | .vgetexpF32 d a => some (encA 0x20 11 d.toNat a.toNat 0)
  | .vrndF32 d a => some (encA 0x20 12 d.toNat a.toNat 0)
  | .vclampF32 d a b => some (encA 0x20 13 d.toNat a.toNat b.toNat)
  | .vmovF32 d a => some (encA 0x20 14 d.toNat a.toNat 0)
  | .vaddF16x2 d a b => some (encA 0x21 0 d.toNat a.toNat b.toNat)
  | .vsubF16x2 d a b => some (encA 0x21 1 d.toNat a.toNat b.toNat)
  | .vmulF16x2 d a b => some (encA 0x21 2 d.toNat a.toNat b.toNat)
  | .vfmaF16x2 d a b => some (encA 0x21 3 d.toNat a.toNat b.toNat)
  | .vfmsF16x2 d a b => some (encA 0x21 4 d.toNat a.toNat b.toNat)
  | .vfnmaF16x2 d a b => some (encA 0x21 5 d.toNat a.toNat b.toNat)
  | .vminF16x2 d a b => some (encA 0x21 6 d.toNat a.toNat b.toNat)
  | .vmaxF16x2 d a b => some (encA 0x21 7 d.toNat a.toNat b.toNat)
  | .vabsF16x2 d a => some (encA 0x21 8 d.toNat a.toNat 0)
  | .vnegF16x2 d a => some (encA 0x21 9 d.toNat a.toNat 0)
  | .vaddBf16x2 d a b => some (encA 0x22 0 d.toNat a.toNat b.toNat)
  | .vsubBf16x2 d a b => some (encA 0x22 1 d.toNat a.toNat b.toNat)
  | .vmulBf16x2 d a b => some (encA 0x22 2 d.toNat a.toNat b.toNat)
  | .vfmaBf16x2 d a b => some (encA 0x22 3 d.toNat a.toNat b.toNat)
  | .vfmsBf16x2 d a b => some (encA 0x22 4 d.toNat a.toNat b.toNat)
  | .vfnmaBf16x2 d a b => some (encA 0x22 5 d.toNat a.toNat b.toNat)
  | .vminBf16x2 d a b => some (encA 0x22 6 d.toNat a.toNat b.toNat)
  | .vmaxBf16x2 d a b => some (encA 0x22 7 d.toNat a.toNat b.toNat)
  | .vabsBf16x2 d a => some (encA 0x22 8 d.toNat a.toNat 0)
  | .vnegBf16x2 d a => some (encA 0x22 9 d.toNat a.toNat 0)
  | .vcmpf c d a b => some (encA 0x23 c.toCode d.toNat a.toNat b.toNat)
  | .vaddI32 d a b => some (encA 0x24 0 d.toNat a.toNat b.toNat)
  | .vsubI32 d a b => some (encA 0x24 1 d.toNat a.toNat b.toNat)
  | .vmulI32 d a b => some (encA 0x24 2 d.toNat a.toNat b.toNat)
  | .vmulh d a b => some (encA 0x24 3 d.toNat a.toNat b.toNat)
  | .vmulhn d a b => some (encA 0x24 4 d.toNat a.toNat b.toNat)
  | .vmad d a b => some (encA 0x24 5 d.toNat a.toNat b.toNat)
  | .vminI32 d a b => some (encA 0x24 6 d.toNat a.toNat b.toNat)
  | .vmaxI32 d a b => some (encA 0x24 7 d.toNat a.toNat b.toNat)
  | .vminn d a b => some (encA 0x24 8 d.toNat a.toNat b.toNat)
  | .vmaxn d a b => some (encA 0x24 9 d.toNat a.toNat b.toNat)
  | .vabsI32 d a => some (encA 0x24 10 d.toNat a.toNat 0)
  | .vnegI32 d a => some (encA 0x24 11 d.toNat a.toNat 0)
  | .vaddsI32 d a b => some (encA 0x24 12 d.toNat a.toNat b.toNat)
  | .vsubsI32 d a b => some (encA 0x24 13 d.toNat a.toNat b.toNat)
  | .vavgI32 d a b => some (encA 0x24 14 d.toNat a.toNat b.toNat)
  | .vaddI16 d a b => some (encA 0x25 0 d.toNat a.toNat b.toNat)
  | .vsubI16 d a b => some (encA 0x25 1 d.toNat a.toNat b.toNat)
  | .vaddsI16 d a b => some (encA 0x25 2 d.toNat a.toNat b.toNat)
  | .vsubsI16 d a b => some (encA 0x25 3 d.toNat a.toNat b.toNat)
  | .vaddsN16 d a b => some (encA 0x25 4 d.toNat a.toNat b.toNat)
  | .vsubsN16 d a b => some (encA 0x25 5 d.toNat a.toNat b.toNat)
  | .vavgI16 d a b => some (encA 0x25 6 d.toNat a.toNat b.toNat)
  | .vavgN16 d a b => some (encA 0x25 7 d.toNat a.toNat b.toNat)
  | .vaddI8 d a b => some (encA 0x25 8 d.toNat a.toNat b.toNat)
  | .vsubI8 d a b => some (encA 0x25 9 d.toNat a.toNat b.toNat)
  | .vaddsI8 d a b => some (encA 0x25 10 d.toNat a.toNat b.toNat)
  | .vsubsI8 d a b => some (encA 0x25 11 d.toNat a.toNat b.toNat)
  | .vaddsN8 d a b => some (encA 0x25 12 d.toNat a.toNat b.toNat)
  | .vsubsN8 d a b => some (encA 0x25 13 d.toNat a.toNat b.toNat)
  | .vavgI8 d a b => some (encA 0x25 14 d.toNat a.toNat b.toNat)
  | .vavgN8 d a b => some (encA 0x25 15 d.toNat a.toNat b.toNat)
  | .vand d a b => some (encA 0x26 0 d.toNat a.toNat b.toNat)
  | .vor d a b => some (encA 0x26 1 d.toNat a.toNat b.toNat)
  | .vxor d a b => some (encA 0x26 2 d.toNat a.toNat b.toNat)
  | .vandn d a b => some (encA 0x26 3 d.toNat a.toNat b.toNat)
  | .vshl d a b => some (encA 0x26 4 d.toNat a.toNat b.toNat)
  | .vshr d a b => some (encA 0x26 5 d.toNat a.toNat b.toNat)
  | .vsar d a b => some (encA 0x26 6 d.toNat a.toNat b.toNat)
  | .vpopc d a => some (encA 0x26 7 d.toNat a.toNat 0)
  | .vclz d a => some (encA 0x26 8 d.toNat a.toNat 0)
  | .vbrev d a => some (encA 0x26 9 d.toNat a.toNat 0)
  | .vbfx d a b => some (encA 0x26 10 d.toNat a.toNat b.toNat)
  | .vbfi d a b => some (encA 0x26 11 d.toNat a.toNat b.toNat)
  | .vsel k d a b => some (encA 0x27 k.toNat d.toNat a.toNat b.toNat)
  | .vcmpi c d a b => some (encA 0x28 c.toCode d.toNat a.toNat b.toNat)
  | .vcvt c d a sat => some (encA 0x29 c.toCode d.toNat a.toNat sat.toNat)
  | .vrcp d a => some (encA 0x2A 0 d.toNat a.toNat 0)
  | .vrsq d a => some (encA 0x2A 1 d.toNat a.toNat 0)
  | .vsqrt d a => some (encA 0x2A 2 d.toNat a.toNat 0)
  | .vexp2 d a => some (encA 0x2A 3 d.toNat a.toNat 0)
  | .vlog2 d a => some (encA 0x2A 4 d.toNat a.toNat 0)
  | .vsin d a => some (encA 0x2A 5 d.toNat a.toNat 0)
  | .vcos d a => some (encA 0x2A 6 d.toNat a.toNat 0)
  | .vtanh d a => some (encA 0x2A 7 d.toNat a.toNat 0)
  | .vsigm d a => some (encA 0x2A 8 d.toNat a.toNat 0)
  | .vdot4i d a b => some (encA 0x2B 0 d.toNat a.toNat b.toNat)
  | .vdot4n d a b => some (encA 0x2B 1 d.toNat a.toNat b.toNat)
  | .vdot2bf d a b => some (encA 0x2B 2 d.toNat a.toNat b.toNat)
  | .vdot2h d a b => some (encA 0x2B 3 d.toNat a.toNat b.toNat)
  | .vmovs d a => some (encA 0x2C 0 d.toNat a.toNat 0)
  | .vmovsh d a => some (encA 0x2C 1 d.toNat a.toNat 0)
  | .vlane d => some (encA 0x2C 2 d.toNat 0 0)
  | .vrand d => some (encA 0x2C 3 d.toNat 0 0)
  | .vext d a b => some (encA 0x2C 4 d.toNat a.toNat b.toNat)
  | .vmovi d imm => some (encC 0x2D d.toNat imm.toNat)
  | .vshflIdx d a b => some (encA 0x40 0 d.toNat a.toNat b.toNat)
  | .vshflUp d a b => some (encA 0x40 1 d.toNat a.toNat b.toNat)
  | .vshflDown d a b => some (encA 0x40 2 d.toNat a.toNat b.toNat)
  | .vshflXor d a b => some (encA 0x40 3 d.toNat a.toNat b.toNat)
  | .vshflBcast d a b => some (encA 0x40 4 d.toNat a.toNat b.toNat)
  | .vshflUpImm d a n => some (encA 0x40 9 d.toNat a.toNat n.toNat)
  | .vshflDownImm d a n => some (encA 0x40 10 d.toNat a.toNat n.toNat)
  | .vshflXorImm d a n => some (encA 0x40 11 d.toNat a.toNat n.toNat)
  | .vshflBcastImm d a n => some (encA 0x40 12 d.toNat a.toNat n.toNat)
  | .vany d a => some (encA 0x41 0 d.toNat a.toNat 0)
  | .vall d a => some (encA 0x41 1 d.toNat a.toNat 0)
  | .vballot d a => some (encA 0x41 2 d.toNat a.toNat 0)
  | .vmatch d a => some (encA 0x41 3 d.toNat a.toNat 0)
  | .vred o d a => some (encA 0x42 o.toCode d.toNat a.toNat 0)
  | .vscan o d a => some (encA 0x43 o.toCode d.toNat a.toNat 0)
  | .vtopk k d a b => some (encA 0x44 k.toNat d.toNat a.toNat b.toNat)
  | .brv k disp => some (encD 0x45 k.toNat 0 disp.toNat)
  | .jpt disp => some (encE 0x46 disp.toNat)
  | .join => some (encA 0x47 0 0 0 0)
  | .bany k disp => some (encD 0x48 k.toNat 0 disp.toNat)
  | .ball k disp => some (encD 0x48 (8 + k.toNat) 0 disp.toNat)
  | .cjoin a => some (encA 0x49 0 0 a.toNat 0)
  | .cleave a => some (encA 0x49 1 0 a.toNat 0)
  | .carrive a => some (encA 0x49 2 0 a.toNat 0)
  | .cwait a => some (encA 0x49 3 0 a.toNat 0)
  | .csync a => some (encA 0x49 4 0 a.toNat 0)
  | .ccount d a => some (encA 0x49 5 d.toNat a.toNat 0)
  | .setfmt imm => some (encC 0x4A 0 imm.toNat)
  | .settile imm => some (encC 0x4B 0 imm.toNat)
  | .vldb d sa b nd sc => some (encM 0x50 d.toNat sa.toNat b.toNat nd.toNat sc.toNat)
  | .vldbs d sa b nd sc => some (encM 0x51 d.toNat sa.toNat b.toNat nd.toNat sc.toNat)
  | .vldh d sa b nd sc => some (encM 0x52 d.toNat sa.toNat b.toNat nd.toNat sc.toNat)
  | .vldhs d sa b nd sc => some (encM 0x53 d.toNat sa.toNat b.toNat nd.toNat sc.toNat)
  | .vldw d sa b nd sc => some (encM 0x54 d.toNat sa.toNat b.toNat nd.toNat sc.toNat)
  | .vldd d sa b nd sc => some (encM 0x55 d.toNat sa.toNat b.toNat nd.toNat sc.toNat)
  | .vldq d sa b nd sc => some (encM 0x56 d.toNat sa.toNat b.toNat nd.toNat sc.toNat)
  | .vstb d sa b nd sc => some (encM 0x57 d.toNat sa.toNat b.toNat nd.toNat sc.toNat)
  | .vsth d sa b nd sc => some (encM 0x58 d.toNat sa.toNat b.toNat nd.toNat sc.toNat)
  | .vstw d sa b nd sc => some (encM 0x59 d.toNat sa.toNat b.toNat nd.toNat sc.toNat)
  | .vstd d sa b nd sc => some (encM 0x5A d.toNat sa.toNat b.toNat nd.toNat sc.toNat)
  | .vstq d sa b nd sc => some (encM 0x5B d.toNat sa.toNat b.toNat nd.toNat sc.toNat)
  | .amoa o d b sa ret => some (encAM 0x5C o.toCode d.toNat b.toNat sa.toNat ret.toNat)
  | .amol o d b sa ret => some (encAM 0x5D o.toCode d.toNat b.toNat sa.toNat ret.toNat)
  | .samoadd d a b => some (encA 0x5E 0 d.toNat a.toNat b.toNat)
  | .samocas d a b => some (encA 0x5E 1 d.toNat a.toNat b.toNat)
  | .samoswap d a b => some (encA 0x5E 2 d.toNat a.toNat b.toNat)
  | .samomax d a b => some (encA 0x5E 3 d.toNat a.toNat b.toNat)
  | .waitc c a b => some (encA 0x5E (4 + c.toCode) 0 a.toNat b.toNat)
  | .fence => some (encA 0x5E 8 0 0 0)
  | .cline a => some (encA 0x5E 9 0 a.toNat 0)
  | .pf a => some (encA 0x5E 10 0 a.toNat 0)
  | .gaddr d a => some (encA 0x5E 11 d.toNat a.toNat 0)
  | .copy z d a b => some (encA 0x60 z.toCode d.toNat a.toNat b.toNat)
  | .copyr o d a b => some (encA 0x61 o.toCode d.toNat a.toNat b.toNat)
  | .tcopy d a b => some (encA 0x62 0 d.toNat a.toNat b.toNat)
  | .tcopyIn d a b => some (encA 0x62 1 d.toNat a.toNat b.toNat)
  | .tcopyOut d a b => some (encA 0x62 2 d.toNat a.toNat b.toNat)
  | .shpw d a => some (encA 0x63 0 d.toNat a.toNat 0)
  | .shpi a => some (encA 0x63 1 0 a.toNat 0)
  | .sealB d => some (encA 0x64 0 d.toNat 0 0)
  | .waitb a => some (encA 0x64 1 0 a.toNat 0)
  | .mma d a b => some (encA 0x65 0 d.toNat a.toNat b.toNat)
  | .mmam d a b => some (encA 0x65 1 d.toNat a.toNat b.toNat)
  | .mmas d a b => some (encA 0x65 2 d.toNat a.toNat b.toNat)
  | .mma2 d a b => some (encA 0x65 3 d.toNat a.toNat b.toNat)
  | .acld d a b => some (encA 0x65 4 d.toNat a.toNat b.toNat)
  | .acst d a b => some (encA 0x65 5 d.toNat a.toNat b.toNat)
  | .acz a b => some (encA 0x65 6 0 a.toNat b.toNat)
  | .mrel => some (encA 0x65 7 0 0 0)
  | .layer a b => some (encA 0x66 0 0 a.toNat b.toNat)
  | .layerx2 a b => some (encA 0x66 1 0 a.toNat b.toNat)
  | .layert a b => some (encA 0x66 2 0 a.toNat b.toNat)
  | .rceq d a => some (encA 0x66 3 d.toNat a.toNat 0)
  | .rcepin a => some (encA 0x66 4 0 a.toNat 0)
  | .rceunpin a => some (encA 0x66 5 0 a.toNat 0)
  | .bsq a b => some (encA 0x67 0 0 a.toNat b.toNat)
  | .ways d a b => some (encA 0x67 1 d.toNat a.toNat b.toNat)
  | .waysrel a => some (encA 0x67 2 0 a.toNat 0)
  | .launch a b => some (encA 0x68 0 0 a.toNat b.toNat)
  | .migrate a => some (encA 0x69 0 0 a.toNat 0)
  | .home => some (encA 0x69 1 0 0 0)
  | .pfx k z rm vc => some (encP 0x70 (k.toNat * 4194304 + z.toNat * 2097152 + rm.toNat * 262144 + vc.toNat * 2048))
  | .ord scope order nd => some (encP 0x71 (scope.toCode * 4194304 + order.toCode * 1048576 + nd.toNat * 65536))
  | .limm high => some (encP 0x72 high.toNat)
  | .hint kind arg => some (encP 0x73 (kind.toNat * 2097152 + arg.toNat))
  | .bwid a => some (encMicro 1 a.toNat 0 0)
  | .bnot a d => some (encMicro 2 a.toNat 0 d.toNat)
  | .band a b d => some (encMicro 3 a.toNat b.toNat d.toNat)
  | .bor a b d => some (encMicro 4 a.toNat b.toNat d.toNat)
  | .bxor a b d => some (encMicro 5 a.toNat b.toNat d.toNat)
  | .badd a b d => some (encMicro 6 a.toNat b.toNat d.toNat)
  | .bsub a b d => some (encMicro 7 a.toNat b.toNat d.toNat)
  | .bcmplt a b d => some (encMicro 8 a.toNat b.toNat d.toNat)
  | .bcmpeq a b d => some (encMicro 9 a.toNat b.toNat d.toNat)
  | .bsel a b d => some (encMicro 10 a.toNat b.toNat d.toNat)
  | .bshl a b d => some (encMicro 11 a.toNat b.toNat d.toNat)
  | .bshr a b d => some (encMicro 12 a.toNat b.toNat d.toNat)
  | .bpopc a d => some (encMicro 13 a.toNat 0 d.toNat)
  | .bcopy a d => some (encMicro 14 a.toNat 0 d.toNat)
  | .bset b d => some (encMicro 15 0 b.toNat d.toNat)
  | .bcount a d => some (encMicro 16 a.toNat 0 d.toNat)
  | .bend => some (encMicro 17 0 0 0)
  | .circleWake _ => none
  | .waitbWake _ => none
  | .idleWake _ => none
  | .yieldHoldExpire _ => none
  | .pathOverdue _ => none
  | .ringCycle => none
  | .injectorLapStart => none
  | .pledgeRaise _ => none
  | .priceTableUpdate _ => none
  | .setPowerLimit _ => none
  | .setWfw _ => none
  | .setClusterFrequency _ _ => none
  | .fllStep _ => none
  | .droopTrip _ => none
  | .droopClear _ => none
  | .boostStep _ _ => none
  | .boostReturn _ => none
  | .engineRampComplete _ => none
  | .engineRampExpire _ => none
  | .tailDoorbell _ _ _ => none
  | .headRegisterWrite _ _ => none
  | .cardFetch _ => none
  | .gangPlace _ => none
  | .gangRetire _ => none
  | .launchPost _ => none
  | .gclkAdvance _ => none
  | .tclkAdvance _ => none
  | .epochAdvance _ => none
  | .rateRemeasure _ _ => none
  | .penaltyWindowClose _ _ => none
  | .loadReturn _ => none
  | .storePerform _ _ _ => none
  | .crossDomainWriteApply _ _ => none
  | .monitorFire _ => none
  | .monitorPoll _ => none
  | .translationWalkComplete _ => none
  | .copyElement _ _ => none
  | .copyComplete _ => none
  | .orderedGroupAdd _ => none
  | .replayEntryRun _ _ => none
  | .leaseStart _ => none
  | .accumulationStep _ => none
  | .leaseExpire _ => none
  | .matrixComplete _ => none
  | .adapterStage _ => none
  | .tilePassStart _ _ => none
  | .tilePassComplete _ _ => none
  | .layerComplete _ => none
  | .rceProbePass _ _ => none
  | .epochPublish _ => none
  | .tileRefresh _ _ => none
  | .pinLapse _ _ => none
  | .fieldConversionComplete _ => none
  | .bsqJobStart _ => none
  | .bsqJobComplete _ => none
  | .waysrelRelease _ => none
  | .rowActivation _ _ _ => none
  | .activationIntervalEnd _ _ => none
  | .sequencerWatchdogReset _ => none
  | .sequencerResetComplete _ => none
  | .nearRegionEnd _ => none
  | .timerCompare => none
  | .slotStart => none
  | .saveComplete _ => none
  | .saveForce _ => none
  | .drain _ _ => none
  | .drainDeadline _ => none
  | .resume _ => none
  | .saveCommand _ => none
  | .gangResume _ => none
  | .clusterLendable _ => none
  | .switchGroupBind _ _ => none
  | .switchTickSend => none
  | .switchTickReceive _ => none
  | .savedMessage _ _ => none
  | .setSlotLength _ => none
  | .poolEntryRelease _ _ => none
  | .partitionActivate _ _ => none
  | .partitionDeactivate _ => none
  | .update _ _ => none
  | .queueEnable _ _ => none
  | .queueDisable _ => none
  | .keyMapMove _ _ => none
  | .usageIntervalClose _ => none
  | .signatureRecordWrite _ => none
  | .logsign _ => none
  | .loghead _ _ => none
  | .frhead _ _ => none
  | .frreplay _ _ => none
  | .frfail _ _ => none
  | .registerWrite _ _ _ => none
  | .hostBar2Write _ _ _ => none
  | .hostBar2Read _ _ _ => none
  | .vfFlr _ => none
  | .flitReceive _ _ => none
  | .portFail _ => none
  | .routeLossTimeout _ => none
  | .setModnum _ => none
  | .powerGood => none
  | .bootStepComplete _ => none
  | .cert => none
  | .attest _ _ => none
  | .imageKeyRegister _ => none
  | .imgload _ => none
  | .region _ _ => none
  | .powerSample _ => none
  | .thermalThrottle _ => none
  | .throttleStep => none
  | .thermalShutdown _ => none
  | .powerLoss => none
  | .portTrained _ => none

/-- The word of an instruction; an event has none. -/
def encode (i : Instr) : Option (BitVec 32) := (encodeNat i).map (.ofNat 32)

end Sys2Proof
end

