-- ==== Sys2Proof/Machine/Opcode.lean ====
section
/-!
DEFINITION. The major opcode and the fn, op or cond code of each troupe instruction (R34, R49): what the binding rules of R40 to R43 and
the record of R439 speak of. A micro-op or an event has none.
-/

namespace Sys2Proof

/-- Major opcode and code of a troupe instruction. -/
def Instr.opc : Instr → Option (Nat × Nat)
  | .add _ _ _ => some (0x01, 0)
  | .sub _ _ _ => some (0x01, 1)
  | .mul _ _ _ => some (0x01, 2)
  | .mulh _ _ _ => some (0x01, 3)
  | .mulhn _ _ _ => some (0x01, 4)
  | .div _ _ _ => some (0x01, 5)
  | .divn _ _ _ => some (0x01, 6)
  | .rem _ _ _ => some (0x01, 7)
  | .remn _ _ _ => some (0x01, 8)
  | .min _ _ _ => some (0x01, 9)
  | .max _ _ _ => some (0x01, 10)
  | .minn _ _ _ => some (0x01, 11)
  | .maxn _ _ _ => some (0x01, 12)
  | .and _ _ _ => some (0x02, 0)
  | .or _ _ _ => some (0x02, 1)
  | .xor _ _ _ => some (0x02, 2)
  | .andn _ _ _ => some (0x02, 3)
  | .shl _ _ _ => some (0x02, 4)
  | .shr _ _ _ => some (0x02, 5)
  | .sar _ _ _ => some (0x02, 6)
  | .seq _ _ _ => some (0x02, 7)
  | .sne _ _ _ => some (0x02, 8)
  | .slt _ _ _ => some (0x02, 9)
  | .sltn _ _ _ => some (0x02, 10)
  | .sel _ _ _ => some (0x02, 11)
  | .clz _ _ => some (0x02, 12)
  | .ctz _ _ => some (0x02, 13)
  | .popc _ _ => some (0x02, 14)
  | .brev _ _ => some (0x02, 15)
  | .bfx _ _ _ _ => some (0x03, 0)
  | .bfi _ _ _ _ => some (0x04, 0)
  | .addi _ _ _ => some (0x05, 0)
  | .andi _ _ _ => some (0x06, 0)
  | .ori _ _ _ => some (0x07, 0)
  | .xori _ _ _ => some (0x08, 0)
  | .shli _ _ _ => some (0x09, 0)
  | .shri _ _ _ => some (0x0A, 0)
  | .sari _ _ _ => some (0x0B, 0)
  | .slti _ _ _ => some (0x0C, 0)
  | .movi _ _ => some (0x0D, 0)
  | .addpc _ _ => some (0x0E, 0)
  | .sfaddF64 _ _ _ => some (0x0F, 0)
  | .sfsubF64 _ _ _ => some (0x0F, 1)
  | .sfmulF64 _ _ _ => some (0x0F, 2)
  | .sffmaF64 _ _ _ => some (0x0F, 3)
  | .sfdivF64 _ _ _ => some (0x0F, 4)
  | .sfcmpF64 _ _ _ => some (0x0F, 5)
  | .sfcvtF64 _ _ _ => some (0x0F, 6)
  | .sfaddF32 _ _ _ => some (0x0F, 8)
  | .sfsubF32 _ _ _ => some (0x0F, 9)
  | .sfmulF32 _ _ _ => some (0x0F, 10)
  | .sffmaF32 _ _ _ => some (0x0F, 11)
  | .sfdivF32 _ _ _ => some (0x0F, 12)
  | .sfcmpF32 _ _ _ => some (0x0F, 13)
  | .sfcvtF32 _ _ _ => some (0x0F, 14)
  | .ldb _ _ _ _ => some (0x10, 0)
  | .ldbs _ _ _ _ => some (0x11, 0)
  | .ldh _ _ _ _ => some (0x12, 0)
  | .ldhs _ _ _ _ => some (0x13, 0)
  | .ldw _ _ _ _ => some (0x14, 0)
  | .ldws _ _ _ _ => some (0x15, 0)
  | .ldd _ _ _ _ => some (0x16, 0)
  | .stb _ _ _ _ => some (0x17, 0)
  | .sth _ _ _ _ => some (0x18, 0)
  | .stw _ _ _ _ => some (0x19, 0)
  | .std _ _ _ _ => some (0x1A, 0)
  | .br _ => some (0x1B, 0)
  | .brc c _ _ => some (0x1C, c.toCode)
  | .call _ => some (0x1D, 0)
  | .callr _ => some (0x1E, 0)
  | .ret => some (0x1E, 1)
  | .jmpr _ => some (0x1E, 2)
  | .mfs _ _ => some (0x1E, 3)
  | .mts _ _ => some (0x1E, 4)
  | .nop => some (0x1E, 5)
  | .brk _ => some (0x1E, 6)
  | .sys _ => some (0x1E, 7)
  | .clk _ => some (0x1E, 8)
  | .exit => some (0x1E, 9)
  | .yield => some (0x1E, 10)
  | .mfc _ _ => some (0x1E, 11)
  | .mtc _ _ => some (0x1E, 12)
  | .eret => some (0x1F, 0)
  | .tlbi _ _ => some (0x1F, 1)
  | .idle => some (0x1F, 2)
  | .vaddF32 _ _ _ => some (0x20, 0)
  | .vsubF32 _ _ _ => some (0x20, 1)
  | .vmulF32 _ _ _ => some (0x20, 2)
  | .vfmaF32 _ _ _ => some (0x20, 3)
  | .vfmsF32 _ _ _ => some (0x20, 4)
  | .vfnmaF32 _ _ _ => some (0x20, 5)
  | .vminF32 _ _ _ => some (0x20, 6)
  | .vmaxF32 _ _ _ => some (0x20, 7)
  | .vabsF32 _ _ => some (0x20, 8)
  | .vnegF32 _ _ => some (0x20, 9)
  | .vscaleF32 _ _ _ => some (0x20, 10)
  | .vgetexpF32 _ _ => some (0x20, 11)
  | .vrndF32 _ _ => some (0x20, 12)
  | .vclampF32 _ _ _ => some (0x20, 13)
  | .vmovF32 _ _ => some (0x20, 14)
  | .vaddF16x2 _ _ _ => some (0x21, 0)
  | .vsubF16x2 _ _ _ => some (0x21, 1)
  | .vmulF16x2 _ _ _ => some (0x21, 2)
  | .vfmaF16x2 _ _ _ => some (0x21, 3)
  | .vfmsF16x2 _ _ _ => some (0x21, 4)
  | .vfnmaF16x2 _ _ _ => some (0x21, 5)
  | .vminF16x2 _ _ _ => some (0x21, 6)
  | .vmaxF16x2 _ _ _ => some (0x21, 7)
  | .vabsF16x2 _ _ => some (0x21, 8)
  | .vnegF16x2 _ _ => some (0x21, 9)
  | .vaddBf16x2 _ _ _ => some (0x22, 0)
  | .vsubBf16x2 _ _ _ => some (0x22, 1)
  | .vmulBf16x2 _ _ _ => some (0x22, 2)
  | .vfmaBf16x2 _ _ _ => some (0x22, 3)
  | .vfmsBf16x2 _ _ _ => some (0x22, 4)
  | .vfnmaBf16x2 _ _ _ => some (0x22, 5)
  | .vminBf16x2 _ _ _ => some (0x22, 6)
  | .vmaxBf16x2 _ _ _ => some (0x22, 7)
  | .vabsBf16x2 _ _ => some (0x22, 8)
  | .vnegBf16x2 _ _ => some (0x22, 9)
  | .vcmpf c _ _ _ => some (0x23, c.toCode)
  | .vaddI32 _ _ _ => some (0x24, 0)
  | .vsubI32 _ _ _ => some (0x24, 1)
  | .vmulI32 _ _ _ => some (0x24, 2)
  | .vmulh _ _ _ => some (0x24, 3)
  | .vmulhn _ _ _ => some (0x24, 4)
  | .vmad _ _ _ => some (0x24, 5)
  | .vminI32 _ _ _ => some (0x24, 6)
  | .vmaxI32 _ _ _ => some (0x24, 7)
  | .vminn _ _ _ => some (0x24, 8)
  | .vmaxn _ _ _ => some (0x24, 9)
  | .vabsI32 _ _ => some (0x24, 10)
  | .vnegI32 _ _ => some (0x24, 11)
  | .vaddsI32 _ _ _ => some (0x24, 12)
  | .vsubsI32 _ _ _ => some (0x24, 13)
  | .vavgI32 _ _ _ => some (0x24, 14)
  | .vaddI16 _ _ _ => some (0x25, 0)
  | .vsubI16 _ _ _ => some (0x25, 1)
  | .vaddsI16 _ _ _ => some (0x25, 2)
  | .vsubsI16 _ _ _ => some (0x25, 3)
  | .vaddsN16 _ _ _ => some (0x25, 4)
  | .vsubsN16 _ _ _ => some (0x25, 5)
  | .vavgI16 _ _ _ => some (0x25, 6)
  | .vavgN16 _ _ _ => some (0x25, 7)
  | .vaddI8 _ _ _ => some (0x25, 8)
  | .vsubI8 _ _ _ => some (0x25, 9)
  | .vaddsI8 _ _ _ => some (0x25, 10)
  | .vsubsI8 _ _ _ => some (0x25, 11)
  | .vaddsN8 _ _ _ => some (0x25, 12)
  | .vsubsN8 _ _ _ => some (0x25, 13)
  | .vavgI8 _ _ _ => some (0x25, 14)
  | .vavgN8 _ _ _ => some (0x25, 15)
  | .vand _ _ _ => some (0x26, 0)
  | .vor _ _ _ => some (0x26, 1)
  | .vxor _ _ _ => some (0x26, 2)
  | .vandn _ _ _ => some (0x26, 3)
  | .vshl _ _ _ => some (0x26, 4)
  | .vshr _ _ _ => some (0x26, 5)
  | .vsar _ _ _ => some (0x26, 6)
  | .vpopc _ _ => some (0x26, 7)
  | .vclz _ _ => some (0x26, 8)
  | .vbrev _ _ => some (0x26, 9)
  | .vbfx _ _ _ => some (0x26, 10)
  | .vbfi _ _ _ => some (0x26, 11)
  | .vsel k _ _ _ => some (0x27, k.toNat)
  | .vcmpi c _ _ _ => some (0x28, c.toCode)
  | .vcvt c _ _ _ => some (0x29, c.toCode)
  | .vrcp _ _ => some (0x2A, 0)
  | .vrsq _ _ => some (0x2A, 1)
  | .vsqrt _ _ => some (0x2A, 2)
  | .vexp2 _ _ => some (0x2A, 3)
  | .vlog2 _ _ => some (0x2A, 4)
  | .vsin _ _ => some (0x2A, 5)
  | .vcos _ _ => some (0x2A, 6)
  | .vtanh _ _ => some (0x2A, 7)
  | .vsigm _ _ => some (0x2A, 8)
  | .vdot4i _ _ _ => some (0x2B, 0)
  | .vdot4n _ _ _ => some (0x2B, 1)
  | .vdot2bf _ _ _ => some (0x2B, 2)
  | .vdot2h _ _ _ => some (0x2B, 3)
  | .vmovs _ _ => some (0x2C, 0)
  | .vmovsh _ _ => some (0x2C, 1)
  | .vlane _ => some (0x2C, 2)
  | .vrand _ => some (0x2C, 3)
  | .vext _ _ _ => some (0x2C, 4)
  | .vmovi _ _ => some (0x2D, 0)
  | .vshflIdx _ _ _ => some (0x40, 0)
  | .vshflUp _ _ _ => some (0x40, 1)
  | .vshflDown _ _ _ => some (0x40, 2)
  | .vshflXor _ _ _ => some (0x40, 3)
  | .vshflBcast _ _ _ => some (0x40, 4)
  | .vshflUpImm _ _ _ => some (0x40, 9)
  | .vshflDownImm _ _ _ => some (0x40, 10)
  | .vshflXorImm _ _ _ => some (0x40, 11)
  | .vshflBcastImm _ _ _ => some (0x40, 12)
  | .vany _ _ => some (0x41, 0)
  | .vall _ _ => some (0x41, 1)
  | .vballot _ _ => some (0x41, 2)
  | .vmatch _ _ => some (0x41, 3)
  | .vred o _ _ => some (0x42, o.toCode)
  | .vscan o _ _ => some (0x43, o.toCode)
  | .vtopk k _ _ _ => some (0x44, k.toNat)
  | .brv _ _ => some (0x45, 0)
  | .jpt _ => some (0x46, 0)
  | .join => some (0x47, 0)
  | .bany _ _ => some (0x48, 0)
  | .ball _ _ => some (0x48, 8)
  | .cjoin _ => some (0x49, 0)
  | .cleave _ => some (0x49, 1)
  | .carrive _ => some (0x49, 2)
  | .cwait _ => some (0x49, 3)
  | .csync _ => some (0x49, 4)
  | .ccount _ _ => some (0x49, 5)
  | .setfmt _ => some (0x4A, 0)
  | .settile _ => some (0x4B, 0)
  | .vldb _ _ _ _ _ => some (0x50, 0)
  | .vldbs _ _ _ _ _ => some (0x51, 0)
  | .vldh _ _ _ _ _ => some (0x52, 0)
  | .vldhs _ _ _ _ _ => some (0x53, 0)
  | .vldw _ _ _ _ _ => some (0x54, 0)
  | .vldd _ _ _ _ _ => some (0x55, 0)
  | .vldq _ _ _ _ _ => some (0x56, 0)
  | .vstb _ _ _ _ _ => some (0x57, 0)
  | .vsth _ _ _ _ _ => some (0x58, 0)
  | .vstw _ _ _ _ _ => some (0x59, 0)
  | .vstd _ _ _ _ _ => some (0x5A, 0)
  | .vstq _ _ _ _ _ => some (0x5B, 0)
  | .amoa o _ _ _ _ => some (0x5C, o.toCode)
  | .amol o _ _ _ _ => some (0x5D, o.toCode)
  | .samoadd _ _ _ => some (0x5E, 0)
  | .samocas _ _ _ => some (0x5E, 1)
  | .samoswap _ _ _ => some (0x5E, 2)
  | .samomax _ _ _ => some (0x5E, 3)
  | .waitc c _ _ => some (0x5E, 4 + c.toCode)
  | .fence => some (0x5E, 8)
  | .cline _ => some (0x5E, 9)
  | .pf _ => some (0x5E, 10)
  | .gaddr _ _ => some (0x5E, 11)
  | .copy z _ _ _ => some (0x60, z.toCode)
  | .copyr o _ _ _ => some (0x61, o.toCode)
  | .tcopy _ _ _ => some (0x62, 0)
  | .tcopyIn _ _ _ => some (0x62, 1)
  | .tcopyOut _ _ _ => some (0x62, 2)
  | .shpw _ _ => some (0x63, 0)
  | .shpi _ => some (0x63, 1)
  | .sealB _ => some (0x64, 0)
  | .waitb _ => some (0x64, 1)
  | .mma _ _ _ => some (0x65, 0)
  | .mmam _ _ _ => some (0x65, 1)
  | .mmas _ _ _ => some (0x65, 2)
  | .mma2 _ _ _ => some (0x65, 3)
  | .acld _ _ _ => some (0x65, 4)
  | .acst _ _ _ => some (0x65, 5)
  | .acz _ _ => some (0x65, 6)
  | .mrel => some (0x65, 7)
  | .layer _ _ => some (0x66, 0)
  | .layerx2 _ _ => some (0x66, 1)
  | .layert _ _ => some (0x66, 2)
  | .rceq _ _ => some (0x66, 3)
  | .rcepin _ => some (0x66, 4)
  | .rceunpin _ => some (0x66, 5)
  | .bsq _ _ => some (0x67, 0)
  | .ways _ _ _ => some (0x67, 1)
  | .waysrel _ => some (0x67, 2)
  | .launch _ _ => some (0x68, 0)
  | .migrate _ => some (0x69, 0)
  | .home => some (0x69, 1)
  | .pfx _ _ _ _ => some (0x70, 0)
  | .ord _ _ _ => some (0x71, 0)
  | .limm _ => some (0x72, 0)
  | .hint _ _ => some (0x73, 0)
  | _ => none

/-- The major opcode; 0, a reserved one, for a micro-op or an event. -/
def Instr.major (i : Instr) : Nat := (i.opc.getD (0, 0)).1
/-- The code within the major. -/
def Instr.code (i : Instr) : Nat := (i.opc.getD (0, 0)).2
/-- Whether a troupe fetches the instruction. -/
def Instr.ofTroupe (i : Instr) : Bool := i.opc.isSome

/-- The 32-bit word of a troupe instruction, as an error record holds it (R439). -/
def Instr.word (i : Instr) : BitVec 32 := (encode i).getD 0

end Sys2Proof
end

