-- ==== Sys2Proof/Machine/State.lean ====
section
/-!
DEFINITION. The state of a Teuri module: plain data. Each field's docstring names the rule of spec/ that gives it; what the model adds of
its own says so. The gang, troupe and slot in focus stand outside the lists of the others (log 4).
-/

namespace Sys2Proof.Machine

/-- Log 2, log 4. Stops of the model itself; no rule of the spec gives the machine a behaviour there. Each is safe: the model goes no further. -/
inductive Fault where
  /-- Raised by an instruction word executed with no live path in focus: nothing fetches (R19). Safe. -/
  | noPath
  /-- Raised by any step but POWER_GOOD while the module has no power (R526, R530). Safe. -/
  | noPower
  /-- Raised by a micro-op executed with no running job in focus: no sequencer fetches (R416). Safe. -/
  | noJob
  deriving DecidableEq, Repr

/-- Refusals. -/
inductive Refusal where
  /-- Raised by an arm of `exec` without a meaning. Safe. -/
  | notModelled (mnemonic : String)
  deriving DecidableEq, Repr

/-! ### Paths and troupes -/

/-- The payloads of the pending attachment words of a slot (R10, R39, R46). -/
structure Pend where
  pfx  : Option (BitVec 25) := none
  ord  : Option (BitVec 25) := none
  limm : Option (BitVec 25) := none
  hint : Option (BitVec 25) := none
  deriving DecidableEq, Repr

/-- Where a monitor sits (R299): a scratchpad, a core's L1, an L2 slice (by instance), the home slice on another module. -/
inductive MonPlace where
  | pad
  | l1 (core : Nat)
  | slice (inst : Nat)
  | away
  deriving DecidableEq, Repr

/-- An armed monitor (R299): its place, the byte it watches there (physical address, or offset in the gang's shares), the 8 bytes at the place
when it was armed, and whether an L1 or a slice held the line. -/
structure Monitor where
  place : MonPlace
  at_   : Nat
  val   : Nat
  here  : Bool
  deriving DecidableEq, Repr

/-- Why a live path sleeps. Its PC stays at the instruction until the wait ends. -/
inductive Asleep where
  /-- In WAITC on the 8 bytes at `x` (R298): the operand, the condition, the scope, whether the read acquires; `entry`: it holds a
  monitor entry (R300); the instruction word; the armed monitor. The attachments stay pending until the wait ends. -/
  | waitc (x v : Word64) (c : WaitCond) (scope : OrdScope) (acq entry : Bool) (word : BitVec 32) (mon : Option Monitor := none)
  /-- In CWAIT or the wait of CSYNC on a circle (R215), with the instruction word; `done` once the phase it waited for has completed. -/
  | circle (c : BitVec 5) (word : BitVec 32) (done : Bool := false)
  /-- In a second arrival on a circle; `thenWait` for CSYNC (R215); `done` once it has arrived; the CYCLE at which it issued (R217). -/
  | arrive (c : BitVec 5) (thenWait : Bool) (word : BitVec 32) (done : Bool := false) (since : Nat := 0)
  /-- In WAITB (R337), with its word. -/
  | waitb (n : Word64) (word : BitVec 32)
  /-- In IDLE (R447), with its word. -/
  | idle (word : BitVec 32)
  deriving DecidableEq, Repr

/-- A path slot (R139). A free slot has `live` false. -/
structure Slot where
  live  : Bool := false
  /-- R10, R16: bits [1:0] are zero in every reachable state. -/
  pc    : BitVec 48 := 0
  mask  : BitVec 32 := 0
  fmt   : BitVec 32 := 0
  jpc   : BitVec 48 := 0
  /-- Number plus 1 of the join entry the path belongs to; 0 for none. -/
  frame : BitVec 32 := 0
  nudge : BitVec 2 := 0
  att   : Pend := {}
  sleep : Option Asleep := none
  /-- The sibling trapped and no handler has re-armed the vector (R434, R437, R442). -/
  frozen : Bool := false
  /-- A YIELD holds the path: the cycle of the YIELD and the ready paths of the quadrant yet to issue (R134). -/
  yield : Option (Nat × List PathId) := none
  /-- The path has been ready for 16 cycles without issuing (R162). -/
  overdue : Bool := false
  /-- The cycle from which the path counts as ready, and that of its latest issue (R162). -/
  readyAt : Nat := 0
  lastIssue : Nat := 0
  /-- The stack on whose NMU the path runs (R508 to R513); none outside a NEAR region. -/
  near : Option Nat := none
  /-- A request of the present instruction has been refused a pool entry and counted (R475); CYCLE of the refusal of a copy or a WAITC (R473). -/
  refused : Bool := false
  askedAt : Nat := 0
  /-- The present instruction holds the path until a page walk ends (R454); the pages whose walks it has waited for. -/
  walking : Bool := false
  walked : List Nat := []
  /-- The latest attempt to issue had to wait: the path is not ready (R162). -/
  waits : Bool := false
  /-- CYCLE at which the present instruction issued, while it waits for a walk or with its stop in hand (R434 to R436, R454); the stop is in
  hand. -/
  issued : Option Nat := none
  hand : Bool := false
  /-- The instruction at the top of memory has completed, with this word: the sequential fetch that traps is due (R18). -/
  wrap : Option (BitVec 32) := none
  deriving DecidableEq, Repr

/-- How an access takes effect: scope, order, next-use distance (R43, R275, R285). -/
structure AccMode where
  scope : OrdScope := .device
  order : OrdOrder := .relaxed
  nd    : BitVec 4 := 15
  deriving DecidableEq, Repr

/-- Where an access lands: a byte of a scratchpad share of the gang, of physical memory, or of the price page (R231, R264, R286, R450). -/
inductive Loc where
  | scratch (off : Nat)
  | phys (pa : Nat) (mt : Nat)
  /-- The price page (R231). -/
  | price (off : Nat)
  deriving DecidableEq, Repr

/-- The read-modify-writes of R292, R293 and R296. -/
inductive AtomicOp where
  | a (o : AmoaOp)
  | l (o : AmolOp)
  | sadd | scas | sswap | smax
  deriving DecidableEq, Repr

/-- An unperformed store or atomic without return of a troupe (R107, R286, R307, R486). -/
structure StoreEntry where
  /-- The lanes in whose program order it stands. -/
  lanes : BitVec 32
  /-- The lane whose UAS it counts in (R486, R498). -/
  lane  : Nat
  /-- The lanes of the issuing path: a release waits for the earlier accesses of all of them (R285). -/
  path  : BitVec 32
  va    : Word64
  loc   : Loc
  size  : Nat
  /-- The stored bytes, or an atomic's operand; for a compare-and-swap the compared value in `cmp`. -/
  data  : Nat
  cmp   : Nat := 0
  /-- None for a plain store. -/
  aop   : Option AtomicOp := none
  mode  : AccMode
  /-- The number of its instruction in its troupe: the lanes of one instruction perform in ascending order at a byte (R289, R291). -/
  ins   : Nat := 0
  /-- Lanes of which a scalar load has read it by forwarding (R107, R316). -/
  seen  : BitVec 32 := 0
  /-- It is clipped to tenant scope; it goes to host memory or to memory another partition maps (R324). -/
  clip  : Bool := false
  out   : Bool := false
  /-- A write of a path-stack entry: a troupe-scope read of its bytes by any lane sees it (R150). -/
  stack : Bool := false
  deriving DecidableEq, Repr

/-- A load of the lanes, still to be issued, that has bound (R313): scope, place, size, value, the number of the instruction after which it
bound, whether it has made an acquire's invalidation. -/
structure Early where
  lanes : BitVec 32
  scope : OrdScope
  loc   : Loc
  size  : Nat
  val   : Nat
  since : Nat
  acq   : Bool
  deriving DecidableEq, Repr

/-- What an instruction needs of a page (R452, R458). -/
inductive AccKind where
  | read | write | atomic | fetch | table
  deriving DecidableEq, Repr

/-- A page an instruction missed (R457, R458): stage (false tenant, true partition), address, access; the virtual address and lane of the
access, for the record of a fault marked failed (R441, R459). -/
structure PageMiss where
  stage : Bool
  addr  : Nat
  acc   : AccKind
  va    : Word64 := 0
  lane  : Option Nat := none
  /-- Met where an instruction reads a record of an engine (SRC 2 of R458). -/
  rec_  : Bool := false
  deriving DecidableEq, Repr

/-- An error record before it is laid out in bytes (R439 to R441). -/
structure ErrRec where
  cause  : Nat
  lane   : Option Nat := none
  word   : BitVec 32 := 0
  pc     : Nat := 0
  ft     : Bool := false
  imp    : Bool := false
  addr   : Word64 := 0
  aux    : Word64 := 0
  /-- DETAIL bytes as a number and their count; `dtr` when a longer record is cut (R440, R441). -/
  detail : Nat := 0
  dlen   : Nat := 0
  dtr    : Bool := false
  /-- Filled in when the trap is taken: gang, troupe, slot, privilege, the pending attachments of both slots. -/
  gang   : Nat := 0
  troupe : Nat := 0
  slotQ  : Bool := false
  sysp   : Bool := false
  attP   : Pend := {}
  attQ   : Pend := {}
  /-- CYCLE at the trap: the record kept is that of the earliest (R438). -/
  cycle  : Nat := 0
  /-- A machine check's physical address, for its record of R449. -/
  mcpa   : Nat := 0
  deriving DecidableEq, Repr

/-- A troupe parked on pages not present (R436): the faults it waits for, by partition-local number; `frame` when it was a trap frame's
write that missed, with the record it holds (R437); else the slot and the word of the instruction, and its misses by fault number. -/
structure Park where
  waits : List Nat
  frame : Option (SlotId × ErrRec) := none
  slot  : SlotId := .P
  word  : BitVec 32 := 0
  misses : List (Nat × PageMiss) := []
  deriving DecidableEq, Repr

/-- What MIGRATE ships and keeps at home (R508). -/
structure NearCopy where
  sreg  : Vector (BitVec 64) 64
  vreg  : Vector (Vector (BitVec 32) 32) 128
  kreg  : Vector (BitVec 32) 8
  slot  : Slot
  tilesz : BitVec 6
  rbnd  : BitVec 8
  trapvec : BitVec 48
  batch : BitVec 64
  /-- Stores of this number and above are the region's own. -/
  ins   : Nat
  deriving DecidableEq, Repr

/-- A troupe: spec/01 R10, spec/06 R136. -/
structure Troupe where
  idx   : Nat := 0
  /-- s0 to s63; s0's entry stays 0 (R12). -/
  sreg  : Vector (BitVec 64) 64 := Vector.replicate 64 0
  /-- v0 to v127, 32 lanes each; a troupe may name those below its allocation (R35, R136). -/
  vreg  : Vector (Vector (BitVec 32) 32) 128 := Vector.replicate 128 (Vector.replicate 32 0)
  /-- k1 to k7; entry 0 is unused, k0 reads as the path's mask (R136). -/
  kreg  : Vector (BitVec 32) 8 := Vector.replicate 8 0
  /-- Draw counters (R92). -/
  draw  : Vector (BitVec 64) 32 := Vector.replicate 32 0
  p     : Slot := {}
  q     : Slot := {}
  /-- Entries on the path stack; they lie in lane 0's private memory (R136, R150). -/
  psp   : BitVec 32 := 0
  tilesz : BitVec 6 := 32
  rbnd  : BitVec 8 := 128
  trapvec : BitVec 48 := 0
  batch : BitVec 64 := 0
  /-- Quadrant of its core (R161). -/
  quadrant : Nat := 0
  /-- Its slot among the 16 of its quadrant (R161, R162). -/
  qslot : Nat := 0
  /-- Frame number of its private memory (R267). -/
  frameNo : Nat := 0
  /-- Unperformed stores and atomics without return, oldest first (R307, R486). -/
  stream : List StoreEntry := []
  /-- Stores, atomics and early loads so far: the names of `StoreEntry.ins` and `Early.since`. -/
  ins   : Nat := 0
  /-- Loads that have bound ahead of their issue, oldest first (R313). -/
  early : List Early := []
  /-- Lines of other modules that lanes have written: those lanes read past the RDC there (R24, R519). -/
  sent  : List (BitVec 32 × Nat) := []
  park  : Option Park := none
  /-- Stopped by its gang's end in error, or ended by EXIT (R133, R438). -/
  ended : Bool := false
  /-- The copy kept at MIGRATE, from which a watchdog reset restarts the region (R508, R516), and the mask stack: entry number, 32 bytes
  (R509, R513). -/
  nearCopy : Option NearCopy := none
  nearStack : List (Nat × Nat) := []
  /-- Lines written by asynchronous work of a batch, which a WAITB invalidates in the core's L1 (R337). -/
  wrote : List (BitVec 64 × Nat) := []
  deriving DecidableEq, Repr

/-! ### Gangs -/

/-- A circle (R159, R214): members and arrived troupes by index, phase. A troupe's owed bit is its arrived bit. -/
structure Circle where
  member  : BitVec 512 := 0
  arrived : BitVec 512 := 0
  phase   : Bool := false
  /-- The troupe that arrived last (R240). -/
  last    : Nat := 0
  deriving DecidableEq, Repr

/-- A pin of a gang (R406): region, CYCLE at which its RCEPIN retired, the epoch pinned on each stack. -/
structure Pin where
  region : Nat
  cycle : Nat
  epochs : List (Nat × Nat)
  deriving DecidableEq, Repr

/-- A save under way (R483, R485): the CYCLE of its deadline, whether it was forced, whether a reclaim asked for it, the cluster and the
partition of a switch tick. -/
structure SaveReq where
  deadline : Nat
  forced : Bool := false
  recl : Bool := false
  switch : Bool := false
  /-- The drain that escalated to it (R482). -/
  cause : Option DrainScope := none
  deriving DecidableEq, Repr

/-- A gang (R155 to R160, R247, R259): what the card and the placement fix, and the state its troupes share. Its troupes stand in
`troupes`, but for the one in focus. -/
structure Gang where
  /-- The model's own name of a gang, unique over the run. -/
  uid   : Nat := 0
  /-- System privilege (R432). -/
  sys   : Bool := false
  part  : Nat := 0
  /-- Model's own: the name of its card. Queue index and head counter value of the card (R93). -/
  card  : Nat := 0
  q     : Nat := 0
  head  : Nat := 0
  gidx  : BitVec 32 := 0
  ngang : Nat := 1
  cls   : Nat := 0
  nC    : Nat := 1
  nT    : Nat := 1
  /-- Vector registers a troupe of it may name (R136). -/
  vregs : Nat := 16
  /-- Scratchpad share in bytes per core; ACS share in bytes per core (R247, R265). -/
  scru  : Nat := 0
  acsk  : Nat := 0
  cluster : Nat := 0
  core0 : Nat := 0
  srseed : BitVec 64 := 0
  gclk  : BitVec 32 := 0
  /-- Retire count r, from 0 to N − 1 (R273). -/
  ret   : Nat := 0
  circles : Vector Circle 32 := Vector.replicate 32 {}
  /-- Scratchpad bytes at c × 2^20 + b for byte b of gang core c; unlisted bytes are 0 (R265, R268). -/
  scratch : List Host.Cell := []
  /-- ACS bytes at c × 2^18 + b for byte b of gang core c's share; unlisted bytes are 0 (R358). -/
  acs   : List Host.Cell := []
  troupes : List Troupe := []
  /-- The record of a gang that ends in error (R438). -/
  err   : Option ErrRec := none
  /-- The record of the first element an engine failed at (R347, R378, R403, R439, R441). -/
  engErr : Option ErrRec := none
  /-- Pins, and the regions whose last pin lapsed or whose last RCEPIN was refused (R405, R406). -/
  pins  : List Pin := []
  lapsed : List Nat := []
  refusedPins : List Nat := []
  /-- A save under way (R483). -/
  save  : Option SaveReq := none
  /-- CYCLE since which its residency is counted (R478). -/
  since : Nat := 0
  deriving DecidableEq, Repr

/-! ### Memory levels -/

/-- A line of a cache instance (R271, R277, R309). `line` is the physical address over 128. A slice's lines carry no bytes of their own:
home memory holds them. -/
structure CLine where
  line  : Nat
  way   : Nat := 0
  /-- The gang's uid at an L1, the partition elsewhere (R277). -/
  owner : Nat := 0
  /-- The partition of its owner; in an RDC the tenant whose access filled it (R272, R277). -/
  tenant : Nat := 0
  stamp : Nat := 0
  expired : Bool := false
  aged  : Bool := false
  dead  : Bool := false
  /-- A clean copy that the home slice tracks (R309). -/
  tracked : Bool := false
  /-- The scope tag of a dirty line, and the scope a clean line was filled for (R271). -/
  tag   : OrdScope := .troupe
  fill  : OrdScope := .device
  /-- Dirty mask per byte, bit i for byte i (R309), and the line's bytes, byte 0 lowest. At a slice a nonzero mask says that the next level
  has still to be written (R278). -/
  dirty : BitVec 128 := 0
  data  : BitVec 1024 := 0
  deriving DecidableEq, Repr

/-- What an instance keeps of a requester: a gang at an L1, a partition elsewhere (R276, R279, R280). -/
structure Requester where
  who   : Nat
  /-- The rate exponent j; the requester's tick and the instance's epoch count at its last measure (R276). -/
  j     : Int := 0
  tick  : Nat := 0
  epoch : Nat := 0
  /-- The penalty p; insertions and expiries in the present window (R280). -/
  p     : Nat := 0
  inserts : Nat := 0
  expiries : Nat := 0
  deriving DecidableEq, Repr

/-- A cache instance: an L1 (0 to 127, by core), an L2 slice (128 to 191), an RDC slice (192 to 207), an MSC slice (208 to 223) (R269). -/
structure CacheInst where
  inst  : Nat
  now   : Nat := 0
  /-- Requests applied since the last advance, and advances made in all (R276). -/
  reqs  : Nat := 0
  epochs : Nat := 0
  lines : List CLine := []
  reqrs : List Requester := []
  deriving DecidableEq, Repr

/-- A request of a line that the levels have still to serve (R275, R277, R287): what it touches on its way. -/
structure Fill where
  /-- The core that asks; 1,024 and more for what is no request of a core's instructions. -/
  core  : Nat
  pa    : Nat
  mt    : Nat := 0
  scope : OrdScope := .device
  nd    : BitVec 4 := 15
  gang  : Nat := 0
  part  : Nat := 0
  /-- The deepest level filled: 1 L1, 2 the L2 slice or the RDC, 3 the MSC slice (R303). -/
  depth : Nat := 1
  /-- It writes: the first level that keeps the line holds it modified (R278). -/
  write : Bool := false
  /-- An NMU's: it allocates no line in L2 (R510). -/
  pass  : Bool := false
  /-- A stack sequencer's own request (R275). -/
  seq   : Bool := false
  /-- A request of a 4-byte word group of a scratchpad (R287); `pa` is its offset in the gang's shares. -/
  pad   : Bool := false
  deriving DecidableEq, Repr

/-- A TLB entry: both stages joined (R453). `place` is the core (0 to 127), 128 + the cluster, or 144 for the die's. -/
structure TlbEntry where
  place : Nat
  part  : Nat
  va    : Nat
  ipa   : Nat
  pa    : Nat
  /-- log2 of the page's size. -/
  size  : Nat
  r     : Bool
  w     : Bool
  x     : Bool
  mt    : Nat
  deriving DecidableEq, Repr

/-- A page walk in progress (R454): the core that asked, the partition and the address; the paths that wait for it, the prefetches that
asked for it. -/
structure Walk where
  core  : Nat
  part  : Nat
  sys   : Bool
  va    : Nat
  acc   : AccKind
  who   : List PathId := []
  fills : List Fill := []
  deriving DecidableEq, Repr

/-- A table entry in the walk cache of a cluster's walkers (R453): cluster, partition, physical address, value. -/
structure WalkEntry where
  cluster : Nat
  part  : Nat
  pa    : Nat
  val   : Nat
  deriving DecidableEq, Repr

/-! ### Faults of a partition -/

/-- Who met a fault (R458). -/
inductive FaultSrc where
  | troupe | copy | record | ringmaster
  deriving DecidableEq, Repr

/-- A fault of a partition that is not resolved (R457, R459). -/
structure PFault where
  /-- The model's number of it within the partition. -/
  num   : Nat
  miss  : PageMiss
  /-- The sequence number its record carries; none before the record is written (R457). -/
  seq   : Option Nat := none
  released : Bool := false
  failed : Bool := false
  src   : FaultSrc := .troupe
  qix   : Nat := 0
  gang  : Nat := 0
  troupe : Nat := 0
  pc    : Nat := 0
  deriving DecidableEq, Repr

/-- A field of a partition (R411, R413): a slot of its field table. `live`: its handle is current. -/
structure FieldSlot where
  gen   : Nat := 0
  live  : Bool := false
  /-- It holds ways: from the grant to the release (R414, R415). -/
  held  : Bool := false
  /-- Parts in part order: stack and way (R411). -/
  parts : List (Nat × Nat) := []
  /-- The 512 rows, row 0 first; bit e of a row is lane e (R411, R412). -/
  rows  : List Nat := []
  /-- Unfinished field work in the order the field applies it, by work name (R421). -/
  items : List Nat := []
  deriving DecidableEq, Repr

/-- A slot of a region table (R382): generation and the region's name; none when the slot is free. -/
structure RegionSlot where
  gen   : Nat := 1
  region : Option Nat := none
  deriving DecidableEq, Repr

/-! ### Partitions, queues and cards -/

/-- The values an UPDATE may change (R463). -/
structure Shares where
  wsh   : Nat := 0
  bwsh  : Nat := 0
  lql2  : Nat := 0
  lqmsc : Nat := 0
  dnl1  : Nat := 6
  dnl2  : Nat := 6
  dnmsc : Nat := 6
  deriving DecidableEq, Repr

/-- The four shared pools of R472. -/
inductive Pool where
  | card | copy | monitor | replay
  deriving DecidableEq, Repr

/-- A count for each pool. -/
structure PoolCounts where
  card : Nat := 0
  copy : Nat := 0
  monitor : Nat := 0
  replay : Nat := 0
  deriving DecidableEq, Repr

/-- The counts of an open usage interval (R477, R478). -/
structure Usage where
  cyc0  : Nat := 0
  tokens : Nat := 0
  /-- Tile passes by region handle. -/
  passes : List (Nat × Nat) := []
  bytmem : Nat := 0
  bytcpy : Nat := 0
  bytfab : Nat := 0
  gangns : Nat := 0
  lnl2  : Nat := 0
  lnmsc : Nat := 0
  clipd : Nat := 0
  /-- Interval boundaries passed; 1 ms samples of owned lines taken (R477, R478). -/
  closed : Nat := 0
  sampled : Nat := 0
  deriving DecidableEq, Repr

/-- A shape-record slot of a partition's shape table (R351 to R353): its generation and its 256 bytes, byte 0 lowest; a slot that has not
been written since it was made holds none. -/
structure ShapeSlot where
  gen   : Nat := 0
  data  : Option Nat := none
  owner : Nat := 0
  deriving DecidableEq, Repr

/-- A partition: its PCB (R463) and what the module keeps for it. -/
structure Partition where
  id    : Nat
  active : Bool := false
  srseed : BitVec 64 := 0
  clm   : BitVec 16 := 0
  tsm   : BitVec 16 := 0
  sh    : Shares := {}
  parent : Nat := 63
  lend  : Bool := false
  borrow : Bool := false
  clip  : Bool := false
  zl    : Nat := 0
  keys  : Nat := 0
  nq    : Nat := 0
  troot : Nat := 0
  proot : Nat := 0
  spb   : Nat := 0
  frames : Nat := 0
  logbase : Nat := 0
  logk  : Nat := 4
  frbase : Nat := 0
  frm   : Nat := 4
  acct  : Nat := 0
  min   : PoolCounts := {}
  frvec : Nat := 0
  logvec : Nat := 0
  /-- Values of an accepted UPDATE, in force from the next injector lap (R463). -/
  update : Option Shares := none
  /-- Frames of the spill pool in use (R267). -/
  framesUsed : List Nat := []
  /-- Unresolved faults, oldest first; the next model number; TF, HF; the highest SEQ released (R457, R459). -/
  faults : List PFault := []
  nextFault : Nat := 0
  tf    : Nat := 0
  hf    : Nat := 0
  replayed : Nat := 0
  /-- Virtual time and whether it had a placeable gang when last considered (R256). -/
  vtime : Nat := 0
  placeable : Bool := false
  /-- Fraction carried between laps, in 1/4,096, and the lap's total T_p (R224). -/
  carry : Nat := 0
  lapTotal : Nat := 0
  /-- TCLK and its accumulator A (R274). -/
  tclk  : Nat := 0
  tacc  : Nat := 0
  /-- How far its memory requests have been served, against its share (R466; log 114). -/
  bandTime : Nat := 0
  /-- Pool entries in use (R472, R473). -/
  used  : PoolCounts := {}
  /-- Counts of the accounting block (R475); FRTAIL is `tf`. -/
  logtail : BitVec 64 := 0
  clipcnt : BitVec 32 := 0
  stcrd : BitVec 32 := 0
  stcpy : BitVec 32 := 0
  stmon : BitVec 32 := 0
  strpl : BitVec 32 := 0
  /-- Usage log: the open interval, the head, the next entry's SEQ and PREV, records since a signature, a signature due (R477 to R479). -/
  usage : Usage := {}
  loghead : Nat := 0
  logseq : Nat := 1
  logprev : BitVec 512 := 0
  sinceSig : Nat := 0
  sigDue : Bool := false
  /-- The shape table (R351). -/
  shapes : List ShapeSlot := []
  /-- Slots of the shape table (R351); the field table (R413); the region table (R382). -/
  shapeMax : Nat := 1048576
  fields : List FieldSlot := []
  regions : List RegionSlot := []
  /-- The queue table: generation and the queue in the slot (R469). -/
  qtable : List (Nat × Option Nat) := []
  /-- The partition's 192-byte PCB, byte 0 lowest (R463, R528); its key (R470); firmware resources destroyed at deactivation. -/
  pcb   : Nat := 0
  /-- An activation that waits for its pool minimums (R464). -/
  pending : Bool := false
  deriving DecidableEq, Repr

/-- A dependence of a card (R248, R249): counter, value, whether it has held; whether it holds a monitor entry, and the armed monitor. -/
structure Dep where
  ctr   : Nat
  val   : BitVec 64
  held  : Bool := false
  entry : Bool := false
  mon   : Option Monitor := none
  /-- CYCLE at which it was refused a monitor entry (R473). -/
  askedAt : Nat := 0
  deriving DecidableEq, Repr

/-- A card the ringmaster has fetched (R247, R254). -/
structure Card where
  head  : Nat := 0
  done  : Nat := 0
  inc   : BitVec 32 := 0
  afk   : Nat := 0
  aff   : Nat := 0
  arg   : BitVec 64 := 0
  ngang : Nat := 1
  entry : Nat := 0
  acsk  : Nat := 0
  scru  : Nat := 0
  vregs : Nat := 16
  nT    : Nat := 1
  nC    : Nat := 1
  cls   : Nat := 0
  deps  : List Dep := []
  /-- Index of the next gang to place (R158); gangs not yet retired among those placed; an error seen (R250). -/
  next  : Nat := 0
  liveGangs : Nat := 0
  errSeen : Bool := false
  /-- Fully placed: it no longer holds up the next card (R254). -/
  placedAll : Bool := false
  /-- Model's own: the card's name; the faults its DONE add waits for (R250). -/
  uid   : Nat := 0
  doneWait : List Nat := []
  deriving DecidableEq, Repr

/-- A LAUNCH post that waits for the ringmaster (R261): the card's bytes (64 or 128, byte 0 lowest), the gang and batch it counts for. -/
structure Post where
  bytes : Nat
  two   : Bool
  gang  : Nat
  troupe : Nat
  batch : BitVec 64
  /-- It holds staging buffers; it has been refused them and counted (R261, R474). -/
  staged : Bool := false
  refused : Bool := false
  /-- CYCLE of the refusal (R473). -/
  askedAt : Nat := 0
  deriving DecidableEq, Repr

/-- A queue (R243, R252, R469). -/
structure Queue where
  q     : Nat
  /-- The handle's generation (R351, R469). -/
  gen   : Nat := 0
  enabled : Bool := false
  base  : Nat := 0
  sba   : Nat := 0
  logn  : Nat := 2
  launchFed : Bool := false
  part  : Nat := 0
  vec   : Nat := 0
  page  : Nat := 0
  h     : Nat := 0
  t     : Nat := 0
  stale : BitVec 32 := 0
  errslot : Nat := 0
  errcode : Nat := 0
  /-- 0 running, 1 halted, 2 disabled. -/
  state : Nat := 2
  gerr  : BitVec 32 := 0
  ovrs  : Bool := false
  /-- The latest gang error record, 192 bytes, byte 0 lowest (R252). -/
  errrec : Nat := 0
  cards : List Card := []
  posts : List Post := []
  /-- The fault number a slot read waits for (R251). -/
  wait  : Option Nat := none
  /-- The fetch of the card at H has been refused a staging buffer and counted (R474, R475); CYCLE of that (R473). -/
  refused : Bool := false
  askedAt : Nat := 0
  deriving DecidableEq, Repr

/-! ### The module -/

/-- The control registers of R443, one set per module (log 6). -/
structure Ctl where
  stvec   : BitVec 48 := 0
  stframe : BitVec 64 := 0
  sepc    : BitVec 48 := 0
  satt0   : BitVec 64 := 0
  satt1   : BitVec 64 := 0
  event   : BitVec 8 := 0
  evmask  : BitVec 8 := 0
  tmrcmp  : BitVec 64 := .allOnes 64
  mcring  : BitVec 64 := 0
  mctail  : BitVec 64 := 0
  cecnt   : BitVec 32 := 0
  deriving DecidableEq, Repr

/-! ### Cores, clusters, the carousel -/

/-- What the price of a wide instruction is formed from (R230): bytes copied; MACs, with the element bits of A and B; tile passes with the
MACs of an adapter term (R399); micro-op steps × ways × stacks. -/
inductive PriceBasis where
  | bytes (n : Nat)
  | macs (a b n : Nat)
  | passes (n macs : Nat)
  | steps (n : Nat)
  deriving DecidableEq, Repr

/-- The matrix engine's ramp (R241): idle, ramping since a cycle, ramped until a cycle. -/
inductive Ramp where
  | idle
  | ramping (start hold : Nat)
  | ramped (until_ : Nat)
  deriving DecidableEq, Repr

/-- What a core keeps (R225, R228, R234, R235, R241, R373). -/
structure Core where
  core  : Nat
  purse : Nat := 0
  fwPurse : Nat := 0
  /-- Waiting wide instructions, in age order: path, ring cycle it became otherwise ready, what its price is formed from once its checks
  have passed; user ones and system ones apart (R234). -/
  wide  : List (PathId × Nat × Option PriceBasis) := []
  wideSys : List (PathId × Nat × Option PriceBasis) := []
  /-- The ring cycle in which the present head became head, its passes, its pledge (R234, R235); the same of the firmware's. -/
  headAt : Nat := 0
  passes : Nat := 0
  pledge : Bool := false
  headAtSys : Nat := 0
  passesSys : Nat := 0
  pledgeSys : Bool := false
  /-- Tokens captured in the stop's present lap and whether pledge mode rules it (R236); the same of packets tagged 63. -/
  captured : Nat := 0
  capped : Bool := false
  capturedSys : Nat := 0
  cappedSys : Bool := false
  ramp  : Ramp := .idle
  /-- The matrix engine's lease: gang and troupe, the CYCLE it began, the instructions completed under it (R373); an MREL that waits for
  work of a name below this (R368). -/
  lease : Option (Nat × Nat) := none
  leaseAt : Nat := 0
  leaseDone : Nat := 0
  mrel  : Option Nat := none
  deriving DecidableEq, Repr

/-- What a cluster keeps (R238 to R240, R465, R468, R525). Frequencies in MHz. -/
structure Cluster where
  /-- Frequency set by firmware, present frequency. -/
  setMhz : Nat := 1900
  mhz   : Nat := 1900
  /-- The frequency up to which the regulator's voltage reaches (R238). -/
  volt  : Nat := 1900
  droop : Bool := false
  /-- Holder in the present slot, borrower, cycle since which it is idle, lendable (R465, R468). -/
  holder : Option Nat := none
  borrower : Option Nat := none
  idleSince : Nat := 0
  lendable : Bool := false
  /-- Passed its self-test: CLU of R525. -/
  ok    : Bool := false
  deriving DecidableEq, Repr

/-- A packet on the ring (R222, R224): partition tag, tokens left, ring cycle of its emission; c_p of its lap (R236). -/
structure Packet where
  part  : Nat
  count : Nat
  born  : Nat
  cap   : Nat := 0
  deriving DecidableEq, Repr

/-- The price page (R231). -/
structure Prices where
  gen   : BitVec 64 := 0
  licw  : BitVec 16 := 1250
  inj   : BitVec 16 := 658
  cap   : BitVec 16 := 8192
  mac16 : BitVec 32 := 2048
  mac8  : BitVec 32 := 4096
  mac4  : BitVec 32 := 8192
  pass  : BitVec 8 := 4
  bsqp  : BitVec 8 := 4
  copyb : BitVec 32 := 4096
  deriving DecidableEq, Repr

/-- Late-arrival records of a gang (R240): the cores of the last troupe in up to 8 phases, latest first. -/
structure Lateness where
  gang  : Nat
  cores : List Nat := []
  /-- By core: completed phases that have kept it late since its last step, and completed phases since it ceased to be late. -/
  kept  : List (Nat × Nat) := []
  clear : List (Nat × Nat) := []
  deriving DecidableEq, Repr

/-! ### Asynchronous work (R335, R338) -/

/-- Where an element lies: a flat address of the partition, or a byte of the gang's scratchpad shares. -/
inductive Spot where
  | flat (va : Nat)
  | scratch (off : Nat)
  deriving DecidableEq, Repr

/-- What a copy instruction does with an element (R348, R349, R354). -/
inductive CopyKind where
  | copy | plain | tin | tout
  | reduce (o : CopyrOp)
  deriving DecidableEq, Repr

/-- The work of COPY, COPYR and TCOPY. COPY and COPYR list their elements; TCOPY computes them from the two shape records. -/
structure CopyWork where
  kind  : CopyKind
  /-- Element size in bytes, element count. -/
  z     : Nat
  n     : Nat
  /-- COPY and COPYR: lane, source, destination, operand of COPYR. -/
  elems : List (Nat × Spot × Spot × Nat) := []
  /-- TCOPY: the 256-byte shape records of source and destination (R352). -/
  src   : Nat := 0
  dst   : Nat := 0
  /-- TCOPY.in and .out: partition's field slot, first row, width, sign extension (R340). -/
  field : Nat := 0
  row0  : Nat := 0
  wid   : Nat := 0
  sgn   : Bool := false
  ordc  : Bool := false
  gsh   : Nat := 0
  snd   : BitVec 4 := 15
  /-- By unit, an element or half of one of 16 bytes (R345): values read and not yet written (R344, rule 4); bit sets of the units done and,
  among them, failed. -/
  vals  : List (Nat × Nat) := []
  done  : Nat := 0
  bad   : Nat := 0
  /-- Units that wait for faults, by fault number of the partition (R347). -/
  waits : List (Nat × List Nat) := []
  /-- Counter adds of an ordered channel made so far (R355). -/
  groups : Nat := 0
  deriving DecidableEq, Repr

/-- The work of a matrix-engine instruction: its code in major 0x65, its words, FMT and RBND at issue, the blocks done (R357 to R372). -/
structure MatrixWork where
  fn    : Nat
  acc   : Word64
  a     : Word64 := 0
  b     : Word64 := 0
  b1    : Word64 := 0
  fmt   : BitVec 32 := 0
  rb    : Nat := 0
  done  : Nat := 0
  /-- The gang's scratchpad bytes as its first step found them (R371; log 23). -/
  snap  : Option (List Host.Cell) := none
  deriving DecidableEq, Repr

/-- A tile pass of a layer instruction (R384): token row, whether it drives REG1, row block, column block; the scale and the drive codes
once it has started, with its epoch; the results p of its columns, or the sums of its rows, once it has ended. -/
structure LPass where
  row   : Nat
  second : Bool := false
  r     : Nat
  c     : Nat
  started : Option (BitVec 32 × List Int) := none
  epoch : Nat := 0
  out   : Option (List (BitVec 32)) := none
  deriving DecidableEq, Repr

/-- The work of a layer instruction (R395 to R398). -/
structure LayerWork where
  fn    : Nat
  /-- The 128-byte record, byte 0 lowest; δ; RBND at issue; the regions of REG and REG1. -/
  record : Nat
  delta : Nat
  rb    : Nat
  reg0  : Nat
  reg1  : Nat
  passes : List LPass := []
  /-- The adapter terms, row by row, once its stage has run (R396). -/
  adapter : Option (List (BitVec 32)) := none
  /-- Elements of rows and blocks that met an uncorrectable error (R403): passes by number. -/
  bad   : List Nat := []
  /-- The gang's scratchpad bytes as the first action found them (R402; log 23). -/
  snap  : Option (List Host.Cell) := none
  /-- Epochs in use (R390): whose region's pin (0 REG, 1 REG1, 2 no pin), stack, epoch. -/
  epochs : List (Nat × Nat × Nat) := []
  /-- OUT has been written; the counter add is due. -/
  wrote : Bool := false
  /-- CYCLE at which a save recorded it: its holds on epochs lapse as a pin's do (R404). -/
  heldAt : Option Nat := none
  deriving DecidableEq, Repr

/-- The work of a BSQ job: its field slot, parts covered, program, where its STATUS lies, and the sequencer's registers: index, width,
flag row, why it stopped and where (R416 to R419). -/
structure JobWork where
  field : Nat
  part0 : Nat
  parts : Nat
  prog  : List (BitVec 32)
  status : Nat
  running : Bool := false
  ended : Bool := false
  ix    : Nat := 0
  width : Nat := 1
  flag  : Option Nat := none
  /-- Stacks whose program has stopped: stack, index of the micro-op, why (R419). -/
  stops : List (Nat × Nat × Nat) := []
  why   : Nat := 0
  at_   : Nat := 0
  /-- STATUS has been written; the counter add is due (R419). -/
  wrote : Bool := false
  deriving DecidableEq, Repr

inductive WorkKind where
  | copy (c : CopyWork)
  | matrix (m : MatrixWork)
  | layer (l : LayerWork)
  | conversion (field : Nat)
  | job (j : JobWork)
  | release (field : Nat)
  deriving DecidableEq, Repr

/-- An asynchronous instruction that has not completed (R338). -/
structure Work where
  uid   : Nat
  /-- The address of its instruction (R458). -/
  pc    : BitVec 48 := 0
  /-- Gang (the model's name), troupe, batch, the lanes of the issuing path, the core it was issued on. -/
  gang  : Nat
  troupe : Nat
  batch : BitVec 64
  lanes : BitVec 32
  core  : Nat
  part  : Nat
  sys   : Bool
  /-- Stores of its troupe numbered below this are earlier than it (R344). -/
  ins   : Nat := 0
  /-- Counter address (0 none) and increment (R339); the error flag; the scope and distance of its ORD. -/
  ctr   : Nat := 0
  inc   : BitVec 32 := 0
  err   : Bool := false
  mode  : AccMode := {}
  /-- The fault its counter add waits for (R341, R347). -/
  ctrWait : List Nat := []
  /-- What a save recorded of it runs as replay entries (R347, R379, R404). -/
  replay : Bool := false
  /-- What a save recorded of it has been handed back to its engine and has still to run, ahead of what it recorded of later work (R492). -/
  again : Bool := false
  /-- Replay entries its waiting elements hold (R347). -/
  entries : Nat := 0
  /-- Entries a save took for it: of the pool, of the reserve (R483 to R485). -/
  saveEntries : Nat := 0
  reserve : Nat := 0
  kind  : WorkKind
  deriving DecidableEq, Repr

/-! ### Stacks, regions, images -/

/-- A frozen region (R381 to R383). -/
structure Region where
  id    : Nat
  k     : Nat
  n     : Nat
  avail : Bool := false
  /-- Home stack of each column block. -/
  homes : List Nat := []
  /-- Levels, row by row, as two's-complement codes of 5 bits, entry (k, j) at bit 5 × (k × N + j); BF16 scales, entry (r, j) at bit
  16 × (r × N + j) (R98, R381). -/
  levels : Nat := 0
  scales : Nat := 0
  /-- Tiles refreshed since reset (R405); tiles scheduled for refresh: row block, column block (R391, R392). -/
  refreshed : Nat := 0
  due   : List (Nat × Nat) := []
  /-- Physical tile of each tile (r, c), in the order r × Nt + c (R389). -/
  tiles : List Nat := []
  /-- Swaps, oldest first: place in `tiles`, the epoch that made it, the physical tile of the epochs before (R392). -/
  moves : List (Nat × Nat × Nat) := []
  /-- The record, by name, that a load of its region anew has set aside for work and pins of before (R389, R406); the first epoch of each stack that
  maps the tiles of this one. -/
  aside : Option Nat := none
  since : List (Nat × Nat) := []
  deriving DecidableEq, Repr

/-- Counts of a row in the present interval, by source, and over its life (R515). `row` numbers LPDDR-6 rows and tile rows of a stack
apart: a tile row is 2^40 + 2^20 × tile + row. -/
structure RowCount where
  row   : Nat
  demand : Nat := 0
  seq   : Nat := 0
  life  : Nat := 0
  alertDemand : Bool := false
  alertSeq : Bool := false
  /-- CYCLE of the latest activation for a partition. -/
  last  : Nat := 0
  deriving DecidableEq, Repr

/-- How far a programming of a tile has come, short of MAPPED (R530). -/
inductive JState where
  | intent | programmed | verified
  deriving DecidableEq, Repr

/-- An entry of a reprogramming journal (R530): region, row block and column block, target tile, whether by a load, its state, the SHA-512 of
its levels. -/
structure JEntry where
  region : Nat
  r     : Nat
  c     : Nat
  tile  : Nat
  isLoad : Bool
  state : JState := .intent
  hash  : BitVec 512 := 0
  deriving DecidableEq, Repr

/-- A stack: its base die, sequencer and array dies (R389, R392, R515, R516, R530). -/
structure Stack where
  stack : Nat
  /-- STK and ARR of R525. -/
  up    : Bool := false
  arr   : Bool := false
  /-- The current epoch (0: none published), older ones kept, CYCLE of the latest publication. -/
  epoch : Nat := 0
  older : List Nat := []
  publishedAt : Nat := 0
  /-- The sequencer is being reset since a CYCLE; CYCLE of its latest progress. -/
  resetting : Option Nat := none
  progress : Nat := 0
  rows  : List RowCount := []
  /-- Spare tiles used or retired (R392). -/
  gone : List Nat := []
  /-- Highest completed journal sequence number; entries short of MAPPED (R530). -/
  jseq  : Nat := 0
  journal : List JEntry := []
  /-- CYCLE at which the present interval of the LPDDR-6 rows began, and that of the tile rows (R515). -/
  rowsAt : Nat := 0
  tilesAt : Nat := 0
  deriving DecidableEq, Repr

/-- An array image the host has staged (R529); its layout in bytes is not in the spec (log 21). -/
structure Image where
  id    : Nat
  bytes : List Byte
  sig   : List Byte
  regions : List Region
  deriving DecidableEq, Repr

/-- An image load under way (R529, R530): the image, the stacks still to map it. -/
structure Load where
  image : Nat
  left  : List Nat
  /-- Regions of it that a later load has taken over. -/
  taken : List Nat := []
  deriving DecidableEq, Repr

/-! ### Ordering domains (R501 to R505) -/

/-- A write made by an agent of a domain (0 the DD, 1 + h the base die of stack h) that some views have not applied: the bytes those views
still see, the views, and the earlier held writes it follows in causal order. -/
structure Held where
  id    : Nat
  src   : Nat
  pa    : Nat
  n     : Nat
  old   : Nat
  views : List Nat
  deps  : List Nat
  deriving DecidableEq, Repr

/-! ### Slots, saves, drains, firmware -/

/-- A gang that has been saved (R483, R487): the gang as saved, the bytes of its image (byte 0 lowest), and whether it was forced or
reclaimed, its CYCLE. -/
structure SavedGang where
  gang  : Gang
  image : Nat
  forced : Bool
  recl  : Bool
  cycle : Nat
  /-- The drain that keeps it saved (R482). -/
  cause : Option DrainScope := none
  deriving DecidableEq, Repr

/-- A drain in force (R482). -/
structure DrainRec where
  scope : DrainScope
  deadline : Nat
  /-- Its completion or its escalation has been reported. -/
  done  : Bool := false
  escalated : Bool := false
  deriving DecidableEq, Repr

/-- A switch group and the member's part in a tick (R494 to R496). -/
structure SwitchGroup where
  members : List Nat
  leader : Nat
  /-- The tick under way: its CYCLE, whether this member has saved, members whose *saved* has come, members that forced a save, the last
  of all to save, the outgoing and incoming partitions. -/
  tick  : Option Nat := none
  selfSaved : Bool := false
  saved : List Nat := []
  forced : List Nat := []
  late  : Nat := 0
  outp  : Nat := 63
  inp   : Nat := 63
  /-- Clusters switched by the tick; the slot it starts. -/
  clusters : List Nat := []
  slot  : Nat := 0
  /-- CYCLE of the next tick of the leader; counts by which the outgoing partition's next slot is shortened, by partition. -/
  nextTick : Nat := 0
  short : List (Nat × Nat) := []
  deriving DecidableEq, Repr

/-- What the firmware mailbox and the host side have been told (R464, R469, R482, R516, R524, R527 to R529). -/
inductive Mail where
  | ok
  | refused (code : Nat)
  | drained (scope : DrainScope)
  | sequencerReset (stack : Nat)
  | imgPend (region : Nat)
  | bytes (b : List Byte)
  | unsupported
  | data (v : Nat) (n : Nat)
  | flitAck (ok : Bool)
  | tickSent (slot : Nat)
  | savedSent (forced : Bool)
  deriving DecidableEq, Repr

/-- A fabric port (R521). -/
structure Port where
  port  : Nat
  trained : Bool := false
  /-- Flits received and not yet processed are not kept; those to be sent again are counted. -/
  retries : Nat := 0
  deriving DecidableEq, Repr

/-- An uncorrectable error in a dirty line whose write-back it was met at (R448): the owning gang (0 for a slice's line, which has none), the
partition, the core (128 for a slice), the line, UNIT. -/
structure Check where
  gang  : Nat
  part  : Nat
  core  : Nat
  line  : Nat
  unit  : Nat
  deriving DecidableEq, Repr

/-- The whole module. -/
structure State where
  /-- Model's own (log 8): steps that the outside world or a unit has posted, next first. -/
  agenda : List Instr := []
  /-- Model's own (log 3): choices at points the spec leaves open, next first; with an empty list each is taken in turn. -/
  sched : List Nat := []
  /-- Model's own (log 2): the counter that feeds the free values of Config. -/
  freeCtr : Nat := 0
  /-- Model's own: the next name of a gang or of a work item. -/
  nextUid : Nat := 1
  /-- Model's own (log 4): the gang, troupe and slot in focus. `gg.uid = 0` when no gang is resident. -/
  gg    : Gang := {}
  tr    : Troupe := {}
  sel   : SlotId := .P
  /-- The other resident gangs (R157). -/
  gangs : List Gang := []
  /-- Power is good (R526, R530). -/
  power : Bool := true
  /-- CYCLE (R30). -/
  cycle : Nat := 0
  ctl   : Ctl := {}
  /-- Physical memory of R450, R518: module stacks, other modules, the host; canonical (log 1). -/
  mem   : List Host.Cell := []
  /-- Cache instances that have been used (R269). -/
  caches : List CacheInst := []
  fills : List Fill := []
  tlbs  : List TlbEntry := []
  walks : List Walk := []
  /-- The walk caches, oldest entry first (R453). -/
  wcache : List WalkEntry := []
  parts : List Partition := []
  queues : List Queue := []
  /-- Index of the queue served last, by class and partition, for the round-robin of R255: pairs (partition, queue). -/
  served : List (Nat × Nat) := []
  /-- Cores that have been used (R225, R234, R373). -/
  cores : List Core := []
  clusters : Vector Cluster 16 := Vector.replicate 16 {}
  /-- The carousel (R222 to R224): ring cycles since reset, packets on the ring; P of R223 in W; WFW of R228 and its lap carry. -/
  ring  : Nat := 0
  packets : List Packet := []
  watts : Nat := 1800
  wfw   : Nat := 64
  fwCarry : Nat := 0
  fwTotal : Nat := 0
  /-- The packets of the present injector lap still to be emitted, in order (R224). -/
  lapServes : List Packet := []
  /-- Injector laps whose totals are fixed (R224). -/
  lapFixed : Nat := 0
  prices : Prices := {}
  /-- Prices of an update in progress: GEN is odd (R232). -/
  priceNext : Option Prices := none
  /-- Boost steps in force: gang, late core, falling cluster (R240). -/
  boosts : List (Nat × Nat × Nat) := []
  late  : List Lateness := []
  /-- MODNUM and the modules of the fabric domain; modules no route reaches (R518, R519, R522). -/
  modnum : Nat := 0
  domain : List Nat := []
  lost  : List Nat := []
  /-- Model's own (log 9): lines that hold an uncorrectable error, with the UNIT of R449; the outside world puts them there. -/
  bad   : List (Nat × Nat) := []
  /-- MSI-X vectors raised and not yet taken by the host, oldest first: function, vector (R523). -/
  msi   : List (Nat × Nat) := []
  /-- Log 9: the physical pages system software has made doorbell pages, with their queues (R244). -/
  bells : List (Nat × Nat) := []
  /-- Asynchronous work in issue order (R338). The BSQ job whose sequencer is in focus, by name; 0 for none (model's own, log 4). -/
  works : List Work := []
  jobSel : Nat := 0
  /-- Stacks and regions that have been used (R389, R381). -/
  piles : List Stack := []
  regions : List Region := []
  images : List Image := []
  loads : List Load := []
  /-- The hash of the registered image key, and the hash of the image in force (R528, R529). -/
  imageKey : Option (BitVec 512) := none
  imgh  : BitVec 512 := 0
  /-- Writes that some view has not applied (R503). -/
  held  : List Held := []
  /-- Saved gangs, oldest save first (R492). -/
  saved : List SavedGang := []
  drains : List DrainRec := []
  /-- Slot length in CYCLE counts (10,000 µs), slot number, CYCLE of the slot's start (R465). -/
  slotLen : Nat := 19000000
  slot  : Nat := 0
  slotAt : Nat := 0
  group : Option SwitchGroup := none
  /-- Overrun records, 64 bytes each, oldest first (R496). -/
  overruns : List Nat := []
  /-- Firmware mailbox and host replies, oldest first. -/
  mail  : List Mail := []
  /-- 2 MiB units whose slot is not 63: unit, slot (R471; log 16). Key slots that hold a key, with the number of the draw (R470). -/
  keymap : List (Nat × Nat) := []
  keys  : List (Nat × Nat) := []
  keyDraws : Nat := 0
  /-- Boot (R525, R526): steps completed; stopped; MBX, MEM, KEY and XLT, QUE with LOG and FN, ATT follow from the steps. -/
  bootStep : Nat := 0
  bootFail : Bool := false
  /-- The SHA-512 of the firmware image checked at step 1 (R528). -/
  fwh   : BitVec 512 := 0
  /-- The attestation key made at step 9, by the number of its boot; boots so far (R527). -/
  attKey : Nat := 0
  attDraws : Nat := 0
  ports : List Port := []
  /-- BAR2 window bases by function (R523). -/
  windows : List (Nat × Nat) := []
  /-- What has been written to the MSI-X tables and the mailbox's command area (R523): function × 2^20 + offset, value. -/
  bar   : List (Nat × Nat) := []
  /-- Pending bits of the MSI-X tables (R523): function, vector. -/
  pba   : List (Nat × Nat) := []
  /-- Sensors at or above their throttle; CYCLE since which power outside the licence exceeds 550 W (R531, R532). -/
  hot   : List Nat := []
  overSince : Option Nat := none
  /-- The power limit firmware has set, to which P returns after a throttle (R532). -/
  wattsSet : Nat := 1800
  /-- Dirty lines whose write-back met an uncorrectable error: the owner's end in error, and the record, are due (R448). -/
  checks : List Check := []
  /-- The partition whose waiting request was granted last, by pool (R473); CYCLE before which no further throttle step is due (R532). -/
  turns : PoolCounts := {}
  throttleAt : Nat := 0
  deriving DecidableEq, Repr

/-- The machine right after reset: every field at its reset value (INVENTORY.md, State; log 1, 2, 13 to 16). -/
def State.reset : State := {}

end Sys2Proof.Machine
end

