-- ==== Sys2Proof/Machine/Memory.lean ====
section
/-!
DEFINITION. Bytes: canonical cell lists, little-endian reads and writes, physical addresses, and the caches' bytes. Home memory is what
the scope point of a slice holds; a core's L1 may hold dirty or untracked bytes of its own (R269, R271, R307 to R310).
-/

namespace Sys2Proof.Machine

/-! ### Cell lists: addresses strictly rising, no byte 0 (what an unlisted address reads as; log 1) -/

/-- The byte at an address. -/
def cellGet : List Host.Cell → Nat → Byte
  | [], _ => 0
  | (k, v) :: r, a => if k = a then v else if a < k then 0 else cellGet r a

/-- The byte at an address set; writing 0 removes the entry. -/
def cellSet : List Host.Cell → Nat → Byte → List Host.Cell
  | [], a, b => if b = 0 then [] else [(a, b)]
  | (k, v) :: r, a, b =>
    if k = a then (if b = 0 then r else (a, b) :: r)
    else if a < k then (if b = 0 then (k, v) :: r else (a, b) :: (k, v) :: r)
    else (k, v) :: cellSet r a b

/-- The canonical form: addresses above `lo` strictly rising, no byte 0. -/
def cellsFrom : Nat → List Host.Cell → Bool
  | _, [] => true
  | lo, (k, v) :: r => decide (lo ≤ k) && v != 0 && cellsFrom (k + 1) r

def Memory.wf (m : List Host.Cell) : Bool := cellsFrom 0 m

/-- `n` bytes from `a`, little-endian (R10). -/
def readCells (m : List Host.Cell) (a : Nat) : Nat → Nat
  | 0 => 0
  | n + 1 => (cellGet m a).toNat + 256 * readCells m (a + 1) n

/-- The low `n` bytes of `v` stored at `a`, little-endian. -/
def writeCells (m : List Host.Cell) (a : Nat) : Nat → Nat → List Host.Cell
  | 0, _ => m
  | n + 1, v => writeCells (cellSet m a (.ofNat 8 v)) (a + 1) n (v / 256)

/-- The bytes of a list stored one after another. -/
def writeBytes (m : List Host.Cell) (a : Nat) : List Byte → List Host.Cell
  | [] => m
  | b :: r => writeBytes (cellSet m a b) (a + 1) r

/-! ### Sparse records -/

/-- The record with a key, or a default. -/
def findD {α : Type} (key : α → Nat) (k : Nat) (d : α) : List α → α
  | [] => d
  | x :: r => if key x = k then x else findD key k d r

/-- Replaces the record with the key of `v`, or adds it at the end. -/
def upsert {α : Type} (key : α → Nat) (v : α) : List α → List α
  | [] => [v]
  | x :: r => if key x = key v then v :: r else x :: upsert key v r

/-- An element put before the first it need not follow. -/
def insertBy {α : Type} (le : α → α → Bool) (x : α) : List α → List α
  | [] => [x]
  | y :: r => if le x y then x :: y :: r else y :: insertBy le x r
/-- A list put in order, equal elements in the order they stood. -/
def sortBy {α : Type} (le : α → α → Bool) (l : List α) : List α := l.foldr (insertBy le) []

def State.part (s : State) (p : Nat) : Partition := findD Partition.id p { id := p } s.parts
def State.setPart (s : State) (p : Partition) : State := { s with parts := upsert Partition.id p s.parts }
def State.core (s : State) (c : Nat) : Core := findD Core.core c { core := c } s.cores
def State.setCore (s : State) (c : Core) : State := { s with cores := upsert Core.core c s.cores }
def State.queue (s : State) (q : Nat) : Queue := findD Queue.q q { q := q } s.queues
def State.setQueue (s : State) (q : Queue) : State := { s with queues := upsert Queue.q q s.queues }
def State.cache (s : State) (i : Nat) : CacheInst := findD CacheInst.inst i { inst := i } s.caches
def State.setCache (s : State) (c : CacheInst) : State := { s with caches := upsert CacheInst.inst c s.caches }

/-! ### Physical addresses (R270, R518, R519) -/

def paHost (pa : Nat) : Bool := pa / 2 ^ 51 % 2 = 1
def paModule (pa : Nat) : Nat := pa / 2 ^ 40 % 2 ^ 11
def paOffset (pa : Nat) : Nat := pa % 2 ^ 40
/-- Homed on this module. -/
def State.homed (s : State) (pa : Nat) : Bool := !paHost pa && paModule pa == s.modnum
/-- Homed on another module. -/
def State.remote (s : State) (pa : Nat) : Bool := !paHost pa && paModule pa != s.modnum
/-- Homed on a module that no route reaches (R522). -/
def State.away (s : State) (pa : Nat) : Bool := s.remote pa && s.lost.contains (paModule pa)
/-- Whether a partition-stage leaf may name the address (R518). -/
def State.paLegal (s : State) (pa : Nat) : Bool :=
  if paHost pa then pa / 2 ^ 48 % 8 == 0
  else decide (paOffset pa < 768 * 2 ^ 30) && (paModule pa == s.modnum || s.domain.contains (paModule pa))
/-- The home stack of module memory (R270). -/
def paStack (pa : Nat) : Nat := paOffset pa / (48 * 2 ^ 30)
/-- The channel of its home stack that holds a byte (R270): which of the three is timing alone. -/
def paChannel (pa : Nat) : Nat := paOffset pa % (48 * 2 ^ 30) / 256 % 3

/-- XOR of the `w`-bit groups of a number, over `n` groups. -/
def xorGroups (w : Nat) : Nat → Nat → Nat
  | 0, _ => 0
  | n + 1, x => Nat.xor (x % 2 ^ w) (xorGroups w n (x / 2 ^ w))

/-- The L2 slice of module memory: four per cluster, chosen by the XOR of the 2-bit groups of bits [38:7] (R270). -/
def l2Slice (pa : Nat) : Nat := 128 + 4 * paStack pa + xorGroups 2 16 (pa / 2 ^ 7 % 2 ^ 32)
/-- The RDC slice of a remote line: the same XOR over 4-bit groups (R270). -/
def rdcSlice (pa : Nat) : Nat := 192 + xorGroups 4 8 (pa / 2 ^ 7 % 2 ^ 32)
def mscSlice (pa : Nat) : Nat := 208 + paStack pa

/-! ### Lines and their bytes -/

def lineOf (pa : Nat) : Nat := pa / 128
def CacheInst.find (c : CacheInst) (line : Nat) : Option CLine := c.lines.find? fun l => l.line == line
def CacheInst.put (c : CacheInst) (l : CLine) : CacheInst := { c with lines := upsert CLine.line l c.lines }
def CacheInst.drop (c : CacheInst) (line : Nat) : CacheInst := { c with lines := c.lines.filter fun l => l.line != line }

/-- Byte `i` of a line's bytes. -/
def CLine.byte (l : CLine) (i : Nat) : Byte := .ofNat 8 (l.data.toNat / 2 ^ (8 * i))
/-- `n` bytes from byte `i` replaced by the low bytes of `v`. -/
def CLine.setBytes (l : CLine) (i n v : Nat) : CLine :=
  let m : BitVec 1024 := .ofNat 1024 ((2 ^ (8 * n) - 1) * 2 ^ (8 * i))
  { l with data := (l.data &&& ~~~m) ||| (.ofNat 1024 (v % 2 ^ (8 * n) * 2 ^ (8 * i))) }
def maskBits (i n : Nat) : BitVec 128 := .ofNat 128 ((2 ^ n - 1) * 2 ^ i)

/-- The order of scopes, troupe narrowest. -/
def scopeRank : OrdScope → Nat
  | .troupe => 0 | .gang => 1 | .device => 2 | .system => 3
def scopeMax (a b : OrdScope) : OrdScope := if scopeRank a < scopeRank b then b else a

/-! ### Views (R501 to R505) -/

/-- The bytes of a held write that a view still sees. -/
def Held.byteAt (h : Held) (dom pa : Nat) : Option Byte :=
  if h.views.contains dom && h.pa ≤ pa && pa < h.pa + h.n then some (.ofNat 8 (h.old / 2 ^ (8 * (pa - h.pa)))) else none

/-- A byte of home memory in the view of a domain: what the oldest held write that the view has not applied hides, else the byte. -/
def State.viewByte (s : State) (dom pa : Nat) : Byte :=
  match s.held.findSome? fun h => h.byteAt dom pa with
  | some b => b
  | none => cellGet s.mem pa

def State.viewNat (s : State) (dom pa : Nat) : Nat → Nat
  | 0 => 0
  | n + 1 => (s.viewByte dom pa).toNat + 256 * s.viewNat dom (pa + 1) n

/-- The lines a byte range touches. -/
def linesOf (pa n : Nat) : List Nat := (List.range ((pa % 128 + n + 127) / 128)).map fun k => lineOf pa + k

/-- The tracked L1 copies of some lines go, as for a write at their slice (R309). -/
def State.dropTracked (s : State) (lines : List Nat) : State :=
  { s with caches := s.caches.map fun c => if c.inst < 128 then { c with lines := c.lines.filter fun l => !l.tracked || !lines.contains l.line } else c }

/-- Every view applies some held writes; the tracked copies of the lines the DD's view then sees changed go (R309, R314, R503). -/
def State.releaseHeld (s : State) (p : Held → Bool) : State :=
  let seen : List Held := s.held.filter fun h => p h && h.views.contains 0
  ({ s with held := s.held.filter fun h => !p h }).dropTracked ((seen.map fun (h : Held) => linesOf h.pa h.n).flatten)

/-- A write made at a slice by a domain enters every view at once (R503, rule 1); first every view applies the held writes the writer's
view has applied, and those to the same bytes (rules 4 and 5). -/
def State.applyHeld (s : State) (dom pa n : Nat) : State :=
  if s.held.isEmpty then s
  else if s.held.any fun h => decide (h.pa < pa + n) && decide (pa < h.pa + h.n) then s.releaseHeld fun _ => true
  else s.releaseHeld fun h => !h.views.contains dom

/-- A slice's line that has taken a write: the next level has still to be written (R278). -/
def CLine.modified (l : CLine) : CLine := { l with dirty := .allOnes 128 }

/-- A cache after a write at home: a tracked copy of a line it touches goes (R309); the writer's own L1 copy takes the bytes (R271); an L2
line is modified (R278). -/
def CacheInst.afterHome (c : CacheInst) (own : Bool) (pa n v : Nat) (line : Nat) : CacheInst :=
  if 128 ≤ c.inst then
    if c.inst < 192 then { c with lines := c.lines.map fun l => if l.line = line then l.modified else l } else c
  else
    match c.find line with
    | none => c
    | some l =>
      let a := max pa (128 * line)
      let m := min (pa + n) (128 * line + 128) - a
      if own then c.put { (l.setBytes (a % 128) m (v / 256 ^ (a - pa))) with dirty := l.dirty &&& ~~~maskBits (a % 128) m }
      else if l.tracked then c.drop line else c

/-- Errors of lines that a write has wholly overwritten are gone with the data they lay in (R448; log 9). -/
def State.fresh (s : State) (pa n : Nat) : State :=
  if s.bad.isEmpty || n < 128 then s
  else { s with bad := s.bad.filter fun b => !(decide (b.2 ≠ 1) && decide (pa ≤ 128 * b.1) && decide (128 * b.1 + 128 ≤ pa + n)) }

/-- Home memory written at its slice, line by line. -/
def State.writeHome (s : State) (writer : Option Nat) (pa n v : Nat) : State :=
  let s := (s.applyHeld 0 pa n).fresh pa n
  { s with mem := writeCells s.mem pa n v,
           caches := s.caches.map fun c => (linesOf pa n).foldl (fun c k => c.afterHome (writer = some c.inst) pa n v k) c }

/-- Writes back the dirty bytes of a line: each enters home memory (R309). -/
def writeBackBytes (m : List Host.Cell) (l : CLine) : Nat → List Host.Cell
  | 0 => m
  | i + 1 =>
    let m := writeBackBytes m l i
    if l.dirty.getLsbD i then cellSet m (128 * l.line + i) (l.byte i) else m

/-- Where requests that hold none of a core's entries count (R287): of engines, walkers and evicted lines. -/
def farCore : Nat := 1024

/-- The request an evicted or written-back line makes of the next level (R275, R276): ND 15, or 0 when it left as dead. -/
def CLine.request (l : CLine) (inst : Nat) : Fill :=
  { core := farCore + inst, pa := 128 * l.line, nd := if l.dead then 0 else 15, gang := l.owner, part := l.tenant, depth := if inst < 128 then 2 else 3,
    write := true }

/-- The write-back of one dirty line of an L1: home memory takes the dirty bytes, other L1s lose their tracked copies, and the line
stays, clean and untracked, as it was filled. -/
def State.writeBack (s : State) (core : Nat) (l : CLine) : State :=
  if l.dirty = 0 then s
  -- the data is lost; the owning gang's end in error is due (R448)
  else if s.bad.contains (l.line, 2) then
    { s with checks := s.checks ++ [⟨l.owner, l.tenant, core, l.line, 2⟩], caches := s.caches.map fun c => if c.inst = core then c.put { l with dirty := 0 } else c }
  else
    let fix (c : CacheInst) : CacheInst :=
      if 128 ≤ c.inst then if c.inst < 192 then { c with lines := c.lines.map fun x => if x.line = l.line then x.modified else x } else c
      else if c.inst = core then c.put { l with dirty := 0 }
      else
        match c.find l.line with
        | some o => if o.tracked then c.drop l.line else c
        | none => c
    let s := s.applyHeld 0 (128 * l.line) 128
    { s with mem := writeBackBytes s.mem l 128, caches := s.caches.map fix, fills := s.fills ++ [l.request core] }

/-- Whether an L1 copy made at scope `t` is no copy of the point of scope S: S is wider, or it is gang scope whose point is the slice (`one`
false) and the copy was made where the L1 is the point of gang scope (R269, R271). -/
def narrower (one : Bool) (t scope : OrdScope) : Bool := decide (scopeRank t < scopeRank scope) || (scope == .gang && t == .gang && !one)

/-- The write-back a release at scope S makes: every dirty line of the core tagged narrower than S (R271); at gang scope of a gang on several
cores also what a gang on one core has tagged with gang scope, which the releasing lane may have read (R316). -/
def State.releaseL1 (s : State) (core : Nat) (scope : OrdScope) (one : Bool) : State :=
  ((s.cache core).lines.filter fun l => l.dirty != 0 && narrower one l.tag scope).foldl (fun s l => s.writeBack core l) s

/-- The bytes of a line as home memory holds them. -/
def State.homeLine (s : State) (line : Nat) : BitVec 1024 := .ofNat 1024 (s.viewNat 0 (128 * line) 128)

/-- The dirty bytes of a line as a mask of its bits. -/
def CLine.dirtyBits (l : CLine) : BitVec 1024 := .ofNat 1024 (((List.range 128).map fun i => if l.dirty.getLsbD i then 255 * 2 ^ (8 * i) else 0).sum)
/-- A line whose clean bytes are read anew. -/
def CLine.refresh (l : CLine) (home : BitVec 1024) : CLine := { l with data := (l.data &&& l.dirtyBits) ||| (home &&& ~~~l.dirtyBits) }

/-- The invalidation an acquire at scope S makes: every clean line of the core filled for an access narrower than S (R271), the clean bytes
of its dirty lines so filled (R315), and at system scope every RDC line of the tenant (R272). -/
def State.acquireL1 (s : State) (core part : Nat) (scope : OrdScope) (one : Bool) : State :=
  let old (l : CLine) : Bool := decide (scopeRank l.fill < scopeRank scope) || (!l.tracked && narrower one l.fill scope)
  let fix (c : CacheInst) : CacheInst :=
    if c.inst = core then
      { c with lines := (c.lines.filter fun l => l.dirty != 0 || !old l).map fun l => if old l then l.refresh (s.homeLine l.line) else l }
    else if scope = .system ∧ 192 ≤ c.inst ∧ c.inst < 208 then
      { c with lines := c.lines.filter fun l => l.tenant != part }
    else c
  { s with caches := s.caches.map fix }

/-- Every other L1 loses a line, its dirty bytes written back first: an exclusive grant (R294, R319). -/
def State.grantLine (s : State) (core line : Nat) : State :=
  let s := ((s.caches.filter fun c => c.inst < 128).filterMap fun c => (c.find line).map fun l => (c.inst, l)).foldl (fun s x => s.writeBack x.1 x.2) s
  { s with caches := s.caches.map fun c => if c.inst < 128 ∧ c.inst ≠ core then c.drop line else c }

/-- Who makes an access: its core, gang, partition, privilege, whether its gang lies on one core with no troupe in a NEAR region (R508),
and its domain: 0 the DD, 1 + h an NMU of stack h (R501). -/
structure Req where
  core  : Nat
  gang  : Nat
  part  : Nat
  sys   : Bool
  one   : Bool
  dom   : Nat := 0
  deriving DecidableEq, Repr

/-- Whether the access's scope point is the issuing core's L1 (R269, R308): module-homed, normal memory. -/
def State.pointL1 (s : State) (r : Req) (scope : OrdScope) (pa mt : Nat) : Bool :=
  r.dom == 0 && s.homed pa && mt == 0 && (scope == .troupe || (scope == .gang && r.one))

/-- A byte as a load of the core reads it beyond its own unperformed stores: a dirty byte of its L1, an untracked copy when the L1 is the
scope point, the RDC copy of a remote line, else home memory (R307, R308, R519). A tracked copy holds what home memory holds. A load from a doorbell page
gets the bytes of memory behind it (log 124). -/
def State.readByteAt (s : State) (r : Req) (scope : OrdScope) (pa mt : Nat) : Byte :=
  if mt != 0 || r.dom != 0 then s.viewByte r.dom pa
  else if s.remote pa then
    match (s.cache (rdcSlice pa)).find (lineOf pa) with
    | some l => if l.tenant == r.part then l.byte (pa % 128) else s.viewByte 0 pa
    | none => s.viewByte 0 pa
  else
    match (s.cache r.core).find (lineOf pa) with
    | some l => if l.dirty.getLsbD (pa % 128) || s.pointL1 r scope pa mt then l.byte (pa % 128) else s.viewByte 0 pa
    | none => s.viewByte 0 pa

/-- Ways from this on: those of a line that a store of that distance has put into an L1 in this step; the next step begins by choosing it a
way. -/
def noWay : Nat := 256

/-- The name under which an instance keeps a tenant's penalty (R280): the partition, apart from the gangs at an L1. -/
def penaltyName (inst part : Nat) : Nat := if inst < 128 then 2 ^ 40 + part else part

/-- A store of a distance performed in the core's L1 (R271): the line is fetched when absent, takes the bytes dirty and the wider scope tag. Its clean
bytes are no longer tracked (R309): they count as filled for the narrower scope. -/
def State.writeL1 (s : State) (r : Req) (scope : OrdScope) (nd : BitVec 4) (pa n v : Nat) : State :=
  let c := s.cache r.core
  let line := lineOf pa
  let l := (c.find line).getD { line := line, way := noWay + nd.toNat, owner := r.gang, tenant := r.part, fill := scope, data := s.homeLine line }
  let tag := if l.dirty = 0 then scope else scopeMax l.tag scope
  let fill := if scopeRank scope < scopeRank l.fill then scope else l.fill
  s.setCache (c.put { (l.setBytes (pa % 128) n v) with dirty := l.dirty ||| maskBits (pa % 128) n, tracked := false, tag := tag, fill := fill })

/-- A store made by an NMU of stack h (R503, R510): at the slice when an L2 slice holds the line, entering every view; else in the stack's
memory, where every other view of the module applies it later. -/
def State.writeNear (s : State) (dom pa n v : Nat) : State :=
  if ((s.cache (l2Slice pa)).find (lineOf pa)).isSome || paStack pa + 1 != dom then
    let s := s.applyHeld dom pa n
    s.writeHome none pa n v
  else
    let h : Held := { id := s.nextUid, src := dom, pa := pa, n := n, old := readCells s.mem pa n,
                      views := (List.range 17).filter fun d => d != dom,
                      deps := (s.held.filter fun x => !x.views.contains dom).map Held.id }
    let s := { s with nextUid := s.nextUid + 1 }
    -- a line dropped from every L1 as a write at home is (R309); L1 copies of the DD keep what its view sees until it applies the write
    { s with mem := writeCells s.mem pa n v, held := s.held ++ [h] }

/-- A held write applied to a view, once every held write it follows has been (R503, R505); with its last view it is held no longer. -/
def State.applyOne (s : State) (dom id : Nat) : State :=
  match s.held.find? fun h => h.id == id with
  | none => s
  | some h =>
    if s.held.any fun x => h.deps.contains x.id && x.views.contains dom then s
    else
      let s := { s with held := (s.held.map fun x => if x.id = id then { x with views := x.views.filter fun v => v != dom } else x).filter
                          fun x => !x.views.isEmpty }
      -- the DD's tracked L1 copies of the line go as for a write at a slice (R309, R314)
      if dom = 0 then s.dropTracked (linesOf h.pa h.n) else s

/-! ### Keys (R470, R471) -/

/-- `n` bytes from an address, but for those that are kept, as they read under another key: free values. -/
def rekeyed (keep : Nat → Bool) (m : List Host.Cell) (draw a : Nat) : Nat → List Host.Cell
  | 0 => m
  | n + 1 => if keep (a + n) then rekeyed keep m draw a n else cellSet (rekeyed keep m draw a n) (a + n) (Config.keyByte draw (a + n))

/-- The slot of a 2 MiB unit of the module's memory (R471). -/
def State.keySlot (s : State) (unit : Nat) : Nat := ((s.keymap.find? fun x => x.1 == unit).map Prod.snd).getD 63

/-- The units of a slot other than 63 were written under a key that is no more: they read as free values (R470, R471; log 102). What a slice holds
modified lies above the channels, in plaintext (R471). -/
def State.loseKey (s : State) (slot : Nat) : State :=
  let keep (pa : Nat) : Bool := s.caches.any fun c => decide (128 ≤ c.inst) && c.lines.any fun l => l.line == lineOf pa && l.dirty != 0
  { s with mem := (s.keymap.filter fun x => x.2 == slot).foldl (fun m x => rekeyed keep m s.keyDraws (s.modnum * 2 ^ 40 + x.1 * 2 ^ 21) (2 ^ 21)) s.mem,
           keyDraws := s.keyDraws + 1 }

/-- A write of another module's that has arrived (R503, rule 3): every view applies it at its arrival or later, behind what of that module's
writes it has still to apply. -/
def State.remoteWrite (s : State) (m pa n v : Nat) : State :=
  let s := (s.applyHeld 0 pa n).fresh pa n
  let h : Held := { id := s.nextUid, src := 32 + m, pa := pa, n := n, old := readCells s.mem pa n, views := List.range 17,
                    deps := (s.held.filter fun x => x.src == 32 + m).map Held.id }
  { s with nextUid := s.nextUid + 1, mem := writeCells s.mem pa n v, held := s.held ++ [h] }

end Sys2Proof.Machine
end

