-- ==== Sys2Proof/Machine/Translate.lean ====
section
/-!
DEFINITION. The two stages of translation (R450 to R452), the TLBs (R453) and the fault records of pages not present (R436, R457, R458).
-/

namespace Sys2Proof.Machine

/-- How a translation ends (R452). Stage false is the tenant's, true the partition's. -/
inductive Trans where
  | ok (pa mt : Nat)
  | miss (p : PageMiss)
  /-- `tab`: met while an entry of the tenant stage was read (R441). -/
  | bad (stage tab : Bool)
  | perm (stage tab : Bool)
  deriving DecidableEq, Repr

/-- A leaf found by one stage: page base, log2 of its size, permissions, memory type. -/
structure Leaf where
  base : Nat
  size : Nat
  r : Bool
  w : Bool
  x : Bool
  mt : Nat
  deriving DecidableEq, Repr

/-- What an entry says at a level (R451, R452). -/
inductive Entry where
  | absent
  | malformed
  | table (oa : Nat)
  | leaf (l : Leaf)
  deriving DecidableEq, Repr

/-- Reads an entry of R451 at a level. `tenant`: an OA with bits [51:48] nonzero is malformed. -/
def readEntry (tenant : Bool) (level e : Nat) : Entry :=
  let oa := bitsOf e 51 12 * 4096
  let kind := bitsOf e 1 0
  if kind = 0 then .absent
  else if kind = 3 || bitsOf e 57 52 != 0 || bitsOf e 10 8 != 0 || bitsOf e 2 2 != 0 || (tenant && oa / 2 ^ 48 != 0) then .malformed
  else if kind = 1 then
    if level = 0 || bitsOf e 7 3 != 0 || bitsOf e 11 11 != 0 then .malformed else .table oa
  else
    let size := if level = 0 then (if bitsOf e 11 11 = 1 then 16 else 12) else 12 + 9 * level
    let l : Leaf := ⟨oa / 2 ^ size * 2 ^ size, size, bitsOf e 3 3 == 1, bitsOf e 4 4 == 1, bitsOf e 5 5 == 1, bitsOf e 7 6⟩
    -- a CONT leaf takes OA with bits [15:12] cleared; any other leaf's OA is aligned to its size
    let aligned := size = 16 || oa % 2 ^ size = 0
    if level = 3 || l.mt = 3 || !aligned || (l.w && !l.r) || (l.w && l.x) || (level != 0 && bitsOf e 11 11 = 1) then .malformed
    else .leaf l

/-- The address of the entry a level indexes. -/
def entryAddr (table level addr : Nat) : Nat := table + 8 * (addr / 2 ^ (12 + 9 * level) % 512)

/-- An entry as a walker of a cluster reads it (R453): from the cluster's walk cache, else at L2 as a device-scope load. Engines and the
ringmaster read at L2. -/
def State.entryAt (s : State) (cl : Option Nat) (part pa : Nat) : Nat :=
  match cl.bind fun c => s.wcache.find? fun e => e.cluster == c && e.part == part && e.pa == pa with
  | some e => e.val
  | none => s.viewNat 0 pa 8

/-- The partition stage from a level down: a physical leaf, or a failure; the addresses of the entries read. -/
def walkPart (s : State) (rd : Nat → Nat) (addr : Nat) : Nat → Nat → (Trans ⊕ Leaf) × List Nat
  | 0, _ => (.inl (.bad true false), [])
  | lv + 1, table =>
    let ea := entryAddr table lv addr
    match readEntry false lv (rd ea) with
    | .absent => (.inl (.miss { stage := true, addr := addr, acc := .read }), [ea])
    | .malformed => (.inl (.bad true false), [ea])
    | .table oa =>
      if s.paLegal oa then
        let r := walkPart s rd addr lv oa
        (r.1, ea :: r.2)
      else (.inl (.bad true false), [ea])
    | .leaf l => (if s.paLegal l.base then .inr l else .inl (.bad true false), [ea])

/-- What an access needs (R452). -/
def allowed (l : Leaf) : AccKind → Bool
  | .read | .table => l.r
  | .write => l.w
  | .atomic => l.r && l.w
  | .fetch => l.x

/-- A failure of an access, or of the table read it needed (R441, R458). -/
def Trans.of (acc : AccKind) : Trans → Trans
  | .miss p => .miss { p with acc := acc }
  | .bad st _ => .bad st (acc == .table)
  | .perm st _ => .perm st (acc == .table)
  | t => t

/-- The partition stage of an address for an access. -/
def transPart (s : State) (rd : Nat → Nat) (root addr : Nat) (acc : AccKind) : (Trans ⊕ Leaf) × List Nat :=
  match walkPart s rd addr 4 root with
  | (.inl t, r) => (.inl (t.of acc), r)
  | (.inr l, r) => (if allowed l acc then .inr l else .inl (.perm true (acc == .table)), r)

/-- The physical address under a leaf. -/
def Leaf.at (l : Leaf) (addr : Nat) : Nat := l.base + addr % 2 ^ l.size

/-- The tenant stage from a level down; every entry read goes through the partition stage with R (R450). -/
def walkTenant (s : State) (rd : Nat → Nat) (root va : Nat) : Nat → Nat → (Trans ⊕ Leaf) × List Nat
  | 0, _ => (.inl (.bad false false), [])
  | lv + 1, table =>
    let ea := entryAddr table lv va
    match transPart s rd root ea .table with
    | (.inl t, r) => (.inl t, r)
    | (.inr p, r) =>
      let r := r ++ [p.at ea]
      match readEntry true lv (rd (p.at ea)) with
      | .absent => (.inl (.miss { stage := false, addr := va, acc := .read }), r)
      | .malformed => (.inl (.bad false false), r)
      | .table oa =>
        let x := walkTenant s rd root va lv oa
        (x.1, r ++ x.2)
      | .leaf l => (.inr l, r)

/-- Host memory is uncached whatever the leaves give (R518). -/
def mtOf (pa mt : Nat) : Nat := if paHost pa then 1 else mt

/-- A TLB entry for a page of a partition (R453): both stages joined, of the smaller page. -/
def joinEntry (place part va ipa : Nat) (t p : Leaf) : TlbEntry :=
  let size := min t.size p.size
  let pa := p.at ipa
  { place := place, part := part, va := va / 2 ^ size * 2 ^ size, ipa := ipa / 2 ^ size * 2 ^ size, pa := pa / 2 ^ size * 2 ^ size,
    size := size, r := t.r && p.r, w := t.w && p.w, x := t.x && p.x, mt := mtOf pa (max t.mt p.mt) }

/-- The identity leaf that stands for the absent tenant stage of a system troupe (R432). -/
def noStage : Leaf := ⟨0, 48, true, true, true, 0⟩

/-- A walk of both stages (R450, R452); for a system troupe the partition stage alone (R432). With it the addresses of the entries read. -/
def walk (s : State) (rd : Nat → Nat) (part : Nat) (sys : Bool) (va : Nat) (acc : AccKind) : (Trans ⊕ TlbEntry) × List Nat :=
  let p := s.part part
  if sys then
    match transPart s rd p.proot va acc with
    | (.inl t, r) => (.inl t, r)
    | (.inr l, r) => (.inr (joinEntry 0 part va va noStage l), r)
  else
    match walkTenant s rd p.proot va 4 p.troot with
    | (.inl (.miss m), r) => (.inl (.miss { m with acc := if m.stage then m.acc else acc }), r)
    | (.inl t, r) => (.inl t, r)
    | (.inr t, r) =>
      if allowed t acc then
        match transPart s rd p.proot (t.at va) acc with
        | (.inl e, q) => (.inl e, r ++ q)
        | (.inr l, q) => (.inr (joinEntry 0 part va (t.at va) t l), r ++ q)
      else (.inl (.perm false false), r)

/-- Whether an entry maps the address of the partition. -/
def TlbEntry.covers (e : TlbEntry) (part va : Nat) : Bool := e.part == part && va / 2 ^ e.size == e.va / 2 ^ e.size

/-- The first entry found: core TLB, cluster TLB, die TLB (R453; log 17). -/
def State.tlbFind (s : State) (core part va : Nat) : Option TlbEntry :=
  let at_ (place : Nat) := s.tlbs.find? fun e => e.place == place && e.covers part va
  (at_ core).or ((at_ (128 + core / 8)).or (at_ 144))

/-- Ways and sets of a structure (R453): 128 entries fully associative; 8 ways of 512 sets; 16 ways of 64 sets in each of 64 slices. The
page's number decides the set (log 17). -/
def tlbWays (place : Nat) : Nat := if place < 128 then 128 else if place < 144 then 8 else 16
def tlbSets (place : Nat) : Nat := if place < 128 then 1 else if place < 144 then 512 else 4096
def TlbEntry.set (e : TlbEntry) : Nat := e.va / 2 ^ e.size % tlbSets e.place

/-- An entry put into one structure in place of one of the same page, the oldest entry of a full set leaving. -/
def tlbPut (l : List TlbEntry) (e : TlbEntry) : List TlbEntry :=
  let l := l.filter fun x => !(x.place == e.place && x.part == e.part && x.va == e.va && x.size == e.size)
  let mine := l.filter fun x => x.place == e.place && x.set == e.set
  if mine.length < tlbWays e.place then l ++ [e]
  else
    match mine with
    | [] => l ++ [e]
    | o :: _ => l.erase o ++ [e]

/-- A walk's leaf put into the core, cluster and die TLBs (R453). -/
def State.tlbFill (s : State) (core : Nat) (e : TlbEntry) : State :=
  { s with tlbs := tlbPut (tlbPut (tlbPut s.tlbs { e with place := core }) { e with place := 128 + core / 8 }) { e with place := 144 } }

/-- The entries a walk read at L2 with ND 15, those its cluster's walk cache does not hold (R453). -/
def State.walkReads (s : State) (core part : Nat) (reads : List Nat) : List Nat :=
  reads.filter fun pa => !s.wcache.any fun e => e.cluster == core / 8 && e.part == part && e.pa == pa
def State.askReads (s : State) (core part : Nat) (missed : List Nat) : State :=
  { s with fills := s.fills ++ missed.map fun pa => { core := farCore + core, pa := pa, part := part, depth := 2 } }

/-- What a walk that has found its leaf leaves behind (R453): its reads, and the table entries it read in its cluster's walk cache. -/
def State.walkDone (s : State) (core part : Nat) (reads : List Nat) : State :=
  let cl := core / 8
  let missed := s.walkReads core part reads
  let new := (missed.filter fun pa => s.viewNat 0 pa 8 % 4 == 1).map fun pa => (⟨cl, part, pa, s.viewNat 0 pa 8⟩ : WalkEntry)
  let mine := s.wcache.filter (fun e => e.cluster == cl) ++ new
  { (s.askReads core part missed) with wcache := s.wcache.filter (fun e => e.cluster != cl) ++ mine.drop (mine.length - Config.walkCache) }

/-- Where the price page stands in every tenant's space (R231). -/
def pricePage : Nat := 0x0000FFFFFFFFF000
def isPricePage (sys : Bool) (va : Nat) : Bool := !sys && va / 4096 == pricePage / 4096

/-- A walk made by a core's walkers; one that ends in a fault caches nothing (R453). -/
def State.walkBy (s : State) (core part : Nat) (sys : Bool) (va : Nat) (acc : AccKind) : Trans × State :=
  match walk s (s.entryAt (some (core / 8)) part) part sys va acc with
  | (.inl t, r) => (t, s.askReads core part (s.walkReads core part r))
  | (.inr e, r) => (.ok (e.pa + va % 2 ^ e.size) e.mt, (s.walkDone core part r).tlbFill core e)

/-- An access translated (R450 to R455): by the TLBs, else by a walk whose leaf they then hold. The result is where the access lands, and
the state with the TLBs as they are left. -/
def State.translate (s : State) (core part : Nat) (sys : Bool) (va : Nat) (acc : AccKind) : Trans × State :=
  match s.tlbFind core part va with
  | some e =>
    -- a cached mapping without the permission: the walk says at which stage it lacks
    if allowed ⟨e.pa, e.size, e.r, e.w, e.x, e.mt⟩ acc then (.ok (e.pa + va % 2 ^ e.size) e.mt, s) else s.walkBy core part sys va acc
  | none => s.walkBy core part sys va acc

/-! ### Queue status blocks -/

/-- The price page's bytes (R231). -/
def priceNat (p : Prices) : Nat :=
  p.copyb.toNat * 2 ^ 256 + p.bsqp.toNat * 2 ^ 232 + p.pass.toNat * 2 ^ 224 + p.mac4.toNat * 2 ^ 192 + p.mac8.toNat * 2 ^ 160 +
    p.mac16.toNat * 2 ^ 128 + p.cap.toNat * 2 ^ 96 + p.inj.toNat * 2 ^ 80 + p.licw.toNat * 2 ^ 64 + p.gen.toNat

/-- A flat address of a partition as the ringmaster and the engines reach it: both stages by a walk (R246, R450). The price page takes no
write (R231). -/
def State.flatPa (s : State) (part va : Nat) (acc : AccKind) : Trans :=
  if isPricePage (part == 63) va && acc != .read then .perm false false
  else
    match (walk s (s.entryAt none part) part (part == 63) va acc).1 with
    | .inl t => t
    | .inr e => .ok (e.pa + va % 2 ^ e.size) e.mt

/-- What the ringmaster reads at a flat address of a partition, at device scope: the price page's bytes (R231), else home memory. -/
def State.flatNat (s : State) (part va n : Nat) : Except Trans Nat :=
  if isPricePage (part == 63) va then .ok (priceNat s.prices / 2 ^ (8 * (va % 4096)) % 2 ^ (8 * n))
  else
    match s.flatPa part va .read with
    | .ok pa _ => .ok (s.viewNat 0 pa n)
    | t => .error t

/-- Requests of the lines of a range at their home slices, for what is no core's (R276). -/
def State.askLines (s : State) (part pa n : Nat) (write : Bool) : State :=
  { s with fills := s.fills ++ (linesOf pa n).map fun k => { core := farCore + 128, pa := 128 * k, part := part, depth := 2, write := write } }

/-- The lines the ringmaster reads at a flat address are asked of the levels (R276). -/
def State.askFlat (s : State) (part va n : Nat) : State :=
  if isPricePage (part == 63) va then s
  else
    match s.flatPa part va .read with
    | .ok pa _ => s.askLines part pa n false
    | _ => s

/-- Home memory written for a partition by what is no core. To a lost module the write is an uncorrectable error whose record is due (R522), but for the
firmware's own (log 125). -/
def State.writeFor (s : State) (part pa n v : Nat) : State :=
  if s.away pa then (if part = 63 then s else { s with checks := s.checks ++ [⟨0, part, 128, lineOf pa, 9⟩] })
  else (s.writeHome none pa n v).askLines part pa n true

/-- Home memory written at a flat address of a partition; where it does not translate, the write is lost (log 68). -/
def State.writeFlat (s : State) (part va n v : Nat) : State :=
  match s.flatPa part va .write with
  | .ok pa _ => s.writeFor part pa n v
  | _ => s

/-- The status block of a queue (R252) written anew. -/
def State.writeStatus (s : State) (q : Nat) : State :=
  let x := s.queue q
  s.writeFlat x.part x.sba 256 (x.h % 2 ^ 64 * 2 ^ 448 + x.t % 2 ^ 64 * 2 ^ 384 + x.stale.toNat * 2 ^ 352 + x.errslot % 2 ^ 32 * 2 ^ 320 +
    x.errcode % 256 * 2 ^ 312 + x.state % 256 * 2 ^ 304 + x.gerr.toNat * 2 ^ 272 + (if x.ovrs then 2 ^ 271 else 0) + x.errrec * 2 ^ 512)

/-! ### Faults of pages not present (R436, R457 to R459) -/

def accCode : AccKind → Nat
  | .read => 0 | .write => 1 | .atomic => 2 | .fetch => 3 | .table => 4

def pageOf (m : PageMiss) : Nat := m.addr / 4096

/-- A fault record's bytes as a number (R458). -/
def faultRecord (f : PFault) (seq : Nat) : Nat :=
  let src := match f.src with
    | .troupe => 0 | .copy => 1 | .record => 2 | .ringmaster => 3
  seq % 2 ^ 64 * 2 ^ 448 + f.miss.addr % 2 ^ 48 * 2 ^ 400 + accCode f.miss.acc * 2 ^ 397 + (if f.miss.stage then 2 ^ 396 else 0) +
    src * 2 ^ 394 + f.qix % 2 ^ 10 * 2 ^ 384 +
    (if f.src = .ringmaster then 0 else f.gang % 2 ^ 32 * 2 ^ 352 + f.troupe % 2 ^ 9 * 2 ^ 343) +
    (if f.src = .troupe ∨ f.src = .record then f.pc % 2 ^ 48 * 2 ^ 272 else 0)

/-- Writes to a partition's rings and accounting block go through its partition stage whatever the W permission there (R463). -/
def State.writeIpa (s : State) (part addr n v : Nat) : State :=
  match (walkPart s (s.entryAt none part) addr 4 (s.part part).proot).1 with
  | .inr l => s.writeFor part (l.at addr) n v
  | .inl _ => s

/-- The accounting block of R475 written anew; the firmware's own partition has none (R461). -/
def State.writeAcct (s : State) (part : Nat) : State :=
  let p := s.part part
  if part = 63 then s else
  s.writeIpa part p.acct 64 (p.logtail.toNat * 2 ^ 448 + p.clipcnt.toNat * 2 ^ 416 + p.stcrd.toNat * 2 ^ 384 + p.stcpy.toNat * 2 ^ 352 +
    p.stmon.toNat * 2 ^ 320 + p.strpl.toNat * 2 ^ 288 + p.tf % 2 ^ 64 * 2 ^ 224)

/-- The PCI function of a partition (R461, R523): p + 1 of a tenant, the physical function 0 of the firmware. -/
def functionOf (part : Nat) : Nat := if part = 63 then 0 else part + 1
/-- A vector of a function is masked: bit 0 of its vector control word, the last of the 16 bytes of its entry in the MSI-X table, which is set
until the host clears it (R523; log 104). -/
def State.msiMasked (s : State) (f vec : Nat) : Bool :=
  match s.bar.find? fun x => x.1 == f * 2 ^ 20 + 0x50008 + 16 * vec with
  | some x => (x.2 / 2 ^ 32).testBit 0
  | none => true
/-- An MSI-X vector of a partition's function raised (R523); while it is masked its pending bit stands. -/
def State.raiseMsi (s : State) (part vec : Nat) : State :=
  let f := functionOf part
  if s.msiMasked f vec then { s with pba := if s.pba.contains (f, vec) then s.pba else s.pba ++ [(f, vec)] }
  else { s with msi := s.msi ++ [(f, vec)] }

/-- Writes the records of faults that wait for one, oldest first, while the ring has room (R457). -/
def State.writeFaultRecords (s : State) (part : Nat) : Nat → State
  | 0 => s
  | n + 1 =>
    let p := s.part part
    match p.faults.find? fun f => f.seq.isNone with
    | none => s
    | some f =>
      if p.tf - p.hf < 2 ^ p.frm then
        let seq := p.tf + 1
        let s := s.writeIpa part (p.frbase + 64 * (p.tf % 2 ^ p.frm)) 64 (faultRecord f seq)
        let s := s.setPart { p with tf := p.tf + 1, faults := p.faults.map fun g => if g.num = f.num then { g with seq := some seq } else g }
        let s := if p.tf = p.hf then s.raiseMsi part p.frvec else s
        (s.writeAcct part).writeFaultRecords part n
      else s

/-- Records a fault, joining one of the same stage and page (R457): its number. -/
def State.recordFault (s : State) (part : Nat) (f : PFault) : Nat × State :=
  let p := s.part part
  match p.faults.find? fun g => g.miss.stage == f.miss.stage && pageOf g.miss == pageOf f.miss && !g.released && !g.failed with
  | some g => (g.num, s)
  | none =>
    let f := { f with num := p.nextFault }
    let s := s.setPart { p with faults := p.faults ++ [f], nextFault := p.nextFault + 1 }
    (f.num, s.writeFaultRecords part 1)

/-- Records several faults: their numbers. -/
def State.recordFaults (s : State) (part : Nat) : List PFault → List Nat × State
  | [] => ([], s)
  | f :: r =>
    let (n, s) := s.recordFault part f
    let (ns, s) := s.recordFaults part r
    (n :: ns, s)

end Sys2Proof.Machine
end

