-- ==== Sys2Proof/Machine/Ops.lean ====
section
/-!
DEFINITION. The operations every meaning is written with: registers of the path in focus, gangs and troupes by name, addresses and where
they land, loads and stores, taking an exception and returning from one (R434 to R446).
-/

namespace Sys2Proof.Machine

/-! ### The path in focus -/

def Troupe.slot (t : Troupe) : SlotId → Slot
  | .P => t.p
  | .Q => t.q
def Troupe.setSlot (t : Troupe) (i : SlotId) (x : Slot) : Troupe :=
  match i with
  | .P => { t with p := x }
  | .Q => { t with q := x }
def SlotId.other : SlotId → SlotId
  | .P => .Q
  | .Q => .P

def State.cur (s : State) : Slot := s.tr.slot s.sel
def State.setCur (s : State) (x : Slot) : State := { s with tr := s.tr.setSlot s.sel x }
def State.sibling (s : State) : Slot := s.tr.slot (SlotId.other s.sel)
def State.setSibling (s : State) (x : Slot) : State := { s with tr := s.tr.setSlot (SlotId.other s.sel) x }
def State.pc (s : State) : BitVec 48 := s.cur.pc
/-- The address of the instruction as a 64-bit value. -/
def State.pc64 (s : State) : Word64 := s.cur.pc.setWidth 64
/-- The issuing path's mask (R138, R196). -/
def State.pmask (s : State) : BitVec 32 := s.cur.mask

/-- A scalar register read; s0 reads as zero (R12). -/
def State.rS (s : State) (r : SReg) : Word64 := if r = 0 then 0 else s.tr.sreg.get r.toFin
/-- A scalar register written; a write to s0 is discarded (R12). -/
def State.wS (s : State) (r : SReg) (v : Word64) : State :=
  if r = 0 then s else { s with tr := { s.tr with sreg := s.tr.sreg.set r.toNat v r.isLt } }

/-- The stored contents of a vector register in a lane (R138, R196). -/
def State.rV (s : State) (r : VReg) (lane : Fin 32) : Word32 := (s.tr.vreg.get r.toFin).get lane
/-- A vector register written in the lanes of `m`. -/
def State.wV (s : State) (r : VReg) (m : BitVec 32) (f : Fin 32 → Word32) : State :=
  let old := s.tr.vreg.get r.toFin
  { s with tr := { s.tr with vreg := s.tr.vreg.set r.toNat (Vector.ofFn fun i => if m.getLsbD i then f i else old.get i) r.isLt } }

/-- A mask register read; k0 is the issuing path's mask (R136). -/
def State.rK (s : State) (k : KReg) : Word32 := if k = 0 then s.pmask else s.tr.kreg.get k.toFin
/-- The bits of `m` of a mask register written. -/
def State.wK (s : State) (k : KReg) (m v : BitVec 32) : State :=
  { s with tr := { s.tr with kreg := s.tr.kreg.set k.toNat ((s.tr.kreg.get k.toFin &&& ~~~m) ||| (v &&& m)) k.isLt } }

/-- The register `n` places after `r` in a group. -/
def VReg.plus (r : VReg) (n : Nat) : VReg := r + .ofNat 7 n

/-! ### Gangs and troupes by name -/

def State.updGang (s : State) (uid : Nat) (f : Gang → Gang) : State :=
  if s.gg.uid = uid then { s with gg := f s.gg }
  else { s with gangs := s.gangs.map fun g => if g.uid = uid then f g else g }

def State.gang? (s : State) (uid : Nat) : Option Gang :=
  if uid = 0 then none else if s.gg.uid = uid then some s.gg else s.gangs.find? fun g => g.uid == uid

def State.updTroupe (s : State) (uid t : Nat) (f : Troupe → Troupe) : State :=
  if s.gg.uid = uid ∧ s.tr.idx = t then { s with tr := f s.tr }
  else s.updGang uid fun g => { g with troupes := g.troupes.map fun x => if x.idx = t then f x else x }

def State.troupe? (s : State) (uid t : Nat) : Option Troupe :=
  if uid = 0 then none
  else if s.gg.uid = uid ∧ s.tr.idx = t then some s.tr
  else (s.gang? uid).bind fun g => g.troupes.find? fun x => x.idx == t

/-- Every troupe of a gang, the one in focus among them. -/
def State.troupesOf (s : State) (g : Gang) : List Troupe := if g.uid = s.gg.uid then s.tr :: g.troupes else g.troupes
/-- Every resident gang. -/
def State.allGangs (s : State) : List Gang := if s.gg.uid = 0 then s.gangs else s.gg :: s.gangs

/-- Puts a troupe of a gang in focus, the slot named; unchanged where there is none. -/
def State.focusTo (s : State) (p : PathId) : State :=
  if s.gg.uid = p.gang ∧ s.tr.idx = p.troupe then { s with sel := p.slot }
  else
    match s.troupe? p.gang p.troupe, s.gang? p.gang with
    | some t, some g =>
      if s.gg.uid = p.gang then
        { s with gg := { g with troupes := s.tr :: g.troupes.filter fun x => x.idx != t.idx }, tr := t, sel := p.slot }
      else
        let back := if s.gg.uid = 0 then [] else [{ s.gg with troupes := s.tr :: s.gg.troupes }]
        { s with gangs := back ++ s.gangs.filter (fun x => x.uid != g.uid), tr := t, sel := p.slot,
                 gg := { g with troupes := g.troupes.filter fun x => x.idx != t.idx } }
    | _, _ => s

/-- The core a troupe of a gang runs on (R155, R156). -/
def coreOf (g : Gang) (t : Troupe) : Nat := 8 * g.cluster + g.core0 + t.idx / g.nT
/-- The stack whose NMU runs a troupe, when one does (R508). -/
def Troupe.nearAt (t : Troupe) : Option Nat := if t.p.live then t.p.near else t.q.near
/-- A gang lies on one core, with no troupe in a NEAR region: its gang scope has its point at the L1 (R269, R508). -/
def State.oneCore (s : State) (g : Gang) : Bool := g.nC == 1 && !((s.troupesOf g).any fun x => x.nearAt.isSome)
def State.reqOf (s : State) (g : Gang) (t : Troupe) : Req :=
  ⟨coreOf g t, g.uid, g.part, g.sys, s.oneCore g,
   match t.nearAt with
   | some h => h + 1
   | none => 0⟩
def State.req (s : State) : Req := s.reqOf s.gg s.tr
def State.myPart (s : State) : Partition := s.part s.gg.part
/-- The path in focus by name. -/
def State.me (s : State) : PathId := ⟨s.gg.uid, s.tr.idx, s.sel⟩

/-! ### Stops of an instruction -/

/-- Why an instruction does not complete: it traps, it meets pages not present, or it waits for a page walk. -/
inductive Stop where
  | trap (e : ErrRec)
  | park (ms : List PageMiss)
  /-- No TLB maps the page: the instruction holds its path until a walk has ended (R454). -/
  | walk (va : Nat) (acc : AccKind)
  deriving DecidableEq, Repr

def illop : Stop := .trap { cause := 1 }
def illopAux (v : Word64) : Stop := .trap { cause := 1, aux := v }
def misaligned (a : Word64) : Stop := .trap { cause := 2, addr := a }
def addrFault (a : Word64) : Stop := .trap { cause := 3, addr := a }

/-- How a meaning ends. -/
inductive Res where
  /-- The instruction completes and the path goes on at the next word. -/
  | done (s : State)
  /-- The instruction transfers control (R17). -/
  | jump (t : Word64) (s : State)
  /-- The instruction completes and has set the path's place itself. -/
  | stay (s : State)
  /-- Nothing of the instruction happens but the stop. -/
  | stop (x : Stop)
  /-- The instruction waits to issue: nothing happens but what the wait itself records. -/
  | wait (f : State → State)

/-! ### Addresses (R26, R264 to R267, R283) -/

/-- Z of a partition (R266, R463). -/
def Partition.z (p : Partition) : Nat := 2 ^ (p.zl + 14)

/-- The flat alias of byte `o` of a lane's private memory (R267). -/
def State.alias_ (s : State) (lane o : Nat) : Nat :=
  let p := s.myPart
  p.spb + s.tr.frameNo * 32 * p.z + lane * p.z + o

/-- The class of an address: flat (the private window by its alias), scratchpad, or invalid. -/
inductive AddrClass where
  | flat (va : Nat)
  | scratch (off : Nat)
  | invalid
  deriving DecidableEq, Repr

/-- The class of an effective address for a lane (R264 to R267). -/
def State.classify (s : State) (lane : Nat) (a : Word64) : AddrClass :=
  let hi := a.toNat / 2 ^ 48
  let o := a.toNat % 2 ^ 40
  if hi = 0 then .flat a.toNat
  else if hi = 0xFFFF then
    match bitsOf a.toNat 47 40 with
    | 0xFF =>
      let j := o / 2 ^ 20
      let b := o % 2 ^ 20
      if j ≤ s.gg.nC ∧ b < s.gg.scru then .scratch ((if j = 0 then s.tr.idx / s.gg.nT else j - 1) * 2 ^ 20 + b) else .invalid
    | 0xFE => if o < s.myPart.z then .flat (s.alias_ lane o) else .invalid
    | _ => .invalid
  else .invalid

/-- The flat alias under which an unperformed access of the private window is held (R286, R491). -/
def State.heldVa (s : State) (lane : Nat) (a : Word64) : Word64 :=
  match s.classify lane a with
  | .flat va => .ofNat 64 va
  | _ => a

/-- The address checks of step 6 for the lanes given, lowest first (R283). `one`: a scalar access, whose record names no lane. -/
def State.checkAddrs (s : State) (one : Bool) (z : Nat) : List (Nat × Word64) → Option Stop
  | [] => none
  | (lane, a) :: r =>
    let ln := if one then none else some lane
    if s.classify lane a = .invalid then some (.trap { cause := 3, lane := ln, addr := a })
    else if a.toNat % z ≠ 0 then some (.trap { cause := 2, lane := ln, addr := a })
    else s.checkAddrs one z r

/-- AUX of a translation or permission fault (R441). -/
def transAux (stage failed : Bool) (acc : AccKind) : Word64 :=
  .ofNat 64 ((if stage then 1 else 0) + 2 * accCode acc + (if failed then 16 else 0))

/-- What becomes of an access whose translation has ended (R441, R452): where it lands, or the failure. -/
def State.landed (s : State) (ln : Option Nat) (a : Word64) (acc : AccKind) : Trans × State → Except Stop (Loc × State)
  | (.ok pa mt, t) =>
    if (mt = 2 ∨ (s.bells.any fun b => b.1 == pa / 4096)) ∧ acc = .atomic then
      .error (.trap { cause := 5, lane := ln, addr := a, aux := transAux false false acc })
    else .ok (.phys pa mt, t)
  | (.miss m, _) => .error (.park [{ m with va := a, lane := ln }])
  | (.bad st tab, _) => .error (.trap { cause := 4, lane := ln, addr := a, aux := transAux st false (if tab then .table else acc) })
  | (.perm st tab, _) => .error (.trap { cause := 5, lane := ln, addr := a, aux := transAux st false (if tab then .table else acc) })

/-- One lane's address translated (step 7): where it lands, or the failure. An instruction that no TLB helps waits for a walk (R454), unless
it has waited for that page already or `now` says that no instruction waits. -/
def State.placeBy (s : State) (now : Bool) (ln : Option Nat) (lane : Nat) (a : Word64) (acc : AccKind) : Except Stop (Loc × State) :=
  match s.classify lane a with
  | .invalid => .error (.trap { cause := 3, lane := ln, addr := a })
  -- a scratchpad access is outside the subset of a NEAR region and ends it (R511)
  | .scratch off => if s.req.dom = 0 then .ok (.scratch off, s) else .error illop
  | .flat va =>
    if isPricePage s.gg.sys va then
      if acc = .read then .ok (.price (va % 4096), s)
      else .error (.trap { cause := 5, lane := ln, addr := a, aux := transAux false false acc })
    else if now || s.cur.walked.contains (va / 4096) || (s.tlbFind s.req.core s.gg.part va).isSome then
      s.landed ln a acc (s.translate s.req.core s.gg.part s.gg.sys va acc)
    else .error (.walk va acc)

def State.place (s : State) (ln : Option Nat) (lane : Nat) (a : Word64) (acc : AccKind) : Except Stop (Loc × State) := s.placeBy false ln lane a acc

def addMiss (ms : List PageMiss) (m : PageMiss) : List PageMiss :=
  if ms.any fun x => x.stage == m.stage && pageOf x == pageOf m then ms else ms ++ [m]

/-- Every lane's address translated in ascending lane order (R284): the lowest failing lane decides; the pages not present below the first
failure that cannot be replayed are all recorded. -/
def State.places (s : State) (one : Bool) (acc : AccKind) : List (Nat × Word64) → List PageMiss → List (Nat × Loc) →
    Except Stop (List (Nat × Loc) × State)
  | [], ms, ls => if ms = [] then .ok (ls, s) else .error (.park ms)
  | (lane, a) :: r, ms, ls =>
    match s.place (if one then none else some lane) lane a acc with
    | .ok (l, s') => s'.places one acc r ms (ls ++ [(lane, l)])
    | .error (.park m) => s.places one acc r (m.foldl addMiss ms) ls
    | .error (.walk va k) => .error (.walk va k)
    | .error x => if ms = [] then .error x else .error (.park ms)

/-- Steps 6 and 7 for an access: addresses checked, then translated (R283, R284). -/
def State.resolve (s : State) (one : Bool) (acc : AccKind) (z : Nat) (as : List (Nat × Word64)) : Except Stop (List (Nat × Loc) × State) :=
  match s.checkAddrs one z as with
  | some x => .error x
  | none => s.places one acc as [] []

/-! ### Unperformed stores (R107, R307, R311) -/

/-- Whether two accesses meet in a byte. -/
def Loc.meets : Loc → Nat → Loc → Nat → Bool
  | .scratch a, n, .scratch b, m => decide (a < b + m) && decide (b < a + n)
  | .phys a _, n, .phys b _, m => decide (a < b + m) && decide (b < a + n)
  | _, _, _, _ => false

/-- The byte `k` places on. -/
def Loc.plus : Loc → Nat → Loc
  | .scratch a, k => .scratch (a + k)
  | .phys a mt, k => .phys (a + k) mt
  | .price a, k => .price (a + k)

/-- The distance of a byte from the start of an entry, when the entry holds it. -/
def StoreEntry.holds (e : StoreEntry) (l : Loc) : Option Nat :=
  match e.loc, l with
  | .scratch a, .scratch b => if a ≤ b ∧ b < a + e.size then some (b - a) else none
  | .phys a _, .phys b _ => if a ≤ b ∧ b < a + e.size then some (b - a) else none
  | _, _ => none

/-- The newest unperformed store of the lanes that holds the byte (R307, item 1); at troupe scope a write of a path-stack entry is any lane's to
see (R150). -/
def forward (lanes : BitVec 32) (scope : OrdScope) (l : Loc) : List StoreEntry → Option Byte
  | [] => none
  | e :: r =>
    match forward lanes scope l r with
    | some b => some b
    | none =>
      if e.aop = none ∧ (e.lanes &&& lanes ≠ 0 ∨ (e.stack = true ∧ scope = .troupe)) then
        match e.holds l with
        | some k => some (.ofNat 8 (e.data / 2 ^ (8 * k)))
        | none => none
      else none

/-- A byte where it lands, beyond the unperformed stores. -/
def State.readLoc (s : State) (r : Req) (g : Gang) (scope : OrdScope) : Loc → Byte
  | .scratch off => cellGet g.scratch off
  | .phys pa mt => s.readByteAt r scope pa mt
  | .price off => .ofNat 8 (priceNat s.prices / 2 ^ (8 * off))

/-- A byte as lanes of the troupe in focus read it beyond their unperformed stores: past the RDC where they have written the line at its home
on another module (R24). -/
def State.readFor (s : State) (lanes : BitVec 32) (scope : OrdScope) (l : Loc) : Byte :=
  match l with
  | .phys pa mt =>
    if s.tr.sent.any fun x => x.1 &&& lanes != 0 && x.2 == lineOf pa then s.viewByte 0 pa else s.readByteAt s.req scope pa mt
  | l => s.readLoc s.req s.gg scope l

/-- `n` bytes as a load of the lanes reads them, each from the first source of R307 that holds it. -/
def State.loadNat (s : State) (lanes : BitVec 32) (scope : OrdScope) (l : Loc) : Nat → Nat
  | 0 => 0
  | n + 1 =>
    let b := (forward lanes scope l s.tr.stream).getD (s.readFor lanes scope l)
    b.toNat + 256 * s.loadNat lanes scope (l.plus 1) n

/-! ### Atomics (R292, R293, R296) -/

def bf16Add (a b : BitVec 16) : BitVec 16 := .ofNat 16 (bf16.round .plain .rne 0 (sumExact .rne [bf16.unpack a.toNat, bf16.unpack b.toNat]))

/-- The new value of a read-modify-write: old value, operand, compared value. -/
def AtomicOp.new (o : AtomicOp) (old v cmp : Nat) : Nat :=
  let o32 : Word32 := .ofNat 32 old
  let v32 : Word32 := .ofNat 32 v
  let o64 : Word64 := .ofNat 64 old
  let v64 : Word64 := .ofNat 64 v
  match o with
  | .a .addI32 => (o32 + v32).toNat
  | .a .addI64 => (o64 + v64).toNat
  | .a .min => (mins o32 v32).toNat
  | .a .max => (maxs o32 v32).toNat
  | .a .minn => (minn o32 v32).toNat
  | .a .maxn => (maxn o32 v32).toNat
  | .a .faddF32 => (round32 .rne 0 (sumExact .rne [val32 o32, val32 v32])).toNat
  | .a .faddBf16 => (parts16 bf16Add o32 v32).toNat
  | .a .fminF32 => fp32.minCode o32.toNat v32.toNat
  | .a .fmaxF32 => fp32.largerCode o32.toNat v32.toNat
  | .a .incWrap => if v32.toNat ≤ o32.toNat then 0 else o32.toNat + 1
  | .l .and => (o32 &&& v32).toNat
  | .l .or => (o32 ||| v32).toNat
  | .l .xor => (o32 ^^^ v32).toNat
  | .l .swap => v32.toNat
  | .l .cas32 => if o32.toNat = cmp % 2 ^ 32 then v32.toNat else o32.toNat
  | .l .cas64 => if o64.toNat = cmp % 2 ^ 64 then v64.toNat else o64.toNat
  | .l .and64 => (o64 &&& v64).toNat
  | .l .or64 => (o64 ||| v64).toNat
  | .l .xor64 => (o64 ^^^ v64).toNat
  | .sadd => (o64 + v64).toNat
  | .scas => if o64.toNat = cmp % 2 ^ 64 then v64.toNat else o64.toNat
  | .sswap => v64.toNat
  | .smax => (maxs o64 v64).toNat

/-! ### Performing (R271, R285, R307, R309, R319) -/

/-- A doorbell page of a queue, by physical page; a store anywhere in the page rings (log 9). -/
def State.bellAt (s : State) (pa : Nat) : Option Nat := (s.bells.find? fun b => b.1 == pa / 4096).map Prod.snd

/-- A doorbell store (R244): STALE for a narrow, stale or launch-fed one; else T, and OVERRUN or OVRS beyond the ring. -/
def State.tailBell (s : State) (q : Nat) (v : Word64) (n : Nat) : State :=
  let x := s.queue q
  if !x.enabled then s
  else if n ≠ 8 ∨ x.launchFed ∨ v.toNat ≤ x.t then (s.setQueue { x with stale := x.stale + 1 }).writeStatus q
  else if x.h + 2 ^ x.logn < v.toNat then
    if x.state = 0 then
      ((s.setQueue { x with t := v.toNat, state := 1, errcode := 6, errslot := x.h % 2 ^ x.logn }).writeStatus q).raiseMsi x.part x.vec
    -- OVRS tells of a queue halted for another reason than OVERRUN (R252)
    else (s.setQueue { x with t := v.toNat, ovrs := x.ovrs || x.errcode != 6 }).writeStatus q
  else (s.setQueue { x with t := v.toNat }).writeStatus q

/-- A write of a gang's that no route takes to its home module is an uncorrectable error with UNIT 9 (R522): it writes nothing, and the owner's
end in error is due, as for a write-back that fails (R448; log 105). -/
def State.lostWrite (s : State) (r : Req) (pa : Nat) : State := { s with checks := s.checks ++ [⟨r.gang, r.part, r.core, lineOf pa, 9⟩] }

/-- Bytes written where they land, at the scope's point: the gang's scratchpad, the core's L1, or home memory (R286, R308). -/
def State.performAt (s : State) (r : Req) (scope : OrdScope) (nd : BitVec 4) (l : Loc) (n v : Nat) : State :=
  match l with
  | .scratch off => s.updGang r.gang fun g => { g with scratch := writeCells g.scratch off n v }
  | .price _ => s
  | .phys pa mt =>
    match s.bellAt pa with
    | some q => s.tailBell q (.ofNat 64 v) n
    | none =>
      -- no route leads to the home module: the write is an uncorrectable error (R522)
      if s.away pa then s.lostWrite r pa
      else if s.pointL1 r scope pa mt then s.writeL1 r scope nd pa n v
      else if r.dom ≠ 0 ∧ s.homed pa then s.writeNear r.dom pa n v
      else s.writeHome (some r.core) pa n v

/-- Before a read-modify-write whose scope point is the slice, the core's own dirty bytes of the line are written back (R294, R319). A line
that other L1s hold and the contention predictor finds quiet is granted to the core alone; the atomic then takes its place in coherence
order as at the slice. -/
def State.beforeAtomic (s : State) (r : Req) (scope : OrdScope) (nd : BitVec 4) (l : Loc) : State :=
  match l with
  | .phys pa mt =>
    if s.pointL1 r scope pa mt then s
    else
      let s := match (s.cache r.core).find (lineOf pa) with
        | some c => s.writeBack r.core c
        | none => s
      if s.homed pa && mt == 0 && r.dom == 0 && decide (r.core < 128) && (s.caches.any fun c => c.inst < 128 && c.inst != r.core && (c.find (lineOf pa)).isSome) &&
          !Config.contended (lineOf pa) s.freeCtr then
        let s := s.grantLine r.core (lineOf pa)
        { s with fills := s.fills ++ [{ core := r.core, pa := pa, scope := .device, nd := nd, gang := r.gang, part := r.part }] }
      else s
  | _ => s

def State.readPlace (s : State) (r : Req) (scope : OrdScope) (l : Loc) : Nat → Nat
  | 0 => 0
  | n + 1 =>
    let b := match l with
      | .scratch off =>
        match s.gang? r.gang with
        | some g => cellGet g.scratch off
        | none => 0
      | .phys pa mt => if s.pointL1 r scope pa mt then s.readByteAt r scope pa mt else cellGet s.mem pa
      | .price _ => 0
    b.toNat + 256 * s.readPlace r scope (l.plus 1) n

/-- One indivisible read-modify-write at its place: the old value and the state after (R291, R294). -/
def State.rmw (s : State) (r : Req) (mode : AccMode) (l : Loc) (n : Nat) (o : AtomicOp) (v cmp : Nat) : Nat × State :=
  let s := s.beforeAtomic r mode.scope mode.nd l
  let old := s.readPlace r mode.scope l n
  (old, s.performAt r mode.scope mode.nd l n (o.new old v cmp))

def isRelease : OrdOrder → Bool
  | .release | .acqRel => true
  | _ => false
def isAcquire : OrdOrder → Bool
  | .acquire | .acqRel => true
  | _ => false

/-- Early loads of some lanes, bound before a moment, may no longer stand (R285, R301). -/
def State.forget (s : State) (lanes : BitVec 32) (t : Nat) : State :=
  { s with tr := { s.tr with early := s.tr.early.filter fun x => !(x.lanes &&& lanes != 0 && decide (x.since < t)) } }
/-- So may those of bytes that an earlier access of the lanes has met since (R24, R310). -/
def State.forgetAt (s : State) (lanes : BitVec 32) (l : Loc) (n t : Nat) : State :=
  { s with tr := { s.tr with early := s.tr.early.filter fun x => !(x.lanes &&& lanes != 0 && x.loc.meets x.size l n && decide (x.since < t)) } }

/-- An acquire of the path in focus whose access binds (R271, R285). -/
def State.acquire (s : State) (lanes : BitVec 32) (scope : OrdScope) (t : Nat) : State :=
  (s.acquireL1 s.req.core s.gg.part scope s.req.one).forget lanes t
/-- The write-back of a release of the path in focus (R271, R285). -/
def State.writeBackFor (s : State) (scope : OrdScope) : State := s.releaseL1 s.req.core scope s.req.one

/-- Lanes have written a line of another module (R24). -/
def State.noteSent (s : State) (lanes : BitVec 32) (l : Loc) : State :=
  match l with
  | .phys pa _ =>
    if s.remote pa && !s.tr.sent.contains (lanes, lineOf pa) then { s with tr := { s.tr with sent := s.tr.sent ++ [(lanes, lineOf pa)] } } else s
  | _ => s

/-- One unperformed entry of the troupe in focus performs: a release writes back first, an acquire invalidates first (R285). A store of
distance 0 writes through and allocates nothing (R124, R277). -/
def State.performEntry (s : State) (r : Req) (e : StoreEntry) : State :=
  let s := s.noteSent e.lanes e.loc
  let s := if isRelease e.mode.order then s.releaseL1 r.core e.mode.scope r.one else s
  let s := if isAcquire e.mode.order then s.acquire e.path e.mode.scope s.tr.ins else s
  match e.aop with
  | none => s.performAt r (if e.mode.nd = 0 then scopeMax .device e.mode.scope else e.mode.scope) e.mode.nd e.loc e.size e.data
  | some o => (s.rmw r e.mode e.loc e.size o e.data e.cmp).2

/-- Whether an entry of a stream performs before a later one does: in the program order of a lane (R311); behind an acquire; ahead of a
release, with what lanes of its path have read by forwarding (R285, R316); in lane order within one instruction (R289, R291). A clipped release
waits for no earlier write of other bytes that goes to the host or to shared memory (R324). -/
def StoreEntry.precedes (x e : StoreEntry) : Bool :=
  (isAcquire x.mode.order && x.path &&& e.lanes != 0) || (x.ins == e.ins && x.loc.meets x.size e.loc e.size) ||
    ((x.lanes &&& e.lanes != 0 || (isRelease e.mode.order && (x.lanes ||| x.seen) &&& e.path != 0)) &&
      !(isRelease e.mode.order && e.clip && x.out && !x.loc.meets x.size e.loc e.size))

/-- Whether the n-th entry of a stream may perform before the ones in front of it. -/
def mayPerform (l : List StoreEntry) (n : Nat) (e : StoreEntry) : Bool := (l.take n).all fun x => !x.precedes e

/-- The entries of a stream that are wanted or perform before a wanted one, and the rest. -/
def splitStream (want : StoreEntry → Bool) : List StoreEntry → List StoreEntry × List StoreEntry
  | [] => ([], [])
  | e :: r =>
    let x := splitStream want r
    if want e || x.1.any e.precedes then (e :: x.1, x.2) else (x.1, e :: x.2)

/-- Those entries perform, in order; the rest stay. -/
def State.drainWhere (s : State) (want : StoreEntry → Bool) : State :=
  let x := splitStream want s.tr.stream
  x.1.foldl (fun s e => s.performEntry s.req e) { s with tr := { s.tr with stream := x.2 } }

/-- Every unperformed access of the lanes performs (R311, R285). -/
def State.drain (s : State) (lanes : BitVec 32) : State := s.drainWhere fun e => e.lanes &&& lanes != 0
/-- What performs before an atomic with return of the path in focus: its lanes' earlier accesses (R311), and its acquires that have still to
bind, whatever lane issued them (R285); a clipped release waits for no write of other bytes to the host or to shared memory (R324). -/
def State.drainFor (s : State) (free : Bool) (ls : List (Nat × Loc)) (n : Nat) : State :=
  s.drainWhere fun e => (isAcquire e.mode.order && e.path &&& s.pmask != 0) ||
    (e.lanes &&& s.pmask != 0 && !(free && e.out && !ls.any fun l => e.loc.meets e.size l.2 n))
/-- What a release of the path in focus waits for has performed (R285, R316, R324), and the write-back is made. -/
def State.releaseFor (s : State) (scope : OrdScope) (clip : Bool) : State :=
  (s.drainWhere fun e => (e.lanes ||| e.seen) &&& s.pmask != 0 && !(clip && e.out)).writeBackFor scope

def Loc.device : Loc → Bool
  | .phys _ mt => mt == 2
  | _ => false

/-- Before a load of the lanes binds: their unperformed atomics on its bytes perform (R24), the path's acquires (R285), and before a device
access the lanes' other device accesses (R452). -/
def State.settle (s : State) (lanes : BitVec 32) (ls : List (Nat × Loc)) (n : Nat) : State :=
  s.drainWhere fun e => (isAcquire e.mode.order && e.path &&& s.pmask != 0) ||
    (e.lanes &&& lanes != 0 && ls.any fun l => (e.aop != none && e.loc.meets e.size l.2 n) || (e.loc.device && l.2.device))

/-- The single-copy-atomic units of a copy: its elements, or their halves of 8 bytes (R345); the elements of an element; their size. -/
def CopyWork.per (c : CopyWork) : Nat := if c.z = 16 then 2 else 1
def CopyWork.units (c : CopyWork) : Nat := c.n * c.per
def CopyWork.unitSize (c : CopyWork) : Nat := min c.z 8

/-- Whether a work still has reads to bind (R344). -/
def Work.reading (w : Work) : Bool :=
  match w.kind with
  | .copy c => (List.range c.units).any fun i => !c.done.testBit i && !c.vals.any fun v => v.1 == i
  | .layer l => !l.wrote
  | _ => false

/-- Asynchronous work of the troupe in focus with ORD acquire holds back the lanes' later accesses until its reads have bound (R344,
R402). -/
def State.heldBack (s : State) (lanes : BitVec 32) : Bool :=
  s.works.any fun w => w.gang == s.gg.uid && w.troupe == s.tr.idx && isAcquire w.mode.order && w.lanes &&& lanes != 0 && w.reading

/-- Whether CLIP limits an access of the path in focus at a scope (R324, R476). -/
def State.clips (s : State) (scope : OrdScope) : Bool := scope == .system && s.myPart.clip && !s.gg.sys
/-- Whether a partition stage from a level down maps a physical address. -/
def State.stageMaps (s : State) (pa : Nat) : Nat → Nat → Bool
  | 0, _ => false
  | lv + 1, table =>
    (List.range 512).any fun i =>
      match readEntry false lv (s.viewNat 0 (table + 8 * i) 8) with
      | .table oa => s.stageMaps pa lv oa
      | .leaf l => decide (l.base ≤ pa) && decide (pa < l.base + 2 ^ l.size)
      | _ => false

/-- Memory of the host, or memory that the stage of another active partition maps (R324). -/
def State.outside (s : State) (l : Loc) : Bool :=
  match l with
  | .phys pa _ => paHost pa || s.parts.any fun p => p.active && p.id != s.gg.part && s.stageMaps pa 4 p.proot
  | _ => false

/-- Entries a troupe's store buffer holds: 24 a lane (R489). -/
def bufferEntries : Nat := 768

/-- Entries enter the stream in focus as one instruction (R107, R286); earlier reads of their bytes no longer stand (R24). When the buffer has no
room the earlier ones have performed first (R489; log 106). -/
def State.enter (s : State) (es : List StoreEntry) : State :=
  let s := if bufferEntries < s.tr.stream.length + es.length then s.drain (.allOnes 32) else s
  let es := es.map fun e => { e with ins := s.tr.ins, clip := s.clips e.mode.scope, out := s.outside e.loc }
  let s := es.foldl (fun s e => (s.forgetAt e.lanes e.loc e.size s.tr.ins)) s
  let s := if es.any fun e => isAcquire e.mode.order then s.forget s.pmask s.tr.ins else s
  { s with tr := { s.tr with stream := s.tr.stream ++ es, ins := s.tr.ins + 1 } }

/-- Scope S in a partition whose CLIP is set counts a clip (R324, R476); the access acts at tenant scope, whose points are those of
system scope. -/
def State.noteClip (s : State) (scope : OrdScope) : State :=
  let p := s.myPart
  if s.clips scope then
    (s.setPart { p with clipcnt := p.clipcnt + 1, usage := { p.usage with clipd := p.usage.clipd + 1 } }).writeAcct p.id
  else s

/-- The line of an access is asked of the levels (R271, R275): kept until LOAD_RETURN. A store whose scope point is not the L1, or of distance
0, goes on to the slice (R124). An NMU's access touches what holds the line and allocates nothing (R510). -/
def State.addFill (s : State) (mode : AccMode) (write : Bool) (l : Loc) : State :=
  match l with
  | .phys pa mt =>
    let near := s.req.dom != 0
    { s with fills := s.fills ++ [{ core := s.req.core, pa := pa, mt := mt, nd := mode.nd, gang := s.gg.uid, part := s.gg.part, write := write,
                                    scope := if write && mode.nd = 0 then .device else mode.scope, depth := if near then 2 else 1, pass := near }] }
  | .scratch off => { s with fills := s.fills ++ [{ core := s.req.core, pa := off, gang := s.gg.uid, part := s.gg.part, pad := true }] }
  | .price _ => s

/-- Whether two places are of one request: of one line, or of one 4-byte word group of a scratchpad bank (R287). -/
def Loc.sameRequest : Loc → Loc → Bool
  | .phys a _, .phys b _ => lineOf a == lineOf b
  | .scratch a, .scratch b => a / 4 == b / 4
  | _, _ => false

/-- The places of the requests an access of `n` bytes makes: its line, or each of its word groups (R287). -/
def Loc.requests (l : Loc) (n : Nat) : List Loc :=
  match l with
  | .scratch off => (List.range ((off % 4 + n + 3) / 4)).map fun k => .scratch (off / 4 * 4 + 4 * k)
  | l => [l]

/-- One request for each distinct line or word group, in lane order (R287). -/
def distinctLines (ls : List Loc) : List Loc := ls.foldl (fun l x => if l.any fun m => m.sameRequest x then l else l ++ [x]) []

def State.addFills (s : State) (mode : AccMode) (write : Bool) (n : Nat) (ls : List Loc) : State :=
  (distinctLines ((ls.map fun l => l.requests n).flatten)).foldl (fun s l => s.addFill mode write l) s

/-- A counted memory instruction retires (R31, R273): r, and GCLK with TCLK's accumulator when r reaches N. -/
def State.countRetire (s : State) : State :=
  let n := s.gg.nC * s.gg.nT
  if s.gg.ret + 1 < n then { s with gg := { s.gg with ret := s.gg.ret + 1 } }
  else
    let p := s.myPart
    ({ s with gg := { s.gg with ret := 0, gclk := s.gg.gclk + 1 } }).setPart { p with tacc := p.tacc + 1 }

/-- The lanes of a mask, ascending. -/
def lanesOf (m : BitVec 32) : List (Fin 32) := (List.finRange 32).filter fun i => m.getLsbD i
/-- The lowest lane of a mask. -/
def lowLane (m : BitVec 32) : Nat := match lanesOf m with
  | [] => 0
  | l :: _ => l

/-! ### Data that cannot be read (R433, R448, R522) -/

/-- The UNIT of an uncorrectable error a read of the line meets (R448, R522); an error in a clean L1 or RDC copy is corrected instead. -/
def State.lineError (s : State) (core pa : Nat) : Option Nat :=
  if s.away pa then some 9
  else
    match s.bad.find? fun b => b.1 == lineOf pa with
    | some (_, 2) =>
      match (s.cache core).find (lineOf pa) with
      | some l => if l.dirty = 0 then none else some 2
      | none => none
    | some (_, 4) => none
    | some (_, u) => some u
    | none => none

/-- Names in `bad` of 128-byte lines that are not memory (log 9): of a core's scratchpad by offset in the gang's share, and of the ACS. -/
def Gang.coreNo (g : Gang) (c : Nat) : Nat := 8 * g.cluster + g.core0 + c
def Gang.padLine (g : Gang) (off : Nat) : Nat := 2 ^ 46 + g.coreNo (off / 2 ^ 20) * 2 ^ 13 + off % 2 ^ 20 / 128
def Gang.acsLine (g : Gang) (off : Nat) : Nat := 2 ^ 47 + g.coreNo (off / 2 ^ 18) * 2 ^ 11 + off % 2 ^ 18 / 128

/-- The machine check of the lowest lane whose data cannot be read (R433, R448). -/
def State.dataErr (s : State) (one : Bool) (as : List (Nat × Word64)) : List (Nat × Loc) → Option Stop
  | [] => none
  | (lane, .phys pa _) :: r =>
    match s.lineError s.req.core pa with
    | some u =>
      some (.trap { cause := 11, lane := if one then none else some lane, addr := ((as.find? fun a => a.1 == lane).map Prod.snd).getD 0,
                    aux := .ofNat 64 u, mcpa := pa })
    | none => s.dataErr one as r
  | (lane, .scratch off) :: r =>
    if s.bad.contains (s.gg.padLine off, 1) then
      .some (.trap { cause := 11, lane := if one then none else some lane, addr := ((as.find? fun a => a.1 == lane).map Prod.snd).getD 0,
                     aux := 1 })
    else s.dataErr one as r
  | _ :: r => s.dataErr one as r

/-! ### Lane 0's private memory, as trap frames and path-stack entries use it (R150, R437) -/

/-- Troupe-scope accesses of ND 15. -/
def troupeMode : AccMode := { scope := .troupe }

/-- Where byte `off` of lane 0's private memory lands for an access. -/
def State.lane0 (s : State) (off : Nat) (acc : AccKind) : Except Stop (Loc × State) :=
  s.place none 0 (0xFFFFFE0000000000 + .ofNat 64 off) acc

/-- Troupe-scope stores of lane 0 enter the stream, 8 bytes each, the first at a location (R150, R211, R437); `stack`: of a path-stack entry. -/
def State.lane0Write (s : State) (stack : Bool) (va : Word64) (l : Loc) (n v : Nat) : State :=
  let at_ := List.range (n / 8)
  let va := s.heldVa 0 va
  let s := s.enter (at_.map fun k => { lanes := 1, lane := 0, path := s.pmask ||| 1, va := va + .ofNat 64 (8 * k), loc := l.plus (8 * k), size := 8,
                                       data := v / 2 ^ (64 * k) % 2 ^ 64, mode := troupeMode, stack := stack })
  s.addFills troupeMode true 8 (at_.map fun k => l.plus (8 * k))

/-- `n` bytes of lane 0's private memory as its troupe-scope loads read them (R150); no load of lane 0 that bound on them ahead still stands
(R310). -/
def State.lane0Read (s : State) (l : Loc) (n : Nat) : Nat × State :=
  let s := (s.settle 1 [(0, l)] n).forgetAt 1 l n s.tr.ins
  (s.loadNat 1 .troupe l n, s.addFills troupeMode false n [l])

/-! ### Taking an exception (R434 to R442) -/

def attNat (o : Option (BitVec 25)) : Nat := (o.getD 0).toNat
def attBit (o : Option (BitVec 25)) (k : Nat) : Nat := if o.isSome then 2 ^ k else 0

/-- The 192 bytes of an error record (R439 to R441), byte 0 lowest. -/
def ErrRec.bytes (e : ErrRec) : Nat :=
  let flags := (if e.dlen = 0 then 0 else 128) + (if e.dtr then 64 else 0) + (if e.ft then 32 else 0) + (if e.slotQ then 16 else 0) +
    (if e.lane.isSome then 8 else 0) + (if e.imp then 4 else 0) + (if e.sysp then 2 else 0)
  let pav := attBit e.attQ.hint 7 + attBit e.attQ.limm 6 + attBit e.attQ.ord 5 + attBit e.attQ.pfx 4 +
    attBit e.attP.hint 3 + attBit e.attP.limm 2 + attBit e.attP.ord 1 + attBit e.attP.pfx 0
  e.cause % 2 ^ 8 * 2 ^ 504 + flags * 2 ^ 496 + (e.lane.getD 0) % 32 * 2 ^ 491 + e.word.toNat * 2 ^ 456 + e.pc % 2 ^ 48 * 2 ^ 408 +
    pav * 2 ^ 400 + e.gang % 2 ^ 32 * 2 ^ 368 + e.troupe % 2 ^ 9 * 2 ^ 359 + e.addr.toNat * 2 ^ 288 + e.aux.toNat * 2 ^ 224 +
    attNat e.attP.pfx * 2 ^ 199 + attNat e.attP.ord * 2 ^ 174 + attNat e.attP.limm * 2 ^ 149 + attNat e.attP.hint * 2 ^ 124 +
    attNat e.attQ.pfx * 2 ^ 99 + attNat e.attQ.ord * 2 ^ 74 + attNat e.attQ.limm * 2 ^ 49 + attNat e.attQ.hint * 2 ^ 24 +
    e.detail % 2 ^ (8 * 128) * 2 ^ 512

/-- The address a handler resumes at (R437): past BRK and SYS, at the word otherwise. -/
def ErrRec.resume (e : ErrRec) : Nat := if e.cause = 9 ∨ e.cause = 10 then e.pc + 4 else e.pc

/-- The record as the trap of the path in focus fills it. -/
def State.fillRec (s : State) (e : ErrRec) : ErrRec :=
  { e with gang := s.gg.gidx.toNat, troupe := s.tr.idx, slotQ := s.sel == .Q, sysp := s.gg.sys, attP := s.tr.p.att, attQ := s.tr.q.att,
           cycle := s.cycle }

/-- A list of waiting wide instructions without some paths; whether its head has left. -/
def leaveWide (p : PathId → Bool) (l : List (PathId × Nat × Option PriceBasis)) : List (PathId × Nat × Option PriceBasis) × Bool :=
  (l.filter fun w => !p w.1, match l with
    | [] => false
    | w :: _ => p w.1)

/-- Paths leave their core's wide instructions (R234, R235): with a head goes its pledge, and the next is head from now. -/
def Core.leave (c : Core) (ring : Nat) (p : PathId → Bool) : Core :=
  let u := leaveWide p c.wide
  let f := leaveWide p c.wideSys
  let c := { c with wide := u.1, wideSys := f.1 }
  let c := if u.2 then { c with headAt := ring, passes := 0, pledge := false } else c
  if f.2 then { c with headAtSys := ring, passesSys := 0, pledgeSys := false } else c

def State.dropWide (s : State) (p : PathId → Bool) : State := { s with cores := s.cores.map fun c => c.leave s.ring p }
/-- The paths of the troupe in focus. -/
def State.mine (s : State) (p : PathId) : Bool := p.gang == s.gg.uid && p.troupe == s.tr.idx

/-- A troupe of a system gang resident on the core (R228). -/
def State.sysOn (s : State) (core : Nat) : Bool :=
  s.allGangs.any fun g => g.sys && (s.troupesOf g).any fun t => !t.ended && coreOf g t == core

/-- The firmware purses of cores without a resident system troupe are zero (R228). -/
def State.clearFwPurses (s : State) : State :=
  { s with cores := s.cores.map fun c => if s.sysOn c.core then c else { c with fwPurse := 0 } }

/-- A slot whose gang ends in error: a path with an instruction that has issued and is not complete goes on to complete it; every other stops
(R438). -/
def Slot.halt (x : Slot) : Slot := if x.live && !x.frozen && !x.hand && x.issued.isSome then x else {}
/-- A troupe of a gang that ends in error: over once no path has an instruction to complete. -/
def Troupe.halt (t : Troupe) : Troupe :=
  { t with p := t.p.halt, q := t.q.halt, psp := 0, park := none, ended := !(t.p.halt.live || t.q.halt.live) }

/-- The entries of the monitor pool that the sleepers of a troupe hold (R300, R473). -/
def Troupe.monitors (t : Troupe) : Nat :=
  let held (x : Slot) : Nat := match x.sleep with
    | some (.waitc _ _ _ _ _ entry _ _) => if x.live && entry then 1 else 0
    | _ => 0
  held t.p + held t.q

/-- A gang ends in error (R438): every troupe stops, its monitor entries given back; the record kept is the earliest's, ties to the lowest
troupe. -/
def State.endInError (s : State) (uid : Nat) (e : ErrRec) : State :=
  let halt := Troupe.halt
  let held := ((s.gang? uid).map fun g => ((s.troupesOf g).map Troupe.monitors).sum).getD 0
  let part := ((s.gang? uid).map Gang.part).getD 63
  let s := if held = 0 then s else s.setPart { s.part part with used := { (s.part part).used with monitor := (s.part part).used.monitor - held } }
  let keep (g : Gang) : Option ErrRec :=
    match g.err with
    | some o => if e.cycle < o.cycle ∨ (e.cycle = o.cycle ∧ e.troupe < o.troupe) then some e else some o
    | none => some e
  let s := (s.updGang uid fun g => { g with err := keep g, troupes := g.troupes.map halt }).dropWide fun p => p.gang == uid
  (if s.gg.uid = uid then { s with tr := halt s.tr } else s).clearFwPurses

/-- The trap frame's bytes (R437): record, old s61, resume address, zeros. -/
def frameNat (e : ErrRec) (s61 : Word64) : Nat := e.bytes + s61.toNat * 2 ^ 1536 + e.resume % 2 ^ 64 * 2 ^ 1600

/-- A slot whose instruction has stopped: it holds no issued instruction any more. -/
def Slot.stopped (x : Slot) : Slot := { x with walking := false, issued := none, hand := false, wrap := none }

/-- The misses an instruction of the path in focus parks its troupe on (R436): fault records written, attachments still pending. -/
def State.parkOn (s : State) (ms : List PageMiss) (frame : Option (SlotId × ErrRec)) (word : BitVec 32 := 0) : State :=
  let fs := ms.map fun m => ({ num := 0, miss := m, src := if m.rec_ then .record else .troupe, qix := s.gg.q, gang := s.gg.gidx.toNat,
                               troupe := s.tr.idx, pc := s.pc.toNat } : PFault)
  let s := s.setCur s.cur.stopped
  let (ns, s) := (s.dropWide s.mine).recordFaults s.gg.part fs
  { s with tr := { s.tr with park := some ⟨ns, frame, s.sel, word, ns.zip ms⟩ } }

/-- A path enters its handler with record `r`, its frame written at `base` (R437, R442): s61, PC, the vector cleared, the sibling frozen; a
system trap also saves the resume address and the attachments. -/
def State.vectored (s : State) (r : ErrRec) (base : Word64) (target : BitVec 48) : State :=
  let att := s.cur.att
  let s := s.wS 61 base
  let s := s.setCur { s.cur with pc := target, att := {}, walked := [], waits := false, refused := false }
  let s := s.setSibling { s.sibling.stopped with frozen := s.sibling.live }
  if s.gg.sys then
    { s with ctl := { s.ctl with
        sepc := .ofNat 48 r.resume, stvec := 0,
        satt0 := .ofNat 64 (attBit att.pfx 63 + attBit att.ord 62 + attNat att.ord * 2 ^ 25 + attNat att.pfx),
        satt1 := .ofNat 64 (attBit att.limm 63 + attBit att.hint 62 + attNat att.hint * 2 ^ 25 + attNat att.limm) } }
  else { s with tr := { s.tr with trapvec := 0 } }

/-- The vectoring of a trap whose record is filled in (R437, R442): its frame, and the handler. A frame write that misses parks; one that fails
otherwise ends the gang. -/
def State.vector (s : State) (e : ErrRec) : State :=
  let target := if s.gg.sys then s.ctl.stvec else s.tr.trapvec
  if target = 0 ∨ e.cause = 12 ∨ s.gg.err.isSome then s.endInError s.gg.uid e
  else
    let base : Word64 := if s.gg.sys then s.ctl.stframe else 0xFFFFFE0000000000
    match s.placeBy true none 0 base .write with
    | .error (.park ms) => s.parkOn ms (some (s.sel, e))
    | .error _ => s.endInError s.gg.uid e
    | .ok (l, s) =>
      (s.lane0Write false base l 256 (frameNat e (s.rS 61))).vectored e base target

/-- Where a machine check's unit lies (R449): a cluster, or 16 + the stack for a base-die unit. -/
def mcPlace (core pa unit : Nat) : Nat :=
  if unit = 5 ∨ unit = 6 ∨ unit = 8 then 16 + paStack pa
  else if unit = 3 then (l2Slice pa - 128) / 4
  else if unit = 4 then rdcSlice pa - 192
  else core / 8

/-- Appends a machine-check record and sets EVENT bit 0 (R448, R449). -/
def State.machineCheck (s : State) (core part pa unit : Nat) (prec : Bool) : State :=
  let v := s.cycle % 2 ^ 64 * 2 ^ 448 + pa % 2 ^ 52 * 2 ^ 396 + unit % 16 * 2 ^ 392 + part % 64 * 2 ^ 386 + (if prec then 2 ^ 384 else 0) +
    mcPlace core pa unit % 256 * 2 ^ 376
  let s := s.writeFlat 63 (s.ctl.mcring.toNat + 64 * (s.ctl.mctail.toNat % 64)) 64 v
  { s with ctl := { s.ctl with mctail := s.ctl.mctail + 1, event := s.ctl.event ||| 1 } }

/-- A matrix-engine lease of the troupe in focus ends once the work issued under it so far has completed (R133, R368, R379). -/
def State.dropLease (s : State) : State :=
  { s with cores := s.cores.map fun c => if c.lease = some (s.gg.uid, s.tr.idx) then { c with mrel := c.mrel.or (some s.nextUid) } else c }

/-- Taking an exception: the one operation every trap goes through (R434, R437, R438, R442). The state is that before the instruction. -/
def State.takeTrap (s : State) (e : ErrRec) : State :=
  let t := s.fillRec e
  let s := ((s.setCur s.cur.stopped).dropWide s.mine).dropLease
  (if e.cause = 11 then s.machineCheck s.req.core s.gg.part e.mcpa e.aux.toNat true else s).vector t

/-- The attachments SATT0 and SATT1 hold (R444, R446). -/
def Ctl.att (c : Ctl) : Pend :=
  let get (v : BitVec 64) (bit lo : Nat) : Option (BitVec 25) := if v.getLsbD bit then some (v.extractLsb' lo 25) else none
  { pfx := get c.satt0 63 0, ord := get c.satt0 62 25, limm := get c.satt1 63 0, hint := get c.satt1 62 25 }

/-- Returning from an exception (R446): the path at SEPC with the saved attachments pending. -/
def State.returnFromTrap (s : State) : State := s.setCur { s.cur with pc := s.ctl.sepc, att := s.ctl.att }

/-- A frozen sibling goes on: an MTS of TRAPVEC, an MTC of STVEC, or the slot's end (R437, R442). -/
def State.unfreeze (s : State) : State :=
  let thaw (x : Slot) : Slot := if x.frozen then { x with frozen := false, readyAt := s.cycle } else x
  { s with tr := { s.tr with p := thaw s.tr.p, q := thaw s.tr.q } }

end Sys2Proof.Machine
end

