-- ==== Sys2Proof/Machine/Operands.lean ====
section
/-!
DEFINITION. Attachments and operand forms: what binds to what (R40 to R45), immediates (R36, R44), the lanes an instruction writes (R42),
rounding modes and random bits (R90, R92), and the frame every troupe instruction runs in (R17 to R21, R434).
-/

namespace Sys2Proof.Machine

/-! ### Attachments bound (R39 to R45) -/

/-- A bound PFX (R41): mask, zeroing, rounding override (0 none), third source. -/
structure Pfx where
  k  : KReg := 0
  z  : Bool := false
  rm : Nat := 0
  vc : VReg := 0
  deriving DecidableEq, Repr

/-- The attachments bound to an instruction. -/
structure Bound where
  pfx  : Option Pfx := none
  /-- The effect of ORD: its defaults where none is bound (R43). -/
  ord  : AccMode := {}
  hasOrd : Bool := false
  limm : Option (BitVec 25) := none
  deriving DecidableEq, Repr

def pfxOf (p : BitVec 25) : Pfx :=
  { k := p.extractLsb' 22 3, z := p.getLsbD 21, rm := (p.extractLsb' 18 3).toNat, vc := p.extractLsb' 11 7 }

def scopeOfCode : Nat → OrdScope
  | 0 => .troupe | 1 => .gang | 2 => .device | _ => .system
def orderOfCode : Nat → OrdOrder
  | 0 => .relaxed | 1 => .acquire | 2 => .release | _ => .acqRel

def ordOf (p : BitVec 25) : AccMode :=
  { scope := scopeOfCode (bitsOf p.toNat 24 22), order := orderOfCode (bitsOf p.toNat 21 20), nd := p.extractLsb' 16 4 }

def Pend.bound (a : Pend) : Bound :=
  { pfx := a.pfx.map pfxOf, ord := (a.ord.map ordOf).getD {}, hasOrd := a.ord.isSome, limm := a.limm }

/-- What of an instruction the frame of every instruction looks at: its code of R34 and R49, its word, whether the word's fields are in
range, the vector registers it names, and three marks: system privilege (R51), a LIMM may bind outside the scalar accesses (R40), and a PFX
must be empty (VEXT, R194). -/
structure Form where
  maj   : Nat
  code  : Nat
  word  : BitVec 32
  wf    : Bool
  vregs : List (VReg × Nat)
  priv  : Bool
  limm  : Bool
  bare  : Bool
  deriving DecidableEq, Repr

/-- Instructions of system privilege (R51). -/
def privileged : Instr → Bool
  | .eret | .tlbi _ _ | .idle | .mfc _ _ | .mtc _ _ => true
  | _ => false

/-- Where LIMM binds beside the scalar accesses (R40). -/
def limmBinds : Instr → Bool
  | .addi _ _ _ | .andi _ _ _ | .ori _ _ _ | .xori _ _ _ | .slti _ _ _ | .movi _ _ | .addpc _ _ | .vmovi _ _ | .setfmt _
  | .br _ | .brc _ _ _ | .call _ | .brv _ _ | .jpt _ | .bany _ _ | .ball _ _ => true
  | _ => false

def isVext : Instr → Bool
  | .vext _ _ _ => true
  | _ => false

def formOf (i : Instr) : Form := ⟨i.major, i.code, i.word, i.wellFormed, i.vregs, privileged i, limmBinds i, isVext i⟩

/-- The form of an instruction of format A without vector registers. -/
def formA (maj fn d a b : Nat) : Form := ⟨maj, fn, .ofNat 32 (encA maj fn d a b), true, [], false, false, false⟩

/-- The three-source instructions of R170. -/
def threeSource (i : Form) : Bool :=
  match i.maj, i.code with
  | 0x20, 3 | 0x20, 4 | 0x20, 5 | 0x20, 13 => true
  | 0x21, 3 | 0x21, 4 | 0x21, 5 | 0x22, 3 | 0x22, 4 | 0x22, 5 => true
  | 0x24, 5 => true
  | 0x26, 11 => true
  | 0x2B, _ => true
  | _, _ => false

/-- Where a nonzero rm is illegal (R41, R194). -/
def noRm (i : Form) : Bool :=
  match i.maj, i.code with
  | 0x29, 5 | 0x29, 7 | 0x29, 10 | 0x29, 11 | 0x29, 13 | 0x29, 15 => true
  | 0x29, _ => false
  | 0x2B, 0 | 0x2B, 1 => true
  | 0x2B, _ => false
  | m, _ => (0x23 ≤ m && m ≤ 0x28) || m = 0x2C || m = 0x2D

def pfxOk (i : Form) (vregs : Nat) (p : BitVec 25) : Bool :=
  let x := pfxOf p
  (0x20 ≤ i.maj && i.maj ≤ 0x2D) && (threeSource i || x.vc == 0) && (!(noRm i) || x.rm == 0) &&
    (!(threeSource i) || x.vc.toNat < vregs) && (!i.bare || p == 0)

/-- Where ORD binds (R40). -/
def takesOrd (i : Form) : Bool :=
  let m := i.maj
  (0x10 ≤ m && m ≤ 0x1A) || (0x50 ≤ m && m ≤ 0x5D) || (m == 0x5E && i.code ≤ 10) || (0x60 ≤ m && m ≤ 0x62) ||
    (m == 0x66 && i.code ≤ 2)

/-- The rules of R43 on the order and nd in force at an instruction that takes ORD. -/
def orderOk (i : Form) (b : Bound) : Bool :=
  let m := i.maj
  let o := b.ord.order
  if (0x10 ≤ m && m ≤ 0x16) || (0x50 ≤ m && m ≤ 0x56) then !isRelease o && b.ord.nd == 15
  else if (0x17 ≤ m && m ≤ 0x1A) || (0x57 ≤ m && m ≤ 0x5B) then !isAcquire o && b.ord.nd == 15
  else if m == 0x5E then
    match i.code with
    | 4 | 5 | 6 | 7 => !isRelease o
    | 8 => o != .relaxed
    | 9 | 10 => o == .relaxed
    | _ => true
  else true

/-- Where LIMM binds (R40). -/
def takesLimm (i : Form) : Bool := (0x10 ≤ i.maj && i.maj ≤ 0x1A) || i.limm

/-- Whether every pending attachment may bind to the instruction (R40, R41, R43). -/
def bindOk (i : Form) (vregs : Nat) (a : Pend) : Bool :=
  (match a.pfx with
   | none => true
   | some p => pfxOk i vregs p) &&
  (a.ord.isNone || takesOrd i) && (!(takesOrd i) || orderOk i a.bound) && (a.limm.isNone || takesLimm i)

/-- Every vector register the instruction names lies inside the allocation (R35). -/
def inAlloc (i : Form) (vregs : Nat) : Bool := i.vregs.all fun (r, n) => r.toNat + n ≤ vregs

/-- The checks of step 3 that any instruction meets (R21, R35, R51, R52, R40 to R43). -/
def step3Ok (i : Form) (s : State) : Bool :=
  i.wf && inAlloc i s.gg.vregs && (s.gg.sys || !i.priv) && bindOk i s.gg.vregs s.cur.att

/-! ### Immediates (R36, R44) -/

/-- The field, or the LIMM-combined value, sign-extended to 64 bits. -/
def immS {w : Nat} (b : Bound) (f : BitVec w) : Word64 :=
  match b.limm with
  | none => f.signExtend 64
  | some h => (h ++ f).signExtend 64
/-- The same, zero-extended. -/
def immZ {w : Nat} (b : Bound) (f : BitVec w) : Word64 :=
  match b.limm with
  | none => f.setWidth 64
  | some h => (h ++ f).setWidth 64
/-- A displacement's target: 4 times the value beyond the instruction word (R36, R126). -/
def State.target {w : Nat} (s : State) (b : Bound) (f : BitVec w) : Word64 := s.pc64 + (immS b f <<< 2)

/-- A valid target (R16). -/
def validTarget (t : Word64) : Bool := t.toNat < 2 ^ 48 && t.toNat % 4 == 0

/-! ### Lanes written (R42, R168) -/

/-- The write mask m of R42. -/
def wmask (b : Bound) (s : State) : BitVec 32 :=
  match b.pfx with
  | none => s.pmask
  | some p => if p.k = 0 then s.pmask else s.rK p.k &&& s.pmask

/-- The lanes of the path that zeroing clears (R42). -/
def zmask (b : Bound) (s : State) : BitVec 32 :=
  match b.pfx with
  | some p => if p.z then s.pmask &&& ~~~wmask b s else 0
  | none => 0

/-- A vector destination written by R42: results in m, zeros or the old contents in the rest of the path. -/
def State.writeLanes (s : State) (b : Bound) (d : VReg) (f : Fin 32 → Word32) : State :=
  s.wV d (wmask b s ||| zmask b s) fun l => if (wmask b s).getLsbD l then f l else 0

/-- A destination group written per lane in every register (R168); `f` reads the state before the instruction. -/
def State.writeGroup (s : State) (b : Bound) (d : VReg) (f : Nat → Fin 32 → Word32) : Nat → State
  | 0 => s
  | n + 1 => (s.writeGroup b d f n).writeLanes b (VReg.plus d n) (f n)

/-- A mask of the lanes for which a predicate holds. -/
def maskOf (p : Fin 32 → Bool) : BitVec 32 := BitVec.ofFnLE p

/-- A mask destination written by R42. -/
def State.writeMask (s : State) (b : Bound) (d : KReg) (p : Fin 32 → Bool) : State :=
  s.wK d (wmask b s ||| zmask b s) (maskOf p &&& wmask b s)

/-- The third source of R170. -/
def State.third (s : State) (b : Bound) (d : VReg) (l : Fin 32) : Word32 :=
  match b.pfx with
  | some p => s.rV p.vc l
  | none => s.rV d l

/-! ### Rounding modes and random bits (R90, R92) -/

def modeOfCode : Nat → RMode
  | 1 => .rne | 2 => .rtz | 3 => .rdn | 4 => .rup | 5 => .rna | 6 => .sr | _ => .rne

/-- The mode of the path's FMT (R141): RM codes 0 to 5 in the order of R87. -/
def fmtMode (fmt : BitVec 32) : RMode := modeOfCode (bitsOf fmt.toNat 2 0 + 1)
/-- The mode of a vector rounding instruction (R90). -/
def vmode (b : Bound) (s : State) : RMode :=
  match b.pfx with
  | some p => if p.rm = 0 then fmtMode s.cur.fmt else modeOfCode p.rm
  | none => fmtMode s.cur.fmt
/-- The mode of a scalar one: an FMT of SR rounds RNE (R90). -/
def smode (s : State) : RMode :=
  match fmtMode s.cur.fmt with
  | .sr => .rne
  | m => m

/-- The global id of a lane (R92). -/
def State.gid (s : State) (l : Fin 32) : Word64 :=
  s.gg.gidx.setWidth 64 * 2 ^ 14 + .ofNat 64 (s.tr.idx * 32 + l)
/-- The n-th value the lane draws next (R92). -/
def State.drawn (s : State) (l : Fin 32) (n : Nat) : Word64 := mix s.gg.srseed (s.gid l) (s.tr.draw.get l + .ofNat 64 n)
/-- The 16 random bits of element k (R92). -/
def State.rho (s : State) (l : Fin 32) (k : Nat) : Nat := (s.drawn l (k / 4)).toNat / 2 ^ (16 * (k % 4)) % 2 ^ 16
/-- The draw counters of the lanes of m advanced by n. -/
def State.advanceDraws (s : State) (m : BitVec 32) (n : Nat) : State :=
  { s with tr := { s.tr with draw := Vector.ofFn fun l => if m.getLsbD l then s.tr.draw.get l + .ofNat 64 n else s.tr.draw.get l } }
/-- A rounding instruction's draws: ceil(n/4) values in each lane it writes, under SR only (R171). -/
def State.drawFor (s : State) (b : Bound) (n : Nat) : State :=
  if vmode b s = .sr then s.advanceDraws (wmask b s) ((n + 3) / 4) else s

/-! ### The frame of a troupe instruction -/

/-- HINT's effect when its instruction issues (R45, R163, R241): the nudge, or the start of the matrix engine's ramp. -/
def State.applyHint (s : State) (h : Option (BitVec 25)) : State :=
  match h with
  | none => s
  | some p =>
    match bitsOf p.toNat 24 21 with
    | 0 =>
      let n : BitVec 2 := if bitsOf p.toNat 1 0 = 3 then 0 else .ofNat 2 (bitsOf p.toNat 1 0)
      s.setCur { s.cur with nudge := n }
    | 1 =>
      let c := s.core s.req.core
      let hold := if bitsOf p.toNat 9 0 = 0 then 1024 else bitsOf p.toNat 9 0
      match c.ramp with
      | .idle => s.setCore { c with ramp := .ramping s.cycle hold }
      -- the larger of the two holds (log 89)
      | .ramping t h => s.setCore { c with ramp := .ramping t (max h hold) }
      | .ramped u => s.setCore { c with ramp := .ramped (max u (s.cycle + hold)) }
    | _ => s

/-! ### NEAR regions (R508 to R513) -/

/-- The instructions a path of a NEAR region runs there (R511). -/
def inNearSubset (i : Form) : Bool :=
  let m := i.maj
  let c := i.code
  (1 ≤ m && m ≤ 0x0E) || (0x10 ≤ m && m ≤ 0x1D) || (m == 0x1E && (c ≤ 5 || c == 8)) || (m == 0x20 && c ≤ 9) ||
    (0x23 ≤ m && m ≤ 0x28) || m == 0x2D || (m == 0x2C && c != 3) || (m == 0x41 && c ≤ 2) || m == 0x42 || (0x45 ≤ m && m ≤ 0x48) ||
    m == 0x4A || m == 0x4B || (0x50 ≤ m && m ≤ 0x5B) || (m == 0x5E && (c == 8 || c == 10)) || m == 0x69 || (0x70 ≤ m && m ≤ 0x73)

/-- An instruction outside the subset ends the region before it runs (R511, R512). -/
def State.leavesNear (s : State) (i : Form) : Bool := s.cur.near.isSome && !(inNearSubset i)

/-- The private offset of path-stack entry n of lane 0, where it is not negative (R150). -/
def State.entryOff (s : State) (n : Nat) : Option Nat :=
  if 32 * (n + 1) ≤ s.myPart.z then some (s.myPart.z - 32 * (n + 1)) else none

/-- The mask stack's entries written to private memory (R509). -/
def State.writeMaskStack (s : State) : List (Nat × Nat) → Except Stop State
  | [] => .ok s
  | (n, e) :: r =>
    match s.entryOff n with
    | none => .error (addrFault 0)
    | some off =>
      match s.lane0 off .write with
      | .error x => .error x
      | .ok (l, s) => (s.lane0Write true (0xFFFFFE0000000000 + .ofNat 64 off) l 32 e).writeMaskStack r

/-- Walks a core may have under way (R454). -/
def walkSlots : Nat := 64

/-- A slot whose instruction has issued and is not complete at a CYCLE. -/
def Slot.hasIssued (x : Slot) (cycle : Nat) : Slot := { x with issued := x.issued.or (some cycle), hand := false }

/-- The walk of a page for a core that the present accesses of a privilege would join (R454). -/
def Walk.isFor (w : Walk) (core part : Nat) (sys : Bool) (va : Nat) : Bool :=
  w.core == core && w.part == part && w.sys == sys && w.va / 4096 == va / 4096

/-- The path in focus waits for a page walk, one in progress or a new one; with no slot free it tries again (R454). -/
def State.beginWalk (s : State) (va : Nat) (acc : AccKind) : State :=
  let same (w : Walk) : Bool := w.isFor s.req.core s.gg.part s.gg.sys va
  -- until its walk ends the path has no wide instruction ready (R234)
  let s := (s.dropWide fun p => p == s.me).setCur (s.cur.hasIssued s.cycle)
  let on := s.setCur { s.cur with walking := true }
  if s.walks.any same then { on with walks := s.walks.map fun w => if same w then { w with who := w.who ++ [s.me] } else w }
  else if walkSlots ≤ (s.walks.filter fun w => w.core == s.req.core).length then s.setCur { s.cur with waits := true }
  else { on with walks := s.walks ++ [{ core := s.req.core, part := s.gg.part, sys := s.gg.sys, va := va, acc := acc, who := [s.me] }] }

/-- The accesses a region has made have performed, and the DD's view has them (R24, R503, R512). -/
def State.nearDone (s : State) : State :=
  let s := s.drain (.allOnes 32)
  let dom := s.req.dom
  s.releaseHeld fun h => !h.views.contains dom

/-- The region ends (R509, R512): its accesses have performed, the mask stack is in private memory, and the troupe goes on at home after a
device-scope acquire, at the same word. A mask-stack write that misses a page parks the troupe, and the region ends on the replay. -/
def State.endNear (s : State) : State :=
  let s := s.nearDone
  let home (s : State) : State :=
    { s with tr := { s.tr with p := { s.tr.p with near := none }, q := { s.tr.q with near := none } } }
  match (home s).writeMaskStack s.tr.nearStack with
  | .ok t => { t with tr := { t.tr with nearStack := [], nearCopy := none } }.acquire (.allOnes 32) .device t.tr.ins
  | .error (.park ms) => s.parkOn ms none
  | .error (.trap e) => let t := home s; ({ t with tr := { t.tr with nearStack := [], nearCopy := none } }).takeTrap { e with pc := s.pc.toNat }
  | .error (.walk va acc) => s.beginWalk va acc

/-! ### How an instruction ends -/

/-- The last word address below the top of memory (R18). -/
def topPc : BitVec 48 := 0xFFFFFFFFFFFC

/-- The sibling has an instruction that has issued and is not complete, and whose own stop, if one is in hand, comes first (R434 to R436). -/
def State.siblingFirst (s : State) : Bool :=
  let y := s.sibling
  y.live && !y.frozen && y.issued.isSome && (!y.hand || decide (y.issued.getD 0 < s.cur.issued.getD s.cycle))

/-- A trap is not taken while the sibling's issued instruction is not complete and may trap itself (R434, R435), nor while ORD acquire holds
back the frame's writes (R344): the trapping instruction issues again later. -/
def State.trapWaits (s : State) : Bool := s.siblingFirst || s.heldBack 1

/-- The path in focus has to wait to issue. -/
def State.mustWait (s : State) : State := s.setCur { s.cur with waits := true, issued := none, hand := false }
/-- The path in focus waits with its stop in hand. -/
def State.holdStop (s : State) : State := s.setCur { s.cur.hasIssued s.cycle with waits := true, hand := true }

/-- A slot whose instruction has completed. -/
def Slot.onward (x : Slot) : Slot := { x with walked := [], waits := false, issued := none, hand := false }

/-- The path goes on at the word after an instruction word; at the top of memory the sequential fetch traps (R18), once no trap in hand comes
first (R434). -/
def State.advanceWord (s : State) (w : BitVec 32) : State :=
  if s.pc = topPc then
    let s := if s.cur.near.isSome then s.endNear else s
    if s.trapWaits then s.setCur { s.cur.onward with wrap := some w, waits := true }
    else s.takeTrap { cause := 2, ft := true, pc := topPc.toNat, addr := topPc.setWidth 64, word := w }
  else s.setCur { s.cur.onward with pc := s.pc + 4 }

/-- A precise stop of the instruction (R434): the state is that before it, its attachments still pending. In a NEAR region it ends the
region, and the instruction executes again at home (R512). -/
def State.stopWord (s : State) (w : BitVec 32) (x : Stop) : State :=
  match x with
  | .walk va acc => s.beginWalk va acc
  | .trap e =>
    if s.cur.near.isSome then s.endNear
    else if s.trapWaits then s.holdStop
    else s.takeTrap { e with pc := s.pc.toNat, word := w }
  -- a troupe parks once what it has issued is complete (R436)
  | .park ms => if s.cur.near.isSome then s.endNear else if s.siblingFirst then s.holdStop else s.parkOn ms none w

/-- What a meaning's end makes of the state before it. -/
def State.finish (s : State) (w : BitVec 32) : Res → State
  | .done t => t.advanceWord w
  | .jump a t =>
    if validTarget a then t.setCur { t.cur.onward with pc := a.setWidth 48 } else s.stopWord w (misaligned a)
  | .stay t => t.setCur t.cur.onward
  | .stop x => s.stopWord w x
  | .wait f => (f s).mustWait

abbrev Out := Host.Outcome State Fault Refusal

/-- The frame every troupe instruction runs in (R19 to R21): a live path, the checks of step 3, the attachments bound and cleared, the
hint, then the meaning; a stop finds the state as before the instruction. -/
def runForm (i : Form) (s : State) (k : Bound → State → Res) : Out :=
  if !s.cur.live then .fault .noPath
  else if s.leavesNear i then .next s.endNear
  else if !step3Ok i s then .next (s.stopWord i.word illop)
  else
    let a := s.cur.att
    .next (s.finish i.word (k a.bound ((s.setCur { s.cur with att := {} }).applyHint a.hint)))

def run (i : Instr) (s : State) (k : Bound → State → Res) : Out := runForm (formOf i) s k

/-- A meaning without attachments of its own that completes. -/
def simple (i : Instr) (s : State) (f : Bound → State → State) : Out := run i s fun b s => .done (f b s)

/-- A meaning over a stop or a result. -/
def orStop {α : Type} (x : Except Stop α) (k : α → Res) : Res :=
  match x with
  | .ok a => k a
  | .error e => .stop e

end Sys2Proof.Machine
end

