-- ==== Sys2Proof/Machine/Circles.lean ====
section
/-!
DEFINITION. Circles: major 0x49 and the wake of a circle's sleepers (R159, R213 to R219).
-/

namespace Sys2Proof.Machine

def State.circle (s : State) (c : Nat) : Circle := s.gg.circles.get (Fin.ofNat 32 c)
def State.setCircle (s : State) (c : Nat) (x : Circle) : State :=
  { s with gg := { s.gg with circles := s.gg.circles.set (c % 32) x (Nat.mod_lt _ (by decide)) } }

/-- The bit of a troupe in a circle's sets. -/
def troupeBit (t : Nat) : BitVec 512 := .ofNat 512 (2 ^ t)

/-- Whether a record makes a core late: last in 5 or more of the last 8 phases (R240). -/
def Lateness.late (r : Lateness) (core : Nat) : Bool := decide (5 ≤ (r.cores.filter fun c => c == core).length)
/-- Whether the record makes any core late. -/
def Lateness.anyLate (r : Lateness) : Bool := r.cores.any fun c => r.late c

/-- A count of a core. -/
def coreCount (l : List (Nat × Nat)) (core : Nat) : Nat := ((l.find? fun x => x.1 == core).map Prod.snd).getD 0

/-- The record after a completed phase whose last troupe ran on a core (R240): phases counted for each core that is late, the phase
that makes it late the first of them (log 107), and for each that has ceased to be, from the phase after. -/
def Lateness.phase (r : Lateness) (core : Nat) (all : List Nat) : Lateness :=
  let n := { r with cores := (core :: r.cores).take 8 }
  let was (c : Nat) : Bool := r.late c || r.clear.any fun x => x.1 == c
  { n with kept := (all.filter n.late).map fun c => (c, (if r.late c then coreCount r.kept c else 0) + 1),
           clear := (all.filter fun c => !n.late c && was c).map fun c => (c, if r.late c then 0 else coreCount r.clear c + 1) }

/-- The barrier unit's record of who arrived last in a completed phase, for gangs on two or more cores (R240). -/
def State.noteLast (s : State) (last : Nat) : State :=
  if s.gg.nC < 2 then s
  else
    let r := findD Lateness.gang s.gg.uid { gang := s.gg.uid } s.late
    let all := (List.range s.gg.nC).map fun k => 8 * s.gg.cluster + s.gg.core0 + k
    { s with late := upsert Lateness.gang (r.phase (8 * s.gg.cluster + s.gg.core0 + last / s.gg.nT) all) s.late }

/-- A wait on a circle whose phase completes is over, whatever its troupe does before it wakes (R215). -/
def Slot.phaseDone (x : Slot) (c : Nat) : Slot :=
  match x.sleep with
  | some (.circle k w _) => if k.toNat = c then { x with sleep := some (.circle k w true) } else x
  | _ => x

/-- Both slots of every troupe of the gang in focus. -/
def State.mapSlots (s : State) (f : Slot → Slot) : State :=
  let g (t : Troupe) : Troupe := { t with p := f t.p, q := f t.q }
  { s with gg := { s.gg with troupes := s.gg.troupes.map g }, tr := g s.tr }

/-- The paths of the gang in focus that sleep in a second arrival on a circle and have not arrived, in the order they issued (R217); whether each
then waits. -/
def State.secondArrivals (s : State) (c : Nat) : List (Nat × SlotId × Bool) :=
  let of (t : Troupe) (i : SlotId) : Option (Nat × Nat × SlotId × Bool) :=
    match (t.slot i).sleep with
    | some (.arrive k w _ false n) => if k.toNat = c then some (n, t.idx, i, w) else none
    | _ => none
  (sortBy (fun a b => decide (a.1 ≤ b.1)) ((s.troupesOf s.gg).map fun t => [of t .P, of t .Q].filterMap id).flatten).map Prod.snd

/-- A phase completes (R215): it flips, the arrivals and with them every owed bit clear, and its waits are over. -/
def State.flip (s : State) (c : Nat) : State :=
  let x := s.circle c
  ((s.setCircle c { x with phase := !x.phase, arrived := 0 }).mapSlots fun y => y.phaseDone c).noteLast x.last

def State.complete? (s : State) (c : Nat) : Bool := (s.circle c).member != 0 && (s.circle c).arrived == (s.circle c).member

/-- A second arrival arrives once the phase it slept through has completed (R215); its path then waits, or has only to retire. -/
def State.arriveSecond (s : State) (c : Nat) (a : Nat × SlotId × Bool) : State :=
  let x := s.circle c
  let s := s.setCircle c { x with arrived := x.arrived ||| troupeBit a.1, last := a.1 }
  let s := s.updTroupe s.gg.uid a.1 fun t => t.setSlot a.2.1 { (t.slot a.2.1) with sleep := match (t.slot a.2.1).sleep with
    | some (.arrive k w word _ n) => if w then some (.circle k word) else some (.arrive k w word true n)
    | y => y }
  if s.complete? c then s.flip c else s

/-- The phase completes when every member has arrived (R215); then those who sleep in a second arrival arrive. The sleepers wake by
CIRCLE_WAKE. -/
def State.completeIf (s : State) (c : Nat) : State :=
  if s.complete? c then
    let s := s.flip c
    (s.secondArrivals c).foldl (fun s a => s.arriveSecond c a) s
  else s

/-- A gang-scope release of the path's earlier accesses (R219). -/
def State.gangRelease (s : State) : State := s.releaseFor .gang false
/-- A gang-scope acquire for the path (R219). -/
def State.gangAcquire (s : State) : State := s.acquire s.pmask .gang s.tr.ins

/-- The arrival of the troupe in focus (R215). -/
def State.arriveAt (s : State) (c : Nat) : State :=
  let s := s.gangRelease
  let x := s.circle c
  (s.setCircle c { x with arrived := x.arrived ||| troupeBit s.tr.idx, last := s.tr.idx }).completeIf c

/-- The troupe's owed bit for a circle (R214). -/
def State.owed (s : State) (c : Nat) : Bool := (s.circle c).arrived.getLsbD s.tr.idx
def State.isMember (s : State) (c : Nat) : Bool := (s.circle c).member.getLsbD s.tr.idx
/-- The path in focus falls asleep at its instruction. -/
def State.sleepOn (s : State) (a : Asleep) : State := s.setCur { s.cur with sleep := some a }

/-- The wait of CWAIT and CSYNC (R215): asleep while a bit is owed, else the acquire at once. -/
def State.waitOn (s : State) (c : Nat) (word : BitVec 32) : Res :=
  if s.owed c then .stay (s.sleepOn (.circle (.ofNat 5 c) word)) else .done s.gangAcquire

/-- A second arrival sleeps until the phase completes (R215), its earlier accesses released as the arrival releases them. -/
def State.arriveLater (s : State) (c : Nat) (wait : Bool) (word : BitVec 32) : Res :=
  .stay (s.gangRelease.sleepOn (.arrive (.ofNat 5 c) wait word false s.cycle))

/-- A circle instruction's number: s[a] with any bit of [63:5] set traps ILLOP at step 3 (R213). -/
def circleOp (i : Instr) (a : SReg) (s : State) (k : Nat → State → Res) : Out :=
  run i s fun _ s => if 32 ≤ (s.rS a).toNat then .stop (illopAux (s.rS a)) else k (s.rS a).toNat s

/-- R214. -/
def execCjoin (a : SReg) (s : State) : Out :=
  circleOp (.cjoin a) a s fun c s =>
    let x := s.circle c
    -- circle 0 changes only when a troupe ends (R159)
    .done (if c = 0 then s else s.setCircle c { x with member := x.member ||| troupeBit s.tr.idx })

/-- A sleeping sibling's wait on a circle its troupe leaves is over at once (R214): a second arrival retires without arriving. -/
def Slot.leave (x : Slot) (c : Nat) : Slot :=
  match x.sleep with
  | some (.circle k w _) => if k.toNat = c then { x with sleep := some (.circle k w true) } else x
  | some (.arrive k true w _ _) => if k.toNat = c then { x with sleep := some (.circle k w true) } else x
  | some (.arrive k false w _ n) => if k.toNat = c then { x with sleep := some (.arrive k false w true n) } else x
  | _ => x

/-- The troupe in focus leaves a circle (R214). -/
def State.leaveCircle (s : State) (c : Nat) : State :=
  if s.isMember c then
    let x := s.circle c
    let b := troupeBit s.tr.idx
    let s := s.setCircle c { x with member := x.member &&& ~~~b, arrived := x.arrived &&& ~~~b }
    (s.setSibling (s.sibling.leave c)).completeIf c
  else s

/-- R214. CLEAVE 0 traps ILLOP. -/
def execCleave (a : SReg) (s : State) : Out :=
  circleOp (.cleave a) a s fun c s => if c = 0 then .stop (illopAux 0) else .done (s.leaveCircle c)

/-- R215. A non-member traps ILLOP; a second arrival of the troupe in one phase sleeps first. -/
def execCarrive (a : SReg) (s : State) : Out :=
  circleOp (.carrive a) a s fun c s =>
    if !s.isMember c then .stop (illopAux (s.rS a))
    else if s.owed c then s.arriveLater c false (Instr.carrive a).word
    else .done (s.arriveAt c)

/-- R215. -/
def execCwait (a : SReg) (s : State) : Out := circleOp (.cwait a) a s fun c s => s.waitOn c (Instr.cwait a).word

/-- R213, R215. CARRIVE then CWAIT, as one instruction. -/
def execCsync (a : SReg) (s : State) : Out :=
  circleOp (.csync a) a s fun c s =>
    if !s.isMember c then .stop (illopAux (s.rS a))
    else if s.owed c then s.arriveLater c true (Instr.csync a).word
    else (s.arriveAt c).waitOn c (Instr.csync a).word

/-- R218. -/
def execCcount (d a : SReg) (s : State) : Out :=
  circleOp (.ccount d a) a s fun c s =>
    let x := s.circle c
    .done (s.wS d (.ofNat 64 (popNat 512 x.member.toNat + popNat 512 x.arrived.toNat * 2 ^ 16 + if x.phase then 2 ^ 32 else 0)))

/-- The state with a path in focus changed, where there is such a path. -/
def State.onPath (s : State) (p : PathId) (f : State → State) : State :=
  if (s.troupe? p.gang p.troupe).isSome then f (s.focusTo p) else s

/-- The path in focus goes on from its wait: the instruction it slept in retires. -/
def State.wakeUp (s : State) (word : BitVec 32) : State :=
  (s.setCur { s.cur with sleep := none, readyAt := s.cycle }).advanceWord word

/-- R219. A path asleep in a circle wait wakes after its phase has completed: a wait returns with its acquire, a second arrival that has
arrived retires. A frozen path stays asleep (R434), and so does one whose gang is being saved (R484). -/
def execCircleWake (p : PathId) (s : State) : Out :=
  .next (s.onPath p fun s =>
    if !s.cur.live || s.cur.frozen || s.gg.save.isSome then s
    else
      match s.cur.sleep with
      | some (.circle c w done) => if s.owed c.toNat && !done then s else s.gangAcquire.wakeUp w
      | some (.arrive _ _ w done _) => if done then s.wakeUp w else s
      | _ => s)

end Sys2Proof.Machine
end

