-- ==== Sys2Proof/Machine/Paths.lean ====
section
/-!
DEFINITION. Paths: splits, joins, the path stack and EXIT (R144 to R152, R206 to R210, R133).
-/

namespace Sys2Proof.Machine

/-- An entry of the path stack (R151). -/
structure PathEntry where
  kind  : Nat := 0
  nudge : BitVec 2 := 0
  link  : BitVec 32 := 0
  arrived : BitVec 32 := 0
  fmt   : BitVec 32 := 0
  mask  : BitVec 32 := 0
  jpc   : BitVec 48 := 0
  pc    : BitVec 48 := 0
  deriving DecidableEq, Repr

/-- The 32 bytes of an entry (R151). -/
def PathEntry.toNat (e : PathEntry) : Nat :=
  e.kind % 16 * 2 ^ 252 + e.nudge.toNat * 2 ^ 250 + e.link.toNat * 2 ^ 192 + e.arrived.toNat * 2 ^ 160 + e.fmt.toNat * 2 ^ 128 +
    e.mask.toNat * 2 ^ 96 + e.jpc.toNat * 2 ^ 48 + e.pc.toNat

def PathEntry.ofNat (n : Nat) : PathEntry :=
  { kind := bitsOf n 255 252, nudge := .ofNat 2 (bitsOf n 251 250), link := .ofNat 32 (bitsOf n 223 192),
    arrived := .ofNat 32 (bitsOf n 191 160), fmt := .ofNat 32 (bitsOf n 159 128), mask := .ofNat 32 (bitsOf n 127 96),
    jpc := .ofNat 48 (bitsOf n 95 48), pc := .ofNat 48 (bitsOf n 47 0) }

/-- Whether a 32-bit value is a legal FMT (R142). -/
def legalFmt32 (v : BitVec 32) : Bool :=
  decide (v.toNat < 2 ^ 18) && bitsOf v.toNat 5 3 == 0 && bitsOf v.toNat 17 16 != 3 && decide (bitsOf v.toNat 2 0 < 6) &&
    decide (bitsOf v.toNat 15 12 < 12) && decide (bitsOf v.toNat 11 8 < 12)

/-- The validity of R152 for the use a kind stands for. -/
def PathEntry.valid (e : PathEntry) (kind n : Nat) : Bool :=
  e.kind == kind && (kind != 2 || (e.pc.toNat % 4 == 0 && e.arrived == 0)) && e.mask != 0 && (e.arrived &&& ~~~e.mask) == 0 &&
    decide (e.link.toNat ≤ n) && legalFmt32 e.fmt

/-- ILLOP for an invalid entry: its number and its bytes as read (R152, R441). -/
def badEntry (n : Nat) (e : Nat) : Stop := .trap { cause := 1, aux := .ofNat 64 n, detail := e, dlen := 32 }

/-- An entry of the mask stack of a NEAR region (R513); one that is not in private memory yet stands there too (R512). -/
def State.maskEntry (s : State) (n : Nat) : Option Nat := (s.tr.nearStack.find? fun e => e.1 == n).map Prod.snd

/-- An entry read at troupe scope as lane 0 reads it (R150): its 32 bytes. In a NEAR region the mask stack holds its entries (R513). -/
def State.readEntryRaw (s : State) (n : Nat) : Except Stop (Nat × State) :=
  if let some e := s.maskEntry n then .ok (e, s) else
  match s.entryOff n with
  | none => .error (addrFault 0)
  | some off =>
    match s.lane0 off .read with
    | .error x => .error x
    | .ok (l, s) =>
      match s.dataErr true [(0, 0xFFFFFE0000000000 + .ofNat 64 off)] [(0, l)] with
      | some x => .error x
      | none => .ok (s.lane0Read l 32)

/-- An entry written at troupe scope (R150). -/
def State.writeEntry (s : State) (n : Nat) (e : PathEntry) : Except Stop State :=
  if s.cur.near.isSome then .ok { s with tr := { s.tr with nearStack := upsert Prod.fst (n, e.toNat) s.tr.nearStack } } else
  match s.entryOff n with
  | none => .error (addrFault (0xFFFFFE0000000000 + .ofNat 64 s.myPart.z - .ofNat 64 (32 * (n + 1))))
  | some off =>
    match s.lane0 off .write with
    | .error x => .error x
    | .ok (l, s) => .ok (s.lane0Write true (0xFFFFFE0000000000 + .ofNat 64 off) l 32 e.toNat)

/-- PSP falls while the top entry is KIND 0 (R149). -/
def State.popReleased (s : State) : Nat → Except Stop State
  | 0 => .ok { s with tr := { s.tr with psp := 0 } }
  | n + 1 =>
    match s.readEntryRaw n with
    | .error x => .error x
    | .ok (e, s) =>
      if (PathEntry.ofNat e).kind = 0 then s.popReleased n else .ok { s with tr := { s.tr with psp := .ofNat 32 (n + 1) } }

/-- Entry n is released: marked KIND 0, and PSP falls as far as it may (R149). -/
def State.releaseEntry (s : State) (n : Nat) (e : PathEntry) : Except Stop State :=
  match s.writeEntry n { e with kind := 0 } with
  | .error x => .error x
  | .ok s => s.popReleased s.tr.psp.toNat

/-- The search of R148 from entry n − 1 down: the highest path entry. KIND 3 to 15 met on the way is invalid. -/
def State.findPath (s : State) : Nat → Except Stop (Option (Nat × PathEntry) × State)
  | 0 => .ok (none, s)
  | n + 1 =>
    match s.readEntryRaw n with
    | .error x => .error x
    | .ok (raw, s) =>
      let e := PathEntry.ofNat raw
      if e.kind = 2 then (if e.valid 2 n then .ok (some (n, e), s) else .error (badEntry n raw))
      else if 2 < e.kind then .error (badEntry n raw)
      else s.findPath n

/-- The slot in focus is free: the highest spilled path resumes into it, with no attachment pending; the sibling thaws (R148, R437). -/
def State.freeSlot (s : State) : Except Stop State :=
  let near := s.cur.near
  let s := (s.setCur { near := near }).unfreeze
  match s.findPath s.tr.psp.toNat with
  | .error x => .error x
  | .ok (none, s) => .ok (s.setCur {})
  | .ok (some (n, e), s) =>
    match s.releaseEntry n e with
    | .error x => .error x
    | .ok s => .ok (s.setCur { live := true, pc := e.pc, mask := e.mask, fmt := e.fmt, jpc := e.jpc, frame := e.link, nudge := e.nudge,
                               readyAt := s.cycle, near := near })

/-- The JPC of the join entry a link names; 0 for none (R146). The entry is neither resumed nor completed: its validity is not checked
(log 31). -/
def State.linkJpc (s : State) (link : Nat) : Except Stop (BitVec 48 × State) :=
  if link = 0 then .ok (0, s)
  else
    match s.readEntryRaw (link - 1) with
    | .error x => .error x
    | .ok (raw, s) => .ok ((PathEntry.ofNat raw).jpc, s)

/-- A join entry completes (R146): it is released and the merged path stands in the slot in focus. The low two bits of PC are always zero (R16):
those of a JPC that a program has written into the entry take no part (log 109). -/
def State.completeJoin (s : State) (n : Nat) (e : PathEntry) (pc : BitVec 48) : Except Stop State :=
  match s.linkJpc e.link.toNat with
  | .error x => .error x
  | .ok (jpc, s) =>
    match s.releaseEntry n e with
    | .error x => .error x
    | .ok s =>
      let near := s.cur.near
      .ok (s.setCur { live := true, pc := .ofNat 48 (pc.toNat / 4 * 4), mask := e.arrived, fmt := e.fmt, jpc := jpc, frame := e.link, readyAt := s.cycle, near := near })

/-- BRV's split (R145): the join entry, then the child in the other slot or spilled. -/
def State.split (s : State) (t f : BitVec 32) (target : BitVec 48) : Except Stop State :=
  let n := s.tr.psp.toNat
  let x := s.cur
  match s.writeEntry n { kind := 1, jpc := x.jpc, mask := x.mask, fmt := x.fmt, link := x.frame } with
  | .error e => .error e
  | .ok s =>
    let fr : BitVec 32 := .ofNat 32 (n + 1)
    let s := { s with tr := { s.tr with psp := .ofNat 32 (n + 1) } }
    let s := s.setCur { s.cur with mask := f, frame := fr }
    if s.sibling.live || s.cur.near.isSome then
      match s.writeEntry (n + 1) { kind := 2, pc := target, mask := t, fmt := x.fmt, jpc := x.jpc, link := fr, nudge := s.cur.nudge } with
      | .error e => .error e
      | .ok s => .ok { s with tr := { s.tr with psp := .ofNat 32 (n + 2) } }
    else
      .ok (s.setSibling { live := true, pc := target, mask := t, fmt := x.fmt, jpc := x.jpc, frame := fr, nudge := s.cur.nudge,
                          readyAt := s.cycle, near := x.near })

/-- Live levels of the mask stack: its join entries (R513). -/
def State.maskLevels (s : State) : Nat := (s.tr.nearStack.filter fun e => (PathEntry.ofNat e.2).kind == 1).length

/-- R145, R206. -/
def execBrv (k : KReg) (disp : BitVec 14) (s : State) : Out :=
  run (.brv k disp) s fun b s =>
    let t := s.pmask &&& s.rK k
    let f := s.pmask &&& ~~~s.rK k
    let a := s.target b disp
    if t = 0 then .done s
    else if f = 0 then .jump a s
    else if !validTarget a then .stop (misaligned a)
    -- a fifth live level of a NEAR region's mask stack ends the region (R512, R513)
    else if s.cur.near.isSome && decide (4 ≤ s.maskLevels) then .stop illop
    -- ORD acquire holds back the path stack's accesses as any of lane 0's (R344)
    else if s.heldBack 1 then .wait id
    else orStop (s.split t f (a.setWidth 48)) .done

/-- R144, R207, R38. -/
def execJpt (disp : BitVec 25) (s : State) : Out :=
  run (.jpt disp) s fun b s =>
    let a := s.target b disp
    if validTarget a then .done (s.setCur { s.cur with jpc := a.setWidth 48 }) else .stop (misaligned a)

/-- JOIN's effect (R146). -/
def State.join (s : State) : Except Stop (Bool × State) :=
  if s.cur.frame = 0 then .ok (true, s.setCur { s.cur with jpc := 0 })
  else
    let n := s.cur.frame.toNat - 1
    match s.readEntryRaw n with
    | .error x => .error x
    | .ok (raw, s) =>
      let e := PathEntry.ofNat raw
      if e.jpc ≠ s.pc then .ok (true, s.setCur { s.cur with jpc := e.jpc })
      else if !e.valid 1 n then .error (badEntry n raw)
      else
        let e := { e with arrived := e.arrived ||| s.cur.mask }
        if e.arrived = e.mask then (s.completeJoin n e s.pc).map fun s => (false, s.unfreeze)
        else
          match s.writeEntry n e with
          | .error x => .error x
          | .ok s => s.freeSlot.map fun s => (false, s)

/-- R146, R208. A JOIN with nothing to join goes on at the next word; the merged path starts at the JOIN word again. -/
def execJoin (s : State) : Out :=
  run .join s fun _ s => if s.cur.frame != 0 && s.heldBack 1 then .wait id else orStop s.join fun (on, s) => if on then .done s else .stay s

/-- R209. -/
def execBany (k : KReg) (disp : BitVec 14) (s : State) : Out :=
  run (.bany k disp) s fun b s => if s.rK k &&& s.pmask ≠ 0 then .jump (s.target b disp) s else .done s
/-- R209. -/
def execBall (k : KReg) (disp : BitVec 14) (s : State) : Out :=
  run (.ball k disp) s fun b s => if s.pmask &&& ~~~s.rK k = 0 then .jump (s.target b disp) s else .done s

/-- The lanes of an ended path removed from the join entries of its chain (R147). Each is checked by R152, though EXIT may complete none of
them (log 31). -/
def State.shrinkChain (s : State) (lanes : BitVec 32) : Nat → Nat → Except Stop State
  | 0, _ => .ok s
  | fuel + 1, link =>
    if link = 0 then .ok s
    else
      match s.readEntryRaw (link - 1) with
      | .error x => .error x
      | .ok (raw, s) =>
        let e := PathEntry.ofNat raw
        if !e.valid 1 (link - 1) then .error (badEntry (link - 1) raw)
        else
          match s.writeEntry (link - 1) { e with mask := e.mask &&& ~~~lanes } with
          | .error x => .error x
          | .ok s => s.shrinkChain lanes fuel e.link.toNat

/-- The entries of the chain taken in turn, innermost first (R147): whether a merged path stands in the slot. -/
def State.settleChain (s : State) : Nat → Nat → Except Stop (Bool × State)
  | 0, _ => .ok (false, s)
  | fuel + 1, link =>
    if link = 0 then .ok (false, s)
    else
      match s.readEntryRaw (link - 1) with
      | .error x => .error x
      | .ok (raw, s) =>
        let e := PathEntry.ofNat raw
        if e.arrived ≠ e.mask then .ok (false, s)
        else if e.mask ≠ 0 then (s.completeJoin (link - 1) e e.jpc).map fun s => (true, s)
        else
          match s.releaseEntry (link - 1) e with
          | .error x => .error x
          | .ok s => s.settleChain fuel e.link.toNat

/-- The troupe in focus ends when both slots are free and its path stack is empty (R133): it leaves every circle, with the effect of
CLEAVE, and releases a matrix-engine lease. -/
def State.endIfDone (s : State) : State :=
  if s.tr.p.live || s.tr.q.live || s.tr.psp != 0 then s
  else
    let s := (List.range 32).foldl (fun s c => s.leaveCircle c) s
    let s := s.dropLease
    ({ s with tr := { s.tr with ended := true } }).clearFwPurses

/-- EXIT's effect (R133, R147). -/
def State.exit (s : State) : Except Stop State :=
  let lanes := s.cur.mask
  let link := s.cur.frame.toNat
  match s.shrinkChain lanes (link + 1) link with
  | .error x => .error x
  | .ok s =>
    match s.settleChain (link + 1) link with
    | .error x => .error x
    | .ok (true, s) => .ok s.unfreeze
    | .ok (false, s) => s.freeSlot.map State.endIfDone

/-- R133, R147. -/
def execExit (s : State) : Out := run .exit s fun _ s => if (s.cur.frame != 0 || s.tr.psp != 0) && s.heldBack 1 then .wait id else orStop s.exit .stay

end Sys2Proof.Machine
end

