-- ==== Sys2Proof/Machine/Pools.lean ====
section
/-!
DEFINITION. The shared pools of a module: totals, minimums, grants, refusals (R472 to R475).
-/

namespace Sys2Proof.Machine

/-- The mailbox accepts commands (R525). -/
def State.mbx (s : State) : Bool := decide (2 ≤ s.bootStep)

/-- The size of a pool (R472). -/
def Pool.total : Pool → Nat
  | .card => 4096 | .copy => 16384 | .monitor => 32768 | .replay => 65536

def PoolCounts.get (c : PoolCounts) : Pool → Nat
  | .card => c.card | .copy => c.copy | .monitor => c.monitor | .replay => c.replay
def PoolCounts.set (c : PoolCounts) (p : Pool) (v : Nat) : PoolCounts :=
  match p with
  | .card => { c with card := v } | .copy => { c with copy := v } | .monitor => { c with monitor := v } | .replay => { c with replay := v }

/-- The partitions whose minimums count: active, or waiting to become so (R464, R473). -/
def State.counted (s : State) : List Partition := s.parts.filter fun p => p.active || p.pending

def State.childrenOf (s : State) (p : Nat) : List Partition := s.counted.filter fun c => c.parent == p && c.id != p

/-- MIN_p: the partition's minimum less its children's (R473). -/
def State.poolMin (s : State) (pool : Pool) (p : Partition) : Nat :=
  p.min.get pool - ((s.childrenOf p.id).map fun c => c.min.get pool).sum

/-- o_p (R473). -/
def State.overflow (s : State) (pool : Pool) (p : Partition) : Nat := p.used.get pool - s.poolMin pool p

/-- Whether a request of a partition is granted an entry (R473). Partition 63 counts in no total (R461). -/
def State.grants (s : State) (pool : Pool) (part : Nat) : Bool :=
  let p := s.part part
  let o := pool.total - ((s.counted.map (s.poolMin pool)).sum)
  decide (p.used.get pool < s.poolMin pool p) ||
    (decide (s.overflow pool p < o / 2) && decide (((s.parts.filter fun p => p.id != 63).map (s.overflow pool)).sum < o))

/-- An entry taken. -/
def State.takeEntry (s : State) (pool : Pool) (part n : Nat) : State :=
  let p := s.part part
  s.setPart { p with used := p.used.set pool (p.used.get pool + n) }

/-- Entries given back. -/
def State.giveEntry (s : State) (pool : Pool) (part n : Nat) : State :=
  let p := s.part part
  s.setPart { p with used := p.used.set pool (p.used.get pool - n) }

/-- A refusal counted in the accounting block (R475). -/
def State.noteRefusal (s : State) (pool : Pool) (part : Nat) : State :=
  let p := s.part part
  let p := match pool with
    | .card => { p with stcrd := p.stcrd + 1 }
    | .copy => { p with stcpy := p.stcpy + 1 }
    | .monitor => { p with stmon := p.stmon + 1 }
    | .replay => { p with strpl := p.strpl + 1 }
  (s.setPart p).writeAcct part

/-- Bytes counted to a partition (R478): LPDDR-6 and fabric; none to what stands for no partition (R480). -/
def State.countBytes (s : State) (part mem fab : Nat) : State :=
  let p := s.part part
  if 63 < part then s else s.setPart { p with usage := { p.usage with bytmem := p.usage.bytmem + mem, bytfab := p.usage.bytfab + fab } }

/-- The owner under which a stack sequencer's own lines count: no partition (R480; log 111). -/
def noPart : Nat := 64

/-! ### Whose turn it is (R473) -/

/-- A drain that stops the ringmaster fetching from a queue, or placing a gang of it (R482): a tenant's queue or a firmware queue. -/
def State.queueDrained (s : State) (part q : Nat) : Bool :=
  s.drains.any fun d =>
    match d.scope with
    | .queue n => n == q
    | .partition p => p == part
    | .clusters _ => false

/-- A request that waits for an entry: a path at a copy or in WAITC, a dependence of a card by its place, a queue's fetch or its first post. -/
inductive Ask where
  | path (p : PathId)
  | dep (q card i : Nat)
  | fetch (q : Nat)
  | post (q : Nat)
  deriving DecidableEq, Repr

/-- The paths that wait for an entry of a pool: at a copy instruction that may issue again, or in WAITC. -/
def Slot.asks (x : Slot) : Pool → Bool
  | .copy => x.live && !x.frozen && x.sleep.isNone && x.waits && x.refused
  | .monitor => x.live && match x.sleep with
    | some (.waitc _ _ _ _ _ entry _ _) => !entry
    | _ => false
  | _ => false

/-- The requests that wait for an entry of a pool (R473, R474): the partition, the CYCLE of the refusal, the requester. -/
def State.asks (s : State) (pool : Pool) : List (Nat × Nat × Ask) :=
  let slots := (s.allGangs.map fun g => (s.troupesOf g).map fun t => (g, t)).flatten
  let paths := ((slots.filter fun x => pool == .monitor || (x.1.save.isNone && x.2.park.isNone)).map fun x =>
    ([(SlotId.P, x.2.p), (SlotId.Q, x.2.q)].filter fun y => y.2.asks pool).map fun y => (x.1.part, y.2.askedAt, Ask.path ⟨x.1.uid, x.2.idx, y.1⟩)).flatten
  let ofQueue (x : Queue) : List (Nat × Nat × Ask) := match pool with
    | .card =>
      (if x.enabled && x.state == 0 && x.refused && x.wait.isNone && !s.queueDrained x.part x.q then [(x.part, x.askedAt, Ask.fetch x.q)] else []) ++
        match x.posts with
        | p :: _ => if x.enabled && p.refused && !p.staged then [(x.part, p.askedAt, Ask.post x.q)] else []
        | [] => []
    | .monitor => (x.cards.map fun c =>
        (c.deps.zipIdx.filter fun d => !d.1.held && !d.1.entry).map fun d => (x.part, d.1.askedAt, Ask.dep x.q c.uid d.2)).flatten
    | _ => []
  paths ++ (s.queues.map ofQueue).flatten

/-- Round-robin by partition number: how far a partition stands behind the one granted last. -/
def State.turnOf (s : State) (pool : Pool) (part : Nat) : Nat := (part + 127 - s.turns.get pool) % 64

/-- Whether entries free now are a partition's to take (R473): below its minimum always; else a request that waits since a CYCLE goes in age
order within its partition and in turn between partitions, and a new one behind all that wait and could be granted. -/
def State.inTurn (s : State) (pool : Pool) (part : Nat) (since : Option Nat) : Bool :=
  decide ((s.part part).used.get pool < s.poolMin pool (s.part part)) ||
    (((s.asks pool).filter fun a => s.grants pool a.1).all fun a =>
      match since with
      | some t => if a.1 = part then decide (t ≤ a.2.1) else decide (s.turnOf pool part ≤ s.turnOf pool a.1)
      | none => false)

/-- Whether a request of a number of entries, one or two, is granted (R473). -/
def State.mayTake (s : State) (pool : Pool) (part n : Nat) (since : Option Nat) : Bool :=
  s.grants pool part && (decide (n ≤ 1) || (s.takeEntry pool part 1).grants pool part) && s.inTurn pool part since

/-- A request is granted: the turn passes on from a partition whose request has waited. -/
def State.granted (s : State) (pool : Pool) (part n : Nat) (waited : Bool) : State :=
  (if waited then { s with turns := s.turns.set pool part } else s).takeEntry pool part n

end Sys2Proof.Machine
end

