-- ==== Sys2Proof/Machine/Access.lean ====
section
/-!
DEFINITION. The one way loads, stores and atomics reach memory (R283 to R286, R291, R307, R311), for scalar and vector instructions.
-/

namespace Sys2Proof.Machine

/-- The lanes whose unperformed stores a load reads: its own, or every lane of the path for a scalar load (R107, R307). -/
def loadLanes (s : State) (one : Bool) (lane : Nat) : BitVec 32 := if one then s.pmask else .ofNat 32 (2 ^ lane)

/-- The single-copy-atomic parts of an access of `z` bytes: two halves of one of 16 (R290). -/
def partsOf (l : Loc) (z : Nat) : List (Loc × Nat) := if z = 16 then [(l, 8), (l.plus 8, 8)] else [(l, z)]

/-- One part of a load: its value, and the moment it bound: now, or when it bound ahead (R313). `alone`: no other lane of the instruction
reads its bytes (R289). -/
def State.bindPart (s : State) (alone : Bool) (lanes : BitVec 32) (mode : AccMode) (l : Loc) (n : Nat) : Nat × Nat :=
  match if alone && !l.device then s.tr.early.find? fun x =>
      x.lanes == lanes && x.scope == mode.scope && x.loc == l && x.size == n && (x.acq || !isAcquire mode.order) else none with
  | some x => (x.val, x.since)
  | none => (s.loadNat lanes mode.scope l n, s.tr.ins)

/-- A lane's load: its value, and each part with its lanes and the moment it bound. -/
def State.bindLoad (s : State) (alone : Bool) (lanes : BitVec 32) (mode : AccMode) (l : Loc) (z : Nat) : Nat × List (BitVec 32 × Loc × Nat × Nat) :=
  let ps := (partsOf l z).map fun p => (p, s.bindPart alone lanes mode p.1 p.2)
  (ps.foldr (fun p v => p.2.1 + 2 ^ (8 * p.1.2) * v) 0, ps.map fun p => (lanes, p.1.1, p.1.2, p.2.2))

/-- What a load that has bound leaves of the early loads: not those of its bytes bound before it (R310), and behind an acquire none bound
before that (R285). -/
def State.afterLoad (s : State) (mode : AccMode) (bs : List (BitVec 32 × Loc × Nat × Nat)) : State :=
  let s := bs.foldl (fun s b => s.forgetAt b.1 b.2.1 b.2.2.1 b.2.2.2) s
  if isAcquire mode.order then s.forget s.pmask ((bs.map fun b => b.2.2.2).foldl max 0) else s

/-- A scalar load has read unperformed stores of its path's lanes: they are what those lanes' releases pass on (R107, R316). -/
def State.noteSeen (s : State) (ls : List (Nat × Loc)) (z : Nat) : State :=
  { s with tr := { s.tr with stream := s.tr.stream.map fun e =>
      if e.lanes &&& s.pmask != 0 && ls.any (fun l => e.loc.meets e.size l.2 z) then { e with seen := e.seen ||| s.pmask } else e } }

/-- The lanes of an access. -/
def laneSet (ls : List (Nat × Loc)) : BitVec 32 := .ofNat 32 ((ls.map fun l => 2 ^ l.1).sum)

/-- Lanes of one load that read the same bytes receive one value (R289): what any of them has stored there performs first, so that each sees its
own stores (R24). -/
def State.shareBytes (s : State) (ls : List (Nat × Loc)) (z : Nat) : State :=
  if ls.isEmpty then s else s.drainWhere fun e => e.lanes &&& laneSet ls != 0 && ls.any fun l => e.loc.meets e.size l.2 z

/-- A load of `z` bytes for the lanes given (R122, R283 to R285, R288, R307): addresses checked, translated, then the acquire's
invalidation and the reads. `k` writes the registers from each lane's value. -/
def State.load (s : State) (one : Bool) (z : Nat) (mode : AccMode) (as : List (Nat × Word64)) (k : State → List (Nat × Nat) → State) : Res :=
  match s.resolve one .read z as with
  | .error x => .stop x
  | .ok (ls, s) =>
    match s.dataErr one as ls with
    | some x => .stop x
    | none =>
      if s.heldBack s.pmask then .wait id
      else
        let alone (lane : Nat) (l : Loc) : Bool := one || ls.all fun m => m.1 == lane || !m.2.meets z l z
        let s := (s.settle (if one then s.pmask else laneSet ls) ls z).shareBytes (ls.filter fun l => !alone l.1 l.2) z
        let s := if isAcquire mode.order then s.acquireL1 s.req.core s.gg.part mode.scope s.req.one else s
        let bs := ls.map fun (lane, l) => (lane, s.bindLoad (alone lane l) (if alone lane l then loadLanes s one lane else laneSet ls) mode l z)
        let s := (if one then s.noteSeen ls z else s).afterLoad mode ((bs.map fun b => b.2.2).flatten)
        .done (k (((s.addFills mode false z (ls.map Prod.snd)).noteClip mode.scope).countRetire) (bs.map fun b => (b.1, b.2.1)))

/-- The entries a lane's store of `z` bytes makes: one, or two halves of 8 for a store of 16 (R290). -/
def entriesOf (lanes path : BitVec 32) (lane : Nat) (va : Word64) (l : Loc) (z v : Nat) (mode : AccMode) : List StoreEntry :=
  if z = 16 then
    [{ lanes := lanes, lane := lane, path := path, va := va, loc := l, size := 8, data := v % 2 ^ 64, mode := mode },
     { lanes := lanes, lane := lane, path := path, va := va + 8, loc := l.plus 8, size := 8, data := v / 2 ^ 64, mode := mode }]
  else [{ lanes := lanes, lane := lane, path := path, va := va, loc := l, size := z, data := v % 2 ^ (8 * z), mode := mode }]

/-- The lanes in whose program order a store of a lane stands: the lane, or the whole path for a scalar one (R107). -/
def storeLanes (s : State) (one : Bool) (lane : Nat) : BitVec 32 := if one then s.pmask else .ofNat 32 (2 ^ lane)
/-- The lane whose UAS counts it (R486, R498). -/
def storeLane (s : State) (one : Bool) (lane : Nat) : Nat := if one then lowLane s.pmask else lane

/-- A store of `z` bytes for the lanes given, ascending (R122, R288, R289): each joins its lane's store stream and performs later. -/
def State.store (s : State) (one : Bool) (z : Nat) (mode : AccMode) (as : List (Nat × Word64)) (val : Nat → Nat) : Res :=
  match s.resolve one .write z as with
  | .error x => .stop x
  | .ok (ls, s) =>
    if s.heldBack s.pmask then .wait id
    else
      let vaOf (lane : Nat) := s.heldVa lane (((as.find? fun a => a.1 == lane).map Prod.snd).getD 0)
      let es := (ls.map fun (lane, l) =>
        entriesOf (storeLanes s one lane) s.pmask (storeLane s one lane) (vaOf lane) l z (val lane) mode).flatten
      .done ((((s.enter es).addFills mode true z (ls.map Prod.snd)).noteClip mode.scope).countRetire)

/-- The read-modify-writes of several lanes, ascending, each indivisible (R291): the old values. -/
def State.rmws (s : State) (mode : AccMode) (z : Nat) (o : AtomicOp) (opnd : Nat → Nat × Nat) : List (Nat × Loc) → List (Nat × Nat) × State
  | [] => ([], s)
  | (lane, l) :: r =>
    let (old, s) := s.rmw s.req mode l z o (opnd lane).1 (opnd lane).2
    let (os, s) := s.rmws mode z o opnd r
    ((lane, old) :: os, s)

/-- An atomic for the lanes given (R291, R295, R296). Without return it joins the store stream; with return the lanes' earlier accesses
perform first (R311), then the release's write-back, the acquire's invalidation and the read-modify-writes. `opnd` gives each lane's
operand and compared value. -/
def State.atomic (s : State) (one : Bool) (z : Nat) (mode : AccMode) (o : AtomicOp) (as : List (Nat × Word64)) (opnd : Nat → Nat × Nat)
    (ret : Option (State → List (Nat × Nat) → State)) : Res :=
  match s.resolve one .atomic z as with
  | .error x => .stop x
  | .ok (ls, s) =>
    match s.dataErr one as ls with
    | some x => .stop x
    | none =>
      if s.heldBack s.pmask then .wait id
      else
        let s := (s.addFills mode true z (ls.map Prod.snd)).noteClip mode.scope
        match ret with
        | none =>
          let vaOf (lane : Nat) := s.heldVa lane (((as.find? fun a => a.1 == lane).map Prod.snd).getD 0)
          let es := ls.map fun (lane, l) =>
            ({ lanes := storeLanes s one lane, lane := storeLane s one lane, path := s.pmask, va := vaOf lane, loc := l, size := z,
               data := (opnd lane).1, cmp := (opnd lane).2, aop := some o, mode := mode } : StoreEntry)
          .done (s.enter es).countRetire
        | some k =>
          let s := if isRelease mode.order then s.releaseFor mode.scope (s.clips mode.scope) else s
          let s := s.drainFor (isRelease mode.order && s.clips mode.scope) ls z
          let s := if isAcquire mode.order then s.acquire s.pmask mode.scope s.tr.ins else s
          let s := ls.foldl (fun s l => ((s.forgetAt (storeLanes s one l.1) l.2 z s.tr.ins).noteSent (storeLanes s one l.1) l.2)) s
          let (olds, s) := s.rmws mode z o opnd ls
          .done (k s olds).countRetire

/-! ### Loads that bind ahead of their issue (R313) -/

/-- What a number asks to bind: the troupe's place among those resident, scope, acquire, size, lanes, and the place: scratchpad offset or
physical address. -/
structure EarlyAsk where
  who   : Nat
  scope : OrdScope
  acq   : Bool
  size  : Nat
  lanes : BitVec 32
  loc   : Loc
  deriving DecidableEq, Repr

def earlyAsk (m : Nat) : EarlyAsk :=
  { who := m % 2 ^ 14, scope := scopeOfCode (m / 2 ^ 14 % 4), acq := m.testBit 16, size := 2 ^ (m / 2 ^ 17 % 4), lanes := .ofNat 32 (m / 2 ^ 19),
    loc := if m.testBit 51 then .scratch (m / 2 ^ 52) else .phys (m / 2 ^ 52) 0 }

/-- A load of the lanes binds (R313): it reads as it would if it issued now. It may not pass an acquire, unperformed atomics on its bytes,
or asynchronous work with ORD acquire; data that cannot be read binds at issue. Only aligned parts of memory bind. -/
def State.bindEarly (s : State) (x : EarlyAsk) : State :=
  let blocked := s.tr.stream.any fun e => (isAcquire e.mode.order && e.path &&& x.lanes != 0) ||
    (e.aop != none && e.lanes &&& x.lanes != 0 && e.loc.meets e.size x.loc x.size)
  let there := match x.loc with
    | .phys pa _ => pa % x.size == 0 && decide (pa < 2 ^ 52) && (s.lineError s.req.core pa).isNone
    | .scratch off => off % x.size == 0 && !s.bad.contains (s.gg.padLine off, 1)
    | .price _ => false
  if blocked || !there || s.heldBack x.lanes || s.gg.save.isSome then s
  else
    let s := if x.acq then s.acquireL1 s.req.core s.gg.part x.scope s.req.one else s
    let v := s.loadNat x.lanes x.scope x.loc x.size
    { s with tr := { s.tr with early := s.tr.early ++ [⟨x.lanes, x.scope, x.loc, x.size, v, s.tr.ins, x.acq⟩], ins := s.tr.ins + 1 } }

end Sys2Proof.Machine
end

