-- ==== Sys2Proof/Machine/Registers.lean ====
section
/-!
DEFINITION. The registers an instruction reads and writes, as the issue rules speak of them (R106, R162).
-/

namespace Sys2Proof

/-- The scalar registers of an instruction; whether each is written. CALL and CALLR write s62, RET reads it (R126). -/
def Instr.scalars : Instr → List (SReg × Bool)
  | .add d a b => [(d, true), (a, false), (b, false)]
  | .sub d a b => [(d, true), (a, false), (b, false)]
  | .mul d a b => [(d, true), (a, false), (b, false)]
  | .mulh d a b => [(d, true), (a, false), (b, false)]
  | .mulhn d a b => [(d, true), (a, false), (b, false)]
  | .div d a b => [(d, true), (a, false), (b, false)]
  | .divn d a b => [(d, true), (a, false), (b, false)]
  | .rem d a b => [(d, true), (a, false), (b, false)]
  | .remn d a b => [(d, true), (a, false), (b, false)]
  | .min d a b => [(d, true), (a, false), (b, false)]
  | .max d a b => [(d, true), (a, false), (b, false)]
  | .minn d a b => [(d, true), (a, false), (b, false)]
  | .maxn d a b => [(d, true), (a, false), (b, false)]
  | .and d a b => [(d, true), (a, false), (b, false)]
  | .or d a b => [(d, true), (a, false), (b, false)]
  | .xor d a b => [(d, true), (a, false), (b, false)]
  | .andn d a b => [(d, true), (a, false), (b, false)]
  | .shl d a b => [(d, true), (a, false), (b, false)]
  | .shr d a b => [(d, true), (a, false), (b, false)]
  | .sar d a b => [(d, true), (a, false), (b, false)]
  | .seq d a b => [(d, true), (a, false), (b, false)]
  | .sne d a b => [(d, true), (a, false), (b, false)]
  | .slt d a b => [(d, true), (a, false), (b, false)]
  | .sltn d a b => [(d, true), (a, false), (b, false)]
  | .sel d a b => [(d, true), (a, false), (b, false)]
  | .clz d a => [(d, true), (a, false)]
  | .ctz d a => [(d, true), (a, false)]
  | .popc d a => [(d, true), (a, false)]
  | .brev d a => [(d, true), (a, false)]
  | .bfx d a _ _ => [(d, true), (a, false)]
  | .bfi d a _ _ => [(d, true), (a, false)]
  | .addi d a _ => [(d, true), (a, false)]
  | .andi d a _ => [(d, true), (a, false)]
  | .ori d a _ => [(d, true), (a, false)]
  | .xori d a _ => [(d, true), (a, false)]
  | .shli d a _ => [(d, true), (a, false)]
  | .shri d a _ => [(d, true), (a, false)]
  | .sari d a _ => [(d, true), (a, false)]
  | .slti d a _ => [(d, true), (a, false)]
  | .movi d _ => [(d, true)]
  | .addpc d _ => [(d, true)]
  | .sfaddF64 d a b => [(d, true), (a, false), (b, false)]
  | .sfsubF64 d a b => [(d, true), (a, false), (b, false)]
  | .sfmulF64 d a b => [(d, true), (a, false), (b, false)]
  | .sffmaF64 d a b => [(d, true), (a, false), (b, false)]
  | .sfdivF64 d a b => [(d, true), (a, false), (b, false)]
  | .sfcmpF64 d a b => [(d, true), (a, false), (b, false)]
  | .sfcvtF64 d a b => [(d, true), (a, false), (b, false)]
  | .sfaddF32 d a b => [(d, true), (a, false), (b, false)]
  | .sfsubF32 d a b => [(d, true), (a, false), (b, false)]
  | .sfmulF32 d a b => [(d, true), (a, false), (b, false)]
  | .sffmaF32 d a b => [(d, true), (a, false), (b, false)]
  | .sfdivF32 d a b => [(d, true), (a, false), (b, false)]
  | .sfcmpF32 d a b => [(d, true), (a, false), (b, false)]
  | .sfcvtF32 d a b => [(d, true), (a, false), (b, false)]
  | .ldb d sa _ _ => [(d, true), (sa, false)]
  | .ldbs d sa _ _ => [(d, true), (sa, false)]
  | .ldh d sa _ _ => [(d, true), (sa, false)]
  | .ldhs d sa _ _ => [(d, true), (sa, false)]
  | .ldw d sa _ _ => [(d, true), (sa, false)]
  | .ldws d sa _ _ => [(d, true), (sa, false)]
  | .ldd d sa _ _ => [(d, true), (sa, false)]
  | .stb d sa _ _ => [(d, false), (sa, false)]
  | .sth d sa _ _ => [(d, false), (sa, false)]
  | .stw d sa _ _ => [(d, false), (sa, false)]
  | .std d sa _ _ => [(d, false), (sa, false)]
  | .brc _ a _ => [(a, false)]
  | .call _ => [(62, true)]
  | .callr a => [(a, false), (62, true)]
  | .ret => [(62, false)]
  | .jmpr a => [(a, false)]
  | .mfs d _ => [(d, true)]
  | .mts _ a => [(a, false)]
  | .clk d => [(d, true)]
  | .mfc d _ => [(d, true)]
  | .mtc _ a => [(a, false)]
  | .tlbi a b => [(a, false), (b, false)]
  | .vmovs _ a => [(a, false)]
  | .vmovsh _ a => [(a, false)]
  | .vext d _ b => [(d, true), (b, false)]
  | .vshflUp _ _ b => [(b, false)]
  | .vshflDown _ _ b => [(b, false)]
  | .vshflXor _ _ b => [(b, false)]
  | .vshflBcast _ _ b => [(b, false)]
  | .vany d _ => [(d, true)]
  | .vall d _ => [(d, true)]
  | .vballot d _ => [(d, true)]
  | .cjoin a => [(a, false)]
  | .cleave a => [(a, false)]
  | .carrive a => [(a, false)]
  | .cwait a => [(a, false)]
  | .csync a => [(a, false)]
  | .ccount d a => [(d, true), (a, false)]
  | .vldb _ sa _ _ _ => [(sa, false)]
  | .vldbs _ sa _ _ _ => [(sa, false)]
  | .vldh _ sa _ _ _ => [(sa, false)]
  | .vldhs _ sa _ _ _ => [(sa, false)]
  | .vldw _ sa _ _ _ => [(sa, false)]
  | .vldd _ sa _ _ _ => [(sa, false)]
  | .vldq _ sa _ _ _ => [(sa, false)]
  | .vstb _ sa _ _ _ => [(sa, false)]
  | .vsth _ sa _ _ _ => [(sa, false)]
  | .vstw _ sa _ _ _ => [(sa, false)]
  | .vstd _ sa _ _ _ => [(sa, false)]
  | .vstq _ sa _ _ _ => [(sa, false)]
  | .amoa _ _ _ sa _ => [(sa, false)]
  | .amol _ _ _ sa _ => [(sa, false)]
  | .samoadd d a b => [(d, true), (a, false), (b, false)]
  | .samocas d a b => [(d, true), (a, false), (b, false)]
  | .samoswap d a b => [(d, true), (a, false), (b, false)]
  | .samomax d a b => [(d, true), (a, false), (b, false)]
  | .waitc _ a b => [(a, false), (b, false)]
  | .cline a => [(a, false)]
  | .pf a => [(a, false)]
  | .gaddr d a => [(d, true), (a, false)]
  | .copy _ _ _ b => [(b, false)]
  | .copyr _ _ _ b => [(b, false)]
  | .tcopy d a b => [(d, false), (a, false), (b, false)]
  | .tcopyIn d a b => [(d, false), (a, false), (b, false)]
  | .tcopyOut d a b => [(d, false), (a, false), (b, false)]
  | .shpw d a => [(d, true), (a, false)]
  | .shpi a => [(a, false)]
  | .sealB d => [(d, true)]
  | .waitb a => [(a, false)]
  | .mma d a b => [(d, false), (a, false), (b, false)]
  | .mmam d a b => [(d, false), (a, false), (b, false)]
  | .mmas d a b => [(d, false), (a, false), (b, false)]
  | .mma2 d a b => [(d, false), (a, false), (b, false), (b + 1, false)]
  | .acld d a b => [(d, false), (a, false), (b, false)]
  | .acst d a b => [(d, false), (a, false), (b, false)]
  | .acz a b => [(a, false), (b, false)]
  | .layer a b => [(a, false), (b, false)]
  | .layerx2 a b => [(a, false), (b, false)]
  | .layert a b => [(a, false), (b, false)]
  | .rceq d a => [(d, true), (a, false)]
  | .rcepin a => [(a, false)]
  | .rceunpin a => [(a, false)]
  | .bsq a b => [(a, false), (b, false)]
  | .ways d a b => [(d, true), (a, false), (b, false)]
  | .waysrel a => [(a, false)]
  | .launch a b => [(a, false), (b, false)]
  | .migrate a => [(a, false)]
  | _ => []

/-- The mask registers of an instruction; whether each is written. -/
def Instr.masks : Instr → List (KReg × Bool)
  | .vcmpf _ d _ _ => [(d, true)]
  | .vsel k _ _ _ => [(k, false)]
  | .vcmpi _ d _ _ => [(d, true)]
  | .vany _ a => [(a, false)]
  | .vall _ a => [(a, false)]
  | .vballot _ a => [(a, false)]
  | .vmatch d _ => [(d, true)]
  | .brv k _ => [(k, false)]
  | .bany k _ => [(k, false)]
  | .ball k _ => [(k, false)]
  | _ => []

/-- Whether an instruction writes the first vector group it names. -/
def Instr.setsGroup : Instr → Bool
  | .vcmpf _ _ _ _ => false
  | .vcmpi _ _ _ _ => false
  | .vext _ _ _ => false
  | .vmatch _ _ => false
  | .vstb _ _ _ _ _ => false
  | .vsth _ _ _ _ _ => false
  | .vstw _ _ _ _ _ => false
  | .vstd _ _ _ _ _ => false
  | .vstq _ _ _ _ _ => false
  | .amoa _ _ _ _ r => r == 1
  | .amol _ _ _ _ r => r == 1
  | .copy _ _ _ _ => false
  | .copyr _ _ _ _ => false
  | _ => true

/-- A register by number: s0 to s63, v0 to v127 from 64 on, k0 to k7 from 192 on. -/
def groupRegs (g : VReg × Nat) : List Nat := (List.range g.2).map fun n => 64 + g.1.toNat + n

/-- The registers an instruction reads or writes, s0 and k0 aside. -/
def Instr.uses (i : Instr) : List Nat :=
  ((i.scalars.map fun r => r.1.toNat).filter fun r => r != 0) ++ (i.vregs.map groupRegs).flatten ++
    ((i.masks.map fun k => k.1.toNat).filter fun k => k != 0).map fun k => 192 + k

/-- The registers an instruction writes. -/
def Instr.sets (i : Instr) : List Nat :=
  (((i.scalars.filter Prod.snd).map fun r => r.1.toNat).filter fun r => r != 0) ++ (if i.setsGroup then ((i.vregs.take 1).map groupRegs).flatten else []) ++
    (((i.masks.filter Prod.snd).map fun k => k.1.toNat).filter fun k => k != 0).map fun k => 192 + k

/-- Whether a scalar instruction's destination is a source as well: SEL (R113), BFI (R114), SFFMA (R118), SAMOCAS (R296). -/
def Instr.readsDest : Instr → Bool
  | .sel _ _ _ | .bfi _ _ _ _ | .sffmaF64 _ _ _ | .sffmaF32 _ _ _ | .samocas _ _ _ => true
  | _ => false

/-- The registers whose contents an instruction takes as they stand. -/
def Instr.reads (i : Instr) : List Nat :=
  ((i.scalars.filter fun r => !r.2 || i.readsDest).map fun r => r.1.toNat) ++
    ((if i.setsGroup then i.vregs.drop 1 else i.vregs).map groupRegs).flatten ++ ((i.masks.filter fun k => !k.2).map fun k => 192 + k.1.toNat)

/-- Instructions whose price may exceed 0 (R230). -/
def Instr.wide : Instr → Bool
  | .mma _ _ _ | .mmam _ _ _ | .mmas _ _ _ | .mma2 _ _ _ | .layer _ _ | .layerx2 _ _ | .layert _ _ | .copy _ _ _ _ | .copyr _ _ _ _
  | .tcopy _ _ _ | .tcopyIn _ _ _ | .tcopyOut _ _ _ | .bsq _ _ => true
  | _ => false

/-- The same of a word (R49): majors 0x60 to 0x62, 0x65 to 0x67, whose fields name registers. -/
def wideWord (w : BitVec 32) : Bool :=
  let n := w.toNat
  let fn := bitsOf n 24 21
  let s (x : Nat) : Bool := decide (x < 64)
  let ab : Bool := s (bitsOf n 13 7) && s (bitsOf n 6 0)
  let noD : Bool := bitsOf n 20 14 == 0
  match bitsOf n 31 25 with
  | 0x60 => decide (fn < 4) && s (bitsOf n 6 0)
  | 0x61 => (CopyrOp.ofCode fn).isOk && s (bitsOf n 6 0)
  | 0x62 => decide (fn < 3) && s (bitsOf n 20 14) && ab
  | 0x65 => decide (fn < 4) && s (bitsOf n 20 14) && ab
  | 0x66 => decide (fn < 3) && noD && ab
  | 0x67 => decide (fn < 1) && noD && ab
  | _ => false

/-- The instructions before which every path otherwise ready takes its place: the wide ones, and a cycle of the ring (R162, R234). -/
def Instr.joins : Instr → Bool
  | .ringCycle => true
  | i => i.wide

end Sys2Proof
end

