-- ==== Sys2Proof/Machine/Wide.lean ====
section
/-!
DEFINITION. Readiness (R106, R162) and the order of a core's wide instructions (R229, R230, R234): what a path would issue next, its price,
whether it is licensed, whether its sibling holds it back.
-/

namespace Sys2Proof.Machine

/-! ### Fetching (R19, R21) -/

/-- The word at the PC of the path in focus (R19, R21). A fetch reads at device scope the newest bytes that have performed: of the two a word
being written allows, the model takes that one (R23, log 90). Its line is asked of the levels with ND 15, once while it is on its way. -/
def State.fetch (s : State) : Except Stop (BitVec 32 × State) :=
  -- what a NEAR region's mask stack still has to write comes first (R512)
  match if s.tr.nearStack.isEmpty || s.cur.near.isSome then .ok s
        else (s.writeMaskStack s.tr.nearStack).map fun s => { s with tr := { s.tr with nearStack := [] } } with
  | .error x => .error x
  | .ok s =>
  match s.place none 0 s.pc64 .fetch with
  | .error x => .error x
  | .ok (l, s) =>
    match s.dataErr true [(0, s.pc64)] [(0, l)] with
    | some x => .error x
    | none =>
      let w : BitVec 32 := .ofNat 32 (s.loadNat 0 .device l 4)
      match l with
      | .phys pa _ =>
        .ok (w, if s.fills.any fun f => f.core == s.req.core && lineOf f.pa == lineOf pa then s else s.addFill {} false l)
      | _ => .ok (w, s)

/-- The word a path would issue next, once it can be fetched, and its instruction (R162). -/
def State.nextWord (s : State) (p : PathId) : Option (BitVec 32) :=
  match (s.focusTo p).fetch with
  | .ok (w, _) => some w
  | .error _ => none
noncomputable def State.nextInstr (s : State) (p : PathId) : Option Instr := (s.nextWord p).bind fun w => (decodeWord w).toOption

/-! ### Prices (R230) -/

/-- ceil(n / d). -/
def divUp (n d : Nat) : Nat := (n + d - 1) / d

/-- MACs per token for operands of some bits. -/
def Prices.macs (p : Prices) (bits : Nat) : Nat := (if bits = 16 then p.mac16 else if bits = 8 then p.mac8 else p.mac4).toNat

/-- A price by the table in effect (R230, R232). -/
def Prices.price (p : Prices) : PriceBasis → Nat
  | .bytes n => max 1 (divUp n p.copyb.toNat)
  | .macs a b n => divUp n (max (p.macs a) (p.macs b))
  | .passes n macs => p.pass.toNat * n + divUp macs p.mac16.toNat
  | .steps n => p.bsqp.toNat * n

/-! ### Licences (R234) -/

abbrev WideList := List (PathId × Nat × Option PriceBasis)

/-- The price of an entry, once its checks have passed. -/
def State.entryPrice (s : State) (w : PathId × Nat × Option PriceBasis) : Option Nat := w.2.2.map s.prices.price

/-- Whether a wide instruction of a price is licensed: it is the head, or it passes a head that the purse cannot pay, at most 4 times, and
not one with a pledge. -/
def State.licensed (s : State) (l : WideList) (purse passes : Nat) (pledge : Bool) (p : PathId) (price : Nat) : Bool :=
  match l with
  | [] => decide (price ≤ purse)
  | h :: _ =>
    decide (price ≤ purse) && (h.1 == p ||
      ((s.entryPrice h).any fun x => decide (purse < x)) && decide (passes < 4) && !pledge)

/-- The list a path's wide instructions stand in, and whether one of a price is licensed there. -/
def State.wideOf (s : State) (sys : Bool) (core : Nat) : WideList := if sys then (s.core core).wideSys else (s.core core).wide
def State.licensedOn (s : State) (sys : Bool) (core : Nat) (p : PathId) (price : Nat) : Bool :=
  let c := s.core core
  if sys then s.licensed c.wideSys c.fwPurse c.passesSys c.pledgeSys p price else s.licensed c.wide c.purse c.passes c.pledge p price

/-! ### Readiness (R162) -/

/-- Whether a slot's path may issue but for its price: live, not frozen, not asleep, not held by a YIELD or a page walk (R162, R434, R454). -/
def Slot.issues (x : Slot) : Bool := x.live && !x.frozen && x.sleep.isNone && x.yield.isNone && !x.walking

/-- The paths of a troupe that may issue but for their price: none of a troupe that is parked, ended or being saved; of a gang that has ended in
error only those whose issued instruction is not complete (R438). -/
def openOf (g : Gang) (t : Troupe) : List PathId :=
  let free (x : Slot) : Bool := x.issues && (g.err.isNone || x.issued.isSome)
  if g.save.isSome || t.park.isSome || t.ended then []
  else
    (if free t.p then [⟨g.uid, t.idx, .P⟩] else []) ++ (if free t.q then [⟨g.uid, t.idx, .Q⟩] else [])

/-- What is known of a path's place: system privilege, core, quadrant, slot in the quadrant. -/
structure Seat where
  sys  : Bool
  core : Nat
  quadrant : Nat
  qslot : Nat
  deriving DecidableEq, Repr

def State.seat (s : State) (p : PathId) : Seat :=
  match s.gang? p.gang, s.troupe? p.gang p.troupe with
  | some g, some t => ⟨g.sys, coreOf g t, t.quadrant, t.qslot⟩
  | _, _ => ⟨false, 0, 0, 0⟩

/-- The slot of a path. -/
def State.slotAt? (s : State) (p : PathId) : Slot := ((s.troupe? p.gang p.troupe).map fun t => t.slot p.slot).getD {}

/-- Whether two paths stand in one quadrant of one core. A path in a NEAR region issues on its NMU, and its home quadrant issues nothing for
it (R508). -/
def State.sameQuadrant (s : State) (p q : PathId) : Bool :=
  (s.slotAt? p).near.isNone && (s.slotAt? q).near.isNone && (s.seat p).core == (s.seat q).core && (s.seat p).quadrant == (s.seat q).quadrant

/-- Every path of the module that may issue but for its price. -/
def State.openPaths (s : State) : List PathId := (s.allGangs.map fun g => ((s.troupesOf g).map (openOf g)).flatten).flatten

/-- Whether the price condition of R162 holds of a path: its next instruction costs nothing, or is licensed. A wide instruction is not until an
attempt has formed its price. A path whose latest attempt had to wait for something else is not ready either. -/
def State.payable (s : State) (p : PathId) : Bool :=
  let z := s.seat p
  match (s.wideOf z.sys z.core).find? fun w => w.1 == p with
  | some w => match s.entryPrice w with
    | some x => s.licensedOn z.sys z.core p x
    | none => false
  | none => !(s.slotAt? p).waits && !((s.nextWord p).any wideWord)

/-- The ready paths of the module (R162). No register awaits an earlier instruction (R106): each writes its registers when it issues. -/
def State.readyPaths (s : State) : List PathId := s.openPaths.filter s.payable

/-- The paths that are not ready: their instructions try again as the wait may have ended or the price have changed. -/
def State.retryPaths (s : State) : List PathId := s.openPaths.filter fun p => !s.payable p

/-- The registers of the path in focus that an instruction reads, its pending PFX's mask and third source among them (R41, R170): s0 to s63, v0 to
v127 from 64 on, k0 to k7 from 192 on. -/
def State.readRegs (s : State) (i : Instr) : List Nat :=
  let third := threeSource (formOf i)
  i.reads ++ (match s.cur.att.pfx with
    | some p => (192 + (pfxOf p).k.toNat) :: if third then [64 + (pfxOf p).vc.toNat] else []
    | none => if third then ((i.vregs.take 1).map groupRegs).flatten else [])

/-- The registers an instruction would read or write as a path would issue it. -/
def State.usedBy (s : State) (p : PathId) (i : Instr) : List Nat := (s.focusTo p).readRegs i ++ i.uses

/-- While a path is overdue, its sibling issues nothing that writes a register the overdue path's next instruction reads or writes (R162). -/
noncomputable def State.holdsBack (s : State) (p : PathId) : Bool :=
  let q : PathId := { p with slot := SlotId.other p.slot }
  (s.slotAt? q).overdue && s.readyPaths.contains q &&
    match s.nextInstr q, s.nextInstr p with
    | some i, some j => j.sets.any fun r => (s.usedBy q i).contains r
    | _, _ => false

/-! ### Age order (R234) -/

/-- Whether one entry is older: by ring cycle, then the lower quadrant, the lower troupe slot, P before Q. -/
def State.older (s : State) (a b : PathId × Nat × Option PriceBasis) : Bool :=
  let x := s.seat a.1
  let y := s.seat b.1
  let slot : SlotId → Nat := fun | .P => 0 | .Q => 1
  let k (w : PathId × Nat × Option PriceBasis) (z : Seat) : Nat := ((w.2.1 * 4 + z.quadrant) * 16 + z.qslot) * 2 + slot w.1.slot
  decide (k a x ≤ k b y)

/-- A path joins its core's wide instructions, at the age of this ring cycle (R234); alone, or before the head by a tie, it is head from now, with
no passes against it. -/
def State.joinWide (s : State) (p : PathId) : State :=
  let z := s.seat p
  let c := s.core z.core
  let put (l : WideList) : WideList := sortBy s.older (l ++ [(p, s.ring, none)])
  let new (l : WideList) : Bool := (put l).head?.any fun w => w.1 == p
  if z.sys then
    s.setCore (if new c.wideSys then { c with wideSys := put c.wideSys, headAtSys := s.ring, passesSys := 0 } else { c with wideSys := put c.wideSys })
  else s.setCore (if new c.wide then { c with wide := put c.wide, headAt := s.ring, passes := 0 } else { c with wide := put c.wide })

/-- A path found ready with a wide instruction has its place. -/
def State.forWideAt (s : State) (p : PathId) : State :=
  let z := s.seat p
  if (s.wideOf z.sys z.core).any fun w => w.1 == p then s else s.joinWide p

/-- What a path's waiting wide instruction's price is formed from changes. -/
def State.setBasis (s : State) (p : PathId) (b : Option PriceBasis) : State :=
  let z := s.seat p
  let c := s.core z.core
  let put (l : WideList) : WideList := l.map fun w => if w.1 = p then (w.1, w.2.1, b) else w
  if (s.wideOf z.sys z.core).any fun w => w.1 == p then
    s.setCore (if z.sys then { c with wideSys := put c.wideSys } else { c with wide := put c.wide })
  else s

/-- The paths that have become otherwise ready with a wide instruction join their core's list. One whose attempt has to wait for something but
tokens is not among them until an attempt finds it (R342, R375). -/
def State.joinReady (s : State) : State :=
  s.openPaths.foldl (fun s p =>
    let z := s.seat p
    if (s.slotAt? p).waits || (s.wideOf z.sys z.core).any fun w => w.1 == p then s
    else if (s.nextWord p).any wideWord then s.joinWide p else s) s

/-- What a wide instruction or a ring cycle finds: every path otherwise ready has its place. -/
def State.forWide (s : State) (i : Instr) : State := if i.joins then s.joinReady else s

/-- The wait of a wide instruction whose checks have passed (R234): what its price is formed from stands with its place. -/
def State.waitWide (s : State) (b : PriceBasis) : State :=
  let on := (s.wideOf s.gg.sys s.req.core).any fun w => w.1 == s.me
  let s := if on then s else s.joinWide s.me
  let c := s.core s.req.core
  let put (l : WideList) : WideList := l.map fun w => if w.1 = s.me then (w.1, w.2.1, some b) else w
  s.setCore (if s.gg.sys then { c with wideSys := put c.wideSys } else { c with wide := put c.wide })

/-- The price paid (R229), a pass counted against a head that was passed (R234), and the tokens charged (R228, R478). -/
def State.pay (s : State) (price : Nat) : State :=
  let c := s.core s.req.core
  let passed (l : WideList) : Nat :=
    match l with
    | [] => 0
    | h :: _ => if h.1 = s.me then 0 else 1
  let c := if s.gg.sys then { c with fwPurse := c.fwPurse - price, passesSys := c.passesSys + passed c.wideSys }
           else { c with purse := c.purse - price, passes := c.passes + passed c.wide }
  let s := (s.setCore c).dropWide fun p => p == s.me
  if s.gg.sys then s else
    let p := s.myPart
    s.setPart { p with usage := { p.usage with tokens := p.usage.tokens + price } }

/-- A wide instruction leaves its core's list without a price to pay. -/
def State.freeWide (s : State) : State := s.dropWide fun p => p == s.me

/-- PRICE (R233, R441). -/
def priceTrap (price : Nat) : Stop := .trap { cause := 6, aux := .ofNat 64 (price % 2 ^ 32 + 8192 * 2 ^ 32) }

/-- A wide instruction whose checks have all passed issues when it is licensed, paying its price, and waits otherwise (R234). -/
def State.issueWide (s : State) (b : PriceBasis) (k : State → Res) : Res :=
  let price := s.prices.price b
  if price = 0 then k s.freeWide
  else if s.licensedOn s.gg.sys s.req.core s.me price then k (s.pay price)
  else .wait fun s0 => s0.waitWide b

end Sys2Proof.Machine
end

