-- ==== Sys2Proof/Machine/Control.lean ====
section
/-!
DEFINITION. Control transfers, special and control registers, BRK, SYS, YIELD, IDLE, ERET, TLBI and the attachment words: majors 0x1B to
0x1F and 0x70 to 0x73 (R12 to R19, R28 to R32, R39 to R48, R126 to R135, R443 to R447, R456).
-/

namespace Sys2Proof.Machine

/-! ### Transfers (R126 to R128) -/

/-- A + 4 (R13). -/
def State.linkPc (s : State) : Word64 := s.pc64 + 4

/-- R126. -/
def execBr (disp : BitVec 25) (s : State) : Out := run (.br disp) s fun b s => .jump (s.target b disp) s

/-- The conditions of R126 on an INT64. -/
def BrCond.holds (c : BrCond) (x : Word64) : Bool :=
  match c with
  | .eqz => x == 0
  | .nez => x != 0
  | .ltz => x.slt 0
  | .gez => !x.slt 0
  | .lez => !(BitVec.slt 0 x)
  | .gtz => BitVec.slt 0 x

/-- R126. A condition that fails checks no target (R127). -/
def execBrc (c : BrCond) (a : SReg) (disp : BitVec 14) (s : State) : Out :=
  run (.brc c a disp) s fun b s => if BrCond.holds c (s.rS a) then .jump (s.target b disp) s else .done s

/-- R126, R13. -/
def execCall (disp : BitVec 25) (s : State) : Out :=
  run (.call disp) s fun b s => .jump (s.target b disp) (s.wS 62 s.linkPc)

/-- R126, R127: the target is read before s62 is written. -/
def execCallr (a : SReg) (s : State) : Out := run (.callr a) s fun _ s => .jump (s.rS a) (s.wS 62 s.linkPc)

/-- R126. -/
def execRet (s : State) : Out := run .ret s fun _ s => .jump (s.rS 62) s
/-- R126. -/
def execJmpr (a : SReg) (s : State) : Out := run (.jmpr a) s fun _ s => .jump (s.rS a) s

/-! ### Special registers (R28 to R32, R129, R130) -/

/-- CYCLE as a core counts it: within 2 counts of every other core's (R30; log 2). -/
def State.cycleAt (s : State) (core : Nat) : Word64 := .ofNat 64 (s.cycle + Config.clockSkew core % 3)

/-- What MFS reads; none for a number that names no register (R28, R29, R129). -/
def State.readSpecial (s : State) (n : Nat) : Option Word64 :=
  match n with
  | 0 => some (s.cycleAt s.req.core)
  | 1 => some (s.gg.gclk.setWidth 64)
  | 2 => some (.ofNat 64 s.tr.idx)
  | 3 => some (s.gg.gidx.setWidth 64)
  | 4 => some (.ofNat 64 s.gg.ngang)
  | 5 => some (s.cur.fmt.setWidth 64)
  | 6 => some (s.tr.tilesz.setWidth 64)
  | 7 => some (s.tr.rbnd.setWidth 64)
  | 8 => some s.tr.batch
  -- a system troupe reads its core's firmware purse (R228)
  | 9 => some (.ofNat 64 (if s.gg.sys then (s.core s.req.core).fwPurse else (s.core s.req.core).purse))
  | 10 => some s.gg.srseed
  | 11 => some (s.tr.trapvec.setWidth 64)
  | _ => none

def legalTilesz (v : BitVec 6) : Bool := v == 2 || v == 4 || v == 8 || v == 16 || v == 32
def legalVector (v : BitVec 48) : Bool := v.toNat % 4 == 0

/-- What MTS writes; none where it traps ILLOP (R28, R29, R142). A write of TRAPVEC lets a frozen sibling of a user troupe go on
(R437, R442). -/
def State.writeSpecial (s : State) (n : Nat) (v : Word64) : Option State :=
  match n with
  | 5 => if legalFmt32 (v.setWidth 32) then some (s.setCur { s.cur with fmt := v.setWidth 32 }) else none
  | 6 => if legalTilesz (v.setWidth 6) then some { s with tr := { s.tr with tilesz := v.setWidth 6 } } else none
  | 7 => if (v.setWidth 8).toNat ≤ 128 then some { s with tr := { s.tr with rbnd := v.setWidth 8 } } else none
  | 11 =>
    if legalVector (v.setWidth 48) then
      let s := { s with tr := { s.tr with trapvec := v.setWidth 48 } }
      some (if s.gg.sys then s else s.unfreeze)
    else none
  | _ => none

/-- A read of a numbered register, or ILLOP. -/
def readReg (i : Instr) (d : SReg) (s : State) (f : State → Option Word64) : Out :=
  run i s fun _ s =>
    match f s with
    | some v => .done (s.wS d v)
    | none => .stop illop

/-- A write of a numbered register, or ILLOP with the register unchanged. -/
def writeReg (i : Instr) (a : SReg) (s : State) (f : State → Word64 → Option State) : Out :=
  run i s fun _ s =>
    match f s (s.rS a) with
    | some t => .done t
    | none => .stop illop

/-- R28, R29, R129. -/
def execMfs (d : SReg) (n : BitVec 7) (s : State) : Out := readReg (.mfs d n) d s fun s => s.readSpecial n.toNat
/-- R28, R29, R32, R129. -/
def execMts (n : BitVec 7) (a : SReg) (s : State) : Out := writeReg (.mts n a) a s fun s v => s.writeSpecial n.toNat v
/-- R130. -/
def execClk (d : SReg) (s : State) : Out := simple (.clk d) s fun _ s => s.wS d (s.cycleAt s.req.core)
/-- R131. -/
def execNop (s : State) : Out := simple .nop s fun _ s => s

/-- R132. -/
def execBrk (code : BitVec 14) (s : State) : Out :=
  run (.brk code) s fun _ s => .stop (.trap { cause := 9, addr := s.linkPc, aux := code.setWidth 64 })
/-- R132. -/
def execSys (code : BitVec 14) (s : State) : Out :=
  run (.sys code) s fun _ s => .stop (.trap { cause := 10, addr := s.linkPc, aux := code.setWidth 64 })

/-! ### YIELD (R134, R162) -/

/-- R134. The path is held until the quadrant's other ready paths have issued, or 16 cycles have passed. -/
def execYield (s : State) : Out :=
  simple .yield s fun _ s =>
    let others := s.readyPaths.filter fun p => p != s.me && s.sameQuadrant p s.me
    s.setCur { s.cur with yield := if others = [] then none else some (s.cycle, others) }

/-! ### Control registers (R443 to R445) -/

/-- The event bits that end an IDLE (R447). -/
def Ctl.pending (c : Ctl) : Bool := c.event &&& c.evmask != 0

/-- What MFC reads (R443). -/
def Ctl.read (c : Ctl) (n : Nat) : Option Word64 :=
  match n with
  | 0 => some (c.stvec.setWidth 64)
  | 1 => some c.stframe
  | 2 => some (c.sepc.setWidth 64)
  | 3 => some c.satt0
  | 4 => some c.satt1
  | 5 => some (c.event.setWidth 64)
  | 6 => some (c.evmask.setWidth 64)
  | 7 => some c.tmrcmp
  | 8 => some c.mcring
  | 9 => some c.mctail
  | 10 => some (c.cecnt.setWidth 64)
  | _ => none

/-- A payload that would not trap at its own attachment word (R39, R43, R52). -/
def legalPfx (p : BitVec 25) : Bool := bitsOf p.toNat 10 0 == 0 && bitsOf p.toNat 20 18 != 7
def legalOrd (p : BitVec 25) : Bool := bitsOf p.toNat 15 0 == 0 && decide (bitsOf p.toNat 24 22 < 4)

/-- R444. Both payload fields are judged, whether or not their valid bit is set (log 19). -/
def legalSatt0 (v : Word64) : Bool := bitsOf v.toNat 61 50 == 0 && legalPfx (v.extractLsb' 0 25) && legalOrd (v.extractLsb' 25 25)
def legalSatt1 (v : Word64) : Bool := bitsOf v.toNat 61 50 == 0

/-- A flat address that is a multiple of `n`. -/
def flatMultiple (v : Word64) (n : Nat) : Bool := decide (v.toNat < 2 ^ 48) && v.toNat % n == 0

/-- What MTC writes; none where it traps ILLOP (R443, R445). -/
def Ctl.write (c : Ctl) (n : Nat) (v : Word64) : Option Ctl :=
  match n with
  | 0 => if legalVector (v.setWidth 48) then some { c with stvec := v.setWidth 48 } else none
  | 1 => if flatMultiple v 256 then some { c with stframe := v } else none
  | 2 => if legalVector (v.setWidth 48) then some { c with sepc := v.setWidth 48 } else none
  | 3 => if legalSatt0 v then some { c with satt0 := v } else none
  | 4 => if legalSatt1 v then some { c with satt1 := v } else none
  | 5 => some { c with event := c.event &&& ~~~v.setWidth 8 }
  | 6 => if (v.setWidth 8).toNat < 16 then some { c with evmask := v.setWidth 8 } else none
  | 7 => some { c with tmrcmp := v }
  | 8 => if flatMultiple v 4096 then some { c with mcring := v } else none
  | 10 => some { c with cecnt := v.setWidth 32 }
  | _ => none

/-- R443, R445. -/
def execMfc (d : SReg) (n : BitVec 7) (s : State) : Out := readReg (.mfc d n) d s fun s => s.ctl.read n.toNat
/-- R443, R445. A write of STVEC lets a frozen sibling go on (R442). -/
def execMtc (n : BitVec 7) (a : SReg) (s : State) : Out :=
  writeReg (.mtc n a) a s fun s v => (s.ctl.write n.toNat v).map fun c =>
    let s := { s with ctl := c }
    if n = 0 then s.unfreeze else s

/-- R446. -/
def execEret (s : State) : Out :=
  run .eret s fun _ s => if validTarget (s.ctl.sepc.setWidth 64) then .stay s.returnFromTrap else .stop (misaligned (s.ctl.sepc.setWidth 64))

/-- R447. -/
def execIdle (s : State) : Out := run .idle s fun _ s => if s.ctl.pending then .done s else .stay (s.sleepOn (.idle Instr.idle.word))

/-! ### TLBI (R456) -/

/-- Whether a removal of a kind covers an entry: the kind, the partition, the address. -/
def TlbEntry.covered (e : TlbEntry) (kd part a : Nat) : Bool :=
  match kd with
  | 0 => e.covers part a
  | 1 | 3 => e.part == part
  | 2 => e.part == part && a / 2 ^ e.size == e.ipa / 2 ^ e.size
  | _ => true

/-- The unperformed accesses of every troupe of the gangs named perform. -/
def State.drainAll (s : State) (ps : List PathId) : State :=
  let me := s.me
  (ps.foldl (fun s p => let s := s.focusTo p; s.drain (.allOnes 32)) s).focusTo me

/-- Slot P of every troupe of the gangs that satisfy a predicate. -/
def State.allTroupes (s : State) (ok : Gang → Bool) : List PathId :=
  (s.allGangs.map fun g => if ok g then (s.troupesOf g).map fun t => (⟨g.uid, t.idx, .P⟩ : PathId) else []).flatten

/-- The unperformed stores of a saved gang perform at the slices, as those of a gang on no core. -/
def State.drainSaved (s : State) (v : SavedGang) : State :=
  let wide (e : StoreEntry) : StoreEntry := { e with mode := { e.mode with scope := scopeMax .device e.mode.scope } }
  let g := { v.gang with cluster := farCore / 8, troupes := v.gang.troupes.map fun (t : Troupe) => { t with stream := t.stream.map wide } }
  let t := ({ s with gangs := s.gangs ++ [g] }).drainAll (g.troupes.map fun (t : Troupe) => (⟨g.uid, t.idx, .P⟩ : PathId))
  let h := { (t.gang? g.uid).getD g with cluster := v.gang.cluster }
  { t with gangs := t.gangs.filter (fun x => x.uid != g.uid), saved := t.saved.map fun (x : SavedGang) => if x.gang.uid = g.uid then { x with gang := h } else x }

/-- R456, R460. The accesses the removed entries translated perform before it retires: those of resident gangs, and the stores that saved gangs
still hold (log 123). -/
def execTlbi (a b : SReg) (s : State) : Out :=
  run (.tlbi a b) s fun _ s =>
    let x := (s.rS a).toNat
    let w := (s.rS b).toNat
    let kd := bitsOf w 3 0
    let part := bitsOf w 13 8
    if 4 < kd || bitsOf w 63 14 != 0 || bitsOf w 7 4 != 0 || ((kd = 1 || kd = 3 || kd = 4) && x != 0) || 2 ^ 48 ≤ x then .stop illop
    else
      let s := { s with tlbs := s.tlbs.filter (fun e => !e.covered kd part x), wcache := s.wcache.filter fun e => !(kd == 4 || e.part == part) }
      let mine (g : Gang) : Bool := kd == 4 || g.part == part
      .done ((s.saved.filter fun v => mine v.gang && v.gang.troupes.any fun t => !t.stream.isEmpty).foldl State.drainSaved
        (s.drainAll (s.allTroupes mine)))

/-! ### Attachment words (R19, R39, R46, R48) -/

/-- An attachment word recorded as pending; a second of its kind, or a word with an illegal field, traps ILLOP with only the earlier ones
pending. -/
def attach (w : BitVec 32) (legal : Bool) (s : State) (earlier : Pend → Bool) (put : Pend → Pend) : Out :=
  if !s.cur.live then .fault .noPath
  else if !legal || earlier s.cur.att then .next (s.stopWord w illop)
  else .next ((s.setCur { s.cur with att := put s.cur.att }).advanceWord w)

/-- The four attachment words of R39. -/
def pfxWord (k : KReg) (z : BitVec 1) (rm : BitVec 3) (vc : VReg) : BitVec 32 := (0x70 : BitVec 7) ++ k ++ z ++ rm ++ vc ++ (0 : BitVec 11)
def scopeCode : OrdScope → BitVec 3
  | .troupe => 0 | .gang => 1 | .device => 2 | .system => 3
def orderCode : OrdOrder → BitVec 2
  | .relaxed => 0 | .acquire => 1 | .release => 2 | .acqRel => 3
def ordWord (scope : OrdScope) (order : OrdOrder) (nd : BitVec 4) : BitVec 32 :=
  (0x71 : BitVec 7) ++ scopeCode scope ++ orderCode order ++ nd ++ (0 : BitVec 16)
def limmWord (high : BitVec 25) : BitVec 32 := (0x72 : BitVec 7) ++ high
def hintWord (kind : BitVec 4) (arg : BitVec 21) : BitVec 32 := (0x73 : BitVec 7) ++ kind ++ arg

/-- R39, R41. -/
def execPfx (k : KReg) (z : BitVec 1) (rm : BitVec 3) (vc : VReg) (s : State) : Out :=
  attach (pfxWord k z rm vc) (rm != 7) s (fun a => a.pfx.isSome) fun a => { a with pfx := some ((pfxWord k z rm vc).setWidth 25) }
/-- R39, R43. -/
def execOrd (scope : OrdScope) (order : OrdOrder) (nd : BitVec 4) (s : State) : Out :=
  attach (ordWord scope order nd) true s (fun a => a.ord.isSome) fun a => { a with ord := some ((ordWord scope order nd).setWidth 25) }
/-- R39, R44. -/
def execLimm (high : BitVec 25) (s : State) : Out :=
  attach (limmWord high) true s (fun a => a.limm.isSome) fun a => { a with limm := some high }
/-- R39, R45. -/
def execHint (kind : BitVec 4) (arg : BitVec 21) (s : State) : Out :=
  attach (hintWord kind arg) true s (fun a => a.hint.isSome) fun a => { a with hint := some (kind ++ arg) }

end Sys2Proof.Machine
end

