-- ==== Sys2Proof/Machine/PathEvents.lean ====
section
/-!
DEFINITION. Events of a path's scheduling: IDLE_WAKE, YIELD_HOLD_EXPIRE, PATH_OVERDUE, TIMER_COMPARE (R134, R162, R443, R447).
-/

namespace Sys2Proof.Machine

/-- R447. A path asleep in IDLE goes on while an unmasked event bit is set; not while its gang is being saved (R484). -/
def execIdleWake (p : PathId) (s : State) : Out :=
  .next (s.onPath p fun s =>
    match s.cur.sleep with
    | some (.idle w) => if s.cur.live && !s.cur.frozen && s.gg.save.isNone && s.ctl.pending then s.wakeUp w else s
    | _ => s)

/-- R134. The hold ends once 16 cycles have passed since the YIELD. -/
def execYieldHoldExpire (p : PathId) (s : State) : Out :=
  .next (s.onPath p fun s =>
    match s.cur.yield with
    | some (t, _) => if t + 16 ≤ s.cycle then s.setCur { s.cur with yield := none, readyAt := s.cycle } else s
    | none => s)

/-- R162. A path that has been ready for 16 cycles without issuing becomes overdue. -/
def execPathOverdue (p : PathId) (s : State) : Out :=
  .next (s.onPath p fun s =>
    if s.readyPaths.contains p && decide (max s.cur.readyAt s.cur.lastIssue + 16 ≤ s.cycle) then s.setCur { s.cur with overdue := true } else s)

/-- R443. -/
def execTimerCompare (s : State) : Out :=
  .next (if s.ctl.tmrcmp.toNat ≤ s.cycle then { s with ctl := { s.ctl with event := s.ctl.event ||| 4 } } else s)

/-- The latest attempt of a path had to wait: it has not issued (R162). -/
def State.waitedAt (s : State) (p : PathId) : Bool := ((s.slotAt? p).waits && (s.slotAt? p).wrap.isNone) || (s.slotAt? p).walking

/-- A path has issued (R134, R162): its own record, and the holds that waited for it. A path that has never issued counts as the least recently
issued, and one that a JOIN or an EXIT resumes or merges into a slot as issued with that instruction (log 108). -/
def State.noteIssued (s : State) (p : PathId) : State :=
  let clear (x : Slot) : Slot :=
    match x.yield with
    | some (t, l) => let l := l.filter fun o => o != p
                     if l = [] then { x with yield := none, readyAt := s.cycle } else { x with yield := some (t, l) }
    | none => x
  let fix (t : Troupe) : Troupe := { t with p := clear t.p, q := clear t.q }
  let fixG (g : Gang) : Gang := { g with troupes := g.troupes.map fix }
  let s := { s with tr := fix s.tr, gg := fixG s.gg, gangs := s.gangs.map fixG }
  s.updTroupe p.gang p.troupe fun t => t.setSlot p.slot { (t.slot p.slot) with lastIssue := s.cycle, overdue := false }

/-- A path that is not ready has not been ready since: its ready cycles count anew, and it is no longer overdue (R162). -/
def State.countReady (s : State) : State :=
  let ready := s.readyPaths
  let fix (g : Gang) (t : Troupe) : Troupe :=
    let f (i : SlotId) (x : Slot) : Slot := if !x.live || ready.contains ⟨g.uid, t.idx, i⟩ then x else { x with readyAt := s.cycle, overdue := false }
    { t with p := f .P t.p, q := f .Q t.q }
  let all (g : Gang) : Gang := { g with troupes := g.troupes.map (fix g) }
  { s with tr := fix s.gg s.tr, gg := all s.gg, gangs := s.gangs.map all }

end Sys2Proof.Machine
end

