-- ==== Sys2Proof/Machine/Carousel.lean ====
section
/-!
DEFINITION. The carousel: ring, injector, purses, pledges, prices and clocks (R222 to R242). The order and payment of wide instructions
stands in Wide.lean.
-/

namespace Sys2Proof.Machine

/-! ### Clusters and holders -/

def State.cluster (s : State) (c : Nat) : Cluster := s.clusters.get (Fin.ofNat 16 c)
def State.updCluster (s : State) (c : Nat) (f : Cluster → Cluster) : State :=
  { s with clusters := s.clusters.set (c % 16) (f (s.cluster c)) (Nat.mod_lt _ (by decide)) }

/-- The partition a cluster belongs to: its borrower, else its holder (R225, R465, R468). -/
def Cluster.owner (c : Cluster) : Option Nat := c.borrower.or c.holder
def State.ownerOf (s : State) (core : Nat) : Option Nat := (s.cluster (core / 8)).owner

/-- Effective shares: the partition's minus its children's (R466). -/
def State.share (s : State) (p : Nat) : Nat := (s.part p).sh.wsh - ((s.childrenOf p).map fun c => c.sh.wsh).sum

/-- A cluster passes to another partition: its purses are emptied (R227), and the penalties of its L1s reset (R280). -/
def State.emptyPurses (s : State) (cl : Nat) : State :=
  { s with cores := s.cores.map fun c => if c.core / 8 = cl then { c with purse := 0 } else c,
           caches := s.caches.map fun c => if c.inst / 8 = cl then { c with reqrs := c.reqrs.filter fun r => decide (r.who < 2 ^ 40) } else c }

/-! ### Licence and injection (R223) -/

def licence (p : Nat) : Nat := min 1250 (p - 550)
/-- ceil(L / 1.9 W). -/
def injection (l : Nat) : Nat := (10 * l + 18) / 19

/-! ### The ring (R222, R224 to R226) -/

/-- Whether the partition has a stop that holds a pledge (R236). -/
def State.pledged (s : State) (part : Nat) : Bool :=
  s.cores.any fun c => if part = 63 then c.pledgeSys else c.pledge && s.ownerOf c.core == some part

/-- n_p: the stops that belong to the partition (R236), or hold a resident system troupe for partition 63 (R228). -/
def State.stopsOf (s : State) (part : Nat) : Nat :=
  ((List.range 128).filter fun c => if part = 63 then s.sysOn c else s.ownerOf c == some part).length

def State.lapTotalOf (s : State) (part : Nat) : Nat := if part = 63 then s.fwTotal else (s.part part).lapTotal

/-- Whether a core is an early core of a gang resident on it (R240). -/
def State.early (s : State) (core : Nat) : Bool :=
  s.late.any fun r => r.anyLate && !r.late core &&
    match s.gang? r.gang with
    | some g => decide (8 * g.cluster + g.core0 ≤ core) && decide (core < 8 * g.cluster + g.core0 + g.nC)
    | none => false

/-- A stop takes from a packet what its limits allow (R225, R236, R240): of a packet tagged 63 into the firmware purse (R228). -/
def State.capture (s : State) (stop : Nat) (p : Packet) : State × Packet :=
  let early (level : Nat) : Nat := if s.early stop then 4096 - level else 8192
  let n (level captured : Nat) (capped : Bool) : Nat :=
    min p.count (min (8192 - level) (min (if capped then p.cap - captured else 8192) (early level)))
  let c := s.core stop
  if p.part = 63 then
    if s.sysOn stop then
      let n := n c.fwPurse c.capturedSys c.cappedSys
      (s.setCore { c with fwPurse := c.fwPurse + n, capturedSys := c.capturedSys + n }, { p with count := p.count - n })
    else (s, p)
  else if s.ownerOf stop = some p.part then
    let n := n c.purse c.captured c.capped
    (s.setCore { c with purse := c.purse + n, captured := c.captured + n }, { p with count := p.count - n })
  else (s, p)

/-- The stop whose lap begins in this ring cycle: pledge mode is decided for the lap (R222, R236). -/
def State.stopLap (s : State) : State :=
  if s.ring = 0 then s
  else
    let stop := (s.ring - 1) % 128
    if s.cores.any fun c => c.core == stop then
      s.setCore { (s.core stop) with captured := 0, capturedSys := 0, cappedSys := s.pledged 63,
                                     capped := ((s.ownerOf stop).map s.pledged).getD false }
    else if ((s.ownerOf stop).map s.pledged).getD false || s.pledged 63 then
      s.setCore { (s.core stop) with cappedSys := s.pledged 63, capped := ((s.ownerOf stop).map s.pledged).getD false }
    else s

/-- Every packet at a stop is offered to it; a packet past stop 127 expires (R222, R226). -/
def State.turn (s : State) : List Packet → State × List Packet
  | [] => (s, [])
  | p :: r =>
    let d := s.ring - p.born
    let (s, p) := if 1 ≤ d ∧ d ≤ 128 then s.capture (d - 1) p else (s, p)
    let (s, ps) := s.turn r
    (s, if d ≤ 128 then p :: ps else ps)

/-- The packets of an injector lap (R224): one for each partition with tokens, the firmware's 63 last, with the cap of the lap (R236). -/
def State.lapPackets (s : State) : List Packet :=
  (((s.parts.filter fun (p : Partition) => p.active && p.lapTotal != 0 && p.id != 63).map Partition.id ++ (if s.fwTotal = 0 then [] else [63])).map fun p =>
    (⟨p, s.lapTotalOf p, 0, s.lapTotalOf p / max 1 (s.stopsOf p)⟩ : Packet))

/-- R222, R224 to R226. Each partition's whole total of a lap stands in one packet, in the lap's first cycles; the spec leaves the division
open. What the cycle finds ready is counted first (R162, R234). -/
def execRingCycle (s : State) : Out :=
  if s.lapFixed * 128 ≤ s.ring then .next s
  else
    let s := s.countReady.stopLap
    let (s, ps) := s.turn s.packets
    .next { s with packets := ps ++ (s.lapServes.take 1).map (fun p => { p with born := s.ring }), lapServes := s.lapServes.drop 1, ring := s.ring + 1 }

/-- T_p and the carry, in 1/4,096 (R224). -/
def lapShare (inj w carry : Nat) : Nat × Nat := ((128 * inj * w + carry) / 4096, (128 * inj * w + carry) % 4096)

/-- R224, R463: at a lap's start accepted UPDATEs come into force and every partition's total is fixed. -/
def execInjectorLapStart (s : State) : Out :=
  if s.ring ≠ 128 * s.lapFixed then .next s
  else
    let s := { s with parts := s.parts.map fun (p : Partition) => match p.update with
      | some v => { p with sh := v, update := none }
      | none => p }
    let i := injection (licence s.watts)
    let parts := s.parts.map fun p =>
      let r := lapShare i (if p.active then s.share p.id else 0) p.carry
      { p with lapTotal := r.1, carry := r.2 }
    let f := lapShare i s.wfw s.fwCarry
    let s := { s with parts := parts, fwTotal := f.1, fwCarry := f.2, lapFixed := s.lapFixed + 1 }
    .next { s with lapServes := s.lapPackets }

/-- R235. -/
def execPledgeRaise (core : Nat) (s : State) : Out :=
  let c := s.core core
  let c := if c.wide ≠ [] ∧ c.headAt + 256 ≤ s.ring then { c with pledge := true } else c
  let c := if c.wideSys ≠ [] ∧ c.headAtSys + 256 ≤ s.ring then { c with pledgeSys := true } else c
  .next (s.setCore c)

/-! ### Prices and power (R223, R231, R232, R531) -/

/-- Whether new prices lie in the ranges of R231. -/
def PriceArgs.legal (t : PriceArgs) : Bool :=
  let within (v : BitVec 32) (lo hi : Nat) := decide (lo ≤ v.toNat) && decide (v.toNat ≤ hi)
  within t.mac16 2048 8192 && within t.mac8 4096 16384 && within t.mac4 8192 32768 && within t.pass 1 4 && within t.bsqp 1 4 &&
    within t.copyb 4096 65536 && t.copyb.toNat == 2 ^ Nat.log2 t.copyb.toNat

/-- The second half of an update: the fields and an even GEN (R232). -/
def State.endPriceUpdate (s : State) : State :=
  match s.priceNext with
  | some p => { s with prices := { p with gen := s.prices.gen + 1 }, priceNext := none }
  | none => s

/-- The table with an update's fields. -/
def PriceArgs.over (t : PriceArgs) (p : Prices) : Prices :=
  { p with mac16 := t.mac16, mac8 := t.mac8, mac4 := t.mac4, pass := t.pass.setWidth 8, bsqp := t.bsqp.setWidth 8, copyb := t.copyb }

/-- R231, R232. Started with GEN even it makes GEN odd; the same step made again writes the fields and makes GEN even. While another update
is in progress that one ends first. Prices out of range change nothing. -/
def execPriceTableUpdate (t : PriceArgs) (s : State) : Out :=
  let u := s.endPriceUpdate
  if PriceArgs.legal t && !(s.priceNext.isSome && PriceArgs.over t u.prices == u.prices) then
    .next { u with prices := { u.prices with gen := u.prices.gen + 1 }, priceNext := some (PriceArgs.over t u.prices) }
  else .next u

/-- P set, and its licence published by the steps of R232 (R223, R531). -/
def State.setWatts (s : State) (w : Nat) : State :=
  let s := s.endPriceUpdate
  let l := licence w
  { s with watts := w, prices := { s.prices with gen := s.prices.gen + 1 },
           priceNext := some { s.prices with licw := .ofNat 16 l, inj := .ofNat 16 (injection l) } }

/-- R223, R531. A limit outside 1,000 to 1,800 W is refused. -/
def execSetPowerLimit (w : Nat) (s : State) : Out :=
  .next (if 1000 ≤ w ∧ w ≤ 1800 then ({ s with wattsSet := w }).setWatts w else s)

/-- R228, R464. A share outside 0 to 256, or one with which the shares exceed 4,096, is refused. -/
def execSetWfw (w : Nat) (s : State) : Out :=
  let sum := ((s.counted.filter fun p => p.parent == 63).map fun p => (p.update.getD p.sh).wsh).sum
  .next (if w ≤ 256 ∧ sum + w ≤ 4096 then { s with wfw := w } else s)

/-! ### Clocks (R238 to R241) -/

/-- R238. -/
def execSetClusterFrequency (cl mhz : Nat) (s : State) : Out :=
  .next (if cl < 16 ∧ 600 ≤ mhz ∧ mhz ≤ 2100 ∧ mhz % 25 = 0 then s.updCluster cl fun c => { c with setMhz := mhz } else s)

/-- Boost steps up and down in force at a cluster (R240). -/
def State.boostUp (s : State) (cl : Nat) : Nat := (s.boosts.filter fun b => b.2.1 / 8 == cl).length
def State.boostDown (s : State) (cl : Nat) : Nat := (s.boosts.filter fun b => b.2.2 == cl).length
/-- The frequency the loop moves toward. -/
def State.targetMhz (s : State) (cl : Nat) : Nat :=
  max 600 (min 2100 ((s.cluster cl).setMhz + 25 * s.boostUp cl - 25 * s.boostDown cl))

/-- One step of a cluster's loop toward a frequency (R238): upward the voltage rises first; downward it falls after the frequency, before the
next step. -/
def Cluster.fll (c : Cluster) (t : Nat) : Cluster :=
  if c.mhz < t then { c with volt := c.mhz + 25, mhz := c.mhz + 25 }
  else if t < c.mhz then { c with volt := c.mhz, mhz := c.mhz - 25 }
  else { c with volt := c.mhz }

/-- R238. -/
def execFllStep (cl : Nat) (s : State) : Out :=
  .next (if cl < 16 then s.updCluster cl fun c => c.fll (s.targetMhz cl) else s)

/-- R239. -/
def execDroopTrip (cl : Nat) (s : State) : Out := .next (if cl < 16 then s.updCluster cl fun c => { c with droop := true } else s)
/-- R239. -/
def execDroopClear (cl : Nat) (s : State) : Out := .next (if cl < 16 then s.updCluster cl fun c => { c with droop := false } else s)

/-- The level-one partition of a partition (R462). -/
def State.levelOne (s : State) (p : Nat) : Nat := if (s.part p).parent = 63 then p else (s.part p).parent

/-- Whether some core of the cluster is late for a gang resident on it. -/
def State.clusterLate (s : State) (cl : Nat) : Bool := (List.range 8).any fun k => s.late.any fun r => r.late (8 * cl + k)

/-- A step's phases counted off a late core (R240). -/
def Lateness.spend (r : Lateness) (core : Nat) : Lateness :=
  { r with kept := r.kept.map fun x => if x.1 = core then (core, x.2 - 8) else x }

/-- R240. After 8 phases that keep a core late, a step up for its cluster, and one down for the lowest cluster of the same level-one partition
without a late core; where there is none, or the cluster is at its limit, the step is not taken. -/
def execBoostStep (g core : Nat) (s : State) : Out :=
  let r := findD Lateness.gang g { gang := g } s.late
  let cl := core / 8
  let level (c : Nat) := (s.cluster c).owner.map s.levelOne
  let donor := (List.range 16).find? fun c => c != cl && level c == level cl && (level c).isSome && !s.clusterLate c && decide (625 ≤ s.targetMhz c)
  .next (if cl < 16 ∧ r.late core ∧ 8 ≤ coreCount r.kept core then
    let s := { s with late := upsert Lateness.gang (r.spend core) s.late }
    match donor with
    | some d => if s.boostUp cl < 4 ∧ s.targetMhz cl + 25 ≤ 2100 then { s with boosts := s.boosts ++ [(g, core, d)] } else s
    | none => s
  else s)

/-- R240. The steps taken for a core return 8 phases after it ceases to be late, or with its gang. -/
def execBoostReturn (core : Nat) (s : State) : Out :=
  .next { s with boosts := s.boosts.filter fun b =>
    b.2.1 != core || (s.gang? b.1).isSome && decide (coreCount (findD Lateness.gang b.1 { gang := b.1 } s.late).clear core < 8) }

/-- R241. -/
def execEngineRampComplete (core : Nat) (s : State) : Out :=
  let c := s.core core
  .next (match c.ramp with
    | .ramping t hold => if t + 64 ≤ s.cycle then s.setCore { c with ramp := .ramped (s.cycle + hold) } else s
    | _ => s)
/-- R241. -/
def execEngineRampExpire (core : Nat) (s : State) : Out :=
  let c := s.core core
  .next (match c.ramp with
    | .ramped u => if u ≤ s.cycle then s.setCore { c with ramp := .idle } else s
    | _ => s)

end Sys2Proof.Machine
end

