-- ==== Sys2Proof/Machine/Monitors.lean ====
section
/-!
DEFINITION. WAITC and its monitors, FENCE, CLINE, PF and GADDR: major 0x5E fn 4 to 11, MONITOR_FIRE and MONITOR_POLL (R297 to R304, R249).
-/

namespace Sys2Proof.Machine

/-- The conditions of R297. -/
def WaitCond.holds (c : WaitCond) (x v : Word64) : Bool :=
  match c with
  | .ge => decide ((v.setWidth 63).toNat ≤ (x.setWidth 63).toNat)
  | .eq => x == v
  | .ne => x != v
  | .gen => decide (v.toNat ≤ x.toNat)

/-! ### Monitors (R299, R300) -/

/-- The 8 bytes at a monitor's place, and whether an L1 or a slice holds the line there. -/
def State.atPlace (s : State) (g : Gang) (p : MonPlace) (a : Nat) : Nat × Bool :=
  match p with
  | .pad => (readCells g.scratch a 8, false)
  | .l1 core =>
    match (s.cache core).find (lineOf a) with
    | some l => (l.data.toNat / 2 ^ (8 * (a % 128)) % 2 ^ 64, true)
    | none => (s.viewNat 0 a 8, false)
  | .slice i => (s.viewNat 0 a 8, ((s.cache i).find (lineOf a)).isSome)
  | .away => (s.viewNat 0 a 8, false)

/-- Where writes of a scope meet for a location (R299). -/
def State.monPlace (s : State) (r : Req) (scope : OrdScope) : Loc → MonPlace × Nat
  | .scratch off => (.pad, off)
  | .price off => (.away, off)
  | .phys pa mt => (if !s.homed pa then .away else if s.pointL1 r scope pa mt then .l1 r.core else .slice (l2Slice pa), pa)

/-- A monitor armed at a location. -/
def State.arm (s : State) (r : Req) (g : Gang) (scope : OrdScope) (l : Loc) : Monitor :=
  let p := s.monPlace r scope l
  let v := s.atPlace g p.1 p.2
  ⟨p.1, p.2, v.1, v.2⟩

/-- Whether a monitor has fired (R299): a write has changed its bytes at its place, or its line has left there. A write of the bytes that stand
there changes nothing the read of R298 could see. One that is not armed yet, as after a resumption, calls for a read at once. -/
def State.fired (s : State) (g : Gang) : Option Monitor → Bool
  | none => true
  | some m =>
    let v := s.atPlace g m.place m.at_
    v.1 != m.val || (m.here && !v.2)

/-- One read of a WAITC (R298) with the distance of its ORD (R43, R275): whether the condition holds, and where it reads. It binds no value ahead:
each read finds what stands there now. -/
def State.waitRead (s : State) (x v : Word64) (c : WaitCond) (scope : OrdScope) (acq : Bool) (nd : BitVec 4) : Except Stop (Bool × Loc × State) :=
  match s.resolve true .read 8 [(0, x)] with
  | .error e => .error e
  | .ok (ls, s) =>
    match s.dataErr true [(0, x)] ls with
    | some e => .error e
    | none =>
      let mode : AccMode := { scope := scope, order := if acq then .acquire else .relaxed, nd := nd }
      let s := s.settle s.pmask ls 8
      let s := if acq then s.acquireL1 s.req.core s.gg.part scope s.req.one else s
      let l : Loc := (ls.map Prod.snd).headD (.price 0)
      let b := s.bindLoad false s.pmask mode l 8
      .ok (WaitCond.holds c (.ofNat 64 b.1) v, l, ((s.noteSeen ls 8).afterLoad mode b.2).addFills mode false 8 [l])

/-- A path falls asleep in WAITC, with a monitor entry when the pool grants one (R298, R300). -/
def State.sleepWaitc (s : State) (x v : Word64) (c : WaitCond) (scope : OrdScope) (acq : Bool) (word : BitVec 32) (l : Loc) : State :=
  let s := s.applyHint s.cur.att.hint
  let ok := s.mayTake .monitor s.gg.part 1 none
  let s := if ok then s.takeEntry .monitor s.gg.part 1 else s.noteRefusal .monitor s.gg.part
  let s := s.setCur { s.cur with askedAt := s.cycle }
  s.sleepOn (.waitc x v c scope acq ok word (if ok then some (s.arm s.req s.gg scope l) else none))

/-- R297, R298. The path sleeps at its word until a read satisfies the condition. -/
def execWaitc (c : WaitCond) (a b : SReg) (s : State) : Out :=
  run (.waitc c a b) s fun bd s =>
    let x := s.rS a
    let v := s.rS b
    let acq := isAcquire bd.ord.order
    match s.waitRead x v c bd.ord.scope acq bd.ord.nd with
    | .error e => .stop e
    | .ok (ok, l, s) =>
      if s.heldBack s.pmask then .wait id
      else if ok then .done (s.noteClip bd.ord.scope)
      else .wait fun s0 => ((s0.addFills { nd := bd.ord.nd, scope := bd.ord.scope } false 8 [l]).sleepWaitc x v c bd.ord.scope acq
        (Instr.waitc c a b).word l).noteClip bd.ord.scope

/-- The sleeping WAITC of the path in focus leaves the monitor pool and the path is awake. -/
def State.endWaitc (s : State) (entry : Bool) : State :=
  let s := if entry then s.giveEntry .monitor s.gg.part 1 else s
  s.setCur { s.cur with sleep := none, readyAt := s.cycle }

/-- A sleeping path re-reads when its monitor has fired, or, without an entry, at a poll (R298 to R300): it retires, sleeps on with its monitor
armed anew, or meets a fault. A page no TLB maps is walked at once. -/
def State.recheck (s : State) (poll : Bool) : State :=
  if !s.cur.live || s.cur.frozen || s.tr.park.isSome || s.gg.save.isSome then s
  else
    match s.cur.sleep with
    | some (.waitc x v c scope acq entry word mon) =>
      if (if entry then poll || !s.fired s.gg mon else !poll) then s
      else
        match (s.setCur { s.cur with walked := x.toNat / 4096 :: s.cur.walked }).waitRead x v c scope acq s.cur.att.bound.ord.nd with
        | .ok (true, _, s) => (((s.endWaitc entry)).setCur { (s.endWaitc entry).cur with att := {} }).advanceWord word
        | .ok (false, l, s) =>
          s.setCur { s.cur with sleep := some (.waitc x v c scope acq entry word (if entry then some (s.arm s.req s.gg scope l) else none)) }
        | .error e => (s.endWaitc entry).stopWord word e
    | _ => s

/-- A dependence of a card read by the ringmaster at device scope (R249): by its monitor when that has fired, or at a poll. -/
def State.readDep (s : State) (part : Nat) (poll : Bool) (d : Dep) : State × Dep :=
  if d.held || (if d.entry then poll || !s.fired {} d.mon else !poll) then (s, d)
  else
    match s.flatNat part d.ctr 8 with
    | .ok v =>
      let s := s.askFlat part d.ctr 8
      if WaitCond.holds .ge (.ofNat 64 v) d.val then
        (if d.entry then s.giveEntry .monitor part 1 else s, { d with held := true, entry := false, mon := none })
      else
        match s.flatPa part d.ctr .read with
        | .ok pa mt => (s, { d with mon := some (s.arm ⟨0, 0, part, false, false, 0⟩ {} .device (.phys pa mt)) })
        | _ => (s, d)
    | .error _ => (s, d)

def State.readDeps (s : State) (part : Nat) (poll : Bool) : List Dep → State × List Dep
  | [] => (s, [])
  | d :: r =>
    let (s, d) := s.readDep part poll d
    let (s, ds) := s.readDeps part poll r
    (s, d :: ds)

/-- The dependences of every staged card of a queue read again (R249). -/
def State.recheckCards (s : State) (q : Nat) (poll : Bool) : State :=
  let x := s.queue q
  let step (acc : State × List Card) (c : Card) : State × List Card :=
    let (s, ds) := acc.1.readDeps x.part poll c.deps
    (s, acc.2 ++ [{ c with deps := ds }])
  let (s, cs) := x.cards.foldl step (s, [])
  s.setQueue { (s.queue q) with cards := cs }

/-- A watcher re-reads. -/
def State.watch (s : State) (w : Watcher) (poll : Bool) : State :=
  match w with
  | .path p => s.onPath p fun s => s.recheck poll
  | .card q => s.recheckCards q poll

/-- R299, R300. A watcher whose monitor has fired reads again. -/
def execMonitorFire (w : Watcher) (s : State) : Out := .next (s.watch w false)
/-- R300. Only what holds no monitor entry polls. -/
def execMonitorPoll (w : Watcher) (s : State) : Out := .next (s.watch w true)

/-- R301. -/
def execFence (s : State) : Out :=
  run .fence s fun b s =>
    let o := b.ord.order
    let s := if isRelease o then s.releaseFor b.ord.scope (s.clips b.ord.scope) else s
    let s := if isAcquire o then s.acquire s.pmask b.ord.scope s.tr.ins else s
    .done (s.noteClip b.ord.scope)

/-- A line marked dead at every level of the module that holds it (R277, R302). -/
def State.markDead (s : State) (line : Nat) : State :=
  { s with caches := s.caches.map fun c => { c with lines := c.lines.map fun l => if l.line = line then { l with dead := true } else l } }

/-- R302. Its translation asks for read permission (log 129). -/
def execCline (a : SReg) (s : State) : Out :=
  run (.cline a) s fun b s =>
    let s := s.noteClip b.ord.scope
    match s.classify 0 (s.rS a) with
    | .flat va =>
      if isPricePage s.gg.sys va then .done s
      else
        match s.place none 0 (s.rS a) .read with
        | .ok (.phys pa _, t) =>
          let t := match (t.cache t.req.core).find (lineOf pa) with
            | some l => t.writeBack t.req.core l
            | none => t
          .done (t.markDead (lineOf pa))
        | .error (.walk v k) => .stop (.walk v k)
        | _ => .done s
    | _ => .done s

/-- The deepest level PF fills (R303): 1 the L1, 2 the home slice or the RDC, 3 the MSC slice. -/
def pfDepth : OrdScope → Nat
  | .troupe | .gang => 1
  | .device => 2
  | .system => 3

/-- Outstanding-request entries of a core (R287). -/
def requestEntries : Nat := 768

/-- The request entries of a core in use: its requests, and the prefetches that wait for a walk (R287, R303). -/
def State.entriesOf (s : State) (core : Nat) : Nat :=
  (s.fills.filter fun f => f.core == core).length + ((s.walks.filter fun w => w.core == core).map fun w => w.fills.length).sum

/-- R303. A hit in the TLBs asks for the line; a miss joins or posts a walk that asks for it when it ends. Without a free request entry it is
dropped. In a NEAR region it asks the slices alone (R510). -/
def execPf (a : SReg) (s : State) : Out :=
  run (.pf a) s fun b s =>
    let s := (s.noteClip b.ord.scope).countRetire
    match s.classify 0 (s.rS a) with
    | .flat va =>
      let core := s.req.core
      if isPricePage s.gg.sys va || requestEntries ≤ s.entriesOf core then .done s
      else
        let near := s.req.dom != 0
        let f : Fill := { core := core, pa := 0, scope := b.ord.scope, nd := b.ord.nd, gang := s.gg.uid, part := s.gg.part, pass := near,
                          depth := if near then 2 else pfDepth b.ord.scope }
        let same (w : Walk) : Bool := w.isFor core s.gg.part s.gg.sys va
        match s.tlbFind core s.gg.part va with
        | some e =>
          if e.r then .done { s with fills := s.fills ++ [{ f with pa := e.pa + va % 2 ^ e.size, mt := e.mt }] } else .done s
        | none =>
          -- until its walk ends the request keeps the virtual address
          let f := { f with pa := va }
          if s.walks.any same then .done { s with walks := s.walks.map fun w => if same w then { w with fills := w.fills ++ [f] } else w }
          -- beyond the core's walk slots it waits for one (R454)
          else .done { s with walks := s.walks ++ [{ core := core, part := s.gg.part, sys := s.gg.sys, va := va, acc := .read, fills := [f] }] }
    | _ => .done s

/-- R304. -/
def execGaddr (d a : SReg) (s : State) : Out :=
  run (.gaddr d a) s fun _ s =>
    match s.classify 0 (s.rS a) with
    | .flat va => .done (s.wS d (.ofNat 64 va))
    | _ => .stop (addrFault (s.rS a))

end Sys2Proof.Machine
end

