-- ==== Sys2Proof/Machine/Work.lean ====
section
/-!
DEFINITION. Asynchronous work: batches, completion, counter adds, engine accesses and failures, records read at issue, SEAL, WAITB and its
wake, shape records and SHPW, SHPI (R335 to R347, R351 to R353).
-/

namespace Sys2Proof.Machine

/-! ### The list of work -/

def State.work? (s : State) (w : Nat) : Option Work := s.works.find? fun x => x.uid == w
def State.setWork (s : State) (w : Work) : State := { s with works := s.works.map fun x => if x.uid = w.uid then w else x }
def State.dropWork (s : State) (w : Nat) : State := { s with works := s.works.filter fun x => x.uid != w }

/-- The batch an instruction joins now (R335). -/
def State.openBatch (s : State) : BitVec 64 := s.tr.batch + 1

/-- The meaning of an access that waits while asynchronous work of the path's lanes holds it back (R344). -/
def State.unheld (s : State) (k : Res) : Res := if s.heldBack s.pmask then .wait State.freeWide else k

/-- Whether a work is a copy's: the issuing lanes' earlier stores to its bytes perform before the engine touches them (R344, rule 1). -/
def WorkKind.copies : WorkKind → Bool
  | .copy _ => true
  | _ => false

/-- An asynchronous instruction joins the open batch (R335): the work's name and the state. With ORD release the issuing lanes' earlier accesses
have performed and are written back (R344, rule 3); those of another engine's work perform first as well (log 20), those of a copy where its
bytes meet them. An acquire lets no load stand that has bound ahead (R344, rule 3). -/
def State.addWork (s : State) (kind : WorkKind) (ctr : Nat) (inc : BitVec 32) (mode : AccMode) : Nat × State :=
  let s := if isRelease mode.order then s.releaseFor mode.scope (s.clips mode.scope) else if kind.copies then s else s.drain s.pmask
  let s := if isAcquire mode.order then s.forget s.pmask s.tr.ins else s
  let w : Work := { uid := s.nextUid, pc := s.pc, gang := s.gg.uid, troupe := s.tr.idx, batch := s.openBatch, lanes := s.pmask, core := s.req.core,
                    part := s.gg.part, sys := s.gg.sys, ins := s.tr.ins, ctr := ctr, inc := inc, mode := mode, kind := kind }
  (s.nextUid, { s with works := s.works ++ [w], nextUid := s.nextUid + 1 })

/-- Once the last read of a work with ORD acquire has bound, the core's copies are invalid for the issuing lanes (R344, rule 3). -/
def State.readsBound (s : State) (w : Nat) : State :=
  match s.work? w with
  | some x =>
    if isAcquire x.mode.order && !x.reading then s.acquireL1 x.core x.part x.mode.scope (((s.gang? x.gang).map s.oneCore).getD false) else s
  | none => s

/-- An engine fails at an element (R347, R378, R403, R419): the error flag, and the gang's first failure for its record (R441). Engines: 0
copy, 1 matrix, 2 layer, 3 field. -/
def State.engineError (s : State) (w engine addr : Nat) : State :=
  match s.work? w with
  | none => s
  | some x =>
    let note (g : Gang) : Gang := { g with engErr := g.engErr.or (some
      { cause := 12, gang := g.gidx.toNat, troupe := x.troupe, sysp := g.sys, addr := .ofNat 64 addr, aux := .ofNat 64 engine }) }
    let s := (s.setWork { x with err := true }).updGang x.gang note
    { s with saved := s.saved.map fun v => if v.gang.uid = x.gang then { v with gang := note v.gang } else v }

/-- The units of an element; whether all have landed, one waits for a fault, some have started and not landed (R484). -/
def CopyWork.unitsOf (c : CopyWork) (e : Nat) : List Nat := (List.range c.per).map fun h => e * c.per + h
def CopyWork.landed (c : CopyWork) (e : Nat) : Bool := (c.unitsOf e).all fun u => c.done.testBit u
def CopyWork.parked (c : CopyWork) (e : Nat) : Bool := (c.unitsOf e).any fun u => c.waits.any fun w => w.1 == u
def CopyWork.begun (c : CopyWork) (e : Nat) : Bool :=
  !c.landed e && !c.parked e && (c.unitsOf e).any fun u => c.done.testBit u || c.vals.any fun v => v.1 == u

/-- Replay entries that record what is left of a work (R484): one for the elements of a copy that have not begun, as R498 counts them; one for
an unfinished matrix instruction; one for each unit of a layer instruction (R404). -/
def Work.left (x : Work) : Nat :=
  match x.kind with
  | .copy c => if (List.range c.n).any fun e => !c.landed e && !c.parked e && !c.begun e then 1 else 0
  | .matrix _ => 1
  | .layer l =>
    if l.wrote then 0
    else max 1 ((l.passes.filter fun p => p.out.isNone).map fun p => (p.row, p.c)).dedup.length
  | _ => 0

/-- Elements that have started and not landed (R484). -/
def Work.started (x : Work) : List Nat :=
  match x.kind with
  | .copy c => (List.range c.n).filter c.begun
  | _ => []

/-- Whether the gang of a work is being saved. -/
def State.saving (s : State) (x : Work) : Bool := ((s.gang? x.gang).map fun g => g.save.isSome).getD false

/-- Whether an item may begin at its place: the gang is resident; while it is being saved, only an item that no replay entry records
(R483, R484). -/
def State.begins (s : State) (x : Work) : Bool :=
  (s.gang? x.gang).isSome && (!s.saving x || decide (x.saveEntries + x.reserve < x.left))

/-- Whether engines act for a work: items may begin, or started ones have to land. -/
def State.runs (s : State) (x : Work) : Bool := s.begins x || ((s.gang? x.gang).isSome && !x.started.isEmpty)

/-! ### Counter adds (R339) -/

/-- The new value of a counter (R339). -/
def counterNext (c inc : Nat) (e : Bool) : Nat := (c % 2 ^ 63 + inc) % 2 ^ 63 + if e ∨ 2 ^ 63 ≤ c % 2 ^ 64 then 2 ^ 63 else 0

/-- The stack whose sequencer acts for a work (R501): of a job, the first its parts lie on. -/
def State.seqStack (s : State) (x : Work) : Option Nat :=
  match x.kind with
  | .job j => ((s.part x.part).fields[j.field]?).bind fun f => (f.parts[j.part0]?).map Prod.fst
  | _ => none

/-- The domain an engine acts in (R501): the DD, or a sequencer's base die. -/
def State.engineDom (s : State) (x : Work) : Nat := ((s.seqStack x).map fun h => h + 1).getD 0

/-- An engine's access of `n` bytes touches the line at its home slice with its ND (R277, R345), a sequencer's as its own, of no partition (R275,
R480); another module's slice is not this module's, and its bytes are the fabric's (R478). -/
def State.engineTouch (s : State) (x : Work) (nd : BitVec 4) (write : Bool) (pa mt n : Nat) : State :=
  let seq := match x.kind with
    | .job _ => true
    | _ => false
  let part := if seq then noPart else x.part
  if paHost pa then s
  else if s.remote pa then s.countBytes part 0 n
  else if mt != 0 then s.countBytes part n 0
  else { s with fills := s.fills ++ [{ core := farCore + x.core, pa := pa, mt := mt, nd := nd, gang := x.gang, part := part, depth := 2, write := write,
                                       seq := seq }] }

/-- Where a counter add lands: nowhere, at a place, at one no route leads to, or on a page that is not there. -/
inductive AddPlace where
  | drop
  | lost (pa : Nat)
  | home (pa : Nat)
  | miss (m : PageMiss)
  deriving DecidableEq, Repr

/-- The place of an add at a flat address of a partition. One whose page allows no write or no atomic is dropped (R231, R244). -/
def State.addPlace (s : State) (part : Nat) (sys : Bool) (ctr : Nat) : AddPlace :=
  if ctr = 0 || isPricePage sys ctr then .drop
  else
    match (walk s (s.entryAt none part) part sys ctr .write).1 with
    | .inr t =>
      let pa := t.pa + ctr % 2 ^ t.size
      if (s.bellAt pa).isSome then .drop else if s.away pa then .lost pa else .home pa
    | .inl (.miss m) => .miss m
    | .inl _ => .drop

/-- One add at a flat address of a partition (R339), at its home place, behind the held writes the adding domain has seen (R504, R505): the
place, and otherwise the page it misses. To a lost module it is a machine check (R522). -/
def State.counterAdd (s : State) (dom part : Nat) (sys : Bool) (ctr : Nat) (inc : BitVec 32) (e : Bool) : State × Option (PageMiss ⊕ Nat) :=
  match s.addPlace part sys ctr with
  | .drop => (s, none)
  | .lost pa => (s.machineCheck 128 part pa 9 false, none)
  | .home pa => ((s.applyHeld dom pa 8).writeHome none pa 8 (counterNext (readCells s.mem pa 8) inc.toNat e), some (.inr pa))
  | .miss m => (s, some (.inl m))

/-- The engine of a work (R441). -/
def WorkKind.engine : WorkKind → Nat
  | .copy _ => 0
  | .matrix _ => 1
  | .layer _ => 2
  | .conversion _ | .job _ | .release _ => 3

/-- The gang of a work, resident or saved. -/
def State.gangOf (s : State) (x : Work) : Option Gang :=
  (s.gang? x.gang).or ((s.saved.find? fun v => v.gang.uid == x.gang).map SavedGang.gang)

/-- The fault record of a page that a work's counter add or STATUS misses: a copy's element, or a record of another engine, which names the
instruction (R458). -/
def State.workFault (s : State) (x : Work) (m : PageMiss) : PFault :=
  let g := (s.gangOf x).getD {}
  { num := 0, miss := m, src := if x.kind.engine = 0 then .copy else .record, qix := g.q, gang := g.gidx.toNat, troupe := x.troupe, pc := x.pc.toNat }

/-- A batch's work wrote a line (R337). -/
def State.noteWrote (s : State) (x : Work) (pa : Nat) : State :=
  s.updTroupe x.gang x.troupe fun t => { t with wrote := if t.wrote.contains (x.batch, lineOf pa) then t.wrote else t.wrote ++ [(x.batch, lineOf pa)] }

/-- The counter add of a work (R339, R341): made, with the distance of its ORD (R43), or waiting as a replay entry for its page. One whose
fault the host has failed, or whose module is lost, is dropped, an engine error (R459, R522). -/
def State.workAdd (s : State) (x : Work) (e : Bool) : State × Bool :=
  if (s.part x.part).faults.any fun f => x.ctrWait.contains f.num && f.failed then (s.engineError x.uid x.kind.engine x.ctr, true)
  else
    match s.counterAdd (s.engineDom x) x.part x.sys x.ctr x.inc e with
    | (t, none) =>
      (match s.addPlace x.part x.sys x.ctr with
        | .lost _ => t.engineError x.uid x.kind.engine x.ctr
        | _ => t, true)
    | (s, some (.inr pa)) => ((s.noteWrote x pa).engineTouch x x.mode.nd true pa 0 8, true)
    | (s, some (.inl m)) =>
      let (n, s) := s.recordFault x.part (s.workFault x m)
      let ok := s.grants .replay x.part
      let s := if ok then s.takeEntry .replay x.part 1 else s
      (s.setWork { x with ctrWait := [n], entries := x.entries + if ok then 1 else 0 }, false)

/-- Whether faults of a partition are all released, or some of them failed (R459). -/
def State.faultsOpen (s : State) (part : Nat) (ns : List Nat) : Bool := (s.part part).faults.any fun f => ns.contains f.num && !f.released && !f.failed
def State.faultsFailed (s : State) (part : Nat) (ns : List Nat) : Bool := (s.part part).faults.any fun f => ns.contains f.num && f.failed

/-! ### Engine accesses (R344, R345) -/

/-- Why an engine cannot move an element now (R347). -/
inductive ElemStop where
  | miss (m : PageMiss)
  /-- A translation or permission fault; an error in the data, with its place and unit. -/
  | fail (mc : Option (Nat × Nat))
  deriving DecidableEq, Repr

/-- Where an engine's flat access lands, and the memory type there. -/
def State.enginePa (s : State) (x : Work) (va : Nat) (acc : AccKind) : Except ElemStop (Nat × Nat × State) :=
  if isPricePage x.sys va && acc != .read then .error (.fail none)
  else
    match s.translate x.core x.part x.sys va acc with
    | (.ok pa mt, s) => if (mt = 2 ∨ (s.bellAt pa).isSome) ∧ acc = .atomic then .error (.fail none) else .ok (pa, mt, s)
    | (.miss m, _) => .error (.miss m)
    | _ => .error (.fail none)

/-- Before an engine touches bytes the issuing lanes' earlier stores and atomics to them perform (R344, rule 1). -/
def State.performBefore (s : State) (x : Work) (l : Loc) (n : Nat) : State :=
  let want (e : StoreEntry) : Bool := decide (e.ins < x.ins) && e.lanes &&& x.lanes != 0 && e.loc.meets e.size l n
  if (s.troupe? x.gang x.troupe).any fun t => t.stream.any want then s.onPath ⟨x.gang, x.troupe, .P⟩ fun s => s.drainWhere want else s

/-- The issuing core's dirty copy of a line is written back before an engine touches it (R344, rule 1). -/
def State.flushLine (s : State) (core pa : Nat) : State :=
  match (s.cache core).find (lineOf pa) with
  | some l => s.writeBack core l
  | none => s

/-- The scratchpad bytes of a work's gang. -/
def State.scratchOf (s : State) (x : Work) : List Host.Cell := ((s.gang? x.gang).map Gang.scratch).getD []

/-- An engine reads `n` bytes of an element (R345) with a distance; data that cannot be read fails it (R347). -/
def State.engineRead (s : State) (x : Work) (nd : BitVec 4) (p : Spot) (n : Nat) : Except ElemStop (Nat × State) :=
  match p with
  | .scratch off =>
    let s := s.performBefore x (.scratch off) n
    if ((s.gang? x.gang).map fun g => s.bad.contains (g.padLine off, 1)).getD false then .error (.fail (some (0, 1)))
    else .ok (readCells (s.scratchOf x) off n, s)
  | .flat va =>
    if isPricePage x.sys va then .ok (priceNat s.prices / 2 ^ (8 * (va % 4096)) % 2 ^ (8 * n), s)
    else
      match s.enginePa x va .read with
      | .error e => .error e
      | .ok (pa, mt, s) =>
        let s := (s.performBefore x (.phys pa mt) n).flushLine x.core pa
        match s.lineError x.core pa with
        | some u => .error (.fail (some (pa, u)))
        | none => .ok (s.viewNat 0 pa n, s.engineTouch x nd false pa mt n)

/-- An engine writes `n` bytes of an element (R345) with the distance of its ORD, a sequencer from its base die (R501); a store to a doorbell page
rings it (R243, R244), and one to a lost module fails (R522). -/
def State.engineWrite (s : State) (x : Work) (p : Spot) (n v : Nat) : Except ElemStop State :=
  match p with
  | .scratch off => .ok ((s.performBefore x (.scratch off) n).updGang x.gang fun g => { g with scratch := writeCells g.scratch off n v })
  | .flat va =>
    match s.enginePa x va .write with
    | .error e => .error e
    | .ok (pa, mt, s) =>
      let s := s.performBefore x (.phys pa mt) n
      match s.bellAt pa with
      | some q => .ok (s.tailBell q (.ofNat 64 v) n)
      | none =>
        if s.away pa then .error (.fail (some (pa, 9)))
        else
          let s := s.flushLine x.core pa
          let s := if s.engineDom x ≠ 0 ∧ s.homed pa then s.writeNear (s.engineDom x) pa n v else s.writeHome none pa n v
          .ok ((s.noteWrote x pa).engineTouch x x.mode.nd true pa mt n)

/-- A machine check an engine meets (R448). -/
def State.engineCheck (s : State) (x : Work) : Option (Nat × Nat) → State
  | none => s
  | some (pa, u) => s.machineCheck x.core x.part pa u false

/-! ### Records read at issue (R341, R353, R394, R418) -/

/-- A stop at an engine's record: its misses are the record's (R458). -/
def Stop.ofRecord : Stop → Stop
  | .park ms => .park (ms.map fun m => { m with rec_ := true })
  | x => x

/-- Bytes read at device scope at a flat address, line by line, with the issuing path's own earlier stores (R24, R341). -/
def State.readSpan (s : State) (va n : Nat) : Nat → Except Stop (Nat × State)
  | 0 => .ok (0, s)
  | fuel + 1 =>
    let k := min n (128 - va % 128)
    if k = 0 then .ok (0, s)
    else
      let a : Word64 := .ofNat 64 va
      match s.place none 0 a .read with
      | .error x => .error x.ofRecord
      | .ok (l, s) =>
        match s.dataErr true [(0, a)] [(0, l)] with
        | some x => .error x
        | none =>
          let s := ((s.settle s.pmask [(0, l)] k).noteSeen [(0, l)] k).forgetAt s.pmask l k s.tr.ins
          let v := s.loadNat s.pmask .device l k
          let s := s.addFill {} false l
          match s.readSpan (va + k) (n - k) fuel with
          | .error x => .error x
          | .ok (r, s) => .ok (v + 2 ^ (8 * k) * r, s)

/-- A record of `n` bytes (R341, R353, R394, R418). -/
def State.readRecord (s : State) (va n : Nat) : Except Stop (Nat × State) := s.readSpan va n (n / 128 + 2)

/-- A counter address translated with write permission at issue (R341). -/
def State.checkCtr (s : State) (ctr : Nat) : Except Stop State :=
  if ctr = 0 then .ok s
  else
    match s.place none 0 (.ofNat 64 ctr) .write with
    | .error x => .error x
    | .ok (_, s) => .ok s

/-- ILLOP at step 8, with the record (R441): its address, bytes and their number. -/
def badRecord (va detail n : Nat) : Stop :=
  .trap { cause := 1, addr := .ofNat 64 va, detail := detail % 2 ^ 1024, dlen := min n 128, dtr := decide (128 < n) }

def staleHandle (h : Nat) : Stop := .trap { cause := 7, aux := .ofNat 64 h }
def regionGone (h : Nat) : Stop := .trap { cause := 8, aux := .ofNat 64 h }

/-! ### Batches (R336 to R338) -/

/-- R336. -/
def execSeal (d : SReg) (s : State) : Out :=
  runForm (formA 0x64 0 d.toNat 0 0) s fun _ s =>
    let n := s.tr.batch + 1
    .done (({ s with tr := { s.tr with batch := n } }).wS d n)

/-- Work, or a LAUNCH post, of the troupe's batches 1 to n that has not completed (R261, R337, R338). -/
def State.unfinished (s : State) (n : Nat) : Bool :=
  (s.works.any fun x => x.gang == s.gg.uid && x.troupe == s.tr.idx && decide (x.batch.toNat ≤ n)) ||
    s.queues.any fun q => q.posts.any fun p => p.gang == s.gg.uid && p.troupe == s.tr.idx && decide (p.batch.toNat ≤ n)

/-- WAITB's end (R322, R337): in the issuing core's L1 the untracked clean copies of the lines the work wrote are invalid, and the clean bytes
of dirty ones are read anew; no load of the path that has bound ahead stands, and the troupe reads past the RDC there. -/
def State.endWaitb (s : State) (n : Nat) : State :=
  let ls := (s.tr.wrote.filter fun w => decide (w.1.toNat ≤ n)).map Prod.snd
  let c := s.cache s.req.core
  let fresh (l : CLine) : CLine := if ls.contains l.line && l.dirty != 0 then l.refresh (s.homeLine l.line) else l
  let s := if ls = [] then s
           else s.setCache { c with lines := (c.lines.filter fun l => l.dirty != 0 || l.tracked || !ls.contains l.line).map fresh }
  let s := ls.foldl (fun s k => s.noteSent (.allOnes 32) (.phys (128 * k) 0)) (s.forget s.pmask s.tr.ins)
  { s with tr := { s.tr with wrote := s.tr.wrote.filter fun w => decide (n < w.1.toNat) } }

/-- R337. -/
def execWaitb (a : SReg) (s : State) : Out :=
  let i := formA 0x64 1 0 a.toNat 0
  runForm i s fun _ s =>
    let n := s.rS a
    if s.tr.batch.toNat < n.toNat then .stop (illopAux n)
    else if s.unfinished n.toNat then .stay (s.sleepOn (.waitb n i.word))
    else .done (s.endWaitb n.toNat)

/-- R337. Not while the gang is being saved (R484). -/
def execWaitbWake (p : PathId) (s : State) : Out :=
  .next (s.onPath p fun s =>
    match s.cur.sleep with
    | some (.waitb n w) => if s.cur.live && !s.cur.frozen && s.gg.save.isNone && !s.unfinished n.toNat then (s.endWaitb n.toNat).wakeUp w else s
    | _ => s)

/-! ### Shape records (R351 to R353) -/

/-- A shape record's fields (R352). -/
def shBase (r : Nat) : Nat := bitsOf r 255 192
def shDims (r : Nat) : Nat := bitsOf r 7 4 + 1
def shEsz (r : Nat) : Nat := 2 ^ bitsOf r 2 0
def shStride (r k : Nat) : Int := (BitVec.ofNat 64 (bitsOf r (383 + 128 * k) (320 + 128 * k))).toInt
def shStart (r k : Nat) : Nat := bitsOf r (319 + 128 * k) (288 + 128 * k)
def shSize (r k : Nat) : Nat := bitsOf r (287 + 128 * k) (256 + 128 * k)

/-- N of a record (R352). -/
def shCount (r : Nat) : Nat := ((List.range (shDims r)).map (shSize r)).foldl (fun a b => a * b) 1

/-- The address of linear index e (R352). -/
def shAddr (r e : Nat) : Int :=
  ((List.range (shDims r)).foldl (fun (acc : Int × Nat) k =>
    (acc.1 + (shStart r k + acc.2 % shSize r k : Nat) * shStride r k, acc.2 / shSize r k)) ((shBase r : Int), e)).1

/-- The lowest and the highest element addresses (R352). -/
def shLow (r : Nat) : Int :=
  (List.range (shDims r)).foldl (fun (a : Int) k =>
    a + min ((shStart r k : Int) * shStride r k) ((shStart r k + shSize r k - 1 : Nat) * shStride r k)) (shBase r : Int)
def shHigh (r : Nat) : Int :=
  (List.range (shDims r)).foldl (fun (a : Int) k =>
    a + max ((shStart r k : Int) * shStride r k) ((shStart r k + shSize r k - 1 : Nat) * shStride r k)) (shBase r : Int)

def scratchBase : Nat := 0xFFFFFF0000000000

/-- The validity of R352. -/
def shValid (r : Nat) : Bool :=
  let z : Int := shEsz r
  bitsOf r 191 8 == 0 && bitsOf r 3 3 == 0 && decide (bitsOf r 7 4 ≤ 13) && decide (bitsOf r 2 0 ≤ 4) &&
    ((List.range 14).all fun k => if k < shDims r then decide (1 ≤ shSize r k) && decide (shStride r k % z = 0)
                                  else bitsOf r (383 + 128 * k) (256 + 128 * k) == 0) &&
    decide (shCount r ≤ 2 ^ 40) && decide ((shBase r : Int) % z = 0) &&
    ((decide (0 ≤ shLow r) && decide (shHigh r < 2 ^ 48)) || (decide ((scratchBase : Int) ≤ shLow r) && decide (shHigh r < 2 ^ 64)))

/-- The generation after one (R351): 1 to 4,095, then 1 again. -/
def nextGen (g : Nat) : Nat := if g = 4095 then 1 else g + 1

/-- A handle's slot and generation (R351). -/
def handleOf (slot gen : Nat) : Nat := slot * 4096 + gen

/-- The record a shape handle names, unless it is stale (R351). -/
def Partition.shape (p : Partition) (h : Nat) : Option Nat :=
  match p.shapes[h / 4096]? with
  | some x => if h < 2 ^ 32 ∧ h / 4096 < p.shapeMax ∧ x.gen = h % 4096 then x.data else none
  | none => none

/-- A record put into the lowest free slot of the table's size (R351, R353): its handle, 0 when no slot is free, and the table. -/
def putShape (r : Nat) (room : Nat) : List ShapeSlot → Nat → Nat × List ShapeSlot
  | [], n => if n < room then (handleOf n 1, [{ gen := 1, data := some r }]) else (0, [])
  | x :: l, n =>
    if x.data.isNone && decide (n < room) then (handleOf n x.gen, { x with data := some r } :: l)
    else
      let t := putShape r room l (n + 1)
      (t.1, x :: t.2)

/-- R353. -/
def execShpw (d a : SReg) (s : State) : Out :=
  runForm (formA 0x63 0 d.toNat a.toNat 0) s fun _ s =>
    let x := (s.rS a).toNat
    if 2 ^ 48 ≤ x then .stop (addrFault (s.rS a))
    else if x % 64 ≠ 0 then .stop (misaligned (s.rS a))
    else
      s.unheld <| match s.readRecord x 256 with
      | .error e => .stop e
      | .ok (r, s) =>
        if !shValid r then .stop (badRecord x r 256)
        else
          let p := s.myPart
          let t := putShape r p.shapeMax p.shapes 0
          .done ((s.setPart { p with shapes := if t.1 = 0 then p.shapes else t.2 }).wS d (.ofNat 64 t.1))

/-- R353. -/
def execShpi (a : SReg) (s : State) : Out :=
  runForm (formA 0x63 1 0 a.toNat 0) s fun _ s =>
    let h := (s.rS a).toNat
    let p := s.myPart
    if 2 ^ 32 ≤ h then .stop illop
    else if (p.shape h).isNone then .stop (staleHandle h)
    else .done (s.setPart { p with shapes := p.shapes.modify (h / 4096) fun x => { x with gen := nextGen x.gen, data := none } })

end Sys2Proof.Machine
end

