-- ==== Sys2Proof/Machine/Copy.lean ====
section
/-!
DEFINITION. The copy engines: COPY, COPYR, TCOPY and their elements, completion, ordered groups and replay entries (R340 to R350, R354 to
R356, R94).
-/

namespace Sys2Proof.Machine

/-! ### Copy control blocks (R340, R341) -/

/-- A CCB by its 128 bits. -/
def ccInc (c : Nat) : BitVec 32 := .ofNat 32 (bitsOf c 127 96)
def ccCtr (c : Nat) : Nat := bitsOf c 95 48
def ccRow0 (c : Nat) : Nat := bitsOf c 47 39
def ccWid (c : Nat) : Nat := bitsOf c 38 32
def ccSgn (c : Nat) : Bool := bitsOf c 31 31 == 1
def ccGsh (c : Nat) : Nat := bitsOf c 12 9
def ccOrdc (c : Nat) : Bool := bitsOf c 8 8 == 1
def ccSnd (c : Nat) : BitVec 4 := .ofNat 4 (bitsOf c 7 4)

/-- The block of s[b] = 0: SND 15 and zeros (R340). -/
def ccDefault : Nat := 15 * 16

/-- Whether a block keeps its layout for a kind of copy (R341). -/
def ccOk (k : CopyKind) (c : Nat) : Bool :=
  let field := k == .tin || k == .tout
  bitsOf c 30 13 == 0 && bitsOf c 3 0 == 0 && ccCtr c % 8 == 0 &&
    (!ccOrdc c || ((k == .plain || k == .tout) && ccCtr c != 0)) &&
    (if field then decide (1 ≤ ccWid c) && decide (ccWid c ≤ 64) && decide (ccRow0 c + ccWid c ≤ 512) else ccWid c == 0 && ccRow0 c == 0) &&
    (ccOrdc c || ccGsh c == 0) && (!ccSgn c || k == .tout)

/-- Step 6 of s[b] (R342): 0, or a flat multiple of 16. -/
def ccAddrOk (b : Word64) : Option Stop :=
  if b = 0 then none
  else if 2 ^ 48 ≤ b.toNat then some (addrFault b)
  else if b.toNat % 16 ≠ 0 then some (misaligned b)
  else none

/-- Step 7: the block read, and its counter's page (R341). -/
def State.readCcb (s : State) (b : Word64) : Except Stop (Nat × State) :=
  if b = 0 then .ok (ccDefault, s)
  else
    match s.readRecord b.toNat 16 with
    | .error x => .error x
    | .ok (c, s) =>
      match s.checkCtr (ccCtr c) with
      | .error x => .error x
      | .ok s => .ok (c, s)

/-- The spot an address names for a lane (R264, R345). -/
def AddrClass.spot : AddrClass → Spot
  | .flat va => .flat va
  | .scratch off => .scratch off
  | .invalid => .flat 0

/-- The wait of a copy for a request entry (R342, R474): a refusal is counted once; the instruction is not ready and has no age. -/
def State.waitCopy (s : State) : State :=
  if s.cur.refused then s.freeWide else ((s.setCur { s.cur with refused := true, askedAt := s.cycle }).noteRefusal .copy s.gg.part).freeWide

/-- CYCLE since which the copy of the path in focus has waited for an entry; none for one not refused yet (R473). -/
def State.copySince (s : State) : Option Nat := if s.cur.refused then some s.cur.askedAt else none

/-- The request entry of a copy (R342, R473). -/
def State.takeCopy (s : State) : State := (s.setCur { s.cur with refused := false }).granted .copy s.gg.part 1 s.cur.refused

/-- A work joins the items of a field, behind those it has (R421). -/
def State.addItem (s : State) (part slot w : Nat) : State :=
  let p := s.part part
  s.setPart { p with fields := p.fields.modify slot fun f => { f with items := f.items ++ [w] } }

/-- A copy whose checks have passed issues (R342): entry, price, batch, retirement. -/
def State.issueCopy (s : State) (c : CopyWork) (ccb bytes : Nat) (mode : AccMode) : Res :=
  if !s.mayTake .copy s.gg.part 1 s.copySince then .wait State.waitCopy
  else
    s.issueWide (.bytes bytes) fun s =>
      let s := s.takeCopy
      let p := s.myPart
      let s := if s.gg.sys then s else s.setPart { p with usage := { p.usage with bytcpy := p.usage.bytcpy + bytes } }
      let (uid, s) := s.addWork (.copy c) (ccCtr ccb) (ccInc ccb) mode
      let s := if c.kind = .tin ∨ c.kind = .tout then s.addItem s.gg.part c.field uid else s
      .done (s.noteClip mode.scope).countRetire

/-- The step-6 checks of a lane's addresses, lowest lane first (R283, R342, R350): destination then source. -/
def State.copyAddrs (s : State) (noScratch : Bool) (z : Nat) : List (Nat × List Word64) → Option Stop
  | [] => none
  | (lane, as) :: r =>
    let bad (a : Word64) : Bool := s.classify lane a == .invalid ||
      (noScratch && match s.classify lane a with
        | .scratch _ => true
        | _ => false)
    match as.find? bad with
    | some a => some (.trap { cause := 3, lane := some lane, addr := a })
    | none =>
      match as.find? fun a => a.toNat % z != 0 with
      | some a => some (.trap { cause := 2, lane := some lane, addr := a })
      | none => s.copyAddrs noScratch z r

/-- COPY and COPYR from their element lists (R342, R348, R349). -/
def copyLanes (i : Form) (kind : CopyKind) (z : Nat) (noScratch : Bool) (b : SReg) (s : State)
    (addrs : State → Fin 32 → List Word64) (opnd : State → Fin 32 → Nat) : Out :=
  runForm i s fun bd s =>
    let lanes := lanesOf s.pmask
    match s.copyAddrs noScratch z (lanes.map fun (l : Fin 32) => (l.val, addrs s l)) with
    | some x => .stop x
    | none =>
      match ccAddrOk (s.rS b) with
      | some x => .stop x
      | none =>
        s.unheld <| match s.readCcb (s.rS b) with
        | .error x => .stop x
        | .ok (c, t) =>
          if !ccOk kind c then .stop (badRecord (s.rS b).toNat c 16)
          else
            let elems := lanes.map fun (l : Fin 32) =>
              (l.val, ((s.classify l ((addrs s l)[1]?.getD 0)).spot, (s.classify l ((addrs s l).headD 0)).spot, opnd s l))
            let w : CopyWork := { kind := kind, z := z, n := elems.length, elems := elems, snd := ccSnd c }
            t.issueCopy w c (z * elems.length) bd.ord

/-- The 64-bit value of a pair (R348). -/
def State.pairAt (s : State) (r : VReg) (l : Fin 32) : Word64 := s.rV (VReg.plus r 1) l ++ s.rV r l

def CopySize.bytes : CopySize → Nat
  | .b4 => 4 | .b8 => 8 | .b16 => 16

/-- R348. -/
def execCopy (z : CopySize) (d a : VReg) (b : SReg) (s : State) : Out :=
  copyLanes (formOf <| .copy z d a b) .copy (CopySize.bytes z) false b s (fun s l => [s.pairAt d l, s.pairAt a l]) fun _ _ => 0

/-- The element of a reduction (R349). -/
def CopyrOp.bytes : CopyrOp → Nat
  | .addBf16 | .addBf16SrSat | .addBf16Sr => 2
  | _ => 4

/-- ρ of R94 for a lane's element, by its flat address or alias (log 100). -/
def State.copyRho (s : State) (l : Fin 32) (va : Nat) : Nat :=
  (mix s.myPart.srseed (.ofNat 64 (l * 2 ^ 48 + va % 2 ^ 48))
    (.ofNat 64 (s.gg.gidx.toNat * 2 ^ 32 + s.tr.idx * 2 ^ 23 + s.openBatch.toNat % 2 ^ 23))).toNat % 2 ^ 16

def Spot.va : Spot → Nat
  | .flat va => va
  | .scratch off => off

/-- R349, R350. The operand carries ρ above its 32 bits. -/
def execCopyr (o : CopyrOp) (d a : VReg) (b : SReg) (s : State) : Out :=
  copyLanes (formOf <| .copyr o d a b) (.reduce o) (CopyrOp.bytes o) true b s (fun s l => [s.pairAt d l]) fun s l =>
    (s.rV a l).toNat + s.copyRho l ((s.classify l (s.pairAt d l)).spot).va * 2 ^ 32

/-- The new value of a reduced element (R349): old value, operand, ρ. -/
def CopyrOp.new (o : CopyrOp) (old x rho : Nat) : Nat :=
  let o32 : Word32 := .ofNat 32 old
  let x32 : Word32 := .ofNat 32 x
  let bsum := sumExact .rne [bf16.unpack (old % 2 ^ 16), val32 x32]
  match o with
  | .addI32 => (o32 + x32).toNat
  | .addF32 => (round32 .rne 0 (sumExact .rne [val32 o32, val32 x32])).toNat
  | .addBf16 => bf16.round .plain .rne 0 bsum
  | .addBf16SrSat => bf16.round .sat .sr rho bsum
  | .addBf16Sr => bf16.round .plain .sr rho bsum
  | .minI32 => (mins o32 x32).toNat
  | .maxI32 => (maxs o32 x32).toNat
  | .and => (o32 &&& x32).toNat
  | .or => (o32 ||| x32).toNat

/-! ### TCOPY (R354) -/

/-- The field slot a handle names, unless it is stale (R351, R413). -/
def Partition.field? (p : Partition) (h : Nat) : Option (Nat × FieldSlot) :=
  match p.fields[h / 4096]? with
  | some f => if h < 2 ^ 32 ∧ h / 4096 < 16 ∧ f.live ∧ f.gen = h % 4096 then some (h / 4096, f) else none
  | none => none

/-- F of a field (R411). -/
def FieldSlot.lanes (f : FieldSlot) : Nat := 393216 * f.parts.length

/-- Whether an address is one a copy of the troupe may name (R264, R354). -/
def State.shapeAddr (s : State) (a : Int) (z : Nat) : Option Stop :=
  let w : Word64 := .ofInt 64 a
  if s.classify 0 w = .invalid then some (addrFault w) else if w.toNat % z ≠ 0 then some (misaligned w) else none

/-- The ranges of a shape (R342, step 8). -/
def State.shapeRange (s : State) (r : Nat) : Option Stop := (s.shapeAddr (shLow r) (shEsz r)).or (s.shapeAddr (shHigh r) (shEsz r))

/-- Where element e of a shape lies (R352). R342 checks a shape's lowest and highest elements; one between them that lies in no share of the
gang's names scratchpad bytes of its own, zero at first (log 117). -/
def State.shapeSpot (s : State) (x : Work) (r e : Nat) : Spot :=
  let a := shAddr r e
  if a < 2 ^ 48 then .flat a.toNat
  else
    let o := a.toNat - scratchBase
    let c := match s.gang? x.gang with
      | some g => if o / 2 ^ 20 = 0 then x.troupe / g.nT else o / 2 ^ 20 - 1
      | none => 0
    .scratch (c * 2 ^ 20 + o % 2 ^ 20)

/-- TCOPY's common part from step 8 on (R342, R354): the handles resolved by `look`, which gives the work and its bytes, or the stop. -/
def tcopyWith (i : Form) (kind : CopyKind) (b : SReg) (s : State) (look : State → Nat → Except Stop (CopyWork × Nat)) : Out :=
  runForm i s fun bd s =>
    match ccAddrOk (s.rS b) with
    | some x => .stop x
    | none =>
      s.unheld <| match s.readCcb (s.rS b) with
      | .error x => .stop x
      | .ok (c, t) =>
        match look s c with
        | .error x => .stop x
        | .ok (w, bytes) =>
          let price := t.prices.price (.bytes bytes)
          if 8192 < price then .stop (priceTrap price)
          else
            let w := { w with kind := kind, ordc := ccOrdc c, gsh := ccGsh c, snd := ccSnd c, row0 := ccRow0 c, wid := ccWid c, sgn := ccSgn c }
            t.issueCopy w c bytes bd.ord

/-- The checks of the block, the shapes and their ranges in the order of R342; `shapes` are the records used. The record of a missing block on .in
or .out names address 0 and carries the default block's 16 bytes (log 116). -/
def tcopyChecks (s : State) (kind : CopyKind) (bva c : Nat) (fits : Bool) (shapes : List Nat) (w : CopyWork) (bytes : Nat) :
    Except Stop (CopyWork × Nat) :=
  if !ccOk kind c then .error (badRecord bva c 16)
  else if !fits then .error illop
  else
    match shapes.findSome? s.shapeRange with
    | some x => .error x
    | none => .ok (w, bytes)

/-- R354. The bits of a handle's register above 31 take no part (log 99). -/
def execTcopy (d a b : SReg) (s : State) : Out :=
  tcopyWith (formOf <| .tcopy d a b) .plain b s fun s c =>
    let dh := (s.rS d).toNat % 2 ^ 32
    let ah := (s.rS a).toNat % 2 ^ 32
    match s.myPart.shape dh, s.myPart.shape ah with
    | none, _ => .error (staleHandle dh)
    | _, none => .error (staleHandle ah)
    | some dr, some ar =>
      tcopyChecks s .plain (s.rS b).toNat c (shCount dr == shCount ar && shEsz dr == shEsz ar) [dr, ar]
        { kind := .plain, z := shEsz dr, n := shCount dr, src := ar, dst := dr } (shCount dr * shEsz dr)

/-- R354. A missing control block has WID 0 and traps ILLOP. -/
def execTcopyIn (d a b : SReg) (s : State) : Out :=
  tcopyWith (formOf <| .tcopyIn d a b) .tin b s fun s c =>
    let dh := (s.rS d).toNat % 2 ^ 32
    let ah := (s.rS a).toNat % 2 ^ 32
    match s.myPart.field? dh, s.myPart.shape ah with
    | none, _ => .error (staleHandle dh)
    | _, none => .error (staleHandle ah)
    | some (k, f), some ar =>
      tcopyChecks s .tin (s.rS b).toNat c (decide (shCount ar ≤ f.lanes) && decide (ccWid c ≤ 8 * shEsz ar)) [ar]
        { kind := .tin, z := shEsz ar, n := shCount ar, src := ar, field := k } (shCount ar * shEsz ar)

/-- R354. -/
def execTcopyOut (d a b : SReg) (s : State) : Out :=
  tcopyWith (formOf <| .tcopyOut d a b) .tout b s fun s c =>
    let dh := (s.rS d).toNat % 2 ^ 32
    let ah := (s.rS a).toNat % 2 ^ 32
    match s.myPart.shape dh, s.myPart.field? ah with
    | none, _ => .error (staleHandle dh)
    | _, none => .error (staleHandle ah)
    | some dr, some (k, f) =>
      tcopyChecks s .tout (s.rS b).toNat c (decide (shCount dr ≤ f.lanes) && decide (ccWid c ≤ 8 * shEsz dr)) [dr]
        { kind := .tout, z := shEsz dr, n := shCount dr, dst := dr, field := k } (shCount dr * shEsz dr)

/-! ### Elements (R344, R345, R347) -/

def CopyWork.isDone (c : CopyWork) (u : Nat) : Bool := c.done.testBit u
def CopyWork.allDone (c : CopyWork) : Bool := c.done == 2 ^ c.units - 1
def CopyWork.finish (c : CopyWork) (u : Nat) : CopyWork :=
  { c with done := c.done ||| 2 ^ u, vals := c.vals.filter fun v => v.1 != u, waits := c.waits.filter fun v => v.1 != u }

def Spot.plus : Spot → Nat → Spot
  | .flat va, k => .flat (va + k)
  | .scratch off, k => .scratch (off + k)

/-- Where element e is written, and read. -/
def State.dstElem (s : State) (x : Work) (c : CopyWork) (e : Nat) : Spot :=
  match c.elems[e]? with
  | some (_, _, d, _) => d
  | none => s.shapeSpot x c.dst e
def State.srcElem (s : State) (x : Work) (c : CopyWork) (e : Nat) : Spot :=
  match c.elems[e]? with
  | some (_, a, _, _) => a
  | none => s.shapeSpot x c.src e

/-- Where unit u is written, and read. -/
def State.dstSpot (s : State) (x : Work) (c : CopyWork) (u : Nat) : Spot := (s.dstElem x c (u / c.per)).plus (8 * (u % c.per))
def State.srcSpot (s : State) (x : Work) (c : CopyWork) (u : Nat) : Spot := (s.srcElem x c (u / c.per)).plus (8 * (u % c.per))

def Spot.meets (a b : Spot) (z : Nat) : Bool :=
  match a, b with
  | .flat x, .flat y => decide (x < y + z) && decide (y < x + z)
  | .scratch x, .scratch y => decide (x < y + z) && decide (y < x + z)
  | _, _ => false

/-- A unit of an earlier element that still has to write a byte of unit u (R344, rule 4; R347). -/
def State.blocked (s : State) (x : Work) (c : CopyWork) (u : Nat) : Bool :=
  (List.range (u / c.per * c.per)).any fun m => !c.isDone m && (s.dstSpot x c m).meets (s.dstSpot x c u) c.unitSize

/-- The address of a spot for a record (R441): in the scratchpad window, slot 0 for the issuing core's share (R265; log 100). -/
def State.spotVa (s : State) (x : Work) : Spot → Nat
  | .flat va => va
  | .scratch off =>
    let own := ((s.gang? x.gang).map fun g => x.troupe / g.nT).getD 0
    scratchBase + if off / 2 ^ 20 = own then off % 2 ^ 20 else off + 2 ^ 20

def Work.withCopy (x : Work) (c : CopyWork) : Work := { x with kind := .copy c }

/-- Unit u fails (R347): its destination is unchanged; the record names its element's address. -/
def State.failElem (s : State) (x : Work) (c : CopyWork) (u addr : Nat) (mc : Option (Nat × Nat)) : State :=
  let s := s.engineCheck x mc
  let s := s.setWork (x.withCopy { c.finish u with bad := c.bad ||| 2 ^ u })
  -- an ordered channel's error goes with its group's add alone (R355)
  s.engineError x.uid (if c.kind = .tin ∨ c.kind = .tout then 3 else 0) (addr - 8 * (u % c.per))

/-- Unit u meets what it cannot pass now (R347): a page not present makes its element a replay entry, anything else fails it. -/
def State.stopElem (s : State) (x : Work) (c : CopyWork) (u addr : Nat) : ElemStop → State
  | .miss m =>
    let (n, s) := s.recordFault x.part (s.workFault x m)
    let ok := !c.parked (u / c.per) && s.grants .replay x.part
    let s := if ok then s.takeEntry .replay x.part 1 else s
    s.setWork { x.withCopy { c with waits := c.waits ++ [(u, [n])] } with entries := x.entries + if ok then 1 else 0 }
  | .fail mc => s.failElem x c u addr mc

/-- The rows of a field of a partition changed. -/
def State.updField (s : State) (part slot : Nat) (f : FieldSlot → FieldSlot) : State :=
  let p := s.part part
  s.setPart { p with fields := p.fields.modify slot f }

/-- Bit e of a row set or cleared. -/
def setBitNat (r e : Nat) (b : Bool) : Nat := if b then r ||| 2 ^ e else if r.testBit e then r - 2 ^ e else r

/-- Lane e's bits written from row0 on (R354). -/
def writeLane (rows : List Nat) (row0 wid e v : Nat) : List Nat :=
  rows.mapIdx fun r x => if row0 ≤ r ∧ r < row0 + wid then setBitNat x e (v.testBit (r - row0)) else x
/-- Lane e's element from row0 on. -/
def readLane (rows : List Nat) (row0 wid e : Nat) : Nat :=
  ((List.range wid).map fun k => if (rows.getD (row0 + k) 0).testBit e then 2 ^ k else 0).sum

/-- Whether a work heads the items of its field (R421). -/
def State.headsField (s : State) (part slot w : Nat) : Bool :=
  match (s.part part).fields[slot]? with
  | some f => f.items.head? == some w
  | none => false

/-- The name in `bad` of a subarray's row of a field's part (log 9). -/
def rowLine (part slot p sub row : Nat) : Nat := 2 ^ 49 + (((part * 16 + slot) * 1024 + p) * 1024 + sub) * 512 + row
/-- The field slot, the part and the row that a name stands for. -/
def rowField (b : Nat) : Nat := (b - 2 ^ 49) / 2 ^ 29
def rowPart (b : Nat) : Nat := (b - 2 ^ 49) / 2 ^ 19 % 1024

/-- The part and the subarray in it that a lane of a field of P parts lies in (R411). -/
def lanePart (pp e : Nat) : Nat := e % (768 * pp) / 768
def laneSub (pp e : Nat) : Nat := e % (768 * pp) % 768

/-- The rows a write has replaced, or a release has given back, hold no error any more (R419; log 9). -/
def State.clearRows (s : State) (part slot : Nat) (rows : Nat → Nat → Bool) : State :=
  if s.bad.isEmpty then s
  else { s with bad := s.bad.filter fun b => !(b.2 == 5 && decide (2 ^ 49 ≤ b.1) && rowField b.1 == part * 16 + slot && rows (rowPart b.1) (b.1 % 512)) }

/-- Whether some subarray's row of a part holds an error (R419). -/
def State.rowBad (s : State) (part slot p row : Nat) : Bool :=
  s.bad.any fun b => b.2 == 5 && decide (2 ^ 49 ≤ b.1) && rowField b.1 == part * 16 + slot && rowPart b.1 == p && b.1 % 512 == row

/-- The stack of the part whose row of a field cannot be read for a lane (R347, R419, R448). -/
def State.laneError (s : State) (part slot : Nat) (rows : List Nat) (lane : Nat) : Option Nat :=
  ((s.part part).fields[slot]?).bind fun f =>
    let p := lanePart f.parts.length lane
    if rows.any fun r => s.bad.contains (rowLine part slot p (laneSub f.parts.length lane) r, 5) then (f.parts[p]?).map Prod.fst else none

/-- The address of a stack's first byte, for a machine check that lies there (R449). -/
def stackPa (h : Nat) : Nat := h * 48 * 2 ^ 30

/-- Whether a unit is still to be read before a unit of its COPY is written (R344, rule 4): one that waits for a page does not hold the rest up
(R347), nor one that a save records, unless a value already read is to be written over its source (R484; log 115). -/
def State.holdsWrites (s : State) (x : Work) (c : CopyWork) (m : Nat) : Bool :=
  !c.isDone m && !(c.vals.any fun w => w.1 == m) && !(c.waits.any fun w => w.1 == m) &&
    (s.begins x || c.vals.any fun w => (s.srcSpot x c m).meets (s.dstSpot x c w.1) c.unitSize)

/-- One step of unit u (R344, R347, R354): the read of a COPY, its write, a reduction, or the whole of a TCOPY's element. -/
def State.unitStep (s : State) (x : Work) (c : CopyWork) (u : Nat) : State :=
  if c.units ≤ u ∨ c.isDone u ∨ (c.waits.any fun w => w.1 == u) then s
  else
    let src := s.srcSpot x c u
    let dst := s.dstSpot x c u
    let z := c.unitSize
    let e := u / c.per
    let write (s : State) (v : Nat) : State :=
      match s.engineWrite x dst z v with
      | .ok s => s.setWork (((s.work? x.uid).getD x).withCopy (c.finish u))
      | .error t => s.stopElem x c u (s.spotVa x dst) t
    match c.kind with
    | .copy =>
      match c.vals.find? fun v => v.1 == u with
      | none =>
        match s.engineRead x c.snd src z with
        | .ok (v, s) => s.setWork (x.withCopy { c with vals := c.vals ++ [(u, v)] })
        | .error t => s.stopElem x c u (s.spotVa x src) t
      | some (_, v) =>
        if (List.range c.units).any fun m => s.holdsWrites x c m then s
        else if s.blocked x c u then s
        else write s v
    | .reduce o =>
      if s.blocked x c u then s
      else
        match s.enginePa x dst.va .atomic with
        | .error t => s.stopElem x c u (s.spotVa x dst) t
        | .ok (pa, mt, s) =>
          match s.lineError x.core pa with
          | some k => s.failElem x c u (s.spotVa x dst) (some (pa, k))
          | none =>
            let s := (s.performBefore x (.phys pa mt) z).flushLine x.core pa
            let opnd := ((c.elems[e]?).map fun t => t.2.2.2).getD 0
            let s := (s.writeHome none pa z (CopyrOp.new o (readCells s.mem pa z) (opnd % 2 ^ 32) (opnd / 2 ^ 32))).noteWrote x pa
            (s.engineTouch x x.mode.nd true pa mt z).setWork (x.withCopy (c.finish u))
    | .plain =>
      if s.blocked x c u then s
      else
        match s.engineRead x c.snd src z with
        | .ok (v, s) => write s v
        | .error t => s.stopElem x c u (s.spotVa x src) t
    | .tin =>
      if !s.headsField x.part c.field x.uid then s
      else
        match s.engineRead x c.snd src z with
        | .ok (v, s) =>
          -- a field's element has at most 64 rows: the low half holds them
          (if u % c.per = 0 then s.updField x.part c.field fun f => { f with rows := writeLane f.rows c.row0 c.wid e v } else s).setWork
            (x.withCopy (c.finish u))
        | .error t => s.stopElem x c u (s.spotVa x src) t
    | .tout =>
      if !s.headsField x.part c.field x.uid || s.blocked x c u then s
      else
        match s.laneError x.part c.field ((List.range c.wid).map fun k => c.row0 + k) e with
        | some h => s.failElem x c u (s.spotVa x dst) (some (stackPa h, 5))
        | none =>
          let rows := (((s.part x.part).fields[c.field]?).map FieldSlot.rows).getD []
          let v := readLane rows c.row0 c.wid e
          let ext := if c.sgn && v.testBit (c.wid - 1) then v + (2 ^ (8 * c.z) - 2 ^ c.wid) else v
          write s (ext / 2 ^ (64 * (u % c.per)) % 2 ^ (8 * z))

/-- The elements written with element e: those with bytes of the same aligned instruction word, so that a fetch finds the word wholly old or
wholly new (R23). -/
def State.mates (s : State) (x : Work) (c : CopyWork) (e : Nat) : List Nat :=
  let key : Spot → Nat × Nat
    | .flat va => (0, va / 4)
    | .scratch off => (1, off / 4)
  if 4 ≤ c.z ∨ c.kind = .tin then [e] else (List.range c.n).filter fun m => key (s.dstElem x c m) == key (s.dstElem x c e)

/-- One step of each of some units of a copy. -/
def State.unitSteps (s : State) (w : Nat) (us : List Nat) : State :=
  us.foldl (fun s u => match s.work? w with
    | some x => match x.kind with
      | .copy c => s.unitStep x c u
      | _ => s
    | none => s) s

/-- The copy a work is, as it stands. -/
def State.copyOf (s : State) (w : Nat) : Option CopyWork :=
  match (s.work? w).map Work.kind with
  | some (.copy c) => some c
  | _ => none

/-- Whether a unit of a work has been written by some steps; whether it waits after them. -/
def State.wrote (s t : State) (w u : Nat) : Bool :=
  (t.copyOf w).any fun c => c.isDone u && !c.bad.testBit u && !((s.copyOf w).any fun o => o.isDone u)
def State.waitsAt (t : State) (w u : Nat) : Bool := (t.copyOf w).any fun c => c.waits.any fun x => x.1 == u

/-- One step of the units of an element and of those written with it: while one of them waits for a page, none is written, so that a fetch finds
the word wholly old or wholly new (R23; log 90). -/
def State.wordStep (s : State) (w : Nat) (us : List Nat) : State :=
  let t := s.unitSteps w us
  if us.any fun u => t.waitsAt w u then s.unitSteps w (us.filter fun u => !s.wrote t w u) else t

/-- One step of element e: of its units, and of those written with it; once its last read has bound, what ORD acquire asks (R344). -/
def State.elemStep (s : State) (x : Work) (c : CopyWork) (e : Nat) : State :=
  let us := ((s.mates x c e).map c.unitsOf).flatten
  let t := if us.length = c.per then s.unitSteps x.uid us else s.wordStep x.uid us
  if x.reading then t.readsBound x.uid else t

/-- R344 to R349, R354. Step n is element n's; a number from the count of elements on is one unit's: half an element of 16 bytes (R345). -/
def execCopyElement (w n : Nat) (s : State) : Out :=
  .next (match s.work? w with
    | some x =>
      match x.kind with
      | .copy c =>
        let e := if n < c.n then n else (n - c.n) / c.per
        if x.replay || !(s.begins x || (s.runs x && (x.started.contains e || (c.kind = .copy && (c.unitsOf e).any (s.holdsWrites x c))))) then s
        else if n < c.n then s.elemStep x c n
        else if c.z = 16 then (if x.reading then (s.unitSteps w [n - c.n]).readsBound w else s.unitSteps w [n - c.n])
        else s
      | _ => s
    | none => s)

/-- A finished work leaves the list, with its pool entries and its place among its field's items (R338, R342). -/
def State.finishWork (s : State) (x : Work) : State :=
  let s := (s.dropWork x.uid).giveEntry .replay x.part (x.entries + x.saveEntries)
  let s := match x.kind with
    | .copy _ => s.giveEntry .copy x.part 1
    | _ => s
  let p := s.part x.part
  s.setPart { p with fields := p.fields.map fun f => { f with items := f.items.filter fun i => i != x.uid } }

/-- Whether a work's counter add waits for a page that is still not there. -/
def State.ctrBlocked (s : State) (x : Work) : Bool := s.faultsOpen x.part x.ctrWait

/-- Groups of an ordered channel (R355). -/
def CopyWork.groupCount (c : CopyWork) : Nat := (c.n + 2 ^ c.gsh - 1) / 2 ^ c.gsh
/-- The elements of group g. -/
def CopyWork.groupElems (c : CopyWork) (g : Nat) : List Nat := (List.range (2 ^ c.gsh)).map (fun k => g * 2 ^ c.gsh + k) |>.filter fun e => decide (e < c.n)

/-- R338, R339. A copy whose elements have all performed or failed makes its add and completes; an ordered one when its groups have added. -/
def execCopyComplete (w : Nat) (s : State) : Out :=
  .next (match s.work? w with
    | some x =>
      match x.kind with
      | .copy c =>
        if !c.allDone || s.ctrBlocked x then s
        else if c.ordc then (if c.groups = c.groupCount then s.finishWork x else s)
        else
          match s.workAdd x x.err with
          | (s, true) => s.finishWork x
          | (s, false) => s
      | _ => s
    | none => s)

/-- R355. -/
def execOrderedGroupAdd (w : Nat) (s : State) : Out :=
  .next (match s.work? w with
    | some x =>
      match x.kind with
      | .copy c =>
        let es := c.groupElems c.groups
        if !c.ordc || decide (c.groupCount ≤ c.groups) || s.ctrBlocked x || es.any (fun e => !c.landed e) then s
        else
          match s.workAdd x (es.any fun e => (c.unitsOf e).any fun u => c.bad.testBit u) with
          | (s, true) => s.setWork { x.withCopy { c with groups := c.groups + 1 } with ctrWait := [] }
          | (s, false) => s
      | _ => s
    | none => s)

/-- The waiting units of a copy whose faults are resolved: released ones run again, with what is written with them (R23), failed ones fail (R347,
R459), named by the address whose page is missing; with the last read goes what ORD acquire asks (R344, rule 3). -/
def State.replayElems (s : State) (x : Work) (c : CopyWork) : State :=
  match c.waits.find? fun w => !s.faultsOpen x.part w.2 with
  | none => s
  | some (u, ns) =>
    let c' := { c with waits := c.waits.filter fun w => w.1 != u }
    -- the element's entry is free once no unit of it waits
    let n := if c'.parked (u / c.per) then 0 else min 1 x.entries
    let s := s.giveEntry .replay x.part n
    let x := { x with entries := x.entries - n }
    if s.faultsFailed x.part ns then
      let lost (p : Spot) : Bool := match s.engineRead x c.snd p 1 with
        | .error (.miss _) => true
        | _ => false
      let src := (c.kind == .copy || c.kind == .plain || c.kind == .tin) && lost (s.srcSpot x c u)
      let t := s.failElem x c' u (s.spotVa x (if src then s.srcSpot x c u else s.dstSpot x c u)) none
      if x.reading then t.readsBound x.uid else t
    else
      let x := x.withCopy c'
      let s := s.setWork x
      if c.z = 16 then (if x.reading then (s.unitSteps x.uid [u]).readsBound x.uid else s.unitSteps x.uid [u]) else s.elemStep x c' u

end Sys2Proof.Machine
end

