-- ==== Sys2Proof/Machine/Matrix.lean ====
section
/-!
DEFINITION. The matrix engine: its words, the MMA family and the tile instructions, MREL, accumulation steps, leases and completion (R101,
R357 to R380).
-/

namespace Sys2Proof.Machine

/-! ### Words (R357, R358, R366) -/

def opStride (w : Word64) : Nat := bitsOf w.toNat 63 52
def opSco (w : Word64) : Nat := bitsOf w.toNat 47 24
def opDao (w : Word64) : Nat := bitsOf w.toNat 23 0

def acSpn (w : Word64) : Nat := bitsOf w.toNat 45 44
def acZi (w : Word64) : Bool := bitsOf w.toNat 43 43 == 1
def acK (w : Word64) : Nat := bitsOf w.toNat 42 36 + 1
def acN (w : Word64) : Nat := bitsOf w.toNat 35 26 + 1
def acM (w : Word64) : Nat := bitsOf w.toNat 25 19 + 1
def acAco (w : Word64) : Nat := bitsOf w.toNat 17 0

/-- What every accumulator word keeps (R358). -/
def accOk (w : Word64) : Bool := bitsOf w.toNat 63 46 == 0 && bitsOf w.toNat 18 18 == 0 && acAco w % 64 == 0

/-- The accumulator word of a tile instruction (R367). -/
def tileOk (w : Word64) : Bool := accOk w && bitsOf w.toNat 45 36 == 0

/-- The words of the MMA family: fn 0 MMA, 1 MMAM, 2 MMAS, 3 MMA2 (R361). -/
def mmaAccOk (fn : Nat) (w : Word64) : Bool :=
  accOk w && decide (acN w ≤ 768) && (if fn = 2 then acSpn w != 3 && acK w % 12 == 0 && decide (acK w ≤ 120) else acSpn w == 0) && (fn != 1 || decide (acM w ≤ 64))

/-- An operand word of rows of `row` bytes (R357): reserved bits zero, the pitch holds a row, no scale offset where no scales are read. -/
def operandOk (w : Word64) (row : Nat) (scales : Bool) : Bool :=
  bitsOf w.toNat 51 48 == 0 && opStride w != 0 && decide (row ≤ 16 * opStride w) && (scales || opSco w == 0)

/-! ### Formats (R141, R359) -/

def fmAfm (f : BitVec 32) : Nat := bitsOf f.toNat 11 8
def fmBfm (f : BitVec 32) : Nat := bitsOf f.toNat 15 12
def fmScm (f : BitVec 32) : Nat := bitsOf f.toNat 17 16

/-- Element bits of a format code (R82, R141). -/
def codeBits : Nat → Nat
  | 0 | 1 => 16
  | 5 | 6 | 9 => 6
  | 7 | 10 => 4
  | _ => 8

/-- The pairs of R359. -/
def pairOk (fn : Nat) (f : BitVec 32) : Bool :=
  let a := fmAfm f
  let b := fmBfm f
  let c := fmScm f
  let mx := decide (8 ≤ a) && decide (8 ≤ b)
  if a = 4 ∨ b = 4 then a == 4 && b == 4 && c != 1
  else if mx then c == 1 && fn != 2
  else decide (a < 8) && decide (b < 8) && c != 1

/-- An INT32 accumulator (R359). -/
def intAcc (f : BitVec 32) : Bool := fmAfm f == 4 && fmScm f == 0

/-- What an MMA's price is formed from (R230): operands of different rows take the row with the larger divisor. -/
def macBasis (f : BitVec 32) (n : Nat) : PriceBasis := .macs (codeBits (fmAfm f)) (codeBits (fmBfm f)) n

/-- Stored elements in every 12 (R358). -/
def spnCount (w : Word64) : Nat :=
  match acSpn w with
  | 0 => 3 | 1 => 4 | _ => 6

/-- Stored elements of a row of A (R357, R362). -/
def aStored (fn : Nat) (w : Word64) : Nat := if fn = 2 then spnCount w * (acK w / 12) else acK w

/-- Bytes of a row's element part, and of the whole row: MMAS adds the position nibbles at the next multiple of 16 (R357, R362). -/
def aPart (fn : Nat) (w : Word64) (f : BitVec 32) : Nat := (aStored fn w * codeBits (fmAfm f) + 7) / 8
def aNibbles (fn : Nat) (w : Word64) (f : BitVec 32) : Nat := (aPart fn w f + 15) / 16 * 16
def aRow (fn : Nat) (w : Word64) (f : BitVec 32) : Nat := if fn = 2 then aNibbles fn w f + (aStored fn w + 1) / 2 else aPart fn w f
def bRow (w : Word64) (f : BitVec 32) : Nat := (acN w * codeBits (fmBfm f) + 7) / 8

/-- MACs (R365). -/
def macs (fn : Nat) (w : Word64) : Nat := acM w * acN w * aStored fn w

/-! ### Ranges (R377, step 6) -/

/-- The first and the last byte of a range of the window, then its alignment. -/
def State.windowRange (s : State) (off n al : Nat) : Option Stop :=
  let at_ (o : Nat) : Word64 := .ofNat 64 (scratchBase + o)
  if s.classify 0 (at_ off) = .invalid then some (addrFault (at_ off))
  else if s.classify 0 (at_ (off + n - 1)) = .invalid then some (addrFault (at_ (off + n - 1)))
  else if off % al ≠ 0 then some (misaligned (at_ off))
  else none

/-- A matrix of `rows` rows of `row` bytes, with its scales. -/
def State.operandRange (s : State) (w : Word64) (rows row scales al : Nat) : Option Stop :=
  (s.windowRange (opDao w) (16 * opStride w * (rows - 1) + row) 16).or (if scales = 0 then none else s.windowRange (opSco w) scales al)

/-- The tile lies in the share (R358). The ACS has no address, so the record's ADDR is 0. -/
def State.tileRange (s : State) (w : Word64) : Option Stop := if acAco w + 4 * acM w * acN w ≤ s.gg.acsk then none else some (addrFault 0)

/-- Bytes of scales for `n` rows or columns (R360). -/
def scaleBytes (f : BitVec 32) (k n : Nat) : Nat :=
  match fmScm f with
  | 1 => n * (k / 32)
  | 2 => 4 * n
  | _ => 0

/-! ### The queue (R375) -/

/-- Whether a work holds a matrix queue entry: until it completes, or a layer's until its adapter stage ends (R375, R396). -/
def Work.onQueue (x : Work) : Bool :=
  match x.kind with
  | .matrix _ => true
  | .layer l => l.adapter.isNone
  | _ => false

/-- Queue entries taken at a core: work a save has recorded takes one when it is handed back (R379). -/
def State.queued (s : State) (core : Nat) : Nat :=
  (s.works.filter fun x => x.onQueue && x.core == core && !x.replay && (s.gang? x.gang).isSome).length

/-- A matrix queue entry is free for the troupe (R375); its recorded work counts for it. -/
def State.matrixRoom (s : State) : Bool :=
  decide (s.queued s.req.core < 32) && decide ((s.works.filter fun x => x.onQueue && x.gang == s.gg.uid && x.troupe == s.tr.idx).length < 8)

/-- A matrix instruction whose checks have passed: queue entry, price, batch, retirement (R375, R377); without an entry it is not ready and has
no age. -/
def State.issueMatrix (s : State) (m : MatrixWork) (b : Option PriceBasis) : Res :=
  if !s.matrixRoom then .wait State.freeWide
  else
    let k (s : State) : Res := .done (s.addWork (.matrix m) 0 0 {}).2
    match b with
    | some b => s.issueWide b k
    | none => k s

/-! ### The MMA family (R361 to R365, R377) -/

/-- The two B words MMA2 names; the others name one. -/
def bWords (fn : Nat) (b : SReg) (s : State) : List Word64 := if fn = 3 then [s.rS b, s.rS (b + 1)] else [s.rS b]

def mmaFamily (fn : Nat) (d a b : SReg) (s : State) : Out :=
  runForm (formA 0x65 fn d.toNat a.toNat b.toNat) s fun _ s =>
    let w := s.rS d
    let f := s.cur.fmt
    let bs := bWords fn b s
    let sc := fmScm f != 0
    let mx := decide (8 ≤ fmAfm f) || decide (8 ≤ fmBfm f)
    if fn = 3 ∧ b = 63 then .stop illop
    else if !mmaAccOk fn w || !operandOk (s.rS a) (aRow fn w f) sc || !(bs.all fun x => operandOk x (bRow w f) sc) then .stop illop
    else if !pairOk fn f then .stop (illopAux (f.setWidth 64))
    else if mx && acK w % 32 != 0 then .stop illop
    else
      let price := s.prices.price (macBasis f (macs fn w))
      if 8192 < price then .stop (priceTrap price)
      else
        let al := if fmScm f = 2 then 4 else 1
        let ranges := s.operandRange (s.rS a) (acM w) (aRow fn w f) (scaleBytes f (acK w) (acM w)) al ::
          (bs.map fun x => s.operandRange x (acK w) (bRow w f) (scaleBytes f (acK w) (acN w)) al)
        match (ranges.findSome? id).or (s.tileRange w) with
        | some x => .stop x
        | none =>
          s.issueMatrix { fn := fn, acc := w, a := s.rS a, b := s.rS b, b1 := bs.getD 1 0, fmt := f, rb := min s.tr.rbnd.toNat (acM w) }
            (some (macBasis f (macs fn w)))

/-- R361, R377. -/
def execMma (d a b : SReg) (s : State) : Out := mmaFamily 0 d a b s
/-- R361, R364. A shared fetch of B changes no result. -/
def execMmam (d a b : SReg) (s : State) : Out := mmaFamily 1 d a b s
/-- R361, R362. -/
def execMmas (d a b : SReg) (s : State) : Out := mmaFamily 2 d a b s
/-- R361, R363. -/
def execMma2 (d a b : SReg) (s : State) : Out := mmaFamily 3 d a b s

/-! ### Tile instructions (R366, R367) -/

/-- Bytes of a memory element (R366). -/
def mfBytes : Nat → Nat
  | 0 | 3 => 4
  | 1 | 2 => 2
  | _ => 1

/-- A conversion word (R366). -/
def convOk (store : Bool) (c : Word64) : Bool :=
  let mf := bitsOf c.toNat 3 0
  let rm := bitsOf c.toNat 11 8
  let sat := bitsOf c.toNat 7 7
  bitsOf c.toNat 63 12 == 0 && bitsOf c.toNat 6 4 == 0 && decide (mf ≤ 6) && decide (rm ≤ 5) &&
    (if store then sat == 0 || mf == 1 || mf == 2 || mf == 4 || mf == 5 else rm == 0 && sat == 0 && decide (mf ≤ 3))

def tileMove (fn : Nat) (d a b : SReg) (s : State) : Out :=
  runForm (formA 0x65 fn d.toNat a.toNat b.toNat) s fun _ s =>
    let w := s.rS d
    let c := s.rS b
    let row := acN w * mfBytes (bitsOf c.toNat 3 0)
    if !tileOk w || !convOk (fn == 5) c || !operandOk (s.rS a) row false then .stop illop
    else
      match (s.operandRange (s.rS a) (acM w) row 0 1).or (s.tileRange w) with
      | some x => .stop x
      | none => s.issueMatrix { fn := fn, acc := w, a := s.rS a, b := c, fmt := s.cur.fmt, rb := acM w } none

/-- R367. -/
def execAcld (d a b : SReg) (s : State) : Out := tileMove 4 d a b s
/-- R367. -/
def execAcst (d a b : SReg) (s : State) : Out := tileMove 5 d a b s

/-- R367. -/
def execAcz (a b : SReg) (s : State) : Out :=
  runForm (formA 0x65 6 0 a.toNat b.toNat) s fun _ s =>
    let w := s.rS a
    if !tileOk w || 2 ^ 32 ≤ (s.rS b).toNat then .stop illop
    else
      match s.tileRange w with
      | some x => .stop x
      | none => s.issueMatrix { fn := 6, acc := w, b := s.rS b, fmt := s.cur.fmt, rb := acM w } none

/-! ### Values of elements (R81, R82, R86, R359, R360) -/

/-- A byte of the scratchpad window as gang core `own` sees it, from the bytes a first step found (R265). -/
def windowByte (g : Gang) (cells : List Host.Cell) (own ctr o : Nat) : Byte :=
  let j := o / 2 ^ 20
  let b := o % 2 ^ 20
  if j ≤ g.nC ∧ b < g.scru then cellGet cells ((if j = 0 then own else j - 1) * 2 ^ 20 + b) else Config.strayByte ctr o

def windowNat (rd : Nat → Byte) (o : Nat) : Nat → Nat
  | 0 => 0
  | n + 1 => (rd o).toNat + 256 * windowNat rd (o + 1) n

/-- Element `e` of a packed row of `w`-bit elements (R82). -/
def packedAt (rd : Nat → Byte) (o w e : Nat) : Nat := windowNat rd (o + e * w / 8) 3 / 2 ^ (e * w % 8) % 2 ^ w

/-- The value of an element code (R81, R86, R141). An MX element in E5M2 has the NaN codes of R79, although R82 knows those of E4M3 alone (log
91). -/
def codeValue (fmt : BitVec 32) (c v : Nat) : FVal :=
  match c with
  | 0 => bf16.flush (bf16.unpack v)
  | 1 => fp16.flush (fp16.unpack v)
  | 2 => e4m3.unpack v
  | 3 => e5m2.unpack v
  | 4 => ofIntVal (BitVec.ofNat 8 v).toInt
  | 5 => e3m2.unpack v
  | 6 => e2m3.unpack v
  | 7 | 10 => e2m1.unpack v
  | 8 => if fmt.getLsbD 7 then e5m2.unpack v else e4m3.unpack v
  | 9 => if fmt.getLsbD 6 then e2m3.unpack v else e3m2.unpack v
  | _ => (ofIntVal (BitVec.ofNat 8 v).toInt).mul (.fin false 1 (-6))

/-- The value of an E8M0 scale (R81, R82). -/
def e8m0 (v : Nat) : FVal := if v = 255 then .nan else .fin false 1 ((v : Int) - 127)

/-- The scale of row or column `i` at index `k` (R360). -/
def scaleAt (rd : Nat → Byte) (fmt : BitVec 32) (kk sco i k : Nat) : FVal :=
  match fmScm fmt with
  | 1 => e8m0 (rd (sco + i * (kk / 32) + k / 32)).toNat
  | 2 => fp32.flush (fp32.unpack (windowNat rd (sco + 4 * i) 4))
  | _ => .fin false 1 0

/-- The elements of row `i` of A: K index and code (R357, R362). A nibble of 12 to 15 names no position. -/
def aElems (rd : Nat → Byte) (m : MatrixWork) (i : Nat) : List (Nat × Nat) :=
  let base := opDao m.a + 16 * opStride m.a * i
  let w := codeBits (fmAfm m.fmt)
  if m.fn = 2 then
    let n := spnCount m.acc
    (List.range (aStored 2 m.acc)).filterMap fun e =>
      let p := (rd (base + aNibbles 2 m.acc m.fmt + e / 2)).toNat / 16 ^ (e % 2) % 16
      if p < 12 then some (12 * (e / n) + p, packedAt rd base w e) else none
  else (List.range (acK m.acc)).map fun k => (k, packedAt rd base w k)

/-- The operand word of B for row `i` (R363). -/
def bWordFor (m : MatrixWork) (i : Nat) : Word64 := if m.fn = 3 ∧ m.rb ≤ i then m.b1 else m.b

def bCode (rd : Nat → Byte) (m : MatrixWork) (bw : Word64) (k j : Nat) : Nat :=
  packedAt rd (opDao bw + 16 * opStride bw * k) (codeBits (fmBfm m.fmt)) j

/-- A product with its scales (R360). -/
def mmaProduct (rd : Nat → Byte) (m : MatrixWork) (i j k va : Nat) : FVal :=
  let bw := bWordFor m i
  let kk := acK m.acc
  let sa := scaleAt rd m.fmt kk (opSco m.a) i k
  let sb := scaleAt rd m.fmt kk (opSco bw) j k
  (sa.mul sb).mul ((codeValue m.fmt (fmAfm m.fmt) va).mul (codeValue m.fmt (fmBfm m.fmt) (bCode rd m bw k j)))

/-- The terms of group `g` (R101, R362): the products of its K indices, and an exact zero where the sparse form omits one. -/
def groupTerms (rd : Nat → Byte) (m : MatrixWork) (es : List (Nat × Nat)) (i j g : Nat) : List FVal :=
  let here := es.filter fun e => e.1 / 16 == g
  let ps := here.map fun e => mmaProduct rd m i j e.1 e.2
  let omits := (List.range (min 16 (acK m.acc - 16 * g))).any fun k => !here.any fun e => e.1 == 16 * g + k
  if m.fn = 2 && omits then .fin false 0 0 :: ps else ps

/-- An FP32 accumulation of groups of 16 K indices, ascending, one RNE rounding each (R101). -/
def accumulate (acc : Word32) (groups : List (List FVal)) : Word32 :=
  groups.foldl (fun acc ts => round32 .rne 0 (sumExact .rne [val32 acc, sumExact .rne ts])) acc

/-- The new tile element (R361). -/
def mmaElem (rd : Nat → Byte) (m : MatrixWork) (i j : Nat) (old : Word32) : Word32 :=
  let es := aElems rd m i
  let start : Word32 := if acZi m.acc then 0 else old
  if intAcc m.fmt then
    es.foldl (fun acc e => acc + .ofInt 32 ((BitVec.ofNat 8 e.2).toInt * (BitVec.ofNat 8 (bCode rd m (bWordFor m i) e.1 j)).toInt)) start
  else accumulate start ((List.range ((acK m.acc + 15) / 16)).map fun g => groupTerms rd m es i j g)

/-- An element ACLD loads (R367). -/
def acldElem (mf v : Nat) : Word32 :=
  match mf with
  | 1 => round32 .rne 0 (bf16.unpack v)
  | 2 => round32 .rne 0 (fp16.unpack v)
  | _ => .ofNat 32 v

/-- The mode of ACST (R366): SR counts as RNE. -/
def acstMode (m : MatrixWork) : RMode :=
  let rm := bitsOf m.b.toNat 11 8
  if rm = 0 then (match fmtMode m.fmt with
    | .sr => .rne
    | x => x)
  else modeOfCode rm

/-- The element ACST stores (R367). -/
def acstElem (m : MatrixWork) (v : Word32) : Nat :=
  let form : OvForm := if bitsOf m.b.toNat 7 7 = 1 then .sat else .plain
  match bitsOf m.b.toNat 3 0 with
  | 1 => bf16.round form (acstMode m) 0 (val32 v)
  | 2 => fp16.round form (acstMode m) 0 (val32 v)
  | 4 => e4m3.round form (acstMode m) 0 (fp32.flush (val32 v))
  | 5 => e5m2.round form (acstMode m) 0 (fp32.flush (val32 v))
  | 6 => (clampS 8 v.toInt).toNat
  | _ => v.toNat

/-! ### Accumulation steps (R372, R378) -/

/-- Row blocks: of 16 rows, those below rb of an MMA2 apart from the rest. -/
def MatrixWork.rowBlocks (m : MatrixWork) : List (Nat × Nat) :=
  let mm := acM m.acc
  let cut := if m.fn = 3 then m.rb else mm
  ((List.range ((cut + 15) / 16)).map fun n => (16 * n, min cut (16 * n + 16))) ++
    ((List.range ((mm - cut + 15) / 16)).map fun n => (cut + 16 * n, min mm (cut + 16 * n + 16)))
def MatrixWork.colBlocks (m : MatrixWork) : Nat := (acN m.acc + 31) / 32
def MatrixWork.blocks (m : MatrixWork) : Nat := m.rowBlocks.length * m.colBlocks

/-- The elements of block `n`, row by row. -/
def MatrixWork.blockElems (m : MatrixWork) (n : Nat) : List (Nat × Nat) :=
  let r := m.rowBlocks.getD (n / m.colBlocks) (0, 0)
  let c0 := 32 * (n % m.colBlocks)
  let c1 := min (acN m.acc) (c0 + 32)
  ((List.range (r.2 - r.1)).map fun i => (List.range (c1 - c0)).map fun j => (r.1 + i, c0 + j)).flatten

/-- The window ranges a step reads for the elements of its block: the address of each and its bytes. -/
def MatrixWork.reads (m : MatrixWork) (es : List (Nat × Nat)) : List (Nat × Nat) :=
  let rows := (es.map Prod.fst).eraseDups
  let cols := (es.map Prod.snd).eraseDups
  let sc (w : Word64) (l : List Nat) : List (Nat × Nat) :=
    match fmScm m.fmt with
    | 1 => l.map fun i => (opSco w + i * (acK m.acc / 32), acK m.acc / 32)
    | 2 => l.map fun i => (opSco w + 4 * i, 4)
    | _ => []
  let w := codeBits (fmBfm m.fmt)
  let c0 := cols.headD 0
  match m.fn with
  | 4 => rows.map fun i => (opDao m.a + 16 * opStride m.a * i + c0 * mfBytes (bitsOf m.b.toNat 3 0), cols.length * mfBytes (bitsOf m.b.toNat 3 0))
  | 5 | 6 => []
  | _ =>
    let bw := bWordFor m (rows.headD 0)
    (rows.map fun i => (opDao m.a + 16 * opStride m.a * i, aRow m.fn m.acc m.fmt)) ++
      ((List.range (acK m.acc)).map fun k => (opDao bw + 16 * opStride bw * k + c0 * w / 8, (cols.length * w + 7) / 8)) ++ sc m.a rows ++ sc bw cols

/-- Whether a step reads the tile it works on. -/
def MatrixWork.readsTile (m : MatrixWork) : Bool := m.fn == 5 || (decide (m.fn ≤ 3) && !acZi m.acc)

/-- The place of a window offset for a gang core: an offset over all shares. -/
def sharePlace (own o : Nat) : Nat := (if o / 2 ^ 20 = 0 then own else o / 2 ^ 20 - 1) * 2 ^ 20 + o % 2 ^ 20

/-- The first uncorrectable error a step meets (R378, log 9): the address of the word, and its unit. -/
def State.stepError (s : State) (g : Gang) (own : Nat) (m : MatrixWork) (es : List (Nat × Nat)) : Option (Nat × Nat) :=
  let lines (o n : Nat) : List Nat := (List.range (n / 128 + 2)).map fun k => min (o + n - 1) (o + 128 * k)
  let pad := if s.bad.any fun b => b.2 == 1 then
      (m.reads es).findSome? fun r => (lines r.1 r.2).findSome? fun o =>
        if s.bad.contains (g.padLine (sharePlace own o), 1) then some (scratchBase + o, 1) else none
    else none
  let acs := if m.readsTile && s.bad.any fun b => b.2 == 7 then
      es.findSome? fun e => if s.bad.contains (g.acsLine (own * 2 ^ 18 + acAco m.acc + 4 * (e.1 * acN m.acc + e.2)), 7) then some (0, 7) else none
    else none
  pad.or acs

/-- A tile element's place in the gang's ACS bytes. -/
def tilePlace (own : Nat) (w : Word64) (i j : Nat) : Nat := own * 2 ^ 18 + acAco w + 4 * (i * acN w + j)

/-- The gang after a block: every element's new value, read from the tile and the snapshot (R361, R367); with an error the value of R378
in its place. -/
def stepGang (g : Gang) (own ctr : Nat) (m : MatrixWork) (cells : List Host.Cell) (es : List (Nat × Nat)) (bad : Bool) : Gang :=
  let rd := windowByte g cells own ctr
  let mf := bitsOf m.b.toNat 3 0
  let poison : Word32 := if (decide (m.fn ≤ 3) && intAcc m.fmt) || (4 ≤ m.fn && (mf == 3 || mf == 6)) then 0x80000000 else 0x7FC00000
  let old (e : Nat × Nat) : Word32 := .ofNat 32 (readCells g.acs (tilePlace own m.acc e.1 e.2) 4)
  if m.fn = 5 then
    let z := mfBytes mf
    { g with scratch := es.foldl (fun c e =>
        let o := opDao m.a + 16 * opStride m.a * e.1 + e.2 * z
        if o / 2 ^ 20 ≤ g.nC ∧ o % 2 ^ 20 < g.scru then writeCells c (sharePlace own o) z (acstElem m (if bad then poison else old e)) else c) g.scratch }
  else
    let new (e : Nat × Nat) : Word32 :=
      if bad then poison
      else
        match m.fn with
        | 4 => acldElem mf (windowNat rd (opDao m.a + 16 * opStride m.a * e.1 + e.2 * mfBytes mf) (mfBytes mf))
        | 6 => m.b.setWidth 32
        | _ => mmaElem rd m e.1 e.2 (old e)
    let vals := es.map fun e => (tilePlace own m.acc e.1 e.2, (new e).toNat)
    { g with acs := vals.foldl (fun c v => writeCells c v.1 4 v.2) g.acs }

/-- The core of its gang a work runs on. -/
def Gang.ownCore (g : Gang) (t : Nat) : Nat := t / g.nT

/-- One accumulation step of a work (R372). -/
def State.matrixStep (s : State) (x : Work) (m : MatrixWork) : State :=
  match s.gang? x.gang with
  | none => s
  | some g =>
    let own := g.ownCore x.troupe
    let cells := m.snap.getD g.scratch
    let es := m.blockElems m.done
    let e := s.stepError g own m es
    let s := s.updGang x.gang fun g => stepGang g own s.freeCtr m cells es e.isSome
    let s := s.setWork { x with kind := .matrix { m with done := m.done + 1, snap := some cells } }
    match e with
    | none => s
    | some (addr, u) => (s.engineCheck x (some (0, u))).engineError x.uid 1 addr

/-! ### Leases (R368, R373, R374) -/

/-- A work the engine has still to run. -/
def Work.toRun (x : Work) : Bool :=
  !x.replay && match x.kind with
    | .matrix m => decide (m.done < m.blocks)
    | .layer l => l.adapter.isNone
    | _ => false

/-- The class of a work's gang. -/
def State.classOf (s : State) (x : Work) : Nat := ((s.gang? x.gang).map Gang.cls).getD 4

/-- A work of the troupe issued before this one that a save has recorded, or is recording, and that has not been handed back: this one waits for
it (R370, R379). -/
def State.afterRecorded (s : State) (x : Work) : Bool :=
  s.works.any fun y => (y.replay || (s.saving y && y.left != 0 && !s.begins y)) && y.onQueue && y.gang == x.gang && y.troupe == x.troupe &&
    decide (y.uid < x.uid)

/-- The works a core's engine may take, in issue order. -/
def State.engineWorks (s : State) (core : Nat) : List Work :=
  s.works.filter fun x => x.core == core && x.toRun && s.runs x && !s.afterRecorded x

/-- The head of a core's queue: the lowest class, then the oldest (R374). -/
def State.engineHead (s : State) (core : Nat) : Option Work :=
  (s.engineWorks core).foldl (fun h x =>
    match h with
    | none => some x
    | some y => if s.classOf x < s.classOf y then some x else h) none

/-- Whether a core's lease has met one of its ends (R368, R373, R374). -/
def State.leaseOver (s : State) (c : Core) : Bool :=
  match c.lease with
  | none => false
  | some (g, t) =>
    let mine := (s.engineWorks c.core).filter fun x => x.gang == g && x.troupe == t
    let cls := ((s.gang? g).map Gang.cls).getD 4
    mine.isEmpty || decide (64 ≤ c.leaseDone) || decide (c.leaseAt + 95000 ≤ s.cycle) ||
      (match c.mrel with
       | some n => !(s.works.any fun x => x.onQueue && x.gang == g && x.troupe == t && decide (x.uid < n))
       | none => false) ||
      ((s.engineWorks c.core).any fun x => decide (s.classOf x < cls))

def State.endLease (s : State) (core : Nat) : State := s.setCore { s.core core with lease := none, mrel := none, leaseDone := 0 }

def State.settleLease (s : State) (core : Nat) : State := if s.leaseOver (s.core core) then s.endLease core else s

/-- R368. -/
def execMrel (s : State) : Out :=
  runForm (formA 0x65 7 0 0 0) s fun _ s =>
    let c := s.core s.req.core
    .done (if c.lease = some (s.gg.uid, s.tr.idx) then (s.setCore { c with mrel := c.mrel.or (some s.nextUid) }).settleLease c.core else s)

/-- R373, R374. -/
def execLeaseStart (core : Nat) (s : State) : Out :=
  let s := s.settleLease core
  let c := s.core core
  .next (match c.lease, s.engineHead core with
    | none, some x =>
      s.setCore { c with lease := some (x.gang, x.troupe), leaseAt := s.cycle, leaseDone := 0, mrel := none }
    | _, _ => s)

/-- The engine's clock of R241 at a step: an MMA-family step needs the ramp, and any step keeps a ramped engine ramped for 256 cycles. -/
def State.rampStep (s : State) (core : Nat) (mma : Bool) : Option State :=
  let c := s.core core
  match c.ramp with
  | .idle => if mma then none else some s
  | .ramping t h => if mma then none else some (s.setCore { c with ramp := .ramping t (max h (s.cycle + 256 - (t + 64))) })
  | .ramped u => some (s.setCore { c with ramp := .ramped (max u (s.cycle + 256)) })

/-- R370, R372, R374. The holder's oldest work takes one step; an idle engine starts its ramp before a step of the MMA family (R241), which then
lasts for 256 cycles if no step follows (log 89). -/
def execAccumulationStep (core : Nat) (s : State) : Out :=
  let s := s.settleLease core
  .next (match (s.core core).lease with
    | none => s
    | some (g, t) =>
      match (s.engineWorks core).find? fun x => x.gang == g && x.troupe == t with
      | some x =>
        match x.kind with
        | .matrix m =>
          match s.rampStep core (decide (m.fn ≤ 3)) with
          | some s => s.matrixStep x m
          | none => if (s.core core).ramp = .idle then s.setCore { s.core core with ramp := .ramping s.cycle 256 } else s
        | _ => s
      | none => s)

/-- R373. -/
def execLeaseExpire (core : Nat) (s : State) : Out :=
  let c := s.core core
  .next (if decide (c.leaseAt + 95000 ≤ s.cycle) then s.settleLease core else s)

/-- R373, R375, R376. -/
def execMatrixComplete (w : Nat) (s : State) : Out :=
  .next (match s.work? w with
    | some x =>
      match x.kind with
      | .matrix m =>
        if m.done < m.blocks ∨ x.replay then s
        else
          let s := s.finishWork x
          let c := s.core x.core
          (if c.lease = some (x.gang, x.troupe) then s.setCore { c with leaseDone := c.leaseDone + 1 } else s).settleLease x.core
      | _ => s
    | none => s)

end Sys2Proof.Machine
end

