-- ==== Sys2Proof/Machine/Rows.lean ====
section
/-!
DEFINITION. Stacks, and the counts of their rows (R392, R515).
-/

namespace Sys2Proof.Machine

def State.pile (s : State) (h : Nat) : Stack := findD Stack.stack h { stack := h } s.piles
def State.setPile (s : State) (p : Stack) : State := { s with piles := upsert Stack.stack p s.piles }
def State.region? (s : State) (id : Nat) : Option Region := s.regions.find? fun r => r.id == id
def State.setRegion (s : State) (r : Region) : State := { s with regions := s.regions.map fun x => if x.id = r.id then r else x }

/-- Column blocks of a region, and its tiles in `tiles` order (R381). -/
def Region.kb (r : Region) : Nat := (r.k + 1023) / 1024
def Region.nt (r : Region) : Nat := (r.n + 511) / 512
def Region.tileIndex (r : Region) (rr c : Nat) : Nat := rr * r.nt + c

/-- The name of a row of a physical tile (R515). -/
def tileRow (tile row : Nat) : Nat := 2 ^ 40 + 2 ^ 20 * tile + row
/-- The tile a row name stands for, when it is a tile's. -/
def rowTile (row : Nat) : Option Nat := if 2 ^ 40 ≤ row then some ((row - 2 ^ 40) / 2 ^ 20) else none

/-- The region and place in it of a physical tile of a stack. -/
def State.tileOwner (s : State) (stack tile : Nat) : Option (Region × Nat) :=
  s.regions.findSome? fun r =>
    ((List.range r.tiles.length).find? fun i => r.tiles.getD i 0 == tile && r.homes.getD (i % r.nt) 16 == stack).map fun i => (r, i)

/-- A tile scheduled for refresh (R391, R392). -/
def State.scheduleTile (s : State) (stack tile : Nat) : State :=
  match s.tileOwner stack tile with
  | some (r, i) => if r.due.contains (i / r.nt, i % r.nt) then s else s.setRegion { r with due := r.due ++ [(i / r.nt, i % r.nt)] }
  | none => s

def State.rowOf (s : State) (stack row : Nat) : RowCount := findD RowCount.row row { row := row } (s.pile stack).rows
def State.setRow (s : State) (stack : Nat) (c : RowCount) : State :=
  let p := s.pile stack
  s.setPile { p with rows := upsert RowCount.row c p.rows }

/-- One activation more at a CYCLE (R515). `demand`: for a partition's work. -/
def RowCount.count (c : RowCount) (demand : Bool) (cycle : Nat) : RowCount :=
  { c with demand := c.demand + if demand then 1 else 0, seq := c.seq + if demand then 0 else 1, life := c.life + 1,
           last := if demand then cycle else c.last }
/-- The alerts of an interval's counts: both sources together, demand alone. -/
def RowCount.alerts (c : RowCount) (both alone : Nat) : RowCount :=
  { c with alertSeq := c.alertSeq || decide (both ≤ c.demand + c.seq), alertDemand := c.alertDemand || decide (alone ≤ c.demand) }
/-- An LPDDR-6 row's: its neighbours are refreshed at 4,096 (R515). -/
def RowCount.dram (c : RowCount) (demand : Bool) (cycle : Nat) : RowCount :=
  let c := (c.count demand cycle).alerts 16384 24576
  { c with life := if 4096 ≤ c.life then 0 else c.life }

/-- One activation counted (R515), with refresh management at its count, a tile's once over its life, and alerts at theirs. -/
def State.countRow (s : State) (stack row : Nat) (demand : Bool) : State :=
  match rowTile row with
  | some t =>
    let c := ((s.rowOf stack row).count demand s.cycle).alerts (2 ^ 21) (3 * 2 ^ 20)
    let s := s.setRow stack c
    if c.life = 2 ^ 38 then s.scheduleTile stack t else s
  | none => s.setRow stack ((s.rowOf stack row).dram demand s.cycle)

/-- The sequencer reads back or programs a tile, or drives it with a probe: an activation of each of its rows (R392, R515; log 95). -/
def State.countTile (s : State) (stack tile : Nat) : State := (List.range 1024).foldl (fun s k => s.countRow stack (tileRow tile k) false) s
/-- An alert stops the sequencer's activations of a row of the tile (R515). -/
def Stack.tileStopped (p : Stack) (tile : Nat) : Bool := p.rows.any fun c => rowTile c.row == some tile && c.alertSeq

/-- Whether an alert keeps an activation back now (R515): the sequencer's until the interval ends, demand's to one per 2 µs of a row or
1 µs of a tile. -/
def State.rowHeld (s : State) (stack row : Nat) (demand : Bool) : Bool :=
  let c := s.rowOf stack row
  if demand then c.alertDemand && decide (s.cycle < c.last + if (rowTile row).isSome then 1900 else 3800) else c.alertSeq

/-- R515. `source` 0 is demand, any other the sequencer. -/
def execRowActivation (stack row source : Nat) (s : State) : Out :=
  .next (if 16 ≤ stack ∨ s.rowHeld stack row (source == 0) then s else s.countRow stack row (source == 0))

/-- CYCLE counts of the interval of a row's kind (R515): 32 ms for LPDDR-6 rows, 1 s for tile rows. -/
def rowInterval (row : Nat) : Nat := if (rowTile row).isSome then 1900000000 else 60800000

/-- A row's counts of an interval that has ended. -/
def RowCount.cleared (c : RowCount) : RowCount := { c with demand := 0, seq := 0, alertDemand := false, alertSeq := false }

/-- R515. The interval of the rows of the named row's kind ends on the stack, once its time has passed. -/
def execActivationIntervalEnd (stack row : Nat) (s : State) : Out :=
  let p := s.pile stack
  let tile := (rowTile row).isSome
  let at_ := if tile then p.tilesAt else p.rowsAt
  let n := (s.cycle - at_) / rowInterval row
  let rows := p.rows.map fun c => if (rowTile c.row).isSome = tile then c.cleared else c
  .next (if 16 ≤ stack ∨ n = 0 then s
    else s.setPile { p with rows := rows, rowsAt := if tile then p.rowsAt else at_ + n * rowInterval row,
                            tilesAt := if tile then at_ + n * rowInterval row else p.tilesAt })

/-- An access for a partition, or a sequencer's own, reaches the LPDDR-6 of its home stack: its row is activated (R515; log 118). -/
def State.countDram (s : State) (pa : Nat) (demand : Bool) : State :=
  s.setRow (paStack pa) ((s.rowOf (paStack pa) (Config.rowOf pa % 2 ^ 40)).dram demand s.cycle)
/-- Whether an alert of its row keeps an access back (R515). -/
def State.dramHeld (s : State) (pa : Nat) (demand : Bool) : Bool :=
  match (s.pile (paStack pa)).rows with
  | [] => false
  | _ => s.rowHeld (paStack pa) (Config.rowOf pa % 2 ^ 40) demand

end Sys2Proof.Machine
end

