-- ==== Sys2Proof/Machine/Layers.lean ====
section
/-!
DEFINITION. Frozen regions and fused layer passes: layer records, LAYER, LAYERX2, LAYERT, tile passes, the adapter stage, completion, RCEQ,
RCEPIN and RCEUNPIN, calibration epochs and refresh (R98 to R100, R381 to R410).
-/

namespace Sys2Proof.Machine

/-! ### Regions (R351, R381 to R383) -/

/-- The region a handle names in a partition's table, unless it is stale. -/
def State.regionAt (s : State) (part h : Nat) : Option Region :=
  match (s.part part).regions[h / 4096]? with
  | some x => if h < 2 ^ 32 ∧ x.gen = h % 4096 then x.region.bind s.region? else none
  | none => none

/-- The level at (k, j), a two's-complement code of 5 bits; 0 beyond the matrix (R98, R381). -/
def Region.level (r : Region) (k j : Nat) : Int := if k < r.k ∧ j < r.n then (BitVec.ofNat 5 (r.levels >>> (5 * (k * r.n + j)))).toInt else 0

/-- The BF16 scale of column j of row block rr (R98, R381). -/
def Region.scale (r : Region) (rr j : Nat) : FVal := bf16.unpack ((r.scales >>> (16 * (rr * r.n + j))) % 2 ^ 16)

/-- Stacks that hold tiles of the region, ascending. -/
def Region.stacks (r : Region) : List Nat := (List.range 16).filter fun h => r.homes.contains h

/-- The physical tile of place `i` in an epoch (R389, R392). -/
def Region.tileAt (r : Region) (epoch i : Nat) : Nat :=
  match r.moves.find? fun m => m.1 == i && decide (epoch < m.2.1) with
  | some m => m.2.2
  | none => r.tiles.getD i 0

/-- The record of a region that a pin's epochs map (R389, R406): one that a load anew has set aside, where the pin precedes its mapping. -/
def State.pinnedRecord (s : State) (p : Pin) (r : Region) : Nat → Region
  | 0 => r
  | n + 1 =>
    match r.aside.bind s.region? with
    | some o => if p.epochs.all fun e => (r.since.find? fun x => x.1 == e.1).any fun x => decide (x.2 ≤ e.2) then r else s.pinnedRecord p o n
    | none => r
/-- The names of a region's record and of those set aside for it, newest first. -/
def State.chain (s : State) (r : Region) : Nat → List Nat
  | 0 => [r.id]
  | n + 1 =>
    match r.aside.bind s.region? with
    | some o => r.id :: s.chain o n
    | none => [r.id]
/-- The record a gang's layer instructions on a region use. -/
def State.pinnedAs (s : State) (g : Gang) (r : Region) : Region :=
  match g.pins.find? fun p => p.region == r.id with
  | some p => s.pinnedRecord p r s.regions.length
  | none => r

/-- A layer instruction may name the region (R383, R526). -/
def State.regionOpen (s : State) (r : Region) : Bool := r.avail && r.stacks.all fun h => (s.pile h).arr

/-! ### Records (R393) -/

def lrSkip (r : Nat) : Nat := bitsOf r 895 768
def lrAow (r : Nat) (second : Bool) : Word64 := .ofNat 64 (if second then bitsOf r 767 704 else bitsOf r 255 192)
def lrBow (r : Nat) (second : Bool) : Word64 := .ofNat 64 (if second then bitsOf r 383 320 else bitsOf r 319 256)
def lrKw (r : Nat) : Nat := bitsOf r 681 672 + 1
def lrRowb (r : Nat) : Nat := bitsOf r 671 656
def lrHaco (r : Nat) : Nat := bitsOf r 617 600
def lrBiao (r : Nat) : Nat := bitsOf r 599 576
def lrReg (r : Nat) (second : Bool) : Nat := if second then bitsOf r 575 544 else bitsOf r 543 512
def lrInc (r : Nat) : BitVec 32 := .ofNat 32 (bitsOf r 479 448)
def lrCtr (r : Nat) : Nat := bitsOf r 447 400
def lrOut (r : Nat) : Word64 := .ofNat 64 (bitsOf r 191 128)
def lrIn (r : Nat) : Word64 := .ofNat 64 (bitsOf r 127 64)
def lrN (r : Nat) : Nat := bitsOf r 57 48 + 1
def lrCol0 (r : Nat) : Nat := bitsOf r 47 32
def lrM (r : Nat) : Nat := bitsOf r 31 25 + 1
def lrRank (r : Nat) : Nat := bitsOf r 24 17
def lrHru (r : Nat) : Bool := bitsOf r 16 16 == 1
def lrBie (r : Nat) : Bool := bitsOf r 15 15 == 1
def lrOsat (r : Nat) : Bool := bitsOf r 14 14 == 1
def lrOrm (r : Nat) : Nat := bitsOf r 13 11
def lrOf (r : Nat) : Nat := bitsOf r 10 9
def lrInf (r : Nat) : Bool := bitsOf r 8 8 == 1

def lrUsesB (r : Nat) : Bool := lrRank r != 0
def lrUsesA (r : Nat) : Bool := lrUsesB r && !lrHru r
/-- Bytes of an output element. -/
def lrOutBytes (r : Nat) : Nat := if lrOf r = 0 then 4 else 2
/-- Output elements of a row. -/
def lrOutRow (fn r : Nat) : Nat := if fn = 2 then lrKw r else lrN r
/-- The regions' operand words in use: REG's, and REG1's for LAYERX2. -/
def lrSides (fn : Nat) : List Bool := if fn = 1 then [false, true] else [false]

/-- Check 1 of R394. `k`: the K of REG, where REG names a region. The bits of SKIP at M and above name no row and may be anything (log 121). -/
def layerLayout (fn r : Nat) (k : Option Nat) : Bool :=
  let zero (hi lo : Nat) : Bool := bitsOf r hi lo == 0
  let row := match k with
    | some k => if fn = 2 then 2 * lrN r else k * (if lrInf r then 1 else 2)
    | none => 0
  zero 1023 896 && zero 703 682 && zero 655 618 && zero 511 480 && zero 399 384 && zero 63 58 && zero 7 0 &&
    (if fn = 2 then lrKw r % 32 == 0 && decide (lrKw r ≤ 768) && lrRowb r % 32 == 0 && zero 24 15 && zero 8 8
     else zero 681 672 && zero 671 656) &&
    lrHaco r % 64 == 0 && (lrUsesB r || lrHaco r == 0) && lrBiao r % 4 == 0 && (lrBie r || lrBiao r == 0) && (fn == 1 || zero 575 544) &&
    lrCtr r % 8 == 0 && (lrCtr r != 0 || lrInc r == 0) && lrN r % 32 == 0 && decide (lrN r ≤ 768) && lrCol0 r % 32 == 0 && decide (lrRank r ≤ 128) && (lrUsesB r || !lrHru r) &&
    decide (lrOf r ≤ 2) && (!lrOsat r || lrOf r != 0) && decide (lrOrm r ≤ 4) && (lrOf r != 0 || lrOrm r == 0) &&
    operandOk (lrIn r) row (lrInf r) && operandOk (lrOut r) (lrOutRow fn r * lrOutBytes r) false &&
    ([false, true].all fun e =>
      let side := !e || fn == 1
      (if side && lrUsesA r then operandOk (lrAow r e) (2 * lrRank r) false else lrAow r e == 0) &&
        (if side && lrUsesB r then operandOk (lrBow r e) (2 * lrN r) false else lrBow r e == 0))

/-- Check 3. -/
def layerShape (fn r : Nat) (g0 g1 : Region) : Bool :=
  decide (lrCol0 r + lrN r ≤ g0.n) && decide (lrCol0 r + lrN r ≤ g1.n) && g0.k == g1.k && (fn != 2 || decide (lrRowb r + lrKw r ≤ g0.k))

/-- Check 5: the ranges in the order of the record's words. -/
def State.layerRanges (s : State) (fn r delta k kb : Nat) : Option Stop :=
  let m := lrM r
  let mat (w : Word64) (off rows row : Nat) : Option Stop := s.windowRange (opDao w + off) (16 * opStride w * (rows - 1) + row) 1
  let inRow := if fn = 2 then 2 * lrN r else k * (if lrInf r then 1 else 2)
  let l := [mat (lrIn r) delta m inRow,
            if lrInf r then s.windowRange (opSco (lrIn r) + delta) (4 * m * kb) 1 else none,
            mat (lrOut r) delta m (lrOutRow fn r * lrOutBytes r)] ++
    ((lrSides fn).map fun e => if lrUsesA r then mat (lrAow r e) 0 k (2 * lrRank r) else none) ++
    ((lrSides fn).map fun e => if lrUsesB r then mat (lrBow r e) 0 (lrRank r) (2 * lrN r) else none) ++
    [if lrBie r then s.windowRange (lrBiao r) (4 * lrN r * (lrSides fn).length) 1 else none,
     if lrHaco r + 4 * m * lrRank r ≤ s.gg.acsk then none else some (addrFault 0)]
  l.findSome? id

/-- Rows not skipped, ascending. -/
def lrRows (r : Nat) : List Nat := (List.range (lrM r)).filter fun i => !(lrSkip r).testBit i

/-- Column blocks of the window; row blocks of a pass list. -/
def lrColBlocks (r : Nat) : List Nat := (List.range 128).filter fun c => decide (lrCol0 r / 512 ≤ c) && decide (c ≤ (lrCol0 r + lrN r - 1) / 512)
def lrRowBlocks (fn r kb : Nat) : List Nat :=
  if fn = 2 then (List.range 64).filter fun c => decide (lrRowb r / 1024 ≤ c) && decide (c ≤ (lrRowb r + lrKw r - 1) / 1024) else List.range kb

/-- The tile passes (R384, R395, R397, R398). -/
def layerPasses (fn r rb kb : Nat) : List LPass :=
  ((lrRows r).map fun i => ((lrColBlocks r).map fun c => (lrRowBlocks fn r kb).map fun rr =>
    ({ row := i, second := fn == 1 && decide (rb ≤ i), r := rr, c := c } : LPass)).flatten).flatten

/-- Adapter MACs (R399). -/
def layerMacs (r k : Nat) : Nat :=
  let m := (lrRows r).length
  if lrRank r = 0 then 0 else (if lrHru r then 0 else m * k * lrRank r) + m * lrRank r * lrN r

/-- A layer entry is free for the troupe (R401). -/
def Work.isLayer (x : Work) : Bool :=
  match x.kind with
  | .layer _ => true
  | _ => false
def State.layerRoom (s : State) : Bool :=
  let l := s.works.filter Work.isLayer
  decide ((l.filter fun x => x.core == s.req.core && !x.replay && (s.gang? x.gang).isSome).length < 16) &&
    decide ((l.filter fun x => x.gang == s.gg.uid && x.troupe == s.tr.idx).length < 8)

/-- Counts by key, added to. -/
def addCount (l : List (Nat × Nat)) (k n : Nat) : List (Nat × Nat) :=
  if n = 0 then l
  else if l.any fun x => x.1 == k then l.map fun x => if x.1 = k then (k, x.2 + n) else x else l ++ [(k, n)]

/-- Tile passes charged to the partition, by region handle (R478). -/
def State.chargePasses (s : State) (r : Nat) (ps : List LPass) : State :=
  if s.gg.sys then s
  else
    let p := s.myPart
    let n (e : Bool) := (ps.filter fun x => x.second == e).length
    s.setPart { p with usage := { p.usage with passes := addCount (addCount p.usage.passes (lrReg r false) (n false)) (lrReg r true) (n true) } }

/-- Counts a pin holds for (R406). -/
def pinCounts : Nat := 19000000000
/-- A gang's pins that have stood for 10 s lapse (R406). -/
def Gang.lapse (g : Gang) (cycle : Nat) : Gang :=
  let old := (g.pins.filter fun p => decide (p.cycle + pinCounts ≤ cycle)).map Pin.region
  if old = [] then g
  else { g with pins := g.pins.filter (fun p => !old.contains p.region), lapsed := g.lapsed ++ old.filter fun r => !g.lapsed.contains r }
/-- The pins of the gang in focus as they stand now. -/
def State.lapsePins (s : State) : State := { s with gg := s.gg.lapse s.cycle }

/-- The epochs the gang has pinned on a region (R390, R406). -/
def Gang.pinEpochs (g : Gang) (sel region : Nat) : List (Nat × Nat × Nat) :=
  match g.pins.find? fun p => p.region == region with
  | some p => p.epochs.map fun e => (sel, e.1, e.2)
  | none => []

/-- LAYER, LAYERX2 and LAYERT (R394, R395, R397, R398, R399). -/
def layerForm (fn : Nat) (a b : SReg) (s : State) : Out :=
  runForm (formA 0x66 fn 0 a.toNat b.toNat) s fun bd s =>
    let va := (s.rS a).toNat
    let delta := (s.rS b).toNat
    if 2 ^ 24 ≤ delta then .stop illop
    else if 2 ^ 48 ≤ va then .stop (addrFault (s.rS a))
    else if va % 64 ≠ 0 then .stop (misaligned (s.rS a))
    else
      s.unheld <| match s.readRecord va 128 with
      | .error x => .stop x
      | .ok (r, s) =>
        match s.checkCtr (lrCtr r) with
        | .error x => .stop x
        | .ok s =>
          let bad := badRecord va r 128
          let as_ := s.pinnedAs (s.gg.lapse s.cycle)
          let n0 := s.regionAt s.gg.part (lrReg r false)
          let n1 := if fn = 1 then s.regionAt s.gg.part (lrReg r true) else n0
          if !layerLayout fn r (n0.map fun x => (as_ x).k) then .stop bad
          else
            match n0, n1 with
            | none, _ => .stop (staleHandle (lrReg r false))
            | _, none => .stop (staleHandle (lrReg r true))
            | some n0, some n1 =>
              let g0 := as_ n0
              let g1 := as_ n1
              if !layerShape fn r g0 g1 then .stop bad
              else if !s.regionOpen n0 then .stop (regionGone (lrReg r false))
              else if !s.regionOpen n1 then .stop (regionGone (lrReg r true))
              else
                match s.layerRanges fn r delta g0.k g0.kb with
                | some x => .stop x
                | none =>
                  let rb := min s.tr.rbnd.toNat (lrM r)
                  let ps := layerPasses fn r rb g0.kb
                  let basis : PriceBasis := .passes ps.length (layerMacs r g0.k)
                  if 8192 < s.prices.price basis then .stop (priceTrap (s.prices.price basis))
                  else if !s.layerRoom || (lrUsesB r && !s.matrixRoom) then .wait State.freeWide
                  else
                    s.issueWide basis fun s =>
                      let s := (s.chargePasses r ps).lapsePins
                      let eps := s.gg.pinEpochs 0 n0.id ++ (if fn = 1 then s.gg.pinEpochs 1 n1.id else [])
                      let l : LayerWork := { fn := fn, record := r, delta := delta, rb := rb, reg0 := g0.id, reg1 := g1.id, passes := ps,
                                             adapter := if lrUsesB r && ps != [] then none else some [], epochs := eps }
                      .done ((s.addWork (.layer l) (lrCtr r) (lrInc r) bd.ord).2.noteClip bd.ord.scope)

/-- R395. -/
def execLayer (a b : SReg) (s : State) : Out := layerForm 0 a b s
/-- R397. -/
def execLayerx2 (a b : SReg) (s : State) : Out := layerForm 1 a b s
/-- R398. -/
def execLayert (a b : SReg) (s : State) : Out := layerForm 2 a b s

/-! ### The quantiser (R99) -/

def FVal.abs : FVal → FVal
  | .fin _ m e => .fin false m e
  | .inf _ => .inf false
  | .nan => .nan
def FVal.isFin : FVal → Bool
  | .fin _ _ _ => true
  | _ => false
def FVal.isZero : FVal → Bool
  | .fin _ 0 _ => true
  | _ => false

def biggest (xs : List FVal) : FVal := xs.foldl (fun m x => if x.abs.cmp m = some .gt then x.abs else m) (.fin false 0 0)

/-- s_in and the codes of a row block (R99). -/
def quantise (xs : List FVal) : Word32 × List Int :=
  let m := biggest xs
  if xs.any fun x => !x.isFin then (0x7FC00000, xs.map fun _ => 0)
  else if m.isZero then (0x3F800000, xs.map fun _ => 0)
  else
    let sin := round32 .rup 0 (m.div (.fin false 127 0))
    (sin, xs.map fun x => toIntR96 true .rne 0 (-128) 127 0 (x.div (val32 sin)))

/-! ### Converters and calibration (R100, R386, R387) -/

/-- The error of a reading after calibration (R387). -/
def calError (a : Int) (g o : Word32) (exact : Int) : FVal :=
  sumExact .rne [(val32 g).mul (sumExact .rne [ofIntVal a, (val32 o).neg]), ofIntVal (-exact)]

def atMost (x : FVal) (n : Int) : Bool := x.isFin && x.abs.cmp (ofIntVal n) != some .gt

/-- Readings of a pass of a stack with their gains and offsets (R100, R387): the converter's, where they keep the bounds of R387, else exact
ones (log 11). -/
def readings (inst stack epoch tile base : Nat) (lim rms : Int) (sums : List Int) : List (Int × Word32 × Word32) :=
  let raw := sums.mapIdx fun j x =>
    let a := Config.asum inst (base + j) x
    (max (-(2 ^ 23)) (min (2 ^ 23 - 1) a), Config.epochGain stack epoch tile (base + j), Config.epochOffset stack epoch tile (base + j))
  let errs := (raw.zip sums).map fun (t, x) => calError t.1 t.2.1 t.2.2 x
  let sq := sumExact .rne (errs.map fun e => e.mul e)
  if errs.all (fun e => atMost e lim) && atMost sq (sums.length * rms * rms) then raw else sums.map fun x => (x, 0x3F800000, 0)

/-- Round(s_in × s × g × (A − o)) (R386, R398). -/
def calibrated (sin : Word32) (s : FVal) (t : Int × Word32 × Word32) : Word32 :=
  round32 .rne 0 ((((val32 sin).mul s).mul (val32 t.2.1)).mul (sumExact .rne [ofIntVal t.1, (val32 t.2.2).neg]))

/-! ### Passes (R384, R385, R390) -/

def LayerWork.region (l : LayerWork) (second : Bool) : Nat := if second then l.reg1 else l.reg0
def Work.withLayer (x : Work) (l : LayerWork) : Work := { x with kind := .layer l }

/-- The epoch a pass of a region on a stack uses, and the work's epochs after (R390). Where LAYERX2's regions are pinned apart, or one of them alone,
each uses its own pin's epoch and an unpinned one the stack's (log 120). -/
def State.epochFor (s : State) (l : LayerWork) (second : Bool) (h : Nat) : Nat × List (Nat × Nat × Nat) :=
  let sel := if second && l.fn == 1 then 1 else 0
  match l.epochs.find? fun e => e.1 == sel && e.2.1 == h with
  | some e => (e.2.2, l.epochs)
  | none =>
    match l.epochs.find? fun e => e.1 == 2 && e.2.1 == h with
    | some e => (e.2.2, l.epochs)
    | none => ((s.pile h).epoch, l.epochs ++ [(2, h, (s.pile h).epoch)])

/-- Passes under way on a stack: their tiles (R384). -/
def State.passesOn (s : State) (h : Nat) : List Nat :=
  (s.works.map fun x =>
    match x.kind with
    | .layer l => l.passes.filterMap fun p =>
        if p.started.isSome && p.out.isNone then
          (s.region? (l.region p.second)).bind fun r => if r.homes.getD p.c 16 = h then some (r.tileAt p.epoch (r.tileIndex p.r p.c)) else none
        else none
    | _ => []).flatten

/-- Tiles of a die, spares included; the tiles of a stack are numbered die by die (log 25). -/
def tilesPerDie : Nat := 16896

/-- A tile is being programmed, by a load or by a refresh (R392, R530). -/
def State.programming (s : State) (h tile : Nat) : Bool := (s.pile h).journal.any fun e => e.tile == tile

/-- A pass slot is free for a tile (R384), which is not being programmed (R392). -/
def State.slotFree (s : State) (h tile : Nat) : Bool :=
  let on := s.passesOn h
  !on.contains tile && decide ((on.filter fun t => t / tilesPerDie == tile / tilesPerDie).length < 128) && !s.programming h tile

/-- The same, and no alert throttles the tile's passes (R515). -/
def State.passSlot (s : State) (h tile : Nat) : Bool :=
  s.slotFree h tile && ((s.pile h).rows.all fun c => rowTile c.row != some tile || !s.rowHeld h c.row true)

/-- The bytes of the scratchpad a layer instruction reads (log 23). -/
def State.layerCells (s : State) (x : Work) (l : LayerWork) : List Host.Cell := l.snap.getD (s.scratchOf x)

/-- Reads a byte of the window for a work from the bytes given. -/
def State.windowOf (s : State) (x : Work) (cells : List Host.Cell) (o : Nat) : Byte :=
  let g := (s.gang? x.gang).getD {}
  windowByte g cells (g.ownCore x.troupe) s.freeCtr o

/-- BF16 element `e` of row `i` of an operand at a displacement. -/
def bfAt (rd : Nat → Byte) (w : Word64) (delta i e : Nat) : FVal := bf16.unpack (windowNat rd (opDao w + delta + 16 * opStride w * i + 2 * e) 2)

/-- Code `k` of INT8 input row `i`. -/
def i8At (rd : Nat → Byte) (l : LayerWork) (i k : Nat) : Int := (rd (opDao (lrIn l.record) + l.delta + 16 * opStride (lrIn l.record) * i + k)).toInt

/-- The drive of a pass: scale and codes (R99, R395, R398). -/
def driveOf (rd : Nat → Byte) (l : LayerWork) (g : Region) (p : LPass) : Word32 × List Int :=
  let r := l.record
  if l.fn = 2 then
    quantise ((List.range 512).map fun t =>
      let j := 512 * p.c + t
      if lrCol0 r ≤ j ∧ j < lrCol0 r + lrN r then
        val32 (round32 .rne 0 ((bfAt rd (lrIn r) l.delta p.row (j - lrCol0 r)).mul (g.scale p.r j)))
      else .fin false 0 0)
  else
    let n := min 1024 (g.k - 1024 * p.r)
    if lrInf r then
      (.ofNat 32 (windowNat rd (opSco (lrIn r) + l.delta + 4 * (p.row * g.kb + p.r)) 4), (List.range n).map fun t => i8At rd l p.row (1024 * p.r + t))
    else quantise ((List.range n).map fun t => bfAt rd (lrIn r) l.delta p.row (1024 * p.r + t))

/-- Whether a range of the window holds an uncorrectable error for a work (R403, log 9). -/
def State.padError (s : State) (x : Work) (o n : Nat) : Bool :=
  match s.gang? x.gang with
  | some g => (s.bad.any fun b => b.2 == 1) && (List.range (n / 128 + 2)).any fun k =>
      s.bad.contains (g.padLine (sharePlace (g.ownCore x.troupe) (min (o + n - 1) (o + 128 * k))), 1)
  | none => false

/-- The input ranges of a pass of a region of K rows: its codes or values, and the scale of its row block. -/
def driveRanges (l : LayerWork) (k : Nat) (p : LPass) : List (Nat × Nat) :=
  let w := lrIn l.record
  let row := opDao w + l.delta + 16 * opStride w * p.row
  let n := min 1024 (k - 1024 * p.r)
  if l.fn = 2 then [(row, 2 * lrN l.record)]
  else if lrInf l.record then [(row + 1024 * p.r, n), (opSco w + l.delta + 4 * (p.row * ((k + 1023) / 1024) + p.r), 4)]
  else [(row + 2048 * p.r, 2 * n)]

/-- The address of the first output element of a pass's row and column block (R441). -/
def outAddr (l : LayerWork) (p : LPass) : Nat :=
  let r := l.record
  scratchBase + opDao (lrOut r) + l.delta + 16 * opStride (lrOut r) * p.row +
    lrOutBytes r * (if l.fn = 2 then max (lrRowb r) (1024 * p.r) - lrRowb r else max (lrCol0 r) (512 * p.c) - lrCol0 r)

/-- R403: passes of a work met an error in a unit. -/
def State.layerError (s : State) (x : Work) (l : LayerWork) (ps : List Nat) (pa u : Nat) : State :=
  let s := s.engineCheck x (some (pa, u))
  let s := s.setWork (x.withLayer { l with bad := l.bad ++ ps.filter fun n => !l.bad.contains n })
  s.engineError x.uid 2 (((ps.head?.bind fun n => l.passes[n]?).map (outAddr l)).getD 0)

/-- R384, R385, R390, R515. -/
def execTilePassStart (w n : Nat) (s : State) : Out :=
  .next (match s.work? w with
    | some x =>
      match x.kind with
      | .layer l =>
        match l.passes[n]?, (l.passes[n]?).bind fun p => s.region? (l.region p.second) with
        | some p, some g =>
          let h := g.homes.getD p.c 16
          let (ep, eps) := s.epochFor l p.second h
          let tile := g.tileAt ep (g.tileIndex p.r p.c)
          if !s.begins x || x.replay || p.started.isSome || !s.passSlot h tile then s
          else
            let cells := s.layerCells x l
            let d := driveOf (s.windowOf x cells) l g p
            let l := { l with snap := some cells, epochs := eps,
                              passes := l.passes.set n { p with started := some d, epoch := ep } }
            let s := s.setWork (x.withLayer l)
            -- every row driven with a nonzero code counts (R515); a transposed pass drives columns
            let s := if l.fn = 2 then s else
              (d.2.zipIdx).foldl (fun s q => if q.1 = 0 then s else s.countRow h (tileRow tile q.2) true) s
            if (driveRanges l g.k p).any fun q => s.padError x q.1 q.2 then s.layerError x l [n] 0 1 else s
        | _, _ => s
      | _ => s
    | none => s)

/-- What a pass yields (R386, R398): the results of the window's columns, or of the output's rows. -/
def passOut (inst : Nat) (l : LayerWork) (g : Region) (p : LPass) (d : Word32 × List Int) : List (BitVec 32) :=
  let r := l.record
  let tile := g.tileAt p.epoch (g.tileIndex p.r p.c)
  let h := g.homes.getD p.c 16
  if l.fn = 2 then
    let sums := (List.range 1024).map fun k => ((d.2.zipIdx).map fun q => q.1 * g.level (1024 * p.r + k) (512 * p.c + q.2)).foldl (· + ·) 0
    let rs := readings inst h p.epoch tile 512 9831 2458 sums
    ((rs.zipIdx).filter fun q => decide (lrRowb r ≤ 1024 * p.r + q.2) && decide (1024 * p.r + q.2 < lrRowb r + lrKw r)).map fun q =>
      calibrated d.1 (.fin false 1 0) q.1
  else
    let sums := (List.range 512).map fun j => ((d.2.zipIdx).map fun q => q.1 * g.level (1024 * p.r + q.2) (512 * p.c + j)).foldl (· + ·) 0
    let rs := readings inst h p.epoch tile 0 19661 4916 sums
    ((rs.zipIdx).filter fun q => decide (lrCol0 r ≤ 512 * p.c + q.2) && decide (512 * p.c + q.2 < lrCol0 r + lrN r)).map fun q =>
      calibrated d.1 (g.scale p.r (512 * p.c + q.2)) q.1

/-- The name in `bad` of a tile's converters (log 9). -/
def converterLine (h tile : Nat) : Nat := 2 ^ 48 + 2 ^ 20 * h + tile

/-- R385 to R387, R398, R403. A pass that has started lands, also while its gang is being saved (R404). -/
def execTilePassComplete (w n : Nat) (s : State) : Out :=
  .next (match s.work? w with
    | some x =>
      match x.kind with
      | .layer l =>
        match l.passes[n]?, (l.passes[n]?).bind fun p => s.region? (l.region p.second) with
        | some p, some g =>
          match p.started, p.out with
          | some d, none =>
            let h := g.homes.getD p.c 16
            let l := { l with passes := l.passes.set n { p with out := some (passOut s.freeCtr l g p d) } }
            let s := s.setWork (x.withLayer l)
            if s.bad.contains (converterLine h (g.tileAt p.epoch (g.tileIndex p.r p.c)), 8) then s.layerError x l [n] 0 8 else s
          | _, _ => s
        | _, _ => s
      | _ => s
    | none => s)

/-! ### The adapter stage (R396) -/

def flushBf (v : FVal) : FVal := bf16.flush v
/-- Round to BF16, RNE, as an operand. -/
def toBf (v : FVal) : FVal := flushBf (bf16.unpack (bf16.round .plain .rne 0 v))

/-- The adapter's input x(i, k). -/
def adapterIn (rd : Nat → Byte) (l : LayerWork) (kb i k : Nat) : FVal :=
  let r := l.record
  if lrInf r then
    toBf ((ofIntVal (i8At rd l i k)).mul (fp32.unpack (windowNat rd (opSco (lrIn r) + l.delta + 4 * (i * kb + k / 1024)) 4)))
  else flushBf (bfAt rd (lrIn r) l.delta i k)

/-- The terms of an R101 sum over `n` indices, in groups of 16. -/
def groupsOf (n : Nat) (f : Nat → FVal) : List (List FVal) :=
  (List.range ((n + 15) / 16)).map fun g => ((List.range 16).filter fun t => decide (16 * g + t < n)).map fun t => f (16 * g + t)

def LayerWork.secondRow (l : LayerWork) (i : Nat) : Bool := l.fn == 1 && decide (l.rb ≤ i)

/-- h(i, ·) (R396): from the input and A, or from the ACS. `rdA` reads the operands as they stand at the stage (R370). -/
def adapterH (rd rdA : Nat → Byte) (acs : List Host.Cell) (own : Nat) (l : LayerWork) (k kb i : Nat) : List Word32 :=
  let r := l.record
  let e := l.secondRow i
  (List.range (lrRank r)).map fun t =>
    if lrHru r then .ofNat 32 (readCells acs (own * 2 ^ 18 + lrHaco r + 4 * (i * lrRank r + t)) 4)
    else accumulate 0 (groupsOf k fun kk => (adapterIn rd l kb i kk).mul (flushBf (bfAt rdA (lrAow r e) 0 kk t)))

/-- adapter(i, ·) over the window (R396). -/
def adapterRow (rdA : Nat → Byte) (l : LayerWork) (i : Nat) (h : List Word32) : List Word32 :=
  let r := l.record
  (List.range (lrN r)).map fun j =>
    accumulate 0 (groupsOf (lrRank r) fun t => (toBf (val32 (h.getD t 0))).mul (flushBf (bfAt rdA (lrBow r (l.secondRow i)) 0 t j)))

/-- The part of the window a column block holds (R403). -/
def blockCols (r c : Nat) : Nat × Nat := (max (lrCol0 r) (512 * c), min (lrCol0 r + lrN r) (512 * c + 512))

/-- Whether a matrix of BF16 has an error in some columns of its rows. -/
def State.matError (s : State) (x : Work) (w : Word64) (rows c0 c1 : Nat) : Bool :=
  (List.range rows).any fun i => s.padError x (opDao w + 16 * opStride w * i + 2 * c0) (2 * (c1 - c0))

/-- The passes whose row and column block the adapter's operands fail (R403): by errors in the scratchpad, and in the h area of the ACS. -/
def State.adapterBad (s : State) (x : Work) (l : LayerWork) (g : Gang) (k : Nat) : List Nat × List Nat :=
  let r := l.record
  let own := g.ownCore x.troupe
  let side (e : Bool) : Bool × (Nat → Bool) :=
    (lrUsesA r && s.matError x (lrAow r e) k 0 (lrRank r),
     fun c => s.matError x (lrBow r e) (lrRank r) ((blockCols r c).1 - lrCol0 r) ((blockCols r c).2 - lrCol0 r))
  let hBad (i : Nat) : Bool := lrHru r && (List.range (lrRank r)).any fun t =>
    s.bad.contains (g.acsLine (own * 2 ^ 18 + lrHaco r + 4 * (i * lrRank r + t)), 7)
  let ps := l.passes.zipIdx
  ((ps.filter fun p => (side (l.secondRow p.1.row)).1 || (side (l.secondRow p.1.row)).2 p.1.c).map Prod.snd,
   (ps.filter fun p => hBad p.1.row).map Prod.snd)

/-- R396, R370, R373: a stage of the engine, which has to be ramped for it as for an MMA and stays ramped after it (R241, log 89). -/
def execAdapterStage (w : Nat) (s : State) : Out :=
  .next (match s.work? w with
    | some x =>
      let s := s.settleLease x.core
      match x.kind, s.gang? x.gang, ((s.engineWorks x.core).find? fun y => y.gang == x.gang && y.troupe == x.troupe).map Work.uid with
      | .layer l, some g, some first =>
        if first ≠ w ∨ (s.core x.core).lease ≠ some (x.gang, x.troupe) then s
        else
          match s.rampStep x.core true with
          | none => if (s.core x.core).ramp = .idle then s.setCore { s.core x.core with ramp := .ramping s.cycle 256 } else s
          | some s =>
          let own := g.ownCore x.troupe
          let cells := s.layerCells x l
          let rd := s.windowOf x cells
          let rdA := s.windowOf x g.scratch
          let r := l.record
          let k := ((s.region? l.reg0).map Region.k).getD 0
          let hs := (lrRows r).map fun i => (i, adapterH rd rdA g.acs own l k ((k + 1023) / 1024) i)
          let terms := (List.range (lrM r)).map fun i =>
            match hs.find? fun q => q.1 == i with
            | some q => adapterRow rdA l i q.2
            | none => (List.range (lrN r)).map fun _ => 0
          let store (acs : List Host.Cell) : List Host.Cell :=
            if lrHru r then acs
            else hs.foldl (fun acs q => (q.2.zipIdx).foldl (fun acs v => writeCells acs (own * 2 ^ 18 + lrHaco r + 4 * (q.1 * lrRank r + v.2)) 4 v.1.toNat) acs) acs
          let s := s.updGang x.gang fun g => { g with acs := store g.acs }
          let l := { l with snap := some cells, adapter := some terms.flatten }
          let s := s.setWork (x.withLayer l)
          let (pad, acs) := s.adapterBad x l g k
          let s := if pad = [] then s else s.layerError x l pad 0 1
          let s := if acs = [] then s else s.layerError x { l with bad := l.bad ++ pad } acs 0 7
          s.settleLease x.core
      | _, _, _ => s
    | none => s)

/-! ### Completion (R386, R395, R398, R403) -/

/-- The canonical NaN of OF, and a value converted to OF (R386). -/
def outNan (r : Nat) : Nat :=
  match lrOf r with
  | 1 => bf16.qnan
  | 2 => fp16.qnan
  | _ => fp32.qnan
def outCode (r : Nat) (a : Word32) : Nat :=
  let form : OvForm := if lrOsat r then .sat else .plain
  let mode := modeOfCode (lrOrm r + 1)
  match lrOf r with
  | 1 => bf16.round form mode 0 (val32 a)
  | 2 => fp16.round form mode 0 (val32 a)
  | _ => a.toNat

def add32 (a b : Word32) : Word32 := round32 .rne 0 (sumExact .rne [val32 a, val32 b])

/-- The results of a row's passes that make output element `e`: their numbers and values, in the order of the sum. -/
def elemPasses (l : LayerWork) (i e : Nat) : List (Nat × Word32) :=
  let r := l.record
  let j := if l.fn = 2 then lrRowb r + e else lrCol0 r + e
  (l.passes.zipIdx).filterMap fun (p, n) =>
    if p.row ≠ i then none
    else if l.fn = 2 then (if p.r = j / 1024 then some (n, (p.out.getD []).getD (j - max (lrRowb r) (1024 * p.r)) 0) else none)
    else if p.c = j / 512 then some (n, (p.out.getD []).getD (j - max (lrCol0 r) (512 * p.c)) 0) else none

/-- Output element `e` of row `i` (R386, R395, R398). -/
def layerElem (rd : Nat → Byte) (l : LayerWork) (i e : Nat) : Nat :=
  let r := l.record
  if (lrSkip r).testBit i then 0
  else
    let ps := elemPasses l i e
    if ps.any fun q => l.bad.contains q.1 then outNan r
    else
      let a := match ps.map Prod.snd with
        | [] => 0
        | p :: qs => qs.foldl add32 p
      let a := if l.fn ≠ 2 ∧ lrUsesB r then add32 a (((l.adapter.getD []).getD (i * lrN r + e) 0)) else a
      let a := if lrBie r then add32 a (.ofNat 32 (windowNat rd (lrBiao r + 4 * (e + if l.secondRow i then lrN r else 0)) 4)) else a
      outCode r a

/-- The gang after OUT is written. -/
def layerWrite (rd : Nat → Byte) (g : Gang) (own : Nat) (l : LayerWork) : Gang :=
  let r := l.record
  let z := lrOutBytes r
  let vals := ((List.range (lrM r)).map fun i => (List.range (lrOutRow l.fn r)).map fun e =>
    (opDao (lrOut r) + l.delta + 16 * opStride (lrOut r) * i + e * z, layerElem rd l i e)).flatten
  { g with scratch := vals.foldl (fun c v => if v.1 / 2 ^ 20 ≤ g.nC ∧ v.1 % 2 ^ 20 < g.scru then writeCells c (sharePlace own v.1) z v.2 else c) g.scratch }

/-- R386, R395, R400, R402: when every pass and the adapter stage have ended OUT is written, then the counter add is made. -/
def execLayerComplete (w : Nat) (s : State) : Out :=
  .next (match s.work? w with
    | some x =>
      match x.kind, s.gang? x.gang with
      | .layer l, some _ =>
        if !s.runs x || x.replay || l.adapter.isNone || (l.passes.any fun p => p.out.isNone) || s.ctrBlocked x then s
        else
          let cells := s.layerCells x l
          let r := l.record
          let biasBad (p : LPass) : Bool := lrBie r && !l.wrote &&
            s.padError x (lrBiao r + 4 * ((blockCols r p.c).1 - lrCol0 r + if l.secondRow p.row then lrN r else 0)) (4 * ((blockCols r p.c).2 - (blockCols r p.c).1))
          let hit := ((l.passes.zipIdx).filter fun p => biasBad p.1).map Prod.snd
          let (s, l) := if hit = [] then (s, l) else (s.layerError x l hit 0 1, { l with bad := l.bad ++ hit })
          let s := if l.wrote then s else s.updGang x.gang fun g => layerWrite (s.windowOf x cells) g (g.ownCore x.troupe) l
          let x := ((s.work? w).getD x).withLayer { l with wrote := true, snap := some cells }
          let s := s.setWork x
          let s := if l.wrote then s else s.readsBound x.uid
          match s.workAdd x x.err with
          | (s, true) => s.finishWork x
          | (s, false) => s
      | _, _ => s
    | none => s)

/-! ### RCEQ, RCEPIN, RCEUNPIN (R405 to R407) -/

/-- The residuals of the latest fit of a region's columns (R391, R405): each stack's current epoch, each tile, each column of the region. -/
def State.residuals (s : State) (r : Region) : List Nat :=
  ((r.tiles.zipIdx).map fun q =>
    let c := q.2 % r.nt
    let h := r.homes.getD c 16
    (List.range (min 512 (r.n - 512 * c))).map fun j => (Config.residual h (s.pile h).epoch q.1 j).toNat).flatten

/-- The integer square root, bit by bit from bit `n` down. -/
def rootBits (x : Nat) : Nat → Nat → Nat
  | 0, r => r
  | n + 1, r => rootBits x n (if (r + 2 ^ n) * (r + 2 ^ n) ≤ x then r + 2 ^ n else r)
/-- The root of the mean square, rounded down. -/
def rmsOf (l : List Nat) : Nat := rootBits ((l.map fun x => x * x).sum / max 1 l.length) 32 0

/-- What RCEQ answers (R405). -/
def State.rceq (s : State) (r : Region) (sel : Nat) : Word64 :=
  let g := s.gg
  let pinned := g.pins.any fun p => p.region == r.id
  match sel with
  | 0 => .ofNat 64 (r.k + r.n * 2 ^ 20 + r.stacks.length * 2 ^ 40 + if r.avail then 2 ^ 45 else 0)
  | 1 => .ofNat 64 ((if pinned then 1 else 0) + (if g.lapsed.contains r.id then 2 else 0) + if g.refusedPins.contains r.id then 4 else 0)
  | 2 => .ofNat 64 ((s.residuals r).foldl max 0 + rmsOf (s.residuals r) * 2 ^ 32)
  | 3 => .ofNat 64 r.refreshed
  | _ =>
    let h := sel - 16
    if r.homes.contains h then
      match (g.pinEpochs 0 r.id).find? fun e => e.2.1 == h with
      | some e => .ofNat 64 (e.2.2 % 2 ^ 48 + 2 ^ 48)
      | none => .ofNat 64 ((s.pile h).epoch % 2 ^ 48)
    else 0

/-- R405. -/
def execRceq (d a : SReg) (s : State) : Out :=
  runForm (formA 0x66 3 d.toNat a.toNat 0) s fun _ s =>
    let v := (s.rS a).toNat
    let sel := bitsOf v 39 32
    if bitsOf v 63 40 ≠ 0 ∨ (3 < sel ∧ (sel < 16 ∨ 31 < sel)) then .stop illop
    else
      match s.regionAt s.gg.part (v % 2 ^ 32) with
      | none => .stop (staleHandle (v % 2 ^ 32))
      | some r => .done (s.lapsePins.wS d (s.lapsePins.rceq r sel))

/-- R406. -/
def execRcepin (a : SReg) (s : State) : Out :=
  runForm (formA 0x66 4 0 a.toNat 0) s fun _ s =>
    let v := (s.rS a).toNat
    if 2 ^ 32 ≤ v then .stop illop
    else
      match s.regionAt s.gg.part v with
      | none => .stop (staleHandle v)
      | some r =>
        let s := s.lapsePins
        let g := s.gg
        if g.pins.any fun p => p.region == r.id then .done s
        else if 8 ≤ g.pins.length then .done { s with gg := { g with refusedPins := if g.refusedPins.contains r.id then g.refusedPins else g.refusedPins ++ [r.id] } }
        else
          let p : Pin := { region := r.id, cycle := s.cycle, epochs := r.stacks.map fun h => (h, (s.pile h).epoch) }
          .done { s with gg := { g with pins := g.pins ++ [p], lapsed := g.lapsed.filter fun x => x != r.id,
                                        refusedPins := g.refusedPins.filter fun x => x != r.id } }

/-- R407. -/
def execRceunpin (a : SReg) (s : State) : Out :=
  runForm (formA 0x66 5 0 a.toNat 0) s fun _ s =>
    let v := (s.rS a).toNat
    if 2 ^ 32 ≤ v then .stop illop
    else
      match s.regionAt s.gg.part v with
      | none => .stop (staleHandle v)
      | some r =>
        let s := s.lapsePins
        .done { s with gg := { s.gg with pins := s.gg.pins.filter fun p => p.region != r.id } }

/-- R406: also of a gang that is saved. -/
def execPinLapse (g _region : Nat) (s : State) : Out :=
  let s' := s.updGang g fun x => x.lapse s.cycle
  .next { s' with saved := s'.saved.map fun v => if v.gang.uid = g then { v with gang := v.gang.lapse s.cycle } else v }

/-! ### Epochs and refresh (R389 to R392) -/

/-- What a save has recorded of a layer instruction holds its epochs no longer (R404). -/
def LayerWork.lapsed (l : LayerWork) (cycle : Nat) : Bool := (l.heldAt.map fun t => decide (t + pinCounts ≤ cycle)).getD false

/-- Epochs of a stack that a pin, a work or a replay entry holds (R390, R404). -/
def State.heldEpochs (s : State) (h : Nat) : List Nat :=
  ((s.allGangs ++ s.saved.map SavedGang.gang).map fun g =>
      ((g.lapse s.cycle).pins.map fun p => (p.epochs.filter fun e => e.1 == h).map Prod.snd).flatten).flatten ++
    (s.works.map fun x =>
      match x.kind with
      | .layer l => if l.lapsed s.cycle then [] else (l.epochs.filter fun e => e.2.1 == h).map fun e => e.2.2
      | _ => []).flatten

/-- The older epochs a stack keeps. -/
def State.keptEpochs (s : State) (h : Nat) : List Nat := ((s.pile h).epoch :: (s.pile h).older).filter fun e => (s.heldEpochs h).contains e && e != 0

/-- Whether a stack may publish now (R389, R526): step 8 of the boot is done, a second has passed since the last, and at most three older epochs
are held. -/
def State.mayPublish (s : State) (h : Nat) : Bool :=
  let p := s.pile h
  p.up && decide (8 ≤ s.bootStep) && (p.epoch == 0 || decide (p.publishedAt + 1900000000 ≤ s.cycle)) && decide ((s.keptEpochs h).length ≤ 3)

/-- Tiles apart from spares, and the lowest spare of a die that is not used or retired (R392): 16,384 tiles and 512 spares a die. -/
def tilesApart : Nat := 16384
def spareOf (gone : List Nat) (die : Nat) : Option Nat :=
  ((List.range 512).map fun k => die * tilesPerDie + tilesApart + k).find? fun t => !gone.contains t

/-- Programmings of a stack that reached MAPPED (R528, R530). -/
def State.journalDone (s : State) (h n : Nat) : State :=
  let p := s.pile h
  s.setPile { p with jseq := p.jseq + n }

/-- The regions a load still has to load: those of its image that no later load has taken over. -/
def State.loadRegions (s : State) (l : Load) : List Nat :=
  match s.images.find? fun i => i.id == l.image with
  | some i => (i.regions.map Region.id).filter fun r => !l.taken.contains r
  | none => []
/-- Whether a load of a region is under way, its source staged (R530). -/
def State.loading (s : State) (region : Nat) : Bool := s.loads.any fun l => (s.loadRegions l).contains region

/-- An epoch maps the tiles a load has programmed and verified on the stack (R530); with its last stack a load is complete, its regions available
and its image in force (R528, R533). -/
def State.mapLoads (s : State) (h : Nat) : State :=
  let p := s.pile h
  let mine (l : Load) (e : JEntry) : Bool := e.isLoad && (s.loadRegions l).contains e.region
  let ready (l : Load) : Bool := l.left.contains h && p.journal.all fun e => !mine l e || e.state == .verified
  if !s.loads.any ready then s
  else
    let maps (e : JEntry) : Bool := s.loads.any fun l => ready l && mine l e
    let new := ((p.journal.filter maps).map JEntry.region).eraseDups
    let ls := s.loads.map fun l => if ready l then { l with left := l.left.filter fun x => x != h } else l
    let done := ls.filter fun l => l.left.isEmpty
    let ids := (done.map s.loadRegions).flatten
    let s := s.setPile { p with jseq := p.jseq + (p.journal.filter maps).length, journal := p.journal.filter fun e => !maps e }
    let s := { s with regions := s.regions.map fun (r : Region) => if new.contains r.id then { r with since := r.since ++ [(h, p.epoch)] } else r }
    let hash := match done.getLast? with
      | some l => ((s.images.find? fun i => i.id == l.image).map fun i => Config.sha512 i.bytes).getD s.imgh
      | none => s.imgh
    { s with loads := ls.filter (fun l => !l.left.isEmpty), imgh := hash,
             regions := s.regions.map fun r => if ids.contains r.id then { r with avail := true } else r }

/-- The next epoch published (R389, R530); ARR is set with the first that finds no load of the stack's regions cut short or under way (R525). -/
def State.publish (s : State) (h : Nat) : State :=
  let p := s.pile h
  let s := (s.setPile { p with older := s.keptEpochs h, epoch := p.epoch + 1, publishedAt := s.cycle }).mapLoads h
  let q := s.pile h
  s.setPile { q with arr := q.arr || !(q.journal.any JEntry.isLoad) }

/-- A fit of a tile exceeds the bounds of R387 (R391), a residual being in units of 2^-32 of full scale. -/
def fitOver (l : List Nat) : Bool :=
  (l.any fun x => decide (19661 * 2 ^ 32 < x * 1966080)) || decide (l.length * 4916 ^ 2 * 2 ^ 64 < (l.map fun x => x * x).sum * 1966080 ^ 2)

/-- The old tiles of a stack that no held epoch uses are free (R392). -/
def State.freeOld (s : State) (h : Nat) : State :=
  let held := s.heldEpochs h
  let dead (r : Region) (m : Nat × Nat × Nat) : Bool := r.homes.getD (m.1 % r.nt) 16 == h && !held.any fun e => decide (e < m.2.1)
  let free := (s.regions.map fun r => (r.moves.filter (dead r)).map fun m => m.2.2).flatten
  if free = [] then s
  else
    let p := s.pile h
    ({ s with regions := s.regions.map fun (r : Region) => { r with moves := r.moves.filter (fun m => !dead r m) } }).setPile
      { p with gone := p.gone.filter fun t => !free.contains t }

/-- The tiles whose residuals in a new epoch exceed the bounds are scheduled for refresh (R391). -/
def State.fitTiles (s : State) (h : Nat) : State :=
  let e := (s.pile h).epoch
  let tiles := (s.regions.map fun r => r.tiles.zipIdx.filterMap fun q =>
    if r.homes.getD (q.2 % r.nt) 16 = h then some (q.1, min 512 (r.n - 512 * (q.2 % r.nt))) else none).flatten
  tiles.foldl (fun s t => if fitOver ((List.range t.2).map fun j => (Config.residual h e t.1 j).toNat) then s.scheduleTile h t.1 else s) s

/-- R389, R391. -/
def execEpochPublish (stack : Nat) (s : State) : Out :=
  .next (if stack < 16 ∧ s.mayPublish stack then ((s.publish stack).freeOld stack).fitTiles stack else s)

/-- R389. A probe uses an idle slot and drives no tile that is being programmed (R409); it counts as the sequencer's activations, and waits while an
alert of its own stops it (R515). -/
def execRceProbePass (stack tile : Nat) (s : State) : Out :=
  let p := s.pile stack
  let idle := s.slotFree stack tile && decide ((s.passesOn stack).length < 1536)
  .next (if stack < 16 ∧ p.up ∧ p.resetting.isNone ∧ idle ∧ !p.tileStopped tile then
      (s.setPile { p with progress := s.cycle }).countTile stack tile
    else s)

/-- Whether anything holds an epoch of a region on a stack (R390, R392): a pin, or a layer instruction, as it runs or as a save recorded it, that has
its epoch there. -/
def State.regionHeld (s : State) (r : Region) (h : Nat) : Bool :=
  ((s.allGangs ++ s.saved.map SavedGang.gang).any fun g => (g.lapse s.cycle).pins.any fun p =>
      (s.region? p.region).any fun b => (s.chain b s.regions.length).contains r.id) ||
    s.works.any fun x =>
      match x.kind with
      | .layer l => (l.reg0 == r.id || l.reg1 == r.id) && !l.lapsed s.cycle && l.epochs.any fun e => e.2.1 == h
      | _ => false

/-- A place of a region is refreshed: one more in its count. -/
def Region.refreshedAt (r : Region) (i : Nat) : Region :=
  { r with refreshed := r.refreshed + 1, due := r.due.filter fun d => r.tileIndex d.1 d.2 != i }

/-- The stacks a job covers. -/
def State.jobStacks (s : State) (x : Work) (j : JobWork) : List Nat :=
  match (s.part x.part).fields[j.field]? with
  | some f => (((f.parts.drop j.part0).take j.parts).map Prod.fst).eraseDups
  | none => []

/-- Whether a stack's sequencer has a job, or a programming of a tile, to go on with (R516, R530). -/
def State.sequencerBusy (s : State) (h : Nat) : Bool :=
  (s.works.any fun x =>
    match x.kind with
    | .job j => !j.ended && (s.jobStacks x j).contains h
    | _ => false) ||
    (s.pile h).journal.any fun e => e.state != .verified && (!e.isLoad || s.loading e.region)

/-- Work reaches a sequencer: the watchdog of an idle one counts from now (R516). -/
def State.arouse (s : State) (h : Nat) : State := if s.sequencerBusy h then s else s.setPile { s.pile h with progress := s.cycle }

/-- The SHA-512 of a tile's levels, row by row, a byte each (R530; log 119). -/
def Region.tileHash (r : Region) (i : Nat) : BitVec 512 :=
  Config.sha512 (((List.range 1024).map fun k => (List.range 512).map fun j => BitVec.ofInt 8 (r.level (1024 * (i / r.nt) + k) (512 * (i % r.nt) + j))).flatten)

/-- The place of a region an entry programs. -/
def JEntry.isOf (e : JEntry) (r : Region) (i : Nat) : Bool := e.region == r.id && e.r == i / r.nt && e.c == i % r.nt

/-- A stack's entries, some changed or gone; its sequencer has made progress. -/
def State.journalMap (s : State) (h : Nat) (f : JEntry → Option JEntry) : State :=
  let p := s.pile h
  s.setPile { p with journal := p.journal.filterMap f, progress := s.cycle }

/-- The state an entry has reached. -/
def State.setEntry (s : State) (h : Nat) (e : JEntry) (t : JState) : State :=
  s.journalMap h fun x => some (if x.region = e.region ∧ x.r = e.r ∧ x.c = e.c then { x with state := t } else x)

/-- R392, steps 1 and 2. A due tile is read back, and the programming of a spare of its die is recorded; with no spare left it is to be refreshed in
place, its region unavailable, once nothing holds an epoch of it on the stack. -/
def State.beginRefresh (s : State) (h : Nat) (r : Region) (i tile : Nat) : State :=
  let p := s.pile h
  let e (t : Nat) : JEntry := { region := r.id, r := i / r.nt, c := i % r.nt, tile := t, isLoad := false, hash := r.tileHash i }
  let enter (s : State) (t : Nat) (gone : List Nat) : State :=
    let s := s.arouse h
    let p := s.pile h
    (s.setPile { p with gone := gone, journal := p.journal ++ [e t], progress := s.cycle }).countTile h tile
  if !r.avail || p.tileStopped tile then s
  else
    match spareOf p.gone (tile / tilesPerDie) with
    | some t => enter s t (p.gone ++ [t])
    | none => if s.regionHeld r h then s else enter (s.setRegion { r with avail := false }) tile p.gone

/-- The next state of a recorded programming of a tile (R392, R530): written; read back, a spare that fails retired and the next tried; and, of a
refresh, mapped by the epoch its stack then publishes. A load's tiles are mapped by the stack's next epoch. -/
def State.programStep (s : State) (h : Nat) (r : Region) (i tile : Nat) (e : JEntry) : State :=
  match e.state with
  | .intent => (s.setEntry h e .programmed).countTile h e.tile
  | .programmed =>
    let s := s.countTile h e.tile
    if e.isLoad || Config.freeNat s.freeCtr % 2 = 0 then s.setEntry h e .verified
    else if e.tile = tile then s.setEntry h e .intent
    else s.journalMap h fun x => if x = e then none else some x
  | .verified =>
    if e.isLoad || !s.mayPublish h then s
    else
      let s := ((s.journalMap h fun x => if x = e then none else some x).publish h).journalDone h 1
      let new := if e.tile = tile then { r.refreshedAt i with avail := true }
                 else { r.refreshedAt i with tiles := r.tiles.set i e.tile, moves := r.moves ++ [(i, (s.pile h).epoch, tile)] }
      (s.setRegion { new with since := ((s.region? r.id).map Region.since).getD r.since }).fitTiles h

/-- R392, R530. A step of the programming of a place of a region by a stack's sequencer. -/
def execTileRefresh (stack tile : Nat) (s : State) : Out :=
  let s := s.freeOld stack
  let p := s.pile stack
  .next (match s.tileOwner stack tile with
    | some (r, i) =>
      if 16 ≤ stack ∨ !p.up ∨ p.resetting.isSome then s
      else
        match p.journal.find? fun e => e.isOf r i with
        | some e => if e.isLoad && !s.loading e.region then s else s.programStep stack r i tile e
        | none => if r.due.any fun d => r.tileIndex d.1 d.2 == i then s.beginRefresh stack r i tile else s
    | none => s)

/-- The journal replayed on some stacks (R516, R530): a refresh restarts from its old tile, a load whose source is still held from that; the regions
of any other load stay unavailable, reported once the host has to supply its image again. -/
def State.recoverJournal (s : State) (on : Nat → Bool) : State :=
  let lost := ((s.piles.map fun p => if on p.stack then (p.journal.filter fun e => e.isLoad && !s.loading e.region).map JEntry.region else []).flatten).eraseDups
  { s with regions := s.regions.map (fun r => if lost.contains r.id then { r with avail := false } else r),
           mail := s.mail ++ lost.map Mail.imgPend,
           piles := s.piles.map fun p => if on p.stack then { p with journal := p.journal.map fun e => { e with state := .intent } } else p }

/-! ### Recorded work handed back (R347, R379, R404, R459, R492) -/

/-- A recorded work is its engine's again: entries given back, and where its holds on epochs have lapsed the current ones (R404). -/
def State.handBack (s : State) (x : Work) : State :=
  let kind := match x.kind with
    | .layer l => .layer { l with epochs := if l.lapsed s.cycle then [] else l.epochs, heldAt := none }
    | k => k
  (s.giveEntry .replay x.part x.saveEntries).setWork { x with replay := false, again := true, saveEntries := 0, reserve := 0, kind := kind }

/-- Whether what a save recorded of a work has still to run (R492): handed back or not, short of what waits for a page. -/
def Work.unrun (x : Work) : Bool := x.replay || (x.again && (x.left != 0 || !x.started.isEmpty))

/-- Whether a queue entry, or a layer entry, is free for a recorded work (R375, R401). -/
def State.handRoom (s : State) (x : Work) : Bool :=
  (!x.onQueue || decide (s.queued x.core < 32)) &&
    (!x.isLayer || decide ((s.works.filter fun y => y.isLayer && y.core == x.core && !y.replay && (s.gang? y.gang).isSome).length < 16))

/-- R347, R379, R404, R459, R492. The n-th work of the gang with replay entries: what a save recorded is handed back to its engine in issue order, each
once what was recorded of earlier work has run and its entry is free; an element whose faults are resolved runs, or fails. -/
def execReplayEntryRun (g n : Nat) (s : State) : Out :=
  let l := s.works.filter fun x => x.gang == g && (x.replay || match x.kind with
    | .copy c => !c.waits.isEmpty
    | _ => false)
  .next (match l[n]? with
    | some x =>
      if !s.runs x then s
      else if x.replay then
        if (s.works.any fun y => y.gang == g && decide (y.uid < x.uid) && y.unrun) || !s.handRoom x then s else s.handBack x
      else
        match x.kind with
        | .copy c => s.replayElems x c
        | _ => s
    | none => s)

end Sys2Proof.Machine
end

