-- ==== Sys2Proof/Machine/Fields.lean ====
section
/-!
DEFINITION. Bit-serial compute ways: fields, WAYS, WAYSREL, BSQ, the micro-ops and their jobs (R53, R54, R411 to R423).
-/

namespace Sys2Proof.Machine

/-! ### Ways and quotas (R279, R413, R414, R467) -/

/-- Lines of an MSC way (R413). -/
def wayLines : Nat := 196608

/-- Ways of a stack's slice that fields hold, those of one partition or of all. -/
def State.waysHeld (s : State) (stack : Nat) (part : Option Nat) : Nat :=
  ((s.parts.filter fun p => part.isNone || part == some p.id).map fun p =>
    (p.fields.map fun f => (f.parts.filter fun q => q.1 == stack).length).sum).sum

/-- Lines a partition counts at an instance, its children's and field parts among them (R413, R467). -/
def State.owned (s : State) (inst part : Nat) : Nat :=
  let ids := part :: (s.childrenOf part).map Partition.id
  ((s.cache inst).lines.filter fun l => ids.contains l.owner).length +
    (if 208 ≤ inst then (ids.map fun p => wayLines * s.waysHeld (inst - 208) (some p)).sum else 0)

/-- The MSC quota a grant must keep: the partition's own and its parent's. -/
def State.withinMsc (s : State) (part stack more : Nat) : Bool :=
  let ok (p : Nat) := decide (s.owned (208 + stack) p + more ≤ (s.part p).sh.lqmsc)
  ok part && ((s.part part).parent == 63 || ok (s.part part).parent)

/-- Ways a stack still has for cache. -/
def State.cacheWays (s : State) (stack : Nat) : Nat := 16 - s.waysHeld stack none

/-- Whether a stack qualifies for `w` ways of a partition (R414, R516). System firmware has no quota. -/
def State.waysOk (s : State) (part stack w : Nat) : Bool :=
  let p := s.pile stack
  p.up && p.resetting.isNone && decide (w + 4 ≤ s.cacheWays stack) && (part == 63 || s.withinMsc part stack (w * wayLines))

/-- The stacks chosen (R414): homes of s[b] first, then the most free ways, then the lowest. -/
def State.waysStacks (s : State) (part w n : Nat) (home : Option Nat) : List Nat :=
  let l := (List.range 16).filter fun h => s.waysOk part h w
  let key (h : Nat) : Nat := (if home = some h then 0 else 1000) + 16 * (16 - s.cacheWays h) + h
  (sortBy (fun a b => decide (key a ≤ key b)) l).take n

/-- The highest-numbered cache ways of a slice. -/
def State.topWays (s : State) (stack w : Nat) : List Nat :=
  let taken := (s.parts.map fun p => (p.fields.map fun f => (f.parts.filter fun q => q.1 == stack).map Prod.snd).flatten).flatten
  (((List.range 16).reverse).filter fun x => !taken.contains x).take w

/-- The stack that homes an address, when the partition maps it to this module (R257, R414). -/
def State.homeOf (s : State) (part : Nat) (sys : Bool) (va : Nat) : Option Nat :=
  match (walk s (s.entryAt none part) part sys va .read).1 with
  | .inr t => if s.homed (t.pa + va % 2 ^ t.size) then some (paStack (t.pa + va % 2 ^ t.size)) else none
  | .inl _ => none

/-- The UNIT of R449 of a slice. -/
def sliceUnit (i : Nat) : Nat := if i < 192 then 3 else if i < 208 then 4 else 5

/-- A dirty line of a slice is written back (R448, R478): to the next level, or to LPDDR-6. One that holds an uncorrectable error loses its data,
which are free values from then on, and its machine-check record is due; no gang owns it (log 110). -/
def State.writeBackSlice (s : State) (i : Nat) (l : CLine) : State :=
  if l.dirty = 0 then s
  else if s.bad.contains (l.line, sliceUnit i) then
    { s with checks := s.checks ++ [⟨0, l.tenant, 128, l.line, sliceUnit i⟩],
             mem := writeBytes s.mem (128 * l.line) ((List.range 128).map fun k => Config.strayByte s.freeCtr (128 * l.line + k)) }
  else if i < 192 then { s with fills := s.fills ++ [l.request i] }
  else (s.countBytes l.tenant 128 0).countDram (128 * l.line) (decide (l.tenant ≤ 63))

/-- The lines of some ways of the MSC slices, by stack and way, are written back and invalid (R414). -/
def State.clearWays (s : State) (ways : List (Nat × Nat)) : State :=
  let mine (c : CacheInst) (l : CLine) : Bool := decide (208 ≤ c.inst) && ways.contains (c.inst - 208, l.way)
  let s' := s.caches.foldl (fun s c => (c.lines.filter (mine c)).foldl (fun s l => s.writeBackSlice c.inst l) s) s
  { s' with caches := s'.caches.map fun c => { c with lines := c.lines.filter fun l => !mine c l } }

/-- A free slot of a field table of 16 (R413), the lowest (log 98), and its generation. -/
def freeField : List FieldSlot → Nat → Option (Nat × Nat)
  | [], n => if n < 16 then some (n, 1) else none
  | f :: l, n => if !f.live && !f.held then some (n, max 1 f.gen) else freeField l (n + 1)

/-- A field slot written, the table grown by one when it is the next. -/
def putField (l : List FieldSlot) (k : Nat) (f : FieldSlot) : List FieldSlot := if k < l.length then l.set k f else l ++ [f]

/-- R414. -/
def execWays (d a b : SReg) (s : State) : Out :=
  runForm (formA 0x67 1 d.toNat a.toNat b.toNat) s fun _ s =>
    let r := (s.rS a).toNat
    let aff := s.rS b
    let w := bitsOf r 3 0
    let n := bitsOf r 7 4 + 1
    if 256 ≤ r ∨ w = 0 ∨ 12 < w then .stop illop
    else if 2 ^ 48 ≤ aff.toNat then .stop (addrFault aff)
    else
      let part := s.gg.part
      let homes := s.waysStacks part w n (if aff = 0 then none else s.homeOf part s.gg.sys aff.toNat)
      match freeField s.myPart.fields 0 with
      | none => .done (s.wS d 0)
      | some (k, gen) =>
        if homes.length < n then .done (s.wS d 0)
        else
          let parts := (homes.map fun h => (s.topWays h w).map fun y => (h, y)).flatten
          let (uid, s) := s.addWork (.conversion k) 0 0 {}
          let p := s.myPart
          let f : FieldSlot := { gen := gen, live := true, held := true, parts := parts, items := [uid] }
          .done ((s.setPart { p with fields := putField p.fields k f }).wS d (.ofNat 64 (handleOf k gen)))

/-- R412, R414, R421. The lines of the granted ways are written back and leave the slices; the ways are zero, and no row of them is in error. -/
def execFieldConversionComplete (w : Nat) (s : State) : Out :=
  .next (match s.work? w with
    | some x =>
      match x.kind with
      | .conversion k =>
        match (s.part x.part).fields[k]? with
        | some f =>
          let s := (s.clearWays f.parts).clearRows x.part k fun _ _ => true
          let s := if f.held then s.updField x.part k fun f => { f with rows := List.replicate 512 0 } else s
          s.finishWork x
        | none => s.finishWork x
      | _ => s
    | none => s)

/-- R415. -/
def execWaysrel (a : SReg) (s : State) : Out :=
  runForm (formA 0x67 2 0 a.toNat 0) s fun _ s =>
    let h := (s.rS a).toNat
    if 2 ^ 32 ≤ h then .stop illop
    else
      match s.myPart.field? h with
      | none => .stop (staleHandle h)
      | some (k, _) =>
        let (uid, s) := s.addWork (.release k) 0 0 {}
        .done (s.updField s.gg.part k fun f => { f with live := false, gen := nextGen f.gen, items := f.items ++ [uid] })

/-- A field's ways go back to cache mode, invalid, and its slot frees (R415). -/
def FieldSlot.released (f : FieldSlot) : FieldSlot := { f with held := false, parts := [], rows := [] }

/-- R415, R421. -/
def execWaysrelRelease (w : Nat) (s : State) : Out :=
  .next (match s.work? w with
    | some x =>
      match x.kind with
      | .release k => if s.headsField x.part k w then ((s.updField x.part k FieldSlot.released).clearRows x.part k fun _ _ => true).finishWork x else s
      | _ => s
    | none => s)

/-! ### Micro-ops (R53, R54, R416) -/

/-- Why a micro-op stops its program (R54, R419), 0 where it does not: op and fields, width, whether a compare has run. The lowest
reason is given. -/
def microWhy (op a b d w : Nat) (compared : Bool) : Nat :=
  let past (l : List Nat) (n : Nat) : Bool := l.any fun r => decide (512 < r + n)
  if op = 0 ∨ 17 < op then 1
  else if (match op with
    | 1 => b != 0 || d != 0
    | 2 | 13 | 14 | 16 => b != 0
    | 15 => a != 0
    | 17 => a != 0 || b != 0 || d != 0
    | _ => false) then 2
  else if op = 1 ∧ (a = 0 ∨ 64 < a) then 3
  else if (op = 11 ∨ op = 12) ∧ 63 < b ∨ op = 15 ∧ 1 < b then 4
  else if (match op with
    | 2 | 11 | 12 | 13 | 14 => past [a, d] w
    | 3 | 4 | 5 | 6 | 7 | 10 => past [a, b, d] w
    | 8 | 9 => past [a, b] w
    | 15 => past [d] w
    | 16 => past [d] 10
    | _ => false) then 5
  else if op = 10 ∧ !compared then 6
  else 0

/-- ceil(log2(w + 1)). -/
def bitsFor (w : Nat) : Nat := Nat.log2 w + 1

/-- Steps of a micro-op (R416). -/
def microSteps (op w : Nat) : Nat :=
  match op with
  | 1 => 0
  | 6 | 7 => 3 * w + 3
  | 8 => 2 * w + 1
  | 9 => w + 1
  | 10 => 2 * w
  | 13 => w * (bitsFor w + 1)
  | 16 => 64
  | 17 => 1
  | _ => w

/-- The fields of a micro-op word (R53): op, a, b, d. -/
def microFields (w : BitVec 32) : Nat × Nat × Nat × Nat := (bitsOf w.toNat 31 27, bitsOf w.toNat 26 18, bitsOf w.toNat 17 9, bitsOf w.toNat 8 0)

/-- The rows a micro-op reads. -/
def microReads (op a b w : Nat) (flag : Option Nat) : List Nat :=
  let rows (r n : Nat) : List Nat := (List.range n).map fun k => r + k
  match op with
  | 2 | 11 | 12 | 13 | 14 => rows a w
  | 3 | 4 | 5 | 6 | 7 | 8 | 9 => rows a w ++ rows b w
  | 10 => rows a w ++ rows b w ++ flag.toList
  | 16 => [a]
  | _ => []

/-- Steps from the first word through the first BEND or the last word, before the first that faults (R418). -/
def programSteps : List (BitVec 32) → Nat → Bool → Nat
  | [], _, _ => 0
  | x :: r, w, compared =>
    let (op, a, b, d) := microFields x
    if microWhy op a b d w compared ≠ 0 then 0
    else if op = 17 then 1
    else microSteps op w + programSteps r (if op = 1 then a else w) (compared || op == 8 || op == 9)

/-- Lanes of a field of P parts that lie in parts [p0, p0 + n), as a set (R411). -/
def partLanes (pp p0 n : Nat) : Nat :=
  ((List.range 512).map fun k => (2 ^ (768 * n) - 1) * 2 ^ (768 * p0 + 768 * pp * k)).sum

/-- Lanes of some parts. -/
def lanesOfParts (pp : Nat) (ks : List Nat) : Nat := (ks.map fun k => partLanes pp k 1).sum

def rowAt (rows : List Nat) (r : Nat) : Nat := rows.getD r 0
/-- `w` rows from r, lowest bit first. -/
def groupAt (rows : List Nat) (r w : Nat) : List Nat := (List.range w).map fun k => rowAt rows (r + k)

/-- Bit-sliced addition of two groups with a carry in, over the lanes of `m`. -/
def addRows : List Nat → List Nat → Nat → List Nat
  | a :: as, b :: bs, c => (a ^^^ b ^^^ c) :: addRows as bs ((a &&& b) ||| (c &&& (a ^^^ b)))
  | _, _, _ => []

/-- The lanes where a < b, from the lowest bit up. -/
def lessRows (m : Nat) : List Nat → List Nat → Nat → Nat
  | a :: as, b :: bs, l => lessRows m as bs (((m ^^^ a) &&& b) ||| ((m ^^^ a ^^^ b) &&& l))
  | _, _, l => l

/-- The number of one bits of a group, bit-sliced over `w` rows. -/
def popRows (w : Nat) (as : List Nat) : List Nat :=
  as.foldl (fun acc a => addRows acc (List.replicate w 0) a) (List.replicate w 0)

/-- Bits of a set below `n`. -/
def onesBelow (x n : Nat) : Nat := ((List.range n).filter fun k => x.testBit k).length

/-- BCOUNT's counts (R416): lane j of bit line 0 gets the count of its subarray's 512 bit lines. -/
def countRows (pp : Nat) (a m : Nat) : List Nat :=
  let lines := 768 * pp
  let counts := (List.range lines).map fun j => if m.testBit j then ((List.range 512).filter fun k => a.testBit (j + lines * k)).length else 0
  (List.range 10).map fun bit => ((counts.zipIdx).map fun c => if c.1.testBit bit then 2 ^ c.2 else 0).sum

/-- The rows a micro-op writes, and where (R416): computed from the old rows. -/
def microResult (op a b d w : Nat) (flag : Option Nat) (pp m : Nat) (rows : List Nat) : Nat × List Nat :=
  let ra := (groupAt rows a w).map fun x => x &&& m
  let rb := (groupAt rows b w).map fun x => x &&& m
  match op with
  | 2 => (d, ra.map fun x => m ^^^ x)
  | 14 => (d, ra)
  | 3 => (d, ra.zipWith (fun x y => x &&& y) rb)
  | 4 => (d, ra.zipWith (fun x y => x ||| y) rb)
  | 5 => (d, ra.zipWith (fun x y => x ^^^ y) rb)
  | 6 => (d, addRows ra rb 0)
  | 7 => (d, addRows ra (rb.map fun x => m ^^^ x) m)
  | 8 => (d, [lessRows m ra rb 0])
  | 9 => (d, [(ra.zipWith (fun x y => m ^^^ x ^^^ y) rb).foldl (fun x y => x &&& y) m])
  | 10 =>
    let f := rowAt rows (flag.getD 0) &&& m
    (d, ra.zipWith (fun x y => (f &&& x) ||| ((m ^^^ f) &&& y)) rb)
  | 11 => (d, (List.range w).map fun i => if i < b then 0 else ra.getD (i - b) 0)
  | 12 => (d, (List.range w).map fun i => ra.getD (i + b) 0)
  | 13 => (d, popRows w ra)
  | 15 => (d, List.replicate w (if b = 1 then m else 0))
  | 16 => (d, countRows pp (rowAt rows a) m)
  | _ => (d, [])

/-- Rows written in the lanes of `m`; BCOUNT writes bit line 0 alone. -/
def putRows (rows : List Nat) (m : Nat) (d : Nat) (news : List Nat) : List Nat :=
  rows.mapIdx fun r x => if d ≤ r ∧ r < d + news.length then (news.getD (r - d) 0 &&& m) ||| (x ^^^ (x &&& m)) else x

/-! ### Jobs (R417 to R421) -/

def Work.withJob (x : Work) (j : JobWork) : Work := { x with kind := .job j }

/-- A job's program ends (R416, R419): with stops on stacks, by the lowest index and then the lowest reason. -/
def State.endJob (s : State) (x : Work) (j : JobWork) (stops : List (Nat × Nat × Nat)) : State :=
  let all := j.stops ++ stops
  let best : Nat × Nat := (all.map Prod.snd).foldl (fun b q => if b.2 = 0 ∨ q.1 < b.1 ∨ (q.1 = b.1 ∧ q.2 < b.2) then q else b) (0, 0)
  s.setWork (x.withJob { j with running := false, ended := true, stops := all, why := best.2, at_ := best.1 })

/-- The parts a job covers on stacks whose program has not stopped, with their stacks. -/
def State.jobParts (s : State) (x : Work) (j : JobWork) : List (Nat × Nat) :=
  match (s.part x.part).fields[j.field]? with
  | some f => ((List.range j.parts).filterMap fun k => (f.parts[j.part0 + k]?).map fun q => (j.part0 + k, q.1)).filter fun q =>
      !j.stops.any fun t => t.1 == q.2
  | none => []

/-- The job whose sequencer is in focus, while it runs. -/
def State.job? (s : State) : Option (Work × JobWork) :=
  match s.work? s.jobSel with
  | some x =>
    match x.kind with
    | .job j => if j.running ∧ !j.ended then some (x, j) else none
    | _ => none
  | none => none

/-- One micro-op of the job in focus (R416): it stops the program on every stack; or, where a row it reads has a parity error, on the stack of
that row (R419); and it applies in every lane of the parts covered on the other stacks. -/
def micro (op a b d : Nat) (s : State) : Out :=
  match s.job? with
  | none => .fault .noJob
  | some (x, j) =>
    let f := ((s.part x.part).fields[j.field]?).getD {}
    let why := microWhy op a b d j.width j.flag.isSome
    let ps := s.jobParts x j
    let hs := (ps.map Prod.snd).eraseDups
    if why ≠ 0 then .next (s.endJob x j (hs.map fun h => (h, j.ix, why)))
    else
      let hit := ((ps.filter fun q => (microReads op a b j.width j.flag).any fun r => s.rowBad x.part j.field q.1 r).map Prod.snd).eraseDups
      let s := hit.foldl (fun s h => s.engineCheck x (some (stackPa h, 5))) s
      let j := { j with stops := j.stops ++ hit.map fun h => (h, j.ix, 7) }
      let ks : List Nat := (ps.filter fun q => !hit.contains q.2).map Prod.fst
      let m := lanesOfParts f.parts.length ks
      let r := microResult op a b d j.width j.flag f.parts.length m f.rows
      let wm := if op = 16 then m &&& (2 ^ (768 * f.parts.length) - 1) else m
      let s := if r.2 = [] then s else s.updField x.part j.field fun f => { f with rows := putRows f.rows wm r.1 r.2 }
      -- a row written in every lane of a part has its parity anew (R419); BCOUNT writes one bit line
      let s := if op = 16 then s else s.clearRows x.part j.field fun p row => ks.contains p && decide (r.1 ≤ row) && decide (row < r.1 + r.2.length)
      let s := (s.jobStacks x j).foldl (fun s h => s.setPile { s.pile h with progress := s.cycle }) s
      let j : JobWork := { j with ix := j.ix + 1, width := if op = 1 then a else j.width, flag := if op = 8 ∨ op = 9 then some d else j.flag }
      if op = 17 ∨ j.prog.length ≤ j.ix ∨ ks = [] then .next (s.endJob x j []) else .next (s.setWork (x.withJob j))

/-- R416. -/
def execBwid (a : BitVec 9) (s : State) : Out := micro 1 a.toNat 0 0 s
/-- R416. -/
def execBnot (a d : BitVec 9) (s : State) : Out := micro 2 a.toNat 0 d.toNat s
/-- R416. -/
def execBand (a b d : BitVec 9) (s : State) : Out := micro 3 a.toNat b.toNat d.toNat s
/-- R416. -/
def execBor (a b d : BitVec 9) (s : State) : Out := micro 4 a.toNat b.toNat d.toNat s
/-- R416. -/
def execBxor (a b d : BitVec 9) (s : State) : Out := micro 5 a.toNat b.toNat d.toNat s
/-- R416. -/
def execBadd (a b d : BitVec 9) (s : State) : Out := micro 6 a.toNat b.toNat d.toNat s
/-- R416. -/
def execBsub (a b d : BitVec 9) (s : State) : Out := micro 7 a.toNat b.toNat d.toNat s
/-- R416. -/
def execBcmplt (a b d : BitVec 9) (s : State) : Out := micro 8 a.toNat b.toNat d.toNat s
/-- R416. -/
def execBcmpeq (a b d : BitVec 9) (s : State) : Out := micro 9 a.toNat b.toNat d.toNat s
/-- R416, R54. -/
def execBsel (a b d : BitVec 9) (s : State) : Out := micro 10 a.toNat b.toNat d.toNat s
/-- R416. -/
def execBshl (a b d : BitVec 9) (s : State) : Out := micro 11 a.toNat b.toNat d.toNat s
/-- R416. -/
def execBshr (a b d : BitVec 9) (s : State) : Out := micro 12 a.toNat b.toNat d.toNat s
/-- R416. -/
def execBpopc (a d : BitVec 9) (s : State) : Out := micro 13 a.toNat 0 d.toNat s
/-- R416. -/
def execBcopy (a d : BitVec 9) (s : State) : Out := micro 14 a.toNat 0 d.toNat s
/-- R416. -/
def execBset (b d : BitVec 9) (s : State) : Out := micro 15 0 b.toNat d.toNat s
/-- R416. -/
def execBcount (a d : BitVec 9) (s : State) : Out := micro 16 a.toNat 0 d.toNat s
/-- R416. -/
def execBend (s : State) : Out := micro 17 0 0 0 s

/-- A job record (R417). -/
def jrParts (r : Nat) : Nat := bitsOf r 183 176 + 1
def jrPart0 (r : Nat) : Nat := bitsOf r 175 168
def jrInc (r : Nat) : BitVec 32 := .ofNat 32 (bitsOf r 159 128)
def jrCtr (r : Nat) : Nat := bitsOf r 111 64
def jrLen (r : Nat) : Nat := bitsOf r 57 48 + 1
def jrProg (r : Nat) : Nat := bitsOf r 47 0
def jobLayout (r parts : Nat) : Bool :=
  bitsOf r 447 184 == 0 && bitsOf r 167 160 == 0 && bitsOf r 127 112 == 0 && bitsOf r 63 58 == 0 && jrCtr r % 8 == 0 && jrProg r % 4 == 0 &&
    decide (jrPart0 r + jrParts r ≤ parts)

/-- R417, R418. -/
def execBsq (a b : SReg) (s : State) : Out :=
  runForm (formA 0x67 0 0 a.toNat b.toNat) s fun _ s =>
    let h := (s.rS a).toNat
    let va := (s.rS b).toNat
    if 2 ^ 32 ≤ h then .stop illop
    else if 2 ^ 48 ≤ va then .stop (addrFault (s.rS b))
    else if va % 64 ≠ 0 then .stop (misaligned (s.rS b))
    else
      s.unheld <| match s.readRecord va 56 with
      | .error x => .stop x
      | .ok (r, s) =>
        match s.readRecord (jrProg r) (4 * jrLen r) with
        | .error x => .stop x
        | .ok (pr, s) =>
          match s.myPart.field? h with
          | none => .stop (staleHandle h)
          | some (k, f) =>
            if !jobLayout r f.parts.length then .stop (badRecord va r 64)
            else
              let prog := (List.range (jrLen r)).map fun n => (BitVec.ofNat 32 (pr / 2 ^ (32 * n)))
              let basis : PriceBasis := .steps (programSteps prog 1 false * jrParts r)
              if 8192 < s.prices.price basis then .stop (priceTrap (s.prices.price basis))
              else
                s.issueWide basis fun s =>
                  let j : JobWork := { field := k, part0 := jrPart0 r, parts := jrParts r, prog := prog, status := va + 56 }
                  let s := (((f.parts.drop j.part0).take j.parts).map Prod.fst).eraseDups.foldl State.arouse s
                  let (uid, s) := s.addWork (.job j) (jrCtr r) (jrInc r) {}
                  .done (s.addItem s.gg.part k uid)

/-- R420, R421. A job starts when it heads its field's items and no other job runs on its stacks. -/
def execBsqJobStart (w : Nat) (s : State) : Out :=
  .next (match s.work? w with
    | some x =>
      match x.kind with
      | .job j =>
        let mine := s.jobStacks x j
        let busy := s.works.any fun y =>
          match y.kind with
          | .job i => i.running && !i.ended && (s.jobStacks y i).any fun h => mine.contains h
          | _ => false
        if j.running || j.ended || busy || !s.headsField x.part j.field w || mine.any (fun h => (s.pile h).resetting.isSome) then s
        else
          let s := mine.foldl (fun s h => s.setPile { s.pile h with progress := s.cycle }) s
          s.setWork (x.withJob { j with running := true })
      | _ => s
    | none => s)

/-- STATUS (R419). -/
def JobWork.statusWord (j : JobWork) : Nat := 2 ^ 63 + (if j.why = 0 then 0 else 2 ^ 62) + j.why % 32 * 2 ^ 16 + j.at_ % 1024

/-- R419, R420. STATUS, then the counter add with the error bit of the stop. -/
def execBsqJobComplete (w : Nat) (s : State) : Out :=
  .next (match s.work? w with
    | some x =>
      match x.kind with
      | .job j =>
        if !j.ended || s.ctrBlocked x then s
        else
          let finish (s : State) (x : Work) : State :=
            match s.workAdd x (x.err || j.why != 0) with
            | (s, true) => s.finishWork x
            | (s, false) => s
          if j.wrote then finish s x
          else
            let y := x.withJob { j with wrote := true }
            match s.engineWrite x (.flat j.status) 8 j.statusWord with
            | .ok s => finish (s.setWork y) y
            | .error (.miss m) =>
              let (n, s) := s.recordFault x.part (s.workFault x m)
              s.setWork { x with ctrWait := [n] }
            | .error (.fail _) => finish (s.setWork y) y
      | _ => s
    | none => s)

/-- The word the sequencer of the job in focus has reached. -/
def State.microWord (s : State) : Option (BitVec 32) := s.job?.bind fun q => q.2.prog[q.2.ix]?

/-- A word that is no micro-op stops its program (R54). -/
def State.badMicro (s : State) (w : BitVec 32) : State :=
  match s.job? with
  | some (x, j) =>
    let (op, a, b, d) := microFields w
    s.endJob x j ((s.jobStacks x j).map fun h => (h, j.ix, microWhy op a b d j.width j.flag.isSome))
  | none => s

end Sys2Proof.Machine
end

