-- ==== Sys2Proof/Machine/Launch.lean ====
section
/-!
DEFINITION. Queues, job cards and the ringmaster: doorbells, card checks, staging, dependences, LAUNCH and its posts (R243 to R254, R261,
R262).
-/

namespace Sys2Proof.Machine

/-- What the firmware mailbox or the host is told. -/
def State.report (s : State) (m : Mail) : State := { s with mail := s.mail ++ [m] }

/-! ### Cards (R247, R248) -/

def cdDone (r : Nat) : Nat := bitsOf r 511 464
def cdInc (r : Nat) : BitVec 32 := .ofNat 32 (bitsOf r 463 432)
def cdAfk (r : Nat) : Nat := bitsOf r 431 430
def cdAff (r : Nat) : Nat := bitsOf r 415 368
def cdArg (r : Nat) : Nat := bitsOf r 367 320
def cdEntry (r : Nat) : Nat := bitsOf r 287 240
def cdAcsk (r : Nat) : Nat := bitsOf r 239 231
def cdScru (r : Nat) : Nat := bitsOf r 230 219
def cdT (r : Nat) : Nat := bitsOf r 215 210 + 1
def cdC (r : Nat) : Nat := bitsOf r 209 207 + 1
def cdNdep (r : Nat) : Nat := bitsOf r 6 4
def cdType (r : Nat) : Nat := bitsOf r 3 0
/-- Dependence i of the second slot's 64 bytes (R248). -/
def cdDep (r2 i : Nat) : Nat := bitsOf r2 (127 + 128 * i) (128 * i)
def depVal (d : Nat) : BitVec 64 := .ofNat 64 (bitsOf d 127 64)
def depCtr (d : Nat) : Nat := bitsOf d 47 0

/-- The reserved bits of a first slot, and NDEP (R251, code 2). -/
def cardReserved (r : Nat) : Bool :=
  if cdType r = 3 then r == 3
  else bitsOf r 429 416 == 0 && bitsOf r 204 7 == 0 &&
    (if cdType r = 1 then cdNdep r == 0 else decide (1 ≤ cdNdep r) && decide (cdNdep r ≤ 4))
/-- The same of a second slot: reserved bits of used dependences, unused ones all zero. -/
def depsReserved (r r2 : Nat) : Bool :=
  (List.range 4).all fun i => if i < cdNdep r then bitsOf (cdDep r2 i) 63 48 == 0 else cdDep r2 i == 0
/-- The fields of a first slot (R251, code 3). -/
def cardFields (r : Nat) : Bool :=
  cdType r == 3 || (cdAfk r != 3 && validTarget (.ofNat 64 (cdEntry r)) && decide (cdScru r ≤ 3072) && decide (cdAcsk r ≤ 256) &&
    cdDone r % 8 == 0 && cdArg r % 8 == 0 && (cdAfk r != 2 || cdAff r / 2 ^ 32 == 0))
/-- The fields of the dependences. -/
def depsFields (r r2 : Nat) : Bool :=
  (List.range (cdNdep r)).all fun i => depCtr (cdDep r2 i) != 0 && depCtr (cdDep r2 i) % 8 == 0

/-- A card as it is staged (R247, R248). -/
def cardOf (uid h r r2 : Nat) : Card :=
  { uid := uid, head := h, done := cdDone r, inc := cdInc r, afk := cdAfk r, aff := cdAff r, arg := .ofNat 64 (cdArg r),
    ngang := bitsOf r 319 288 + 1, entry := cdEntry r, acsk := cdAcsk r, scru := cdScru r, vregs := 16 * (bitsOf r 218 216 + 1),
    nT := cdT r, nC := cdC r, cls := bitsOf r 206 205,
    deps := if cdType r = 2 then (List.range (cdNdep r)).map fun i => { ctr := depCtr (cdDep r2 i), val := depVal (cdDep r2 i) } else [] }

/-- Staging buffers a card takes (R472). -/
def Card.slots (c : Card) : Nat := if c.deps = [] then 1 else 2

/-! ### Queues (R243 to R246, R251, R252) -/

def Queue.size (x : Queue) : Nat := 2 ^ x.logn
/-- The address of the slot of a counter value (R244). -/
def Queue.slotVa (x : Queue) (c : Nat) : Nat := x.base + 64 * (c % x.size)

/-- The queue halts with a code (R251): the card stays, H does not move. -/
def State.haltQueue (s : State) (q code : Nat) : State :=
  let x := s.queue q
  ((s.setQueue { x with state := 1, errcode := code, errslot := x.h % x.size, wait := none }).writeStatus q).raiseMsi x.part x.vec

/-- What a read of a slot gives: its 64 bytes, a page not present, or a failure (R251). -/
inductive SlotRead where
  | ok (r : Nat)
  | miss (m : PageMiss)
  | bad (mc : Option (Nat × Nat))
  deriving DecidableEq, Repr

/-- The ringmaster reads a slot at device scope (R246, R251). -/
def State.readSlot (s : State) (x : Queue) (c : Nat) : SlotRead :=
  if isPricePage (x.part == 63) (x.slotVa c) then .ok (priceNat s.prices / 2 ^ (8 * (x.slotVa c % 4096)) % 2 ^ 512)
  else
  match s.flatPa x.part (x.slotVa c) .read with
  | .ok pa _ =>
    match s.lineError 128 pa with
    | some u => .bad (some (pa, u))
    | none => .ok (s.viewNat 0 pa 64)
  | .miss m => .miss m
  | _ => .bad none

/-- A slot read that fails (R251): a fault record with SRC 3 and a wait, or a halt with FETCH, after a machine check where the data is bad. -/
def State.slotFails (s : State) (q : Nat) : SlotRead → State
  | .miss m =>
    let x := s.queue q
    let (n, s) := s.recordFault x.part { num := 0, miss := m, src := .ringmaster, qix := q }
    s.setQueue { (s.queue q) with wait := some n }
  | .bad (some (pa, u)) => (s.machineCheck 128 (s.queue q).part pa u false).haltQueue q 7
  | _ => s.haltQueue q 7

/-- The first dword of a slot cleared (R245). -/
def State.clearSlot (s : State) (x : Queue) (c : Nat) : State := s.writeFlat x.part (x.slotVa c) 8 0

/-- A cluster that could offer one gang its cores when empty (R251, code 5): every shape of R247 fits C empty cores. For firmware queues,
any cluster that passed its self-test (R258). -/
def State.someCluster (s : State) (part : Nat) : Bool :=
  (List.range 16).any fun c => (s.clusters.get (Fin.ofNat 16 c)).ok && (part == 63 || (s.part part).clm.getLsbD c)

/-- The checks of a first slot alone, in order (R251): the code of the first that fails. -/
def Queue.check1 (x : Queue) (r : Nat) : Option Nat :=
  if 3 < cdType r then some 1
  else if cdType r = 2 ∧ x.h % x.size = x.size - 1 then some 4
  else none
/-- The later checks, in order; with a second slot where there is one. -/
def State.check2 (s : State) (x : Queue) (r : Nat) (r2 : Option Nat) : Option Nat :=
  if !cardReserved r || (r2.map fun v => !depsReserved r v).getD false then some 2
  else if !cardFields r || (r2.map fun v => !depsFields r v).getD false then some 3
  else if cdType r ≠ 3 ∧ !s.someCluster x.part then some 5
  else none

/-- A dependence's monitor armed at its counter, in its home slice (R249, R299); not while the page is not there. -/
def State.armDep (s : State) (part : Nat) (d : Dep) : Dep :=
  match s.flatPa part d.ctr .read with
  | .ok pa mt => { d with entry := true, mon := some (s.arm ⟨0, 0, part, false, false, 0⟩ {} .device (.phys pa mt)) }
  | _ => { d with entry := true }

/-- Each dependence that does not hold asks for a monitor entry (R249, R300). -/
def State.armDeps (s : State) (part : Nat) : List Dep → State × List Dep
  | [] => (s, [])
  | d :: r =>
    let (s, d) :=
      if d.held then (s, d)
      else if s.mayTake .monitor part 1 none then (s.takeEntry .monitor part 1, s.armDep part d)
      else (s.noteRefusal .monitor part, { d with askedAt := s.cycle })
    let (s, ds) := s.armDeps part r
    (s, d :: ds)

/-- A dependence's first read (R249). -/
def State.firstRead (s : State) (part : Nat) (d : Dep) : Dep :=
  match s.flatNat part d.ctr 8 with
  | .ok v => { d with held := WaitCond.holds .ge (.ofNat 64 v) d.val }
  | .error _ => d

/-- H moves past the card's slots, cleared first, and the status block shows it (R245). -/
def State.advanceHead (s : State) (q n : Nat) : State :=
  let x := s.queue q
  let s := (List.range n).foldl (fun s k => s.clearSlot x (x.h + k)) s
  (s.setQueue { (s.queue q) with h := x.h + n, refused := false }).writeStatus q

/-- A good card is staged (R254) when the pool gives its buffers; else H stays and the refusal is counted once (R474, R475). -/
def State.stage (s : State) (q r r2 : Nat) : State :=
  let x := s.queue q
  let c := cardOf s.nextUid x.h r r2
  if !s.mayTake .card x.part c.slots (if x.refused then some x.askedAt else none) then
    if x.refused then s else (s.noteRefusal .card x.part).setQueue { x with refused := true, askedAt := s.cycle }
  else
    let s := ({ s with nextUid := s.nextUid + 1 }).granted .card x.part c.slots x.refused
    let s := s.advanceHead q c.slots
    let (s, ds) := s.armDeps x.part (c.deps.map (s.firstRead x.part))
    s.setQueue { (s.queue q) with cards := (s.queue q).cards ++ [{ c with deps := ds }] }

/-- R245 to R248, R251, R254. -/
def execCardFetch (q : Nat) (s : State) : Out :=
  let x := s.queue q
  .next (
    if !x.enabled || x.state != 0 || decide (x.t ≤ x.h) || decide (4 ≤ (x.cards.filter fun c => !c.placedAll).length) || s.queueDrained x.part q then s
    else if (x.wait.map fun n => s.faultsOpen x.part [n]).getD false then s
    else if (x.wait.map fun n => s.faultsFailed x.part [n]).getD false then s.haltQueue q 7
    else
      let s := s.setQueue { x with wait := none }
      match s.readSlot x x.h with
      | .ok r =>
        if cdType r = 0 then s
        else
          match x.check1 r with
          | some e => s.haltQueue q e
          | none =>
            if cdType r = 2 then
              if x.t < x.h + 2 then
                match s.check2 x r none with
                | some e => s.haltQueue q e
                | none => s
              else
                match s.readSlot x (x.h + 1) with
                | .ok r2 =>
                  match s.check2 x r (some r2) with
                  | some e => s.haltQueue q e
                  | none => s.stage q r r2
                | f => s.slotFails q f
            else
              match s.check2 x r none with
              | some e => s.haltQueue q e
              | none => if cdType r = 3 then s.advanceHead q 1 else s.stage q r 0
      | f => s.slotFails q f)

/-- R244. -/
def execTailDoorbell (q : Nat) (v : BitVec 64) (size : Nat) (s : State) : Out := .next (s.tailBell q v size)

/-- R253. -/
def execHeadRegisterWrite (q : Nat) (v : BitVec 64) (s : State) : Out :=
  let x := s.queue q
  let n := v.toNat
  .next (if x.enabled ∧ x.state = 1 ∧ x.h ≤ n ∧ n ≤ x.t ∧ x.t - n ≤ x.size then
      -- 2^n slots at most need clearing: the slots of counters further back are among them
      let s := (List.range (min (n - x.h) x.size)).foldl (fun s k => s.clearSlot x (x.h + k)) s
      (s.setQueue { (s.queue q) with h := n, errcode := 0, ovrs := false, state := 0, wait := none, refused := false }).writeStatus q
    else s)

/-! ### LAUNCH (R261, R262) -/

/-- The queue a handle of a partition names, unless it is stale (R351, R469). -/
def Partition.queue? (p : Partition) (h : Nat) : Option Nat :=
  match p.qtable[h / 4096]? with
  | some (gen, some q) => if h < 2 ^ 32 ∧ gen = h % 4096 then some q else none
  | _ => none

/-- R261, R262. -/
def execLaunch (a b : SReg) (s : State) : Out :=
  runForm (formA 0x68 0 0 a.toNat b.toNat) s fun _ s =>
    let ca := s.rS a
    let hd := s.rS b
    if hd.toNat / 2 ^ 32 ≠ 0 then .stop illop
    else if s.classify 0 ca = .invalid then .stop (addrFault ca)
    else if ca.toNat % 64 ≠ 0 then .stop (misaligned ca)
    else
      s.unheld <| match s.readRecord ca.toNat 64 with
      | .error e => .stop e
      | .ok (r, s1) =>
        let two := cdType r == 2
        -- the second half follows the first; its address is checked and translated as the first's
        match (if !two then Except.ok (r, s1)
               else if s1.classify 0 (ca + 64) = .invalid then Except.error (addrFault (ca + 64))
               else s1.readRecord ca.toNat 128) with
        | .error e => .stop e
        | .ok (r, s) =>
          let q := if hd = 0 then some s.gg.q else s.myPart.queue? hd.toNat
          match q with
          | none => .stop (staleHandle hd.toNat)
          | some q =>
            let x := s.queue q
            if !x.enabled || x.part != s.gg.part || !x.launchFed then .stop (staleHandle hd.toNat)
            else
              let s := s.releaseFor .device false
              let r := if cdType r = 0 ∨ cdType r = 3 then r / 16 * 16 + 15 else r
              let p : Post := { bytes := r, two := two, gang := s.gg.uid, troupe := s.tr.idx, batch := s.openBatch }
              .done (s.setQueue { (s.queue q) with posts := (s.queue q).posts ++ [p] })

/-- Slots a post needs: its own, and a skip card's where it would straddle (R261). -/
def Queue.room (x : Queue) (p : Post) : Nat := if p.two then (if x.t % x.size = x.size - 1 then 3 else 2) else 1

/-- Bytes written into slots by the ringmaster. -/
def State.putSlot (s : State) (x : Queue) (c v : Nat) : State := s.writeFlat x.part (x.slotVa c) 64 v

/-- The pages of the slots a post would write that are not there. -/
def State.slotMiss (s : State) (x : Queue) (n : Nat) : Option PageMiss :=
  (List.range n).findSome? fun k =>
    match s.flatPa x.part (x.slotVa (x.t + k)) .write with
    | .miss m => some m
    | _ => none

/-- R261. The oldest post of a queue is written at T, behind a skip card where it would straddle, and T rises; while too few slots are
free it waits in the staging buffers. -/
def execLaunchPost (q : Nat) (s : State) : Out :=
  let x := s.queue q
  .next (match x.posts with
    | [] => s
    | p :: rest =>
      if !x.enabled then s
      else
        let n := x.room p
        let k := if p.two then 2 else 1
        if x.t + n ≤ x.h + x.size then
          match s.slotMiss x n with
          | some m => (s.recordFault x.part { num := 0, miss := m, src := .ringmaster, qix := q }).2
          | none =>
            let skip := n == 3
            let t := if skip then x.t + 1 else x.t
            let s := if skip then s.putSlot x x.t 3 else s
            let s := s.putSlot x t (p.bytes % 2 ^ 512)
            let s := if p.two then s.putSlot x (t + 1) (p.bytes / 2 ^ 512) else s
            let s := if p.staged then s.giveEntry .card x.part k else s
            (s.setQueue { (s.queue q) with t := x.t + n, posts := rest }).writeStatus q
        else if p.staged then s
        else if s.mayTake .card x.part k (if p.refused then some p.askedAt else none) then
          let s := s.granted .card x.part k p.refused
          s.setQueue { (s.queue q) with posts := { p with staged := true } :: rest }
        else if p.refused then s
        else (s.noteRefusal .card x.part).setQueue { x with posts := { p with refused := true, askedAt := s.cycle } :: rest })

/-! ### Enabling and disabling (R469) -/

def qdBase (d : Nat) : Nat := bitsOf d 255 208
def qdSba (d : Nat) : Nat := bitsOf d 207 160
def qdLogn (d : Nat) : Nat := bitsOf d 159 155
def qdPart (d : Nat) : Nat := bitsOf d 153 148
def qdPage (d : Nat) : Nat := bitsOf d 130 125

/-- Whether a queue may be enabled (R469): the descriptor's bits and fields, an active owner with a queue to spare, and a page free. -/
def State.queueOk (s : State) (q d : Nat) : Bool :=
  let p := qdPart d
  let mine := s.queues.filter fun x => x.enabled && x.part == p
  decide (q < 1024) && bitsOf d 147 138 == q && bitsOf d 124 0 == 0 && decide (2 ≤ qdLogn d) && decide (qdLogn d ≤ 20) &&
    qdBase d % (64 * 2 ^ qdLogn d) == 0 && qdSba d % 256 == 0 && !(s.queue q).enabled &&
    (p == 63 || (s.part p).active) && (p == 63 || decide (mine.length < (s.part p).nq)) && !(mine.any fun x => x.page == qdPage d)

/-- A queue put into a free slot of a queue table (R351, R469): the lowest (log 98). -/
def putQueue (q : Nat) : List (Nat × Option Nat) → List (Nat × Option Nat)
  | [] => [(1, some q)]
  | (g, none) :: r => (g, some q) :: r
  | x :: r => x :: putQueue q r

/-- R243, R469. -/
def execQueueEnable (q desc : Nat) (s : State) : Out :=
  .next (if !s.mbx then s else if s.queueOk q desc then
      let old := s.queue q
      let p := s.part (qdPart desc)
      let x : Queue := { q := q, enabled := true, base := qdBase desc, sba := qdSba desc, logn := qdLogn desc,
                         launchFed := bitsOf desc 154 154 == 1, part := qdPart desc, vec := bitsOf desc 137 131, page := qdPage desc,
                         state := 0, cards := old.cards, posts := [] }
      (((s.setPart { p with qtable := putQueue q p.qtable }).setQueue x).writeStatus q).report .ok
    else s.report (.refused 0))

/-- A queue disabled: its handle stale, STATE 2 (R469). -/
def State.disableQueue (s : State) (q : Nat) : State :=
  let x := s.queue q
  let p := s.part x.part
  let s := s.setPart { p with qtable := p.qtable.map fun e => if e.2 = some q then (nextGen e.1, none) else e }
  (s.setQueue { x with enabled := false, state := 2, wait := none }).writeStatus q

/-- R469. -/
def execQueueDisable (q : Nat) (s : State) : Out := .next (if s.mbx && (s.queue q).enabled then s.disableQueue q else s)

end Sys2Proof.Machine
end

