-- ==== Sys2Proof/Machine/Place.lean ====
section
/-!
DEFINITION. Placing gangs and retiring them: residency, candidates, the order of service, reclaims, GANG_PLACE and GANG_RETIRE (R93, R133,
R155 to R161, R250, R255 to R259, R466, R468).
-/

namespace Sys2Proof.Machine

/-! ### Residency (R160, R161) -/

/-- Resident gangs that occupy a core. -/
def State.gangsOn (s : State) (core : Nat) : List Gang :=
  s.allGangs.filter fun g => decide (8 * g.cluster + g.core0 ≤ core) && decide (core < 8 * g.cluster + g.core0 + g.nC)

/-- Whether a core that some gangs occupy meets R160 with T more troupes and their shares. Its four quadrants take 16 troupes each, so 64
troupes fit whatever their quadrants, and 16 troupes of 128 registers fill a quadrant exactly. -/
def gangsFit (gs : List Gang) (t scru acs : Nat) : Bool :=
  decide ((gs.map Gang.nT).sum + t ≤ 64) && decide ((gs.map Gang.scru).sum + scru ≤ 786432) && decide ((gs.map Gang.acsk).sum + acs ≤ 262144)

def State.coreFits (s : State) (core t scru acs : Nat) : Bool := gangsFit (s.gangsOn core) t scru acs

/-- Troupes on each quadrant of a core. -/
def State.quadLoads (s : State) (core : Nat) : List Nat :=
  (List.range 4).map fun q => ((s.gangsOn core).map fun g => ((s.troupesOf g).filter fun t => coreOf g t == core && t.quadrant == q).length).sum

/-- The quadrant with the most free slots, the lowest of a tie (R161). -/
def bestQuad (l : List Nat) : Nat := (List.range 4).foldl (fun b q => if l.getD q 0 < l.getD b 0 then q else b) 0

/-- Quadrants of n troupes taken in order. -/
def assignQuads : Nat → List Nat → List Nat
  | 0, _ => []
  | n + 1, l => bestQuad l :: assignQuads n (l.modify (bestQuad l) (· + 1))

/-- The shape of a gang to place. -/
structure Shape where
  part : Nat
  nC   : Nat
  nT   : Nat
  scru : Nat
  acs  : Nat
  /-- The cluster its affinity prefers (R257). -/
  near : Option Nat
  /-- Only clusters its partition holds (R493). -/
  own  : Bool := false
  deriving DecidableEq, Repr

/-- Clusters of a switch under way: they place nothing (R495). -/
def State.switching (s : State) : List Nat :=
  match s.group with
  | some g => if g.tick.isSome then g.clusters else []
  | none => []

/-- Whether a cluster is in a drained set (R482). -/
def State.clusterDrained (s : State) (cl : Nat) : Bool :=
  s.drains.any fun d =>
    match d.scope with
    | .clusters cs => cs.contains cl
    | _ => false

/-- Whether a cluster held by no other may be borrowed (R468). -/
def Cluster.open_ (c : Cluster) : Bool := c.borrower.isNone && (c.lendable || c.holder.isNone)

/-- Clusters on which a partition may place (R225, R257, R258, R468, R482, R495, R525). -/
def State.mayUse (s : State) (part : Nat) (own : Bool) (cl : Nat) : Bool :=
  let c := s.cluster cl
  c.ok && !s.clusterDrained cl &&
    (part == 63 || (!s.switching.contains cl &&
      (if own then c.holder == some part && (c.borrower == none || c.borrower == some part)
       else c.owner == some part || ((s.part part).borrow && c.open_))))

/-- The lowest of the frames of a spill pool not in use (R267; log 94). Partition 63 has no PCB and no limit. -/
def State.freeFrames (s : State) (part n : Nat) : List Nat :=
  let p := s.part part
  let lim := if part = 63 then p.framesUsed.length + n else p.frames
  ((List.range lim).filter fun f => !p.framesUsed.contains f).take n

/-- The candidates of R257 in the order of cluster and first core. -/
def State.candidates (s : State) (x : Shape) : List (Nat × Nat) :=
  ((List.range 16).map fun cl =>
    if s.mayUse x.part x.own cl then
      ((List.range (9 - x.nC)).filter fun c0 => (List.range x.nC).all fun k => s.coreFits (8 * cl + c0 + k) x.nT x.scru x.acs).map fun c0 => (cl, c0)
    else []).flatten

/-- The sum of purse levels over a gang's cores (R257). -/
def State.purses (s : State) (nC : Nat) (c : Nat × Nat) : Nat := ((List.range nC).map fun k => (s.core (8 * c.1 + c.2 + k)).purse).sum

/-- Whether the first of two candidates is preferred, the one being in front of the other in order (R257). -/
def State.prefers (s : State) (x : Shape) (a b : Nat × Nat) : Bool :=
  let na := x.near == some a.1
  let nb := x.near == some b.1
  if na != nb then na else decide (s.purses x.nC b ≤ s.purses x.nC a)

/-- The place R257 chooses. -/
def State.bestPlace (s : State) (x : Shape) : Option (Nat × Nat) :=
  (s.candidates x).foldl (fun b c =>
    match b with
    | none => some c
    | some d => if s.prefers x d c then some d else some c) none

/-! ### What may be placed next (R254 to R258, R466, R492) -/

/-- The home stack of a card's affinity; a stale handle gives none (R251, R257). -/
def State.affinity (s : State) (part : Nat) (c : Card) : Option Nat :=
  if c.afk = 1 then s.homeOf part (part == 63) c.aff
  else if c.afk = 2 then (s.regionAt part c.aff).bind fun r => r.homes.head?
  else none

def State.shapeOf (s : State) (part : Nat) (c : Card) : Shape :=
  { part := part, nC := c.nC, nT := c.nT, scru := 256 * c.scru, acs := 1024 * c.acsk, near := s.affinity part c }

/-- The card of a gang. -/
def State.cardFor (s : State) (g : Gang) : Option Card := (s.queue g.q).cards.find? fun c => c.uid == g.card

/-- A saved gang as a shape to place (R492, R493), with the affinity of its card (R257). -/
def State.savedShape (s : State) (v : SavedGang) : Shape :=
  { part := v.gang.part, nC := v.gang.nC, nT := v.gang.nT, scru := v.gang.scru, acs := v.gang.acsk,
    near := (s.cardFor v.gang).bind (s.affinity v.gang.part), own := v.recl }

/-- The oldest staged card of a queue that is not fully placed, when its dependences hold (R254, R255). -/
def Queue.ready (x : Queue) : Option Card :=
  match x.cards.find? fun c => !c.placedAll with
  | some c => if c.deps.all Dep.held then some c else none
  | none => none

/-- Something the ringmaster could place: the next gang of a queue, or a saved gang by name. -/
inductive Item where
  | card (q : Nat)
  | saved (g : Nat)
  deriving DecidableEq, Repr

/-- Queues of a partition and class whose oldest card may be placed, from the one after the queue served last (R255). -/
def State.classQueues (s : State) (part cls : Nat) : List Queue :=
  let l := sortBy (fun a b => decide (a.q ≤ b.q))
    (s.queues.filter fun x => x.part == part && !s.queueDrained part x.q && (x.ready.map Card.cls) == some cls)
  match s.served.find? fun v => v.1 == 4 * part + cls with
  | some (_, last) => (l.filter fun x => decide (last < x.q)) ++ l.filter fun x => decide (x.q ≤ last)
  | none => l

/-- Whether a drain keeps a saved gang saved (R482). -/
def State.savedDrained (s : State) (v : SavedGang) : Bool :=
  s.queueDrained v.gang.part v.gang.q || s.drains.any fun d => v.cause == some d.scope

/-- The items of a partition in the order of R255 and R492, each with its shape: reclaimed gangs, then for each class its saved gangs in the
order of saving and its queues in turn. -/
def State.items (s : State) (part : Nat) : List (Item × Shape) :=
  let saved := s.saved.filter fun v => v.gang.part == part && !s.savedDrained v
  (saved.filter SavedGang.recl).map (fun v => (.saved v.gang.uid, s.savedShape v)) ++
    ((List.range 4).map fun cls =>
      (saved.filter fun v => !v.recl && v.gang.cls == cls).map (fun v => (Item.saved v.gang.uid, s.savedShape v)) ++
        (s.classQueues part cls).filterMap fun x => x.ready.map fun c => (Item.card x.q, s.shapeOf part c)).flatten

/-- Whether the spill pool has a frame for each troupe of an item (R267); a saved gang keeps its own. -/
def State.framed (s : State) (part : Nat) (i : Item) (x : Shape) : Bool :=
  match i with
  | .saved _ => true
  | .card _ => decide (x.nC * x.nT ≤ (s.freeFrames part (x.nC * x.nT)).length)

/-- The item a partition places next, and where, by a rule of places (R255, R257, R492): nothing passes a saved gang of its class, nor a reclaimed
one but another reclaimed one (R493). -/
def State.nextItem (s : State) (place : Shape → Option (Nat × Nat)) (part : Nat) : List (Item × Shape) → List Nat → Option (Item × (Nat × Nat))
  | [], _ => none
  | (i, x) :: r, held =>
    let cls : Nat := match i with
      | .card q => (((s.queue q).ready).map Card.cls).getD 0
      | .saved g => ((s.saved.find? fun v => v.gang.uid == g).map fun v => v.gang.cls).getD 0
    if held.contains cls && !x.own then s.nextItem place part r held
    else
      match (if s.framed part i x then place x else none) with
      | some c => some (i, c)
      | none =>
        match i with
        | .saved _ => s.nextItem place part r (if x.own then [0, 1, 2, 3] else cls :: held)
        | .card _ => s.nextItem place part r held

def State.placeable (s : State) (part : Nat) : Option (Item × (Nat × Nat)) := s.nextItem s.bestPlace part (s.items part) []

/-- Whether a shape fits a cluster with the gangs of a borrower gone from it (R468). -/
def State.fitsBack (s : State) (cl : Nat) (x : Shape) : Bool :=
  let stays (g : Gang) : Bool := g.sys || (s.cluster cl).borrower != some g.part
  (s.cluster cl).ok && !s.clusterDrained cl && !s.switching.contains cl &&
    (List.range (9 - x.nC)).any fun c0 => (List.range x.nC).all fun k => gangsFit ((s.gangsOn (8 * cl + c0 + k)).filter stays) x.nT x.scru x.acs

/-- Whether a partition has a placeable gang for a cluster it holds, lent or not (R468). -/
def State.placeableOn (s : State) (part cl : Nat) : Bool :=
  let here (x : Shape) : Bool := s.fitsBack cl x
  (s.nextItem (fun x => if here x then some (cl, 0) else none) part ((s.items part).filter fun i => here i.2 || (s.bestPlace i.2).isNone) []).isSome

/-- Partitions that become active take at least the least V of the others, those that were active before (R256; log 88); a cluster for which
its holder could place is not idle (R468). -/
def State.refreshOne (s : State) (was : List Partition) (p : Nat) : State :=
  let x := s.part p
  let now := (s.placeable p).isSome
  let s :=
    if now && !x.placeable then
      let others := (was.filter fun y => y.id != p).map Partition.vtime
      let least := others.foldl (fun (b : Option Nat) v => some (match b with
        | some w => min v w
        | none => v)) none
      s.setPart { x with placeable := true, vtime := max x.vtime (least.getD 0) }
    else if now != x.placeable then s.setPart { x with placeable := now }
    else s
  if (s.items p).isEmpty then s
  else { s with clusters := .ofFn fun i : Fin 16 =>
           let c := s.clusters.get i
           if c.holder = some p ∧ s.placeableOn p i then { c with idleSince := s.cycle } else c }

/-- Every partition's activity as it stands now: sampled at each step (R256). -/
def State.refreshActive (s : State) : State :=
  let was := s.parts.filter fun y => y.placeable && y.id != 63
  (s.parts.map Partition.id).foldl (fun s p => s.refreshOne was p) s

/-- The partition served next (R256, R258): firmware first; the lowest V, shares of 0 after all others, ties to the lower number. -/
def State.nextPart (s : State) : Option Nat :=
  if (s.placeable 63).isSome then some 63
  else
    let l := s.parts.filter fun p => p.id != 63 && (s.placeable p.id).isSome
    let l := if l.any fun p => s.share p.id != 0 then l.filter fun p => s.share p.id != 0 else l
    (l.foldl (fun (b : Option Partition) p =>
      match b with
      | none => some p
      | some c => if p.vtime < c.vtime ∨ (p.vtime = c.vtime ∧ p.id < c.id) then some p else some c) none).map Partition.id

/-! ### Saves asked for (R481, R483) -/

/-- Replay entries taken for the items of a work (R483), while the pool grants them; the rest land, and each is counted (R474, R475). -/
def State.recordItems (s : State) (uid part : Nat) : Nat → State
  | 0 => s
  | n + 1 =>
    if s.grants .replay part then
      let s := s.takeEntry .replay part 1
      let s := { s with works := s.works.map fun (x : Work) => if x.uid = uid then { x with saveEntries := x.saveEntries + 1 } else x }
      s.recordItems uid part n
    else
      let p := s.part part
      (s.setPart { p with strpl := p.strpl + .ofNat 32 (n + 1) }).writeAcct part

/-- The items of a gang's work that have not begun (R484). -/
def State.recordGang (s : State) (uid : Nat) : State :=
  (s.works.filter fun x => x.gang == uid).foldl (fun s x => s.recordItems x.uid x.part (x.left - (x.saveEntries + x.reserve))) s

/-- A save of a gang is asked for (R483): from now none of its paths issues, so none has a wide instruction ready (R234, R242); YIELD holds
end (R492), NEAR regions end (R512), and its work is recorded. -/
def State.askSave (s : State) (uid us : Nat) (r : SaveReq) : State :=
  match s.gang? uid with
  | some g =>
    match g.save with
    -- one save serves all that ask for it, within the shortest of their times (R485, R493, R495)
    | some k =>
      s.updGang uid fun g => { g with save := some { k with deadline := min k.deadline (s.cycle + 1900 * us), recl := k.recl || r.recl,
                                                            switch := k.switch || r.switch, cause := k.cause.or r.cause } }
    | none =>
      let s := ((s.troupesOf g).map fun t => (⟨uid, t.idx, .P⟩ : PathId)).foldl (fun s p => s.onPath p fun s =>
        let s := if s.tr.nearAt.isSome then s.endNear else s
        { s with tr := { s.tr with p := { s.tr.p with yield := none }, q := { s.tr.q with yield := none } } }) s
      ((s.dropWide fun p => p.gang == uid).updGang uid fun g => { g with save := some { r with deadline := s.cycle + 1900 * us } }).recordGang uid
  | none => s

/-- Tenant gangs of a partition on a cluster. -/
def State.gangsAt (s : State) (cl part : Nat) : List Gang := s.allGangs.filter fun g => g.cluster == cl && g.part == part && !g.sys

/-- A borrower gives a cluster back (R227, R468). -/
def State.endBorrow (s : State) (cl : Nat) : State :=
  (s.updCluster cl fun c => { c with borrower := none, lendable := false, idleSince := s.cycle }).emptyPurses cl

/-- A lender with a placeable gang for a cluster it has lent reclaims it (R468, R481). -/
def State.reclaim (s : State) : State :=
  (List.range 16).foldl (fun s cl =>
    let c := s.cluster cl
    match c.holder, c.borrower with
    | some h, some b =>
      if h ≠ b ∧ s.placeableOn h cl then
        (s.gangsAt cl b).foldl (fun s g => s.askSave g.uid 20 { deadline := 0, recl := true }) (s.endBorrow cl)
      else s
    | _, _ => s) s

/-! ### Placing a gang (R15, R93, R156 to R159, R256, R257, R259) -/

/-- A troupe as it starts (R15, R259), in a quadrant and a slot of it. -/
def startTroupe (idx : Nat) (seat : Nat × Nat) (frame entry : Nat) (arg : BitVec 64) (h q z : Nat) : Troupe :=
  let r : Vector (BitVec 64) 64 := Vector.replicate 64 0
  let r := ((r.set 1 arg).set 2 (.ofNat 64 h)).set 3 (.ofNat 64 q)
  { idx := idx, quadrant := seat.1, qslot := seat.2, frameNo := frame, sreg := r.set 63 (.ofNat 64 (0xFFFFFE0000000000 + z - 4096)),
    p := { live := true, pc := .ofNat 48 entry, mask := .allOnes 32 } }

/-- The free slots of a quadrant of a core (R161). -/
def State.freeSlots (s : State) (core quad : Nat) : List Nat :=
  let taken := ((s.gangsOn core).map fun g => ((s.troupesOf g).filter fun t => coreOf g t == core && t.quadrant == quad).map Troupe.qslot).flatten
  (List.range 16).filter fun k => !taken.contains k

/-- The slots of troupes whose quadrants are given: each the lowest free one (log 88). -/
def seatsFor (free : Nat → List Nat) : List Nat → List (Nat × Nat)
  | [] => []
  | q :: r => (q, (free q).headD 0) :: seatsFor (fun x => if x = q then (free q).drop 1 else free x) r

/-- The quadrants and slots of a gang's troupes, core by core (R161). -/
def State.quadsFor (s : State) (cl c0 nC nT : Nat) : List (Nat × Nat) :=
  ((List.range nC).map fun c => seatsFor (s.freeSlots (8 * cl + c0 + c)) (assignQuads nT (s.quadLoads (8 * cl + c0 + c)))).flatten

/-- A cluster placed on by a partition that does not own it is borrowed from now (R468). -/
def State.borrowFor (s : State) (part cl : Nat) : State :=
  if part = 63 ∨ (s.cluster cl).owner = some part then s
  else (s.updCluster cl fun c => { c with borrower := some part, lendable := false }).emptyPurses cl

/-- V_p rises with a placement (R256). -/
def State.chargePlace (s : State) (part n : Nat) : State :=
  if part = 63 then s
  else
    let p := s.part part
    let w := max (s.share part) 1
    s.setPart { p with vtime := p.vtime + (n * 4096 + w - 1) / w }

/-- The gang of a card with the next number, on its cores. -/
def State.newGang (s : State) (part q : Nat) (c : Card) (cl c0 : Nat) : Gang :=
  let p := s.part part
  let n := c.nC * c.nT
  let quads := s.quadsFor cl c0 c.nC c.nT
  let frames := s.freeFrames part n
  { uid := s.nextUid, sys := part == 63, part := part, card := c.uid, q := q, head := c.head, gidx := .ofNat 32 c.next, ngang := c.ngang, cls := c.cls,
    nC := c.nC, nT := c.nT, vregs := c.vregs, scru := 256 * c.scru, acsk := 1024 * c.acsk, cluster := cl, core0 := c0,
    srseed := mix p.srseed (.ofNat 64 (q * 2 ^ 54 + c.head % 2 ^ 54)) (.ofNat 64 c.next),
    circles := (Vector.replicate 32 {}).set 0 { member := .ofNat 512 (2 ^ n - 1) }, since := s.cycle,
    troupes := (List.range n).map fun i => startTroupe i (quads.getD i (0, 0)) (frames.getD i 0) c.entry c.arg c.head q p.z }

/-- What the ringmaster's reads and a card's satisfied dependences are for a gang on its cores: a device-scope acquire (R246, R249, R321). -/
def State.acquireOn (s : State) (part cl c0 nC : Nat) : State :=
  (List.range nC).foldl (fun s k => s.acquireL1 (8 * cl + c0 + k) part .device (nC == 1)) s

/-- The next gang of a queue's oldest card is placed. -/
def State.placeCard (s : State) (q cl c0 : Nat) : State :=
  let x := s.queue q
  match x.ready with
  | none => s
  | some c =>
    let s := (s.borrowFor x.part cl).acquireOn x.part cl c0 c.nC
    let g := s.newGang x.part q c cl c0
    let all := c.next + 1 == c.ngang
    let c' := { c with next := c.next + 1, liveGangs := c.liveGangs + 1, placedAll := all }
    let s := s.chargePlace x.part (c.nC * c.nT)
    let s := if all then s.giveEntry .card x.part c.slots else s
    let p := s.part x.part
    let s := s.setPart { p with framesUsed := p.framesUsed ++ g.troupes.map Troupe.frameNo }
    let s := s.setQueue { x with cards := x.cards.map fun d => if d.uid = c.uid then c' else d }
    let s := s.updCluster cl fun k => { k with lendable := false }
    { s with gangs := s.gangs ++ [g], nextUid := s.nextUid + 1, served := upsert Prod.fst (4 * x.part + c.cls, q) s.served }

/-- R155 to R161, R255 to R259, R468. The queue is one the ringmaster would serve next. -/
def execGangPlace (q : Nat) (s : State) : Out :=
  let s := s.refreshActive.reclaim
  .next (match s.nextPart with
    | some p =>
      match s.placeable p with
      | some (.card n, (cl, c0)) => if n = q then s.placeCard q cl c0 else s
      | _ => s
    | none => s)

/-! ### Retirement (R133, R250, R252, R267, R438, R482) -/

/-- Whether every troupe has ended and all of the gang's stores and asynchronous work, its posts among it, have performed (R133). -/
def State.finished (s : State) (g : Gang) : Bool :=
  ((s.troupesOf g).all fun t => t.ended && t.stream.isEmpty) && !(s.works.any fun x => x.gang == g.uid) &&
    !(s.queues.any fun x => x.posts.any fun p => p.gang == g.uid) && g.save.isNone

/-- ns of residency of a gang up to a CYCLE, weighted by its cores (R478): a count of CYCLE is 10/19 ns. -/
def Gang.residency (g : Gang) (now : Nat) : Nat := g.nC * (now - g.since) * 10 / 19

/-- Residency up to a CYCLE counted to the partition. -/
def State.countResidency (s : State) (now : Nat) (g : Gang) : State :=
  let p := s.part g.part
  s.setPart { p with usage := { p.usage with gangns := p.usage.gangns + g.residency now } }

/-- A gang leaves its cores: its waiting wide instructions, leases, lateness records, boosts, firmware purses, and what the L1s keep of it as a
requester go with it (R228, R235, R240, R276, R373). -/
def State.removeGang (s : State) (g : Gang) : State :=
  let s := (s.countResidency s.cycle g).dropWide fun p => p.gang == g.uid
  let s := if s.gg.uid = g.uid then { s with gg := {}, tr := {}, sel := .P } else { s with gangs := s.gangs.filter fun x => x.uid != g.uid }
  let mine (l : Option (Nat × Nat)) : Bool := (l.map Prod.fst) == some g.uid
  let s := { s with late := s.late.filter (fun r => r.gang != g.uid), boosts := s.boosts.filter (fun b => b.1 != g.uid),
                    cores := s.cores.map fun (c : Core) => if mine c.lease then { c with lease := none, mrel := none } else c,
                    caches := s.caches.map fun (c : CacheInst) => if c.inst < 128 then { c with reqrs := c.reqrs.filter fun r => r.who != g.uid } else c }
  (s.updCluster g.cluster fun c => { c with idleSince := s.cycle }).clearFwPurses

/-- Whether a gang lies in a drain's scope (R482). -/
def DrainScope.covers (d : DrainScope) (g : Gang) : Bool :=
  match d with
  | .queue q => g.q == q
  | .partition p => g.part == p
  | .clusters cs => cs.contains g.cluster

/-- A drain completes when no gang of its scope is resident (R482). -/
def State.settleDrains (s : State) : State :=
  let over_ (d : DrainRec) : Bool := !d.done && !(s.allGangs.any fun g => DrainScope.covers d.scope g)
  { s with mail := s.mail ++ (s.drains.filter over_).map (fun d => .drained d.scope),
           drains := s.drains.map fun d => if over_ d then { d with done := true } else d }

/-- The error record a gang ends with: a trap's, or the engine error of its first failed element (R347, R438, R441). -/
def Gang.errorRecord (g : Gang) : Option ErrRec := g.err.or g.engErr

/-- The queue's status block takes a gang's error record (R252, R438). -/
def State.noteError (s : State) (g : Gang) (e : ErrRec) : State :=
  let x := s.queue g.q
  (s.setQueue { x with gerr := x.gerr + 1, errrec := e.bytes }).writeStatus g.q

/-- The gang leaves its card; the card itself goes with its last gang. -/
def State.leaveCard (s : State) (g : Gang) (bad : Bool) : State :=
  let x := s.queue g.q
  s.setQueue { x with cards := (x.cards.map fun c => if c.uid = g.card then { c with liveGangs := c.liveGangs - 1, errSeen := c.errSeen || bad } else c).filter
                        fun c => c.uid != g.card || !c.placedAll || c.liveGangs != 0 }

/-- A gang's frames return to the spill pool (R267). -/
def State.freeFramesOf (s : State) (g : Gang) : State :=
  let p := s.part g.part
  let fs := (s.troupesOf g).map Troupe.frameNo
  s.setPart { p with framesUsed := p.framesUsed.filter fun f => !fs.contains f }

/-- A gang whose work is done and whose card's add, when it is due, has been made retires. -/
def State.retire (s : State) (g : Gang) : State :=
  let e := g.errorRecord
  let s := match e with
    | some r => s.noteError g r
    | none => s
  ((((s.leaveCard g e.isSome).freeFramesOf g).removeGang g).settleDrains)

/-- What the gang's cores hold dirty is written back: a device-scope release of everything it wrote (R250). -/
def State.releaseGang (s : State) (g : Gang) : State :=
  (List.range g.nC).foldl (fun s k => s.releaseL1 (8 * g.cluster + g.core0 + k) .device (s.oneCore g)) s

/-! ### Errors met in what a gang has left in the caches (R448) -/

/-- The virtual address of a physical line, as a TLB entry of the partition shows it; where none is left, a free value (log 29). -/
def State.vaOfLine (s : State) (part line : Nat) : Nat :=
  match s.tlbs.find? fun e => e.part == part && decide (e.pa ≤ 128 * line) && decide (128 * line < e.pa + 2 ^ e.size) with
  | some e => e.va + (128 * line - e.pa)
  | none => Config.freeNat s.freeCtr % 2 ^ 48

/-- The earlier of two records of a gang (R438). -/
def firstRec (o : Option ErrRec) (e : ErrRec) : Option ErrRec := if o.any fun o => decide (o.cycle ≤ e.cycle) then o else some e

/-- A saved gang ends in error as a resident one does (R438): its monitor entries are given back, its paths stop. -/
def State.endSaved (s : State) (uid : Nat) (e : Gang → ErrRec) : State :=
  match s.saved.find? fun v => v.gang.uid == uid with
  | none => s
  | some v =>
    let g := { v.gang with err := firstRec v.gang.err (e v.gang), troupes := v.gang.troupes.map Troupe.halt }
    let s := s.giveEntry .monitor g.part (v.gang.troupes.map Troupe.monitors).sum
    { s with saved := s.saved.map fun x => if x.gang.uid = uid then { v with gang := g } else x }

/-- The end in error that an uncorrectable error in a dirty line calls for, or a store to a lost module (R448, R522): of the gang where it is
resident, or as it is saved. A line without an owning gang, or whose gang is over, leaves the machine-check record alone. -/
def State.settleCheck (s : State) (c : Check) : State :=
  let s := { s with bad := s.bad.erase (c.line, c.unit) }
  let e (g : Gang) : ErrRec := { cause := 11, imp := true, addr := .ofNat 64 (s.vaOfLine c.part c.line), aux := .ofNat 64 c.unit, gang := g.gidx.toNat,
                                 sysp := g.sys, cycle := s.cycle }
  let t := s.machineCheck c.core c.part (128 * c.line) c.unit false
  match s.gang? c.gang with
  | some g => t.endInError c.gang (e g)
  | none => t.endSaved c.gang e

/-- The errors met in one gang's lines. -/
def State.settleChecksOf (s : State) (uid : Nat) : State :=
  (s.checks.filter fun c => c.gang == uid).foldl State.settleCheck { s with checks := s.checks.filter fun c => c.gang != uid }

/-- R133, R250, R252, R438, R448. The last gang of a grid makes the card's add first, once for the whole card (R250; log 96); while its page is not
there the gang stays (R457); where the host has failed that page there is no add (R459; log 122). -/
def execGangRetire (g : Nat) (s : State) : Out :=
  .next (match s.gang? g with
    | none => s
    | some x =>
      if !s.finished x then s
      else
        let s := (s.releaseGang x).settleChecksOf x.uid
        let x := (s.gang? x.uid).getD x
        match s.cardFor x with
        | none => s.retire x
        | some c =>
          if !c.placedAll || c.liveGangs != 1 then s.retire x
          else if s.faultsOpen x.part c.doneWait then s
          else if s.faultsFailed x.part c.doneWait then s.retire x
          else
            match s.counterAdd 0 x.part x.sys c.done c.inc (c.errSeen || x.errorRecord.isSome) with
            | (s, none) | (s, some (.inr _)) => s.retire x
            | (s, some (.inl m)) =>
              let (n, s) := s.recordFault x.part { num := 0, miss := m, src := .ringmaster, qix := x.q }
              let y := s.queue x.q
              s.setQueue { y with cards := y.cards.map fun d => if d.uid = c.uid then { d with doneWait := [n] } else d })

end Sys2Proof.Machine
end

