-- ==== Sys2Proof/Machine/Caches.lean ====
section
/-!
DEFINITION. Levels of memory: due stamps, epochs, victims, quotas and penalties; LOAD_RETURN, STORE_PERFORM, CROSS_DOMAIN_WRITE_APPLY and
TRANSLATION_WALK_COMPLETE (R269 to R281, R307 to R311, R454, R467, R503).
-/

namespace Sys2Proof.Machine

/-! ### Shapes of the instances (R269) -/

/-- Ways, sets and epoch E of an instance. The spec does not say which set a line falls in; the line's number decides (log 26). -/
def instWays (i : Nat) : Nat := if i < 128 then 8 else 16
def instSets (i : Nat) : Nat := if i < 128 then 256 else if i < 192 then 4096 else if i < 208 then 2048 else 196608
def instEpoch (i : Nat) : Nat := if i < 128 then 256 else if i < 208 then 4096 else 16384

/-- Ways of an instance in cache mode (R278, R413). -/
def State.usableWays (s : State) (i : Nat) : List Nat := if 208 ≤ i then (s.topWays (i - 208) 16).reverse else List.range (instWays i)

/-! ### Clocks (R273, R274) -/

/-- G of R274. -/
def State.tenantGangs (s : State) (part : Nat) : Nat := max 1 (s.allGangs.filter fun g => g.part == part).length

/-- R273. -/
def execGclkAdvance (g : Nat) (s : State) : Out :=
  .next (match s.gang? g with
    | some x =>
      if x.ret < x.nC * x.nT then s
      else
        let s := s.updGang g fun x => { x with ret := x.ret - x.nC * x.nT, gclk := x.gclk + 1 }
        let p := s.part x.part
        s.setPart { p with tacc := p.tacc + 1 }
    | none => s)

/-- R274. -/
def execTclkAdvance (part : Nat) (s : State) : Out :=
  let p := s.part part
  let g := s.tenantGangs part
  .next (if g ≤ p.tacc then s.setPart { p with tclk := p.tclk + 1, tacc := p.tacc - g } else s)

/-! ### Requesters (R276, R280) -/

/-- A requester's clock: GCLK of a gang at an L1, TCLK of a partition elsewhere (R274). -/
def State.clockOf (s : State) (i who : Nat) : Nat :=
  if i < 128 then ((s.gang? who).map fun g => g.gclk.toNat).getD 0 else (s.part who).tclk

def CacheInst.reqr (c : CacheInst) (who : Nat) : Requester := findD Requester.who who { who := who } c.reqrs
def CacheInst.setReqr (c : CacheInst) (r : Requester) : CacheInst := { c with reqrs := upsert Requester.who r c.reqrs }

/-- A requester seen for the first time at an instance starts its measure. -/
def State.meet (s : State) (i who : Nat) : State :=
  let c := s.cache i
  if c.reqrs.any fun r => r.who == who then s
  else s.setCache (c.setReqr { who := who, tick := s.clockOf i who, epoch := c.epochs })

/-- The rate exponent of R276 from the epochs of 16 ticks. -/
def rateOf (d : Nat) : Int := if d = 0 then -8 else max (-8) (min 8 ((Nat.clog 2 d : Int) - 4))

/-- Ticks of a requester's clock since its last measure; GCLK has 32 bits (R273). -/
def ticksSince (i now t : Nat) : Nat := if i < 128 then (now + 2 ^ 32 - t) % 2 ^ 32 else now - t

/-- The measure of each 16 ticks (R276). The epochs lie in the first 16 of more: any request would have ended those. -/
def Requester.measure (r : Requester) (i now epochs : Nat) : Requester :=
  let d := ticksSince i now r.tick
  if d < 16 ∨ 2 ^ 40 ≤ r.who then r
  else
    { r with j := if d < 32 then rateOf (epochs - r.epoch) else -8, epoch := epochs,
             tick := if i < 128 then (now + 2 ^ 32 - d % 16) % 2 ^ 32 else now - d % 16 }

/-- The window closes at its 65,536th insertion (R280). -/
def Requester.window (r : Requester) : Requester :=
  if r.inserts < 65536 then r
  else { r with p := if 32768 < r.expiries then min (r.p + 1) 3 else if 16384 ≤ r.expiries then r.p else r.p - 1, inserts := 0, expiries := 0 }

/-- R276. -/
def execRateRemeasure (inst req : Nat) (s : State) : Out :=
  let c := s.cache inst
  .next (match c.reqrs.find? fun r => r.who == req with
    | some r => s.setCache (c.setReqr (r.measure inst (s.clockOf inst req) c.epochs))
    | none => s)

/-- R280. -/
def execPenaltyWindowClose (inst part : Nat) (s : State) : Out :=
  let c := s.cache inst
  .next (s.setCache (c.setReqr (c.reqr (penaltyName inst part)).window))

/-- Measures and windows that are due end before the instance's next request or advance (R276, R280). -/
def State.catchUp (s : State) (i : Nat) : State :=
  let c := s.cache i
  s.setCache { c with reqrs := c.reqrs.map fun r => (r.measure i (s.clockOf i r.who) c.epochs).window }

/-- An expiry counted for the owner's tenant (R277, R280). -/
def CacheInst.expire (c : CacheInst) (name : Nat) : CacheInst :=
  let r := c.reqr name
  c.setReqr { r with expiries := r.expiries + 1 }

/-- The advance of an instance's epoch and its sweep (R276, R277). -/
def State.advanceEpoch (s : State) (i : Nat) : State :=
  let c := (s.catchUp i).cache i
  let now := (c.now + 1) % 256
  let due (l : CLine) : Bool := !l.dead && l.stamp == now
  let gone := (c.lines.filter fun l => due l && !l.expired).map fun l => penaltyName i l.tenant
  let c := { c with now := now, reqs := 0, epochs := c.epochs + 1,
                    lines := c.lines.map fun l => if due l then (if l.expired then { l with aged := true } else { l with expired := true }) else l }
  s.setCache (gone.foldl CacheInst.expire c)

/-- R276, R277. -/
def execEpochAdvance (inst : Nat) (s : State) : Out :=
  .next (if instEpoch inst ≤ (s.cache inst).reqs then s.advanceEpoch inst else s)

/-- A request is applied at an instance; an advance that is due comes first (R276, R281). -/
def State.applyRequest (s : State) (i : Nat) : State :=
  let s := s.catchUp i
  let s := if instEpoch i ≤ (s.cache i).reqs then s.advanceEpoch i else s
  let c := s.cache i
  s.setCache { c with reqs := c.reqs + 1 }

/-! ### Touching (R275, R277) -/

/-- log2 of DEFND of a partition at an instance (R275, R463). -/
def State.defnd (s : State) (i part : Nat) : Nat :=
  let v := (s.part part).sh
  if i < 128 then v.dnl1 else if i < 208 then v.dnl2 else v.dnmsc

/-- D of R275. -/
def State.ticks (s : State) (i part : Nat) (nd : BitVec 4) : Nat :=
  let n := nd.toNat
  if n = 15 then 2 ^ s.defnd i part else if n = 14 then 8192 else 2 ^ (n - 1)

/-- ceil(D × 2^k). -/
def scaled (d : Nat) (k : Int) : Nat :=
  match k with
  | .ofNat n => d * 2 ^ n
  | .negSucc n => (d + 2 ^ (n + 1) - 1) / 2 ^ (n + 1)

/-- A line touched by a request of a requester (R277): the owner, the bits cleared, dead or stamped. A sequencer's own requests have j = 0 and
p = 0 (R275), and what they touch counts to no partition (R480; log 111). -/
def State.touched (s : State) (i who : Nat) (f : Fill) (l : CLine) : CLine :=
  let c := s.cache i
  let l := { l with owner := who, tenant := f.part, expired := false, aged := false, dead := false }
  if f.nd = 0 then { l with dead := true }
  else
    let k := if f.seq then 0 else (c.reqr who).j + ((c.reqr (penaltyName i f.part)).p : Int)
    { l with stamp := (c.now + min 127 (max 1 (scaled (s.ticks i f.part f.nd) k))) % 256 }

/-! ### Victims (R278, R279, R467) -/

/-- At or above its quota at an instance, its children's lines included (R279, R467). Only L2 and MSC slices have quotas; partition 63 has none. -/
def State.aboveQuota (s : State) (i part : Nat) : Bool :=
  let q (p : Nat) : Nat := if i < 192 then (s.part p).sh.lql2 else (s.part p).sh.lqmsc
  decide (128 ≤ i) && (decide (i < 192) || decide (208 ≤ i)) && decide (part < 63) && decide (q part ≤ s.owned i part)

/-- How soon a line leaves (R278, classes 3 to 5): dead, aged, expired by age, then by remaining distance. -/
def CLine.leaves (l : CLine) (now : Nat) : Nat :=
  if l.dead then 4096
  else if l.aged then 2048
  else if l.expired then 1024 + (now + 256 - l.stamp) % 256
  else (l.stamp + 256 - now) % 256

/-- The first to leave of some lines, the lowest way of a tie. -/
def worst (now : Nat) (ls : List CLine) : Option CLine :=
  ls.foldl (fun b l =>
    match b with
    | none => some l
    | some m => if m.leaves now < l.leaves now ∨ (m.leaves now = l.leaves now ∧ l.way < m.way) then some l else some m) none

/-- Where a missing line goes: a free way, a victim's way, or nowhere (R278, R279). -/
inductive Room where
  | free (way : Nat)
  | victim (l : CLine)
  | none
  deriving DecidableEq, Repr

/-- The room for a request's line at an instance; a sequencer has no quota (R275). No fill is in flight between steps. -/
def State.room (s : State) (i : Nat) (f : Fill) : Room :=
  let c := s.cache i
  let ways := s.usableWays i
  let mine := c.lines.filter fun l => l.line % instSets i == lineOf f.pa % instSets i && ways.contains l.way
  let pick (ls : List CLine) : Room := match worst c.now ls with
    | some l => .victim l
    | none => .none
  match ways.find? fun w => !(mine.any fun l => l.way == w) with
  | some w => .free w
  | none =>
    if !f.seq && s.aboveQuota i f.part then pick (mine.filter fun l => l.owner == f.part)
    else
      let rich := mine.filter fun l => 128 ≤ i && s.aboveQuota i l.owner
      pick (if rich = [] then mine else rich)

/-- A victim leaves (R271, R275, R278): what it holds modified is asked of the next level, with ND 15, or 0 when it left as dead. -/
def State.evict (s : State) (i : Nat) (l : CLine) : State :=
  let s := if i < 128 then s.writeBack i l else s.writeBackSlice i l
  s.setCache ((s.cache i).drop l.line)

/-- A way made for a request's line, when there is one. -/
def State.makeRoom (s : State) (i : Nat) (f : Fill) : Option (Nat × State) :=
  match s.room i f with
  | .free w => some (w, s)
  | .victim l => some (l.way, s.evict i l)
  | .none => none

/-- An insertion counted for the tenant; a window that has had its 65,536th closes first (R280). -/
def State.countInsert (s : State) (i : Nat) (f : Fill) : State :=
  if f.seq then s
  else
    let c := s.cache i
    let r := (c.reqr (penaltyName i f.part)).window
    s.setCache (c.setReqr { r with inserts := r.inserts + 1 })

/-- A line inserted by a miss; with ND 0, or without room, the miss is served without allocation (R277, R279). -/
def State.insertLine (s : State) (i who : Nat) (f : Fill) (l : CLine) : State :=
  if f.nd = 0 then s
  else
    match s.makeRoom i f with
    | none => s
    | some (w, s) =>
      let s := s.countInsert i f
      s.setCache ((s.cache i).put (s.touched i who f { l with way := w }))

/-- Lines that stores have put into an L1 get their ways, touched with their stores' distance (R271, R275, R277). -/
def State.placeStored (s : State) (core : Nat) : State :=
  ((s.cache core).lines.filter fun l => decide (noWay ≤ l.way)).foldl (fun s l =>
    let f : Fill := { core := core, pa := 128 * l.line, nd := .ofNat 4 (l.way - noWay), gang := l.owner, part := l.tenant }
    match s.makeRoom core f with
    | none => s
    | some (w, s) =>
      match (s.cache core).find l.line with
      | some l => let s := s.countInsert core f; s.setCache ((s.cache core).put (s.touched core l.owner f { l with way := w }))
      | none => s) s

/-- The same in every L1. -/
def State.placeAll (s : State) : State :=
  ((s.caches.filter fun c => decide (c.inst < 128) && c.lines.any fun l => decide (noWay ≤ l.way)).map CacheInst.inst).foldl State.placeStored s

/-! ### A request, level by level (R124, R269 to R272, R275, R277, R303, R307, R510, R519) -/

/-- A line as a request leaves it at a slice: modified by a write (R278). -/
def Fill.mark (f : Fill) (l : CLine) : CLine := if f.write then l.modified else l

/-- A request that reaches LPDDR-6 (R478, R515). -/
def State.countFill (s : State) (f : Fill) : State := (s.countBytes f.part 128 0).countDram f.pa (!f.seq)

/-- The MSC slice of the home stack; a miss there reads LPDDR-6, or writes it where the line is not kept. -/
def State.fillMsc (s : State) (f : Fill) : State :=
  let i := mscSlice f.pa
  let s := (s.meet i f.part).applyRequest i
  match (s.cache i).find (lineOf f.pa) with
  | some l => s.setCache ((s.cache i).put (f.mark (s.touched i f.part f l)))
  | none => (s.countFill f).insertLine i f.part f (f.mark { line := lineOf f.pa, owner := f.part })

/-- The home L2 slice. A write that is not kept here goes on; an NMU's access goes on to its MSC slice and allocates nothing here (R510). -/
def State.fillL2 (s : State) (f : Fill) : State :=
  let i := l2Slice f.pa
  -- the locality monitor sends an NMU's access where the line is (R510)
  if f.pass && ((s.cache i).find (lineOf f.pa)).isNone then s.fillMsc f
  else
    let s := (s.meet i f.part).applyRequest i
    match (s.cache i).find (lineOf f.pa) with
    | some l => s.setCache ((s.cache i).put (f.mark (s.touched i f.part f l)))
    | none =>
      let on := decide (f.nd = 0) || decide (s.room i f = .none)
      (s.fillMsc { f with write := f.write && on }).insertLine i f.part f (f.mark { line := lineOf f.pa, owner := f.part })

/-- The RDC slice of a remote line: one copy, the tenant's whose access filled it; another tenant's access fetches it anew, and it is that
tenant's from then on (R272, R519; log 112). -/
def State.fillRdc (s : State) (f : Fill) : State :=
  let i := rdcSlice f.pa
  let s := (s.meet i f.part).applyRequest i
  match (s.cache i).find (lineOf f.pa) with
  | some l =>
    if l.tenant = f.part then s.setCache ((s.cache i).put (s.touched i f.part f l))
    else
      let s := s.countBytes f.part 0 128
      s.setCache ((s.cache i).put (s.touched i f.part f { l with data := s.homeLine l.line }))
  | none => (s.countBytes f.part 0 128).insertLine i f.part f { line := lineOf f.pa, owner := f.part, data := s.homeLine (lineOf f.pa) }

/-- The level beyond the L1: the home slice, or the RDC; a write to another module goes to its home and updates no RDC copy (R272). -/
def State.fillBeyond (s : State) (f : Fill) : State :=
  if !s.remote f.pa then s.fillL2 f else if f.write then s.countBytes f.part 0 128 else s.fillRdc f

/-- Whether a request's access has its scope point at the L1 (R269, R508). -/
def State.fillPoint (s : State) (f : Fill) : Bool :=
  match s.gang? f.gang with
  | some g => s.pointL1 ⟨f.core, f.gang, f.part, g.sys, s.oneCore g, 0⟩ f.scope f.pa f.mt
  | none => false

/-- The core's L1. A write that goes on to the slice touches a copy and allocates none (R124, R271). A dirty or tracked copy, or an untracked
one at its scope point, is a hit; else the line comes from beyond (R307). -/
def State.fillL1 (s : State) (f : Fill) : State :=
  let i := f.core
  -- a gang that has left the core keeps no measure there (R276)
  let s := (if (s.gang? f.gang).isSome then s.meet i f.gang else s).applyRequest i
  let point := s.fillPoint f
  let through := f.write && !point
  let near := { f with write := through }
  match (s.cache i).find (lineOf f.pa) with
  | some l =>
    if through then (s.setCache ((s.cache i).put (s.touched i f.gang f l))).fillBeyond f
    else if l.dirty ≠ 0 ∨ l.tracked ∨ point then s.setCache ((s.cache i).put (s.touched i f.gang f l))
    else
      let s := s.fillBeyond near
      s.setCache ((s.cache i).put (s.touched i f.gang f { l with tracked := true, fill := f.scope, data := s.homeLine l.line }))
  | none =>
    let s := s.fillBeyond near
    if through then s
    else s.insertLine i f.gang f { line := lineOf f.pa, owner := f.gang, tracked := !point, fill := f.scope, data := s.homeLine (lineOf f.pa) }

/-- Errors in clean L1 and RDC copies are repaired by refetch and counted as corrected (R448). -/
def State.repair (s : State) (f : Fill) : State :=
  let line := lineOf f.pa
  let fixable (u : Nat) : Bool :=
    u == 4 || (u == 2 && match (s.cache f.core).find line with
      | some l => l.dirty == 0
      | none => true)
  match s.bad.find? fun b => b.1 == line && fixable b.2 with
  | none => s
  | some b =>
    let fix (c : CacheInst) : CacheInst := if c.inst = f.core ∨ (192 ≤ c.inst ∧ c.inst < 208) then c.drop line else c
    { s with bad := s.bad.erase b, caches := s.caches.map fix, ctl := { s.ctl with cecnt := s.ctl.cecnt + 1 } }

/-- The bytes of a request that no level keeps, by the line (R478; log 113): LPDDR-6's of this module, or the fabric's. -/
def State.countUncached (s : State) (f : Fill) : State :=
  if f.pad || paHost f.pa then s else if s.remote f.pa then s.countBytes f.part 0 128 else s.countFill f

/-- A request is served. Only normal memory is cached (R451, R518); a scratchpad's word group has no level to fill. -/
def State.serve (s : State) (f : Fill) : State :=
  if f.pad then s
  else
  let s := s.repair f
  if f.mt ≠ 0 ∨ paHost f.pa then s.countUncached f
  else if f.depth = 1 then s.fillL1 f
  else if s.remote f.pa ∨ f.depth = 2 then s.fillBeyond f
  else s.fillMsc f

/-! ### Shares of bandwidth (R466) -/

/-- The effective bandwidth share of a partition. -/
def State.bandShare (s : State) (p : Nat) : Nat := (s.part p).sh.bwsh - ((s.childrenOf p).map fun c => c.sh.bwsh).sum

/-- The LPDDR-6 channel, or beyond them the fabric, at which a request waits: none for one that a level holds. -/
def State.resource (s : State) (f : Fill) : Option Nat :=
  let held (i : Nat) : Bool := ((s.cache i).find (lineOf f.pa)).isSome
  if f.pad || paHost f.pa then none
  else if s.remote f.pa then (if f.mt = 0 && !f.write && held (rdcSlice f.pa) then none else some 48)
  else if f.mt = 0 && (held (l2Slice f.pa) || held (mscSlice f.pa) || (f.depth == 1 && held f.core)) then none
  else some (3 * paStack f.pa + paChannel f.pa)

/-- The n-th request has an entry of its core's (R287). -/
def State.begun (s : State) (n : Nat) (f : Fill) : Bool := decide (((s.fills.take n).filter fun g => g.core == f.core).length < requestEntries)

/-- A request lets another partition's, waiting at the same place, go first: one whose share has been served less, or, with share 0, any. -/
def State.yields (s : State) (f : Fill) : Bool :=
  let r := s.resource f
  r.isSome && decide (f.part < 63) && s.fills.zipIdx.any fun g =>
    decide (g.1.part < 63) && g.1.part != f.part && s.bandShare g.1.part != 0 && s.begun g.2 g.1 && s.resource g.1 == r &&
      (s.bandShare f.part == 0 || decide ((s.part g.1.part).bandTime < (s.part f.part).bandTime))

/-- A request served there counts against its partition's share; a partition that waits for nothing saves nothing up. -/
def State.chargeBand (s : State) (f : Fill) : State :=
  if (s.resource f).isNone || decide (63 ≤ f.part) then s
  else
    let t := (s.part f.part).bandTime
    let s := { s with parts := s.parts.map fun (p : Partition) => if s.fills.any fun g => g.part == p.id then p else { p with bandTime := max p.bandTime t } }
    let p := s.part f.part
    s.setPart { p with bandTime := t + 2 ^ 20 / max 1 (s.bandShare f.part) }

/-- An alert of its LPDDR-6 row keeps a request back (R515). -/
def State.throttled (s : State) (f : Fill) : Bool := (s.resource f).any (fun c => decide (c < 48)) && s.dramHeld f.pa (!f.seq)

/-- R271, R275 to R281, R287, R307, R313, R448, R466, R467, R515. The n-th line asked for comes back; a core's requests beyond its entries have not
started (R287). A number beyond the requests binds a load ahead of its issue (log 5). -/
def execLoadReturn (n : Nat) (s : State) : Out :=
  .next (match s.fills[n]? with
    | some f =>
      if !s.begun n f || s.yields f || s.throttled f then s else (({ s with fills := s.fills.eraseIdx n }).chargeBand f).serve f
    | none =>
      let x := earlyAsk (n - s.fills.length)
      match (s.allTroupes fun _ => true)[x.who]? with
      | some p => s.onPath p fun s => s.bindEarly x
      | none => s)

/-! ### Stores, held writes, walks (R285, R307, R311, R454, R486, R503) -/

/-- R285, R307, R311, R486. The n-th unperformed store of a troupe performs at its scope point. A gang being saved keeps its stores (R484). -/
def execStorePerform (g t n : Nat) (s : State) : Out :=
  .next (s.onPath ⟨g, t, .P⟩ fun s =>
    match s.tr.stream[n]? with
    | some e =>
      if s.gg.save.isSome || !mayPerform s.tr.stream n e then s
      else ({ s with tr := { s.tr with stream := s.tr.stream.eraseIdx n } }).performEntry s.req e
    | none => s)

/-- R503, R505. The n-th held write enters a view. -/
def execCrossDomainWriteApply (dom n : Nat) (s : State) : Out :=
  .next (match s.held[n]? with
    | some h => s.applyOne dom h.id
    | none => s)

/-! ### Parked troupes (R436, R437, R459, R460) -/

/-- A parked troupe whose faults are resolved: released, it replays its instruction or the frame write; with one failed, the instruction
traps with cause 4 and AUX bit 4, or the frame's write has failed. -/
def State.wakeParked (s : State) (p : PathId) : State :=
  s.onPath p fun s =>
    match s.tr.park with
    | none => s
    | some k =>
      if s.gg.save.isSome then s
      else
        let t := { s with tr := { s.tr with park := none } }
        if s.faultsFailed s.gg.part k.waits then
          match k.frame with
          | some (_, e) => t.endInError s.gg.uid e
          | none =>
            match k.misses.find? fun m => s.faultsFailed s.gg.part [m.1] with
            | some (_, m) =>
              let t := { t with sel := k.slot }
              t.takeTrap { cause := 4, lane := m.lane, word := k.word, pc := t.pc.toNat, addr := m.va, aux := transAux m.stage true m.acc }
            | none => t
        else if s.faultsOpen s.gg.part k.waits then s
        else
          match k.frame with
          | some (i, e) => ({ t with sel := i }).vector e
          | none => t

/-- Every parked troupe. -/
def State.wakeAll (s : State) : State := (s.allTroupes fun _ => true).foldl State.wakeParked s

/-- A path whose walk has ended tries its instruction again (R454). -/
def Slot.walkDone (x : Slot) (va cycle : Nat) : Slot :=
  if x.walking then { x with walking := false, walked := va / 4096 :: x.walked, readyAt := cycle } else x

/-- R303, R453, R454. A walk ends: its leaf enters the TLBs, the paths that waited go on, and the prefetches that asked for it are sent or
dropped. -/
def execTranslationWalkComplete (n : Nat) (s : State) : Out :=
  .next (match s.walks[n]? with
    | none => s
    | some w =>
      -- beyond its core's slots a walk has not begun (R454)
      if walkSlots ≤ ((s.walks.take n).filter fun y => y.core == w.core).length then s else
      let s := { s with walks := s.walks.eraseIdx n }
      let s := (s.walkBy w.core w.part w.sys w.va w.acc).2
      let s := w.who.foldl (fun s p => s.updTroupe p.gang p.troupe fun t => t.setSlot p.slot ((t.slot p.slot).walkDone w.va s.cycle)) s
      w.fills.foldl (fun s f =>
        match s.translate w.core w.part w.sys f.pa .read with
        | (.ok pa mt, s) => { s with fills := s.fills ++ [{ f with pa := pa, mt := mt }] }
        | (_, s) => s) s)

end Sys2Proof.Machine
end

