-- ==== Sys2Proof/Machine/Partitions.lean ====
section
/-!
DEFINITION. Partitions: control blocks and their checks, holders of clusters, keys, pools, faults released or failed, usage logs and their
signatures, deactivation (R457, R459, R461 to R480, R533).
-/

namespace Sys2Proof.Machine

/-! ### Bytes of records -/

/-- The low `n` bytes of a number, byte 0 first; and the number of a byte list. -/
def bytesOf (n v : Nat) : List Byte := (List.range n).map fun i => .ofNat 8 (v / 2 ^ (8 * i))
def natOf : List Byte → Nat
  | [] => 0
  | b :: r => b.toNat + 256 * natOf r

/-! ### Partition control blocks (R462 to R464) -/

/-- Byte 0 of each 64-byte part is its lowest. -/
def pcbA (v : Nat) : Nat := v % 2 ^ 512
def pcbB (v : Nat) : Nat := v / 2 ^ 512 % 2 ^ 512
def pcbC (v : Nat) : Nat := v / 2 ^ 1024 % 2 ^ 512

/-- The values an UPDATE may change (R463). -/
def pcbShares (v : Nat) : Shares :=
  { wsh := bitsOf (pcbA v) 415 403, bwsh := bitsOf (pcbA v) 402 390, lql2 := bitsOf (pcbB v) 347 331, lqmsc := bitsOf (pcbB v) 330 309,
    dnl1 := bitsOf (pcbA v) 376 373, dnl2 := bitsOf (pcbA v) 372 369, dnmsc := bitsOf (pcbA v) 368 365 }

/-- A partition as its PCB defines it (R463). -/
def partOf (id v : Nat) : Partition :=
  { id := id, pcb := v, sh := pcbShares v, srseed := .ofNat 64 (bitsOf (pcbA v) 511 448), clm := .ofNat 16 (bitsOf (pcbA v) 447 432),
    tsm := .ofNat 16 (bitsOf (pcbA v) 431 416), parent := bitsOf (pcbA v) 389 384, lend := bitsOf (pcbA v) 383 383 == 1,
    borrow := bitsOf (pcbA v) 382 382 == 1, clip := bitsOf (pcbA v) 381 381 == 1, zl := bitsOf (pcbA v) 380 377,
    keys := bitsOf (pcbA v) 364 359, nq := bitsOf (pcbA v) 358 352, troot := bitsOf (pcbB v) 511 464, proot := bitsOf (pcbB v) 463 412,
    spb := bitsOf (pcbB v) 411 364, frames := bitsOf (pcbB v) 363 348, logbase := bitsOf (pcbC v) 511 464, logk := bitsOf (pcbC v) 463 460,
    frbase := bitsOf (pcbC v) 459 412, frm := bitsOf (pcbC v) 411 407, acct := bitsOf (pcbC v) 406 359,
    min := ⟨bitsOf (pcbC v) 358 346, bitsOf (pcbC v) 345 331, bitsOf (pcbC v) 330 315, bitsOf (pcbC v) 314 298⟩,
    frvec := bitsOf (pcbC v) 297 291, logvec := bitsOf (pcbC v) 290 284 }

/-- The ranges of the values an UPDATE may change (R463). -/
def Shares.legal (v : Shares) : Bool :=
  decide (v.wsh ≤ 4096) && decide (v.bwsh ≤ 4096) && decide (v.lql2 ≤ 65536) && decide (v.lqmsc ≤ 3145728) && decide (v.dnl1 ≤ 12) &&
    decide (v.dnl2 ≤ 12) && decide (v.dnmsc ≤ 12)

/-- The other partitions that are defined. -/
def State.others (s : State) (id : Nat) : List Partition := s.counted.filter fun p => p.id != id && p.id != 63

/-- Shares as they will be once an accepted UPDATE is in force. -/
def Partition.will (p : Partition) : Shares := p.update.getD p.sh

/-- Code 1 (R464). -/
def State.code1 (s : State) (p : Partition) : Bool :=
  let v := p.pcb
  bitsOf (pcbA v) 351 0 == 0 && bitsOf (pcbB v) 308 0 == 0 && bitsOf (pcbC v) 283 0 == 0 && Shares.legal p.sh && p.parent != p.id &&
    p.zl != 15 && p.keys != 63 && decide (p.nq ≤ 64) && p.troot % 4096 == 0 && p.proot % 4096 == 0 && p.spb % (32 * p.z) == 0 &&
    decide (4 ≤ p.logk) && decide (p.logk ≤ 12) && p.logbase % (1024 * 2 ^ p.logk) == 0 && decide (4 ≤ p.frm) && decide (p.frm ≤ 16) &&
    p.frbase % (64 * 2 ^ p.frm) == 0 && p.acct % 64 == 0 && !((s.others p.id).any fun q => q.keys == p.keys)

/-- Code 2: the parent, and the clusters and slots it holds. -/
def State.code2 (s : State) (p : Partition) : Bool :=
  p.parent == 63 ||
    (s.others p.id).any fun q => q.id == p.parent && q.active && q.parent == 63 && p.clm &&& ~~~q.clm == 0 && p.tsm &&& ~~~q.tsm == 0

/-- Code 3: no pair of a cluster and a slot held twice. -/
def State.code3 (s : State) (p : Partition) : Bool :=
  (s.others p.id).all fun q => q.parent != p.parent || q.clm &&& p.clm == 0 || q.tsm &&& p.tsm == 0

/-- Code 4: sums of shares. -/
def State.code4 (s : State) (p : Partition) : Bool :=
  let all := p :: s.others p.id
  let sum (f : Shares → Nat) (par : Nat) : Nat := ((all.filter fun q => q.parent == par).map fun q => f q.will).sum
  decide (sum Shares.wsh 63 + s.wfw ≤ 4096) && decide (sum Shares.bwsh 63 ≤ 4096) &&
    all.all fun q => q.parent != 63 || (decide (sum Shares.wsh q.id ≤ q.will.wsh) && decide (sum Shares.bwsh q.id ≤ q.will.bwsh))

/-- Code 5: quotas and frames of children. -/
def State.code5 (s : State) (p : Partition) : Bool :=
  let all := p :: s.others p.id
  all.all fun c => all.all fun q =>
    c.parent != q.id || c.parent == 63 ||
      (decide (c.will.lql2 ≤ q.will.lql2) && decide (c.will.lqmsc ≤ q.will.lqmsc) && decide (c.frames ≤ q.frames))

/-- Code 6: minimums; the parent's are its own less its children's (R473). -/
def State.code6 (s : State) (p : Partition) : Bool :=
  let all := p :: s.others p.id
  let kids (pool : Pool) (q : Partition) : Nat := ((all.filter fun c => c.parent == q.id).map fun c => c.min.get pool).sum
  [Pool.card, .copy, .monitor, .replay].all fun pool =>
    decide ((all.map fun q => q.min.get pool - kids pool q).sum ≤ pool.total) && all.all fun q => q.parent != 63 || decide (kids pool q ≤ q.min.get pool)

/-- Code 7: queues. -/
def State.code7 (s : State) (p : Partition) : Bool := decide (((p :: s.others p.id).map Partition.nq).sum ≤ 1024)

/-- The code of the first check of R464 that fails. -/
def State.pcbCode (s : State) (p : Partition) : Option Nat :=
  if !s.code1 p then some 1 else if !s.code2 p then some 2 else if !s.code3 p then some 3 else if !s.code4 p then some 4
  else if !s.code5 p then some 5 else if !s.code6 p then some 6 else if !s.code7 p then some 7 else none

/-- Counts of CYCLE in an interval of usage and in 1 ms (R477, R478). -/
def intervalLen : Nat := 1900000000
def msLen : Nat := 1900000

/-! ### Holders (R465) -/

/-- Who holds a cluster in a slot: a child, else a level-one partition. -/
def State.holderFor (s : State) (slot cl : Nat) : Option Nat :=
  let l := s.parts.filter fun p => p.active && p.id != 63 && p.clm.getLsbD cl && p.tsm.getLsbD slot
  ((l.find? fun p => p.parent != 63).or (l.find? fun p => p.parent == 63)).map Partition.id

/-- Clusters that no partition holds pass to the holders of the present slot; one that is borrowed can be reclaimed (R465, R468). -/
def State.fillHolders (s : State) : State :=
  (List.range 16).foldl (fun s cl =>
    if (s.cluster cl).holder.isSome then s
    else
      match s.holderFor s.slot cl with
      | some p =>
        let t := s.updCluster cl fun c => { c with holder := some p, lendable := false, idleSince := s.cycle }
        if (s.cluster cl).borrower.isSome then t else t.emptyPurses cl
      | none => s) s

/-! ### Activation and UPDATE (R462 to R464, R470) -/

/-- Whether the minimums fit beside what others use as overflow (R464, R473). -/
def State.poolsFree (s : State) : Bool :=
  [Pool.card, .copy, .monitor, .replay].all fun pool =>
    decide (((s.parts.filter fun p => p.id != 63).map (s.overflow pool)).sum + (s.counted.map (s.poolMin pool)).sum ≤ pool.total)

/-- What the instances keep of a partition from before it was activated: its clock starts anew (R274, R276, R280). -/
def State.forgetRequester (s : State) (id : Nat) : State :=
  { s with caches := s.caches.map fun (c : CacheInst) => { c with reqrs := c.reqrs.filter fun r => r.who != penaltyName c.inst id } }

/-- An activation whose minimums are free ends (R464, R470, R475, R477): a key, a log and counters that run from now. -/
def State.finishActivation (s : State) (id : Nat) : State :=
  let p := s.part id
  let s := s.setPart { p with active := true, pending := false,
                              usage := { cyc0 := s.cycle, closed := s.cycle / intervalLen, sampled := s.cycle / msLen } }
  let s := { (s.loseKey p.keys).forgetRequester id with keys := upsert Prod.fst (p.keys, s.keyDraws) s.keys }
  ((s.report .ok).writeAcct id).fillHolders

/-- Activations that wait for their minimums, when these are free. -/
def State.tryPending (s : State) : State :=
  if !s.poolsFree then s
  else
    match s.parts.find? fun p => p.pending with
    | some p => s.finishActivation p.id
    | none => s

/-- R462 to R464, R470, R526. A command before step 6 of boot, a partition that is active or waiting, a number above 62, or a seventeenth
level-one partition is refused with code 0: the table of R464 has none for it. -/
def execPartitionActivate (part pcb : Nat) (s : State) : Out :=
  let p := partOf part pcb
  .next (
    if s.bootStep < 6 ∨ 62 < part ∨ (s.part part).active ∨ (s.part part).pending ∨
        (p.parent = 63 ∧ 16 ≤ ((s.others part).filter fun q => q.parent == 63).length) then s.report (.refused 0)
    else
      match s.pcbCode p with
      | some c => s.report (.refused c)
      | none =>
        let s := s.setPart { p with pending := true, vtime := (s.part part).vtime, shapeMax := (s.part part).shapeMax }
        if s.poolsFree then s.finishActivation part else s)

/-- R463, R464. The whole block is checked; only its shares, quotas and distances take effect. -/
def execUpdate (part pcb : Nat) (s : State) : Out :=
  let p := s.part part
  .next (
    if !p.active || part = 63 then s.report (.refused 0)
    else
      match s.pcbCode (partOf part pcb) with
      | some c => s.report (.refused c)
      | none => (s.setPart { p with update := some (pcbShares pcb) }).report .ok)

/-! ### Faults released and failed (R457, R459) -/

/-- R457. -/
def execFrhead (part : Nat) (v : BitVec 64) (s : State) : Out :=
  let p := s.part part
  .next (if p.active then (s.setPart { p with hf := max p.hf v.toNat }).writeFaultRecords part p.faults.length else s)

/-- R436, R459. Every recorded fault up to the value written is released; the troupes whose faults are all released replay. -/
def execFrreplay (part : Nat) (v : BitVec 64) (s : State) : Out :=
  let p := s.part part
  let top := max p.replayed (min v.toNat p.tf)
  let stays (f : PFault) : Bool := f.failed || (f.seq.map fun n => decide (top < n)).getD true
  .next (if p.active then (s.setPart { p with replayed := top, faults := p.faults.filter stays }).wakeAll else s)

/-- R251, R347, R459. A recorded fault is marked failed: its troupes trap, its queue halts, its copy elements fail as they come to run. -/
def execFrfail (part : Nat) (v : BitVec 64) (s : State) : Out :=
  let p := s.part part
  .next (if !p.active then s
    else
      let s := s.setPart { p with faults := p.faults.map fun f => if f.seq = some v.toNat then { f with failed := true } else f }
      let qs := s.queues.filter fun x => x.part == part && x.state == 0 && (x.wait.map fun n => s.faultsFailed part [n]).getD false
      (qs.foldl (fun s x => s.haltQueue x.q 7) s).wakeAll)

/-! ### Pools (R473, R474) -/

/-- A request that has waited gets its entries (R473): a monitor, a path's or a dependence's, is armed at the next read, which follows at once
(R249, R299). A copy and a card's fetch ask again of themselves. -/
def State.grantAsk (s : State) (part : Nat) : Ask → State
  | .path p =>
    let give (x : Slot) : Slot := match x.sleep with
      | some (.waitc a v c sc acq _ w _) => { x with sleep := some (.waitc a v c sc acq true w none) }
      | _ => x
    (s.granted .monitor part 1 true).updTroupe p.gang p.troupe fun t => t.setSlot p.slot (give (t.slot p.slot))
  | .dep q card i =>
    let s := s.granted .monitor part 1 true
    let x := s.queue q
    s.setQueue { x with cards := x.cards.map fun c => if c.uid = card then { c with deps := c.deps.modify i fun d => { d with entry := true, mon := none } } else c }
  | .post q =>
    let x := s.queue q
    match x.posts with
    | p :: r => (s.setQueue { x with posts := { p with staged := true } :: r }).granted .card part (if p.two then 2 else 1) true
    | [] => s
  | .fetch _ => s

/-- Entries a waiting request needs. -/
def State.needs (s : State) : Ask → Nat
  | .post q => if ((s.queue q).posts.head?.map Post.two).getD false then 2 else 1
  | _ => 1

/-- The requests of a partition that wait for an entry of a pool, the oldest first (R473). -/
def State.waitList (s : State) (pool : Pool) (part : Nat) : List (Nat × Nat × Ask) :=
  sortBy (fun a b => decide (a.2.1 ≤ b.2.1)) ((s.asks pool).filter fun a => a.1 == part)

/-- A freed entry goes to the partition's oldest waiting request, when it is the partition's turn (R473). -/
def State.grantNext (s : State) (pool : Pool) (part : Nat) : State :=
  match s.waitList pool part with
  | a :: _ => if s.mayTake pool part (s.needs a.2.2) (some a.2.1) then s.grantAsk part a.2.2 else s
  | [] => s

/-- R464, R473, R474. An entry freed goes to a waiting request: a wait or a dependence, a LAUNCH post. An activation whose minimums are free
ends. -/
def execPoolEntryRelease (pool part : Nat) (s : State) : Out :=
  .next (
    match pool with
    | 0 => s.tryPending.grantNext .card part
    | 2 => s.tryPending.grantNext .monitor part
    | _ => s.tryPending)

/-! ### Keys (R470, R471) -/

/-- R471. A unit moved to another key slot leaves every cache, dirty data and all, and reads as zero. -/
def execKeyMapMove (unit slot : Nat) (s : State) : Out :=
  let mine (pa : Nat) : Bool := pa / 2 ^ 21 == unit
  let rest := s.keymap.filter fun k => k.1 != unit
  .next (if 2 ^ 31 ≤ unit ∨ 63 < slot then s
    else
      { s with keymap := if slot = 63 then rest else rest ++ [(unit, slot)], mem := s.mem.filter fun c => !mine c.1,
               held := s.held.filter fun h => !mine h.pa,
               caches := s.caches.map fun c => { c with lines := c.lines.filter fun l => !mine (128 * l.line) } })

/-! ### Usage logs (R477 to R480) -/

/-- An entry written to the log ring, chained to the one before (R477, R478). -/
def State.writeLog (s : State) (part entry : Nat) : State :=
  let p := s.part part
  let e := entry + p.logprev.toNat * 2 ^ 7680
  let s := s.writeIpa part (p.logbase + 1024 * (p.logtail.toNat % 2 ^ p.logk)) 1024 e
  let s := if p.logtail.toNat = p.loghead then s.raiseMsi part p.logvec else s
  (s.setPart { p with logtail := p.logtail + 1, logprev := Config.sha512 (bytesOf 1024 e), logseq := p.logseq + 1 }).writeAcct part

/-- Whether the ring has room (R477). -/
def Partition.logRoom (p : Partition) : Bool := decide (p.logtail.toNat - p.loghead < 2 ^ p.logk)

/-- Regions by passes, most first, ties to the lower handle (R478). -/
def passesBefore (a b : Nat × Nat) : Bool := decide (b.2 < a.2) || (a.2 == b.2 && decide (a.1 ≤ b.1))

/-- The counts of a usage record (R478). -/
def usageEntry (p : Partition) (cyc1 : Nat) : Nat :=
  let u := p.usage
  let l := sortBy passesBefore u.passes
  let top := l.take 48
  let regs := (top.zipIdx.map fun r => (r.1.2 % 2 ^ 64 * 2 ^ 64 + r.1.1 % 2 ^ 32) * 2 ^ (1536 + 128 * r.2)).sum
  regs + u.tokens % 2 ^ 64 * 2 ^ 1472 + ((l.drop 48).map Prod.snd).sum % 2 ^ 64 * 2 ^ 1408 + u.bytmem % 2 ^ 64 * 2 ^ 1344 +
    u.bytcpy % 2 ^ 64 * 2 ^ 1280 + u.bytfab % 2 ^ 64 * 2 ^ 1216 + u.gangns % 2 ^ 64 * 2 ^ 1152 + u.lnl2 % 2 ^ 64 * 2 ^ 1088 +
    u.lnmsc % 2 ^ 64 * 2 ^ 1024 + u.clipd % 2 ^ 32 * 2 ^ 992 + p.logseq % 2 ^ 64 * 2 ^ 448 + u.cyc0 % 2 ^ 64 * 2 ^ 384 +
    cyc1 % 2 ^ 64 * 2 ^ 320 + Config.modId.toNat * 2 ^ 256 + top.length * 2 ^ 10 + p.id % 64 * 2 ^ 4 + 1

/-- Samples of the lines owned, one each 1 ms, up to a CYCLE (R478). -/
def State.sampleLines (s : State) (part now : Nat) : State :=
  let p := s.part part
  let n := now / msLen - p.usage.sampled
  if n = 0 then s
  else
    let l2 := ((List.range 64).map fun i => ((s.cache (128 + i)).lines.filter fun l => l.owner == part).length).sum
    let msc := ((List.range 16).map fun i =>
      ((s.cache (208 + i)).lines.filter fun l => l.owner == part).length + wayLines * s.waysHeld i (some part)).sum
    s.setPart { p with usage := { p.usage with sampled := now / msLen, lnl2 := p.usage.lnl2 + n * l2, lnmsc := p.usage.lnmsc + n * msc } }

/-- Residency of the partition's resident gangs counted up to a CYCLE (R478). -/
def State.countResident (s : State) (part now : Nat) : State :=
  (s.allGangs.filter fun g => g.part == part).foldl (fun s g => (s.countResidency now g).updGang g.uid fun g => { g with since := max g.since now }) s

/-- A signature record (R479): SIG covers bytes 0 to 63 and 960 to 1,023 of the record, under the attestation key of this boot, which step 9 makes
(R526, R527; log 127). -/
def State.writeSignature (s : State) (part : Nat) : State :=
  let p := s.part part
  if !p.logRoom || decide (s.bootStep < 9) then s
  else
    let low := p.logseq % 2 ^ 64 * 2 ^ 448 + s.cycle % 2 ^ 64 * 2 ^ 384 + s.cycle % 2 ^ 64 * 2 ^ 320 + Config.modId.toNat * 2 ^ 256 + p.id % 64 * 2 ^ 4 + 2
    let sig := natOf ((Config.sign s.attKey (bytesOf 64 low ++ bytesOf 64 p.logprev.toNat)).take 512)
    let s := s.writeLog part (low + sig * 2 ^ 512)
    let p := s.part part
    s.setPart { p with sigDue := false }

/-- An interval closes at a count of CYCLE: its record is written, behind a signature record that is due, unless the ring is full, when its counts
stay for the next (R477). -/
def State.closeInterval (s : State) (part cyc1 : Nat) : State :=
  let s := if (s.part part).sigDue then s.writeSignature part else s
  let s := (s.sampleLines part cyc1).countResident part cyc1
  let p := s.part part
  let s := s.setPart { p with usage := { p.usage with closed := cyc1 / intervalLen } }
  if !p.logRoom then s
  else
    let s := s.writeLog part (usageEntry p cyc1)
    let p := s.part part
    s.setPart { p with usage := { cyc0 := cyc1, closed := cyc1 / intervalLen, sampled := p.usage.sampled },
                       sinceSig := (p.sinceSig + 1) % 64, sigDue := p.sigDue || p.sinceSig + 1 == 64 }

/-- R477, R478. The interval that has ended first closes, at its own end. -/
def execUsageIntervalClose (part : Nat) (s : State) : Out :=
  let p := s.part part
  .next (if !p.active then s
    else if p.usage.closed < s.cycle / intervalLen then s.closeInterval part ((p.usage.closed + 1) * intervalLen)
    else s.sampleLines part s.cycle)

/-- R477, R479. -/
def execSignatureRecordWrite (part : Nat) (s : State) : Out :=
  .next (if (s.part part).active && (s.part part).sigDue then s.writeSignature part else s)

/-- R477. -/
def execLogsign (part : Nat) (s : State) : Out :=
  let p := s.part part
  .next (if p.active then s.setPart { p with sigDue := true } else s)

/-- R244, R477. -/
def execLoghead (part : Nat) (v : BitVec 64) (s : State) : Out :=
  let p := s.part part
  .next (if p.active then s.setPart { p with loghead := max p.loghead v.toNat } else s)

/-! ### The part of a module in a switch (R495, R496) -/

/-- The part a module plays once it has saved for a tick, and when every *saved* has come (R495, R496). -/
def State.startIncoming (s : State) (g : SwitchGroup) (t : Nat) : State :=
  let s := { s with slot := g.slot, slotAt := s.cycle }
  let s := g.clusters.foldl (fun s cl =>
    let h := s.holderFor g.slot cl
    (s.updCluster cl fun c => { c with holder := h, borrower := none, lendable := false, idleSince := s.cycle }).emptyPurses cl) s
  let len := s.slotLen - ((g.short.find? fun x => x.1 == g.inp).map Prod.snd).getD 0
  let lead := g.leader == s.modnum
  let rec_ := t % 2 ^ 64 * 2 ^ 448 + s.cycle % 2 ^ 64 * 2 ^ 384 + g.late % 2 ^ 11 * 2 ^ 373 + g.outp % 64 * 2 ^ 367 + g.inp % 64 * 2 ^ 361 +
    g.forced.length % 2 ^ 11 * 2 ^ 350
  let g' : SwitchGroup :=
    { g with tick := none, selfSaved := false, saved := [], forced := [], clusters := [],
             nextTick := s.cycle + len,
             short := (g.short.filter fun x => x.1 != g.inp && x.1 != g.outp) ++ [(g.outp, s.cycle - t)] }
  { s with group := some g', overruns := if lead ∧ g.forced ≠ [] then s.overruns ++ [rec_] else s.overruns }

/-- A member that has saved itself and holds *saved* from every other starts the incoming partition (R495). -/
def State.tryIncoming (s : State) : State :=
  match s.group with
  | some g =>
    match g.tick with
    | some t => if g.selfSaved && g.members.all (fun m => m == s.modnum || g.saved.contains m) then s.startIncoming g t else s
    | none => s
  | none => s

/-- With the last of its switched gangs saved, or ended, a member sends *saved* (R495). -/
def State.checkSwitch (s : State) : State :=
  match s.group with
  | some g =>
    if g.tick.isSome && !g.selfSaved && !(s.allGangs.any fun x => (x.save.map SaveReq.switch).getD false) then
      let forced := g.forced.contains s.modnum
      ((({ s with group := some { g with selfSaved := true, late := g.members.idxOf s.modnum } } : State).report (.savedSent forced)).tryIncoming)
    else s
  | none => s

/-! ### Deactivation (R413, R470, R480, R482, R533) -/

/-- A partition ends: its log closes with a usage and a signature record, its gangs end without retiring, its queues are disabled, its
tables, fields, faults and work are gone, its clusters are held by no one, and its key is erased. -/
def State.endOne (s : State) (part : Nat) : State :=
  let s := (s.closeInterval part s.cycle).writeSignature part
  let s := (s.allGangs.filter fun g => g.part == part).foldl State.removeGang s
  let s := (s.queues.filter fun x => x.part == part && x.enabled).foldl (fun s x => s.disableQueue x.q) s
  let p := s.part part
  let free (c : Cluster) : Bool := c.owner == some part
  let s := ((List.range 16).filter fun c => free (s.cluster c)).foldl (fun s c => s.emptyPurses c) s
  let drop (o : Option Nat) : Option Nat := if o = some part then none else o
  let ended (d : DrainScope) : Bool := match d with
    | .partition p => p == part
    | .queue q => (s.queue q).part == part
    | .clusters _ => false
  State.loseKey { s with saved := s.saved.filter (fun v => v.gang.part != part), works := s.works.filter (fun x => x.part != part),
                           queues := s.queues.map (fun x => if x.part = part then { x with cards := [], posts := [] } else x),
                           clusters := s.clusters.map (fun c => { c with holder := drop c.holder, borrower := drop c.borrower }),
                           drains := s.drains.filter (fun d => !ended d.scope), keys := s.keys.filter (fun k => k.1 != p.keys),
                           parts := upsert Partition.id { id := part, vtime := p.vtime, shapeMax := p.shapeMax } s.parts } p.keys

/-- A partition ends, its children before it: a child's parent is an active partition (R462, R464; log 73). Its clusters pass to those that hold them
in the present slot (R465). -/
def State.endPartition (s : State) (part : Nat) : State :=
  ((((s.childrenOf part).map Partition.id).foldl State.endOne s).endOne part).fillHolders.checkSwitch

/-- R480. -/
def execPartitionDeactivate (part : Nat) (s : State) : Out :=
  .next (if (s.part part).active ∧ part ≠ 63 then (s.endPartition part).tryPending.report .ok else s)

/-- R533. -/
def execVfFlr (vf : Nat) (s : State) : Out :=
  .next (if 1 ≤ vf ∧ (s.part (vf - 1)).active ∧ vf ≤ 63 then (s.endPartition (vf - 1)).tryPending else s)

end Sys2Proof.Machine
end

