-- ==== Sys2Proof/Machine/Image.lean ====
section
/-!
DEFINITION. The bytes of a gang image: header, circles, pins, shares, replay entries, troupe images, path slot records, monitors and store
buffer entries (R486 to R491).
-/

namespace Sys2Proof.Machine

/-! ### Sections one after another, byte 0 lowest -/

/-- A section: its length in bytes and its bytes as a number. -/
structure Chunk where
  len : Nat
  val : Nat
  deriving DecidableEq, Repr

/-- Sections joined in order. -/
def joinChunks : List Chunk → Chunk
  | [] => ⟨0, 0⟩
  | c :: r =>
    let t := joinChunks r
    ⟨c.len + t.len, c.val % 2 ^ (8 * c.len) + 2 ^ (8 * c.len) * t.val⟩

/-- A section padded to a multiple of 64 bytes. -/
def Chunk.pad (c : Chunk) : Chunk := { c with len := (c.len + 63) / 64 * 64 }

/-! ### Circles, pins, shares (R487) -/

def Circle.chunk (c : Circle) : Chunk :=
  ⟨160, c.member.toNat + c.arrived.toNat * 2 ^ 512 + if c.phase then 2 ^ 1024 else 0⟩

/-- The handle under which a partition's table names a region. -/
def Partition.handleFor (p : Partition) (region : Nat) : Nat :=
  match (p.regions.zipIdx).find? fun x => x.1.region == some region with
  | some (x, i) => handleOf i x.gen
  | none => 0

def Pin.chunk (p : Partition) (x : Pin) : Chunk :=
  ⟨128, p.handleFor x.region % 2 ^ 32 + x.cycle % 2 ^ 64 * 2 ^ 64 + (x.epochs.map fun e => e.2 % 2 ^ 48 * 2 ^ (128 + 48 * e.1)).sum⟩

/-! ### Slots and monitors (R489, R490) -/

/-- The coded state of a slot (R489). -/
def Slot.code (x : Slot) : Nat :=
  if !x.live then 6
  else if x.frozen then 5
  else
    match x.sleep with
    | none => 0
    | some (.waitc ..) => 1
    | some (.circle ..) | some (.arrive ..) => 2
    | some (.idle _) => 3
    | some (.waitb ..) => 4

/-- A path slot record (R490). -/
def Slot.chunk (x : Slot) : Chunk :=
  ⟨64, if !x.live then 0
    else
      2 ^ 298 + (attBit x.att.hint 3 + attBit x.att.limm 2 + attBit x.att.ord 1 + attBit x.att.pfx 0) * 2 ^ 294 + attNat x.att.hint * 2 ^ 269 +
        attNat x.att.limm * 2 ^ 244 + attNat x.att.ord * 2 ^ 219 + attNat x.att.pfx * 2 ^ 194 + x.nudge.toNat * 2 ^ 192 +
        x.frame.toNat * 2 ^ 160 + x.jpc.toNat * 2 ^ 112 + x.fmt.toNat * 2 ^ 80 + x.mask.toNat * 2 ^ 48 + x.pc.toNat⟩

/-- A scope's code after clipping (R324, R489, R491). -/
def clippedScope (clip : Bool) : OrdScope → Nat
  | .troupe => 0 | .gang => 1 | .device => 2
  | .system => if clip then 4 else 3

/-- A monitor (R489). -/
def Slot.monitor (x : Slot) (clip : Bool) : Chunk :=
  ⟨32, match x.sleep with
    | some (.waitc a v c sc _ entry _ _) =>
      a.toNat + v.toNat * 2 ^ 64 + c.toCode * 2 ^ 128 + clippedScope clip sc * 2 ^ 130 + if entry then 2 ^ 133 else 0
    | _ => 0⟩

/-! ### Store buffer entries (R486, R491) -/

/-- AOP of R491. -/
def AtomicOp.code : AtomicOp → Nat
  | .a o => 1 + AmoaOp.toCode o
  | .l o => 16 + AmolOp.toCode o
  | .sadd => 25 | .scas => 26 | .sswap => 27 | .smax => 28

/-- Operations that hold a compare value in the low half. -/
def AtomicOp.compares : AtomicOp → Bool
  | .l .cas32 | .l .cas64 | .scas => true
  | _ => false

def StoreEntry.chunk (e : StoreEntry) (clip : Bool) : Chunk :=
  let v := e.data % 2 ^ 64
  let data := if (e.aop.map AtomicOp.compares).getD false then e.cmp % 2 ^ 64 + v * 2 ^ 64 else v
  let order := match e.mode.order with
    | .relaxed => 0 | .acquire => 1 | .release => 2 | .acqRel => 3
  ⟨32, data * 2 ^ 128 + e.va.toNat % 2 ^ 48 * 2 ^ 80 + Nat.log2 e.size * 2 ^ 78 + e.lane % 32 * 2 ^ 73 + clippedScope clip e.mode.scope * 2 ^ 70 +
    order * 2 ^ 68 + e.mode.nd.toNat * 2 ^ 64 + ((e.aop.map AtomicOp.code).getD 0) * 2 ^ 59⟩

/-- UAS of a lane (R486): its entries not yet performed. -/
def Troupe.uas (t : Troupe) (lane : Nat) : Nat := (t.stream.filter fun e => e.lane == lane).length

/-! ### Troupe images (R489) -/

def Troupe.header (t : Troupe) (vregs : Nat) : Chunk :=
  ⟨64, t.batch.toNat * 2 ^ 448 + t.trapvec.toNat * 2 ^ 400 + t.rbnd.toNat * 2 ^ 392 + t.tilesz.toNat * 2 ^ 386 + t.psp.toNat * 2 ^ 354 +
    t.stream.length % 2 ^ 10 * 2 ^ 344 + (vregs / 16 - 1) % 8 * 2 ^ 341 + t.p.code * 2 ^ 338 + t.q.code * 2 ^ 335 +
    if t.park.isSome then 2 ^ 334 else 0⟩

def words64 (v : List (BitVec 64)) : Chunk := joinChunks (v.map fun x => ⟨8, x.toNat⟩)
def words32 (v : List (BitVec 32)) : Chunk := joinChunks (v.map fun x => ⟨4, x.toNat⟩)

def Troupe.image (t : Troupe) (vregs : Nat) (clip : Bool) : Chunk :=
  (joinChunks ([t.header vregs, words64 t.sreg.toList, t.p.chunk, t.q.chunk, t.p.monitor clip, t.q.monitor clip,
      words32 (t.kreg.toList.drop 1 ++ [0]), joinChunks ((List.range 32).map fun l => ⟨2, t.uas l⟩), words64 t.draw.toList] ++
    (t.vreg.toList.take vregs).map (fun v => words32 v.toList) ++ t.stream.map fun e => e.chunk clip)).pad

/-! ### The image (R487, R488) -/

/-- Replay entries of a gang's works, in issue order. -/
def State.gangEntries (s : State) (uid : Nat) : List Chunk :=
  ((s.works.filter fun x => x.gang == uid).map fun x =>
    (List.range (x.entries + x.saveEntries + x.reserve)).map fun k => (⟨64, (Config.replayRecord x.uid k x.troupe x.batch.toNat).toNat⟩ : Chunk)).flatten

def Gang.header (g : Gang) (r : SaveReq) (cycle nrep : Nat) : Chunk :=
  ⟨64, cycle % 2 ^ 64 * 2 ^ 448 + g.gclk.toNat * 2 ^ 416 + g.ret % 2 ^ 9 * 2 ^ 407 + (g.nC - 1) % 8 * 2 ^ 404 + (g.nT - 1) % 64 * 2 ^ 398 +
    g.pins.length % 16 * 2 ^ 394 + nrep % 2 ^ 17 * 2 ^ 377 + (if r.forced then 2 ^ 376 else 0) + (if r.recl then 2 ^ 375 else 0) +
    g.part % 64 * 2 ^ 369 + g.gidx.toNat * 2 ^ 337 + g.q % 1024 * 2 ^ 327⟩

/-- The image of a gang as it is saved, its troupes in TROUPE order. -/
def State.imageOf (s : State) (g : Gang) (r : SaveReq) : Chunk :=
  let p := s.part g.part
  let clip := p.clip && !g.sys
  let reps := s.gangEntries g.uid
  let ts := sortBy (fun a b => decide (a.idx ≤ b.idx)) g.troupes
  joinChunks ([g.header r s.cycle reps.length] ++ g.circles.toList.map Circle.chunk ++
    (List.range 8).map (fun i => match g.pins[i]? with
      | some x => x.chunk p
      | none => ⟨128, 0⟩) ++
    (List.range g.nC).map (fun c => ⟨g.scru, readCells g.scratch (c * 2 ^ 20) g.scru⟩) ++
    (List.range g.nC).map (fun c => ⟨g.acsk, readCells g.acs (c * 2 ^ 18) g.acsk⟩) ++ reps ++ ts.map fun t => t.image g.vregs clip)

end Sys2Proof.Machine
end

