-- ==== Sys2Proof/Machine/Near.lean ====
section
/-!
DEFINITION. NEAR regions: MIGRATE, HOME and the end of a region; the sequencer watchdog (R507 to R517).
-/

namespace Sys2Proof.Machine

/-- The L1 actions of a save (R323): the core's dirty lines are written back, for the gang's stores may lie in a line that another gang has come to
own (log 101); the gang's untracked clean copies are invalidated. -/
def State.saveL1 (s : State) (core uid : Nat) : State :=
  let s := ((s.cache core).lines.filter fun l => l.dirty != 0).foldl (fun s l => s.writeBack core l) s
  let c := s.cache core
  s.setCache { c with lines := c.lines.filter fun l => l.owner != uid || l.tracked || l.dirty != 0 }

/-! ### MIGRATE and HOME (R507 to R509) -/

/-- Troupe contexts of the NMUs of a stack: 16 NMUs of 4. -/
def nmuContexts : Nat := 64

/-- Troupes in NEAR regions on a stack. -/
def State.nearOn (s : State) (h : Nat) : Nat :=
  ((s.allGangs.map fun g => (s.troupesOf g).filter fun t => t.nearAt == some h).flatten).length

/-- The state kept at home, from which a reset restarts the region at its first word (R508, R516). -/
def State.copyHome (s : State) : NearCopy :=
  { sreg := s.tr.sreg, vreg := s.tr.vreg, kreg := s.tr.kreg, slot := { s.cur with pc := s.pc + 4 }, tilesz := s.tr.tilesz, rbnd := s.tr.rbnd,
    trapvec := s.tr.trapvec, batch := s.tr.batch, ins := s.tr.ins }

/-- R507, R508. A refused MIGRATE retires and the troupe runs on at home. -/
def execMigrate (a : SReg) (s : State) : Out :=
  runForm (formA 0x69 0 0 a.toNat 0) s fun _ s =>
    let x := s.rS a
    if s.cur.near.isSome then .done s
    else
      match s.classify 0 x with
      | .invalid => .stop (addrFault x)
      | .scratch _ => .done s
      | .flat _ =>
        match s.place none 0 x .read with
        | .error e => .stop e
        | .ok (.phys pa mt, s) =>
          let h := paStack pa
          if 32 < s.gg.vregs || s.sibling.live || s.tr.psp != 0 || decide (2 ^ 48 ≤ x.toNat) || !s.homed pa || mt != 0 || decide (nmuContexts ≤ s.nearOn h)
          then .done s
          else
            let s := (s.releaseFor .device false).saveL1 s.req.core s.gg.uid
            let s := { s with tr := { s.tr with nearCopy := some s.copyHome, nearStack := [] } }
            .done (s.setCur { s.cur with near := some h })
        | .ok (_, s) => .done s

/-- R507, R509. A mask-stack write that misses a page parks the troupe, and HOME executes again. -/
def execHome (s : State) : Out :=
  runForm (formA 0x69 1 0 0 0) s fun _ s =>
    if s.cur.near.isNone then .done s
    else if s.endNear.tr.nearCopy.isNone then .done s.endNear else .wait State.endNear

/-! ### The end of a region by other causes (R511, R512) -/

/-- Whether a word's encoding is one of R511. -/
def wordNear (w : BitVec 32) : Bool := inNearSubset ⟨w.toNat / 2 ^ 25, bitsOf w.toNat 24 21, w, true, [], false, false, false⟩

/-- R511, R512. A region ends when its gang is being saved, when its next word cannot be fetched, or when that word lies outside R511. -/
def execNearRegionEnd (p : PathId) (s : State) : Out :=
  .next (s.onPath p fun s =>
    if !s.cur.live || s.cur.near.isNone then s
    else if s.gg.save.isSome then s.endNear
    else
      match s.fetch with
      -- the page of the word is walked when the path comes to it (R454)
      | .error (.walk ..) => s
      | .error _ => s.endNear
      | .ok (w, _) => if wordNear w then s else s.endNear)

/-! ### The sequencer watchdog (R516, R517) -/

/-- A region restarts at home from the copy kept at MIGRATE (R516); stores of before it are no part of the region. -/
def Troupe.restart (t : Troupe) (c : NearCopy) : Troupe :=
  let inP := t.p.live
  { t with sreg := c.sreg, vreg := c.vreg, kreg := c.kreg, p := if inP then c.slot else {}, q := if inP then {} else c.slot,
           tilesz := c.tilesz, rbnd := c.rbnd, trapvec := c.trapvec, batch := c.batch, psp := 0, stream := t.stream.filter fun e => decide (e.ins < c.ins), early := [], nearCopy := none, nearStack := [],
           park := none }

/-- Every troupe of the stack's NMUs restarts. -/
def State.restartNear (s : State) (h : Nat) : State :=
  (s.allTroupes fun _ => true).foldl (fun s p => s.onPath p fun s =>
    match s.tr.nearCopy with
    | some c => if s.tr.nearAt = some h then { s with tr := s.tr.restart c } else s
    | none => s) s

/-- The unapplied units of a TCOPY whose field is released fail (R347, R516). -/
def State.failRest (s : State) (uid : Nat) : Nat → State
  | 0 => s
  | n + 1 =>
    let s := s.failRest uid n
    match s.work? uid with
    | some x =>
      match x.kind with
      | .copy c =>
        if c.isDone n then s
        else s.failElem x { c with waits := [] } n (s.spotVa x (if c.kind = .tin then s.srcSpot x c n else s.dstSpot x c n)) none
      | _ => s
    | none => s

/-- No slot of a field table. -/
def noField : Nat := 2 ^ 20

/-- Work that names a released field slot: jobs stop with WHY 8, transfers fail, a release is made, a conversion under way completes without
its field (R516). -/
def State.stopFieldWork (s : State) (part slot : Nat) : State :=
  s.works.foldl (fun s x =>
    if x.part ≠ part then s
    else
      match x.kind with
      | .job j => if j.field = slot ∧ !j.ended then s.endJob x { j with stops := [] } [(0, j.ix, 8)] else s
      | .copy c => if (c.kind = .tin ∨ c.kind = .tout) ∧ c.field = slot then s.failRest x.uid c.units else s
      | .conversion k => if k = slot then s.setWork { x with kind := .conversion noField } else s
      | .release k => if k = slot then s.finishWork x else s
      | _ => s) s

/-- A field's ways go back to cache mode, invalid; a handle still in use is stale (R516). -/
def State.loseField (s : State) (part slot : Nat) (f : FieldSlot) : State :=
  let drop (c : CacheInst) : CacheInst :=
    if 208 ≤ c.inst then { c with lines := c.lines.filter fun l => !f.parts.contains (c.inst - 208, l.way) } else c
  let s := s.stopFieldWork part slot
  ({ s with caches := s.caches.map drop }).updField part slot fun f =>
    { f.released with items := [], gen := if f.live then nextGen f.gen else f.gen, live := false }

/-- Every field with a part on a stack is released on all its stacks. -/
def State.loseFields (s : State) (h : Nat) : State :=
  s.parts.foldl (fun s p => (p.fields.zipIdx.filter fun f => f.1.held && f.1.parts.any fun q => q.1 == h).foldl (fun s f => s.loseField p.id f.2 f.1) s) s

/-- R516, R517. -/
def execSequencerWatchdogReset (stack : Nat) (s : State) : Out :=
  let p := s.pile stack
  .next (if 15 < stack ∨ p.resetting.isSome ∨ !s.sequencerBusy stack ∨ s.cycle < p.progress + 1900000 then s
    else ((((s.setPile { p with resetting := some s.cycle }).loseFields stack).restartNear stack).report (.sequencerReset stack)))

/-- R516, R530. The journal outlives the reset: what it records restarts from it. -/
def execSequencerResetComplete (stack : Nat) (s : State) : Out :=
  let p := s.pile stack
  .next (if p.resetting.isSome then (s.setPile { p with resetting := none, progress := s.cycle }).recoverJournal fun h => h == stack else s)

end Sys2Proof.Machine
end

