-- ==== Sys2Proof/Machine/Preempt.lean ====
section
/-!
DEFINITION. Pre-emption: slots, saves, forced saves, drains, resumption, lendable clusters and switch groups (R258, R323, R465, R468,
R481 to R496).
-/

namespace Sys2Proof.Machine

/-! ### Saves (R483 to R485) -/

/-- A tile pass of the work that has started and not ended (R404, R484). -/
def Work.passRunning (x : Work) : Bool :=
  match x.kind with
  | .layer l => l.passes.any fun p => p.started.isSome && p.out.isNone
  | _ => false

/-- Whether everything of a gang under way has landed or is recorded (R484). -/
def State.saveReady (s : State) (uid : Nat) : Bool :=
  (s.works.filter fun x => x.gang == uid).all fun x => !s.begins x && x.started.isEmpty && !x.passRunning

/-- A slot as it is saved: what its present attempt has waited for is not kept, and a WAITC reads anew (R454, R484, R492). -/
def Slot.asSaved (x : Slot) : Slot :=
  { x with walking := false, walked := [], waits := false, sleep := match x.sleep with
      | some (.waitc a v c sc acq e w _) => some (.waitc a v c sc acq e w none)
      | y => y }

/-- The scratchpad stores of a troupe perform, in order (R484); no load stands that has bound ahead of an instruction that has not issued. A troupe
whose mask-stack write has still to find its page is at home all the same (R512): the write is made before its next fetch (R509). -/
def State.settleTroupe (s : State) : State :=
  let s := s.drainWhere fun e => match e.loc with
    | .scratch _ => true
    | _ => false
  let s := if s.tr.nearAt.isNone then s
    else
      let s := s.nearDone
      { s with tr := { s.tr with nearCopy := none, p := { s.tr.p with near := none }, q := { s.tr.q with near := none } } }
  { s with tr := { s.tr with early := [], p := s.tr.p.asSaved, q := s.tr.q.asSaved } }

/-- What is left of a work becomes replay entries at a CYCLE (R379, R404, R484): a unit whose passes had not all landed is run again whole. -/
def Work.suspend (x : Work) (cycle : Nat) : Work :=
  match x.kind with
  | .layer l =>
    let open_ (row c : Nat) : Bool := l.passes.any fun p => p.row == row && p.c == c && p.out.isNone
    let ps := l.passes.map fun p => if open_ p.row p.c then { p with started := none, out := none } else p
    { x with replay := true, kind := .layer { l with passes := ps, heldAt := l.heldAt.or (some cycle) } }
  | .copy _ | .matrix _ => { x with replay := true }
  | _ => x

/-- What is left of a work at the end of a save is recorded; entries taken for what has landed in the meantime go back (R483, R484). -/
def State.suspendWork (s : State) (x : Work) : State :=
  let over_ := (x.saveEntries + x.reserve) - x.left
  let back := min x.saveEntries over_
  let y := { x with saveEntries := x.saveEntries - back, reserve := x.reserve - (over_ - back) }
  let s := if back = 0 then s else s.giveEntry .replay x.part back
  s.setWork (if x.left = 0 then y else y.suspend s.cycle)

/-- The save of a gang completes (R323, R483, R487). -/
def State.completeSave (s : State) (uid : Nat) (r : SaveReq) : State :=
  match s.gang? uid with
  | none => s
  | some g =>
    let s := ((s.troupesOf g).map fun t => (⟨uid, t.idx, .P⟩ : PathId)).foldl (fun s p => s.onPath p State.settleTroupe) s
    let s := (List.range g.nC).foldl (fun s k => s.saveL1 (8 * g.cluster + g.core0 + k) uid) s
    match s.gang? uid with
    | none => s
    | some g =>
      let s := (s.works.filter fun x => x.gang == uid).foldl State.suspendWork s
      let all := { g with save := none, troupes := s.troupesOf g }
      let v : SavedGang := { gang := all, image := (s.imageOf all r).val, forced := r.forced, recl := r.recl, cycle := s.cycle, cause := r.cause }
      let s := s.removeGang g
      ({ s with saved := s.saved ++ [v] }).checkSwitch

/-- R483, R484, R487. -/
def execSaveComplete (g : Nat) (s : State) : Out :=
  .next (match (s.gang? g).bind Gang.save with
    | some r => if s.saveReady g then s.completeSave g r else s
    | none => s)

/-- Entries of the reserve in use, and its size (R485). -/
def State.reserveUsed (s : State) : Nat := (s.works.map Work.reserve).sum
def reserveSize : Nat := 4096

/-- Items not begun become replay entries at once, from the pool or else from the reserve (R485). -/
def State.forceItems (s : State) (uid part : Nat) : Nat → State
  | 0 => s
  | n + 1 =>
    let ok := s.grants .replay part
    if !ok && decide (reserveSize ≤ s.reserveUsed) then s
    else
      let s := if ok then s.takeEntry .replay part 1 else s
      let s := { s with works := s.works.map fun (x : Work) =>
        if x.uid = uid then (if ok then { x with saveEntries := x.saveEntries + 1 } else { x with reserve := x.reserve + 1 }) else x }
      s.forceItems uid part n

/-- R485. -/
def execSaveForce (g : Nat) (s : State) : Out :=
  .next (match (s.gang? g).bind Gang.save with
    | some r =>
      if r.forced ∨ s.cycle < r.deadline then s
      else
        let s := (s.works.filter fun x => x.gang == g).foldl (fun s x => s.forceItems x.uid x.part (x.left - (x.saveEntries + x.reserve))) s
        let s := s.updGang g fun x => { x with save := some { r with forced := true } }
        match s.group with
        | some k => if r.switch ∧ !k.forced.contains s.modnum then { s with group := some { k with forced := k.forced ++ [s.modnum] } } else s
        | none => s
    | none => s)

/-! ### Slots (R465, R468, R481) -/

/-- A cluster's holder becomes that of a slot; the gangs of an outgoing partition are saved (R481), a borrower's loan ends (R468). -/
def State.changeHolder (s : State) (slot cl : Nat) : State :=
  let c := s.cluster cl
  let new := s.holderFor slot cl
  let s := if c.owner = new then s
    else
      let s := match c.owner with
        | some p => (s.gangsAt cl p).foldl (fun (s : State) (g : Gang) => s.askSave g.uid 20 { deadline := 0 }) s
        | none => s
      s.emptyPurses cl
  s.updCluster cl fun c => { c with holder := new, borrower := none, lendable := false, idleSince := if c.holder = new then c.idleSince else s.cycle }

/-- R465, R481. A module of a switch group starts its slots by ticks (R494). -/
def execSlotStart (s : State) : Out :=
  let n := s.cycle / s.slotLen
  .next (if s.group.isSome ∨ n * s.slotLen ≤ s.slotAt then s
    else
      let s := { s with slot := n % 16, slotAt := n * s.slotLen }
      (List.range 16).foldl (fun s cl => s.changeHolder (n % 16) cl) s)

/-- R465. -/
def execSetSlotLength (us : Nat) (s : State) : Out := .next (if us = 0 then s else { s with slotLen := 1900 * us })

/-- R468. -/
def execClusterLendable (cl : Nat) (s : State) : Out :=
  let c := s.cluster cl
  .next (match c.holder with
    | some p =>
      if cl < 16 ∧ (s.part p).lend ∧ c.borrower = none ∧ !(s.allGangs.any fun g => g.cluster == cl) ∧ !s.placeableOn p cl ∧
          !s.switching.contains cl ∧ c.idleSince + 190000 ≤ s.cycle then
        s.updCluster cl fun c => { c with lendable := true }
      else s
    | none => s)

/-! ### Drains (R481, R482) -/

/-- R482. A deadline outside 10 to 10,000 µs is taken as the default of 200. -/
def execDrain (scope : DrainScope) (deadline : Nat) (s : State) : Out :=
  let us := if 10 ≤ deadline ∧ deadline ≤ 10000 then deadline else 200
  let d : DrainRec := { scope := scope, deadline := s.cycle + 1900 * us }
  .next (if !s.mbx then s else ({ s with drains := (s.drains.filter fun (x : DrainRec) => x.scope != scope) ++ [d] }).settleDrains)

/-- Whether an escalated drain saves a gang of its scope (R482): one of system privilege only where the drain names partition 63 (R258). -/
def DrainScope.saves (d : DrainScope) (g : Gang) : Bool := DrainScope.covers d g && (!g.sys || d == .partition 63)

/-- R482. -/
def execDrainDeadline (scope : DrainScope) (s : State) : Out :=
  .next (match s.drains.find? fun d => d.scope == scope with
    | some d =>
      if d.done ∨ d.escalated ∨ s.cycle < d.deadline then s
      else
        let s := { s with drains := s.drains.map fun (x : DrainRec) => if x.scope = scope then { x with escalated := true, done := true } else x }
        (s.allGangs.filter fun g => DrainScope.saves scope g).foldl (fun (s : State) (g : Gang) => s.askSave g.uid 20 { deadline := 0, cause := some scope }) s
    | none => s)

/-- R482. -/
def execResume (scope : DrainScope) (s : State) : Out := .next (if !s.mbx then s else { s with drains := s.drains.filter fun d => d.scope != scope })

/-- R258, R483. Only system gangs are saved by command; a command that names another partition does nothing. -/
def execSaveCommand (part : Nat) (s : State) : Out :=
  .next (if s.mbx && part == 63 then (s.allGangs.filter Gang.sys).foldl (fun (s : State) g => s.askSave g.uid 20 { deadline := 0 }) s else s)

/-! ### Resumption (R323, R486, R492, R493) -/

/-- A saved gang on new cores: quadrants and slots anew, everything else as saved (R492). -/
def State.resumed (s : State) (v : SavedGang) (cl c0 : Nat) : Gang :=
  let g := v.gang
  let quads := s.quadsFor cl c0 g.nC g.nT
  let wake (x : Slot) : Slot := { x with readyAt := s.cycle, lastIssue := 0, overdue := false, yield := none }
  { g with cluster := cl, core0 := c0, save := none, since := s.cycle,
           troupes := g.troupes.map fun t => { t with quadrant := (quads.getD t.idx (0, 0)).1, qslot := (quads.getD t.idx (0, 0)).2, p := wake t.p, q := wake t.q } }

/-- R492, R493. The gang is what the ringmaster would place next. -/
def execGangResume (g : Nat) (s : State) : Out :=
  let s := s.refreshActive.reclaim
  .next (match s.nextPart with
    | some p =>
      match s.placeable p, s.saved.find? fun v => v.gang.uid == g with
      | some (.saved n, (cl, c0)), some v =>
        if n ≠ g then s
        else
          -- what the new cores hold clean may be older than the lanes' own writes (R323)
          let s := ((s.borrowFor p cl).acquireOn p cl c0 v.gang.nC).chargePlace p (v.gang.nC * v.gang.nT)
          let x := s.resumed v cl c0
          let core (t : Nat) : Nat := 8 * cl + c0 + t / x.nT
          let s := s.updCluster cl fun k => { k with lendable := false }
          let s := { s with gangs := s.gangs ++ [x], saved := s.saved.filter (fun v => v.gang.uid != g),
                            works := s.works.map fun (y : Work) => if y.gang = g then { y with core := core y.troupe } else y }
          (x.troupes.map fun t => (⟨g, t.idx, .P⟩ : PathId)).foldl State.wakeParked s
      | _, _ => s
    | none => s)

/-! ### Switch groups (R494 to R496) -/

/-- R494. 2 to 1,152 members, this module and the leader among them. -/
def execSwitchGroupBind (members : List Nat) (leader : Nat) (s : State) : Out :=
  let n := members.length
  .next (if !s.mbx then s else if 2 ≤ n ∧ n ≤ 1152 ∧ members.contains leader ∧ members.contains s.modnum ∧ members.Nodup then
      ({ s with group := some { members := members, leader := leader, nextTick := s.slotAt + s.slotLen } }).report .ok
    else s.report (.refused 0))

/-- The save of a tick begins (R481, R495): the clusters whose holder changes, their gangs saved within 50 µs. Members out of reach
count as having missed their deadlines (R522). -/
def State.beginTick (s : State) (g : SwitchGroup) (slot : Nat) : State :=
  let cls := (List.range 16).filter fun cl => decide ((s.cluster cl).owner ≠ s.holderFor slot cl)
  let owner (cl : Nat) := (s.cluster cl).owner
  let outp := (cls.findSome? owner).getD 63
  let inp := (cls.findSome? fun cl => s.holderFor slot cl).getD 63
  let mute := g.members.filter fun m => s.lost.contains m
  let join (l : List Nat) : List Nat := l ++ mute.filter fun m => !l.contains m
  let s := { s with group := some { g with tick := some s.cycle, selfSaved := false, saved := join g.saved, forced := join g.forced, clusters := cls, slot := slot, outp := outp, inp := inp } }
  let gs := (cls.map fun cl => match owner cl with
    | some p => s.gangsAt cl p
    | none => []).flatten
  (gs.foldl (fun s x => s.askSave x.uid 50 { deadline := 0, switch := true }) s).checkSwitch

/-- R494 to R496. The leader sends the tick and begins its own save. -/
def execSwitchTickSend (s : State) : Out :=
  .next (match s.group with
    | some g =>
      if g.leader = s.modnum ∧ g.tick = none ∧ g.nextTick ≤ s.cycle then
        let slot := (s.slot + 1) % 16
        (s.report (.tickSent slot)).beginTick g slot
      else s
    | none => s)

/-- R495. -/
def execSwitchTickReceive (slot : Nat) (s : State) : Out :=
  .next (match s.group with
    | some g => if g.leader ≠ s.modnum ∧ g.tick = none then s.beginTick g (slot % 16) else s
    | none => s)

/-- R495, R496. -/
def execSavedMessage (m : Nat) (forced : Bool) (s : State) : Out :=
  .next (match s.group with
    | some g =>
      if g.members.contains m ∧ m ≠ s.modnum then
        ({ s with group := some { g with saved := if g.saved.contains m then g.saved else g.saved ++ [m],
                                         forced := if forced ∧ !g.forced.contains m then g.forced ++ [m] else g.forced,
                                         late := g.members.idxOf m } }).tryIncoming
      else s
    | none => s)

end Sys2Proof.Machine
end

