-- ==== Sys2Proof/Machine/Fabric.lean ====
section
/-!
DEFINITION. The module's edges: BAR registers, host accesses through BAR2, fabric ports and routes, the module number (R518 to R524).
-/

namespace Sys2Proof.Machine

/-! ### Host functions (R523, R524) -/

/-- The enabled queue a queue page of a virtual function serves (R469). -/
def State.pageQueue (s : State) (part page : Nat) : Option Nat := (s.queues.find? fun x => x.enabled && x.part == part && x.page == page).map Queue.q

/-- Doorbells of a virtual function at BAR0 offset 0x4_0000 (R523), and its window register at 0x4_0100: a base that is no multiple of 64 GiB
is ignored. -/
def State.doorbell (s : State) (vf off : Nat) (v : BitVec 64) : Out :=
  let p := vf - 1
  match off with
  | 0x40000 => execFrhead p v s
  | 0x40008 => execFrreplay p v s
  | 0x40010 => execFrfail p v s
  | 0x40018 => execLoghead p v s
  | 0x40020 => execLogsign p s
  | 0x40100 => .next (if v.toNat % 2 ^ 36 = 0 then { s with windows := upsert Prod.fst (vf, v.toNat) s.windows } else s)
  | _ => .next s

/-- Registers that hold what is written to them: the MSI-X table of every function, the mailbox's command area of function 0. -/
def heldOffset (vf off : Nat) : Bool :=
  (decide (0x50000 ≤ off) && decide (off < 0x50800)) || (vf == 0 && decide (0x70000 ≤ off) && decide (off < 0x71000))

/-- Vectors of a function that its MSI-X table no longer masks are raised, their pending bits cleared (R523; log 104). -/
def State.unmaskMsi (s : State) (vf : Nat) : State :=
  let out (x : Nat × Nat) : Bool := x.1 == vf && !s.msiMasked x.1 x.2
  { s with msi := s.msi ++ s.pba.filter out, pba := s.pba.filter fun x => !out x }

/-- R523, R525. An 8-byte write to BAR0 of a function (0 the PF). Offsets not listed, and a virtual function whose partition is not active,
ignore it. -/
def execRegisterWrite (vf off : Nat) (v : BitVec 64) (s : State) : Out :=
  if 63 < vf ∨ off % 8 ≠ 0 then .next s
  else if vf ≠ 0 ∧ !(s.part (vf - 1)).active then .next s
  else if heldOffset vf off then .next (State.unmaskMsi { s with bar := upsert Prod.fst (vf * 2 ^ 20 + off, v.toNat) s.bar } vf)
  -- the doorbell of the firmware mailbox (R443, R523)
  else if vf = 0 then .next (if off = 0x72000 then { s with ctl := { s.ctl with event := s.ctl.event ||| 2 } } else s)
  else if off < 0x40000 then
    match s.pageQueue (vf - 1) (off / 0x1000) with
    | some q => if off % 0x1000 = 0 then execTailDoorbell q v 8 s else if off % 0x1000 = 8 then execHeadRegisterWrite q v s else .next s
    | none => .next s
  else s.doorbell vf off v

/-- The physical addresses of bytes of a virtual function's window (R523, R524): none when one fails translation. -/
def State.windowPas (s : State) (vf off : Nat) (acc : AccKind) (n : Nat) : Option (List Nat) :=
  let base := ((s.windows.find? fun w => w.1 == vf).map Prod.snd).getD 0
  let p := s.part (vf - 1)
  if vf = 0 ∨ 63 < vf ∨ !p.active ∨ 2 ^ 36 < off + n then none
  else
    (List.range n).mapM fun i =>
      match (transPart s (s.entryAt none (vf - 1)) p.proot (base + off + i) acc).1 with
      | .inr l => some (l.at (base + off + i))
      | .inl _ => none

/-- The host's bytes written one after another at their home slices. -/
def State.hostWrite (s : State) : List Nat → List Byte → State
  | pa :: r, b :: bs => (s.writeHome none pa 1 b.toNat).hostWrite r bs
  | _, _ => s

/-- R524. A store to a doorbell page rings it (R244): one of more than 8 bytes is ignored and counted as a narrower one is (log 126). One to a lost
module is a machine check (R522). -/
def execHostBar2Write (vf off : Nat) (data : List (BitVec 8)) (s : State) : Out :=
  .next (match s.windowPas vf off .write data.length with
    | some pas =>
      match pas.head?.bind s.bellAt with
      | some q => s.tailBell q (.ofNat 64 (natOf data)) data.length
      | none =>
        match pas.find? s.away with
        | some pa => (s.machineCheck 128 (vf - 1) pa 9 false).report .unsupported
        | none => s.hostWrite pas data
    | none => s.report .unsupported)

/-- R448, R524. Data that cannot be read is a machine check, and the read is unsupported. -/
def execHostBar2Read (vf off len : Nat) (s : State) : Out :=
  .next (match s.windowPas vf off .read len with
    | some pas =>
      match pas.findSome? fun pa => (s.lineError 128 pa).map fun u => (pa, u) with
      | some (pa, u) => (s.machineCheck 128 (vf - 1) pa u false).report .unsupported
      | none => s.report (.data (natOf (pas.map fun pa => s.viewByte 0 pa)) len)
    | none => s.report .unsupported)

/-! ### The fabric (R519, R521, R522) -/

def State.port (s : State) (n : Nat) : Port := findD Port.port n { port := n } s.ports
def State.setPort (s : State) (p : Port) : State := { s with ports := upsert Port.port p s.ports }

/-- A write that another module's agents make to this module's memory arrives (R503, R519): it rings a doorbell page (R244), or it enters the views
from now on (log 103). -/
def State.arriving (s : State) (m pa : Nat) (data : List Byte) : State :=
  if m = s.modnum ∨ !s.domain.contains m ∨ !s.homed pa ∨ !s.paLegal pa then s
  else
    match s.bellAt pa with
    | some q => s.tailBell q (.ofNat 64 (natOf data)) data.length
    | none => s.remoteWrite m pa data.length (natOf data)

/-- R503, R521. A flit of 64 bytes whose check fails is sent again; a write that a good one carries arrives. What else a flit carries takes effect by
the step it stands for. -/
def execFlitReceive (port : Nat) (flit : List (BitVec 8)) (s : State) : Out :=
  let p := s.port port
  .next (if 35 < port ∨ !p.trained then s
    else if flit.length = 64 ∧ Config.flitOk flit then
      (match Config.flitWrite flit with
        | some (m, pa, data) => s.arriving m pa data
        | none => s).report (.flitAck true)
    else (s.setPort { p with retries := p.retries + 1 }).report (.flitAck false))

/-- R522. -/
def execPortFail (port : Nat) (s : State) : Out := .next (if port < 36 then s.setPort { s.port port with trained := false } else s)

/-- R521, R522, R525. Routes are offered again. -/
def execPortTrained (port : Nat) (s : State) : Out :=
  .next (if port < 36 then { (s.setPort { s.port port with trained := true }) with lost := [] } else s)

/-- A sleeping WAITC reads again now, whatever its monitor shows. -/
def State.recheckNow (s : State) : State :=
  match s.cur.sleep with
  | some (.waitc x v c sc acq entry w _) => (s.setCur { s.cur with sleep := some (.waitc x v c sc acq entry w none) }).recheck !entry
  | _ => s

/-- Sleeping paths read again, those with nothing to wait for but a module out of reach among them. -/
def State.recheckAll (s : State) : State :=
  (((s.allTroupes fun _ => true).map fun p => [p, { p with slot := SlotId.Q }]).flatten).foldl (fun s p => s.onPath p State.recheckNow) s

/-- R448, R496, R522. With no route to a module its accesses are uncorrectable errors with UNIT 9; a member of a switch group falls silent. -/
def execRouteLossTimeout (m : Nat) (s : State) : Out :=
  if m = s.modnum ∨ s.lost.contains m ∨ !s.domain.contains m then .next s
  else
    let s := { s with lost := s.lost ++ [m] }
    match s.group with
    | some g => if g.tick.isSome ∧ g.members.contains m ∧ !g.saved.contains m then execSavedMessage m true s.recheckAll else .next s.recheckAll
    | none => .next s.recheckAll

/-- R519. The module's own memory goes by its new number. -/
def execSetModnum (m : Nat) (s : State) : Out :=
  let own := s.mem.filter fun c => s.homed c.1
  let rest := s.mem.filter fun c => !s.homed c.1 && (paHost c.1 || paModule c.1 != m)
  .next (if m ≤ 1151 ∧ m ≠ s.modnum then
      { s with modnum := m, mem := own.foldl (fun l c => cellSet l (m * 2 ^ 40 + paOffset c.1) c.2) rest }
    else s)

end Sys2Proof.Machine
end

