-- ==== Sys2Proof/Machine/Boot.lean ====
section
/-!
DEFINITION. Boot, readiness, identity and attestation, array images and their load, power and heat (R98, R223, R382, R383, R525 to R532).
-/

namespace Sys2Proof.Machine

/-! ### Readiness (R525) -/

def bitIf (b : Bool) (k : Nat) : Nat := if b then 2 ^ k else 0

/-- READY as a function reads it: 0 the PF, p + 1 the function of partition p. -/
def State.ready (s : State) (vf : Nat) : Nat :=
  let act := if vf = 0 then decide (6 ≤ s.bootStep) else (s.part (vf - 1)).active
  ((List.range 16).map fun h => bitIf (s.pile h).up (48 + h) + bitIf (s.pile h).arr (32 + h) + bitIf (s.cluster h).ok (16 + h)).sum +
    s.bootStep % 16 * 2 ^ 12 + bitIf s.bootFail 11 + bitIf (9 ≤ s.bootStep) 8 + bitIf (s.ports.any Port.trained) 7 + bitIf act 6 +
    bitIf (if vf = 0 then decide (4 ≤ s.bootStep) else act) 5 + bitIf (if vf = 0 then decide (4 ≤ s.bootStep) else act) 4 + bitIf act 3 +
    bitIf (2 ≤ s.bootStep) 2 + bitIf (3 ≤ s.bootStep) 1 + bitIf act 0

/-! ### What the host reads in BAR0 (R523, R525) -/

/-- The 8 bytes at an offset of BAR0 of a function (R523): its MSI-X table, masked until it is written (log 104), and the pending bits; READY; the
mailbox's areas of function 0, a reply's bytes from the lowest; the window's base; of a queue page and of the doorbells at 0x4_0000 the counters they
stand for (log 128). Every other offset reads zero. -/
def State.barRead (s : State) (vf off : Nat) : Nat :=
  let held := ((s.bar.find? fun x => x.1 == vf * 2 ^ 20 + off).map Prod.snd)
  let p := s.part (vf - 1)
  if 63 < vf ∨ off % 8 ≠ 0 then 0
  else if 0x50000 ≤ off ∧ off < 0x50800 then held.getD (if off % 16 = 8 then 2 ^ 32 else 0)
  else if off = 0x51000 ∨ off = 0x51008 then ((List.range 64).map fun b => bitIf (s.pba.contains (vf, 8 * (off - 0x51000) + b)) b).sum
  else if off = 0x60000 then s.ready vf
  else if vf = 0 then
    if 0x70000 ≤ off ∧ off < 0x71000 then held.getD 0
    else if 0x71000 ≤ off ∧ off < 0x72000 then
      match s.mail.getLast? with
      | some (.bytes b) => natOf ((b.drop (off - 0x71000)).take 8)
      | _ => 0
    else 0
  else if off < 0x40000 then
    match s.pageQueue (vf - 1) (off / 0x1000) with
    | some q => if off % 0x1000 = 0 then (s.queue q).t % 2 ^ 64 else if off % 0x1000 = 8 then (s.queue q).h % 2 ^ 64 else 0
    | none => 0
  else
    match off with
    | 0x40000 => p.hf % 2 ^ 64
    | 0x40008 => p.replayed % 2 ^ 64
    | 0x40018 => p.loghead % 2 ^ 64
    | 0x40100 => ((s.windows.find? fun w => w.1 == vf).map Prod.snd).getD 0
    | _ => 0

/-! ### Power good and the boot's steps (R526, R529, R530) -/

/-! ### Tiles and spares (R389, R392, R529) -/

/-- Physical tiles of a stack that a region uses, in an epoch or another. -/
def Region.tilesOn (r : Region) (h : Nat) : List Nat :=
  (r.tiles.zipIdx.filterMap fun q => if r.homes.getD (q.2 % r.nt) 16 = h then some q.1 else none) ++
    r.moves.filterMap fun m => if r.homes.getD (m.1 % r.nt) 16 = h then some m.2.2 else none

/-- Names of records set aside: those of the regions of an image start below this. -/
def oldRegion : Nat := 2 ^ 40

/-- Spares of a stack that stood for tiles given up are free again. -/
def State.freeSpares (s : State) (freed : Nat → List Nat) : State :=
  { s with piles := s.piles.map fun (p : Stack) => { p with gone := p.gone.filter fun t => !(freed p.stack).contains t } }

/-- Records of regions that go, with their tiles and what the journals say of them. -/
def State.dropRecords (s : State) (out : Region → Bool) : State :=
  let left := s.regions.filter fun r => !out r
  let gone := s.regions.filter out
  let mine (e : JEntry) : Bool := gone.any fun r => r.id == e.region
  let freed (h : Nat) : List Nat :=
    ((gone.map fun r => r.tilesOn h).flatten ++ ((s.pile h).journal.filter fun e => mine e && !e.isLoad).map JEntry.tile).filter fun t =>
      !left.any fun r => (r.tilesOn h).contains t
  let s := s.freeSpares freed
  { s with regions := left, piles := s.piles.map fun (p : Stack) => { p with journal := p.journal.filter fun e => !mine e } }

/-- What survives without power (R392, R530): tiles, their mapping and refreshes due, spares used, the journal, activations over a life. The
count of refreshed tiles and the epochs run from a module reset (R389, R405). -/
def Region.kept (r : Region) : Region := { r with moves := [], refreshed := 0, aside := none, since := [] }
def Stack.kept (p : Stack) : Stack :=
  { stack := p.stack, gone := p.gone, jseq := p.jseq, journal := p.journal, rows := p.rows.map fun c => { row := c.row, life := c.life } }

/-- R526, R530. Power good resets the module and starts the boot: every field at its reset value but what survives without power, the
contents of other modules and the host, and the model's own names and choices. No epoch is held any more: records set aside and the old tiles of swaps
are free (R392). -/
def execPowerGood (s : State) : Out :=
  let s := s.dropRecords fun r => decide (oldRegion ≤ r.id)
  let s := s.freeSpares fun h => (s.regions.map fun r => (r.moves.filter fun m => r.homes.getD (m.1 % r.nt) 16 == h).map fun m => m.2.2).flatten
  .next { State.reset with
    agenda := s.agenda, sched := s.sched, freeCtr := s.freeCtr, nextUid := s.nextUid, keyDraws := s.keyDraws, attDraws := s.attDraws + 1, power := true,
    mem := s.mem.filter (fun c => !s.homed c.1), bad := [], regions := s.regions.map Region.kept, piles := s.piles.map Stack.kept, imgh := s.imgh }

/-- What a step of boot brings (R526). -/
def State.bootAction (s : State) : Nat → State
  | 1 => { s with fwh := Config.sha512 (Config.firmwareImage s.attDraws) }
  | 3 => (List.range 16).foldl (fun s h => s.setPile { s.pile h with up := true }) s
  | 4 => { s with keys := upsert Prod.fst (63, s.keyDraws) s.keys, keyDraws := s.keyDraws + 1 }
  | 5 => { s with clusters := .ofFn fun i : Fin 16 => { s.clusters.get i with ok := Config.selfTest i } }
  | 7 => s.recoverJournal fun _ => true
  | 8 => (List.range 16).foldl (fun s h => if (s.pile h).epoch = 0 then (s.publish h).fitTiles h else s) s
  | 9 => { s with attKey := s.attDraws }
  | _ => s

/-- Whether the step that is next can succeed (R526): the first checks the firmware image's signature against the fuses. -/
def State.bootable (s : State) : Bool :=
  s.bootStep != 0 || Config.verify Config.fuseHash (Config.firmwareImage s.attDraws) (Config.firmwareSig s.attDraws)

/-- R525, R526. -/
def execBootStepComplete (ok : Bool) (s : State) : Out :=
  .next (if s.bootFail ∨ 9 ≤ s.bootStep then s
    else if ok && s.bootable then ({ s with bootStep := s.bootStep + 1 }).bootAction (s.bootStep + 1)
    else { s with bootFail := true })

/-! ### Identity and attestation (R527, R528) -/

/-- R527. -/
def execCert (s : State) : Out := .next (if 9 ≤ s.bootStep then s.report (.bytes (Config.certificates s.attKey)) else s.report (.refused 0))

/-- The 512 bytes a report's signature covers (R528), byte 0 lowest. -/
def State.reportBody (s : State) (part : Nat) (nonce : BitVec 512) : Nat :=
  let pcbh := if part = 63 then 0 else (Config.sha512 (bytesOf 192 (s.part part).pcb)).toNat
  nonce.toNat * 2 ^ 3584 + s.fwh.toNat * 2 ^ 3072 + s.imgh.toNat * 2 ^ 2560 + pcbh * 2 ^ 2048 + Config.modId.toNat * 2 ^ 1984 +
    s.cycle % 2 ^ 64 * 2 ^ 1920 + (s.piles.map Stack.jseq).sum % 2 ^ 64 * 2 ^ 1856 + part % 64 * 2 ^ 1850

/-- R528. Reports are served once the attestation key is certified, of a partition that is active or of the module. -/
def execAttest (part : Nat) (nonce : BitVec 512) (s : State) : Out :=
  .next (if 9 ≤ s.bootStep ∧ (part = 63 ∨ (s.part part).active) then
      let body := s.reportBody part nonce
      s.report (.bytes (bytesOf 512 body ++ bytesOf 512 (natOf ((Config.sign s.attKey (bytesOf 512 body)).take 512))))
    else s.report (.refused 0))

/-! ### Array images (R98, R382, R529, R530) -/

/-- R529. -/
def execImageKeyRegister (hash : BitVec 512) (s : State) : Out := .next (if s.mbx then ({ s with imageKey := some hash }).report .ok else s)

/-- No level code −16, which is 0b10000, no scale that is zero or not finite (R98, R529). -/
def Region.loadable (r : Region) : Bool :=
  ((List.range (r.k * r.n)).all fun i => (r.levels >>> (5 * i)) % 32 != 16) &&
    (List.range (r.kb * r.n)).all fun i =>
      let v := (r.scales >>> (16 * i)) % 2 ^ 16
      v % 2 ^ 15 != 0 && v / 2 ^ 7 % 2 ^ 8 != 255

/-- Free tiles of a stack apart from the spares (R529). -/
def State.freeTiles (s : State) (h : Nat) : List Nat :=
  let used := (s.regions.map fun r => r.tilesOn h).flatten
  ((List.range (12 * tilesApart)).map fun x => x / tilesApart * tilesPerDie + x % tilesApart).filter fun t => !used.contains t

/-- Tiles taken from each stack's free ones, one for each home in turn: none when a stack has too few. -/
def takeTiles : List Nat → (Nat → List Nat) → Option (List Nat)
  | [], _ => some []
  | h :: r, f =>
    match f h with
    | [] => none
    | t :: ts => (takeTiles r fun x => if x = h then ts else f x).map fun l => t :: l

/-- Records that issued work runs on, or that pins map (R383, R389, R406, R409). -/
def State.neededRecords (s : State) : List Nat :=
  (s.works.map fun x => match x.kind with
    | .layer l => [l.reg0, l.reg1]
    | _ => []).flatten ++
    ((s.allGangs ++ s.saved.map SavedGang.gang).map fun g => (g.lapse s.cycle).pins.filterMap fun p =>
      (s.region? p.region).map fun r => (s.pinnedRecord p r s.regions.length).id).flatten

/-- A region that is to be loaded anew leaves its record, with its tiles and refreshes under way, to the work and the pins of before, under a name of
its own, which is answered (R383, R389, R409); records that nothing needs any more go. -/
def State.setAside (s : State) (id : Nat) : Option Nat × State :=
  let need := s.neededRecords
  let wanted (r : Region) : Bool := (s.chain r s.regions.length).any need.contains
  let s := s.dropRecords fun r => (decide (oldRegion ≤ r.id) || r.id == id) && !wanted r
  if (s.region? id).isNone then (none, s)
  else
    let new := oldRegion + s.nextUid
    let move (k : Nat) : Nat := if k = id then new else k
    (some new, ({ s with
      nextUid := s.nextUid + 1, regions := s.regions.map fun (x : Region) => if x.id = id then { x with id := new } else x,
      works := s.works.map fun (x : Work) => match x.kind with
        | .layer l => { x with kind := .layer { l with reg0 := move l.reg0, reg1 := move l.reg1 } }
        | _ => x,
      piles := s.piles.map fun (p : Stack) =>
        { p with journal := (p.journal.filter fun e => !(e.isLoad && e.region == id)).map fun (e : JEntry) => { e with region := move e.region } } } : State))

/-- A region of an image placed on its tiles, journal entries made for each (R530). -/
def State.placeRegion (s : State) (r : Region) : Option State :=
  let (old, s) := s.setAside r.id
  let s := (List.range 16).foldl State.freeOld s
  let homes := (List.range (r.kb * r.nt)).map fun i => r.homes.getD (i % r.nt) 16
  (takeTiles homes s.freeTiles).map fun ts =>
    let new : Region := { r with avail := false, tiles := ts, moves := [], due := [], refreshed := 0, aside := old, since := [] }
    let s := { s with regions := s.regions ++ [new] }
    r.stacks.foldl (fun s h =>
      let s := s.arouse h
      let p := s.pile h
      let entry (i : Nat) : JEntry :=
        { region := r.id, r := i / r.nt, c := i % r.nt, tile := ts.getD i 0, isLoad := true, hash := r.tileHash i }
      s.setPile { p with journal := p.journal ++ ((List.range (r.kb * r.nt)).filter fun i => homes.getD i 16 == h).map entry }) s

def State.placeRegions (s : State) : List Region → Option State
  | [] => some s
  | r :: rs => (s.placeRegion r).bind fun s => s.placeRegions rs

/-- R98, R383, R529, R530. A refused load programs nothing. -/
def execImgload (image : Nat) (s : State) : Out :=
  .next (match s.images.find? (fun i => i.id == image), s.imageKey with
    | some i, some k =>
      if s.mbx && Config.verify k i.bytes i.sig && i.regions.all Region.loadable then
        match s.placeRegions i.regions with
        | some t =>
          let ids := i.regions.map Region.id
          let before := (t.loads.map fun (l : Load) => { l with taken := l.taken ++ ids }).filter fun l => t.loadRegions l != []
          State.report ({ t with loads := before ++ [{ image := image, left := (i.regions.map Region.stacks).flatten.eraseDups }] } : State) .ok
        | none => s.report (.refused 0)
      else s.report (.refused 0)
    | _, _ => s.report (.refused 0))

/-- A region put into a free slot of a region table (R351, R382): the lowest (log 98). -/
def putRegion (id : Nat) : List RegionSlot → List RegionSlot
  | [] => [{ gen := 1, region := some id }]
  | x :: r => if x.region.isNone then { x with region := some id } :: r else x :: putRegion id r

/-- R382, R529. -/
def execRegion (region : Nat) (parts : List Nat) (s : State) : Out :=
  .next (if !s.mbx then s else if (s.region? region).isSome ∧ parts.all (fun p => (s.part p).active || p == 63) then
      (parts.foldl (fun s p => let x := s.part p; s.setPart { x with regions := putRegion region x.regions }) s).report .ok
    else s.report (.refused 0))

/-! ### Power and heat (R531, R532) -/

/-- The cluster whose set frequency is highest, the lowest of a tie. -/
def State.fastest (s : State) : Nat := (List.range 16).foldl (fun b c => if (s.cluster b).setMhz < (s.cluster c).setMhz then c else b) 0

/-- R443, R531. The sample is of the power outside the licence, in W; too much of it for too long is the power alert (log 97). -/
def execPowerSample (watts : Nat) (s : State) : Out :=
  .next (if watts ≤ 550 then { s with overSince := none }
    else
      match s.overSince with
      | none => { s with overSince := some s.cycle }
      | some t =>
        if t + 19000000 ≤ s.cycle then
          { s.updCluster s.fastest fun c => { c with setMhz := max 600 (c.setMhz - 25) } with ctl := { s.ctl with event := s.ctl.event ||| 8 } }
        else s)

/-- R443, R532. -/
def execThermalThrottle (sensor : Nat) (s : State) : Out :=
  .next { s with hot := if s.hot.contains sensor then s.hot else s.hot ++ [sensor], ctl := { s.ctl with event := s.ctl.event ||| 8 } }

/-- R532. Whether the sensors have cooled by 5 °C is the world's: a free value (log 2). -/
def execThrottleStep (s : State) : Out :=
  let s := if Config.freeNat s.freeCtr % 2 = 1 then { s with hot := [] } else s
  let due : State := { s with throttleAt := s.cycle + 19000000 }
  .next (if s.cycle < s.throttleAt then s
    else if s.hot ≠ [] then (if 1050 ≤ s.watts then due.setWatts (s.watts - 50) else if s.watts = 1000 then s else due.setWatts 1000)
    else if s.watts < s.wattsSet then due.setWatts (min s.wattsSet (s.watts + 50)) else s)

/-- The module stops without saving state (R530, R532). -/
def State.stop (s : State) : State := { s with power := false }

/-- R532. -/
def execThermalShutdown (sensor : Nat) (s : State) : Out := .next ({ s with hot := if s.hot.contains sensor then s.hot else s.hot ++ [sensor] }).stop

/-- R530. -/
def execPowerLoss (s : State) : Out := .next s.stop

end Sys2Proof.Machine
end

