-- ==== Sys2Proof/Machine/VectorFloat.lean ====
section
/-!
DEFINITION. Vector floating point: majors 0x20 to 0x23 (R167 to R176), and the dot products of major 0x2B (R189).
-/

namespace Sys2Proof.Machine

/-- A rounding FP32 form: one rounded element a lane, one drawn value under SR (R171, R173). -/
def roundV (i : Instr) (d : VReg) (g : RMode → Bound → State → Fin 32 → FVal) (s : State) : Out :=
  simple i s fun b s =>
    (s.writeLanes b d fun l => round32 (vmode b s) (s.rho l 0) (g (vmode b s) b s l)).drawFor b 1

/-- An FP32 form that does not round: it accepts an rm and draws nothing (R171, R174). -/
def plainV (i : Instr) (d : VReg) (g : Bound → State → Fin 32 → Word32) (s : State) : Out :=
  simple i s fun b s => s.writeLanes b d (g b s)

/-- Two packed parts, each by its own rounding (R175, R76): under SR part k takes bits [16k+15:16k] of the one drawn value. -/
def roundP (i : Instr) (f : Fmt) (d : VReg) (g : RMode → Bound → State → Fin 32 → Nat → FVal) (s : State) : Out :=
  simple i s fun b s =>
    let part (l : Fin 32) (k : Nat) : BitVec 16 := .ofNat 16 (f.round .plain (vmode b s) (s.rho l k) (g (vmode b s) b s l k))
    (s.writeLanes b d fun l => part l 1 ++ part l 0).drawFor b 2

/-- Part k of a packed 16-bit value. -/
def part16 (x : Word32) (k : Nat) : Nat := x.toNat / 2 ^ (16 * k) % 2 ^ 16

/-- Two packed parts by a code operation. -/
def codeP (i : Instr) (d : VReg) (g : State → Fin 32 → Nat → Nat) (s : State) : Out :=
  simple i s fun b s => s.writeLanes b d fun l => BitVec.ofNat 16 (g s l 1) ++ BitVec.ofNat 16 (g s l 0)

/-- R173. Round(x + y). -/
def execVaddF32 (d a b : VReg) (s : State) : Out :=
  roundV (.vaddF32 d a b) d (fun m _ s l => sumExact m [val32 (s.rV a l), val32 (s.rV b l)]) s
/-- R173. Round(x − y). -/
def execVsubF32 (d a b : VReg) (s : State) : Out :=
  roundV (.vsubF32 d a b) d (fun m _ s l => sumExact m [val32 (s.rV a l), (val32 (s.rV b l)).neg]) s
/-- R173. Round(x × y). -/
def execVmulF32 (d a b : VReg) (s : State) : Out :=
  roundV (.vmulF32 d a b) d (fun _ _ s l => (val32 (s.rV a l)).mul (val32 (s.rV b l))) s
/-- R173. Round(x × y + c), one rounding. -/
def execVfmaF32 (d a b : VReg) (s : State) : Out :=
  roundV (.vfmaF32 d a b) d (fun m t s l => sumExact m [(val32 (s.rV a l)).mul (val32 (s.rV b l)), val32 (s.third t d l)]) s
/-- R173. Round(x × y − c), one rounding. -/
def execVfmsF32 (d a b : VReg) (s : State) : Out :=
  roundV (.vfmsF32 d a b) d (fun m t s l => sumExact m [(val32 (s.rV a l)).mul (val32 (s.rV b l)), (val32 (s.third t d l)).neg]) s
/-- R173. Round(c − x × y), one rounding. -/
def execVfnmaF32 (d a b : VReg) (s : State) : Out :=
  roundV (.vfnmaF32 d a b) d (fun m t s l => sumExact m [val32 (s.third t d l), ((val32 (s.rV a l)).mul (val32 (s.rV b l))).neg]) s
/-- R173. The smaller by R85. -/
def execVminF32 (d a b : VReg) (s : State) : Out :=
  plainV (.vminF32 d a b) d (fun _ s l => .ofNat 32 (fp32.minCode (s.rV a l).toNat (s.rV b l).toNat)) s
/-- R173. The larger by R85. -/
def execVmaxF32 (d a b : VReg) (s : State) : Out :=
  plainV (.vmaxF32 d a b) d (fun _ s l => .ofNat 32 (fp32.largerCode (s.rV a l).toNat (s.rV b l).toNat)) s
/-- R173. The sign bit cleared. -/
def execVabsF32 (d a : VReg) (s : State) : Out := plainV (.vabsF32 d a) d (fun _ s l => .ofNat 32 (fp32.absCode (s.rV a l).toNat)) s
/-- R173. The sign bit inverted. -/
def execVnegF32 (d a : VReg) (s : State) : Out := plainV (.vnegF32 d a) d (fun _ s l => .ofNat 32 (fp32.negCode (s.rV a l).toNat)) s
/-- R173, R174. -/
def execVgetexpF32 (d a : VReg) (s : State) : Out := plainV (.vgetexpF32 d a) d (fun _ s l => getexp32 (s.rV a l)) s
/-- R173, R174. The bits unchanged. -/
def execVmovF32 (d a : VReg) (s : State) : Out := plainV (.vmovF32 d a) d (fun _ s l => s.rV a l) s
/-- R173, R174. x × 2^n, n being y as INT32. -/
def execVscaleF32 (d a b : VReg) (s : State) : Out :=
  simple (.vscaleF32 d a b) s fun t s =>
    (s.writeLanes t d fun l => scale32 (vmode t s) (s.rho l 0) (s.rV a l) (s.rV b l).toInt).drawFor t 1
/-- R173, R174. x rounded to an integral value in the mode. -/
def execVrndF32 (d a : VReg) (s : State) : Out :=
  simple (.vrndF32 d a) s fun t s => (s.writeLanes t d fun l => rnd32 (vmode t s) (s.rho l 0) (s.rV a l)).drawFor t 1
/-- R173, R174. The smaller of c and the larger of x and y. -/
def execVclampF32 (d a b : VReg) (s : State) : Out :=
  plainV (.vclampF32 d a b) d (fun t s l => clamp32 (s.rV a l) (s.rV b l) (s.third t d l)) s
/-- R175. Each part: Round(x + y). -/
def execVaddF16x2 (d a b : VReg) (s : State) : Out :=
  roundP (.vaddF16x2 d a b) fp16 d (fun m _ s l k => sumExact m [fp16.unpack (part16 (s.rV a l) k), fp16.unpack (part16 (s.rV b l) k)]) s
/-- R175. Each part: Round(x − y). -/
def execVsubF16x2 (d a b : VReg) (s : State) : Out :=
  roundP (.vsubF16x2 d a b) fp16 d (fun m _ s l k => sumExact m [fp16.unpack (part16 (s.rV a l) k), (fp16.unpack (part16 (s.rV b l) k)).neg]) s
/-- R175. Each part: Round(x × y). -/
def execVmulF16x2 (d a b : VReg) (s : State) : Out :=
  roundP (.vmulF16x2 d a b) fp16 d (fun _ _ s l k => (fp16.unpack (part16 (s.rV a l) k)).mul (fp16.unpack (part16 (s.rV b l) k))) s
/-- R175. Each part: Round(x × y + c). -/
def execVfmaF16x2 (d a b : VReg) (s : State) : Out :=
  roundP (.vfmaF16x2 d a b) fp16 d (fun m t s l k => sumExact m [(fp16.unpack (part16 (s.rV a l) k)).mul (fp16.unpack (part16 (s.rV b l) k)), fp16.unpack (part16 (s.third t d l) k)]) s
/-- R175. Each part: Round(x × y − c). -/
def execVfmsF16x2 (d a b : VReg) (s : State) : Out :=
  roundP (.vfmsF16x2 d a b) fp16 d (fun m t s l k => sumExact m [(fp16.unpack (part16 (s.rV a l) k)).mul (fp16.unpack (part16 (s.rV b l) k)), (fp16.unpack (part16 (s.third t d l) k)).neg]) s
/-- R175. Each part: Round(c − x × y). -/
def execVfnmaF16x2 (d a b : VReg) (s : State) : Out :=
  roundP (.vfnmaF16x2 d a b) fp16 d (fun m t s l k => sumExact m [fp16.unpack (part16 (s.third t d l) k), ((fp16.unpack (part16 (s.rV a l) k)).mul (fp16.unpack (part16 (s.rV b l) k))).neg]) s
/-- R175, R85. Each part. -/
def execVminF16x2 (d a b : VReg) (s : State) : Out :=
  codeP (.vminF16x2 d a b) d (fun s l k => fp16.minCode (part16 (s.rV a l) k) (part16 (s.rV b l) k)) s
/-- R175, R85. Each part. -/
def execVmaxF16x2 (d a b : VReg) (s : State) : Out :=
  codeP (.vmaxF16x2 d a b) d (fun s l k => fp16.largerCode (part16 (s.rV a l) k) (part16 (s.rV b l) k)) s
/-- R175. Each part. -/
def execVabsF16x2 (d a : VReg) (s : State) : Out :=
  codeP (.vabsF16x2 d a) d (fun s l k => fp16.absCode (part16 (s.rV a l) k)) s
/-- R175. Each part. -/
def execVnegF16x2 (d a : VReg) (s : State) : Out :=
  codeP (.vnegF16x2 d a) d (fun s l k => fp16.negCode (part16 (s.rV a l) k)) s
/-- R175. Each part: Round(x + y). -/
def execVaddBf16x2 (d a b : VReg) (s : State) : Out :=
  roundP (.vaddBf16x2 d a b) bf16 d (fun m _ s l k => sumExact m [bf16.unpack (part16 (s.rV a l) k), bf16.unpack (part16 (s.rV b l) k)]) s
/-- R175. Each part: Round(x − y). -/
def execVsubBf16x2 (d a b : VReg) (s : State) : Out :=
  roundP (.vsubBf16x2 d a b) bf16 d (fun m _ s l k => sumExact m [bf16.unpack (part16 (s.rV a l) k), (bf16.unpack (part16 (s.rV b l) k)).neg]) s
/-- R175. Each part: Round(x × y). -/
def execVmulBf16x2 (d a b : VReg) (s : State) : Out :=
  roundP (.vmulBf16x2 d a b) bf16 d (fun _ _ s l k => (bf16.unpack (part16 (s.rV a l) k)).mul (bf16.unpack (part16 (s.rV b l) k))) s
/-- R175. Each part: Round(x × y + c). -/
def execVfmaBf16x2 (d a b : VReg) (s : State) : Out :=
  roundP (.vfmaBf16x2 d a b) bf16 d (fun m t s l k => sumExact m [(bf16.unpack (part16 (s.rV a l) k)).mul (bf16.unpack (part16 (s.rV b l) k)), bf16.unpack (part16 (s.third t d l) k)]) s
/-- R175. Each part: Round(x × y − c). -/
def execVfmsBf16x2 (d a b : VReg) (s : State) : Out :=
  roundP (.vfmsBf16x2 d a b) bf16 d (fun m t s l k => sumExact m [(bf16.unpack (part16 (s.rV a l) k)).mul (bf16.unpack (part16 (s.rV b l) k)), (bf16.unpack (part16 (s.third t d l) k)).neg]) s
/-- R175. Each part: Round(c − x × y). -/
def execVfnmaBf16x2 (d a b : VReg) (s : State) : Out :=
  roundP (.vfnmaBf16x2 d a b) bf16 d (fun m t s l k => sumExact m [bf16.unpack (part16 (s.third t d l) k), ((bf16.unpack (part16 (s.rV a l) k)).mul (bf16.unpack (part16 (s.rV b l) k))).neg]) s
/-- R175, R85. Each part. -/
def execVminBf16x2 (d a b : VReg) (s : State) : Out :=
  codeP (.vminBf16x2 d a b) d (fun s l k => bf16.minCode (part16 (s.rV a l) k) (part16 (s.rV b l) k)) s
/-- R175, R85. Each part. -/
def execVmaxBf16x2 (d a b : VReg) (s : State) : Out :=
  codeP (.vmaxBf16x2 d a b) d (fun s l k => bf16.largerCode (part16 (s.rV a l) k) (part16 (s.rV b l) k)) s
/-- R175. Each part. -/
def execVabsBf16x2 (d a : VReg) (s : State) : Out :=
  codeP (.vabsBf16x2 d a) d (fun s l k => bf16.absCode (part16 (s.rV a l) k)) s
/-- R175. Each part. -/
def execVnegBf16x2 (d a : VReg) (s : State) : Out :=
  codeP (.vnegBf16x2 d a) d (fun s l k => bf16.negCode (part16 (s.rV a l) k)) s

/-- The conditions of R176. -/
def fcond (c : FCond) (x y : FVal) : Bool :=
  match x.cmp y, c with
  | none, .ne | none, .un => true
  | none, _ => false
  | some o, .eq => o == .eq
  | some o, .ne => o != .eq
  | some o, .lt => o == .lt
  | some o, .le => o != .gt
  | some o, .gt => o == .gt
  | some o, .ge => o != .lt
  | some _, .un => false
  | some _, .or => true

/-- R176. -/
def execVcmpf (c : FCond) (d : KReg) (a b : VReg) (s : State) : Out :=
  simple (.vcmpf c d a b) s fun t s => s.writeMask t d fun l => fcond c (val32 (s.rV a l)) (val32 (s.rV b l))

/-- Byte k of a lane value. -/
def byte8 (x : Word32) (k : Nat) : BitVec 8 := .ofNat 8 (x.toNat / 2 ^ (8 * k))

/-- R189. c plus four signed 8-bit products, modulo 2^32. -/
def execVdot4i (d a b : VReg) (s : State) : Out :=
  plainV (.vdot4i d a b) d (fun t s l =>
    [0, 1, 2, 3].foldl (fun acc k => acc + .ofInt 32 ((byte8 (s.rV a l) k).toInt * (byte8 (s.rV b l) k).toInt)) (s.third t d l)) s
/-- R189. c plus four natural 8-bit products, modulo 2^32. -/
def execVdot4n (d a b : VReg) (s : State) : Out :=
  plainV (.vdot4n d a b) d (fun t s l =>
    [0, 1, 2, 3].foldl (fun acc k => acc + .ofNat 32 ((byte8 (s.rV a l) k).toNat * (byte8 (s.rV b l) k).toNat)) (s.third t d l)) s

/-- The terms of a float dot product (R189): the accumulator and the two exact products. -/
def dot2 (f : Fmt) (x y c : Word32) : List FVal :=
  [val32 c, (f.unpack (part16 x 0)).mul (f.unpack (part16 y 0)), (f.unpack (part16 x 1)).mul (f.unpack (part16 y 1))]
/-- R189. Parts BF16, accumulator FP32, one rounding. -/
def execVdot2bf (d a b : VReg) (s : State) : Out :=
  roundV (.vdot2bf d a b) d (fun m t s l => sumExact m (dot2 bf16 (s.rV a l) (s.rV b l) (s.third t d l))) s
/-- R189. Parts FP16, accumulator FP32, one rounding. -/
def execVdot2h (d a b : VReg) (s : State) : Out :=
  roundV (.vdot2h d a b) d (fun m t s l => sumExact m (dot2 fp16 (s.rV a l) (s.rV b l) (s.third t d l))) s

end Sys2Proof.Machine
end

