-- ==== Sys2Proof/Machine/CrossLane.lean ====
section
/-!
DEFINITION. Cross-lane instructions, formats and tiles: majors 0x40 to 0x44, 0x4A, 0x4B (R195 to R205, R220).
-/

namespace Sys2Proof.Machine

/-- Lanes per tile (R153). -/
def State.tile (s : State) : Nat := s.tr.tilesz.toNat
/-- The first lane of a lane's tile (R196). -/
def State.base (s : State) (l : Fin 32) : Nat := s.tile * (l.val / s.tile)

/-- The kinds of VSHFL (R199). -/
inductive Shuffle where
  | idx | up | down | xor | bcast
  deriving DecidableEq, Repr

/-- The lane a shuffle reads (R199); every choice lies in the lane's tile. -/
def State.shuffleLane (s : State) (k : Shuffle) (l : Fin 32) (n : Nat) : Fin 32 :=
  match k with
  | .idx | .bcast => Fin.ofNat 32 (s.base l + n % s.tile)
  | .up => if l.val < s.base l + n then l else Fin.ofNat 32 (l.val - n)
  | .down => if s.base l + s.tile - 1 < l.val + n then l else Fin.ofNat 32 (l.val + n)
  | .xor => Fin.ofNat 32 (Nat.xor l.val (n % s.tile))

/-- A shuffle: the stored contents of the named lane, active or not (R196, R199). -/
def shuffle (i : Instr) (k : Shuffle) (d a : VReg) (n : State → Fin 32 → Nat) (s : State) : Out :=
  simple i s fun b s => s.writeLanes b d fun l => s.rV a (s.shuffleLane k l (n s l))

/-- R198, R199. -/
def execVshflIdx (d a b : VReg) (s : State) : Out := shuffle (.vshflIdx d a b) .idx d a (fun s l => (s.rV b l).toNat) s
/-- R198, R199. -/
def execVshflUp (d a : VReg) (b : SReg) (s : State) : Out := shuffle (.vshflUp d a b) .up d a (fun s _ => (s.rS b).toNat) s
/-- R198, R199. -/
def execVshflDown (d a : VReg) (b : SReg) (s : State) : Out := shuffle (.vshflDown d a b) .down d a (fun s _ => (s.rS b).toNat) s
/-- R198, R199. -/
def execVshflXor (d a : VReg) (b : SReg) (s : State) : Out := shuffle (.vshflXor d a b) .xor d a (fun s _ => (s.rS b).toNat) s
/-- R198, R199. -/
def execVshflBcast (d a : VReg) (b : SReg) (s : State) : Out := shuffle (.vshflBcast d a b) .bcast d a (fun s _ => (s.rS b).toNat) s
/-- R198, R199. -/
def execVshflUpImm (d a : VReg) (n : BitVec 5) (s : State) : Out := shuffle (.vshflUpImm d a n) .up d a (fun _ _ => n.toNat) s
/-- R198, R199. -/
def execVshflDownImm (d a : VReg) (n : BitVec 5) (s : State) : Out := shuffle (.vshflDownImm d a n) .down d a (fun _ _ => n.toNat) s
/-- R198, R199. -/
def execVshflXorImm (d a : VReg) (n : BitVec 5) (s : State) : Out := shuffle (.vshflXorImm d a n) .xor d a (fun _ _ => n.toNat) s
/-- R198, R199. -/
def execVshflBcastImm (d a : VReg) (n : BitVec 5) (s : State) : Out := shuffle (.vshflBcastImm d a n) .bcast d a (fun _ _ => n.toNat) s

/-- Two lanes of one tile (R153). -/
def State.sameTile (s : State) (i j : Fin 32) : Bool := s.base i == s.base j
/-- The active lanes of a lane's tile, ascending (R196). -/
def State.activeTile (s : State) (l : Fin 32) : List (Fin 32) := (lanesOf s.pmask).filter fun j => s.sameTile j l

/-- R200. Bit L of M whose tile holds a lane of q. -/
def execVany (d : SReg) (a : KReg) (s : State) : Out :=
  simple (.vany d a) s fun _ s =>
    s.wS d ((maskOf fun l => s.pmask.getLsbD l && (s.activeTile l).any fun j => (s.rK a).getLsbD j).setWidth 64)
/-- R200. Bit L of M whose tile has every lane of M in q. -/
def execVall (d : SReg) (a : KReg) (s : State) : Out :=
  simple (.vall d a) s fun _ s =>
    s.wS d ((maskOf fun l => s.pmask.getLsbD l && (s.activeTile l).all fun j => (s.rK a).getLsbD j).setWidth 64)
/-- R200. q = K[a] AND M. -/
def execVballot (d : SReg) (a : KReg) (s : State) : Out :=
  simple (.vballot d a) s fun _ s => s.wS d ((s.rK a &&& s.pmask).setWidth 64)
/-- R201. The first active lane of each distinct value in each tile. -/
def execVmatch (d : KReg) (a : VReg) (s : State) : Out :=
  simple (.vmatch d a) s fun _ s =>
    s.wK d s.pmask (maskOf fun l => !((s.activeTile l).any fun (j : Fin 32) => decide (j.val < l.val) && s.rV a j == s.rV a l))

/-- A NaN that a float form passes through is canonical (R102, R202). -/
def redCanon (o : RedOp) (x : Word32) : Word32 :=
  match o with
  | .addF32 | .minF32 | .maxF32 => .ofNat 32 (fp32.canon x.toNat)
  | _ => x

/-- The combinations of R202. -/
def redOp (o : RedOp) (x y : Word32) : Word32 :=
  match o with
  | .addI32 => x + y
  | .addF32 => round32 .rne 0 (sumExact .rne [val32 x, val32 y])
  | .minI32 => mins x y
  | .maxI32 => maxs x y
  | .minN32 => minn x y
  | .maxN32 => maxn x y
  | .minF32 => .ofNat 32 (fp32.minCode x.toNat y.toNat)
  | .maxF32 => .ofNat 32 (fp32.largerCode x.toNat y.toNat)
  | .and => x &&& y
  | .or => x ||| y
  | .xor => x ^^^ y

/-- One level of the pairwise tree of R102: position i from positions 2i and 2i + 1, an absent operand passing the other through. -/
def redLevel (o : RedOp) : List (Option Word32) → List (Option Word32)
  | some x :: some y :: r => some (redOp o x y) :: redLevel o r
  | some x :: none :: r => some (redCanon o x) :: redLevel o r
  | none :: y :: r => y.map (redCanon o) :: redLevel o r
  | [some x] => [some (redCanon o x)]
  | [none] => [none]
  | [] => []

/-- The tree's root: five levels cover 32 lanes. -/
def redTree (o : RedOp) : Nat → List (Option Word32) → Word32
  | 0, l => match l with
    | some x :: _ => redCanon o x
    | _ => 0
  | n + 1, l => redTree o n (redLevel o l)

/-- The lanes of a lane's tile in order, those not active absent (R102, R203). -/
def State.tileValues (s : State) (a : VReg) (l : Fin 32) : List (Option Word32) :=
  ((List.finRange 32).filter fun j => s.sameTile j l).map fun (j : Fin 32) => if s.pmask.getLsbD j then some (s.rV a j) else none

/-- R202, R203, R102. Every active lane of a tile receives the tile's combination. -/
def execVred (o : RedOp) (d a : VReg) (s : State) : Out :=
  simple (.vred o d a) s fun b s => s.writeLanes b d fun l => redTree o 5 (s.tileValues a l)

/-- R202, R203, R102. The combination of the active lanes up to and including its own, in ascending order. -/
def execVscan (o : RedOp) (d a : VReg) (s : State) : Out :=
  simple (.vscan o d a) s fun b s =>
    s.writeLanes b d fun l =>
      match (s.activeTile l).filter (fun (j : Fin 32) => decide (j.val ≤ l.val)) with
      | [] => 0
      | (j : Fin 32) :: r => r.foldl (fun acc (k : Fin 32) => redOp o acc (s.rV a k)) (redCanon o (s.rV a j))

/-- Whether a list entry ranks ahead of a candidate (R204): a higher score, at equal scores a lower index, and at equal pairs the entry. A
NaN score is below every number; the candidate's is no NaN. -/
def ranksAhead (sc id x cid : Word32) : Bool :=
  match (val32 sc).cmp (val32 x) with
  | none => false
  | some .gt => true
  | some .lt => false
  | some .eq => decide (id.toNat ≤ cid.toNat)

/-- The place of a candidate in a lane's list (R205). -/
def State.topkPlace (s : State) (k : Nat) (d a b : VReg) (l : Fin 32) : Nat :=
  ((List.range k).filter fun i => ranksAhead (s.rV (VReg.plus d i) l) (s.rV (VReg.plus d (k + i)) l) (s.rV a l) (s.rV b l)).length

/-- What entry register `base + i` of a lane holds after the insertion (R205). -/
def State.topkEntry (s : State) (k : Nat) (d a b base new : VReg) (i : Nat) (l : Fin 32) : Word32 :=
  let p := s.topkPlace k d a b l
  if (val32 (s.rV a l)).isNan || k ≤ p || i < p then s.rV (VReg.plus base i) l
  else if i = p then s.rV new l
  else s.rV (VReg.plus base (i - 1)) l

/-- R204, R205. -/
def execVtopk (k : BitVec 4) (d a b : VReg) (s : State) : Out :=
  simple (.vtopk k d a b) s fun t s =>
    let n := k.toNat
    let dk := VReg.plus d n
    s.writeGroup t d (fun j l => if j < n then s.topkEntry n d a b d a j l else s.topkEntry n d a b dk b (j - n) l) (2 * n)

/-- A legal FMT value (R141, R142). -/
def legalFmt (v : Word64) : Bool :=
  decide (v.toNat < 2 ^ 18) && bitsOf v.toNat 5 3 == 0 && bitsOf v.toNat 17 16 != 3 && decide (bitsOf v.toNat 2 0 < 6) &&
    decide (bitsOf v.toNat 15 12 < 12) && decide (bitsOf v.toNat 11 8 < 12)

/-- R220. The zero-extended immediate to the issuing path's FMT; a value that is not legal traps ILLOP. -/
def execSetfmt (imm : BitVec 18) (s : State) : Out :=
  run (.setfmt imm) s fun b s =>
    let v := immZ b imm
    if legalFmt v then .done (s.setCur { s.cur with fmt := v.setWidth 32 }) else .stop illop

/-- R220. The immediate to TILESZ. -/
def execSettile (imm : BitVec 18) (s : State) : Out :=
  simple (.settile imm) s fun _ s => { s with tr := { s.tr with tilesz := imm.setWidth 6 } }

end Sys2Proof.Machine
end

