-- ==== Sys2Proof/Machine/MemScalar.lean ====
section
/-!
DEFINITION. Scalar loads and stores, majors 0x10 to 0x1A (R122 to R125).
-/

namespace Sys2Proof.Machine

/-- The effective address of R122. -/
def State.scalarAddr (s : State) (b : Bound) (sa : SReg) (imm : BitVec 8) (z : Nat) : Word64 := s.rS sa + immS b imm * .ofNat 64 z

/-- A scalar load (R122, R123): `ext` extends the value read to 64 bits (R27). -/
def scalarLoad (i : Instr) (z : Nat) (ext : Nat → Word64) (d sa : SReg) (nd : BitVec 4) (imm : BitVec 8) (s : State) : Out :=
  run i s fun b s =>
    s.load true z { b.ord with nd := nd } [(0, s.scalarAddr b sa imm z)] fun s vs => s.wS d (ext ((vs.map Prod.snd).headD 0))

/-- A scalar store (R122, R123). -/
def scalarStore (i : Instr) (z : Nat) (d sa : SReg) (nd : BitVec 4) (imm : BitVec 8) (s : State) : Out :=
  run i s fun b s => s.store true z { b.ord with nd := nd } [(0, s.scalarAddr b sa imm z)] fun _ => (s.rS d).toNat

def zext64 (n : Nat) : Word64 := .ofNat 64 n
def sext64 (w n : Nat) : Word64 := (BitVec.ofNat w n).signExtend 64

/-- R122. -/
def execLdb (d sa : SReg) (nd : BitVec 4) (imm : BitVec 8) (s : State) : Out := scalarLoad (.ldb d sa nd imm) 1 zext64 d sa nd imm s
/-- R122. -/
def execLdbs (d sa : SReg) (nd : BitVec 4) (imm : BitVec 8) (s : State) : Out := scalarLoad (.ldbs d sa nd imm) 1 (sext64 8) d sa nd imm s
/-- R122. -/
def execLdh (d sa : SReg) (nd : BitVec 4) (imm : BitVec 8) (s : State) : Out := scalarLoad (.ldh d sa nd imm) 2 zext64 d sa nd imm s
/-- R122. -/
def execLdhs (d sa : SReg) (nd : BitVec 4) (imm : BitVec 8) (s : State) : Out := scalarLoad (.ldhs d sa nd imm) 2 (sext64 16) d sa nd imm s
/-- R122. -/
def execLdw (d sa : SReg) (nd : BitVec 4) (imm : BitVec 8) (s : State) : Out := scalarLoad (.ldw d sa nd imm) 4 zext64 d sa nd imm s
/-- R122. -/
def execLdws (d sa : SReg) (nd : BitVec 4) (imm : BitVec 8) (s : State) : Out := scalarLoad (.ldws d sa nd imm) 4 (sext64 32) d sa nd imm s
/-- R122. -/
def execLdd (d sa : SReg) (nd : BitVec 4) (imm : BitVec 8) (s : State) : Out := scalarLoad (.ldd d sa nd imm) 8 zext64 d sa nd imm s
/-- R122. -/
def execStb (d sa : SReg) (nd : BitVec 4) (imm : BitVec 8) (s : State) : Out := scalarStore (.stb d sa nd imm) 1 d sa nd imm s
/-- R122. -/
def execSth (d sa : SReg) (nd : BitVec 4) (imm : BitVec 8) (s : State) : Out := scalarStore (.sth d sa nd imm) 2 d sa nd imm s
/-- R122. -/
def execStw (d sa : SReg) (nd : BitVec 4) (imm : BitVec 8) (s : State) : Out := scalarStore (.stw d sa nd imm) 4 d sa nd imm s
/-- R122. -/
def execStd (d sa : SReg) (nd : BitVec 4) (imm : BitVec 8) (s : State) : Out := scalarStore (.std d sa nd imm) 8 d sa nd imm s

end Sys2Proof.Machine
end

