-- ==== Sys2Proof/Machine/MemVector.lean ====
section
/-!
DEFINITION. Vector loads and stores, majors 0x50 to 0x5B, and the atomics of majors 0x5C, 0x5D and 0x5E (R283 to R296).
-/

namespace Sys2Proof.Machine

/-- The effective addresses of the active lanes, ascending (R288); `scale` is z when the scaled form is chosen. -/
def State.vectorAddrs (s : State) (sa : SReg) (b : VReg) (scale : Nat) : List (Nat × Word64) :=
  (lanesOf s.pmask).map fun l => (l.val, s.rS sa + (s.rV b l).signExtend 64 * .ofNat 64 scale)

/-- The value a lane loaded. -/
def valOf (vs : List (Nat × Nat)) (l : Nat) : Nat := ((vs.find? fun v => v.1 == l).map Prod.snd).getD 0

/-- A loaded group written: register n of the group takes the n-th 32 bits (R288). -/
def State.writeLoaded (s : State) (d : VReg) (vs : List (Nat × Nat)) : Nat → State
  | 0 => s
  | n + 1 => (s.writeLoaded d vs n).wV (VReg.plus d n) s.pmask fun l => .ofNat 32 (valOf vs l / 2 ^ (32 * n))

/-- A vector load of `z` bytes into a group of `regs` registers (R288). -/
def vectorLoad (i : Instr) (z regs : Nat) (ext : Nat → Nat) (d : VReg) (sa : SReg) (b : VReg) (nd : BitVec 4) (sc : BitVec 1) (s : State) : Out :=
  run i s fun bd s =>
    s.load false z { bd.ord with nd := nd } (s.vectorAddrs sa b (if sc = 1 then z else 1)) fun s vs =>
      s.writeLoaded d (vs.map fun (l, v) => (l, ext v)) regs

/-- The group of a lane as a number, register n as the n-th 32 bits. -/
def State.groupNat (s : State) (d : VReg) (l : Fin 32) : Nat → Nat
  | 0 => 0
  | n + 1 => s.groupNat d l n + (s.rV (VReg.plus d n) l).toNat * 2 ^ (32 * n)

/-- A vector store of `z` bytes from a group of `regs` registers (R288, R289). -/
def vectorStore (i : Instr) (z regs : Nat) (d : VReg) (sa : SReg) (b : VReg) (nd : BitVec 4) (sc : BitVec 1) (s : State) : Out :=
  run i s fun bd s =>
    s.store false z { bd.ord with nd := nd } (s.vectorAddrs sa b (if sc = 1 then z else 1)) fun l => s.groupNat d (Fin.ofNat 32 l) regs

/-- A narrow value sign-extended to 32 bits. -/
def sext32 (w n : Nat) : Nat := ((BitVec.ofNat w n).signExtend 32).toNat

/-- R288. -/
def execVldb (d : VReg) (sa : SReg) (b : VReg) (nd : BitVec 4) (sc : BitVec 1) (s : State) : Out :=
  vectorLoad (.vldb d sa b nd sc) 1 1 id d sa b nd sc s
/-- R288. -/
def execVldbs (d : VReg) (sa : SReg) (b : VReg) (nd : BitVec 4) (sc : BitVec 1) (s : State) : Out :=
  vectorLoad (.vldbs d sa b nd sc) 1 1 (sext32 8) d sa b nd sc s
/-- R288. -/
def execVldh (d : VReg) (sa : SReg) (b : VReg) (nd : BitVec 4) (sc : BitVec 1) (s : State) : Out :=
  vectorLoad (.vldh d sa b nd sc) 2 1 id d sa b nd sc s
/-- R288. -/
def execVldhs (d : VReg) (sa : SReg) (b : VReg) (nd : BitVec 4) (sc : BitVec 1) (s : State) : Out :=
  vectorLoad (.vldhs d sa b nd sc) 2 1 (sext32 16) d sa b nd sc s
/-- R288. -/
def execVldw (d : VReg) (sa : SReg) (b : VReg) (nd : BitVec 4) (sc : BitVec 1) (s : State) : Out :=
  vectorLoad (.vldw d sa b nd sc) 4 1 id d sa b nd sc s
/-- R288. -/
def execVldd (d : VReg) (sa : SReg) (b : VReg) (nd : BitVec 4) (sc : BitVec 1) (s : State) : Out :=
  vectorLoad (.vldd d sa b nd sc) 8 2 id d sa b nd sc s
/-- R288. -/
def execVldq (d : VReg) (sa : SReg) (b : VReg) (nd : BitVec 4) (sc : BitVec 1) (s : State) : Out :=
  vectorLoad (.vldq d sa b nd sc) 16 4 id d sa b nd sc s
/-- R288. -/
def execVstb (d : VReg) (sa : SReg) (b : VReg) (nd : BitVec 4) (sc : BitVec 1) (s : State) : Out :=
  vectorStore (.vstb d sa b nd sc) 1 1 d sa b nd sc s
/-- R288. -/
def execVsth (d : VReg) (sa : SReg) (b : VReg) (nd : BitVec 4) (sc : BitVec 1) (s : State) : Out :=
  vectorStore (.vsth d sa b nd sc) 2 1 d sa b nd sc s
/-- R288. -/
def execVstw (d : VReg) (sa : SReg) (b : VReg) (nd : BitVec 4) (sc : BitVec 1) (s : State) : Out :=
  vectorStore (.vstw d sa b nd sc) 4 1 d sa b nd sc s
/-- R288. -/
def execVstd (d : VReg) (sa : SReg) (b : VReg) (nd : BitVec 4) (sc : BitVec 1) (s : State) : Out :=
  vectorStore (.vstd d sa b nd sc) 8 2 d sa b nd sc s
/-- R288. -/
def execVstq (d : VReg) (sa : SReg) (b : VReg) (nd : BitVec 4) (sc : BitVec 1) (s : State) : Out :=
  vectorStore (.vstq d sa b nd sc) 16 4 d sa b nd sc s

/-- The size of an AMOA (R292) and of an AMOL (R293). -/
def AmoaOp.size : AmoaOp → Nat
  | .addI64 => 8
  | _ => 4
def AmolOp.size : AmolOp → Nat
  | .cas64 | .and64 | .or64 | .xor64 => 8
  | _ => 4

/-- A vector atomic (R291): the old value goes to the first register of the group, or the first two of an 8-byte one. -/
def vectorAtomic (i : Instr) (z : Nat) (o : AtomicOp) (opnd : State → Fin 32 → Nat × Nat) (d b : VReg) (sa : SReg) (ret : BitVec 1) (s : State) : Out :=
  run i s fun bd s =>
    s.atomic false z bd.ord o (s.vectorAddrs sa b 1) (fun l => opnd s (Fin.ofNat 32 l))
      (if ret = 1 then some fun s olds => s.writeLoaded d olds (z / 4) else none)

/-- R292. -/
def execAmoa (o : AmoaOp) (d b : VReg) (sa : SReg) (ret : BitVec 1) (s : State) : Out :=
  vectorAtomic (.amoa o d b sa ret) (AmoaOp.size o) (.a o) (fun s l => (s.groupNat d l (AmoaOp.size o / 4), 0)) d b sa ret s

/-- The operand and the compared value of an AMOL (R293). -/
def AmolOp.operands (o : AmolOp) (s : State) (d : VReg) (l : Fin 32) : Nat × Nat :=
  match o with
  | .cas32 => ((s.rV (VReg.plus d 1) l).toNat, (s.rV d l).toNat)
  | .cas64 => (s.groupNat (VReg.plus d 2) l 2, s.groupNat d l 2)
  | _ => (s.groupNat d l (AmolOp.size o / 4), 0)

/-- R293. -/
def execAmol (o : AmolOp) (d b : VReg) (sa : SReg) (ret : BitVec 1) (s : State) : Out :=
  vectorAtomic (.amol o d b sa ret) (AmolOp.size o) (.l o) (fun s l => AmolOp.operands o s d l) d b sa ret s

/-- A scalar atomic (R296): without return when d is s0. -/
def scalarAtomic (i : Instr) (o : AtomicOp) (d a b : SReg) (s : State) : Out :=
  run i s fun bd s =>
    s.atomic true 8 bd.ord o [(0, s.rS a)] (fun _ => ((s.rS b).toNat, (s.rS d).toNat))
      (if d = 0 then none else some fun s olds => s.wS d (.ofNat 64 ((olds.map Prod.snd).headD 0)))

/-- R296. -/
def execSamoadd (d a b : SReg) (s : State) : Out := scalarAtomic (.samoadd d a b) .sadd d a b s
/-- R296. -/
def execSamocas (d a b : SReg) (s : State) : Out := scalarAtomic (.samocas d a b) .scas d a b s
/-- R296. -/
def execSamoswap (d a b : SReg) (s : State) : Out := scalarAtomic (.samoswap d a b) .sswap d a b s
/-- R296. -/
def execSamomax (d a b : SReg) (s : State) : Out := scalarAtomic (.samomax d a b) .smax d a b s

end Sys2Proof.Machine
end

