-- ==== Sys2Proof/Machine/Scalar.lean ====
section
/-!
DEFINITION. Scalar integer instructions: majors 0x01 to 0x0E (R104 to R116).
-/

namespace Sys2Proof.Machine

/-- Two sources, one destination: read at issue, written once (R105). -/
def binS (i : Instr) (d a b : SReg) (f : Word64 → Word64 → Word64) (s : State) : Out :=
  simple i s fun _ s => s.wS d (f (s.rS a) (s.rS b))
/-- One source, one destination. -/
def unS (i : Instr) (d a : SReg) (f : Word64 → Word64) (s : State) : Out :=
  simple i s fun _ s => s.wS d (f (s.rS a))
/-- A source and the widened immediate of R36. -/
def immOp (i : Instr) (d a : SReg) (imm : Bound → Word64) (f : Word64 → Word64 → Word64) (s : State) : Out :=
  simple i s fun b s => s.wS d (f (s.rS a) (imm b))

/-- R110. s[d] := x + y modulo 2^64. -/
def execAdd (d a b : SReg) (s : State) : Out := binS (.add d a b) d a b (fun x y => x + y) s
/-- R110. x − y. -/
def execSub (d a b : SReg) (s : State) : Out := binS (.sub d a b) d a b (fun x y => x - y) s
/-- R110. Bits [63:0] of x × y. -/
def execMul (d a b : SReg) (s : State) : Out := binS (.mul d a b) d a b (fun x y => x * y) s
/-- R110. Bits [127:64] of the signed product. -/
def execMulh (d a b : SReg) (s : State) : Out := binS (.mulh d a b) d a b (mulh) s
/-- R110. Bits [127:64] of the natural product. -/
def execMulhn (d a b : SReg) (s : State) : Out := binS (.mulhn d a b) d a b (mulhn) s
/-- R110, R77. Signed quotient, truncated toward zero. -/
def execDiv (d a b : SReg) (s : State) : Out := binS (.div d a b) d a b (divs) s
/-- R110, R77. Natural quotient. -/
def execDivn (d a b : SReg) (s : State) : Out := binS (.divn d a b) d a b (divn) s
/-- R110, R77. Signed remainder. -/
def execRem (d a b : SReg) (s : State) : Out := binS (.rem d a b) d a b (rems) s
/-- R110, R77. Natural remainder. -/
def execRemn (d a b : SReg) (s : State) : Out := binS (.remn d a b) d a b (remn) s
/-- R110. The signed smaller. -/
def execMin (d a b : SReg) (s : State) : Out := binS (.min d a b) d a b (mins) s
/-- R110. The signed larger. -/
def execMax (d a b : SReg) (s : State) : Out := binS (.max d a b) d a b (maxs) s
/-- R110. The natural smaller. -/
def execMinn (d a b : SReg) (s : State) : Out := binS (.minn d a b) d a b (minn) s
/-- R110. The natural larger. -/
def execMaxn (d a b : SReg) (s : State) : Out := binS (.maxn d a b) d a b (maxn) s
/-- R112. -/
def execAnd (d a b : SReg) (s : State) : Out := binS (.and d a b) d a b (fun x y => x &&& y) s
/-- R112. -/
def execOr (d a b : SReg) (s : State) : Out := binS (.or d a b) d a b (fun x y => x ||| y) s
/-- R112. -/
def execXor (d a b : SReg) (s : State) : Out := binS (.xor d a b) d a b (fun x y => x ^^^ y) s
/-- R112. x AND NOT y. -/
def execAndn (d a b : SReg) (s : State) : Out := binS (.andn d a b) d a b (fun x y => x &&& ~~~y) s
/-- R112. Shifted left by y mod 64. -/
def execShl (d a b : SReg) (s : State) : Out := binS (.shl d a b) d a b (fun x y => x <<< (y.toNat % 64)) s
/-- R112. Shifted right by y mod 64, zeros in. -/
def execShr (d a b : SReg) (s : State) : Out := binS (.shr d a b) d a b (fun x y => x >>> (y.toNat % 64)) s
/-- R112. Shifted right by y mod 64, copies of bit 63 in. -/
def execSar (d a b : SReg) (s : State) : Out := binS (.sar d a b) d a b (fun x y => x.sshiftRight (y.toNat % 64)) s
/-- R112. -/
def execSeq (d a b : SReg) (s : State) : Out := binS (.seq d a b) d a b (fun x y => ofBool (x == y)) s
/-- R112. -/
def execSne (d a b : SReg) (s : State) : Out := binS (.sne d a b) d a b (fun x y => ofBool (x != y)) s
/-- R112. Signed. -/
def execSlt (d a b : SReg) (s : State) : Out := binS (.slt d a b) d a b (fun x y => ofBool (x.slt y)) s
/-- R112. Natural. -/
def execSltn (d a b : SReg) (s : State) : Out := binS (.sltn d a b) d a b (fun x y => ofBool (x.ult y)) s
/-- R112, R113. x if the old s[d] ≠ 0, else y. -/
def execSel (d a b : SReg) (s : State) : Out :=
  simple (.sel d a b) s fun _ s => s.wS d (if s.rS d ≠ 0 then s.rS a else s.rS b)
/-- R112. Leading zero bits, 0 to 64. -/
def execClz (d a : SReg) (s : State) : Out := unS (.clz d a) d a clz s
/-- R112. Trailing zero bits, 0 to 64. -/
def execCtz (d a : SReg) (s : State) : Out := unS (.ctz d a) d a ctz s
/-- R112. One bits, 0 to 64. -/
def execPopc (d a : SReg) (s : State) : Out := unS (.popc d a) d a popc s
/-- R112. Bit i moved to bit 63 − i. -/
def execBrev (d a : SReg) (s : State) : Out := unS (.brev d a) d a brev s
/-- R114. The field, zero-extended. -/
def execBfx (d a : SReg) (pos : BitVec 6) (len : BitVec 5) (s : State) : Out :=
  simple (.bfx d a pos len) s fun _ s => s.wS d (bfx (s.rS a) pos.toNat len.toNat)
/-- R114. The field inserted into the old s[d]. -/
def execBfi (d a : SReg) (pos : BitVec 6) (len : BitVec 5) (s : State) : Out :=
  simple (.bfi d a pos len) s fun _ s => s.wS d (bfi (s.rS d) (s.rS a) pos.toNat len.toNat)
/-- R115. s[a] + i modulo 2^64, i sign-extended. -/
def execAddi (d a : SReg) (imm : BitVec 11) (s : State) : Out :=
  immOp (.addi d a imm) d a (fun b => immS b imm) (fun x i => x + i) s
/-- R115. i zero-extended. -/
def execAndi (d a : SReg) (imm : BitVec 11) (s : State) : Out :=
  immOp (.andi d a imm) d a (fun b => immZ b imm) (fun x i => x &&& i) s
/-- R115. i zero-extended. -/
def execOri (d a : SReg) (imm : BitVec 11) (s : State) : Out :=
  immOp (.ori d a imm) d a (fun b => immZ b imm) (fun x i => x ||| i) s
/-- R115. i zero-extended. -/
def execXori (d a : SReg) (imm : BitVec 11) (s : State) : Out :=
  immOp (.xori d a imm) d a (fun b => immZ b imm) (fun x i => x ^^^ i) s
/-- R115. 1 if s[a] < i as signed, else 0. -/
def execSlti (d a : SReg) (imm : BitVec 11) (s : State) : Out :=
  immOp (.slti d a imm) d a (fun b => immS b imm) (fun x i => ofBool (x.slt i)) s
/-- R115. -/
def execShli (d a : SReg) (n : BitVec 6) (s : State) : Out := unS (.shli d a n) d a (fun x => x <<< n.toNat) s
/-- R115. Zeros in. -/
def execShri (d a : SReg) (n : BitVec 6) (s : State) : Out := unS (.shri d a n) d a (fun x => x >>> n.toNat) s
/-- R115. Copies of bit 63 in. -/
def execSari (d a : SReg) (n : BitVec 6) (s : State) : Out := unS (.sari d a n) d a (fun x => x.sshiftRight n.toNat) s
/-- R116. The sign-extended immediate. -/
def execMovi (d : SReg) (imm : BitVec 18) (s : State) : Out := simple (.movi d imm) s fun b s => s.wS d (immS b imm)
/-- R116. The address of its own word plus the sign-extended byte value, modulo 2^64. -/
def execAddpc (d : SReg) (imm : BitVec 18) (s : State) : Out := simple (.addpc d imm) s fun b s => s.wS d (s.pc64 + immS b imm)

end Sys2Proof.Machine
end

