-- ==== Sys2Proof/Machine/ScalarFloat.lean ====
section
/-!
DEFINITION. Scalar floating point: major 0x0F (R117 to R121).
-/

namespace Sys2Proof.Machine

/-- The operand of a scalar float register: FP64 the whole, FP32 bits [31:0] (R117). -/
def sval (f : Fmt) (v : Word64) : FVal := if f = fp64 then fp64.unpack v.toNat else fp32.unpack (v.toNat % 2 ^ 32)

/-- A scalar float operation: rounded once in the path's mode, SR as RNE (R117, R118). -/
def floatS (i : Instr) (f : Fmt) (d : SReg) (g : RMode → State → FVal) (s : State) : Out :=
  simple i s fun _ s => s.wS d (.ofNat 64 (f.round .plain (smode s) 0 (g (smode s) s)))

/-- The compare code of R119. -/
def cmpCode (x y : FVal) : Word64 :=
  match x.cmp y with
  | some .eq => 1
  | some .lt => 2
  | some .gt => 4
  | none => 8

/-- The conversion of R120, by the code c; `f` is the F of the fn. -/
def sfcvt (f : Fmt) (c : Nat) (mode : RMode) (v : Word64) : Word64 :=
  let sat := c / 8 % 2 = 1
  let x := sval f v
  match c % 8 with
  | 0 => .ofInt 64 (toIntR96 sat mode 0 (-(2 ^ 63)) (2 ^ 63 - 1) (-(2 ^ 63)) x)
  | 1 => .ofInt 64 (toIntR96 sat mode 0 0 (2 ^ 64 - 1) (2 ^ 63) x)
  | 2 => (BitVec.ofInt 32 (toIntR96 sat mode 0 (-(2 ^ 31)) (2 ^ 31 - 1) (-(2 ^ 31)) x)).signExtend 64
  | 3 => (BitVec.ofInt 32 (toIntR96 sat mode 0 0 (2 ^ 32 - 1) (2 ^ 31) x)).setWidth 64
  | 4 => .ofNat 64 (f.round .plain mode 0 (ofIntVal v.toInt))
  | 5 => .ofNat 64 (f.round .plain mode 0 (ofIntVal v.toNat))
  | _ =>
    if f = fp64 then .ofNat 64 (fp32.round (if sat then .sat else .plain) mode 0 x)
    else .ofNat 64 (fp64.round .plain mode 0 x)

/-- SFCVT (R120, R121): a code with c[2:0] = 7, or a bit of c[63:4] set, traps ILLOP with c in the record. -/
def cvtS (i : Instr) (f : Fmt) (d a b : SReg) (s : State) : Out :=
  run i s fun _ s =>
    let c := s.rS b
    if c.toNat % 8 = 7 ∨ 16 ≤ c.toNat then .stop (illopAux c)
    else .done (s.wS d (sfcvt f c.toNat (smode s) (s.rS a)))

/-- R118. Round(x + y). -/
def execSfaddF64 (d a b : SReg) (s : State) : Out :=
  floatS (.sfaddF64 d a b) fp64 d (fun m s => sumExact m [sval fp64 (s.rS a), sval fp64 (s.rS b)]) s
/-- R118. Round(x − y). -/
def execSfsubF64 (d a b : SReg) (s : State) : Out :=
  floatS (.sfsubF64 d a b) fp64 d (fun m s => sumExact m [sval fp64 (s.rS a), (sval fp64 (s.rS b)).neg]) s
/-- R118. Round(x × y). -/
def execSfmulF64 (d a b : SReg) (s : State) : Out :=
  floatS (.sfmulF64 d a b) fp64 d (fun _ s => (sval fp64 (s.rS a)).mul (sval fp64 (s.rS b))) s
/-- R118. Round(x × y + z), z the old s[d]. -/
def execSffmaF64 (d a b : SReg) (s : State) : Out :=
  floatS (.sffmaF64 d a b) fp64 d (fun m s => sumExact m [(sval fp64 (s.rS a)).mul (sval fp64 (s.rS b)), sval fp64 (s.rS d)]) s
/-- R118. Round(x / y). -/
def execSfdivF64 (d a b : SReg) (s : State) : Out :=
  floatS (.sfdivF64 d a b) fp64 d (fun _ s => (sval fp64 (s.rS a)).div (sval fp64 (s.rS b))) s
/-- R119. -/
def execSfcmpF64 (d a b : SReg) (s : State) : Out :=
  simple (.sfcmpF64 d a b) s fun _ s => s.wS d (cmpCode (sval fp64 (s.rS a)) (sval fp64 (s.rS b)))
/-- R120, R121. -/
def execSfcvtF64 (d a b : SReg) (s : State) : Out := cvtS (.sfcvtF64 d a b) fp64 d a b s
/-- R118. Round(x + y). -/
def execSfaddF32 (d a b : SReg) (s : State) : Out :=
  floatS (.sfaddF32 d a b) fp32 d (fun m s => sumExact m [sval fp32 (s.rS a), sval fp32 (s.rS b)]) s
/-- R118. Round(x − y). -/
def execSfsubF32 (d a b : SReg) (s : State) : Out :=
  floatS (.sfsubF32 d a b) fp32 d (fun m s => sumExact m [sval fp32 (s.rS a), (sval fp32 (s.rS b)).neg]) s
/-- R118. Round(x × y). -/
def execSfmulF32 (d a b : SReg) (s : State) : Out :=
  floatS (.sfmulF32 d a b) fp32 d (fun _ s => (sval fp32 (s.rS a)).mul (sval fp32 (s.rS b))) s
/-- R118. Round(x × y + z), z the old s[d]. -/
def execSffmaF32 (d a b : SReg) (s : State) : Out :=
  floatS (.sffmaF32 d a b) fp32 d (fun m s => sumExact m [(sval fp32 (s.rS a)).mul (sval fp32 (s.rS b)), sval fp32 (s.rS d)]) s
/-- R118. Round(x / y). -/
def execSfdivF32 (d a b : SReg) (s : State) : Out :=
  floatS (.sfdivF32 d a b) fp32 d (fun _ s => (sval fp32 (s.rS a)).div (sval fp32 (s.rS b))) s
/-- R119. -/
def execSfcmpF32 (d a b : SReg) (s : State) : Out :=
  simple (.sfcmpF32 d a b) s fun _ s => s.wS d (cmpCode (sval fp32 (s.rS a)) (sval fp32 (s.rS b)))
/-- R120, R121. -/
def execSfcvtF32 (d a b : SReg) (s : State) : Out := cvtS (.sfcvtF32 d a b) fp32 d a b s

end Sys2Proof.Machine
end

