-- ==== Sys2Proof/Machine/VectorInt.lean ====
section
/-!
DEFINITION. Vector integers: majors 0x24 to 0x28 (R177 to R182).
-/

namespace Sys2Proof.Machine

/-- A lane-wise form of two sources. -/
def binV (i : Instr) (d a b : VReg) (f : Word32 → Word32 → Word32) (s : State) : Out :=
  simple i s fun t s => s.writeLanes t d fun l => f (s.rV a l) (s.rV b l)
/-- A lane-wise form of one source. -/
def unV (i : Instr) (d a : VReg) (f : Word32 → Word32) (s : State) : Out :=
  simple i s fun t s => s.writeLanes t d fun l => f (s.rV a l)

/-- R177. x + y mod 2^32. -/
def execVaddI32 (d a b : VReg) (s : State) : Out := binV (.vaddI32 d a b) d a b (fun x y => x + y) s
/-- R177. x − y mod 2^32. -/
def execVsubI32 (d a b : VReg) (s : State) : Out := binV (.vsubI32 d a b) d a b (fun x y => x - y) s
/-- R177. bits [31:0] of x × y. -/
def execVmulI32 (d a b : VReg) (s : State) : Out := binV (.vmulI32 d a b) d a b (fun x y => x * y) s
/-- R177. bits [63:32] of the signed product. -/
def execVmulh (d a b : VReg) (s : State) : Out := binV (.vmulh d a b) d a b (mulh) s
/-- R177. bits [63:32] of the natural product. -/
def execVmulhn (d a b : VReg) (s : State) : Out := binV (.vmulhn d a b) d a b (mulhn) s
/-- R177. the signed smaller. -/
def execVminI32 (d a b : VReg) (s : State) : Out := binV (.vminI32 d a b) d a b (mins) s
/-- R177. the signed larger. -/
def execVmaxI32 (d a b : VReg) (s : State) : Out := binV (.vmaxI32 d a b) d a b (maxs) s
/-- R177. the natural smaller. -/
def execVminn (d a b : VReg) (s : State) : Out := binV (.vminn d a b) d a b (minn) s
/-- R177. the natural larger. -/
def execVmaxn (d a b : VReg) (s : State) : Out := binV (.vmaxn d a b) d a b (maxn) s
/-- R177. the signed sum clamped. -/
def execVaddsI32 (d a b : VReg) (s : State) : Out := binV (.vaddsI32 d a b) d a b (addsS) s
/-- R177. the signed difference clamped. -/
def execVsubsI32 (d a b : VReg) (s : State) : Out := binV (.vsubsI32 d a b) d a b (subsS) s
/-- R177. floor((x + y + 1) / 2), signed. -/
def execVavgI32 (d a b : VReg) (s : State) : Out := binV (.vavgI32 d a b) d a b (avgS) s
/-- R177. x × y + c mod 2^32. -/
def execVmad (d a b : VReg) (s : State) : Out :=
  simple (.vmad d a b) s fun t s => s.writeLanes t d fun l => s.rV a l * s.rV b l + s.third t d l
/-- R177. abs(x) as signed; MIN gives MIN. -/
def execVabsI32 (d a : VReg) (s : State) : Out := unV (.vabsI32 d a) d a absS s
/-- R177. −x mod 2^32. -/
def execVnegI32 (d a : VReg) (s : State) : Out := unV (.vnegI32 d a) d a (fun x => -x) s
/-- R178. Each 16-bit part: sum modulo 2^w. -/
def execVaddI16 (d a b : VReg) (s : State) : Out := binV (.vaddI16 d a b) d a b (parts16 (fun x y => x + y)) s
/-- R178. Each 16-bit part: difference modulo 2^w. -/
def execVsubI16 (d a b : VReg) (s : State) : Out := binV (.vsubI16 d a b) d a b (parts16 (fun x y => x - y)) s
/-- R178. Each 16-bit part: signed sum clamped. -/
def execVaddsI16 (d a b : VReg) (s : State) : Out := binV (.vaddsI16 d a b) d a b (parts16 (addsS)) s
/-- R178. Each 16-bit part: signed difference clamped. -/
def execVsubsI16 (d a b : VReg) (s : State) : Out := binV (.vsubsI16 d a b) d a b (parts16 (subsS)) s
/-- R178. Each 16-bit part: natural sum clamped. -/
def execVaddsN16 (d a b : VReg) (s : State) : Out := binV (.vaddsN16 d a b) d a b (parts16 (addsN)) s
/-- R178. Each 16-bit part: natural difference clamped. -/
def execVsubsN16 (d a b : VReg) (s : State) : Out := binV (.vsubsN16 d a b) d a b (parts16 (subsN)) s
/-- R178. Each 16-bit part: signed average. -/
def execVavgI16 (d a b : VReg) (s : State) : Out := binV (.vavgI16 d a b) d a b (parts16 (avgS)) s
/-- R178. Each 16-bit part: natural average. -/
def execVavgN16 (d a b : VReg) (s : State) : Out := binV (.vavgN16 d a b) d a b (parts16 (avgN)) s
/-- R178. Each 8-bit part: sum modulo 2^w. -/
def execVaddI8 (d a b : VReg) (s : State) : Out := binV (.vaddI8 d a b) d a b (parts8 (fun x y => x + y)) s
/-- R178. Each 8-bit part: difference modulo 2^w. -/
def execVsubI8 (d a b : VReg) (s : State) : Out := binV (.vsubI8 d a b) d a b (parts8 (fun x y => x - y)) s
/-- R178. Each 8-bit part: signed sum clamped. -/
def execVaddsI8 (d a b : VReg) (s : State) : Out := binV (.vaddsI8 d a b) d a b (parts8 (addsS)) s
/-- R178. Each 8-bit part: signed difference clamped. -/
def execVsubsI8 (d a b : VReg) (s : State) : Out := binV (.vsubsI8 d a b) d a b (parts8 (subsS)) s
/-- R178. Each 8-bit part: natural sum clamped. -/
def execVaddsN8 (d a b : VReg) (s : State) : Out := binV (.vaddsN8 d a b) d a b (parts8 (addsN)) s
/-- R178. Each 8-bit part: natural difference clamped. -/
def execVsubsN8 (d a b : VReg) (s : State) : Out := binV (.vsubsN8 d a b) d a b (parts8 (subsN)) s
/-- R178. Each 8-bit part: signed average. -/
def execVavgI8 (d a b : VReg) (s : State) : Out := binV (.vavgI8 d a b) d a b (parts8 (avgS)) s
/-- R178. Each 8-bit part: natural average. -/
def execVavgN8 (d a b : VReg) (s : State) : Out := binV (.vavgN8 d a b) d a b (parts8 (avgN)) s
/-- R179. -/
def execVand (d a b : VReg) (s : State) : Out := binV (.vand d a b) d a b (fun x y => x &&& y) s
/-- R179. -/
def execVor (d a b : VReg) (s : State) : Out := binV (.vor d a b) d a b (fun x y => x ||| y) s
/-- R179. -/
def execVxor (d a b : VReg) (s : State) : Out := binV (.vxor d a b) d a b (fun x y => x ^^^ y) s
/-- R179. -/
def execVandn (d a b : VReg) (s : State) : Out := binV (.vandn d a b) d a b (fun x y => x &&& ~~~y) s
/-- R179. -/
def execVshl (d a b : VReg) (s : State) : Out := binV (.vshl d a b) d a b (fun x y => x <<< (y.toNat % 32)) s
/-- R179. -/
def execVshr (d a b : VReg) (s : State) : Out := binV (.vshr d a b) d a b (fun x y => x >>> (y.toNat % 32)) s
/-- R179. -/
def execVsar (d a b : VReg) (s : State) : Out := binV (.vsar d a b) d a b (fun x y => x.sshiftRight (y.toNat % 32)) s
/-- R179. -/
def execVpopc (d a : VReg) (s : State) : Out := unV (.vpopc d a) d a popc s
/-- R179. -/
def execVclz (d a : VReg) (s : State) : Out := unV (.vclz d a) d a clz s
/-- R179. -/
def execVbrev (d a : VReg) (s : State) : Out := unV (.vbrev d a) d a brev s

/-- pos and len of R180, from a lane's y. -/
def vpos (y : Word32) : Nat := y.toNat % 32
def vlen (y : Word32) : Nat := min (y.toNat / 2 ^ 8 % 2 ^ 6) (32 - vpos y)
/-- R180. -/
def execVbfx (d a b : VReg) (s : State) : Out := binV (.vbfx d a b) d a b (fun x y => bfx x (vpos y) (vlen y)) s
/-- R180. c is the third source. -/
def execVbfi (d a b : VReg) (s : State) : Out :=
  simple (.vbfi d a b) s fun t s => s.writeLanes t d fun l => bfi (s.third t d l) (s.rV a l) (vpos (s.rV b l)) (vlen (s.rV b l))

/-- R181. -/
def execVsel (k : KReg) (d a b : VReg) (s : State) : Out :=
  simple (.vsel k d a b) s fun t s => s.writeLanes t d fun l => if (s.rK k).getLsbD l then s.rV a l else s.rV b l

/-- The conditions of R182. -/
def icond (c : ICond) (x y : Word32) : Bool :=
  match c with
  | .eq => x == y
  | .ne => x != y
  | .lt => x.slt y
  | .le => x.sle y
  | .gt => y.slt x
  | .ge => y.sle x
  | .ltn => x.ult y
  | .len => x.ule y
  | .gtn => y.ult x
  | .gen => y.ule x
/-- R182. -/
def execVcmpi (c : ICond) (d : KReg) (a b : VReg) (s : State) : Out :=
  simple (.vcmpi c d a b) s fun t s => s.writeMask t d fun l => icond c (s.rV a l) (s.rV b l)

end Sys2Proof.Machine
end

