-- ==== Sys2Proof/Machine/Sfu.lean ====
section
/-!
DEFINITION. The special function unit (R185 to R188). The spec bounds each result and names exact points; inside the bound the value is
open. It is a free value (Config.sfu, log 10) taken where it lies within the bound of R186, judged against a fixed-point approximation
(96 fraction bits) of the exact function; outside the bound it is replaced by the FP32 value nearest to the approximation.
-/

namespace Sys2Proof.Machine.Sfu

/-- Fraction bits of the fixed-point approximations. -/
def fb : Nat := 96
def one : Nat := 2 ^ fb
/-- ln 2 and 2π, in 96 fraction bits. -/
def ln2 : Nat := 54916777467707473351141471128
def twoPi : Nat := 497805226624462170461043889244

/-- e^t for 0 ≤ t < 1 (t in 96 fraction bits): n terms of the series. -/
def expSeries (t : Nat) : Nat → Nat → Nat → Nat
  | 0, _, acc => acc
  | n + 1, term, acc =>
    let k := 40 - n
    let term := term * t / one / k
    expSeries t n term (acc + term)

/-- 2^f for a fraction f in 96 fraction bits. -/
def exp2Frac (f : Nat) : Nat := expSeries (f * ln2 / one) 40 one one

/-- The bits of log2 of a mantissa in [1, 2), one per squaring. -/
def log2Bits : Nat → Nat → Nat → Nat
  | 0, _, acc => acc
  | n + 1, x, acc =>
    let y := x * x / one
    if 2 * one ≤ y then log2Bits n (y / 2) (2 * acc + 1) else log2Bits n y (2 * acc)

/-- sin of an angle in [0, 1/4] of a turn, in 96 fraction bits. -/
def sinSeries (x2 : Nat) : Nat → Nat → Int → Int
  | 0, _, acc => acc
  | n + 1, term, acc =>
    let k := 20 - n
    let term := term * x2 / one / (2 * k * (2 * k + 1))
    sinSeries x2 n term (if k % 2 = 1 then acc - term else acc + term)

def sinQuarter (t : Nat) : Int :=
  let x := t * twoPi / one
  sinSeries (x * x / one) 20 x x

/-- sin(2π t) for t in [0, 1) of a turn. -/
def sinTurn (t : Nat) : Int :=
  let q := one / 4
  if t ≤ q then sinQuarter t
  else if t ≤ 2 * q then sinQuarter (2 * q - t)
  else if t ≤ 3 * q then -sinQuarter (t - 2 * q)
  else -sinQuarter (4 * q - t)

/-- |m × 2^e| in 96 fraction bits, cut below. -/
def fixed (m : Nat) (e : Int) : Nat :=
  let s := e + fb
  if 0 ≤ s then m * 2 ^ s.toNat else m / 2 ^ (-s).toNat

/-- e^-x for x ≥ 0 in 96 fraction bits. -/
def expNeg (x : Nat) : Nat :=
  let y := x * one / ln2          -- x in units of ln 2
  let n := y / one
  let f := y % one
  if 300 < n then 0 else if f = 0 then one / 2 ^ n else exp2Frac (one - f) / 2 ^ (n + 1)

/-- The ulp of FP32 at a magnitude `a × 2^q` (R186), as an exponent. -/
def ulpExp (a : Nat) (q : Int) : Int := if a = 0 then -149 else max (q + Nat.log2 a - 23) (-149)

/-- |x| of a finite FP32 value in units of 2^q, cut below the unit. -/
def unitsAt (q : Int) (v : FVal) : Int :=
  match v with
  | .fin s m e =>
    let a : Nat := if q ≤ e then m * 2 ^ (e - q).toNat else m / 2 ^ (q - e).toNat
    if s then -a else a
  | _ => 0

/-- How far an approximation may lie from the exact function, against its bound: its error is far below this. -/
def slack (bound : Nat) : Nat := bound / 2 ^ 16

/-- The free candidate where it is finite and lies within `bound × 2^q` of the exact function, whose approximation is `a × 2^q`; else the nearest
value. -/
def choose (fn : Nat) (x : Word32) (a : Int) (q : Int) (bound : Nat) : Word32 :=
  let c := Config.sfu fn x
  let near := round32 .rne 0 (.fin (decide (a < 0)) a.natAbs q)
  match val32 c with
  | .fin s m e => if (unitsAt q (.fin s m e) - a).natAbs + slack bound ≤ bound then c else near
  | _ => near

/-- A relative bound of `n` ulps of FP32 at the exact result, in units of 2^q: the smaller ulp where the approximation only just reaches a power
of two. -/
def ulps (n : Nat) (a : Int) (q : Int) : Nat :=
  let u := ulpExp (a.natAbs - a.natAbs / 2 ^ 40) q
  if q ≤ u then n * 2 ^ (u - q).toNat else 0

def nan : Word32 := 0x7FC00000
def posInf : Word32 := 0x7F800000
def negInf : Word32 := 0xFF800000

/-- 1 / x (R186, R187). -/
def rcp (x : Word32) : Word32 :=
  match fp32.flush (val32 x) with
  | .nan => nan
  | .inf s => if s then 0x80000000 else 0
  | .fin s m e =>
    if m = 0 then (if s then negInf else posInf)
    else
      let k := Nat.log2 m
      let r := round32 .rne 0 (.fin s 1 (-(e + k)))
      -- a power of two whose reciprocal is a normal value
      if m = 2 ^ k && decide (-126 ≤ -(e + k)) then r
      else
        let a : Int := 2 ^ 160 / m
        choose 0 x (if s then -a else a) (-e - 160) (ulps 1 a (-e - 160))

/-- 1 / √x (R186, R187). -/
def rsq (x : Word32) : Word32 :=
  match fp32.flush (val32 x) with
  | .nan => nan
  | .inf s => if s then nan else 0
  | .fin s m e =>
    if m = 0 then (if s then negInf else posInf)
    else if s then nan
    else
      let (m, e) := if e % 2 = 0 then (m, e) else (2 * m, e - 1)
      let r := isqrt 30 m
      if r * r = m && 2 ^ Nat.log2 r = r then round32 .rne 0 (.fin false 1 (-(e / 2) - Nat.log2 r))
      else
        let a : Int := 2 ^ 160 / (isqrt 60 (m * 2 ^ 90))     -- 2^115 / √m
        choose 1 x a (-(e / 2) - 115) (ulps 1 a (-(e / 2) - 115))

/-- √x, correctly rounded in the mode (R186, R187); subnormal x flushed (R185). -/
def sqrt (mode : RMode) (rho : Nat) (x : Word32) : Word32 := round32 mode rho (fp32.flush (val32 x)).sqrt

/-- 2^x (R186, R187). -/
def exp2 (x : Word32) : Word32 :=
  match fp32.flush (val32 x) with
  | .nan => nan
  | .inf s => if s then 0 else posInf
  | .fin s m e =>
    if m = 0 then 0x3F800000
    else if 8 < e + Nat.log2 m then (if s then 0 else posInf)
    else
      let t := fixed m e
      let whole := t / one
      let frac := t % one
      if !s && decide (128 ≤ whole) then posInf
      else if s && (decide (152 ≤ whole)) then 0
      else if frac = 0 && (e ≥ 0 || m % 2 ^ (-e).toNat = 0) && (!s || decide (whole ≤ 149)) then
        round32 .rne 0 (.fin false 1 (if s then -whole else whole))
      else
        let n : Int := if s then -whole - 1 else whole
        let f := if s then one - frac else frac
        let a := exp2Frac f
        choose 3 x a (n - fb) (ulps 2 a (n - fb))

/-- log2 x (R186, R187). -/
def log2 (x : Word32) : Word32 :=
  match fp32.flush (val32 x) with
  | .nan => nan
  | .inf s => if s then nan else posInf
  | .fin s m e =>
    if m = 0 then negInf
    else if s then nan
    else
      let k := Nat.log2 m
      if m = 2 ^ k then round32 .rne 0 (ofIntVal (e + k))
      else
        let b := log2Bits fb (m * one / 2 ^ k) 0
        let a : Int := (e + k) * one + b
        -- in [0.5, 2] the bound is the absolute 2^-22 (or 2 ulp, the wider)
        let bound := if e + k = 0 || e + k = -1 then max (ulps 2 a (-fb)) (2 ^ (fb - 22)) else ulps 2 a (-fb)
        choose 4 x a (-fb) bound

/-- sin(2πx) (`quarter` 0) or cos(2πx) (`quarter` 1) (R186, R187). -/
def sincos (fn quarter : Nat) (x : Word32) : Word32 :=
  match fp32.flush (val32 x) with
  | .nan | .inf _ => nan
  | .fin s m e =>
    if m = 0 then (if quarter = 0 then x &&& 0x80000000 else 0x3F800000)
    else
      -- x modulo one turn, in 96 fraction bits; the floor modulo of a negative x
      let t0 := fixed m e % one
      let t := if s then (one - t0) % one else t0
      let exact := if e ≥ -2 then true else decide (m % 2 ^ (-2 - e).toNat = 0)     -- x = n/4
      if exact then
        match (t / (one / 4) + quarter) % 4 with
        | 1 => 0x3F800000
        | 3 => 0xBF800000
        | _ => 0
      else choose fn x (sinTurn ((t + quarter * (one / 4)) % one)) (-fb) (2 ^ (fb - 23))

/-- tanh of a magnitude: (1 − e^-2x) / (1 + e^-2x) (R186); |result| ≤ 1. -/
def tanhMag (x : Word32) (m : Nat) (e : Int) : Word32 :=
  let y := if 7 < e + Nat.log2 m then 0 else expNeg (2 * fixed m e)
  let r := choose 7 x ((one - y) * one / (one + y)) (-fb) (2 ^ (fb - 22))
  match (val32 r).cmp (val32 0x3F800000) with
  | some .gt => 0x3F800000
  | _ => r

/-- tanh x, odd (R186, R187). -/
def tanh (x : Word32) : Word32 :=
  match fp32.flush (val32 x) with
  | .nan => nan
  | .inf s => if s then 0xBF800000 else 0x3F800000
  | .fin s m e =>
    if m = 0 then x &&& 0x80000000
    else
      let r := tanhMag (x &&& 0x7FFFFFFF) m e
      if s then r ^^^ 0x80000000 else r

/-- 1 / (1 + e^-x), in [0, 1] (R186, R187). -/
def sigm (x : Word32) : Word32 :=
  match fp32.flush (val32 x) with
  | .nan => nan
  | .inf s => if s then 0 else 0x3F800000
  | .fin s m e =>
    if m = 0 then 0x3F000000
    else
      let y := if 8 < e + Nat.log2 m then 0 else expNeg (fixed m e)
      let up := one * one / (one + y)
      let a : Int := if s then one - up else up
      let r := choose 8 x a (-fb) (2 ^ (fb - 22))
      match val32 r with
      | .fin true n _ => if n = 0 then r else 0
      | _ => match (val32 r).cmp (val32 0x3F800000) with
        | some .gt => 0x3F800000
        | _ => r

end Sys2Proof.Machine.Sfu
end

