-- ==== Sys2Proof/Machine/VectorMisc.lean ====
section
/-!
DEFINITION. Conversions, special functions and moves: majors 0x29, 0x2A, 0x2C, 0x2D (R183 to R193).
-/

namespace Sys2Proof.Machine

/-- Parts a packing conversion makes of a lane: rounded parts of width w, part k from register a + k (R50, R183). -/
def packParts (w : Nat) (f : Nat → Nat) : Nat → Nat
  | 0 => 0
  | n + 1 => packParts w f n + f n % 2 ^ w * 2 ^ (w * n)

/-- The elements a conversion rounds in a lane; 0 for those that do not round (R171). -/
def cvtDraws : CvtCode → Nat
  | .f32ToI32 | .f32ToN32 | .i32ToF32 | .n32ToF32 => 1
  | .f32ToF16 | .f32ToBf16 => 2
  | .f32ToE4m3 | .f32ToE5m2 | .f32ToI8 => 4
  | .f32ToE2m1 => 8
  | _ => 0

/-- The value a lane's destination register `d + j` receives (R183): `src k` is register a + k, `rho k` the random bits of element k. -/
def cvtLane (c : CvtCode) (sat : Bool) (mode : RMode) (rho : Nat → Nat) (src : Nat → Word32) (j : Nat) : Word32 :=
  let form : OvForm := if sat then .sat else .plain
  let narrow (f : Fmt) (w n : Nat) : Word32 :=
    .ofNat 32 (packParts w (fun k => f.round form mode (rho k) (fp32.flush (val32 (src k)))) n)
  let wide (f : Fmt) (w : Nat) : Word32 := round32 .rne 0 (f.unpack ((src 0).toNat / 2 ^ (w * j) % 2 ^ w))
  match c with
  | .f32ToI32 => .ofInt 32 (toIntR96 sat mode (rho 0) (-(2 ^ 31)) (2 ^ 31 - 1) (-(2 ^ 31)) (val32 (src 0)))
  | .f32ToN32 => .ofInt 32 (toIntR96 sat mode (rho 0) 0 (2 ^ 32 - 1) (2 ^ 31) (val32 (src 0)))
  | .i32ToF32 => round32 mode (rho 0) (ofIntVal (src 0).toInt)
  | .n32ToF32 => round32 mode (rho 0) (ofIntVal (src 0).toNat)
  | .f32ToF16 => .ofNat 32 (packParts 16 (fun k => fp16.round form mode (rho k) (val32 (src k))) 2)
  | .f32ToBf16 => .ofNat 32 (packParts 16 (fun k => bf16.round form mode (rho k) (val32 (src k))) 2)
  | .f16ToF32 => wide fp16 16
  | .bf16ToF32 => wide bf16 16
  | .f32ToE4m3 => narrow e4m3 8 4
  | .f32ToE5m2 => narrow e5m2 8 4
  | .f32ToE2m1 => narrow e2m1 4 8
  | .e4m3ToF32 => wide e4m3 8
  | .e5m2ToF32 => wide e5m2 8
  | .e2m1ToF32 => wide e2m1 4
  | .f32ToI8 =>
    .ofNat 32 (packParts 8 (fun k =>
      (BitVec.ofInt 8 (toIntR96 sat mode (rho k) (-128) 127 (-128) (val32 (src k)))).toNat) 4)
  | .i8ToF32 => round32 .rne 0 (ofIntVal (BitVec.ofNat 8 ((src 0).toNat / 2 ^ (8 * j))).toInt)

/-- R183, R184. -/
def execVcvt (c : CvtCode) (d a : VReg) (sat : BitVec 1) (s : State) : Out :=
  simple (.vcvt c d a sat) s fun b s =>
    let lane (j : Nat) (l : Fin 32) : Word32 :=
      cvtLane c (sat == 1) (vmode b s) (s.rho l) (fun k => s.rV (VReg.plus a k) l) j
    let t := s.writeGroup b d lane c.dstCount
    if cvtDraws c = 0 then t else t.drawFor b (cvtDraws c)

/-- A special function other than VSQRT: the mode is ignored and nothing is drawn (R171, R188). -/
def sfuV (i : Instr) (d a : VReg) (f : Word32 → Word32) (s : State) : Out :=
  simple i s fun b s => s.writeLanes b d fun l => f (s.rV a l)

/-- R185 to R188. -/
def execVrcp (d a : VReg) (s : State) : Out := sfuV (.vrcp d a) d a Sfu.rcp s
/-- R185 to R188. -/
def execVrsq (d a : VReg) (s : State) : Out := sfuV (.vrsq d a) d a Sfu.rsq s
/-- R185 to R188. -/
def execVexp2 (d a : VReg) (s : State) : Out := sfuV (.vexp2 d a) d a Sfu.exp2 s
/-- R185 to R188. -/
def execVlog2 (d a : VReg) (s : State) : Out := sfuV (.vlog2 d a) d a Sfu.log2 s
/-- R185 to R188. -/
def execVsin (d a : VReg) (s : State) : Out := sfuV (.vsin d a) d a (Sfu.sincos 5 0) s
/-- R185 to R188. -/
def execVcos (d a : VReg) (s : State) : Out := sfuV (.vcos d a) d a (Sfu.sincos 6 1) s
/-- R185 to R188. -/
def execVtanh (d a : VReg) (s : State) : Out := sfuV (.vtanh d a) d a Sfu.tanh s
/-- R185 to R188. -/
def execVsigm (d a : VReg) (s : State) : Out := sfuV (.vsigm d a) d a Sfu.sigm s
/-- R185 to R188. Correctly rounded in the mode of R90. -/
def execVsqrt (d a : VReg) (s : State) : Out :=
  simple (.vsqrt d a) s fun b s => (s.writeLanes b d fun l => Sfu.sqrt (vmode b s) (s.rho l 0) (s.rV a l)).drawFor b 1

/-- R190. Bits [31:0] of s[a] into every lane of m. -/
def execVmovs (d : VReg) (a : SReg) (s : State) : Out :=
  simple (.vmovs d a) s fun b s => s.writeLanes b d fun _ => (s.rS a).extractLsb' 0 32
/-- R190. Bits [63:32]. -/
def execVmovsh (d : VReg) (a : SReg) (s : State) : Out :=
  simple (.vmovsh d a) s fun b s => s.writeLanes b d fun _ => (s.rS a).extractLsb' 32 32
/-- R191. The lane's number. -/
def execVlane (d : VReg) (s : State) : Out := simple (.vlane d) s fun b s => s.writeLanes b d fun l => .ofNat 32 l
/-- R191. Bits [31:0] of the lane's next Mix value; its counter advances by one. -/
def execVrand (d : VReg) (s : State) : Out :=
  simple (.vrand d) s fun b s => (s.writeLanes b d fun l => (s.drawn l 0).extractLsb' 0 32).advanceDraws (wmask b s) 1
/-- R192. v[a] of lane s[b] mod 32, zero-extended. -/
def execVext (d : SReg) (a : VReg) (b : SReg) (s : State) : Out :=
  simple (.vext d a b) s fun _ s => s.wS d ((s.rV a (Fin.ofNat 32 (s.rS b).toNat)).setWidth 64)
/-- R193. The sign-extended immediate modulo 2^32 in every lane of m. -/
def execVmovi (d : VReg) (imm : BitVec 18) (s : State) : Out :=
  simple (.vmovi d imm) s fun b s => s.writeLanes b d fun _ => (immS b imm).setWidth 32

end Sys2Proof.Machine
end

