-- ==== Sys2Proof/Machine/Dispatch.lean ====
section
/-!
DEFINITION. The arms of the machine: one per constructor, each one call of its meaning.
-/

namespace Sys2Proof.Machine

def exec (i : Instr) (s : State) : Host.Outcome State Fault Refusal :=
  match i with
  | .add d a b => Sys2Proof.Machine.execAdd d a b s
  | .sub d a b => Sys2Proof.Machine.execSub d a b s
  | .mul d a b => Sys2Proof.Machine.execMul d a b s
  | .mulh d a b => Sys2Proof.Machine.execMulh d a b s
  | .mulhn d a b => Sys2Proof.Machine.execMulhn d a b s
  | .div d a b => Sys2Proof.Machine.execDiv d a b s
  | .divn d a b => Sys2Proof.Machine.execDivn d a b s
  | .rem d a b => Sys2Proof.Machine.execRem d a b s
  | .remn d a b => Sys2Proof.Machine.execRemn d a b s
  | .min d a b => Sys2Proof.Machine.execMin d a b s
  | .max d a b => Sys2Proof.Machine.execMax d a b s
  | .minn d a b => Sys2Proof.Machine.execMinn d a b s
  | .maxn d a b => Sys2Proof.Machine.execMaxn d a b s
  | .and d a b => Sys2Proof.Machine.execAnd d a b s
  | .or d a b => Sys2Proof.Machine.execOr d a b s
  | .xor d a b => Sys2Proof.Machine.execXor d a b s
  | .andn d a b => Sys2Proof.Machine.execAndn d a b s
  | .shl d a b => Sys2Proof.Machine.execShl d a b s
  | .shr d a b => Sys2Proof.Machine.execShr d a b s
  | .sar d a b => Sys2Proof.Machine.execSar d a b s
  | .seq d a b => Sys2Proof.Machine.execSeq d a b s
  | .sne d a b => Sys2Proof.Machine.execSne d a b s
  | .slt d a b => Sys2Proof.Machine.execSlt d a b s
  | .sltn d a b => Sys2Proof.Machine.execSltn d a b s
  | .sel d a b => Sys2Proof.Machine.execSel d a b s
  | .clz d a => Sys2Proof.Machine.execClz d a s
  | .ctz d a => Sys2Proof.Machine.execCtz d a s
  | .popc d a => Sys2Proof.Machine.execPopc d a s
  | .brev d a => Sys2Proof.Machine.execBrev d a s
  | .bfx d a pos len => Sys2Proof.Machine.execBfx d a pos len s
  | .bfi d a pos len => Sys2Proof.Machine.execBfi d a pos len s
  | .addi d a imm => Sys2Proof.Machine.execAddi d a imm s
  | .andi d a imm => Sys2Proof.Machine.execAndi d a imm s
  | .ori d a imm => Sys2Proof.Machine.execOri d a imm s
  | .xori d a imm => Sys2Proof.Machine.execXori d a imm s
  | .shli d a n => Sys2Proof.Machine.execShli d a n s
  | .shri d a n => Sys2Proof.Machine.execShri d a n s
  | .sari d a n => Sys2Proof.Machine.execSari d a n s
  | .slti d a imm => Sys2Proof.Machine.execSlti d a imm s
  | .movi d imm => Sys2Proof.Machine.execMovi d imm s
  | .addpc d imm => Sys2Proof.Machine.execAddpc d imm s
  | .sfaddF64 d a b => Sys2Proof.Machine.execSfaddF64 d a b s
  | .sfsubF64 d a b => Sys2Proof.Machine.execSfsubF64 d a b s
  | .sfmulF64 d a b => Sys2Proof.Machine.execSfmulF64 d a b s
  | .sffmaF64 d a b => Sys2Proof.Machine.execSffmaF64 d a b s
  | .sfdivF64 d a b => Sys2Proof.Machine.execSfdivF64 d a b s
  | .sfcmpF64 d a b => Sys2Proof.Machine.execSfcmpF64 d a b s
  | .sfcvtF64 d a b => Sys2Proof.Machine.execSfcvtF64 d a b s
  | .sfaddF32 d a b => Sys2Proof.Machine.execSfaddF32 d a b s
  | .sfsubF32 d a b => Sys2Proof.Machine.execSfsubF32 d a b s
  | .sfmulF32 d a b => Sys2Proof.Machine.execSfmulF32 d a b s
  | .sffmaF32 d a b => Sys2Proof.Machine.execSffmaF32 d a b s
  | .sfdivF32 d a b => Sys2Proof.Machine.execSfdivF32 d a b s
  | .sfcmpF32 d a b => Sys2Proof.Machine.execSfcmpF32 d a b s
  | .sfcvtF32 d a b => Sys2Proof.Machine.execSfcvtF32 d a b s
  | .ldb d sa nd imm => Sys2Proof.Machine.execLdb d sa nd imm s
  | .ldbs d sa nd imm => Sys2Proof.Machine.execLdbs d sa nd imm s
  | .ldh d sa nd imm => Sys2Proof.Machine.execLdh d sa nd imm s
  | .ldhs d sa nd imm => Sys2Proof.Machine.execLdhs d sa nd imm s
  | .ldw d sa nd imm => Sys2Proof.Machine.execLdw d sa nd imm s
  | .ldws d sa nd imm => Sys2Proof.Machine.execLdws d sa nd imm s
  | .ldd d sa nd imm => Sys2Proof.Machine.execLdd d sa nd imm s
  | .stb d sa nd imm => Sys2Proof.Machine.execStb d sa nd imm s
  | .sth d sa nd imm => Sys2Proof.Machine.execSth d sa nd imm s
  | .stw d sa nd imm => Sys2Proof.Machine.execStw d sa nd imm s
  | .std d sa nd imm => Sys2Proof.Machine.execStd d sa nd imm s
  | .br disp => Sys2Proof.Machine.execBr disp s
  | .brc c a disp => Sys2Proof.Machine.execBrc c a disp s
  | .call disp => Sys2Proof.Machine.execCall disp s
  | .callr a => Sys2Proof.Machine.execCallr a s
  | .ret => Sys2Proof.Machine.execRet s
  | .jmpr a => Sys2Proof.Machine.execJmpr a s
  | .mfs d n => Sys2Proof.Machine.execMfs d n s
  | .mts n a => Sys2Proof.Machine.execMts n a s
  | .nop => Sys2Proof.Machine.execNop s
  | .brk code => Sys2Proof.Machine.execBrk code s
  | .sys code => Sys2Proof.Machine.execSys code s
  | .clk d => Sys2Proof.Machine.execClk d s
  | .exit => Sys2Proof.Machine.execExit s
  | .yield => Sys2Proof.Machine.execYield s
  | .mfc d n => Sys2Proof.Machine.execMfc d n s
  | .mtc n a => Sys2Proof.Machine.execMtc n a s
  | .eret => Sys2Proof.Machine.execEret s
  | .tlbi a b => Sys2Proof.Machine.execTlbi a b s
  | .idle => Sys2Proof.Machine.execIdle s
  | .vaddF32 d a b => Sys2Proof.Machine.execVaddF32 d a b s
  | .vsubF32 d a b => Sys2Proof.Machine.execVsubF32 d a b s
  | .vmulF32 d a b => Sys2Proof.Machine.execVmulF32 d a b s
  | .vfmaF32 d a b => Sys2Proof.Machine.execVfmaF32 d a b s
  | .vfmsF32 d a b => Sys2Proof.Machine.execVfmsF32 d a b s
  | .vfnmaF32 d a b => Sys2Proof.Machine.execVfnmaF32 d a b s
  | .vminF32 d a b => Sys2Proof.Machine.execVminF32 d a b s
  | .vmaxF32 d a b => Sys2Proof.Machine.execVmaxF32 d a b s
  | .vabsF32 d a => Sys2Proof.Machine.execVabsF32 d a s
  | .vnegF32 d a => Sys2Proof.Machine.execVnegF32 d a s
  | .vscaleF32 d a b => Sys2Proof.Machine.execVscaleF32 d a b s
  | .vgetexpF32 d a => Sys2Proof.Machine.execVgetexpF32 d a s
  | .vrndF32 d a => Sys2Proof.Machine.execVrndF32 d a s
  | .vclampF32 d a b => Sys2Proof.Machine.execVclampF32 d a b s
  | .vmovF32 d a => Sys2Proof.Machine.execVmovF32 d a s
  | .vaddF16x2 d a b => Sys2Proof.Machine.execVaddF16x2 d a b s
  | .vsubF16x2 d a b => Sys2Proof.Machine.execVsubF16x2 d a b s
  | .vmulF16x2 d a b => Sys2Proof.Machine.execVmulF16x2 d a b s
  | .vfmaF16x2 d a b => Sys2Proof.Machine.execVfmaF16x2 d a b s
  | .vfmsF16x2 d a b => Sys2Proof.Machine.execVfmsF16x2 d a b s
  | .vfnmaF16x2 d a b => Sys2Proof.Machine.execVfnmaF16x2 d a b s
  | .vminF16x2 d a b => Sys2Proof.Machine.execVminF16x2 d a b s
  | .vmaxF16x2 d a b => Sys2Proof.Machine.execVmaxF16x2 d a b s
  | .vabsF16x2 d a => Sys2Proof.Machine.execVabsF16x2 d a s
  | .vnegF16x2 d a => Sys2Proof.Machine.execVnegF16x2 d a s
  | .vaddBf16x2 d a b => Sys2Proof.Machine.execVaddBf16x2 d a b s
  | .vsubBf16x2 d a b => Sys2Proof.Machine.execVsubBf16x2 d a b s
  | .vmulBf16x2 d a b => Sys2Proof.Machine.execVmulBf16x2 d a b s
  | .vfmaBf16x2 d a b => Sys2Proof.Machine.execVfmaBf16x2 d a b s
  | .vfmsBf16x2 d a b => Sys2Proof.Machine.execVfmsBf16x2 d a b s
  | .vfnmaBf16x2 d a b => Sys2Proof.Machine.execVfnmaBf16x2 d a b s
  | .vminBf16x2 d a b => Sys2Proof.Machine.execVminBf16x2 d a b s
  | .vmaxBf16x2 d a b => Sys2Proof.Machine.execVmaxBf16x2 d a b s
  | .vabsBf16x2 d a => Sys2Proof.Machine.execVabsBf16x2 d a s
  | .vnegBf16x2 d a => Sys2Proof.Machine.execVnegBf16x2 d a s
  | .vcmpf c d a b => Sys2Proof.Machine.execVcmpf c d a b s
  | .vaddI32 d a b => Sys2Proof.Machine.execVaddI32 d a b s
  | .vsubI32 d a b => Sys2Proof.Machine.execVsubI32 d a b s
  | .vmulI32 d a b => Sys2Proof.Machine.execVmulI32 d a b s
  | .vmulh d a b => Sys2Proof.Machine.execVmulh d a b s
  | .vmulhn d a b => Sys2Proof.Machine.execVmulhn d a b s
  | .vmad d a b => Sys2Proof.Machine.execVmad d a b s
  | .vminI32 d a b => Sys2Proof.Machine.execVminI32 d a b s
  | .vmaxI32 d a b => Sys2Proof.Machine.execVmaxI32 d a b s
  | .vminn d a b => Sys2Proof.Machine.execVminn d a b s
  | .vmaxn d a b => Sys2Proof.Machine.execVmaxn d a b s
  | .vabsI32 d a => Sys2Proof.Machine.execVabsI32 d a s
  | .vnegI32 d a => Sys2Proof.Machine.execVnegI32 d a s
  | .vaddsI32 d a b => Sys2Proof.Machine.execVaddsI32 d a b s
  | .vsubsI32 d a b => Sys2Proof.Machine.execVsubsI32 d a b s
  | .vavgI32 d a b => Sys2Proof.Machine.execVavgI32 d a b s
  | .vaddI16 d a b => Sys2Proof.Machine.execVaddI16 d a b s
  | .vsubI16 d a b => Sys2Proof.Machine.execVsubI16 d a b s
  | .vaddsI16 d a b => Sys2Proof.Machine.execVaddsI16 d a b s
  | .vsubsI16 d a b => Sys2Proof.Machine.execVsubsI16 d a b s
  | .vaddsN16 d a b => Sys2Proof.Machine.execVaddsN16 d a b s
  | .vsubsN16 d a b => Sys2Proof.Machine.execVsubsN16 d a b s
  | .vavgI16 d a b => Sys2Proof.Machine.execVavgI16 d a b s
  | .vavgN16 d a b => Sys2Proof.Machine.execVavgN16 d a b s
  | .vaddI8 d a b => Sys2Proof.Machine.execVaddI8 d a b s
  | .vsubI8 d a b => Sys2Proof.Machine.execVsubI8 d a b s
  | .vaddsI8 d a b => Sys2Proof.Machine.execVaddsI8 d a b s
  | .vsubsI8 d a b => Sys2Proof.Machine.execVsubsI8 d a b s
  | .vaddsN8 d a b => Sys2Proof.Machine.execVaddsN8 d a b s
  | .vsubsN8 d a b => Sys2Proof.Machine.execVsubsN8 d a b s
  | .vavgI8 d a b => Sys2Proof.Machine.execVavgI8 d a b s
  | .vavgN8 d a b => Sys2Proof.Machine.execVavgN8 d a b s
  | .vand d a b => Sys2Proof.Machine.execVand d a b s
  | .vor d a b => Sys2Proof.Machine.execVor d a b s
  | .vxor d a b => Sys2Proof.Machine.execVxor d a b s
  | .vandn d a b => Sys2Proof.Machine.execVandn d a b s
  | .vshl d a b => Sys2Proof.Machine.execVshl d a b s
  | .vshr d a b => Sys2Proof.Machine.execVshr d a b s
  | .vsar d a b => Sys2Proof.Machine.execVsar d a b s
  | .vpopc d a => Sys2Proof.Machine.execVpopc d a s
  | .vclz d a => Sys2Proof.Machine.execVclz d a s
  | .vbrev d a => Sys2Proof.Machine.execVbrev d a s
  | .vbfx d a b => Sys2Proof.Machine.execVbfx d a b s
  | .vbfi d a b => Sys2Proof.Machine.execVbfi d a b s
  | .vsel k d a b => Sys2Proof.Machine.execVsel k d a b s
  | .vcmpi c d a b => Sys2Proof.Machine.execVcmpi c d a b s
  | .vcvt c d a sat => Sys2Proof.Machine.execVcvt c d a sat s
  | .vrcp d a => Sys2Proof.Machine.execVrcp d a s
  | .vrsq d a => Sys2Proof.Machine.execVrsq d a s
  | .vsqrt d a => Sys2Proof.Machine.execVsqrt d a s
  | .vexp2 d a => Sys2Proof.Machine.execVexp2 d a s
  | .vlog2 d a => Sys2Proof.Machine.execVlog2 d a s
  | .vsin d a => Sys2Proof.Machine.execVsin d a s
  | .vcos d a => Sys2Proof.Machine.execVcos d a s
  | .vtanh d a => Sys2Proof.Machine.execVtanh d a s
  | .vsigm d a => Sys2Proof.Machine.execVsigm d a s
  | .vdot4i d a b => Sys2Proof.Machine.execVdot4i d a b s
  | .vdot4n d a b => Sys2Proof.Machine.execVdot4n d a b s
  | .vdot2bf d a b => Sys2Proof.Machine.execVdot2bf d a b s
  | .vdot2h d a b => Sys2Proof.Machine.execVdot2h d a b s
  | .vmovs d a => Sys2Proof.Machine.execVmovs d a s
  | .vmovsh d a => Sys2Proof.Machine.execVmovsh d a s
  | .vlane d => Sys2Proof.Machine.execVlane d s
  | .vrand d => Sys2Proof.Machine.execVrand d s
  | .vext d a b => Sys2Proof.Machine.execVext d a b s
  | .vmovi d imm => Sys2Proof.Machine.execVmovi d imm s
  | .vshflIdx d a b => Sys2Proof.Machine.execVshflIdx d a b s
  | .vshflUp d a b => Sys2Proof.Machine.execVshflUp d a b s
  | .vshflDown d a b => Sys2Proof.Machine.execVshflDown d a b s
  | .vshflXor d a b => Sys2Proof.Machine.execVshflXor d a b s
  | .vshflBcast d a b => Sys2Proof.Machine.execVshflBcast d a b s
  | .vshflUpImm d a n => Sys2Proof.Machine.execVshflUpImm d a n s
  | .vshflDownImm d a n => Sys2Proof.Machine.execVshflDownImm d a n s
  | .vshflXorImm d a n => Sys2Proof.Machine.execVshflXorImm d a n s
  | .vshflBcastImm d a n => Sys2Proof.Machine.execVshflBcastImm d a n s
  | .vany d a => Sys2Proof.Machine.execVany d a s
  | .vall d a => Sys2Proof.Machine.execVall d a s
  | .vballot d a => Sys2Proof.Machine.execVballot d a s
  | .vmatch d a => Sys2Proof.Machine.execVmatch d a s
  | .vred o d a => Sys2Proof.Machine.execVred o d a s
  | .vscan o d a => Sys2Proof.Machine.execVscan o d a s
  | .vtopk k d a b => Sys2Proof.Machine.execVtopk k d a b s
  | .brv k disp => Sys2Proof.Machine.execBrv k disp s
  | .jpt disp => Sys2Proof.Machine.execJpt disp s
  | .join => Sys2Proof.Machine.execJoin s
  | .bany k disp => Sys2Proof.Machine.execBany k disp s
  | .ball k disp => Sys2Proof.Machine.execBall k disp s
  | .cjoin a => Sys2Proof.Machine.execCjoin a s
  | .cleave a => Sys2Proof.Machine.execCleave a s
  | .carrive a => Sys2Proof.Machine.execCarrive a s
  | .cwait a => Sys2Proof.Machine.execCwait a s
  | .csync a => Sys2Proof.Machine.execCsync a s
  | .ccount d a => Sys2Proof.Machine.execCcount d a s
  | .setfmt imm => Sys2Proof.Machine.execSetfmt imm s
  | .settile imm => Sys2Proof.Machine.execSettile imm s
  | .vldb d sa b nd sc => Sys2Proof.Machine.execVldb d sa b nd sc s
  | .vldbs d sa b nd sc => Sys2Proof.Machine.execVldbs d sa b nd sc s
  | .vldh d sa b nd sc => Sys2Proof.Machine.execVldh d sa b nd sc s
  | .vldhs d sa b nd sc => Sys2Proof.Machine.execVldhs d sa b nd sc s
  | .vldw d sa b nd sc => Sys2Proof.Machine.execVldw d sa b nd sc s
  | .vldd d sa b nd sc => Sys2Proof.Machine.execVldd d sa b nd sc s
  | .vldq d sa b nd sc => Sys2Proof.Machine.execVldq d sa b nd sc s
  | .vstb d sa b nd sc => Sys2Proof.Machine.execVstb d sa b nd sc s
  | .vsth d sa b nd sc => Sys2Proof.Machine.execVsth d sa b nd sc s
  | .vstw d sa b nd sc => Sys2Proof.Machine.execVstw d sa b nd sc s
  | .vstd d sa b nd sc => Sys2Proof.Machine.execVstd d sa b nd sc s
  | .vstq d sa b nd sc => Sys2Proof.Machine.execVstq d sa b nd sc s
  | .amoa o d b sa ret => Sys2Proof.Machine.execAmoa o d b sa ret s
  | .amol o d b sa ret => Sys2Proof.Machine.execAmol o d b sa ret s
  | .samoadd d a b => Sys2Proof.Machine.execSamoadd d a b s
  | .samocas d a b => Sys2Proof.Machine.execSamocas d a b s
  | .samoswap d a b => Sys2Proof.Machine.execSamoswap d a b s
  | .samomax d a b => Sys2Proof.Machine.execSamomax d a b s
  | .waitc c a b => Sys2Proof.Machine.execWaitc c a b s
  | .fence => Sys2Proof.Machine.execFence s
  | .cline a => Sys2Proof.Machine.execCline a s
  | .pf a => Sys2Proof.Machine.execPf a s
  | .gaddr d a => Sys2Proof.Machine.execGaddr d a s
  | .copy z d a b => Sys2Proof.Machine.execCopy z d a b s
  | .copyr o d a b => Sys2Proof.Machine.execCopyr o d a b s
  | .tcopy d a b => Sys2Proof.Machine.execTcopy d a b s
  | .tcopyIn d a b => Sys2Proof.Machine.execTcopyIn d a b s
  | .tcopyOut d a b => Sys2Proof.Machine.execTcopyOut d a b s
  | .shpw d a => Sys2Proof.Machine.execShpw d a s
  | .shpi a => Sys2Proof.Machine.execShpi a s
  | .sealB d => Sys2Proof.Machine.execSeal d s
  | .waitb a => Sys2Proof.Machine.execWaitb a s
  | .mma d a b => Sys2Proof.Machine.execMma d a b s
  | .mmam d a b => Sys2Proof.Machine.execMmam d a b s
  | .mmas d a b => Sys2Proof.Machine.execMmas d a b s
  | .mma2 d a b => Sys2Proof.Machine.execMma2 d a b s
  | .acld d a b => Sys2Proof.Machine.execAcld d a b s
  | .acst d a b => Sys2Proof.Machine.execAcst d a b s
  | .acz a b => Sys2Proof.Machine.execAcz a b s
  | .mrel => Sys2Proof.Machine.execMrel s
  | .layer a b => Sys2Proof.Machine.execLayer a b s
  | .layerx2 a b => Sys2Proof.Machine.execLayerx2 a b s
  | .layert a b => Sys2Proof.Machine.execLayert a b s
  | .rceq d a => Sys2Proof.Machine.execRceq d a s
  | .rcepin a => Sys2Proof.Machine.execRcepin a s
  | .rceunpin a => Sys2Proof.Machine.execRceunpin a s
  | .bsq a b => Sys2Proof.Machine.execBsq a b s
  | .ways d a b => Sys2Proof.Machine.execWays d a b s
  | .waysrel a => Sys2Proof.Machine.execWaysrel a s
  | .launch a b => Sys2Proof.Machine.execLaunch a b s
  | .migrate a => Sys2Proof.Machine.execMigrate a s
  | .home => Sys2Proof.Machine.execHome s
  | .pfx k z rm vc => Sys2Proof.Machine.execPfx k z rm vc s
  | .ord scope order nd => Sys2Proof.Machine.execOrd scope order nd s
  | .limm high => Sys2Proof.Machine.execLimm high s
  | .hint kind arg => Sys2Proof.Machine.execHint kind arg s
  | .bwid a => Sys2Proof.Machine.execBwid a s
  | .bnot a d => Sys2Proof.Machine.execBnot a d s
  | .band a b d => Sys2Proof.Machine.execBand a b d s
  | .bor a b d => Sys2Proof.Machine.execBor a b d s
  | .bxor a b d => Sys2Proof.Machine.execBxor a b d s
  | .badd a b d => Sys2Proof.Machine.execBadd a b d s
  | .bsub a b d => Sys2Proof.Machine.execBsub a b d s
  | .bcmplt a b d => Sys2Proof.Machine.execBcmplt a b d s
  | .bcmpeq a b d => Sys2Proof.Machine.execBcmpeq a b d s
  | .bsel a b d => Sys2Proof.Machine.execBsel a b d s
  | .bshl a b d => Sys2Proof.Machine.execBshl a b d s
  | .bshr a b d => Sys2Proof.Machine.execBshr a b d s
  | .bpopc a d => Sys2Proof.Machine.execBpopc a d s
  | .bcopy a d => Sys2Proof.Machine.execBcopy a d s
  | .bset b d => Sys2Proof.Machine.execBset b d s
  | .bcount a d => Sys2Proof.Machine.execBcount a d s
  | .bend => Sys2Proof.Machine.execBend s
  | .circleWake p => Sys2Proof.Machine.execCircleWake p s
  | .waitbWake p => Sys2Proof.Machine.execWaitbWake p s
  | .idleWake p => Sys2Proof.Machine.execIdleWake p s
  | .yieldHoldExpire p => Sys2Proof.Machine.execYieldHoldExpire p s
  | .pathOverdue p => Sys2Proof.Machine.execPathOverdue p s
  | .ringCycle => Sys2Proof.Machine.execRingCycle s
  | .injectorLapStart => Sys2Proof.Machine.execInjectorLapStart s
  | .pledgeRaise core => Sys2Proof.Machine.execPledgeRaise core s
  | .priceTableUpdate t => Sys2Proof.Machine.execPriceTableUpdate t s
  | .setPowerLimit watts => Sys2Proof.Machine.execSetPowerLimit watts s
  | .setWfw w => Sys2Proof.Machine.execSetWfw w s
  | .setClusterFrequency cl mhz => Sys2Proof.Machine.execSetClusterFrequency cl mhz s
  | .fllStep cl => Sys2Proof.Machine.execFllStep cl s
  | .droopTrip cl => Sys2Proof.Machine.execDroopTrip cl s
  | .droopClear cl => Sys2Proof.Machine.execDroopClear cl s
  | .boostStep g core => Sys2Proof.Machine.execBoostStep g core s
  | .boostReturn core => Sys2Proof.Machine.execBoostReturn core s
  | .engineRampComplete core => Sys2Proof.Machine.execEngineRampComplete core s
  | .engineRampExpire core => Sys2Proof.Machine.execEngineRampExpire core s
  | .tailDoorbell q v size => Sys2Proof.Machine.execTailDoorbell q v size s
  | .headRegisterWrite q v => Sys2Proof.Machine.execHeadRegisterWrite q v s
  | .cardFetch q => Sys2Proof.Machine.execCardFetch q s
  | .gangPlace q => Sys2Proof.Machine.execGangPlace q s
  | .gangRetire g => Sys2Proof.Machine.execGangRetire g s
  | .launchPost q => Sys2Proof.Machine.execLaunchPost q s
  | .gclkAdvance g => Sys2Proof.Machine.execGclkAdvance g s
  | .tclkAdvance part => Sys2Proof.Machine.execTclkAdvance part s
  | .epochAdvance inst => Sys2Proof.Machine.execEpochAdvance inst s
  | .rateRemeasure inst req => Sys2Proof.Machine.execRateRemeasure inst req s
  | .penaltyWindowClose inst part => Sys2Proof.Machine.execPenaltyWindowClose inst part s
  | .loadReturn n => Sys2Proof.Machine.execLoadReturn n s
  | .storePerform g t n => Sys2Proof.Machine.execStorePerform g t n s
  | .crossDomainWriteApply dom n => Sys2Proof.Machine.execCrossDomainWriteApply dom n s
  | .monitorFire w => Sys2Proof.Machine.execMonitorFire w s
  | .monitorPoll w => Sys2Proof.Machine.execMonitorPoll w s
  | .translationWalkComplete n => Sys2Proof.Machine.execTranslationWalkComplete n s
  | .copyElement w n => Sys2Proof.Machine.execCopyElement w n s
  | .copyComplete w => Sys2Proof.Machine.execCopyComplete w s
  | .orderedGroupAdd w => Sys2Proof.Machine.execOrderedGroupAdd w s
  | .replayEntryRun g n => Sys2Proof.Machine.execReplayEntryRun g n s
  | .leaseStart core => Sys2Proof.Machine.execLeaseStart core s
  | .accumulationStep core => Sys2Proof.Machine.execAccumulationStep core s
  | .leaseExpire core => Sys2Proof.Machine.execLeaseExpire core s
  | .matrixComplete w => Sys2Proof.Machine.execMatrixComplete w s
  | .adapterStage w => Sys2Proof.Machine.execAdapterStage w s
  | .tilePassStart w n => Sys2Proof.Machine.execTilePassStart w n s
  | .tilePassComplete w n => Sys2Proof.Machine.execTilePassComplete w n s
  | .layerComplete w => Sys2Proof.Machine.execLayerComplete w s
  | .rceProbePass stack tile => Sys2Proof.Machine.execRceProbePass stack tile s
  | .epochPublish stack => Sys2Proof.Machine.execEpochPublish stack s
  | .tileRefresh stack tile => Sys2Proof.Machine.execTileRefresh stack tile s
  | .pinLapse g region => Sys2Proof.Machine.execPinLapse g region s
  | .fieldConversionComplete w => Sys2Proof.Machine.execFieldConversionComplete w s
  | .bsqJobStart w => Sys2Proof.Machine.execBsqJobStart w s
  | .bsqJobComplete w => Sys2Proof.Machine.execBsqJobComplete w s
  | .waysrelRelease w => Sys2Proof.Machine.execWaysrelRelease w s
  | .rowActivation stack row source => Sys2Proof.Machine.execRowActivation stack row source s
  | .activationIntervalEnd stack row => Sys2Proof.Machine.execActivationIntervalEnd stack row s
  | .sequencerWatchdogReset stack => Sys2Proof.Machine.execSequencerWatchdogReset stack s
  | .sequencerResetComplete stack => Sys2Proof.Machine.execSequencerResetComplete stack s
  | .nearRegionEnd p => Sys2Proof.Machine.execNearRegionEnd p s
  | .timerCompare => Sys2Proof.Machine.execTimerCompare s
  | .slotStart => Sys2Proof.Machine.execSlotStart s
  | .saveComplete g => Sys2Proof.Machine.execSaveComplete g s
  | .saveForce g => Sys2Proof.Machine.execSaveForce g s
  | .drain scope deadline => Sys2Proof.Machine.execDrain scope deadline s
  | .drainDeadline scope => Sys2Proof.Machine.execDrainDeadline scope s
  | .resume scope => Sys2Proof.Machine.execResume scope s
  | .saveCommand part => Sys2Proof.Machine.execSaveCommand part s
  | .gangResume g => Sys2Proof.Machine.execGangResume g s
  | .clusterLendable cl => Sys2Proof.Machine.execClusterLendable cl s
  | .switchGroupBind members leader => Sys2Proof.Machine.execSwitchGroupBind members leader s
  | .switchTickSend => Sys2Proof.Machine.execSwitchTickSend s
  | .switchTickReceive slot => Sys2Proof.Machine.execSwitchTickReceive slot s
  | .savedMessage m forced => Sys2Proof.Machine.execSavedMessage m forced s
  | .setSlotLength us => Sys2Proof.Machine.execSetSlotLength us s
  | .poolEntryRelease pool part => Sys2Proof.Machine.execPoolEntryRelease pool part s
  | .partitionActivate part pcb => Sys2Proof.Machine.execPartitionActivate part pcb s
  | .partitionDeactivate part => Sys2Proof.Machine.execPartitionDeactivate part s
  | .update part pcb => Sys2Proof.Machine.execUpdate part pcb s
  | .queueEnable q desc => Sys2Proof.Machine.execQueueEnable q desc s
  | .queueDisable q => Sys2Proof.Machine.execQueueDisable q s
  | .keyMapMove unit slot => Sys2Proof.Machine.execKeyMapMove unit slot s
  | .usageIntervalClose part => Sys2Proof.Machine.execUsageIntervalClose part s
  | .signatureRecordWrite part => Sys2Proof.Machine.execSignatureRecordWrite part s
  | .logsign part => Sys2Proof.Machine.execLogsign part s
  | .loghead part v => Sys2Proof.Machine.execLoghead part v s
  | .frhead part v => Sys2Proof.Machine.execFrhead part v s
  | .frreplay part v => Sys2Proof.Machine.execFrreplay part v s
  | .frfail part v => Sys2Proof.Machine.execFrfail part v s
  | .registerWrite vf off v => Sys2Proof.Machine.execRegisterWrite vf off v s
  | .hostBar2Write vf off data => Sys2Proof.Machine.execHostBar2Write vf off data s
  | .hostBar2Read vf off len => Sys2Proof.Machine.execHostBar2Read vf off len s
  | .vfFlr vf => Sys2Proof.Machine.execVfFlr vf s
  | .flitReceive port flit => Sys2Proof.Machine.execFlitReceive port flit s
  | .portFail port => Sys2Proof.Machine.execPortFail port s
  | .routeLossTimeout m => Sys2Proof.Machine.execRouteLossTimeout m s
  | .setModnum m => Sys2Proof.Machine.execSetModnum m s
  | .powerGood => Sys2Proof.Machine.execPowerGood s
  | .bootStepComplete ok => Sys2Proof.Machine.execBootStepComplete ok s
  | .cert => Sys2Proof.Machine.execCert s
  | .attest part nonce => Sys2Proof.Machine.execAttest part nonce s
  | .imageKeyRegister hash => Sys2Proof.Machine.execImageKeyRegister hash s
  | .imgload image => Sys2Proof.Machine.execImgload image s
  | .region region parts => Sys2Proof.Machine.execRegion region parts s
  | .powerSample watts => Sys2Proof.Machine.execPowerSample watts s
  | .thermalThrottle sensor => Sys2Proof.Machine.execThermalThrottle sensor s
  | .throttleStep => Sys2Proof.Machine.execThrottleStep s
  | .thermalShutdown sensor => Sys2Proof.Machine.execThermalShutdown sensor s
  | .powerLoss => Sys2Proof.Machine.execPowerLoss s
  | .portTrained port => Sys2Proof.Machine.execPortTrained port s

end Sys2Proof.Machine
end

