-- ==== Sys2Proof/Machine/Schedule.lean ====
section
/-!
DEFINITION. What happens next: the word a path fetches (R19, R21 to R23), the path a quadrant chooses (R162), the steps the units of the
module may take of themselves, and where a word is put so that it runs next.
-/

namespace Sys2Proof.Machine

/-! ### Errors of register files (R448; log 9) -/

/-- The name in `bad` of a register of the troupe in focus: s0 to s63, v0 to v127 from 64 on, k0 to k7 from 192 on. -/
def State.regLine (s : State) (r : Nat) : Nat := 2 ^ 50 + ((s.req.core * 4 + s.tr.quadrant) * 16 + s.tr.qslot) * 256 + r

/-- The machine check of an instruction that passes step 3 and reads a register with an uncorrectable error. -/
def State.regErr (s : State) (i : Instr) : Option Stop :=
  if step3Ok (formOf i) s && (s.readRegs i).any fun r => s.bad.contains (s.regLine r, 0) then some (.trap { cause := 11 }) else none

/-- Corrected errors, with 16 added to the UNIT: they change no value and count in CECNT. -/
def State.correct (s : State) : State :=
  let n := (s.bad.filter fun b => 16 ≤ b.2).length
  if n = 0 then s else { s with bad := s.bad.filter (fun b => b.2 < 16), ctl := { s.ctl with cecnt := s.ctl.cecnt + .ofNat 32 n } }

/-! ### Fetching and running (R19) -/

/-- An instruction the path in focus has fetched runs; a wide one finds in their places the paths that have become ready with theirs (R234). -/
noncomputable def State.runInstr (s : State) (w : BitVec 32) (i : Instr) : Out :=
  match s.regErr i with
  | some x => .next (s.stopWord w x)
  | none => exec i (s.forWide i)

/-- One turn of the loop of R19 for the path in focus: fetch, decode, execute; past the top of memory the fetch traps (R18). A word no instruction stands for traps ILLOP (R21, R52). -/
noncomputable def State.runWord (s : State) : Out :=
  match s.cur.wrap with
  | some w => .next (s.stopWord w (.trap { cause := 2, ft := true, addr := topPc.setWidth 64 }))
  | none =>
  match s.fetch with
  | .error x => .next (s.stopWord 0 x)
  | .ok (w, s) =>
    match decodeWord w with
    | .ok i => s.runInstr w i
    | .error _ => .next (s.stopWord w illop)

/-! ### The path a quadrant chooses (R162) -/

/-- Normal is 0, high 1, low 2 (R163): the order of choice. -/
def nudgeRank (n : BitVec 2) : Nat := if n = 1 then 0 else if n = 2 then 2 else 1

/-- Whether a quadrant takes path `p` before path `q` (R162); ties go to the lower troupe slot, which log 88 assigns. -/
def State.takesFirst (s : State) (p q : PathId) : Bool :=
  let x := s.slotAt? p
  let y := s.slotAt? q
  let a := (s.seat p).qslot
  let b := (s.seat q).qslot
  let tie := decide (a < b) || (a == b && p.slot == .P && q.slot == .Q)
  if x.overdue != y.overdue then x.overdue
  else if x.overdue && max x.readyAt x.lastIssue != max y.readyAt y.lastIssue then decide (max x.readyAt x.lastIssue < max y.readyAt y.lastIssue)
  else if !x.overdue && nudgeRank x.nudge != nudgeRank y.nudge then decide (nudgeRank x.nudge < nudgeRank y.nudge)
  else if !x.overdue && x.lastIssue != y.lastIssue then decide (x.lastIssue < y.lastIssue)
  else tie

/-- The paths the quadrants choose, one for each quadrant with a ready path. -/
noncomputable def State.chosen (s : State) : List PathId :=
  let ready := s.readyPaths.filter fun p => !s.holdsBack p
  ready.filter fun p => ready.all fun q => q == p || !s.sameQuadrant q p || s.takesFirst p q

/-! ### What may happen next -/

/-- What the module may do next of itself: a path's next word, a sequencer's next micro-op, a step of a unit. -/
inductive Cand where
  | path (p : PathId)
  /-- A path that is not ready tries its word again. -/
  | retry (p : PathId)
  | micro (w : Nat)
  | event (i : Instr)
  deriving DecidableEq, Repr

/-- The steps that may end a path's wait (R134, R162, R215, R298, R337, R447, R513). -/
noncomputable def pathEvents (x : Slot) (p : PathId) : List Instr :=
  if !x.live || x.frozen then []
  else
    (match x.sleep with
      | some (.waitc ..) => [Instr.monitorFire (.path p), Instr.monitorPoll (.path p)]
      | some (.circle ..) | some (.arrive ..) => [Instr.circleWake p]
      | some (.waitb ..) => [Instr.waitbWake p]
      | some (.idle _) => [Instr.idleWake p]
      | none => []) ++
    (if x.yield.isSome then [Instr.yieldHoldExpire p] else []) ++ (if x.overdue then [] else [Instr.pathOverdue p]) ++
    (if x.near.isSome then [Instr.nearRegionEnd p] else [])

noncomputable def troupeEvents (g : Gang) (t : Troupe) : List Instr :=
  pathEvents t.p ⟨g.uid, t.idx, .P⟩ ++ pathEvents t.q ⟨g.uid, t.idx, .Q⟩ ++ (List.range t.stream.length).map fun n => Instr.storePerform g.uid t.idx n

/-- The steps of a resident gang (R250, R273, R406, R483). -/
noncomputable def State.gangEvents (s : State) (g : Gang) : List Instr :=
  ((s.troupesOf g).map (troupeEvents g)).flatten ++ [Instr.gangRetire g.uid] ++ (if g.ret < g.nC * g.nT then [] else [Instr.gclkAdvance g.uid]) ++
    (if g.save.isSome then [Instr.saveComplete g.uid, Instr.saveForce g.uid] else []) ++ g.pins.map fun k => Instr.pinLapse g.uid k.region

/-- The steps of the ringmaster for a queue (R243 to R261). -/
noncomputable def queueEvents (q : Queue) : List Instr :=
  if !q.enabled then []
  else
    [Instr.cardFetch q.q] ++ (if q.cards = [] then [] else [Instr.gangPlace q.q, Instr.monitorFire (.card q.q), Instr.monitorPoll (.card q.q)]) ++
      (if q.posts = [] then [] else [Instr.launchPost q.q])

/-- The steps of a cache instance (R276, R280). -/
noncomputable def cacheEvents (c : CacheInst) : List Instr :=
  Instr.epochAdvance c.inst ::
    (c.reqrs.map fun r => [Instr.rateRemeasure c.inst r.who, Instr.penaltyWindowClose c.inst (r.who % 2 ^ 40)]).flatten

/-- The steps of an asynchronous instruction (R338 to R355, R373, R384 to R403, R415 to R421). -/
noncomputable def workEvents (x : Work) : List Instr :=
  match x.kind with
  | .copy c => ((List.range c.n).filter fun n => !c.landed n).map (Instr.copyElement x.uid) ++
      (if c.z = 16 then ((List.range c.units).filter fun u => !c.isDone u).map (fun u => Instr.copyElement x.uid (c.n + u)) else []) ++ (if c.ordc then [Instr.orderedGroupAdd x.uid] else []) ++
      [Instr.copyComplete x.uid]
  | .matrix _ => [Instr.leaseStart x.core, Instr.accumulationStep x.core, Instr.matrixComplete x.uid]
  | .layer l => [Instr.leaseStart x.core, Instr.adapterStage x.uid] ++
      ((List.range l.passes.length).map fun n => [Instr.tilePassStart x.uid n, Instr.tilePassComplete x.uid n]).flatten ++ [Instr.layerComplete x.uid]
  | .conversion _ => [Instr.fieldConversionComplete x.uid]
  | .job _ => [Instr.bsqJobStart x.uid, Instr.bsqJobComplete x.uid]
  | .release _ => [Instr.waysrelRelease x.uid]

/-- The replay entries of a gang's works (R347, R485). -/
noncomputable def State.replayEvents (s : State) : List Instr :=
  let l := (s.works.filter fun x => x.replay || match x.kind with
    | .copy c => !c.waits.isEmpty
    | _ => false).map Work.gang
  (l.eraseDups.map fun g => (List.range (l.count g)).map (Instr.replayEntryRun g)).flatten

/-- The steps of a core's units (R235, R241, R373). -/
noncomputable def coreEvents (c : Core) : List Instr :=
  (if c.wide = [] ∧ c.wideSys = [] then [] else [Instr.pledgeRaise c.core]) ++ (if c.lease.isSome then [Instr.leaseExpire c.core] else []) ++
    (match c.ramp with
      | .ramping .. => [Instr.engineRampComplete c.core]
      | .ramped _ => [Instr.engineRampExpire c.core]
      | .idle => [])

/-- The steps of a stack (R389 to R392, R515, R516, R530). -/
noncomputable def State.pileEvents (s : State) (p : Stack) : List Instr :=
  (if p.up then [Instr.epochPublish p.stack] else []) ++ (if p.resetting.isSome then [Instr.sequencerResetComplete p.stack] else [Instr.sequencerWatchdogReset p.stack]) ++
    (s.regions.map fun r => r.due.map fun d => Instr.tileRefresh p.stack (r.tiles.getD (d.1 * r.nt + d.2) 0)).flatten ++
    (p.journal.filterMap fun e => (s.region? e.region).map fun r => Instr.tileRefresh p.stack (r.tiles.getD (e.r * r.nt + e.c) 0)) ++
    (s.regions.map fun r => (r.tilesOn p.stack).map (Instr.rceProbePass p.stack)).flatten ++
    (if p.rows = [] then [] else [Instr.activationIntervalEnd p.stack 0, Instr.activationIntervalEnd p.stack (2 ^ 40)])

/-- The steps of a partition (R274, R474, R477 to R479). -/
noncomputable def partEvents (p : Partition) : List Instr :=
  if !p.active then []
  else [Instr.tclkAdvance p.id, Instr.usageIntervalClose p.id, Instr.signatureRecordWrite p.id, Instr.poolEntryRelease 0 p.id, Instr.poolEntryRelease 2 p.id]

/-- The steps of the clusters (R238, R240, R468). -/
noncomputable def State.clusterEvents (s : State) : List Instr :=
  (List.range 16).map Instr.fllStep ++ ((List.range 16).filter fun c => (s.cluster c).holder.isSome).map Instr.clusterLendable ++
    s.boosts.map (fun b => Instr.boostReturn b.2.1) ++ (s.late.map fun r => r.cores.eraseDups.map fun c => Instr.boostStep r.gang c).flatten

/-- Every step the units may take; one whose condition does not hold changes nothing (log 8). Steps that stand for analogue events, for
lost routes and for what comes from outside the module are posted in `agenda` alone. -/
noncomputable def State.due (s : State) : List Instr :=
  (s.allGangs.map s.gangEvents).flatten ++ (s.works.map workEvents).flatten ++ s.replayEvents ++ (s.queues.map queueEvents).flatten ++
    (s.saved.map fun v => Instr.gangResume v.gang.uid :: v.gang.pins.map fun k => Instr.pinLapse v.gang.uid k.region).flatten ++ (List.range s.fills.length).map Instr.loadReturn ++
    (List.range s.walks.length).map Instr.translationWalkComplete ++
    (s.held.zipIdx.map fun h => h.1.views.map fun d => Instr.crossDomainWriteApply d h.2).flatten ++
    (s.caches.map cacheEvents).flatten ++ (s.cores.map coreEvents).flatten ++ (s.piles.map s.pileEvents).flatten ++ (s.parts.map partEvents).flatten ++
    (s.drains.filterMap fun d => if d.done then none else some (Instr.drainDeadline d.scope)) ++ s.clusterEvents ++
    (if s.group.isSome then [Instr.switchTickSend] else []) ++ (if s.hot = [] ∧ s.wattsSet ≤ s.watts then [] else [Instr.throttleStep]) ++
    (match s.priceNext with
      | some _ => [Instr.priceTableUpdate ⟨0, 0, 0, 0, 0, 0⟩]
      | none => []) ++ [Instr.ringCycle, Instr.injectorLapStart, Instr.slotStart, Instr.timerCompare]

/-- The jobs whose sequencers run (R416, R420). -/
def State.runningJobs (s : State) : List Nat :=
  s.works.filterMap fun x => match x.kind with
    | .job j => if j.running && !j.ended then some x.uid else none
    | _ => none

/-- The things that may happen now: a word of each quadrant's choice, a path's try whether its wait is over, a micro-op of each running job, and the steps of the units. -/
noncomputable def State.cands (s : State) : List Cand := s.chosen.map .path ++ s.retryPaths.map .retry ++ s.runningJobs.map .micro ++ s.due.map .event

/-! ### One step -/

/-- An instruction of a path that writes a register its sibling's waiting wide instruction reads may have changed what that one's price is
formed from: an attempt forms it anew (R230, R234). -/
noncomputable def State.reprice (s t : State) (p : PathId) : State :=
  let q : PathId := { p with slot := SlotId.other p.slot }
  match s.nextInstr p, s.nextInstr q with
  | some i, some j => if j.wide && (i.sets.any fun r => (s.usedBy q j).contains r) then t.setBasis q none else t
  | _, _ => t

/-- A path of a gang that has ended in error stops once its issued instruction is complete or has stopped itself (R438). -/
def State.lastWord (s : State) (p : PathId) : State :=
  if (s.gang? p.gang).any (fun g => g.err.isSome) && (s.slotAt? p).issued.isNone then
    (s.updTroupe p.gang p.troupe fun t => { (t.setSlot p.slot {}).halt with park := none }).dropWide fun w => w == p
  else s

/-- A path runs its next word; unless it had to wait, it has issued (R134, R162). -/
noncomputable def State.runPath (s : State) (p : PathId) : Out :=
  match (s.focusTo p).runWord with
  | .next t => .next (if t.waitedAt p then t else ((s.reprice t p).noteIssued p).lastWord p)
  | o => o

/-- What the price of a path's next instruction is formed from, as an attempt without tokens finds it. -/
noncomputable def State.basisOf (s : State) (p : PathId) : Option PriceBasis :=
  let c := s.core (s.seat p).core
  match ((s.setCore { c with purse := 0, fwPurse := 0 }).focusTo p).runWord with
  | .next t => ((t.wideOf (s.seat p).sys (s.seat p).core).find? fun w => w.1 == p).bind fun w => w.2.2
  | _ => none

/-- A path that is not ready tries its word: it waits on; or it is ready from now, and issues at once where its quadrant takes it first (R162). -/
noncomputable def State.runRetry (s : State) (p : PathId) : Out :=
  match (s.focusTo p).runWord with
  | .next t =>
    .next (if t.waitedAt p then t
      else if s.readyPaths.all fun q => !s.sameQuadrant q p || s.takesFirst p q then ((s.reprice t p).noteIssued p).lastWord p
      else
        let s := s.updTroupe p.gang p.troupe fun x => x.setSlot p.slot { x.slot p.slot with waits := false, readyAt := s.cycle }
        if (s.nextWord p).any wideWord then (s.forWideAt p).setBasis p (s.basisOf p) else s)
  | o => o

/-- A sequencer runs the micro-op its job has reached (R53, R416). -/
noncomputable def State.runMicro (s : State) (w : Nat) : Out :=
  let s := { s with jobSel := w }
  match s.microWord with
  | none => .next s
  | some v =>
    match decodeMicroOp v with
    | .ok i => exec i s
    | .error _ => .next (s.badMicro v)

noncomputable def State.runCand (s : State) : Cand → Out
  | .path p => s.runPath p
  | .retry p => s.runRetry p
  | .micro w => s.runMicro w
  | .event i => exec i (s.forWide i)

/-- Time passes (log 2); corrected errors are counted (R448), and the partitions' activity is sampled (R256). -/
def State.tick (s : State) : State :=
  State.refreshActive (State.correct { s with cycle := s.cycle + 1 + Config.stepTime s.freeCtr, freeCtr := s.freeCtr + 1 })

/-- A partition's usage intervals that have ended close, each at its own end, and its lines are sampled, before anything that happens later
is counted (R477, R478, R480). -/
def State.closeEnded (s : State) (part : Nat) : State :=
  let n := s.cycle / intervalLen - (s.part part).usage.closed
  ((List.range n).foldl (fun s _ => s.closeInterval part (((s.part part).usage.closed + 1) * intervalLen)) s).sampleLines part s.cycle

/-- Time passes, and what ends at its own count of CYCLE ends (R477); lines that stores have put into an L1 have their ways (R269). -/
def State.passTime (s : State) : State :=
  let s := s.tick.placeAll
  ((s.parts.filter Partition.active).map Partition.id).foldl State.closeEnded s

/-- The choice among the things that may happen: the next of `sched`, or each in turn (log 3). A number beyond them binds a load ahead of its
issue (log 5). -/
noncomputable def State.pick (s : State) : Option Cand × State :=
  match s.sched with
  | [] => (s.cands[s.freeCtr % max 1 s.cands.length]?, s)
  | n :: r =>
    let k := s.cands.length
    (if n < k then s.cands[n]? else some (.event (.loadReturn (s.fills.length + (n - k)))), { s with sched := r })

/-- A step of a module that has power: an end in error that is due (R448); else the head of the agenda; else a thing that may happen. -/
noncomputable def State.stepPowered (s : State) : Out :=
  match s.checks, s.agenda with
  | c :: r, _ => .next (State.settleCheck { s.passTime with checks := r } c)
  | [], i :: r => exec i { s.passTime with agenda := r }
  | [], [] =>
    match s.pick with
    | (some c, s) => s.passTime.runCand c
    | (none, s) => .next s.passTime

/-- Without power only POWER_GOOD happens (R526, R530). -/
noncomputable def State.stepOnce (s : State) : Out :=
  if s.power then s.stepPowered
  else
    match s.agenda with
    | .powerGood :: r => exec .powerGood { s.tick with agenda := r }
    | _ => .fault .noPower

/-! ### Where a word is put (log 7) -/

/-- The troupe that runs a placed word: gang core 0 of core 0, all lanes active, every register at its launch value (R15, R259). -/
def bootTroupe (z : Nat) : Troupe := startTroupe 0 (0, 0) 0 0x1000 0 0 0 z
def bootGang (uid : Nat) (sys : Bool) : Gang :=
  { uid := uid, sys := sys, part := if sys then 63 else 0, vregs := 128, scru := 0x40000, acsk := 0x40000 }

/-- A word at the PC of a troupe alone on the module, its page in the TLB of its core; an instruction of system privilege in a system
gang. -/
def State.placeTroupe (s : State) (w : BitVec 32) (sys : Bool) : State :=
  let pa := s.modnum * 2 ^ 40 + 0x1000
  let e : TlbEntry := { place := 0, part := if sys then 63 else 0, va := 0x1000, ipa := 0x1000, pa := pa, size := 12, r := true, w := false,
                        x := true, mt := 0 }
  { s with power := true, agenda := [], sched := [0], checks := [], gangs := [], walks := [], held := [], nextUid := s.nextUid + 1,
           gg := bootGang s.nextUid sys, tr := bootTroupe (s.part (if sys then 63 else 0)).z, sel := .P, tlbs := e :: s.tlbs,
           bad := s.bad.filter fun b => b.1 != lineOf pa && decide (b.1 < 2 ^ 50), bells := s.bells.filter fun b => b.1 != pa / 4096,
           caches := s.caches.map fun c => c.drop (lineOf pa),
           mem := writeCells s.mem pa 4 w.toNat }

/-- A micro-op as the program of a running job on a field of one part, all its rows zero. -/
noncomputable def State.placeMicro (s : State) (w : BitVec 32) : State :=
  let p := s.part 0
  let f : FieldSlot := { gen := 1, live := true, held := true, parts := [(0, 0)], rows := List.replicate 512 0, items := [s.nextUid] }
  let j : JobWork := { field := p.fields.length, part0 := 0, parts := 1, prog := [w], status := 0, running := true }
  let x : Work := { uid := s.nextUid, gang := 0, troupe := 0, batch := 0, lanes := 1, core := 0, part := 0, sys := false, kind := .job j }
  let s := { s with power := true, agenda := [], checks := [], works := s.works ++ [x], nextUid := s.nextUid + 1,
                    bad := s.bad.filter fun b => b.2 != 5 }.setPart { p with fields := p.fields ++ [f] }
  { s with sched := [s.chosen.length + s.retryPaths.length + (s.runningJobs.length - 1)] }

/-- The word put where the next step fetches: at a troupe's PC, or, where no instruction has it, in a job's program. -/
noncomputable def State.placeWord (s : State) (nbits w : Nat) : State :=
  let word := tableWord nbits w
  match decodeWord word with
  | .ok i => s.placeTroupe word (privileged i)
  | .error _ =>
    match decodeMicroOp word with
    | .ok _ => s.placeMicro word
    | .error _ => s.placeTroupe word false

end Sys2Proof.Machine
end

