-- ==== Sys2Proof/Machine/Step.lean ====
section
/-!
DEFINITION. One step of the module, and where a word is put so that the next step runs it.
-/

namespace Sys2Proof.Machine

/-- One step (log 2, 3, 8): time passes; then what the outside world or a unit has posted, else one of the things that may happen now. -/
noncomputable def step (s : State) : Host.Outcome State Fault Refusal := s.stepOnce

/-- Log 7. The word put where the next step fetches. -/
noncomputable def State.withFetchWord (s : State) (nbits w : Nat) : State := s.placeWord nbits w

end Sys2Proof.Machine
end

