-- ==== Sys2Proof/Safety.lean ====
section
/-!
DEFINITION. What a safe run is: every step answers a next state, from states that keep the invariants claims are stated with.
-/

namespace Sys2Proof

/-- The micro-op words, which stack sequencers read (R53). -/
def Instr.isMicro : Instr → Bool
  | .bwid _ | .bnot _ _ | .band _ _ _ | .bor _ _ _ | .bxor _ _ _ | .badd _ _ _ | .bsub _ _ _ | .bcmplt _ _ _ | .bcmpeq _ _ _ | .bsel _ _ _
  | .bshl _ _ _ | .bshr _ _ _ | .bpopc _ _ | .bcopy _ _ | .bset _ _ | .bcount _ _ | .bend => true
  | _ => false

/-- What the unit that fetches such an instruction reads from a word: a sequencer a micro-op, a troupe every other (R19, R53). -/
noncomputable def readBack (i : Instr) (w : BitVec 32) : Except DecodeError Instr := if i.isMicro then decodeMicroOp w else decodeWord w

/-! ### The terms statements about a troupe's instruction use -/

/-- An instruction of a form runs its meaning (R19 to R21): a live path, not about to leave a NEAR region (R511), the checks of step 3
passed (R35, R40 to R43, R51, R52). -/
def Runs (i : Machine.Form) (s : Machine.State) : Prop :=
  s.cur.live = true ∧ s.leavesNear i = false ∧ Machine.step3Ok i s = true

/-- The same of an instruction whose successor word is not above the top of memory (R18). -/
def RunsOn (i : Instr) (s : Machine.State) : Prop := Runs (Machine.formOf i) s ∧ s.pc ≠ Machine.topPc

/-- The state as an instruction finds it: its attachments bound and no longer pending, a HINT applied (R39, R45). -/
def Machine.State.bound (s : Machine.State) : Machine.State :=
  Machine.State.applyHint (s.setCur { s.cur with att := {} }) s.cur.att.hint

/-- The attachments bound (R39 to R45). -/
def Machine.State.att (s : Machine.State) : Machine.Bound := s.cur.att.bound

/-- The path at the next word (R17), with nothing of the instruction's walks or waits left (R454, R234). -/
def Machine.State.onward (s : Machine.State) : Machine.State := s.setCur { s.cur.onward with pc := s.pc + 4 }

/-- The path at a target (R17). -/
def Machine.State.at_ (s : Machine.State) (a : Word64) : Machine.State :=
  s.setCur { s.cur.onward with pc := a.setWidth 48 }

/-- The path where the instruction itself has put it. -/
def Machine.State.rests (s : Machine.State) : Machine.State := s.setCur s.cur.onward

/-- A trap of the path in focus is taken at once: it is in no NEAR region, which would end first (R512), and neither an instruction of its
sibling that has issued and is not complete and may stop first (R434, R435) nor ORD acquire (R344) makes it wait. -/
abbrev TrapsNow (s : Machine.State) : Prop := s.cur.near = none ∧ s.trapWaits = false

/-- No asynchronous work with ORD acquire holds back the accesses of the path in focus (R344, R402). -/
abbrev Unheld (s : Machine.State) : Prop := s.heldBack s.pmask = false

/-- An order that acquires, one that releases (R285). -/
def Acquires (m : Machine.AccMode) : Prop := m.order = .acquire ∨ m.order = .acqRel
def Releases (m : Machine.AccMode) : Prop := m.order = .release ∨ m.order = .acqRel

/-- Every byte of memory, of the gang's scratchpads and of its accumulator store reads as before, whoever reads it, and the same stores wait to
perform. -/
def SameBytes (s t : Machine.State) : Prop :=
  (∀ r g scope l, t.readLoc r g scope l = s.readLoc r g scope l) ∧ t.gg.scratch = s.gg.scratch ∧ t.gg.acs = s.gg.acs ∧
    t.tr.stream = s.tr.stream

/-- The vector and mask registers and the draw counters are as before. -/
def SameVectors (s t : Machine.State) : Prop :=
  (∀ r l, t.rV r l = s.rV r l) ∧ (∀ k, t.rK k = s.rK k) ∧ t.tr.draw = s.tr.draw

/-- The scalar registers are as before, but for the one named. -/
def SameScalarsBut (d : SReg) (s t : Machine.State) : Prop := ∀ r, r ≠ d → t.rS r = s.rS r

/-- The path's mask, FMT, JPC and frame, the sibling, the troupe's TILESZ, RBND, TRAPVEC, BATCH and path stack, the gang's registers and
circles, and the control registers are as before. -/
def SameStatus (s t : Machine.State) : Prop :=
  t.cur.mask = s.cur.mask ∧ t.cur.fmt = s.cur.fmt ∧ t.cur.jpc = s.cur.jpc ∧ t.cur.frame = s.cur.frame ∧ t.sibling = s.sibling ∧
    t.tr.tilesz = s.tr.tilesz ∧ t.tr.rbnd = s.tr.rbnd ∧ t.tr.trapvec = s.tr.trapvec ∧ t.tr.batch = s.tr.batch ∧ t.tr.psp = s.tr.psp ∧
    t.gg = s.gg ∧ t.ctl = s.ctl

/-- The scalar register an instruction of majors 0x01 to 0x0F writes and CLK's; SFCVT can also trap, and is left out (R121). -/
def Instr.scalarDest : Instr → Option SReg
  | .add d _ _ | .sub d _ _ | .mul d _ _ | .mulh d _ _ | .mulhn d _ _ | .div d _ _ | .divn d _ _ | .rem d _ _ | .remn d _ _ | .min d _ _
  | .max d _ _ | .minn d _ _ | .maxn d _ _ | .and d _ _ | .or d _ _ | .xor d _ _ | .andn d _ _ | .shl d _ _ | .shr d _ _ | .sar d _ _
  | .seq d _ _ | .sne d _ _ | .slt d _ _ | .sltn d _ _ | .sel d _ _ | .clz d _ | .ctz d _ | .popc d _ | .brev d _ | .addi d _ _
  | .andi d _ _ | .ori d _ _ | .xori d _ _ | .slti d _ _ | .shli d _ _ | .shri d _ _ | .sari d _ _ | .bfx d _ _ _ | .bfi d _ _ _
  | .movi d _ | .addpc d _ | .sfaddF64 d _ _ | .sfsubF64 d _ _ | .sfmulF64 d _ _ | .sffmaF64 d _ _ | .sfdivF64 d _ _ | .sfcmpF64 d _ _
  | .sfaddF32 d _ _ | .sfsubF32 d _ _ | .sfmulF32 d _ _ | .sffmaF32 d _ _ | .sfdivF32 d _ _ | .sfcmpF32 d _ _ | .clk d => some d
  | _ => none

/-- The destination group of a vector instruction that writes vector registers from registers (R35, R42, R168, R204). -/
def Instr.vectorDest : Instr → Option (VReg × Nat)
  | .vaddF32 d _ _ | .vsubF32 d _ _ | .vmulF32 d _ _ | .vfmaF32 d _ _ | .vfmsF32 d _ _ | .vfnmaF32 d _ _ | .vminF32 d _ _
  | .vmaxF32 d _ _ | .vabsF32 d _ | .vnegF32 d _ | .vscaleF32 d _ _ | .vgetexpF32 d _ | .vrndF32 d _ | .vclampF32 d _ _ | .vmovF32 d _
  | .vaddF16x2 d _ _ | .vsubF16x2 d _ _ | .vmulF16x2 d _ _ | .vfmaF16x2 d _ _ | .vfmsF16x2 d _ _ | .vfnmaF16x2 d _ _ | .vminF16x2 d _ _
  | .vmaxF16x2 d _ _ | .vabsF16x2 d _ | .vnegF16x2 d _ | .vaddBf16x2 d _ _ | .vsubBf16x2 d _ _ | .vmulBf16x2 d _ _ | .vfmaBf16x2 d _ _
  | .vfmsBf16x2 d _ _ | .vfnmaBf16x2 d _ _ | .vminBf16x2 d _ _ | .vmaxBf16x2 d _ _ | .vabsBf16x2 d _ | .vnegBf16x2 d _ | .vaddI32 d _ _
  | .vsubI32 d _ _ | .vmulI32 d _ _ | .vmulh d _ _ | .vmulhn d _ _ | .vmad d _ _ | .vminI32 d _ _ | .vmaxI32 d _ _ | .vminn d _ _
  | .vmaxn d _ _ | .vabsI32 d _ | .vnegI32 d _ | .vaddsI32 d _ _ | .vsubsI32 d _ _ | .vavgI32 d _ _ | .vaddI16 d _ _ | .vsubI16 d _ _
  | .vaddsI16 d _ _ | .vsubsI16 d _ _ | .vaddsN16 d _ _ | .vsubsN16 d _ _ | .vavgI16 d _ _ | .vavgN16 d _ _ | .vaddI8 d _ _
  | .vsubI8 d _ _ | .vaddsI8 d _ _ | .vsubsI8 d _ _ | .vaddsN8 d _ _ | .vsubsN8 d _ _ | .vavgI8 d _ _ | .vavgN8 d _ _ | .vand d _ _
  | .vor d _ _ | .vxor d _ _ | .vandn d _ _ | .vshl d _ _ | .vshr d _ _ | .vsar d _ _ | .vpopc d _ | .vclz d _ | .vbrev d _ | .vbfx d _ _
  | .vbfi d _ _ | .vsel _ d _ _ | .vrcp d _ | .vrsq d _ | .vsqrt d _ | .vexp2 d _ | .vlog2 d _ | .vsin d _ | .vcos d _ | .vtanh d _
  | .vsigm d _ | .vdot4i d _ _ | .vdot4n d _ _ | .vdot2bf d _ _ | .vdot2h d _ _ | .vmovs d _ | .vmovsh d _ | .vlane d | .vrand d
  | .vmovi d _ | .vshflIdx d _ _ | .vshflUp d _ _ | .vshflDown d _ _ | .vshflXor d _ _ | .vshflBcast d _ _ | .vshflUpImm d _ _
  | .vshflDownImm d _ _ | .vshflXorImm d _ _ | .vshflBcastImm d _ _ | .vred _ d _ | .vscan _ d _ => some (d, 1)
  | .vcvt c d _ _ => some (d, c.dstCount)
  | .vtopk k d _ _ => some (d, 2 * k.toNat)
  | _ => none

/-- A path's wide instruction of a price is licensed now (R229, R233, R234); price 0 needs no licence. -/
abbrev Machine.State.mayPay (s : Machine.State) (price : Nat) : Prop := price = 0 ∨ s.licensedOn s.gg.sys s.req.core s.me price = true

/-- The price is paid (R229), and the path leaves its core's list of wide instructions (R234). -/
def Machine.State.paid (s : Machine.State) (price : Nat) : Machine.State := if price = 0 then s.freeWide else s.pay price

/-- A work has joined the open batch (R335). -/
def Machine.State.joins (s : Machine.State) (kind : Machine.WorkKind) (ctr : Nat) (inc : Word32) (mode : Machine.AccMode) : Machine.State :=
  (s.addWork kind ctr inc mode).2

/-- A copy of a number of bytes has issued with its control block (R342): the price, a pool entry, the bytes charged, the batch, a TCOPY's place
among its field's items, the clip of its scope, the retirement. -/
def Machine.State.copied (t : Machine.State) (w : Machine.CopyWork) (ccb bytes : Nat) (mode : Machine.AccMode) : Machine.State :=
  let p := t.paid (t.prices.price (.bytes bytes))
  let r := p.takeCopy
  let u := if r.gg.sys then r else r.setPart { r.myPart with usage := { r.myPart.usage with bytcpy := r.myPart.usage.bytcpy + bytes } }
  let v := u.addWork (.copy w) (Machine.ccCtr ccb) (Machine.ccInc ccb) mode
  ((if w.kind = .tin ∨ w.kind = .tout then v.2.addItem v.2.gg.part w.field v.1 else v.2).noteClip mode.scope).countRetire

/-- The memory's canonical form (log 1). -/
def Safe (s : Machine.State) : Prop := Machine.Memory.wf s.mem = true

/-- A run of `n` steps that meets neither fault nor refusal. -/
def RunsFor (n : Nat) (s : Machine.State) : Prop := ∃ t, core.run n s = .next t

end Sys2Proof
end

