-- ==== Sys2Proof/Certificates/Slice0/Obligations.lean ====
section
/-!
DEFINITION. The statements for the provers. Those over a troupe's instruction say what it does where its checks pass (`Runs`, `RunsOn`), and
where it traps; those over an event say what its step does where it happens.
-/

open Sys2Proof
open Sys2Proof.Machine

/-- R34, R49 to R54: words written out from the spec's own encodings stand for the instructions it names. -/
def Obligations.SpecWordsDecode : Prop :=
  decodeWord 0x340C2F00 = .ok (Instr.std 3 2 15 0) ∧ decodeWord 0x0614310C = .ok (Instr.bfx 5 6 8 12) ∧
  decodeWord 0x88640103 = .ok (Instr.vtopk 3 16 2 3) ∧ decodeWord 0xC8050000 = .ok (Instr.sealB 20) ∧
  decodeWord 0xCA050A96 = .ok (Instr.mma 20 21 22) ∧ decodeWord 0xD0000286 = .ok (Instr.launch 5 6) ∧
  decodeMicroOp 0x30002020 = .ok (Instr.badd 0 16 32)

/-- R33, R34, R49, R53: the word of every well-formed instruction is read back as that instruction. -/
def Obligations.EncodeDecodeAgree : Prop := ∀ i : Instr, i.wellFormed = true → ∀ w, encode i = some w → readBack i w = .ok i

/-- R52, R53: a reserved major is no instruction, and a reserved code no micro-op. -/
def Obligations.ReservedWordsRefused : Prop :=
  (∀ w : BitVec 32, (w.extractLsb' 25 7).toNat ∈ [0] ++ (List.range 18).map (0x2E + ·) ++ [0x4C, 0x4D, 0x4E, 0x4F, 0x5F] ++
      (List.range 6).map (0x6A + ·) ++ (List.range 12).map (0x74 + ·) → decodeWord w = .error .reservedMajor) ∧
  ∀ w : BitVec 32, (w.extractLsb' 27 5).toNat ∈ [0] ++ (List.range 14).map (18 + ·) → decodeMicroOp w = .error .reservedMajor

/-- R19, R162: a step that a path is chosen for runs the instruction its word stands for, after time has passed; a wide one finds every path that is
ready with one in its place (R234). The path has then issued, unless it had to wait. A word that is no instruction traps ILLOP, and a register read
that meets an uncorrectable error a machine check (R448).
A step in which a path that had to wait tries again is its instruction too: it waits on; or it is ready from now, and issues at once where its
quadrant takes it first. Past the top of memory the fetch that is due traps (R18), and a fetch that fails stops as any access does (R21).
R448: an end in error that is due comes before anything else.
R53, R416: a step that a running job is chosen for runs the micro-op its program has reached.
Log 8: a posted step, and a step of a unit that is chosen, is that row's meaning; without power only POWER_GOOD happens (R526, R530). -/
def Obligations.StepRunsInstruction : Prop :=
  (∀ (s s1 s2 : State) (p : PathId) (w : BitVec 32) (again : Bool),
     s.power = true → s.checks = [] → s.agenda = [] → s.pick = (some (if again then .retry p else .path p), s1) →
     let u := s1.passTime
     let f := u.focusTo p
     let ready : State := u.updTroupe p.gang p.troupe fun x => x.setSlot p.slot { x.slot p.slot with waits := false, readyAt := u.cycle }
     let after (t : State) : State :=
       if t.waitedAt p then t
       else if again = false ∨ (u.readyPaths.all fun q => !u.sameQuadrant q p || u.takesFirst p q) = true then ((u.reprice t p).noteIssued p).lastWord p
       else if (ready.nextWord p).any wideWord then (ready.forWideAt p).setBasis p (ready.basisOf p) else ready
     (∀ v, f.cur.wrap = some v → step s = .next (after (f.stopWord v (.trap { cause := 2, ft := true, addr := 0x0000FFFFFFFFFFFC })))) ∧
     (∀ x, f.cur.wrap = none → f.fetch = .error x → step s = .next (after (f.stopWord 0 x))) ∧
     (f.cur.wrap = none → f.fetch = .ok (w, s2) →
       (∀ i t, decodeWord w = .ok i → s2.regErr i = none → exec i (s2.forWide i) = .next t → step s = .next (after t)) ∧
       (∀ i f, decodeWord w = .ok i → s2.regErr i = none → exec i (s2.forWide i) = .fault f → step s = .fault f) ∧
       (∀ i r, decodeWord w = .ok i → s2.regErr i = none → exec i (s2.forWide i) = .refused r → step s = .refused r) ∧
       (∀ i x, decodeWord w = .ok i → s2.regErr i = some x → step s = .next (after (s2.stopWord w x))) ∧
       (∀ e, decodeWord w = .error e → step s = .next (after (s2.stopWord w (.trap { cause := 1 })))))) ∧
  (∀ (s s1 : State) (u : Nat) (w : BitVec 32) (i : Instr),
     s.power = true → s.checks = [] → s.agenda = [] → s.pick = (some (.micro u), s1) →
     ({ s1.passTime with jobSel := u } : State).microWord = some w → decodeMicroOp w = .ok i →
     step s = exec i { s1.passTime with jobSel := u }) ∧
  ((∀ (s : State) (c : Check) (r : List Check), s.power = true → s.checks = c :: r → step s = .next (State.settleCheck { s.passTime with checks := r } c)) ∧
   (∀ (s : State) (i : Instr) (r : List Instr), s.power = true → s.checks = [] → s.agenda = i :: r →
     step s = exec i { s.passTime with agenda := r }) ∧
   (∀ (s s1 : State) (i : Instr), s.power = true → s.checks = [] → s.agenda = [] → s.pick = (some (.event i), s1) →
     step s = exec i (s1.passTime.forWide i)) ∧
   (∀ (s : State) (r : List Instr), s.power = false → s.agenda = Instr.powerGood :: r → step s = exec Instr.powerGood { s.tick with agenda := r }) ∧
   (∀ s : State, s.power = false → (∀ r, s.agenda ≠ Instr.powerGood :: r) → step s = .fault .noPower))

/-- R443 (the control registers at reset), R228 (WFW), R231 (the price table), R30 (CYCLE), R389 (no epoch is published), R30. -/
def Obligations.ResetState : Prop :=
  (State.reset.ctl.read 0 = some 0 ∧ State.reset.ctl.read 1 = some 0 ∧ State.reset.ctl.read 2 = some 0 ∧ State.reset.ctl.read 3 = some 0 ∧
    State.reset.ctl.read 4 = some 0 ∧ State.reset.ctl.read 5 = some 0 ∧ State.reset.ctl.read 6 = some 0 ∧
    State.reset.ctl.read 7 = some 0xFFFFFFFFFFFFFFFF ∧ State.reset.ctl.read 8 = some 0 ∧ State.reset.ctl.read 9 = some 0 ∧
    State.reset.ctl.read 10 = some 0) ∧
  State.reset.wfw = 64 ∧ State.reset.cycle = 0 ∧ (∀ h, (State.reset.pile h).epoch = 0) ∧
  priceNat State.reset.prices = 4096 * 2 ^ 256 + 4 * 2 ^ 232 + 4 * 2 ^ 224 + 8192 * 2 ^ 192 + 4096 * 2 ^ 160 + 2048 * 2 ^ 128 + 8192 * 2 ^ 96 +
    658 * 2 ^ 80 + 1250 * 2 ^ 64

/-- The memory's canonical form, the model's own choice of data for memory (log 1; no rule states it), holds at reset. -/
def Obligations.ResetSafe : Prop := Safe State.reset

/-- From every state whose memory has the canonical form, the model's own choice of data for memory (log 1; no rule states it), a step that answers a
next state keeps it. -/
def Obligations.StepKeepsSafe : Prop := ∀ s t : State, Safe s → step s = .next t → Safe t

/-- R110, with the edge cases of R77: with x := s[a] and y := s[b], each instruction writes s[d] (a write to s0 is discarded, R12), goes on at the next
word and changes nothing else. -/
def Obligations.ScalarArithmetic : Prop :=
  ∀ (s : State) (d a b : SReg) (i : Instr) (v : Word64),
    let x := s.rS a
    let y := s.rS b
    (i, v) ∈ [(Instr.add d a b, x + y), (Instr.sub d a b, x - y), (Instr.mul d a b, x * y),
      (Instr.mulh d a b, (x.signExtend 128 * y.signExtend 128).extractLsb' 64 64),
      (Instr.mulhn d a b, (x.setWidth 128 * y.setWidth 128).extractLsb' 64 64),
      (Instr.div d a b, if y = 0 then .allOnes 64 else .ofInt 64 (x.toInt.tdiv y.toInt)),
      (Instr.divn d a b, if y = 0 then .allOnes 64 else .ofNat 64 (x.toNat / y.toNat)),
      (Instr.rem d a b, if y = 0 then x else .ofInt 64 (x.toInt.tmod y.toInt)),
      (Instr.remn d a b, if y = 0 then x else .ofNat 64 (x.toNat % y.toNat)),
      (Instr.min d a b, if x.slt y then x else y), (Instr.max d a b, if x.slt y then y else x),
      (Instr.minn d a b, if x.ult y then x else y), (Instr.maxn d a b, if x.ult y then y else x)] →
    RunsOn i s → exec i s = .next (s.bound.wS d v).onward

/-- R112, R113: the same of logic, shifts by y mod 64, compares, SEL on the old s[d], and bit counts. -/
def Obligations.ScalarLogic : Prop :=
  ∀ (s : State) (d a b : SReg) (i : Instr) (v : Word64),
    let x := s.rS a
    let y := s.rS b
    let n := y.toNat % 64
    (i, v) ∈ [(Instr.and d a b, x &&& y), (Instr.or d a b, x ||| y), (Instr.xor d a b, x ^^^ y), (Instr.andn d a b, x &&& ~~~y),
      (Instr.shl d a b, x <<< n), (Instr.shr d a b, x >>> n), (Instr.sar d a b, x.sshiftRight n),
      (Instr.seq d a b, if x = y then 1 else 0), (Instr.sne d a b, if x = y then 0 else 1),
      (Instr.slt d a b, if x.toInt < y.toInt then 1 else 0), (Instr.sltn d a b, if x.toNat < y.toNat then 1 else 0),
      (Instr.sel d a b, if s.rS d = 0 then y else x), (Instr.clz d a, x.clz), (Instr.ctz d a, x.ctz), (Instr.popc d a, x.cpop),
      (Instr.brev d a, x.reverse)] →
    RunsOn i s → exec i s = .next (s.bound.wS d v).onward

/-- R36, R44: an immediate field widened, behind the LIMM that is bound.
R114 with the limits of R36: a field of len bits at pos is taken out zero-extended, or put into the old s[d]. A len of 0 or a field beyond bit 63
traps ILLOP. -/
def Obligations.ImmediatesAndBitFields : Prop :=
  (∀ (s : State) (d a : SReg) (e : BitVec 11) (n : BitVec 6) (f : BitVec 18) (i : Instr) (v : Word64),
     let x := s.rS a
     let wide (signed : Bool) : Word64 := match s.cur.att.limm with
       | none => if signed then e.signExtend 64 else e.setWidth 64
       | some h => if signed then (h ++ e).signExtend 64 else (h ++ e).setWidth 64
     let wide18 : Word64 := match s.cur.att.limm with
       | none => f.signExtend 64
       | some h => (h ++ f).signExtend 64
     (i, v) ∈ [(Instr.addi d a e, x + wide true), (Instr.andi d a e, x &&& wide false), (Instr.ori d a e, x ||| wide false),
       (Instr.xori d a e, x ^^^ wide false), (Instr.slti d a e, if x.toInt < (wide true).toInt then 1 else 0),
       (Instr.shli d a n, x <<< n.toNat), (Instr.shri d a n, x >>> n.toNat), (Instr.sari d a n, x.sshiftRight n.toNat),
       (Instr.movi d f, wide18), (Instr.addpc d f, s.pc.setWidth 64 + wide18)] →
     RunsOn i s → exec i s = .next (s.bound.wS d v).onward) ∧
  (∀ (s : State) (d a : SReg) (pos : BitVec 6) (len : BitVec 5) (i : Instr) (v : Word64),
     let x := s.rS a
     let inField (k : Nat) : Bool := decide (pos.toNat ≤ k) && decide (k < pos.toNat + len.toNat)
     (i, v) ∈ [(Instr.bfx d a pos len, BitVec.ofFnLE fun k => decide (k.val < len.toNat) && x.getLsbD (pos.toNat + k)),
       (Instr.bfi d a pos len, BitVec.ofFnLE fun k => if inField k then x.getLsbD (k - pos.toNat) else (s.rS d).getLsbD k)] →
     (1 ≤ len.toNat → pos.toNat + len.toNat ≤ 64 → RunsOn i s → exec i s = .next (s.bound.wS d v).onward) ∧
     (len = 0 ∨ 64 < pos.toNat + len.toNat → s.cur.live = true → TrapsNow s →
       exec i s = .next (s.takeTrap { cause := 1, pc := s.pc.toNat, word := i.word })))

/-- R117 to R120 and R85: with x, y and z read in the format of the fn, each operation rounds once in the path's mode (SR as RNE, R90), a NaN canonical,
and SFCMP writes one of four codes.
R120, R121: SFCVT converts by the code in s[b]; a reserved code, or a bit above c[3], traps ILLOP with c in the record. -/
def Obligations.ScalarFloatingPoint : Prop :=
  (∀ (s : State) (d a b : SReg) (m : RMode) (i : Instr) (v : Word64),
     m = (if bitsOf s.cur.fmt.toNat 2 0 = 5 then .rne else fmtMode s.cur.fmt) →
     let x := fp64.unpack (s.rS a).toNat
     let y := fp64.unpack (s.rS b).toNat
     let z := fp64.unpack (s.rS d).toNat
     let xs := fp32.unpack ((s.rS a).toNat % 2 ^ 32)
     let ys := fp32.unpack ((s.rS b).toNat % 2 ^ 32)
     let zs := fp32.unpack ((s.rS d).toNat % 2 ^ 32)
     let r64 (u : FVal) : Word64 := .ofNat 64 (fp64.round .plain m 0 u)
     let r32 (u : FVal) : Word64 := .ofNat 64 (fp32.round .plain m 0 u)
     let code (u w : FVal) : Word64 := if u.cmp w = some .eq then 1 else if u.cmp w = some .lt then 2 else if u.cmp w = some .gt then 4 else 8
     (i, v) ∈ [(Instr.sfaddF64 d a b, r64 (sumExact m [x, y])), (Instr.sfsubF64 d a b, r64 (sumExact m [x, y.neg])),
       (Instr.sfmulF64 d a b, r64 (x.mul y)), (Instr.sffmaF64 d a b, r64 (sumExact m [x.mul y, z])), (Instr.sfdivF64 d a b, r64 (x.div y)),
       (Instr.sfcmpF64 d a b, code x y), (Instr.sfaddF32 d a b, r32 (sumExact m [xs, ys])), (Instr.sfsubF32 d a b, r32 (sumExact m [xs, ys.neg])),
       (Instr.sfmulF32 d a b, r32 (xs.mul ys)), (Instr.sffmaF32 d a b, r32 (sumExact m [xs.mul ys, zs])),
       (Instr.sfdivF32 d a b, r32 (xs.div ys)), (Instr.sfcmpF32 d a b, code xs ys)] →
     RunsOn i s → exec i s = .next (s.bound.wS d v).onward) ∧
  (∀ (s : State) (d a b : SReg) (i : Instr) (wide : Bool),
     i = (if wide then Instr.sfcvtF64 d a b else Instr.sfcvtF32 d a b) → Runs (formOf i) s →
     let c := (s.rS b).toNat
     let x := if wide then fp64.unpack (s.rS a).toNat else fp32.unpack ((s.rS a).toNat % 2 ^ 32)
     let m : RMode := if bitsOf s.cur.fmt.toNat 2 0 = 5 then .rne else fmtMode s.cur.fmt
     let own (u : FVal) : Word64 := .ofNat 64 (if wide then fp64.round .plain m 0 u else fp32.round .plain m 0 u)
     (∀ (n : Nat) (v : Word64), c % 8 = n → c < 16 → s.pc ≠ topPc →
       (n, v) ∈ [(0, .ofInt 64 (toIntR96 (decide (8 ≤ c)) m 0 (-(2 ^ 63)) (2 ^ 63 - 1) (-(2 ^ 63)) x)),
         (1, .ofInt 64 (toIntR96 (decide (8 ≤ c)) m 0 0 (2 ^ 64 - 1) (2 ^ 63) x)),
         (2, (BitVec.ofInt 32 (toIntR96 (decide (8 ≤ c)) m 0 (-(2 ^ 31)) (2 ^ 31 - 1) (-(2 ^ 31)) x)).signExtend 64),
         (3, (BitVec.ofInt 32 (toIntR96 (decide (8 ≤ c)) m 0 0 (2 ^ 32 - 1) (2 ^ 31) x)).setWidth 64),
         (4, own (ofIntVal (s.rS a).toInt)), (5, own (ofIntVal (s.rS a).toNat)),
         (6, .ofNat 64 (if wide then fp32.round (if 8 ≤ c then .sat else .plain) m 0 x else fp64.round .plain m 0 x))] →
       exec i s = .next (s.bound.wS d v).onward) ∧
     (c % 8 = 7 ∨ 16 ≤ c → TrapsNow s →
       exec i s = .next (s.takeTrap { cause := 1, aux := s.rS b, pc := s.pc.toNat, word := i.word })))

/-- R20, R110 to R120, R130: an instruction that writes s[d] leaves every other scalar register, the vector and mask registers, the status of the path,
troupe and gang, the control registers and every byte of memory as they were. -/
def Obligations.ScalarFrame : Prop :=
  ∀ (i : Instr) (d : SReg) (s t : State), i.scalarDest = some d → RunsOn i s → exec i s = .next t →
    SameScalarsBut d s t ∧ SameVectors s t ∧ SameStatus s t ∧ SameBytes s t

/-- R126, R127, R209, R16, R17: a conditional or relative branch goes to its target when it is taken and to the next word when not; a taken one to a
target that is not valid traps with the target, and one not taken checks none.
R126, R13, R17: calls write the address of the next word into s62 after the target is read, RET goes to s62; a target that is not valid traps with the
target and leaves s62. -/
def Obligations.ControlTransfers : Prop :=
  (∀ (s : State) (a : SReg) (k : KReg) (f : BitVec 14) (g : BitVec 25) (i : Instr) (taken : Prop) (far : Bool),
     let x := s.rS a
     let wide14 : Word64 := match s.cur.att.limm with
       | none => f.signExtend 64
       | some h => (h ++ f).signExtend 64
     let wide25 : Word64 := match s.cur.att.limm with
       | none => g.signExtend 64
       | some h => (h ++ g).signExtend 64
     let target := s.pc.setWidth 64 + 4 * (if far then wide25 else wide14)
     (i, taken, far) ∈ [(Instr.br g, True, true), (Instr.brc .eqz a f, x = 0, false), (Instr.brc .nez a f, x ≠ 0, false),
       (Instr.brc .ltz a f, x.toInt < 0, false), (Instr.brc .gez a f, 0 ≤ x.toInt, false), (Instr.brc .lez a f, x.toInt ≤ 0, false),
       (Instr.brc .gtz a f, 0 < x.toInt, false), (Instr.bany k f, s.rK k &&& s.cur.mask ≠ 0, false),
       (Instr.ball k f, s.rK k &&& s.cur.mask = s.cur.mask, false)] →
     Runs (formOf i) s →
     (¬ taken → s.pc ≠ topPc → exec i s = .next s.bound.onward) ∧
     (taken → target.toNat < 2 ^ 48 ∧ target.toNat % 4 = 0 → exec i s = .next (s.bound.at_ target)) ∧
     (taken → ¬ (target.toNat < 2 ^ 48 ∧ target.toNat % 4 = 0) → TrapsNow s →
       exec i s = .next (s.takeTrap { cause := 2, addr := target, pc := s.pc.toNat, word := i.word }))) ∧
  (∀ (s : State) (a : SReg) (g : BitVec 25) (i : Instr) (target : Word64) (link : Bool),
     let wide : Word64 := match s.cur.att.limm with
       | none => g.signExtend 64
       | some h => (h ++ g).signExtend 64
     (i, target, link) ∈ [(Instr.call g, s.pc.setWidth 64 + 4 * wide, true), (Instr.callr a, s.rS a, true), (Instr.ret, s.rS 62, false),
       (Instr.jmpr a, s.rS a, false)] →
     Runs (formOf i) s →
     (target.toNat < 2 ^ 48 ∧ target.toNat % 4 = 0 →
       exec i s = .next ((if link then s.bound.wS 62 (s.pc.setWidth 64 + 4) else s.bound).at_ target)) ∧
     (¬ (target.toNat < 2 ^ 48 ∧ target.toNat % 4 = 0) → TrapsNow s →
       exec i s = .next (s.takeTrap { cause := 2, addr := target, pc := s.pc.toNat, word := i.word })))

/-- R28, R29, R130: MFS zero-extends the register of each number into s[d], CLK reads the count of number 0, within 2 of the module's (R30, log 2); a
number from 12 up traps ILLOP. A system troupe's number 9 reads its core's firmware purse (R228).
R443, R445: MFC zero-extends the control register of each number into s[d]; a number from 11 up traps ILLOP. One set of control registers serves the
module (log 6). -/
def Obligations.RegisterReads : Prop :=
  (∀ (s : State) (d : SReg) (n : BitVec 7),
     (RunsOn (Instr.mfs d n) s → n = 0 → ∃ k ≤ 2, exec (Instr.mfs d n) s = .next (s.bound.wS d (.ofNat 64 (s.cycle + k))).onward) ∧
     (RunsOn (Instr.clk d) s → ∃ k ≤ 2, exec (Instr.clk d) s = .next (s.bound.wS d (.ofNat 64 (s.cycle + k))).onward) ∧
     (∀ v : Word64, (n, v) ∈ [(1, s.gg.gclk.setWidth 64), (2, .ofNat 64 s.tr.idx), (3, s.gg.gidx.setWidth 64), (4, .ofNat 64 s.gg.ngang),
         (5, s.cur.fmt.setWidth 64), (6, s.tr.tilesz.setWidth 64), (7, s.tr.rbnd.setWidth 64), (8, s.tr.batch),
         (9, .ofNat 64 (if s.gg.sys then (s.core s.req.core).fwPurse else (s.core s.req.core).purse)), (10, s.gg.srseed),
         (11, s.tr.trapvec.setWidth 64)] →
       RunsOn (Instr.mfs d n) s → exec (Instr.mfs d n) s = .next (s.bound.wS d v).onward) ∧
     (12 ≤ n.toNat → Runs (formOf (Instr.mfs d n)) s → TrapsNow s →
       exec (Instr.mfs d n) s = .next (s.takeTrap { cause := 1, pc := s.pc.toNat, word := (Instr.mfs d n).word }))) ∧
  (∀ (s : State) (d : SReg) (n : BitVec 7),
     (∀ v : Word64, (n, v) ∈ [(0, s.ctl.stvec.setWidth 64), (1, s.ctl.stframe), (2, s.ctl.sepc.setWidth 64), (3, s.ctl.satt0), (4, s.ctl.satt1),
         (5, s.ctl.event.setWidth 64), (6, s.ctl.evmask.setWidth 64), (7, s.ctl.tmrcmp), (8, s.ctl.mcring), (9, s.ctl.mctail),
         (10, s.ctl.cecnt.setWidth 64)] →
       RunsOn (Instr.mfc d n) s → exec (Instr.mfc d n) s = .next (s.bound.wS d v).onward) ∧
     (11 ≤ n.toNat → Runs (formOf (Instr.mfc d n)) s → TrapsNow s →
       exec (Instr.mfc d n) s = .next (s.takeTrap { cause := 1, pc := s.pc.toNat, word := (Instr.mfc d n).word })))

/-- R28, R29, R32, R437: MTS writes the low bits of s[a] that the register has and ignores the rest; a write of TRAPVEC lets the frozen sibling of a user
troupe go on (R442). A
read-only register, a number from 12 up or a value that is not legal traps ILLOP and leaves the register.
R443, R444, R445, R442: MTC writes the low bits of s[a] that the register has; a 1 clears its bit of EVENT; a write of STVEC lets a frozen sibling go
on. MCTAIL, a number from 11 up or a value that is not legal traps ILLOP. That both payload fields of SATT0 are judged, and that one set of control
registers serves the module, are the model's readings (logs 6 and 19). -/
def Obligations.RegisterWrites : Prop :=
  (∀ (s : State) (a : SReg) (n : BitVec 7),
     let v := s.rS a
     let b := s.bound
     (∀ (legal : Prop) (t : State), (n, legal, t) ∈ [
         (5, legalFmt32 (v.setWidth 32) = true, b.setCur { b.cur with fmt := v.setWidth 32 }),
         (6, v.toNat % 64 ∈ [2, 4, 8, 16, 32], { b with tr := { b.tr with tilesz := v.setWidth 6 } }),
         (7, v.toNat % 256 ≤ 128, { b with tr := { b.tr with rbnd := v.setWidth 8 } }),
         (11, v.toNat % 4 = 0,
           let u : State := { b with tr := { b.tr with trapvec := v.setWidth 48 } }
           if s.gg.sys then u else u.unfreeze)] →
       (legal → RunsOn (Instr.mts n a) s → exec (Instr.mts n a) s = .next t.onward) ∧
       (¬ legal → Runs (formOf (Instr.mts n a)) s → TrapsNow s →
         exec (Instr.mts n a) s = .next (s.takeTrap { cause := 1, pc := s.pc.toNat, word := (Instr.mts n a).word }))) ∧
     (n ∉ [5, 6, 7, 11] → Runs (formOf (Instr.mts n a)) s → TrapsNow s →
       exec (Instr.mts n a) s = .next (s.takeTrap { cause := 1, pc := s.pc.toNat, word := (Instr.mts n a).word }))) ∧
  (∀ (s : State) (a : SReg) (n : BitVec 7),
     let v := s.rS a
     let b := s.bound
     let c := s.ctl
     (∀ (legal : Prop) (e : Ctl), (n, legal, e) ∈ [
         (1, v.toNat < 2 ^ 48 ∧ v.toNat % 256 = 0, { c with stframe := v }), (2, v.toNat % 4 = 0, { c with sepc := v.setWidth 48 }),
         (3, v.toNat / 2 ^ 50 % 2 ^ 12 = 0 ∧ legalPfx (v.setWidth 25) = true ∧ legalOrd (v.extractLsb' 25 25) = true, { c with satt0 := v }),
         (4, v.toNat / 2 ^ 50 % 2 ^ 12 = 0, { c with satt1 := v }), (5, True, { c with event := c.event &&& ~~~(v.setWidth 8) }),
         (6, v.toNat % 256 < 16, { c with evmask := v.setWidth 8 }), (7, True, { c with tmrcmp := v }),
         (8, v.toNat < 2 ^ 48 ∧ v.toNat % 4096 = 0, { c with mcring := v }), (10, True, { c with cecnt := v.setWidth 32 })] →
       (legal → RunsOn (Instr.mtc n a) s → exec (Instr.mtc n a) s = .next ({ b with ctl := e } : State).onward) ∧
       (¬ legal → Runs (formOf (Instr.mtc n a)) s → TrapsNow s →
         exec (Instr.mtc n a) s = .next (s.takeTrap { cause := 1, pc := s.pc.toNat, word := (Instr.mtc n a).word }))) ∧
     (n = 0 → v.toNat % 4 = 0 → RunsOn (Instr.mtc n a) s →
       exec (Instr.mtc n a) s = .next ({ b with ctl := { c with stvec := v.setWidth 48 } } : State).unfreeze.onward) ∧
     ((n = 0 ∧ v.toNat % 4 ≠ 0) ∨ n = 9 ∨ 11 ≤ n.toNat → Runs (formOf (Instr.mtc n a)) s → TrapsNow s →
       exec (Instr.mtc n a) s = .next (s.takeTrap { cause := 1, pc := s.pc.toNat, word := (Instr.mtc n a).word })))

/-- R132: BRK and SYS trap with the resume address and the code of their word.
R446, R17: ERET sends the path to SEPC with the attachments of SATT0 and SATT1 pending; a SEPC that is not a valid target traps. -/
def Obligations.SoftwareTrapsAndReturns : Prop :=
  (∀ (s : State) (code : BitVec 14) (i : Instr) (cause : Nat),
     (i, cause) ∈ [(Instr.brk code, 9), (Instr.sys code, 10)] → Runs (formOf i) s → TrapsNow s →
     exec i s = .next (s.takeTrap { cause := cause, addr := s.pc.setWidth 64 + 4, aux := code.setWidth 64, pc := s.pc.toNat, word := i.word })) ∧
  (∀ s : State, Runs (formOf Instr.eret) s →
     let get (v : Word64) (b lo : Nat) : Option (BitVec 25) := if v.getLsbD b then some (v.extractLsb' lo 25) else none
     let c := s.ctl
     (c.sepc.toNat % 4 = 0 → exec Instr.eret s = .next (s.bound.setCur { s.bound.cur with pc := c.sepc, att :=
       { pfx := get c.satt0 63 0, ord := get c.satt0 62 25, limm := get c.satt1 63 0, hint := get c.satt1 62 25 } }).rests) ∧
     (c.sepc.toNat % 4 ≠ 0 → TrapsNow s →
       exec Instr.eret s = .next (s.takeTrap { cause := 2, addr := c.sepc.setWidth 64, pc := s.pc.toNat, word := Instr.eret.word })))

/-- R434, R437, R442, R448: with a vector, taking an exception writes the frame, puts its base into s61, sends the path to the vector with no
attachment pending, clears the vector and freezes the sibling; every other scalar register, the vector and mask registers and the path's mask, FMT, JPC
and frame stay. A machine check is first recorded. A system trap also saves the resume address in SEPC and the attachments in SATT0 and SATT1, where ERET finds them. The
frame's stores enter the store stream where its base lands, as lane 0's; the troupe's paths leave the core's wide instructions (R234), and a
matrix-engine lease ends once the work issued under it has (R379).
R434 to R436: while the sibling has an issued instruction that is not complete and may itself stop first, the trap or the park waits in hand; that ORD
acquire, which holds back lane 0's stores (R344), makes a trap wait too, and that the traps in hand are taken in the order of issue as the model keeps it, are
its readings (logs 40 and 51).
R437 to R440: the frame holds the record's fields where the layout puts them, the old s61 and the resume address.
R438: with no vector, on the cause that is not vectored, or in a gang that has ended in error already, the gang ends in error: every path of it stops but
one whose issued instruction is not complete, and it keeps a record. -/
def Obligations.TrapEntryAndFrame : Prop :=
  (∀ (s : State) (e : ErrRec) (l : Loc) (s2 : State),
     let r := s.fillRec e
     let s0 := ((s.setCur { s.cur with walking := false, issued := none, hand := false, wrap := none }).dropWide s.mine).dropLease
     let s1 := if e.cause = 11 then s0.machineCheck s0.req.core s0.gg.part e.mcpa e.aux.toNat true else s0
     let base : Word64 := if s1.gg.sys then s1.ctl.stframe else 0xFFFFFE0000000000
     let target := if s1.gg.sys then s1.ctl.stvec else s1.tr.trapvec
     let resume := if e.cause = 9 ∨ e.cause = 10 then e.pc + 4 else e.pc
     let t := s.takeTrap e
     let f := s2.lane0Write false base l 256 (frameNat r (s2.rS 61))
     let get (v : Word64) (b lo : Nat) : Option (BitVec 25) := if v.getLsbD b then some (v.extractLsb' lo 25) else none
     (e.cause ≠ 12 → target ≠ 0 → s1.gg.err = none → s1.placeBy true none 0 base .write = .ok (l, s2) → f.gg.sys = s1.gg.sys →
       t.cur.pc = target ∧ t.cur.att = {} ∧ t.rS 61 = base ∧ t.sibling.frozen = f.sibling.live ∧
         (∀ q, q ≠ 61 → t.rS q = f.rS q) ∧ SameVectors f t ∧ SameBytes f t ∧
         t.cur.mask = f.cur.mask ∧ t.cur.fmt = f.cur.fmt ∧ t.cur.jpc = f.cur.jpc ∧ t.cur.frame = f.cur.frame ∧
         (f.gg.sys = false → t.tr.trapvec = 0 ∧ t.ctl = f.ctl) ∧
         (f.gg.sys = true → t.ctl.stvec = 0 ∧ t.ctl.sepc = .ofNat 48 resume ∧ t.tr.trapvec = f.tr.trapvec ∧
           get t.ctl.satt0 63 0 = f.cur.att.pfx ∧ get t.ctl.satt0 62 25 = f.cur.att.ord ∧ get t.ctl.satt1 63 0 = f.cur.att.limm ∧
           get t.ctl.satt1 62 25 = f.cur.att.hint ∧ t.ctl.satt0.toNat / 2 ^ 50 % 2 ^ 12 = 0 ∧ t.ctl.satt1.toNat / 2 ^ 50 % 2 ^ 12 = 0)) ∧
     (target = 0 ∨ e.cause = 12 ∨ s1.gg.err ≠ none →
       (∀ u ∈ t.tr :: t.gg.troupes, (∀ x ∈ [u.p, u.q], x = {} ∨ (x.live = true ∧ x.frozen = false ∧ x.hand = false ∧ x.issued ≠ none)) ∧
         (u.ended = true ↔ u.p.live = false ∧ u.q.live = false) ∧ u.park = none) ∧
       (e.cause ≠ 11 → t.cur = {}) ∧ (s1.gg.err = none → t.gg.err = some r) ∧ t.gg.err ≠ none ∧ t.gg.uid = s1.gg.uid)) ∧
  (∀ (e : ErrRec) (v : Word64),
     let at_ (lo n : Nat) := frameNat e v / 2 ^ lo % 2 ^ n
     at_ 504 8 = e.cause % 2 ^ 8 ∧ at_ 456 32 = e.word.toNat ∧ at_ 408 48 = e.pc % 2 ^ 48 ∧ at_ 368 32 = e.gang % 2 ^ 32 ∧
       at_ 359 9 = e.troupe % 2 ^ 9 ∧ at_ 288 64 = e.addr.toNat ∧ at_ 224 64 = e.aux.toNat ∧ at_ 1536 64 = v.toNat ∧
       at_ 1600 64 = e.resume % 2 ^ 64 ∧ at_ 1664 384 = 0) ∧
  (∀ (s : State) (w : BitVec 32) (e : ErrRec) (ms : List PageMiss), s.cur.near = none →
     let y := s.sibling
     let first : Prop := y.live = true ∧ y.frozen = false ∧ y.issued ≠ none ∧ (y.hand = true → y.issued.getD 0 < s.cur.issued.getD s.cycle)
     let held := s.setCur { s.cur with issued := some (s.cur.issued.getD s.cycle), waits := true, hand := true }
     (first ∨ s.heldBack 1 = true → s.stopWord w (.trap e) = held) ∧
     (¬ first → s.heldBack 1 = false → s.stopWord w (.trap e) = s.takeTrap { e with pc := s.pc.toNat, word := w }) ∧
     (first → s.stopWord w (.park ms) = held) ∧ (¬ first → s.stopWord w (.park ms) = s.parkOn ms none w))

/-- R35, R36, R40, R41, R43, R50 to R52: an instruction of a troupe whose checks of step 3 fail traps ILLOP at its word: one whose field breaks its
rule, that names a vector register beyond the gang's allocation, of system privilege at user privilege, or with an attachment pending that may not bind
to it. The attachment words, which only record themselves, are stated apart. -/
def Obligations.IllegalInstructions : Prop :=
  (∀ (s : State) (i : Instr), i.ofTroupe = true → i.major ∉ [0x70, 0x71, 0x72, 0x73] → s.cur.live = true → TrapsNow s → step3Ok (formOf i) s = false →
     exec i s = .next (s.takeTrap { cause := 1, pc := s.pc.toNat, word := i.word })) ∧
  (∀ (s : State) (i : Instr),
     let m := i.major
     let att := s.cur.att
     let p := pfxOf (att.pfx.getD 0)
     let ords := (0x10 ≤ m ∧ m ≤ 0x1A) ∨ (0x50 ≤ m ∧ m ≤ 0x5D) ∨ (m = 0x5E ∧ i.code ≤ 10) ∨ (0x60 ≤ m ∧ m ≤ 0x62) ∨ (m = 0x66 ∧ i.code ≤ 2)
     let o := match att.ord with
       | some o => ordOf o
       | none => {}
     (i.wellFormed = false ∨ (∃ r ∈ i.vregs, s.gg.vregs < r.1.toNat + r.2) ∨
       (s.gg.sys = false ∧ ((∃ a b, i = Instr.tlbi a b) ∨ (∃ a n, i = Instr.mfc a n ∨ i = Instr.mtc n a) ∨ i = Instr.eret ∨ i = Instr.idle)) ∨
       (att.pfx ≠ none ∧ (m < 0x20 ∨ 0x2D < m)) ∨ (att.pfx ≠ none ∧ p.rm ≠ 0 ∧ ((0x23 ≤ m ∧ m ≤ 0x28) ∨ m = 0x2C ∨ m = 0x2D ∨
         (m = 0x29 ∧ i.code ∈ [5, 7, 10, 11, 13, 15]) ∨ (m = 0x2B ∧ i.code ≤ 1))) ∨
       (att.pfx ≠ none ∧ p.vc ≠ 0 ∧ s.gg.vregs ≤ p.vc.toNat) ∨ (att.pfx ≠ none ∧ p.vc ≠ 0 ∧ m ∈ [0x23, 0x25, 0x27, 0x28, 0x29, 0x2A, 0x2C, 0x2D]) ∨
       (att.ord ≠ none ∧ ¬ ords) ∨
       ((0x10 ≤ m ∧ m ≤ 0x16 ∨ 0x50 ≤ m ∧ m ≤ 0x56) ∧ (Releases o ∨ o.nd ≠ 15)) ∨
       ((0x17 ≤ m ∧ m ≤ 0x1A ∨ 0x57 ≤ m ∧ m ≤ 0x5B) ∧ (Acquires o ∨ o.nd ≠ 15)) ∨
       (m = 0x5E ∧ i.code ∈ [4, 5, 6, 7] ∧ Releases o) ∨ (m = 0x5E ∧ i.code = 8 ∧ o.order = .relaxed) ∨
       (att.limm ≠ none ∧ (0x20 ≤ m ∧ m ≤ 0x2C ∨ 0x50 ≤ m ∧ m ≤ 0x69)) →
     step3Ok (formOf i) s = false))

/-- R19, R39: each attachment word is recorded as pending on its path, which goes on at the next word; a second of its kind, or a PFX with rm 7, traps
ILLOP with only the earlier ones pending.
R131: NOP goes on at the next word and does nothing else; R18: at the top of memory the fetch that follows traps, with the instruction done.
R134, R447: YIELD holds its path until the other ready paths of its quadrant have issued; IDLE sleeps unless an unmasked event bit is set.
R456, R460: TLBI removes the entries of its kind, and the walk caches' of the partition, and the accesses they translated perform before it retires, those
of saved gangs among them (log 123). A kind above 4, a reserved bit, or an address where none is used or beyond 2^48 traps ILLOP. -/
def Obligations.AttachmentsAndHints : Prop :=
  (∀ (s : State) (k : KReg) (z : BitVec 1) (rm : BitVec 3) (vc : VReg) (sc : OrdScope) (o : OrdOrder) (nd kind : BitVec 4) (high : BitVec 25)
     (arg : BitVec 21) (i : Instr) (pending legal : Bool) (att : Pend),
     let p := s.cur.att
     let scopes : BitVec 3 := match sc with
       | .troupe => 0 | .gang => 1 | .device => 2 | .system => 3
     let orders : BitVec 2 := match o with
       | .relaxed => 0 | .acquire => 1 | .release => 2 | .acqRel => 3
     (i, pending, legal, att) ∈ [
       (Instr.pfx k z rm vc, p.pfx.isSome, decide (rm ≠ 7), { p with pfx := some (k ++ z ++ rm ++ vc ++ (0 : BitVec 11)) }),
       (Instr.ord sc o nd, p.ord.isSome, true, { p with ord := some (scopes ++ orders ++ nd ++ (0 : BitVec 16)) }),
       (Instr.limm high, p.limm.isSome, true, { p with limm := some high }),
       (Instr.hint kind arg, p.hint.isSome, true, { p with hint := some (kind ++ arg) })] →
     s.cur.live = true →
     (pending = false → legal = true → s.pc ≠ topPc →
       exec i s = .next (s.setCur { s.cur with att := att }).onward) ∧
     (pending = true ∨ legal = false → TrapsNow s →
       exec i s = .next (s.takeTrap { cause := 1, pc := s.pc.toNat, word := i.word }))) ∧
  (∀ s : State, Runs (formOf Instr.nop) s →
     (s.pc ≠ topPc → exec Instr.nop s = .next s.bound.onward) ∧
     (s.pc = topPc → TrapsNow s.bound → exec Instr.nop s = .next (s.bound.takeTrap
       { cause := 2, ft := true, pc := 0xFFFFFFFFFFFC, addr := 0x0000FFFFFFFFFFFC, word := Instr.nop.word })) ∧
     (s.pc = topPc → s.cur.near = none → s.bound.trapWaits = true →
       exec Instr.nop s = .next (s.bound.setCur { s.bound.cur.onward with wrap := some Instr.nop.word, waits := true }))) ∧
  (∀ s : State,
     (RunsOn Instr.yield s →
       let others := s.bound.readyPaths.filter fun p => p != s.bound.me && s.bound.sameQuadrant p s.bound.me
       exec Instr.yield s = .next (s.bound.setCur { s.bound.cur with yield := if others = [] then none else some (s.cycle, others) }).onward) ∧
     (RunsOn Instr.idle s → s.ctl.event &&& s.ctl.evmask ≠ 0 → exec Instr.idle s = .next s.bound.onward) ∧
     (RunsOn Instr.idle s → s.ctl.event &&& s.ctl.evmask = 0 → exec Instr.idle s = .next (s.bound.sleepOn (.idle Instr.idle.word)).rests)) ∧
  (∀ (s : State) (a b : SReg),
     let x := (s.rS a).toNat
     let w := (s.rS b).toNat
     let kind := w % 16
     let part := w / 2 ^ 8 % 64
     let bad := 4 < kind ∨ w / 2 ^ 14 ≠ 0 ∨ w / 16 % 16 ≠ 0 ∨ (kind ∈ [1, 3, 4] ∧ x ≠ 0) ∨ 2 ^ 48 ≤ x
     (bad → Runs (formOf (Instr.tlbi a b)) s → TrapsNow s →
       exec (Instr.tlbi a b) s = .next (s.takeTrap { cause := 1, pc := s.pc.toNat, word := (Instr.tlbi a b).word })) ∧
     (¬ bad → Runs (formOf (Instr.tlbi a b)) s →
       let u := { s.bound with tlbs := s.tlbs.filter fun e => !e.covered kind part x, wcache := s.wcache.filter fun e => !(kind == 4 || e.part == part) }
       let mine (g : Gang) : Bool := kind == 4 || g.part == part
       exec (Instr.tlbi a b) s = .next ((((u.saved.filter fun v => mine v.gang && v.gang.troupes.any fun t => !t.stream.isEmpty).foldl State.drainSaved
         (u.drainAll (u.allTroupes mine)))).advanceWord (Instr.tlbi a b).word)))

/-- R145, R206, R209: BRV with no lane taken goes on, with every lane taken transfers, and splits otherwise: the join entry and, when the other slot is
taken, the child's entry are pushed; the issuing path goes on with the lanes not taken. While ORD acquire holds back lane 0's accesses, a split waits
(R344; log 51). -/
def Obligations.PathSplits : Prop :=
  ∀ (s : State) (k : KReg) (f : BitVec 14),
    let i := Instr.brv k f
    let wide : Word64 := match s.cur.att.limm with
      | none => f.signExtend 64
      | some h => (h ++ f).signExtend 64
    let target := s.pc.setWidth 64 + 4 * wide
    let valid := target.toNat < 2 ^ 48 ∧ target.toNat % 4 = 0
    let taken := s.cur.mask &&& s.rK k
    let rest := s.cur.mask &&& ~~~s.rK k
    let n := s.tr.psp.toNat
    let x := s.bound.cur
    let entry : PathEntry := { kind := 1, jpc := x.jpc, mask := x.mask, fmt := x.fmt, link := x.frame }
    let number : BitVec 32 := .ofNat 32 (n + 1)
    let child (u : State) : Slot := { live := true, pc := target.setWidth 48, mask := taken, fmt := x.fmt, jpc := x.jpc, frame := number,
                                      nudge := u.cur.nudge, readyAt := u.cycle }
    let path (u : State) : State := ({ u with tr := { u.tr with psp := number } } : State).setCur { u.cur with mask := rest, frame := number }
    (taken = 0 → RunsOn i s → exec i s = .next s.bound.onward) ∧
    (taken ≠ 0 → rest = 0 → valid → Runs (formOf i) s → exec i s = .next (s.bound.at_ target)) ∧
    (taken ≠ 0 → ¬ valid → TrapsNow s → Runs (formOf i) s →
      exec i s = .next (s.takeTrap { cause := 2, addr := target, pc := s.pc.toNat, word := i.word })) ∧
    (taken ≠ 0 → rest ≠ 0 → valid → s.cur.near = none → s.bound.heldBack 1 = true → Runs (formOf i) s → exec i s = .next s.mustWait) ∧
    (taken ≠ 0 → rest ≠ 0 → valid → s.cur.near = none → s.bound.heldBack 1 = false → s.sibling.live = false → Runs (formOf i) s →
      ∀ u, s.bound.writeEntry n entry = .ok u → u.sibling.live = false → u.cur.near = none →
        exec i s = .next (((path u).setSibling (child (path u))).advanceWord i.word)) ∧
    (taken ≠ 0 → rest ≠ 0 → valid → s.cur.near = none → s.bound.heldBack 1 = false → s.sibling.live = true → Runs (formOf i) s →
      ∀ u v, s.bound.writeEntry n entry = .ok u → u.sibling.live = true →
        (path u).writeEntry (n + 1) { kind := 2, pc := target.setWidth 48, mask := taken, fmt := x.fmt, jpc := x.jpc, link := number,
                                      nudge := (path u).cur.nudge } = .ok v →
        exec i s = .next (({ v with tr := { v.tr with psp := .ofNat 32 (n + 2) } } : State).advanceWord i.word))

/-- R144, R146, R207, R208: JPT sets JPC and nothing else; JOIN on a path of no frame clears JPC and goes on; on a frame whose entry has another join PC
it takes that PC and goes on; at its own entry, before every lane has arrived, it records its lanes there and frees its slot; when every lane has,
the entry is released and the merged path stands at the JOIN with the entry's FMT, the JPC of the entry its link names, and that link. An entry that
is not valid traps ILLOP (R152). That an entry with another join PC is not judged further is the model's reading (log 31).
R148, R149: a freed slot takes up the highest spilled path; PSP falls past released entries.
R133, R147: EXIT of a path of no frame with no path spilled frees its slot; the sibling goes on, unfrozen, when it is live; else the troupe ends,
leaves every circle and gives up a lease of the matrix engine, and the core's firmware purse is empty when no system troupe is left there (R228). Inside a
frame its lanes leave every entry of its chain, and an entry at which all others have arrived completes. That the two bits below a PC take no part is
log 109; that a JOIN or EXIT waits while ORD acquire holds back lane 0 is log 51. -/
def Obligations.JoinsAndEnds : Prop :=
  (∀ (s : State) (g : BitVec 25),
     let wide : Word64 := match s.cur.att.limm with
       | none => g.signExtend 64
       | some h => (h ++ g).signExtend 64
     let target := s.pc.setWidth 64 + 4 * wide
     let b := s.bound
     let n := s.cur.frame.toNat - 1
     (target.toNat < 2 ^ 48 ∧ target.toNat % 4 = 0 → RunsOn (Instr.jpt g) s →
       exec (Instr.jpt g) s = .next (b.setCur { b.cur with jpc := target.setWidth 48 }).onward) ∧
     (¬ (target.toNat < 2 ^ 48 ∧ target.toNat % 4 = 0) → Runs (formOf (Instr.jpt g)) s → TrapsNow s →
       exec (Instr.jpt g) s = .next (s.takeTrap { cause := 2, addr := target, pc := s.pc.toNat, word := (Instr.jpt g).word })) ∧
     (s.cur.frame = 0 → RunsOn Instr.join s → exec Instr.join s = .next (b.setCur { b.cur with jpc := 0 }).onward) ∧
     (s.cur.frame ≠ 0 → b.heldBack 1 = true → Runs (formOf Instr.join) s → exec Instr.join s = .next s.mustWait) ∧
     (∀ raw u, s.cur.frame ≠ 0 → b.heldBack 1 = false → b.readEntryRaw n = .ok (raw, u) → (PathEntry.ofNat raw).jpc ≠ u.pc → Runs (formOf Instr.join) s →
       exec Instr.join s = .next ((u.setCur { u.cur with jpc := (PathEntry.ofNat raw).jpc }).advanceWord Instr.join.word)) ∧
     (∀ raw u, s.cur.frame ≠ 0 → b.heldBack 1 = false → b.readEntryRaw n = .ok (raw, u) → (PathEntry.ofNat raw).jpc = u.pc → Runs (formOf Instr.join) s →
       let e : PathEntry := { PathEntry.ofNat raw with arrived := (PathEntry.ofNat raw).arrived ||| u.cur.mask }
       ((PathEntry.ofNat raw).valid 1 n = false → TrapsNow s → exec Instr.join s = .next (s.takeTrap
         { cause := 1, aux := .ofNat 64 n, detail := raw, dlen := 32, pc := s.pc.toNat, word := Instr.join.word })) ∧
       ((PathEntry.ofNat raw).valid 1 n = true → e.arrived ≠ e.mask → ∀ v t, u.writeEntry n e = .ok v → v.freeSlot = .ok t →
         exec Instr.join s = .next t.rests) ∧
       ((PathEntry.ofNat raw).valid 1 n = true → e.arrived = e.mask → ∀ jpc v r, u.linkJpc e.link.toNat = .ok (jpc, v) → v.releaseEntry n e = .ok r →
         let merged : Slot := { live := true, pc := .ofNat 48 (u.pc.toNat / 4 * 4), mask := e.arrived, fmt := e.fmt, jpc := jpc, frame := e.link,
                                readyAt := r.cycle, near := r.cur.near }
         exec Instr.join s = .next (r.setCur merged).unfreeze.rests))) ∧
  (∀ (s u v : State) (n link raw : Nat) (e : PathEntry) (lanes : BitVec 32),
     s.linkJpc 0 = .ok (0, s) ∧ (link ≠ 0 → s.readEntryRaw (link - 1) = .ok (raw, u) → s.linkJpc link = .ok ((PathEntry.ofNat raw).jpc, u)) ∧
     (s.writeEntry n { e with kind := 0 } = .ok u → s.releaseEntry n e = u.popReleased u.tr.psp.toNat) ∧
     s.popReleased 0 = .ok { s with tr := { s.tr with psp := 0 } } ∧
     (s.readEntryRaw n = .ok (raw, u) → s.popReleased (n + 1) =
       if (PathEntry.ofNat raw).kind = 0 then u.popReleased n else .ok { u with tr := { u.tr with psp := .ofNat 32 (n + 1) } }) ∧
     s.findPath 0 = .ok (none, s) ∧
     (s.readEntryRaw n = .ok (raw, u) → (PathEntry.ofNat raw).kind ≤ 1 → s.findPath (n + 1) = u.findPath n) ∧
     (s.readEntryRaw n = .ok (raw, u) → (PathEntry.ofNat raw).valid 2 n = true → s.findPath (n + 1) = .ok (some (n, PathEntry.ofNat raw), u)) ∧
     (let z := (s.setCur { near := s.cur.near }).unfreeze
      (z.findPath z.tr.psp.toNat = .ok (none, u) → s.freeSlot = .ok (u.setCur {})) ∧
      (z.findPath z.tr.psp.toNat = .ok (some (n, e), u) → u.releaseEntry n e = .ok v → s.freeSlot = .ok (v.setCur
        { live := true, pc := e.pc, mask := e.mask, fmt := e.fmt, jpc := e.jpc, frame := e.link, nudge := e.nudge, readyAt := v.cycle, near := s.cur.near }))) ∧
     (link ≠ 0 → s.readEntryRaw (link - 1) = .ok (raw, u) → (PathEntry.ofNat raw).valid 1 (link - 1) = true →
       u.writeEntry (link - 1) { PathEntry.ofNat raw with mask := (PathEntry.ofNat raw).mask &&& ~~~lanes } = .ok v →
       s.shrinkChain lanes (n + 1) link = v.shrinkChain lanes n (PathEntry.ofNat raw).link.toNat) ∧ s.shrinkChain lanes (n + 1) 0 = .ok s ∧
     s.settleChain (n + 1) 0 = .ok (false, s) ∧
     (link ≠ 0 → s.readEntryRaw (link - 1) = .ok (raw, u) →
       let e := PathEntry.ofNat raw
       (e.arrived ≠ e.mask → s.settleChain (n + 1) link = .ok (false, u)) ∧
       (e.arrived = e.mask → e.mask = 0 → u.releaseEntry (link - 1) e = .ok v → s.settleChain (n + 1) link = v.settleChain n e.link.toNat) ∧
       (e.arrived = e.mask → e.mask ≠ 0 → ∀ jpc r, u.linkJpc e.link.toNat = .ok (jpc, v) → v.releaseEntry (link - 1) e = .ok r →
         let merged : Slot := { live := true, pc := .ofNat 48 (e.jpc.toNat / 4 * 4), mask := e.arrived, fmt := e.fmt, jpc := jpc, frame := e.link,
                                readyAt := r.cycle, near := r.cur.near }
         s.settleChain (n + 1) link = .ok (true, r.setCur merged)))) ∧
  (∀ s u v t : State, Runs (formOf Instr.exit) s → s.cur.frame ≠ 0 →
     let link := s.cur.frame.toNat
     (s.bound.heldBack 1 = true → exec Instr.exit s = .next s.mustWait) ∧
     (s.bound.heldBack 1 = false → s.bound.shrinkChain s.cur.mask (link + 1) link = .ok u →
       (u.settleChain (link + 1) link = .ok (true, v) → exec Instr.exit s = .next v.unfreeze.rests) ∧
       (u.settleChain (link + 1) link = .ok (false, v) → v.freeSlot = .ok t → exec Instr.exit s = .next t.endIfDone.rests))) ∧
  (∀ s : State, Runs (formOf Instr.exit) s → s.cur.frame = 0 → s.tr.psp = 0 →
     let freed := ((s.bound.setCur { near := s.cur.near }).unfreeze.setCur {})
     (s.sibling.live = true → exec Instr.exit s = .next freed.rests) ∧
     (s.sibling.live = false →
       let left := ((List.range 32).foldl (fun u c => u.leaveCircle c) freed).dropLease
       exec Instr.exit s = .next ({ left with tr := { left.tr with ended := true } } : State).clearFwPurses.rests))

/-- R213, R214: a circle's number has no bit above 4, else ILLOP with the value. CJOIN puts the troupe into a circle but 0, CLEAVE takes it out, and
CLEAVE of circle 0 traps.
R215, R216, R219: CARRIVE and CSYNC of a member arrive, or, while an earlier arrival is owed, sleep at their word behind the release; of any other
troupe they trap ILLOP with the number. CWAIT sleeps while an arrival is owed, and returns with its acquire when none is.
R215, R218: an arrival that is the last of its circle's members flips the phase and clears the arrivals when nobody sleeps in a second arrival, any other only adds its own; CCOUNT writes
the members' number, the arrivals' at bit 16 and the phase at bit 32. -/
def Obligations.Circles : Prop :=
  (∀ (s : State) (d a : SReg),
     let c := (s.rS a).toNat
     let bit : BitVec 512 := .ofNat 512 (2 ^ s.tr.idx)
     let x := s.bound.circle c
     (∀ i ∈ [Instr.cjoin a, Instr.cleave a, Instr.carrive a, Instr.cwait a, Instr.csync a, Instr.ccount d a], 32 ≤ c → Runs (formOf i) s →
       TrapsNow s → exec i s = .next (s.takeTrap { cause := 1, aux := s.rS a, pc := s.pc.toNat, word := i.word })) ∧
     (0 < c → c < 32 → RunsOn (Instr.cjoin a) s →
       exec (Instr.cjoin a) s = .next (s.bound.setCircle c { x with member := x.member ||| bit }).onward) ∧
     (c = 0 → RunsOn (Instr.cjoin a) s → exec (Instr.cjoin a) s = .next s.bound.onward) ∧
     (0 < c → c < 32 → Runs (formOf (Instr.cleave a)) s →
       exec (Instr.cleave a) s = .next ((s.bound.leaveCircle c).advanceWord (Instr.cleave a).word)) ∧
     (c = 0 → Runs (formOf (Instr.cleave a)) s → TrapsNow s →
       exec (Instr.cleave a) s = .next (s.takeTrap { cause := 1, pc := s.pc.toNat, word := (Instr.cleave a).word }))) ∧
  (∀ (s : State) (a : SReg) (i : Instr) (waits : Bool),
     let c := (s.rS a).toNat
     let b := s.bound
     (i, waits) ∈ [(Instr.carrive a, false), (Instr.csync a, true)] → c < 32 →
     (b.isMember c = false → Runs (formOf i) s → TrapsNow s →
       exec i s = .next (s.takeTrap { cause := 1, aux := s.rS a, pc := s.pc.toNat, word := i.word })) ∧
     let asleep (u : State) (z : Asleep) : State := (u.setCur { u.cur with sleep := some z }).rests
     (b.isMember c = true → b.owed c = true → Runs (formOf i) s →
       exec i s = .next (asleep b.gangRelease (.arrive (.ofNat 5 c) waits i.word false s.cycle))) ∧
     (b.isMember c = true → b.owed c = false → Runs (formOf i) s →
       exec i s = .next (if waits = true ∧ (b.arriveAt c).owed c = true then asleep (b.arriveAt c) (.circle (.ofNat 5 c) i.word)
         else (if waits then (b.arriveAt c).gangAcquire else b.arriveAt c).advanceWord i.word)) ∧
     (b.owed c = true → Runs (formOf (Instr.cwait a)) s →
       exec (Instr.cwait a) s = .next (asleep b (.circle (.ofNat 5 c) (Instr.cwait a).word))) ∧
     (b.owed c = false → Runs (formOf (Instr.cwait a)) s →
       exec (Instr.cwait a) s = .next (b.gangAcquire.advanceWord (Instr.cwait a).word))) ∧
  (∀ (s : State) (d a : SReg) (c : Nat), c < 32 →
     let x := s.gangRelease.circle c
     let bit : BitVec 512 := .ofNat 512 (2 ^ s.gangRelease.tr.idx)
     let y := (s.arriveAt c).circle c
     (x.member ≠ 0 → x.arrived ||| bit = x.member →
       (s.gangRelease.setCircle c { x with arrived := x.member, last := s.gangRelease.tr.idx }).secondArrivals c = [] →
       y.arrived = 0 ∧ y.phase = !x.phase ∧ y.member = x.member) ∧
     (x.arrived ||| bit ≠ x.member → y.arrived = x.arrived ||| bit ∧ y.phase = x.phase ∧ y.member = x.member) ∧
     ((s.rS a).toNat = c → RunsOn (Instr.ccount d a) s →
       let z := s.bound.circle c
       exec (Instr.ccount d a) s = .next (s.bound.wS d (.ofNat 64 (z.member.cpop.toNat + z.arrived.cpop.toNat * 2 ^ 16 +
         if z.phase then 2 ^ 32 else 0))).onward))

/-- R42: with m the path's mask narrowed by the PFX's k, a vector destination receives the results in m, zero in the path's other lanes when z is 1, and
keeps its old value elsewhere; no other register, no status and no byte of memory changes. A mask destination follows the same rule. -/
def Obligations.LaneMask : Prop :=
  ∀ (s : State) (p : Option (BitVec 25)) (d : VReg) (q : KReg) (f : Fin 32 → Word32) (g : Fin 32 → Bool) (l : Fin 32),
    let b : Bound := { pfx := p.map pfxOf }
    let k : KReg := match p with
      | some p => p.extractLsb' 22 3
      | none => 0
    let z : Bool := match p with
      | some p => p.getLsbD 21
      | none => false
    let inM (l : Fin 32) : Bool := s.cur.mask.getLsbD l && (k == 0 || (s.tr.kreg.get k.toFin).getLsbD l)
    let t := s.writeLanes b d f
    let u := s.writeMask b q g
    t.rV d l = (if inM l then f l else if s.cur.mask.getLsbD l && z then 0 else s.rV d l) ∧
      (∀ r, r ≠ d → t.rV r l = s.rV r l) ∧ (∀ r, t.rS r = s.rS r) ∧ (∀ r, t.rK r = s.rK r) ∧ SameStatus s t ∧ SameBytes s t ∧
      (q ≠ 0 → (u.rK q).getLsbD l = if inM l then g l else if s.cur.mask.getLsbD l && z then false else (s.rK q).getLsbD l) ∧
      (∀ r, r ≠ q → u.rK r = s.rK r) ∧ (∀ r, u.rS r = s.rS r) ∧ (∀ r, u.rV r l = s.rV r l) ∧ SameStatus s u ∧ SameBytes s u

/-- R177, R179 to R181 with the edge cases of R77: per lane with x := v[a], y := v[b] and c the third source.
R178 with R76: each 16-bit or 8-bit part on its own. -/
def Obligations.VectorIntegers : Prop :=
  (∀ (s : State) (d a b : VReg) (k : KReg) (i : Instr) (v : Fin 32 → Word32),
     let x (l : Fin 32) := s.rV a l
     let y (l : Fin 32) := s.rV b l
     let c (l : Fin 32) := s.third s.att d l
     let clamp (e : Int) : Word32 := .ofInt 32 (max (-(2 ^ 31)) (min (2 ^ 31 - 1) e))
     let pos (l : Fin 32) := (y l).toNat % 32
     let len (l : Fin 32) := min ((y l).toNat / 256 % 64) (32 - pos l)
     let field (l : Fin 32) : Word32 := .ofNat 32 ((2 ^ len l - 1) * 2 ^ pos l)
     (i, v) ∈ [(Instr.vaddI32 d a b, fun l => x l + y l), (Instr.vsubI32 d a b, fun l => x l - y l), (Instr.vmulI32 d a b, fun l => x l * y l),
       (Instr.vmulh d a b, fun l => ((x l).signExtend 64 * (y l).signExtend 64).extractLsb' 32 32),
       (Instr.vmulhn d a b, fun l => ((x l).setWidth 64 * (y l).setWidth 64).extractLsb' 32 32),
       (Instr.vmad d a b, fun l => x l * y l + c l), (Instr.vminI32 d a b, fun l => if (x l).slt (y l) then x l else y l),
       (Instr.vmaxI32 d a b, fun l => if (x l).slt (y l) then y l else x l), (Instr.vminn d a b, fun l => if (x l).ult (y l) then x l else y l),
       (Instr.vmaxn d a b, fun l => if (x l).ult (y l) then y l else x l), (Instr.vabsI32 d a, fun l => if (x l).toInt < 0 then -(x l) else x l),
       (Instr.vnegI32 d a, fun l => -(x l)), (Instr.vaddsI32 d a b, fun l => clamp ((x l).toInt + (y l).toInt)),
       (Instr.vsubsI32 d a b, fun l => clamp ((x l).toInt - (y l).toInt)),
       (Instr.vavgI32 d a b, fun l => .ofInt 32 (((x l).toInt + (y l).toInt + 1) / 2)), (Instr.vand d a b, fun l => x l &&& y l),
       (Instr.vor d a b, fun l => x l ||| y l), (Instr.vxor d a b, fun l => x l ^^^ y l), (Instr.vandn d a b, fun l => x l &&& ~~~(y l)),
       (Instr.vshl d a b, fun l => x l <<< ((y l).toNat % 32)), (Instr.vshr d a b, fun l => x l >>> ((y l).toNat % 32)),
       (Instr.vsar d a b, fun l => (x l).sshiftRight ((y l).toNat % 32)), (Instr.vpopc d a, fun l => (x l).cpop), (Instr.vclz d a, fun l => (x l).clz),
       (Instr.vbrev d a, fun l => (x l).reverse), (Instr.vbfx d a b, fun l => (x l &&& field l) >>> pos l),
       (Instr.vbfi d a b, fun l => (c l &&& ~~~(field l)) ||| ((x l <<< pos l) &&& field l)),
       (Instr.vsel k d a b, fun l => if (s.rK k).getLsbD l then x l else y l)] →
     RunsOn i s → exec i s = .next (s.bound.writeLanes s.att d v).onward) ∧
  (∀ (s : State) (d a b : VReg) (i : Instr) (w : Nat) (f : BitVec w → BitVec w → BitVec w) (j : Nat) (l : Fin 32),
     let signed (e : Int) : BitVec w := .ofInt w (max (-(2 ^ (w - 1))) (min (2 ^ (w - 1) - 1) e))
     let natural (e : Int) : BitVec w := .ofInt w (max 0 (min (2 ^ w - 1) e))
     let forms16 := [(Instr.vaddI16 d a b, 0), (Instr.vsubI16 d a b, 1), (Instr.vaddsI16 d a b, 2), (Instr.vsubsI16 d a b, 3),
       (Instr.vaddsN16 d a b, 4), (Instr.vsubsN16 d a b, 5), (Instr.vavgI16 d a b, 6), (Instr.vavgN16 d a b, 7)]
     let forms8 := [(Instr.vaddI8 d a b, 0), (Instr.vsubI8 d a b, 1), (Instr.vaddsI8 d a b, 2), (Instr.vsubsI8 d a b, 3),
       (Instr.vaddsN8 d a b, 4), (Instr.vsubsN8 d a b, 5), (Instr.vavgI8 d a b, 6), (Instr.vavgN8 d a b, 7)]
     (∃ n : Nat, ((w = 16 ∧ (i, n) ∈ forms16) ∨ (w = 8 ∧ (i, n) ∈ forms8)) ∧
       (n, f) ∈ [(0, fun x y => x + y), (1, fun x y => x - y), (2, fun x y => signed (x.toInt + y.toInt)), (3, fun x y => signed (x.toInt - y.toInt)),
         (4, fun x y => natural (x.toNat + y.toNat)), (5, fun x y => natural (x.toNat - y.toNat)),
         (6, fun x y => .ofInt w ((x.toInt + y.toInt + 1) / 2)), (7, fun x y => .ofNat w ((x.toNat + y.toNat + 1) / 2))]) →
     RunsOn i s → ∃ v : Fin 32 → Word32, exec i s = .next (s.bound.writeLanes s.att d v).onward ∧
       (j * w < 32 → (v l).extractLsb' (w * j) w = f ((s.rV a l).extractLsb' (w * j) w) ((s.rV b l).extractLsb' (w * j) w)))

/-- R176, R182, R168: a compare writes bit L of K[d] for each lane of m. -/
def Obligations.VectorCompares : Prop :=
  ∀ (s : State) (d : KReg) (a b : VReg) (i : Instr) (v : Fin 32 → Bool),
    let x (l : Fin 32) := s.rV a l
    let y (l : Fin 32) := s.rV b l
    let c (l : Fin 32) : Option Ordering := (val32 (x l)).cmp (val32 (y l))
    (i, v) ∈ [(Instr.vcmpf .eq d a b, fun l => c l == some .eq), (Instr.vcmpf .ne d a b, fun l => c l != some .eq),
      (Instr.vcmpf .lt d a b, fun l => c l == some .lt), (Instr.vcmpf .le d a b, fun l => c l == some .lt || c l == some .eq),
      (Instr.vcmpf .gt d a b, fun l => c l == some .gt), (Instr.vcmpf .ge d a b, fun l => c l == some .gt || c l == some .eq),
      (Instr.vcmpf .un d a b, fun l => c l == none), (Instr.vcmpf .or d a b, fun l => c l != none),
      (Instr.vcmpi .eq d a b, fun l => decide (x l = y l)), (Instr.vcmpi .ne d a b, fun l => decide (x l ≠ y l)),
      (Instr.vcmpi .lt d a b, fun l => decide ((x l).toInt < (y l).toInt)), (Instr.vcmpi .le d a b, fun l => decide ((x l).toInt ≤ (y l).toInt)),
      (Instr.vcmpi .gt d a b, fun l => decide ((y l).toInt < (x l).toInt)), (Instr.vcmpi .ge d a b, fun l => decide ((y l).toInt ≤ (x l).toInt)),
      (Instr.vcmpi .ltn d a b, fun l => decide ((x l).toNat < (y l).toNat)), (Instr.vcmpi .len d a b, fun l => decide ((x l).toNat ≤ (y l).toNat)),
      (Instr.vcmpi .gtn d a b, fun l => decide ((y l).toNat < (x l).toNat)), (Instr.vcmpi .gen d a b, fun l => decide ((y l).toNat ≤ (x l).toNat))] →
    RunsOn i s → exec i s = .next (s.bound.writeMask s.att d v).onward

/-- R173, R174, R171, R189: each rounding form rounds the exact value once in the mode in force and, under SR, draws one value a lane it writes; the
others neither round nor draw.
R175: FP16x2 and BF16x2 forms act on each part, rounding straight to the format; under SR part k takes its bits of the one drawn value. -/
def Obligations.VectorFloat : Prop :=
  (∀ (s : State) (d a b : VReg) (i : Instr) (v : Fin 32 → Word32) (rounds : Bool),
     let m := vmode s.att s
     let x (l : Fin 32) := val32 (s.rV a l)
     let y (l : Fin 32) := val32 (s.rV b l)
     let c (l : Fin 32) := val32 (s.third s.att d l)
     let part (f : Fmt) (w : Word32) (k : Nat) : FVal := f.unpack (w.toNat / 2 ^ (16 * k) % 2 ^ 16)
     let r (l : Fin 32) (e : FVal) : Word32 := .ofNat 32 (fp32.round .plain m (s.rho l 0) e)
     let dot (f : Fmt) (l : Fin 32) : FVal := sumExact m
       [c l, (part f (s.rV a l) 0).mul (part f (s.rV b l) 0), (part f (s.rV a l) 1).mul (part f (s.rV b l) 1)]
     let byte (w : Word32) (k : Nat) : BitVec 8 := w.extractLsb' (8 * k) 8
     let t := s.bound.writeLanes s.att d v
     (i, v, rounds) ∈ [(Instr.vaddF32 d a b, fun l => r l (sumExact m [x l, y l]), true),
       (Instr.vsubF32 d a b, fun l => r l (sumExact m [x l, (y l).neg]), true), (Instr.vmulF32 d a b, fun l => r l ((x l).mul (y l)), true),
       (Instr.vfmaF32 d a b, fun l => r l (sumExact m [(x l).mul (y l), c l]), true),
       (Instr.vfmsF32 d a b, fun l => r l (sumExact m [(x l).mul (y l), (c l).neg]), true),
       (Instr.vfnmaF32 d a b, fun l => r l (sumExact m [c l, ((x l).mul (y l)).neg]), true),
       (Instr.vdot2bf d a b, fun l => r l (dot bf16 l), true), (Instr.vdot2h d a b, fun l => r l (dot fp16 l), true),
       (Instr.vscaleF32 d a b, fun l => scale32 m (s.rho l 0) (s.rV a l) (s.rV b l).toInt, true),
       (Instr.vrndF32 d a, fun l => rnd32 m (s.rho l 0) (s.rV a l), true),
       (Instr.vsqrt d a, fun l => Sfu.sqrt m (s.rho l 0) (s.rV a l), true),
       (Instr.vminF32 d a b, fun l => .ofNat 32 (fp32.minCode (s.rV a l).toNat (s.rV b l).toNat), false),
       (Instr.vmaxF32 d a b, fun l => .ofNat 32 (fp32.largerCode (s.rV a l).toNat (s.rV b l).toNat), false),
       (Instr.vabsF32 d a, fun l => .ofNat 32 (fp32.absCode (s.rV a l).toNat), false),
       (Instr.vnegF32 d a, fun l => .ofNat 32 (fp32.negCode (s.rV a l).toNat), false),
       (Instr.vgetexpF32 d a, fun l => getexp32 (s.rV a l), false), (Instr.vmovF32 d a, fun l => s.rV a l, false),
       (Instr.vclampF32 d a b, fun l => clamp32 (s.rV a l) (s.rV b l) (s.third s.att d l), false),
       (Instr.vdot4i d a b, fun l => s.third s.att d l + .ofInt 32 ((byte (s.rV a l) 0).toInt * (byte (s.rV b l) 0).toInt) +
         .ofInt 32 ((byte (s.rV a l) 1).toInt * (byte (s.rV b l) 1).toInt) + .ofInt 32 ((byte (s.rV a l) 2).toInt * (byte (s.rV b l) 2).toInt) +
         .ofInt 32 ((byte (s.rV a l) 3).toInt * (byte (s.rV b l) 3).toInt), false),
       (Instr.vdot4n d a b, fun l => s.third s.att d l + .ofNat 32 ((byte (s.rV a l) 0).toNat * (byte (s.rV b l) 0).toNat) +
         .ofNat 32 ((byte (s.rV a l) 1).toNat * (byte (s.rV b l) 1).toNat) + .ofNat 32 ((byte (s.rV a l) 2).toNat * (byte (s.rV b l) 2).toNat) +
         .ofNat 32 ((byte (s.rV a l) 3).toNat * (byte (s.rV b l) 3).toNat), false)] →
     RunsOn i s → exec i s = .next (if rounds && m == .sr then t.advanceDraws (wmask s.att s) 1 else t).onward) ∧
  (∀ (s : State) (d a b : VReg) (i : Instr) (f : Fmt) (n : Nat) (v : Fin 32 → Nat → Nat),
     let m := vmode s.att s
     let p (w : Word32) (k : Nat) : Nat := w.toNat / 2 ^ (16 * k) % 2 ^ 16
     let x (l : Fin 32) (k : Nat) := f.unpack (p (s.rV a l) k)
     let y (l : Fin 32) (k : Nat) := f.unpack (p (s.rV b l) k)
     let c (l : Fin 32) (k : Nat) := f.unpack (p (s.third s.att d l) k)
     let r (l : Fin 32) (k : Nat) (e : FVal) : Nat := f.round .plain m (s.rho l k) e
     let t := s.bound.writeLanes s.att d fun l => BitVec.ofNat 16 (v l 1) ++ BitVec.ofNat 16 (v l 0)
     (i, f, n) ∈ [(Instr.vaddF16x2 d a b, fp16, 0), (Instr.vsubF16x2 d a b, fp16, 1), (Instr.vmulF16x2 d a b, fp16, 2),
       (Instr.vfmaF16x2 d a b, fp16, 3), (Instr.vfmsF16x2 d a b, fp16, 4), (Instr.vfnmaF16x2 d a b, fp16, 5), (Instr.vminF16x2 d a b, fp16, 6),
       (Instr.vmaxF16x2 d a b, fp16, 7), (Instr.vabsF16x2 d a, fp16, 8), (Instr.vnegF16x2 d a, fp16, 9), (Instr.vaddBf16x2 d a b, bf16, 0),
       (Instr.vsubBf16x2 d a b, bf16, 1), (Instr.vmulBf16x2 d a b, bf16, 2), (Instr.vfmaBf16x2 d a b, bf16, 3), (Instr.vfmsBf16x2 d a b, bf16, 4),
       (Instr.vfnmaBf16x2 d a b, bf16, 5), (Instr.vminBf16x2 d a b, bf16, 6), (Instr.vmaxBf16x2 d a b, bf16, 7), (Instr.vabsBf16x2 d a, bf16, 8),
       (Instr.vnegBf16x2 d a, bf16, 9)] →
     (n, v) ∈ [(0, fun l k => r l k (sumExact m [x l k, y l k])), (1, fun l k => r l k (sumExact m [x l k, (y l k).neg])),
       (2, fun l k => r l k ((x l k).mul (y l k))), (3, fun l k => r l k (sumExact m [(x l k).mul (y l k), c l k])),
       (4, fun l k => r l k (sumExact m [(x l k).mul (y l k), (c l k).neg])), (5, fun l k => r l k (sumExact m [c l k, ((x l k).mul (y l k)).neg])),
       (6, fun l k => f.minCode (p (s.rV a l) k) (p (s.rV b l) k)), (7, fun l k => f.largerCode (p (s.rV a l) k) (p (s.rV b l) k)),
       (8, fun l k => f.absCode (p (s.rV a l) k)), (9, fun l k => f.negCode (p (s.rV a l) k))] →
     RunsOn i s → exec i s = .next (if n < 6 ∧ m = .sr then t.advanceDraws (wmask s.att s) 1 else t).onward)

/-- R173, R174: VSCALE, VRND, VGETEXP and VCLAMP at the points the rules name.
R187: the special values of the function unit. -/
def Obligations.FloatPoints : Prop :=
  (∀ (m : RMode) (r : Nat) (n : Int) (x : Word32),
     ((val32 x).isNan = true → scale32 m r x n = 0x7FC00000 ∧ rnd32 m r x = 0x7FC00000 ∧ getexp32 x = 0x7FC00000) ∧
     (x ∈ [0x00000000, 0x80000000, 0x7F800000, 0xFF800000] → scale32 m r x n = x ∧ rnd32 m r x = x) ∧
     (getexp32 0x00000000 = 0xFF800000 ∧ getexp32 0x80000000 = 0xFF800000 ∧ getexp32 0x7F800000 = 0x7F800000 ∧ getexp32 0xFF800000 = 0x7F800000 ∧
       getexp32 0x00000001 = 0xC3150000 ∧ getexp32 0x3F800000 = 0) ∧
     rnd32 .rne r 0xBE800000 = 0x80000000) ∧
  (∀ x y c : Word32,
     ((val32 x).isNan = true → (val32 y).isNan = true → (val32 c).isNan = true → clamp32 x y c = 0x7FC00000) ∧
     ((val32 x).isNan = true → (val32 y).cmp (val32 c) = some .lt → clamp32 x y c = y) ∧
     ((val32 x).isNan = true → (val32 y).cmp (val32 c) = some .gt → clamp32 x y c = c) ∧
     ((x, y, c) ∈ [(0xBF800000, 0x00000000, 0x3F000000), (0x3E800000, 0x00000000, 0x3F000000), (0x3F800000, 0x00000000, 0x3F000000),
         (0x3F400000, 0x40000000, 0x3FC00000), (0x7F800000, 0x40000000, 0xBF800000), (0xFF800000, 0x40000000, 0xBF800000),
         (0x80000000, 0x00000000, 0x3F800000), (0x00000000, 0x00000000, 0x80000000)] →
       (x, clamp32 x y c) ∈ [(0xBF800000, 0x00000000), (0x3E800000, 0x3E800000), (0x3F800000, 0x3F000000), (0x3F400000, 0x3FC00000), (0x7F800000, 0xBF800000),
         (0xFF800000, 0xBF800000), (0x80000000, 0x00000000), (0x00000000, 0x80000000)])) ∧
  (∀ m r, (∀ f ∈ [Sfu.rcp, Sfu.rsq, Sfu.sqrt m r, Sfu.exp2, Sfu.log2, Sfu.sincos 5 0, Sfu.sincos 6 1, Sfu.tanh, Sfu.sigm],
       ∀ x, (val32 x).isNan = true → f x = 0x7FC00000) ∧
     (let points := [(0x7F800000 : Word32), 0xFF800000, 0x00000000, 0x80000000]
      points.map Sfu.rcp = [0x00000000, 0x80000000, 0x7F800000, 0xFF800000] ∧
      points.map Sfu.rsq = [0x00000000, 0x7FC00000, 0x7F800000, 0xFF800000] ∧
      points.map (Sfu.sqrt m r) = [0x7F800000, 0x7FC00000, 0x00000000, 0x80000000] ∧
      points.map Sfu.exp2 = [0x7F800000, 0x00000000, 0x3F800000, 0x3F800000] ∧
      points.map Sfu.log2 = [0x7F800000, 0x7FC00000, 0xFF800000, 0xFF800000] ∧
      points.map (Sfu.sincos 5 0) = [0x7FC00000, 0x7FC00000, 0x00000000, 0x80000000] ∧
      points.map (Sfu.sincos 6 1) = [0x7FC00000, 0x7FC00000, 0x3F800000, 0x3F800000] ∧
      points.map Sfu.tanh = [0x3F800000, 0xBF800000, 0x00000000, 0x80000000] ∧
      points.map Sfu.sigm = [0x3F800000, 0x00000000, 0x3F000000, 0x3F000000]))

/-- R190 to R193, R36, R44, R92: moves between scalars and lanes, lane numbers and random values.
R183, R184, R171, R185: VCVT writes every register of its destination group in each lane of m, and draws ceil(n / 4) values for the n elements it
rounds under SR; a special function writes one value a lane and draws nothing. -/
def Obligations.MovesAndConversions : Prop :=
  (∀ (s : State) (d : VReg) (e a : SReg) (w : VReg) (f : BitVec 18) (i : Instr) (v : Fin 32 → Word32),
     let wide : Word64 := match s.cur.att.limm with
       | none => f.signExtend 64
       | some h => (h ++ f).signExtend 64
     let next (l : Fin 32) : Word64 := mix s.gg.srseed (s.gg.gidx.setWidth 64 * 2 ^ 14 + .ofNat 64 (s.tr.idx * 32 + l)) (s.tr.draw.get l)
     ((i, v) ∈ [(Instr.vmovs d a, fun _ : Fin 32 => (s.rS a).setWidth 32), (Instr.vmovsh d a, fun _ => (s.rS a >>> 32).setWidth 32),
         (Instr.vlane d, fun l => .ofNat 32 l.val), (Instr.vmovi d f, fun _ => wide.setWidth 32)] →
       RunsOn i s → exec i s = .next (s.bound.writeLanes s.att d v).onward) ∧
     (RunsOn (Instr.vrand d) s → exec (Instr.vrand d) s =
       .next ((s.bound.writeLanes s.att d fun l => (next l).setWidth 32).advanceDraws (wmask s.att s) 1).onward) ∧
     (RunsOn (Instr.vext e w a) s → exec (Instr.vext e w a) s =
       .next (s.bound.wS e ((s.rV w ⟨(s.rS a).toNat % 32, Nat.mod_lt _ (by decide)⟩).setWidth 64)).onward)) ∧
  (∀ (s : State) (c : CvtCode) (d a : VReg) (sat : BitVec 1) (i : Instr) (f : Word32 → Word32),
     let m := vmode s.att s
     let n : Nat := match c with
       | .f32ToI32 | .f32ToN32 | .i32ToF32 | .n32ToF32 => 1
       | .f32ToF16 | .f32ToBf16 => 2
       | .f32ToE4m3 | .f32ToE5m2 | .f32ToI8 => 4
       | .f32ToE2m1 => 8
       | _ => 0
     let t := s.bound.writeGroup s.att d (fun j l => cvtLane c (sat == 1) m (s.rho l) (fun k => s.rV (VReg.plus a k) l) j) c.dstCount
     (RunsOn (Instr.vcvt c d a sat) s →
       exec (Instr.vcvt c d a sat) s = .next (if n ≠ 0 ∧ m = .sr then t.advanceDraws (wmask s.att s) ((n + 3) / 4) else t).onward) ∧
     ((i, f) ∈ [(Instr.vrcp d a, Sfu.rcp), (Instr.vrsq d a, Sfu.rsq), (Instr.vexp2 d a, Sfu.exp2), (Instr.vlog2 d a, Sfu.log2),
         (Instr.vsin d a, Sfu.sincos 5 0), (Instr.vcos d a, Sfu.sincos 6 1), (Instr.vtanh d a, Sfu.tanh), (Instr.vsigm d a, Sfu.sigm)] →
       RunsOn i s → exec i s = .next (s.bound.writeLanes s.att d fun l => f (s.rV a l)).onward))

/-- R198, R199, R196: in each active lane a shuffle reads the stored contents of the lane its kind names, within the lane's tile.
R200, R201, R196: votes over the lanes of each tile, and the first active lane of each distinct value of a tile. -/
def Obligations.ShufflesAndVotes : Prop :=
  (∀ (s : State) (d a b : VReg) (r : SReg) (n : BitVec 5) (i : Instr) (j : Fin 32 → Nat),
     let size := s.tr.tilesz.toNat
     let base (l : Fin 32) := size * (l.val / size)
     let x := (s.rS r).toNat
     let up (n : Nat) (l : Fin 32) := if l.val < base l + n then l.val else l.val - n
     let down (n : Nat) (l : Fin 32) := if base l + size - 1 < l.val + n then l.val else l.val + n
     (i, j) ∈ [(Instr.vshflIdx d a b, fun l => base l + (s.rV b l).toNat % size), (Instr.vshflUp d a r, up x), (Instr.vshflDown d a r, down x),
       (Instr.vshflXor d a r, fun l => l.val ^^^ (x % size)), (Instr.vshflBcast d a r, fun l => base l + x % size),
       (Instr.vshflUpImm d a n, up n.toNat), (Instr.vshflDownImm d a n, down n.toNat),
       (Instr.vshflXorImm d a n, fun l => l.val ^^^ (n.toNat % size)), (Instr.vshflBcastImm d a n, fun l => base l + n.toNat % size)] →
     RunsOn i s → exec i s = .next (s.bound.writeLanes s.att d fun l => s.rV a (Fin.ofNat 32 (j l))).onward) ∧
  (∀ (s : State) (d : SReg) (k q : KReg) (a : VReg),
     let tile (i j : Fin 32) : Prop := i.val / s.tr.tilesz.toNat = j.val / s.tr.tilesz.toNat
     let m := s.cur.mask
     (RunsOn (Instr.vballot d k) s → exec (Instr.vballot d k) s = .next (s.bound.wS d ((s.rK k &&& m).setWidth 64)).onward) ∧
     (0 < s.tr.tilesz.toNat → RunsOn (Instr.vany d k) s → ∃ v : BitVec 32, exec (Instr.vany d k) s = .next (s.bound.wS d (v.setWidth 64)).onward ∧
       ∀ l : Fin 32, v.getLsbD l = true ↔ m.getLsbD l = true ∧ ∃ j : Fin 32, tile j l ∧ m.getLsbD j = true ∧ (s.rK k).getLsbD j = true) ∧
     (0 < s.tr.tilesz.toNat → RunsOn (Instr.vall d k) s → ∃ v : BitVec 32, exec (Instr.vall d k) s = .next (s.bound.wS d (v.setWidth 64)).onward ∧
       ∀ l : Fin 32, v.getLsbD l = true ↔ m.getLsbD l = true ∧ ∀ j : Fin 32, tile j l → m.getLsbD j = true → (s.rK k).getLsbD j = true) ∧
     (0 < s.tr.tilesz.toNat → RunsOn (Instr.vmatch q a) s → ∃ v : BitVec 32, exec (Instr.vmatch q a) s = .next (s.bound.wK q m v).onward ∧
       ∀ l : Fin 32, v.getLsbD l = true ↔ ∀ j : Fin 32, j.val < l.val → tile j l → m.getLsbD j = true → s.rV a j ≠ s.rV a l))

/-- R202, R203, R102, R204, R205, R220: reductions, scans and top-k lists write each active lane; SETFMT and SETTILE write the path's FMT and TILESZ, a
value that is not legal traps ILLOP.
R102, R202: a level of the tree combines positions 2i and 2i + 1, one absent operand passes the other through, with a NaN made canonical in a float
form, and each operation is the one its row names. R204: an entry ranks ahead by its score, then its index. -/
def Obligations.ReductionsListsAndFormats : Prop :=
  (∀ (o : RedOp) (x y sc id cid : Word32) (l : List (Option Word32)) (n i : Nat),
    redOp o x y = (match o with
      | .addI32 => x + y
      | .addF32 => .ofNat 32 (fp32.round .plain .rne 0 (sumExact .rne [val32 x, val32 y]))
      | .minI32 => if x.toInt ≤ y.toInt then x else y
      | .maxI32 => if x.toInt ≤ y.toInt then y else x
      | .minN32 => if x.toNat ≤ y.toNat then x else y
      | .maxN32 => if x.toNat ≤ y.toNat then y else x
      | .minF32 => .ofNat 32 (fp32.minCode x.toNat y.toNat)
      | .maxF32 => .ofNat 32 (fp32.largerCode x.toNat y.toNat)
      | .and => x &&& y
      | .or => x ||| y
      | .xor => x ^^^ y) ∧
    ((val32 x).isNan = true → redCanon o x = if o ∈ [.addF32, .minF32, .maxF32] then 0x7FC00000 else x) ∧ ((val32 x).isNan = false → redCanon o x = x) ∧
    (redLevel o l).getD i none = (match l.getD (2 * i) none, l.getD (2 * i + 1) none with
      | some x, some y => some (redOp o x y)
      | some x, none => some (redCanon o x)
      | none, some y => some (redCanon o y)
      | none, none => none) ∧
    redTree o (n + 1) l = redTree o n (redLevel o l) ∧ redTree o 0 [some x] = redCanon o x ∧
    (ranksAhead sc id x cid = true ↔ (val32 sc).cmp (val32 x) = some .gt ∨ ((val32 sc).cmp (val32 x) = some .eq ∧ id.toNat ≤ cid.toNat))) ∧
  ∀ (s : State) (o : RedOp) (k : BitVec 4) (d a b : VReg) (f : BitVec 18),
    let size := s.tr.tilesz.toNat
    let inTile (l j : Fin 32) : Bool := decide (size * (j.val / size) = size * (l.val / size))
    let active (l : Fin 32) : List (Fin 32) := (List.finRange 32).filter fun j => s.cur.mask.getLsbD j && inTile l j
    let value : Word64 := match s.cur.att.limm with
      | none => f.setWidth 64
      | some h => (h ++ f).setWidth 64
    (RunsOn (Instr.vred o d a) s → exec (Instr.vred o d a) s = .next (s.bound.writeLanes s.att d fun l =>
      redTree o 5 (((List.finRange 32).filter (inTile l)).map fun (j : Fin 32) => if s.cur.mask.getLsbD j then some (s.rV a j) else none)).onward) ∧
    (RunsOn (Instr.vscan o d a) s → exec (Instr.vscan o d a) s = .next (s.bound.writeLanes s.att d fun l =>
      match (active l).filter fun (j : Fin 32) => decide (j.val ≤ l.val) with
      | [] => 0
      | (j : Fin 32) :: r => r.foldl (fun acc (i : Fin 32) => redOp o acc (s.rV a i)) (redCanon o (s.rV a j))).onward) ∧
    (RunsOn (Instr.vtopk k d a b) s →
      let n := k.toNat
      let place (l : Fin 32) : Nat := ((List.range n).filter fun i =>
        ranksAhead (s.rV (VReg.plus d i) l) (s.rV (VReg.plus d (n + i)) l) (s.rV a l) (s.rV b l)).length
      exec (Instr.vtopk k d a b) s = .next (s.bound.writeGroup s.att d (fun j l =>
        let i := if j < n then j else j - n
        let at_ := fun q => s.rV (VReg.plus (if j < n then d else VReg.plus d n) q) l
        if (val32 (s.rV a l)).isNan || n ≤ place l || i < place l then at_ i
        else if i = place l then (if j < n then s.rV a l else s.rV b l)
        else at_ (i - 1)) (2 * n)).onward) ∧
    (legalFmt value = true → RunsOn (Instr.setfmt f) s →
      exec (Instr.setfmt f) s = .next (s.bound.setCur { s.bound.cur with fmt := value.setWidth 32 }).onward) ∧
    (legalFmt value = false → Runs (formOf (Instr.setfmt f)) s → TrapsNow s →
      exec (Instr.setfmt f) s = .next (s.takeTrap { cause := 1, pc := s.pc.toNat, word := (Instr.setfmt f).word })) ∧
    (RunsOn (Instr.settile f) s → exec (Instr.settile f) s = .next { s.bound with tr := { s.bound.tr with tilesz := f.setWidth 6 } }.onward)

/-- R20, R42, R168: a vector instruction of majors 0x20 to 0x2D and 0x40 to 0x44 with a vector destination changes no register outside its group, no
scalar or mask register, no status and no byte of memory. -/
def Obligations.VectorFrame : Prop :=
  ∀ (i : Instr) (d : VReg) (n : Nat) (s t : State), i.vectorDest = some (d, n) → RunsOn i s → exec i s = .next t →
    (∀ r, (∀ j < n, r ≠ VReg.plus d j) → ∀ l, t.rV r l = s.rV r l) ∧ (∀ r (l : Fin 32), s.cur.mask.getLsbD l = false → t.rV r l = s.rV r l) ∧
      (∀ r, t.rS r = s.rS r) ∧ (∀ k, t.rK k = s.rK k) ∧ SameStatus s t ∧ SameBytes s t

/-- R283, R264, R25, R296: a scalar access whose address is in no class traps the address fault, one of an address that is no multiple of its size the
misalignment trap, each with the address; a page not present parks the troupe on its faults (R436), with the attachments still pending; a page that no
TLB maps makes the path wait for a page walk (R454). -/
def Obligations.AccessFaults : Prop :=
  ∀ (s : State) (d sa : SReg) (e f : SReg) (nd : BitVec 4) (imm : BitVec 8) (i : Instr) (z : Nat) (acc : AccKind) (scaled : Bool),
    (i, z, acc, scaled) ∈ [(Instr.ldb d sa nd imm, 1, .read, true), (Instr.ldbs d sa nd imm, 1, .read, true), (Instr.ldh d sa nd imm, 2, .read, true),
      (Instr.ldhs d sa nd imm, 2, .read, true), (Instr.ldw d sa nd imm, 4, .read, true), (Instr.ldws d sa nd imm, 4, .read, true),
      (Instr.ldd d sa nd imm, 8, .read, true), (Instr.stb d sa nd imm, 1, .write, true), (Instr.sth d sa nd imm, 2, .write, true),
      (Instr.stw d sa nd imm, 4, .write, true), (Instr.std d sa nd imm, 8, .write, true), (Instr.samoadd e sa f, 8, .atomic, false),
      (Instr.samocas e sa f, 8, .atomic, false), (Instr.samoswap e sa f, 8, .atomic, false), (Instr.samomax e sa f, 8, .atomic, false)] →
    Runs (formOf i) s → TrapsNow s →
    let a := if scaled then s.bound.scalarAddr s.att sa imm z else s.rS sa
    let trap (c : Nat) := exec i s = .next (s.takeTrap { cause := c, addr := a, pc := s.pc.toNat, word := i.word })
    (s.bound.classify 0 a = .invalid → trap 3) ∧ (s.bound.classify 0 a ≠ .invalid → a.toNat % z ≠ 0 → trap 2) ∧
      (∀ ms, s.bound.resolve true acc z [(0, a)] = .error (.park ms) → exec i s = .next (s.parkOn ms none i.word)) ∧
      (∀ va k, s.bound.resolve true acc z [(0, a)] = .error (.walk va k) → exec i s = .next (s.beginWalk va k))

/-- R122, R123, R27, R31, R285, R307: a scalar load reads its size at s[sa] plus the widened immediate times the size, extends it into s[d] and counts for
GCLK. `l` is where the address lands; the path's acquires perform first, and its own acquire invalidates. That the whole load waits while ORD acquire of
asynchronous work holds the path back (R344) is the model's reading (log 51).
R313: each part of a load takes the value it bound ahead of its issue, or reads now; what may be bound ahead is the model's reading (log 5). R307, R24,
R270, R150: byte k of what it reads now is the newest unperformed store of its lanes, or of a path-stack entry at troupe scope, that holds the byte, else the byte where it lands; a
value has its lowest byte at its address.
R288 to R290, R284, R285: a vector load gathers each active lane's value from s[sa] plus its v[b], times the size in the scaled form, and writes it into
the registers of the group; one of 16 bytes binds as two halves. Lanes that read the same bytes receive one value, after what any of them has stored
there has performed. -/
def Obligations.Loads : Prop :=
  (∀ (s u : State) (d sa : SReg) (nd : BitVec 4) (imm : BitVec 8) (i : Instr) (z : Nat) (ext : Nat → Word64) (l : Loc),
     let wide : Word64 := match s.cur.att.limm with
       | none => imm.signExtend 64
       | some h => (h ++ imm).signExtend 64
     let a := s.rS sa + wide * .ofNat 64 z
     let mode : AccMode := { s.att.ord with nd := nd }
     let v := u.settle u.pmask [(0, l)] z
     let w := if mode.order = .acquire ∨ mode.order = .acqRel then v.acquireL1 v.req.core v.gg.part mode.scope v.req.one else v
     let got := w.bindLoad true w.pmask mode l z
     let x := (w.noteSeen [(0, l)] z).afterLoad mode got.2
     (i, z, ext) ∈ [(Instr.ldb d sa nd imm, 1, fun n => .ofNat 64 n), (Instr.ldbs d sa nd imm, 1, fun n => (BitVec.ofNat 8 n).signExtend 64),
       (Instr.ldh d sa nd imm, 2, fun n => .ofNat 64 n), (Instr.ldhs d sa nd imm, 2, fun n => (BitVec.ofNat 16 n).signExtend 64),
       (Instr.ldw d sa nd imm, 4, fun n => .ofNat 64 n), (Instr.ldws d sa nd imm, 4, fun n => (BitVec.ofNat 32 n).signExtend 64),
       (Instr.ldd d sa nd imm, 8, fun n => .ofNat 64 n)] →
     Runs (formOf i) s → s.bound.resolve true .read z [(0, a)] = .ok ([(0, l)], u) → u.dataErr true [(0, a)] [(0, l)] = none →
     (Unheld u → exec i s =
       .next (((((x.addFills mode false z [l]).noteClip mode.scope).countRetire).wS d (ext got.1)).advanceWord i.word)) ∧
     (¬ Unheld u → exec i s = .next s.mustWait)) ∧
  (∀ (s : State) (lanes : BitVec 32) (alone : Bool) (mode : AccMode) (l : Loc) (n : Nat),
     let b := s.bindPart alone lanes mode l n
     (b = (s.loadNat lanes mode.scope l n, s.tr.ins) ∨ ∃ e ∈ s.tr.early, alone = true ∧ l.device = false ∧ (Acquires mode → e.acq = true) ∧ e.lanes = lanes ∧ e.scope = mode.scope ∧ e.loc = l ∧ e.size = n ∧
       b = (e.val, e.since)) ∧
     (s.tr.early = [] → b.1 = s.loadNat lanes mode.scope l n)) ∧
  (∀ (s : State) (lanes : BitVec 32) (scope : OrdScope) (l : Loc) (z k : Nat), k < z →
     s.loadNat lanes scope l z / 256 ^ k % 256 = ((forward lanes scope (l.plus k) s.tr.stream).getD (s.readFor lanes scope (l.plus k))).toNat) ∧
  (∀ (s u : State) (d b : VReg) (sa : SReg) (nd : BitVec 4) (sc : BitVec 1) (i : Instr) (z regs : Nat) (ext : Nat → Nat) (ls : List (Nat × Loc)),
     let scale := if sc = 1 then z else 1
     let as : List (Nat × Word64) := (lanesOf s.cur.mask).map fun l => (l.val, s.rS sa + (s.rV b l).signExtend 64 * .ofNat 64 scale)
     let mode : AccMode := { s.att.ord with nd := nd }
     let all : BitVec 32 := .ofNat 32 ((ls.map fun l => 2 ^ l.1).sum)
     let alone (x : Nat × Loc) : Bool := ls.all fun m => m.1 == x.1 || !m.2.meets z x.2 z
     let same := ls.filter fun x => !alone x
     let shared : BitVec 32 := .ofNat 32 ((same.map fun l => 2 ^ l.1).sum)
     let v0 := u.settle all ls z
     let v := if same = [] then v0 else v0.drainWhere fun e => e.lanes &&& shared != 0 && same.any fun l => e.loc.meets e.size l.2 z
     let w := if mode.order = .acquire ∨ mode.order = .acqRel then v.acquireL1 v.req.core v.gg.part mode.scope v.req.one else v
     let got := ls.map fun x => (x.1, w.bindLoad (alone x) (if alone x then .ofNat 32 (2 ^ x.1) else all) mode x.2 z)
     let x := w.afterLoad mode ((got.map fun g => g.2.2).flatten)
     (i, z, regs, ext) ∈ [(Instr.vldb d sa b nd sc, 1, 1, fun n => n), (Instr.vldbs d sa b nd sc, 1, 1, fun n => ((BitVec.ofNat 8 n).signExtend 32).toNat),
       (Instr.vldh d sa b nd sc, 2, 1, fun n => n), (Instr.vldhs d sa b nd sc, 2, 1, fun n => ((BitVec.ofNat 16 n).signExtend 32).toNat),
       (Instr.vldw d sa b nd sc, 4, 1, fun n => n), (Instr.vldd d sa b nd sc, 8, 2, fun n => n), (Instr.vldq d sa b nd sc, 16, 4, fun n => n)] →
     Runs (formOf i) s → s.bound.resolve false .read z as = .ok (ls, u) → u.dataErr false as ls = none →
     (Unheld u → exec i s = .next ((((x.addFills mode false z (ls.map Prod.snd)).noteClip mode.scope).countRetire.writeLoaded d
       (got.map fun g => (g.1, ext g.2.1)) regs).advanceWord i.word)) ∧
     (¬ Unheld u → exec i s = .next s.mustWait))

/-- R122, R107, R286: a scalar store puts its size's low bytes of s[d] at the end of the troupe's store stream, in the program order of every lane of its
path, and counts for GCLK; memory is unchanged until it performs. That it waits to issue while ORD acquire of asynchronous work holds the path back
(R344) is the model's reading (log 51).
R288 to R290: a vector store puts each active lane's group into that lane's store stream, a 16-byte one as two halves.
R107, R289, R324: the entries of one instruction enter together, under its number in the troupe; memory, the registers and the control state stay. When a
troupe's 768 entries (R489) have no room for them, the earlier stores have performed first (log 106). -/
def Obligations.Stores : Prop :=
  (∀ (s u : State) (d sa : SReg) (nd : BitVec 4) (imm : BitVec 8) (i : Instr) (z : Nat) (l : Loc),
     let wide : Word64 := match s.cur.att.limm with
       | none => imm.signExtend 64
       | some h => (h ++ imm).signExtend 64
     let a := s.rS sa + wide * .ofNat 64 z
     let mode : AccMode := { s.att.ord with nd := nd }
     let entry : StoreEntry := { lanes := u.pmask, lane := lowLane u.pmask, path := u.pmask, va := u.heldVa 0 a, loc := l, size := z,
                                 data := (s.rS d).toNat % 2 ^ (8 * z), mode := mode }
     (i, z) ∈ [(Instr.stb d sa nd imm, 1), (Instr.sth d sa nd imm, 2), (Instr.stw d sa nd imm, 4), (Instr.std d sa nd imm, 8)] →
     Runs (formOf i) s → s.bound.resolve true .write z [(0, a)] = .ok ([(0, l)], u) →
     (Unheld u → exec i s = .next (((((u.enter [entry]).addFills mode true z [l]).noteClip mode.scope).countRetire).advanceWord i.word)) ∧
     (¬ Unheld u → exec i s = .next s.mustWait)) ∧
  (∀ (s u : State) (d b : VReg) (sa : SReg) (nd : BitVec 4) (sc : BitVec 1) (i : Instr) (z regs : Nat) (ls : List (Nat × Loc)),
     let scale := if sc = 1 then z else 1
     let as : List (Nat × Word64) := (lanesOf s.cur.mask).map fun l => (l.val, s.rS sa + (s.rV b l).signExtend 64 * .ofNat 64 scale)
     let mode : AccMode := { s.att.ord with nd := nd }
     let vaOf (lane : Nat) : Word64 := u.heldVa lane (((as.find? fun a => a.1 == lane).map Prod.snd).getD 0)
     let entry (lane : Nat) (va : Word64) (l : Loc) (n x : Nat) : StoreEntry :=
       { lanes := .ofNat 32 (2 ^ lane), lane := lane, path := u.pmask, va := va, loc := l, size := n, data := x, mode := mode }
     let entries (x : Nat × Loc) : List StoreEntry :=
       let data := s.groupNat d (Fin.ofNat 32 x.1) regs
       if z = 16 then [entry x.1 (vaOf x.1) x.2 8 (data % 2 ^ 64), entry x.1 (vaOf x.1 + 8) (x.2.plus 8) 8 (data / 2 ^ 64)]
       else [entry x.1 (vaOf x.1) x.2 z (data % 2 ^ (8 * z))]
     (i, z, regs) ∈ [(Instr.vstb d sa b nd sc, 1, 1), (Instr.vsth d sa b nd sc, 2, 1), (Instr.vstw d sa b nd sc, 4, 1), (Instr.vstd d sa b nd sc, 8, 2),
       (Instr.vstq d sa b nd sc, 16, 4)] →
     Runs (formOf i) s → s.bound.resolve false .write z as = .ok (ls, u) →
     (Unheld u → exec i s = .next
       (((((u.enter (ls.map entries).flatten).addFills mode true z (ls.map Prod.snd)).noteClip mode.scope).countRetire).advanceWord i.word)) ∧
     (¬ Unheld u → exec i s = .next s.mustWait)) ∧
  (∀ (s : State) (es : List StoreEntry),
     let t := s.enter es
     let d := if 768 < s.tr.stream.length + es.length then s.drain (.allOnes 32) else s
     t.tr.stream = d.tr.stream ++ es.map (fun e => { e with ins := d.tr.ins, clip := d.clips e.mode.scope, out := d.outside e.loc }) ∧
       t.tr.ins = d.tr.ins + 1 ∧ (∀ x ∈ t.tr.early, x ∈ d.tr.early) ∧
       t = { d with tr := { d.tr with stream := t.tr.stream, ins := t.tr.ins, early := t.tr.early } })

/-- R286, R308, R265, R271: an unperformed plain store performs at its place, and changes exactly its bytes: of the gang's scratchpad, or of home memory
when its scope point is the slice and no doorbell page holds it. One to a module no route leads to writes nothing, and its machine check is due (R522;
log 105).
R286, R311, R285, R289, R316, R324: STORE_PERFORM performs the n-th unperformed store of a troupe when no earlier entry of its lanes stands before it,
none of its own instruction in the same bytes, no acquire of its path, and, for a release, nothing of the path or forwarded to it; a clipped release waits for no
write of other bytes to the host or to shared memory. -/
def Obligations.StoresPerform : Prop :=
  (∀ (s : State) (r : Req) (scope : OrdScope) (nd : BitVec 4) (n v c : Nat), Safe s →
     (∀ off, r.gang = s.gg.uid → Memory.wf s.gg.scratch = true →
       let t := s.performAt r scope nd (.scratch off) n v
       cellGet t.gg.scratch c = (if off ≤ c ∧ c < off + n then .ofNat 8 (v / 256 ^ (c - off)) else cellGet s.gg.scratch c) ∧ t.mem = s.mem) ∧
     (∀ pa mt, s.bellAt pa = none → s.away pa = true →
       s.performAt r scope nd (.phys pa mt) n v = { s with checks := s.checks ++ [⟨r.gang, r.part, r.core, lineOf pa, 9⟩] }) ∧
     (∀ pa mt, s.bellAt pa = none → s.away pa = false → s.pointL1 r scope pa mt = false → r.dom = 0 →
       let t := s.performAt r scope nd (.phys pa mt) n v
       cellGet t.mem c = (if pa ≤ c ∧ c < pa + n then .ofNat 8 (v / 256 ^ (c - pa)) else cellGet s.mem c) ∧ t.gg = s.gg ∧ t.tr = s.tr)) ∧
  (∀ (s : State) (g t n : Nat) (e : StoreEntry), s.gg.uid = g → g ≠ 0 → s.tr.idx = t → s.gg.save = none → s.tr.stream[n]? = some e →
     (∀ x ∈ s.tr.stream.take n, (Acquires x.mode → x.path &&& e.lanes = 0) ∧ (x.ins = e.ins → x.loc.meets x.size e.loc e.size = false) ∧
       (x.lanes &&& e.lanes = 0 ∧ (Releases e.mode → (x.lanes ||| x.seen) &&& e.path = 0) ∨
         Releases e.mode ∧ e.clip = true ∧ x.out = true ∧ x.loc.meets x.size e.loc e.size = false)) →
     exec (Instr.storePerform g t n) s =
       .next (({ s with sel := .P, tr := { s.tr with stream := s.tr.stream.eraseIdx n } } : State).performEntry
         ({ s with sel := .P, tr := { s.tr with stream := s.tr.stream.eraseIdx n } } : State).req e))

/-- R292, R293, R296, R85, R77: what each read-modify-write makes of the old value, the operand and the compared value. -/
def Obligations.AtomicValues : Prop :=
  ∀ (o : AtomicOp) (x v c : Nat) (w : Nat), x < 2 ^ 64 → v < 2 ^ 64 → c < 2 ^ 64 →
    let s32 (n : Nat) : Int := (BitVec.ofNat 32 n).toInt
    let s64 (n : Nat) : Int := (BitVec.ofNat 64 n).toInt
    let f (n : Nat) := fp32.unpack n
    let bf (n k : Nat) := bf16.unpack (n / 2 ^ (16 * k) % 2 ^ 16)
    let part (k : Nat) := bf16.round .plain .rne 0 (sumExact .rne [bf x k, bf v k]) % 2 ^ 16
    (x < 2 ^ 32 → v < 2 ^ 32 → c < 2 ^ 32 →
      (o, w) ∈ [(.a .addI32, (x + v) % 2 ^ 32), (.a .min, if s32 x ≤ s32 v then x else v), (.a .max, if s32 x ≤ s32 v then v else x),
        (.a .minn, min x v), (.a .maxn, max x v), (.a .faddF32, fp32.round .plain .rne 0 (sumExact .rne [f x, f v]) % 2 ^ 32),
        (.a .faddBf16, part 1 * 2 ^ 16 + part 0), (.a .fminF32, fp32.minCode x v), (.a .fmaxF32, fp32.largerCode x v),
        (.a .incWrap, if v ≤ x then 0 else x + 1), (.l .and, x &&& v), (.l .or, x ||| v), (.l .xor, x ^^^ v), (.l .swap, v),
        (.l .cas32, if x = c then v else x)] → o.new x v c = w) ∧
    ((o, w) ∈ [(.a .addI64, (x + v) % 2 ^ 64), (.l .and64, x &&& v), (.l .or64, x ||| v), (.l .xor64, x ^^^ v), (.l .cas64, if x = c then v else x),
        (.sadd, (x + v) % 2 ^ 64), (.scas, if x = c then v else x), (.sswap, v), (.smax, if s64 x ≤ s64 v then v else x)] → o.new x v c = w)

/-- R291, R294 to R296, R311: an atomic without return joins its lanes' store streams with its operand and operation; one with return performs the path's
earlier stores and its acquires, whatever lane issued them (R285), then its read-modify-writes in ascending lane order, and writes the old values; a clipped
release waits for no write of other bytes to the host or to shared memory (R324). What the lanes have bound ahead of it at its bytes no longer stands
(R24, R313; log 5). That it waits to issue while ORD acquire of asynchronous work holds the path back (R344) is the model's reading (log 51). -/
def Obligations.Atomics : Prop :=
  ∀ (s u : State) (d b : VReg) (e a q : SReg) (oa : AmoaOp) (ol : AmolOp) (ret : BitVec 1) (i : Instr) (z : Nat) (o : AtomicOp) (one with_ : Bool)
    (ls : List (Nat × Loc)) (opnd : Nat → Nat × Nat) (put : State → List (Nat × Nat) → State),
    let mode := s.att.ord
    let as : List (Nat × Word64) := if one then [(0, s.rS a)] else (lanesOf s.cur.mask).map fun l => (l.val, s.rS a + (s.rV b l).signExtend 64)
    let v := (u.addFills mode true z (ls.map Prod.snd)).noteClip mode.scope
    let lanes (lane : Nat) : BitVec 32 := if one then v.pmask else .ofNat 32 (2 ^ lane)
    let entry (x : Nat × Loc) : StoreEntry :=
      { lanes := lanes x.1, lane := if one then lowLane v.pmask else x.1, path := v.pmask, va := v.heldVa x.1 (((as.find? fun a => a.1 == x.1).map
          Prod.snd).getD 0), loc := x.2, size := z, data := (opnd x.1).1, cmp := (opnd x.1).2, aop := some o, mode := mode }
    let w1 := if mode.order = .release ∨ mode.order = .acqRel then v.releaseFor mode.scope (v.clips mode.scope) else v
    let w2 := w1.drainWhere fun e => (isAcquire e.mode.order && e.path &&& w1.pmask != 0) ||
      (e.lanes &&& w1.pmask != 0 && !(isRelease mode.order && w1.clips mode.scope && e.out && !ls.any fun l => e.loc.meets e.size l.2 z))
    let w3 := if mode.order = .acquire ∨ mode.order = .acqRel then w2.acquire w2.pmask mode.scope w2.tr.ins else w2
    let w4 := ls.foldl (fun t x =>
      let own : BitVec 32 := if one then t.pmask else .ofNat 32 (2 ^ x.1)
      (t.forgetAt own x.2 z t.tr.ins).noteSent own x.2) w3
    let done := w4.rmws mode z o opnd ls
    let sOp (_ : Nat) : Nat × Nat := ((s.rS q).toNat, (s.rS e).toNat)
    let sPut (t : State) (olds : List (Nat × Nat)) : State := t.wS e (.ofNat 64 ((olds.map Prod.snd).headD 0))
    (i, z, o, one, with_, opnd, put) ∈ [
      (Instr.amoa oa d b a ret, AmoaOp.size oa, .a oa, false, ret == 1, fun l => (s.groupNat d (Fin.ofNat 32 l) (AmoaOp.size oa / 4), 0),
        fun t olds => t.writeLoaded d olds (AmoaOp.size oa / 4)),
      (Instr.amol ol d b a ret, AmolOp.size ol, .l ol, false, ret == 1, fun l => AmolOp.operands ol s d (Fin.ofNat 32 l),
        fun t olds => t.writeLoaded d olds (AmolOp.size ol / 4)),
      (Instr.samoadd e a q, 8, .sadd, true, e != 0, sOp, sPut), (Instr.samocas e a q, 8, .scas, true, e != 0, sOp, sPut),
      (Instr.samoswap e a q, 8, .sswap, true, e != 0, sOp, sPut), (Instr.samomax e a q, 8, .smax, true, e != 0, sOp, sPut)] →
    Runs (formOf i) s → s.bound.resolve one .atomic z as = .ok (ls, u) → u.dataErr one as ls = none →
    (Unheld u → with_ = false → exec i s = .next (((v.enter (ls.map entry)).countRetire).advanceWord i.word)) ∧
    (Unheld u → with_ = true → exec i s = .next ((put done.2 done.1).countRetire.advanceWord i.word)) ∧
    (¬ Unheld u → exec i s = .next s.mustWait)

/-- R297 to R300: WAITC goes on when the 8 bytes it reads satisfy its condition, and else sleeps at its word with a monitor entry when the pool grants
one: a monitor armed where writes of its scope meet for the bytes it watches. What its read binds, and where a monitor is armed, are the model's readings
(logs 5 and 38); that it waits while ORD acquire of asynchronous work holds the path back is log 51.
R301 to R304: a fence that releases performs the path's stores and writes back, one that acquires invalidates; GADDR writes the flat alias of a flat
or private address and traps on any other; CLINE and PF of an address of no memory page only go on. A PF whose page no TLB maps joins or posts a walk,
and one that finds no request entry of its core free (R287), or no permission, is dropped; in a NEAR region it asks the slices alone (R510). That CLINE
asks for read permission is log 129. -/
def Obligations.WaitsAndHints : Prop :=
  (∀ (s u : State) (c : WaitCond) (a b : SReg),
     let i := Instr.waitc c a b
     let scope := s.att.ord.scope
     let acq := decide (s.att.ord.order = .acquire ∨ s.att.ord.order = .acqRel)
     let nd := s.att.ord.nd
     (∀ l, s.bound.waitRead (s.rS a) (s.rS b) c scope acq nd = .ok (true, l, u) → Unheld u → Runs (formOf i) s →
       exec i s = .next ((u.noteClip scope).advanceWord i.word)) ∧
     (∀ l, s.bound.waitRead (s.rS a) (s.rS b) c scope acq nd = .ok (false, l, u) → Unheld u → Runs (formOf i) s →
       let filled := s.addFills { nd := nd, scope := scope } false 8 [l]
       let kept := filled.applyHint filled.cur.att.hint
       let entry := kept.mayTake .monitor kept.gg.part 1 none
       let pool := if entry then kept.takeEntry .monitor kept.gg.part 1 else kept.noteRefusal .monitor kept.gg.part
       let asked := pool.setCur { pool.cur with askedAt := pool.cycle }
       let asleep := asked.setCur { asked.cur with sleep := some (.waitc (s.rS a) (s.rS b) c scope acq entry i.word
         (if entry then some (asked.arm asked.req asked.gg scope l) else none)) }
       exec i s = .next (asleep.noteClip scope).mustWait) ∧
     (∀ ok l, s.bound.waitRead (s.rS a) (s.rS b) c scope acq nd = .ok (ok, l, u) → ¬ Unheld u → Runs (formOf i) s →
       exec i s = .next s.mustWait) ∧
     ∀ (x y : Word64), (WaitCond.holds c x y = true ↔ match c with
       | .eq => x = y
       | .ne => x ≠ y
       | .ge => y.toNat % 2 ^ 63 ≤ x.toNat % 2 ^ 63
       | .gen => y.toNat ≤ x.toNat)) ∧
  (∀ (s : State) (d a : SReg),
     let x := s.rS a
     let o := s.att.ord
     (RunsOn Instr.fence s →
       let r := if o.order = .release ∨ o.order = .acqRel then s.bound.releaseFor o.scope (s.bound.clips o.scope) else s.bound
       let q := if o.order = .acquire ∨ o.order = .acqRel then r.acquire r.pmask o.scope r.tr.ins else r
       exec Instr.fence s = .next ((q.noteClip o.scope).advanceWord Instr.fence.word)) ∧
     (∀ va, s.bound.classify 0 x = .flat va → RunsOn (Instr.gaddr d a) s → exec (Instr.gaddr d a) s = .next (s.bound.wS d (.ofNat 64 va)).onward) ∧
     ((∀ va, s.bound.classify 0 x ≠ .flat va) → Runs (formOf (Instr.gaddr d a)) s → TrapsNow s →
       exec (Instr.gaddr d a) s = .next (s.takeTrap { cause := 3, addr := x, pc := s.pc.toNat, word := (Instr.gaddr d a).word })) ∧
     ((∀ va, (s.bound.noteClip o.scope).classify 0 x ≠ .flat va) → Runs (formOf (Instr.cline a)) s →
       exec (Instr.cline a) s = .next ((s.bound.noteClip o.scope).advanceWord (Instr.cline a).word)) ∧
     (∀ va pa mt u, (s.bound.noteClip o.scope).classify 0 x = .flat va → isPricePage s.gg.sys va = false → (s.bound.noteClip o.scope).gg = s.gg →
       (s.bound.noteClip o.scope).place none 0 ((s.bound.noteClip o.scope).rS a) .read = .ok (.phys pa mt, u) →
       Runs (formOf (Instr.cline a)) s → exec (Instr.cline a) s = .next (((match (u.cache u.req.core).find (lineOf pa) with
         | some l => u.writeBack u.req.core l
         | none => u).markDead (lineOf pa)).advanceWord (Instr.cline a).word)) ∧
     (∀ va v k, (s.bound.noteClip o.scope).classify 0 x = .flat va → isPricePage s.gg.sys va = false → (s.bound.noteClip o.scope).gg = s.gg →
       (s.bound.noteClip o.scope).place none 0 ((s.bound.noteClip o.scope).rS a) .read = .error (.walk v k) → Runs (formOf (Instr.cline a)) s →
       exec (Instr.cline a) s = .next (s.beginWalk v k)) ∧
     (Runs (formOf (Instr.pf a)) s →
       let i := Instr.pf a
       let c := (s.bound.noteClip o.scope).countRetire
       let core := c.req.core
       let used := (c.fills.filter fun f => f.core == core).length + ((c.walks.filter fun w => w.core == core).map fun w => w.fills.length).sum
       let depth : Nat := if c.req.dom ≠ 0 then 2 else match o.scope with
         | .troupe | .gang => 1
         | .device => 2
         | .system => 3
       let f : Fill := { core := core, pa := 0, scope := o.scope, nd := o.nd, gang := c.gg.uid, part := c.gg.part, pass := c.req.dom != 0, depth := depth }
       (((∀ va, c.classify 0 (c.rS a) ≠ .flat va) ∨ 768 ≤ used) → exec i s = .next (c.advanceWord i.word)) ∧
       ∀ va, c.classify 0 (c.rS a) = .flat va →
         (isPricePage c.gg.sys va = true → exec i s = .next (c.advanceWord i.word)) ∧
         (isPricePage c.gg.sys va = false → used < 768 →
           (∀ e, c.tlbFind core c.gg.part va = some e → 
             let on : State := { c with fills := c.fills ++ [{ f with pa := e.pa + va % 2 ^ e.size, mt := e.mt }] }
             exec i s = .next ((if e.r = true then on else c).advanceWord i.word)) ∧
           (c.tlbFind core c.gg.part va = none →
             let same (w : Walk) : Bool := w.core == core && w.part == c.gg.part && w.sys == c.gg.sys && w.va / 4096 == va / 4096
             let g := { f with pa := va }
             let on : State := { c with walks := c.walks.map fun (w : Walk) => if same w then { w with fills := w.fills ++ [g] } else w }
             let new : State := { c with walks := c.walks ++ [{ core := core, part := c.gg.part, sys := c.gg.sys, va := va, acc := .read, fills := [g] }] }
             exec i s = .next ((if c.walks.any same = true then on else new).advanceWord i.word)))))

/-- R1, R22, R107, R122, R286, R288 to R290, R31: the frame of plain loads and stores that complete at a scope below the system's without an acquire, in a
troupe with no atomic, no acquire and no device access left to perform, where nothing holds them back, its store buffer has room for a store (R489), and
no lane has stored in bytes that several lanes of a load read (R289). A load changes its destination alone; a store adds entries to the troupe's stream, at the places its address
names, and no byte of memory, whoever reads it, until they perform. -/
def Obligations.MemoryFrame : Prop :=
  ∀ (s t u : State) (d sa : SReg) (v b : VReg) (nd : BitVec 4) (imm : BitVec 8) (sc : BitVec 1) (i : Instr) (z regs : Nat) (ls : List (Nat × Loc)) (one load : Bool),
    let scale := if sc = 1 then z else 1
    let as : List (Nat × Word64) := if one then [(0, s.bound.scalarAddr s.att sa imm z)]
      else (lanesOf s.cur.mask).map fun l => (l.val, s.rS sa + (s.rV b l).signExtend 64 * .ofNat 64 scale)
    (i, z, regs, one, load) ∈ [(Instr.ldb d sa nd imm, 1, 0, true, true), (Instr.ldbs d sa nd imm, 1, 0, true, true), (Instr.ldh d sa nd imm, 2, 0, true, true),
      (Instr.ldhs d sa nd imm, 2, 0, true, true), (Instr.ldw d sa nd imm, 4, 0, true, true), (Instr.ldws d sa nd imm, 4, 0, true, true),
      (Instr.ldd d sa nd imm, 8, 0, true, true), (Instr.stb d sa nd imm, 1, 0, true, false), (Instr.sth d sa nd imm, 2, 0, true, false),
      (Instr.stw d sa nd imm, 4, 0, true, false), (Instr.std d sa nd imm, 8, 0, true, false), (Instr.vldb v sa b nd sc, 1, 1, false, true),
      (Instr.vldbs v sa b nd sc, 1, 1, false, true), (Instr.vldh v sa b nd sc, 2, 1, false, true), (Instr.vldhs v sa b nd sc, 2, 1, false, true),
      (Instr.vldw v sa b nd sc, 4, 1, false, true), (Instr.vldd v sa b nd sc, 8, 2, false, true), (Instr.vldq v sa b nd sc, 16, 4, false, true),
      (Instr.vstb v sa b nd sc, 1, 1, false, false), (Instr.vsth v sa b nd sc, 2, 1, false, false), (Instr.vstw v sa b nd sc, 4, 1, false, false),
      (Instr.vstd v sa b nd sc, 8, 2, false, false), (Instr.vstq v sa b nd sc, 16, 4, false, false)] →
    RunsOn i s → s.att.ord.order ≠ .acquire → s.att.ord.order ≠ .acqRel → s.att.ord.scope ≠ .system → (∀ e ∈ s.tr.stream, e.aop = none ∧ ¬ Acquires e.mode ∧ e.loc.device = false) →
    s.tr.stream.length + 64 ≤ 768 → (load = true → one = false → ∀ e ∈ s.tr.stream, ∀ x ∈ ls, ∀ y ∈ ls, x.1 ≠ y.1 → x.2.meets z y.2 z = true → e.loc.meets e.size x.2 z = false) →
    Unheld u →
    s.bound.resolve one (if load then .read else .write) z as = .ok (ls, u) → (load = true → u.dataErr one as ls = none) → exec i s = .next t →
    (∀ r g scope l, t.readLoc r g scope l = s.readLoc r g scope l) ∧ t.mem = s.mem ∧ t.caches = s.caches ∧
    t.gg = { s.gg with ret := t.gg.ret, gclk := t.gg.gclk } ∧ t.ctl = s.ctl ∧ t.pc = s.pc + 4 ∧ t.sibling = s.sibling ∧ t.cur.mask = s.cur.mask ∧
    t.cur.fmt = s.cur.fmt ∧ t.cur.jpc = s.cur.jpc ∧ t.cur.frame = s.cur.frame ∧ t.tr.tilesz = s.tr.tilesz ∧ t.tr.rbnd = s.tr.rbnd ∧
    t.tr.trapvec = s.tr.trapvec ∧ t.tr.batch = s.tr.batch ∧ t.tr.psp = s.tr.psp ∧ t.tr.draw = s.tr.draw ∧ (∀ k, t.rK k = s.rK k) ∧
    (∀ r, (load = true → one = true → r ≠ d) → t.rS r = s.rS r) ∧
    (∀ r, (load = true → one = false → r.toNat < v.toNat ∨ v.toNat + regs ≤ r.toNat) → ∀ l, t.rV r l = s.rV r l) ∧
    (∀ r l, l ∉ lanesOf s.cur.mask → t.rV r l = s.rV r l) ∧
    (load = true → t.tr.stream.map (fun e => { e with seen := 0 }) = s.tr.stream.map fun e => { e with seen := 0 }) ∧
    (load = false → ∃ es, t.tr.stream = s.tr.stream ++ es ∧ (one = true → es.length = ls.length) ∧
      ∀ e ∈ es, e.aop = none ∧ ∃ x ∈ ls, (e.loc = x.2 ∧ e.size = min z 8) ∨ (z = 16 ∧ e.loc = x.2.plus 8 ∧ e.size = 8))

/-- R335, R344: an asynchronous instruction joins the troupe's open batch, BATCH + 1, for the lanes of its path: with a releasing ORD its earlier accesses
perform first and are written back, an acquiring one leaves no load standing that has bound ahead, and one work with a new name ends the list. The
earlier stores to a copy's bytes perform before its engine touches them (R344, rule 1); that those of another engine's work perform at issue is the model's reading (log 20).
R336, R337: SEAL closes the open batch and writes its number; WAITB of a batch not sealed traps ILLOP with the number in AUX, of one with work left
sleeps at its word, and otherwise ends, with the core's clean copies of the lines the work wrote no longer standing (R322). -/
def Obligations.Batches : Prop :=
  (∀ (s : State) (kind : WorkKind) (ctr : Nat) (inc : Word32) (mode : AccMode),
     let copies := match kind with
       | .copy _ => true
       | _ => false
     let c := if mode.order = .release ∨ mode.order = .acqRel then s.releaseFor mode.scope (s.clips mode.scope) else if copies then s else s.drain s.pmask
     let r := if mode.order = .acquire ∨ mode.order = .acqRel then c.forget c.pmask c.tr.ins else c
     let w : Work := { uid := r.nextUid, pc := r.pc, gang := r.gg.uid, troupe := r.tr.idx, batch := r.tr.batch + 1, lanes := r.pmask, core := r.req.core,
                       part := r.gg.part, sys := r.gg.sys, ins := r.tr.ins, ctr := ctr, inc := inc, mode := mode, kind := kind }
     s.joins kind ctr inc mode = { r with works := r.works ++ [w], nextUid := r.nextUid + 1 }) ∧
  (∀ (s : State) (d a : SReg),
     let n := s.rS a
     (RunsOn (Instr.sealB d) s →
       exec (Instr.sealB d) s =
         .next (({ s.bound with tr := { s.bound.tr with batch := s.tr.batch + 1 } } : State).wS d (s.tr.batch + 1)).onward) ∧
     (Runs (formOf (Instr.waitb a)) s → TrapsNow s → s.tr.batch.toNat < n.toNat →
       exec (Instr.waitb a) s = .next (s.takeTrap { cause := 1, aux := n, pc := s.pc.toNat, word := (Instr.waitb a).word })) ∧
     (Runs (formOf (Instr.waitb a)) s → n.toNat ≤ s.tr.batch.toNat → s.bound.unfinished n.toNat = true →
       exec (Instr.waitb a) s = .next (s.bound.sleepOn (.waitb n (Instr.waitb a).word)).rests) ∧
     (Runs (formOf (Instr.waitb a)) s → n.toNat ≤ s.tr.batch.toNat → s.bound.unfinished n.toNat = false →
       exec (Instr.waitb a) s = .next ((s.bound.endWaitb n.toNat).advanceWord (Instr.waitb a).word)))

/-- R351 to R353: SHPW puts the record at s[a] into the lowest free slot of its partition's table and writes its handle, or 0 with no slot left; an
invalid record traps ILLOP. SHPI frees the slot, whose generation goes to the next, and traps the stale-handle trap for a handle of no live slot. -/
def Obligations.ShapeRecords : Prop :=
  ∀ (s u : State) (d a : SReg) (r : Nat),
    let x := (s.rS a).toNat
    (Unheld s.bound → RunsOn (Instr.shpw d a) s → x < 2 ^ 48 → x % 64 = 0 → s.bound.readRecord x 256 = .ok (r, u) → shValid r = true →
      let t := putShape r u.myPart.shapeMax u.myPart.shapes 0
      exec (Instr.shpw d a) s = .next ((((u.setPart { u.myPart with shapes := if t.1 = 0 then u.myPart.shapes else t.2 }).wS d (.ofNat 64 t.1)))
        |>.advanceWord (Instr.shpw d a).word)) ∧
    (Unheld s.bound → Runs (formOf (Instr.shpw d a)) s → TrapsNow s → x < 2 ^ 48 → x % 64 = 0 → s.bound.readRecord x 256 = .ok (r, u) → shValid r = false →
      exec (Instr.shpw d a) s = .next (s.takeTrap { cause := 1, addr := .ofNat 64 x, detail := r % 2 ^ 1024, dlen := 128, dtr := true, pc := s.pc.toNat, word := (Instr.shpw d a).word })) ∧
    (∀ slot, RunsOn (Instr.shpi a) s → x < 2 ^ 32 → x / 4096 < s.myPart.shapeMax → s.myPart.shapes[x / 4096]? = some slot → slot.gen = x % 4096 → slot.data ≠ none →
      exec (Instr.shpi a) s = .next (s.bound.setPart { s.bound.myPart with shapes := s.bound.myPart.shapes.set (x / 4096) { slot with gen := if slot.gen = 4095 then 1 else slot.gen + 1, data := none } }).onward) ∧
    (Runs (formOf (Instr.shpi a)) s → TrapsNow s → x < 2 ^ 32 → s.myPart.shape x = none →
      exec (Instr.shpi a) s = .next (s.takeTrap { cause := 7, aux := .ofNat 64 x, pc := s.pc.toNat, word := (Instr.shpi a).word })) ∧
    -- the lowest free slot
    (∀ (l : List ShapeSlot) (room n g : Nat), (∀ k < n, ((l[k]?).bind ShapeSlot.data).isSome) → l[n]? = some { gen := g, data := none } →
      putShape r room l 0 = (n * 4096 + g, l.set n { gen := g, data := some r }))

/-- R340 to R342, R348, R349, R94: COPY and COPYR issue one element for each lane of the path, from the address pairs and the operand of the lane, when
the addresses keep step 6, the control block its layout, an entry of the request pool is granted and the price licensed. Not licensed, it waits in its
place in age order (R234); with no entry granted it waits too, neither ready nor of an age, its refusal counted once (R342, R474).
R354, R413: the TCOPY forms issue the elements of a shape record, to another of the same count and element size or to or from a field of enough lanes,
under the same conditions; a handle of no live slot traps. -/
def Obligations.CopiesIssue : Prop :=
  (∀ (s t : State) (i : Instr) (k : CopySize) (o : CopyrOp) (d a : VReg) (b : SReg) (kind : CopyKind) (z c : Nat) (addrs : Fin 32 → List Word64)
     (opnd : Fin 32 → Nat) (flatOnly : Bool),
     let pair (r : VReg) (l : Fin 32) : Word64 := s.rV (VReg.plus r 1) l ++ s.rV r l
     let lanes := lanesOf s.bound.pmask
     let spot (l : Fin 32) (n : Nat) : Spot := (s.bound.classify l ((addrs l).getD n 0)).spot
     let w : CopyWork := { kind := kind, z := z, n := lanes.length, elems := lanes.map fun (l : Fin 32) => (l.val, spot l 1, spot l 0, opnd l), snd := ccSnd c }
     (i, kind, z, flatOnly, addrs, opnd) ∈ [(Instr.copy k d a b, .copy, CopySize.bytes k, false, fun l => [pair d l, pair a l], fun _ => 0),
       (Instr.copyr o d a b, .reduce o, CopyrOp.bytes o, true, fun l => [pair d l],
         fun l => (s.rV a l).toNat + s.bound.copyRho l ((s.bound.classify l (pair d l)).spot).va * 2 ^ 32)] →
     Runs (formOf i) s →
     (∀ l ∈ lanes, ∀ x ∈ addrs l, s.bound.classify l x ≠ .invalid ∧ (flatOnly = true → ∀ off, s.bound.classify l x ≠ .scratch off) ∧ x.toNat % z = 0) →
     ((s.rS b).toNat < 2 ^ 48 ∧ (s.rS b).toNat % 16 = 0) → Unheld s.bound → s.bound.readCcb (s.rS b) = .ok (c, t) → ccOk kind c = true →
     let price := max 1 ((z * lanes.length + t.prices.copyb.toNat - 1) / t.prices.copyb.toNat)
     (t.mayTake .copy t.gg.part 1 t.copySince = true →
       (t.mayPay price → exec i s = .next ((t.copied w c (z * lanes.length) s.att.ord).advanceWord i.word)) ∧
       (¬ t.mayPay price → exec i s = .next (s.waitWide (.bytes (z * lanes.length))).mustWait)) ∧
     (t.mayTake .copy t.gg.part 1 t.copySince = false →
       let r := if s.cur.refused then s else (s.setCur { s.cur with refused := true, askedAt := s.cycle }).noteRefusal .copy s.gg.part
       exec i s = .next r.freeWide.mustWait)) ∧
  (∀ (s t : State) (d a b : SReg) (c : Nat),
     let dh := (s.rS d).toNat % 2 ^ 32
     let ah := (s.rS a).toNat % 2 ^ 32
     let p := s.bound.myPart
     let done (i : Instr) (kind : CopyKind) (w : CopyWork) (bytes : Nat) : Prop :=
       let price := max 1 ((bytes + t.prices.copyb.toNat - 1) / t.prices.copyb.toNat)
       Runs (formOf i) s → Unheld s.bound → ccOk kind c = true → price ≤ 8192 → t.mayTake .copy t.gg.part 1 t.copySince = true → t.mayPay price →
         exec i s = .next ((t.copied { w with kind := kind, ordc := ccOrdc c, gsh := ccGsh c, snd := ccSnd c, row0 := ccRow0 c, wid := ccWid c, sgn := ccSgn c }
           c bytes s.att.ord).advanceWord i.word)
     (s.rS b).toNat < 2 ^ 48 → (s.rS b).toNat % 16 = 0 → s.bound.readCcb (s.rS b) = .ok (c, t) →
     (∀ dr ar, p.shape dh = some dr → p.shape ah = some ar → shCount dr = shCount ar → shEsz dr = shEsz ar → s.bound.shapeRange dr = none →
       s.bound.shapeRange ar = none →
       done (Instr.tcopy d a b) .plain { kind := .plain, z := shEsz dr, n := shCount dr, src := ar, dst := dr } (shCount dr * shEsz dr)) ∧
     (∀ k f ar, p.field? dh = some (k, f) → p.shape ah = some ar → shCount ar ≤ 393216 * f.parts.length → ccWid c ≤ 8 * shEsz ar →
       s.bound.shapeRange ar = none →
       done (Instr.tcopyIn d a b) .tin { kind := .tin, z := shEsz ar, n := shCount ar, src := ar, field := k } (shCount ar * shEsz ar)) ∧
     (∀ k f dr, p.shape dh = some dr → p.field? ah = some (k, f) → shCount dr ≤ 393216 * f.parts.length → ccWid c ≤ 8 * shEsz dr →
       s.bound.shapeRange dr = none →
       done (Instr.tcopyOut d a b) .tout { kind := .tout, z := shEsz dr, n := shCount dr, dst := dr, field := k } (shCount dr * shEsz dr)) ∧
     (Runs (formOf (Instr.tcopy d a b)) s → TrapsNow s → Unheld s.bound → p.shape dh = none →
       exec (Instr.tcopy d a b) s = .next (s.takeTrap { cause := 7, aux := .ofNat 64 dh, pc := s.pc.toNat, word := (Instr.tcopy d a b).word })))

/-- R357 to R365, R375, R377: an instruction of the MMA family whose words and formats are legal, whose ranges lie in the window and whose tile in the
share takes a queue entry at the price of its multiplications. The order of the checks of step 6 over several ranges is the model's choice (log 54).
R366 to R368, R233: ACLD, ACST and ACZ take a queue entry without a price; the price trap of the family names the price and the limit. Where the queue has no entry or the core no license for the price, the
instruction waits. MREL ends the
troupe's lease when its older instructions have left the queue. -/
def Obligations.MatrixIssue : Prop :=
  (∀ (s : State) (i : Instr) (fn : Nat) (d a b : SReg) (bs : List Word64),
     let w := s.rS d
     let f := s.cur.fmt
     let scales := fmScm f != 0
     let rate (bits : Nat) : Nat := (if bits = 16 then s.prices.mac16 else if bits = 8 then s.prices.mac8 else s.prices.mac4).toNat
     let per := max (rate (codeBits (fmAfm f))) (rate (codeBits (fmBfm f)))
     let price := (macs fn w + per - 1) / per
     let al := if fmScm f = 2 then 4 else 1
     let m : MatrixWork := { fn := fn, acc := w, a := s.rS a, b := s.rS b, b1 := bs.getD 1 0, fmt := f, rb := min s.tr.rbnd.toNat (acM w) }
     (i, fn, bs) ∈ [(Instr.mma d a b, 0, [s.rS b]), (Instr.mmam d a b, 1, [s.rS b]), (Instr.mmas d a b, 2, [s.rS b]),
       (Instr.mma2 d a b, 3, [s.rS b, s.rS (b + 1)])] →
     (fn = 3 → b ≠ 63) → Runs (formOf i) s → mmaAccOk fn w = true → operandOk (s.rS a) (aRow fn w f) scales = true →
     (∀ x ∈ bs, operandOk x (bRow w f) scales = true) → pairOk fn f = true → (8 ≤ fmAfm f ∨ 8 ≤ fmBfm f → acK w % 32 = 0) →
     (price ≤ 8192 → s.bound.operandRange (s.rS a) (acM w) (aRow fn w f) (scaleBytes f (acK w) (acM w)) al = none →
       (∀ x ∈ bs, s.bound.operandRange x (acK w) (bRow w f) (scaleBytes f (acK w) (acN w)) al = none) →
       acAco w + 4 * acM w * acN w ≤ s.bound.gg.acsk →
       (s.bound.matrixRoom = true → s.bound.mayPay price →
         exec i s = .next (((s.bound.paid price).joins (.matrix m) 0 0 {}).advanceWord i.word)) ∧
       (s.bound.matrixRoom = true → ¬ s.bound.mayPay price → 1 ≤ price →
         exec i s = .next (s.waitWide (macBasis f (macs fn w))).mustWait) ∧
       (s.bound.matrixRoom = false → exec i s = .next s.freeWide.mustWait)) ∧
     (8192 < price → TrapsNow s →
       exec i s = .next (s.takeTrap { cause := 6, aux := .ofNat 64 (price % 2 ^ 32 + 8192 * 2 ^ 32), pc := s.pc.toNat, word := i.word }))) ∧
  (∀ (s : State) (i : Instr) (fn : Nat) (d a b : SReg),
     (∀ w : Word64, w = s.rS d →
       let row := acN w * mfBytes (bitsOf (s.rS b).toNat 3 0)
       (i, fn) ∈ [(Instr.acld d a b, 4), (Instr.acst d a b, 5)] → Runs (formOf i) s → tileOk w = true → convOk (fn == 5) (s.rS b) = true →
       operandOk (s.rS a) row false = true → s.bound.operandRange (s.rS a) (acM w) row 0 1 = none →
       acAco w + 4 * acM w * acN w ≤ s.bound.gg.acsk → s.bound.matrixRoom = true →
       exec i s = .next ((s.bound.joins (.matrix { fn := fn, acc := w, a := s.rS a, b := s.rS b, fmt := s.cur.fmt, rb := acM w }) 0 0 {}).advanceWord i.word)) ∧
     (∀ w : Word64, w = s.rS a → Runs (formOf (Instr.acz a b)) s → tileOk w = true → (s.rS b).toNat < 2 ^ 32 →
       acAco w + 4 * acM w * acN w ≤ s.bound.gg.acsk → s.bound.matrixRoom = true →
       exec (Instr.acz a b) s = .next ((s.bound.joins (.matrix { fn := 6, acc := w, b := s.rS b, fmt := s.cur.fmt, rb := acM w }) 0 0 {}).advanceWord
         (Instr.acz a b).word)) ∧
     (RunsOn Instr.mrel s → (s.bound.core s.bound.req.core).lease ≠ some (s.gg.uid, s.tr.idx) → exec Instr.mrel s = .next s.bound.onward) ∧
     (RunsOn Instr.mrel s → (s.bound.core s.bound.req.core).lease = some (s.gg.uid, s.tr.idx) →
       let c := s.bound.core s.bound.req.core
       exec Instr.mrel s =
         .next (((s.bound.setCore { c with mrel := c.mrel.or (some s.bound.nextUid) }).settleLease c.core).advanceWord Instr.mrel.word)))

/-- R393 to R398, R401: LAYER, LAYERX2 and LAYERT issue their tile passes when the record keeps its layout, its regions live and available and its ranges
lie in the window; with B an adapter stage waits for the matrix engine. A record of RANK 0 with HRU not 0 counts as one that breaks the layout (log
24). -/
def Obligations.LayerPassesIssue : Prop :=
  ∀ (s u v : State) (i : Instr) (fn : Nat) (a b : SReg) (r : Nat) (g0 g1 : Region),
    let va := (s.rS a).toNat
    let delta := (s.rS b).toNat
    let rb := min v.tr.rbnd.toNat (lrM r)
    let ps := layerPasses fn r rb g0.kb
    let price := v.prices.pass.toNat * ps.length + (layerMacs r g0.k + v.prices.mac16.toNat - 1) / v.prices.mac16.toNat
    let w := ((v.paid price).chargePasses r ps).lapsePins
    let l : LayerWork := { fn := fn, record := r, delta := delta, rb := rb, reg0 := g0.id, reg1 := g1.id, passes := ps,
                           adapter := if lrRank r ≠ 0 ∧ ps ≠ [] then none else some [],
                           epochs := w.gg.pinEpochs 0 g0.id ++ (if fn = 1 then w.gg.pinEpochs 1 g1.id else []) }
    (i, fn) ∈ [(Instr.layer a b, 0), (Instr.layerx2 a b, 1), (Instr.layert a b, 2)] → Runs (formOf i) s →
    delta < 2 ^ 24 → va < 2 ^ 48 → va % 64 = 0 → Unheld s.bound → s.bound.readRecord va 128 = .ok (r, u) → lrCtr r % 8 = 0 → u.checkCtr (lrCtr r) = .ok v →
    v.regionAt v.gg.part (lrReg r false) = some g0 → (if fn = 1 then v.regionAt v.gg.part (lrReg r true) else some g0) = some g1 →
    layerLayout fn r (some g0.k) = true → layerShape fn r g0 g1 = true → v.regionOpen g0 = true → v.regionOpen g1 = true →
    v.layerRanges fn r delta g0.k g0.kb = none → price ≤ 8192 → v.layerRoom = true → (lrRank r ≠ 0 → v.matrixRoom = true) → v.mayPay price →
    exec i s = .next (((w.joins (.layer l) (lrCtr r) (lrInc r) s.att.ord).noteClip s.att.ord.scope).advanceWord i.word)

/-- R405 to R407: RCEQ reads a region's extent, its pin, the residuals of its latest fits, its refreshes or the epoch on a stack; RCEPIN pins the current
epochs of its stacks, at most eight regions a gang, and RCEUNPIN unpins them. Each first lets pins that have stood for 10 s lapse. That the residuals are those of every column
of every tile, and free values, is the model's choice (log 58). -/
def Obligations.CalibrationState : Prop :=
  ∀ (s : State) (d a : SReg) (r : Region),
    let b := s.bound.lapsePins
    let v := (s.rS a).toNat
    let sel := bitsOf v 39 32
    let bit (c : Bool) (n : Nat) : Nat := if c then n else 0
    let pinned := b.gg.pins.any fun p => p.region == r.id
    (v < 2 ^ 40 → (sel ≤ 3 ∨ 16 ≤ sel ∧ sel ≤ 31) → b.regionAt b.gg.part (v % 2 ^ 32) = some r → RunsOn (Instr.rceq d a) s →
      exec (Instr.rceq d a) s = .next (b.wS d (b.rceq r sel)).onward) ∧
    (b.rceq r 0 = .ofNat 64 (r.k + r.n * 2 ^ 20 + r.stacks.length * 2 ^ 40 + bit r.avail (2 ^ 45)) ∧
      b.rceq r 1 = .ofNat 64 (bit pinned 1 + bit (b.gg.lapsed.contains r.id) 2 + bit (b.gg.refusedPins.contains r.id) 4) ∧
      b.rceq r 2 = .ofNat 64 ((b.residuals r).foldl max 0 + rmsOf (b.residuals r) * 2 ^ 32) ∧ b.rceq r 3 = .ofNat 64 r.refreshed ∧
      (∀ p ∈ b.gg.pins, s.cycle < p.cycle + 19000000000) ∧
      ∀ h < 16, (r.homes.contains h = false → b.rceq r (16 + h) = 0) ∧
        (r.homes.contains h = true → pinned = false → b.rceq r (16 + h) = .ofNat 64 ((b.pile h).epoch % 2 ^ 48))) ∧
    (v < 2 ^ 32 → b.regionAt b.gg.part v = some r →
      (RunsOn (Instr.rcepin a) s → pinned = true → exec (Instr.rcepin a) s = .next b.onward) ∧
      (RunsOn (Instr.rcepin a) s → pinned = false → 8 ≤ b.gg.pins.length → b.gg.refusedPins.contains r.id = false →
        exec (Instr.rcepin a) s = .next ({ b with gg := { b.gg with refusedPins := b.gg.refusedPins ++ [r.id] } } : State).onward) ∧
      (RunsOn (Instr.rcepin a) s → pinned = false → b.gg.pins.length < 8 →
        exec (Instr.rcepin a) s = .next ({ b with gg := { b.gg with
          pins := b.gg.pins ++ [{ region := r.id, cycle := b.cycle, epochs := r.stacks.map fun h => (h, (b.pile h).epoch) }],
          lapsed := b.gg.lapsed.filter fun x => x != r.id,
          refusedPins := b.gg.refusedPins.filter fun x => x != r.id } } : State).onward) ∧
      (RunsOn (Instr.rceunpin a) s →
        exec (Instr.rceunpin a) s = .next ({ b with gg := { b.gg with pins := b.gg.pins.filter fun p => p.region != r.id } } : State).onward))

/-- R413 to R415, R417, R418: WAYS grants a field when enough stacks can give the ways and a slot is free (which: the model's choice, log 98), else
writes 0; WAYSREL makes its handle stale and queues the release; BSQ queues a job on its field with its program, at the price of the program's steps.
-/
def Obligations.ComputeWays : Prop :=
  ∀ (s : State) (d a b : SReg),
    let x := s.bound
    let h := (s.rS a).toNat
    let w := bitsOf h 3 0
    let n := bitsOf h 7 4 + 1
    let aff := s.rS b
    let homes := x.waysStacks x.gg.part w n (if aff = 0 then none else x.homeOf x.gg.part x.gg.sys aff.toNat)
    (h < 256 → 1 ≤ w → w ≤ 12 → aff.toNat < 2 ^ 48 → RunsOn (Instr.ways d a b) s →
      ((freeField x.myPart.fields 0 = none ∨ homes.length < n) → exec (Instr.ways d a b) s = .next (x.wS d 0).onward) ∧
      ∀ k gen, freeField x.myPart.fields 0 = some (k, gen) → n ≤ homes.length →
        let t := x.addWork (.conversion k) 0 0 {}
        let f : FieldSlot := { gen := gen, live := true, held := true, parts := (homes.map fun h => (x.topWays h w).map fun y => (h, y)).flatten, items := [t.1] }
        exec (Instr.ways d a b) s = .next (((t.2.setPart { t.2.myPart with fields := putField t.2.myPart.fields k f }).wS d
          (.ofNat 64 (k * 4096 + gen))).advanceWord (Instr.ways d a b).word)) ∧
    (∀ k f, h < 2 ^ 32 → x.myPart.field? h = some (k, f) → RunsOn (Instr.waysrel a) s →
      let t := x.addWork (.release k) 0 0 {}
      exec (Instr.waysrel a) s = .next ((t.2.updField s.gg.part k fun g =>
        { g with live := false, gen := if g.gen = 4095 then 1 else g.gen + 1, items := g.items ++ [t.1] }).advanceWord (Instr.waysrel a).word)) ∧
    (∀ k f r pr u v, let va := (s.rS b).toNat
      let prog := (List.range (jrLen r)).map fun n => (BitVec.ofNat 32 (pr / 2 ^ (32 * n)))
      let price := v.prices.bsqp.toNat * (programSteps prog 1 false * jrParts r)
      let t := ((((f.parts.drop (jrPart0 r)).take (jrParts r)).map Prod.fst).eraseDups).foldl State.arouse (v.paid price)
      let y := t.addWork (.job { field := k, part0 := jrPart0 r, parts := jrParts r, prog := prog, status := va + 56 }) (jrCtr r) (jrInc r) {}
      h < 2 ^ 32 → va < 2 ^ 48 → va % 64 = 0 → Unheld x → x.readRecord va 56 = .ok (r, u) → u.readRecord (jrProg r) (4 * jrLen r) = .ok (pr, v) →
      v.myPart.field? h = some (k, f) → jobLayout r f.parts.length = true → Runs (formOf (Instr.bsq a b)) s →
      (price ≤ 8192 → v.mayPay price → exec (Instr.bsq a b) s = .next ((y.2.addItem y.2.gg.part k y.1).advanceWord (Instr.bsq a b).word)) ∧
      (8192 < price → TrapsNow s → exec (Instr.bsq a b) s =
        .next (s.takeTrap { cause := 6, aux := .ofNat 64 (price % 2 ^ 32 + 8192 * 2 ^ 32), pc := s.pc.toNat, word := (Instr.bsq a b).word })))

/-- R53, R54, R416, R419: a micro-op of a running job writes rows of its field in the lanes of the parts the job covers, on the stacks whose program has
not stopped: the rows stated here, from the old rows, one for each bit of the width, when no row it reads has a parity error; a job ends at BEND or its
last word, and stops on every stack at a micro-op with a reason of R54. -/
def Obligations.MicroOps : Prop :=
  ∀ (s : State) (x : Work) (j : JobWork) (f : FieldSlot) (a b d : BitVec 9) (op : Nat) (i : Instr) (rows : List Nat),
    let ps := s.jobParts x j
    let m := lanesOfParts f.parts.length (ps.map Prod.fst)
    let w := j.width
    let row (r : Nat) : Nat := f.rows.getD r 0 &&& m
    let each (g : Nat → Nat → Nat) : List Nat := (List.range w).map fun k => g (row (a.toNat + k)) (row (b.toNat + k))
    let as := (List.range w).map fun k => row (a.toNat + k)
    let bs := (List.range w).map fun k => row (b.toNat + k)
    let flag := f.rows.getD (j.flag.getD 0) 0 &&& m
    let wm := if op = 16 then m &&& (2 ^ (768 * f.parts.length) - 1) else m
    let z := if rows = [] then s else s.updField x.part j.field fun f => { f with rows := putRows f.rows wm d.toNat rows }
    let fa := if op = 15 ∨ op = 17 then 0 else a.toNat
    let fb := if op ∈ [1, 2, 13, 14, 16, 17] then 0 else b.toNat
    let fd := if op ∈ [1, 17] then 0 else d.toNat
    -- a row written in every lane of its parts has its parity anew
    let c := if op = 16 then z else z.clearRows x.part j.field fun p r => (ps.map Prod.fst).contains p && decide (fd ≤ r) && decide (r < fd + rows.length)
    let t := (s.jobStacks x j).foldl (fun s h => s.setPile { s.pile h with progress := s.cycle }) c
    let k := { j with ix := j.ix + 1, width := if op = 1 then a.toNat else w, flag := if op = 8 ∨ op = 9 then some d.toNat else j.flag }
    s.job? = some (x, j) → (s.part x.part).fields[j.field]? = some f →
    (i, op, rows) ∈ [(Instr.bwid a, 1, []), (Instr.bnot a d, 2, each fun p _ => m ^^^ p), (Instr.band a b d, 3, each fun p q => p &&& q),
      (Instr.bor a b d, 4, each fun p q => p ||| q), (Instr.bxor a b d, 5, each fun p q => p ^^^ q), (Instr.badd a b d, 6, addRows as bs 0),
      (Instr.bsub a b d, 7, addRows as (bs.map fun q => m ^^^ q) m), (Instr.bcmplt a b d, 8, [lessRows m as bs 0]),
      (Instr.bcmpeq a b d, 9, [(as.zipWith (fun p q => m ^^^ p ^^^ q) bs).foldl (fun p q => p &&& q) m]),
      (Instr.bsel a b d, 10, each fun p q => (flag &&& p) ||| ((m ^^^ flag) &&& q)),
      (Instr.bshl a b d, 11, (List.range w).map fun k => if k < b.toNat then 0 else as.getD (k - b.toNat) 0),
      (Instr.bshr a b d, 12, (List.range w).map fun k => as.getD (k + b.toNat) 0), (Instr.bpopc a d, 13, popRows w as),
      (Instr.bcopy a d, 14, as), (Instr.bset b d, 15, List.replicate w (if b.toNat = 1 then m else 0)),
      (Instr.bcount a d, 16, countRows f.parts.length (f.rows.getD a.toNat 0) m), (Instr.bend, 17, [])] →
    (microWhy op fa fb fd w j.flag.isSome ≠ 0 →
      exec i s = .next (s.endJob x j ((ps.map Prod.snd).eraseDups.map fun h => (h, j.ix, microWhy op fa fb fd w j.flag.isSome)))) ∧
    (microWhy op fa fb fd w j.flag.isSome = 0 →
      (∀ q ∈ ps, ∀ r ∈ microReads op fa fb w j.flag, s.rowBad x.part j.field q.1 r = false) →
      exec i s = .next (if op = 17 ∨ j.prog.length ≤ j.ix + 1 ∨ ps = [] then t.endJob x k [] else t.setWork (x.withJob k)))

/-- R416: what the bit-sliced sums of the micro-ops are in one lane: read as numbers, a group's sum is the sum of the two numbers and of the carry modulo
2 to the width, and the order is the order of the numbers. -/
def Obligations.BitSerialArithmetic : Prop :=
  ∀ (as bs : List Nat) (c m e : Nat), as.length = bs.length → m.testBit e = true →
    let bit (x : Nat) : Nat := if x.testBit e then 1 else 0
    let num (l : List Nat) : Nat := l.foldr (fun x n => bit x + 2 * n) 0
    num (addRows as bs c) = (num as + num bs + bit c) % 2 ^ as.length ∧
    ((lessRows m as bs 0).testBit e = true ↔ num as < num bs) ∧
    num (popRows as.length as) = ((as.map bit).sum) % 2 ^ as.length

/-- R507 to R510: MIGRATE takes the troupe to the stack that homes s[a], after its stores, with a copy of its registers kept at home, or, refused,
retires; HOME ends the region.
R261, R262, R351: LAUNCH posts the card at s[a] to the queue its handle names, or to the gang's own queue for 0, behind the posts there, after a
release at device scope; a card of type 0 or 3 is posted with type 15; a handle of no live queue traps. -/
def Obligations.NearMemoryAndLaunch : Prop :=
  (∀ (s u : State) (a : SReg) (va pa mt : Nat),
     let b := s.bound
     let x := s.rS a
     (RunsOn (Instr.migrate a) s → s.cur.near ≠ none → exec (Instr.migrate a) s = .next b.onward) ∧
     (s.cur.near = none → b.classify 0 x = .flat va → b.place none 0 x .read = .ok (.phys pa mt, u) → Runs (formOf (Instr.migrate a)) s →
       let refused := 32 < u.gg.vregs ∨ u.sibling.live = true ∨ u.tr.psp ≠ 0 ∨ 2 ^ 48 ≤ x.toNat ∨ u.homed pa = false ∨ mt ≠ 0 ∨ 64 ≤ u.nearOn (paStack pa)
       let t := (u.releaseFor .device false).saveL1 u.req.core u.gg.uid
       let r : State := { t with tr := { t.tr with nearCopy := some t.copyHome, nearStack := [] } }
       (refused → exec (Instr.migrate a) s = .next (u.advanceWord (Instr.migrate a).word)) ∧
       (¬ refused → exec (Instr.migrate a) s = .next ((r.setCur { r.cur with near := some (paStack pa) }).advanceWord (Instr.migrate a).word))) ∧
     (RunsOn Instr.home s → s.cur.near = none → exec Instr.home s = .next b.onward) ∧
     (Runs (formOf Instr.home) s → s.cur.near ≠ none → b.endNear.tr.nearCopy = none → exec Instr.home s = .next (b.endNear.advanceWord Instr.home.word)) ∧
     (Runs (formOf Instr.home) s → s.cur.near ≠ none → b.endNear.tr.nearCopy ≠ none →
       exec Instr.home s = .next s.endNear.mustWait)) ∧
  (∀ (s u : State) (a b : SReg) (r q : Nat),
     let ca := s.rS a
     let hd := s.rS b
     let i := Instr.launch a b
     ca.toNat < 2 ^ 48 → ca.toNat % 64 = 0 → hd.toNat < 2 ^ 32 → Unheld s.bound → s.bound.readRecord ca.toNat 64 = .ok (r, u) → cdType r ≠ 2 → Runs (formOf i) s →
     ((if hd = 0 then some u.gg.q else u.myPart.queue? hd.toNat) = some q → (u.queue q).enabled = true → (u.queue q).part = u.gg.part →
       (u.queue q).launchFed = true →
       let t := u.releaseFor .device false
       let p : Post := { bytes := if cdType r = 0 ∨ cdType r = 3 then r / 16 * 16 + 15 else r, two := false, gang := t.gg.uid, troupe := t.tr.idx, batch := t.tr.batch + 1 }
       exec i s = .next ((t.setQueue { (t.queue q) with posts := (t.queue q).posts ++ [p] }).advanceWord i.word)) ∧
     (hd ≠ 0 → u.myPart.queue? hd.toNat = none → TrapsNow s →
       exec i s = .next (s.takeTrap { cause := 7, aux := hd, pc := s.pc.toNat, word := i.word })))

/-- R18, R134, R162, R215, R219, R337, R443, R447: a path asleep in a circle wait, in WAITB or in IDLE goes on when what it waits for has happened, and
its instruction retires then, so that a path asleep at the last word traps only on waking; not while its gang
is being saved (R484). A YIELD's hold ends after 16 cycles; a path ready for 16 cycles is overdue; TMRCMP sets event bit 2; monitors make the sleeping path read again. -/
def Obligations.PathEvents : Prop :=
  ∀ (s : State) (p : PathId),
    let t := s.focusTo p
    let awake (u : State) (w : BitVec 32) : State := (u.setCur { u.cur with sleep := none, readyAt := u.cycle }).advanceWord w
    ((s.troupe? p.gang p.troupe).isSome = true →
      (t.gg.save ≠ none → exec (Instr.circleWake p) s = .next t ∧ exec (Instr.waitbWake p) s = .next t ∧ exec (Instr.idleWake p) s = .next t) ∧
      (∀ c w done, t.gg.save = none → t.cur.live = true → t.cur.frozen = false → t.cur.sleep = some (.circle c w done) → (t.owed c.toNat = false ∨ done = true) →
        exec (Instr.circleWake p) s = .next (awake t.gangAcquire w)) ∧
      (∀ c w, t.gg.save = none → t.cur.live = true → t.cur.frozen = false → t.cur.sleep = some (.circle c w false) → t.owed c.toNat = true →
        exec (Instr.circleWake p) s = .next t) ∧
      (∀ c waits w done n, t.gg.save = none → t.cur.live = true → t.cur.frozen = false → t.cur.sleep = some (.arrive c waits w done n) →
        exec (Instr.circleWake p) s = .next (if done then awake t w else t)) ∧
      (∀ n w, t.gg.save = none → t.cur.live = true → t.cur.frozen = false → t.cur.sleep = some (.waitb n w) → t.unfinished n.toNat = false →
        exec (Instr.waitbWake p) s = .next (awake (t.endWaitb n.toNat) w)) ∧
      (∀ w, t.gg.save = none → t.cur.live = true → t.cur.frozen = false → t.cur.sleep = some (.idle w) → t.ctl.pending = true →
        exec (Instr.idleWake p) s = .next (awake t w)) ∧
      (∀ c l, t.cur.yield = some (c, l) → c + 16 ≤ t.cycle →
        exec (Instr.yieldHoldExpire p) s = .next (t.setCur { t.cur with yield := none, readyAt := t.cycle })) ∧
      (t.readyPaths.contains p = true → max t.cur.readyAt t.cur.lastIssue + 16 ≤ t.cycle →
        exec (Instr.pathOverdue p) s = .next (t.setCur { t.cur with overdue := true })) ∧
      exec (Instr.monitorFire (.path p)) s = .next (t.recheck false) ∧ exec (Instr.monitorPoll (.path p)) s = .next (t.recheck true)) ∧
    (s.ctl.tmrcmp.toNat ≤ s.cycle → exec Instr.timerCompare s = .next { s with ctl := { s.ctl with event := s.ctl.event ||| 4 } })

/-- R222 to R226: a lap fixes each partition's total from the injection and its share and keeps the remaining fraction; a ring cycle offers every packet
to its stop and emits the next packet of the lap: the lap's packets carry each partition's whole total, with the cap of that lap (R236). That a
partition has one packet a lap, which stands in the lap's first places, is the model's choice (log 18).
R225, R228: what a stop takes from a packet of its partition is at most what the packet holds and at most the room of its purse, and no token is made:
what the purse gains the packet loses; a packet of another partition passes. A packet tagged 63 fills the firmware purse of a core that holds a system
troupe, and passes every other core.
R223, R228, R231, R232, R235, R464, R531: pledges, prices and the power limit; values out of their ranges change nothing. -/
def Obligations.CarouselEvents : Prop :=
  (∀ (s : State),
     (s.ring = 128 * s.lapFixed → ∃ t, exec Instr.injectorLapStart s = .next t ∧ t.lapFixed = s.lapFixed + 1 ∧ t.ring = s.ring ∧ t.packets = s.packets ∧
       let i := (10 * min 1250 (s.watts - 550) + 18) / 19
       t.lapServes = t.lapPackets ∧ t.fwTotal = (128 * i * s.wfw + s.fwCarry) / 4096 ∧ t.fwCarry = (128 * i * s.wfw + s.fwCarry) % 4096 ∧
       ∀ (n : Nat) (p q : Partition), s.parts[n]? = some p → t.parts[n]? = some q → q.id = p.id ∧ q.sh = p.will ∧ q.update = none ∧
         4096 * q.lapTotal + q.carry = 128 * i * (if p.active then t.share q.id else 0) + p.carry ∧ q.carry < 4096) ∧
     (s.ring < 128 * s.lapFixed →
       let u := s.countReady.stopLap
       let x := u.turn u.packets
       let new := (x.1.lapServes.take 1).map fun p => { p with born := x.1.ring }
       exec Instr.ringCycle s = .next { x.1 with packets := x.2 ++ new, lapServes := x.1.lapServes.drop 1, ring := x.1.ring + 1 }) ∧
     ∀ p ∈ s.lapPackets, p.count = s.lapTotalOf p.part ∧ p.cap = s.lapTotalOf p.part / max 1 (s.stopsOf p.part)) ∧
  (∀ (s : State) (stop : Nat) (p : Packet), stop < 128 →
     let t := (s.capture stop p).1
     let q := (s.capture stop p).2
     (p.part ≠ 63 → s.ownerOf stop ≠ some p.part → t = s ∧ q = p) ∧
     (p.part = 63 → s.sysOn stop = false → t = s ∧ q = p) ∧
     (p.part = 63 → s.sysOn stop = true → (s.core stop).fwPurse ≤ 8192 → (t.core stop).fwPurse ≤ 8192 ∧ (t.core stop).purse = (s.core stop).purse ∧
       (t.core stop).fwPurse + q.count = (s.core stop).fwPurse + p.count ∧ q.part = p.part) ∧
     (p.part ≠ 63 → (s.core stop).purse ≤ 8192 → (t.core stop).purse ≤ 8192 ∧ (s.core stop).purse ≤ (t.core stop).purse ∧
       (t.core stop).purse + q.count = (s.core stop).purse + p.count ∧ q.part = p.part ∧ q.born = p.born)) ∧
  (∀ (s : State) (core w : Nat) (t : PriceArgs),
     (let c := s.core core
      let x := c.pledge || (c.wide != [] && decide (c.headAt + 256 ≤ s.ring))
      let y := c.pledgeSys || (c.wideSys != [] && decide (c.headAtSys + 256 ≤ s.ring))
      exec (Instr.pledgeRaise core) s = .next (s.setCore { c with pledge := x, pledgeSys := y })) ∧
     (∀ q, s.priceNext = some q → PriceArgs.over t q = q → exec (Instr.priceTableUpdate t) s = .next { s with prices := { q with gen := s.prices.gen + 1 }, priceNext := none }) ∧
     (s.priceNext = none → 2048 ≤ t.mac16.toNat ∧ t.mac16.toNat ≤ 8192 → 4096 ≤ t.mac8.toNat ∧ t.mac8.toNat ≤ 16384 →
       8192 ≤ t.mac4.toNat ∧ t.mac4.toNat ≤ 32768 → 1 ≤ t.pass.toNat ∧ t.pass.toNat ≤ 4 → 1 ≤ t.bsqp.toNat ∧ t.bsqp.toNat ≤ 4 →
       (∃ k, t.copyb.toNat = 2 ^ k ∧ 12 ≤ k ∧ k ≤ 16) →
       ∃ u q, exec (Instr.priceTableUpdate t) s = .next u ∧ u.prices = { s.prices with gen := s.prices.gen + 1 } ∧ u.priceNext = some q ∧ q.mac16 = t.mac16 ∧
         q.mac8 = t.mac8 ∧ q.mac4 = t.mac4 ∧ q.copyb = t.copyb ∧ q.pass.toNat = t.pass.toNat ∧ q.bsqp.toNat = t.bsqp.toNat) ∧
     (1000 ≤ w → w ≤ 1800 → s.priceNext = none → ∃ u q, exec (Instr.setPowerLimit w) s = .next u ∧ u.watts = w ∧ u.wattsSet = w ∧
       u.prices.gen = s.prices.gen + 1 ∧ u.priceNext = some q ∧ q.licw.toNat = min 1250 (w - 550) ∧ q.inj.toNat = (10 * min 1250 (w - 550) + 18) / 19) ∧
     (w ≤ 256 → ((s.counted.filter fun p => p.parent == 63).map fun p => (p.update.getD p.sh).wsh).sum + w ≤ 4096 →
       exec (Instr.setWfw w) s = .next { s with wfw := w }) ∧
     ((w < 1000 ∨ 1800 < w) → exec (Instr.setPowerLimit w) s = .next s))

/-- R238 to R241, R443, R531, R532: frequencies move by 25 MHz between 600 and 2,100 MHz, ramps take 64 cycles and hold, boosts return, and heat lowers
the power limit in steps of 50 W while event bit 3 tells of it, as it does of too much power (R443; log 97). The voltage rises before a step up and
falls after a step down. Whether the sensors have cooled is a free value, and what POWER_SAMPLE's argument
is, the model's choice (logs 2 and 84); the spec does not say which phase is the first of the 8 that keep a core late (log 107). -/
def Obligations.ClocksAndHeat : Prop :=
  ∀ (s : State) (cl core mhz g n watts sensor : Nat),
    let c := s.cluster cl
    let k := s.core core
    (cl < 16 → 600 ≤ mhz → mhz ≤ 2100 → mhz % 25 = 0 →
      exec (Instr.setClusterFrequency cl mhz) s = .next (s.updCluster cl fun x => { x with setMhz := mhz })) ∧
    (cl < 16 → exec (Instr.fllStep cl) s = .next (s.updCluster cl fun x =>
      { x with mhz := if x.mhz < s.targetMhz cl then x.mhz + 25 else if s.targetMhz cl < x.mhz then x.mhz - 25 else x.mhz,
               volt := if x.mhz < s.targetMhz cl then x.mhz + 25 else x.mhz })) ∧
    (600 ≤ s.targetMhz cl ∧ s.targetMhz cl ≤ 2100 ∧ (s.boosts = [] → 600 ≤ c.setMhz → c.setMhz ≤ 2100 → s.targetMhz cl = c.setMhz)) ∧
    (cl < 16 → exec (Instr.droopTrip cl) s = .next (s.updCluster cl fun x => { x with droop := true })) ∧
    (cl < 16 → exec (Instr.droopClear cl) s = .next (s.updCluster cl fun x => { x with droop := false })) ∧
    (∀ r, findD Lateness.gang g { gang := g } s.late = r → r.late core = true → 8 ≤ coreCount r.kept core → core < 128 →
      let donor := (List.range 16).find? (fun x => x != core / 8 && (s.cluster x).owner.map s.levelOne == (s.cluster (core / 8)).owner.map s.levelOne &&
        ((s.cluster x).owner.map s.levelOne).isSome && !s.clusterLate x && decide (625 ≤ s.targetMhz x))
      let late := upsert Lateness.gang (r.spend core) s.late
      (∀ d, s.boostUp (core / 8) < 4 → s.targetMhz (core / 8) + 25 ≤ 2100 → donor = some d →
        exec (Instr.boostStep g core) s = .next { s with boosts := s.boosts ++ [(g, core, d)], late := late }) ∧
      (donor = none → exec (Instr.boostStep g core) s = .next { s with late := late })) ∧
    exec (Instr.boostReturn core) s = .next { s with boosts := s.boosts.filter fun b => b.2.1 != core ||
      ((s.gang? b.1).isSome && decide (coreCount (findD Lateness.gang b.1 { gang := b.1 } s.late).clear core < 8)) } ∧
    (∀ t hold, k.ramp = .ramping t hold → t + 64 ≤ s.cycle →
      exec (Instr.engineRampComplete core) s = .next (s.setCore { k with ramp := .ramped (s.cycle + hold) })) ∧
    (∀ u, k.ramp = .ramped u → u ≤ s.cycle → exec (Instr.engineRampExpire core) s = .next (s.setCore { k with ramp := .idle })) ∧
    (watts ≤ 550 → exec (Instr.powerSample watts) s = .next { s with overSince := none }) ∧
    (550 < watts → s.overSince = none → exec (Instr.powerSample watts) s = .next { s with overSince := some s.cycle }) ∧
    (550 < watts → s.overSince = some n → n + 19000000 ≤ s.cycle →
      exec (Instr.powerSample watts) s =
        .next { s.updCluster s.fastest (fun x => { x with setMhz := max 600 (x.setMhz - 25) }) with ctl := { s.ctl with event := s.ctl.event ||| 8 } }) ∧
    (s.hot.contains sensor = false →
      exec (Instr.thermalThrottle sensor) s = .next { s with hot := s.hot ++ [sensor], ctl := { s.ctl with event := s.ctl.event ||| 8 } }) ∧
    (s.hot ≠ [] → s.throttleAt ≤ s.cycle → 1050 ≤ s.watts → s.watts ≤ s.wattsSet → ∃ t, exec Instr.throttleStep s = .next t ∧
      (t.hot ≠ [] → t.watts = s.watts - 50 ∧ t.throttleAt = s.cycle + 19000000)) ∧
    (s.hot = [] → s.throttleAt ≤ s.cycle → s.watts + 50 ≤ s.wattsSet → ∃ t, exec Instr.throttleStep s = .next t ∧ t.watts = s.watts + 50) ∧
    (s.cycle < s.throttleAt → ∃ t, exec Instr.throttleStep s = .next t ∧ t.watts = s.watts) ∧
    (∃ t, exec (Instr.thermalShutdown sensor) s = .next t ∧ t.power = false) ∧ exec Instr.powerLoss s = .next { s with power := false }

/-- R273, R274, R276, R277, R280, R503: the clocks of lines, an instance's epoch with its sweep and the expiries it counts, its rates and penalties, and a
held write entering a view, unless one it follows has not. That the gang's clock moves at the retirement that fills it is the model's choice (log 37).
R276: the rate exponent is the ceiling of the logarithm of the epochs in 16 ticks, less 4, within −8 and 8.
R275, R277, R278: the stamp, owner and bits of a line touched, and the room a missing line gets: a free way, else the first of its set to leave.
R271, R272, R275 to R278, R281, R287, R303, R307, R448, R453, R454, R466, R515: a line asked for comes back level by level, each of which keeps it when it
has room and ND allows, while a core's requests beyond its 768, those of a partition that must yield and those of a throttled row wait; a walk's leaf
enters the TLBs, the paths that waited for it try again and its prefetches go on. Which set of an instance a line falls in is the model's choice (log
26), as are the order of shares served (log 114) and whose an RDC copy is (log 112). -/
def Obligations.MemoryLevelEvents : Prop :=
  (∀ (s : State) (g part inst req dom n : Nat),
     (∀ x, s.gang? g = some x → x.nC * x.nT ≤ x.ret →
       let t := s.updGang g fun y => { y with ret := y.ret - y.nC * y.nT, gclk := y.gclk + 1 }
       exec (Instr.gclkAdvance g) s = .next (t.setPart { t.part x.part with tacc := (t.part x.part).tacc + 1 })) ∧
     (s.tenantGangs part ≤ (s.part part).tacc →
       exec (Instr.tclkAdvance part) s =
         .next (s.setPart { s.part part with tclk := (s.part part).tclk + 1, tacc := (s.part part).tacc - s.tenantGangs part })) ∧
     ((if inst < 128 then 256 else if inst < 208 then 4096 else 16384) ≤ (s.cache inst).reqs → exec (Instr.epochAdvance inst) s = .next (s.advanceEpoch inst)) ∧
     (∀ r, (s.cache inst).reqrs.find? (fun x => x.who == req) = some r → req < 2 ^ 40 →
       let now := s.clockOf inst req
       let d := if inst < 128 then (now + 2 ^ 32 - r.tick) % 2 ^ 32 else now - r.tick
       (d < 16 → ∃ t, exec (Instr.rateRemeasure inst req) s = .next t ∧ ((t.cache inst).reqr req).j = r.j) ∧
       (16 ≤ d → ∃ t, exec (Instr.rateRemeasure inst req) s = .next t ∧ t.mem = s.mem ∧ t.gg = s.gg ∧
         ((t.cache inst).reqr req).j = (if d < 32 then rateOf ((s.cache inst).epochs - r.epoch) else -8) ∧
         ((t.cache inst).reqr req).epoch = (s.cache inst).epochs)) ∧
     (let r := (s.cache inst).reqr (penaltyName inst part)
      exec (Instr.penaltyWindowClose inst part) s = .next (s.setCache ((s.cache inst).setReqr r.window)) ∧
      (r.inserts < 65536 → r.window = r) ∧
      (65536 ≤ r.inserts → r.window.inserts = 0 ∧ r.window.expiries = 0 ∧ r.window.p = (if 32768 < r.expiries then min (r.p + 1) 3
        else if 16384 ≤ r.expiries then r.p else r.p - 1))) ∧
     (let c := s.cache inst
      let t := s.advanceEpoch inst
      let now := (c.now + 1) % 256
      let due (l : CLine) : Bool := !l.dead && l.stamp == now
      (t.cache inst).now = now ∧ (t.cache inst).reqs = 0 ∧ (t.cache inst).epochs = c.epochs + 1 ∧
      (t.cache inst).lines = (c.lines.map fun l => if due l then (if l.expired then { l with aged := true } else { l with expired := true }) else l) ∧
      (∀ k, k ≠ inst → t.cache k = s.cache k) ∧ t.mem = s.mem ∧
      ∀ name, ((t.cache inst).reqr name).expiries = (((s.catchUp inst).cache inst).reqr name).expiries +
        (c.lines.filter fun l => due l && !l.expired && penaltyName inst l.tenant == name).length) ∧
     (∀ h, s.held[n]? = some h → exec (Instr.crossDomainWriteApply dom n) s = .next (s.applyOne dom h.id)) ∧
     (∀ h, s.held.find? (fun x => x.id == h.id) = some h →
       let t := s.applyOne dom h.id
       (∀ x ∈ s.held, h.deps.contains x.id = true → x.views.contains dom = true → t = s) ∧
       ((∀ x ∈ s.held, h.deps.contains x.id = true → x.views.contains dom = false) →
         t.mem = s.mem ∧ (∀ x ∈ t.held, x.id = h.id → x.views.contains dom = false) ∧
         (∀ x ∈ s.held, x.id ≠ h.id → x.views ≠ [] → x ∈ t.held) ∧
         (dom = 0 → ∀ k < 128, ∀ l ∈ (t.cache k).lines, l.tracked = true → (linesOf h.pa h.n).contains l.line = false) ∧
         (s.held = [h] → ∀ a, t.viewByte dom a = cellGet s.mem a)))) ∧
  -- R275, R277, R278: touching a line, and room for one
  (∀ (s : State) (i who : Nat) (f : Fill) (l : CLine),
     let t := s.touched i who f l
     let d := if f.nd = 15 then 2 ^ s.defnd i f.part else if f.nd = 14 then 8192 else 2 ^ (f.nd.toNat - 1)
     let k : Int := if f.seq = true then 0 else ((s.cache i).reqr who).j + (((s.cache i).reqr (penaltyName i f.part)).p : Int)
     (t.owner = who ∧ t.tenant = f.part ∧ t.expired = false ∧ t.aged = false ∧ t.dead = decide (f.nd = 0) ∧ t.data = l.data ∧ t.dirty = l.dirty) ∧
     (f.nd ≠ 0 → t.stamp = ((s.cache i).now + min 127 (max 1 (scaled d k))) % 256) ∧
     (let ways := s.usableWays i
      let set := (s.cache i).lines.filter fun l => l.line % instSets i == lineOf f.pa % instSets i && ways.contains l.way
      let own := f.seq = false ∧ s.aboveQuota i f.part = true
      let rich (m : CLine) : Prop := 128 ≤ i ∧ s.aboveQuota i m.owner = true
      (∀ w, s.room i f = .free w → w ∈ ways ∧ ∀ m ∈ set, m.way ≠ w) ∧
      (∀ v, s.room i f = .victim v → (∀ w ∈ ways, ∃ m ∈ set, m.way = w) ∧ v ∈ set ∧
        (own → v.owner = f.part ∧ ∀ m ∈ set, m.owner = f.part → m.leaves (s.cache i).now ≤ v.leaves (s.cache i).now) ∧
        (¬ own → (∃ m ∈ set, rich m) → rich v ∧ ∀ m ∈ set, rich m → m.leaves (s.cache i).now ≤ v.leaves (s.cache i).now) ∧
        (¬ own → (∀ m ∈ set, ¬ rich m) → ∀ m ∈ set, m.leaves (s.cache i).now ≤ v.leaves (s.cache i).now)) ∧
      (s.room i f = .none → ways = [] ∨ (own ∧ ∀ m ∈ set, m.owner ≠ f.part))) ∧
     (∀ (a b : CLine) (now : Nat),
       (a.dead = true → b.dead = false → b.leaves now < a.leaves now) ∧
       (a.dead = false → b.dead = false → a.aged = true → b.aged = false → b.leaves now < a.leaves now) ∧
       (a.dead = false → b.dead = false → a.aged = false → b.aged = false → a.expired = true → b.expired = false → b.leaves now < a.leaves now))) ∧
  -- the levels: a line found is touched, one missed is asked of the next level and kept where there is room
  (∀ (s : State) (f : Fill),
     let keep (t : State) (i who : Nat) (l : CLine) : State :=
       match (if f.nd = 0 then none else t.makeRoom i f) with
       | some (w, u) => let v := u.countInsert i f; v.setCache ((v.cache i).put (v.touched i who f { l with way := w }))
       | none => t
     let L := lineOf f.pa
     (let i := mscSlice f.pa
      let u := (s.meet i f.part).applyRequest i
      (∀ l, (u.cache i).find L = some l → s.fillMsc f = u.setCache ((u.cache i).put (f.mark (u.touched i f.part f l)))) ∧
      ((u.cache i).find L = none →
        s.fillMsc f = keep ((u.countBytes f.part 128 0).countDram f.pa (!f.seq)) i f.part (f.mark { line := L, owner := f.part }))) ∧
     (let i := l2Slice f.pa
      let u := (s.meet i f.part).applyRequest i
      (f.pass = true → (s.cache i).find L = none → s.fillL2 f = s.fillMsc f) ∧
      (f.pass = false ∨ (s.cache i).find L ≠ none →
        (∀ l, (u.cache i).find L = some l → s.fillL2 f = u.setCache ((u.cache i).put (f.mark (u.touched i f.part f l)))) ∧
        ((u.cache i).find L = none → f.nd ≠ 0 → u.room i f ≠ .none →
          s.fillL2 f = keep (u.fillMsc { f with write := false }) i f.part (f.mark { line := L, owner := f.part })) ∧
        ((u.cache i).find L = none → f.nd = 0 ∨ u.room i f = .none →
          s.fillL2 f = keep (u.fillMsc f) i f.part (f.mark { line := L, owner := f.part })))) ∧
     (let i := rdcSlice f.pa
      let u := (s.meet i f.part).applyRequest i
      (∀ l, (u.cache i).find L = some l → l.tenant = f.part → s.fillRdc f = u.setCache ((u.cache i).put (u.touched i f.part f l))) ∧
      ((u.cache i).find L = none →
        let v := u.countBytes f.part 0 128
        s.fillRdc f = keep v i f.part { line := L, owner := f.part, data := u.homeLine L })) ∧
     (∀ g, s.gang? f.gang = some g → let i := f.core
      let u := (s.meet i f.gang).applyRequest i
      let point := u.fillPoint f
      let through := f.write && !point
      let beyond (t : State) (f : Fill) : State := if t.remote f.pa = false then t.fillL2 f else if f.write = true then t.countBytes f.part 0 128 else t.fillRdc f
      (∀ l, (u.cache i).find L = some l →
        let hit := u.setCache ((u.cache i).put (u.touched i f.gang f l))
        (through = true → s.fillL1 f = beyond hit f) ∧
        (through = false → l.dirty ≠ 0 ∨ l.tracked = true ∨ point = true → s.fillL1 f = hit) ∧
        (through = false → l.dirty = 0 → l.tracked = false → point = false →
          let v := beyond u { f with write := false }
          s.fillL1 f = v.setCache ((v.cache i).put (v.touched i f.gang f { l with tracked := true, fill := f.scope, data := v.homeLine l.line })))) ∧
      ((u.cache i).find L = none →
        let v := beyond u { f with write := through }
        (through = true → s.fillL1 f = v) ∧
        (through = false → s.fillL1 f = keep v i f.gang { line := L, owner := f.gang, tracked := !point, fill := f.scope, data := v.homeLine L })))) ∧
  (∀ (d : Nat) (k : Int), 0 < d → rateOf d = k → -8 < k → k < 8 → (d : ℤ) ≤ 2 ^ (k + 4).toNat ∧ (-4 < k → 2 ^ (k + 3).toNat < (d : ℤ))) ∧
  (∀ (s : State) (n : Nat),
     (∀ f, s.fills[n]? = some f → ((s.fills.take n).filter fun g => g.core == f.core).length < 768 → s.yields f = false → s.throttled f = false →
       let c := ({ s with fills := s.fills.eraseIdx n } : State).chargeBand f
       let t := c.repair f
       exec (Instr.loadReturn n) s = .next (if f.pad = true then c
         else if f.mt ≠ 0 ∨ paHost f.pa = true then
           (if paHost f.pa = true then t else if t.remote f.pa = true then t.countBytes f.part 0 128
            else (t.countBytes f.part 128 0).countDram f.pa (!f.seq))
         else if f.depth = 1 then t.fillL1 f
         else if t.remote f.pa = true then (if f.write = true then t.countBytes f.part 0 128 else t.fillRdc f)
         else if f.depth = 2 then t.fillL2 f else t.fillMsc f)) ∧
     (∀ f, s.fills[n]? = some f → 768 ≤ ((s.fills.take n).filter fun g => g.core == f.core).length ∨ s.yields f = true ∨ s.throttled f = true →
       exec (Instr.loadReturn n) s = .next s) ∧
     -- R466: a request of a partition with share 0 yields to any begun request, at its place, of a partition with a share
     (∀ (f g : Fill) (m : Nat), s.fills[n]? = some f → s.fills[m]? = some g → s.resource f ≠ none → s.resource g = s.resource f → f.part < 63 → g.part < 63 →
       f.part ≠ g.part → s.bandShare f.part = 0 → s.bandShare g.part ≠ 0 → ((s.fills.take m).filter fun x => x.core == g.core).length < 768 →
       s.yields f = true) ∧
     (∀ w, s.walks[n]? = some w → 64 ≤ ((s.walks.take n).filter fun y => y.core == w.core).length →
       exec (Instr.translationWalkComplete n) s = .next s) ∧
     (∀ w, s.walks[n]? = some w → ((s.walks.take n).filter fun y => y.core == w.core).length < 64 → w.fills = [] →
       let u := (({ s with walks := s.walks.eraseIdx n } : State).walkBy w.core w.part w.sys w.va w.acc).2
       exec (Instr.translationWalkComplete n) s = .next (w.who.foldl
         (fun u p => u.updTroupe p.gang p.troupe fun t => t.setSlot p.slot ((t.slot p.slot).walkDone w.va u.cycle)) u)) ∧
     (∀ w f pa mt v, s.walks[n]? = some w → ((s.walks.take n).filter fun y => y.core == w.core).length < 64 → w.who = [] → w.fills = [f] →
       let u := (({ s with walks := s.walks.eraseIdx n } : State).walkBy w.core w.part w.sys w.va w.acc).2
       u.translate w.core w.part w.sys f.pa .read = (.ok pa mt, v) →
       exec (Instr.translationWalkComplete n) s = .next { v with fills := v.fills ++ [{ f with pa := pa, mt := mt }] }) ∧
     ∀ (core part : Nat) (sys : Bool) (va : Nat) (acc : AccKind) (e : TlbEntry) (l : List Nat),
       walk s (s.entryAt (some (core / 8)) part) part sys va acc = (.inr e, l) →
       s.walkBy core part sys va acc = (.ok (e.pa + va % 2 ^ e.size) e.mt, (s.walkDone core part l).tlbFill core e) ∧
     ∀ x, walk s (s.entryAt (some (core / 8)) part) part sys va acc = (.inl x, l) →
       (s.walkBy core part sys va acc).1 = x ∧ (s.walkBy core part sys va acc).2.tlbs = s.tlbs ∧ (s.walkBy core part sys va acc).2.wcache = s.wcache)

/-- R338, R339, R344, R345, R347, R355, R404, R459: elements of copies and halves of elements of 16 bytes, completion with the counter's add and its
error bit, groups of an ordered channel, and replay entries, handed back in issue order where an engine has room.
R344, R345, R348, R349, R354: what a step of a unit does: a COPY's unit is read, and written once every unit is read; a reduction replaces its bytes; a
TCOPY's element is read and written, or moves between memory and its lane's rows. A write changes exactly the bytes of its unit.
R231, R244, R339: a counter add adds in 63 bits, keeps the sticky error bit and sets it when told; with no counter, on the price page and on a doorbell
page nothing is written, which is the model's reading where the spec names no outcome (log 48), and one to a lost module is a machine check (R522).
R349: what a reduction makes of the old value, the operand and the random bits. -/
def Obligations.CopyEvents : Prop :=
  (∀ (s : State) (w n g : Nat) (x : Work) (c : CopyWork),
     (s.work? w = some x → x.kind = .copy c →
       (x.replay = false → s.begins x = true → n < c.n → exec (Instr.copyElement w n) s = .next (s.elemStep x c n)) ∧
       (x.replay = false → s.begins x = true → n < c.n → 4 ≤ c.z → c.z ≠ 16 →
         exec (Instr.copyElement w n) s = .next (if x.reading = true then (s.unitStep x c n).readsBound w else s.unitStep x c n)) ∧
       (x.replay = false → s.begins x = true → c.n ≤ n → c.z = 16 → x.reading = false →
         exec (Instr.copyElement w n) s = .next (s.unitStep x c (n - c.n))) ∧
       (c.allDone = true → s.ctrBlocked x = false → c.ordc = false → ∀ t, s.workAdd x x.err = (t, true) →
         exec (Instr.copyComplete w) s = .next (t.finishWork x)) ∧
       (c.allDone = true → s.ctrBlocked x = false → c.ordc = true → c.groups = c.groupCount →
         exec (Instr.copyComplete w) s = .next (s.finishWork x)) ∧
       (c.ordc = true → c.groups < c.groupCount → s.ctrBlocked x = false → (∀ e ∈ c.groupElems c.groups, c.landed e = true) →
         ∀ t, s.workAdd x ((c.groupElems c.groups).any fun e => (c.unitsOf e).any fun u => c.bad.testBit u) = (t, true) →
         exec (Instr.orderedGroupAdd w) s = .next (t.setWork { x.withCopy { c with groups := c.groups + 1 } with ctrWait := [] }))) ∧
     ((s.works.filter fun y => y.gang == g && (y.replay || match y.kind with
         | .copy c => !c.waits.isEmpty
         | _ => false))[n]? = some x →
       let earlier : Prop := ∃ y ∈ s.works, y.gang = g ∧ y.uid < x.uid ∧ y.unrun = true
       let kind : WorkKind := match x.kind with
         | .layer l => .layer { l with epochs := if l.lapsed s.cycle then [] else l.epochs, heldAt := none }
         | k => k
       (s.runs x = false → exec (Instr.replayEntryRun g n) s = .next s) ∧
       (x.replay = true → s.runs x = true → ¬ earlier → s.handRoom x = true → exec (Instr.replayEntryRun g n) s =
         .next ((s.giveEntry .replay x.part x.saveEntries).setWork { x with replay := false, again := true, saveEntries := 0, reserve := 0, kind := kind })) ∧
       (x.replay = true → s.runs x = true → earlier ∨ s.handRoom x = false → exec (Instr.replayEntryRun g n) s = .next s) ∧
       (x.replay = false → x.kind = .copy c → s.runs x = true → exec (Instr.replayEntryRun g n) s = .next (s.replayElems x c)))) ∧
  -- a step of one unit, and the bytes it moves
  (∀ (s t r : State) (x : Work) (c : CopyWork) (u v : Nat),
     let z := c.unitSize
     let src := s.srcSpot x c u
     let dst := s.dstSpot x c u
     let landed (t : State) : State := t.setWork (((t.work? x.uid).getD x).withCopy (c.finish u))
     u < c.units → c.isDone u = false → (∀ q ∈ c.waits, q.1 ≠ u) →
     (c.kind = .copy → (∀ q ∈ c.vals, q.1 ≠ u) →
       (s.engineRead x c.snd src z = .ok (v, t) → s.unitStep x c u = t.setWork (x.withCopy { c with vals := c.vals ++ [(u, v)] })) ∧
       (∀ e, s.engineRead x c.snd src z = .error e → s.unitStep x c u = s.stopElem x c u (s.spotVa x src) e)) ∧
     (c.kind = .copy → c.vals.find? (fun q => q.1 == u) = some (u, v) → s.begins x = true →
       (∀ m < c.units, c.isDone m = true ∨ (∃ q ∈ c.vals, q.1 = m) ∨ ∃ q ∈ c.waits, q.1 = m) → s.blocked x c u = false →
       (s.engineWrite x dst z v = .ok t → s.unitStep x c u = landed t) ∧
       (∀ e, s.engineWrite x dst z v = .error e → s.unitStep x c u = s.stopElem x c u (s.spotVa x dst) e)) ∧
     (c.kind = .copy → s.begins x = true → (∃ m < c.units, c.isDone m = false ∧ (∀ q ∈ c.vals, q.1 ≠ m) ∧ ∀ q ∈ c.waits, q.1 ≠ m) →
       (∃ q ∈ c.vals, q.1 = u) → s.unitStep x c u = s) ∧
     (c.kind = .plain → s.blocked x c u = false → s.engineRead x c.snd src z = .ok (v, t) → t.engineWrite x dst z v = .ok r → s.unitStep x c u = landed r) ∧
     (∀ o pa mt, c.kind = .reduce o → s.blocked x c u = false → s.enginePa x dst.va .atomic = .ok (pa, mt, t) → t.lineError x.core pa = none →
       let y := (t.performBefore x (.phys pa mt) z).flushLine x.core pa
       let opnd := ((c.elems[u / c.per]?).map fun q => q.2.2.2).getD 0
       (s.unitStep x c u).mem = writeCells y.mem pa z (CopyrOp.new o (readCells y.mem pa z) (opnd % 2 ^ 32) (opnd / 2 ^ 32))) ∧
     (c.kind = .tin → c.z ≠ 16 → s.headsField x.part c.field x.uid = true → s.engineRead x c.snd src z = .ok (v, t) →
       s.unitStep x c u = (t.updField x.part c.field fun f => { f with rows := writeLane f.rows c.row0 c.wid u v }).setWork (x.withCopy (c.finish u))) ∧
     (∀ f, c.kind = .tout → c.z ≠ 16 → s.headsField x.part c.field x.uid = true → s.blocked x c u = false → s.bad = [] →
       (s.part x.part).fields[c.field]? = some f →
       let lane := readLane f.rows c.row0 c.wid u
       s.engineWrite x dst z ((if c.sgn = true ∧ lane.testBit (c.wid - 1) = true then lane + (2 ^ (8 * c.z) - 2 ^ c.wid) else lane) % 2 ^ (8 * z)) = .ok t →
       s.unitStep x c u = landed t) ∧
     (∀ rows row0 wid e n, 0 < wid → n < 2 ^ wid → row0 + wid ≤ rows.length → readLane (writeLane rows row0 wid e n) row0 wid e = n)) ∧
  -- an engine's read and write of n bytes at a flat address and in the scratchpad
  (∀ (s t : State) (x : Work) (nd : BitVec 4) (va pa mt n v : Nat),
     let u := (t.performBefore x (.phys pa mt) n).flushLine x.core pa
     (s.enginePa x va .read = .ok (pa, mt, t) → isPricePage x.sys va = false → u.lineError x.core pa = none →
       ∃ r, s.engineRead x nd (.flat va) n = .ok (u.viewNat 0 pa n, r) ∧ r.mem = u.mem) ∧
     (s.enginePa x va .write = .ok (pa, mt, t) → (t.performBefore x (.phys pa mt) n).bellAt pa = none → (t.performBefore x (.phys pa mt) n).away pa = false →
       x.kind.engine ≠ 3 → Memory.wf u.mem = true →
       ∃ r, s.engineWrite x (.flat va) n v = .ok r ∧ ∀ a, cellGet r.mem a = if pa ≤ a ∧ a < pa + n then .ofNat 8 (v / 2 ^ (8 * (a - pa))) else cellGet u.mem a) ∧
     (∀ g, s.gang? x.gang = some g → (∀ y, s.troupe? x.gang x.troupe = some y → y.stream = []) → Memory.wf g.scratch = true →
       ∃ r h, s.engineWrite x (.scratch va) n v = .ok r ∧ r.mem = s.mem ∧ r.gang? x.gang = some h ∧
         ∀ a, cellGet h.scratch a = if va ≤ a ∧ a < va + n then .ofNat 8 (v / 2 ^ (8 * (a - va))) else cellGet g.scratch a)) ∧
  ((∀ c inc : Nat, ∀ e : Bool, c < 2 ^ 64 → counterNext c inc e % 2 ^ 63 = (c + inc) % 2 ^ 63 ∧ counterNext c inc e < 2 ^ 64 ∧
     (2 ^ 63 ≤ counterNext c inc e ↔ e = true ∨ 2 ^ 63 ≤ c)) ∧
   (∀ (s : State) (dom part : Nat) (sys : Bool) (inc : Word32) (e : Bool), s.counterAdd dom part sys 0 inc e = (s, none)) ∧
   (∀ (s : State) (dom part ctr : Nat) (inc : Word32) (e : Bool), ctr / 4096 = 0xFFFFFFFFF → s.counterAdd dom part false ctr inc e = (s, none)) ∧
   ∀ (s : State) (dom part ctr : Nat) (sys : Bool) (inc : Word32) (e : Bool) (l : TlbEntry), ctr ≠ 0 → isPricePage sys ctr = false →
     (walk s (s.entryAt none part) part sys ctr .write).1 = .inr l →
     let pa := l.pa + ctr % 2 ^ l.size
     (s.bellAt pa = none → s.away pa = false →
       s.counterAdd dom part sys ctr inc e = ((s.applyHeld dom pa 8).writeHome none pa 8 (counterNext (readCells s.mem pa 8) inc.toNat e), some (.inr pa))) ∧
     (s.bellAt pa = none → s.away pa = true → s.counterAdd dom part sys ctr inc e = (s.machineCheck 128 part pa 9 false, none)) ∧
     (s.bellAt pa ≠ none → s.counterAdd dom part sys ctr inc e = (s, none))) ∧
  (∀ (o : CopyrOp) (x v rho w : Nat), x < 2 ^ 32 → v < 2 ^ 32 →
     let s32 (n : Nat) : Int := (BitVec.ofNat 32 n).toInt
     let f (n : Nat) := fp32.unpack n
     let half := sumExact .rne [bf16.unpack (x % 2 ^ 16), f v]
     (o, w) ∈ [(.addI32, (x + v) % 2 ^ 32), (.addF32, fp32.round .plain .rne 0 (sumExact .rne [f x, f v]) % 2 ^ 32), (.addBf16, bf16.round .plain .rne 0 half),
       (.addBf16Sr, bf16.round .plain .sr rho half), (.addBf16SrSat, bf16.round .sat .sr rho half), (.minI32, if s32 x ≤ s32 v then x else v),
       (.maxI32, if s32 x ≤ s32 v then v else x), (.and, x &&& v), (.or, x ||| v)] → CopyrOp.new o x v rho = w)

/-- R368, R370, R372 to R376, R241: leases of the matrix engine, its accumulation steps on a ramped engine, and completion.
R361, R372, R378: the blocks of an instruction hold each element of its tile, and a step takes the next block. A step of an instruction other than ACST
writes the accumulator store of its gang alone, and its error-free elements take the value of the instruction from the tile and the operands, those of a
step that meets an error the value of R378; ACST writes the scratchpad alone.
R241, R384 to R386, R390, R395, R396, R398, R400, R403: the passes of a layer instruction start and land, its adapter stage runs on a ramped engine
under its troupe's lease, and it completes with its output written, its reads bound (R344) and its counter's add. -/
def Obligations.EngineEvents : Prop :=
  (∀ (s : State) (core w : Nat) (x : Work) (m : MatrixWork) (g t : Nat),
     let z := s.settleLease core
     ((z.core core).lease = none → z.engineHead core = some x →
       exec (Instr.leaseStart core) s =
         .next (z.setCore { z.core core with lease := some (x.gang, x.troupe), leaseAt := z.cycle, leaseDone := 0, mrel := none })) ∧
     ((z.core core).lease = some (g, t) → (z.engineWorks core).find? (fun y => y.gang == g && y.troupe == t) = some x → x.kind = .matrix m →
       (3 < m.fn → (z.core core).ramp = .idle → exec (Instr.accumulationStep core) s = .next (z.matrixStep x m)) ∧
       (∀ u, (z.core core).ramp = .ramped u →
         exec (Instr.accumulationStep core) s = .next ((z.setCore { z.core core with ramp := .ramped (max u (z.cycle + 256)) }).matrixStep x m)) ∧
       (∀ a hold, 3 < m.fn → (z.core core).ramp = .ramping a hold →
         exec (Instr.accumulationStep core) s =
           .next ((z.setCore { z.core core with ramp := .ramping a (max hold (z.cycle + 256 - (a + 64))) }).matrixStep x m)) ∧
       (∀ a hold, m.fn ≤ 3 → (z.core core).ramp = .ramping a hold → exec (Instr.accumulationStep core) s = .next z) ∧
       (m.fn ≤ 3 → (z.core core).ramp = .idle →
         exec (Instr.accumulationStep core) s = .next (z.setCore { z.core core with ramp := .ramping z.cycle 256 }))) ∧
     ((s.core core).lease = some (g, t) → (s.core core).leaseAt + 95000 ≤ s.cycle →
       exec (Instr.leaseExpire core) s = .next (s.setCore { s.core core with lease := none, mrel := none, leaseDone := 0 })) ∧
     (s.work? w = some x → x.kind = .matrix m → m.blocks ≤ m.done → x.replay = false →
       let f := s.finishWork x
       (((f.core x.core).lease ≠ some (x.gang, x.troupe)) → exec (Instr.matrixComplete w) s = .next (f.settleLease x.core)) ∧
       ((f.core x.core).lease = some (x.gang, x.troupe) → exec (Instr.matrixComplete w) s =
         .next ((f.setCore { f.core x.core with leaseDone := (f.core x.core).leaseDone + 1 }).settleLease x.core)))) ∧
  (∀ (s : State) (x : Work) (m : MatrixWork) (g : Gang), s.gang? x.gang = some g →
     let t := s.matrixStep x m
     let es := m.blockElems m.done
     let cells := m.snap.getD g.scratch
     (s.stepError g (x.troupe / g.nT) m es = none →
       t.gang? x.gang = some (stepGang g (x.troupe / g.nT) s.freeCtr m cells es false) ∧ t.mem = s.mem ∧
       (∀ k, k ≠ x.gang → t.gang? k = s.gang? k) ∧
       (s.work? x.uid ≠ none → t.work? x.uid = some { x with kind := .matrix { m with done := m.done + 1, snap := some cells } })) ∧
     (s.bad = [] → s.stepError g (x.troupe / g.nT) m es = none)) ∧
  (∀ (m : MatrixWork) (i j : Nat), m.rb ≤ acM m.acc → i < acM m.acc → j < acN m.acc → ∃ n < m.blocks, (i, j) ∈ m.blockElems n) ∧
  (∀ (g : Gang) (own ctr : Nat) (m : MatrixWork) (cells : List Host.Cell) (es : List (Nat × Nat)) (bad : Bool),
     let h := stepGang g own ctr m cells es bad
     (m.fn ≠ 5 → h = { g with acs := h.acs }) ∧ (m.fn = 5 → h = { g with scratch := h.scratch }) ∧
     (m.fn ≠ 5 → Memory.wf g.acs = true → ∀ a, (∀ e ∈ es, a < own * 2 ^ 18 + acAco m.acc + 4 * (e.1 * acN m.acc + e.2) ∨
       own * 2 ^ 18 + acAco m.acc + 4 * (e.1 * acN m.acc + e.2) + 4 ≤ a) → cellGet h.acs a = cellGet g.acs a) ∧
     (∀ e, es = [e] → m.fn ≠ 5 → bad = false → Memory.wf g.acs = true →
       let rd := windowByte g cells own ctr
       let o := own * 2 ^ 18 + acAco m.acc + 4 * (e.1 * acN m.acc + e.2)
       let old : Word32 := .ofNat 32 (readCells g.acs o 4)
       readCells h.acs o 4 = (if m.fn = 4 then acldElem (bitsOf m.b.toNat 3 0) (windowNat rd (opDao m.a + 16 * opStride m.a * e.1 + e.2 *
           mfBytes (bitsOf m.b.toNat 3 0)) (mfBytes (bitsOf m.b.toNat 3 0)))
         else if m.fn = 6 then m.b.setWidth 32 else mmaElem rd m e.1 e.2 old).toNat) ∧
     (∀ e, es = [e] → m.fn ≠ 5 → bad = true → Memory.wf g.acs = true →
       let mf := bitsOf m.b.toNat 3 0
       readCells h.acs (own * 2 ^ 18 + acAco m.acc + 4 * (e.1 * acN m.acc + e.2)) 4 =
         if (m.fn ≤ 3 ∧ intAcc m.fmt = true) ∨ (4 ≤ m.fn ∧ (mf = 3 ∨ mf = 6)) then 0x80000000 else 0x7FC00000)) ∧
  (∀ (s : State) (w n : Nat) (x : Work) (l : LayerWork) (p : LPass) (r : Region), s.work? w = some x → x.kind = .layer l →
     (l.passes[n]? = some p → s.region? (l.region p.second) = some r →
       let h := r.homes.getD p.c 16
       let e := s.epochFor l p.second h
       let tile := r.tileAt e.1 (r.tileIndex p.r p.c)
       let cells := s.layerCells x l
       let d := driveOf (s.windowOf x cells) l r p
       let l' := { l with snap := some cells, epochs := e.2, passes := l.passes.set n { p with started := some d, epoch := e.1 } }
       let t := s.setWork (x.withLayer l')
       (s.begins x = true → x.replay = false → p.started = none → s.passSlot h tile = true → s.bad = [] → l.fn = 2 →
         exec (Instr.tilePassStart w n) s = .next t) ∧
       (s.begins x = true → x.replay = false → p.started = none → s.passSlot h tile = true → s.bad = [] → l.fn ≠ 2 →
         exec (Instr.tilePassStart w n) s = .next (d.2.zipIdx.foldl (fun u q => if q.1 = 0 then u else u.countRow h (tileRow tile q.2) true) t)) ∧
       (∀ d, p.started = some d → p.out = none → s.bad = [] →
         exec (Instr.tilePassComplete w n) s =
           .next (s.setWork (x.withLayer { l with passes := l.passes.set n { p with out := some (passOut s.freeCtr l r p d) } })))) ∧
     (∀ g, s.gang? x.gang = some g → s.runs x = true → x.replay = false → l.adapter ≠ none → (∀ q ∈ l.passes, q.out ≠ none) → s.ctrBlocked x = false →
       l.wrote = false → s.bad = [] → x.uid = w →
       let cells := s.layerCells x l
       let u := s.updGang x.gang fun g => layerWrite (s.windowOf x cells) g (g.ownCore x.troupe) l
       let y := ((u.work? w).getD x).withLayer { l with wrote := true, snap := some cells }
       ∀ t, ((u.setWork y).readsBound w).workAdd y y.err = (t, true) → exec (Instr.layerComplete w) s = .next (t.finishWork y)) ∧
     (∀ g v, (s.core x.core).ramp = .ramped v → s.settleLease x.core = s → s.gang? x.gang = some g → (s.engineWorks x.core).find? (fun y => y.gang == x.gang && y.troupe == x.troupe) = some x →
       x.uid = w → (s.core x.core).lease = some (x.gang, x.troupe) → s.bad = [] →
       ∃ t y k, exec (Instr.adapterStage w) s = .next t ∧ t.mem = s.mem ∧ t.work? w = some y ∧ y.kind = .layer k ∧ k.adapter ≠ none ∧ k.passes = l.passes) ∧
     (∀ g, (s.core x.core).ramp = .idle → s.settleLease x.core = s → s.gang? x.gang = some g →
       (s.engineWorks x.core).find? (fun y => y.gang == x.gang && y.troupe == x.troupe) = some x → x.uid = w →
       (s.core x.core).lease = some (x.gang, x.troupe) →
       exec (Instr.adapterStage w) s = .next (s.setCore { s.core x.core with ramp := .ramping s.cycle 256 })))

/-- R389 to R392, R406, R409, R515 to R517, R528, R530: probes, which drive no tile that is being programmed, epochs and the loads they map, the steps of a
refresh, lapsed pins, activation counts with their alerts, and the watchdog of a stack's sequencer. The numbering of a stack's tiles by die and the steps
of a refresh are the model's choices (logs 25 and 57).
R412, R414, R415, R418 to R421, R511, R512: a field's conversion, which writes its ways' lines back, and its release, the start and the end of its jobs,
and the end of a NEAR region. -/
def Obligations.StackAndFieldEvents : Prop :=
  (∀ (s : State) (h tile row src g region : Nat),
     let p := s.pile h
     (h < 16 → p.up = true → p.resetting = none → s.slotFree h tile = true → (s.passesOn h).length < 1536 →
       (∀ c ∈ p.rows, rowTile c.row ≠ some tile ∨ c.alertSeq = false) →
       exec (Instr.rceProbePass h tile) s = .next ((s.setPile { p with progress := s.cycle }).countTile h tile)) ∧
     ((∃ e ∈ p.journal, e.tile = tile) ∨ tile ∈ s.passesOn h → exec (Instr.rceProbePass h tile) s = .next s) ∧
     (h < 16 → s.mayPublish h = true → exec (Instr.epochPublish h) s = .next (((s.publish h).freeOld h).fitTiles h)) ∧
     (s.mayPublish h = false → exec (Instr.epochPublish h) s = .next s) ∧
     (let t := s.publish h
      let q := t.pile h
      q.epoch = p.epoch + 1 ∧ q.publishedAt = s.cycle ∧ q.older = s.keptEpochs h ∧ (∀ k, k ≠ h → t.pile k = s.pile k) ∧ t.mem = s.mem ∧
      (q.arr = true ↔ p.arr = true ∨ ∀ e ∈ q.journal, e.isLoad = false) ∧ (s.loads = [] → q.journal = p.journal ∧ t.regions = s.regions) ∧
      (∀ l, s.loads = [l] → l.left.contains h = true →
        let mine (e : JEntry) : Prop := e.isLoad = true ∧ (s.loadRegions l).contains e.region = true
        (∀ e ∈ p.journal, mine e → e.state = .verified) → (∀ e ∈ q.journal, ¬ mine e) ∧
          ((∀ k ∈ l.left, k = h) → t.loads = [] ∧ ∀ r ∈ t.regions, (s.loadRegions l).contains r.id = true → r.avail = true))) ∧
     (∀ r i, let z := s.freeOld h
       let k := z.pile h
       let entry := k.journal.find? fun e => e.region == r.id && e.r == i / r.nt && e.c == i % r.nt
       z.tileOwner h tile = some (r, i) → h < 16 → k.up = true → k.resetting = none →
       (∀ t, entry = none → (r.due.any fun d => r.tileIndex d.1 d.2 == i) = true → r.avail = true → k.tileStopped tile = false →
         spareOf k.gone (tile / 16896) = some t →
         let a := z.arouse h
         let e : JEntry := { region := r.id, r := i / r.nt, c := i % r.nt, tile := t, isLoad := false, hash := r.tileHash i }
         let q : Stack := { a.pile h with gone := k.gone ++ [t], progress := z.cycle, journal := (a.pile h).journal ++ [e] }
         exec (Instr.tileRefresh h tile) s = .next ((a.setPile q).countTile h tile)) ∧
       (entry = none → (r.due.any fun d => r.tileIndex d.1 d.2 == i) = false → exec (Instr.tileRefresh h tile) s = .next z) ∧
       (∀ e, entry = some e → e.isLoad = false →
         (e.state = .intent → exec (Instr.tileRefresh h tile) s = .next ((z.setEntry h e .programmed).countTile h e.tile)) ∧
         (e.state = .programmed → e.tile ≠ tile →
           exec (Instr.tileRefresh h tile) s = .next ((z.countTile h e.tile).setEntry h e .verified) ∨
           exec (Instr.tileRefresh h tile) s = .next ((z.countTile h e.tile).journalMap h fun x => if x = e then none else some x)) ∧
         (e.state = .verified → z.mayPublish h = false → exec (Instr.tileRefresh h tile) s = .next z) ∧
         (e.state = .verified → z.mayPublish h = true → e.tile ≠ tile →
           let b := ((z.journalMap h fun x => if x = e then none else some x).publish h).journalDone h 1
           let new : Region := { r.refreshedAt i with tiles := r.tiles.set i e.tile, moves := r.moves ++ [(i, (b.pile h).epoch, tile)] }
           exec (Instr.tileRefresh h tile) s =
             .next ((b.setRegion { new with since := ((b.region? r.id).map Region.since).getD r.since }).fitTiles h)))) ∧
     (exec (Instr.pinLapse g region) s = .next { s.updGang g (fun x => x.lapse s.cycle) with
       saved := (s.updGang g fun x => x.lapse s.cycle).saved.map fun v => if v.gang.uid = g then { v with gang := v.gang.lapse s.cycle } else v }) ∧
     (h < 16 → s.rowHeld h row (src == 0) = false → exec (Instr.rowActivation h row src) s = .next (s.countRow h row (src == 0))) ∧
     (∀ d : Bool, let c := s.rowOf h row
       let n := (s.countRow h row d).rowOf h row
       rowTile row = none → n.demand = c.demand + (if d then 1 else 0) ∧ n.seq = c.seq + (if d then 0 else 1) ∧
         n.alertSeq = (c.alertSeq || decide (16384 ≤ n.demand + n.seq)) ∧ n.alertDemand = (c.alertDemand || decide (24576 ≤ n.demand)) ∧
         n.life = if 4096 ≤ c.life + 1 then 0 else c.life + 1) ∧
     (let tile := (rowTile row).isSome
      let at_ := if tile then p.tilesAt else p.rowsAt
      let span := if tile then 1900000000 else 60800000
      let n := (s.cycle - at_) / span
      (n = 0 → exec (Instr.activationIntervalEnd h row) s = .next s) ∧
      let rows := p.rows.map fun c => if (rowTile c.row).isSome = tile then { c with demand := 0, seq := 0, alertDemand := false, alertSeq := false } else c
      (h < 16 → n ≠ 0 → exec (Instr.activationIntervalEnd h row) s = .next (s.setPile
        { p with rows := rows, rowsAt := if tile then p.rowsAt else at_ + n * span, tilesAt := if tile then at_ + n * span else p.tilesAt }))) ∧
     (h < 16 → p.resetting = none → s.sequencerBusy h = true → p.progress + 1900000 ≤ s.cycle →
       exec (Instr.sequencerWatchdogReset h) s =
         .next ((((s.setPile { p with resetting := some s.cycle }).loseFields h).restartNear h).report (.sequencerReset h))) ∧
     (∀ c, p.resetting = some c →
       let t := (s.setPile { p with resetting := none, progress := s.cycle }).recoverJournal fun k => k == h
       exec (Instr.sequencerResetComplete h) s = .next t ∧ (t.pile h).resetting = none ∧
         (t.pile h).journal = (p.journal.map fun e => { e with state := .intent }))) ∧
  (∀ (s : State) (w : Nat) (x : Work),
     (s.work? w = some x →
       (∀ k f, x.kind = .conversion k → (s.part x.part).fields[k]? = some f → f.held = true →
         exec (Instr.fieldConversionComplete w) s = .next (((((s.clearWays f.parts).clearRows x.part k fun _ _ => true)).updField x.part k
           fun f => { f with rows := List.replicate 512 0 }).finishWork x)) ∧
       (∀ k, x.kind = .release k → s.headsField x.part k w = true →
         exec (Instr.waysrelRelease w) s = .next (((s.updField x.part k FieldSlot.released).clearRows x.part k fun _ _ => true).finishWork x)) ∧
       (∀ j : JobWork, x.kind = .job j →
         (j.running = false → j.ended = false → s.headsField x.part j.field w = true →
           (∀ y ∈ s.works, ∀ i, y.kind = .job i → i.running = false ∨ i.ended = true ∨ ∀ h ∈ s.jobStacks y i, h ∉ s.jobStacks x j) →
           (∀ h ∈ s.jobStacks x j, (s.pile h).resetting = none) →
           exec (Instr.bsqJobStart w) s = .next (((s.jobStacks x j).foldl (fun s h => s.setPile { s.pile h with progress := s.cycle }) s).setWork
             (x.withJob { j with running := true }))) ∧
         (j.ended = true → s.ctrBlocked x = false → j.wrote = false →
           let y := x.withJob { j with wrote := true }
           ∀ u t, s.engineWrite x (.flat j.status) 8 (2 ^ 63 + (if j.why = 0 then 0 else 2 ^ 62) + j.why % 32 * 2 ^ 16 + j.at_ % 1024) = .ok u →
             (u.setWork y).workAdd y (y.err || j.why != 0) = (t, true) → exec (Instr.bsqJobComplete w) s = .next (t.finishWork y)))) ∧
     ∀ p : PathId, (s.troupe? p.gang p.troupe).isSome = true → (s.focusTo p).cur.live = true → (s.focusTo p).cur.near ≠ none →
       (s.focusTo p).gg.save ≠ none → exec (Instr.nearRegionEnd p) s = .next (s.focusTo p).endNear) ∧
  -- the lines of granted ways leave the slices, and no other line does; a modified one is written to LPDDR-6, counted for its tenant
  (∀ (s : State) (ways : List (Nat × Nat)) (k : Nat) (l : CLine),
     (l ∈ ((s.clearWays ways).cache k).lines ↔ l ∈ (s.cache k).lines ∧ ¬ (208 ≤ k ∧ ways.contains (k - 208, l.way) = true)) ∧
     (s.bad = [] → (s.clearWays ways).mem = s.mem) ∧
     (208 ≤ k → l.dirty ≠ 0 → s.bad.contains (l.line, 5) = false →
       s.writeBackSlice k l = (s.countBytes l.tenant 128 0).countDram (128 * l.line) (decide (l.tenant ≤ 63))) ∧
     (l.dirty = 0 → s.writeBackSlice k l = s))

/-- R243 to R254, R469, R474: a doorbell raises T, a good card is staged when the pool gives its buffers, a bad one halts its queue with its code, and the
head register of a halted queue takes it on. That a queue or partition in a drain fetches no card is the model's reading (log 65), and so is that an add whose page
the host has failed is not made (log 122).
R133, R155 to R161, R250, R252, R255 to R259: the gang a queue's oldest card names next is placed where the order of service and the preference of
R257 say, and a finished gang retires, the last of its grid with its card's counter add.
R15, R93, R155 to R159, R259: what a placed gang starts with, once its cores have acquired at device scope what the ringmaster read (R246, R249): the next number of its card, its troupes' registers and paths, circle 0 of all of them.
R161, R257: a troupe goes to a quadrant none of the others of its core has fewer troupes than; a place chosen is a candidate no other is preferred to
in the order of R257: affinity first, then purses, and of those equal in both the lowest cluster, then the lowest first core. -/
def Obligations.QueueAndGangEvents : Prop :=
  (∀ (s : State) (q : Nat) (v : BitVec 64) (r r2 : Nat),
     let x := s.queue q
     let y := s.setQueue { x with wait := none }
     let fetches := x.enabled = true ∧ x.state = 0 ∧ x.h < x.t ∧ (x.cards.filter fun c => !c.placedAll).length < 4 ∧ s.queueDrained x.part q = false ∧ x.wait = none
     (x.enabled = true → x.launchFed = false → x.t < v.toNat → v.toNat ≤ x.h + 2 ^ x.logn →
       exec (Instr.tailDoorbell q v 8) s = .next ((s.setQueue { x with t := v.toNat }).writeStatus q)) ∧
     (x.enabled = true → x.launchFed = false → x.t < v.toNat → x.h + 2 ^ x.logn < v.toNat → x.state = 0 →
       exec (Instr.tailDoorbell q v 8) s = .next (((s.setQueue { x with t := v.toNat, state := 1, errcode := 6, errslot := x.h % 2 ^ x.logn }).writeStatus q).raiseMsi
         x.part x.vec)) ∧
     (x.enabled = true → x.launchFed = false → x.t < v.toNat → x.h + 2 ^ x.logn < v.toNat → x.state ≠ 0 →
       exec (Instr.tailDoorbell q v 8) s = .next ((s.setQueue { x with t := v.toNat, ovrs := x.ovrs || x.errcode != 6 }).writeStatus q)) ∧
     (∀ size, x.enabled = true → (size ≠ 8 ∨ x.launchFed = true ∨ v.toNat ≤ x.t) →
       exec (Instr.tailDoorbell q v size) s = .next ((s.setQueue { x with stale := x.stale + 1 }).writeStatus q)) ∧
     (x.enabled = true → x.state = 1 → x.h ≤ v.toNat → v.toNat ≤ x.t → x.t - v.toNat ≤ x.size →
       let c := (List.range (min (v.toNat - x.h) x.size)).foldl (fun s k => s.clearSlot x (x.h + k)) s
       exec (Instr.headRegisterWrite q v) s =
         .next ((c.setQueue { c.queue q with h := v.toNat, errcode := 0, ovrs := false, state := 0, wait := none, refused := false }).writeStatus q)) ∧
     (fetches → y.readSlot x x.h = .ok r →
       (3 < cdType r → exec (Instr.cardFetch q) s = .next (y.haltQueue q 1)) ∧
       (cdType r = 2 → x.h % x.size = x.size - 1 → exec (Instr.cardFetch q) s = .next (y.haltQueue q 4)) ∧
       (cdType r = 1 → ∀ e, y.check2 x r none = some e → exec (Instr.cardFetch q) s = .next (y.haltQueue q e)) ∧
       (cdType r = 1 → y.check2 x r none = none → exec (Instr.cardFetch q) s = .next (y.stage q r 0)) ∧
       (cdType r = 3 → y.check2 x r none = none → exec (Instr.cardFetch q) s = .next (y.advanceHead q 1)) ∧
       (cdType r = 2 → x.h % x.size ≠ x.size - 1 → x.h + 2 ≤ x.t → y.readSlot x (x.h + 1) = .ok r2 → y.check2 x r (some r2) = none →
         exec (Instr.cardFetch q) s = .next (y.stage q r r2))) ∧
     (∀ p rest, x.posts = p :: rest → x.enabled = true → p.two = false → p.staged = false → p.refused = false → x.t + 1 ≤ x.h + x.size →
       s.slotMiss x 1 = none →
       let z := s.putSlot x x.t (p.bytes % 2 ^ 512)
       exec (Instr.launchPost q) s = .next ((z.setQueue { z.queue q with t := x.t + 1, posts := rest }).writeStatus q)) ∧
     (∀ d, s.mbx = true → s.queueOk q d = true → ∃ z : State, exec (Instr.queueEnable q d) s = .next (z.report .ok) ∧ (z.queue q).enabled = true ∧ (z.queue q).part = qdPart d ∧
       (z.queue q).base = qdBase d ∧ (z.queue q).sba = qdSba d ∧ (z.queue q).logn = qdLogn d ∧ (z.queue q).state = 0 ∧ (z.queue q).posts = [] ∧
       (z.queue q).h = 0 ∧ (z.queue q).t = 0) ∧
     (s.mbx = true → x.enabled = true → exec (Instr.queueDisable q) s = .next (s.disableQueue q) ∧ ((s.disableQueue q).queue q).enabled = false ∧
       ((s.disableQueue q).queue q).state = 2)) ∧
  (∀ (s : State) (q cl c0 g : Nat),
     let a := s.refreshActive.reclaim
     (∀ p, a.nextPart = some p → a.placeable p = some (.card q, (cl, c0)) → exec (Instr.gangPlace q) s = .next (a.placeCard q cl c0)) ∧
     (∀ c, (a.queue q).ready = some c → let b := (a.borrowFor (a.queue q).part cl).acquireOn (a.queue q).part cl c0 c.nC
       (a.placeCard q cl c0).gangs = a.gangs ++ [b.newGang (a.queue q).part q c cl c0] ∧ (a.placeCard q cl c0).nextUid = a.nextUid + 1) ∧
     (∀ x, s.gang? g = some x → s.finished x = true →
       let r := (s.releaseGang x).settleChecksOf x.uid
       let y := (r.gang? x.uid).getD x
       (r.cardFor y = none → exec (Instr.gangRetire g) s = .next (r.retire y)) ∧
       (∀ c, r.cardFor y = some c → (c.placedAll = false ∨ c.liveGangs ≠ 1) → exec (Instr.gangRetire g) s = .next (r.retire y)) ∧
       (∀ c, r.cardFor y = some c → c.placedAll = true → c.liveGangs = 1 →
         (r.faultsOpen y.part c.doneWait = true → exec (Instr.gangRetire g) s = .next r) ∧
         (r.faultsOpen y.part c.doneWait = false → r.faultsFailed y.part c.doneWait = true → exec (Instr.gangRetire g) s = .next (r.retire y)) ∧
         (∀ (t : State) (a : Option (PageMiss ⊕ Nat)), r.faultsOpen y.part c.doneWait = false → r.faultsFailed y.part c.doneWait = false →
           (a = none ∨ ∃ pa, a = some (.inr pa)) →
           r.counterAdd 0 y.part y.sys c.done c.inc (c.errSeen || y.errorRecord.isSome) = (t, a) → exec (Instr.gangRetire g) s = .next (t.retire y))) ∧
       (s.checks = [] → r.checks = [] → r = s.releaseGang x))) ∧
  (∀ (s : State) (part q cl c0 i : Nat) (c : Card),
     let g := s.newGang part q c cl c0
     g.uid = s.nextUid ∧ g.gidx.toNat = c.next % 2 ^ 32 ∧ g.ngang = c.ngang ∧ g.nC = c.nC ∧ g.nT = c.nT ∧ g.cluster = cl ∧ g.core0 = c0 ∧ g.card = c.uid ∧
     g.scru = 256 * c.scru ∧ g.acsk = 1024 * c.acsk ∧ g.scratch = [] ∧ g.acs = [] ∧ g.troupes.length = c.nC * c.nT ∧
     ((g.circles.get 0).member = .ofNat 512 (2 ^ (c.nC * c.nT) - 1) ∧ (g.circles.get 0).arrived = 0) ∧
     g.srseed = mix (s.part part).srseed (.ofNat 64 (q * 2 ^ 54 + c.head % 2 ^ 54)) (.ofNat 64 c.next) ∧
     (i < c.nC * c.nT → ∃ t, g.troupes[i]? = some t ∧ t.idx = i ∧ t.p.live = true ∧ t.q.live = false ∧ t.p.pc = .ofNat 48 c.entry ∧ t.p.mask = .allOnes 32 ∧
       t.ended = false ∧ t.stream = [] ∧ t.batch = 0 ∧ t.psp = 0 ∧
       t.sreg.toList = [0, c.arg, .ofNat 64 c.head, .ofNat 64 q] ++ List.replicate 59 0 ++ [.ofNat 64 (0xFFFFFE0000000000 + (s.part part).z - 4096)] ∧
       ∀ r l, ((t.vreg.get r).get l : Word32) = 0)) ∧
  ((∀ l : List Nat, l.length = 4 → let b := bestQuad l
     b < 4 ∧ (∀ q < 4, l.getD b 0 ≤ l.getD q 0) ∧ ∀ q < b, l.getD b 0 < l.getD q 0) ∧
   ∀ (s : State) (x : Shape) (c : Nat × Nat), s.bestPlace x = some c → c ∈ s.candidates x ∧
     ∀ d ∈ s.candidates x, ((x.near = some d.1 → x.near = some c.1) ∧ ((x.near = some d.1 ↔ x.near = some c.1) → s.purses x.nC d ≤ s.purses x.nC c) ∧
       ((x.near = some d.1 ↔ x.near = some c.1) → s.purses x.nC d = s.purses x.nC c → c.1 < d.1 ∨ (c.1 = d.1 ∧ c.2 ≤ d.2))))

/-- R462 to R464, R470, R480, R533: a control block that passes the checks of R464 defines a partition, which becomes active when its minimums are free;
one that fails is refused with the code of its first failing check; UPDATE takes values that keep the sums; a partition ends with its key. A command
refused without a code of the spec reports code 0 (log 69).
R463: the fields of a partition as they stand in the bytes of its control block.
R457, R459, R471, R474, R477 to R479: doorbells of a partition's faults and log, a unit moved to another key slot reads as zero, an entry released
goes to the request that has waited longest, and usage intervals and signatures.
R473: a request is granted below the partition's minimum, or while its overflow is below half of what the minimums leave and the sum of all below it;
a grant within the minimum never depends on what others use or ask; one beyond it goes in age order within a partition and in turn between partitions,
a new request behind all that wait and could be granted: who waits for whom in turn is the model's choice (log 93). A signature record waits for the
attestation key of step 9 (log 127). -/
def Obligations.PartitionEvents : Prop :=
  (∀ (s : State) (n pcb : Nat),
     let p := partOf n pcb
     let free := 6 ≤ s.bootStep ∧ n ≤ 62 ∧ (s.part n).active = false ∧ (s.part n).pending = false ∧
       (p.parent = 63 → ((s.others n).filter fun q => q.parent == 63).length < 16)
     let t := s.setPart { p with pending := true, vtime := (s.part n).vtime, shapeMax := (s.part n).shapeMax }
     (free → ∀ c, s.pcbCode p = some c → exec (Instr.partitionActivate n pcb) s = .next (s.report (.refused c))) ∧
     (free → s.pcbCode p = none → t.poolsFree = true → ∃ u, exec (Instr.partitionActivate n pcb) s = .next u ∧ u = t.finishActivation n ∧
       (u.part n).active = true ∧ (u.part n).pending = false ∧ (u.part n).pcb = pcb ∧ (u.part n).sh = p.sh ∧ (u.part n).clm = p.clm ∧
       (u.part n).proot = p.proot ∧ (u.part n).min = p.min ∧ u.keyDraws = s.keyDraws + 1 ∧ (p.keys, s.keyDraws) ∈ u.keys ∧ u.mail = s.mail ++ [.ok]) ∧
     (free → s.pcbCode p = none → t.poolsFree = false → exec (Instr.partitionActivate n pcb) s = .next t) ∧
     (¬ free → exec (Instr.partitionActivate n pcb) s = .next (s.report (.refused 0))) ∧
     ((s.part n).active = true → n ≠ 63 →
       (∀ c, s.pcbCode p = some c → exec (Instr.update n pcb) s = .next (s.report (.refused c))) ∧
       (s.pcbCode p = none → exec (Instr.update n pcb) s = .next ((s.setPart { s.part n with update := some p.sh }).report .ok))) ∧
     ((s.part n).active = true → n < 63 →
       let e := s.endPartition n
       exec (Instr.partitionDeactivate n) s = .next (e.tryPending.report .ok) ∧ exec (Instr.vfFlr (n + 1)) s = .next e.tryPending ∧
       (e.part n).active = false ∧ (∀ v ∈ e.saved, v.gang.part ≠ n) ∧ (∀ x ∈ e.works, x.part ≠ n) ∧
       (∀ x ∈ e.queues, x.part = n → x.cards = [] ∧ x.posts = []) ∧ (∀ k ∈ e.keys, k.1 ≠ (s.part n).keys) ∧
       ∀ c < 16, (e.cluster c).holder ≠ some n ∧ (e.cluster c).borrower ≠ some n)) ∧
  (∀ (n : Nat) (a b c : BitVec 512),
     let p := partOf n (a.toNat + b.toNat * 2 ^ 512 + c.toNat * 2 ^ 1024)
     let f (x : BitVec 512) (hi lo : Nat) : Nat := (x.extractLsb hi lo).toNat
     p.id = n ∧ p.srseed = a.extractLsb 511 448 ∧ p.clm = a.extractLsb 447 432 ∧ p.tsm = a.extractLsb 431 416 ∧ p.sh.wsh = f a 415 403 ∧
     p.sh.bwsh = f a 402 390 ∧ p.parent = f a 389 384 ∧ p.lend = a.getLsbD 383 ∧ p.borrow = a.getLsbD 382 ∧ p.clip = a.getLsbD 381 ∧ p.zl = f a 380 377 ∧
     p.sh.dnl1 = f a 376 373 ∧ p.sh.dnl2 = f a 372 369 ∧ p.sh.dnmsc = f a 368 365 ∧ p.keys = f a 364 359 ∧ p.nq = f a 358 352 ∧ p.troot = f b 511 464 ∧
     p.proot = f b 463 412 ∧ p.spb = f b 411 364 ∧ p.frames = f b 363 348 ∧ p.sh.lql2 = f b 347 331 ∧ p.sh.lqmsc = f b 330 309 ∧ p.logbase = f c 511 464 ∧
     p.logk = f c 463 460 ∧ p.frbase = f c 459 412 ∧ p.frm = f c 411 407 ∧ p.acct = f c 406 359 ∧ p.min.card = f c 358 346 ∧ p.min.copy = f c 345 331 ∧
     p.min.monitor = f c 330 315 ∧ p.min.replay = f c 314 298 ∧ p.frvec = f c 297 291 ∧ p.logvec = f c 290 284) ∧
  (∀ (s : State) (n unit slot pa : Nat) (v : BitVec 64),
     let p := s.part n
     let close := s.cycle / 1900000000
     (p.active = true → exec (Instr.frhead n v) s = .next ((s.setPart { p with hf := max p.hf v.toNat }).writeFaultRecords n p.faults.length)) ∧
     (p.active = true →
       let top := max p.replayed (min v.toNat p.tf)
       exec (Instr.frreplay n v) s = .next (s.setPart { p with replayed := top, faults := p.faults.filter fun f =>
         f.failed || (f.seq.map fun n => decide (top < n)).getD true }).wakeAll) ∧
     (p.active = true →
       let u := s.setPart { p with faults := p.faults.map fun f => if f.seq = some v.toNat then { f with failed := true } else f }
       let qs := u.queues.filter fun x => x.part == n && x.state == 0 && (x.wait.map fun k => u.faultsFailed n [k]).getD false
       exec (Instr.frfail n v) s = .next (qs.foldl (fun u x => u.haltQueue x.q 7) u).wakeAll) ∧
     (unit < 2 ^ 31 → slot ≤ 63 → Memory.wf s.mem = true → ∃ t, exec (Instr.keyMapMove unit slot) s = .next t ∧
       cellGet t.mem pa = (if pa / 2 ^ 21 = unit then 0 else cellGet s.mem pa) ∧ (∀ h ∈ t.held, h.pa / 2 ^ 21 ≠ unit) ∧
       (∀ c ∈ t.caches, ∀ l ∈ c.lines, 128 * l.line / 2 ^ 21 ≠ unit) ∧ ((unit, slot) ∈ t.keymap ↔ slot ≠ 63) ∧ ∀ k, (unit, k) ∈ t.keymap → k = slot) ∧
     (∀ k pool, (k, pool) ∈ [(0, Pool.card), (2, Pool.monitor)] →
       let t := s.tryPending
       (t.waitList pool n = [] → exec (Instr.poolEntryRelease k n) s = .next t) ∧
       ∀ a l, t.waitList pool n = a :: l → exec (Instr.poolEntryRelease k n) s =
         .next (if t.mayTake pool n (t.needs a.2.2) (some a.2.1) then t.grantAsk n a.2.2 else t)) ∧
     (∀ k, k ≠ 0 → k ≠ 2 → exec (Instr.poolEntryRelease k n) s = .next s.tryPending) ∧
     (p.active = true → p.usage.closed < close → exec (Instr.usageIntervalClose n) s = .next (s.closeInterval n ((p.usage.closed + 1) * 1900000000))) ∧
     (p.active = true → close ≤ p.usage.closed → exec (Instr.usageIntervalClose n) s = .next (s.sampleLines n s.cycle)) ∧
     (p.active = true → p.sigDue = true → exec (Instr.signatureRecordWrite n) s = .next (s.writeSignature n)) ∧
     (p.logRoom = false ∨ s.bootStep < 9 → s.writeSignature n = s) ∧
     (p.logRoom = true → 9 ≤ s.bootStep → ((s.writeSignature n).part n).sigDue = false ∧ ((s.writeSignature n).part n).logtail = p.logtail + 1 ∧
       ((s.writeSignature n).part n).logseq = p.logseq + 1) ∧
     (p.sigDue = true → ∀ c, s.closeInterval n c = (s.writeSignature n).closeInterval n c) ∧
     (p.active = true → exec (Instr.logsign n) s = .next (s.setPart { p with sigDue := true })) ∧
     (p.active = true → exec (Instr.loghead n v) s = .next (s.setPart { p with loghead := max p.loghead v.toNat }))) ∧
  (∀ (s : State) (pool : Pool) (n : Nat),
     let p := s.part n
     let least := p.min.get pool - ((s.childrenOf p.id).map fun c => c.min.get pool).sum
     let spare := (match pool with
       | .card => 4096
       | .copy => 16384
       | .monitor => 32768
       | .replay => 65536) - (s.counted.map fun q => q.min.get pool - ((s.childrenOf q.id).map fun c => c.min.get pool).sum).sum
     (p.used.get pool < least → s.grants pool n = true ∧ ∀ since, s.mayTake pool n 1 since = true) ∧
     (least ≤ p.used.get pool → (s.grants pool n = true ↔ p.used.get pool - least < spare / 2 ∧
       ((s.parts.filter fun q => q.id != 63).map (s.overflow pool)).sum < spare)) ∧
     (∀ since, s.mayTake pool n 1 since = true → least ≤ p.used.get pool → ∀ a ∈ s.asks pool, s.grants pool a.1 = true →
       ∃ t, since = some t ∧ (a.1 = n → t ≤ a.2.1) ∧ (a.1 ≠ n → (n + 127 - s.turns.get pool) % 64 ≤ (a.1 + 127 - s.turns.get pool) % 64)) ∧
     ∀ k, ((s.takeEntry pool n k).part n).used.get pool = p.used.get pool + k ∧ ((s.giveEntry pool n k).part n).used.get pool = p.used.get pool - k)

/-- R258, R323, R465, R468, R481 to R485, R492: slots, saves, forced saves, drains, resumption and lending. The bounds of a deadline out of its range and
SAVE_COMMAND's argument are the model's choices (log 78).
R323, R487, R492: a saved gang resumes on other cores, which have acquired at device scope, with its registers, paths, batches and circles as they were, and its quadrants anew.
R494 to R496: a switch group of 2 to 1,152 members; the leader's tick, a member's, and the messages of members that have saved. -/
def Obligations.PreemptionEvents : Prop :=
  (∀ (s : State) (g cl us : Nat) (d : DrainScope),
     let k := s.cycle / s.slotLen
     let due (x : Nat) : Nat := if 10 ≤ x ∧ x ≤ 10000 then x else 200
     (s.group = none → s.slotAt < k * s.slotLen → exec Instr.slotStart s =
       .next ((List.range 16).foldl (fun s c => s.changeHolder (k % 16) c) { s with slot := k % 16, slotAt := k * s.slotLen })) ∧
     (us ≠ 0 → exec (Instr.setSlotLength us) s = .next { s with slotLen := 1900 * us }) ∧
     (∀ r, (s.gang? g).bind Gang.save = some r →
       (s.saveReady g = true → exec (Instr.saveComplete g) s = .next (s.completeSave g r)) ∧
       (s.saveReady g = false → exec (Instr.saveComplete g) s = .next s) ∧
       (r.forced = false → r.deadline ≤ s.cycle → r.switch = false →
         ∃ t : State, exec (Instr.saveForce g) s = .next (t.updGang g fun x => { x with save := some { r with forced := true } }) ∧ t.mem = s.mem ∧ t.gg = s.gg)) ∧
     (s.mbx = true → exec (Instr.drain d us) s = .next ({ s with drains := (s.drains.filter fun x => x.scope != d) ++
       [{ scope := d, deadline := s.cycle + 1900 * due us }] } : State).settleDrains) ∧
     (∀ r, s.drains.find? (fun x => x.scope == d) = some r → r.done = false → r.escalated = false → r.deadline ≤ s.cycle →
       let t : State := { s with drains := s.drains.map fun x => if x.scope = d then { x with escalated := true, done := true } else x }
       exec (Instr.drainDeadline d) s = .next ((s.allGangs.filter (DrainScope.saves d)).foldl
         (fun (t : State) (x : Gang) => t.askSave x.uid 20 { deadline := 0, cause := some d }) t)) ∧
     (∀ (x : Gang) (k r : SaveReq), s.gang? g = some x → x.save = some k → s.askSave g us r = s.updGang g fun y =>
       { y with save := some { k with deadline := min k.deadline (s.cycle + 1900 * us), recl := k.recl || r.recl, switch := k.switch || r.switch,
                                      cause := k.cause.or r.cause } }) ∧
     (s.mbx = true → exec (Instr.resume d) s = .next { s with drains := s.drains.filter fun x => x.scope != d }) ∧
     (s.mbx = true → exec (Instr.saveCommand 63) s = .next ((s.allGangs.filter Gang.sys).foldl (fun s g => s.askSave g.uid 20 { deadline := 0 }) s)) ∧
     (s.mbx = false → ∀ i ∈ [Instr.drain d us, Instr.resume d, Instr.saveCommand 63], exec i s = .next s) ∧
     (∀ p, (s.cluster cl).holder = some p → cl < 16 → (s.part p).lend = true → (s.cluster cl).borrower = none →
       (∀ x ∈ s.allGangs, x.cluster ≠ cl) → s.placeableOn p cl = false → cl ∉ s.switching → (s.cluster cl).idleSince + 190000 ≤ s.cycle →
       exec (Instr.clusterLendable cl) s = .next (s.updCluster cl fun c => { c with lendable := true })) ∧
     (let a := s.refreshActive.reclaim
      ∀ p v c0, a.nextPart = some p → a.placeable p = some (.saved g, (cl, c0)) → (a.saved.find? fun x => x.gang.uid == g) = some v →
       let b := ((a.borrowFor p cl).acquireOn p cl c0 v.gang.nC).chargePlace p (v.gang.nC * v.gang.nT)
       let x := b.resumed v cl c0
       let u := b.updCluster cl fun k => { k with lendable := false }
       let w : List Work := u.works.map fun y => if y.gang = g then { y with core := 8 * cl + c0 + y.troupe / x.nT } else y
       exec (Instr.gangResume g) s = .next ((x.troupes.map fun t => (⟨g, t.idx, .P⟩ : PathId)).foldl State.wakeParked
         { u with gangs := u.gangs ++ [x], saved := u.saved.filter fun v => v.gang.uid != g, works := w }))) ∧
  (∀ (s : State) (v : SavedGang) (cl c0 i : Nat) (t : Troupe), v.gang.troupes[i]? = some t →
     let g := s.resumed v cl c0
     g.cluster = cl ∧ g.core0 = c0 ∧ g.save = none ∧ g.circles = v.gang.circles ∧ g.scratch = v.gang.scratch ∧ g.acs = v.gang.acs ∧ g.pins = v.gang.pins ∧
     g.gclk = v.gang.gclk ∧ g.troupes.length = v.gang.troupes.length ∧
     ∃ u, g.troupes[i]? = some u ∧ u.idx = t.idx ∧ u.sreg = t.sreg ∧ u.vreg = t.vreg ∧ u.kreg = t.kreg ∧ u.draw = t.draw ∧ u.stream = t.stream ∧ u.batch = t.batch ∧
       u.tilesz = t.tilesz ∧ u.rbnd = t.rbnd ∧ u.trapvec = t.trapvec ∧ u.psp = t.psp ∧ u.p.pc = t.p.pc ∧ u.p.mask = t.p.mask ∧ u.p.fmt = t.p.fmt ∧
       u.p.jpc = t.p.jpc ∧ u.p.frame = t.p.frame ∧ u.p.att = t.p.att ∧ u.p.sleep = t.p.sleep ∧ u.q.pc = t.q.pc ∧ u.q.mask = t.q.mask ∧ u.q.sleep = t.q.sleep) ∧
  (∀ (s : State) (ms : List Nat) (leader slot m : Nat) (forced : Bool) (g : SwitchGroup),
     (s.mbx = true → 2 ≤ ms.length → ms.length ≤ 1152 → leader ∈ ms → s.modnum ∈ ms → ms.Nodup → ∃ t, exec (Instr.switchGroupBind ms leader) s = .next (t.report .ok) ∧
       t = { s with group := some { members := ms, leader := leader, nextTick := s.slotAt + s.slotLen } }) ∧
     (s.group = some g → g.leader = s.modnum → g.tick = none → g.nextTick ≤ s.cycle →
       exec Instr.switchTickSend s = .next ((s.report (.tickSent ((s.slot + 1) % 16))).beginTick g ((s.slot + 1) % 16))) ∧
     (s.group = some g → g.leader ≠ s.modnum → g.tick = none → exec (Instr.switchTickReceive slot) s = .next (s.beginTick g (slot % 16))) ∧
     (s.group = some g → m ∈ g.members → m ≠ s.modnum → m ∉ g.saved → m ∉ g.forced →
       let h := { g with saved := g.saved ++ [m], forced := if forced then g.forced ++ [m] else g.forced, late := g.members.idxOf m }
       exec (Instr.savedMessage m forced) s = .next ({ s with group := some h } : State).tryIncoming))

/-- R244, R253, R443, R457, R459, R477, R523 to R525: registers of BAR0, the firmware doorbell among them, and the window of BAR2. A window base that is no multiple of 64 GiB changes nothing,
which is the model's choice (log 80), and so are the masks of the MSI-X table (log 104), what BAR0 reads beside READY (log 128) and a write of more than 8
bytes to a doorbell page (log 126).
R448, R496, R503, R519, R521, R522: flits, the writes they carry, ports, routes lost and the module's number. Whether a flit's check fails is the
sender's (log 28), and so is the write it carries (log 103). That a port trained again clears the routes lost is the model's choice (log 82).
R392, R525, R526, R530: power good starts the boot from reset, keeping what survives without power (the model's reading, log 83); the steps of boot, and
what READY shows of them. That a free page of home memory reads zero after power good is the model's choice (log 1).
R98, R351, R382, R383, R525, R527 to R530: certificates and reports once boot is done, image keys, loads that verify, and regions put into tables. The
layout of an array image is a record of the model (log 21), signatures are free values (log 12), and a command refused without a code of the spec
reports code 0 (log 69). -/
def Obligations.EdgesAndBoot : Prop :=
  (∀ (s : State) (vf off q n : Nat) (v : BitVec 64) (data : List (BitVec 8)) (pas : List Nat),
     (vf ≤ 63 → off % 8 = 0 → (vf = 0 ∨ (s.part (vf - 1)).active = true) → (0x50000 ≤ off ∧ off < 0x50800 ∨ vf = 0 ∧ 0x70000 ≤ off ∧ off < 0x71000) →
       let b : State := { s with bar := upsert Prod.fst (vf * 2 ^ 20 + off, v.toNat) s.bar }
       let out (x : Nat × Nat) : Bool := x.1 == vf && !b.msiMasked x.1 x.2
       exec (Instr.registerWrite vf off v) s = .next { b with msi := b.msi ++ b.pba.filter out, pba := b.pba.filter fun x => !out x }) ∧
     exec (Instr.registerWrite 0 0x72000 v) s = .next { s with ctl := { s.ctl with event := s.ctl.event ||| 2 } } ∧
     (1 ≤ vf → vf ≤ 63 → (s.part (vf - 1)).active = true →
       (∀ page < 64, s.pageQueue (vf - 1) page = some q →
         exec (Instr.registerWrite vf (0x1000 * page) v) s = .next (s.tailBell q v 8) ∧
         exec (Instr.registerWrite vf (0x1000 * page + 8) v) s = exec (Instr.headRegisterWrite q v) s) ∧
       (∀ o i, (o, i) ∈ [(0x40000, Instr.frhead (vf - 1) v), (0x40008, Instr.frreplay (vf - 1) v), (0x40010, Instr.frfail (vf - 1) v),
         (0x40018, Instr.loghead (vf - 1) v), (0x40020, Instr.logsign (vf - 1))] → exec (Instr.registerWrite vf o v) s = exec i s) ∧
       (v.toNat % 2 ^ 36 = 0 → exec (Instr.registerWrite vf 0x40100 v) s = .next { s with windows := upsert Prod.fst (vf, v.toNat) s.windows })) ∧
     (s.windowPas vf off .write data.length = some pas → (pas.head?.bind s.bellAt) = none →
       ((∀ pa ∈ pas, s.away pa = false) → exec (Instr.hostBar2Write vf off data) s = .next (s.hostWrite pas data)) ∧
       ∀ pa, pas.find? s.away = some pa →
         exec (Instr.hostBar2Write vf off data) s = .next ((s.machineCheck 128 (vf - 1) pa 9 false).report .unsupported)) ∧
     (∀ pa b a, Memory.wf s.mem = true → cellGet (s.hostWrite [pa] [b]).mem a = if a = pa then b else cellGet s.mem a) ∧
     (s.windowPas vf off .write data.length = some pas → pas.head?.bind s.bellAt = some q →
       exec (Instr.hostBar2Write vf off data) s = .next (s.tailBell q (.ofNat 64 (natOf data)) data.length)) ∧
     (s.windowPas vf off .read n = some pas → (∀ pa ∈ pas, s.lineError 128 pa = none) →
       exec (Instr.hostBar2Read vf off n) s = .next (s.report (.data (natOf (pas.map fun pa => s.viewByte 0 pa)) n))) ∧
     (s.windowPas vf off .read n = none → exec (Instr.hostBar2Read vf off n) s = .next (s.report .unsupported)) ∧
     (vf ≤ 63 → s.barRead vf 0x60000 = s.ready vf ∧ (off % 8 ≠ 0 → s.barRead vf off = 0) ∧
       (1 ≤ vf → s.barRead vf 0x40000 = (s.part (vf - 1)).hf % 2 ^ 64 ∧ s.barRead vf 0x40008 = (s.part (vf - 1)).replayed % 2 ^ 64 ∧
         ∀ page < 64, s.pageQueue (vf - 1) page = some q → s.barRead vf (0x1000 * page) = (s.queue q).t % 2 ^ 64 ∧
           s.barRead vf (0x1000 * page + 8) = (s.queue q).h % 2 ^ 64))) ∧
  (∀ (s : State) (n m : Nat) (flit : List (BitVec 8)),
     let p := s.port n
     (n < 36 → p.trained = true →
       (flit.length = 64 → Config.flitOk flit = true →
         (Config.flitWrite flit = none → exec (Instr.flitReceive n flit) s = .next (s.report (.flitAck true))) ∧
         ∀ k pa data, Config.flitWrite flit = some (k, pa, data) →
           exec (Instr.flitReceive n flit) s = .next ((s.arriving k pa data).report (.flitAck true))) ∧
       (flit.length ≠ 64 ∨ Config.flitOk flit = false →
         exec (Instr.flitReceive n flit) s = .next ((s.setPort { p with retries := p.retries + 1 }).report (.flitAck false)))) ∧
     (∀ pa (data : List Byte), m ≠ s.modnum → m ∈ s.domain → s.homed pa = true → s.paLegal pa = true →
       (∀ q, s.bellAt pa = some q → s.arriving m pa data = s.tailBell q (.ofNat 64 (natOf data)) data.length) ∧
       (s.bellAt pa = none → s.held = [] → Memory.wf s.mem = true →
         let t := s.arriving m pa data
         (∀ a, cellGet t.mem a = if pa ≤ a ∧ a < pa + data.length then .ofNat 8 (natOf data / 2 ^ (8 * (a - pa))) else cellGet s.mem a) ∧
         (∃ h, t.held = [h] ∧ h.views = List.range 17) ∧ ∀ dom < 17, ∀ a, t.viewByte dom a = s.viewByte dom a)) ∧
     (∀ pa data, m = s.modnum ∨ m ∉ s.domain ∨ s.homed pa = false ∨ s.paLegal pa = false → s.arriving m pa data = s) ∧
     (n < 36 → exec (Instr.portFail n) s = .next (s.setPort { p with trained := false })) ∧
     (n < 36 → exec (Instr.portTrained n) s = .next { s.setPort { p with trained := true } with lost := [] }) ∧
     (m ≠ s.modnum → m ∉ s.lost → m ∈ s.domain → s.group = none →
       exec (Instr.routeLossTimeout m) s = .next ({ s with lost := s.lost ++ [m] } : State).recheckAll) ∧
     (m ≤ 1151 → m ≠ s.modnum → ∃ t, exec (Instr.setModnum m) s = .next t ∧ t.modnum = m ∧ (Memory.wf s.mem = true → Memory.wf t.mem = true) ∧
       t.gg = s.gg ∧ t.tr = s.tr ∧ t.parts = s.parts)) ∧
  (∀ (s : State) (vf : Nat),
     (∃ t, exec Instr.powerGood s = .next t ∧ t.power = true ∧ t.bootStep = 0 ∧ t.bootFail = false ∧ t.cycle = 0 ∧ t.ctl = State.reset.ctl ∧ t.allGangs = [] ∧
       t.parts = State.reset.parts ∧ t.works = [] ∧ t.saved = [] ∧ (∀ n, t.core n = State.reset.core n) ∧ t.imgh = s.imgh ∧
       t.regions = ((s.regions.filter fun r => r.id < 2 ^ 40).map fun r => { r with moves := [], refreshed := 0, aside := none, since := [] }) ∧
       t.attDraws = s.attDraws + 1 ∧ t.held = [] ∧ t.caches = State.reset.caches ∧
       (Memory.wf s.mem = true → ∀ pa, cellGet t.mem pa = if s.homed pa = true then 0 else cellGet s.mem pa)) ∧
     (s.bootFail = false → s.bootStep < 9 → s.bootable = true → exec (Instr.bootStepComplete true) s =
       .next (({ s with bootStep := s.bootStep + 1 } : State).bootAction (s.bootStep + 1))) ∧
     (s.bootFail = false → s.bootStep < 9 → s.bootable = false → exec (Instr.bootStepComplete true) s = .next { s with bootFail := true }) ∧
     (s.bootable = if s.bootStep = 0 then Config.verify Config.fuseHash (Config.firmwareImage s.attDraws) (Config.firmwareSig s.attDraws) else true) ∧
     (s.bootFail = false → s.bootStep < 9 → exec (Instr.bootStepComplete false) s = .next { s with bootFail := true }) ∧
     ((s.bootAction 1).fwh = Config.sha512 (Config.firmwareImage s.attDraws) ∧ (s.bootAction 9).attKey = s.attDraws ∧
       (∀ h < 16, (s.pile h).epoch = 0 → ((s.bootAction 8).pile h).epoch = 1) ∧ s.bootAction 7 = s.recoverJournal (fun _ => true) ∧ (∀ h < 16, ((s.bootAction 3).pile h).up = true) ∧
       (∀ c : Fin 16, ((s.bootAction 5).clusters.get c).ok = Config.selfTest c) ∧ (s.bootAction 4).keys.find? (fun k => k.1 == 63) = some (63, s.keyDraws)) ∧
     (let act := if vf = 0 then decide (6 ≤ s.bootStep) else (s.part (vf - 1)).active
      s.bootStep < 16 → ((s.ready vf).testBit 0 = act ∧ (s.ready vf).testBit 1 = decide (3 ≤ s.bootStep) ∧ (s.ready vf).testBit 2 = decide (2 ≤ s.bootStep) ∧
       (s.ready vf).testBit 8 = decide (9 ≤ s.bootStep) ∧ (s.ready vf).testBit 11 = s.bootFail ∧ s.ready vf / 2 ^ 12 % 16 = s.bootStep ∧
       ∀ k < 16, (s.ready vf).testBit (16 + k) = (s.cluster k).ok ∧ (s.ready vf).testBit (32 + k) = (s.pile k).arr ∧
         (s.ready vf).testBit (48 + k) = (s.pile k).up))) ∧
  (∀ (s : State) (part image region : Nat) (nonce hash : BitVec 512) (parts : List Nat),
     (9 ≤ s.bootStep → exec Instr.cert s = .next (s.report (.bytes (Config.certificates s.attKey)))) ∧
     (9 ≤ s.bootStep → (part = 63 ∨ (s.part part).active = true) →
       let body := bytesOf 512 (s.reportBody part nonce)
       ∃ sig, sig.length = 512 ∧ exec (Instr.attest part nonce) s = .next (s.report (.bytes (body ++ sig)))) ∧
     (s.mbx = true → exec (Instr.imageKeyRegister hash) s = .next (({ s with imageKey := some hash } : State).report .ok)) ∧
     (∀ i k, s.images.find? (fun i => i.id == image) = some i → s.imageKey = some k →
       let good := s.mbx && Config.verify k i.bytes i.sig && i.regions.all Region.loadable
       ∃ t, exec (Instr.imgload image) s = .next t ∧
         (t = s.report (.refused 0) ∧ (good = false ∨ s.placeRegions i.regions = none) ∨
           ∃ u, s.placeRegions i.regions = some u ∧ good = true ∧
             let before : List Load := (u.loads.map fun l => { l with taken := l.taken ++ i.regions.map Region.id }).filter fun l => u.loadRegions l != []
             let l : Load := { image := image, left := (i.regions.map Region.stacks).flatten.eraseDups }
             t = ({ u with loads := before ++ [l] } : State).report .ok)) ∧
     (s.mbx = true → (s.region? region).isSome = true → (∀ p ∈ parts, (s.part p).active = true ∨ p = 63) →
       exec (Instr.region region parts) s =
         .next ((parts.foldl (fun s p => s.setPart { s.part p with regions := putRegion region (s.part p).regions }) s).report .ok)))
end

