-- ==== Sys2Proof/Laws/Bits.lean ====
section
/-!
SUPPORT. The bit counts and the reversal of a word, in terms of the library's operations on bit vectors.
-/

namespace Sys2Proof.Machine

/-! ### Reversal -/

theorem brevNat_lt : ∀ n x, brevNat n x < 2 ^ n
  | 0, _ => by simp [brevNat]
  | n + 1, x => by
    have h := brevNat_lt n (x / 2)
    have h2 : x % 2 < 2 := Nat.mod_lt _ (by decide)
    have h3 : x % 2 * 2 ^ n ≤ 2 ^ n := by nlinarith [Nat.pos_of_ne_zero (show (2 : Nat) ^ n ≠ 0 by simp)]
    unfold brevNat
    rw [Nat.pow_succ]
    omega

theorem testBit_brevNat : ∀ n x i, (brevNat n x).testBit i = (decide (i < n) && x.testBit (n - 1 - i))
  | 0, _, i => by simp [brevNat]
  | n + 1, x, i => by
    unfold brevNat
    have hl := brevNat_lt n (x / 2)
    rw [Nat.mul_comm, Nat.testBit_two_pow_mul_add _ hl]
    by_cases h : i < n
    · have e : n + 1 - 1 - i = n - 1 - i + 1 := by omega
      have h1 : i < n + 1 := by omega
      rw [if_pos h, testBit_brevNat n (x / 2) i, e, Nat.testBit_succ]
      simp [h, h1]
    · rw [if_neg h]
      by_cases h2 : i = n
      · subst h2
        simp [Nat.testBit_zero]
      · have h3 : ¬ i < n + 1 := by omega
        have h4 : 1 ≤ i - n := by omega
        have h5 : x % 2 < 2 ^ (i - n) := by
          calc x % 2 < 2 ^ 1 := Nat.mod_lt _ (by decide)
            _ ≤ 2 ^ (i - n) := Nat.pow_le_pow_right (by decide) h4
        simp [h3, Nat.testBit_lt_two_pow h5]

theorem brev_eq {w : Nat} (x : BitVec w) : brev x = x.reverse := by
  apply BitVec.eq_of_getLsbD_eq
  intro i hi
  unfold brev
  rw [BitVec.getLsbD_ofNat, testBit_brevNat, BitVec.getLsbD_reverse, BitVec.getMsbD_eq_getLsbD]
  simp [hi, ← BitVec.testBit_toNat]

/-! ### One bits -/

theorem popNat_succ : ∀ n x, popNat (n + 1) x = popNat n x + (x.testBit n).toNat
  | 0, x => by
    simp only [popNat, Nat.testBit_zero]
    rcases Nat.mod_two_eq_zero_or_one x with h | h <;> simp [h]
  | n + 1, x => by
    have h := popNat_succ n (x / 2)
    rw [popNat, h, popNat]
    simp only [Nat.testBit_succ]
    omega

theorem cpopNatRec_popNat {w : Nat} (x : BitVec w) : ∀ n acc, x.cpopNatRec n acc = acc + popNat n x.toNat
  | 0, acc => by simp [popNat]
  | n + 1, acc => by
    rw [BitVec.cpopNatRec_succ, cpopNatRec_popNat x n, popNat_succ, ← BitVec.testBit_toNat]
    omega

theorem popc_eq {w : Nat} (x : BitVec w) : popc x = x.cpop := by
  unfold popc BitVec.cpop
  rw [cpopNatRec_popNat, Nat.zero_add]

/-! ### Leading zeros -/

theorem clz_eq {w : Nat} (hw : 0 < w) (x : BitVec w) : clz x = x.clz := by
  have hcw : x.clz.toNat ≤ w := Nat.le_trans (BitVec.le_def.mp BitVec.clz_le) (Nat.le_of_eq (BitVec.toNat_ofNat w w ▸ Nat.mod_eq_of_lt Nat.lt_two_pow_self))
  by_cases hx : x = 0
  · subst hx
    have h := (BitVec.clz_eq_iff_eq_zero (x := (0 : BitVec w))).2 rfl
    rw [h]
    simp [clz, clzNat]
  · have h1 := BitVec.two_pow_sub_clz_le_toNat_of_ne_zero hw (x := x) hx
    have h2 := BitVec.toNat_lt_two_pow_sub_clz (x := x)
    have h0 : x.toNat ≠ 0 := fun h => hx (BitVec.eq_of_toNat_eq (by simpa using h))
    have hc : x.clz.toNat < w := by
      rcases Nat.lt_or_ge x.clz.toNat w with h | h
      · exact h
      · rw [Nat.sub_eq_zero_of_le h] at h2
        omega
    have hl : Nat.log2 x.toNat = w - 1 - x.clz.toNat := by
      rw [Nat.log2_eq_iff h0]
      exact ⟨h1, by rw [show w - 1 - x.clz.toNat + 1 = w - x.clz.toNat by omega]; exact h2⟩
    apply BitVec.eq_of_toNat_eq
    unfold clz clzNat
    rw [if_neg h0, hl, show w - 1 - (w - 1 - x.clz.toNat) = x.clz.toNat by omega]
    simp

/-! ### Trailing zeros -/

theorem ctzNat_le : ∀ n x, ctzNat n x ≤ n
  | 0, _ => Nat.le_refl 0
  | n + 1, x => by
    unfold ctzNat
    have := ctzNat_le n (x / 2)
    split <;> omega

/-- The bits below the count are clear, and below `n` the bit at it is set. -/
theorem ctzNat_bits : ∀ n x, (∀ i, i < ctzNat n x → x.testBit i = false) ∧ (ctzNat n x < n → x.testBit (ctzNat n x) = true)
  | 0, _ => ⟨fun _ h => absurd h (Nat.not_lt_zero _), fun h => absurd h (Nat.lt_irrefl _)⟩
  | n + 1, x => by
    obtain ⟨a, b⟩ := ctzNat_bits n (x / 2)
    unfold ctzNat
    split
    · next h => exact ⟨fun i hi => absurd hi (Nat.not_lt_zero _), fun _ => by simp [Nat.testBit_zero, h]⟩
    · next h =>
      refine ⟨fun i hi => ?_, fun hlt => ?_⟩
      · cases i with
        | zero => simp [Nat.testBit_zero, h]
        | succ i => rw [Nat.testBit_succ]; exact a i (by omega)
      · rw [Nat.add_comm, Nat.testBit_succ]
        exact b (by omega)

theorem ctz_eq {w : Nat} (x : BitVec w) : ctz x = x.ctz := by
  obtain ⟨a, b⟩ := ctzNat_bits w x.toNat
  have hle := ctzNat_le w x.toNat
  have hlt : ctzNat w x.toNat < 2 ^ w := Nat.lt_of_le_of_lt hle Nat.lt_two_pow_self
  apply BitVec.eq_of_toNat_eq
  unfold ctz
  rw [BitVec.toNat_ofNat, Nat.mod_eq_of_lt hlt]
  by_cases hx : x = 0
  · subst hx
    have h1 : ¬ ctzNat w (0 : BitVec w).toNat < w := fun h => by simpa using b h
    have h2 : (0 : BitVec w).ctz = BitVec.ofNat w w := by
      have hr : (0 : BitVec w).reverse = 0 := by
        apply BitVec.eq_of_getLsbD_eq
        intro i hi
        simp [BitVec.getLsbD_reverse]
      rw [BitVec.ctz_eq_reverse_clz, hr]
      exact (BitVec.clz_eq_iff_eq_zero (x := (0 : BitVec w))).2 rfl
    rw [h2, BitVec.toNat_ofNat, Nat.mod_eq_of_lt Nat.lt_two_pow_self]
    omega
  · have ht := BitVec.getLsbD_true_ctz_of_ne_zero hx
    rcases Nat.lt_trichotomy (ctzNat w x.toNat) x.ctz.toNat with h | h | h
    · have hn := BitVec.getLsbD_false_of_lt_ctz h
      have hxw : x.ctz.toNat < w := by
        by_contra hc
        rw [BitVec.getLsbD_of_ge x _ (by omega)] at ht
        cases ht
      have := b (by omega)
      rw [BitVec.testBit_toNat, hn] at this
      cases this
    · exact h
    · have := a _ h
      rw [BitVec.testBit_toNat, ht] at this
      cases this

/-! ### High halves of products -/

theorem mulhn_eq {w : Nat} (x y : BitVec w) : mulhn x y = (x.setWidth (w + w) * y.setWidth (w + w)).extractLsb' w w := by
  apply BitVec.eq_of_toNat_eq
  have hx := x.isLt
  have hy := y.isLt
  have h2 : (2 : Nat) ^ (w + w) = 2 ^ w * 2 ^ w := Nat.pow_add 2 w w
  have hp : x.toNat * y.toNat < 2 ^ (w + w) := by rw [h2]; exact Nat.mul_lt_mul'' hx hy
  have hw : (2 : Nat) ^ w ≤ 2 ^ (w + w) := Nat.pow_le_pow_right (by decide) (by omega)
  simp only [mulhn, BitVec.toNat_ofNat, BitVec.extractLsb'_toNat, BitVec.toNat_mul, BitVec.toNat_setWidth, Nat.shiftRight_eq_div_pow]
  rw [Nat.mod_eq_of_lt (Nat.lt_of_lt_of_le hx hw), Nat.mod_eq_of_lt (Nat.lt_of_lt_of_le hy hw), Nat.mod_eq_of_lt hp]

theorem mulh_eq {w : Nat} (hw : 0 < w) (x y : BitVec w) : mulh x y = (x.signExtend (w + w) * y.signExtend (w + w)).extractLsb' w w := by
  have hx1 := BitVec.two_mul_toInt_lt (x := x)
  have hx2 := BitVec.le_two_mul_toInt (x := x)
  have hy1 := BitVec.two_mul_toInt_lt (x := y)
  have hy2 := BitVec.le_two_mul_toInt (x := y)
  set P : Int := x.toInt * y.toInt with hP
  have e : (x.signExtend (w + w) * y.signExtend (w + w)) = BitVec.ofInt (w + w) P := by
    apply BitVec.eq_of_toInt_eq
    rw [BitVec.toInt_mul, BitVec.toInt_signExtend_of_le (by omega), BitVec.toInt_signExtend_of_le (by omega), BitVec.toInt_ofInt]
  rw [e]
  apply BitVec.eq_of_toNat_eq
  simp only [mulh, BitVec.extractLsb'_toNat, BitVec.toNat_ofInt, Nat.shiftRight_eq_div_pow]
  have h2 : ((2 ^ (w + w) : Nat) : Int) = ((2 ^ w : Nat) : Int) * ((2 ^ w : Nat) : Int) := by rw [Nat.pow_add]; push_cast; ring
  have hpos : (0 : Int) < ((2 ^ w : Nat) : Int) := by positivity
  have hcast : ((2 : Int) ^ w) = ((2 ^ w : Nat) : Int) := by push_cast; rfl
  rw [hcast, h2]
  have hm := Int.emod_nonneg P (show (((2 ^ w : Nat) : Int) * ((2 ^ w : Nat) : Int)) ≠ 0 by positivity)
  have key : (P / ((2 ^ w : Nat) : Int)) % ((2 ^ w : Nat) : Int) = P % (((2 ^ w : Nat) : Int) * ((2 ^ w : Nat) : Int)) / ((2 ^ w : Nat) : Int) := by
    set M : Int := ((2 ^ w : Nat) : Int)
    rw [Int.emod_def P (M * M)]
    have : P - M * M * (P / (M * M)) = P + M * (-(M * (P / (M * M)))) := by ring
    rw [this, Int.add_mul_ediv_left _ _ (by omega), Int.emod_def]
    rw [Int.ediv_ediv_of_nonneg (by omega)]
    ring
  rw [key]
  generalize hM : (2 : Nat) ^ w = M at *
  obtain ⟨q, hq⟩ := Int.eq_ofNat_of_zero_le hm
  have hlt : q < M * M := by
    have := Int.emod_lt_of_pos P (show (0 : Int) < (M : Int) * (M : Int) by positivity)
    rw [hq] at this
    exact_mod_cast this
  rw [hq, Int.toNat_natCast, ← Int.natCast_ediv, Int.toNat_natCast, Nat.mod_eq_of_lt (Nat.div_lt_of_lt_mul hlt)]

end Sys2Proof.Machine
end

