-- ==== Sys2Proof/Laws/Decode.lean ====
section
/-!
SUPPORT. The fields of the word formats of R34 read back, and the decoder's choice of a major's table: what the round trip of every
instruction (Laws/PerInstr.lean) rests on.
-/

namespace Sys2Proof

theorem sreg_toNat (r : SReg) : sreg r.toNat = .ok r := by
  have := r.isLt
  simp [sreg, this]
theorem kreg_toNat (r : KReg) : kreg r.toNat = .ok r := by
  have := r.isLt
  simp [kreg, this]
theorem ofNat_of_toNat {n : Nat} (v : BitVec n) : BitVec.ofNat n v.toNat = v := by simp
theorem sreg_lt (r : SReg) : r.toNat < 128 := by have := r.isLt; omega
theorem vreg_lt (r : VReg) : r.toNat < 128 := r.isLt
theorem kreg_lt (r : KReg) : r.toNat < 128 := by have := r.isLt; omega

theorem FCond.ofCode_toCode (c : FCond) : FCond.ofCode c.toCode = .ok c := by cases c <;> rfl
theorem FCond.toCode_lt (c : FCond) : c.toCode < 16 := by cases c <;> decide
theorem ICond.ofCode_toCode (c : ICond) : ICond.ofCode c.toCode = .ok c := by cases c <;> rfl
theorem ICond.toCode_lt (c : ICond) : c.toCode < 16 := by cases c <;> decide
theorem BrCond.ofCode_toCode (c : BrCond) : BrCond.ofCode c.toCode = .ok c := by cases c <;> rfl
theorem BrCond.toCode_lt (c : BrCond) : c.toCode < 16 := by cases c <;> decide
theorem CvtCode.ofCode_toCode (c : CvtCode) : CvtCode.ofCode c.toCode = .ok c := by cases c <;> rfl
theorem CvtCode.toCode_lt (c : CvtCode) : c.toCode < 16 := by cases c <;> decide
theorem RedOp.ofCode_toCode (c : RedOp) : RedOp.ofCode c.toCode = .ok c := by cases c <;> rfl
theorem RedOp.toCode_lt (c : RedOp) : c.toCode < 16 := by cases c <;> decide
theorem AmoaOp.ofCode_toCode (c : AmoaOp) : AmoaOp.ofCode c.toCode = .ok c := by cases c <;> rfl
theorem AmoaOp.toCode_lt (c : AmoaOp) : c.toCode < 16 := by cases c <;> decide
theorem AmolOp.ofCode_toCode (c : AmolOp) : AmolOp.ofCode c.toCode = .ok c := by cases c <;> rfl
theorem AmolOp.toCode_lt (c : AmolOp) : c.toCode < 16 := by cases c <;> decide
theorem WaitCond.ofCode_toCode (c : WaitCond) : WaitCond.ofCode c.toCode = .ok c := by cases c <;> rfl
theorem WaitCond.toCode_lt (c : WaitCond) : c.toCode < 4 := by cases c <;> decide
theorem CopySize.ofCode_toCode (c : CopySize) : CopySize.ofCode c.toCode = .ok c := by cases c <;> rfl
theorem CopySize.toCode_lt (c : CopySize) : c.toCode < 4 := by cases c <;> decide
theorem CopyrOp.ofCode_toCode (c : CopyrOp) : CopyrOp.ofCode c.toCode = .ok c := by cases c <;> rfl
theorem CopyrOp.toCode_lt (c : CopyrOp) : c.toCode < 16 := by cases c <;> decide
theorem OrdScope.ofCode_toCode (c : OrdScope) : OrdScope.ofCode c.toCode = .ok c := by cases c <;> rfl
theorem OrdScope.toCode_lt (c : OrdScope) : c.toCode < 4 := by cases c <;> decide
theorem OrdOrder.ofCode_toCode (c : OrdOrder) : OrdOrder.ofCode c.toCode = .ok c := by cases c <;> rfl
theorem OrdOrder.toCode_lt (c : OrdOrder) : c.toCode < 4 := by cases c <;> decide

theorem encA_lt (maj fn d a b : Nat) (h0 : maj < 128) (h1 : fn < 16) (h2 : d < 128) (h3 : a < 128) (h4 : b < 128) :
    encA maj fn d a b < 2 ^ 32 := by unfold encA; omega
theorem encA_maj (maj fn d a b : Nat) (h0 : maj < 128) (h1 : fn < 16) (h2 : d < 128) (h3 : a < 128) (h4 : b < 128) :
    bitsOf (encA maj fn d a b) 31 25 = maj := by unfold bitsOf encA; norm_num; omega
theorem encA_fn (maj fn d a b : Nat) (h1 : fn < 16) (h2 : d < 128) (h3 : a < 128) (h4 : b < 128) :
    bitsOf (encA maj fn d a b) 24 21 = fn := by unfold bitsOf encA; norm_num; omega
theorem encA_d (maj fn d a b : Nat) (h2 : d < 128) (h3 : a < 128) (h4 : b < 128) :
    bitsOf (encA maj fn d a b) 20 14 = d := by unfold bitsOf encA; norm_num; omega
theorem encA_a (maj fn d a b : Nat) (h3 : a < 128) (h4 : b < 128) :
    bitsOf (encA maj fn d a b) 13 7 = a := by unfold bitsOf encA; norm_num; omega
theorem encA_b (maj fn d a b : Nat) (h4 : b < 128) :
    bitsOf (encA maj fn d a b) 6 0 = b := by unfold bitsOf encA; norm_num; omega
/-- The fields of format A, read back. -/
theorem encA_fields (maj fn d a b : Nat) (h0 : maj < 128) (h1 : fn < 16) (h2 : d < 128) (h3 : a < 128) (h4 : b < 128) :
    encA maj fn d a b < 2 ^ 32 ∧ bitsOf (encA maj fn d a b) 31 25 = maj ∧ bitsOf (encA maj fn d a b) 24 21 = fn ∧ bitsOf (encA maj fn d a b) 20 14 = d ∧ bitsOf (encA maj fn d a b) 13 7 = a ∧ bitsOf (encA maj fn d a b) 6 0 = b :=
  ⟨encA_lt maj fn d a b h0 h1 h2 h3 h4, encA_maj maj fn d a b h0 h1 h2 h3 h4, encA_fn maj fn d a b h1 h2 h3 h4, encA_d maj fn d a b h2 h3 h4, encA_a maj fn d a b h3 h4, encA_b maj fn d a b h4⟩
theorem encB_lt (maj d a imm : Nat) (h0 : maj < 128) (h1 : d < 128) (h2 : a < 128) (h3 : imm < 2048) :
    encB maj d a imm < 2 ^ 32 := by unfold encB; omega
theorem encB_maj (maj d a imm : Nat) (h0 : maj < 128) (h1 : d < 128) (h2 : a < 128) (h3 : imm < 2048) :
    bitsOf (encB maj d a imm) 31 25 = maj := by unfold bitsOf encB; norm_num; omega
theorem encB_d (maj d a imm : Nat) (h1 : d < 128) (h2 : a < 128) (h3 : imm < 2048) :
    bitsOf (encB maj d a imm) 24 18 = d := by unfold bitsOf encB; norm_num; omega
theorem encB_a (maj d a imm : Nat) (h2 : a < 128) (h3 : imm < 2048) :
    bitsOf (encB maj d a imm) 17 11 = a := by unfold bitsOf encB; norm_num; omega
theorem encB_imm (maj d a imm : Nat) (h3 : imm < 2048) :
    bitsOf (encB maj d a imm) 10 0 = imm := by unfold bitsOf encB; norm_num; omega
/-- The fields of format B, read back. -/
theorem encB_fields (maj d a imm : Nat) (h0 : maj < 128) (h1 : d < 128) (h2 : a < 128) (h3 : imm < 2048) :
    encB maj d a imm < 2 ^ 32 ∧ bitsOf (encB maj d a imm) 31 25 = maj ∧ bitsOf (encB maj d a imm) 24 18 = d ∧ bitsOf (encB maj d a imm) 17 11 = a ∧ bitsOf (encB maj d a imm) 10 0 = imm :=
  ⟨encB_lt maj d a imm h0 h1 h2 h3, encB_maj maj d a imm h0 h1 h2 h3, encB_d maj d a imm h1 h2 h3, encB_a maj d a imm h2 h3, encB_imm maj d a imm h3⟩
theorem encC_lt (maj d imm : Nat) (h0 : maj < 128) (h1 : d < 128) (h2 : imm < 262144) :
    encC maj d imm < 2 ^ 32 := by unfold encC; omega
theorem encC_maj (maj d imm : Nat) (h0 : maj < 128) (h1 : d < 128) (h2 : imm < 262144) :
    bitsOf (encC maj d imm) 31 25 = maj := by unfold bitsOf encC; norm_num; omega
theorem encC_d (maj d imm : Nat) (h1 : d < 128) (h2 : imm < 262144) :
    bitsOf (encC maj d imm) 24 18 = d := by unfold bitsOf encC; norm_num; omega
theorem encC_imm (maj d imm : Nat) (h2 : imm < 262144) :
    bitsOf (encC maj d imm) 17 0 = imm := by unfold bitsOf encC; norm_num; omega
/-- The fields of format C, read back. -/
theorem encC_fields (maj d imm : Nat) (h0 : maj < 128) (h1 : d < 128) (h2 : imm < 262144) :
    encC maj d imm < 2 ^ 32 ∧ bitsOf (encC maj d imm) 31 25 = maj ∧ bitsOf (encC maj d imm) 24 18 = d ∧ bitsOf (encC maj d imm) 17 0 = imm :=
  ⟨encC_lt maj d imm h0 h1 h2, encC_maj maj d imm h0 h1 h2, encC_d maj d imm h1 h2, encC_imm maj d imm h2⟩
theorem encD_lt (maj cond a imm : Nat) (h0 : maj < 128) (h1 : cond < 16) (h2 : a < 128) (h3 : imm < 16384) :
    encD maj cond a imm < 2 ^ 32 := by unfold encD; omega
theorem encD_maj (maj cond a imm : Nat) (h0 : maj < 128) (h1 : cond < 16) (h2 : a < 128) (h3 : imm < 16384) :
    bitsOf (encD maj cond a imm) 31 25 = maj := by unfold bitsOf encD; norm_num; omega
theorem encD_cond (maj cond a imm : Nat) (h1 : cond < 16) (h2 : a < 128) (h3 : imm < 16384) :
    bitsOf (encD maj cond a imm) 24 21 = cond := by unfold bitsOf encD; norm_num; omega
theorem encD_a (maj cond a imm : Nat) (h2 : a < 128) (h3 : imm < 16384) :
    bitsOf (encD maj cond a imm) 20 14 = a := by unfold bitsOf encD; norm_num; omega
theorem encD_imm (maj cond a imm : Nat) (h3 : imm < 16384) :
    bitsOf (encD maj cond a imm) 13 0 = imm := by unfold bitsOf encD; norm_num; omega
/-- The fields of format D, read back. -/
theorem encD_fields (maj cond a imm : Nat) (h0 : maj < 128) (h1 : cond < 16) (h2 : a < 128) (h3 : imm < 16384) :
    encD maj cond a imm < 2 ^ 32 ∧ bitsOf (encD maj cond a imm) 31 25 = maj ∧ bitsOf (encD maj cond a imm) 24 21 = cond ∧ bitsOf (encD maj cond a imm) 20 14 = a ∧ bitsOf (encD maj cond a imm) 13 0 = imm :=
  ⟨encD_lt maj cond a imm h0 h1 h2 h3, encD_maj maj cond a imm h0 h1 h2 h3, encD_cond maj cond a imm h1 h2 h3, encD_a maj cond a imm h2 h3, encD_imm maj cond a imm h3⟩
theorem encE_lt (maj imm : Nat) (h0 : maj < 128) (h1 : imm < 33554432) :
    encE maj imm < 2 ^ 32 := by unfold encE; omega
theorem encE_maj (maj imm : Nat) (h0 : maj < 128) (h1 : imm < 33554432) :
    bitsOf (encE maj imm) 31 25 = maj := by unfold bitsOf encE; norm_num; omega
theorem encE_imm (maj imm : Nat) (h1 : imm < 33554432) :
    bitsOf (encE maj imm) 24 0 = imm := by unfold bitsOf encE; norm_num; omega
/-- The fields of format E, read back. -/
theorem encE_fields (maj imm : Nat) (h0 : maj < 128) (h1 : imm < 33554432) :
    encE maj imm < 2 ^ 32 ∧ bitsOf (encE maj imm) 31 25 = maj ∧ bitsOf (encE maj imm) 24 0 = imm :=
  ⟨encE_lt maj imm h0 h1, encE_maj maj imm h0 h1, encE_imm maj imm h1⟩
theorem encMS_lt (maj d sa nd imm : Nat) (h0 : maj < 128) (h1 : d < 128) (h2 : sa < 64) (h3 : nd < 16) (h4 : imm < 256) :
    encMS maj d sa nd imm < 2 ^ 32 := by unfold encMS; omega
theorem encMS_maj (maj d sa nd imm : Nat) (h0 : maj < 128) (h1 : d < 128) (h2 : sa < 64) (h3 : nd < 16) (h4 : imm < 256) :
    bitsOf (encMS maj d sa nd imm) 31 25 = maj := by unfold bitsOf encMS; norm_num; omega
theorem encMS_d (maj d sa nd imm : Nat) (h1 : d < 128) (h2 : sa < 64) (h3 : nd < 16) (h4 : imm < 256) :
    bitsOf (encMS maj d sa nd imm) 24 18 = d := by unfold bitsOf encMS; norm_num; omega
theorem encMS_sa (maj d sa nd imm : Nat) (h2 : sa < 64) (h3 : nd < 16) (h4 : imm < 256) :
    bitsOf (encMS maj d sa nd imm) 17 12 = sa := by unfold bitsOf encMS; norm_num; omega
theorem encMS_nd (maj d sa nd imm : Nat) (h3 : nd < 16) (h4 : imm < 256) :
    bitsOf (encMS maj d sa nd imm) 11 8 = nd := by unfold bitsOf encMS; norm_num; omega
theorem encMS_imm (maj d sa nd imm : Nat) (h4 : imm < 256) :
    bitsOf (encMS maj d sa nd imm) 7 0 = imm := by unfold bitsOf encMS; norm_num; omega
/-- The fields of format MS, read back. -/
theorem encMS_fields (maj d sa nd imm : Nat) (h0 : maj < 128) (h1 : d < 128) (h2 : sa < 64) (h3 : nd < 16) (h4 : imm < 256) :
    encMS maj d sa nd imm < 2 ^ 32 ∧ bitsOf (encMS maj d sa nd imm) 31 25 = maj ∧ bitsOf (encMS maj d sa nd imm) 24 18 = d ∧ bitsOf (encMS maj d sa nd imm) 17 12 = sa ∧ bitsOf (encMS maj d sa nd imm) 11 8 = nd ∧ bitsOf (encMS maj d sa nd imm) 7 0 = imm :=
  ⟨encMS_lt maj d sa nd imm h0 h1 h2 h3 h4, encMS_maj maj d sa nd imm h0 h1 h2 h3 h4, encMS_d maj d sa nd imm h1 h2 h3 h4, encMS_sa maj d sa nd imm h2 h3 h4, encMS_nd maj d sa nd imm h3 h4, encMS_imm maj d sa nd imm h4⟩
theorem encM_lt (maj d sa b nd sc : Nat) (h0 : maj < 128) (h1 : d < 128) (h2 : sa < 64) (h3 : b < 128) (h4 : nd < 16) (h5 : sc < 2) :
    encM maj d sa b nd sc < 2 ^ 32 := by unfold encM; omega
theorem encM_maj (maj d sa b nd sc : Nat) (h0 : maj < 128) (h1 : d < 128) (h2 : sa < 64) (h3 : b < 128) (h4 : nd < 16) (h5 : sc < 2) :
    bitsOf (encM maj d sa b nd sc) 31 25 = maj := by unfold bitsOf encM; norm_num; omega
theorem encM_d (maj d sa b nd sc : Nat) (h1 : d < 128) (h2 : sa < 64) (h3 : b < 128) (h4 : nd < 16) (h5 : sc < 2) :
    bitsOf (encM maj d sa b nd sc) 24 18 = d := by unfold bitsOf encM; norm_num; omega
theorem encM_sa (maj d sa b nd sc : Nat) (h2 : sa < 64) (h3 : b < 128) (h4 : nd < 16) (h5 : sc < 2) :
    bitsOf (encM maj d sa b nd sc) 17 12 = sa := by unfold bitsOf encM; norm_num; omega
theorem encM_b (maj d sa b nd sc : Nat) (h3 : b < 128) (h4 : nd < 16) (h5 : sc < 2) :
    bitsOf (encM maj d sa b nd sc) 11 5 = b := by unfold bitsOf encM; norm_num; omega
theorem encM_nd (maj d sa b nd sc : Nat) (h4 : nd < 16) (h5 : sc < 2) :
    bitsOf (encM maj d sa b nd sc) 4 1 = nd := by unfold bitsOf encM; norm_num; omega
theorem encM_sc (maj d sa b nd sc : Nat) (h5 : sc < 2) :
    bitsOf (encM maj d sa b nd sc) 0 0 = sc := by unfold bitsOf encM; norm_num; omega
/-- The fields of format M, read back. -/
theorem encM_fields (maj d sa b nd sc : Nat) (h0 : maj < 128) (h1 : d < 128) (h2 : sa < 64) (h3 : b < 128) (h4 : nd < 16) (h5 : sc < 2) :
    encM maj d sa b nd sc < 2 ^ 32 ∧ bitsOf (encM maj d sa b nd sc) 31 25 = maj ∧ bitsOf (encM maj d sa b nd sc) 24 18 = d ∧ bitsOf (encM maj d sa b nd sc) 17 12 = sa ∧ bitsOf (encM maj d sa b nd sc) 11 5 = b ∧ bitsOf (encM maj d sa b nd sc) 4 1 = nd ∧ bitsOf (encM maj d sa b nd sc) 0 0 = sc :=
  ⟨encM_lt maj d sa b nd sc h0 h1 h2 h3 h4 h5, encM_maj maj d sa b nd sc h0 h1 h2 h3 h4 h5, encM_d maj d sa b nd sc h1 h2 h3 h4 h5, encM_sa maj d sa b nd sc h2 h3 h4 h5, encM_b maj d sa b nd sc h3 h4 h5, encM_nd maj d sa b nd sc h4 h5, encM_sc maj d sa b nd sc h5⟩
theorem encAM_lt (maj fn d b sa ret : Nat) (h0 : maj < 128) (h1 : fn < 16) (h2 : d < 128) (h3 : b < 128) (h4 : sa < 64) (h5 : ret < 2) :
    encAM maj fn d b sa ret < 2 ^ 32 := by unfold encAM; omega
theorem encAM_maj (maj fn d b sa ret : Nat) (h0 : maj < 128) (h1 : fn < 16) (h2 : d < 128) (h3 : b < 128) (h4 : sa < 64) (h5 : ret < 2) :
    bitsOf (encAM maj fn d b sa ret) 31 25 = maj := by unfold bitsOf encAM; norm_num; omega
theorem encAM_fn (maj fn d b sa ret : Nat) (h1 : fn < 16) (h2 : d < 128) (h3 : b < 128) (h4 : sa < 64) (h5 : ret < 2) :
    bitsOf (encAM maj fn d b sa ret) 24 21 = fn := by unfold bitsOf encAM; norm_num; omega
theorem encAM_d (maj fn d b sa ret : Nat) (h2 : d < 128) (h3 : b < 128) (h4 : sa < 64) (h5 : ret < 2) :
    bitsOf (encAM maj fn d b sa ret) 20 14 = d := by unfold bitsOf encAM; norm_num; omega
theorem encAM_b (maj fn d b sa ret : Nat) (h3 : b < 128) (h4 : sa < 64) (h5 : ret < 2) :
    bitsOf (encAM maj fn d b sa ret) 13 7 = b := by unfold bitsOf encAM; norm_num; omega
theorem encAM_sa (maj fn d b sa ret : Nat) (h4 : sa < 64) (h5 : ret < 2) :
    bitsOf (encAM maj fn d b sa ret) 6 1 = sa := by unfold bitsOf encAM; norm_num; omega
theorem encAM_ret (maj fn d b sa ret : Nat) (h5 : ret < 2) :
    bitsOf (encAM maj fn d b sa ret) 0 0 = ret := by unfold bitsOf encAM; norm_num; omega
/-- The fields of format AM, read back. -/
theorem encAM_fields (maj fn d b sa ret : Nat) (h0 : maj < 128) (h1 : fn < 16) (h2 : d < 128) (h3 : b < 128) (h4 : sa < 64) (h5 : ret < 2) :
    encAM maj fn d b sa ret < 2 ^ 32 ∧ bitsOf (encAM maj fn d b sa ret) 31 25 = maj ∧ bitsOf (encAM maj fn d b sa ret) 24 21 = fn ∧ bitsOf (encAM maj fn d b sa ret) 20 14 = d ∧ bitsOf (encAM maj fn d b sa ret) 13 7 = b ∧ bitsOf (encAM maj fn d b sa ret) 6 1 = sa ∧ bitsOf (encAM maj fn d b sa ret) 0 0 = ret :=
  ⟨encAM_lt maj fn d b sa ret h0 h1 h2 h3 h4 h5, encAM_maj maj fn d b sa ret h0 h1 h2 h3 h4 h5, encAM_fn maj fn d b sa ret h1 h2 h3 h4 h5, encAM_d maj fn d b sa ret h2 h3 h4 h5, encAM_b maj fn d b sa ret h3 h4 h5, encAM_sa maj fn d b sa ret h4 h5, encAM_ret maj fn d b sa ret h5⟩
theorem encP_lt (maj payload : Nat) (h0 : maj < 128) (h1 : payload < 33554432) :
    encP maj payload < 2 ^ 32 := by unfold encP; omega
theorem encP_maj (maj payload : Nat) (h0 : maj < 128) (h1 : payload < 33554432) :
    bitsOf (encP maj payload) 31 25 = maj := by unfold bitsOf encP; norm_num; omega
theorem encP_payload (maj payload : Nat) (h1 : payload < 33554432) :
    bitsOf (encP maj payload) 24 0 = payload := by unfold bitsOf encP; norm_num; omega
/-- The fields of format P, read back. -/
theorem encP_fields (maj payload : Nat) (h0 : maj < 128) (h1 : payload < 33554432) :
    encP maj payload < 2 ^ 32 ∧ bitsOf (encP maj payload) 31 25 = maj ∧ bitsOf (encP maj payload) 24 0 = payload :=
  ⟨encP_lt maj payload h0 h1, encP_maj maj payload h0 h1, encP_payload maj payload h1⟩
/-- The fields of a micro-op word, read back. -/
theorem encMicro_fields (op a b d : Nat) (h0 : op < 32) (h1 : a < 512) (h2 : b < 512) (h3 : d < 512) :
    encMicro op a b d < 2 ^ 32 ∧ bitsOf (encMicro op a b d) 31 27 = op ∧ bitsOf (encMicro op a b d) 26 18 = a ∧
      bitsOf (encMicro op a b d) 17 9 = b ∧ bitsOf (encMicro op a b d) 8 0 = d := by
  refine ⟨?_, ?_, ?_, ?_, ?_⟩
  · unfold encMicro; omega
  all_goals (unfold bitsOf encMicro; norm_num; omega)
theorem decodeFields_01 (w : Nat) (h : bitsOf w 31 25 = 0x01) : decodeFields w = decode01 w := by unfold decodeFields; rw [h]; rfl
theorem decodeFields_02 (w : Nat) (h : bitsOf w 31 25 = 0x02) : decodeFields w = decode02 w := by unfold decodeFields; rw [h]; rfl
theorem decodeFields_03 (w : Nat) (h : bitsOf w 31 25 = 0x03) : decodeFields w = decode03 w := by unfold decodeFields; rw [h]; rfl
theorem decodeFields_04 (w : Nat) (h : bitsOf w 31 25 = 0x04) : decodeFields w = decode04 w := by unfold decodeFields; rw [h]; rfl
theorem decodeFields_05 (w : Nat) (h : bitsOf w 31 25 = 0x05) : decodeFields w = decode05 w := by unfold decodeFields; rw [h]; rfl
theorem decodeFields_06 (w : Nat) (h : bitsOf w 31 25 = 0x06) : decodeFields w = decode06 w := by unfold decodeFields; rw [h]; rfl
theorem decodeFields_07 (w : Nat) (h : bitsOf w 31 25 = 0x07) : decodeFields w = decode07 w := by unfold decodeFields; rw [h]; rfl
theorem decodeFields_08 (w : Nat) (h : bitsOf w 31 25 = 0x08) : decodeFields w = decode08 w := by unfold decodeFields; rw [h]; rfl
theorem decodeFields_09 (w : Nat) (h : bitsOf w 31 25 = 0x09) : decodeFields w = decode09 w := by unfold decodeFields; rw [h]; rfl
theorem decodeFields_0A (w : Nat) (h : bitsOf w 31 25 = 0x0A) : decodeFields w = decode0A w := by unfold decodeFields; rw [h]; rfl
theorem decodeFields_0B (w : Nat) (h : bitsOf w 31 25 = 0x0B) : decodeFields w = decode0B w := by unfold decodeFields; rw [h]; rfl
theorem decodeFields_0C (w : Nat) (h : bitsOf w 31 25 = 0x0C) : decodeFields w = decode0C w := by unfold decodeFields; rw [h]; rfl
theorem decodeFields_0D (w : Nat) (h : bitsOf w 31 25 = 0x0D) : decodeFields w = decode0D w := by unfold decodeFields; rw [h]; rfl
theorem decodeFields_0E (w : Nat) (h : bitsOf w 31 25 = 0x0E) : decodeFields w = decode0E w := by unfold decodeFields; rw [h]; rfl
theorem decodeFields_0F (w : Nat) (h : bitsOf w 31 25 = 0x0F) : decodeFields w = decode0F w := by unfold decodeFields; rw [h]; rfl
theorem decodeFields_10 (w : Nat) (h : bitsOf w 31 25 = 0x10) : decodeFields w = decode10 w := by unfold decodeFields; rw [h]; rfl
theorem decodeFields_11 (w : Nat) (h : bitsOf w 31 25 = 0x11) : decodeFields w = decode11 w := by unfold decodeFields; rw [h]; rfl
theorem decodeFields_12 (w : Nat) (h : bitsOf w 31 25 = 0x12) : decodeFields w = decode12 w := by unfold decodeFields; rw [h]; rfl
theorem decodeFields_13 (w : Nat) (h : bitsOf w 31 25 = 0x13) : decodeFields w = decode13 w := by unfold decodeFields; rw [h]; rfl
theorem decodeFields_14 (w : Nat) (h : bitsOf w 31 25 = 0x14) : decodeFields w = decode14 w := by unfold decodeFields; rw [h]; rfl
theorem decodeFields_15 (w : Nat) (h : bitsOf w 31 25 = 0x15) : decodeFields w = decode15 w := by unfold decodeFields; rw [h]; rfl
theorem decodeFields_16 (w : Nat) (h : bitsOf w 31 25 = 0x16) : decodeFields w = decode16 w := by unfold decodeFields; rw [h]; rfl
theorem decodeFields_17 (w : Nat) (h : bitsOf w 31 25 = 0x17) : decodeFields w = decode17 w := by unfold decodeFields; rw [h]; rfl
theorem decodeFields_18 (w : Nat) (h : bitsOf w 31 25 = 0x18) : decodeFields w = decode18 w := by unfold decodeFields; rw [h]; rfl
theorem decodeFields_19 (w : Nat) (h : bitsOf w 31 25 = 0x19) : decodeFields w = decode19 w := by unfold decodeFields; rw [h]; rfl
theorem decodeFields_1A (w : Nat) (h : bitsOf w 31 25 = 0x1A) : decodeFields w = decode1A w := by unfold decodeFields; rw [h]; rfl
theorem decodeFields_1B (w : Nat) (h : bitsOf w 31 25 = 0x1B) : decodeFields w = decode1B w := by unfold decodeFields; rw [h]; rfl
theorem decodeFields_1C (w : Nat) (h : bitsOf w 31 25 = 0x1C) : decodeFields w = decode1C w := by unfold decodeFields; rw [h]; rfl
theorem decodeFields_1D (w : Nat) (h : bitsOf w 31 25 = 0x1D) : decodeFields w = decode1D w := by unfold decodeFields; rw [h]; rfl
theorem decodeFields_1E (w : Nat) (h : bitsOf w 31 25 = 0x1E) : decodeFields w = decode1E w := by unfold decodeFields; rw [h]; rfl
theorem decodeFields_1F (w : Nat) (h : bitsOf w 31 25 = 0x1F) : decodeFields w = decode1F w := by unfold decodeFields; rw [h]; rfl
theorem decodeFields_20 (w : Nat) (h : bitsOf w 31 25 = 0x20) : decodeFields w = decode20 w := by unfold decodeFields; rw [h]; rfl
theorem decodeFields_21 (w : Nat) (h : bitsOf w 31 25 = 0x21) : decodeFields w = decode21 w := by unfold decodeFields; rw [h]; rfl
theorem decodeFields_22 (w : Nat) (h : bitsOf w 31 25 = 0x22) : decodeFields w = decode22 w := by unfold decodeFields; rw [h]; rfl
theorem decodeFields_23 (w : Nat) (h : bitsOf w 31 25 = 0x23) : decodeFields w = decode23 w := by unfold decodeFields; rw [h]; rfl
theorem decodeFields_24 (w : Nat) (h : bitsOf w 31 25 = 0x24) : decodeFields w = decode24 w := by unfold decodeFields; rw [h]; rfl
theorem decodeFields_25 (w : Nat) (h : bitsOf w 31 25 = 0x25) : decodeFields w = decode25 w := by unfold decodeFields; rw [h]; rfl
theorem decodeFields_26 (w : Nat) (h : bitsOf w 31 25 = 0x26) : decodeFields w = decode26 w := by unfold decodeFields; rw [h]; rfl
theorem decodeFields_27 (w : Nat) (h : bitsOf w 31 25 = 0x27) : decodeFields w = decode27 w := by unfold decodeFields; rw [h]; rfl
theorem decodeFields_28 (w : Nat) (h : bitsOf w 31 25 = 0x28) : decodeFields w = decode28 w := by unfold decodeFields; rw [h]; rfl
theorem decodeFields_29 (w : Nat) (h : bitsOf w 31 25 = 0x29) : decodeFields w = decode29 w := by unfold decodeFields; rw [h]; rfl
theorem decodeFields_2A (w : Nat) (h : bitsOf w 31 25 = 0x2A) : decodeFields w = decode2A w := by unfold decodeFields; rw [h]; rfl
theorem decodeFields_2B (w : Nat) (h : bitsOf w 31 25 = 0x2B) : decodeFields w = decode2B w := by unfold decodeFields; rw [h]; rfl
theorem decodeFields_2C (w : Nat) (h : bitsOf w 31 25 = 0x2C) : decodeFields w = decode2C w := by unfold decodeFields; rw [h]; rfl
theorem decodeFields_2D (w : Nat) (h : bitsOf w 31 25 = 0x2D) : decodeFields w = decode2D w := by unfold decodeFields; rw [h]; rfl
theorem decodeFields_40 (w : Nat) (h : bitsOf w 31 25 = 0x40) : decodeFields w = decode40 w := by unfold decodeFields; rw [h]; rfl
theorem decodeFields_41 (w : Nat) (h : bitsOf w 31 25 = 0x41) : decodeFields w = decode41 w := by unfold decodeFields; rw [h]; rfl
theorem decodeFields_42 (w : Nat) (h : bitsOf w 31 25 = 0x42) : decodeFields w = decode42 w := by unfold decodeFields; rw [h]; rfl
theorem decodeFields_43 (w : Nat) (h : bitsOf w 31 25 = 0x43) : decodeFields w = decode43 w := by unfold decodeFields; rw [h]; rfl
theorem decodeFields_44 (w : Nat) (h : bitsOf w 31 25 = 0x44) : decodeFields w = decode44 w := by unfold decodeFields; rw [h]; rfl
theorem decodeFields_45 (w : Nat) (h : bitsOf w 31 25 = 0x45) : decodeFields w = decode45 w := by unfold decodeFields; rw [h]; rfl
theorem decodeFields_46 (w : Nat) (h : bitsOf w 31 25 = 0x46) : decodeFields w = decode46 w := by unfold decodeFields; rw [h]; rfl
theorem decodeFields_47 (w : Nat) (h : bitsOf w 31 25 = 0x47) : decodeFields w = decode47 w := by unfold decodeFields; rw [h]; rfl
theorem decodeFields_48 (w : Nat) (h : bitsOf w 31 25 = 0x48) : decodeFields w = decode48 w := by unfold decodeFields; rw [h]; rfl
theorem decodeFields_49 (w : Nat) (h : bitsOf w 31 25 = 0x49) : decodeFields w = decode49 w := by unfold decodeFields; rw [h]; rfl
theorem decodeFields_4A (w : Nat) (h : bitsOf w 31 25 = 0x4A) : decodeFields w = decode4A w := by unfold decodeFields; rw [h]; rfl
theorem decodeFields_4B (w : Nat) (h : bitsOf w 31 25 = 0x4B) : decodeFields w = decode4B w := by unfold decodeFields; rw [h]; rfl
theorem decodeFields_50 (w : Nat) (h : bitsOf w 31 25 = 0x50) : decodeFields w = decode50 w := by unfold decodeFields; rw [h]; rfl
theorem decodeFields_51 (w : Nat) (h : bitsOf w 31 25 = 0x51) : decodeFields w = decode51 w := by unfold decodeFields; rw [h]; rfl
theorem decodeFields_52 (w : Nat) (h : bitsOf w 31 25 = 0x52) : decodeFields w = decode52 w := by unfold decodeFields; rw [h]; rfl
theorem decodeFields_53 (w : Nat) (h : bitsOf w 31 25 = 0x53) : decodeFields w = decode53 w := by unfold decodeFields; rw [h]; rfl
theorem decodeFields_54 (w : Nat) (h : bitsOf w 31 25 = 0x54) : decodeFields w = decode54 w := by unfold decodeFields; rw [h]; rfl
theorem decodeFields_55 (w : Nat) (h : bitsOf w 31 25 = 0x55) : decodeFields w = decode55 w := by unfold decodeFields; rw [h]; rfl
theorem decodeFields_56 (w : Nat) (h : bitsOf w 31 25 = 0x56) : decodeFields w = decode56 w := by unfold decodeFields; rw [h]; rfl
theorem decodeFields_57 (w : Nat) (h : bitsOf w 31 25 = 0x57) : decodeFields w = decode57 w := by unfold decodeFields; rw [h]; rfl
theorem decodeFields_58 (w : Nat) (h : bitsOf w 31 25 = 0x58) : decodeFields w = decode58 w := by unfold decodeFields; rw [h]; rfl
theorem decodeFields_59 (w : Nat) (h : bitsOf w 31 25 = 0x59) : decodeFields w = decode59 w := by unfold decodeFields; rw [h]; rfl
theorem decodeFields_5A (w : Nat) (h : bitsOf w 31 25 = 0x5A) : decodeFields w = decode5A w := by unfold decodeFields; rw [h]; rfl
theorem decodeFields_5B (w : Nat) (h : bitsOf w 31 25 = 0x5B) : decodeFields w = decode5B w := by unfold decodeFields; rw [h]; rfl
theorem decodeFields_5C (w : Nat) (h : bitsOf w 31 25 = 0x5C) : decodeFields w = decode5C w := by unfold decodeFields; rw [h]; rfl
theorem decodeFields_5D (w : Nat) (h : bitsOf w 31 25 = 0x5D) : decodeFields w = decode5D w := by unfold decodeFields; rw [h]; rfl
theorem decodeFields_5E (w : Nat) (h : bitsOf w 31 25 = 0x5E) : decodeFields w = decode5E w := by unfold decodeFields; rw [h]; rfl
theorem decodeFields_60 (w : Nat) (h : bitsOf w 31 25 = 0x60) : decodeFields w = decode60 w := by unfold decodeFields; rw [h]; rfl
theorem decodeFields_61 (w : Nat) (h : bitsOf w 31 25 = 0x61) : decodeFields w = decode61 w := by unfold decodeFields; rw [h]; rfl
theorem decodeFields_62 (w : Nat) (h : bitsOf w 31 25 = 0x62) : decodeFields w = decode62 w := by unfold decodeFields; rw [h]; rfl
theorem decodeFields_63 (w : Nat) (h : bitsOf w 31 25 = 0x63) : decodeFields w = decode63 w := by unfold decodeFields; rw [h]; rfl
theorem decodeFields_64 (w : Nat) (h : bitsOf w 31 25 = 0x64) : decodeFields w = decode64 w := by unfold decodeFields; rw [h]; rfl
theorem decodeFields_65 (w : Nat) (h : bitsOf w 31 25 = 0x65) : decodeFields w = decode65 w := by unfold decodeFields; rw [h]; rfl
theorem decodeFields_66 (w : Nat) (h : bitsOf w 31 25 = 0x66) : decodeFields w = decode66 w := by unfold decodeFields; rw [h]; rfl
theorem decodeFields_67 (w : Nat) (h : bitsOf w 31 25 = 0x67) : decodeFields w = decode67 w := by unfold decodeFields; rw [h]; rfl
theorem decodeFields_68 (w : Nat) (h : bitsOf w 31 25 = 0x68) : decodeFields w = decode68 w := by unfold decodeFields; rw [h]; rfl
theorem decodeFields_69 (w : Nat) (h : bitsOf w 31 25 = 0x69) : decodeFields w = decode69 w := by unfold decodeFields; rw [h]; rfl
theorem decodeFields_70 (w : Nat) (h : bitsOf w 31 25 = 0x70) : decodeFields w = decode70 w := by unfold decodeFields; rw [h]; rfl
theorem decodeFields_71 (w : Nat) (h : bitsOf w 31 25 = 0x71) : decodeFields w = decode71 w := by unfold decodeFields; rw [h]; rfl
theorem decodeFields_72 (w : Nat) (h : bitsOf w 31 25 = 0x72) : decodeFields w = decode72 w := by unfold decodeFields; rw [h]; rfl
theorem decodeFields_73 (w : Nat) (h : bitsOf w 31 25 = 0x73) : decodeFields w = decode73 w := by unfold decodeFields; rw [h]; rfl

/-- A word is read as an instruction when its fields decode to it and it is well formed. -/
theorem decodeWord_of (n : Nat) (i : Instr) (hn : n < 2 ^ 32) (hd : decodeFields n = .ok i) (hw : i.wellFormed = true) :
    decodeWord (.ofNat 32 n) = .ok i := by
  unfold decodeWord
  rw [BitVec.toNat_ofNat, Nat.mod_eq_of_lt hn, hd]
  simp only [bind1, hw, if_true]

theorem decodeMicroOp_of (n : Nat) (i : Instr) (hn : n < 2 ^ 32) (hd : decodeMicro n = .ok i) : decodeMicroOp (.ofNat 32 n) = .ok i := by
  unfold decodeMicroOp
  rw [BitVec.toNat_ofNat, Nat.mod_eq_of_lt hn, hd]

end Sys2Proof
end

