-- ==== Sys2Proof/Laws/State.lean ====
section
/-!
SUPPORT. Which fields an update of the state leaves as they were, and what it puts where: one lemma per field per update, each true by
unfolding the update once.
-/

namespace Sys2Proof.Machine


/-! ### setCur -/

@[simp] theorem State.setCur_agenda (s : State) (x : Slot) : (s.setCur x).agenda = s.agenda := by simp only [State.setCur]
@[simp] theorem State.setCur_sched (s : State) (x : Slot) : (s.setCur x).sched = s.sched := by simp only [State.setCur]
@[simp] theorem State.setCur_freeCtr (s : State) (x : Slot) : (s.setCur x).freeCtr = s.freeCtr := by simp only [State.setCur]
@[simp] theorem State.setCur_nextUid (s : State) (x : Slot) : (s.setCur x).nextUid = s.nextUid := by simp only [State.setCur]
@[simp] theorem State.setCur_gg (s : State) (x : Slot) : (s.setCur x).gg = s.gg := by simp only [State.setCur]
@[simp] theorem State.setCur_sel (s : State) (x : Slot) : (s.setCur x).sel = s.sel := by simp only [State.setCur]
@[simp] theorem State.setCur_gangs (s : State) (x : Slot) : (s.setCur x).gangs = s.gangs := by simp only [State.setCur]
@[simp] theorem State.setCur_power (s : State) (x : Slot) : (s.setCur x).power = s.power := by simp only [State.setCur]
@[simp] theorem State.setCur_cycle (s : State) (x : Slot) : (s.setCur x).cycle = s.cycle := by simp only [State.setCur]
@[simp] theorem State.setCur_ctl (s : State) (x : Slot) : (s.setCur x).ctl = s.ctl := by simp only [State.setCur]
@[simp] theorem State.setCur_mem (s : State) (x : Slot) : (s.setCur x).mem = s.mem := by simp only [State.setCur]
@[simp] theorem State.setCur_caches (s : State) (x : Slot) : (s.setCur x).caches = s.caches := by simp only [State.setCur]
@[simp] theorem State.setCur_fills (s : State) (x : Slot) : (s.setCur x).fills = s.fills := by simp only [State.setCur]
@[simp] theorem State.setCur_tlbs (s : State) (x : Slot) : (s.setCur x).tlbs = s.tlbs := by simp only [State.setCur]
@[simp] theorem State.setCur_walks (s : State) (x : Slot) : (s.setCur x).walks = s.walks := by simp only [State.setCur]
@[simp] theorem State.setCur_wcache (s : State) (x : Slot) : (s.setCur x).wcache = s.wcache := by simp only [State.setCur]
@[simp] theorem State.setCur_parts (s : State) (x : Slot) : (s.setCur x).parts = s.parts := by simp only [State.setCur]
@[simp] theorem State.setCur_queues (s : State) (x : Slot) : (s.setCur x).queues = s.queues := by simp only [State.setCur]
@[simp] theorem State.setCur_served (s : State) (x : Slot) : (s.setCur x).served = s.served := by simp only [State.setCur]
@[simp] theorem State.setCur_cores (s : State) (x : Slot) : (s.setCur x).cores = s.cores := by simp only [State.setCur]
@[simp] theorem State.setCur_clusters (s : State) (x : Slot) : (s.setCur x).clusters = s.clusters := by simp only [State.setCur]
@[simp] theorem State.setCur_ring (s : State) (x : Slot) : (s.setCur x).ring = s.ring := by simp only [State.setCur]
@[simp] theorem State.setCur_packets (s : State) (x : Slot) : (s.setCur x).packets = s.packets := by simp only [State.setCur]
@[simp] theorem State.setCur_watts (s : State) (x : Slot) : (s.setCur x).watts = s.watts := by simp only [State.setCur]
@[simp] theorem State.setCur_wfw (s : State) (x : Slot) : (s.setCur x).wfw = s.wfw := by simp only [State.setCur]
@[simp] theorem State.setCur_fwCarry (s : State) (x : Slot) : (s.setCur x).fwCarry = s.fwCarry := by simp only [State.setCur]
@[simp] theorem State.setCur_fwTotal (s : State) (x : Slot) : (s.setCur x).fwTotal = s.fwTotal := by simp only [State.setCur]
@[simp] theorem State.setCur_lapServes (s : State) (x : Slot) : (s.setCur x).lapServes = s.lapServes := by simp only [State.setCur]
@[simp] theorem State.setCur_lapFixed (s : State) (x : Slot) : (s.setCur x).lapFixed = s.lapFixed := by simp only [State.setCur]
@[simp] theorem State.setCur_prices (s : State) (x : Slot) : (s.setCur x).prices = s.prices := by simp only [State.setCur]
@[simp] theorem State.setCur_priceNext (s : State) (x : Slot) : (s.setCur x).priceNext = s.priceNext := by simp only [State.setCur]
@[simp] theorem State.setCur_boosts (s : State) (x : Slot) : (s.setCur x).boosts = s.boosts := by simp only [State.setCur]
@[simp] theorem State.setCur_late (s : State) (x : Slot) : (s.setCur x).late = s.late := by simp only [State.setCur]
@[simp] theorem State.setCur_modnum (s : State) (x : Slot) : (s.setCur x).modnum = s.modnum := by simp only [State.setCur]
@[simp] theorem State.setCur_domain (s : State) (x : Slot) : (s.setCur x).domain = s.domain := by simp only [State.setCur]
@[simp] theorem State.setCur_lost (s : State) (x : Slot) : (s.setCur x).lost = s.lost := by simp only [State.setCur]
@[simp] theorem State.setCur_bad (s : State) (x : Slot) : (s.setCur x).bad = s.bad := by simp only [State.setCur]
@[simp] theorem State.setCur_msi (s : State) (x : Slot) : (s.setCur x).msi = s.msi := by simp only [State.setCur]
@[simp] theorem State.setCur_bells (s : State) (x : Slot) : (s.setCur x).bells = s.bells := by simp only [State.setCur]
@[simp] theorem State.setCur_works (s : State) (x : Slot) : (s.setCur x).works = s.works := by simp only [State.setCur]
@[simp] theorem State.setCur_jobSel (s : State) (x : Slot) : (s.setCur x).jobSel = s.jobSel := by simp only [State.setCur]
@[simp] theorem State.setCur_piles (s : State) (x : Slot) : (s.setCur x).piles = s.piles := by simp only [State.setCur]
@[simp] theorem State.setCur_regions (s : State) (x : Slot) : (s.setCur x).regions = s.regions := by simp only [State.setCur]
@[simp] theorem State.setCur_images (s : State) (x : Slot) : (s.setCur x).images = s.images := by simp only [State.setCur]
@[simp] theorem State.setCur_loads (s : State) (x : Slot) : (s.setCur x).loads = s.loads := by simp only [State.setCur]
@[simp] theorem State.setCur_imageKey (s : State) (x : Slot) : (s.setCur x).imageKey = s.imageKey := by simp only [State.setCur]
@[simp] theorem State.setCur_imgh (s : State) (x : Slot) : (s.setCur x).imgh = s.imgh := by simp only [State.setCur]
@[simp] theorem State.setCur_held (s : State) (x : Slot) : (s.setCur x).held = s.held := by simp only [State.setCur]
@[simp] theorem State.setCur_saved (s : State) (x : Slot) : (s.setCur x).saved = s.saved := by simp only [State.setCur]
@[simp] theorem State.setCur_drains (s : State) (x : Slot) : (s.setCur x).drains = s.drains := by simp only [State.setCur]
@[simp] theorem State.setCur_slotLen (s : State) (x : Slot) : (s.setCur x).slotLen = s.slotLen := by simp only [State.setCur]
@[simp] theorem State.setCur_slot (s : State) (x : Slot) : (s.setCur x).slot = s.slot := by simp only [State.setCur]
@[simp] theorem State.setCur_slotAt (s : State) (x : Slot) : (s.setCur x).slotAt = s.slotAt := by simp only [State.setCur]
@[simp] theorem State.setCur_group (s : State) (x : Slot) : (s.setCur x).group = s.group := by simp only [State.setCur]
@[simp] theorem State.setCur_overruns (s : State) (x : Slot) : (s.setCur x).overruns = s.overruns := by simp only [State.setCur]
@[simp] theorem State.setCur_mail (s : State) (x : Slot) : (s.setCur x).mail = s.mail := by simp only [State.setCur]
@[simp] theorem State.setCur_keymap (s : State) (x : Slot) : (s.setCur x).keymap = s.keymap := by simp only [State.setCur]
@[simp] theorem State.setCur_keys (s : State) (x : Slot) : (s.setCur x).keys = s.keys := by simp only [State.setCur]
@[simp] theorem State.setCur_keyDraws (s : State) (x : Slot) : (s.setCur x).keyDraws = s.keyDraws := by simp only [State.setCur]
@[simp] theorem State.setCur_bootStep (s : State) (x : Slot) : (s.setCur x).bootStep = s.bootStep := by simp only [State.setCur]
@[simp] theorem State.setCur_bootFail (s : State) (x : Slot) : (s.setCur x).bootFail = s.bootFail := by simp only [State.setCur]
@[simp] theorem State.setCur_fwh (s : State) (x : Slot) : (s.setCur x).fwh = s.fwh := by simp only [State.setCur]
@[simp] theorem State.setCur_attKey (s : State) (x : Slot) : (s.setCur x).attKey = s.attKey := by simp only [State.setCur]
@[simp] theorem State.setCur_attDraws (s : State) (x : Slot) : (s.setCur x).attDraws = s.attDraws := by simp only [State.setCur]
@[simp] theorem State.setCur_ports (s : State) (x : Slot) : (s.setCur x).ports = s.ports := by simp only [State.setCur]
@[simp] theorem State.setCur_windows (s : State) (x : Slot) : (s.setCur x).windows = s.windows := by simp only [State.setCur]
@[simp] theorem State.setCur_bar (s : State) (x : Slot) : (s.setCur x).bar = s.bar := by simp only [State.setCur]
@[simp] theorem State.setCur_pba (s : State) (x : Slot) : (s.setCur x).pba = s.pba := by simp only [State.setCur]
@[simp] theorem State.setCur_hot (s : State) (x : Slot) : (s.setCur x).hot = s.hot := by simp only [State.setCur]
@[simp] theorem State.setCur_overSince (s : State) (x : Slot) : (s.setCur x).overSince = s.overSince := by simp only [State.setCur]
@[simp] theorem State.setCur_wattsSet (s : State) (x : Slot) : (s.setCur x).wattsSet = s.wattsSet := by simp only [State.setCur]
@[simp] theorem State.setCur_checks (s : State) (x : Slot) : (s.setCur x).checks = s.checks := by simp only [State.setCur]
@[simp] theorem State.setCur_turns (s : State) (x : Slot) : (s.setCur x).turns = s.turns := by simp only [State.setCur]
@[simp] theorem State.setCur_throttleAt (s : State) (x : Slot) : (s.setCur x).throttleAt = s.throttleAt := by simp only [State.setCur]

/-! ### setSibling -/

@[simp] theorem State.setSibling_agenda (s : State) (x : Slot) : (s.setSibling x).agenda = s.agenda := by simp only [State.setSibling]
@[simp] theorem State.setSibling_sched (s : State) (x : Slot) : (s.setSibling x).sched = s.sched := by simp only [State.setSibling]
@[simp] theorem State.setSibling_freeCtr (s : State) (x : Slot) : (s.setSibling x).freeCtr = s.freeCtr := by simp only [State.setSibling]
@[simp] theorem State.setSibling_nextUid (s : State) (x : Slot) : (s.setSibling x).nextUid = s.nextUid := by simp only [State.setSibling]
@[simp] theorem State.setSibling_gg (s : State) (x : Slot) : (s.setSibling x).gg = s.gg := by simp only [State.setSibling]
@[simp] theorem State.setSibling_sel (s : State) (x : Slot) : (s.setSibling x).sel = s.sel := by simp only [State.setSibling]
@[simp] theorem State.setSibling_gangs (s : State) (x : Slot) : (s.setSibling x).gangs = s.gangs := by simp only [State.setSibling]
@[simp] theorem State.setSibling_power (s : State) (x : Slot) : (s.setSibling x).power = s.power := by simp only [State.setSibling]
@[simp] theorem State.setSibling_cycle (s : State) (x : Slot) : (s.setSibling x).cycle = s.cycle := by simp only [State.setSibling]
@[simp] theorem State.setSibling_ctl (s : State) (x : Slot) : (s.setSibling x).ctl = s.ctl := by simp only [State.setSibling]
@[simp] theorem State.setSibling_mem (s : State) (x : Slot) : (s.setSibling x).mem = s.mem := by simp only [State.setSibling]
@[simp] theorem State.setSibling_caches (s : State) (x : Slot) : (s.setSibling x).caches = s.caches := by simp only [State.setSibling]
@[simp] theorem State.setSibling_fills (s : State) (x : Slot) : (s.setSibling x).fills = s.fills := by simp only [State.setSibling]
@[simp] theorem State.setSibling_tlbs (s : State) (x : Slot) : (s.setSibling x).tlbs = s.tlbs := by simp only [State.setSibling]
@[simp] theorem State.setSibling_walks (s : State) (x : Slot) : (s.setSibling x).walks = s.walks := by simp only [State.setSibling]
@[simp] theorem State.setSibling_wcache (s : State) (x : Slot) : (s.setSibling x).wcache = s.wcache := by simp only [State.setSibling]
@[simp] theorem State.setSibling_parts (s : State) (x : Slot) : (s.setSibling x).parts = s.parts := by simp only [State.setSibling]
@[simp] theorem State.setSibling_queues (s : State) (x : Slot) : (s.setSibling x).queues = s.queues := by simp only [State.setSibling]
@[simp] theorem State.setSibling_served (s : State) (x : Slot) : (s.setSibling x).served = s.served := by simp only [State.setSibling]
@[simp] theorem State.setSibling_cores (s : State) (x : Slot) : (s.setSibling x).cores = s.cores := by simp only [State.setSibling]
@[simp] theorem State.setSibling_clusters (s : State) (x : Slot) : (s.setSibling x).clusters = s.clusters := by simp only [State.setSibling]
@[simp] theorem State.setSibling_ring (s : State) (x : Slot) : (s.setSibling x).ring = s.ring := by simp only [State.setSibling]
@[simp] theorem State.setSibling_packets (s : State) (x : Slot) : (s.setSibling x).packets = s.packets := by simp only [State.setSibling]
@[simp] theorem State.setSibling_watts (s : State) (x : Slot) : (s.setSibling x).watts = s.watts := by simp only [State.setSibling]
@[simp] theorem State.setSibling_wfw (s : State) (x : Slot) : (s.setSibling x).wfw = s.wfw := by simp only [State.setSibling]
@[simp] theorem State.setSibling_fwCarry (s : State) (x : Slot) : (s.setSibling x).fwCarry = s.fwCarry := by simp only [State.setSibling]
@[simp] theorem State.setSibling_fwTotal (s : State) (x : Slot) : (s.setSibling x).fwTotal = s.fwTotal := by simp only [State.setSibling]
@[simp] theorem State.setSibling_lapServes (s : State) (x : Slot) : (s.setSibling x).lapServes = s.lapServes := by simp only [State.setSibling]
@[simp] theorem State.setSibling_lapFixed (s : State) (x : Slot) : (s.setSibling x).lapFixed = s.lapFixed := by simp only [State.setSibling]
@[simp] theorem State.setSibling_prices (s : State) (x : Slot) : (s.setSibling x).prices = s.prices := by simp only [State.setSibling]
@[simp] theorem State.setSibling_priceNext (s : State) (x : Slot) : (s.setSibling x).priceNext = s.priceNext := by simp only [State.setSibling]
@[simp] theorem State.setSibling_boosts (s : State) (x : Slot) : (s.setSibling x).boosts = s.boosts := by simp only [State.setSibling]
@[simp] theorem State.setSibling_late (s : State) (x : Slot) : (s.setSibling x).late = s.late := by simp only [State.setSibling]
@[simp] theorem State.setSibling_modnum (s : State) (x : Slot) : (s.setSibling x).modnum = s.modnum := by simp only [State.setSibling]
@[simp] theorem State.setSibling_domain (s : State) (x : Slot) : (s.setSibling x).domain = s.domain := by simp only [State.setSibling]
@[simp] theorem State.setSibling_lost (s : State) (x : Slot) : (s.setSibling x).lost = s.lost := by simp only [State.setSibling]
@[simp] theorem State.setSibling_bad (s : State) (x : Slot) : (s.setSibling x).bad = s.bad := by simp only [State.setSibling]
@[simp] theorem State.setSibling_msi (s : State) (x : Slot) : (s.setSibling x).msi = s.msi := by simp only [State.setSibling]
@[simp] theorem State.setSibling_bells (s : State) (x : Slot) : (s.setSibling x).bells = s.bells := by simp only [State.setSibling]
@[simp] theorem State.setSibling_works (s : State) (x : Slot) : (s.setSibling x).works = s.works := by simp only [State.setSibling]
@[simp] theorem State.setSibling_jobSel (s : State) (x : Slot) : (s.setSibling x).jobSel = s.jobSel := by simp only [State.setSibling]
@[simp] theorem State.setSibling_piles (s : State) (x : Slot) : (s.setSibling x).piles = s.piles := by simp only [State.setSibling]
@[simp] theorem State.setSibling_regions (s : State) (x : Slot) : (s.setSibling x).regions = s.regions := by simp only [State.setSibling]
@[simp] theorem State.setSibling_images (s : State) (x : Slot) : (s.setSibling x).images = s.images := by simp only [State.setSibling]
@[simp] theorem State.setSibling_loads (s : State) (x : Slot) : (s.setSibling x).loads = s.loads := by simp only [State.setSibling]
@[simp] theorem State.setSibling_imageKey (s : State) (x : Slot) : (s.setSibling x).imageKey = s.imageKey := by simp only [State.setSibling]
@[simp] theorem State.setSibling_imgh (s : State) (x : Slot) : (s.setSibling x).imgh = s.imgh := by simp only [State.setSibling]
@[simp] theorem State.setSibling_held (s : State) (x : Slot) : (s.setSibling x).held = s.held := by simp only [State.setSibling]
@[simp] theorem State.setSibling_saved (s : State) (x : Slot) : (s.setSibling x).saved = s.saved := by simp only [State.setSibling]
@[simp] theorem State.setSibling_drains (s : State) (x : Slot) : (s.setSibling x).drains = s.drains := by simp only [State.setSibling]
@[simp] theorem State.setSibling_slotLen (s : State) (x : Slot) : (s.setSibling x).slotLen = s.slotLen := by simp only [State.setSibling]
@[simp] theorem State.setSibling_slot (s : State) (x : Slot) : (s.setSibling x).slot = s.slot := by simp only [State.setSibling]
@[simp] theorem State.setSibling_slotAt (s : State) (x : Slot) : (s.setSibling x).slotAt = s.slotAt := by simp only [State.setSibling]
@[simp] theorem State.setSibling_group (s : State) (x : Slot) : (s.setSibling x).group = s.group := by simp only [State.setSibling]
@[simp] theorem State.setSibling_overruns (s : State) (x : Slot) : (s.setSibling x).overruns = s.overruns := by simp only [State.setSibling]
@[simp] theorem State.setSibling_mail (s : State) (x : Slot) : (s.setSibling x).mail = s.mail := by simp only [State.setSibling]
@[simp] theorem State.setSibling_keymap (s : State) (x : Slot) : (s.setSibling x).keymap = s.keymap := by simp only [State.setSibling]
@[simp] theorem State.setSibling_keys (s : State) (x : Slot) : (s.setSibling x).keys = s.keys := by simp only [State.setSibling]
@[simp] theorem State.setSibling_keyDraws (s : State) (x : Slot) : (s.setSibling x).keyDraws = s.keyDraws := by simp only [State.setSibling]
@[simp] theorem State.setSibling_bootStep (s : State) (x : Slot) : (s.setSibling x).bootStep = s.bootStep := by simp only [State.setSibling]
@[simp] theorem State.setSibling_bootFail (s : State) (x : Slot) : (s.setSibling x).bootFail = s.bootFail := by simp only [State.setSibling]
@[simp] theorem State.setSibling_fwh (s : State) (x : Slot) : (s.setSibling x).fwh = s.fwh := by simp only [State.setSibling]
@[simp] theorem State.setSibling_attKey (s : State) (x : Slot) : (s.setSibling x).attKey = s.attKey := by simp only [State.setSibling]
@[simp] theorem State.setSibling_attDraws (s : State) (x : Slot) : (s.setSibling x).attDraws = s.attDraws := by simp only [State.setSibling]
@[simp] theorem State.setSibling_ports (s : State) (x : Slot) : (s.setSibling x).ports = s.ports := by simp only [State.setSibling]
@[simp] theorem State.setSibling_windows (s : State) (x : Slot) : (s.setSibling x).windows = s.windows := by simp only [State.setSibling]
@[simp] theorem State.setSibling_bar (s : State) (x : Slot) : (s.setSibling x).bar = s.bar := by simp only [State.setSibling]
@[simp] theorem State.setSibling_pba (s : State) (x : Slot) : (s.setSibling x).pba = s.pba := by simp only [State.setSibling]
@[simp] theorem State.setSibling_hot (s : State) (x : Slot) : (s.setSibling x).hot = s.hot := by simp only [State.setSibling]
@[simp] theorem State.setSibling_overSince (s : State) (x : Slot) : (s.setSibling x).overSince = s.overSince := by simp only [State.setSibling]
@[simp] theorem State.setSibling_wattsSet (s : State) (x : Slot) : (s.setSibling x).wattsSet = s.wattsSet := by simp only [State.setSibling]
@[simp] theorem State.setSibling_checks (s : State) (x : Slot) : (s.setSibling x).checks = s.checks := by simp only [State.setSibling]
@[simp] theorem State.setSibling_turns (s : State) (x : Slot) : (s.setSibling x).turns = s.turns := by simp only [State.setSibling]
@[simp] theorem State.setSibling_throttleAt (s : State) (x : Slot) : (s.setSibling x).throttleAt = s.throttleAt := by simp only [State.setSibling]

/-! ### wS -/

@[simp] theorem State.wS_agenda (s : State) (r : SReg) (v : Word64) : (s.wS r v).agenda = s.agenda := by unfold State.wS; split <;> rfl
@[simp] theorem State.wS_sched (s : State) (r : SReg) (v : Word64) : (s.wS r v).sched = s.sched := by unfold State.wS; split <;> rfl
@[simp] theorem State.wS_freeCtr (s : State) (r : SReg) (v : Word64) : (s.wS r v).freeCtr = s.freeCtr := by unfold State.wS; split <;> rfl
@[simp] theorem State.wS_nextUid (s : State) (r : SReg) (v : Word64) : (s.wS r v).nextUid = s.nextUid := by unfold State.wS; split <;> rfl
@[simp] theorem State.wS_gg (s : State) (r : SReg) (v : Word64) : (s.wS r v).gg = s.gg := by unfold State.wS; split <;> rfl
@[simp] theorem State.wS_sel (s : State) (r : SReg) (v : Word64) : (s.wS r v).sel = s.sel := by unfold State.wS; split <;> rfl
@[simp] theorem State.wS_gangs (s : State) (r : SReg) (v : Word64) : (s.wS r v).gangs = s.gangs := by unfold State.wS; split <;> rfl
@[simp] theorem State.wS_power (s : State) (r : SReg) (v : Word64) : (s.wS r v).power = s.power := by unfold State.wS; split <;> rfl
@[simp] theorem State.wS_cycle (s : State) (r : SReg) (v : Word64) : (s.wS r v).cycle = s.cycle := by unfold State.wS; split <;> rfl
@[simp] theorem State.wS_ctl (s : State) (r : SReg) (v : Word64) : (s.wS r v).ctl = s.ctl := by unfold State.wS; split <;> rfl
@[simp] theorem State.wS_mem (s : State) (r : SReg) (v : Word64) : (s.wS r v).mem = s.mem := by unfold State.wS; split <;> rfl
@[simp] theorem State.wS_caches (s : State) (r : SReg) (v : Word64) : (s.wS r v).caches = s.caches := by unfold State.wS; split <;> rfl
@[simp] theorem State.wS_fills (s : State) (r : SReg) (v : Word64) : (s.wS r v).fills = s.fills := by unfold State.wS; split <;> rfl
@[simp] theorem State.wS_tlbs (s : State) (r : SReg) (v : Word64) : (s.wS r v).tlbs = s.tlbs := by unfold State.wS; split <;> rfl
@[simp] theorem State.wS_walks (s : State) (r : SReg) (v : Word64) : (s.wS r v).walks = s.walks := by unfold State.wS; split <;> rfl
@[simp] theorem State.wS_wcache (s : State) (r : SReg) (v : Word64) : (s.wS r v).wcache = s.wcache := by unfold State.wS; split <;> rfl
@[simp] theorem State.wS_parts (s : State) (r : SReg) (v : Word64) : (s.wS r v).parts = s.parts := by unfold State.wS; split <;> rfl
@[simp] theorem State.wS_queues (s : State) (r : SReg) (v : Word64) : (s.wS r v).queues = s.queues := by unfold State.wS; split <;> rfl
@[simp] theorem State.wS_served (s : State) (r : SReg) (v : Word64) : (s.wS r v).served = s.served := by unfold State.wS; split <;> rfl
@[simp] theorem State.wS_cores (s : State) (r : SReg) (v : Word64) : (s.wS r v).cores = s.cores := by unfold State.wS; split <;> rfl
@[simp] theorem State.wS_clusters (s : State) (r : SReg) (v : Word64) : (s.wS r v).clusters = s.clusters := by unfold State.wS; split <;> rfl
@[simp] theorem State.wS_ring (s : State) (r : SReg) (v : Word64) : (s.wS r v).ring = s.ring := by unfold State.wS; split <;> rfl
@[simp] theorem State.wS_packets (s : State) (r : SReg) (v : Word64) : (s.wS r v).packets = s.packets := by unfold State.wS; split <;> rfl
@[simp] theorem State.wS_watts (s : State) (r : SReg) (v : Word64) : (s.wS r v).watts = s.watts := by unfold State.wS; split <;> rfl
@[simp] theorem State.wS_wfw (s : State) (r : SReg) (v : Word64) : (s.wS r v).wfw = s.wfw := by unfold State.wS; split <;> rfl
@[simp] theorem State.wS_fwCarry (s : State) (r : SReg) (v : Word64) : (s.wS r v).fwCarry = s.fwCarry := by unfold State.wS; split <;> rfl
@[simp] theorem State.wS_fwTotal (s : State) (r : SReg) (v : Word64) : (s.wS r v).fwTotal = s.fwTotal := by unfold State.wS; split <;> rfl
@[simp] theorem State.wS_lapServes (s : State) (r : SReg) (v : Word64) : (s.wS r v).lapServes = s.lapServes := by unfold State.wS; split <;> rfl
@[simp] theorem State.wS_lapFixed (s : State) (r : SReg) (v : Word64) : (s.wS r v).lapFixed = s.lapFixed := by unfold State.wS; split <;> rfl
@[simp] theorem State.wS_prices (s : State) (r : SReg) (v : Word64) : (s.wS r v).prices = s.prices := by unfold State.wS; split <;> rfl
@[simp] theorem State.wS_priceNext (s : State) (r : SReg) (v : Word64) : (s.wS r v).priceNext = s.priceNext := by unfold State.wS; split <;> rfl
@[simp] theorem State.wS_boosts (s : State) (r : SReg) (v : Word64) : (s.wS r v).boosts = s.boosts := by unfold State.wS; split <;> rfl
@[simp] theorem State.wS_late (s : State) (r : SReg) (v : Word64) : (s.wS r v).late = s.late := by unfold State.wS; split <;> rfl
@[simp] theorem State.wS_modnum (s : State) (r : SReg) (v : Word64) : (s.wS r v).modnum = s.modnum := by unfold State.wS; split <;> rfl
@[simp] theorem State.wS_domain (s : State) (r : SReg) (v : Word64) : (s.wS r v).domain = s.domain := by unfold State.wS; split <;> rfl
@[simp] theorem State.wS_lost (s : State) (r : SReg) (v : Word64) : (s.wS r v).lost = s.lost := by unfold State.wS; split <;> rfl
@[simp] theorem State.wS_bad (s : State) (r : SReg) (v : Word64) : (s.wS r v).bad = s.bad := by unfold State.wS; split <;> rfl
@[simp] theorem State.wS_msi (s : State) (r : SReg) (v : Word64) : (s.wS r v).msi = s.msi := by unfold State.wS; split <;> rfl
@[simp] theorem State.wS_bells (s : State) (r : SReg) (v : Word64) : (s.wS r v).bells = s.bells := by unfold State.wS; split <;> rfl
@[simp] theorem State.wS_works (s : State) (r : SReg) (v : Word64) : (s.wS r v).works = s.works := by unfold State.wS; split <;> rfl
@[simp] theorem State.wS_jobSel (s : State) (r : SReg) (v : Word64) : (s.wS r v).jobSel = s.jobSel := by unfold State.wS; split <;> rfl
@[simp] theorem State.wS_piles (s : State) (r : SReg) (v : Word64) : (s.wS r v).piles = s.piles := by unfold State.wS; split <;> rfl
@[simp] theorem State.wS_regions (s : State) (r : SReg) (v : Word64) : (s.wS r v).regions = s.regions := by unfold State.wS; split <;> rfl
@[simp] theorem State.wS_images (s : State) (r : SReg) (v : Word64) : (s.wS r v).images = s.images := by unfold State.wS; split <;> rfl
@[simp] theorem State.wS_loads (s : State) (r : SReg) (v : Word64) : (s.wS r v).loads = s.loads := by unfold State.wS; split <;> rfl
@[simp] theorem State.wS_imageKey (s : State) (r : SReg) (v : Word64) : (s.wS r v).imageKey = s.imageKey := by unfold State.wS; split <;> rfl
@[simp] theorem State.wS_imgh (s : State) (r : SReg) (v : Word64) : (s.wS r v).imgh = s.imgh := by unfold State.wS; split <;> rfl
@[simp] theorem State.wS_held (s : State) (r : SReg) (v : Word64) : (s.wS r v).held = s.held := by unfold State.wS; split <;> rfl
@[simp] theorem State.wS_saved (s : State) (r : SReg) (v : Word64) : (s.wS r v).saved = s.saved := by unfold State.wS; split <;> rfl
@[simp] theorem State.wS_drains (s : State) (r : SReg) (v : Word64) : (s.wS r v).drains = s.drains := by unfold State.wS; split <;> rfl
@[simp] theorem State.wS_slotLen (s : State) (r : SReg) (v : Word64) : (s.wS r v).slotLen = s.slotLen := by unfold State.wS; split <;> rfl
@[simp] theorem State.wS_slot (s : State) (r : SReg) (v : Word64) : (s.wS r v).slot = s.slot := by unfold State.wS; split <;> rfl
@[simp] theorem State.wS_slotAt (s : State) (r : SReg) (v : Word64) : (s.wS r v).slotAt = s.slotAt := by unfold State.wS; split <;> rfl
@[simp] theorem State.wS_group (s : State) (r : SReg) (v : Word64) : (s.wS r v).group = s.group := by unfold State.wS; split <;> rfl
@[simp] theorem State.wS_overruns (s : State) (r : SReg) (v : Word64) : (s.wS r v).overruns = s.overruns := by unfold State.wS; split <;> rfl
@[simp] theorem State.wS_mail (s : State) (r : SReg) (v : Word64) : (s.wS r v).mail = s.mail := by unfold State.wS; split <;> rfl
@[simp] theorem State.wS_keymap (s : State) (r : SReg) (v : Word64) : (s.wS r v).keymap = s.keymap := by unfold State.wS; split <;> rfl
@[simp] theorem State.wS_keys (s : State) (r : SReg) (v : Word64) : (s.wS r v).keys = s.keys := by unfold State.wS; split <;> rfl
@[simp] theorem State.wS_keyDraws (s : State) (r : SReg) (v : Word64) : (s.wS r v).keyDraws = s.keyDraws := by unfold State.wS; split <;> rfl
@[simp] theorem State.wS_bootStep (s : State) (r : SReg) (v : Word64) : (s.wS r v).bootStep = s.bootStep := by unfold State.wS; split <;> rfl
@[simp] theorem State.wS_bootFail (s : State) (r : SReg) (v : Word64) : (s.wS r v).bootFail = s.bootFail := by unfold State.wS; split <;> rfl
@[simp] theorem State.wS_fwh (s : State) (r : SReg) (v : Word64) : (s.wS r v).fwh = s.fwh := by unfold State.wS; split <;> rfl
@[simp] theorem State.wS_attKey (s : State) (r : SReg) (v : Word64) : (s.wS r v).attKey = s.attKey := by unfold State.wS; split <;> rfl
@[simp] theorem State.wS_attDraws (s : State) (r : SReg) (v : Word64) : (s.wS r v).attDraws = s.attDraws := by unfold State.wS; split <;> rfl
@[simp] theorem State.wS_ports (s : State) (r : SReg) (v : Word64) : (s.wS r v).ports = s.ports := by unfold State.wS; split <;> rfl
@[simp] theorem State.wS_windows (s : State) (r : SReg) (v : Word64) : (s.wS r v).windows = s.windows := by unfold State.wS; split <;> rfl
@[simp] theorem State.wS_bar (s : State) (r : SReg) (v : Word64) : (s.wS r v).bar = s.bar := by unfold State.wS; split <;> rfl
@[simp] theorem State.wS_pba (s : State) (r : SReg) (v : Word64) : (s.wS r v).pba = s.pba := by unfold State.wS; split <;> rfl
@[simp] theorem State.wS_hot (s : State) (r : SReg) (v : Word64) : (s.wS r v).hot = s.hot := by unfold State.wS; split <;> rfl
@[simp] theorem State.wS_overSince (s : State) (r : SReg) (v : Word64) : (s.wS r v).overSince = s.overSince := by unfold State.wS; split <;> rfl
@[simp] theorem State.wS_wattsSet (s : State) (r : SReg) (v : Word64) : (s.wS r v).wattsSet = s.wattsSet := by unfold State.wS; split <;> rfl
@[simp] theorem State.wS_checks (s : State) (r : SReg) (v : Word64) : (s.wS r v).checks = s.checks := by unfold State.wS; split <;> rfl
@[simp] theorem State.wS_turns (s : State) (r : SReg) (v : Word64) : (s.wS r v).turns = s.turns := by unfold State.wS; split <;> rfl
@[simp] theorem State.wS_throttleAt (s : State) (r : SReg) (v : Word64) : (s.wS r v).throttleAt = s.throttleAt := by unfold State.wS; split <;> rfl

/-! ### wV -/

@[simp] theorem State.wV_agenda (s : State) (r : VReg) (m : BitVec 32) (f : Fin 32 → Word32) : (s.wV r m f).agenda = s.agenda := by simp only [State.wV]
@[simp] theorem State.wV_sched (s : State) (r : VReg) (m : BitVec 32) (f : Fin 32 → Word32) : (s.wV r m f).sched = s.sched := by simp only [State.wV]
@[simp] theorem State.wV_freeCtr (s : State) (r : VReg) (m : BitVec 32) (f : Fin 32 → Word32) : (s.wV r m f).freeCtr = s.freeCtr := by simp only [State.wV]
@[simp] theorem State.wV_nextUid (s : State) (r : VReg) (m : BitVec 32) (f : Fin 32 → Word32) : (s.wV r m f).nextUid = s.nextUid := by simp only [State.wV]
@[simp] theorem State.wV_gg (s : State) (r : VReg) (m : BitVec 32) (f : Fin 32 → Word32) : (s.wV r m f).gg = s.gg := by simp only [State.wV]
@[simp] theorem State.wV_sel (s : State) (r : VReg) (m : BitVec 32) (f : Fin 32 → Word32) : (s.wV r m f).sel = s.sel := by simp only [State.wV]
@[simp] theorem State.wV_gangs (s : State) (r : VReg) (m : BitVec 32) (f : Fin 32 → Word32) : (s.wV r m f).gangs = s.gangs := by simp only [State.wV]
@[simp] theorem State.wV_power (s : State) (r : VReg) (m : BitVec 32) (f : Fin 32 → Word32) : (s.wV r m f).power = s.power := by simp only [State.wV]
@[simp] theorem State.wV_cycle (s : State) (r : VReg) (m : BitVec 32) (f : Fin 32 → Word32) : (s.wV r m f).cycle = s.cycle := by simp only [State.wV]
@[simp] theorem State.wV_ctl (s : State) (r : VReg) (m : BitVec 32) (f : Fin 32 → Word32) : (s.wV r m f).ctl = s.ctl := by simp only [State.wV]
@[simp] theorem State.wV_mem (s : State) (r : VReg) (m : BitVec 32) (f : Fin 32 → Word32) : (s.wV r m f).mem = s.mem := by simp only [State.wV]
@[simp] theorem State.wV_caches (s : State) (r : VReg) (m : BitVec 32) (f : Fin 32 → Word32) : (s.wV r m f).caches = s.caches := by simp only [State.wV]
@[simp] theorem State.wV_fills (s : State) (r : VReg) (m : BitVec 32) (f : Fin 32 → Word32) : (s.wV r m f).fills = s.fills := by simp only [State.wV]
@[simp] theorem State.wV_tlbs (s : State) (r : VReg) (m : BitVec 32) (f : Fin 32 → Word32) : (s.wV r m f).tlbs = s.tlbs := by simp only [State.wV]
@[simp] theorem State.wV_walks (s : State) (r : VReg) (m : BitVec 32) (f : Fin 32 → Word32) : (s.wV r m f).walks = s.walks := by simp only [State.wV]
@[simp] theorem State.wV_wcache (s : State) (r : VReg) (m : BitVec 32) (f : Fin 32 → Word32) : (s.wV r m f).wcache = s.wcache := by simp only [State.wV]
@[simp] theorem State.wV_parts (s : State) (r : VReg) (m : BitVec 32) (f : Fin 32 → Word32) : (s.wV r m f).parts = s.parts := by simp only [State.wV]
@[simp] theorem State.wV_queues (s : State) (r : VReg) (m : BitVec 32) (f : Fin 32 → Word32) : (s.wV r m f).queues = s.queues := by simp only [State.wV]
@[simp] theorem State.wV_served (s : State) (r : VReg) (m : BitVec 32) (f : Fin 32 → Word32) : (s.wV r m f).served = s.served := by simp only [State.wV]
@[simp] theorem State.wV_cores (s : State) (r : VReg) (m : BitVec 32) (f : Fin 32 → Word32) : (s.wV r m f).cores = s.cores := by simp only [State.wV]
@[simp] theorem State.wV_clusters (s : State) (r : VReg) (m : BitVec 32) (f : Fin 32 → Word32) : (s.wV r m f).clusters = s.clusters := by simp only [State.wV]
@[simp] theorem State.wV_ring (s : State) (r : VReg) (m : BitVec 32) (f : Fin 32 → Word32) : (s.wV r m f).ring = s.ring := by simp only [State.wV]
@[simp] theorem State.wV_packets (s : State) (r : VReg) (m : BitVec 32) (f : Fin 32 → Word32) : (s.wV r m f).packets = s.packets := by simp only [State.wV]
@[simp] theorem State.wV_watts (s : State) (r : VReg) (m : BitVec 32) (f : Fin 32 → Word32) : (s.wV r m f).watts = s.watts := by simp only [State.wV]
@[simp] theorem State.wV_wfw (s : State) (r : VReg) (m : BitVec 32) (f : Fin 32 → Word32) : (s.wV r m f).wfw = s.wfw := by simp only [State.wV]
@[simp] theorem State.wV_fwCarry (s : State) (r : VReg) (m : BitVec 32) (f : Fin 32 → Word32) : (s.wV r m f).fwCarry = s.fwCarry := by simp only [State.wV]
@[simp] theorem State.wV_fwTotal (s : State) (r : VReg) (m : BitVec 32) (f : Fin 32 → Word32) : (s.wV r m f).fwTotal = s.fwTotal := by simp only [State.wV]
@[simp] theorem State.wV_lapServes (s : State) (r : VReg) (m : BitVec 32) (f : Fin 32 → Word32) : (s.wV r m f).lapServes = s.lapServes := by simp only [State.wV]
@[simp] theorem State.wV_lapFixed (s : State) (r : VReg) (m : BitVec 32) (f : Fin 32 → Word32) : (s.wV r m f).lapFixed = s.lapFixed := by simp only [State.wV]
@[simp] theorem State.wV_prices (s : State) (r : VReg) (m : BitVec 32) (f : Fin 32 → Word32) : (s.wV r m f).prices = s.prices := by simp only [State.wV]
@[simp] theorem State.wV_priceNext (s : State) (r : VReg) (m : BitVec 32) (f : Fin 32 → Word32) : (s.wV r m f).priceNext = s.priceNext := by simp only [State.wV]
@[simp] theorem State.wV_boosts (s : State) (r : VReg) (m : BitVec 32) (f : Fin 32 → Word32) : (s.wV r m f).boosts = s.boosts := by simp only [State.wV]
@[simp] theorem State.wV_late (s : State) (r : VReg) (m : BitVec 32) (f : Fin 32 → Word32) : (s.wV r m f).late = s.late := by simp only [State.wV]
@[simp] theorem State.wV_modnum (s : State) (r : VReg) (m : BitVec 32) (f : Fin 32 → Word32) : (s.wV r m f).modnum = s.modnum := by simp only [State.wV]
@[simp] theorem State.wV_domain (s : State) (r : VReg) (m : BitVec 32) (f : Fin 32 → Word32) : (s.wV r m f).domain = s.domain := by simp only [State.wV]
@[simp] theorem State.wV_lost (s : State) (r : VReg) (m : BitVec 32) (f : Fin 32 → Word32) : (s.wV r m f).lost = s.lost := by simp only [State.wV]
@[simp] theorem State.wV_bad (s : State) (r : VReg) (m : BitVec 32) (f : Fin 32 → Word32) : (s.wV r m f).bad = s.bad := by simp only [State.wV]
@[simp] theorem State.wV_msi (s : State) (r : VReg) (m : BitVec 32) (f : Fin 32 → Word32) : (s.wV r m f).msi = s.msi := by simp only [State.wV]
@[simp] theorem State.wV_bells (s : State) (r : VReg) (m : BitVec 32) (f : Fin 32 → Word32) : (s.wV r m f).bells = s.bells := by simp only [State.wV]
@[simp] theorem State.wV_works (s : State) (r : VReg) (m : BitVec 32) (f : Fin 32 → Word32) : (s.wV r m f).works = s.works := by simp only [State.wV]
@[simp] theorem State.wV_jobSel (s : State) (r : VReg) (m : BitVec 32) (f : Fin 32 → Word32) : (s.wV r m f).jobSel = s.jobSel := by simp only [State.wV]
@[simp] theorem State.wV_piles (s : State) (r : VReg) (m : BitVec 32) (f : Fin 32 → Word32) : (s.wV r m f).piles = s.piles := by simp only [State.wV]
@[simp] theorem State.wV_regions (s : State) (r : VReg) (m : BitVec 32) (f : Fin 32 → Word32) : (s.wV r m f).regions = s.regions := by simp only [State.wV]
@[simp] theorem State.wV_images (s : State) (r : VReg) (m : BitVec 32) (f : Fin 32 → Word32) : (s.wV r m f).images = s.images := by simp only [State.wV]
@[simp] theorem State.wV_loads (s : State) (r : VReg) (m : BitVec 32) (f : Fin 32 → Word32) : (s.wV r m f).loads = s.loads := by simp only [State.wV]
@[simp] theorem State.wV_imageKey (s : State) (r : VReg) (m : BitVec 32) (f : Fin 32 → Word32) : (s.wV r m f).imageKey = s.imageKey := by simp only [State.wV]
@[simp] theorem State.wV_imgh (s : State) (r : VReg) (m : BitVec 32) (f : Fin 32 → Word32) : (s.wV r m f).imgh = s.imgh := by simp only [State.wV]
@[simp] theorem State.wV_held (s : State) (r : VReg) (m : BitVec 32) (f : Fin 32 → Word32) : (s.wV r m f).held = s.held := by simp only [State.wV]
@[simp] theorem State.wV_saved (s : State) (r : VReg) (m : BitVec 32) (f : Fin 32 → Word32) : (s.wV r m f).saved = s.saved := by simp only [State.wV]
@[simp] theorem State.wV_drains (s : State) (r : VReg) (m : BitVec 32) (f : Fin 32 → Word32) : (s.wV r m f).drains = s.drains := by simp only [State.wV]
@[simp] theorem State.wV_slotLen (s : State) (r : VReg) (m : BitVec 32) (f : Fin 32 → Word32) : (s.wV r m f).slotLen = s.slotLen := by simp only [State.wV]
@[simp] theorem State.wV_slot (s : State) (r : VReg) (m : BitVec 32) (f : Fin 32 → Word32) : (s.wV r m f).slot = s.slot := by simp only [State.wV]
@[simp] theorem State.wV_slotAt (s : State) (r : VReg) (m : BitVec 32) (f : Fin 32 → Word32) : (s.wV r m f).slotAt = s.slotAt := by simp only [State.wV]
@[simp] theorem State.wV_group (s : State) (r : VReg) (m : BitVec 32) (f : Fin 32 → Word32) : (s.wV r m f).group = s.group := by simp only [State.wV]
@[simp] theorem State.wV_overruns (s : State) (r : VReg) (m : BitVec 32) (f : Fin 32 → Word32) : (s.wV r m f).overruns = s.overruns := by simp only [State.wV]
@[simp] theorem State.wV_mail (s : State) (r : VReg) (m : BitVec 32) (f : Fin 32 → Word32) : (s.wV r m f).mail = s.mail := by simp only [State.wV]
@[simp] theorem State.wV_keymap (s : State) (r : VReg) (m : BitVec 32) (f : Fin 32 → Word32) : (s.wV r m f).keymap = s.keymap := by simp only [State.wV]
@[simp] theorem State.wV_keys (s : State) (r : VReg) (m : BitVec 32) (f : Fin 32 → Word32) : (s.wV r m f).keys = s.keys := by simp only [State.wV]
@[simp] theorem State.wV_keyDraws (s : State) (r : VReg) (m : BitVec 32) (f : Fin 32 → Word32) : (s.wV r m f).keyDraws = s.keyDraws := by simp only [State.wV]
@[simp] theorem State.wV_bootStep (s : State) (r : VReg) (m : BitVec 32) (f : Fin 32 → Word32) : (s.wV r m f).bootStep = s.bootStep := by simp only [State.wV]
@[simp] theorem State.wV_bootFail (s : State) (r : VReg) (m : BitVec 32) (f : Fin 32 → Word32) : (s.wV r m f).bootFail = s.bootFail := by simp only [State.wV]
@[simp] theorem State.wV_fwh (s : State) (r : VReg) (m : BitVec 32) (f : Fin 32 → Word32) : (s.wV r m f).fwh = s.fwh := by simp only [State.wV]
@[simp] theorem State.wV_attKey (s : State) (r : VReg) (m : BitVec 32) (f : Fin 32 → Word32) : (s.wV r m f).attKey = s.attKey := by simp only [State.wV]
@[simp] theorem State.wV_attDraws (s : State) (r : VReg) (m : BitVec 32) (f : Fin 32 → Word32) : (s.wV r m f).attDraws = s.attDraws := by simp only [State.wV]
@[simp] theorem State.wV_ports (s : State) (r : VReg) (m : BitVec 32) (f : Fin 32 → Word32) : (s.wV r m f).ports = s.ports := by simp only [State.wV]
@[simp] theorem State.wV_windows (s : State) (r : VReg) (m : BitVec 32) (f : Fin 32 → Word32) : (s.wV r m f).windows = s.windows := by simp only [State.wV]
@[simp] theorem State.wV_bar (s : State) (r : VReg) (m : BitVec 32) (f : Fin 32 → Word32) : (s.wV r m f).bar = s.bar := by simp only [State.wV]
@[simp] theorem State.wV_pba (s : State) (r : VReg) (m : BitVec 32) (f : Fin 32 → Word32) : (s.wV r m f).pba = s.pba := by simp only [State.wV]
@[simp] theorem State.wV_hot (s : State) (r : VReg) (m : BitVec 32) (f : Fin 32 → Word32) : (s.wV r m f).hot = s.hot := by simp only [State.wV]
@[simp] theorem State.wV_overSince (s : State) (r : VReg) (m : BitVec 32) (f : Fin 32 → Word32) : (s.wV r m f).overSince = s.overSince := by simp only [State.wV]
@[simp] theorem State.wV_wattsSet (s : State) (r : VReg) (m : BitVec 32) (f : Fin 32 → Word32) : (s.wV r m f).wattsSet = s.wattsSet := by simp only [State.wV]
@[simp] theorem State.wV_checks (s : State) (r : VReg) (m : BitVec 32) (f : Fin 32 → Word32) : (s.wV r m f).checks = s.checks := by simp only [State.wV]
@[simp] theorem State.wV_turns (s : State) (r : VReg) (m : BitVec 32) (f : Fin 32 → Word32) : (s.wV r m f).turns = s.turns := by simp only [State.wV]
@[simp] theorem State.wV_throttleAt (s : State) (r : VReg) (m : BitVec 32) (f : Fin 32 → Word32) : (s.wV r m f).throttleAt = s.throttleAt := by simp only [State.wV]

/-! ### wK -/

@[simp] theorem State.wK_agenda (s : State) (k : KReg) (m v : BitVec 32) : (s.wK k m v).agenda = s.agenda := by simp only [State.wK]
@[simp] theorem State.wK_sched (s : State) (k : KReg) (m v : BitVec 32) : (s.wK k m v).sched = s.sched := by simp only [State.wK]
@[simp] theorem State.wK_freeCtr (s : State) (k : KReg) (m v : BitVec 32) : (s.wK k m v).freeCtr = s.freeCtr := by simp only [State.wK]
@[simp] theorem State.wK_nextUid (s : State) (k : KReg) (m v : BitVec 32) : (s.wK k m v).nextUid = s.nextUid := by simp only [State.wK]
@[simp] theorem State.wK_gg (s : State) (k : KReg) (m v : BitVec 32) : (s.wK k m v).gg = s.gg := by simp only [State.wK]
@[simp] theorem State.wK_sel (s : State) (k : KReg) (m v : BitVec 32) : (s.wK k m v).sel = s.sel := by simp only [State.wK]
@[simp] theorem State.wK_gangs (s : State) (k : KReg) (m v : BitVec 32) : (s.wK k m v).gangs = s.gangs := by simp only [State.wK]
@[simp] theorem State.wK_power (s : State) (k : KReg) (m v : BitVec 32) : (s.wK k m v).power = s.power := by simp only [State.wK]
@[simp] theorem State.wK_cycle (s : State) (k : KReg) (m v : BitVec 32) : (s.wK k m v).cycle = s.cycle := by simp only [State.wK]
@[simp] theorem State.wK_ctl (s : State) (k : KReg) (m v : BitVec 32) : (s.wK k m v).ctl = s.ctl := by simp only [State.wK]
@[simp] theorem State.wK_mem (s : State) (k : KReg) (m v : BitVec 32) : (s.wK k m v).mem = s.mem := by simp only [State.wK]
@[simp] theorem State.wK_caches (s : State) (k : KReg) (m v : BitVec 32) : (s.wK k m v).caches = s.caches := by simp only [State.wK]
@[simp] theorem State.wK_fills (s : State) (k : KReg) (m v : BitVec 32) : (s.wK k m v).fills = s.fills := by simp only [State.wK]
@[simp] theorem State.wK_tlbs (s : State) (k : KReg) (m v : BitVec 32) : (s.wK k m v).tlbs = s.tlbs := by simp only [State.wK]
@[simp] theorem State.wK_walks (s : State) (k : KReg) (m v : BitVec 32) : (s.wK k m v).walks = s.walks := by simp only [State.wK]
@[simp] theorem State.wK_wcache (s : State) (k : KReg) (m v : BitVec 32) : (s.wK k m v).wcache = s.wcache := by simp only [State.wK]
@[simp] theorem State.wK_parts (s : State) (k : KReg) (m v : BitVec 32) : (s.wK k m v).parts = s.parts := by simp only [State.wK]
@[simp] theorem State.wK_queues (s : State) (k : KReg) (m v : BitVec 32) : (s.wK k m v).queues = s.queues := by simp only [State.wK]
@[simp] theorem State.wK_served (s : State) (k : KReg) (m v : BitVec 32) : (s.wK k m v).served = s.served := by simp only [State.wK]
@[simp] theorem State.wK_cores (s : State) (k : KReg) (m v : BitVec 32) : (s.wK k m v).cores = s.cores := by simp only [State.wK]
@[simp] theorem State.wK_clusters (s : State) (k : KReg) (m v : BitVec 32) : (s.wK k m v).clusters = s.clusters := by simp only [State.wK]
@[simp] theorem State.wK_ring (s : State) (k : KReg) (m v : BitVec 32) : (s.wK k m v).ring = s.ring := by simp only [State.wK]
@[simp] theorem State.wK_packets (s : State) (k : KReg) (m v : BitVec 32) : (s.wK k m v).packets = s.packets := by simp only [State.wK]
@[simp] theorem State.wK_watts (s : State) (k : KReg) (m v : BitVec 32) : (s.wK k m v).watts = s.watts := by simp only [State.wK]
@[simp] theorem State.wK_wfw (s : State) (k : KReg) (m v : BitVec 32) : (s.wK k m v).wfw = s.wfw := by simp only [State.wK]
@[simp] theorem State.wK_fwCarry (s : State) (k : KReg) (m v : BitVec 32) : (s.wK k m v).fwCarry = s.fwCarry := by simp only [State.wK]
@[simp] theorem State.wK_fwTotal (s : State) (k : KReg) (m v : BitVec 32) : (s.wK k m v).fwTotal = s.fwTotal := by simp only [State.wK]
@[simp] theorem State.wK_lapServes (s : State) (k : KReg) (m v : BitVec 32) : (s.wK k m v).lapServes = s.lapServes := by simp only [State.wK]
@[simp] theorem State.wK_lapFixed (s : State) (k : KReg) (m v : BitVec 32) : (s.wK k m v).lapFixed = s.lapFixed := by simp only [State.wK]
@[simp] theorem State.wK_prices (s : State) (k : KReg) (m v : BitVec 32) : (s.wK k m v).prices = s.prices := by simp only [State.wK]
@[simp] theorem State.wK_priceNext (s : State) (k : KReg) (m v : BitVec 32) : (s.wK k m v).priceNext = s.priceNext := by simp only [State.wK]
@[simp] theorem State.wK_boosts (s : State) (k : KReg) (m v : BitVec 32) : (s.wK k m v).boosts = s.boosts := by simp only [State.wK]
@[simp] theorem State.wK_late (s : State) (k : KReg) (m v : BitVec 32) : (s.wK k m v).late = s.late := by simp only [State.wK]
@[simp] theorem State.wK_modnum (s : State) (k : KReg) (m v : BitVec 32) : (s.wK k m v).modnum = s.modnum := by simp only [State.wK]
@[simp] theorem State.wK_domain (s : State) (k : KReg) (m v : BitVec 32) : (s.wK k m v).domain = s.domain := by simp only [State.wK]
@[simp] theorem State.wK_lost (s : State) (k : KReg) (m v : BitVec 32) : (s.wK k m v).lost = s.lost := by simp only [State.wK]
@[simp] theorem State.wK_bad (s : State) (k : KReg) (m v : BitVec 32) : (s.wK k m v).bad = s.bad := by simp only [State.wK]
@[simp] theorem State.wK_msi (s : State) (k : KReg) (m v : BitVec 32) : (s.wK k m v).msi = s.msi := by simp only [State.wK]
@[simp] theorem State.wK_bells (s : State) (k : KReg) (m v : BitVec 32) : (s.wK k m v).bells = s.bells := by simp only [State.wK]
@[simp] theorem State.wK_works (s : State) (k : KReg) (m v : BitVec 32) : (s.wK k m v).works = s.works := by simp only [State.wK]
@[simp] theorem State.wK_jobSel (s : State) (k : KReg) (m v : BitVec 32) : (s.wK k m v).jobSel = s.jobSel := by simp only [State.wK]
@[simp] theorem State.wK_piles (s : State) (k : KReg) (m v : BitVec 32) : (s.wK k m v).piles = s.piles := by simp only [State.wK]
@[simp] theorem State.wK_regions (s : State) (k : KReg) (m v : BitVec 32) : (s.wK k m v).regions = s.regions := by simp only [State.wK]
@[simp] theorem State.wK_images (s : State) (k : KReg) (m v : BitVec 32) : (s.wK k m v).images = s.images := by simp only [State.wK]
@[simp] theorem State.wK_loads (s : State) (k : KReg) (m v : BitVec 32) : (s.wK k m v).loads = s.loads := by simp only [State.wK]
@[simp] theorem State.wK_imageKey (s : State) (k : KReg) (m v : BitVec 32) : (s.wK k m v).imageKey = s.imageKey := by simp only [State.wK]
@[simp] theorem State.wK_imgh (s : State) (k : KReg) (m v : BitVec 32) : (s.wK k m v).imgh = s.imgh := by simp only [State.wK]
@[simp] theorem State.wK_held (s : State) (k : KReg) (m v : BitVec 32) : (s.wK k m v).held = s.held := by simp only [State.wK]
@[simp] theorem State.wK_saved (s : State) (k : KReg) (m v : BitVec 32) : (s.wK k m v).saved = s.saved := by simp only [State.wK]
@[simp] theorem State.wK_drains (s : State) (k : KReg) (m v : BitVec 32) : (s.wK k m v).drains = s.drains := by simp only [State.wK]
@[simp] theorem State.wK_slotLen (s : State) (k : KReg) (m v : BitVec 32) : (s.wK k m v).slotLen = s.slotLen := by simp only [State.wK]
@[simp] theorem State.wK_slot (s : State) (k : KReg) (m v : BitVec 32) : (s.wK k m v).slot = s.slot := by simp only [State.wK]
@[simp] theorem State.wK_slotAt (s : State) (k : KReg) (m v : BitVec 32) : (s.wK k m v).slotAt = s.slotAt := by simp only [State.wK]
@[simp] theorem State.wK_group (s : State) (k : KReg) (m v : BitVec 32) : (s.wK k m v).group = s.group := by simp only [State.wK]
@[simp] theorem State.wK_overruns (s : State) (k : KReg) (m v : BitVec 32) : (s.wK k m v).overruns = s.overruns := by simp only [State.wK]
@[simp] theorem State.wK_mail (s : State) (k : KReg) (m v : BitVec 32) : (s.wK k m v).mail = s.mail := by simp only [State.wK]
@[simp] theorem State.wK_keymap (s : State) (k : KReg) (m v : BitVec 32) : (s.wK k m v).keymap = s.keymap := by simp only [State.wK]
@[simp] theorem State.wK_keys (s : State) (k : KReg) (m v : BitVec 32) : (s.wK k m v).keys = s.keys := by simp only [State.wK]
@[simp] theorem State.wK_keyDraws (s : State) (k : KReg) (m v : BitVec 32) : (s.wK k m v).keyDraws = s.keyDraws := by simp only [State.wK]
@[simp] theorem State.wK_bootStep (s : State) (k : KReg) (m v : BitVec 32) : (s.wK k m v).bootStep = s.bootStep := by simp only [State.wK]
@[simp] theorem State.wK_bootFail (s : State) (k : KReg) (m v : BitVec 32) : (s.wK k m v).bootFail = s.bootFail := by simp only [State.wK]
@[simp] theorem State.wK_fwh (s : State) (k : KReg) (m v : BitVec 32) : (s.wK k m v).fwh = s.fwh := by simp only [State.wK]
@[simp] theorem State.wK_attKey (s : State) (k : KReg) (m v : BitVec 32) : (s.wK k m v).attKey = s.attKey := by simp only [State.wK]
@[simp] theorem State.wK_attDraws (s : State) (k : KReg) (m v : BitVec 32) : (s.wK k m v).attDraws = s.attDraws := by simp only [State.wK]
@[simp] theorem State.wK_ports (s : State) (k : KReg) (m v : BitVec 32) : (s.wK k m v).ports = s.ports := by simp only [State.wK]
@[simp] theorem State.wK_windows (s : State) (k : KReg) (m v : BitVec 32) : (s.wK k m v).windows = s.windows := by simp only [State.wK]
@[simp] theorem State.wK_bar (s : State) (k : KReg) (m v : BitVec 32) : (s.wK k m v).bar = s.bar := by simp only [State.wK]
@[simp] theorem State.wK_pba (s : State) (k : KReg) (m v : BitVec 32) : (s.wK k m v).pba = s.pba := by simp only [State.wK]
@[simp] theorem State.wK_hot (s : State) (k : KReg) (m v : BitVec 32) : (s.wK k m v).hot = s.hot := by simp only [State.wK]
@[simp] theorem State.wK_overSince (s : State) (k : KReg) (m v : BitVec 32) : (s.wK k m v).overSince = s.overSince := by simp only [State.wK]
@[simp] theorem State.wK_wattsSet (s : State) (k : KReg) (m v : BitVec 32) : (s.wK k m v).wattsSet = s.wattsSet := by simp only [State.wK]
@[simp] theorem State.wK_checks (s : State) (k : KReg) (m v : BitVec 32) : (s.wK k m v).checks = s.checks := by simp only [State.wK]
@[simp] theorem State.wK_turns (s : State) (k : KReg) (m v : BitVec 32) : (s.wK k m v).turns = s.turns := by simp only [State.wK]
@[simp] theorem State.wK_throttleAt (s : State) (k : KReg) (m v : BitVec 32) : (s.wK k m v).throttleAt = s.throttleAt := by simp only [State.wK]

/-! ### advanceDraws -/

@[simp] theorem State.advanceDraws_agenda (s : State) (m : BitVec 32) (n : Nat) : (s.advanceDraws m n).agenda = s.agenda := by simp only [State.advanceDraws]
@[simp] theorem State.advanceDraws_sched (s : State) (m : BitVec 32) (n : Nat) : (s.advanceDraws m n).sched = s.sched := by simp only [State.advanceDraws]
@[simp] theorem State.advanceDraws_freeCtr (s : State) (m : BitVec 32) (n : Nat) : (s.advanceDraws m n).freeCtr = s.freeCtr := by simp only [State.advanceDraws]
@[simp] theorem State.advanceDraws_nextUid (s : State) (m : BitVec 32) (n : Nat) : (s.advanceDraws m n).nextUid = s.nextUid := by simp only [State.advanceDraws]
@[simp] theorem State.advanceDraws_gg (s : State) (m : BitVec 32) (n : Nat) : (s.advanceDraws m n).gg = s.gg := by simp only [State.advanceDraws]
@[simp] theorem State.advanceDraws_sel (s : State) (m : BitVec 32) (n : Nat) : (s.advanceDraws m n).sel = s.sel := by simp only [State.advanceDraws]
@[simp] theorem State.advanceDraws_gangs (s : State) (m : BitVec 32) (n : Nat) : (s.advanceDraws m n).gangs = s.gangs := by simp only [State.advanceDraws]
@[simp] theorem State.advanceDraws_power (s : State) (m : BitVec 32) (n : Nat) : (s.advanceDraws m n).power = s.power := by simp only [State.advanceDraws]
@[simp] theorem State.advanceDraws_cycle (s : State) (m : BitVec 32) (n : Nat) : (s.advanceDraws m n).cycle = s.cycle := by simp only [State.advanceDraws]
@[simp] theorem State.advanceDraws_ctl (s : State) (m : BitVec 32) (n : Nat) : (s.advanceDraws m n).ctl = s.ctl := by simp only [State.advanceDraws]
@[simp] theorem State.advanceDraws_mem (s : State) (m : BitVec 32) (n : Nat) : (s.advanceDraws m n).mem = s.mem := by simp only [State.advanceDraws]
@[simp] theorem State.advanceDraws_caches (s : State) (m : BitVec 32) (n : Nat) : (s.advanceDraws m n).caches = s.caches := by simp only [State.advanceDraws]
@[simp] theorem State.advanceDraws_fills (s : State) (m : BitVec 32) (n : Nat) : (s.advanceDraws m n).fills = s.fills := by simp only [State.advanceDraws]
@[simp] theorem State.advanceDraws_tlbs (s : State) (m : BitVec 32) (n : Nat) : (s.advanceDraws m n).tlbs = s.tlbs := by simp only [State.advanceDraws]
@[simp] theorem State.advanceDraws_walks (s : State) (m : BitVec 32) (n : Nat) : (s.advanceDraws m n).walks = s.walks := by simp only [State.advanceDraws]
@[simp] theorem State.advanceDraws_wcache (s : State) (m : BitVec 32) (n : Nat) : (s.advanceDraws m n).wcache = s.wcache := by simp only [State.advanceDraws]
@[simp] theorem State.advanceDraws_parts (s : State) (m : BitVec 32) (n : Nat) : (s.advanceDraws m n).parts = s.parts := by simp only [State.advanceDraws]
@[simp] theorem State.advanceDraws_queues (s : State) (m : BitVec 32) (n : Nat) : (s.advanceDraws m n).queues = s.queues := by simp only [State.advanceDraws]
@[simp] theorem State.advanceDraws_served (s : State) (m : BitVec 32) (n : Nat) : (s.advanceDraws m n).served = s.served := by simp only [State.advanceDraws]
@[simp] theorem State.advanceDraws_cores (s : State) (m : BitVec 32) (n : Nat) : (s.advanceDraws m n).cores = s.cores := by simp only [State.advanceDraws]
@[simp] theorem State.advanceDraws_clusters (s : State) (m : BitVec 32) (n : Nat) : (s.advanceDraws m n).clusters = s.clusters := by simp only [State.advanceDraws]
@[simp] theorem State.advanceDraws_ring (s : State) (m : BitVec 32) (n : Nat) : (s.advanceDraws m n).ring = s.ring := by simp only [State.advanceDraws]
@[simp] theorem State.advanceDraws_packets (s : State) (m : BitVec 32) (n : Nat) : (s.advanceDraws m n).packets = s.packets := by simp only [State.advanceDraws]
@[simp] theorem State.advanceDraws_watts (s : State) (m : BitVec 32) (n : Nat) : (s.advanceDraws m n).watts = s.watts := by simp only [State.advanceDraws]
@[simp] theorem State.advanceDraws_wfw (s : State) (m : BitVec 32) (n : Nat) : (s.advanceDraws m n).wfw = s.wfw := by simp only [State.advanceDraws]
@[simp] theorem State.advanceDraws_fwCarry (s : State) (m : BitVec 32) (n : Nat) : (s.advanceDraws m n).fwCarry = s.fwCarry := by simp only [State.advanceDraws]
@[simp] theorem State.advanceDraws_fwTotal (s : State) (m : BitVec 32) (n : Nat) : (s.advanceDraws m n).fwTotal = s.fwTotal := by simp only [State.advanceDraws]
@[simp] theorem State.advanceDraws_lapServes (s : State) (m : BitVec 32) (n : Nat) : (s.advanceDraws m n).lapServes = s.lapServes := by simp only [State.advanceDraws]
@[simp] theorem State.advanceDraws_lapFixed (s : State) (m : BitVec 32) (n : Nat) : (s.advanceDraws m n).lapFixed = s.lapFixed := by simp only [State.advanceDraws]
@[simp] theorem State.advanceDraws_prices (s : State) (m : BitVec 32) (n : Nat) : (s.advanceDraws m n).prices = s.prices := by simp only [State.advanceDraws]
@[simp] theorem State.advanceDraws_priceNext (s : State) (m : BitVec 32) (n : Nat) : (s.advanceDraws m n).priceNext = s.priceNext := by simp only [State.advanceDraws]
@[simp] theorem State.advanceDraws_boosts (s : State) (m : BitVec 32) (n : Nat) : (s.advanceDraws m n).boosts = s.boosts := by simp only [State.advanceDraws]
@[simp] theorem State.advanceDraws_late (s : State) (m : BitVec 32) (n : Nat) : (s.advanceDraws m n).late = s.late := by simp only [State.advanceDraws]
@[simp] theorem State.advanceDraws_modnum (s : State) (m : BitVec 32) (n : Nat) : (s.advanceDraws m n).modnum = s.modnum := by simp only [State.advanceDraws]
@[simp] theorem State.advanceDraws_domain (s : State) (m : BitVec 32) (n : Nat) : (s.advanceDraws m n).domain = s.domain := by simp only [State.advanceDraws]
@[simp] theorem State.advanceDraws_lost (s : State) (m : BitVec 32) (n : Nat) : (s.advanceDraws m n).lost = s.lost := by simp only [State.advanceDraws]
@[simp] theorem State.advanceDraws_bad (s : State) (m : BitVec 32) (n : Nat) : (s.advanceDraws m n).bad = s.bad := by simp only [State.advanceDraws]
@[simp] theorem State.advanceDraws_msi (s : State) (m : BitVec 32) (n : Nat) : (s.advanceDraws m n).msi = s.msi := by simp only [State.advanceDraws]
@[simp] theorem State.advanceDraws_bells (s : State) (m : BitVec 32) (n : Nat) : (s.advanceDraws m n).bells = s.bells := by simp only [State.advanceDraws]
@[simp] theorem State.advanceDraws_works (s : State) (m : BitVec 32) (n : Nat) : (s.advanceDraws m n).works = s.works := by simp only [State.advanceDraws]
@[simp] theorem State.advanceDraws_jobSel (s : State) (m : BitVec 32) (n : Nat) : (s.advanceDraws m n).jobSel = s.jobSel := by simp only [State.advanceDraws]
@[simp] theorem State.advanceDraws_piles (s : State) (m : BitVec 32) (n : Nat) : (s.advanceDraws m n).piles = s.piles := by simp only [State.advanceDraws]
@[simp] theorem State.advanceDraws_regions (s : State) (m : BitVec 32) (n : Nat) : (s.advanceDraws m n).regions = s.regions := by simp only [State.advanceDraws]
@[simp] theorem State.advanceDraws_images (s : State) (m : BitVec 32) (n : Nat) : (s.advanceDraws m n).images = s.images := by simp only [State.advanceDraws]
@[simp] theorem State.advanceDraws_loads (s : State) (m : BitVec 32) (n : Nat) : (s.advanceDraws m n).loads = s.loads := by simp only [State.advanceDraws]
@[simp] theorem State.advanceDraws_imageKey (s : State) (m : BitVec 32) (n : Nat) : (s.advanceDraws m n).imageKey = s.imageKey := by simp only [State.advanceDraws]
@[simp] theorem State.advanceDraws_imgh (s : State) (m : BitVec 32) (n : Nat) : (s.advanceDraws m n).imgh = s.imgh := by simp only [State.advanceDraws]
@[simp] theorem State.advanceDraws_held (s : State) (m : BitVec 32) (n : Nat) : (s.advanceDraws m n).held = s.held := by simp only [State.advanceDraws]
@[simp] theorem State.advanceDraws_saved (s : State) (m : BitVec 32) (n : Nat) : (s.advanceDraws m n).saved = s.saved := by simp only [State.advanceDraws]
@[simp] theorem State.advanceDraws_drains (s : State) (m : BitVec 32) (n : Nat) : (s.advanceDraws m n).drains = s.drains := by simp only [State.advanceDraws]
@[simp] theorem State.advanceDraws_slotLen (s : State) (m : BitVec 32) (n : Nat) : (s.advanceDraws m n).slotLen = s.slotLen := by simp only [State.advanceDraws]
@[simp] theorem State.advanceDraws_slot (s : State) (m : BitVec 32) (n : Nat) : (s.advanceDraws m n).slot = s.slot := by simp only [State.advanceDraws]
@[simp] theorem State.advanceDraws_slotAt (s : State) (m : BitVec 32) (n : Nat) : (s.advanceDraws m n).slotAt = s.slotAt := by simp only [State.advanceDraws]
@[simp] theorem State.advanceDraws_group (s : State) (m : BitVec 32) (n : Nat) : (s.advanceDraws m n).group = s.group := by simp only [State.advanceDraws]
@[simp] theorem State.advanceDraws_overruns (s : State) (m : BitVec 32) (n : Nat) : (s.advanceDraws m n).overruns = s.overruns := by simp only [State.advanceDraws]
@[simp] theorem State.advanceDraws_mail (s : State) (m : BitVec 32) (n : Nat) : (s.advanceDraws m n).mail = s.mail := by simp only [State.advanceDraws]
@[simp] theorem State.advanceDraws_keymap (s : State) (m : BitVec 32) (n : Nat) : (s.advanceDraws m n).keymap = s.keymap := by simp only [State.advanceDraws]
@[simp] theorem State.advanceDraws_keys (s : State) (m : BitVec 32) (n : Nat) : (s.advanceDraws m n).keys = s.keys := by simp only [State.advanceDraws]
@[simp] theorem State.advanceDraws_keyDraws (s : State) (m : BitVec 32) (n : Nat) : (s.advanceDraws m n).keyDraws = s.keyDraws := by simp only [State.advanceDraws]
@[simp] theorem State.advanceDraws_bootStep (s : State) (m : BitVec 32) (n : Nat) : (s.advanceDraws m n).bootStep = s.bootStep := by simp only [State.advanceDraws]
@[simp] theorem State.advanceDraws_bootFail (s : State) (m : BitVec 32) (n : Nat) : (s.advanceDraws m n).bootFail = s.bootFail := by simp only [State.advanceDraws]
@[simp] theorem State.advanceDraws_fwh (s : State) (m : BitVec 32) (n : Nat) : (s.advanceDraws m n).fwh = s.fwh := by simp only [State.advanceDraws]
@[simp] theorem State.advanceDraws_attKey (s : State) (m : BitVec 32) (n : Nat) : (s.advanceDraws m n).attKey = s.attKey := by simp only [State.advanceDraws]
@[simp] theorem State.advanceDraws_attDraws (s : State) (m : BitVec 32) (n : Nat) : (s.advanceDraws m n).attDraws = s.attDraws := by simp only [State.advanceDraws]
@[simp] theorem State.advanceDraws_ports (s : State) (m : BitVec 32) (n : Nat) : (s.advanceDraws m n).ports = s.ports := by simp only [State.advanceDraws]
@[simp] theorem State.advanceDraws_windows (s : State) (m : BitVec 32) (n : Nat) : (s.advanceDraws m n).windows = s.windows := by simp only [State.advanceDraws]
@[simp] theorem State.advanceDraws_bar (s : State) (m : BitVec 32) (n : Nat) : (s.advanceDraws m n).bar = s.bar := by simp only [State.advanceDraws]
@[simp] theorem State.advanceDraws_pba (s : State) (m : BitVec 32) (n : Nat) : (s.advanceDraws m n).pba = s.pba := by simp only [State.advanceDraws]
@[simp] theorem State.advanceDraws_hot (s : State) (m : BitVec 32) (n : Nat) : (s.advanceDraws m n).hot = s.hot := by simp only [State.advanceDraws]
@[simp] theorem State.advanceDraws_overSince (s : State) (m : BitVec 32) (n : Nat) : (s.advanceDraws m n).overSince = s.overSince := by simp only [State.advanceDraws]
@[simp] theorem State.advanceDraws_wattsSet (s : State) (m : BitVec 32) (n : Nat) : (s.advanceDraws m n).wattsSet = s.wattsSet := by simp only [State.advanceDraws]
@[simp] theorem State.advanceDraws_checks (s : State) (m : BitVec 32) (n : Nat) : (s.advanceDraws m n).checks = s.checks := by simp only [State.advanceDraws]
@[simp] theorem State.advanceDraws_turns (s : State) (m : BitVec 32) (n : Nat) : (s.advanceDraws m n).turns = s.turns := by simp only [State.advanceDraws]
@[simp] theorem State.advanceDraws_throttleAt (s : State) (m : BitVec 32) (n : Nat) : (s.advanceDraws m n).throttleAt = s.throttleAt := by simp only [State.advanceDraws]

/-! ### setPart -/

@[simp] theorem State.setPart_agenda (s : State) (p : Partition) : (s.setPart p).agenda = s.agenda := by simp only [State.setPart]
@[simp] theorem State.setPart_sched (s : State) (p : Partition) : (s.setPart p).sched = s.sched := by simp only [State.setPart]
@[simp] theorem State.setPart_freeCtr (s : State) (p : Partition) : (s.setPart p).freeCtr = s.freeCtr := by simp only [State.setPart]
@[simp] theorem State.setPart_nextUid (s : State) (p : Partition) : (s.setPart p).nextUid = s.nextUid := by simp only [State.setPart]
@[simp] theorem State.setPart_gg (s : State) (p : Partition) : (s.setPart p).gg = s.gg := by simp only [State.setPart]
@[simp] theorem State.setPart_tr (s : State) (p : Partition) : (s.setPart p).tr = s.tr := by simp only [State.setPart]
@[simp] theorem State.setPart_sel (s : State) (p : Partition) : (s.setPart p).sel = s.sel := by simp only [State.setPart]
@[simp] theorem State.setPart_gangs (s : State) (p : Partition) : (s.setPart p).gangs = s.gangs := by simp only [State.setPart]
@[simp] theorem State.setPart_power (s : State) (p : Partition) : (s.setPart p).power = s.power := by simp only [State.setPart]
@[simp] theorem State.setPart_cycle (s : State) (p : Partition) : (s.setPart p).cycle = s.cycle := by simp only [State.setPart]
@[simp] theorem State.setPart_ctl (s : State) (p : Partition) : (s.setPart p).ctl = s.ctl := by simp only [State.setPart]
@[simp] theorem State.setPart_mem (s : State) (p : Partition) : (s.setPart p).mem = s.mem := by simp only [State.setPart]
@[simp] theorem State.setPart_caches (s : State) (p : Partition) : (s.setPart p).caches = s.caches := by simp only [State.setPart]
@[simp] theorem State.setPart_fills (s : State) (p : Partition) : (s.setPart p).fills = s.fills := by simp only [State.setPart]
@[simp] theorem State.setPart_tlbs (s : State) (p : Partition) : (s.setPart p).tlbs = s.tlbs := by simp only [State.setPart]
@[simp] theorem State.setPart_walks (s : State) (p : Partition) : (s.setPart p).walks = s.walks := by simp only [State.setPart]
@[simp] theorem State.setPart_wcache (s : State) (p : Partition) : (s.setPart p).wcache = s.wcache := by simp only [State.setPart]
@[simp] theorem State.setPart_queues (s : State) (p : Partition) : (s.setPart p).queues = s.queues := by simp only [State.setPart]
@[simp] theorem State.setPart_served (s : State) (p : Partition) : (s.setPart p).served = s.served := by simp only [State.setPart]
@[simp] theorem State.setPart_cores (s : State) (p : Partition) : (s.setPart p).cores = s.cores := by simp only [State.setPart]
@[simp] theorem State.setPart_clusters (s : State) (p : Partition) : (s.setPart p).clusters = s.clusters := by simp only [State.setPart]
@[simp] theorem State.setPart_ring (s : State) (p : Partition) : (s.setPart p).ring = s.ring := by simp only [State.setPart]
@[simp] theorem State.setPart_packets (s : State) (p : Partition) : (s.setPart p).packets = s.packets := by simp only [State.setPart]
@[simp] theorem State.setPart_watts (s : State) (p : Partition) : (s.setPart p).watts = s.watts := by simp only [State.setPart]
@[simp] theorem State.setPart_wfw (s : State) (p : Partition) : (s.setPart p).wfw = s.wfw := by simp only [State.setPart]
@[simp] theorem State.setPart_fwCarry (s : State) (p : Partition) : (s.setPart p).fwCarry = s.fwCarry := by simp only [State.setPart]
@[simp] theorem State.setPart_fwTotal (s : State) (p : Partition) : (s.setPart p).fwTotal = s.fwTotal := by simp only [State.setPart]
@[simp] theorem State.setPart_lapServes (s : State) (p : Partition) : (s.setPart p).lapServes = s.lapServes := by simp only [State.setPart]
@[simp] theorem State.setPart_lapFixed (s : State) (p : Partition) : (s.setPart p).lapFixed = s.lapFixed := by simp only [State.setPart]
@[simp] theorem State.setPart_prices (s : State) (p : Partition) : (s.setPart p).prices = s.prices := by simp only [State.setPart]
@[simp] theorem State.setPart_priceNext (s : State) (p : Partition) : (s.setPart p).priceNext = s.priceNext := by simp only [State.setPart]
@[simp] theorem State.setPart_boosts (s : State) (p : Partition) : (s.setPart p).boosts = s.boosts := by simp only [State.setPart]
@[simp] theorem State.setPart_late (s : State) (p : Partition) : (s.setPart p).late = s.late := by simp only [State.setPart]
@[simp] theorem State.setPart_modnum (s : State) (p : Partition) : (s.setPart p).modnum = s.modnum := by simp only [State.setPart]
@[simp] theorem State.setPart_domain (s : State) (p : Partition) : (s.setPart p).domain = s.domain := by simp only [State.setPart]
@[simp] theorem State.setPart_lost (s : State) (p : Partition) : (s.setPart p).lost = s.lost := by simp only [State.setPart]
@[simp] theorem State.setPart_bad (s : State) (p : Partition) : (s.setPart p).bad = s.bad := by simp only [State.setPart]
@[simp] theorem State.setPart_msi (s : State) (p : Partition) : (s.setPart p).msi = s.msi := by simp only [State.setPart]
@[simp] theorem State.setPart_bells (s : State) (p : Partition) : (s.setPart p).bells = s.bells := by simp only [State.setPart]
@[simp] theorem State.setPart_works (s : State) (p : Partition) : (s.setPart p).works = s.works := by simp only [State.setPart]
@[simp] theorem State.setPart_jobSel (s : State) (p : Partition) : (s.setPart p).jobSel = s.jobSel := by simp only [State.setPart]
@[simp] theorem State.setPart_piles (s : State) (p : Partition) : (s.setPart p).piles = s.piles := by simp only [State.setPart]
@[simp] theorem State.setPart_regions (s : State) (p : Partition) : (s.setPart p).regions = s.regions := by simp only [State.setPart]
@[simp] theorem State.setPart_images (s : State) (p : Partition) : (s.setPart p).images = s.images := by simp only [State.setPart]
@[simp] theorem State.setPart_loads (s : State) (p : Partition) : (s.setPart p).loads = s.loads := by simp only [State.setPart]
@[simp] theorem State.setPart_imageKey (s : State) (p : Partition) : (s.setPart p).imageKey = s.imageKey := by simp only [State.setPart]
@[simp] theorem State.setPart_imgh (s : State) (p : Partition) : (s.setPart p).imgh = s.imgh := by simp only [State.setPart]
@[simp] theorem State.setPart_held (s : State) (p : Partition) : (s.setPart p).held = s.held := by simp only [State.setPart]
@[simp] theorem State.setPart_saved (s : State) (p : Partition) : (s.setPart p).saved = s.saved := by simp only [State.setPart]
@[simp] theorem State.setPart_drains (s : State) (p : Partition) : (s.setPart p).drains = s.drains := by simp only [State.setPart]
@[simp] theorem State.setPart_slotLen (s : State) (p : Partition) : (s.setPart p).slotLen = s.slotLen := by simp only [State.setPart]
@[simp] theorem State.setPart_slot (s : State) (p : Partition) : (s.setPart p).slot = s.slot := by simp only [State.setPart]
@[simp] theorem State.setPart_slotAt (s : State) (p : Partition) : (s.setPart p).slotAt = s.slotAt := by simp only [State.setPart]
@[simp] theorem State.setPart_group (s : State) (p : Partition) : (s.setPart p).group = s.group := by simp only [State.setPart]
@[simp] theorem State.setPart_overruns (s : State) (p : Partition) : (s.setPart p).overruns = s.overruns := by simp only [State.setPart]
@[simp] theorem State.setPart_mail (s : State) (p : Partition) : (s.setPart p).mail = s.mail := by simp only [State.setPart]
@[simp] theorem State.setPart_keymap (s : State) (p : Partition) : (s.setPart p).keymap = s.keymap := by simp only [State.setPart]
@[simp] theorem State.setPart_keys (s : State) (p : Partition) : (s.setPart p).keys = s.keys := by simp only [State.setPart]
@[simp] theorem State.setPart_keyDraws (s : State) (p : Partition) : (s.setPart p).keyDraws = s.keyDraws := by simp only [State.setPart]
@[simp] theorem State.setPart_bootStep (s : State) (p : Partition) : (s.setPart p).bootStep = s.bootStep := by simp only [State.setPart]
@[simp] theorem State.setPart_bootFail (s : State) (p : Partition) : (s.setPart p).bootFail = s.bootFail := by simp only [State.setPart]
@[simp] theorem State.setPart_fwh (s : State) (p : Partition) : (s.setPart p).fwh = s.fwh := by simp only [State.setPart]
@[simp] theorem State.setPart_attKey (s : State) (p : Partition) : (s.setPart p).attKey = s.attKey := by simp only [State.setPart]
@[simp] theorem State.setPart_attDraws (s : State) (p : Partition) : (s.setPart p).attDraws = s.attDraws := by simp only [State.setPart]
@[simp] theorem State.setPart_ports (s : State) (p : Partition) : (s.setPart p).ports = s.ports := by simp only [State.setPart]
@[simp] theorem State.setPart_windows (s : State) (p : Partition) : (s.setPart p).windows = s.windows := by simp only [State.setPart]
@[simp] theorem State.setPart_bar (s : State) (p : Partition) : (s.setPart p).bar = s.bar := by simp only [State.setPart]
@[simp] theorem State.setPart_pba (s : State) (p : Partition) : (s.setPart p).pba = s.pba := by simp only [State.setPart]
@[simp] theorem State.setPart_hot (s : State) (p : Partition) : (s.setPart p).hot = s.hot := by simp only [State.setPart]
@[simp] theorem State.setPart_overSince (s : State) (p : Partition) : (s.setPart p).overSince = s.overSince := by simp only [State.setPart]
@[simp] theorem State.setPart_wattsSet (s : State) (p : Partition) : (s.setPart p).wattsSet = s.wattsSet := by simp only [State.setPart]
@[simp] theorem State.setPart_checks (s : State) (p : Partition) : (s.setPart p).checks = s.checks := by simp only [State.setPart]
@[simp] theorem State.setPart_turns (s : State) (p : Partition) : (s.setPart p).turns = s.turns := by simp only [State.setPart]
@[simp] theorem State.setPart_throttleAt (s : State) (p : Partition) : (s.setPart p).throttleAt = s.throttleAt := by simp only [State.setPart]

/-! ### setQueue -/

@[simp] theorem State.setQueue_agenda (s : State) (q : Queue) : (s.setQueue q).agenda = s.agenda := by simp only [State.setQueue]
@[simp] theorem State.setQueue_sched (s : State) (q : Queue) : (s.setQueue q).sched = s.sched := by simp only [State.setQueue]
@[simp] theorem State.setQueue_freeCtr (s : State) (q : Queue) : (s.setQueue q).freeCtr = s.freeCtr := by simp only [State.setQueue]
@[simp] theorem State.setQueue_nextUid (s : State) (q : Queue) : (s.setQueue q).nextUid = s.nextUid := by simp only [State.setQueue]
@[simp] theorem State.setQueue_gg (s : State) (q : Queue) : (s.setQueue q).gg = s.gg := by simp only [State.setQueue]
@[simp] theorem State.setQueue_tr (s : State) (q : Queue) : (s.setQueue q).tr = s.tr := by simp only [State.setQueue]
@[simp] theorem State.setQueue_sel (s : State) (q : Queue) : (s.setQueue q).sel = s.sel := by simp only [State.setQueue]
@[simp] theorem State.setQueue_gangs (s : State) (q : Queue) : (s.setQueue q).gangs = s.gangs := by simp only [State.setQueue]
@[simp] theorem State.setQueue_power (s : State) (q : Queue) : (s.setQueue q).power = s.power := by simp only [State.setQueue]
@[simp] theorem State.setQueue_cycle (s : State) (q : Queue) : (s.setQueue q).cycle = s.cycle := by simp only [State.setQueue]
@[simp] theorem State.setQueue_ctl (s : State) (q : Queue) : (s.setQueue q).ctl = s.ctl := by simp only [State.setQueue]
@[simp] theorem State.setQueue_mem (s : State) (q : Queue) : (s.setQueue q).mem = s.mem := by simp only [State.setQueue]
@[simp] theorem State.setQueue_caches (s : State) (q : Queue) : (s.setQueue q).caches = s.caches := by simp only [State.setQueue]
@[simp] theorem State.setQueue_fills (s : State) (q : Queue) : (s.setQueue q).fills = s.fills := by simp only [State.setQueue]
@[simp] theorem State.setQueue_tlbs (s : State) (q : Queue) : (s.setQueue q).tlbs = s.tlbs := by simp only [State.setQueue]
@[simp] theorem State.setQueue_walks (s : State) (q : Queue) : (s.setQueue q).walks = s.walks := by simp only [State.setQueue]
@[simp] theorem State.setQueue_wcache (s : State) (q : Queue) : (s.setQueue q).wcache = s.wcache := by simp only [State.setQueue]
@[simp] theorem State.setQueue_parts (s : State) (q : Queue) : (s.setQueue q).parts = s.parts := by simp only [State.setQueue]
@[simp] theorem State.setQueue_served (s : State) (q : Queue) : (s.setQueue q).served = s.served := by simp only [State.setQueue]
@[simp] theorem State.setQueue_cores (s : State) (q : Queue) : (s.setQueue q).cores = s.cores := by simp only [State.setQueue]
@[simp] theorem State.setQueue_clusters (s : State) (q : Queue) : (s.setQueue q).clusters = s.clusters := by simp only [State.setQueue]
@[simp] theorem State.setQueue_ring (s : State) (q : Queue) : (s.setQueue q).ring = s.ring := by simp only [State.setQueue]
@[simp] theorem State.setQueue_packets (s : State) (q : Queue) : (s.setQueue q).packets = s.packets := by simp only [State.setQueue]
@[simp] theorem State.setQueue_watts (s : State) (q : Queue) : (s.setQueue q).watts = s.watts := by simp only [State.setQueue]
@[simp] theorem State.setQueue_wfw (s : State) (q : Queue) : (s.setQueue q).wfw = s.wfw := by simp only [State.setQueue]
@[simp] theorem State.setQueue_fwCarry (s : State) (q : Queue) : (s.setQueue q).fwCarry = s.fwCarry := by simp only [State.setQueue]
@[simp] theorem State.setQueue_fwTotal (s : State) (q : Queue) : (s.setQueue q).fwTotal = s.fwTotal := by simp only [State.setQueue]
@[simp] theorem State.setQueue_lapServes (s : State) (q : Queue) : (s.setQueue q).lapServes = s.lapServes := by simp only [State.setQueue]
@[simp] theorem State.setQueue_lapFixed (s : State) (q : Queue) : (s.setQueue q).lapFixed = s.lapFixed := by simp only [State.setQueue]
@[simp] theorem State.setQueue_prices (s : State) (q : Queue) : (s.setQueue q).prices = s.prices := by simp only [State.setQueue]
@[simp] theorem State.setQueue_priceNext (s : State) (q : Queue) : (s.setQueue q).priceNext = s.priceNext := by simp only [State.setQueue]
@[simp] theorem State.setQueue_boosts (s : State) (q : Queue) : (s.setQueue q).boosts = s.boosts := by simp only [State.setQueue]
@[simp] theorem State.setQueue_late (s : State) (q : Queue) : (s.setQueue q).late = s.late := by simp only [State.setQueue]
@[simp] theorem State.setQueue_modnum (s : State) (q : Queue) : (s.setQueue q).modnum = s.modnum := by simp only [State.setQueue]
@[simp] theorem State.setQueue_domain (s : State) (q : Queue) : (s.setQueue q).domain = s.domain := by simp only [State.setQueue]
@[simp] theorem State.setQueue_lost (s : State) (q : Queue) : (s.setQueue q).lost = s.lost := by simp only [State.setQueue]
@[simp] theorem State.setQueue_bad (s : State) (q : Queue) : (s.setQueue q).bad = s.bad := by simp only [State.setQueue]
@[simp] theorem State.setQueue_msi (s : State) (q : Queue) : (s.setQueue q).msi = s.msi := by simp only [State.setQueue]
@[simp] theorem State.setQueue_bells (s : State) (q : Queue) : (s.setQueue q).bells = s.bells := by simp only [State.setQueue]
@[simp] theorem State.setQueue_works (s : State) (q : Queue) : (s.setQueue q).works = s.works := by simp only [State.setQueue]
@[simp] theorem State.setQueue_jobSel (s : State) (q : Queue) : (s.setQueue q).jobSel = s.jobSel := by simp only [State.setQueue]
@[simp] theorem State.setQueue_piles (s : State) (q : Queue) : (s.setQueue q).piles = s.piles := by simp only [State.setQueue]
@[simp] theorem State.setQueue_regions (s : State) (q : Queue) : (s.setQueue q).regions = s.regions := by simp only [State.setQueue]
@[simp] theorem State.setQueue_images (s : State) (q : Queue) : (s.setQueue q).images = s.images := by simp only [State.setQueue]
@[simp] theorem State.setQueue_loads (s : State) (q : Queue) : (s.setQueue q).loads = s.loads := by simp only [State.setQueue]
@[simp] theorem State.setQueue_imageKey (s : State) (q : Queue) : (s.setQueue q).imageKey = s.imageKey := by simp only [State.setQueue]
@[simp] theorem State.setQueue_imgh (s : State) (q : Queue) : (s.setQueue q).imgh = s.imgh := by simp only [State.setQueue]
@[simp] theorem State.setQueue_held (s : State) (q : Queue) : (s.setQueue q).held = s.held := by simp only [State.setQueue]
@[simp] theorem State.setQueue_saved (s : State) (q : Queue) : (s.setQueue q).saved = s.saved := by simp only [State.setQueue]
@[simp] theorem State.setQueue_drains (s : State) (q : Queue) : (s.setQueue q).drains = s.drains := by simp only [State.setQueue]
@[simp] theorem State.setQueue_slotLen (s : State) (q : Queue) : (s.setQueue q).slotLen = s.slotLen := by simp only [State.setQueue]
@[simp] theorem State.setQueue_slot (s : State) (q : Queue) : (s.setQueue q).slot = s.slot := by simp only [State.setQueue]
@[simp] theorem State.setQueue_slotAt (s : State) (q : Queue) : (s.setQueue q).slotAt = s.slotAt := by simp only [State.setQueue]
@[simp] theorem State.setQueue_group (s : State) (q : Queue) : (s.setQueue q).group = s.group := by simp only [State.setQueue]
@[simp] theorem State.setQueue_overruns (s : State) (q : Queue) : (s.setQueue q).overruns = s.overruns := by simp only [State.setQueue]
@[simp] theorem State.setQueue_mail (s : State) (q : Queue) : (s.setQueue q).mail = s.mail := by simp only [State.setQueue]
@[simp] theorem State.setQueue_keymap (s : State) (q : Queue) : (s.setQueue q).keymap = s.keymap := by simp only [State.setQueue]
@[simp] theorem State.setQueue_keys (s : State) (q : Queue) : (s.setQueue q).keys = s.keys := by simp only [State.setQueue]
@[simp] theorem State.setQueue_keyDraws (s : State) (q : Queue) : (s.setQueue q).keyDraws = s.keyDraws := by simp only [State.setQueue]
@[simp] theorem State.setQueue_bootStep (s : State) (q : Queue) : (s.setQueue q).bootStep = s.bootStep := by simp only [State.setQueue]
@[simp] theorem State.setQueue_bootFail (s : State) (q : Queue) : (s.setQueue q).bootFail = s.bootFail := by simp only [State.setQueue]
@[simp] theorem State.setQueue_fwh (s : State) (q : Queue) : (s.setQueue q).fwh = s.fwh := by simp only [State.setQueue]
@[simp] theorem State.setQueue_attKey (s : State) (q : Queue) : (s.setQueue q).attKey = s.attKey := by simp only [State.setQueue]
@[simp] theorem State.setQueue_attDraws (s : State) (q : Queue) : (s.setQueue q).attDraws = s.attDraws := by simp only [State.setQueue]
@[simp] theorem State.setQueue_ports (s : State) (q : Queue) : (s.setQueue q).ports = s.ports := by simp only [State.setQueue]
@[simp] theorem State.setQueue_windows (s : State) (q : Queue) : (s.setQueue q).windows = s.windows := by simp only [State.setQueue]
@[simp] theorem State.setQueue_bar (s : State) (q : Queue) : (s.setQueue q).bar = s.bar := by simp only [State.setQueue]
@[simp] theorem State.setQueue_pba (s : State) (q : Queue) : (s.setQueue q).pba = s.pba := by simp only [State.setQueue]
@[simp] theorem State.setQueue_hot (s : State) (q : Queue) : (s.setQueue q).hot = s.hot := by simp only [State.setQueue]
@[simp] theorem State.setQueue_overSince (s : State) (q : Queue) : (s.setQueue q).overSince = s.overSince := by simp only [State.setQueue]
@[simp] theorem State.setQueue_wattsSet (s : State) (q : Queue) : (s.setQueue q).wattsSet = s.wattsSet := by simp only [State.setQueue]
@[simp] theorem State.setQueue_checks (s : State) (q : Queue) : (s.setQueue q).checks = s.checks := by simp only [State.setQueue]
@[simp] theorem State.setQueue_turns (s : State) (q : Queue) : (s.setQueue q).turns = s.turns := by simp only [State.setQueue]
@[simp] theorem State.setQueue_throttleAt (s : State) (q : Queue) : (s.setQueue q).throttleAt = s.throttleAt := by simp only [State.setQueue]

/-! ### setCore -/

@[simp] theorem State.setCore_agenda (s : State) (c : Core) : (s.setCore c).agenda = s.agenda := by simp only [State.setCore]
@[simp] theorem State.setCore_sched (s : State) (c : Core) : (s.setCore c).sched = s.sched := by simp only [State.setCore]
@[simp] theorem State.setCore_freeCtr (s : State) (c : Core) : (s.setCore c).freeCtr = s.freeCtr := by simp only [State.setCore]
@[simp] theorem State.setCore_nextUid (s : State) (c : Core) : (s.setCore c).nextUid = s.nextUid := by simp only [State.setCore]
@[simp] theorem State.setCore_gg (s : State) (c : Core) : (s.setCore c).gg = s.gg := by simp only [State.setCore]
@[simp] theorem State.setCore_tr (s : State) (c : Core) : (s.setCore c).tr = s.tr := by simp only [State.setCore]
@[simp] theorem State.setCore_sel (s : State) (c : Core) : (s.setCore c).sel = s.sel := by simp only [State.setCore]
@[simp] theorem State.setCore_gangs (s : State) (c : Core) : (s.setCore c).gangs = s.gangs := by simp only [State.setCore]
@[simp] theorem State.setCore_power (s : State) (c : Core) : (s.setCore c).power = s.power := by simp only [State.setCore]
@[simp] theorem State.setCore_cycle (s : State) (c : Core) : (s.setCore c).cycle = s.cycle := by simp only [State.setCore]
@[simp] theorem State.setCore_ctl (s : State) (c : Core) : (s.setCore c).ctl = s.ctl := by simp only [State.setCore]
@[simp] theorem State.setCore_mem (s : State) (c : Core) : (s.setCore c).mem = s.mem := by simp only [State.setCore]
@[simp] theorem State.setCore_caches (s : State) (c : Core) : (s.setCore c).caches = s.caches := by simp only [State.setCore]
@[simp] theorem State.setCore_fills (s : State) (c : Core) : (s.setCore c).fills = s.fills := by simp only [State.setCore]
@[simp] theorem State.setCore_tlbs (s : State) (c : Core) : (s.setCore c).tlbs = s.tlbs := by simp only [State.setCore]
@[simp] theorem State.setCore_walks (s : State) (c : Core) : (s.setCore c).walks = s.walks := by simp only [State.setCore]
@[simp] theorem State.setCore_wcache (s : State) (c : Core) : (s.setCore c).wcache = s.wcache := by simp only [State.setCore]
@[simp] theorem State.setCore_parts (s : State) (c : Core) : (s.setCore c).parts = s.parts := by simp only [State.setCore]
@[simp] theorem State.setCore_queues (s : State) (c : Core) : (s.setCore c).queues = s.queues := by simp only [State.setCore]
@[simp] theorem State.setCore_served (s : State) (c : Core) : (s.setCore c).served = s.served := by simp only [State.setCore]
@[simp] theorem State.setCore_clusters (s : State) (c : Core) : (s.setCore c).clusters = s.clusters := by simp only [State.setCore]
@[simp] theorem State.setCore_ring (s : State) (c : Core) : (s.setCore c).ring = s.ring := by simp only [State.setCore]
@[simp] theorem State.setCore_packets (s : State) (c : Core) : (s.setCore c).packets = s.packets := by simp only [State.setCore]
@[simp] theorem State.setCore_watts (s : State) (c : Core) : (s.setCore c).watts = s.watts := by simp only [State.setCore]
@[simp] theorem State.setCore_wfw (s : State) (c : Core) : (s.setCore c).wfw = s.wfw := by simp only [State.setCore]
@[simp] theorem State.setCore_fwCarry (s : State) (c : Core) : (s.setCore c).fwCarry = s.fwCarry := by simp only [State.setCore]
@[simp] theorem State.setCore_fwTotal (s : State) (c : Core) : (s.setCore c).fwTotal = s.fwTotal := by simp only [State.setCore]
@[simp] theorem State.setCore_lapServes (s : State) (c : Core) : (s.setCore c).lapServes = s.lapServes := by simp only [State.setCore]
@[simp] theorem State.setCore_lapFixed (s : State) (c : Core) : (s.setCore c).lapFixed = s.lapFixed := by simp only [State.setCore]
@[simp] theorem State.setCore_prices (s : State) (c : Core) : (s.setCore c).prices = s.prices := by simp only [State.setCore]
@[simp] theorem State.setCore_priceNext (s : State) (c : Core) : (s.setCore c).priceNext = s.priceNext := by simp only [State.setCore]
@[simp] theorem State.setCore_boosts (s : State) (c : Core) : (s.setCore c).boosts = s.boosts := by simp only [State.setCore]
@[simp] theorem State.setCore_late (s : State) (c : Core) : (s.setCore c).late = s.late := by simp only [State.setCore]
@[simp] theorem State.setCore_modnum (s : State) (c : Core) : (s.setCore c).modnum = s.modnum := by simp only [State.setCore]
@[simp] theorem State.setCore_domain (s : State) (c : Core) : (s.setCore c).domain = s.domain := by simp only [State.setCore]
@[simp] theorem State.setCore_lost (s : State) (c : Core) : (s.setCore c).lost = s.lost := by simp only [State.setCore]
@[simp] theorem State.setCore_bad (s : State) (c : Core) : (s.setCore c).bad = s.bad := by simp only [State.setCore]
@[simp] theorem State.setCore_msi (s : State) (c : Core) : (s.setCore c).msi = s.msi := by simp only [State.setCore]
@[simp] theorem State.setCore_bells (s : State) (c : Core) : (s.setCore c).bells = s.bells := by simp only [State.setCore]
@[simp] theorem State.setCore_works (s : State) (c : Core) : (s.setCore c).works = s.works := by simp only [State.setCore]
@[simp] theorem State.setCore_jobSel (s : State) (c : Core) : (s.setCore c).jobSel = s.jobSel := by simp only [State.setCore]
@[simp] theorem State.setCore_piles (s : State) (c : Core) : (s.setCore c).piles = s.piles := by simp only [State.setCore]
@[simp] theorem State.setCore_regions (s : State) (c : Core) : (s.setCore c).regions = s.regions := by simp only [State.setCore]
@[simp] theorem State.setCore_images (s : State) (c : Core) : (s.setCore c).images = s.images := by simp only [State.setCore]
@[simp] theorem State.setCore_loads (s : State) (c : Core) : (s.setCore c).loads = s.loads := by simp only [State.setCore]
@[simp] theorem State.setCore_imageKey (s : State) (c : Core) : (s.setCore c).imageKey = s.imageKey := by simp only [State.setCore]
@[simp] theorem State.setCore_imgh (s : State) (c : Core) : (s.setCore c).imgh = s.imgh := by simp only [State.setCore]
@[simp] theorem State.setCore_held (s : State) (c : Core) : (s.setCore c).held = s.held := by simp only [State.setCore]
@[simp] theorem State.setCore_saved (s : State) (c : Core) : (s.setCore c).saved = s.saved := by simp only [State.setCore]
@[simp] theorem State.setCore_drains (s : State) (c : Core) : (s.setCore c).drains = s.drains := by simp only [State.setCore]
@[simp] theorem State.setCore_slotLen (s : State) (c : Core) : (s.setCore c).slotLen = s.slotLen := by simp only [State.setCore]
@[simp] theorem State.setCore_slot (s : State) (c : Core) : (s.setCore c).slot = s.slot := by simp only [State.setCore]
@[simp] theorem State.setCore_slotAt (s : State) (c : Core) : (s.setCore c).slotAt = s.slotAt := by simp only [State.setCore]
@[simp] theorem State.setCore_group (s : State) (c : Core) : (s.setCore c).group = s.group := by simp only [State.setCore]
@[simp] theorem State.setCore_overruns (s : State) (c : Core) : (s.setCore c).overruns = s.overruns := by simp only [State.setCore]
@[simp] theorem State.setCore_mail (s : State) (c : Core) : (s.setCore c).mail = s.mail := by simp only [State.setCore]
@[simp] theorem State.setCore_keymap (s : State) (c : Core) : (s.setCore c).keymap = s.keymap := by simp only [State.setCore]
@[simp] theorem State.setCore_keys (s : State) (c : Core) : (s.setCore c).keys = s.keys := by simp only [State.setCore]
@[simp] theorem State.setCore_keyDraws (s : State) (c : Core) : (s.setCore c).keyDraws = s.keyDraws := by simp only [State.setCore]
@[simp] theorem State.setCore_bootStep (s : State) (c : Core) : (s.setCore c).bootStep = s.bootStep := by simp only [State.setCore]
@[simp] theorem State.setCore_bootFail (s : State) (c : Core) : (s.setCore c).bootFail = s.bootFail := by simp only [State.setCore]
@[simp] theorem State.setCore_fwh (s : State) (c : Core) : (s.setCore c).fwh = s.fwh := by simp only [State.setCore]
@[simp] theorem State.setCore_attKey (s : State) (c : Core) : (s.setCore c).attKey = s.attKey := by simp only [State.setCore]
@[simp] theorem State.setCore_attDraws (s : State) (c : Core) : (s.setCore c).attDraws = s.attDraws := by simp only [State.setCore]
@[simp] theorem State.setCore_ports (s : State) (c : Core) : (s.setCore c).ports = s.ports := by simp only [State.setCore]
@[simp] theorem State.setCore_windows (s : State) (c : Core) : (s.setCore c).windows = s.windows := by simp only [State.setCore]
@[simp] theorem State.setCore_bar (s : State) (c : Core) : (s.setCore c).bar = s.bar := by simp only [State.setCore]
@[simp] theorem State.setCore_pba (s : State) (c : Core) : (s.setCore c).pba = s.pba := by simp only [State.setCore]
@[simp] theorem State.setCore_hot (s : State) (c : Core) : (s.setCore c).hot = s.hot := by simp only [State.setCore]
@[simp] theorem State.setCore_overSince (s : State) (c : Core) : (s.setCore c).overSince = s.overSince := by simp only [State.setCore]
@[simp] theorem State.setCore_wattsSet (s : State) (c : Core) : (s.setCore c).wattsSet = s.wattsSet := by simp only [State.setCore]
@[simp] theorem State.setCore_checks (s : State) (c : Core) : (s.setCore c).checks = s.checks := by simp only [State.setCore]
@[simp] theorem State.setCore_turns (s : State) (c : Core) : (s.setCore c).turns = s.turns := by simp only [State.setCore]
@[simp] theorem State.setCore_throttleAt (s : State) (c : Core) : (s.setCore c).throttleAt = s.throttleAt := by simp only [State.setCore]

/-! ### setCache -/

@[simp] theorem State.setCache_agenda (s : State) (c : CacheInst) : (s.setCache c).agenda = s.agenda := by simp only [State.setCache]
@[simp] theorem State.setCache_sched (s : State) (c : CacheInst) : (s.setCache c).sched = s.sched := by simp only [State.setCache]
@[simp] theorem State.setCache_freeCtr (s : State) (c : CacheInst) : (s.setCache c).freeCtr = s.freeCtr := by simp only [State.setCache]
@[simp] theorem State.setCache_nextUid (s : State) (c : CacheInst) : (s.setCache c).nextUid = s.nextUid := by simp only [State.setCache]
@[simp] theorem State.setCache_gg (s : State) (c : CacheInst) : (s.setCache c).gg = s.gg := by simp only [State.setCache]
@[simp] theorem State.setCache_tr (s : State) (c : CacheInst) : (s.setCache c).tr = s.tr := by simp only [State.setCache]
@[simp] theorem State.setCache_sel (s : State) (c : CacheInst) : (s.setCache c).sel = s.sel := by simp only [State.setCache]
@[simp] theorem State.setCache_gangs (s : State) (c : CacheInst) : (s.setCache c).gangs = s.gangs := by simp only [State.setCache]
@[simp] theorem State.setCache_power (s : State) (c : CacheInst) : (s.setCache c).power = s.power := by simp only [State.setCache]
@[simp] theorem State.setCache_cycle (s : State) (c : CacheInst) : (s.setCache c).cycle = s.cycle := by simp only [State.setCache]
@[simp] theorem State.setCache_ctl (s : State) (c : CacheInst) : (s.setCache c).ctl = s.ctl := by simp only [State.setCache]
@[simp] theorem State.setCache_mem (s : State) (c : CacheInst) : (s.setCache c).mem = s.mem := by simp only [State.setCache]
@[simp] theorem State.setCache_fills (s : State) (c : CacheInst) : (s.setCache c).fills = s.fills := by simp only [State.setCache]
@[simp] theorem State.setCache_tlbs (s : State) (c : CacheInst) : (s.setCache c).tlbs = s.tlbs := by simp only [State.setCache]
@[simp] theorem State.setCache_walks (s : State) (c : CacheInst) : (s.setCache c).walks = s.walks := by simp only [State.setCache]
@[simp] theorem State.setCache_wcache (s : State) (c : CacheInst) : (s.setCache c).wcache = s.wcache := by simp only [State.setCache]
@[simp] theorem State.setCache_parts (s : State) (c : CacheInst) : (s.setCache c).parts = s.parts := by simp only [State.setCache]
@[simp] theorem State.setCache_queues (s : State) (c : CacheInst) : (s.setCache c).queues = s.queues := by simp only [State.setCache]
@[simp] theorem State.setCache_served (s : State) (c : CacheInst) : (s.setCache c).served = s.served := by simp only [State.setCache]
@[simp] theorem State.setCache_cores (s : State) (c : CacheInst) : (s.setCache c).cores = s.cores := by simp only [State.setCache]
@[simp] theorem State.setCache_clusters (s : State) (c : CacheInst) : (s.setCache c).clusters = s.clusters := by simp only [State.setCache]
@[simp] theorem State.setCache_ring (s : State) (c : CacheInst) : (s.setCache c).ring = s.ring := by simp only [State.setCache]
@[simp] theorem State.setCache_packets (s : State) (c : CacheInst) : (s.setCache c).packets = s.packets := by simp only [State.setCache]
@[simp] theorem State.setCache_watts (s : State) (c : CacheInst) : (s.setCache c).watts = s.watts := by simp only [State.setCache]
@[simp] theorem State.setCache_wfw (s : State) (c : CacheInst) : (s.setCache c).wfw = s.wfw := by simp only [State.setCache]
@[simp] theorem State.setCache_fwCarry (s : State) (c : CacheInst) : (s.setCache c).fwCarry = s.fwCarry := by simp only [State.setCache]
@[simp] theorem State.setCache_fwTotal (s : State) (c : CacheInst) : (s.setCache c).fwTotal = s.fwTotal := by simp only [State.setCache]
@[simp] theorem State.setCache_lapServes (s : State) (c : CacheInst) : (s.setCache c).lapServes = s.lapServes := by simp only [State.setCache]
@[simp] theorem State.setCache_lapFixed (s : State) (c : CacheInst) : (s.setCache c).lapFixed = s.lapFixed := by simp only [State.setCache]
@[simp] theorem State.setCache_prices (s : State) (c : CacheInst) : (s.setCache c).prices = s.prices := by simp only [State.setCache]
@[simp] theorem State.setCache_priceNext (s : State) (c : CacheInst) : (s.setCache c).priceNext = s.priceNext := by simp only [State.setCache]
@[simp] theorem State.setCache_boosts (s : State) (c : CacheInst) : (s.setCache c).boosts = s.boosts := by simp only [State.setCache]
@[simp] theorem State.setCache_late (s : State) (c : CacheInst) : (s.setCache c).late = s.late := by simp only [State.setCache]
@[simp] theorem State.setCache_modnum (s : State) (c : CacheInst) : (s.setCache c).modnum = s.modnum := by simp only [State.setCache]
@[simp] theorem State.setCache_domain (s : State) (c : CacheInst) : (s.setCache c).domain = s.domain := by simp only [State.setCache]
@[simp] theorem State.setCache_lost (s : State) (c : CacheInst) : (s.setCache c).lost = s.lost := by simp only [State.setCache]
@[simp] theorem State.setCache_bad (s : State) (c : CacheInst) : (s.setCache c).bad = s.bad := by simp only [State.setCache]
@[simp] theorem State.setCache_msi (s : State) (c : CacheInst) : (s.setCache c).msi = s.msi := by simp only [State.setCache]
@[simp] theorem State.setCache_bells (s : State) (c : CacheInst) : (s.setCache c).bells = s.bells := by simp only [State.setCache]
@[simp] theorem State.setCache_works (s : State) (c : CacheInst) : (s.setCache c).works = s.works := by simp only [State.setCache]
@[simp] theorem State.setCache_jobSel (s : State) (c : CacheInst) : (s.setCache c).jobSel = s.jobSel := by simp only [State.setCache]
@[simp] theorem State.setCache_piles (s : State) (c : CacheInst) : (s.setCache c).piles = s.piles := by simp only [State.setCache]
@[simp] theorem State.setCache_regions (s : State) (c : CacheInst) : (s.setCache c).regions = s.regions := by simp only [State.setCache]
@[simp] theorem State.setCache_images (s : State) (c : CacheInst) : (s.setCache c).images = s.images := by simp only [State.setCache]
@[simp] theorem State.setCache_loads (s : State) (c : CacheInst) : (s.setCache c).loads = s.loads := by simp only [State.setCache]
@[simp] theorem State.setCache_imageKey (s : State) (c : CacheInst) : (s.setCache c).imageKey = s.imageKey := by simp only [State.setCache]
@[simp] theorem State.setCache_imgh (s : State) (c : CacheInst) : (s.setCache c).imgh = s.imgh := by simp only [State.setCache]
@[simp] theorem State.setCache_held (s : State) (c : CacheInst) : (s.setCache c).held = s.held := by simp only [State.setCache]
@[simp] theorem State.setCache_saved (s : State) (c : CacheInst) : (s.setCache c).saved = s.saved := by simp only [State.setCache]
@[simp] theorem State.setCache_drains (s : State) (c : CacheInst) : (s.setCache c).drains = s.drains := by simp only [State.setCache]
@[simp] theorem State.setCache_slotLen (s : State) (c : CacheInst) : (s.setCache c).slotLen = s.slotLen := by simp only [State.setCache]
@[simp] theorem State.setCache_slot (s : State) (c : CacheInst) : (s.setCache c).slot = s.slot := by simp only [State.setCache]
@[simp] theorem State.setCache_slotAt (s : State) (c : CacheInst) : (s.setCache c).slotAt = s.slotAt := by simp only [State.setCache]
@[simp] theorem State.setCache_group (s : State) (c : CacheInst) : (s.setCache c).group = s.group := by simp only [State.setCache]
@[simp] theorem State.setCache_overruns (s : State) (c : CacheInst) : (s.setCache c).overruns = s.overruns := by simp only [State.setCache]
@[simp] theorem State.setCache_mail (s : State) (c : CacheInst) : (s.setCache c).mail = s.mail := by simp only [State.setCache]
@[simp] theorem State.setCache_keymap (s : State) (c : CacheInst) : (s.setCache c).keymap = s.keymap := by simp only [State.setCache]
@[simp] theorem State.setCache_keys (s : State) (c : CacheInst) : (s.setCache c).keys = s.keys := by simp only [State.setCache]
@[simp] theorem State.setCache_keyDraws (s : State) (c : CacheInst) : (s.setCache c).keyDraws = s.keyDraws := by simp only [State.setCache]
@[simp] theorem State.setCache_bootStep (s : State) (c : CacheInst) : (s.setCache c).bootStep = s.bootStep := by simp only [State.setCache]
@[simp] theorem State.setCache_bootFail (s : State) (c : CacheInst) : (s.setCache c).bootFail = s.bootFail := by simp only [State.setCache]
@[simp] theorem State.setCache_fwh (s : State) (c : CacheInst) : (s.setCache c).fwh = s.fwh := by simp only [State.setCache]
@[simp] theorem State.setCache_attKey (s : State) (c : CacheInst) : (s.setCache c).attKey = s.attKey := by simp only [State.setCache]
@[simp] theorem State.setCache_attDraws (s : State) (c : CacheInst) : (s.setCache c).attDraws = s.attDraws := by simp only [State.setCache]
@[simp] theorem State.setCache_ports (s : State) (c : CacheInst) : (s.setCache c).ports = s.ports := by simp only [State.setCache]
@[simp] theorem State.setCache_windows (s : State) (c : CacheInst) : (s.setCache c).windows = s.windows := by simp only [State.setCache]
@[simp] theorem State.setCache_bar (s : State) (c : CacheInst) : (s.setCache c).bar = s.bar := by simp only [State.setCache]
@[simp] theorem State.setCache_pba (s : State) (c : CacheInst) : (s.setCache c).pba = s.pba := by simp only [State.setCache]
@[simp] theorem State.setCache_hot (s : State) (c : CacheInst) : (s.setCache c).hot = s.hot := by simp only [State.setCache]
@[simp] theorem State.setCache_overSince (s : State) (c : CacheInst) : (s.setCache c).overSince = s.overSince := by simp only [State.setCache]
@[simp] theorem State.setCache_wattsSet (s : State) (c : CacheInst) : (s.setCache c).wattsSet = s.wattsSet := by simp only [State.setCache]
@[simp] theorem State.setCache_checks (s : State) (c : CacheInst) : (s.setCache c).checks = s.checks := by simp only [State.setCache]
@[simp] theorem State.setCache_turns (s : State) (c : CacheInst) : (s.setCache c).turns = s.turns := by simp only [State.setCache]
@[simp] theorem State.setCache_throttleAt (s : State) (c : CacheInst) : (s.setCache c).throttleAt = s.throttleAt := by simp only [State.setCache]

/-! ### setPile -/

@[simp] theorem State.setPile_agenda (s : State) (p : Stack) : (s.setPile p).agenda = s.agenda := by simp only [State.setPile]
@[simp] theorem State.setPile_sched (s : State) (p : Stack) : (s.setPile p).sched = s.sched := by simp only [State.setPile]
@[simp] theorem State.setPile_freeCtr (s : State) (p : Stack) : (s.setPile p).freeCtr = s.freeCtr := by simp only [State.setPile]
@[simp] theorem State.setPile_nextUid (s : State) (p : Stack) : (s.setPile p).nextUid = s.nextUid := by simp only [State.setPile]
@[simp] theorem State.setPile_gg (s : State) (p : Stack) : (s.setPile p).gg = s.gg := by simp only [State.setPile]
@[simp] theorem State.setPile_tr (s : State) (p : Stack) : (s.setPile p).tr = s.tr := by simp only [State.setPile]
@[simp] theorem State.setPile_sel (s : State) (p : Stack) : (s.setPile p).sel = s.sel := by simp only [State.setPile]
@[simp] theorem State.setPile_gangs (s : State) (p : Stack) : (s.setPile p).gangs = s.gangs := by simp only [State.setPile]
@[simp] theorem State.setPile_power (s : State) (p : Stack) : (s.setPile p).power = s.power := by simp only [State.setPile]
@[simp] theorem State.setPile_cycle (s : State) (p : Stack) : (s.setPile p).cycle = s.cycle := by simp only [State.setPile]
@[simp] theorem State.setPile_ctl (s : State) (p : Stack) : (s.setPile p).ctl = s.ctl := by simp only [State.setPile]
@[simp] theorem State.setPile_mem (s : State) (p : Stack) : (s.setPile p).mem = s.mem := by simp only [State.setPile]
@[simp] theorem State.setPile_caches (s : State) (p : Stack) : (s.setPile p).caches = s.caches := by simp only [State.setPile]
@[simp] theorem State.setPile_fills (s : State) (p : Stack) : (s.setPile p).fills = s.fills := by simp only [State.setPile]
@[simp] theorem State.setPile_tlbs (s : State) (p : Stack) : (s.setPile p).tlbs = s.tlbs := by simp only [State.setPile]
@[simp] theorem State.setPile_walks (s : State) (p : Stack) : (s.setPile p).walks = s.walks := by simp only [State.setPile]
@[simp] theorem State.setPile_wcache (s : State) (p : Stack) : (s.setPile p).wcache = s.wcache := by simp only [State.setPile]
@[simp] theorem State.setPile_parts (s : State) (p : Stack) : (s.setPile p).parts = s.parts := by simp only [State.setPile]
@[simp] theorem State.setPile_queues (s : State) (p : Stack) : (s.setPile p).queues = s.queues := by simp only [State.setPile]
@[simp] theorem State.setPile_served (s : State) (p : Stack) : (s.setPile p).served = s.served := by simp only [State.setPile]
@[simp] theorem State.setPile_cores (s : State) (p : Stack) : (s.setPile p).cores = s.cores := by simp only [State.setPile]
@[simp] theorem State.setPile_clusters (s : State) (p : Stack) : (s.setPile p).clusters = s.clusters := by simp only [State.setPile]
@[simp] theorem State.setPile_ring (s : State) (p : Stack) : (s.setPile p).ring = s.ring := by simp only [State.setPile]
@[simp] theorem State.setPile_packets (s : State) (p : Stack) : (s.setPile p).packets = s.packets := by simp only [State.setPile]
@[simp] theorem State.setPile_watts (s : State) (p : Stack) : (s.setPile p).watts = s.watts := by simp only [State.setPile]
@[simp] theorem State.setPile_wfw (s : State) (p : Stack) : (s.setPile p).wfw = s.wfw := by simp only [State.setPile]
@[simp] theorem State.setPile_fwCarry (s : State) (p : Stack) : (s.setPile p).fwCarry = s.fwCarry := by simp only [State.setPile]
@[simp] theorem State.setPile_fwTotal (s : State) (p : Stack) : (s.setPile p).fwTotal = s.fwTotal := by simp only [State.setPile]
@[simp] theorem State.setPile_lapServes (s : State) (p : Stack) : (s.setPile p).lapServes = s.lapServes := by simp only [State.setPile]
@[simp] theorem State.setPile_lapFixed (s : State) (p : Stack) : (s.setPile p).lapFixed = s.lapFixed := by simp only [State.setPile]
@[simp] theorem State.setPile_prices (s : State) (p : Stack) : (s.setPile p).prices = s.prices := by simp only [State.setPile]
@[simp] theorem State.setPile_priceNext (s : State) (p : Stack) : (s.setPile p).priceNext = s.priceNext := by simp only [State.setPile]
@[simp] theorem State.setPile_boosts (s : State) (p : Stack) : (s.setPile p).boosts = s.boosts := by simp only [State.setPile]
@[simp] theorem State.setPile_late (s : State) (p : Stack) : (s.setPile p).late = s.late := by simp only [State.setPile]
@[simp] theorem State.setPile_modnum (s : State) (p : Stack) : (s.setPile p).modnum = s.modnum := by simp only [State.setPile]
@[simp] theorem State.setPile_domain (s : State) (p : Stack) : (s.setPile p).domain = s.domain := by simp only [State.setPile]
@[simp] theorem State.setPile_lost (s : State) (p : Stack) : (s.setPile p).lost = s.lost := by simp only [State.setPile]
@[simp] theorem State.setPile_bad (s : State) (p : Stack) : (s.setPile p).bad = s.bad := by simp only [State.setPile]
@[simp] theorem State.setPile_msi (s : State) (p : Stack) : (s.setPile p).msi = s.msi := by simp only [State.setPile]
@[simp] theorem State.setPile_bells (s : State) (p : Stack) : (s.setPile p).bells = s.bells := by simp only [State.setPile]
@[simp] theorem State.setPile_works (s : State) (p : Stack) : (s.setPile p).works = s.works := by simp only [State.setPile]
@[simp] theorem State.setPile_jobSel (s : State) (p : Stack) : (s.setPile p).jobSel = s.jobSel := by simp only [State.setPile]
@[simp] theorem State.setPile_regions (s : State) (p : Stack) : (s.setPile p).regions = s.regions := by simp only [State.setPile]
@[simp] theorem State.setPile_images (s : State) (p : Stack) : (s.setPile p).images = s.images := by simp only [State.setPile]
@[simp] theorem State.setPile_loads (s : State) (p : Stack) : (s.setPile p).loads = s.loads := by simp only [State.setPile]
@[simp] theorem State.setPile_imageKey (s : State) (p : Stack) : (s.setPile p).imageKey = s.imageKey := by simp only [State.setPile]
@[simp] theorem State.setPile_imgh (s : State) (p : Stack) : (s.setPile p).imgh = s.imgh := by simp only [State.setPile]
@[simp] theorem State.setPile_held (s : State) (p : Stack) : (s.setPile p).held = s.held := by simp only [State.setPile]
@[simp] theorem State.setPile_saved (s : State) (p : Stack) : (s.setPile p).saved = s.saved := by simp only [State.setPile]
@[simp] theorem State.setPile_drains (s : State) (p : Stack) : (s.setPile p).drains = s.drains := by simp only [State.setPile]
@[simp] theorem State.setPile_slotLen (s : State) (p : Stack) : (s.setPile p).slotLen = s.slotLen := by simp only [State.setPile]
@[simp] theorem State.setPile_slot (s : State) (p : Stack) : (s.setPile p).slot = s.slot := by simp only [State.setPile]
@[simp] theorem State.setPile_slotAt (s : State) (p : Stack) : (s.setPile p).slotAt = s.slotAt := by simp only [State.setPile]
@[simp] theorem State.setPile_group (s : State) (p : Stack) : (s.setPile p).group = s.group := by simp only [State.setPile]
@[simp] theorem State.setPile_overruns (s : State) (p : Stack) : (s.setPile p).overruns = s.overruns := by simp only [State.setPile]
@[simp] theorem State.setPile_mail (s : State) (p : Stack) : (s.setPile p).mail = s.mail := by simp only [State.setPile]
@[simp] theorem State.setPile_keymap (s : State) (p : Stack) : (s.setPile p).keymap = s.keymap := by simp only [State.setPile]
@[simp] theorem State.setPile_keys (s : State) (p : Stack) : (s.setPile p).keys = s.keys := by simp only [State.setPile]
@[simp] theorem State.setPile_keyDraws (s : State) (p : Stack) : (s.setPile p).keyDraws = s.keyDraws := by simp only [State.setPile]
@[simp] theorem State.setPile_bootStep (s : State) (p : Stack) : (s.setPile p).bootStep = s.bootStep := by simp only [State.setPile]
@[simp] theorem State.setPile_bootFail (s : State) (p : Stack) : (s.setPile p).bootFail = s.bootFail := by simp only [State.setPile]
@[simp] theorem State.setPile_fwh (s : State) (p : Stack) : (s.setPile p).fwh = s.fwh := by simp only [State.setPile]
@[simp] theorem State.setPile_attKey (s : State) (p : Stack) : (s.setPile p).attKey = s.attKey := by simp only [State.setPile]
@[simp] theorem State.setPile_attDraws (s : State) (p : Stack) : (s.setPile p).attDraws = s.attDraws := by simp only [State.setPile]
@[simp] theorem State.setPile_ports (s : State) (p : Stack) : (s.setPile p).ports = s.ports := by simp only [State.setPile]
@[simp] theorem State.setPile_windows (s : State) (p : Stack) : (s.setPile p).windows = s.windows := by simp only [State.setPile]
@[simp] theorem State.setPile_bar (s : State) (p : Stack) : (s.setPile p).bar = s.bar := by simp only [State.setPile]
@[simp] theorem State.setPile_pba (s : State) (p : Stack) : (s.setPile p).pba = s.pba := by simp only [State.setPile]
@[simp] theorem State.setPile_hot (s : State) (p : Stack) : (s.setPile p).hot = s.hot := by simp only [State.setPile]
@[simp] theorem State.setPile_overSince (s : State) (p : Stack) : (s.setPile p).overSince = s.overSince := by simp only [State.setPile]
@[simp] theorem State.setPile_wattsSet (s : State) (p : Stack) : (s.setPile p).wattsSet = s.wattsSet := by simp only [State.setPile]
@[simp] theorem State.setPile_checks (s : State) (p : Stack) : (s.setPile p).checks = s.checks := by simp only [State.setPile]
@[simp] theorem State.setPile_turns (s : State) (p : Stack) : (s.setPile p).turns = s.turns := by simp only [State.setPile]
@[simp] theorem State.setPile_throttleAt (s : State) (p : Stack) : (s.setPile p).throttleAt = s.throttleAt := by simp only [State.setPile]

/-! ### setRegion -/

@[simp] theorem State.setRegion_agenda (s : State) (r : Region) : (s.setRegion r).agenda = s.agenda := by simp only [State.setRegion]
@[simp] theorem State.setRegion_sched (s : State) (r : Region) : (s.setRegion r).sched = s.sched := by simp only [State.setRegion]
@[simp] theorem State.setRegion_freeCtr (s : State) (r : Region) : (s.setRegion r).freeCtr = s.freeCtr := by simp only [State.setRegion]
@[simp] theorem State.setRegion_nextUid (s : State) (r : Region) : (s.setRegion r).nextUid = s.nextUid := by simp only [State.setRegion]
@[simp] theorem State.setRegion_gg (s : State) (r : Region) : (s.setRegion r).gg = s.gg := by simp only [State.setRegion]
@[simp] theorem State.setRegion_tr (s : State) (r : Region) : (s.setRegion r).tr = s.tr := by simp only [State.setRegion]
@[simp] theorem State.setRegion_sel (s : State) (r : Region) : (s.setRegion r).sel = s.sel := by simp only [State.setRegion]
@[simp] theorem State.setRegion_gangs (s : State) (r : Region) : (s.setRegion r).gangs = s.gangs := by simp only [State.setRegion]
@[simp] theorem State.setRegion_power (s : State) (r : Region) : (s.setRegion r).power = s.power := by simp only [State.setRegion]
@[simp] theorem State.setRegion_cycle (s : State) (r : Region) : (s.setRegion r).cycle = s.cycle := by simp only [State.setRegion]
@[simp] theorem State.setRegion_ctl (s : State) (r : Region) : (s.setRegion r).ctl = s.ctl := by simp only [State.setRegion]
@[simp] theorem State.setRegion_mem (s : State) (r : Region) : (s.setRegion r).mem = s.mem := by simp only [State.setRegion]
@[simp] theorem State.setRegion_caches (s : State) (r : Region) : (s.setRegion r).caches = s.caches := by simp only [State.setRegion]
@[simp] theorem State.setRegion_fills (s : State) (r : Region) : (s.setRegion r).fills = s.fills := by simp only [State.setRegion]
@[simp] theorem State.setRegion_tlbs (s : State) (r : Region) : (s.setRegion r).tlbs = s.tlbs := by simp only [State.setRegion]
@[simp] theorem State.setRegion_walks (s : State) (r : Region) : (s.setRegion r).walks = s.walks := by simp only [State.setRegion]
@[simp] theorem State.setRegion_wcache (s : State) (r : Region) : (s.setRegion r).wcache = s.wcache := by simp only [State.setRegion]
@[simp] theorem State.setRegion_parts (s : State) (r : Region) : (s.setRegion r).parts = s.parts := by simp only [State.setRegion]
@[simp] theorem State.setRegion_queues (s : State) (r : Region) : (s.setRegion r).queues = s.queues := by simp only [State.setRegion]
@[simp] theorem State.setRegion_served (s : State) (r : Region) : (s.setRegion r).served = s.served := by simp only [State.setRegion]
@[simp] theorem State.setRegion_cores (s : State) (r : Region) : (s.setRegion r).cores = s.cores := by simp only [State.setRegion]
@[simp] theorem State.setRegion_clusters (s : State) (r : Region) : (s.setRegion r).clusters = s.clusters := by simp only [State.setRegion]
@[simp] theorem State.setRegion_ring (s : State) (r : Region) : (s.setRegion r).ring = s.ring := by simp only [State.setRegion]
@[simp] theorem State.setRegion_packets (s : State) (r : Region) : (s.setRegion r).packets = s.packets := by simp only [State.setRegion]
@[simp] theorem State.setRegion_watts (s : State) (r : Region) : (s.setRegion r).watts = s.watts := by simp only [State.setRegion]
@[simp] theorem State.setRegion_wfw (s : State) (r : Region) : (s.setRegion r).wfw = s.wfw := by simp only [State.setRegion]
@[simp] theorem State.setRegion_fwCarry (s : State) (r : Region) : (s.setRegion r).fwCarry = s.fwCarry := by simp only [State.setRegion]
@[simp] theorem State.setRegion_fwTotal (s : State) (r : Region) : (s.setRegion r).fwTotal = s.fwTotal := by simp only [State.setRegion]
@[simp] theorem State.setRegion_lapServes (s : State) (r : Region) : (s.setRegion r).lapServes = s.lapServes := by simp only [State.setRegion]
@[simp] theorem State.setRegion_lapFixed (s : State) (r : Region) : (s.setRegion r).lapFixed = s.lapFixed := by simp only [State.setRegion]
@[simp] theorem State.setRegion_prices (s : State) (r : Region) : (s.setRegion r).prices = s.prices := by simp only [State.setRegion]
@[simp] theorem State.setRegion_priceNext (s : State) (r : Region) : (s.setRegion r).priceNext = s.priceNext := by simp only [State.setRegion]
@[simp] theorem State.setRegion_boosts (s : State) (r : Region) : (s.setRegion r).boosts = s.boosts := by simp only [State.setRegion]
@[simp] theorem State.setRegion_late (s : State) (r : Region) : (s.setRegion r).late = s.late := by simp only [State.setRegion]
@[simp] theorem State.setRegion_modnum (s : State) (r : Region) : (s.setRegion r).modnum = s.modnum := by simp only [State.setRegion]
@[simp] theorem State.setRegion_domain (s : State) (r : Region) : (s.setRegion r).domain = s.domain := by simp only [State.setRegion]
@[simp] theorem State.setRegion_lost (s : State) (r : Region) : (s.setRegion r).lost = s.lost := by simp only [State.setRegion]
@[simp] theorem State.setRegion_bad (s : State) (r : Region) : (s.setRegion r).bad = s.bad := by simp only [State.setRegion]
@[simp] theorem State.setRegion_msi (s : State) (r : Region) : (s.setRegion r).msi = s.msi := by simp only [State.setRegion]
@[simp] theorem State.setRegion_bells (s : State) (r : Region) : (s.setRegion r).bells = s.bells := by simp only [State.setRegion]
@[simp] theorem State.setRegion_works (s : State) (r : Region) : (s.setRegion r).works = s.works := by simp only [State.setRegion]
@[simp] theorem State.setRegion_jobSel (s : State) (r : Region) : (s.setRegion r).jobSel = s.jobSel := by simp only [State.setRegion]
@[simp] theorem State.setRegion_piles (s : State) (r : Region) : (s.setRegion r).piles = s.piles := by simp only [State.setRegion]
@[simp] theorem State.setRegion_images (s : State) (r : Region) : (s.setRegion r).images = s.images := by simp only [State.setRegion]
@[simp] theorem State.setRegion_loads (s : State) (r : Region) : (s.setRegion r).loads = s.loads := by simp only [State.setRegion]
@[simp] theorem State.setRegion_imageKey (s : State) (r : Region) : (s.setRegion r).imageKey = s.imageKey := by simp only [State.setRegion]
@[simp] theorem State.setRegion_imgh (s : State) (r : Region) : (s.setRegion r).imgh = s.imgh := by simp only [State.setRegion]
@[simp] theorem State.setRegion_held (s : State) (r : Region) : (s.setRegion r).held = s.held := by simp only [State.setRegion]
@[simp] theorem State.setRegion_saved (s : State) (r : Region) : (s.setRegion r).saved = s.saved := by simp only [State.setRegion]
@[simp] theorem State.setRegion_drains (s : State) (r : Region) : (s.setRegion r).drains = s.drains := by simp only [State.setRegion]
@[simp] theorem State.setRegion_slotLen (s : State) (r : Region) : (s.setRegion r).slotLen = s.slotLen := by simp only [State.setRegion]
@[simp] theorem State.setRegion_slot (s : State) (r : Region) : (s.setRegion r).slot = s.slot := by simp only [State.setRegion]
@[simp] theorem State.setRegion_slotAt (s : State) (r : Region) : (s.setRegion r).slotAt = s.slotAt := by simp only [State.setRegion]
@[simp] theorem State.setRegion_group (s : State) (r : Region) : (s.setRegion r).group = s.group := by simp only [State.setRegion]
@[simp] theorem State.setRegion_overruns (s : State) (r : Region) : (s.setRegion r).overruns = s.overruns := by simp only [State.setRegion]
@[simp] theorem State.setRegion_mail (s : State) (r : Region) : (s.setRegion r).mail = s.mail := by simp only [State.setRegion]
@[simp] theorem State.setRegion_keymap (s : State) (r : Region) : (s.setRegion r).keymap = s.keymap := by simp only [State.setRegion]
@[simp] theorem State.setRegion_keys (s : State) (r : Region) : (s.setRegion r).keys = s.keys := by simp only [State.setRegion]
@[simp] theorem State.setRegion_keyDraws (s : State) (r : Region) : (s.setRegion r).keyDraws = s.keyDraws := by simp only [State.setRegion]
@[simp] theorem State.setRegion_bootStep (s : State) (r : Region) : (s.setRegion r).bootStep = s.bootStep := by simp only [State.setRegion]
@[simp] theorem State.setRegion_bootFail (s : State) (r : Region) : (s.setRegion r).bootFail = s.bootFail := by simp only [State.setRegion]
@[simp] theorem State.setRegion_fwh (s : State) (r : Region) : (s.setRegion r).fwh = s.fwh := by simp only [State.setRegion]
@[simp] theorem State.setRegion_attKey (s : State) (r : Region) : (s.setRegion r).attKey = s.attKey := by simp only [State.setRegion]
@[simp] theorem State.setRegion_attDraws (s : State) (r : Region) : (s.setRegion r).attDraws = s.attDraws := by simp only [State.setRegion]
@[simp] theorem State.setRegion_ports (s : State) (r : Region) : (s.setRegion r).ports = s.ports := by simp only [State.setRegion]
@[simp] theorem State.setRegion_windows (s : State) (r : Region) : (s.setRegion r).windows = s.windows := by simp only [State.setRegion]
@[simp] theorem State.setRegion_bar (s : State) (r : Region) : (s.setRegion r).bar = s.bar := by simp only [State.setRegion]
@[simp] theorem State.setRegion_pba (s : State) (r : Region) : (s.setRegion r).pba = s.pba := by simp only [State.setRegion]
@[simp] theorem State.setRegion_hot (s : State) (r : Region) : (s.setRegion r).hot = s.hot := by simp only [State.setRegion]
@[simp] theorem State.setRegion_overSince (s : State) (r : Region) : (s.setRegion r).overSince = s.overSince := by simp only [State.setRegion]
@[simp] theorem State.setRegion_wattsSet (s : State) (r : Region) : (s.setRegion r).wattsSet = s.wattsSet := by simp only [State.setRegion]
@[simp] theorem State.setRegion_checks (s : State) (r : Region) : (s.setRegion r).checks = s.checks := by simp only [State.setRegion]
@[simp] theorem State.setRegion_turns (s : State) (r : Region) : (s.setRegion r).turns = s.turns := by simp only [State.setRegion]
@[simp] theorem State.setRegion_throttleAt (s : State) (r : Region) : (s.setRegion r).throttleAt = s.throttleAt := by simp only [State.setRegion]

/-! ### setWork -/

@[simp] theorem State.setWork_agenda (s : State) (w : Work) : (s.setWork w).agenda = s.agenda := by simp only [State.setWork]
@[simp] theorem State.setWork_sched (s : State) (w : Work) : (s.setWork w).sched = s.sched := by simp only [State.setWork]
@[simp] theorem State.setWork_freeCtr (s : State) (w : Work) : (s.setWork w).freeCtr = s.freeCtr := by simp only [State.setWork]
@[simp] theorem State.setWork_nextUid (s : State) (w : Work) : (s.setWork w).nextUid = s.nextUid := by simp only [State.setWork]
@[simp] theorem State.setWork_gg (s : State) (w : Work) : (s.setWork w).gg = s.gg := by simp only [State.setWork]
@[simp] theorem State.setWork_tr (s : State) (w : Work) : (s.setWork w).tr = s.tr := by simp only [State.setWork]
@[simp] theorem State.setWork_sel (s : State) (w : Work) : (s.setWork w).sel = s.sel := by simp only [State.setWork]
@[simp] theorem State.setWork_gangs (s : State) (w : Work) : (s.setWork w).gangs = s.gangs := by simp only [State.setWork]
@[simp] theorem State.setWork_power (s : State) (w : Work) : (s.setWork w).power = s.power := by simp only [State.setWork]
@[simp] theorem State.setWork_cycle (s : State) (w : Work) : (s.setWork w).cycle = s.cycle := by simp only [State.setWork]
@[simp] theorem State.setWork_ctl (s : State) (w : Work) : (s.setWork w).ctl = s.ctl := by simp only [State.setWork]
@[simp] theorem State.setWork_mem (s : State) (w : Work) : (s.setWork w).mem = s.mem := by simp only [State.setWork]
@[simp] theorem State.setWork_caches (s : State) (w : Work) : (s.setWork w).caches = s.caches := by simp only [State.setWork]
@[simp] theorem State.setWork_fills (s : State) (w : Work) : (s.setWork w).fills = s.fills := by simp only [State.setWork]
@[simp] theorem State.setWork_tlbs (s : State) (w : Work) : (s.setWork w).tlbs = s.tlbs := by simp only [State.setWork]
@[simp] theorem State.setWork_walks (s : State) (w : Work) : (s.setWork w).walks = s.walks := by simp only [State.setWork]
@[simp] theorem State.setWork_wcache (s : State) (w : Work) : (s.setWork w).wcache = s.wcache := by simp only [State.setWork]
@[simp] theorem State.setWork_parts (s : State) (w : Work) : (s.setWork w).parts = s.parts := by simp only [State.setWork]
@[simp] theorem State.setWork_queues (s : State) (w : Work) : (s.setWork w).queues = s.queues := by simp only [State.setWork]
@[simp] theorem State.setWork_served (s : State) (w : Work) : (s.setWork w).served = s.served := by simp only [State.setWork]
@[simp] theorem State.setWork_cores (s : State) (w : Work) : (s.setWork w).cores = s.cores := by simp only [State.setWork]
@[simp] theorem State.setWork_clusters (s : State) (w : Work) : (s.setWork w).clusters = s.clusters := by simp only [State.setWork]
@[simp] theorem State.setWork_ring (s : State) (w : Work) : (s.setWork w).ring = s.ring := by simp only [State.setWork]
@[simp] theorem State.setWork_packets (s : State) (w : Work) : (s.setWork w).packets = s.packets := by simp only [State.setWork]
@[simp] theorem State.setWork_watts (s : State) (w : Work) : (s.setWork w).watts = s.watts := by simp only [State.setWork]
@[simp] theorem State.setWork_wfw (s : State) (w : Work) : (s.setWork w).wfw = s.wfw := by simp only [State.setWork]
@[simp] theorem State.setWork_fwCarry (s : State) (w : Work) : (s.setWork w).fwCarry = s.fwCarry := by simp only [State.setWork]
@[simp] theorem State.setWork_fwTotal (s : State) (w : Work) : (s.setWork w).fwTotal = s.fwTotal := by simp only [State.setWork]
@[simp] theorem State.setWork_lapServes (s : State) (w : Work) : (s.setWork w).lapServes = s.lapServes := by simp only [State.setWork]
@[simp] theorem State.setWork_lapFixed (s : State) (w : Work) : (s.setWork w).lapFixed = s.lapFixed := by simp only [State.setWork]
@[simp] theorem State.setWork_prices (s : State) (w : Work) : (s.setWork w).prices = s.prices := by simp only [State.setWork]
@[simp] theorem State.setWork_priceNext (s : State) (w : Work) : (s.setWork w).priceNext = s.priceNext := by simp only [State.setWork]
@[simp] theorem State.setWork_boosts (s : State) (w : Work) : (s.setWork w).boosts = s.boosts := by simp only [State.setWork]
@[simp] theorem State.setWork_late (s : State) (w : Work) : (s.setWork w).late = s.late := by simp only [State.setWork]
@[simp] theorem State.setWork_modnum (s : State) (w : Work) : (s.setWork w).modnum = s.modnum := by simp only [State.setWork]
@[simp] theorem State.setWork_domain (s : State) (w : Work) : (s.setWork w).domain = s.domain := by simp only [State.setWork]
@[simp] theorem State.setWork_lost (s : State) (w : Work) : (s.setWork w).lost = s.lost := by simp only [State.setWork]
@[simp] theorem State.setWork_bad (s : State) (w : Work) : (s.setWork w).bad = s.bad := by simp only [State.setWork]
@[simp] theorem State.setWork_msi (s : State) (w : Work) : (s.setWork w).msi = s.msi := by simp only [State.setWork]
@[simp] theorem State.setWork_bells (s : State) (w : Work) : (s.setWork w).bells = s.bells := by simp only [State.setWork]
@[simp] theorem State.setWork_jobSel (s : State) (w : Work) : (s.setWork w).jobSel = s.jobSel := by simp only [State.setWork]
@[simp] theorem State.setWork_piles (s : State) (w : Work) : (s.setWork w).piles = s.piles := by simp only [State.setWork]
@[simp] theorem State.setWork_regions (s : State) (w : Work) : (s.setWork w).regions = s.regions := by simp only [State.setWork]
@[simp] theorem State.setWork_images (s : State) (w : Work) : (s.setWork w).images = s.images := by simp only [State.setWork]
@[simp] theorem State.setWork_loads (s : State) (w : Work) : (s.setWork w).loads = s.loads := by simp only [State.setWork]
@[simp] theorem State.setWork_imageKey (s : State) (w : Work) : (s.setWork w).imageKey = s.imageKey := by simp only [State.setWork]
@[simp] theorem State.setWork_imgh (s : State) (w : Work) : (s.setWork w).imgh = s.imgh := by simp only [State.setWork]
@[simp] theorem State.setWork_held (s : State) (w : Work) : (s.setWork w).held = s.held := by simp only [State.setWork]
@[simp] theorem State.setWork_saved (s : State) (w : Work) : (s.setWork w).saved = s.saved := by simp only [State.setWork]
@[simp] theorem State.setWork_drains (s : State) (w : Work) : (s.setWork w).drains = s.drains := by simp only [State.setWork]
@[simp] theorem State.setWork_slotLen (s : State) (w : Work) : (s.setWork w).slotLen = s.slotLen := by simp only [State.setWork]
@[simp] theorem State.setWork_slot (s : State) (w : Work) : (s.setWork w).slot = s.slot := by simp only [State.setWork]
@[simp] theorem State.setWork_slotAt (s : State) (w : Work) : (s.setWork w).slotAt = s.slotAt := by simp only [State.setWork]
@[simp] theorem State.setWork_group (s : State) (w : Work) : (s.setWork w).group = s.group := by simp only [State.setWork]
@[simp] theorem State.setWork_overruns (s : State) (w : Work) : (s.setWork w).overruns = s.overruns := by simp only [State.setWork]
@[simp] theorem State.setWork_mail (s : State) (w : Work) : (s.setWork w).mail = s.mail := by simp only [State.setWork]
@[simp] theorem State.setWork_keymap (s : State) (w : Work) : (s.setWork w).keymap = s.keymap := by simp only [State.setWork]
@[simp] theorem State.setWork_keys (s : State) (w : Work) : (s.setWork w).keys = s.keys := by simp only [State.setWork]
@[simp] theorem State.setWork_keyDraws (s : State) (w : Work) : (s.setWork w).keyDraws = s.keyDraws := by simp only [State.setWork]
@[simp] theorem State.setWork_bootStep (s : State) (w : Work) : (s.setWork w).bootStep = s.bootStep := by simp only [State.setWork]
@[simp] theorem State.setWork_bootFail (s : State) (w : Work) : (s.setWork w).bootFail = s.bootFail := by simp only [State.setWork]
@[simp] theorem State.setWork_fwh (s : State) (w : Work) : (s.setWork w).fwh = s.fwh := by simp only [State.setWork]
@[simp] theorem State.setWork_attKey (s : State) (w : Work) : (s.setWork w).attKey = s.attKey := by simp only [State.setWork]
@[simp] theorem State.setWork_attDraws (s : State) (w : Work) : (s.setWork w).attDraws = s.attDraws := by simp only [State.setWork]
@[simp] theorem State.setWork_ports (s : State) (w : Work) : (s.setWork w).ports = s.ports := by simp only [State.setWork]
@[simp] theorem State.setWork_windows (s : State) (w : Work) : (s.setWork w).windows = s.windows := by simp only [State.setWork]
@[simp] theorem State.setWork_bar (s : State) (w : Work) : (s.setWork w).bar = s.bar := by simp only [State.setWork]
@[simp] theorem State.setWork_pba (s : State) (w : Work) : (s.setWork w).pba = s.pba := by simp only [State.setWork]
@[simp] theorem State.setWork_hot (s : State) (w : Work) : (s.setWork w).hot = s.hot := by simp only [State.setWork]
@[simp] theorem State.setWork_overSince (s : State) (w : Work) : (s.setWork w).overSince = s.overSince := by simp only [State.setWork]
@[simp] theorem State.setWork_wattsSet (s : State) (w : Work) : (s.setWork w).wattsSet = s.wattsSet := by simp only [State.setWork]
@[simp] theorem State.setWork_checks (s : State) (w : Work) : (s.setWork w).checks = s.checks := by simp only [State.setWork]
@[simp] theorem State.setWork_turns (s : State) (w : Work) : (s.setWork w).turns = s.turns := by simp only [State.setWork]
@[simp] theorem State.setWork_throttleAt (s : State) (w : Work) : (s.setWork w).throttleAt = s.throttleAt := by simp only [State.setWork]

/-! ### dropWork -/

@[simp] theorem State.dropWork_agenda (s : State) (w : Nat) : (s.dropWork w).agenda = s.agenda := by simp only [State.dropWork]
@[simp] theorem State.dropWork_sched (s : State) (w : Nat) : (s.dropWork w).sched = s.sched := by simp only [State.dropWork]
@[simp] theorem State.dropWork_freeCtr (s : State) (w : Nat) : (s.dropWork w).freeCtr = s.freeCtr := by simp only [State.dropWork]
@[simp] theorem State.dropWork_nextUid (s : State) (w : Nat) : (s.dropWork w).nextUid = s.nextUid := by simp only [State.dropWork]
@[simp] theorem State.dropWork_gg (s : State) (w : Nat) : (s.dropWork w).gg = s.gg := by simp only [State.dropWork]
@[simp] theorem State.dropWork_tr (s : State) (w : Nat) : (s.dropWork w).tr = s.tr := by simp only [State.dropWork]
@[simp] theorem State.dropWork_sel (s : State) (w : Nat) : (s.dropWork w).sel = s.sel := by simp only [State.dropWork]
@[simp] theorem State.dropWork_gangs (s : State) (w : Nat) : (s.dropWork w).gangs = s.gangs := by simp only [State.dropWork]
@[simp] theorem State.dropWork_power (s : State) (w : Nat) : (s.dropWork w).power = s.power := by simp only [State.dropWork]
@[simp] theorem State.dropWork_cycle (s : State) (w : Nat) : (s.dropWork w).cycle = s.cycle := by simp only [State.dropWork]
@[simp] theorem State.dropWork_ctl (s : State) (w : Nat) : (s.dropWork w).ctl = s.ctl := by simp only [State.dropWork]
@[simp] theorem State.dropWork_mem (s : State) (w : Nat) : (s.dropWork w).mem = s.mem := by simp only [State.dropWork]
@[simp] theorem State.dropWork_caches (s : State) (w : Nat) : (s.dropWork w).caches = s.caches := by simp only [State.dropWork]
@[simp] theorem State.dropWork_fills (s : State) (w : Nat) : (s.dropWork w).fills = s.fills := by simp only [State.dropWork]
@[simp] theorem State.dropWork_tlbs (s : State) (w : Nat) : (s.dropWork w).tlbs = s.tlbs := by simp only [State.dropWork]
@[simp] theorem State.dropWork_walks (s : State) (w : Nat) : (s.dropWork w).walks = s.walks := by simp only [State.dropWork]
@[simp] theorem State.dropWork_wcache (s : State) (w : Nat) : (s.dropWork w).wcache = s.wcache := by simp only [State.dropWork]
@[simp] theorem State.dropWork_parts (s : State) (w : Nat) : (s.dropWork w).parts = s.parts := by simp only [State.dropWork]
@[simp] theorem State.dropWork_queues (s : State) (w : Nat) : (s.dropWork w).queues = s.queues := by simp only [State.dropWork]
@[simp] theorem State.dropWork_served (s : State) (w : Nat) : (s.dropWork w).served = s.served := by simp only [State.dropWork]
@[simp] theorem State.dropWork_cores (s : State) (w : Nat) : (s.dropWork w).cores = s.cores := by simp only [State.dropWork]
@[simp] theorem State.dropWork_clusters (s : State) (w : Nat) : (s.dropWork w).clusters = s.clusters := by simp only [State.dropWork]
@[simp] theorem State.dropWork_ring (s : State) (w : Nat) : (s.dropWork w).ring = s.ring := by simp only [State.dropWork]
@[simp] theorem State.dropWork_packets (s : State) (w : Nat) : (s.dropWork w).packets = s.packets := by simp only [State.dropWork]
@[simp] theorem State.dropWork_watts (s : State) (w : Nat) : (s.dropWork w).watts = s.watts := by simp only [State.dropWork]
@[simp] theorem State.dropWork_wfw (s : State) (w : Nat) : (s.dropWork w).wfw = s.wfw := by simp only [State.dropWork]
@[simp] theorem State.dropWork_fwCarry (s : State) (w : Nat) : (s.dropWork w).fwCarry = s.fwCarry := by simp only [State.dropWork]
@[simp] theorem State.dropWork_fwTotal (s : State) (w : Nat) : (s.dropWork w).fwTotal = s.fwTotal := by simp only [State.dropWork]
@[simp] theorem State.dropWork_lapServes (s : State) (w : Nat) : (s.dropWork w).lapServes = s.lapServes := by simp only [State.dropWork]
@[simp] theorem State.dropWork_lapFixed (s : State) (w : Nat) : (s.dropWork w).lapFixed = s.lapFixed := by simp only [State.dropWork]
@[simp] theorem State.dropWork_prices (s : State) (w : Nat) : (s.dropWork w).prices = s.prices := by simp only [State.dropWork]
@[simp] theorem State.dropWork_priceNext (s : State) (w : Nat) : (s.dropWork w).priceNext = s.priceNext := by simp only [State.dropWork]
@[simp] theorem State.dropWork_boosts (s : State) (w : Nat) : (s.dropWork w).boosts = s.boosts := by simp only [State.dropWork]
@[simp] theorem State.dropWork_late (s : State) (w : Nat) : (s.dropWork w).late = s.late := by simp only [State.dropWork]
@[simp] theorem State.dropWork_modnum (s : State) (w : Nat) : (s.dropWork w).modnum = s.modnum := by simp only [State.dropWork]
@[simp] theorem State.dropWork_domain (s : State) (w : Nat) : (s.dropWork w).domain = s.domain := by simp only [State.dropWork]
@[simp] theorem State.dropWork_lost (s : State) (w : Nat) : (s.dropWork w).lost = s.lost := by simp only [State.dropWork]
@[simp] theorem State.dropWork_bad (s : State) (w : Nat) : (s.dropWork w).bad = s.bad := by simp only [State.dropWork]
@[simp] theorem State.dropWork_msi (s : State) (w : Nat) : (s.dropWork w).msi = s.msi := by simp only [State.dropWork]
@[simp] theorem State.dropWork_bells (s : State) (w : Nat) : (s.dropWork w).bells = s.bells := by simp only [State.dropWork]
@[simp] theorem State.dropWork_jobSel (s : State) (w : Nat) : (s.dropWork w).jobSel = s.jobSel := by simp only [State.dropWork]
@[simp] theorem State.dropWork_piles (s : State) (w : Nat) : (s.dropWork w).piles = s.piles := by simp only [State.dropWork]
@[simp] theorem State.dropWork_regions (s : State) (w : Nat) : (s.dropWork w).regions = s.regions := by simp only [State.dropWork]
@[simp] theorem State.dropWork_images (s : State) (w : Nat) : (s.dropWork w).images = s.images := by simp only [State.dropWork]
@[simp] theorem State.dropWork_loads (s : State) (w : Nat) : (s.dropWork w).loads = s.loads := by simp only [State.dropWork]
@[simp] theorem State.dropWork_imageKey (s : State) (w : Nat) : (s.dropWork w).imageKey = s.imageKey := by simp only [State.dropWork]
@[simp] theorem State.dropWork_imgh (s : State) (w : Nat) : (s.dropWork w).imgh = s.imgh := by simp only [State.dropWork]
@[simp] theorem State.dropWork_held (s : State) (w : Nat) : (s.dropWork w).held = s.held := by simp only [State.dropWork]
@[simp] theorem State.dropWork_saved (s : State) (w : Nat) : (s.dropWork w).saved = s.saved := by simp only [State.dropWork]
@[simp] theorem State.dropWork_drains (s : State) (w : Nat) : (s.dropWork w).drains = s.drains := by simp only [State.dropWork]
@[simp] theorem State.dropWork_slotLen (s : State) (w : Nat) : (s.dropWork w).slotLen = s.slotLen := by simp only [State.dropWork]
@[simp] theorem State.dropWork_slot (s : State) (w : Nat) : (s.dropWork w).slot = s.slot := by simp only [State.dropWork]
@[simp] theorem State.dropWork_slotAt (s : State) (w : Nat) : (s.dropWork w).slotAt = s.slotAt := by simp only [State.dropWork]
@[simp] theorem State.dropWork_group (s : State) (w : Nat) : (s.dropWork w).group = s.group := by simp only [State.dropWork]
@[simp] theorem State.dropWork_overruns (s : State) (w : Nat) : (s.dropWork w).overruns = s.overruns := by simp only [State.dropWork]
@[simp] theorem State.dropWork_mail (s : State) (w : Nat) : (s.dropWork w).mail = s.mail := by simp only [State.dropWork]
@[simp] theorem State.dropWork_keymap (s : State) (w : Nat) : (s.dropWork w).keymap = s.keymap := by simp only [State.dropWork]
@[simp] theorem State.dropWork_keys (s : State) (w : Nat) : (s.dropWork w).keys = s.keys := by simp only [State.dropWork]
@[simp] theorem State.dropWork_keyDraws (s : State) (w : Nat) : (s.dropWork w).keyDraws = s.keyDraws := by simp only [State.dropWork]
@[simp] theorem State.dropWork_bootStep (s : State) (w : Nat) : (s.dropWork w).bootStep = s.bootStep := by simp only [State.dropWork]
@[simp] theorem State.dropWork_bootFail (s : State) (w : Nat) : (s.dropWork w).bootFail = s.bootFail := by simp only [State.dropWork]
@[simp] theorem State.dropWork_fwh (s : State) (w : Nat) : (s.dropWork w).fwh = s.fwh := by simp only [State.dropWork]
@[simp] theorem State.dropWork_attKey (s : State) (w : Nat) : (s.dropWork w).attKey = s.attKey := by simp only [State.dropWork]
@[simp] theorem State.dropWork_attDraws (s : State) (w : Nat) : (s.dropWork w).attDraws = s.attDraws := by simp only [State.dropWork]
@[simp] theorem State.dropWork_ports (s : State) (w : Nat) : (s.dropWork w).ports = s.ports := by simp only [State.dropWork]
@[simp] theorem State.dropWork_windows (s : State) (w : Nat) : (s.dropWork w).windows = s.windows := by simp only [State.dropWork]
@[simp] theorem State.dropWork_bar (s : State) (w : Nat) : (s.dropWork w).bar = s.bar := by simp only [State.dropWork]
@[simp] theorem State.dropWork_pba (s : State) (w : Nat) : (s.dropWork w).pba = s.pba := by simp only [State.dropWork]
@[simp] theorem State.dropWork_hot (s : State) (w : Nat) : (s.dropWork w).hot = s.hot := by simp only [State.dropWork]
@[simp] theorem State.dropWork_overSince (s : State) (w : Nat) : (s.dropWork w).overSince = s.overSince := by simp only [State.dropWork]
@[simp] theorem State.dropWork_wattsSet (s : State) (w : Nat) : (s.dropWork w).wattsSet = s.wattsSet := by simp only [State.dropWork]
@[simp] theorem State.dropWork_checks (s : State) (w : Nat) : (s.dropWork w).checks = s.checks := by simp only [State.dropWork]
@[simp] theorem State.dropWork_turns (s : State) (w : Nat) : (s.dropWork w).turns = s.turns := by simp only [State.dropWork]
@[simp] theorem State.dropWork_throttleAt (s : State) (w : Nat) : (s.dropWork w).throttleAt = s.throttleAt := by simp only [State.dropWork]

/-! ### updCluster -/

@[simp] theorem State.updCluster_agenda (s : State) (c : Nat) (f : Cluster → Cluster) : (s.updCluster c f).agenda = s.agenda := by simp only [State.updCluster]
@[simp] theorem State.updCluster_sched (s : State) (c : Nat) (f : Cluster → Cluster) : (s.updCluster c f).sched = s.sched := by simp only [State.updCluster]
@[simp] theorem State.updCluster_freeCtr (s : State) (c : Nat) (f : Cluster → Cluster) : (s.updCluster c f).freeCtr = s.freeCtr := by simp only [State.updCluster]
@[simp] theorem State.updCluster_nextUid (s : State) (c : Nat) (f : Cluster → Cluster) : (s.updCluster c f).nextUid = s.nextUid := by simp only [State.updCluster]
@[simp] theorem State.updCluster_gg (s : State) (c : Nat) (f : Cluster → Cluster) : (s.updCluster c f).gg = s.gg := by simp only [State.updCluster]
@[simp] theorem State.updCluster_tr (s : State) (c : Nat) (f : Cluster → Cluster) : (s.updCluster c f).tr = s.tr := by simp only [State.updCluster]
@[simp] theorem State.updCluster_sel (s : State) (c : Nat) (f : Cluster → Cluster) : (s.updCluster c f).sel = s.sel := by simp only [State.updCluster]
@[simp] theorem State.updCluster_gangs (s : State) (c : Nat) (f : Cluster → Cluster) : (s.updCluster c f).gangs = s.gangs := by simp only [State.updCluster]
@[simp] theorem State.updCluster_power (s : State) (c : Nat) (f : Cluster → Cluster) : (s.updCluster c f).power = s.power := by simp only [State.updCluster]
@[simp] theorem State.updCluster_cycle (s : State) (c : Nat) (f : Cluster → Cluster) : (s.updCluster c f).cycle = s.cycle := by simp only [State.updCluster]
@[simp] theorem State.updCluster_ctl (s : State) (c : Nat) (f : Cluster → Cluster) : (s.updCluster c f).ctl = s.ctl := by simp only [State.updCluster]
@[simp] theorem State.updCluster_mem (s : State) (c : Nat) (f : Cluster → Cluster) : (s.updCluster c f).mem = s.mem := by simp only [State.updCluster]
@[simp] theorem State.updCluster_caches (s : State) (c : Nat) (f : Cluster → Cluster) : (s.updCluster c f).caches = s.caches := by simp only [State.updCluster]
@[simp] theorem State.updCluster_fills (s : State) (c : Nat) (f : Cluster → Cluster) : (s.updCluster c f).fills = s.fills := by simp only [State.updCluster]
@[simp] theorem State.updCluster_tlbs (s : State) (c : Nat) (f : Cluster → Cluster) : (s.updCluster c f).tlbs = s.tlbs := by simp only [State.updCluster]
@[simp] theorem State.updCluster_walks (s : State) (c : Nat) (f : Cluster → Cluster) : (s.updCluster c f).walks = s.walks := by simp only [State.updCluster]
@[simp] theorem State.updCluster_wcache (s : State) (c : Nat) (f : Cluster → Cluster) : (s.updCluster c f).wcache = s.wcache := by simp only [State.updCluster]
@[simp] theorem State.updCluster_parts (s : State) (c : Nat) (f : Cluster → Cluster) : (s.updCluster c f).parts = s.parts := by simp only [State.updCluster]
@[simp] theorem State.updCluster_queues (s : State) (c : Nat) (f : Cluster → Cluster) : (s.updCluster c f).queues = s.queues := by simp only [State.updCluster]
@[simp] theorem State.updCluster_served (s : State) (c : Nat) (f : Cluster → Cluster) : (s.updCluster c f).served = s.served := by simp only [State.updCluster]
@[simp] theorem State.updCluster_cores (s : State) (c : Nat) (f : Cluster → Cluster) : (s.updCluster c f).cores = s.cores := by simp only [State.updCluster]
@[simp] theorem State.updCluster_ring (s : State) (c : Nat) (f : Cluster → Cluster) : (s.updCluster c f).ring = s.ring := by simp only [State.updCluster]
@[simp] theorem State.updCluster_packets (s : State) (c : Nat) (f : Cluster → Cluster) : (s.updCluster c f).packets = s.packets := by simp only [State.updCluster]
@[simp] theorem State.updCluster_watts (s : State) (c : Nat) (f : Cluster → Cluster) : (s.updCluster c f).watts = s.watts := by simp only [State.updCluster]
@[simp] theorem State.updCluster_wfw (s : State) (c : Nat) (f : Cluster → Cluster) : (s.updCluster c f).wfw = s.wfw := by simp only [State.updCluster]
@[simp] theorem State.updCluster_fwCarry (s : State) (c : Nat) (f : Cluster → Cluster) : (s.updCluster c f).fwCarry = s.fwCarry := by simp only [State.updCluster]
@[simp] theorem State.updCluster_fwTotal (s : State) (c : Nat) (f : Cluster → Cluster) : (s.updCluster c f).fwTotal = s.fwTotal := by simp only [State.updCluster]
@[simp] theorem State.updCluster_lapServes (s : State) (c : Nat) (f : Cluster → Cluster) : (s.updCluster c f).lapServes = s.lapServes := by simp only [State.updCluster]
@[simp] theorem State.updCluster_lapFixed (s : State) (c : Nat) (f : Cluster → Cluster) : (s.updCluster c f).lapFixed = s.lapFixed := by simp only [State.updCluster]
@[simp] theorem State.updCluster_prices (s : State) (c : Nat) (f : Cluster → Cluster) : (s.updCluster c f).prices = s.prices := by simp only [State.updCluster]
@[simp] theorem State.updCluster_priceNext (s : State) (c : Nat) (f : Cluster → Cluster) : (s.updCluster c f).priceNext = s.priceNext := by simp only [State.updCluster]
@[simp] theorem State.updCluster_boosts (s : State) (c : Nat) (f : Cluster → Cluster) : (s.updCluster c f).boosts = s.boosts := by simp only [State.updCluster]
@[simp] theorem State.updCluster_late (s : State) (c : Nat) (f : Cluster → Cluster) : (s.updCluster c f).late = s.late := by simp only [State.updCluster]
@[simp] theorem State.updCluster_modnum (s : State) (c : Nat) (f : Cluster → Cluster) : (s.updCluster c f).modnum = s.modnum := by simp only [State.updCluster]
@[simp] theorem State.updCluster_domain (s : State) (c : Nat) (f : Cluster → Cluster) : (s.updCluster c f).domain = s.domain := by simp only [State.updCluster]
@[simp] theorem State.updCluster_lost (s : State) (c : Nat) (f : Cluster → Cluster) : (s.updCluster c f).lost = s.lost := by simp only [State.updCluster]
@[simp] theorem State.updCluster_bad (s : State) (c : Nat) (f : Cluster → Cluster) : (s.updCluster c f).bad = s.bad := by simp only [State.updCluster]
@[simp] theorem State.updCluster_msi (s : State) (c : Nat) (f : Cluster → Cluster) : (s.updCluster c f).msi = s.msi := by simp only [State.updCluster]
@[simp] theorem State.updCluster_bells (s : State) (c : Nat) (f : Cluster → Cluster) : (s.updCluster c f).bells = s.bells := by simp only [State.updCluster]
@[simp] theorem State.updCluster_works (s : State) (c : Nat) (f : Cluster → Cluster) : (s.updCluster c f).works = s.works := by simp only [State.updCluster]
@[simp] theorem State.updCluster_jobSel (s : State) (c : Nat) (f : Cluster → Cluster) : (s.updCluster c f).jobSel = s.jobSel := by simp only [State.updCluster]
@[simp] theorem State.updCluster_piles (s : State) (c : Nat) (f : Cluster → Cluster) : (s.updCluster c f).piles = s.piles := by simp only [State.updCluster]
@[simp] theorem State.updCluster_regions (s : State) (c : Nat) (f : Cluster → Cluster) : (s.updCluster c f).regions = s.regions := by simp only [State.updCluster]
@[simp] theorem State.updCluster_images (s : State) (c : Nat) (f : Cluster → Cluster) : (s.updCluster c f).images = s.images := by simp only [State.updCluster]
@[simp] theorem State.updCluster_loads (s : State) (c : Nat) (f : Cluster → Cluster) : (s.updCluster c f).loads = s.loads := by simp only [State.updCluster]
@[simp] theorem State.updCluster_imageKey (s : State) (c : Nat) (f : Cluster → Cluster) : (s.updCluster c f).imageKey = s.imageKey := by simp only [State.updCluster]
@[simp] theorem State.updCluster_imgh (s : State) (c : Nat) (f : Cluster → Cluster) : (s.updCluster c f).imgh = s.imgh := by simp only [State.updCluster]
@[simp] theorem State.updCluster_held (s : State) (c : Nat) (f : Cluster → Cluster) : (s.updCluster c f).held = s.held := by simp only [State.updCluster]
@[simp] theorem State.updCluster_saved (s : State) (c : Nat) (f : Cluster → Cluster) : (s.updCluster c f).saved = s.saved := by simp only [State.updCluster]
@[simp] theorem State.updCluster_drains (s : State) (c : Nat) (f : Cluster → Cluster) : (s.updCluster c f).drains = s.drains := by simp only [State.updCluster]
@[simp] theorem State.updCluster_slotLen (s : State) (c : Nat) (f : Cluster → Cluster) : (s.updCluster c f).slotLen = s.slotLen := by simp only [State.updCluster]
@[simp] theorem State.updCluster_slot (s : State) (c : Nat) (f : Cluster → Cluster) : (s.updCluster c f).slot = s.slot := by simp only [State.updCluster]
@[simp] theorem State.updCluster_slotAt (s : State) (c : Nat) (f : Cluster → Cluster) : (s.updCluster c f).slotAt = s.slotAt := by simp only [State.updCluster]
@[simp] theorem State.updCluster_group (s : State) (c : Nat) (f : Cluster → Cluster) : (s.updCluster c f).group = s.group := by simp only [State.updCluster]
@[simp] theorem State.updCluster_overruns (s : State) (c : Nat) (f : Cluster → Cluster) : (s.updCluster c f).overruns = s.overruns := by simp only [State.updCluster]
@[simp] theorem State.updCluster_mail (s : State) (c : Nat) (f : Cluster → Cluster) : (s.updCluster c f).mail = s.mail := by simp only [State.updCluster]
@[simp] theorem State.updCluster_keymap (s : State) (c : Nat) (f : Cluster → Cluster) : (s.updCluster c f).keymap = s.keymap := by simp only [State.updCluster]
@[simp] theorem State.updCluster_keys (s : State) (c : Nat) (f : Cluster → Cluster) : (s.updCluster c f).keys = s.keys := by simp only [State.updCluster]
@[simp] theorem State.updCluster_keyDraws (s : State) (c : Nat) (f : Cluster → Cluster) : (s.updCluster c f).keyDraws = s.keyDraws := by simp only [State.updCluster]
@[simp] theorem State.updCluster_bootStep (s : State) (c : Nat) (f : Cluster → Cluster) : (s.updCluster c f).bootStep = s.bootStep := by simp only [State.updCluster]
@[simp] theorem State.updCluster_bootFail (s : State) (c : Nat) (f : Cluster → Cluster) : (s.updCluster c f).bootFail = s.bootFail := by simp only [State.updCluster]
@[simp] theorem State.updCluster_fwh (s : State) (c : Nat) (f : Cluster → Cluster) : (s.updCluster c f).fwh = s.fwh := by simp only [State.updCluster]
@[simp] theorem State.updCluster_attKey (s : State) (c : Nat) (f : Cluster → Cluster) : (s.updCluster c f).attKey = s.attKey := by simp only [State.updCluster]
@[simp] theorem State.updCluster_attDraws (s : State) (c : Nat) (f : Cluster → Cluster) : (s.updCluster c f).attDraws = s.attDraws := by simp only [State.updCluster]
@[simp] theorem State.updCluster_ports (s : State) (c : Nat) (f : Cluster → Cluster) : (s.updCluster c f).ports = s.ports := by simp only [State.updCluster]
@[simp] theorem State.updCluster_windows (s : State) (c : Nat) (f : Cluster → Cluster) : (s.updCluster c f).windows = s.windows := by simp only [State.updCluster]
@[simp] theorem State.updCluster_bar (s : State) (c : Nat) (f : Cluster → Cluster) : (s.updCluster c f).bar = s.bar := by simp only [State.updCluster]
@[simp] theorem State.updCluster_pba (s : State) (c : Nat) (f : Cluster → Cluster) : (s.updCluster c f).pba = s.pba := by simp only [State.updCluster]
@[simp] theorem State.updCluster_hot (s : State) (c : Nat) (f : Cluster → Cluster) : (s.updCluster c f).hot = s.hot := by simp only [State.updCluster]
@[simp] theorem State.updCluster_overSince (s : State) (c : Nat) (f : Cluster → Cluster) : (s.updCluster c f).overSince = s.overSince := by simp only [State.updCluster]
@[simp] theorem State.updCluster_wattsSet (s : State) (c : Nat) (f : Cluster → Cluster) : (s.updCluster c f).wattsSet = s.wattsSet := by simp only [State.updCluster]
@[simp] theorem State.updCluster_checks (s : State) (c : Nat) (f : Cluster → Cluster) : (s.updCluster c f).checks = s.checks := by simp only [State.updCluster]
@[simp] theorem State.updCluster_turns (s : State) (c : Nat) (f : Cluster → Cluster) : (s.updCluster c f).turns = s.turns := by simp only [State.updCluster]
@[simp] theorem State.updCluster_throttleAt (s : State) (c : Nat) (f : Cluster → Cluster) : (s.updCluster c f).throttleAt = s.throttleAt := by simp only [State.updCluster]

/-! ### report -/

@[simp] theorem State.report_agenda (s : State) (m : Mail) : (s.report m).agenda = s.agenda := by simp only [State.report]
@[simp] theorem State.report_sched (s : State) (m : Mail) : (s.report m).sched = s.sched := by simp only [State.report]
@[simp] theorem State.report_freeCtr (s : State) (m : Mail) : (s.report m).freeCtr = s.freeCtr := by simp only [State.report]
@[simp] theorem State.report_nextUid (s : State) (m : Mail) : (s.report m).nextUid = s.nextUid := by simp only [State.report]
@[simp] theorem State.report_gg (s : State) (m : Mail) : (s.report m).gg = s.gg := by simp only [State.report]
@[simp] theorem State.report_tr (s : State) (m : Mail) : (s.report m).tr = s.tr := by simp only [State.report]
@[simp] theorem State.report_sel (s : State) (m : Mail) : (s.report m).sel = s.sel := by simp only [State.report]
@[simp] theorem State.report_gangs (s : State) (m : Mail) : (s.report m).gangs = s.gangs := by simp only [State.report]
@[simp] theorem State.report_power (s : State) (m : Mail) : (s.report m).power = s.power := by simp only [State.report]
@[simp] theorem State.report_cycle (s : State) (m : Mail) : (s.report m).cycle = s.cycle := by simp only [State.report]
@[simp] theorem State.report_ctl (s : State) (m : Mail) : (s.report m).ctl = s.ctl := by simp only [State.report]
@[simp] theorem State.report_mem (s : State) (m : Mail) : (s.report m).mem = s.mem := by simp only [State.report]
@[simp] theorem State.report_caches (s : State) (m : Mail) : (s.report m).caches = s.caches := by simp only [State.report]
@[simp] theorem State.report_fills (s : State) (m : Mail) : (s.report m).fills = s.fills := by simp only [State.report]
@[simp] theorem State.report_tlbs (s : State) (m : Mail) : (s.report m).tlbs = s.tlbs := by simp only [State.report]
@[simp] theorem State.report_walks (s : State) (m : Mail) : (s.report m).walks = s.walks := by simp only [State.report]
@[simp] theorem State.report_wcache (s : State) (m : Mail) : (s.report m).wcache = s.wcache := by simp only [State.report]
@[simp] theorem State.report_parts (s : State) (m : Mail) : (s.report m).parts = s.parts := by simp only [State.report]
@[simp] theorem State.report_queues (s : State) (m : Mail) : (s.report m).queues = s.queues := by simp only [State.report]
@[simp] theorem State.report_served (s : State) (m : Mail) : (s.report m).served = s.served := by simp only [State.report]
@[simp] theorem State.report_cores (s : State) (m : Mail) : (s.report m).cores = s.cores := by simp only [State.report]
@[simp] theorem State.report_clusters (s : State) (m : Mail) : (s.report m).clusters = s.clusters := by simp only [State.report]
@[simp] theorem State.report_ring (s : State) (m : Mail) : (s.report m).ring = s.ring := by simp only [State.report]
@[simp] theorem State.report_packets (s : State) (m : Mail) : (s.report m).packets = s.packets := by simp only [State.report]
@[simp] theorem State.report_watts (s : State) (m : Mail) : (s.report m).watts = s.watts := by simp only [State.report]
@[simp] theorem State.report_wfw (s : State) (m : Mail) : (s.report m).wfw = s.wfw := by simp only [State.report]
@[simp] theorem State.report_fwCarry (s : State) (m : Mail) : (s.report m).fwCarry = s.fwCarry := by simp only [State.report]
@[simp] theorem State.report_fwTotal (s : State) (m : Mail) : (s.report m).fwTotal = s.fwTotal := by simp only [State.report]
@[simp] theorem State.report_lapServes (s : State) (m : Mail) : (s.report m).lapServes = s.lapServes := by simp only [State.report]
@[simp] theorem State.report_lapFixed (s : State) (m : Mail) : (s.report m).lapFixed = s.lapFixed := by simp only [State.report]
@[simp] theorem State.report_prices (s : State) (m : Mail) : (s.report m).prices = s.prices := by simp only [State.report]
@[simp] theorem State.report_priceNext (s : State) (m : Mail) : (s.report m).priceNext = s.priceNext := by simp only [State.report]
@[simp] theorem State.report_boosts (s : State) (m : Mail) : (s.report m).boosts = s.boosts := by simp only [State.report]
@[simp] theorem State.report_late (s : State) (m : Mail) : (s.report m).late = s.late := by simp only [State.report]
@[simp] theorem State.report_modnum (s : State) (m : Mail) : (s.report m).modnum = s.modnum := by simp only [State.report]
@[simp] theorem State.report_domain (s : State) (m : Mail) : (s.report m).domain = s.domain := by simp only [State.report]
@[simp] theorem State.report_lost (s : State) (m : Mail) : (s.report m).lost = s.lost := by simp only [State.report]
@[simp] theorem State.report_bad (s : State) (m : Mail) : (s.report m).bad = s.bad := by simp only [State.report]
@[simp] theorem State.report_msi (s : State) (m : Mail) : (s.report m).msi = s.msi := by simp only [State.report]
@[simp] theorem State.report_bells (s : State) (m : Mail) : (s.report m).bells = s.bells := by simp only [State.report]
@[simp] theorem State.report_works (s : State) (m : Mail) : (s.report m).works = s.works := by simp only [State.report]
@[simp] theorem State.report_jobSel (s : State) (m : Mail) : (s.report m).jobSel = s.jobSel := by simp only [State.report]
@[simp] theorem State.report_piles (s : State) (m : Mail) : (s.report m).piles = s.piles := by simp only [State.report]
@[simp] theorem State.report_regions (s : State) (m : Mail) : (s.report m).regions = s.regions := by simp only [State.report]
@[simp] theorem State.report_images (s : State) (m : Mail) : (s.report m).images = s.images := by simp only [State.report]
@[simp] theorem State.report_loads (s : State) (m : Mail) : (s.report m).loads = s.loads := by simp only [State.report]
@[simp] theorem State.report_imageKey (s : State) (m : Mail) : (s.report m).imageKey = s.imageKey := by simp only [State.report]
@[simp] theorem State.report_imgh (s : State) (m : Mail) : (s.report m).imgh = s.imgh := by simp only [State.report]
@[simp] theorem State.report_held (s : State) (m : Mail) : (s.report m).held = s.held := by simp only [State.report]
@[simp] theorem State.report_saved (s : State) (m : Mail) : (s.report m).saved = s.saved := by simp only [State.report]
@[simp] theorem State.report_drains (s : State) (m : Mail) : (s.report m).drains = s.drains := by simp only [State.report]
@[simp] theorem State.report_slotLen (s : State) (m : Mail) : (s.report m).slotLen = s.slotLen := by simp only [State.report]
@[simp] theorem State.report_slot (s : State) (m : Mail) : (s.report m).slot = s.slot := by simp only [State.report]
@[simp] theorem State.report_slotAt (s : State) (m : Mail) : (s.report m).slotAt = s.slotAt := by simp only [State.report]
@[simp] theorem State.report_group (s : State) (m : Mail) : (s.report m).group = s.group := by simp only [State.report]
@[simp] theorem State.report_overruns (s : State) (m : Mail) : (s.report m).overruns = s.overruns := by simp only [State.report]
@[simp] theorem State.report_keymap (s : State) (m : Mail) : (s.report m).keymap = s.keymap := by simp only [State.report]
@[simp] theorem State.report_keys (s : State) (m : Mail) : (s.report m).keys = s.keys := by simp only [State.report]
@[simp] theorem State.report_keyDraws (s : State) (m : Mail) : (s.report m).keyDraws = s.keyDraws := by simp only [State.report]
@[simp] theorem State.report_bootStep (s : State) (m : Mail) : (s.report m).bootStep = s.bootStep := by simp only [State.report]
@[simp] theorem State.report_bootFail (s : State) (m : Mail) : (s.report m).bootFail = s.bootFail := by simp only [State.report]
@[simp] theorem State.report_fwh (s : State) (m : Mail) : (s.report m).fwh = s.fwh := by simp only [State.report]
@[simp] theorem State.report_attKey (s : State) (m : Mail) : (s.report m).attKey = s.attKey := by simp only [State.report]
@[simp] theorem State.report_attDraws (s : State) (m : Mail) : (s.report m).attDraws = s.attDraws := by simp only [State.report]
@[simp] theorem State.report_ports (s : State) (m : Mail) : (s.report m).ports = s.ports := by simp only [State.report]
@[simp] theorem State.report_windows (s : State) (m : Mail) : (s.report m).windows = s.windows := by simp only [State.report]
@[simp] theorem State.report_bar (s : State) (m : Mail) : (s.report m).bar = s.bar := by simp only [State.report]
@[simp] theorem State.report_pba (s : State) (m : Mail) : (s.report m).pba = s.pba := by simp only [State.report]
@[simp] theorem State.report_hot (s : State) (m : Mail) : (s.report m).hot = s.hot := by simp only [State.report]
@[simp] theorem State.report_overSince (s : State) (m : Mail) : (s.report m).overSince = s.overSince := by simp only [State.report]
@[simp] theorem State.report_wattsSet (s : State) (m : Mail) : (s.report m).wattsSet = s.wattsSet := by simp only [State.report]
@[simp] theorem State.report_checks (s : State) (m : Mail) : (s.report m).checks = s.checks := by simp only [State.report]
@[simp] theorem State.report_turns (s : State) (m : Mail) : (s.report m).turns = s.turns := by simp only [State.report]
@[simp] theorem State.report_throttleAt (s : State) (m : Mail) : (s.report m).throttleAt = s.throttleAt := by simp only [State.report]

/-! ### tick -/

theorem State.refreshOne_eq (s : State) (was : List Partition) (p : Nat) :
    s.refreshOne was p = { s with parts := (s.refreshOne was p).parts, clusters := (s.refreshOne was p).clusters } := by
  unfold State.refreshOne State.setPart
  dsimp only
  split <;> split <;> first | rfl | (split <;> rfl)
theorem State.refreshAll_eq (was : List Partition) (l : List Nat) (s : State) :
    l.foldl (fun s p => s.refreshOne was p) s =
      { s with parts := (l.foldl (fun s p => s.refreshOne was p) s).parts, clusters := (l.foldl (fun s p => s.refreshOne was p) s).clusters } := by
  induction l generalizing s with
  | nil => rfl
  | cons p l ih =>
    refine (ih (s.refreshOne was p)).trans ?_
    simp only [List.foldl_cons]
    generalize (l.foldl (fun s p => s.refreshOne was p) (s.refreshOne was p)).parts = a
    generalize (l.foldl (fun s p => s.refreshOne was p) (s.refreshOne was p)).clusters = b
    exact congrArg (fun t : State => { t with parts := a, clusters := b }) (State.refreshOne_eq s was p)
theorem State.refreshActive_eq (s : State) :
    s.refreshActive = { s with parts := s.refreshActive.parts, clusters := s.refreshActive.clusters } :=
  State.refreshAll_eq _ _ s
/-- What the passing of time may change. -/
theorem State.tick_eq (s : State) :
    s.tick = { s with cycle := s.tick.cycle, freeCtr := s.tick.freeCtr, bad := s.tick.bad, ctl := s.tick.ctl, parts := s.tick.parts,
                      clusters := s.tick.clusters } := by
  unfold State.tick
  rw [State.refreshActive_eq]
  unfold State.correct
  dsimp only
  split <;> rfl

@[simp] theorem State.tick_agenda (s : State) : (s.tick).agenda = s.agenda := by rw [State.tick_eq]
@[simp] theorem State.tick_sched (s : State) : (s.tick).sched = s.sched := by rw [State.tick_eq]
@[simp] theorem State.tick_nextUid (s : State) : (s.tick).nextUid = s.nextUid := by rw [State.tick_eq]
@[simp] theorem State.tick_gg (s : State) : (s.tick).gg = s.gg := by rw [State.tick_eq]
@[simp] theorem State.tick_tr (s : State) : (s.tick).tr = s.tr := by rw [State.tick_eq]
@[simp] theorem State.tick_sel (s : State) : (s.tick).sel = s.sel := by rw [State.tick_eq]
@[simp] theorem State.tick_gangs (s : State) : (s.tick).gangs = s.gangs := by rw [State.tick_eq]
@[simp] theorem State.tick_power (s : State) : (s.tick).power = s.power := by rw [State.tick_eq]
@[simp] theorem State.tick_mem (s : State) : (s.tick).mem = s.mem := by rw [State.tick_eq]
@[simp] theorem State.tick_caches (s : State) : (s.tick).caches = s.caches := by rw [State.tick_eq]
@[simp] theorem State.tick_fills (s : State) : (s.tick).fills = s.fills := by rw [State.tick_eq]
@[simp] theorem State.tick_tlbs (s : State) : (s.tick).tlbs = s.tlbs := by rw [State.tick_eq]
@[simp] theorem State.tick_walks (s : State) : (s.tick).walks = s.walks := by rw [State.tick_eq]
@[simp] theorem State.tick_wcache (s : State) : (s.tick).wcache = s.wcache := by rw [State.tick_eq]
@[simp] theorem State.tick_queues (s : State) : (s.tick).queues = s.queues := by rw [State.tick_eq]
@[simp] theorem State.tick_served (s : State) : (s.tick).served = s.served := by rw [State.tick_eq]
@[simp] theorem State.tick_cores (s : State) : (s.tick).cores = s.cores := by rw [State.tick_eq]
@[simp] theorem State.tick_ring (s : State) : (s.tick).ring = s.ring := by rw [State.tick_eq]
@[simp] theorem State.tick_packets (s : State) : (s.tick).packets = s.packets := by rw [State.tick_eq]
@[simp] theorem State.tick_watts (s : State) : (s.tick).watts = s.watts := by rw [State.tick_eq]
@[simp] theorem State.tick_wfw (s : State) : (s.tick).wfw = s.wfw := by rw [State.tick_eq]
@[simp] theorem State.tick_fwCarry (s : State) : (s.tick).fwCarry = s.fwCarry := by rw [State.tick_eq]
@[simp] theorem State.tick_fwTotal (s : State) : (s.tick).fwTotal = s.fwTotal := by rw [State.tick_eq]
@[simp] theorem State.tick_lapServes (s : State) : (s.tick).lapServes = s.lapServes := by rw [State.tick_eq]
@[simp] theorem State.tick_lapFixed (s : State) : (s.tick).lapFixed = s.lapFixed := by rw [State.tick_eq]
@[simp] theorem State.tick_prices (s : State) : (s.tick).prices = s.prices := by rw [State.tick_eq]
@[simp] theorem State.tick_priceNext (s : State) : (s.tick).priceNext = s.priceNext := by rw [State.tick_eq]
@[simp] theorem State.tick_boosts (s : State) : (s.tick).boosts = s.boosts := by rw [State.tick_eq]
@[simp] theorem State.tick_late (s : State) : (s.tick).late = s.late := by rw [State.tick_eq]
@[simp] theorem State.tick_modnum (s : State) : (s.tick).modnum = s.modnum := by rw [State.tick_eq]
@[simp] theorem State.tick_domain (s : State) : (s.tick).domain = s.domain := by rw [State.tick_eq]
@[simp] theorem State.tick_lost (s : State) : (s.tick).lost = s.lost := by rw [State.tick_eq]
@[simp] theorem State.tick_msi (s : State) : (s.tick).msi = s.msi := by rw [State.tick_eq]
@[simp] theorem State.tick_bells (s : State) : (s.tick).bells = s.bells := by rw [State.tick_eq]
@[simp] theorem State.tick_works (s : State) : (s.tick).works = s.works := by rw [State.tick_eq]
@[simp] theorem State.tick_jobSel (s : State) : (s.tick).jobSel = s.jobSel := by rw [State.tick_eq]
@[simp] theorem State.tick_piles (s : State) : (s.tick).piles = s.piles := by rw [State.tick_eq]
@[simp] theorem State.tick_regions (s : State) : (s.tick).regions = s.regions := by rw [State.tick_eq]
@[simp] theorem State.tick_images (s : State) : (s.tick).images = s.images := by rw [State.tick_eq]
@[simp] theorem State.tick_loads (s : State) : (s.tick).loads = s.loads := by rw [State.tick_eq]
@[simp] theorem State.tick_imageKey (s : State) : (s.tick).imageKey = s.imageKey := by rw [State.tick_eq]
@[simp] theorem State.tick_imgh (s : State) : (s.tick).imgh = s.imgh := by rw [State.tick_eq]
@[simp] theorem State.tick_held (s : State) : (s.tick).held = s.held := by rw [State.tick_eq]
@[simp] theorem State.tick_saved (s : State) : (s.tick).saved = s.saved := by rw [State.tick_eq]
@[simp] theorem State.tick_drains (s : State) : (s.tick).drains = s.drains := by rw [State.tick_eq]
@[simp] theorem State.tick_slotLen (s : State) : (s.tick).slotLen = s.slotLen := by rw [State.tick_eq]
@[simp] theorem State.tick_slot (s : State) : (s.tick).slot = s.slot := by rw [State.tick_eq]
@[simp] theorem State.tick_slotAt (s : State) : (s.tick).slotAt = s.slotAt := by rw [State.tick_eq]
@[simp] theorem State.tick_group (s : State) : (s.tick).group = s.group := by rw [State.tick_eq]
@[simp] theorem State.tick_overruns (s : State) : (s.tick).overruns = s.overruns := by rw [State.tick_eq]
@[simp] theorem State.tick_mail (s : State) : (s.tick).mail = s.mail := by rw [State.tick_eq]
@[simp] theorem State.tick_keymap (s : State) : (s.tick).keymap = s.keymap := by rw [State.tick_eq]
@[simp] theorem State.tick_keys (s : State) : (s.tick).keys = s.keys := by rw [State.tick_eq]
@[simp] theorem State.tick_keyDraws (s : State) : (s.tick).keyDraws = s.keyDraws := by rw [State.tick_eq]
@[simp] theorem State.tick_bootStep (s : State) : (s.tick).bootStep = s.bootStep := by rw [State.tick_eq]
@[simp] theorem State.tick_bootFail (s : State) : (s.tick).bootFail = s.bootFail := by rw [State.tick_eq]
@[simp] theorem State.tick_fwh (s : State) : (s.tick).fwh = s.fwh := by rw [State.tick_eq]
@[simp] theorem State.tick_attKey (s : State) : (s.tick).attKey = s.attKey := by rw [State.tick_eq]
@[simp] theorem State.tick_attDraws (s : State) : (s.tick).attDraws = s.attDraws := by rw [State.tick_eq]
@[simp] theorem State.tick_ports (s : State) : (s.tick).ports = s.ports := by rw [State.tick_eq]
@[simp] theorem State.tick_windows (s : State) : (s.tick).windows = s.windows := by rw [State.tick_eq]
@[simp] theorem State.tick_bar (s : State) : (s.tick).bar = s.bar := by rw [State.tick_eq]
@[simp] theorem State.tick_pba (s : State) : (s.tick).pba = s.pba := by rw [State.tick_eq]
@[simp] theorem State.tick_hot (s : State) : (s.tick).hot = s.hot := by rw [State.tick_eq]
@[simp] theorem State.tick_overSince (s : State) : (s.tick).overSince = s.overSince := by rw [State.tick_eq]
@[simp] theorem State.tick_wattsSet (s : State) : (s.tick).wattsSet = s.wattsSet := by rw [State.tick_eq]
@[simp] theorem State.tick_checks (s : State) : (s.tick).checks = s.checks := by rw [State.tick_eq]
@[simp] theorem State.tick_turns (s : State) : (s.tick).turns = s.turns := by rw [State.tick_eq]
@[simp] theorem State.tick_throttleAt (s : State) : (s.tick).throttleAt = s.throttleAt := by rw [State.tick_eq]

/-! ### setCur, within the troupe -/

@[simp] theorem State.setCur_tr_idx (s : State) (x : Slot) : (s.setCur x).tr.idx = s.tr.idx := by unfold State.setCur Troupe.setSlot; split <;> rfl
@[simp] theorem State.setCur_tr_sreg (s : State) (x : Slot) : (s.setCur x).tr.sreg = s.tr.sreg := by unfold State.setCur Troupe.setSlot; split <;> rfl
@[simp] theorem State.setCur_tr_vreg (s : State) (x : Slot) : (s.setCur x).tr.vreg = s.tr.vreg := by unfold State.setCur Troupe.setSlot; split <;> rfl
@[simp] theorem State.setCur_tr_kreg (s : State) (x : Slot) : (s.setCur x).tr.kreg = s.tr.kreg := by unfold State.setCur Troupe.setSlot; split <;> rfl
@[simp] theorem State.setCur_tr_draw (s : State) (x : Slot) : (s.setCur x).tr.draw = s.tr.draw := by unfold State.setCur Troupe.setSlot; split <;> rfl
@[simp] theorem State.setCur_tr_psp (s : State) (x : Slot) : (s.setCur x).tr.psp = s.tr.psp := by unfold State.setCur Troupe.setSlot; split <;> rfl
@[simp] theorem State.setCur_tr_tilesz (s : State) (x : Slot) : (s.setCur x).tr.tilesz = s.tr.tilesz := by unfold State.setCur Troupe.setSlot; split <;> rfl
@[simp] theorem State.setCur_tr_rbnd (s : State) (x : Slot) : (s.setCur x).tr.rbnd = s.tr.rbnd := by unfold State.setCur Troupe.setSlot; split <;> rfl
@[simp] theorem State.setCur_tr_trapvec (s : State) (x : Slot) : (s.setCur x).tr.trapvec = s.tr.trapvec := by unfold State.setCur Troupe.setSlot; split <;> rfl
@[simp] theorem State.setCur_tr_batch (s : State) (x : Slot) : (s.setCur x).tr.batch = s.tr.batch := by unfold State.setCur Troupe.setSlot; split <;> rfl
@[simp] theorem State.setCur_tr_quadrant (s : State) (x : Slot) : (s.setCur x).tr.quadrant = s.tr.quadrant := by unfold State.setCur Troupe.setSlot; split <;> rfl
@[simp] theorem State.setCur_tr_qslot (s : State) (x : Slot) : (s.setCur x).tr.qslot = s.tr.qslot := by unfold State.setCur Troupe.setSlot; split <;> rfl
@[simp] theorem State.setCur_tr_frameNo (s : State) (x : Slot) : (s.setCur x).tr.frameNo = s.tr.frameNo := by unfold State.setCur Troupe.setSlot; split <;> rfl
@[simp] theorem State.setCur_tr_stream (s : State) (x : Slot) : (s.setCur x).tr.stream = s.tr.stream := by unfold State.setCur Troupe.setSlot; split <;> rfl
@[simp] theorem State.setCur_tr_ins (s : State) (x : Slot) : (s.setCur x).tr.ins = s.tr.ins := by unfold State.setCur Troupe.setSlot; split <;> rfl
@[simp] theorem State.setCur_tr_early (s : State) (x : Slot) : (s.setCur x).tr.early = s.tr.early := by unfold State.setCur Troupe.setSlot; split <;> rfl
@[simp] theorem State.setCur_tr_sent (s : State) (x : Slot) : (s.setCur x).tr.sent = s.tr.sent := by unfold State.setCur Troupe.setSlot; split <;> rfl
@[simp] theorem State.setCur_tr_park (s : State) (x : Slot) : (s.setCur x).tr.park = s.tr.park := by unfold State.setCur Troupe.setSlot; split <;> rfl
@[simp] theorem State.setCur_tr_ended (s : State) (x : Slot) : (s.setCur x).tr.ended = s.tr.ended := by unfold State.setCur Troupe.setSlot; split <;> rfl
@[simp] theorem State.setCur_tr_nearCopy (s : State) (x : Slot) : (s.setCur x).tr.nearCopy = s.tr.nearCopy := by unfold State.setCur Troupe.setSlot; split <;> rfl
@[simp] theorem State.setCur_tr_nearStack (s : State) (x : Slot) : (s.setCur x).tr.nearStack = s.tr.nearStack := by unfold State.setCur Troupe.setSlot; split <;> rfl
@[simp] theorem State.setCur_tr_wrote (s : State) (x : Slot) : (s.setCur x).tr.wrote = s.tr.wrote := by unfold State.setCur Troupe.setSlot; split <;> rfl

/-! ### setSibling, within the troupe -/

@[simp] theorem State.setSibling_tr_idx (s : State) (x : Slot) : (s.setSibling x).tr.idx = s.tr.idx := by unfold State.setSibling Troupe.setSlot; split <;> rfl
@[simp] theorem State.setSibling_tr_sreg (s : State) (x : Slot) : (s.setSibling x).tr.sreg = s.tr.sreg := by unfold State.setSibling Troupe.setSlot; split <;> rfl
@[simp] theorem State.setSibling_tr_vreg (s : State) (x : Slot) : (s.setSibling x).tr.vreg = s.tr.vreg := by unfold State.setSibling Troupe.setSlot; split <;> rfl
@[simp] theorem State.setSibling_tr_kreg (s : State) (x : Slot) : (s.setSibling x).tr.kreg = s.tr.kreg := by unfold State.setSibling Troupe.setSlot; split <;> rfl
@[simp] theorem State.setSibling_tr_draw (s : State) (x : Slot) : (s.setSibling x).tr.draw = s.tr.draw := by unfold State.setSibling Troupe.setSlot; split <;> rfl
@[simp] theorem State.setSibling_tr_psp (s : State) (x : Slot) : (s.setSibling x).tr.psp = s.tr.psp := by unfold State.setSibling Troupe.setSlot; split <;> rfl
@[simp] theorem State.setSibling_tr_tilesz (s : State) (x : Slot) : (s.setSibling x).tr.tilesz = s.tr.tilesz := by unfold State.setSibling Troupe.setSlot; split <;> rfl
@[simp] theorem State.setSibling_tr_rbnd (s : State) (x : Slot) : (s.setSibling x).tr.rbnd = s.tr.rbnd := by unfold State.setSibling Troupe.setSlot; split <;> rfl
@[simp] theorem State.setSibling_tr_trapvec (s : State) (x : Slot) : (s.setSibling x).tr.trapvec = s.tr.trapvec := by unfold State.setSibling Troupe.setSlot; split <;> rfl
@[simp] theorem State.setSibling_tr_batch (s : State) (x : Slot) : (s.setSibling x).tr.batch = s.tr.batch := by unfold State.setSibling Troupe.setSlot; split <;> rfl
@[simp] theorem State.setSibling_tr_quadrant (s : State) (x : Slot) : (s.setSibling x).tr.quadrant = s.tr.quadrant := by unfold State.setSibling Troupe.setSlot; split <;> rfl
@[simp] theorem State.setSibling_tr_qslot (s : State) (x : Slot) : (s.setSibling x).tr.qslot = s.tr.qslot := by unfold State.setSibling Troupe.setSlot; split <;> rfl
@[simp] theorem State.setSibling_tr_frameNo (s : State) (x : Slot) : (s.setSibling x).tr.frameNo = s.tr.frameNo := by unfold State.setSibling Troupe.setSlot; split <;> rfl
@[simp] theorem State.setSibling_tr_stream (s : State) (x : Slot) : (s.setSibling x).tr.stream = s.tr.stream := by unfold State.setSibling Troupe.setSlot; split <;> rfl
@[simp] theorem State.setSibling_tr_ins (s : State) (x : Slot) : (s.setSibling x).tr.ins = s.tr.ins := by unfold State.setSibling Troupe.setSlot; split <;> rfl
@[simp] theorem State.setSibling_tr_early (s : State) (x : Slot) : (s.setSibling x).tr.early = s.tr.early := by unfold State.setSibling Troupe.setSlot; split <;> rfl
@[simp] theorem State.setSibling_tr_sent (s : State) (x : Slot) : (s.setSibling x).tr.sent = s.tr.sent := by unfold State.setSibling Troupe.setSlot; split <;> rfl
@[simp] theorem State.setSibling_tr_park (s : State) (x : Slot) : (s.setSibling x).tr.park = s.tr.park := by unfold State.setSibling Troupe.setSlot; split <;> rfl
@[simp] theorem State.setSibling_tr_ended (s : State) (x : Slot) : (s.setSibling x).tr.ended = s.tr.ended := by unfold State.setSibling Troupe.setSlot; split <;> rfl
@[simp] theorem State.setSibling_tr_nearCopy (s : State) (x : Slot) : (s.setSibling x).tr.nearCopy = s.tr.nearCopy := by unfold State.setSibling Troupe.setSlot; split <;> rfl
@[simp] theorem State.setSibling_tr_nearStack (s : State) (x : Slot) : (s.setSibling x).tr.nearStack = s.tr.nearStack := by unfold State.setSibling Troupe.setSlot; split <;> rfl
@[simp] theorem State.setSibling_tr_wrote (s : State) (x : Slot) : (s.setSibling x).tr.wrote = s.tr.wrote := by unfold State.setSibling Troupe.setSlot; split <;> rfl

/-! ### wS, within the troupe -/

@[simp] theorem State.wS_tr_idx (s : State) (r : SReg) (v : Word64) : (s.wS r v).tr.idx = s.tr.idx := by unfold State.wS; split <;> rfl
@[simp] theorem State.wS_tr_vreg (s : State) (r : SReg) (v : Word64) : (s.wS r v).tr.vreg = s.tr.vreg := by unfold State.wS; split <;> rfl
@[simp] theorem State.wS_tr_kreg (s : State) (r : SReg) (v : Word64) : (s.wS r v).tr.kreg = s.tr.kreg := by unfold State.wS; split <;> rfl
@[simp] theorem State.wS_tr_draw (s : State) (r : SReg) (v : Word64) : (s.wS r v).tr.draw = s.tr.draw := by unfold State.wS; split <;> rfl
@[simp] theorem State.wS_tr_p (s : State) (r : SReg) (v : Word64) : (s.wS r v).tr.p = s.tr.p := by unfold State.wS; split <;> rfl
@[simp] theorem State.wS_tr_q (s : State) (r : SReg) (v : Word64) : (s.wS r v).tr.q = s.tr.q := by unfold State.wS; split <;> rfl
@[simp] theorem State.wS_tr_psp (s : State) (r : SReg) (v : Word64) : (s.wS r v).tr.psp = s.tr.psp := by unfold State.wS; split <;> rfl
@[simp] theorem State.wS_tr_tilesz (s : State) (r : SReg) (v : Word64) : (s.wS r v).tr.tilesz = s.tr.tilesz := by unfold State.wS; split <;> rfl
@[simp] theorem State.wS_tr_rbnd (s : State) (r : SReg) (v : Word64) : (s.wS r v).tr.rbnd = s.tr.rbnd := by unfold State.wS; split <;> rfl
@[simp] theorem State.wS_tr_trapvec (s : State) (r : SReg) (v : Word64) : (s.wS r v).tr.trapvec = s.tr.trapvec := by unfold State.wS; split <;> rfl
@[simp] theorem State.wS_tr_batch (s : State) (r : SReg) (v : Word64) : (s.wS r v).tr.batch = s.tr.batch := by unfold State.wS; split <;> rfl
@[simp] theorem State.wS_tr_quadrant (s : State) (r : SReg) (v : Word64) : (s.wS r v).tr.quadrant = s.tr.quadrant := by unfold State.wS; split <;> rfl
@[simp] theorem State.wS_tr_qslot (s : State) (r : SReg) (v : Word64) : (s.wS r v).tr.qslot = s.tr.qslot := by unfold State.wS; split <;> rfl
@[simp] theorem State.wS_tr_frameNo (s : State) (r : SReg) (v : Word64) : (s.wS r v).tr.frameNo = s.tr.frameNo := by unfold State.wS; split <;> rfl
@[simp] theorem State.wS_tr_stream (s : State) (r : SReg) (v : Word64) : (s.wS r v).tr.stream = s.tr.stream := by unfold State.wS; split <;> rfl
@[simp] theorem State.wS_tr_ins (s : State) (r : SReg) (v : Word64) : (s.wS r v).tr.ins = s.tr.ins := by unfold State.wS; split <;> rfl
@[simp] theorem State.wS_tr_early (s : State) (r : SReg) (v : Word64) : (s.wS r v).tr.early = s.tr.early := by unfold State.wS; split <;> rfl
@[simp] theorem State.wS_tr_sent (s : State) (r : SReg) (v : Word64) : (s.wS r v).tr.sent = s.tr.sent := by unfold State.wS; split <;> rfl
@[simp] theorem State.wS_tr_park (s : State) (r : SReg) (v : Word64) : (s.wS r v).tr.park = s.tr.park := by unfold State.wS; split <;> rfl
@[simp] theorem State.wS_tr_ended (s : State) (r : SReg) (v : Word64) : (s.wS r v).tr.ended = s.tr.ended := by unfold State.wS; split <;> rfl
@[simp] theorem State.wS_tr_nearCopy (s : State) (r : SReg) (v : Word64) : (s.wS r v).tr.nearCopy = s.tr.nearCopy := by unfold State.wS; split <;> rfl
@[simp] theorem State.wS_tr_nearStack (s : State) (r : SReg) (v : Word64) : (s.wS r v).tr.nearStack = s.tr.nearStack := by unfold State.wS; split <;> rfl
@[simp] theorem State.wS_tr_wrote (s : State) (r : SReg) (v : Word64) : (s.wS r v).tr.wrote = s.tr.wrote := by unfold State.wS; split <;> rfl

/-! ### wV, within the troupe -/

@[simp] theorem State.wV_tr_idx (s : State) (r : VReg) (m : BitVec 32) (f : Fin 32 → Word32) : (s.wV r m f).tr.idx = s.tr.idx := by simp only [State.wV]
@[simp] theorem State.wV_tr_sreg (s : State) (r : VReg) (m : BitVec 32) (f : Fin 32 → Word32) : (s.wV r m f).tr.sreg = s.tr.sreg := by simp only [State.wV]
@[simp] theorem State.wV_tr_kreg (s : State) (r : VReg) (m : BitVec 32) (f : Fin 32 → Word32) : (s.wV r m f).tr.kreg = s.tr.kreg := by simp only [State.wV]
@[simp] theorem State.wV_tr_draw (s : State) (r : VReg) (m : BitVec 32) (f : Fin 32 → Word32) : (s.wV r m f).tr.draw = s.tr.draw := by simp only [State.wV]
@[simp] theorem State.wV_tr_p (s : State) (r : VReg) (m : BitVec 32) (f : Fin 32 → Word32) : (s.wV r m f).tr.p = s.tr.p := by simp only [State.wV]
@[simp] theorem State.wV_tr_q (s : State) (r : VReg) (m : BitVec 32) (f : Fin 32 → Word32) : (s.wV r m f).tr.q = s.tr.q := by simp only [State.wV]
@[simp] theorem State.wV_tr_psp (s : State) (r : VReg) (m : BitVec 32) (f : Fin 32 → Word32) : (s.wV r m f).tr.psp = s.tr.psp := by simp only [State.wV]
@[simp] theorem State.wV_tr_tilesz (s : State) (r : VReg) (m : BitVec 32) (f : Fin 32 → Word32) : (s.wV r m f).tr.tilesz = s.tr.tilesz := by simp only [State.wV]
@[simp] theorem State.wV_tr_rbnd (s : State) (r : VReg) (m : BitVec 32) (f : Fin 32 → Word32) : (s.wV r m f).tr.rbnd = s.tr.rbnd := by simp only [State.wV]
@[simp] theorem State.wV_tr_trapvec (s : State) (r : VReg) (m : BitVec 32) (f : Fin 32 → Word32) : (s.wV r m f).tr.trapvec = s.tr.trapvec := by simp only [State.wV]
@[simp] theorem State.wV_tr_batch (s : State) (r : VReg) (m : BitVec 32) (f : Fin 32 → Word32) : (s.wV r m f).tr.batch = s.tr.batch := by simp only [State.wV]
@[simp] theorem State.wV_tr_quadrant (s : State) (r : VReg) (m : BitVec 32) (f : Fin 32 → Word32) : (s.wV r m f).tr.quadrant = s.tr.quadrant := by simp only [State.wV]
@[simp] theorem State.wV_tr_qslot (s : State) (r : VReg) (m : BitVec 32) (f : Fin 32 → Word32) : (s.wV r m f).tr.qslot = s.tr.qslot := by simp only [State.wV]
@[simp] theorem State.wV_tr_frameNo (s : State) (r : VReg) (m : BitVec 32) (f : Fin 32 → Word32) : (s.wV r m f).tr.frameNo = s.tr.frameNo := by simp only [State.wV]
@[simp] theorem State.wV_tr_stream (s : State) (r : VReg) (m : BitVec 32) (f : Fin 32 → Word32) : (s.wV r m f).tr.stream = s.tr.stream := by simp only [State.wV]
@[simp] theorem State.wV_tr_ins (s : State) (r : VReg) (m : BitVec 32) (f : Fin 32 → Word32) : (s.wV r m f).tr.ins = s.tr.ins := by simp only [State.wV]
@[simp] theorem State.wV_tr_early (s : State) (r : VReg) (m : BitVec 32) (f : Fin 32 → Word32) : (s.wV r m f).tr.early = s.tr.early := by simp only [State.wV]
@[simp] theorem State.wV_tr_sent (s : State) (r : VReg) (m : BitVec 32) (f : Fin 32 → Word32) : (s.wV r m f).tr.sent = s.tr.sent := by simp only [State.wV]
@[simp] theorem State.wV_tr_park (s : State) (r : VReg) (m : BitVec 32) (f : Fin 32 → Word32) : (s.wV r m f).tr.park = s.tr.park := by simp only [State.wV]
@[simp] theorem State.wV_tr_ended (s : State) (r : VReg) (m : BitVec 32) (f : Fin 32 → Word32) : (s.wV r m f).tr.ended = s.tr.ended := by simp only [State.wV]
@[simp] theorem State.wV_tr_nearCopy (s : State) (r : VReg) (m : BitVec 32) (f : Fin 32 → Word32) : (s.wV r m f).tr.nearCopy = s.tr.nearCopy := by simp only [State.wV]
@[simp] theorem State.wV_tr_nearStack (s : State) (r : VReg) (m : BitVec 32) (f : Fin 32 → Word32) : (s.wV r m f).tr.nearStack = s.tr.nearStack := by simp only [State.wV]
@[simp] theorem State.wV_tr_wrote (s : State) (r : VReg) (m : BitVec 32) (f : Fin 32 → Word32) : (s.wV r m f).tr.wrote = s.tr.wrote := by simp only [State.wV]

/-! ### wK, within the troupe -/

@[simp] theorem State.wK_tr_idx (s : State) (k : KReg) (m v : BitVec 32) : (s.wK k m v).tr.idx = s.tr.idx := by simp only [State.wK]
@[simp] theorem State.wK_tr_sreg (s : State) (k : KReg) (m v : BitVec 32) : (s.wK k m v).tr.sreg = s.tr.sreg := by simp only [State.wK]
@[simp] theorem State.wK_tr_vreg (s : State) (k : KReg) (m v : BitVec 32) : (s.wK k m v).tr.vreg = s.tr.vreg := by simp only [State.wK]
@[simp] theorem State.wK_tr_draw (s : State) (k : KReg) (m v : BitVec 32) : (s.wK k m v).tr.draw = s.tr.draw := by simp only [State.wK]
@[simp] theorem State.wK_tr_p (s : State) (k : KReg) (m v : BitVec 32) : (s.wK k m v).tr.p = s.tr.p := by simp only [State.wK]
@[simp] theorem State.wK_tr_q (s : State) (k : KReg) (m v : BitVec 32) : (s.wK k m v).tr.q = s.tr.q := by simp only [State.wK]
@[simp] theorem State.wK_tr_psp (s : State) (k : KReg) (m v : BitVec 32) : (s.wK k m v).tr.psp = s.tr.psp := by simp only [State.wK]
@[simp] theorem State.wK_tr_tilesz (s : State) (k : KReg) (m v : BitVec 32) : (s.wK k m v).tr.tilesz = s.tr.tilesz := by simp only [State.wK]
@[simp] theorem State.wK_tr_rbnd (s : State) (k : KReg) (m v : BitVec 32) : (s.wK k m v).tr.rbnd = s.tr.rbnd := by simp only [State.wK]
@[simp] theorem State.wK_tr_trapvec (s : State) (k : KReg) (m v : BitVec 32) : (s.wK k m v).tr.trapvec = s.tr.trapvec := by simp only [State.wK]
@[simp] theorem State.wK_tr_batch (s : State) (k : KReg) (m v : BitVec 32) : (s.wK k m v).tr.batch = s.tr.batch := by simp only [State.wK]
@[simp] theorem State.wK_tr_quadrant (s : State) (k : KReg) (m v : BitVec 32) : (s.wK k m v).tr.quadrant = s.tr.quadrant := by simp only [State.wK]
@[simp] theorem State.wK_tr_qslot (s : State) (k : KReg) (m v : BitVec 32) : (s.wK k m v).tr.qslot = s.tr.qslot := by simp only [State.wK]
@[simp] theorem State.wK_tr_frameNo (s : State) (k : KReg) (m v : BitVec 32) : (s.wK k m v).tr.frameNo = s.tr.frameNo := by simp only [State.wK]
@[simp] theorem State.wK_tr_stream (s : State) (k : KReg) (m v : BitVec 32) : (s.wK k m v).tr.stream = s.tr.stream := by simp only [State.wK]
@[simp] theorem State.wK_tr_ins (s : State) (k : KReg) (m v : BitVec 32) : (s.wK k m v).tr.ins = s.tr.ins := by simp only [State.wK]
@[simp] theorem State.wK_tr_early (s : State) (k : KReg) (m v : BitVec 32) : (s.wK k m v).tr.early = s.tr.early := by simp only [State.wK]
@[simp] theorem State.wK_tr_sent (s : State) (k : KReg) (m v : BitVec 32) : (s.wK k m v).tr.sent = s.tr.sent := by simp only [State.wK]
@[simp] theorem State.wK_tr_park (s : State) (k : KReg) (m v : BitVec 32) : (s.wK k m v).tr.park = s.tr.park := by simp only [State.wK]
@[simp] theorem State.wK_tr_ended (s : State) (k : KReg) (m v : BitVec 32) : (s.wK k m v).tr.ended = s.tr.ended := by simp only [State.wK]
@[simp] theorem State.wK_tr_nearCopy (s : State) (k : KReg) (m v : BitVec 32) : (s.wK k m v).tr.nearCopy = s.tr.nearCopy := by simp only [State.wK]
@[simp] theorem State.wK_tr_nearStack (s : State) (k : KReg) (m v : BitVec 32) : (s.wK k m v).tr.nearStack = s.tr.nearStack := by simp only [State.wK]
@[simp] theorem State.wK_tr_wrote (s : State) (k : KReg) (m v : BitVec 32) : (s.wK k m v).tr.wrote = s.tr.wrote := by simp only [State.wK]

/-! ### advanceDraws, within the troupe -/

@[simp] theorem State.advanceDraws_tr_idx (s : State) (m : BitVec 32) (n : Nat) : (s.advanceDraws m n).tr.idx = s.tr.idx := by simp only [State.advanceDraws]
@[simp] theorem State.advanceDraws_tr_sreg (s : State) (m : BitVec 32) (n : Nat) : (s.advanceDraws m n).tr.sreg = s.tr.sreg := by simp only [State.advanceDraws]
@[simp] theorem State.advanceDraws_tr_vreg (s : State) (m : BitVec 32) (n : Nat) : (s.advanceDraws m n).tr.vreg = s.tr.vreg := by simp only [State.advanceDraws]
@[simp] theorem State.advanceDraws_tr_kreg (s : State) (m : BitVec 32) (n : Nat) : (s.advanceDraws m n).tr.kreg = s.tr.kreg := by simp only [State.advanceDraws]
@[simp] theorem State.advanceDraws_tr_p (s : State) (m : BitVec 32) (n : Nat) : (s.advanceDraws m n).tr.p = s.tr.p := by simp only [State.advanceDraws]
@[simp] theorem State.advanceDraws_tr_q (s : State) (m : BitVec 32) (n : Nat) : (s.advanceDraws m n).tr.q = s.tr.q := by simp only [State.advanceDraws]
@[simp] theorem State.advanceDraws_tr_psp (s : State) (m : BitVec 32) (n : Nat) : (s.advanceDraws m n).tr.psp = s.tr.psp := by simp only [State.advanceDraws]
@[simp] theorem State.advanceDraws_tr_tilesz (s : State) (m : BitVec 32) (n : Nat) : (s.advanceDraws m n).tr.tilesz = s.tr.tilesz := by simp only [State.advanceDraws]
@[simp] theorem State.advanceDraws_tr_rbnd (s : State) (m : BitVec 32) (n : Nat) : (s.advanceDraws m n).tr.rbnd = s.tr.rbnd := by simp only [State.advanceDraws]
@[simp] theorem State.advanceDraws_tr_trapvec (s : State) (m : BitVec 32) (n : Nat) : (s.advanceDraws m n).tr.trapvec = s.tr.trapvec := by simp only [State.advanceDraws]
@[simp] theorem State.advanceDraws_tr_batch (s : State) (m : BitVec 32) (n : Nat) : (s.advanceDraws m n).tr.batch = s.tr.batch := by simp only [State.advanceDraws]
@[simp] theorem State.advanceDraws_tr_quadrant (s : State) (m : BitVec 32) (n : Nat) : (s.advanceDraws m n).tr.quadrant = s.tr.quadrant := by simp only [State.advanceDraws]
@[simp] theorem State.advanceDraws_tr_qslot (s : State) (m : BitVec 32) (n : Nat) : (s.advanceDraws m n).tr.qslot = s.tr.qslot := by simp only [State.advanceDraws]
@[simp] theorem State.advanceDraws_tr_frameNo (s : State) (m : BitVec 32) (n : Nat) : (s.advanceDraws m n).tr.frameNo = s.tr.frameNo := by simp only [State.advanceDraws]
@[simp] theorem State.advanceDraws_tr_stream (s : State) (m : BitVec 32) (n : Nat) : (s.advanceDraws m n).tr.stream = s.tr.stream := by simp only [State.advanceDraws]
@[simp] theorem State.advanceDraws_tr_ins (s : State) (m : BitVec 32) (n : Nat) : (s.advanceDraws m n).tr.ins = s.tr.ins := by simp only [State.advanceDraws]
@[simp] theorem State.advanceDraws_tr_early (s : State) (m : BitVec 32) (n : Nat) : (s.advanceDraws m n).tr.early = s.tr.early := by simp only [State.advanceDraws]
@[simp] theorem State.advanceDraws_tr_sent (s : State) (m : BitVec 32) (n : Nat) : (s.advanceDraws m n).tr.sent = s.tr.sent := by simp only [State.advanceDraws]
@[simp] theorem State.advanceDraws_tr_park (s : State) (m : BitVec 32) (n : Nat) : (s.advanceDraws m n).tr.park = s.tr.park := by simp only [State.advanceDraws]
@[simp] theorem State.advanceDraws_tr_ended (s : State) (m : BitVec 32) (n : Nat) : (s.advanceDraws m n).tr.ended = s.tr.ended := by simp only [State.advanceDraws]
@[simp] theorem State.advanceDraws_tr_nearCopy (s : State) (m : BitVec 32) (n : Nat) : (s.advanceDraws m n).tr.nearCopy = s.tr.nearCopy := by simp only [State.advanceDraws]
@[simp] theorem State.advanceDraws_tr_nearStack (s : State) (m : BitVec 32) (n : Nat) : (s.advanceDraws m n).tr.nearStack = s.tr.nearStack := by simp only [State.advanceDraws]
@[simp] theorem State.advanceDraws_tr_wrote (s : State) (m : BitVec 32) (n : Nat) : (s.advanceDraws m n).tr.wrote = s.tr.wrote := by simp only [State.advanceDraws]

/-! ### The slots -/

@[simp] theorem State.setCur_cur (s : State) (x : Slot) : (s.setCur x).cur = x := by
  unfold State.cur State.setCur Troupe.slot Troupe.setSlot
  cases s.sel <;> rfl
@[simp] theorem State.setCur_sibling (s : State) (x : Slot) : (s.setCur x).sibling = s.sibling := by
  unfold State.sibling State.setCur Troupe.slot Troupe.setSlot SlotId.other
  cases s.sel <;> rfl
@[simp] theorem State.setSibling_sibling (s : State) (x : Slot) : (s.setSibling x).sibling = x := by
  unfold State.sibling State.setSibling Troupe.slot Troupe.setSlot SlotId.other
  cases s.sel <;> rfl
@[simp] theorem State.setSibling_cur (s : State) (x : Slot) : (s.setSibling x).cur = s.cur := by
  unfold State.cur State.setSibling Troupe.slot Troupe.setSlot SlotId.other
  cases s.sel <;> rfl
theorem State.setCur_setCur (s : State) (x y : Slot) : (s.setCur x).setCur y = s.setCur y := by
  unfold State.setCur Troupe.setSlot
  cases s.sel <;> rfl

@[simp] theorem State.wS_cur (s : State) (r : SReg) (v : Word64) : (s.wS r v).cur = s.cur := by unfold State.wS; split <;> rfl
@[simp] theorem State.wS_sibling (s : State) (r : SReg) (v : Word64) : (s.wS r v).sibling = s.sibling := by unfold State.wS; split <;> rfl
@[simp] theorem State.wV_cur (s : State) (r : VReg) (m : BitVec 32) (f : Fin 32 → Word32) : (s.wV r m f).cur = s.cur := by
  unfold State.cur State.wV Troupe.slot
  cases s.sel <;> rfl
@[simp] theorem State.wV_sibling (s : State) (r : VReg) (m : BitVec 32) (f : Fin 32 → Word32) : (s.wV r m f).sibling = s.sibling := by
  unfold State.sibling State.wV Troupe.slot SlotId.other
  cases s.sel <;> rfl
@[simp] theorem State.wK_cur (s : State) (k : KReg) (m v : BitVec 32) : (s.wK k m v).cur = s.cur := by
  unfold State.cur State.wK Troupe.slot
  cases s.sel <;> rfl
@[simp] theorem State.wK_sibling (s : State) (k : KReg) (m v : BitVec 32) : (s.wK k m v).sibling = s.sibling := by
  unfold State.sibling State.wK Troupe.slot SlotId.other
  cases s.sel <;> rfl
@[simp] theorem State.advanceDraws_cur (s : State) (m : BitVec 32) (n : Nat) : (s.advanceDraws m n).cur = s.cur := by
  unfold State.cur State.advanceDraws Troupe.slot
  cases s.sel <;> rfl
@[simp] theorem State.advanceDraws_sibling (s : State) (m : BitVec 32) (n : Nat) : (s.advanceDraws m n).sibling = s.sibling := by
  unfold State.sibling State.advanceDraws Troupe.slot SlotId.other
  cases s.sel <;> rfl
@[simp] theorem State.setPart_cur (s : State) (p : Partition) : (s.setPart p).cur = s.cur := by
  unfold State.cur State.setPart Troupe.slot
  cases s.sel <;> rfl
@[simp] theorem State.setPart_sibling (s : State) (p : Partition) : (s.setPart p).sibling = s.sibling := by
  unfold State.sibling State.setPart Troupe.slot SlotId.other
  cases s.sel <;> rfl
@[simp] theorem State.setQueue_cur (s : State) (q : Queue) : (s.setQueue q).cur = s.cur := by
  unfold State.cur State.setQueue Troupe.slot
  cases s.sel <;> rfl
@[simp] theorem State.setQueue_sibling (s : State) (q : Queue) : (s.setQueue q).sibling = s.sibling := by
  unfold State.sibling State.setQueue Troupe.slot SlotId.other
  cases s.sel <;> rfl
@[simp] theorem State.setCore_cur (s : State) (c : Core) : (s.setCore c).cur = s.cur := by
  unfold State.cur State.setCore Troupe.slot
  cases s.sel <;> rfl
@[simp] theorem State.setCore_sibling (s : State) (c : Core) : (s.setCore c).sibling = s.sibling := by
  unfold State.sibling State.setCore Troupe.slot SlotId.other
  cases s.sel <;> rfl
@[simp] theorem State.setCache_cur (s : State) (c : CacheInst) : (s.setCache c).cur = s.cur := by
  unfold State.cur State.setCache Troupe.slot
  cases s.sel <;> rfl
@[simp] theorem State.setCache_sibling (s : State) (c : CacheInst) : (s.setCache c).sibling = s.sibling := by
  unfold State.sibling State.setCache Troupe.slot SlotId.other
  cases s.sel <;> rfl
@[simp] theorem State.setPile_cur (s : State) (p : Stack) : (s.setPile p).cur = s.cur := by
  unfold State.cur State.setPile Troupe.slot
  cases s.sel <;> rfl
@[simp] theorem State.setPile_sibling (s : State) (p : Stack) : (s.setPile p).sibling = s.sibling := by
  unfold State.sibling State.setPile Troupe.slot SlotId.other
  cases s.sel <;> rfl
@[simp] theorem State.setRegion_cur (s : State) (r : Region) : (s.setRegion r).cur = s.cur := by
  unfold State.cur State.setRegion Troupe.slot
  cases s.sel <;> rfl
@[simp] theorem State.setRegion_sibling (s : State) (r : Region) : (s.setRegion r).sibling = s.sibling := by
  unfold State.sibling State.setRegion Troupe.slot SlotId.other
  cases s.sel <;> rfl
@[simp] theorem State.setWork_cur (s : State) (w : Work) : (s.setWork w).cur = s.cur := by
  unfold State.cur State.setWork Troupe.slot
  cases s.sel <;> rfl
@[simp] theorem State.setWork_sibling (s : State) (w : Work) : (s.setWork w).sibling = s.sibling := by
  unfold State.sibling State.setWork Troupe.slot SlotId.other
  cases s.sel <;> rfl
@[simp] theorem State.dropWork_cur (s : State) (w : Nat) : (s.dropWork w).cur = s.cur := by
  unfold State.cur State.dropWork Troupe.slot
  cases s.sel <;> rfl
@[simp] theorem State.dropWork_sibling (s : State) (w : Nat) : (s.dropWork w).sibling = s.sibling := by
  unfold State.sibling State.dropWork Troupe.slot SlotId.other
  cases s.sel <;> rfl
@[simp] theorem State.updCluster_cur (s : State) (c : Nat) (f : Cluster → Cluster) : (s.updCluster c f).cur = s.cur := by
  unfold State.cur State.updCluster Troupe.slot
  cases s.sel <;> rfl
@[simp] theorem State.updCluster_sibling (s : State) (c : Nat) (f : Cluster → Cluster) : (s.updCluster c f).sibling = s.sibling := by
  unfold State.sibling State.updCluster Troupe.slot SlotId.other
  cases s.sel <;> rfl
@[simp] theorem State.report_cur (s : State) (m : Mail) : (s.report m).cur = s.cur := by
  unfold State.cur State.report Troupe.slot
  cases s.sel <;> rfl
@[simp] theorem State.report_sibling (s : State) (m : Mail) : (s.report m).sibling = s.sibling := by
  unfold State.sibling State.report Troupe.slot SlotId.other
  cases s.sel <;> rfl
@[simp] theorem State.tick_cur (s : State) : s.tick.cur = s.cur := by unfold State.cur; simp
@[simp] theorem State.tick_sibling (s : State) : s.tick.sibling = s.sibling := by unfold State.sibling; simp

/-! ### A HINT applied (R45): the nudge and the ramp of the core, nothing else -/

/-- What a HINT may do (R45). -/
theorem State.applyHint_cases (s : State) (h : Option (BitVec 25)) :
    (∃ n, s.applyHint h = s.setCur { s.cur with nudge := n }) ∨ (∃ c, s.applyHint h = s.setCore c) ∨ s.applyHint h = s := by
  cases h with
  | none => exact .inr (.inr rfl)
  | some p =>
    simp only [State.applyHint]
    split
    · exact .inl ⟨_, rfl⟩
    · refine .inr (.inl ?_)
      cases (s.core s.req.core).ramp <;> exact ⟨_, rfl⟩
    · exact .inr (.inr rfl)

@[simp] theorem State.applyHint_agenda (s : State) (h : Option (BitVec 25)) : (s.applyHint h).agenda = s.agenda := by
  rcases s.applyHint_cases h with ⟨n, e⟩ | ⟨c, e⟩ | e <;> simp [e]
@[simp] theorem State.applyHint_sched (s : State) (h : Option (BitVec 25)) : (s.applyHint h).sched = s.sched := by
  rcases s.applyHint_cases h with ⟨n, e⟩ | ⟨c, e⟩ | e <;> simp [e]
@[simp] theorem State.applyHint_freeCtr (s : State) (h : Option (BitVec 25)) : (s.applyHint h).freeCtr = s.freeCtr := by
  rcases s.applyHint_cases h with ⟨n, e⟩ | ⟨c, e⟩ | e <;> simp [e]
@[simp] theorem State.applyHint_nextUid (s : State) (h : Option (BitVec 25)) : (s.applyHint h).nextUid = s.nextUid := by
  rcases s.applyHint_cases h with ⟨n, e⟩ | ⟨c, e⟩ | e <;> simp [e]
@[simp] theorem State.applyHint_gg (s : State) (h : Option (BitVec 25)) : (s.applyHint h).gg = s.gg := by
  rcases s.applyHint_cases h with ⟨n, e⟩ | ⟨c, e⟩ | e <;> simp [e]
@[simp] theorem State.applyHint_sel (s : State) (h : Option (BitVec 25)) : (s.applyHint h).sel = s.sel := by
  rcases s.applyHint_cases h with ⟨n, e⟩ | ⟨c, e⟩ | e <;> simp [e]
@[simp] theorem State.applyHint_gangs (s : State) (h : Option (BitVec 25)) : (s.applyHint h).gangs = s.gangs := by
  rcases s.applyHint_cases h with ⟨n, e⟩ | ⟨c, e⟩ | e <;> simp [e]
@[simp] theorem State.applyHint_power (s : State) (h : Option (BitVec 25)) : (s.applyHint h).power = s.power := by
  rcases s.applyHint_cases h with ⟨n, e⟩ | ⟨c, e⟩ | e <;> simp [e]
@[simp] theorem State.applyHint_cycle (s : State) (h : Option (BitVec 25)) : (s.applyHint h).cycle = s.cycle := by
  rcases s.applyHint_cases h with ⟨n, e⟩ | ⟨c, e⟩ | e <;> simp [e]
@[simp] theorem State.applyHint_ctl (s : State) (h : Option (BitVec 25)) : (s.applyHint h).ctl = s.ctl := by
  rcases s.applyHint_cases h with ⟨n, e⟩ | ⟨c, e⟩ | e <;> simp [e]
@[simp] theorem State.applyHint_mem (s : State) (h : Option (BitVec 25)) : (s.applyHint h).mem = s.mem := by
  rcases s.applyHint_cases h with ⟨n, e⟩ | ⟨c, e⟩ | e <;> simp [e]
@[simp] theorem State.applyHint_caches (s : State) (h : Option (BitVec 25)) : (s.applyHint h).caches = s.caches := by
  rcases s.applyHint_cases h with ⟨n, e⟩ | ⟨c, e⟩ | e <;> simp [e]
@[simp] theorem State.applyHint_fills (s : State) (h : Option (BitVec 25)) : (s.applyHint h).fills = s.fills := by
  rcases s.applyHint_cases h with ⟨n, e⟩ | ⟨c, e⟩ | e <;> simp [e]
@[simp] theorem State.applyHint_tlbs (s : State) (h : Option (BitVec 25)) : (s.applyHint h).tlbs = s.tlbs := by
  rcases s.applyHint_cases h with ⟨n, e⟩ | ⟨c, e⟩ | e <;> simp [e]
@[simp] theorem State.applyHint_walks (s : State) (h : Option (BitVec 25)) : (s.applyHint h).walks = s.walks := by
  rcases s.applyHint_cases h with ⟨n, e⟩ | ⟨c, e⟩ | e <;> simp [e]
@[simp] theorem State.applyHint_wcache (s : State) (h : Option (BitVec 25)) : (s.applyHint h).wcache = s.wcache := by
  rcases s.applyHint_cases h with ⟨n, e⟩ | ⟨c, e⟩ | e <;> simp [e]
@[simp] theorem State.applyHint_parts (s : State) (h : Option (BitVec 25)) : (s.applyHint h).parts = s.parts := by
  rcases s.applyHint_cases h with ⟨n, e⟩ | ⟨c, e⟩ | e <;> simp [e]
@[simp] theorem State.applyHint_queues (s : State) (h : Option (BitVec 25)) : (s.applyHint h).queues = s.queues := by
  rcases s.applyHint_cases h with ⟨n, e⟩ | ⟨c, e⟩ | e <;> simp [e]
@[simp] theorem State.applyHint_served (s : State) (h : Option (BitVec 25)) : (s.applyHint h).served = s.served := by
  rcases s.applyHint_cases h with ⟨n, e⟩ | ⟨c, e⟩ | e <;> simp [e]
@[simp] theorem State.applyHint_clusters (s : State) (h : Option (BitVec 25)) : (s.applyHint h).clusters = s.clusters := by
  rcases s.applyHint_cases h with ⟨n, e⟩ | ⟨c, e⟩ | e <;> simp [e]
@[simp] theorem State.applyHint_ring (s : State) (h : Option (BitVec 25)) : (s.applyHint h).ring = s.ring := by
  rcases s.applyHint_cases h with ⟨n, e⟩ | ⟨c, e⟩ | e <;> simp [e]
@[simp] theorem State.applyHint_packets (s : State) (h : Option (BitVec 25)) : (s.applyHint h).packets = s.packets := by
  rcases s.applyHint_cases h with ⟨n, e⟩ | ⟨c, e⟩ | e <;> simp [e]
@[simp] theorem State.applyHint_watts (s : State) (h : Option (BitVec 25)) : (s.applyHint h).watts = s.watts := by
  rcases s.applyHint_cases h with ⟨n, e⟩ | ⟨c, e⟩ | e <;> simp [e]
@[simp] theorem State.applyHint_wfw (s : State) (h : Option (BitVec 25)) : (s.applyHint h).wfw = s.wfw := by
  rcases s.applyHint_cases h with ⟨n, e⟩ | ⟨c, e⟩ | e <;> simp [e]
@[simp] theorem State.applyHint_fwCarry (s : State) (h : Option (BitVec 25)) : (s.applyHint h).fwCarry = s.fwCarry := by
  rcases s.applyHint_cases h with ⟨n, e⟩ | ⟨c, e⟩ | e <;> simp [e]
@[simp] theorem State.applyHint_fwTotal (s : State) (h : Option (BitVec 25)) : (s.applyHint h).fwTotal = s.fwTotal := by
  rcases s.applyHint_cases h with ⟨n, e⟩ | ⟨c, e⟩ | e <;> simp [e]
@[simp] theorem State.applyHint_lapServes (s : State) (h : Option (BitVec 25)) : (s.applyHint h).lapServes = s.lapServes := by
  rcases s.applyHint_cases h with ⟨n, e⟩ | ⟨c, e⟩ | e <;> simp [e]
@[simp] theorem State.applyHint_lapFixed (s : State) (h : Option (BitVec 25)) : (s.applyHint h).lapFixed = s.lapFixed := by
  rcases s.applyHint_cases h with ⟨n, e⟩ | ⟨c, e⟩ | e <;> simp [e]
@[simp] theorem State.applyHint_prices (s : State) (h : Option (BitVec 25)) : (s.applyHint h).prices = s.prices := by
  rcases s.applyHint_cases h with ⟨n, e⟩ | ⟨c, e⟩ | e <;> simp [e]
@[simp] theorem State.applyHint_priceNext (s : State) (h : Option (BitVec 25)) : (s.applyHint h).priceNext = s.priceNext := by
  rcases s.applyHint_cases h with ⟨n, e⟩ | ⟨c, e⟩ | e <;> simp [e]
@[simp] theorem State.applyHint_boosts (s : State) (h : Option (BitVec 25)) : (s.applyHint h).boosts = s.boosts := by
  rcases s.applyHint_cases h with ⟨n, e⟩ | ⟨c, e⟩ | e <;> simp [e]
@[simp] theorem State.applyHint_late (s : State) (h : Option (BitVec 25)) : (s.applyHint h).late = s.late := by
  rcases s.applyHint_cases h with ⟨n, e⟩ | ⟨c, e⟩ | e <;> simp [e]
@[simp] theorem State.applyHint_modnum (s : State) (h : Option (BitVec 25)) : (s.applyHint h).modnum = s.modnum := by
  rcases s.applyHint_cases h with ⟨n, e⟩ | ⟨c, e⟩ | e <;> simp [e]
@[simp] theorem State.applyHint_domain (s : State) (h : Option (BitVec 25)) : (s.applyHint h).domain = s.domain := by
  rcases s.applyHint_cases h with ⟨n, e⟩ | ⟨c, e⟩ | e <;> simp [e]
@[simp] theorem State.applyHint_lost (s : State) (h : Option (BitVec 25)) : (s.applyHint h).lost = s.lost := by
  rcases s.applyHint_cases h with ⟨n, e⟩ | ⟨c, e⟩ | e <;> simp [e]
@[simp] theorem State.applyHint_bad (s : State) (h : Option (BitVec 25)) : (s.applyHint h).bad = s.bad := by
  rcases s.applyHint_cases h with ⟨n, e⟩ | ⟨c, e⟩ | e <;> simp [e]
@[simp] theorem State.applyHint_msi (s : State) (h : Option (BitVec 25)) : (s.applyHint h).msi = s.msi := by
  rcases s.applyHint_cases h with ⟨n, e⟩ | ⟨c, e⟩ | e <;> simp [e]
@[simp] theorem State.applyHint_bells (s : State) (h : Option (BitVec 25)) : (s.applyHint h).bells = s.bells := by
  rcases s.applyHint_cases h with ⟨n, e⟩ | ⟨c, e⟩ | e <;> simp [e]
@[simp] theorem State.applyHint_works (s : State) (h : Option (BitVec 25)) : (s.applyHint h).works = s.works := by
  rcases s.applyHint_cases h with ⟨n, e⟩ | ⟨c, e⟩ | e <;> simp [e]
@[simp] theorem State.applyHint_jobSel (s : State) (h : Option (BitVec 25)) : (s.applyHint h).jobSel = s.jobSel := by
  rcases s.applyHint_cases h with ⟨n, e⟩ | ⟨c, e⟩ | e <;> simp [e]
@[simp] theorem State.applyHint_piles (s : State) (h : Option (BitVec 25)) : (s.applyHint h).piles = s.piles := by
  rcases s.applyHint_cases h with ⟨n, e⟩ | ⟨c, e⟩ | e <;> simp [e]
@[simp] theorem State.applyHint_regions (s : State) (h : Option (BitVec 25)) : (s.applyHint h).regions = s.regions := by
  rcases s.applyHint_cases h with ⟨n, e⟩ | ⟨c, e⟩ | e <;> simp [e]
@[simp] theorem State.applyHint_images (s : State) (h : Option (BitVec 25)) : (s.applyHint h).images = s.images := by
  rcases s.applyHint_cases h with ⟨n, e⟩ | ⟨c, e⟩ | e <;> simp [e]
@[simp] theorem State.applyHint_loads (s : State) (h : Option (BitVec 25)) : (s.applyHint h).loads = s.loads := by
  rcases s.applyHint_cases h with ⟨n, e⟩ | ⟨c, e⟩ | e <;> simp [e]
@[simp] theorem State.applyHint_imageKey (s : State) (h : Option (BitVec 25)) : (s.applyHint h).imageKey = s.imageKey := by
  rcases s.applyHint_cases h with ⟨n, e⟩ | ⟨c, e⟩ | e <;> simp [e]
@[simp] theorem State.applyHint_imgh (s : State) (h : Option (BitVec 25)) : (s.applyHint h).imgh = s.imgh := by
  rcases s.applyHint_cases h with ⟨n, e⟩ | ⟨c, e⟩ | e <;> simp [e]
@[simp] theorem State.applyHint_held (s : State) (h : Option (BitVec 25)) : (s.applyHint h).held = s.held := by
  rcases s.applyHint_cases h with ⟨n, e⟩ | ⟨c, e⟩ | e <;> simp [e]
@[simp] theorem State.applyHint_saved (s : State) (h : Option (BitVec 25)) : (s.applyHint h).saved = s.saved := by
  rcases s.applyHint_cases h with ⟨n, e⟩ | ⟨c, e⟩ | e <;> simp [e]
@[simp] theorem State.applyHint_drains (s : State) (h : Option (BitVec 25)) : (s.applyHint h).drains = s.drains := by
  rcases s.applyHint_cases h with ⟨n, e⟩ | ⟨c, e⟩ | e <;> simp [e]
@[simp] theorem State.applyHint_slotLen (s : State) (h : Option (BitVec 25)) : (s.applyHint h).slotLen = s.slotLen := by
  rcases s.applyHint_cases h with ⟨n, e⟩ | ⟨c, e⟩ | e <;> simp [e]
@[simp] theorem State.applyHint_slot (s : State) (h : Option (BitVec 25)) : (s.applyHint h).slot = s.slot := by
  rcases s.applyHint_cases h with ⟨n, e⟩ | ⟨c, e⟩ | e <;> simp [e]
@[simp] theorem State.applyHint_slotAt (s : State) (h : Option (BitVec 25)) : (s.applyHint h).slotAt = s.slotAt := by
  rcases s.applyHint_cases h with ⟨n, e⟩ | ⟨c, e⟩ | e <;> simp [e]
@[simp] theorem State.applyHint_group (s : State) (h : Option (BitVec 25)) : (s.applyHint h).group = s.group := by
  rcases s.applyHint_cases h with ⟨n, e⟩ | ⟨c, e⟩ | e <;> simp [e]
@[simp] theorem State.applyHint_overruns (s : State) (h : Option (BitVec 25)) : (s.applyHint h).overruns = s.overruns := by
  rcases s.applyHint_cases h with ⟨n, e⟩ | ⟨c, e⟩ | e <;> simp [e]
@[simp] theorem State.applyHint_mail (s : State) (h : Option (BitVec 25)) : (s.applyHint h).mail = s.mail := by
  rcases s.applyHint_cases h with ⟨n, e⟩ | ⟨c, e⟩ | e <;> simp [e]
@[simp] theorem State.applyHint_keymap (s : State) (h : Option (BitVec 25)) : (s.applyHint h).keymap = s.keymap := by
  rcases s.applyHint_cases h with ⟨n, e⟩ | ⟨c, e⟩ | e <;> simp [e]
@[simp] theorem State.applyHint_keys (s : State) (h : Option (BitVec 25)) : (s.applyHint h).keys = s.keys := by
  rcases s.applyHint_cases h with ⟨n, e⟩ | ⟨c, e⟩ | e <;> simp [e]
@[simp] theorem State.applyHint_keyDraws (s : State) (h : Option (BitVec 25)) : (s.applyHint h).keyDraws = s.keyDraws := by
  rcases s.applyHint_cases h with ⟨n, e⟩ | ⟨c, e⟩ | e <;> simp [e]
@[simp] theorem State.applyHint_bootStep (s : State) (h : Option (BitVec 25)) : (s.applyHint h).bootStep = s.bootStep := by
  rcases s.applyHint_cases h with ⟨n, e⟩ | ⟨c, e⟩ | e <;> simp [e]
@[simp] theorem State.applyHint_bootFail (s : State) (h : Option (BitVec 25)) : (s.applyHint h).bootFail = s.bootFail := by
  rcases s.applyHint_cases h with ⟨n, e⟩ | ⟨c, e⟩ | e <;> simp [e]
@[simp] theorem State.applyHint_fwh (s : State) (h : Option (BitVec 25)) : (s.applyHint h).fwh = s.fwh := by
  rcases s.applyHint_cases h with ⟨n, e⟩ | ⟨c, e⟩ | e <;> simp [e]
@[simp] theorem State.applyHint_attKey (s : State) (h : Option (BitVec 25)) : (s.applyHint h).attKey = s.attKey := by
  rcases s.applyHint_cases h with ⟨n, e⟩ | ⟨c, e⟩ | e <;> simp [e]
@[simp] theorem State.applyHint_attDraws (s : State) (h : Option (BitVec 25)) : (s.applyHint h).attDraws = s.attDraws := by
  rcases s.applyHint_cases h with ⟨n, e⟩ | ⟨c, e⟩ | e <;> simp [e]
@[simp] theorem State.applyHint_ports (s : State) (h : Option (BitVec 25)) : (s.applyHint h).ports = s.ports := by
  rcases s.applyHint_cases h with ⟨n, e⟩ | ⟨c, e⟩ | e <;> simp [e]
@[simp] theorem State.applyHint_windows (s : State) (h : Option (BitVec 25)) : (s.applyHint h).windows = s.windows := by
  rcases s.applyHint_cases h with ⟨n, e⟩ | ⟨c, e⟩ | e <;> simp [e]
@[simp] theorem State.applyHint_bar (s : State) (h : Option (BitVec 25)) : (s.applyHint h).bar = s.bar := by
  rcases s.applyHint_cases h with ⟨n, e⟩ | ⟨c, e⟩ | e <;> simp [e]
@[simp] theorem State.applyHint_pba (s : State) (h : Option (BitVec 25)) : (s.applyHint h).pba = s.pba := by
  rcases s.applyHint_cases h with ⟨n, e⟩ | ⟨c, e⟩ | e <;> simp [e]
@[simp] theorem State.applyHint_hot (s : State) (h : Option (BitVec 25)) : (s.applyHint h).hot = s.hot := by
  rcases s.applyHint_cases h with ⟨n, e⟩ | ⟨c, e⟩ | e <;> simp [e]
@[simp] theorem State.applyHint_overSince (s : State) (h : Option (BitVec 25)) : (s.applyHint h).overSince = s.overSince := by
  rcases s.applyHint_cases h with ⟨n, e⟩ | ⟨c, e⟩ | e <;> simp [e]
@[simp] theorem State.applyHint_wattsSet (s : State) (h : Option (BitVec 25)) : (s.applyHint h).wattsSet = s.wattsSet := by
  rcases s.applyHint_cases h with ⟨n, e⟩ | ⟨c, e⟩ | e <;> simp [e]
@[simp] theorem State.applyHint_checks (s : State) (h : Option (BitVec 25)) : (s.applyHint h).checks = s.checks := by
  rcases s.applyHint_cases h with ⟨n, e⟩ | ⟨c, e⟩ | e <;> simp [e]
@[simp] theorem State.applyHint_turns (s : State) (h : Option (BitVec 25)) : (s.applyHint h).turns = s.turns := by
  rcases s.applyHint_cases h with ⟨n, e⟩ | ⟨c, e⟩ | e <;> simp [e]
@[simp] theorem State.applyHint_throttleAt (s : State) (h : Option (BitVec 25)) : (s.applyHint h).throttleAt = s.throttleAt := by
  rcases s.applyHint_cases h with ⟨n, e⟩ | ⟨c, e⟩ | e <;> simp [e]
@[simp] theorem State.applyHint_tr_idx (s : State) (h : Option (BitVec 25)) : (s.applyHint h).tr.idx = s.tr.idx := by
  rcases s.applyHint_cases h with ⟨n, e⟩ | ⟨c, e⟩ | e <;> simp [e]
@[simp] theorem State.applyHint_tr_sreg (s : State) (h : Option (BitVec 25)) : (s.applyHint h).tr.sreg = s.tr.sreg := by
  rcases s.applyHint_cases h with ⟨n, e⟩ | ⟨c, e⟩ | e <;> simp [e]
@[simp] theorem State.applyHint_tr_vreg (s : State) (h : Option (BitVec 25)) : (s.applyHint h).tr.vreg = s.tr.vreg := by
  rcases s.applyHint_cases h with ⟨n, e⟩ | ⟨c, e⟩ | e <;> simp [e]
@[simp] theorem State.applyHint_tr_kreg (s : State) (h : Option (BitVec 25)) : (s.applyHint h).tr.kreg = s.tr.kreg := by
  rcases s.applyHint_cases h with ⟨n, e⟩ | ⟨c, e⟩ | e <;> simp [e]
@[simp] theorem State.applyHint_tr_draw (s : State) (h : Option (BitVec 25)) : (s.applyHint h).tr.draw = s.tr.draw := by
  rcases s.applyHint_cases h with ⟨n, e⟩ | ⟨c, e⟩ | e <;> simp [e]
@[simp] theorem State.applyHint_tr_psp (s : State) (h : Option (BitVec 25)) : (s.applyHint h).tr.psp = s.tr.psp := by
  rcases s.applyHint_cases h with ⟨n, e⟩ | ⟨c, e⟩ | e <;> simp [e]
@[simp] theorem State.applyHint_tr_tilesz (s : State) (h : Option (BitVec 25)) : (s.applyHint h).tr.tilesz = s.tr.tilesz := by
  rcases s.applyHint_cases h with ⟨n, e⟩ | ⟨c, e⟩ | e <;> simp [e]
@[simp] theorem State.applyHint_tr_rbnd (s : State) (h : Option (BitVec 25)) : (s.applyHint h).tr.rbnd = s.tr.rbnd := by
  rcases s.applyHint_cases h with ⟨n, e⟩ | ⟨c, e⟩ | e <;> simp [e]
@[simp] theorem State.applyHint_tr_trapvec (s : State) (h : Option (BitVec 25)) : (s.applyHint h).tr.trapvec = s.tr.trapvec := by
  rcases s.applyHint_cases h with ⟨n, e⟩ | ⟨c, e⟩ | e <;> simp [e]
@[simp] theorem State.applyHint_tr_batch (s : State) (h : Option (BitVec 25)) : (s.applyHint h).tr.batch = s.tr.batch := by
  rcases s.applyHint_cases h with ⟨n, e⟩ | ⟨c, e⟩ | e <;> simp [e]
@[simp] theorem State.applyHint_tr_quadrant (s : State) (h : Option (BitVec 25)) : (s.applyHint h).tr.quadrant = s.tr.quadrant := by
  rcases s.applyHint_cases h with ⟨n, e⟩ | ⟨c, e⟩ | e <;> simp [e]
@[simp] theorem State.applyHint_tr_qslot (s : State) (h : Option (BitVec 25)) : (s.applyHint h).tr.qslot = s.tr.qslot := by
  rcases s.applyHint_cases h with ⟨n, e⟩ | ⟨c, e⟩ | e <;> simp [e]
@[simp] theorem State.applyHint_tr_frameNo (s : State) (h : Option (BitVec 25)) : (s.applyHint h).tr.frameNo = s.tr.frameNo := by
  rcases s.applyHint_cases h with ⟨n, e⟩ | ⟨c, e⟩ | e <;> simp [e]
@[simp] theorem State.applyHint_tr_stream (s : State) (h : Option (BitVec 25)) : (s.applyHint h).tr.stream = s.tr.stream := by
  rcases s.applyHint_cases h with ⟨n, e⟩ | ⟨c, e⟩ | e <;> simp [e]
@[simp] theorem State.applyHint_tr_ins (s : State) (h : Option (BitVec 25)) : (s.applyHint h).tr.ins = s.tr.ins := by
  rcases s.applyHint_cases h with ⟨n, e⟩ | ⟨c, e⟩ | e <;> simp [e]
@[simp] theorem State.applyHint_tr_early (s : State) (h : Option (BitVec 25)) : (s.applyHint h).tr.early = s.tr.early := by
  rcases s.applyHint_cases h with ⟨n, e⟩ | ⟨c, e⟩ | e <;> simp [e]
@[simp] theorem State.applyHint_tr_sent (s : State) (h : Option (BitVec 25)) : (s.applyHint h).tr.sent = s.tr.sent := by
  rcases s.applyHint_cases h with ⟨n, e⟩ | ⟨c, e⟩ | e <;> simp [e]
@[simp] theorem State.applyHint_tr_park (s : State) (h : Option (BitVec 25)) : (s.applyHint h).tr.park = s.tr.park := by
  rcases s.applyHint_cases h with ⟨n, e⟩ | ⟨c, e⟩ | e <;> simp [e]
@[simp] theorem State.applyHint_tr_ended (s : State) (h : Option (BitVec 25)) : (s.applyHint h).tr.ended = s.tr.ended := by
  rcases s.applyHint_cases h with ⟨n, e⟩ | ⟨c, e⟩ | e <;> simp [e]
@[simp] theorem State.applyHint_tr_nearCopy (s : State) (h : Option (BitVec 25)) : (s.applyHint h).tr.nearCopy = s.tr.nearCopy := by
  rcases s.applyHint_cases h with ⟨n, e⟩ | ⟨c, e⟩ | e <;> simp [e]
@[simp] theorem State.applyHint_tr_nearStack (s : State) (h : Option (BitVec 25)) : (s.applyHint h).tr.nearStack = s.tr.nearStack := by
  rcases s.applyHint_cases h with ⟨n, e⟩ | ⟨c, e⟩ | e <;> simp [e]
@[simp] theorem State.applyHint_tr_wrote (s : State) (h : Option (BitVec 25)) : (s.applyHint h).tr.wrote = s.tr.wrote := by
  rcases s.applyHint_cases h with ⟨n, e⟩ | ⟨c, e⟩ | e <;> simp [e]
@[simp] theorem State.applyHint_sibling (s : State) (h : Option (BitVec 25)) : (s.applyHint h).sibling = s.sibling := by
  rcases s.applyHint_cases h with ⟨n, e⟩ | ⟨c, e⟩ | e <;> simp [e]
@[simp] theorem State.applyHint_cur_live (s : State) (h : Option (BitVec 25)) : (s.applyHint h).cur.live = s.cur.live := by
  rcases s.applyHint_cases h with ⟨n, e⟩ | ⟨c, e⟩ | e <;> simp [e]
@[simp] theorem State.applyHint_cur_pc (s : State) (h : Option (BitVec 25)) : (s.applyHint h).cur.pc = s.cur.pc := by
  rcases s.applyHint_cases h with ⟨n, e⟩ | ⟨c, e⟩ | e <;> simp [e]
@[simp] theorem State.applyHint_cur_mask (s : State) (h : Option (BitVec 25)) : (s.applyHint h).cur.mask = s.cur.mask := by
  rcases s.applyHint_cases h with ⟨n, e⟩ | ⟨c, e⟩ | e <;> simp [e]
@[simp] theorem State.applyHint_cur_fmt (s : State) (h : Option (BitVec 25)) : (s.applyHint h).cur.fmt = s.cur.fmt := by
  rcases s.applyHint_cases h with ⟨n, e⟩ | ⟨c, e⟩ | e <;> simp [e]
@[simp] theorem State.applyHint_cur_jpc (s : State) (h : Option (BitVec 25)) : (s.applyHint h).cur.jpc = s.cur.jpc := by
  rcases s.applyHint_cases h with ⟨n, e⟩ | ⟨c, e⟩ | e <;> simp [e]
@[simp] theorem State.applyHint_cur_frame (s : State) (h : Option (BitVec 25)) : (s.applyHint h).cur.frame = s.cur.frame := by
  rcases s.applyHint_cases h with ⟨n, e⟩ | ⟨c, e⟩ | e <;> simp [e]
@[simp] theorem State.applyHint_cur_att (s : State) (h : Option (BitVec 25)) : (s.applyHint h).cur.att = s.cur.att := by
  rcases s.applyHint_cases h with ⟨n, e⟩ | ⟨c, e⟩ | e <;> simp [e]
@[simp] theorem State.applyHint_cur_sleep (s : State) (h : Option (BitVec 25)) : (s.applyHint h).cur.sleep = s.cur.sleep := by
  rcases s.applyHint_cases h with ⟨n, e⟩ | ⟨c, e⟩ | e <;> simp [e]
@[simp] theorem State.applyHint_cur_frozen (s : State) (h : Option (BitVec 25)) : (s.applyHint h).cur.frozen = s.cur.frozen := by
  rcases s.applyHint_cases h with ⟨n, e⟩ | ⟨c, e⟩ | e <;> simp [e]
@[simp] theorem State.applyHint_cur_yield (s : State) (h : Option (BitVec 25)) : (s.applyHint h).cur.yield = s.cur.yield := by
  rcases s.applyHint_cases h with ⟨n, e⟩ | ⟨c, e⟩ | e <;> simp [e]
@[simp] theorem State.applyHint_cur_overdue (s : State) (h : Option (BitVec 25)) : (s.applyHint h).cur.overdue = s.cur.overdue := by
  rcases s.applyHint_cases h with ⟨n, e⟩ | ⟨c, e⟩ | e <;> simp [e]
@[simp] theorem State.applyHint_cur_readyAt (s : State) (h : Option (BitVec 25)) : (s.applyHint h).cur.readyAt = s.cur.readyAt := by
  rcases s.applyHint_cases h with ⟨n, e⟩ | ⟨c, e⟩ | e <;> simp [e]
@[simp] theorem State.applyHint_cur_lastIssue (s : State) (h : Option (BitVec 25)) : (s.applyHint h).cur.lastIssue = s.cur.lastIssue := by
  rcases s.applyHint_cases h with ⟨n, e⟩ | ⟨c, e⟩ | e <;> simp [e]
@[simp] theorem State.applyHint_cur_near (s : State) (h : Option (BitVec 25)) : (s.applyHint h).cur.near = s.cur.near := by
  rcases s.applyHint_cases h with ⟨n, e⟩ | ⟨c, e⟩ | e <;> simp [e]
@[simp] theorem State.applyHint_cur_refused (s : State) (h : Option (BitVec 25)) : (s.applyHint h).cur.refused = s.cur.refused := by
  rcases s.applyHint_cases h with ⟨n, e⟩ | ⟨c, e⟩ | e <;> simp [e]
@[simp] theorem State.applyHint_cur_askedAt (s : State) (h : Option (BitVec 25)) : (s.applyHint h).cur.askedAt = s.cur.askedAt := by
  rcases s.applyHint_cases h with ⟨n, e⟩ | ⟨c, e⟩ | e <;> simp [e]
@[simp] theorem State.applyHint_cur_walking (s : State) (h : Option (BitVec 25)) : (s.applyHint h).cur.walking = s.cur.walking := by
  rcases s.applyHint_cases h with ⟨n, e⟩ | ⟨c, e⟩ | e <;> simp [e]
@[simp] theorem State.applyHint_cur_walked (s : State) (h : Option (BitVec 25)) : (s.applyHint h).cur.walked = s.cur.walked := by
  rcases s.applyHint_cases h with ⟨n, e⟩ | ⟨c, e⟩ | e <;> simp [e]
@[simp] theorem State.applyHint_cur_waits (s : State) (h : Option (BitVec 25)) : (s.applyHint h).cur.waits = s.cur.waits := by
  rcases s.applyHint_cases h with ⟨n, e⟩ | ⟨c, e⟩ | e <;> simp [e]
@[simp] theorem State.applyHint_cur_issued (s : State) (h : Option (BitVec 25)) : (s.applyHint h).cur.issued = s.cur.issued := by
  rcases s.applyHint_cases h with ⟨n, e⟩ | ⟨c, e⟩ | e <;> simp [e]
@[simp] theorem State.applyHint_cur_hand (s : State) (h : Option (BitVec 25)) : (s.applyHint h).cur.hand = s.cur.hand := by
  rcases s.applyHint_cases h with ⟨n, e⟩ | ⟨c, e⟩ | e <;> simp [e]
@[simp] theorem State.applyHint_cur_wrap (s : State) (h : Option (BitVec 25)) : (s.applyHint h).cur.wrap = s.cur.wrap := by
  rcases s.applyHint_cases h with ⟨n, e⟩ | ⟨c, e⟩ | e <;> simp [e]

end Sys2Proof.Machine
end

