-- ==== Sys2Proof/Laws/Memory.lean ====
section
/-!
SUPPORT. Cell lists: a read after a write, and that every operation keeps the canonical form (log 1).
-/

namespace Sys2Proof.Machine

theorem cellsFrom_mono {lo lo' : Nat} (h : lo' ≤ lo) : ∀ {m : List Host.Cell}, cellsFrom lo m = true → cellsFrom lo' m = true
  | [], _ => rfl
  | (k, v) :: r, hm => by
    simp only [cellsFrom, Bool.and_eq_true, decide_eq_true_eq] at hm ⊢
    exact ⟨⟨by omega, hm.1.2⟩, hm.2⟩

/-- Below the first listed address a byte reads 0. -/
theorem cellGet_below {lo a : Nat} : ∀ {m : List Host.Cell}, cellsFrom lo m = true → a < lo → cellGet m a = 0
  | [], _, _ => rfl
  | (k, v) :: r, hm, ha => by
    simp only [cellsFrom, Bool.and_eq_true, decide_eq_true_eq] at hm
    have h1 : ¬ k = a := by omega
    have h2 : a < k := by omega
    simp [cellGet, h1, h2]

theorem cellSet_from {lo a : Nat} {b : Byte} (ha : lo ≤ a) :
    ∀ {m : List Host.Cell}, cellsFrom lo m = true → cellsFrom lo (cellSet m a b) = true
  | [], _ => by
    unfold cellSet
    split
    · rfl
    · next hb => simpa [cellsFrom, ha] using hb
  | (k, v) :: r, hm => by
    simp only [cellsFrom, Bool.and_eq_true, decide_eq_true_eq, bne_iff_ne] at hm
    obtain ⟨⟨hk, hv⟩, hr⟩ := hm
    unfold cellSet
    split
    · next he =>
      subst he
      split
      · exact cellsFrom_mono (by omega) hr
      · next hb => simpa [cellsFrom, ha, hr] using hb
    · split
      · next hlt =>
        split
        · simpa [cellsFrom, hk, hr] using hv
        · next hb =>
          simp only [cellsFrom, Bool.and_eq_true, decide_eq_true_eq, bne_iff_ne]
          exact ⟨⟨ha, hb⟩, ⟨by omega, hv⟩, hr⟩
      · have := cellSet_from (lo := k + 1) (a := a) (b := b) (by omega) hr
        simpa [cellsFrom, hk, this] using hv

/-- Setting a byte keeps the canonical form. -/
theorem cellSet_wf {m : List Host.Cell} (h : Memory.wf m = true) (a : Nat) (b : Byte) : Memory.wf (cellSet m a b) = true :=
  cellSet_from (Nat.zero_le _) h

/-- A byte reads as it was set. -/
theorem cellGet_cellSet_self (a : Nat) (b : Byte) :
    ∀ {lo : Nat} {m : List Host.Cell}, cellsFrom lo m = true → cellGet (cellSet m a b) a = b
  | _, [], _ => by
    unfold cellSet
    split
    · next hb => subst hb; rfl
    · simp [cellGet]
  | _, (k, v) :: r, hm => by
    simp only [cellsFrom, Bool.and_eq_true, decide_eq_true_eq, bne_iff_ne] at hm
    obtain ⟨⟨hk, hv⟩, hr⟩ := hm
    unfold cellSet
    split
    · next he =>
      subst he
      split
      · next hb => subst hb; exact cellGet_below hr (by omega)
      · simp [cellGet]
    · next hne =>
      split
      · next hlt =>
        split
        · next hb =>
          subst hb
          simp [cellGet, hne, hlt]
        · simp [cellGet]
      · next hnl =>
        simp only [cellGet, hne, hnl, if_false]
        exact cellGet_cellSet_self a b hr

/-- Setting a byte leaves every other byte. -/
theorem cellGet_cellSet_other {a c : Nat} (b : Byte) (hc : c ≠ a) :
    ∀ {lo : Nat} {m : List Host.Cell}, cellsFrom lo m = true → cellGet (cellSet m a b) c = cellGet m c
  | _, [], _ => by
    unfold cellSet
    split
    · rfl
    · by_cases h : c < a <;> simp [cellGet, Ne.symm hc, h]
  | _, (k, v) :: r, hm => by
    simp only [cellsFrom, Bool.and_eq_true, decide_eq_true_eq, bne_iff_ne] at hm
    obtain ⟨⟨hk, hv⟩, hr⟩ := hm
    unfold cellSet
    split
    · next he =>
      subst he
      split
      · by_cases h : c < k
        · rw [cellGet_below hr (by omega)]
          simp [cellGet, Ne.symm hc, h]
        · simp [cellGet, Ne.symm hc, h]
      · by_cases h : c < k <;> simp [cellGet, Ne.symm hc, h]
    · next hne =>
      split
      · next hlt =>
        split
        · rfl
        · by_cases h : c < a
          · have h2 : c < k := by omega
            have h3 : ¬ k = c := by omega
            simp [cellGet, Ne.symm hc, h, h2, h3]
          · simp [cellGet, Ne.symm hc, h]
      · by_cases h1 : k = c
        · simp [cellGet, h1]
        · by_cases h2 : c < k
          · simp [cellGet, h1, h2]
          · simp only [cellGet, h1, h2, if_false]
            exact cellGet_cellSet_other b hc hr

theorem writeCells_wf : ∀ {m : List Host.Cell} (a n v : Nat), Memory.wf m = true → Memory.wf (writeCells m a n v) = true
  | _, _, 0, _, h => h
  | _, a, n + 1, v, h => writeCells_wf (a + 1) n (v / 256) (cellSet_wf h a _)

theorem writeBytes_wf : ∀ {m : List Host.Cell} (a : Nat) (bs : List Byte), Memory.wf m = true → Memory.wf (writeBytes m a bs) = true
  | _, _, [], h => h
  | _, a, b :: r, h => writeBytes_wf (a + 1) r (cellSet_wf h a b)

/-- A write of `n` bytes leaves every byte outside them. -/
theorem cellGet_writeCells_other {c : Nat} : ∀ {m : List Host.Cell} (a n v : Nat), Memory.wf m = true → (c < a ∨ a + n ≤ c) →
    cellGet (writeCells m a n v) c = cellGet m c
  | _, _, 0, _, _, _ => rfl
  | m, a, n + 1, v, h, hc => by
    have hne : c ≠ a := by omega
    rw [show writeCells m a (n + 1) v = writeCells (cellSet m a (.ofNat 8 v)) (a + 1) n (v / 256) from rfl,
      cellGet_writeCells_other (a + 1) n (v / 256) (cellSet_wf h a _) (by omega), cellGet_cellSet_other _ hne h]

/-- The bytes written read back, least significant first. -/
theorem readCells_writeCells : ∀ {m : List Host.Cell} (a n v : Nat), Memory.wf m = true →
    readCells (writeCells m a n v) a n = v % 256 ^ n
  | _, _, 0, v, _ => by simp [readCells, Nat.mod_one]
  | m, a, n + 1, v, h => by
    have hs := cellSet_wf h a (.ofNat 8 v)
    have e : writeCells m a (n + 1) v = writeCells (cellSet m a (.ofNat 8 v)) (a + 1) n (v / 256) := rfl
    rw [e, readCells, readCells_writeCells (a + 1) n (v / 256) hs,
      cellGet_writeCells_other (a + 1) n (v / 256) hs (by omega), cellGet_cellSet_self a _ h]
    simp only [BitVec.toNat_ofNat]
    rw [show v % 256 ^ (n + 1) = v % (256 * 256 ^ n) from by rw [Nat.pow_succ, Nat.mul_comm], Nat.mod_mul]

theorem filter_from (p : Host.Cell → Bool) : ∀ {lo : Nat} {m : List Host.Cell}, cellsFrom lo m = true → cellsFrom lo (m.filter p) = true
  | _, [], _ => rfl
  | lo, (k, v) :: r, hm => by
    simp only [cellsFrom, Bool.and_eq_true, decide_eq_true_eq, bne_iff_ne] at hm
    obtain ⟨⟨hk, hv⟩, hr⟩ := hm
    have h := filter_from p hr
    rw [List.filter_cons]
    split
    · simpa [cellsFrom, hk, h] using hv
    · exact cellsFrom_mono (by omega) h

/-- Leaving cells out keeps the canonical form. -/
theorem filter_wf (p : Host.Cell → Bool) {m : List Host.Cell} (h : Memory.wf m = true) : Memory.wf (m.filter p) = true := filter_from p h

theorem writeBackBytes_wf (l : CLine) {m : List Host.Cell} (h : Memory.wf m = true) : ∀ n, Memory.wf (writeBackBytes m l n) = true
  | 0 => h
  | i + 1 => by
    unfold writeBackBytes
    split
    · exact cellSet_wf (writeBackBytes_wf l h i) _ _
    · exact writeBackBytes_wf l h i

theorem State.applyHeld_mem (s : State) (dom pa n : Nat) : (s.applyHeld dom pa n).mem = s.mem := by
  unfold State.applyHeld
  split
  · rfl
  · split <;> rfl

theorem State.fresh_mem (s : State) (pa n : Nat) : (s.fresh pa n).mem = s.mem := by
  unfold State.fresh
  split <;> rfl

/-- A write at a home slice keeps the canonical form. -/
theorem State.writeHome_wf {s : State} (h : Memory.wf s.mem = true) (w : Option Nat) (pa n v : Nat) :
    Memory.wf (s.writeHome w pa n v).mem = true := by
  unfold State.writeHome
  simp only [State.fresh_mem, State.applyHeld_mem]
  exact writeCells_wf _ _ _ h

/-- A store of an NMU keeps the canonical form. -/
theorem State.writeNear_wf {s : State} (h : Memory.wf s.mem = true) (dom pa n v : Nat) : Memory.wf (s.writeNear dom pa n v).mem = true := by
  unfold State.writeNear
  split
  · exact State.writeHome_wf (by rwa [State.applyHeld_mem]) _ _ _ _
  · exact writeCells_wf _ _ _ h

/-- A write that arrives from another module keeps the canonical form. -/
theorem State.remoteWrite_wf {s : State} (h : Memory.wf s.mem = true) (m pa n v : Nat) : Memory.wf (s.remoteWrite m pa n v).mem = true := by
  unfold State.remoteWrite
  simp only [State.fresh_mem, State.applyHeld_mem]
  exact writeCells_wf _ _ _ h

/-- Bytes read anew under another key keep the canonical form. -/
theorem rekeyed_wf (keep : Nat → Bool) {m : List Host.Cell} (draw a : Nat) (h : Memory.wf m = true) : ∀ n, Memory.wf (rekeyed keep m draw a n) = true
  | 0 => h
  | n + 1 => by
    unfold rekeyed
    split
    · exact rekeyed_wf keep draw a h n
    · exact cellSet_wf (rekeyed_wf keep draw a h n) _ _

theorem foldl_rekeyed_wf (keep : Nat → Bool) (draw : Nat) (at_ : Nat × Nat → Nat) (n : Nat) :
    ∀ (l : List (Nat × Nat)) {m : List Host.Cell}, Memory.wf m = true → Memory.wf (l.foldl (fun m x => rekeyed keep m draw (at_ x) n) m) = true
  | [], _, h => h
  | _ :: r, _, h => foldl_rekeyed_wf keep draw at_ n r (rekeyed_wf keep draw _ h n)

/-- A key lost keeps the canonical form. -/
theorem State.loseKey_wf {s : State} (h : Memory.wf s.mem = true) (slot : Nat) : Memory.wf (s.loseKey slot).mem = true :=
  foldl_rekeyed_wf _ _ _ _ _ h

theorem State.writeBack_wf {s : State} (h : Memory.wf s.mem = true) (c : Nat) (l : CLine) : Memory.wf (s.writeBack c l).mem = true := by
  unfold State.writeBack
  split
  · exact h
  · split
    · exact h
    · simp only [State.applyHeld_mem]
      exact writeBackBytes_wf l h 128

theorem State.foldl_wf {α : Type} (f : State → α → State) (hf : ∀ s a, Memory.wf s.mem = true → Memory.wf (f s a).mem = true) :
    ∀ (l : List α) {s : State}, Memory.wf s.mem = true → Memory.wf (l.foldl f s).mem = true
  | [], _, h => h
  | a :: r, _, h => State.foldl_wf f hf r (hf _ a h)

theorem State.releaseL1_wf {s : State} (h : Memory.wf s.mem = true) (c : Nat) (o : OrdScope) (one : Bool) :
    Memory.wf (s.releaseL1 c o one).mem = true := by
  unfold State.releaseL1
  exact State.foldl_wf _ (fun s l hs => State.writeBack_wf hs c l) _ h

/-- Memory right after reset has the canonical form. -/
theorem reset_wf : Memory.wf State.reset.mem = true := rfl

/-! ### Records by key -/

/-- The record found has the key asked for. -/
theorem findD_key {α : Type} (key : α → Nat) (k : Nat) (d : α) (h : key d = k) (l : List α) : key (findD key k d l) = k := by
  induction l with
  | nil => exact h
  | cons x r ih =>
    simp only [findD]
    split
    next e => exact e
    next => exact ih
/-- A record reads as it was put. -/
theorem findD_upsert_self {α : Type} (key : α → Nat) (d v : α) (l : List α) : findD key (key v) d (upsert key v l) = v := by
  induction l with
  | nil => simp only [upsert, findD, if_true]
  | cons x r ih =>
    simp only [upsert]
    split
    next => simp only [findD, if_true]
    next h => simp only [findD, h, if_false, ih]
/-- A put leaves the records of other keys. -/
theorem findD_upsert_other {α : Type} (key : α → Nat) {k : Nat} (d v : α) (h : k ≠ key v) (l : List α) :
    findD key k d (upsert key v l) = findD key k d l := by
  induction l with
  | nil => simp only [upsert, findD, Ne.symm h, if_false]
  | cons x r ih =>
    simp only [upsert]
    split
    next e => simp only [findD, e, Ne.symm h, if_false]
    next => simp only [findD, ih]
@[simp] theorem State.core_core (s : State) (n : Nat) : (s.core n).core = n := findD_key Core.core n { core := n } rfl s.cores
/-- A core's record as it was put, the others as they were. -/
theorem State.core_setCore (s : State) (c : Core) (n : Nat) : (s.setCore c).core n = if n = c.core then c else s.core n := by
  unfold State.core State.setCore
  split
  next h => subst h; exact findD_upsert_self _ _ _ _
  next h => exact findD_upsert_other _ _ _ h _
theorem State.part_setPart (s : State) (p : Partition) (n : Nat) : (s.setPart p).part n = if n = p.id then p else s.part n := by
  unfold State.part State.setPart
  split
  next h => subst h; exact findD_upsert_self _ _ _ _
  next h => exact findD_upsert_other _ _ _ h _
theorem State.queue_setQueue (s : State) (q : Queue) (n : Nat) : (s.setQueue q).queue n = if n = q.q then q else s.queue n := by
  unfold State.queue State.setQueue
  split
  next h => subst h; exact findD_upsert_self _ _ _ _
  next h => exact findD_upsert_other _ _ _ h _

end Sys2Proof.Machine
end

