-- ==== Sys2Proof/Laws/Ops.lean ====
section
/-!
SUPPORT. The shared operations of the meanings: registers read after they are written, and what the frame of a troupe instruction makes of
a meaning's end.
-/

namespace Sys2Proof.Machine

/-! ### Registers -/

theorem State.wS_sreg (s : State) (r : SReg) (v : Word64) :
    (s.wS r v).tr.sreg = if r = 0 then s.tr.sreg else s.tr.sreg.set r.toNat v r.isLt := by
  unfold State.wS
  split <;> rfl
theorem State.wV_vreg (s : State) (r : VReg) (m : BitVec 32) (f : Fin 32 → Word32) :
    (s.wV r m f).tr.vreg = s.tr.vreg.set r.toNat
      (Vector.ofFn fun i => if m.getLsbD i then f i else (s.tr.vreg.get r.toFin).get i) r.isLt := by
  simp only [State.wV]
theorem State.wK_kreg (s : State) (k : KReg) (m v : BitVec 32) :
    (s.wK k m v).tr.kreg = s.tr.kreg.set k.toNat ((s.tr.kreg.get k.toFin &&& ~~~m) ||| (v &&& m)) k.isLt := by
  simp only [State.wK]
theorem State.rS_eq (s : State) (r : SReg) : s.rS r = if r = 0 then 0 else s.tr.sreg[r.toNat]'r.isLt := rfl
theorem State.rV_eq (s : State) (r : VReg) (l : Fin 32) : s.rV r l = (s.tr.vreg[r.toNat]'r.isLt).get l := rfl
theorem State.rK_eq (s : State) (k : KReg) : s.rK k = if k = 0 then s.pmask else s.tr.kreg[k.toNat]'k.isLt := rfl

@[simp] theorem State.rS_zero (s : State) : s.rS 0 = 0 := rfl
@[simp] theorem State.wS_zero (s : State) (v : Word64) : s.wS 0 v = s := rfl
/-- A scalar register reads as it was written, s0 as zero (R12). -/
@[simp] theorem State.rS_wS_self (s : State) (r : SReg) (v : Word64) : (s.wS r v).rS r = if r = 0 then 0 else v := by
  rw [State.rS_eq, State.wS_sreg]
  by_cases h : r = 0
  · simp only [h, if_true]
  · simp only [h, if_false, Vector.getElem_set_self]
/-- A write leaves the other scalar registers. -/
theorem State.rS_wS_other (s : State) {r q : SReg} (v : Word64) (h : q ≠ r) : (s.wS r v).rS q = s.rS q := by
  rw [State.rS_eq, State.rS_eq, State.wS_sreg]
  by_cases h0 : r = 0
  · simp only [h0, if_true]
  · have hne : r.toNat ≠ q.toNat := fun e => h (BitVec.eq_of_toNat_eq e.symm)
    simp only [h0, if_false, Vector.getElem_set_ne _ _ hne]

/-- A lane of a vector register reads as it was written. -/
@[simp] theorem State.rV_wV_self (s : State) (r : VReg) (m : BitVec 32) (f : Fin 32 → Word32) (l : Fin 32) :
    (s.wV r m f).rV r l = if m.getLsbD l then f l else s.rV r l := by
  rw [State.rV_eq, State.wV_vreg, Vector.getElem_set_self, State.rV_eq]
  exact Vector.getElem_ofFn _
/-- A write leaves the other vector registers. -/
theorem State.rV_wV_other (s : State) {r q : VReg} (m : BitVec 32) (f : Fin 32 → Word32) (l : Fin 32) (h : q ≠ r) :
    (s.wV r m f).rV q l = s.rV q l := by
  have hne : r.toNat ≠ q.toNat := fun e => h (BitVec.eq_of_toNat_eq e.symm)
  rw [State.rV_eq, State.rV_eq, State.wV_vreg, Vector.getElem_set_ne _ _ hne]

/-- A mask register other than k0 reads as it was written in the bits written. -/
theorem State.rK_wK_self (s : State) {k : KReg} (h : k ≠ 0) (m v : BitVec 32) :
    (s.wK k m v).rK k = (s.rK k &&& ~~~m) ||| (v &&& m) := by
  rw [State.rK_eq, State.rK_eq, State.wK_kreg]
  simp only [h, if_false, Vector.getElem_set_self]
  rfl

/-! ### The state an instruction finds (R39, R45) -/

@[simp] theorem State.bound_pc (s : State) : s.bound.pc = s.pc := by simp [State.bound, State.pc]
@[simp] theorem State.bound_cur_pc (s : State) : s.bound.cur.pc = s.cur.pc := by simp [State.bound]
@[simp] theorem State.bound_pc64 (s : State) : s.bound.pc64 = s.pc.setWidth 64 := by simp [State.pc64, State.pc]
@[simp] theorem State.bound_pmask (s : State) : s.bound.pmask = s.pmask := by simp [State.bound, State.pmask]
@[simp] theorem State.bound_rS (s : State) (r : SReg) : s.bound.rS r = s.rS r := by simp [State.bound, State.rS]
@[simp] theorem State.bound_rV (s : State) (r : VReg) (l : Fin 32) : s.bound.rV r l = s.rV r l := by simp [State.bound, State.rV]
@[simp] theorem State.bound_rK (s : State) (k : KReg) : s.bound.rK k = s.rK k := by simp [State.bound, State.rK, State.pmask]
@[simp] theorem State.bound_fmt (s : State) : s.bound.cur.fmt = s.cur.fmt := by simp [State.bound]
@[simp] theorem State.bound_mask (s : State) : s.bound.cur.mask = s.cur.mask := by simp [State.bound]
@[simp] theorem State.bound_jpc (s : State) : s.bound.cur.jpc = s.cur.jpc := by simp [State.bound]
@[simp] theorem State.bound_frame (s : State) : s.bound.cur.frame = s.cur.frame := by simp [State.bound]
@[simp] theorem State.bound_near (s : State) : s.bound.cur.near = s.cur.near := by simp [State.bound]
@[simp] theorem State.bound_mem (s : State) : s.bound.mem = s.mem := by simp [State.bound]
@[simp] theorem State.bound_gg (s : State) : s.bound.gg = s.gg := by simp [State.bound]
@[simp] theorem State.bound_ctl (s : State) : s.bound.ctl = s.ctl := by simp [State.bound]

/-- Who asks depends on the path in focus by whether it is live and whether it runs near. -/
theorem State.setCur_req (s : State) (x : Slot) (hl : x.live = s.cur.live) (hn : x.near = s.cur.near) : (s.setCur x).req = s.req := by
  have h1 : (s.setCur x).tr.nearAt = s.tr.nearAt := by
    unfold State.cur Troupe.slot at hl hn
    unfold State.setCur Troupe.setSlot Troupe.nearAt
    cases hs : s.sel <;> simp only [hs] at hl hn ⊢ <;> simp only [hl, hn]
  have h2 : coreOf (s.setCur x).gg (s.setCur x).tr = coreOf s.gg s.tr := by simp [coreOf]
  have h3 : (s.setCur x).troupesOf (s.setCur x).gg = (s.setCur x).tr :: s.gg.troupes := by simp [State.troupesOf]
  have h4 : s.troupesOf s.gg = s.tr :: s.gg.troupes := by simp [State.troupesOf]
  unfold State.req State.reqOf State.oneCore
  rw [h1, h2, h3, h4]
  simp only [List.any_cons, h1, State.setCur_gg]
theorem State.setCore_req (s : State) (c : Core) : (s.setCore c).req = s.req := rfl
@[simp] theorem State.applyHint_req (s : State) (h : Option (BitVec 25)) : (s.applyHint h).req = s.req := by
  rcases State.applyHint_cases s h with ⟨n, e⟩ | ⟨c, e⟩ | e
  · rw [e]
    exact State.setCur_req s { s.cur with nudge := n } rfl rfl
  · rw [e, State.setCore_req]
  · rw [e]
@[simp] theorem State.bound_req (s : State) : s.bound.req = s.req :=
  (State.applyHint_req _ _).trans (State.setCur_req s { s.cur with att := {} } rfl rfl)
theorem State.core_setRamp (s : State) (m n : Nat) (r : Ramp) : ∃ q, (s.setCore { s.core m with ramp := r }).core n = { s.core n with ramp := q } := by
  rw [State.core_setCore, State.core_core]
  by_cases h : n = m
  · exact ⟨r, by rw [if_pos h, h]⟩
  · exact ⟨(s.core n).ramp, if_neg h⟩
/-- A HINT changes a core's ramp and nothing else of the core. -/
theorem State.applyHint_core (s : State) (h : Option (BitVec 25)) (n : Nat) : ∃ q, (s.applyHint h).core n = { s.core n with ramp := q } := by
  unfold State.applyHint
  split
  · exact ⟨_, rfl⟩
  · split
    · exact ⟨_, rfl⟩
    · dsimp only
      split <;> exact State.core_setRamp _ _ _ _
    · exact ⟨_, rfl⟩
theorem State.bound_core (s : State) (n : Nat) : ∃ q, s.bound.core n = { s.core n with ramp := q } := State.applyHint_core _ _ n
@[simp] theorem State.bound_purse (s : State) (n : Nat) : (s.bound.core n).purse = (s.core n).purse := by
  obtain ⟨r, e⟩ := s.bound_core n
  rw [e]
@[simp] theorem State.bound_fwPurse (s : State) (n : Nat) : (s.bound.core n).fwPurse = (s.core n).fwPurse := by
  obtain ⟨r, e⟩ := s.bound_core n
  rw [e]
@[simp] theorem State.bound_tilesz (s : State) : s.bound.tr.tilesz = s.tr.tilesz := by simp [State.bound]
@[simp] theorem State.bound_rbnd (s : State) : s.bound.tr.rbnd = s.tr.rbnd := by simp [State.bound]
@[simp] theorem State.bound_trapvec (s : State) : s.bound.tr.trapvec = s.tr.trapvec := by simp [State.bound]
@[simp] theorem State.bound_batch (s : State) : s.bound.tr.batch = s.tr.batch := by simp [State.bound]
@[simp] theorem State.bound_idx (s : State) : s.bound.tr.idx = s.tr.idx := by simp [State.bound]
@[simp] theorem State.bound_psp (s : State) : s.bound.tr.psp = s.tr.psp := by simp [State.bound]
@[simp] theorem State.unfreeze_cur_pc (s : State) : s.unfreeze.cur.pc = s.cur.pc := by
  unfold State.unfreeze State.cur Troupe.slot
  cases s.sel <;> dsimp only <;> split <;> rfl
@[simp] theorem State.unfreeze_pc (s : State) : s.unfreeze.pc = s.pc := State.unfreeze_cur_pc s
@[simp] theorem State.bound_cycle (s : State) : s.bound.cycle = s.cycle := by simp [State.bound]
@[simp] theorem State.bound_sel (s : State) : s.bound.sel = s.sel := by simp [State.bound]

/-! ### What a scalar instruction leaves alone -/

@[simp] theorem State.bound_sibling (s : State) : s.bound.sibling = s.sibling := by simp [State.bound]
/-- A byte reads the same after a scalar register is written. -/
@[simp] theorem State.readLoc_wS (s : State) (d : SReg) (v : Word64) (r : Req) (g : Gang) (o : OrdScope) (l : Loc) :
    (s.wS d v).readLoc r g o l = s.readLoc r g o l := by
  unfold State.wS
  split <;> rfl
@[simp] theorem State.readLoc_setCur (s : State) (x : Slot) (r : Req) (g : Gang) (o : OrdScope) (l : Loc) :
    (s.setCur x).readLoc r g o l = s.readLoc r g o l := rfl
/-- A byte reads the same after the attachments are bound. -/
@[simp] theorem State.readLoc_bound (s : State) (r : Req) (g : Gang) (o : OrdScope) (l : Loc) : s.bound.readLoc r g o l = s.readLoc r g o l := by
  unfold State.bound State.applyHint
  split
  · rfl
  · split
    · rfl
    · dsimp only
      split <;> rfl
    · rfl

/-! ### How an instruction ends (R17, R18) -/

/-- A form that runs ends as its meaning ends. -/
theorem runForm_eq {i : Form} {s : State} (h : Runs i s) (k : Bound → State → Res) :
    runForm i s k = .next (s.finish i.word (k s.att s.bound)) := by
  obtain ⟨h1, h2, h3⟩ := h
  simp only [runForm, h1, h2, h3, Bool.not_true, Bool.false_eq_true, if_false, State.att, State.bound]

theorem run_eq {i : Instr} {s : State} (h : Runs (formOf i) s) (k : Bound → State → Res) :
    run i s k = .next (s.finish (formOf i).word (k s.att s.bound)) := runForm_eq h k

/-- Below the top of memory a completed instruction leaves the path at the next word. -/
theorem State.advanceWord_eq {s : State} (h : s.pc ≠ topPc) (w : BitVec 32) : s.advanceWord w = s.onward := by
  simp only [State.advanceWord, h, if_false, State.onward]

/-- A meaning that completes and leaves the PC alone. -/
theorem simple_eq {i : Instr} {s : State} (h : RunsOn i s) (f : Bound → State → State) (hf : (f s.att s.bound).pc = s.pc) :
    simple i s f = .next (f s.att s.bound).onward := by
  unfold simple
  rw [run_eq h.1]
  simp only [State.finish]
  rw [State.advanceWord_eq (by rw [hf]; exact h.2)]

/-- A trap taken at once. -/
theorem State.stopWord_trap {s : State} (h : TrapsNow s) (w : BitVec 32) (e : ErrRec) :
    s.stopWord w (.trap e) = s.takeTrap { e with pc := s.pc.toNat, word := w } := by
  simp only [State.stopWord, h.1, h.2, Option.isSome_none, Bool.false_eq_true, if_false]

/-- A form that step 3 turns away traps ILLOP. -/
theorem run_illop {i : Instr} {s : State} (hl : s.cur.live = true) (hn : TrapsNow s) (h : step3Ok (formOf i) s = false)
    (k : Bound → State → Res) : run i s k = .next (s.takeTrap { cause := 1, pc := s.pc.toNat, word := i.word }) := by
  unfold run runForm
  have e : s.leavesNear (formOf i) = false := by simp [State.leavesNear, hn.1]
  simp only [hl, e, h, Bool.not_true, Bool.not_false, Bool.false_eq_true, if_false, if_true]
  exact congrArg _ (State.stopWord_trap hn _ _)

/-- A meaning that ends in a trap takes it. -/
theorem run_trap {i : Instr} {s : State} (h : Runs (formOf i) s) (hn : TrapsNow s) {k : Bound → State → Res} {e : ErrRec}
    (hk : k s.att s.bound = .stop (.trap e)) : run i s k = .next (s.takeTrap { e with pc := s.pc.toNat, word := i.word }) := by
  rw [run_eq h, hk]
  exact congrArg _ (State.stopWord_trap hn _ _)

/-- A meaning that ends in ILLOP. -/
theorem run_stopIllop {i : Instr} {s : State} (h : Runs (formOf i) s) (hn : TrapsNow s) {k : Bound → State → Res}
    (hk : k s.att s.bound = .stop illop) : run i s k = .next (s.takeTrap { cause := 1, pc := s.pc.toNat, word := i.word }) := run_trap h hn hk
/-- A meaning that completes and leaves the PC alone. -/
theorem run_done {i : Instr} {s : State} (h : RunsOn i s) {k : Bound → State → Res} {t : State} (hk : k s.att s.bound = .done t)
    (hp : t.pc = s.pc) : run i s k = .next t.onward := by
  rw [run_eq h.1, hk]
  simp only [State.finish]
  rw [State.advanceWord_eq (by rw [hp]; exact h.2)]
/-- A meaning that sets the path's place itself. -/
theorem run_stay {i : Instr} {s : State} (h : Runs (formOf i) s) {k : Bound → State → Res} {t : State} (hk : k s.att s.bound = .stay t) :
    run i s k = .next t.rests := by
  rw [run_eq h, hk]
  rfl
/-- A valid target of R16. -/
theorem validTarget_iff (a : Word64) : validTarget a = true ↔ a.toNat < 2 ^ 48 ∧ a.toNat % 4 = 0 := by
  simp only [validTarget, Bool.and_eq_true, decide_eq_true_eq, beq_iff_eq]
/-- A transfer to a valid target (R17). -/
theorem run_jump {i : Instr} {s : State} (h : Runs (formOf i) s) {k : Bound → State → Res} {a : Word64} {t : State}
    (hk : k s.att s.bound = .jump a t) (hv : a.toNat < 2 ^ 48 ∧ a.toNat % 4 = 0) : run i s k = .next (t.at_ a) := by
  rw [run_eq h, hk]
  simp only [State.finish, (validTarget_iff a).2 hv, if_true, State.at_]
/-- A transfer to any other (R17). -/
theorem run_badJump {i : Instr} {s : State} (h : Runs (formOf i) s) (hn : TrapsNow s) {k : Bound → State → Res} {a : Word64} {t : State}
    (hk : k s.att s.bound = .jump a t) (hv : ¬ (a.toNat < 2 ^ 48 ∧ a.toNat % 4 = 0)) :
    run i s k = .next (s.takeTrap { cause := 2, addr := a, pc := s.pc.toNat, word := i.word }) := by
  rw [run_eq h, hk]
  have e : validTarget a = false := by rw [← Bool.not_eq_true]; exact fun x => hv ((validTarget_iff a).1 x)
  simp only [State.finish, e, Bool.false_eq_true, if_false]
  exact congrArg _ (State.stopWord_trap hn _ _)
/-- A displacement's target (R36, R44). -/
theorem target_eq (s : State) {w : Nat} (f : BitVec w) : s.bound.target s.att f = s.pc.setWidth 64 + 4 * immS s.att f := by
  have e : ∀ x : Word64, x <<< 2 = 4 * x := by intro x; bv_omega
  simp only [State.target, State.bound_pc64, e]

/-! ### The shapes of scalar instructions -/

theorem binS_eq {i : Instr} {s : State} (h : RunsOn i s) (d a b : SReg) (f : Word64 → Word64 → Word64) :
    binS i d a b f s = .next (s.bound.wS d (f (s.rS a) (s.rS b))).onward := by
  unfold binS
  rw [simple_eq h _ (by simp [State.pc])]
  simp only [State.bound_rS]
theorem unS_eq {i : Instr} {s : State} (h : RunsOn i s) (d a : SReg) (f : Word64 → Word64) :
    unS i d a f s = .next (s.bound.wS d (f (s.rS a))).onward := by
  unfold unS
  rw [simple_eq h _ (by simp [State.pc])]
  simp only [State.bound_rS]
theorem immOp_eq {i : Instr} {s : State} (h : RunsOn i s) (d a : SReg) (imm : Bound → Word64) (f : Word64 → Word64 → Word64) :
    immOp i d a imm f s = .next (s.bound.wS d (f (s.rS a) (imm s.att))).onward := by
  unfold immOp
  rw [simple_eq h _ (by simp [State.pc])]
  simp only [State.bound_rS]
theorem floatS_eq {i : Instr} {s : State} (h : RunsOn i s) (f : Fmt) (d : SReg) (g : RMode → State → FVal) :
    floatS i f d g s = .next (s.bound.wS d (.ofNat 64 (f.round .plain (smode s.bound) 0 (g (smode s.bound) s.bound)))).onward := by
  unfold floatS
  rw [simple_eq h _ (by simp [State.pc])]

/-! ### Taking an exception (R434 to R442) -/

/-- What a trap ends (R234, R374, R435): the instruction's issue, the troupe's place among the wide instructions, and its lease at its next end. -/
def State.untied (s : State) : State := ((s.setCur s.cur.stopped).dropWide s.mine).dropLease
/-- Only the path's slot and the cores' records change. -/
theorem State.untied_eq (s : State) : ∃ cs, s.untied = { s.setCur s.cur.stopped with cores := cs } := ⟨_, rfl⟩
@[simp] theorem State.untied_gg (s : State) : s.untied.gg = s.gg := id rfl
@[simp] theorem State.untied_ctl (s : State) : s.untied.ctl = s.ctl := id rfl
@[simp] theorem State.untied_trapvec (s : State) : s.untied.tr.trapvec = s.tr.trapvec := by
  change (s.setCur s.cur.stopped).tr.trapvec = _
  simp

/-- A trap that has a vector, a frame that lands, and no machine check. -/
theorem State.takeTrap_vectored {s s2 : State} {e : ErrRec} {l : Loc} (h11 : e.cause ≠ 11) (h12 : e.cause ≠ 12) (he : s.gg.err = none)
    (ht : (if s.gg.sys then s.ctl.stvec else s.tr.trapvec) ≠ 0)
    (hp : s.untied.placeBy true none 0 (if s.gg.sys then s.ctl.stframe else 0xFFFFFE0000000000) .write = .ok (l, s2)) :
    s.takeTrap e =
      (s2.lane0Write false (if s.gg.sys then s.ctl.stframe else 0xFFFFFE0000000000) l 256 (frameNat (s.fillRec e) (s2.rS 61))).vectored (s.fillRec e)
        (if s.gg.sys then s.ctl.stframe else 0xFFFFFE0000000000) (if s.gg.sys then s.ctl.stvec else s.tr.trapvec) := by
  unfold State.takeTrap
  dsimp only
  rw [if_neg h11]
  change s.untied.vector _ = _
  unfold State.vector
  simp only [State.untied_gg, State.untied_ctl, State.untied_trapvec]
  rw [if_neg (by intro h; rcases h with h | h | h; exact ht h; exact h12 h; simp [he] at h), hp]

/-- A trap with no vector, and no machine check. -/
theorem State.takeTrap_noVector {s : State} {e : ErrRec} (h11 : e.cause ≠ 11) (ht : (if s.gg.sys then s.ctl.stvec else s.tr.trapvec) = 0) :
    s.takeTrap e = s.untied.endInError s.gg.uid (s.fillRec e) := by
  unfold State.takeTrap
  dsimp only
  rw [if_neg h11]
  change s.untied.vector _ = _
  unfold State.vector
  simp only [State.untied_gg, State.untied_ctl, State.untied_trapvec]
  rw [if_pos (Or.inl ht)]

/-- A field of a record packed into a number: what lies below it is smaller, what lies above it is a multiple. -/
theorem field_of_sum {p v q lo n : Nat} (hp : p < 2 ^ lo) (hv : v < 2 ^ n) : (p + v * 2 ^ lo + q * 2 ^ (lo + n)) / 2 ^ lo % 2 ^ n = v := by
  have e : p + v * 2 ^ lo + q * 2 ^ (lo + n) = p + 2 ^ lo * (v + q * 2 ^ n) := by rw [Nat.pow_add]; ring
  rw [e, Nat.add_mul_div_left _ _ (by positivity), Nat.div_eq_of_lt hp, Nat.zero_add, Nat.add_mul_mod_self_right, Nat.mod_eq_of_lt hv]

/-! ### Attachment words (R39): their words and payloads -/

theorem append_toNat {n m : Nat} (x : BitVec n) (y : BitVec m) : (x ++ y).toNat = x.toNat * 2 ^ m + y.toNat := by
  rw [BitVec.toNat_append, Nat.shiftLeft_eq, Nat.mul_comm, ← Nat.two_pow_add_eq_or_of_lt y.isLt]
theorem pfx_word (k : KReg) (z : BitVec 1) (rm : BitVec 3) (vc : VReg) : (Instr.pfx k z rm vc).word = pfxWord k z rm vc := by
  apply BitVec.eq_of_toNat_eq
  have := k.isLt; have := z.isLt; have := rm.isLt; have := vc.isLt
  rw [show (Instr.pfx k z rm vc).word = .ofNat 32 (encP 0x70 (k.toNat * 4194304 + z.toNat * 2097152 + rm.toNat * 262144 + vc.toNat * 2048)) from rfl]
  simp only [encP, pfxWord, append_toNat, BitVec.ofNat_eq_ofNat, BitVec.toNat_ofNat, Nat.reducePow, Nat.reduceMod]
  omega
theorem pfx_payload (k : KReg) (z : BitVec 1) (rm : BitVec 3) (vc : VReg) : (pfxWord k z rm vc).setWidth 25 = k ++ z ++ rm ++ vc ++ (0 : BitVec 11) := by
  apply BitVec.eq_of_toNat_eq
  have := k.isLt; have := z.isLt; have := rm.isLt; have := vc.isLt
  simp only [pfxWord, append_toNat, BitVec.toNat_setWidth, BitVec.ofNat_eq_ofNat, BitVec.toNat_ofNat, Nat.reducePow, Nat.reduceMod]
  omega
theorem ord_word (sc : OrdScope) (o : OrdOrder) (nd : BitVec 4) : (Instr.ord sc o nd).word = ordWord sc o nd := by
  apply BitVec.eq_of_toNat_eq
  have h1 : sc.toCode = (scopeCode sc).toNat := by cases sc <;> rfl
  have h2 : o.toCode = (orderCode o).toNat := by cases o <;> rfl
  have := nd.isLt; have := (scopeCode sc).isLt; have := (orderCode o).isLt
  rw [show (Instr.ord sc o nd).word = .ofNat 32 (encP 0x71 (sc.toCode * 4194304 + o.toCode * 1048576 + nd.toNat * 65536)) from rfl]
  simp only [encP, ordWord, h1, h2, append_toNat, BitVec.ofNat_eq_ofNat,
    BitVec.toNat_ofNat, Nat.reducePow, Nat.reduceMod]
  omega
theorem ord_payload (sc : OrdScope) (o : OrdOrder) (nd : BitVec 4) :
    (ordWord sc o nd).setWidth 25 = scopeCode sc ++ orderCode o ++ nd ++ (0 : BitVec 16) := by
  apply BitVec.eq_of_toNat_eq
  have := nd.isLt; have := (scopeCode sc).isLt; have := (orderCode o).isLt
  simp only [ordWord, append_toNat, BitVec.toNat_setWidth, BitVec.ofNat_eq_ofNat, BitVec.toNat_ofNat, Nat.reducePow, Nat.reduceMod]
  omega
theorem limm_word (h : BitVec 25) : (Instr.limm h).word = limmWord h := by
  apply BitVec.eq_of_toNat_eq
  have := h.isLt
  rw [show (Instr.limm h).word = .ofNat 32 (encP 0x72 h.toNat) from rfl]
  simp only [encP, limmWord, append_toNat, BitVec.ofNat_eq_ofNat, BitVec.toNat_ofNat, Nat.reducePow, Nat.reduceMod]
  omega
theorem hint_word (k : BitVec 4) (a : BitVec 21) : (Instr.hint k a).word = hintWord k a := by
  apply BitVec.eq_of_toNat_eq
  have := k.isLt; have := a.isLt
  rw [show (Instr.hint k a).word = .ofNat 32 (encP 0x73 (k.toNat * 2097152 + a.toNat)) from rfl]
  simp only [encP, hintWord, append_toNat, BitVec.ofNat_eq_ofNat, BitVec.toNat_ofNat, Nat.reducePow, Nat.reduceMod]
  omega

/-! ### Rounding modes (R90, R141) -/

theorem fmtMode_sr (f : BitVec 32) : fmtMode f = .sr ↔ bitsOf f.toNat 2 0 = 5 := by
  unfold fmtMode modeOfCode
  constructor
  · intro h
    split at h <;> first | omega | cases h
  · intro h
    rw [h]; rfl
theorem smode_eq (s : State) : smode s.bound = if bitsOf s.cur.fmt.toNat 2 0 = 5 then .rne else fmtMode s.cur.fmt := by
  unfold smode
  rw [State.bound_fmt]
  split
  next h => rw [if_pos ((fmtMode_sr _).1 h)]
  next h => rw [if_neg (fun e => h ((fmtMode_sr _).2 e))]

end Sys2Proof.Machine
end

