-- ==== Sys2Proof/Laws/PerInstr.lean ====
section
/-!
SUPPORT. Round trips, one lemma per instruction: the word the encoder gives a well-formed instruction is read back as that instruction, by
the unit that fetches such words.
-/

namespace Sys2Proof.Laws.RoundTrip

/-- The word of a well-formed instruction is read back as it (R33, R34, R49, R53). -/
def Statement (i : Instr) : Prop := i.wellFormed = true → ∀ w, encode i = some w → readBack i w = .ok i

theorem readBack_of {n : Nat} {i : Instr} (hm : i.isMicro = false) (hn : n < 2 ^ 32) (hd : decodeFields n = .ok i)
    (hw : i.wellFormed = true) : readBack i (.ofNat 32 n) = .ok i := by
  unfold readBack
  rw [hm]
  exact decodeWord_of n i hn hd hw

theorem readMicro_of {n : Nat} {i : Instr} (hm : i.isMicro = true) (hn : n < 2 ^ 32) (hd : decodeMicro n = .ok i) :
    readBack i (.ofNat 32 n) = .ok i := by
  unfold readBack
  rw [hm]
  exact decodeMicroOp_of n i hn hd

theorem add_word (d : SReg) (a : SReg) (b : SReg) : encA 0x01 0 d.toNat a.toNat b.toNat < 2 ^ 32 ∧ decodeFields (encA 0x01 0 d.toNat a.toNat b.toNat) = .ok (Instr.add d a b) := by
  have key (wd : Nat) (e0 : bitsOf wd 24 21 = 0) (e1 : bitsOf wd 20 14 = d.toNat) (e2 : bitsOf wd 13 7 = a.toNat) (e3 : bitsOf wd 6 0 = b.toNat) : decode01 wd = .ok (Instr.add d a b) := by
    simp only [decode01, e0, e1, e2, e3, sreg_toNat, bind1]
  obtain ⟨lt, f_maj, f_fn, f_d, f_a, f_b⟩ := encA_fields 0x01 0 d.toNat a.toNat b.toNat
    (by decide) (by decide) (Nat.lt_of_lt_of_le d.isLt (by decide)) (Nat.lt_of_lt_of_le a.isLt (by decide)) (Nat.lt_of_lt_of_le b.isLt (by decide))
  exact ⟨lt, (decodeFields_01 _ f_maj).trans (key _ f_fn f_d f_a f_b)⟩
theorem add (d : SReg) (a : SReg) (b : SReg) : Statement (Instr.add d a b) := by
  intro hw w h
  have h := Option.some.inj h
  subst h
  exact readBack_of rfl (add_word d a b).1 (add_word d a b).2 hw
theorem sub_word (d : SReg) (a : SReg) (b : SReg) : encA 0x01 1 d.toNat a.toNat b.toNat < 2 ^ 32 ∧ decodeFields (encA 0x01 1 d.toNat a.toNat b.toNat) = .ok (Instr.sub d a b) := by
  have key (wd : Nat) (e0 : bitsOf wd 24 21 = 1) (e1 : bitsOf wd 20 14 = d.toNat) (e2 : bitsOf wd 13 7 = a.toNat) (e3 : bitsOf wd 6 0 = b.toNat) : decode01 wd = .ok (Instr.sub d a b) := by
    simp only [decode01, e0, e1, e2, e3, sreg_toNat, bind1]
  obtain ⟨lt, f_maj, f_fn, f_d, f_a, f_b⟩ := encA_fields 0x01 1 d.toNat a.toNat b.toNat
    (by decide) (by decide) (Nat.lt_of_lt_of_le d.isLt (by decide)) (Nat.lt_of_lt_of_le a.isLt (by decide)) (Nat.lt_of_lt_of_le b.isLt (by decide))
  exact ⟨lt, (decodeFields_01 _ f_maj).trans (key _ f_fn f_d f_a f_b)⟩
theorem sub (d : SReg) (a : SReg) (b : SReg) : Statement (Instr.sub d a b) := by
  intro hw w h
  have h := Option.some.inj h
  subst h
  exact readBack_of rfl (sub_word d a b).1 (sub_word d a b).2 hw
theorem mul_word (d : SReg) (a : SReg) (b : SReg) : encA 0x01 2 d.toNat a.toNat b.toNat < 2 ^ 32 ∧ decodeFields (encA 0x01 2 d.toNat a.toNat b.toNat) = .ok (Instr.mul d a b) := by
  have key (wd : Nat) (e0 : bitsOf wd 24 21 = 2) (e1 : bitsOf wd 20 14 = d.toNat) (e2 : bitsOf wd 13 7 = a.toNat) (e3 : bitsOf wd 6 0 = b.toNat) : decode01 wd = .ok (Instr.mul d a b) := by
    simp only [decode01, e0, e1, e2, e3, sreg_toNat, bind1]
  obtain ⟨lt, f_maj, f_fn, f_d, f_a, f_b⟩ := encA_fields 0x01 2 d.toNat a.toNat b.toNat
    (by decide) (by decide) (Nat.lt_of_lt_of_le d.isLt (by decide)) (Nat.lt_of_lt_of_le a.isLt (by decide)) (Nat.lt_of_lt_of_le b.isLt (by decide))
  exact ⟨lt, (decodeFields_01 _ f_maj).trans (key _ f_fn f_d f_a f_b)⟩
theorem mul (d : SReg) (a : SReg) (b : SReg) : Statement (Instr.mul d a b) := by
  intro hw w h
  have h := Option.some.inj h
  subst h
  exact readBack_of rfl (mul_word d a b).1 (mul_word d a b).2 hw
theorem mulh_word (d : SReg) (a : SReg) (b : SReg) : encA 0x01 3 d.toNat a.toNat b.toNat < 2 ^ 32 ∧ decodeFields (encA 0x01 3 d.toNat a.toNat b.toNat) = .ok (Instr.mulh d a b) := by
  have key (wd : Nat) (e0 : bitsOf wd 24 21 = 3) (e1 : bitsOf wd 20 14 = d.toNat) (e2 : bitsOf wd 13 7 = a.toNat) (e3 : bitsOf wd 6 0 = b.toNat) : decode01 wd = .ok (Instr.mulh d a b) := by
    simp only [decode01, e0, e1, e2, e3, sreg_toNat, bind1]
  obtain ⟨lt, f_maj, f_fn, f_d, f_a, f_b⟩ := encA_fields 0x01 3 d.toNat a.toNat b.toNat
    (by decide) (by decide) (Nat.lt_of_lt_of_le d.isLt (by decide)) (Nat.lt_of_lt_of_le a.isLt (by decide)) (Nat.lt_of_lt_of_le b.isLt (by decide))
  exact ⟨lt, (decodeFields_01 _ f_maj).trans (key _ f_fn f_d f_a f_b)⟩
theorem mulh (d : SReg) (a : SReg) (b : SReg) : Statement (Instr.mulh d a b) := by
  intro hw w h
  have h := Option.some.inj h
  subst h
  exact readBack_of rfl (mulh_word d a b).1 (mulh_word d a b).2 hw
theorem mulhn_word (d : SReg) (a : SReg) (b : SReg) : encA 0x01 4 d.toNat a.toNat b.toNat < 2 ^ 32 ∧ decodeFields (encA 0x01 4 d.toNat a.toNat b.toNat) = .ok (Instr.mulhn d a b) := by
  have key (wd : Nat) (e0 : bitsOf wd 24 21 = 4) (e1 : bitsOf wd 20 14 = d.toNat) (e2 : bitsOf wd 13 7 = a.toNat) (e3 : bitsOf wd 6 0 = b.toNat) : decode01 wd = .ok (Instr.mulhn d a b) := by
    simp only [decode01, e0, e1, e2, e3, sreg_toNat, bind1]
  obtain ⟨lt, f_maj, f_fn, f_d, f_a, f_b⟩ := encA_fields 0x01 4 d.toNat a.toNat b.toNat
    (by decide) (by decide) (Nat.lt_of_lt_of_le d.isLt (by decide)) (Nat.lt_of_lt_of_le a.isLt (by decide)) (Nat.lt_of_lt_of_le b.isLt (by decide))
  exact ⟨lt, (decodeFields_01 _ f_maj).trans (key _ f_fn f_d f_a f_b)⟩
theorem mulhn (d : SReg) (a : SReg) (b : SReg) : Statement (Instr.mulhn d a b) := by
  intro hw w h
  have h := Option.some.inj h
  subst h
  exact readBack_of rfl (mulhn_word d a b).1 (mulhn_word d a b).2 hw
theorem div_word (d : SReg) (a : SReg) (b : SReg) : encA 0x01 5 d.toNat a.toNat b.toNat < 2 ^ 32 ∧ decodeFields (encA 0x01 5 d.toNat a.toNat b.toNat) = .ok (Instr.div d a b) := by
  have key (wd : Nat) (e0 : bitsOf wd 24 21 = 5) (e1 : bitsOf wd 20 14 = d.toNat) (e2 : bitsOf wd 13 7 = a.toNat) (e3 : bitsOf wd 6 0 = b.toNat) : decode01 wd = .ok (Instr.div d a b) := by
    simp only [decode01, e0, e1, e2, e3, sreg_toNat, bind1]
  obtain ⟨lt, f_maj, f_fn, f_d, f_a, f_b⟩ := encA_fields 0x01 5 d.toNat a.toNat b.toNat
    (by decide) (by decide) (Nat.lt_of_lt_of_le d.isLt (by decide)) (Nat.lt_of_lt_of_le a.isLt (by decide)) (Nat.lt_of_lt_of_le b.isLt (by decide))
  exact ⟨lt, (decodeFields_01 _ f_maj).trans (key _ f_fn f_d f_a f_b)⟩
theorem div (d : SReg) (a : SReg) (b : SReg) : Statement (Instr.div d a b) := by
  intro hw w h
  have h := Option.some.inj h
  subst h
  exact readBack_of rfl (div_word d a b).1 (div_word d a b).2 hw
theorem divn_word (d : SReg) (a : SReg) (b : SReg) : encA 0x01 6 d.toNat a.toNat b.toNat < 2 ^ 32 ∧ decodeFields (encA 0x01 6 d.toNat a.toNat b.toNat) = .ok (Instr.divn d a b) := by
  have key (wd : Nat) (e0 : bitsOf wd 24 21 = 6) (e1 : bitsOf wd 20 14 = d.toNat) (e2 : bitsOf wd 13 7 = a.toNat) (e3 : bitsOf wd 6 0 = b.toNat) : decode01 wd = .ok (Instr.divn d a b) := by
    simp only [decode01, e0, e1, e2, e3, sreg_toNat, bind1]
  obtain ⟨lt, f_maj, f_fn, f_d, f_a, f_b⟩ := encA_fields 0x01 6 d.toNat a.toNat b.toNat
    (by decide) (by decide) (Nat.lt_of_lt_of_le d.isLt (by decide)) (Nat.lt_of_lt_of_le a.isLt (by decide)) (Nat.lt_of_lt_of_le b.isLt (by decide))
  exact ⟨lt, (decodeFields_01 _ f_maj).trans (key _ f_fn f_d f_a f_b)⟩
theorem divn (d : SReg) (a : SReg) (b : SReg) : Statement (Instr.divn d a b) := by
  intro hw w h
  have h := Option.some.inj h
  subst h
  exact readBack_of rfl (divn_word d a b).1 (divn_word d a b).2 hw
theorem rem_word (d : SReg) (a : SReg) (b : SReg) : encA 0x01 7 d.toNat a.toNat b.toNat < 2 ^ 32 ∧ decodeFields (encA 0x01 7 d.toNat a.toNat b.toNat) = .ok (Instr.rem d a b) := by
  have key (wd : Nat) (e0 : bitsOf wd 24 21 = 7) (e1 : bitsOf wd 20 14 = d.toNat) (e2 : bitsOf wd 13 7 = a.toNat) (e3 : bitsOf wd 6 0 = b.toNat) : decode01 wd = .ok (Instr.rem d a b) := by
    simp only [decode01, e0, e1, e2, e3, sreg_toNat, bind1]
  obtain ⟨lt, f_maj, f_fn, f_d, f_a, f_b⟩ := encA_fields 0x01 7 d.toNat a.toNat b.toNat
    (by decide) (by decide) (Nat.lt_of_lt_of_le d.isLt (by decide)) (Nat.lt_of_lt_of_le a.isLt (by decide)) (Nat.lt_of_lt_of_le b.isLt (by decide))
  exact ⟨lt, (decodeFields_01 _ f_maj).trans (key _ f_fn f_d f_a f_b)⟩
theorem rem (d : SReg) (a : SReg) (b : SReg) : Statement (Instr.rem d a b) := by
  intro hw w h
  have h := Option.some.inj h
  subst h
  exact readBack_of rfl (rem_word d a b).1 (rem_word d a b).2 hw
theorem remn_word (d : SReg) (a : SReg) (b : SReg) : encA 0x01 8 d.toNat a.toNat b.toNat < 2 ^ 32 ∧ decodeFields (encA 0x01 8 d.toNat a.toNat b.toNat) = .ok (Instr.remn d a b) := by
  have key (wd : Nat) (e0 : bitsOf wd 24 21 = 8) (e1 : bitsOf wd 20 14 = d.toNat) (e2 : bitsOf wd 13 7 = a.toNat) (e3 : bitsOf wd 6 0 = b.toNat) : decode01 wd = .ok (Instr.remn d a b) := by
    simp only [decode01, e0, e1, e2, e3, sreg_toNat, bind1]
  obtain ⟨lt, f_maj, f_fn, f_d, f_a, f_b⟩ := encA_fields 0x01 8 d.toNat a.toNat b.toNat
    (by decide) (by decide) (Nat.lt_of_lt_of_le d.isLt (by decide)) (Nat.lt_of_lt_of_le a.isLt (by decide)) (Nat.lt_of_lt_of_le b.isLt (by decide))
  exact ⟨lt, (decodeFields_01 _ f_maj).trans (key _ f_fn f_d f_a f_b)⟩
theorem remn (d : SReg) (a : SReg) (b : SReg) : Statement (Instr.remn d a b) := by
  intro hw w h
  have h := Option.some.inj h
  subst h
  exact readBack_of rfl (remn_word d a b).1 (remn_word d a b).2 hw
theorem min_word (d : SReg) (a : SReg) (b : SReg) : encA 0x01 9 d.toNat a.toNat b.toNat < 2 ^ 32 ∧ decodeFields (encA 0x01 9 d.toNat a.toNat b.toNat) = .ok (Instr.min d a b) := by
  have key (wd : Nat) (e0 : bitsOf wd 24 21 = 9) (e1 : bitsOf wd 20 14 = d.toNat) (e2 : bitsOf wd 13 7 = a.toNat) (e3 : bitsOf wd 6 0 = b.toNat) : decode01 wd = .ok (Instr.min d a b) := by
    simp only [decode01, e0, e1, e2, e3, sreg_toNat, bind1]
  obtain ⟨lt, f_maj, f_fn, f_d, f_a, f_b⟩ := encA_fields 0x01 9 d.toNat a.toNat b.toNat
    (by decide) (by decide) (Nat.lt_of_lt_of_le d.isLt (by decide)) (Nat.lt_of_lt_of_le a.isLt (by decide)) (Nat.lt_of_lt_of_le b.isLt (by decide))
  exact ⟨lt, (decodeFields_01 _ f_maj).trans (key _ f_fn f_d f_a f_b)⟩
theorem min (d : SReg) (a : SReg) (b : SReg) : Statement (Instr.min d a b) := by
  intro hw w h
  have h := Option.some.inj h
  subst h
  exact readBack_of rfl (min_word d a b).1 (min_word d a b).2 hw
theorem max_word (d : SReg) (a : SReg) (b : SReg) : encA 0x01 10 d.toNat a.toNat b.toNat < 2 ^ 32 ∧ decodeFields (encA 0x01 10 d.toNat a.toNat b.toNat) = .ok (Instr.max d a b) := by
  have key (wd : Nat) (e0 : bitsOf wd 24 21 = 10) (e1 : bitsOf wd 20 14 = d.toNat) (e2 : bitsOf wd 13 7 = a.toNat) (e3 : bitsOf wd 6 0 = b.toNat) : decode01 wd = .ok (Instr.max d a b) := by
    simp only [decode01, e0, e1, e2, e3, sreg_toNat, bind1]
  obtain ⟨lt, f_maj, f_fn, f_d, f_a, f_b⟩ := encA_fields 0x01 10 d.toNat a.toNat b.toNat
    (by decide) (by decide) (Nat.lt_of_lt_of_le d.isLt (by decide)) (Nat.lt_of_lt_of_le a.isLt (by decide)) (Nat.lt_of_lt_of_le b.isLt (by decide))
  exact ⟨lt, (decodeFields_01 _ f_maj).trans (key _ f_fn f_d f_a f_b)⟩
theorem max (d : SReg) (a : SReg) (b : SReg) : Statement (Instr.max d a b) := by
  intro hw w h
  have h := Option.some.inj h
  subst h
  exact readBack_of rfl (max_word d a b).1 (max_word d a b).2 hw
theorem minn_word (d : SReg) (a : SReg) (b : SReg) : encA 0x01 11 d.toNat a.toNat b.toNat < 2 ^ 32 ∧ decodeFields (encA 0x01 11 d.toNat a.toNat b.toNat) = .ok (Instr.minn d a b) := by
  have key (wd : Nat) (e0 : bitsOf wd 24 21 = 11) (e1 : bitsOf wd 20 14 = d.toNat) (e2 : bitsOf wd 13 7 = a.toNat) (e3 : bitsOf wd 6 0 = b.toNat) : decode01 wd = .ok (Instr.minn d a b) := by
    simp only [decode01, e0, e1, e2, e3, sreg_toNat, bind1]
  obtain ⟨lt, f_maj, f_fn, f_d, f_a, f_b⟩ := encA_fields 0x01 11 d.toNat a.toNat b.toNat
    (by decide) (by decide) (Nat.lt_of_lt_of_le d.isLt (by decide)) (Nat.lt_of_lt_of_le a.isLt (by decide)) (Nat.lt_of_lt_of_le b.isLt (by decide))
  exact ⟨lt, (decodeFields_01 _ f_maj).trans (key _ f_fn f_d f_a f_b)⟩
theorem minn (d : SReg) (a : SReg) (b : SReg) : Statement (Instr.minn d a b) := by
  intro hw w h
  have h := Option.some.inj h
  subst h
  exact readBack_of rfl (minn_word d a b).1 (minn_word d a b).2 hw
theorem maxn_word (d : SReg) (a : SReg) (b : SReg) : encA 0x01 12 d.toNat a.toNat b.toNat < 2 ^ 32 ∧ decodeFields (encA 0x01 12 d.toNat a.toNat b.toNat) = .ok (Instr.maxn d a b) := by
  have key (wd : Nat) (e0 : bitsOf wd 24 21 = 12) (e1 : bitsOf wd 20 14 = d.toNat) (e2 : bitsOf wd 13 7 = a.toNat) (e3 : bitsOf wd 6 0 = b.toNat) : decode01 wd = .ok (Instr.maxn d a b) := by
    simp only [decode01, e0, e1, e2, e3, sreg_toNat, bind1]
  obtain ⟨lt, f_maj, f_fn, f_d, f_a, f_b⟩ := encA_fields 0x01 12 d.toNat a.toNat b.toNat
    (by decide) (by decide) (Nat.lt_of_lt_of_le d.isLt (by decide)) (Nat.lt_of_lt_of_le a.isLt (by decide)) (Nat.lt_of_lt_of_le b.isLt (by decide))
  exact ⟨lt, (decodeFields_01 _ f_maj).trans (key _ f_fn f_d f_a f_b)⟩
theorem maxn (d : SReg) (a : SReg) (b : SReg) : Statement (Instr.maxn d a b) := by
  intro hw w h
  have h := Option.some.inj h
  subst h
  exact readBack_of rfl (maxn_word d a b).1 (maxn_word d a b).2 hw
theorem and_word (d : SReg) (a : SReg) (b : SReg) : encA 0x02 0 d.toNat a.toNat b.toNat < 2 ^ 32 ∧ decodeFields (encA 0x02 0 d.toNat a.toNat b.toNat) = .ok (Instr.and d a b) := by
  have key (wd : Nat) (e0 : bitsOf wd 24 21 = 0) (e1 : bitsOf wd 20 14 = d.toNat) (e2 : bitsOf wd 13 7 = a.toNat) (e3 : bitsOf wd 6 0 = b.toNat) : decode02 wd = .ok (Instr.and d a b) := by
    simp only [decode02, e0, e1, e2, e3, sreg_toNat, bind1]
  obtain ⟨lt, f_maj, f_fn, f_d, f_a, f_b⟩ := encA_fields 0x02 0 d.toNat a.toNat b.toNat
    (by decide) (by decide) (Nat.lt_of_lt_of_le d.isLt (by decide)) (Nat.lt_of_lt_of_le a.isLt (by decide)) (Nat.lt_of_lt_of_le b.isLt (by decide))
  exact ⟨lt, (decodeFields_02 _ f_maj).trans (key _ f_fn f_d f_a f_b)⟩
theorem and (d : SReg) (a : SReg) (b : SReg) : Statement (Instr.and d a b) := by
  intro hw w h
  have h := Option.some.inj h
  subst h
  exact readBack_of rfl (and_word d a b).1 (and_word d a b).2 hw
theorem or_word (d : SReg) (a : SReg) (b : SReg) : encA 0x02 1 d.toNat a.toNat b.toNat < 2 ^ 32 ∧ decodeFields (encA 0x02 1 d.toNat a.toNat b.toNat) = .ok (Instr.or d a b) := by
  have key (wd : Nat) (e0 : bitsOf wd 24 21 = 1) (e1 : bitsOf wd 20 14 = d.toNat) (e2 : bitsOf wd 13 7 = a.toNat) (e3 : bitsOf wd 6 0 = b.toNat) : decode02 wd = .ok (Instr.or d a b) := by
    simp only [decode02, e0, e1, e2, e3, sreg_toNat, bind1]
  obtain ⟨lt, f_maj, f_fn, f_d, f_a, f_b⟩ := encA_fields 0x02 1 d.toNat a.toNat b.toNat
    (by decide) (by decide) (Nat.lt_of_lt_of_le d.isLt (by decide)) (Nat.lt_of_lt_of_le a.isLt (by decide)) (Nat.lt_of_lt_of_le b.isLt (by decide))
  exact ⟨lt, (decodeFields_02 _ f_maj).trans (key _ f_fn f_d f_a f_b)⟩
theorem or (d : SReg) (a : SReg) (b : SReg) : Statement (Instr.or d a b) := by
  intro hw w h
  have h := Option.some.inj h
  subst h
  exact readBack_of rfl (or_word d a b).1 (or_word d a b).2 hw
theorem xor_word (d : SReg) (a : SReg) (b : SReg) : encA 0x02 2 d.toNat a.toNat b.toNat < 2 ^ 32 ∧ decodeFields (encA 0x02 2 d.toNat a.toNat b.toNat) = .ok (Instr.xor d a b) := by
  have key (wd : Nat) (e0 : bitsOf wd 24 21 = 2) (e1 : bitsOf wd 20 14 = d.toNat) (e2 : bitsOf wd 13 7 = a.toNat) (e3 : bitsOf wd 6 0 = b.toNat) : decode02 wd = .ok (Instr.xor d a b) := by
    simp only [decode02, e0, e1, e2, e3, sreg_toNat, bind1]
  obtain ⟨lt, f_maj, f_fn, f_d, f_a, f_b⟩ := encA_fields 0x02 2 d.toNat a.toNat b.toNat
    (by decide) (by decide) (Nat.lt_of_lt_of_le d.isLt (by decide)) (Nat.lt_of_lt_of_le a.isLt (by decide)) (Nat.lt_of_lt_of_le b.isLt (by decide))
  exact ⟨lt, (decodeFields_02 _ f_maj).trans (key _ f_fn f_d f_a f_b)⟩
theorem xor (d : SReg) (a : SReg) (b : SReg) : Statement (Instr.xor d a b) := by
  intro hw w h
  have h := Option.some.inj h
  subst h
  exact readBack_of rfl (xor_word d a b).1 (xor_word d a b).2 hw
theorem andn_word (d : SReg) (a : SReg) (b : SReg) : encA 0x02 3 d.toNat a.toNat b.toNat < 2 ^ 32 ∧ decodeFields (encA 0x02 3 d.toNat a.toNat b.toNat) = .ok (Instr.andn d a b) := by
  have key (wd : Nat) (e0 : bitsOf wd 24 21 = 3) (e1 : bitsOf wd 20 14 = d.toNat) (e2 : bitsOf wd 13 7 = a.toNat) (e3 : bitsOf wd 6 0 = b.toNat) : decode02 wd = .ok (Instr.andn d a b) := by
    simp only [decode02, e0, e1, e2, e3, sreg_toNat, bind1]
  obtain ⟨lt, f_maj, f_fn, f_d, f_a, f_b⟩ := encA_fields 0x02 3 d.toNat a.toNat b.toNat
    (by decide) (by decide) (Nat.lt_of_lt_of_le d.isLt (by decide)) (Nat.lt_of_lt_of_le a.isLt (by decide)) (Nat.lt_of_lt_of_le b.isLt (by decide))
  exact ⟨lt, (decodeFields_02 _ f_maj).trans (key _ f_fn f_d f_a f_b)⟩
theorem andn (d : SReg) (a : SReg) (b : SReg) : Statement (Instr.andn d a b) := by
  intro hw w h
  have h := Option.some.inj h
  subst h
  exact readBack_of rfl (andn_word d a b).1 (andn_word d a b).2 hw
theorem shl_word (d : SReg) (a : SReg) (b : SReg) : encA 0x02 4 d.toNat a.toNat b.toNat < 2 ^ 32 ∧ decodeFields (encA 0x02 4 d.toNat a.toNat b.toNat) = .ok (Instr.shl d a b) := by
  have key (wd : Nat) (e0 : bitsOf wd 24 21 = 4) (e1 : bitsOf wd 20 14 = d.toNat) (e2 : bitsOf wd 13 7 = a.toNat) (e3 : bitsOf wd 6 0 = b.toNat) : decode02 wd = .ok (Instr.shl d a b) := by
    simp only [decode02, e0, e1, e2, e3, sreg_toNat, bind1]
  obtain ⟨lt, f_maj, f_fn, f_d, f_a, f_b⟩ := encA_fields 0x02 4 d.toNat a.toNat b.toNat
    (by decide) (by decide) (Nat.lt_of_lt_of_le d.isLt (by decide)) (Nat.lt_of_lt_of_le a.isLt (by decide)) (Nat.lt_of_lt_of_le b.isLt (by decide))
  exact ⟨lt, (decodeFields_02 _ f_maj).trans (key _ f_fn f_d f_a f_b)⟩
theorem shl (d : SReg) (a : SReg) (b : SReg) : Statement (Instr.shl d a b) := by
  intro hw w h
  have h := Option.some.inj h
  subst h
  exact readBack_of rfl (shl_word d a b).1 (shl_word d a b).2 hw
theorem shr_word (d : SReg) (a : SReg) (b : SReg) : encA 0x02 5 d.toNat a.toNat b.toNat < 2 ^ 32 ∧ decodeFields (encA 0x02 5 d.toNat a.toNat b.toNat) = .ok (Instr.shr d a b) := by
  have key (wd : Nat) (e0 : bitsOf wd 24 21 = 5) (e1 : bitsOf wd 20 14 = d.toNat) (e2 : bitsOf wd 13 7 = a.toNat) (e3 : bitsOf wd 6 0 = b.toNat) : decode02 wd = .ok (Instr.shr d a b) := by
    simp only [decode02, e0, e1, e2, e3, sreg_toNat, bind1]
  obtain ⟨lt, f_maj, f_fn, f_d, f_a, f_b⟩ := encA_fields 0x02 5 d.toNat a.toNat b.toNat
    (by decide) (by decide) (Nat.lt_of_lt_of_le d.isLt (by decide)) (Nat.lt_of_lt_of_le a.isLt (by decide)) (Nat.lt_of_lt_of_le b.isLt (by decide))
  exact ⟨lt, (decodeFields_02 _ f_maj).trans (key _ f_fn f_d f_a f_b)⟩
theorem shr (d : SReg) (a : SReg) (b : SReg) : Statement (Instr.shr d a b) := by
  intro hw w h
  have h := Option.some.inj h
  subst h
  exact readBack_of rfl (shr_word d a b).1 (shr_word d a b).2 hw
theorem sar_word (d : SReg) (a : SReg) (b : SReg) : encA 0x02 6 d.toNat a.toNat b.toNat < 2 ^ 32 ∧ decodeFields (encA 0x02 6 d.toNat a.toNat b.toNat) = .ok (Instr.sar d a b) := by
  have key (wd : Nat) (e0 : bitsOf wd 24 21 = 6) (e1 : bitsOf wd 20 14 = d.toNat) (e2 : bitsOf wd 13 7 = a.toNat) (e3 : bitsOf wd 6 0 = b.toNat) : decode02 wd = .ok (Instr.sar d a b) := by
    simp only [decode02, e0, e1, e2, e3, sreg_toNat, bind1]
  obtain ⟨lt, f_maj, f_fn, f_d, f_a, f_b⟩ := encA_fields 0x02 6 d.toNat a.toNat b.toNat
    (by decide) (by decide) (Nat.lt_of_lt_of_le d.isLt (by decide)) (Nat.lt_of_lt_of_le a.isLt (by decide)) (Nat.lt_of_lt_of_le b.isLt (by decide))
  exact ⟨lt, (decodeFields_02 _ f_maj).trans (key _ f_fn f_d f_a f_b)⟩
theorem sar (d : SReg) (a : SReg) (b : SReg) : Statement (Instr.sar d a b) := by
  intro hw w h
  have h := Option.some.inj h
  subst h
  exact readBack_of rfl (sar_word d a b).1 (sar_word d a b).2 hw
theorem seq_word (d : SReg) (a : SReg) (b : SReg) : encA 0x02 7 d.toNat a.toNat b.toNat < 2 ^ 32 ∧ decodeFields (encA 0x02 7 d.toNat a.toNat b.toNat) = .ok (Instr.seq d a b) := by
  have key (wd : Nat) (e0 : bitsOf wd 24 21 = 7) (e1 : bitsOf wd 20 14 = d.toNat) (e2 : bitsOf wd 13 7 = a.toNat) (e3 : bitsOf wd 6 0 = b.toNat) : decode02 wd = .ok (Instr.seq d a b) := by
    simp only [decode02, e0, e1, e2, e3, sreg_toNat, bind1]
  obtain ⟨lt, f_maj, f_fn, f_d, f_a, f_b⟩ := encA_fields 0x02 7 d.toNat a.toNat b.toNat
    (by decide) (by decide) (Nat.lt_of_lt_of_le d.isLt (by decide)) (Nat.lt_of_lt_of_le a.isLt (by decide)) (Nat.lt_of_lt_of_le b.isLt (by decide))
  exact ⟨lt, (decodeFields_02 _ f_maj).trans (key _ f_fn f_d f_a f_b)⟩
theorem seq (d : SReg) (a : SReg) (b : SReg) : Statement (Instr.seq d a b) := by
  intro hw w h
  have h := Option.some.inj h
  subst h
  exact readBack_of rfl (seq_word d a b).1 (seq_word d a b).2 hw
theorem sne_word (d : SReg) (a : SReg) (b : SReg) : encA 0x02 8 d.toNat a.toNat b.toNat < 2 ^ 32 ∧ decodeFields (encA 0x02 8 d.toNat a.toNat b.toNat) = .ok (Instr.sne d a b) := by
  have key (wd : Nat) (e0 : bitsOf wd 24 21 = 8) (e1 : bitsOf wd 20 14 = d.toNat) (e2 : bitsOf wd 13 7 = a.toNat) (e3 : bitsOf wd 6 0 = b.toNat) : decode02 wd = .ok (Instr.sne d a b) := by
    simp only [decode02, e0, e1, e2, e3, sreg_toNat, bind1]
  obtain ⟨lt, f_maj, f_fn, f_d, f_a, f_b⟩ := encA_fields 0x02 8 d.toNat a.toNat b.toNat
    (by decide) (by decide) (Nat.lt_of_lt_of_le d.isLt (by decide)) (Nat.lt_of_lt_of_le a.isLt (by decide)) (Nat.lt_of_lt_of_le b.isLt (by decide))
  exact ⟨lt, (decodeFields_02 _ f_maj).trans (key _ f_fn f_d f_a f_b)⟩
theorem sne (d : SReg) (a : SReg) (b : SReg) : Statement (Instr.sne d a b) := by
  intro hw w h
  have h := Option.some.inj h
  subst h
  exact readBack_of rfl (sne_word d a b).1 (sne_word d a b).2 hw
theorem slt_word (d : SReg) (a : SReg) (b : SReg) : encA 0x02 9 d.toNat a.toNat b.toNat < 2 ^ 32 ∧ decodeFields (encA 0x02 9 d.toNat a.toNat b.toNat) = .ok (Instr.slt d a b) := by
  have key (wd : Nat) (e0 : bitsOf wd 24 21 = 9) (e1 : bitsOf wd 20 14 = d.toNat) (e2 : bitsOf wd 13 7 = a.toNat) (e3 : bitsOf wd 6 0 = b.toNat) : decode02 wd = .ok (Instr.slt d a b) := by
    simp only [decode02, e0, e1, e2, e3, sreg_toNat, bind1]
  obtain ⟨lt, f_maj, f_fn, f_d, f_a, f_b⟩ := encA_fields 0x02 9 d.toNat a.toNat b.toNat
    (by decide) (by decide) (Nat.lt_of_lt_of_le d.isLt (by decide)) (Nat.lt_of_lt_of_le a.isLt (by decide)) (Nat.lt_of_lt_of_le b.isLt (by decide))
  exact ⟨lt, (decodeFields_02 _ f_maj).trans (key _ f_fn f_d f_a f_b)⟩
theorem slt (d : SReg) (a : SReg) (b : SReg) : Statement (Instr.slt d a b) := by
  intro hw w h
  have h := Option.some.inj h
  subst h
  exact readBack_of rfl (slt_word d a b).1 (slt_word d a b).2 hw
theorem sltn_word (d : SReg) (a : SReg) (b : SReg) : encA 0x02 10 d.toNat a.toNat b.toNat < 2 ^ 32 ∧ decodeFields (encA 0x02 10 d.toNat a.toNat b.toNat) = .ok (Instr.sltn d a b) := by
  have key (wd : Nat) (e0 : bitsOf wd 24 21 = 10) (e1 : bitsOf wd 20 14 = d.toNat) (e2 : bitsOf wd 13 7 = a.toNat) (e3 : bitsOf wd 6 0 = b.toNat) : decode02 wd = .ok (Instr.sltn d a b) := by
    simp only [decode02, e0, e1, e2, e3, sreg_toNat, bind1]
  obtain ⟨lt, f_maj, f_fn, f_d, f_a, f_b⟩ := encA_fields 0x02 10 d.toNat a.toNat b.toNat
    (by decide) (by decide) (Nat.lt_of_lt_of_le d.isLt (by decide)) (Nat.lt_of_lt_of_le a.isLt (by decide)) (Nat.lt_of_lt_of_le b.isLt (by decide))
  exact ⟨lt, (decodeFields_02 _ f_maj).trans (key _ f_fn f_d f_a f_b)⟩
theorem sltn (d : SReg) (a : SReg) (b : SReg) : Statement (Instr.sltn d a b) := by
  intro hw w h
  have h := Option.some.inj h
  subst h
  exact readBack_of rfl (sltn_word d a b).1 (sltn_word d a b).2 hw
theorem sel_word (d : SReg) (a : SReg) (b : SReg) : encA 0x02 11 d.toNat a.toNat b.toNat < 2 ^ 32 ∧ decodeFields (encA 0x02 11 d.toNat a.toNat b.toNat) = .ok (Instr.sel d a b) := by
  have key (wd : Nat) (e0 : bitsOf wd 24 21 = 11) (e1 : bitsOf wd 20 14 = d.toNat) (e2 : bitsOf wd 13 7 = a.toNat) (e3 : bitsOf wd 6 0 = b.toNat) : decode02 wd = .ok (Instr.sel d a b) := by
    simp only [decode02, e0, e1, e2, e3, sreg_toNat, bind1]
  obtain ⟨lt, f_maj, f_fn, f_d, f_a, f_b⟩ := encA_fields 0x02 11 d.toNat a.toNat b.toNat
    (by decide) (by decide) (Nat.lt_of_lt_of_le d.isLt (by decide)) (Nat.lt_of_lt_of_le a.isLt (by decide)) (Nat.lt_of_lt_of_le b.isLt (by decide))
  exact ⟨lt, (decodeFields_02 _ f_maj).trans (key _ f_fn f_d f_a f_b)⟩
theorem sel (d : SReg) (a : SReg) (b : SReg) : Statement (Instr.sel d a b) := by
  intro hw w h
  have h := Option.some.inj h
  subst h
  exact readBack_of rfl (sel_word d a b).1 (sel_word d a b).2 hw
theorem clz_word (d : SReg) (a : SReg) : encA 0x02 12 d.toNat a.toNat 0 < 2 ^ 32 ∧ decodeFields (encA 0x02 12 d.toNat a.toNat 0) = .ok (Instr.clz d a) := by
  have key (wd : Nat) (e0 : bitsOf wd 24 21 = 12) (e1 : bitsOf wd 20 14 = d.toNat) (e2 : bitsOf wd 13 7 = a.toNat) (e3 : bitsOf wd 6 0 = 0) : decode02 wd = .ok (Instr.clz d a) := by
    simp only [decode02, e0, e1, e2, e3, sreg_toNat, bind1, zeroed, if_true]
  obtain ⟨lt, f_maj, f_fn, f_d, f_a, f_b⟩ := encA_fields 0x02 12 d.toNat a.toNat 0
    (by decide) (by decide) (Nat.lt_of_lt_of_le d.isLt (by decide)) (Nat.lt_of_lt_of_le a.isLt (by decide)) (by decide)
  exact ⟨lt, (decodeFields_02 _ f_maj).trans (key _ f_fn f_d f_a f_b)⟩
theorem clz (d : SReg) (a : SReg) : Statement (Instr.clz d a) := by
  intro hw w h
  have h := Option.some.inj h
  subst h
  exact readBack_of rfl (clz_word d a).1 (clz_word d a).2 hw
theorem ctz_word (d : SReg) (a : SReg) : encA 0x02 13 d.toNat a.toNat 0 < 2 ^ 32 ∧ decodeFields (encA 0x02 13 d.toNat a.toNat 0) = .ok (Instr.ctz d a) := by
  have key (wd : Nat) (e0 : bitsOf wd 24 21 = 13) (e1 : bitsOf wd 20 14 = d.toNat) (e2 : bitsOf wd 13 7 = a.toNat) (e3 : bitsOf wd 6 0 = 0) : decode02 wd = .ok (Instr.ctz d a) := by
    simp only [decode02, e0, e1, e2, e3, sreg_toNat, bind1, zeroed, if_true]
  obtain ⟨lt, f_maj, f_fn, f_d, f_a, f_b⟩ := encA_fields 0x02 13 d.toNat a.toNat 0
    (by decide) (by decide) (Nat.lt_of_lt_of_le d.isLt (by decide)) (Nat.lt_of_lt_of_le a.isLt (by decide)) (by decide)
  exact ⟨lt, (decodeFields_02 _ f_maj).trans (key _ f_fn f_d f_a f_b)⟩
theorem ctz (d : SReg) (a : SReg) : Statement (Instr.ctz d a) := by
  intro hw w h
  have h := Option.some.inj h
  subst h
  exact readBack_of rfl (ctz_word d a).1 (ctz_word d a).2 hw
theorem popc_word (d : SReg) (a : SReg) : encA 0x02 14 d.toNat a.toNat 0 < 2 ^ 32 ∧ decodeFields (encA 0x02 14 d.toNat a.toNat 0) = .ok (Instr.popc d a) := by
  have key (wd : Nat) (e0 : bitsOf wd 24 21 = 14) (e1 : bitsOf wd 20 14 = d.toNat) (e2 : bitsOf wd 13 7 = a.toNat) (e3 : bitsOf wd 6 0 = 0) : decode02 wd = .ok (Instr.popc d a) := by
    simp only [decode02, e0, e1, e2, e3, sreg_toNat, bind1, zeroed, if_true]
  obtain ⟨lt, f_maj, f_fn, f_d, f_a, f_b⟩ := encA_fields 0x02 14 d.toNat a.toNat 0
    (by decide) (by decide) (Nat.lt_of_lt_of_le d.isLt (by decide)) (Nat.lt_of_lt_of_le a.isLt (by decide)) (by decide)
  exact ⟨lt, (decodeFields_02 _ f_maj).trans (key _ f_fn f_d f_a f_b)⟩
theorem popc (d : SReg) (a : SReg) : Statement (Instr.popc d a) := by
  intro hw w h
  have h := Option.some.inj h
  subst h
  exact readBack_of rfl (popc_word d a).1 (popc_word d a).2 hw
theorem brev_word (d : SReg) (a : SReg) : encA 0x02 15 d.toNat a.toNat 0 < 2 ^ 32 ∧ decodeFields (encA 0x02 15 d.toNat a.toNat 0) = .ok (Instr.brev d a) := by
  have key (wd : Nat) (e0 : bitsOf wd 24 21 = 15) (e1 : bitsOf wd 20 14 = d.toNat) (e2 : bitsOf wd 13 7 = a.toNat) (e3 : bitsOf wd 6 0 = 0) : decode02 wd = .ok (Instr.brev d a) := by
    simp only [decode02, e0, e1, e2, e3, sreg_toNat, bind1, zeroed, if_true]
  obtain ⟨lt, f_maj, f_fn, f_d, f_a, f_b⟩ := encA_fields 0x02 15 d.toNat a.toNat 0
    (by decide) (by decide) (Nat.lt_of_lt_of_le d.isLt (by decide)) (Nat.lt_of_lt_of_le a.isLt (by decide)) (by decide)
  exact ⟨lt, (decodeFields_02 _ f_maj).trans (key _ f_fn f_d f_a f_b)⟩
theorem brev (d : SReg) (a : SReg) : Statement (Instr.brev d a) := by
  intro hw w h
  have h := Option.some.inj h
  subst h
  exact readBack_of rfl (brev_word d a).1 (brev_word d a).2 hw
theorem bfx_word (d : SReg) (a : SReg) (pos : BitVec 6) (len : BitVec 5) : encB 0x03 d.toNat a.toNat (pos.toNat * 32 + len.toNat) < 2 ^ 32 ∧ decodeFields (encB 0x03 d.toNat a.toNat (pos.toNat * 32 + len.toNat)) = .ok (Instr.bfx d a pos len) := by
  have h_d := d.isLt
  have h_a := a.isLt
  have h_pos := pos.isLt
  have h_len := len.isLt
  have key (wd : Nat) (e0 : bitsOf wd 24 18 = d.toNat) (e1 : bitsOf wd 17 11 = a.toNat) (e2 : bitsOf wd 10 5 = pos.toNat) (e3 : bitsOf wd 4 0 = len.toNat) : decode03 wd = .ok (Instr.bfx d a pos len) := by
    simp only [decode03, e0, e1, e2, e3, sreg_toNat, ofNat_of_toNat, bind1]
  obtain ⟨lt, f_maj, f_d, f_a, _⟩ := encB_fields 0x03 d.toNat a.toNat (pos.toNat * 32 + len.toNat)
    (by decide) (Nat.lt_of_lt_of_le d.isLt (by decide)) (Nat.lt_of_lt_of_le a.isLt (by decide)) (by omega)
  exact ⟨lt, (decodeFields_03 _ f_maj).trans (key _ f_d f_a (by unfold bitsOf encB; norm_num; omega) (by unfold bitsOf encB; norm_num; omega))⟩
theorem bfx (d : SReg) (a : SReg) (pos : BitVec 6) (len : BitVec 5) : Statement (Instr.bfx d a pos len) := by
  intro hw w h
  have h := Option.some.inj h
  subst h
  exact readBack_of rfl (bfx_word d a pos len).1 (bfx_word d a pos len).2 hw
theorem bfi_word (d : SReg) (a : SReg) (pos : BitVec 6) (len : BitVec 5) : encB 0x04 d.toNat a.toNat (pos.toNat * 32 + len.toNat) < 2 ^ 32 ∧ decodeFields (encB 0x04 d.toNat a.toNat (pos.toNat * 32 + len.toNat)) = .ok (Instr.bfi d a pos len) := by
  have h_d := d.isLt
  have h_a := a.isLt
  have h_pos := pos.isLt
  have h_len := len.isLt
  have key (wd : Nat) (e0 : bitsOf wd 24 18 = d.toNat) (e1 : bitsOf wd 17 11 = a.toNat) (e2 : bitsOf wd 10 5 = pos.toNat) (e3 : bitsOf wd 4 0 = len.toNat) : decode04 wd = .ok (Instr.bfi d a pos len) := by
    simp only [decode04, e0, e1, e2, e3, sreg_toNat, ofNat_of_toNat, bind1]
  obtain ⟨lt, f_maj, f_d, f_a, _⟩ := encB_fields 0x04 d.toNat a.toNat (pos.toNat * 32 + len.toNat)
    (by decide) (Nat.lt_of_lt_of_le d.isLt (by decide)) (Nat.lt_of_lt_of_le a.isLt (by decide)) (by omega)
  exact ⟨lt, (decodeFields_04 _ f_maj).trans (key _ f_d f_a (by unfold bitsOf encB; norm_num; omega) (by unfold bitsOf encB; norm_num; omega))⟩
theorem bfi (d : SReg) (a : SReg) (pos : BitVec 6) (len : BitVec 5) : Statement (Instr.bfi d a pos len) := by
  intro hw w h
  have h := Option.some.inj h
  subst h
  exact readBack_of rfl (bfi_word d a pos len).1 (bfi_word d a pos len).2 hw
theorem addi_word (d : SReg) (a : SReg) (imm : BitVec 11) : encB 0x05 d.toNat a.toNat imm.toNat < 2 ^ 32 ∧ decodeFields (encB 0x05 d.toNat a.toNat imm.toNat) = .ok (Instr.addi d a imm) := by
  have key (wd : Nat) (e0 : bitsOf wd 24 18 = d.toNat) (e1 : bitsOf wd 17 11 = a.toNat) (e2 : bitsOf wd 10 0 = imm.toNat) : decode05 wd = .ok (Instr.addi d a imm) := by
    simp only [decode05, e0, e1, e2, sreg_toNat, ofNat_of_toNat, bind1]
  obtain ⟨lt, f_maj, f_d, f_a, f_imm⟩ := encB_fields 0x05 d.toNat a.toNat imm.toNat
    (by decide) (Nat.lt_of_lt_of_le d.isLt (by decide)) (Nat.lt_of_lt_of_le a.isLt (by decide)) imm.isLt
  exact ⟨lt, (decodeFields_05 _ f_maj).trans (key _ f_d f_a f_imm)⟩
theorem addi (d : SReg) (a : SReg) (imm : BitVec 11) : Statement (Instr.addi d a imm) := by
  intro hw w h
  have h := Option.some.inj h
  subst h
  exact readBack_of rfl (addi_word d a imm).1 (addi_word d a imm).2 hw
theorem andi_word (d : SReg) (a : SReg) (imm : BitVec 11) : encB 0x06 d.toNat a.toNat imm.toNat < 2 ^ 32 ∧ decodeFields (encB 0x06 d.toNat a.toNat imm.toNat) = .ok (Instr.andi d a imm) := by
  have key (wd : Nat) (e0 : bitsOf wd 24 18 = d.toNat) (e1 : bitsOf wd 17 11 = a.toNat) (e2 : bitsOf wd 10 0 = imm.toNat) : decode06 wd = .ok (Instr.andi d a imm) := by
    simp only [decode06, e0, e1, e2, sreg_toNat, ofNat_of_toNat, bind1]
  obtain ⟨lt, f_maj, f_d, f_a, f_imm⟩ := encB_fields 0x06 d.toNat a.toNat imm.toNat
    (by decide) (Nat.lt_of_lt_of_le d.isLt (by decide)) (Nat.lt_of_lt_of_le a.isLt (by decide)) imm.isLt
  exact ⟨lt, (decodeFields_06 _ f_maj).trans (key _ f_d f_a f_imm)⟩
theorem andi (d : SReg) (a : SReg) (imm : BitVec 11) : Statement (Instr.andi d a imm) := by
  intro hw w h
  have h := Option.some.inj h
  subst h
  exact readBack_of rfl (andi_word d a imm).1 (andi_word d a imm).2 hw
theorem ori_word (d : SReg) (a : SReg) (imm : BitVec 11) : encB 0x07 d.toNat a.toNat imm.toNat < 2 ^ 32 ∧ decodeFields (encB 0x07 d.toNat a.toNat imm.toNat) = .ok (Instr.ori d a imm) := by
  have key (wd : Nat) (e0 : bitsOf wd 24 18 = d.toNat) (e1 : bitsOf wd 17 11 = a.toNat) (e2 : bitsOf wd 10 0 = imm.toNat) : decode07 wd = .ok (Instr.ori d a imm) := by
    simp only [decode07, e0, e1, e2, sreg_toNat, ofNat_of_toNat, bind1]
  obtain ⟨lt, f_maj, f_d, f_a, f_imm⟩ := encB_fields 0x07 d.toNat a.toNat imm.toNat
    (by decide) (Nat.lt_of_lt_of_le d.isLt (by decide)) (Nat.lt_of_lt_of_le a.isLt (by decide)) imm.isLt
  exact ⟨lt, (decodeFields_07 _ f_maj).trans (key _ f_d f_a f_imm)⟩
theorem ori (d : SReg) (a : SReg) (imm : BitVec 11) : Statement (Instr.ori d a imm) := by
  intro hw w h
  have h := Option.some.inj h
  subst h
  exact readBack_of rfl (ori_word d a imm).1 (ori_word d a imm).2 hw
theorem xori_word (d : SReg) (a : SReg) (imm : BitVec 11) : encB 0x08 d.toNat a.toNat imm.toNat < 2 ^ 32 ∧ decodeFields (encB 0x08 d.toNat a.toNat imm.toNat) = .ok (Instr.xori d a imm) := by
  have key (wd : Nat) (e0 : bitsOf wd 24 18 = d.toNat) (e1 : bitsOf wd 17 11 = a.toNat) (e2 : bitsOf wd 10 0 = imm.toNat) : decode08 wd = .ok (Instr.xori d a imm) := by
    simp only [decode08, e0, e1, e2, sreg_toNat, ofNat_of_toNat, bind1]
  obtain ⟨lt, f_maj, f_d, f_a, f_imm⟩ := encB_fields 0x08 d.toNat a.toNat imm.toNat
    (by decide) (Nat.lt_of_lt_of_le d.isLt (by decide)) (Nat.lt_of_lt_of_le a.isLt (by decide)) imm.isLt
  exact ⟨lt, (decodeFields_08 _ f_maj).trans (key _ f_d f_a f_imm)⟩
theorem xori (d : SReg) (a : SReg) (imm : BitVec 11) : Statement (Instr.xori d a imm) := by
  intro hw w h
  have h := Option.some.inj h
  subst h
  exact readBack_of rfl (xori_word d a imm).1 (xori_word d a imm).2 hw
theorem shli_word (d : SReg) (a : SReg) (n : BitVec 6) : encB 0x09 d.toNat a.toNat n.toNat < 2 ^ 32 ∧ decodeFields (encB 0x09 d.toNat a.toNat n.toNat) = .ok (Instr.shli d a n) := by
  have key (wd : Nat) (e0 : bitsOf wd 24 18 = d.toNat) (e1 : bitsOf wd 17 11 = a.toNat) (e2 : bitsOf wd 10 6 = 0) (e3 : bitsOf wd 5 0 = n.toNat) : decode09 wd = .ok (Instr.shli d a n) := by
    simp only [decode09, e0, e1, e2, e3, sreg_toNat, ofNat_of_toNat, bind1, zeroed, if_true]
  obtain ⟨lt, f_maj, f_d, f_a, _⟩ := encB_fields 0x09 d.toNat a.toNat n.toNat
    (by decide) (Nat.lt_of_lt_of_le d.isLt (by decide)) (Nat.lt_of_lt_of_le a.isLt (by decide)) (Nat.lt_of_lt_of_le n.isLt (by decide))
  exact ⟨lt, (decodeFields_09 _ f_maj).trans (key _ f_d f_a (by unfold bitsOf encB; norm_num; omega) (by unfold bitsOf encB; norm_num; omega))⟩
theorem shli (d : SReg) (a : SReg) (n : BitVec 6) : Statement (Instr.shli d a n) := by
  intro hw w h
  have h := Option.some.inj h
  subst h
  exact readBack_of rfl (shli_word d a n).1 (shli_word d a n).2 hw
theorem shri_word (d : SReg) (a : SReg) (n : BitVec 6) : encB 0x0A d.toNat a.toNat n.toNat < 2 ^ 32 ∧ decodeFields (encB 0x0A d.toNat a.toNat n.toNat) = .ok (Instr.shri d a n) := by
  have key (wd : Nat) (e0 : bitsOf wd 24 18 = d.toNat) (e1 : bitsOf wd 17 11 = a.toNat) (e2 : bitsOf wd 10 6 = 0) (e3 : bitsOf wd 5 0 = n.toNat) : decode0A wd = .ok (Instr.shri d a n) := by
    simp only [decode0A, e0, e1, e2, e3, sreg_toNat, ofNat_of_toNat, bind1, zeroed, if_true]
  obtain ⟨lt, f_maj, f_d, f_a, _⟩ := encB_fields 0x0A d.toNat a.toNat n.toNat
    (by decide) (Nat.lt_of_lt_of_le d.isLt (by decide)) (Nat.lt_of_lt_of_le a.isLt (by decide)) (Nat.lt_of_lt_of_le n.isLt (by decide))
  exact ⟨lt, (decodeFields_0A _ f_maj).trans (key _ f_d f_a (by unfold bitsOf encB; norm_num; omega) (by unfold bitsOf encB; norm_num; omega))⟩
theorem shri (d : SReg) (a : SReg) (n : BitVec 6) : Statement (Instr.shri d a n) := by
  intro hw w h
  have h := Option.some.inj h
  subst h
  exact readBack_of rfl (shri_word d a n).1 (shri_word d a n).2 hw
theorem sari_word (d : SReg) (a : SReg) (n : BitVec 6) : encB 0x0B d.toNat a.toNat n.toNat < 2 ^ 32 ∧ decodeFields (encB 0x0B d.toNat a.toNat n.toNat) = .ok (Instr.sari d a n) := by
  have key (wd : Nat) (e0 : bitsOf wd 24 18 = d.toNat) (e1 : bitsOf wd 17 11 = a.toNat) (e2 : bitsOf wd 10 6 = 0) (e3 : bitsOf wd 5 0 = n.toNat) : decode0B wd = .ok (Instr.sari d a n) := by
    simp only [decode0B, e0, e1, e2, e3, sreg_toNat, ofNat_of_toNat, bind1, zeroed, if_true]
  obtain ⟨lt, f_maj, f_d, f_a, _⟩ := encB_fields 0x0B d.toNat a.toNat n.toNat
    (by decide) (Nat.lt_of_lt_of_le d.isLt (by decide)) (Nat.lt_of_lt_of_le a.isLt (by decide)) (Nat.lt_of_lt_of_le n.isLt (by decide))
  exact ⟨lt, (decodeFields_0B _ f_maj).trans (key _ f_d f_a (by unfold bitsOf encB; norm_num; omega) (by unfold bitsOf encB; norm_num; omega))⟩
theorem sari (d : SReg) (a : SReg) (n : BitVec 6) : Statement (Instr.sari d a n) := by
  intro hw w h
  have h := Option.some.inj h
  subst h
  exact readBack_of rfl (sari_word d a n).1 (sari_word d a n).2 hw
theorem slti_word (d : SReg) (a : SReg) (imm : BitVec 11) : encB 0x0C d.toNat a.toNat imm.toNat < 2 ^ 32 ∧ decodeFields (encB 0x0C d.toNat a.toNat imm.toNat) = .ok (Instr.slti d a imm) := by
  have key (wd : Nat) (e0 : bitsOf wd 24 18 = d.toNat) (e1 : bitsOf wd 17 11 = a.toNat) (e2 : bitsOf wd 10 0 = imm.toNat) : decode0C wd = .ok (Instr.slti d a imm) := by
    simp only [decode0C, e0, e1, e2, sreg_toNat, ofNat_of_toNat, bind1]
  obtain ⟨lt, f_maj, f_d, f_a, f_imm⟩ := encB_fields 0x0C d.toNat a.toNat imm.toNat
    (by decide) (Nat.lt_of_lt_of_le d.isLt (by decide)) (Nat.lt_of_lt_of_le a.isLt (by decide)) imm.isLt
  exact ⟨lt, (decodeFields_0C _ f_maj).trans (key _ f_d f_a f_imm)⟩
theorem slti (d : SReg) (a : SReg) (imm : BitVec 11) : Statement (Instr.slti d a imm) := by
  intro hw w h
  have h := Option.some.inj h
  subst h
  exact readBack_of rfl (slti_word d a imm).1 (slti_word d a imm).2 hw
theorem movi_word (d : SReg) (imm : BitVec 18) : encC 0x0D d.toNat imm.toNat < 2 ^ 32 ∧ decodeFields (encC 0x0D d.toNat imm.toNat) = .ok (Instr.movi d imm) := by
  have key (wd : Nat) (e0 : bitsOf wd 24 18 = d.toNat) (e1 : bitsOf wd 17 0 = imm.toNat) : decode0D wd = .ok (Instr.movi d imm) := by
    simp only [decode0D, e0, e1, sreg_toNat, ofNat_of_toNat, bind1]
  obtain ⟨lt, f_maj, f_d, f_imm⟩ := encC_fields 0x0D d.toNat imm.toNat
    (by decide) (Nat.lt_of_lt_of_le d.isLt (by decide)) imm.isLt
  exact ⟨lt, (decodeFields_0D _ f_maj).trans (key _ f_d f_imm)⟩
theorem movi (d : SReg) (imm : BitVec 18) : Statement (Instr.movi d imm) := by
  intro hw w h
  have h := Option.some.inj h
  subst h
  exact readBack_of rfl (movi_word d imm).1 (movi_word d imm).2 hw
theorem addpc_word (d : SReg) (imm : BitVec 18) : encC 0x0E d.toNat imm.toNat < 2 ^ 32 ∧ decodeFields (encC 0x0E d.toNat imm.toNat) = .ok (Instr.addpc d imm) := by
  have key (wd : Nat) (e0 : bitsOf wd 24 18 = d.toNat) (e1 : bitsOf wd 17 0 = imm.toNat) : decode0E wd = .ok (Instr.addpc d imm) := by
    simp only [decode0E, e0, e1, sreg_toNat, ofNat_of_toNat, bind1]
  obtain ⟨lt, f_maj, f_d, f_imm⟩ := encC_fields 0x0E d.toNat imm.toNat
    (by decide) (Nat.lt_of_lt_of_le d.isLt (by decide)) imm.isLt
  exact ⟨lt, (decodeFields_0E _ f_maj).trans (key _ f_d f_imm)⟩
theorem addpc (d : SReg) (imm : BitVec 18) : Statement (Instr.addpc d imm) := by
  intro hw w h
  have h := Option.some.inj h
  subst h
  exact readBack_of rfl (addpc_word d imm).1 (addpc_word d imm).2 hw
theorem sfaddF64_word (d : SReg) (a : SReg) (b : SReg) : encA 0x0F 0 d.toNat a.toNat b.toNat < 2 ^ 32 ∧ decodeFields (encA 0x0F 0 d.toNat a.toNat b.toNat) = .ok (Instr.sfaddF64 d a b) := by
  have key (wd : Nat) (e0 : bitsOf wd 24 21 = 0) (e1 : bitsOf wd 20 14 = d.toNat) (e2 : bitsOf wd 13 7 = a.toNat) (e3 : bitsOf wd 6 0 = b.toNat) : decode0F wd = .ok (Instr.sfaddF64 d a b) := by
    simp only [decode0F, e0, e1, e2, e3, sreg_toNat, bind1]
  obtain ⟨lt, f_maj, f_fn, f_d, f_a, f_b⟩ := encA_fields 0x0F 0 d.toNat a.toNat b.toNat
    (by decide) (by decide) (Nat.lt_of_lt_of_le d.isLt (by decide)) (Nat.lt_of_lt_of_le a.isLt (by decide)) (Nat.lt_of_lt_of_le b.isLt (by decide))
  exact ⟨lt, (decodeFields_0F _ f_maj).trans (key _ f_fn f_d f_a f_b)⟩
theorem sfaddF64 (d : SReg) (a : SReg) (b : SReg) : Statement (Instr.sfaddF64 d a b) := by
  intro hw w h
  have h := Option.some.inj h
  subst h
  exact readBack_of rfl (sfaddF64_word d a b).1 (sfaddF64_word d a b).2 hw
theorem sfsubF64_word (d : SReg) (a : SReg) (b : SReg) : encA 0x0F 1 d.toNat a.toNat b.toNat < 2 ^ 32 ∧ decodeFields (encA 0x0F 1 d.toNat a.toNat b.toNat) = .ok (Instr.sfsubF64 d a b) := by
  have key (wd : Nat) (e0 : bitsOf wd 24 21 = 1) (e1 : bitsOf wd 20 14 = d.toNat) (e2 : bitsOf wd 13 7 = a.toNat) (e3 : bitsOf wd 6 0 = b.toNat) : decode0F wd = .ok (Instr.sfsubF64 d a b) := by
    simp only [decode0F, e0, e1, e2, e3, sreg_toNat, bind1]
  obtain ⟨lt, f_maj, f_fn, f_d, f_a, f_b⟩ := encA_fields 0x0F 1 d.toNat a.toNat b.toNat
    (by decide) (by decide) (Nat.lt_of_lt_of_le d.isLt (by decide)) (Nat.lt_of_lt_of_le a.isLt (by decide)) (Nat.lt_of_lt_of_le b.isLt (by decide))
  exact ⟨lt, (decodeFields_0F _ f_maj).trans (key _ f_fn f_d f_a f_b)⟩
theorem sfsubF64 (d : SReg) (a : SReg) (b : SReg) : Statement (Instr.sfsubF64 d a b) := by
  intro hw w h
  have h := Option.some.inj h
  subst h
  exact readBack_of rfl (sfsubF64_word d a b).1 (sfsubF64_word d a b).2 hw
theorem sfmulF64_word (d : SReg) (a : SReg) (b : SReg) : encA 0x0F 2 d.toNat a.toNat b.toNat < 2 ^ 32 ∧ decodeFields (encA 0x0F 2 d.toNat a.toNat b.toNat) = .ok (Instr.sfmulF64 d a b) := by
  have key (wd : Nat) (e0 : bitsOf wd 24 21 = 2) (e1 : bitsOf wd 20 14 = d.toNat) (e2 : bitsOf wd 13 7 = a.toNat) (e3 : bitsOf wd 6 0 = b.toNat) : decode0F wd = .ok (Instr.sfmulF64 d a b) := by
    simp only [decode0F, e0, e1, e2, e3, sreg_toNat, bind1]
  obtain ⟨lt, f_maj, f_fn, f_d, f_a, f_b⟩ := encA_fields 0x0F 2 d.toNat a.toNat b.toNat
    (by decide) (by decide) (Nat.lt_of_lt_of_le d.isLt (by decide)) (Nat.lt_of_lt_of_le a.isLt (by decide)) (Nat.lt_of_lt_of_le b.isLt (by decide))
  exact ⟨lt, (decodeFields_0F _ f_maj).trans (key _ f_fn f_d f_a f_b)⟩
theorem sfmulF64 (d : SReg) (a : SReg) (b : SReg) : Statement (Instr.sfmulF64 d a b) := by
  intro hw w h
  have h := Option.some.inj h
  subst h
  exact readBack_of rfl (sfmulF64_word d a b).1 (sfmulF64_word d a b).2 hw
theorem sffmaF64_word (d : SReg) (a : SReg) (b : SReg) : encA 0x0F 3 d.toNat a.toNat b.toNat < 2 ^ 32 ∧ decodeFields (encA 0x0F 3 d.toNat a.toNat b.toNat) = .ok (Instr.sffmaF64 d a b) := by
  have key (wd : Nat) (e0 : bitsOf wd 24 21 = 3) (e1 : bitsOf wd 20 14 = d.toNat) (e2 : bitsOf wd 13 7 = a.toNat) (e3 : bitsOf wd 6 0 = b.toNat) : decode0F wd = .ok (Instr.sffmaF64 d a b) := by
    simp only [decode0F, e0, e1, e2, e3, sreg_toNat, bind1]
  obtain ⟨lt, f_maj, f_fn, f_d, f_a, f_b⟩ := encA_fields 0x0F 3 d.toNat a.toNat b.toNat
    (by decide) (by decide) (Nat.lt_of_lt_of_le d.isLt (by decide)) (Nat.lt_of_lt_of_le a.isLt (by decide)) (Nat.lt_of_lt_of_le b.isLt (by decide))
  exact ⟨lt, (decodeFields_0F _ f_maj).trans (key _ f_fn f_d f_a f_b)⟩
theorem sffmaF64 (d : SReg) (a : SReg) (b : SReg) : Statement (Instr.sffmaF64 d a b) := by
  intro hw w h
  have h := Option.some.inj h
  subst h
  exact readBack_of rfl (sffmaF64_word d a b).1 (sffmaF64_word d a b).2 hw
theorem sfdivF64_word (d : SReg) (a : SReg) (b : SReg) : encA 0x0F 4 d.toNat a.toNat b.toNat < 2 ^ 32 ∧ decodeFields (encA 0x0F 4 d.toNat a.toNat b.toNat) = .ok (Instr.sfdivF64 d a b) := by
  have key (wd : Nat) (e0 : bitsOf wd 24 21 = 4) (e1 : bitsOf wd 20 14 = d.toNat) (e2 : bitsOf wd 13 7 = a.toNat) (e3 : bitsOf wd 6 0 = b.toNat) : decode0F wd = .ok (Instr.sfdivF64 d a b) := by
    simp only [decode0F, e0, e1, e2, e3, sreg_toNat, bind1]
  obtain ⟨lt, f_maj, f_fn, f_d, f_a, f_b⟩ := encA_fields 0x0F 4 d.toNat a.toNat b.toNat
    (by decide) (by decide) (Nat.lt_of_lt_of_le d.isLt (by decide)) (Nat.lt_of_lt_of_le a.isLt (by decide)) (Nat.lt_of_lt_of_le b.isLt (by decide))
  exact ⟨lt, (decodeFields_0F _ f_maj).trans (key _ f_fn f_d f_a f_b)⟩
theorem sfdivF64 (d : SReg) (a : SReg) (b : SReg) : Statement (Instr.sfdivF64 d a b) := by
  intro hw w h
  have h := Option.some.inj h
  subst h
  exact readBack_of rfl (sfdivF64_word d a b).1 (sfdivF64_word d a b).2 hw
theorem sfcmpF64_word (d : SReg) (a : SReg) (b : SReg) : encA 0x0F 5 d.toNat a.toNat b.toNat < 2 ^ 32 ∧ decodeFields (encA 0x0F 5 d.toNat a.toNat b.toNat) = .ok (Instr.sfcmpF64 d a b) := by
  have key (wd : Nat) (e0 : bitsOf wd 24 21 = 5) (e1 : bitsOf wd 20 14 = d.toNat) (e2 : bitsOf wd 13 7 = a.toNat) (e3 : bitsOf wd 6 0 = b.toNat) : decode0F wd = .ok (Instr.sfcmpF64 d a b) := by
    simp only [decode0F, e0, e1, e2, e3, sreg_toNat, bind1]
  obtain ⟨lt, f_maj, f_fn, f_d, f_a, f_b⟩ := encA_fields 0x0F 5 d.toNat a.toNat b.toNat
    (by decide) (by decide) (Nat.lt_of_lt_of_le d.isLt (by decide)) (Nat.lt_of_lt_of_le a.isLt (by decide)) (Nat.lt_of_lt_of_le b.isLt (by decide))
  exact ⟨lt, (decodeFields_0F _ f_maj).trans (key _ f_fn f_d f_a f_b)⟩
theorem sfcmpF64 (d : SReg) (a : SReg) (b : SReg) : Statement (Instr.sfcmpF64 d a b) := by
  intro hw w h
  have h := Option.some.inj h
  subst h
  exact readBack_of rfl (sfcmpF64_word d a b).1 (sfcmpF64_word d a b).2 hw
theorem sfcvtF64_word (d : SReg) (a : SReg) (b : SReg) : encA 0x0F 6 d.toNat a.toNat b.toNat < 2 ^ 32 ∧ decodeFields (encA 0x0F 6 d.toNat a.toNat b.toNat) = .ok (Instr.sfcvtF64 d a b) := by
  have key (wd : Nat) (e0 : bitsOf wd 24 21 = 6) (e1 : bitsOf wd 20 14 = d.toNat) (e2 : bitsOf wd 13 7 = a.toNat) (e3 : bitsOf wd 6 0 = b.toNat) : decode0F wd = .ok (Instr.sfcvtF64 d a b) := by
    simp only [decode0F, e0, e1, e2, e3, sreg_toNat, bind1]
  obtain ⟨lt, f_maj, f_fn, f_d, f_a, f_b⟩ := encA_fields 0x0F 6 d.toNat a.toNat b.toNat
    (by decide) (by decide) (Nat.lt_of_lt_of_le d.isLt (by decide)) (Nat.lt_of_lt_of_le a.isLt (by decide)) (Nat.lt_of_lt_of_le b.isLt (by decide))
  exact ⟨lt, (decodeFields_0F _ f_maj).trans (key _ f_fn f_d f_a f_b)⟩
theorem sfcvtF64 (d : SReg) (a : SReg) (b : SReg) : Statement (Instr.sfcvtF64 d a b) := by
  intro hw w h
  have h := Option.some.inj h
  subst h
  exact readBack_of rfl (sfcvtF64_word d a b).1 (sfcvtF64_word d a b).2 hw
theorem sfaddF32_word (d : SReg) (a : SReg) (b : SReg) : encA 0x0F 8 d.toNat a.toNat b.toNat < 2 ^ 32 ∧ decodeFields (encA 0x0F 8 d.toNat a.toNat b.toNat) = .ok (Instr.sfaddF32 d a b) := by
  have key (wd : Nat) (e0 : bitsOf wd 24 21 = 8) (e1 : bitsOf wd 20 14 = d.toNat) (e2 : bitsOf wd 13 7 = a.toNat) (e3 : bitsOf wd 6 0 = b.toNat) : decode0F wd = .ok (Instr.sfaddF32 d a b) := by
    simp only [decode0F, e0, e1, e2, e3, sreg_toNat, bind1]
  obtain ⟨lt, f_maj, f_fn, f_d, f_a, f_b⟩ := encA_fields 0x0F 8 d.toNat a.toNat b.toNat
    (by decide) (by decide) (Nat.lt_of_lt_of_le d.isLt (by decide)) (Nat.lt_of_lt_of_le a.isLt (by decide)) (Nat.lt_of_lt_of_le b.isLt (by decide))
  exact ⟨lt, (decodeFields_0F _ f_maj).trans (key _ f_fn f_d f_a f_b)⟩
theorem sfaddF32 (d : SReg) (a : SReg) (b : SReg) : Statement (Instr.sfaddF32 d a b) := by
  intro hw w h
  have h := Option.some.inj h
  subst h
  exact readBack_of rfl (sfaddF32_word d a b).1 (sfaddF32_word d a b).2 hw
theorem sfsubF32_word (d : SReg) (a : SReg) (b : SReg) : encA 0x0F 9 d.toNat a.toNat b.toNat < 2 ^ 32 ∧ decodeFields (encA 0x0F 9 d.toNat a.toNat b.toNat) = .ok (Instr.sfsubF32 d a b) := by
  have key (wd : Nat) (e0 : bitsOf wd 24 21 = 9) (e1 : bitsOf wd 20 14 = d.toNat) (e2 : bitsOf wd 13 7 = a.toNat) (e3 : bitsOf wd 6 0 = b.toNat) : decode0F wd = .ok (Instr.sfsubF32 d a b) := by
    simp only [decode0F, e0, e1, e2, e3, sreg_toNat, bind1]
  obtain ⟨lt, f_maj, f_fn, f_d, f_a, f_b⟩ := encA_fields 0x0F 9 d.toNat a.toNat b.toNat
    (by decide) (by decide) (Nat.lt_of_lt_of_le d.isLt (by decide)) (Nat.lt_of_lt_of_le a.isLt (by decide)) (Nat.lt_of_lt_of_le b.isLt (by decide))
  exact ⟨lt, (decodeFields_0F _ f_maj).trans (key _ f_fn f_d f_a f_b)⟩
theorem sfsubF32 (d : SReg) (a : SReg) (b : SReg) : Statement (Instr.sfsubF32 d a b) := by
  intro hw w h
  have h := Option.some.inj h
  subst h
  exact readBack_of rfl (sfsubF32_word d a b).1 (sfsubF32_word d a b).2 hw
theorem sfmulF32_word (d : SReg) (a : SReg) (b : SReg) : encA 0x0F 10 d.toNat a.toNat b.toNat < 2 ^ 32 ∧ decodeFields (encA 0x0F 10 d.toNat a.toNat b.toNat) = .ok (Instr.sfmulF32 d a b) := by
  have key (wd : Nat) (e0 : bitsOf wd 24 21 = 10) (e1 : bitsOf wd 20 14 = d.toNat) (e2 : bitsOf wd 13 7 = a.toNat) (e3 : bitsOf wd 6 0 = b.toNat) : decode0F wd = .ok (Instr.sfmulF32 d a b) := by
    simp only [decode0F, e0, e1, e2, e3, sreg_toNat, bind1]
  obtain ⟨lt, f_maj, f_fn, f_d, f_a, f_b⟩ := encA_fields 0x0F 10 d.toNat a.toNat b.toNat
    (by decide) (by decide) (Nat.lt_of_lt_of_le d.isLt (by decide)) (Nat.lt_of_lt_of_le a.isLt (by decide)) (Nat.lt_of_lt_of_le b.isLt (by decide))
  exact ⟨lt, (decodeFields_0F _ f_maj).trans (key _ f_fn f_d f_a f_b)⟩
theorem sfmulF32 (d : SReg) (a : SReg) (b : SReg) : Statement (Instr.sfmulF32 d a b) := by
  intro hw w h
  have h := Option.some.inj h
  subst h
  exact readBack_of rfl (sfmulF32_word d a b).1 (sfmulF32_word d a b).2 hw
theorem sffmaF32_word (d : SReg) (a : SReg) (b : SReg) : encA 0x0F 11 d.toNat a.toNat b.toNat < 2 ^ 32 ∧ decodeFields (encA 0x0F 11 d.toNat a.toNat b.toNat) = .ok (Instr.sffmaF32 d a b) := by
  have key (wd : Nat) (e0 : bitsOf wd 24 21 = 11) (e1 : bitsOf wd 20 14 = d.toNat) (e2 : bitsOf wd 13 7 = a.toNat) (e3 : bitsOf wd 6 0 = b.toNat) : decode0F wd = .ok (Instr.sffmaF32 d a b) := by
    simp only [decode0F, e0, e1, e2, e3, sreg_toNat, bind1]
  obtain ⟨lt, f_maj, f_fn, f_d, f_a, f_b⟩ := encA_fields 0x0F 11 d.toNat a.toNat b.toNat
    (by decide) (by decide) (Nat.lt_of_lt_of_le d.isLt (by decide)) (Nat.lt_of_lt_of_le a.isLt (by decide)) (Nat.lt_of_lt_of_le b.isLt (by decide))
  exact ⟨lt, (decodeFields_0F _ f_maj).trans (key _ f_fn f_d f_a f_b)⟩
theorem sffmaF32 (d : SReg) (a : SReg) (b : SReg) : Statement (Instr.sffmaF32 d a b) := by
  intro hw w h
  have h := Option.some.inj h
  subst h
  exact readBack_of rfl (sffmaF32_word d a b).1 (sffmaF32_word d a b).2 hw
theorem sfdivF32_word (d : SReg) (a : SReg) (b : SReg) : encA 0x0F 12 d.toNat a.toNat b.toNat < 2 ^ 32 ∧ decodeFields (encA 0x0F 12 d.toNat a.toNat b.toNat) = .ok (Instr.sfdivF32 d a b) := by
  have key (wd : Nat) (e0 : bitsOf wd 24 21 = 12) (e1 : bitsOf wd 20 14 = d.toNat) (e2 : bitsOf wd 13 7 = a.toNat) (e3 : bitsOf wd 6 0 = b.toNat) : decode0F wd = .ok (Instr.sfdivF32 d a b) := by
    simp only [decode0F, e0, e1, e2, e3, sreg_toNat, bind1]
  obtain ⟨lt, f_maj, f_fn, f_d, f_a, f_b⟩ := encA_fields 0x0F 12 d.toNat a.toNat b.toNat
    (by decide) (by decide) (Nat.lt_of_lt_of_le d.isLt (by decide)) (Nat.lt_of_lt_of_le a.isLt (by decide)) (Nat.lt_of_lt_of_le b.isLt (by decide))
  exact ⟨lt, (decodeFields_0F _ f_maj).trans (key _ f_fn f_d f_a f_b)⟩
theorem sfdivF32 (d : SReg) (a : SReg) (b : SReg) : Statement (Instr.sfdivF32 d a b) := by
  intro hw w h
  have h := Option.some.inj h
  subst h
  exact readBack_of rfl (sfdivF32_word d a b).1 (sfdivF32_word d a b).2 hw
theorem sfcmpF32_word (d : SReg) (a : SReg) (b : SReg) : encA 0x0F 13 d.toNat a.toNat b.toNat < 2 ^ 32 ∧ decodeFields (encA 0x0F 13 d.toNat a.toNat b.toNat) = .ok (Instr.sfcmpF32 d a b) := by
  have key (wd : Nat) (e0 : bitsOf wd 24 21 = 13) (e1 : bitsOf wd 20 14 = d.toNat) (e2 : bitsOf wd 13 7 = a.toNat) (e3 : bitsOf wd 6 0 = b.toNat) : decode0F wd = .ok (Instr.sfcmpF32 d a b) := by
    simp only [decode0F, e0, e1, e2, e3, sreg_toNat, bind1]
  obtain ⟨lt, f_maj, f_fn, f_d, f_a, f_b⟩ := encA_fields 0x0F 13 d.toNat a.toNat b.toNat
    (by decide) (by decide) (Nat.lt_of_lt_of_le d.isLt (by decide)) (Nat.lt_of_lt_of_le a.isLt (by decide)) (Nat.lt_of_lt_of_le b.isLt (by decide))
  exact ⟨lt, (decodeFields_0F _ f_maj).trans (key _ f_fn f_d f_a f_b)⟩
theorem sfcmpF32 (d : SReg) (a : SReg) (b : SReg) : Statement (Instr.sfcmpF32 d a b) := by
  intro hw w h
  have h := Option.some.inj h
  subst h
  exact readBack_of rfl (sfcmpF32_word d a b).1 (sfcmpF32_word d a b).2 hw
theorem sfcvtF32_word (d : SReg) (a : SReg) (b : SReg) : encA 0x0F 14 d.toNat a.toNat b.toNat < 2 ^ 32 ∧ decodeFields (encA 0x0F 14 d.toNat a.toNat b.toNat) = .ok (Instr.sfcvtF32 d a b) := by
  have key (wd : Nat) (e0 : bitsOf wd 24 21 = 14) (e1 : bitsOf wd 20 14 = d.toNat) (e2 : bitsOf wd 13 7 = a.toNat) (e3 : bitsOf wd 6 0 = b.toNat) : decode0F wd = .ok (Instr.sfcvtF32 d a b) := by
    simp only [decode0F, e0, e1, e2, e3, sreg_toNat, bind1]
  obtain ⟨lt, f_maj, f_fn, f_d, f_a, f_b⟩ := encA_fields 0x0F 14 d.toNat a.toNat b.toNat
    (by decide) (by decide) (Nat.lt_of_lt_of_le d.isLt (by decide)) (Nat.lt_of_lt_of_le a.isLt (by decide)) (Nat.lt_of_lt_of_le b.isLt (by decide))
  exact ⟨lt, (decodeFields_0F _ f_maj).trans (key _ f_fn f_d f_a f_b)⟩
theorem sfcvtF32 (d : SReg) (a : SReg) (b : SReg) : Statement (Instr.sfcvtF32 d a b) := by
  intro hw w h
  have h := Option.some.inj h
  subst h
  exact readBack_of rfl (sfcvtF32_word d a b).1 (sfcvtF32_word d a b).2 hw
theorem ldb_word (d : SReg) (sa : SReg) (nd : BitVec 4) (imm : BitVec 8) : encMS 0x10 d.toNat sa.toNat nd.toNat imm.toNat < 2 ^ 32 ∧ decodeFields (encMS 0x10 d.toNat sa.toNat nd.toNat imm.toNat) = .ok (Instr.ldb d sa nd imm) := by
  have key (wd : Nat) (e0 : bitsOf wd 24 18 = d.toNat) (e1 : bitsOf wd 17 12 = sa.toNat) (e2 : bitsOf wd 11 8 = nd.toNat) (e3 : bitsOf wd 7 0 = imm.toNat) : decode10 wd = .ok (Instr.ldb d sa nd imm) := by
    simp only [decode10, e0, e1, e2, e3, sreg_toNat, ofNat_of_toNat, bind1]
  obtain ⟨lt, f_maj, f_d, f_sa, f_nd, f_imm⟩ := encMS_fields 0x10 d.toNat sa.toNat nd.toNat imm.toNat
    (by decide) (Nat.lt_of_lt_of_le d.isLt (by decide)) sa.isLt nd.isLt imm.isLt
  exact ⟨lt, (decodeFields_10 _ f_maj).trans (key _ f_d f_sa f_nd f_imm)⟩
theorem ldb (d : SReg) (sa : SReg) (nd : BitVec 4) (imm : BitVec 8) : Statement (Instr.ldb d sa nd imm) := by
  intro hw w h
  have h := Option.some.inj h
  subst h
  exact readBack_of rfl (ldb_word d sa nd imm).1 (ldb_word d sa nd imm).2 hw
theorem ldbs_word (d : SReg) (sa : SReg) (nd : BitVec 4) (imm : BitVec 8) : encMS 0x11 d.toNat sa.toNat nd.toNat imm.toNat < 2 ^ 32 ∧ decodeFields (encMS 0x11 d.toNat sa.toNat nd.toNat imm.toNat) = .ok (Instr.ldbs d sa nd imm) := by
  have key (wd : Nat) (e0 : bitsOf wd 24 18 = d.toNat) (e1 : bitsOf wd 17 12 = sa.toNat) (e2 : bitsOf wd 11 8 = nd.toNat) (e3 : bitsOf wd 7 0 = imm.toNat) : decode11 wd = .ok (Instr.ldbs d sa nd imm) := by
    simp only [decode11, e0, e1, e2, e3, sreg_toNat, ofNat_of_toNat, bind1]
  obtain ⟨lt, f_maj, f_d, f_sa, f_nd, f_imm⟩ := encMS_fields 0x11 d.toNat sa.toNat nd.toNat imm.toNat
    (by decide) (Nat.lt_of_lt_of_le d.isLt (by decide)) sa.isLt nd.isLt imm.isLt
  exact ⟨lt, (decodeFields_11 _ f_maj).trans (key _ f_d f_sa f_nd f_imm)⟩
theorem ldbs (d : SReg) (sa : SReg) (nd : BitVec 4) (imm : BitVec 8) : Statement (Instr.ldbs d sa nd imm) := by
  intro hw w h
  have h := Option.some.inj h
  subst h
  exact readBack_of rfl (ldbs_word d sa nd imm).1 (ldbs_word d sa nd imm).2 hw
theorem ldh_word (d : SReg) (sa : SReg) (nd : BitVec 4) (imm : BitVec 8) : encMS 0x12 d.toNat sa.toNat nd.toNat imm.toNat < 2 ^ 32 ∧ decodeFields (encMS 0x12 d.toNat sa.toNat nd.toNat imm.toNat) = .ok (Instr.ldh d sa nd imm) := by
  have key (wd : Nat) (e0 : bitsOf wd 24 18 = d.toNat) (e1 : bitsOf wd 17 12 = sa.toNat) (e2 : bitsOf wd 11 8 = nd.toNat) (e3 : bitsOf wd 7 0 = imm.toNat) : decode12 wd = .ok (Instr.ldh d sa nd imm) := by
    simp only [decode12, e0, e1, e2, e3, sreg_toNat, ofNat_of_toNat, bind1]
  obtain ⟨lt, f_maj, f_d, f_sa, f_nd, f_imm⟩ := encMS_fields 0x12 d.toNat sa.toNat nd.toNat imm.toNat
    (by decide) (Nat.lt_of_lt_of_le d.isLt (by decide)) sa.isLt nd.isLt imm.isLt
  exact ⟨lt, (decodeFields_12 _ f_maj).trans (key _ f_d f_sa f_nd f_imm)⟩
theorem ldh (d : SReg) (sa : SReg) (nd : BitVec 4) (imm : BitVec 8) : Statement (Instr.ldh d sa nd imm) := by
  intro hw w h
  have h := Option.some.inj h
  subst h
  exact readBack_of rfl (ldh_word d sa nd imm).1 (ldh_word d sa nd imm).2 hw
theorem ldhs_word (d : SReg) (sa : SReg) (nd : BitVec 4) (imm : BitVec 8) : encMS 0x13 d.toNat sa.toNat nd.toNat imm.toNat < 2 ^ 32 ∧ decodeFields (encMS 0x13 d.toNat sa.toNat nd.toNat imm.toNat) = .ok (Instr.ldhs d sa nd imm) := by
  have key (wd : Nat) (e0 : bitsOf wd 24 18 = d.toNat) (e1 : bitsOf wd 17 12 = sa.toNat) (e2 : bitsOf wd 11 8 = nd.toNat) (e3 : bitsOf wd 7 0 = imm.toNat) : decode13 wd = .ok (Instr.ldhs d sa nd imm) := by
    simp only [decode13, e0, e1, e2, e3, sreg_toNat, ofNat_of_toNat, bind1]
  obtain ⟨lt, f_maj, f_d, f_sa, f_nd, f_imm⟩ := encMS_fields 0x13 d.toNat sa.toNat nd.toNat imm.toNat
    (by decide) (Nat.lt_of_lt_of_le d.isLt (by decide)) sa.isLt nd.isLt imm.isLt
  exact ⟨lt, (decodeFields_13 _ f_maj).trans (key _ f_d f_sa f_nd f_imm)⟩
theorem ldhs (d : SReg) (sa : SReg) (nd : BitVec 4) (imm : BitVec 8) : Statement (Instr.ldhs d sa nd imm) := by
  intro hw w h
  have h := Option.some.inj h
  subst h
  exact readBack_of rfl (ldhs_word d sa nd imm).1 (ldhs_word d sa nd imm).2 hw
theorem ldw_word (d : SReg) (sa : SReg) (nd : BitVec 4) (imm : BitVec 8) : encMS 0x14 d.toNat sa.toNat nd.toNat imm.toNat < 2 ^ 32 ∧ decodeFields (encMS 0x14 d.toNat sa.toNat nd.toNat imm.toNat) = .ok (Instr.ldw d sa nd imm) := by
  have key (wd : Nat) (e0 : bitsOf wd 24 18 = d.toNat) (e1 : bitsOf wd 17 12 = sa.toNat) (e2 : bitsOf wd 11 8 = nd.toNat) (e3 : bitsOf wd 7 0 = imm.toNat) : decode14 wd = .ok (Instr.ldw d sa nd imm) := by
    simp only [decode14, e0, e1, e2, e3, sreg_toNat, ofNat_of_toNat, bind1]
  obtain ⟨lt, f_maj, f_d, f_sa, f_nd, f_imm⟩ := encMS_fields 0x14 d.toNat sa.toNat nd.toNat imm.toNat
    (by decide) (Nat.lt_of_lt_of_le d.isLt (by decide)) sa.isLt nd.isLt imm.isLt
  exact ⟨lt, (decodeFields_14 _ f_maj).trans (key _ f_d f_sa f_nd f_imm)⟩
theorem ldw (d : SReg) (sa : SReg) (nd : BitVec 4) (imm : BitVec 8) : Statement (Instr.ldw d sa nd imm) := by
  intro hw w h
  have h := Option.some.inj h
  subst h
  exact readBack_of rfl (ldw_word d sa nd imm).1 (ldw_word d sa nd imm).2 hw
theorem ldws_word (d : SReg) (sa : SReg) (nd : BitVec 4) (imm : BitVec 8) : encMS 0x15 d.toNat sa.toNat nd.toNat imm.toNat < 2 ^ 32 ∧ decodeFields (encMS 0x15 d.toNat sa.toNat nd.toNat imm.toNat) = .ok (Instr.ldws d sa nd imm) := by
  have key (wd : Nat) (e0 : bitsOf wd 24 18 = d.toNat) (e1 : bitsOf wd 17 12 = sa.toNat) (e2 : bitsOf wd 11 8 = nd.toNat) (e3 : bitsOf wd 7 0 = imm.toNat) : decode15 wd = .ok (Instr.ldws d sa nd imm) := by
    simp only [decode15, e0, e1, e2, e3, sreg_toNat, ofNat_of_toNat, bind1]
  obtain ⟨lt, f_maj, f_d, f_sa, f_nd, f_imm⟩ := encMS_fields 0x15 d.toNat sa.toNat nd.toNat imm.toNat
    (by decide) (Nat.lt_of_lt_of_le d.isLt (by decide)) sa.isLt nd.isLt imm.isLt
  exact ⟨lt, (decodeFields_15 _ f_maj).trans (key _ f_d f_sa f_nd f_imm)⟩
theorem ldws (d : SReg) (sa : SReg) (nd : BitVec 4) (imm : BitVec 8) : Statement (Instr.ldws d sa nd imm) := by
  intro hw w h
  have h := Option.some.inj h
  subst h
  exact readBack_of rfl (ldws_word d sa nd imm).1 (ldws_word d sa nd imm).2 hw
theorem ldd_word (d : SReg) (sa : SReg) (nd : BitVec 4) (imm : BitVec 8) : encMS 0x16 d.toNat sa.toNat nd.toNat imm.toNat < 2 ^ 32 ∧ decodeFields (encMS 0x16 d.toNat sa.toNat nd.toNat imm.toNat) = .ok (Instr.ldd d sa nd imm) := by
  have key (wd : Nat) (e0 : bitsOf wd 24 18 = d.toNat) (e1 : bitsOf wd 17 12 = sa.toNat) (e2 : bitsOf wd 11 8 = nd.toNat) (e3 : bitsOf wd 7 0 = imm.toNat) : decode16 wd = .ok (Instr.ldd d sa nd imm) := by
    simp only [decode16, e0, e1, e2, e3, sreg_toNat, ofNat_of_toNat, bind1]
  obtain ⟨lt, f_maj, f_d, f_sa, f_nd, f_imm⟩ := encMS_fields 0x16 d.toNat sa.toNat nd.toNat imm.toNat
    (by decide) (Nat.lt_of_lt_of_le d.isLt (by decide)) sa.isLt nd.isLt imm.isLt
  exact ⟨lt, (decodeFields_16 _ f_maj).trans (key _ f_d f_sa f_nd f_imm)⟩
theorem ldd (d : SReg) (sa : SReg) (nd : BitVec 4) (imm : BitVec 8) : Statement (Instr.ldd d sa nd imm) := by
  intro hw w h
  have h := Option.some.inj h
  subst h
  exact readBack_of rfl (ldd_word d sa nd imm).1 (ldd_word d sa nd imm).2 hw
theorem stb_word (d : SReg) (sa : SReg) (nd : BitVec 4) (imm : BitVec 8) : encMS 0x17 d.toNat sa.toNat nd.toNat imm.toNat < 2 ^ 32 ∧ decodeFields (encMS 0x17 d.toNat sa.toNat nd.toNat imm.toNat) = .ok (Instr.stb d sa nd imm) := by
  have key (wd : Nat) (e0 : bitsOf wd 24 18 = d.toNat) (e1 : bitsOf wd 17 12 = sa.toNat) (e2 : bitsOf wd 11 8 = nd.toNat) (e3 : bitsOf wd 7 0 = imm.toNat) : decode17 wd = .ok (Instr.stb d sa nd imm) := by
    simp only [decode17, e0, e1, e2, e3, sreg_toNat, ofNat_of_toNat, bind1]
  obtain ⟨lt, f_maj, f_d, f_sa, f_nd, f_imm⟩ := encMS_fields 0x17 d.toNat sa.toNat nd.toNat imm.toNat
    (by decide) (Nat.lt_of_lt_of_le d.isLt (by decide)) sa.isLt nd.isLt imm.isLt
  exact ⟨lt, (decodeFields_17 _ f_maj).trans (key _ f_d f_sa f_nd f_imm)⟩
theorem stb (d : SReg) (sa : SReg) (nd : BitVec 4) (imm : BitVec 8) : Statement (Instr.stb d sa nd imm) := by
  intro hw w h
  have h := Option.some.inj h
  subst h
  exact readBack_of rfl (stb_word d sa nd imm).1 (stb_word d sa nd imm).2 hw
theorem sth_word (d : SReg) (sa : SReg) (nd : BitVec 4) (imm : BitVec 8) : encMS 0x18 d.toNat sa.toNat nd.toNat imm.toNat < 2 ^ 32 ∧ decodeFields (encMS 0x18 d.toNat sa.toNat nd.toNat imm.toNat) = .ok (Instr.sth d sa nd imm) := by
  have key (wd : Nat) (e0 : bitsOf wd 24 18 = d.toNat) (e1 : bitsOf wd 17 12 = sa.toNat) (e2 : bitsOf wd 11 8 = nd.toNat) (e3 : bitsOf wd 7 0 = imm.toNat) : decode18 wd = .ok (Instr.sth d sa nd imm) := by
    simp only [decode18, e0, e1, e2, e3, sreg_toNat, ofNat_of_toNat, bind1]
  obtain ⟨lt, f_maj, f_d, f_sa, f_nd, f_imm⟩ := encMS_fields 0x18 d.toNat sa.toNat nd.toNat imm.toNat
    (by decide) (Nat.lt_of_lt_of_le d.isLt (by decide)) sa.isLt nd.isLt imm.isLt
  exact ⟨lt, (decodeFields_18 _ f_maj).trans (key _ f_d f_sa f_nd f_imm)⟩
theorem sth (d : SReg) (sa : SReg) (nd : BitVec 4) (imm : BitVec 8) : Statement (Instr.sth d sa nd imm) := by
  intro hw w h
  have h := Option.some.inj h
  subst h
  exact readBack_of rfl (sth_word d sa nd imm).1 (sth_word d sa nd imm).2 hw
theorem stw_word (d : SReg) (sa : SReg) (nd : BitVec 4) (imm : BitVec 8) : encMS 0x19 d.toNat sa.toNat nd.toNat imm.toNat < 2 ^ 32 ∧ decodeFields (encMS 0x19 d.toNat sa.toNat nd.toNat imm.toNat) = .ok (Instr.stw d sa nd imm) := by
  have key (wd : Nat) (e0 : bitsOf wd 24 18 = d.toNat) (e1 : bitsOf wd 17 12 = sa.toNat) (e2 : bitsOf wd 11 8 = nd.toNat) (e3 : bitsOf wd 7 0 = imm.toNat) : decode19 wd = .ok (Instr.stw d sa nd imm) := by
    simp only [decode19, e0, e1, e2, e3, sreg_toNat, ofNat_of_toNat, bind1]
  obtain ⟨lt, f_maj, f_d, f_sa, f_nd, f_imm⟩ := encMS_fields 0x19 d.toNat sa.toNat nd.toNat imm.toNat
    (by decide) (Nat.lt_of_lt_of_le d.isLt (by decide)) sa.isLt nd.isLt imm.isLt
  exact ⟨lt, (decodeFields_19 _ f_maj).trans (key _ f_d f_sa f_nd f_imm)⟩
theorem stw (d : SReg) (sa : SReg) (nd : BitVec 4) (imm : BitVec 8) : Statement (Instr.stw d sa nd imm) := by
  intro hw w h
  have h := Option.some.inj h
  subst h
  exact readBack_of rfl (stw_word d sa nd imm).1 (stw_word d sa nd imm).2 hw
theorem std_word (d : SReg) (sa : SReg) (nd : BitVec 4) (imm : BitVec 8) : encMS 0x1A d.toNat sa.toNat nd.toNat imm.toNat < 2 ^ 32 ∧ decodeFields (encMS 0x1A d.toNat sa.toNat nd.toNat imm.toNat) = .ok (Instr.std d sa nd imm) := by
  have key (wd : Nat) (e0 : bitsOf wd 24 18 = d.toNat) (e1 : bitsOf wd 17 12 = sa.toNat) (e2 : bitsOf wd 11 8 = nd.toNat) (e3 : bitsOf wd 7 0 = imm.toNat) : decode1A wd = .ok (Instr.std d sa nd imm) := by
    simp only [decode1A, e0, e1, e2, e3, sreg_toNat, ofNat_of_toNat, bind1]
  obtain ⟨lt, f_maj, f_d, f_sa, f_nd, f_imm⟩ := encMS_fields 0x1A d.toNat sa.toNat nd.toNat imm.toNat
    (by decide) (Nat.lt_of_lt_of_le d.isLt (by decide)) sa.isLt nd.isLt imm.isLt
  exact ⟨lt, (decodeFields_1A _ f_maj).trans (key _ f_d f_sa f_nd f_imm)⟩
theorem std (d : SReg) (sa : SReg) (nd : BitVec 4) (imm : BitVec 8) : Statement (Instr.std d sa nd imm) := by
  intro hw w h
  have h := Option.some.inj h
  subst h
  exact readBack_of rfl (std_word d sa nd imm).1 (std_word d sa nd imm).2 hw
theorem br_word (disp : BitVec 25) : encE 0x1B disp.toNat < 2 ^ 32 ∧ decodeFields (encE 0x1B disp.toNat) = .ok (Instr.br disp) := by
  have key (wd : Nat) (e0 : bitsOf wd 24 0 = disp.toNat) : decode1B wd = .ok (Instr.br disp) := by
    simp only [decode1B, e0, ofNat_of_toNat]
  obtain ⟨lt, f_maj, f_imm⟩ := encE_fields 0x1B disp.toNat
    (by decide) disp.isLt
  exact ⟨lt, (decodeFields_1B _ f_maj).trans (key _ f_imm)⟩
theorem br (disp : BitVec 25) : Statement (Instr.br disp) := by
  intro hw w h
  have h := Option.some.inj h
  subst h
  exact readBack_of rfl (br_word disp).1 (br_word disp).2 hw
theorem brc_word (c : BrCond) (a : SReg) (disp : BitVec 14) : encD 0x1C c.toCode a.toNat disp.toNat < 2 ^ 32 ∧ decodeFields (encD 0x1C c.toCode a.toNat disp.toNat) = .ok (Instr.brc c a disp) := by
  have key (wd : Nat) (e0 : bitsOf wd 24 21 = c.toCode) (e1 : bitsOf wd 20 14 = a.toNat) (e2 : bitsOf wd 13 0 = disp.toNat) : decode1C wd = .ok (Instr.brc c a disp) := by
    simp only [decode1C, e0, e1, e2, BrCond.ofCode_toCode, sreg_toNat, ofNat_of_toNat, bind1]
  obtain ⟨lt, f_maj, f_cond, f_a, f_imm⟩ := encD_fields 0x1C c.toCode a.toNat disp.toNat
    (by decide) c.toCode_lt (Nat.lt_of_lt_of_le a.isLt (by decide)) disp.isLt
  exact ⟨lt, (decodeFields_1C _ f_maj).trans (key _ f_cond f_a f_imm)⟩
theorem brc (c : BrCond) (a : SReg) (disp : BitVec 14) : Statement (Instr.brc c a disp) := by
  intro hw w h
  have h := Option.some.inj h
  subst h
  exact readBack_of rfl (brc_word c a disp).1 (brc_word c a disp).2 hw
theorem call_word (disp : BitVec 25) : encE 0x1D disp.toNat < 2 ^ 32 ∧ decodeFields (encE 0x1D disp.toNat) = .ok (Instr.call disp) := by
  have key (wd : Nat) (e0 : bitsOf wd 24 0 = disp.toNat) : decode1D wd = .ok (Instr.call disp) := by
    simp only [decode1D, e0, ofNat_of_toNat]
  obtain ⟨lt, f_maj, f_imm⟩ := encE_fields 0x1D disp.toNat
    (by decide) disp.isLt
  exact ⟨lt, (decodeFields_1D _ f_maj).trans (key _ f_imm)⟩
theorem call (disp : BitVec 25) : Statement (Instr.call disp) := by
  intro hw w h
  have h := Option.some.inj h
  subst h
  exact readBack_of rfl (call_word disp).1 (call_word disp).2 hw
theorem callr_word (a : SReg) : encA 0x1E 0 0 a.toNat 0 < 2 ^ 32 ∧ decodeFields (encA 0x1E 0 0 a.toNat 0) = .ok (Instr.callr a) := by
  have key (wd : Nat) (e0 : bitsOf wd 24 21 = 0) (e1 : bitsOf wd 20 14 = 0) (e2 : bitsOf wd 13 7 = a.toNat) (e3 : bitsOf wd 6 0 = 0) : decode1E wd = .ok (Instr.callr a) := by
    simp only [decode1E, e0, e1, e2, e3, sreg_toNat, bind1, zeroed, if_true]
  obtain ⟨lt, f_maj, f_fn, f_d, f_a, f_b⟩ := encA_fields 0x1E 0 0 a.toNat 0
    (by decide) (by decide) (by decide) (Nat.lt_of_lt_of_le a.isLt (by decide)) (by decide)
  exact ⟨lt, (decodeFields_1E _ f_maj).trans (key _ f_fn f_d f_a f_b)⟩
theorem callr (a : SReg) : Statement (Instr.callr a) := by
  intro hw w h
  have h := Option.some.inj h
  subst h
  exact readBack_of rfl (callr_word a).1 (callr_word a).2 hw
theorem ret_word : encA 0x1E 1 0 0 0 < 2 ^ 32 ∧ decodeFields (encA 0x1E 1 0 0 0) = .ok Instr.ret := by
  have key (wd : Nat) (e0 : bitsOf wd 24 21 = 1) (e1 : bitsOf wd 20 14 = 0) (e2 : bitsOf wd 13 7 = 0) (e3 : bitsOf wd 6 0 = 0) : decode1E wd = .ok Instr.ret := by
    simp only [decode1E, e0, e1, e2, e3, zeroed, if_true]
  obtain ⟨lt, f_maj, f_fn, f_d, f_a, f_b⟩ := encA_fields 0x1E 1 0 0 0
    (by decide) (by decide) (by decide) (by decide) (by decide)
  exact ⟨lt, (decodeFields_1E _ f_maj).trans (key _ f_fn f_d f_a f_b)⟩
theorem ret : Statement Instr.ret := by
  intro hw w h
  have h := Option.some.inj h
  subst h
  exact readBack_of rfl (ret_word).1 (ret_word).2 hw
theorem jmpr_word (a : SReg) : encA 0x1E 2 0 a.toNat 0 < 2 ^ 32 ∧ decodeFields (encA 0x1E 2 0 a.toNat 0) = .ok (Instr.jmpr a) := by
  have key (wd : Nat) (e0 : bitsOf wd 24 21 = 2) (e1 : bitsOf wd 20 14 = 0) (e2 : bitsOf wd 13 7 = a.toNat) (e3 : bitsOf wd 6 0 = 0) : decode1E wd = .ok (Instr.jmpr a) := by
    simp only [decode1E, e0, e1, e2, e3, sreg_toNat, bind1, zeroed, if_true]
  obtain ⟨lt, f_maj, f_fn, f_d, f_a, f_b⟩ := encA_fields 0x1E 2 0 a.toNat 0
    (by decide) (by decide) (by decide) (Nat.lt_of_lt_of_le a.isLt (by decide)) (by decide)
  exact ⟨lt, (decodeFields_1E _ f_maj).trans (key _ f_fn f_d f_a f_b)⟩
theorem jmpr (a : SReg) : Statement (Instr.jmpr a) := by
  intro hw w h
  have h := Option.some.inj h
  subst h
  exact readBack_of rfl (jmpr_word a).1 (jmpr_word a).2 hw
theorem mfs_word (d : SReg) (n : BitVec 7) : encA 0x1E 3 d.toNat n.toNat 0 < 2 ^ 32 ∧ decodeFields (encA 0x1E 3 d.toNat n.toNat 0) = .ok (Instr.mfs d n) := by
  have key (wd : Nat) (e0 : bitsOf wd 24 21 = 3) (e1 : bitsOf wd 20 14 = d.toNat) (e2 : bitsOf wd 13 7 = n.toNat) (e3 : bitsOf wd 6 0 = 0) : decode1E wd = .ok (Instr.mfs d n) := by
    simp only [decode1E, e0, e1, e2, e3, sreg_toNat, ofNat_of_toNat, bind1, zeroed, if_true]
  obtain ⟨lt, f_maj, f_fn, f_d, f_a, f_b⟩ := encA_fields 0x1E 3 d.toNat n.toNat 0
    (by decide) (by decide) (Nat.lt_of_lt_of_le d.isLt (by decide)) n.isLt (by decide)
  exact ⟨lt, (decodeFields_1E _ f_maj).trans (key _ f_fn f_d f_a f_b)⟩
theorem mfs (d : SReg) (n : BitVec 7) : Statement (Instr.mfs d n) := by
  intro hw w h
  have h := Option.some.inj h
  subst h
  exact readBack_of rfl (mfs_word d n).1 (mfs_word d n).2 hw
theorem mts_word (n : BitVec 7) (a : SReg) : encA 0x1E 4 n.toNat a.toNat 0 < 2 ^ 32 ∧ decodeFields (encA 0x1E 4 n.toNat a.toNat 0) = .ok (Instr.mts n a) := by
  have key (wd : Nat) (e0 : bitsOf wd 24 21 = 4) (e1 : bitsOf wd 20 14 = n.toNat) (e2 : bitsOf wd 13 7 = a.toNat) (e3 : bitsOf wd 6 0 = 0) : decode1E wd = .ok (Instr.mts n a) := by
    simp only [decode1E, e0, e1, e2, e3, sreg_toNat, ofNat_of_toNat, bind1, zeroed, if_true]
  obtain ⟨lt, f_maj, f_fn, f_d, f_a, f_b⟩ := encA_fields 0x1E 4 n.toNat a.toNat 0
    (by decide) (by decide) n.isLt (Nat.lt_of_lt_of_le a.isLt (by decide)) (by decide)
  exact ⟨lt, (decodeFields_1E _ f_maj).trans (key _ f_fn f_d f_a f_b)⟩
theorem mts (n : BitVec 7) (a : SReg) : Statement (Instr.mts n a) := by
  intro hw w h
  have h := Option.some.inj h
  subst h
  exact readBack_of rfl (mts_word n a).1 (mts_word n a).2 hw
theorem nop_word : encA 0x1E 5 0 0 0 < 2 ^ 32 ∧ decodeFields (encA 0x1E 5 0 0 0) = .ok Instr.nop := by
  have key (wd : Nat) (e0 : bitsOf wd 24 21 = 5) (e1 : bitsOf wd 20 14 = 0) (e2 : bitsOf wd 13 7 = 0) (e3 : bitsOf wd 6 0 = 0) : decode1E wd = .ok Instr.nop := by
    simp only [decode1E, e0, e1, e2, e3, zeroed, if_true]
  obtain ⟨lt, f_maj, f_fn, f_d, f_a, f_b⟩ := encA_fields 0x1E 5 0 0 0
    (by decide) (by decide) (by decide) (by decide) (by decide)
  exact ⟨lt, (decodeFields_1E _ f_maj).trans (key _ f_fn f_d f_a f_b)⟩
theorem nop : Statement Instr.nop := by
  intro hw w h
  have h := Option.some.inj h
  subst h
  exact readBack_of rfl (nop_word).1 (nop_word).2 hw
theorem brk_word (code : BitVec 14) : encA 0x1E 6 0 (code.toNat / 2 ^ 7) (code.toNat % 2 ^ 7) < 2 ^ 32 ∧ decodeFields (encA 0x1E 6 0 (code.toNat / 2 ^ 7) (code.toNat % 2 ^ 7)) = .ok (Instr.brk code) := by
  have key (wd : Nat) (e0 : bitsOf wd 24 21 = 6) (e1 : bitsOf wd 20 14 = 0) (e2 : bitsOf wd 13 0 = code.toNat) : decode1E wd = .ok (Instr.brk code) := by
    simp only [decode1E, e0, e1, e2, ofNat_of_toNat, zeroed, if_true]
  obtain ⟨lt, f_maj, f_fn, f_d, _, _⟩ := encA_fields 0x1E 6 0 (code.toNat / 2 ^ 7) (code.toNat % 2 ^ 7)
    (by decide) (by decide) (by decide) (by omega) (by omega)
  exact ⟨lt, (decodeFields_1E _ f_maj).trans (key _ f_fn f_d (by unfold bitsOf encA; norm_num; omega))⟩
theorem brk (code : BitVec 14) : Statement (Instr.brk code) := by
  intro hw w h
  have h := Option.some.inj h
  subst h
  exact readBack_of rfl (brk_word code).1 (brk_word code).2 hw
theorem sys_word (code : BitVec 14) : encA 0x1E 7 0 (code.toNat / 2 ^ 7) (code.toNat % 2 ^ 7) < 2 ^ 32 ∧ decodeFields (encA 0x1E 7 0 (code.toNat / 2 ^ 7) (code.toNat % 2 ^ 7)) = .ok (Instr.sys code) := by
  have key (wd : Nat) (e0 : bitsOf wd 24 21 = 7) (e1 : bitsOf wd 20 14 = 0) (e2 : bitsOf wd 13 0 = code.toNat) : decode1E wd = .ok (Instr.sys code) := by
    simp only [decode1E, e0, e1, e2, ofNat_of_toNat, zeroed, if_true]
  obtain ⟨lt, f_maj, f_fn, f_d, _, _⟩ := encA_fields 0x1E 7 0 (code.toNat / 2 ^ 7) (code.toNat % 2 ^ 7)
    (by decide) (by decide) (by decide) (by omega) (by omega)
  exact ⟨lt, (decodeFields_1E _ f_maj).trans (key _ f_fn f_d (by unfold bitsOf encA; norm_num; omega))⟩
theorem sys (code : BitVec 14) : Statement (Instr.sys code) := by
  intro hw w h
  have h := Option.some.inj h
  subst h
  exact readBack_of rfl (sys_word code).1 (sys_word code).2 hw
theorem clk_word (d : SReg) : encA 0x1E 8 d.toNat 0 0 < 2 ^ 32 ∧ decodeFields (encA 0x1E 8 d.toNat 0 0) = .ok (Instr.clk d) := by
  have key (wd : Nat) (e0 : bitsOf wd 24 21 = 8) (e1 : bitsOf wd 20 14 = d.toNat) (e2 : bitsOf wd 13 7 = 0) (e3 : bitsOf wd 6 0 = 0) : decode1E wd = .ok (Instr.clk d) := by
    simp only [decode1E, e0, e1, e2, e3, sreg_toNat, bind1, zeroed, if_true]
  obtain ⟨lt, f_maj, f_fn, f_d, f_a, f_b⟩ := encA_fields 0x1E 8 d.toNat 0 0
    (by decide) (by decide) (Nat.lt_of_lt_of_le d.isLt (by decide)) (by decide) (by decide)
  exact ⟨lt, (decodeFields_1E _ f_maj).trans (key _ f_fn f_d f_a f_b)⟩
theorem clk (d : SReg) : Statement (Instr.clk d) := by
  intro hw w h
  have h := Option.some.inj h
  subst h
  exact readBack_of rfl (clk_word d).1 (clk_word d).2 hw
theorem exit_word : encA 0x1E 9 0 0 0 < 2 ^ 32 ∧ decodeFields (encA 0x1E 9 0 0 0) = .ok Instr.exit := by
  have key (wd : Nat) (e0 : bitsOf wd 24 21 = 9) (e1 : bitsOf wd 20 14 = 0) (e2 : bitsOf wd 13 7 = 0) (e3 : bitsOf wd 6 0 = 0) : decode1E wd = .ok Instr.exit := by
    simp only [decode1E, e0, e1, e2, e3, zeroed, if_true]
  obtain ⟨lt, f_maj, f_fn, f_d, f_a, f_b⟩ := encA_fields 0x1E 9 0 0 0
    (by decide) (by decide) (by decide) (by decide) (by decide)
  exact ⟨lt, (decodeFields_1E _ f_maj).trans (key _ f_fn f_d f_a f_b)⟩
theorem exit : Statement Instr.exit := by
  intro hw w h
  have h := Option.some.inj h
  subst h
  exact readBack_of rfl (exit_word).1 (exit_word).2 hw
theorem yield_word : encA 0x1E 10 0 0 0 < 2 ^ 32 ∧ decodeFields (encA 0x1E 10 0 0 0) = .ok Instr.yield := by
  have key (wd : Nat) (e0 : bitsOf wd 24 21 = 10) (e1 : bitsOf wd 20 14 = 0) (e2 : bitsOf wd 13 7 = 0) (e3 : bitsOf wd 6 0 = 0) : decode1E wd = .ok Instr.yield := by
    simp only [decode1E, e0, e1, e2, e3, zeroed, if_true]
  obtain ⟨lt, f_maj, f_fn, f_d, f_a, f_b⟩ := encA_fields 0x1E 10 0 0 0
    (by decide) (by decide) (by decide) (by decide) (by decide)
  exact ⟨lt, (decodeFields_1E _ f_maj).trans (key _ f_fn f_d f_a f_b)⟩
theorem yield : Statement Instr.yield := by
  intro hw w h
  have h := Option.some.inj h
  subst h
  exact readBack_of rfl (yield_word).1 (yield_word).2 hw
theorem mfc_word (d : SReg) (n : BitVec 7) : encA 0x1E 11 d.toNat n.toNat 0 < 2 ^ 32 ∧ decodeFields (encA 0x1E 11 d.toNat n.toNat 0) = .ok (Instr.mfc d n) := by
  have key (wd : Nat) (e0 : bitsOf wd 24 21 = 11) (e1 : bitsOf wd 20 14 = d.toNat) (e2 : bitsOf wd 13 7 = n.toNat) (e3 : bitsOf wd 6 0 = 0) : decode1E wd = .ok (Instr.mfc d n) := by
    simp only [decode1E, e0, e1, e2, e3, sreg_toNat, ofNat_of_toNat, bind1, zeroed, if_true]
  obtain ⟨lt, f_maj, f_fn, f_d, f_a, f_b⟩ := encA_fields 0x1E 11 d.toNat n.toNat 0
    (by decide) (by decide) (Nat.lt_of_lt_of_le d.isLt (by decide)) n.isLt (by decide)
  exact ⟨lt, (decodeFields_1E _ f_maj).trans (key _ f_fn f_d f_a f_b)⟩
theorem mfc (d : SReg) (n : BitVec 7) : Statement (Instr.mfc d n) := by
  intro hw w h
  have h := Option.some.inj h
  subst h
  exact readBack_of rfl (mfc_word d n).1 (mfc_word d n).2 hw
theorem mtc_word (n : BitVec 7) (a : SReg) : encA 0x1E 12 n.toNat a.toNat 0 < 2 ^ 32 ∧ decodeFields (encA 0x1E 12 n.toNat a.toNat 0) = .ok (Instr.mtc n a) := by
  have key (wd : Nat) (e0 : bitsOf wd 24 21 = 12) (e1 : bitsOf wd 20 14 = n.toNat) (e2 : bitsOf wd 13 7 = a.toNat) (e3 : bitsOf wd 6 0 = 0) : decode1E wd = .ok (Instr.mtc n a) := by
    simp only [decode1E, e0, e1, e2, e3, sreg_toNat, ofNat_of_toNat, bind1, zeroed, if_true]
  obtain ⟨lt, f_maj, f_fn, f_d, f_a, f_b⟩ := encA_fields 0x1E 12 n.toNat a.toNat 0
    (by decide) (by decide) n.isLt (Nat.lt_of_lt_of_le a.isLt (by decide)) (by decide)
  exact ⟨lt, (decodeFields_1E _ f_maj).trans (key _ f_fn f_d f_a f_b)⟩
theorem mtc (n : BitVec 7) (a : SReg) : Statement (Instr.mtc n a) := by
  intro hw w h
  have h := Option.some.inj h
  subst h
  exact readBack_of rfl (mtc_word n a).1 (mtc_word n a).2 hw
theorem eret_word : encA 0x1F 0 0 0 0 < 2 ^ 32 ∧ decodeFields (encA 0x1F 0 0 0 0) = .ok Instr.eret := by
  have key (wd : Nat) (e0 : bitsOf wd 24 21 = 0) (e1 : bitsOf wd 20 14 = 0) (e2 : bitsOf wd 13 7 = 0) (e3 : bitsOf wd 6 0 = 0) : decode1F wd = .ok Instr.eret := by
    simp only [decode1F, e0, e1, e2, e3, zeroed, if_true]
  obtain ⟨lt, f_maj, f_fn, f_d, f_a, f_b⟩ := encA_fields 0x1F 0 0 0 0
    (by decide) (by decide) (by decide) (by decide) (by decide)
  exact ⟨lt, (decodeFields_1F _ f_maj).trans (key _ f_fn f_d f_a f_b)⟩
theorem eret : Statement Instr.eret := by
  intro hw w h
  have h := Option.some.inj h
  subst h
  exact readBack_of rfl (eret_word).1 (eret_word).2 hw
theorem tlbi_word (a : SReg) (b : SReg) : encA 0x1F 1 0 a.toNat b.toNat < 2 ^ 32 ∧ decodeFields (encA 0x1F 1 0 a.toNat b.toNat) = .ok (Instr.tlbi a b) := by
  have key (wd : Nat) (e0 : bitsOf wd 24 21 = 1) (e1 : bitsOf wd 20 14 = 0) (e2 : bitsOf wd 13 7 = a.toNat) (e3 : bitsOf wd 6 0 = b.toNat) : decode1F wd = .ok (Instr.tlbi a b) := by
    simp only [decode1F, e0, e1, e2, e3, sreg_toNat, bind1, zeroed, if_true]
  obtain ⟨lt, f_maj, f_fn, f_d, f_a, f_b⟩ := encA_fields 0x1F 1 0 a.toNat b.toNat
    (by decide) (by decide) (by decide) (Nat.lt_of_lt_of_le a.isLt (by decide)) (Nat.lt_of_lt_of_le b.isLt (by decide))
  exact ⟨lt, (decodeFields_1F _ f_maj).trans (key _ f_fn f_d f_a f_b)⟩
theorem tlbi (a : SReg) (b : SReg) : Statement (Instr.tlbi a b) := by
  intro hw w h
  have h := Option.some.inj h
  subst h
  exact readBack_of rfl (tlbi_word a b).1 (tlbi_word a b).2 hw
theorem idle_word : encA 0x1F 2 0 0 0 < 2 ^ 32 ∧ decodeFields (encA 0x1F 2 0 0 0) = .ok Instr.idle := by
  have key (wd : Nat) (e0 : bitsOf wd 24 21 = 2) (e1 : bitsOf wd 20 14 = 0) (e2 : bitsOf wd 13 7 = 0) (e3 : bitsOf wd 6 0 = 0) : decode1F wd = .ok Instr.idle := by
    simp only [decode1F, e0, e1, e2, e3, zeroed, if_true]
  obtain ⟨lt, f_maj, f_fn, f_d, f_a, f_b⟩ := encA_fields 0x1F 2 0 0 0
    (by decide) (by decide) (by decide) (by decide) (by decide)
  exact ⟨lt, (decodeFields_1F _ f_maj).trans (key _ f_fn f_d f_a f_b)⟩
theorem idle : Statement Instr.idle := by
  intro hw w h
  have h := Option.some.inj h
  subst h
  exact readBack_of rfl (idle_word).1 (idle_word).2 hw
theorem vaddF32_word (d : VReg) (a : VReg) (b : VReg) : encA 0x20 0 d.toNat a.toNat b.toNat < 2 ^ 32 ∧ decodeFields (encA 0x20 0 d.toNat a.toNat b.toNat) = .ok (Instr.vaddF32 d a b) := by
  have key (wd : Nat) (e0 : bitsOf wd 24 21 = 0) (e1 : bitsOf wd 20 14 = d.toNat) (e2 : bitsOf wd 13 7 = a.toNat) (e3 : bitsOf wd 6 0 = b.toNat) : decode20 wd = .ok (Instr.vaddF32 d a b) := by
    simp only [decode20, e0, e1, e2, e3, ofNat_of_toNat]
  obtain ⟨lt, f_maj, f_fn, f_d, f_a, f_b⟩ := encA_fields 0x20 0 d.toNat a.toNat b.toNat
    (by decide) (by decide) d.isLt a.isLt b.isLt
  exact ⟨lt, (decodeFields_20 _ f_maj).trans (key _ f_fn f_d f_a f_b)⟩
theorem vaddF32 (d : VReg) (a : VReg) (b : VReg) : Statement (Instr.vaddF32 d a b) := by
  intro hw w h
  have h := Option.some.inj h
  subst h
  exact readBack_of rfl (vaddF32_word d a b).1 (vaddF32_word d a b).2 hw
theorem vsubF32_word (d : VReg) (a : VReg) (b : VReg) : encA 0x20 1 d.toNat a.toNat b.toNat < 2 ^ 32 ∧ decodeFields (encA 0x20 1 d.toNat a.toNat b.toNat) = .ok (Instr.vsubF32 d a b) := by
  have key (wd : Nat) (e0 : bitsOf wd 24 21 = 1) (e1 : bitsOf wd 20 14 = d.toNat) (e2 : bitsOf wd 13 7 = a.toNat) (e3 : bitsOf wd 6 0 = b.toNat) : decode20 wd = .ok (Instr.vsubF32 d a b) := by
    simp only [decode20, e0, e1, e2, e3, ofNat_of_toNat]
  obtain ⟨lt, f_maj, f_fn, f_d, f_a, f_b⟩ := encA_fields 0x20 1 d.toNat a.toNat b.toNat
    (by decide) (by decide) d.isLt a.isLt b.isLt
  exact ⟨lt, (decodeFields_20 _ f_maj).trans (key _ f_fn f_d f_a f_b)⟩
theorem vsubF32 (d : VReg) (a : VReg) (b : VReg) : Statement (Instr.vsubF32 d a b) := by
  intro hw w h
  have h := Option.some.inj h
  subst h
  exact readBack_of rfl (vsubF32_word d a b).1 (vsubF32_word d a b).2 hw
theorem vmulF32_word (d : VReg) (a : VReg) (b : VReg) : encA 0x20 2 d.toNat a.toNat b.toNat < 2 ^ 32 ∧ decodeFields (encA 0x20 2 d.toNat a.toNat b.toNat) = .ok (Instr.vmulF32 d a b) := by
  have key (wd : Nat) (e0 : bitsOf wd 24 21 = 2) (e1 : bitsOf wd 20 14 = d.toNat) (e2 : bitsOf wd 13 7 = a.toNat) (e3 : bitsOf wd 6 0 = b.toNat) : decode20 wd = .ok (Instr.vmulF32 d a b) := by
    simp only [decode20, e0, e1, e2, e3, ofNat_of_toNat]
  obtain ⟨lt, f_maj, f_fn, f_d, f_a, f_b⟩ := encA_fields 0x20 2 d.toNat a.toNat b.toNat
    (by decide) (by decide) d.isLt a.isLt b.isLt
  exact ⟨lt, (decodeFields_20 _ f_maj).trans (key _ f_fn f_d f_a f_b)⟩
theorem vmulF32 (d : VReg) (a : VReg) (b : VReg) : Statement (Instr.vmulF32 d a b) := by
  intro hw w h
  have h := Option.some.inj h
  subst h
  exact readBack_of rfl (vmulF32_word d a b).1 (vmulF32_word d a b).2 hw
theorem vfmaF32_word (d : VReg) (a : VReg) (b : VReg) : encA 0x20 3 d.toNat a.toNat b.toNat < 2 ^ 32 ∧ decodeFields (encA 0x20 3 d.toNat a.toNat b.toNat) = .ok (Instr.vfmaF32 d a b) := by
  have key (wd : Nat) (e0 : bitsOf wd 24 21 = 3) (e1 : bitsOf wd 20 14 = d.toNat) (e2 : bitsOf wd 13 7 = a.toNat) (e3 : bitsOf wd 6 0 = b.toNat) : decode20 wd = .ok (Instr.vfmaF32 d a b) := by
    simp only [decode20, e0, e1, e2, e3, ofNat_of_toNat]
  obtain ⟨lt, f_maj, f_fn, f_d, f_a, f_b⟩ := encA_fields 0x20 3 d.toNat a.toNat b.toNat
    (by decide) (by decide) d.isLt a.isLt b.isLt
  exact ⟨lt, (decodeFields_20 _ f_maj).trans (key _ f_fn f_d f_a f_b)⟩
theorem vfmaF32 (d : VReg) (a : VReg) (b : VReg) : Statement (Instr.vfmaF32 d a b) := by
  intro hw w h
  have h := Option.some.inj h
  subst h
  exact readBack_of rfl (vfmaF32_word d a b).1 (vfmaF32_word d a b).2 hw
theorem vfmsF32_word (d : VReg) (a : VReg) (b : VReg) : encA 0x20 4 d.toNat a.toNat b.toNat < 2 ^ 32 ∧ decodeFields (encA 0x20 4 d.toNat a.toNat b.toNat) = .ok (Instr.vfmsF32 d a b) := by
  have key (wd : Nat) (e0 : bitsOf wd 24 21 = 4) (e1 : bitsOf wd 20 14 = d.toNat) (e2 : bitsOf wd 13 7 = a.toNat) (e3 : bitsOf wd 6 0 = b.toNat) : decode20 wd = .ok (Instr.vfmsF32 d a b) := by
    simp only [decode20, e0, e1, e2, e3, ofNat_of_toNat]
  obtain ⟨lt, f_maj, f_fn, f_d, f_a, f_b⟩ := encA_fields 0x20 4 d.toNat a.toNat b.toNat
    (by decide) (by decide) d.isLt a.isLt b.isLt
  exact ⟨lt, (decodeFields_20 _ f_maj).trans (key _ f_fn f_d f_a f_b)⟩
theorem vfmsF32 (d : VReg) (a : VReg) (b : VReg) : Statement (Instr.vfmsF32 d a b) := by
  intro hw w h
  have h := Option.some.inj h
  subst h
  exact readBack_of rfl (vfmsF32_word d a b).1 (vfmsF32_word d a b).2 hw
theorem vfnmaF32_word (d : VReg) (a : VReg) (b : VReg) : encA 0x20 5 d.toNat a.toNat b.toNat < 2 ^ 32 ∧ decodeFields (encA 0x20 5 d.toNat a.toNat b.toNat) = .ok (Instr.vfnmaF32 d a b) := by
  have key (wd : Nat) (e0 : bitsOf wd 24 21 = 5) (e1 : bitsOf wd 20 14 = d.toNat) (e2 : bitsOf wd 13 7 = a.toNat) (e3 : bitsOf wd 6 0 = b.toNat) : decode20 wd = .ok (Instr.vfnmaF32 d a b) := by
    simp only [decode20, e0, e1, e2, e3, ofNat_of_toNat]
  obtain ⟨lt, f_maj, f_fn, f_d, f_a, f_b⟩ := encA_fields 0x20 5 d.toNat a.toNat b.toNat
    (by decide) (by decide) d.isLt a.isLt b.isLt
  exact ⟨lt, (decodeFields_20 _ f_maj).trans (key _ f_fn f_d f_a f_b)⟩
theorem vfnmaF32 (d : VReg) (a : VReg) (b : VReg) : Statement (Instr.vfnmaF32 d a b) := by
  intro hw w h
  have h := Option.some.inj h
  subst h
  exact readBack_of rfl (vfnmaF32_word d a b).1 (vfnmaF32_word d a b).2 hw
theorem vminF32_word (d : VReg) (a : VReg) (b : VReg) : encA 0x20 6 d.toNat a.toNat b.toNat < 2 ^ 32 ∧ decodeFields (encA 0x20 6 d.toNat a.toNat b.toNat) = .ok (Instr.vminF32 d a b) := by
  have key (wd : Nat) (e0 : bitsOf wd 24 21 = 6) (e1 : bitsOf wd 20 14 = d.toNat) (e2 : bitsOf wd 13 7 = a.toNat) (e3 : bitsOf wd 6 0 = b.toNat) : decode20 wd = .ok (Instr.vminF32 d a b) := by
    simp only [decode20, e0, e1, e2, e3, ofNat_of_toNat]
  obtain ⟨lt, f_maj, f_fn, f_d, f_a, f_b⟩ := encA_fields 0x20 6 d.toNat a.toNat b.toNat
    (by decide) (by decide) d.isLt a.isLt b.isLt
  exact ⟨lt, (decodeFields_20 _ f_maj).trans (key _ f_fn f_d f_a f_b)⟩
theorem vminF32 (d : VReg) (a : VReg) (b : VReg) : Statement (Instr.vminF32 d a b) := by
  intro hw w h
  have h := Option.some.inj h
  subst h
  exact readBack_of rfl (vminF32_word d a b).1 (vminF32_word d a b).2 hw
theorem vmaxF32_word (d : VReg) (a : VReg) (b : VReg) : encA 0x20 7 d.toNat a.toNat b.toNat < 2 ^ 32 ∧ decodeFields (encA 0x20 7 d.toNat a.toNat b.toNat) = .ok (Instr.vmaxF32 d a b) := by
  have key (wd : Nat) (e0 : bitsOf wd 24 21 = 7) (e1 : bitsOf wd 20 14 = d.toNat) (e2 : bitsOf wd 13 7 = a.toNat) (e3 : bitsOf wd 6 0 = b.toNat) : decode20 wd = .ok (Instr.vmaxF32 d a b) := by
    simp only [decode20, e0, e1, e2, e3, ofNat_of_toNat]
  obtain ⟨lt, f_maj, f_fn, f_d, f_a, f_b⟩ := encA_fields 0x20 7 d.toNat a.toNat b.toNat
    (by decide) (by decide) d.isLt a.isLt b.isLt
  exact ⟨lt, (decodeFields_20 _ f_maj).trans (key _ f_fn f_d f_a f_b)⟩
theorem vmaxF32 (d : VReg) (a : VReg) (b : VReg) : Statement (Instr.vmaxF32 d a b) := by
  intro hw w h
  have h := Option.some.inj h
  subst h
  exact readBack_of rfl (vmaxF32_word d a b).1 (vmaxF32_word d a b).2 hw
theorem vabsF32_word (d : VReg) (a : VReg) : encA 0x20 8 d.toNat a.toNat 0 < 2 ^ 32 ∧ decodeFields (encA 0x20 8 d.toNat a.toNat 0) = .ok (Instr.vabsF32 d a) := by
  have key (wd : Nat) (e0 : bitsOf wd 24 21 = 8) (e1 : bitsOf wd 20 14 = d.toNat) (e2 : bitsOf wd 13 7 = a.toNat) (e3 : bitsOf wd 6 0 = 0) : decode20 wd = .ok (Instr.vabsF32 d a) := by
    simp only [decode20, e0, e1, e2, e3, ofNat_of_toNat, zeroed, if_true]
  obtain ⟨lt, f_maj, f_fn, f_d, f_a, f_b⟩ := encA_fields 0x20 8 d.toNat a.toNat 0
    (by decide) (by decide) d.isLt a.isLt (by decide)
  exact ⟨lt, (decodeFields_20 _ f_maj).trans (key _ f_fn f_d f_a f_b)⟩
theorem vabsF32 (d : VReg) (a : VReg) : Statement (Instr.vabsF32 d a) := by
  intro hw w h
  have h := Option.some.inj h
  subst h
  exact readBack_of rfl (vabsF32_word d a).1 (vabsF32_word d a).2 hw
theorem vnegF32_word (d : VReg) (a : VReg) : encA 0x20 9 d.toNat a.toNat 0 < 2 ^ 32 ∧ decodeFields (encA 0x20 9 d.toNat a.toNat 0) = .ok (Instr.vnegF32 d a) := by
  have key (wd : Nat) (e0 : bitsOf wd 24 21 = 9) (e1 : bitsOf wd 20 14 = d.toNat) (e2 : bitsOf wd 13 7 = a.toNat) (e3 : bitsOf wd 6 0 = 0) : decode20 wd = .ok (Instr.vnegF32 d a) := by
    simp only [decode20, e0, e1, e2, e3, ofNat_of_toNat, zeroed, if_true]
  obtain ⟨lt, f_maj, f_fn, f_d, f_a, f_b⟩ := encA_fields 0x20 9 d.toNat a.toNat 0
    (by decide) (by decide) d.isLt a.isLt (by decide)
  exact ⟨lt, (decodeFields_20 _ f_maj).trans (key _ f_fn f_d f_a f_b)⟩
theorem vnegF32 (d : VReg) (a : VReg) : Statement (Instr.vnegF32 d a) := by
  intro hw w h
  have h := Option.some.inj h
  subst h
  exact readBack_of rfl (vnegF32_word d a).1 (vnegF32_word d a).2 hw
theorem vscaleF32_word (d : VReg) (a : VReg) (b : VReg) : encA 0x20 10 d.toNat a.toNat b.toNat < 2 ^ 32 ∧ decodeFields (encA 0x20 10 d.toNat a.toNat b.toNat) = .ok (Instr.vscaleF32 d a b) := by
  have key (wd : Nat) (e0 : bitsOf wd 24 21 = 10) (e1 : bitsOf wd 20 14 = d.toNat) (e2 : bitsOf wd 13 7 = a.toNat) (e3 : bitsOf wd 6 0 = b.toNat) : decode20 wd = .ok (Instr.vscaleF32 d a b) := by
    simp only [decode20, e0, e1, e2, e3, ofNat_of_toNat]
  obtain ⟨lt, f_maj, f_fn, f_d, f_a, f_b⟩ := encA_fields 0x20 10 d.toNat a.toNat b.toNat
    (by decide) (by decide) d.isLt a.isLt b.isLt
  exact ⟨lt, (decodeFields_20 _ f_maj).trans (key _ f_fn f_d f_a f_b)⟩
theorem vscaleF32 (d : VReg) (a : VReg) (b : VReg) : Statement (Instr.vscaleF32 d a b) := by
  intro hw w h
  have h := Option.some.inj h
  subst h
  exact readBack_of rfl (vscaleF32_word d a b).1 (vscaleF32_word d a b).2 hw
theorem vgetexpF32_word (d : VReg) (a : VReg) : encA 0x20 11 d.toNat a.toNat 0 < 2 ^ 32 ∧ decodeFields (encA 0x20 11 d.toNat a.toNat 0) = .ok (Instr.vgetexpF32 d a) := by
  have key (wd : Nat) (e0 : bitsOf wd 24 21 = 11) (e1 : bitsOf wd 20 14 = d.toNat) (e2 : bitsOf wd 13 7 = a.toNat) (e3 : bitsOf wd 6 0 = 0) : decode20 wd = .ok (Instr.vgetexpF32 d a) := by
    simp only [decode20, e0, e1, e2, e3, ofNat_of_toNat, zeroed, if_true]
  obtain ⟨lt, f_maj, f_fn, f_d, f_a, f_b⟩ := encA_fields 0x20 11 d.toNat a.toNat 0
    (by decide) (by decide) d.isLt a.isLt (by decide)
  exact ⟨lt, (decodeFields_20 _ f_maj).trans (key _ f_fn f_d f_a f_b)⟩
theorem vgetexpF32 (d : VReg) (a : VReg) : Statement (Instr.vgetexpF32 d a) := by
  intro hw w h
  have h := Option.some.inj h
  subst h
  exact readBack_of rfl (vgetexpF32_word d a).1 (vgetexpF32_word d a).2 hw
theorem vrndF32_word (d : VReg) (a : VReg) : encA 0x20 12 d.toNat a.toNat 0 < 2 ^ 32 ∧ decodeFields (encA 0x20 12 d.toNat a.toNat 0) = .ok (Instr.vrndF32 d a) := by
  have key (wd : Nat) (e0 : bitsOf wd 24 21 = 12) (e1 : bitsOf wd 20 14 = d.toNat) (e2 : bitsOf wd 13 7 = a.toNat) (e3 : bitsOf wd 6 0 = 0) : decode20 wd = .ok (Instr.vrndF32 d a) := by
    simp only [decode20, e0, e1, e2, e3, ofNat_of_toNat, zeroed, if_true]
  obtain ⟨lt, f_maj, f_fn, f_d, f_a, f_b⟩ := encA_fields 0x20 12 d.toNat a.toNat 0
    (by decide) (by decide) d.isLt a.isLt (by decide)
  exact ⟨lt, (decodeFields_20 _ f_maj).trans (key _ f_fn f_d f_a f_b)⟩
theorem vrndF32 (d : VReg) (a : VReg) : Statement (Instr.vrndF32 d a) := by
  intro hw w h
  have h := Option.some.inj h
  subst h
  exact readBack_of rfl (vrndF32_word d a).1 (vrndF32_word d a).2 hw
theorem vclampF32_word (d : VReg) (a : VReg) (b : VReg) : encA 0x20 13 d.toNat a.toNat b.toNat < 2 ^ 32 ∧ decodeFields (encA 0x20 13 d.toNat a.toNat b.toNat) = .ok (Instr.vclampF32 d a b) := by
  have key (wd : Nat) (e0 : bitsOf wd 24 21 = 13) (e1 : bitsOf wd 20 14 = d.toNat) (e2 : bitsOf wd 13 7 = a.toNat) (e3 : bitsOf wd 6 0 = b.toNat) : decode20 wd = .ok (Instr.vclampF32 d a b) := by
    simp only [decode20, e0, e1, e2, e3, ofNat_of_toNat]
  obtain ⟨lt, f_maj, f_fn, f_d, f_a, f_b⟩ := encA_fields 0x20 13 d.toNat a.toNat b.toNat
    (by decide) (by decide) d.isLt a.isLt b.isLt
  exact ⟨lt, (decodeFields_20 _ f_maj).trans (key _ f_fn f_d f_a f_b)⟩
theorem vclampF32 (d : VReg) (a : VReg) (b : VReg) : Statement (Instr.vclampF32 d a b) := by
  intro hw w h
  have h := Option.some.inj h
  subst h
  exact readBack_of rfl (vclampF32_word d a b).1 (vclampF32_word d a b).2 hw
theorem vmovF32_word (d : VReg) (a : VReg) : encA 0x20 14 d.toNat a.toNat 0 < 2 ^ 32 ∧ decodeFields (encA 0x20 14 d.toNat a.toNat 0) = .ok (Instr.vmovF32 d a) := by
  have key (wd : Nat) (e0 : bitsOf wd 24 21 = 14) (e1 : bitsOf wd 20 14 = d.toNat) (e2 : bitsOf wd 13 7 = a.toNat) (e3 : bitsOf wd 6 0 = 0) : decode20 wd = .ok (Instr.vmovF32 d a) := by
    simp only [decode20, e0, e1, e2, e3, ofNat_of_toNat, zeroed, if_true]
  obtain ⟨lt, f_maj, f_fn, f_d, f_a, f_b⟩ := encA_fields 0x20 14 d.toNat a.toNat 0
    (by decide) (by decide) d.isLt a.isLt (by decide)
  exact ⟨lt, (decodeFields_20 _ f_maj).trans (key _ f_fn f_d f_a f_b)⟩
theorem vmovF32 (d : VReg) (a : VReg) : Statement (Instr.vmovF32 d a) := by
  intro hw w h
  have h := Option.some.inj h
  subst h
  exact readBack_of rfl (vmovF32_word d a).1 (vmovF32_word d a).2 hw
theorem vaddF16x2_word (d : VReg) (a : VReg) (b : VReg) : encA 0x21 0 d.toNat a.toNat b.toNat < 2 ^ 32 ∧ decodeFields (encA 0x21 0 d.toNat a.toNat b.toNat) = .ok (Instr.vaddF16x2 d a b) := by
  have key (wd : Nat) (e0 : bitsOf wd 24 21 = 0) (e1 : bitsOf wd 20 14 = d.toNat) (e2 : bitsOf wd 13 7 = a.toNat) (e3 : bitsOf wd 6 0 = b.toNat) : decode21 wd = .ok (Instr.vaddF16x2 d a b) := by
    simp only [decode21, e0, e1, e2, e3, ofNat_of_toNat]
  obtain ⟨lt, f_maj, f_fn, f_d, f_a, f_b⟩ := encA_fields 0x21 0 d.toNat a.toNat b.toNat
    (by decide) (by decide) d.isLt a.isLt b.isLt
  exact ⟨lt, (decodeFields_21 _ f_maj).trans (key _ f_fn f_d f_a f_b)⟩
theorem vaddF16x2 (d : VReg) (a : VReg) (b : VReg) : Statement (Instr.vaddF16x2 d a b) := by
  intro hw w h
  have h := Option.some.inj h
  subst h
  exact readBack_of rfl (vaddF16x2_word d a b).1 (vaddF16x2_word d a b).2 hw
theorem vsubF16x2_word (d : VReg) (a : VReg) (b : VReg) : encA 0x21 1 d.toNat a.toNat b.toNat < 2 ^ 32 ∧ decodeFields (encA 0x21 1 d.toNat a.toNat b.toNat) = .ok (Instr.vsubF16x2 d a b) := by
  have key (wd : Nat) (e0 : bitsOf wd 24 21 = 1) (e1 : bitsOf wd 20 14 = d.toNat) (e2 : bitsOf wd 13 7 = a.toNat) (e3 : bitsOf wd 6 0 = b.toNat) : decode21 wd = .ok (Instr.vsubF16x2 d a b) := by
    simp only [decode21, e0, e1, e2, e3, ofNat_of_toNat]
  obtain ⟨lt, f_maj, f_fn, f_d, f_a, f_b⟩ := encA_fields 0x21 1 d.toNat a.toNat b.toNat
    (by decide) (by decide) d.isLt a.isLt b.isLt
  exact ⟨lt, (decodeFields_21 _ f_maj).trans (key _ f_fn f_d f_a f_b)⟩
theorem vsubF16x2 (d : VReg) (a : VReg) (b : VReg) : Statement (Instr.vsubF16x2 d a b) := by
  intro hw w h
  have h := Option.some.inj h
  subst h
  exact readBack_of rfl (vsubF16x2_word d a b).1 (vsubF16x2_word d a b).2 hw
theorem vmulF16x2_word (d : VReg) (a : VReg) (b : VReg) : encA 0x21 2 d.toNat a.toNat b.toNat < 2 ^ 32 ∧ decodeFields (encA 0x21 2 d.toNat a.toNat b.toNat) = .ok (Instr.vmulF16x2 d a b) := by
  have key (wd : Nat) (e0 : bitsOf wd 24 21 = 2) (e1 : bitsOf wd 20 14 = d.toNat) (e2 : bitsOf wd 13 7 = a.toNat) (e3 : bitsOf wd 6 0 = b.toNat) : decode21 wd = .ok (Instr.vmulF16x2 d a b) := by
    simp only [decode21, e0, e1, e2, e3, ofNat_of_toNat]
  obtain ⟨lt, f_maj, f_fn, f_d, f_a, f_b⟩ := encA_fields 0x21 2 d.toNat a.toNat b.toNat
    (by decide) (by decide) d.isLt a.isLt b.isLt
  exact ⟨lt, (decodeFields_21 _ f_maj).trans (key _ f_fn f_d f_a f_b)⟩
theorem vmulF16x2 (d : VReg) (a : VReg) (b : VReg) : Statement (Instr.vmulF16x2 d a b) := by
  intro hw w h
  have h := Option.some.inj h
  subst h
  exact readBack_of rfl (vmulF16x2_word d a b).1 (vmulF16x2_word d a b).2 hw
theorem vfmaF16x2_word (d : VReg) (a : VReg) (b : VReg) : encA 0x21 3 d.toNat a.toNat b.toNat < 2 ^ 32 ∧ decodeFields (encA 0x21 3 d.toNat a.toNat b.toNat) = .ok (Instr.vfmaF16x2 d a b) := by
  have key (wd : Nat) (e0 : bitsOf wd 24 21 = 3) (e1 : bitsOf wd 20 14 = d.toNat) (e2 : bitsOf wd 13 7 = a.toNat) (e3 : bitsOf wd 6 0 = b.toNat) : decode21 wd = .ok (Instr.vfmaF16x2 d a b) := by
    simp only [decode21, e0, e1, e2, e3, ofNat_of_toNat]
  obtain ⟨lt, f_maj, f_fn, f_d, f_a, f_b⟩ := encA_fields 0x21 3 d.toNat a.toNat b.toNat
    (by decide) (by decide) d.isLt a.isLt b.isLt
  exact ⟨lt, (decodeFields_21 _ f_maj).trans (key _ f_fn f_d f_a f_b)⟩
theorem vfmaF16x2 (d : VReg) (a : VReg) (b : VReg) : Statement (Instr.vfmaF16x2 d a b) := by
  intro hw w h
  have h := Option.some.inj h
  subst h
  exact readBack_of rfl (vfmaF16x2_word d a b).1 (vfmaF16x2_word d a b).2 hw
theorem vfmsF16x2_word (d : VReg) (a : VReg) (b : VReg) : encA 0x21 4 d.toNat a.toNat b.toNat < 2 ^ 32 ∧ decodeFields (encA 0x21 4 d.toNat a.toNat b.toNat) = .ok (Instr.vfmsF16x2 d a b) := by
  have key (wd : Nat) (e0 : bitsOf wd 24 21 = 4) (e1 : bitsOf wd 20 14 = d.toNat) (e2 : bitsOf wd 13 7 = a.toNat) (e3 : bitsOf wd 6 0 = b.toNat) : decode21 wd = .ok (Instr.vfmsF16x2 d a b) := by
    simp only [decode21, e0, e1, e2, e3, ofNat_of_toNat]
  obtain ⟨lt, f_maj, f_fn, f_d, f_a, f_b⟩ := encA_fields 0x21 4 d.toNat a.toNat b.toNat
    (by decide) (by decide) d.isLt a.isLt b.isLt
  exact ⟨lt, (decodeFields_21 _ f_maj).trans (key _ f_fn f_d f_a f_b)⟩
theorem vfmsF16x2 (d : VReg) (a : VReg) (b : VReg) : Statement (Instr.vfmsF16x2 d a b) := by
  intro hw w h
  have h := Option.some.inj h
  subst h
  exact readBack_of rfl (vfmsF16x2_word d a b).1 (vfmsF16x2_word d a b).2 hw
theorem vfnmaF16x2_word (d : VReg) (a : VReg) (b : VReg) : encA 0x21 5 d.toNat a.toNat b.toNat < 2 ^ 32 ∧ decodeFields (encA 0x21 5 d.toNat a.toNat b.toNat) = .ok (Instr.vfnmaF16x2 d a b) := by
  have key (wd : Nat) (e0 : bitsOf wd 24 21 = 5) (e1 : bitsOf wd 20 14 = d.toNat) (e2 : bitsOf wd 13 7 = a.toNat) (e3 : bitsOf wd 6 0 = b.toNat) : decode21 wd = .ok (Instr.vfnmaF16x2 d a b) := by
    simp only [decode21, e0, e1, e2, e3, ofNat_of_toNat]
  obtain ⟨lt, f_maj, f_fn, f_d, f_a, f_b⟩ := encA_fields 0x21 5 d.toNat a.toNat b.toNat
    (by decide) (by decide) d.isLt a.isLt b.isLt
  exact ⟨lt, (decodeFields_21 _ f_maj).trans (key _ f_fn f_d f_a f_b)⟩
theorem vfnmaF16x2 (d : VReg) (a : VReg) (b : VReg) : Statement (Instr.vfnmaF16x2 d a b) := by
  intro hw w h
  have h := Option.some.inj h
  subst h
  exact readBack_of rfl (vfnmaF16x2_word d a b).1 (vfnmaF16x2_word d a b).2 hw
theorem vminF16x2_word (d : VReg) (a : VReg) (b : VReg) : encA 0x21 6 d.toNat a.toNat b.toNat < 2 ^ 32 ∧ decodeFields (encA 0x21 6 d.toNat a.toNat b.toNat) = .ok (Instr.vminF16x2 d a b) := by
  have key (wd : Nat) (e0 : bitsOf wd 24 21 = 6) (e1 : bitsOf wd 20 14 = d.toNat) (e2 : bitsOf wd 13 7 = a.toNat) (e3 : bitsOf wd 6 0 = b.toNat) : decode21 wd = .ok (Instr.vminF16x2 d a b) := by
    simp only [decode21, e0, e1, e2, e3, ofNat_of_toNat]
  obtain ⟨lt, f_maj, f_fn, f_d, f_a, f_b⟩ := encA_fields 0x21 6 d.toNat a.toNat b.toNat
    (by decide) (by decide) d.isLt a.isLt b.isLt
  exact ⟨lt, (decodeFields_21 _ f_maj).trans (key _ f_fn f_d f_a f_b)⟩
theorem vminF16x2 (d : VReg) (a : VReg) (b : VReg) : Statement (Instr.vminF16x2 d a b) := by
  intro hw w h
  have h := Option.some.inj h
  subst h
  exact readBack_of rfl (vminF16x2_word d a b).1 (vminF16x2_word d a b).2 hw
theorem vmaxF16x2_word (d : VReg) (a : VReg) (b : VReg) : encA 0x21 7 d.toNat a.toNat b.toNat < 2 ^ 32 ∧ decodeFields (encA 0x21 7 d.toNat a.toNat b.toNat) = .ok (Instr.vmaxF16x2 d a b) := by
  have key (wd : Nat) (e0 : bitsOf wd 24 21 = 7) (e1 : bitsOf wd 20 14 = d.toNat) (e2 : bitsOf wd 13 7 = a.toNat) (e3 : bitsOf wd 6 0 = b.toNat) : decode21 wd = .ok (Instr.vmaxF16x2 d a b) := by
    simp only [decode21, e0, e1, e2, e3, ofNat_of_toNat]
  obtain ⟨lt, f_maj, f_fn, f_d, f_a, f_b⟩ := encA_fields 0x21 7 d.toNat a.toNat b.toNat
    (by decide) (by decide) d.isLt a.isLt b.isLt
  exact ⟨lt, (decodeFields_21 _ f_maj).trans (key _ f_fn f_d f_a f_b)⟩
theorem vmaxF16x2 (d : VReg) (a : VReg) (b : VReg) : Statement (Instr.vmaxF16x2 d a b) := by
  intro hw w h
  have h := Option.some.inj h
  subst h
  exact readBack_of rfl (vmaxF16x2_word d a b).1 (vmaxF16x2_word d a b).2 hw
theorem vabsF16x2_word (d : VReg) (a : VReg) : encA 0x21 8 d.toNat a.toNat 0 < 2 ^ 32 ∧ decodeFields (encA 0x21 8 d.toNat a.toNat 0) = .ok (Instr.vabsF16x2 d a) := by
  have key (wd : Nat) (e0 : bitsOf wd 24 21 = 8) (e1 : bitsOf wd 20 14 = d.toNat) (e2 : bitsOf wd 13 7 = a.toNat) (e3 : bitsOf wd 6 0 = 0) : decode21 wd = .ok (Instr.vabsF16x2 d a) := by
    simp only [decode21, e0, e1, e2, e3, ofNat_of_toNat, zeroed, if_true]
  obtain ⟨lt, f_maj, f_fn, f_d, f_a, f_b⟩ := encA_fields 0x21 8 d.toNat a.toNat 0
    (by decide) (by decide) d.isLt a.isLt (by decide)
  exact ⟨lt, (decodeFields_21 _ f_maj).trans (key _ f_fn f_d f_a f_b)⟩
theorem vabsF16x2 (d : VReg) (a : VReg) : Statement (Instr.vabsF16x2 d a) := by
  intro hw w h
  have h := Option.some.inj h
  subst h
  exact readBack_of rfl (vabsF16x2_word d a).1 (vabsF16x2_word d a).2 hw
theorem vnegF16x2_word (d : VReg) (a : VReg) : encA 0x21 9 d.toNat a.toNat 0 < 2 ^ 32 ∧ decodeFields (encA 0x21 9 d.toNat a.toNat 0) = .ok (Instr.vnegF16x2 d a) := by
  have key (wd : Nat) (e0 : bitsOf wd 24 21 = 9) (e1 : bitsOf wd 20 14 = d.toNat) (e2 : bitsOf wd 13 7 = a.toNat) (e3 : bitsOf wd 6 0 = 0) : decode21 wd = .ok (Instr.vnegF16x2 d a) := by
    simp only [decode21, e0, e1, e2, e3, ofNat_of_toNat, zeroed, if_true]
  obtain ⟨lt, f_maj, f_fn, f_d, f_a, f_b⟩ := encA_fields 0x21 9 d.toNat a.toNat 0
    (by decide) (by decide) d.isLt a.isLt (by decide)
  exact ⟨lt, (decodeFields_21 _ f_maj).trans (key _ f_fn f_d f_a f_b)⟩
theorem vnegF16x2 (d : VReg) (a : VReg) : Statement (Instr.vnegF16x2 d a) := by
  intro hw w h
  have h := Option.some.inj h
  subst h
  exact readBack_of rfl (vnegF16x2_word d a).1 (vnegF16x2_word d a).2 hw
theorem vaddBf16x2_word (d : VReg) (a : VReg) (b : VReg) : encA 0x22 0 d.toNat a.toNat b.toNat < 2 ^ 32 ∧ decodeFields (encA 0x22 0 d.toNat a.toNat b.toNat) = .ok (Instr.vaddBf16x2 d a b) := by
  have key (wd : Nat) (e0 : bitsOf wd 24 21 = 0) (e1 : bitsOf wd 20 14 = d.toNat) (e2 : bitsOf wd 13 7 = a.toNat) (e3 : bitsOf wd 6 0 = b.toNat) : decode22 wd = .ok (Instr.vaddBf16x2 d a b) := by
    simp only [decode22, e0, e1, e2, e3, ofNat_of_toNat]
  obtain ⟨lt, f_maj, f_fn, f_d, f_a, f_b⟩ := encA_fields 0x22 0 d.toNat a.toNat b.toNat
    (by decide) (by decide) d.isLt a.isLt b.isLt
  exact ⟨lt, (decodeFields_22 _ f_maj).trans (key _ f_fn f_d f_a f_b)⟩
theorem vaddBf16x2 (d : VReg) (a : VReg) (b : VReg) : Statement (Instr.vaddBf16x2 d a b) := by
  intro hw w h
  have h := Option.some.inj h
  subst h
  exact readBack_of rfl (vaddBf16x2_word d a b).1 (vaddBf16x2_word d a b).2 hw
theorem vsubBf16x2_word (d : VReg) (a : VReg) (b : VReg) : encA 0x22 1 d.toNat a.toNat b.toNat < 2 ^ 32 ∧ decodeFields (encA 0x22 1 d.toNat a.toNat b.toNat) = .ok (Instr.vsubBf16x2 d a b) := by
  have key (wd : Nat) (e0 : bitsOf wd 24 21 = 1) (e1 : bitsOf wd 20 14 = d.toNat) (e2 : bitsOf wd 13 7 = a.toNat) (e3 : bitsOf wd 6 0 = b.toNat) : decode22 wd = .ok (Instr.vsubBf16x2 d a b) := by
    simp only [decode22, e0, e1, e2, e3, ofNat_of_toNat]
  obtain ⟨lt, f_maj, f_fn, f_d, f_a, f_b⟩ := encA_fields 0x22 1 d.toNat a.toNat b.toNat
    (by decide) (by decide) d.isLt a.isLt b.isLt
  exact ⟨lt, (decodeFields_22 _ f_maj).trans (key _ f_fn f_d f_a f_b)⟩
theorem vsubBf16x2 (d : VReg) (a : VReg) (b : VReg) : Statement (Instr.vsubBf16x2 d a b) := by
  intro hw w h
  have h := Option.some.inj h
  subst h
  exact readBack_of rfl (vsubBf16x2_word d a b).1 (vsubBf16x2_word d a b).2 hw
theorem vmulBf16x2_word (d : VReg) (a : VReg) (b : VReg) : encA 0x22 2 d.toNat a.toNat b.toNat < 2 ^ 32 ∧ decodeFields (encA 0x22 2 d.toNat a.toNat b.toNat) = .ok (Instr.vmulBf16x2 d a b) := by
  have key (wd : Nat) (e0 : bitsOf wd 24 21 = 2) (e1 : bitsOf wd 20 14 = d.toNat) (e2 : bitsOf wd 13 7 = a.toNat) (e3 : bitsOf wd 6 0 = b.toNat) : decode22 wd = .ok (Instr.vmulBf16x2 d a b) := by
    simp only [decode22, e0, e1, e2, e3, ofNat_of_toNat]
  obtain ⟨lt, f_maj, f_fn, f_d, f_a, f_b⟩ := encA_fields 0x22 2 d.toNat a.toNat b.toNat
    (by decide) (by decide) d.isLt a.isLt b.isLt
  exact ⟨lt, (decodeFields_22 _ f_maj).trans (key _ f_fn f_d f_a f_b)⟩
theorem vmulBf16x2 (d : VReg) (a : VReg) (b : VReg) : Statement (Instr.vmulBf16x2 d a b) := by
  intro hw w h
  have h := Option.some.inj h
  subst h
  exact readBack_of rfl (vmulBf16x2_word d a b).1 (vmulBf16x2_word d a b).2 hw
theorem vfmaBf16x2_word (d : VReg) (a : VReg) (b : VReg) : encA 0x22 3 d.toNat a.toNat b.toNat < 2 ^ 32 ∧ decodeFields (encA 0x22 3 d.toNat a.toNat b.toNat) = .ok (Instr.vfmaBf16x2 d a b) := by
  have key (wd : Nat) (e0 : bitsOf wd 24 21 = 3) (e1 : bitsOf wd 20 14 = d.toNat) (e2 : bitsOf wd 13 7 = a.toNat) (e3 : bitsOf wd 6 0 = b.toNat) : decode22 wd = .ok (Instr.vfmaBf16x2 d a b) := by
    simp only [decode22, e0, e1, e2, e3, ofNat_of_toNat]
  obtain ⟨lt, f_maj, f_fn, f_d, f_a, f_b⟩ := encA_fields 0x22 3 d.toNat a.toNat b.toNat
    (by decide) (by decide) d.isLt a.isLt b.isLt
  exact ⟨lt, (decodeFields_22 _ f_maj).trans (key _ f_fn f_d f_a f_b)⟩
theorem vfmaBf16x2 (d : VReg) (a : VReg) (b : VReg) : Statement (Instr.vfmaBf16x2 d a b) := by
  intro hw w h
  have h := Option.some.inj h
  subst h
  exact readBack_of rfl (vfmaBf16x2_word d a b).1 (vfmaBf16x2_word d a b).2 hw
theorem vfmsBf16x2_word (d : VReg) (a : VReg) (b : VReg) : encA 0x22 4 d.toNat a.toNat b.toNat < 2 ^ 32 ∧ decodeFields (encA 0x22 4 d.toNat a.toNat b.toNat) = .ok (Instr.vfmsBf16x2 d a b) := by
  have key (wd : Nat) (e0 : bitsOf wd 24 21 = 4) (e1 : bitsOf wd 20 14 = d.toNat) (e2 : bitsOf wd 13 7 = a.toNat) (e3 : bitsOf wd 6 0 = b.toNat) : decode22 wd = .ok (Instr.vfmsBf16x2 d a b) := by
    simp only [decode22, e0, e1, e2, e3, ofNat_of_toNat]
  obtain ⟨lt, f_maj, f_fn, f_d, f_a, f_b⟩ := encA_fields 0x22 4 d.toNat a.toNat b.toNat
    (by decide) (by decide) d.isLt a.isLt b.isLt
  exact ⟨lt, (decodeFields_22 _ f_maj).trans (key _ f_fn f_d f_a f_b)⟩
theorem vfmsBf16x2 (d : VReg) (a : VReg) (b : VReg) : Statement (Instr.vfmsBf16x2 d a b) := by
  intro hw w h
  have h := Option.some.inj h
  subst h
  exact readBack_of rfl (vfmsBf16x2_word d a b).1 (vfmsBf16x2_word d a b).2 hw
theorem vfnmaBf16x2_word (d : VReg) (a : VReg) (b : VReg) : encA 0x22 5 d.toNat a.toNat b.toNat < 2 ^ 32 ∧ decodeFields (encA 0x22 5 d.toNat a.toNat b.toNat) = .ok (Instr.vfnmaBf16x2 d a b) := by
  have key (wd : Nat) (e0 : bitsOf wd 24 21 = 5) (e1 : bitsOf wd 20 14 = d.toNat) (e2 : bitsOf wd 13 7 = a.toNat) (e3 : bitsOf wd 6 0 = b.toNat) : decode22 wd = .ok (Instr.vfnmaBf16x2 d a b) := by
    simp only [decode22, e0, e1, e2, e3, ofNat_of_toNat]
  obtain ⟨lt, f_maj, f_fn, f_d, f_a, f_b⟩ := encA_fields 0x22 5 d.toNat a.toNat b.toNat
    (by decide) (by decide) d.isLt a.isLt b.isLt
  exact ⟨lt, (decodeFields_22 _ f_maj).trans (key _ f_fn f_d f_a f_b)⟩
theorem vfnmaBf16x2 (d : VReg) (a : VReg) (b : VReg) : Statement (Instr.vfnmaBf16x2 d a b) := by
  intro hw w h
  have h := Option.some.inj h
  subst h
  exact readBack_of rfl (vfnmaBf16x2_word d a b).1 (vfnmaBf16x2_word d a b).2 hw
theorem vminBf16x2_word (d : VReg) (a : VReg) (b : VReg) : encA 0x22 6 d.toNat a.toNat b.toNat < 2 ^ 32 ∧ decodeFields (encA 0x22 6 d.toNat a.toNat b.toNat) = .ok (Instr.vminBf16x2 d a b) := by
  have key (wd : Nat) (e0 : bitsOf wd 24 21 = 6) (e1 : bitsOf wd 20 14 = d.toNat) (e2 : bitsOf wd 13 7 = a.toNat) (e3 : bitsOf wd 6 0 = b.toNat) : decode22 wd = .ok (Instr.vminBf16x2 d a b) := by
    simp only [decode22, e0, e1, e2, e3, ofNat_of_toNat]
  obtain ⟨lt, f_maj, f_fn, f_d, f_a, f_b⟩ := encA_fields 0x22 6 d.toNat a.toNat b.toNat
    (by decide) (by decide) d.isLt a.isLt b.isLt
  exact ⟨lt, (decodeFields_22 _ f_maj).trans (key _ f_fn f_d f_a f_b)⟩
theorem vminBf16x2 (d : VReg) (a : VReg) (b : VReg) : Statement (Instr.vminBf16x2 d a b) := by
  intro hw w h
  have h := Option.some.inj h
  subst h
  exact readBack_of rfl (vminBf16x2_word d a b).1 (vminBf16x2_word d a b).2 hw
theorem vmaxBf16x2_word (d : VReg) (a : VReg) (b : VReg) : encA 0x22 7 d.toNat a.toNat b.toNat < 2 ^ 32 ∧ decodeFields (encA 0x22 7 d.toNat a.toNat b.toNat) = .ok (Instr.vmaxBf16x2 d a b) := by
  have key (wd : Nat) (e0 : bitsOf wd 24 21 = 7) (e1 : bitsOf wd 20 14 = d.toNat) (e2 : bitsOf wd 13 7 = a.toNat) (e3 : bitsOf wd 6 0 = b.toNat) : decode22 wd = .ok (Instr.vmaxBf16x2 d a b) := by
    simp only [decode22, e0, e1, e2, e3, ofNat_of_toNat]
  obtain ⟨lt, f_maj, f_fn, f_d, f_a, f_b⟩ := encA_fields 0x22 7 d.toNat a.toNat b.toNat
    (by decide) (by decide) d.isLt a.isLt b.isLt
  exact ⟨lt, (decodeFields_22 _ f_maj).trans (key _ f_fn f_d f_a f_b)⟩
theorem vmaxBf16x2 (d : VReg) (a : VReg) (b : VReg) : Statement (Instr.vmaxBf16x2 d a b) := by
  intro hw w h
  have h := Option.some.inj h
  subst h
  exact readBack_of rfl (vmaxBf16x2_word d a b).1 (vmaxBf16x2_word d a b).2 hw
theorem vabsBf16x2_word (d : VReg) (a : VReg) : encA 0x22 8 d.toNat a.toNat 0 < 2 ^ 32 ∧ decodeFields (encA 0x22 8 d.toNat a.toNat 0) = .ok (Instr.vabsBf16x2 d a) := by
  have key (wd : Nat) (e0 : bitsOf wd 24 21 = 8) (e1 : bitsOf wd 20 14 = d.toNat) (e2 : bitsOf wd 13 7 = a.toNat) (e3 : bitsOf wd 6 0 = 0) : decode22 wd = .ok (Instr.vabsBf16x2 d a) := by
    simp only [decode22, e0, e1, e2, e3, ofNat_of_toNat, zeroed, if_true]
  obtain ⟨lt, f_maj, f_fn, f_d, f_a, f_b⟩ := encA_fields 0x22 8 d.toNat a.toNat 0
    (by decide) (by decide) d.isLt a.isLt (by decide)
  exact ⟨lt, (decodeFields_22 _ f_maj).trans (key _ f_fn f_d f_a f_b)⟩
theorem vabsBf16x2 (d : VReg) (a : VReg) : Statement (Instr.vabsBf16x2 d a) := by
  intro hw w h
  have h := Option.some.inj h
  subst h
  exact readBack_of rfl (vabsBf16x2_word d a).1 (vabsBf16x2_word d a).2 hw
theorem vnegBf16x2_word (d : VReg) (a : VReg) : encA 0x22 9 d.toNat a.toNat 0 < 2 ^ 32 ∧ decodeFields (encA 0x22 9 d.toNat a.toNat 0) = .ok (Instr.vnegBf16x2 d a) := by
  have key (wd : Nat) (e0 : bitsOf wd 24 21 = 9) (e1 : bitsOf wd 20 14 = d.toNat) (e2 : bitsOf wd 13 7 = a.toNat) (e3 : bitsOf wd 6 0 = 0) : decode22 wd = .ok (Instr.vnegBf16x2 d a) := by
    simp only [decode22, e0, e1, e2, e3, ofNat_of_toNat, zeroed, if_true]
  obtain ⟨lt, f_maj, f_fn, f_d, f_a, f_b⟩ := encA_fields 0x22 9 d.toNat a.toNat 0
    (by decide) (by decide) d.isLt a.isLt (by decide)
  exact ⟨lt, (decodeFields_22 _ f_maj).trans (key _ f_fn f_d f_a f_b)⟩
theorem vnegBf16x2 (d : VReg) (a : VReg) : Statement (Instr.vnegBf16x2 d a) := by
  intro hw w h
  have h := Option.some.inj h
  subst h
  exact readBack_of rfl (vnegBf16x2_word d a).1 (vnegBf16x2_word d a).2 hw
theorem vcmpf_word (c : FCond) (d : KReg) (a : VReg) (b : VReg) : encA 0x23 c.toCode d.toNat a.toNat b.toNat < 2 ^ 32 ∧ decodeFields (encA 0x23 c.toCode d.toNat a.toNat b.toNat) = .ok (Instr.vcmpf c d a b) := by
  have key (wd : Nat) (e0 : bitsOf wd 24 21 = c.toCode) (e1 : bitsOf wd 20 14 = d.toNat) (e2 : bitsOf wd 13 7 = a.toNat) (e3 : bitsOf wd 6 0 = b.toNat) : decode23 wd = .ok (Instr.vcmpf c d a b) := by
    simp only [decode23, e0, e1, e2, e3, FCond.ofCode_toCode, kreg_toNat, ofNat_of_toNat, bind1]
  obtain ⟨lt, f_maj, f_fn, f_d, f_a, f_b⟩ := encA_fields 0x23 c.toCode d.toNat a.toNat b.toNat
    (by decide) c.toCode_lt (Nat.lt_of_lt_of_le d.isLt (by decide)) a.isLt b.isLt
  exact ⟨lt, (decodeFields_23 _ f_maj).trans (key _ f_fn f_d f_a f_b)⟩
theorem vcmpf (c : FCond) (d : KReg) (a : VReg) (b : VReg) : Statement (Instr.vcmpf c d a b) := by
  intro hw w h
  have h := Option.some.inj h
  subst h
  exact readBack_of rfl (vcmpf_word c d a b).1 (vcmpf_word c d a b).2 hw
theorem vaddI32_word (d : VReg) (a : VReg) (b : VReg) : encA 0x24 0 d.toNat a.toNat b.toNat < 2 ^ 32 ∧ decodeFields (encA 0x24 0 d.toNat a.toNat b.toNat) = .ok (Instr.vaddI32 d a b) := by
  have key (wd : Nat) (e0 : bitsOf wd 24 21 = 0) (e1 : bitsOf wd 20 14 = d.toNat) (e2 : bitsOf wd 13 7 = a.toNat) (e3 : bitsOf wd 6 0 = b.toNat) : decode24 wd = .ok (Instr.vaddI32 d a b) := by
    simp only [decode24, e0, e1, e2, e3, ofNat_of_toNat]
  obtain ⟨lt, f_maj, f_fn, f_d, f_a, f_b⟩ := encA_fields 0x24 0 d.toNat a.toNat b.toNat
    (by decide) (by decide) d.isLt a.isLt b.isLt
  exact ⟨lt, (decodeFields_24 _ f_maj).trans (key _ f_fn f_d f_a f_b)⟩
theorem vaddI32 (d : VReg) (a : VReg) (b : VReg) : Statement (Instr.vaddI32 d a b) := by
  intro hw w h
  have h := Option.some.inj h
  subst h
  exact readBack_of rfl (vaddI32_word d a b).1 (vaddI32_word d a b).2 hw
theorem vsubI32_word (d : VReg) (a : VReg) (b : VReg) : encA 0x24 1 d.toNat a.toNat b.toNat < 2 ^ 32 ∧ decodeFields (encA 0x24 1 d.toNat a.toNat b.toNat) = .ok (Instr.vsubI32 d a b) := by
  have key (wd : Nat) (e0 : bitsOf wd 24 21 = 1) (e1 : bitsOf wd 20 14 = d.toNat) (e2 : bitsOf wd 13 7 = a.toNat) (e3 : bitsOf wd 6 0 = b.toNat) : decode24 wd = .ok (Instr.vsubI32 d a b) := by
    simp only [decode24, e0, e1, e2, e3, ofNat_of_toNat]
  obtain ⟨lt, f_maj, f_fn, f_d, f_a, f_b⟩ := encA_fields 0x24 1 d.toNat a.toNat b.toNat
    (by decide) (by decide) d.isLt a.isLt b.isLt
  exact ⟨lt, (decodeFields_24 _ f_maj).trans (key _ f_fn f_d f_a f_b)⟩
theorem vsubI32 (d : VReg) (a : VReg) (b : VReg) : Statement (Instr.vsubI32 d a b) := by
  intro hw w h
  have h := Option.some.inj h
  subst h
  exact readBack_of rfl (vsubI32_word d a b).1 (vsubI32_word d a b).2 hw
theorem vmulI32_word (d : VReg) (a : VReg) (b : VReg) : encA 0x24 2 d.toNat a.toNat b.toNat < 2 ^ 32 ∧ decodeFields (encA 0x24 2 d.toNat a.toNat b.toNat) = .ok (Instr.vmulI32 d a b) := by
  have key (wd : Nat) (e0 : bitsOf wd 24 21 = 2) (e1 : bitsOf wd 20 14 = d.toNat) (e2 : bitsOf wd 13 7 = a.toNat) (e3 : bitsOf wd 6 0 = b.toNat) : decode24 wd = .ok (Instr.vmulI32 d a b) := by
    simp only [decode24, e0, e1, e2, e3, ofNat_of_toNat]
  obtain ⟨lt, f_maj, f_fn, f_d, f_a, f_b⟩ := encA_fields 0x24 2 d.toNat a.toNat b.toNat
    (by decide) (by decide) d.isLt a.isLt b.isLt
  exact ⟨lt, (decodeFields_24 _ f_maj).trans (key _ f_fn f_d f_a f_b)⟩
theorem vmulI32 (d : VReg) (a : VReg) (b : VReg) : Statement (Instr.vmulI32 d a b) := by
  intro hw w h
  have h := Option.some.inj h
  subst h
  exact readBack_of rfl (vmulI32_word d a b).1 (vmulI32_word d a b).2 hw
theorem vmulh_word (d : VReg) (a : VReg) (b : VReg) : encA 0x24 3 d.toNat a.toNat b.toNat < 2 ^ 32 ∧ decodeFields (encA 0x24 3 d.toNat a.toNat b.toNat) = .ok (Instr.vmulh d a b) := by
  have key (wd : Nat) (e0 : bitsOf wd 24 21 = 3) (e1 : bitsOf wd 20 14 = d.toNat) (e2 : bitsOf wd 13 7 = a.toNat) (e3 : bitsOf wd 6 0 = b.toNat) : decode24 wd = .ok (Instr.vmulh d a b) := by
    simp only [decode24, e0, e1, e2, e3, ofNat_of_toNat]
  obtain ⟨lt, f_maj, f_fn, f_d, f_a, f_b⟩ := encA_fields 0x24 3 d.toNat a.toNat b.toNat
    (by decide) (by decide) d.isLt a.isLt b.isLt
  exact ⟨lt, (decodeFields_24 _ f_maj).trans (key _ f_fn f_d f_a f_b)⟩
theorem vmulh (d : VReg) (a : VReg) (b : VReg) : Statement (Instr.vmulh d a b) := by
  intro hw w h
  have h := Option.some.inj h
  subst h
  exact readBack_of rfl (vmulh_word d a b).1 (vmulh_word d a b).2 hw
theorem vmulhn_word (d : VReg) (a : VReg) (b : VReg) : encA 0x24 4 d.toNat a.toNat b.toNat < 2 ^ 32 ∧ decodeFields (encA 0x24 4 d.toNat a.toNat b.toNat) = .ok (Instr.vmulhn d a b) := by
  have key (wd : Nat) (e0 : bitsOf wd 24 21 = 4) (e1 : bitsOf wd 20 14 = d.toNat) (e2 : bitsOf wd 13 7 = a.toNat) (e3 : bitsOf wd 6 0 = b.toNat) : decode24 wd = .ok (Instr.vmulhn d a b) := by
    simp only [decode24, e0, e1, e2, e3, ofNat_of_toNat]
  obtain ⟨lt, f_maj, f_fn, f_d, f_a, f_b⟩ := encA_fields 0x24 4 d.toNat a.toNat b.toNat
    (by decide) (by decide) d.isLt a.isLt b.isLt
  exact ⟨lt, (decodeFields_24 _ f_maj).trans (key _ f_fn f_d f_a f_b)⟩
theorem vmulhn (d : VReg) (a : VReg) (b : VReg) : Statement (Instr.vmulhn d a b) := by
  intro hw w h
  have h := Option.some.inj h
  subst h
  exact readBack_of rfl (vmulhn_word d a b).1 (vmulhn_word d a b).2 hw
theorem vmad_word (d : VReg) (a : VReg) (b : VReg) : encA 0x24 5 d.toNat a.toNat b.toNat < 2 ^ 32 ∧ decodeFields (encA 0x24 5 d.toNat a.toNat b.toNat) = .ok (Instr.vmad d a b) := by
  have key (wd : Nat) (e0 : bitsOf wd 24 21 = 5) (e1 : bitsOf wd 20 14 = d.toNat) (e2 : bitsOf wd 13 7 = a.toNat) (e3 : bitsOf wd 6 0 = b.toNat) : decode24 wd = .ok (Instr.vmad d a b) := by
    simp only [decode24, e0, e1, e2, e3, ofNat_of_toNat]
  obtain ⟨lt, f_maj, f_fn, f_d, f_a, f_b⟩ := encA_fields 0x24 5 d.toNat a.toNat b.toNat
    (by decide) (by decide) d.isLt a.isLt b.isLt
  exact ⟨lt, (decodeFields_24 _ f_maj).trans (key _ f_fn f_d f_a f_b)⟩
theorem vmad (d : VReg) (a : VReg) (b : VReg) : Statement (Instr.vmad d a b) := by
  intro hw w h
  have h := Option.some.inj h
  subst h
  exact readBack_of rfl (vmad_word d a b).1 (vmad_word d a b).2 hw
theorem vminI32_word (d : VReg) (a : VReg) (b : VReg) : encA 0x24 6 d.toNat a.toNat b.toNat < 2 ^ 32 ∧ decodeFields (encA 0x24 6 d.toNat a.toNat b.toNat) = .ok (Instr.vminI32 d a b) := by
  have key (wd : Nat) (e0 : bitsOf wd 24 21 = 6) (e1 : bitsOf wd 20 14 = d.toNat) (e2 : bitsOf wd 13 7 = a.toNat) (e3 : bitsOf wd 6 0 = b.toNat) : decode24 wd = .ok (Instr.vminI32 d a b) := by
    simp only [decode24, e0, e1, e2, e3, ofNat_of_toNat]
  obtain ⟨lt, f_maj, f_fn, f_d, f_a, f_b⟩ := encA_fields 0x24 6 d.toNat a.toNat b.toNat
    (by decide) (by decide) d.isLt a.isLt b.isLt
  exact ⟨lt, (decodeFields_24 _ f_maj).trans (key _ f_fn f_d f_a f_b)⟩
theorem vminI32 (d : VReg) (a : VReg) (b : VReg) : Statement (Instr.vminI32 d a b) := by
  intro hw w h
  have h := Option.some.inj h
  subst h
  exact readBack_of rfl (vminI32_word d a b).1 (vminI32_word d a b).2 hw
theorem vmaxI32_word (d : VReg) (a : VReg) (b : VReg) : encA 0x24 7 d.toNat a.toNat b.toNat < 2 ^ 32 ∧ decodeFields (encA 0x24 7 d.toNat a.toNat b.toNat) = .ok (Instr.vmaxI32 d a b) := by
  have key (wd : Nat) (e0 : bitsOf wd 24 21 = 7) (e1 : bitsOf wd 20 14 = d.toNat) (e2 : bitsOf wd 13 7 = a.toNat) (e3 : bitsOf wd 6 0 = b.toNat) : decode24 wd = .ok (Instr.vmaxI32 d a b) := by
    simp only [decode24, e0, e1, e2, e3, ofNat_of_toNat]
  obtain ⟨lt, f_maj, f_fn, f_d, f_a, f_b⟩ := encA_fields 0x24 7 d.toNat a.toNat b.toNat
    (by decide) (by decide) d.isLt a.isLt b.isLt
  exact ⟨lt, (decodeFields_24 _ f_maj).trans (key _ f_fn f_d f_a f_b)⟩
theorem vmaxI32 (d : VReg) (a : VReg) (b : VReg) : Statement (Instr.vmaxI32 d a b) := by
  intro hw w h
  have h := Option.some.inj h
  subst h
  exact readBack_of rfl (vmaxI32_word d a b).1 (vmaxI32_word d a b).2 hw
theorem vminn_word (d : VReg) (a : VReg) (b : VReg) : encA 0x24 8 d.toNat a.toNat b.toNat < 2 ^ 32 ∧ decodeFields (encA 0x24 8 d.toNat a.toNat b.toNat) = .ok (Instr.vminn d a b) := by
  have key (wd : Nat) (e0 : bitsOf wd 24 21 = 8) (e1 : bitsOf wd 20 14 = d.toNat) (e2 : bitsOf wd 13 7 = a.toNat) (e3 : bitsOf wd 6 0 = b.toNat) : decode24 wd = .ok (Instr.vminn d a b) := by
    simp only [decode24, e0, e1, e2, e3, ofNat_of_toNat]
  obtain ⟨lt, f_maj, f_fn, f_d, f_a, f_b⟩ := encA_fields 0x24 8 d.toNat a.toNat b.toNat
    (by decide) (by decide) d.isLt a.isLt b.isLt
  exact ⟨lt, (decodeFields_24 _ f_maj).trans (key _ f_fn f_d f_a f_b)⟩
theorem vminn (d : VReg) (a : VReg) (b : VReg) : Statement (Instr.vminn d a b) := by
  intro hw w h
  have h := Option.some.inj h
  subst h
  exact readBack_of rfl (vminn_word d a b).1 (vminn_word d a b).2 hw
theorem vmaxn_word (d : VReg) (a : VReg) (b : VReg) : encA 0x24 9 d.toNat a.toNat b.toNat < 2 ^ 32 ∧ decodeFields (encA 0x24 9 d.toNat a.toNat b.toNat) = .ok (Instr.vmaxn d a b) := by
  have key (wd : Nat) (e0 : bitsOf wd 24 21 = 9) (e1 : bitsOf wd 20 14 = d.toNat) (e2 : bitsOf wd 13 7 = a.toNat) (e3 : bitsOf wd 6 0 = b.toNat) : decode24 wd = .ok (Instr.vmaxn d a b) := by
    simp only [decode24, e0, e1, e2, e3, ofNat_of_toNat]
  obtain ⟨lt, f_maj, f_fn, f_d, f_a, f_b⟩ := encA_fields 0x24 9 d.toNat a.toNat b.toNat
    (by decide) (by decide) d.isLt a.isLt b.isLt
  exact ⟨lt, (decodeFields_24 _ f_maj).trans (key _ f_fn f_d f_a f_b)⟩
theorem vmaxn (d : VReg) (a : VReg) (b : VReg) : Statement (Instr.vmaxn d a b) := by
  intro hw w h
  have h := Option.some.inj h
  subst h
  exact readBack_of rfl (vmaxn_word d a b).1 (vmaxn_word d a b).2 hw
theorem vabsI32_word (d : VReg) (a : VReg) : encA 0x24 10 d.toNat a.toNat 0 < 2 ^ 32 ∧ decodeFields (encA 0x24 10 d.toNat a.toNat 0) = .ok (Instr.vabsI32 d a) := by
  have key (wd : Nat) (e0 : bitsOf wd 24 21 = 10) (e1 : bitsOf wd 20 14 = d.toNat) (e2 : bitsOf wd 13 7 = a.toNat) (e3 : bitsOf wd 6 0 = 0) : decode24 wd = .ok (Instr.vabsI32 d a) := by
    simp only [decode24, e0, e1, e2, e3, ofNat_of_toNat, zeroed, if_true]
  obtain ⟨lt, f_maj, f_fn, f_d, f_a, f_b⟩ := encA_fields 0x24 10 d.toNat a.toNat 0
    (by decide) (by decide) d.isLt a.isLt (by decide)
  exact ⟨lt, (decodeFields_24 _ f_maj).trans (key _ f_fn f_d f_a f_b)⟩
theorem vabsI32 (d : VReg) (a : VReg) : Statement (Instr.vabsI32 d a) := by
  intro hw w h
  have h := Option.some.inj h
  subst h
  exact readBack_of rfl (vabsI32_word d a).1 (vabsI32_word d a).2 hw
theorem vnegI32_word (d : VReg) (a : VReg) : encA 0x24 11 d.toNat a.toNat 0 < 2 ^ 32 ∧ decodeFields (encA 0x24 11 d.toNat a.toNat 0) = .ok (Instr.vnegI32 d a) := by
  have key (wd : Nat) (e0 : bitsOf wd 24 21 = 11) (e1 : bitsOf wd 20 14 = d.toNat) (e2 : bitsOf wd 13 7 = a.toNat) (e3 : bitsOf wd 6 0 = 0) : decode24 wd = .ok (Instr.vnegI32 d a) := by
    simp only [decode24, e0, e1, e2, e3, ofNat_of_toNat, zeroed, if_true]
  obtain ⟨lt, f_maj, f_fn, f_d, f_a, f_b⟩ := encA_fields 0x24 11 d.toNat a.toNat 0
    (by decide) (by decide) d.isLt a.isLt (by decide)
  exact ⟨lt, (decodeFields_24 _ f_maj).trans (key _ f_fn f_d f_a f_b)⟩
theorem vnegI32 (d : VReg) (a : VReg) : Statement (Instr.vnegI32 d a) := by
  intro hw w h
  have h := Option.some.inj h
  subst h
  exact readBack_of rfl (vnegI32_word d a).1 (vnegI32_word d a).2 hw
theorem vaddsI32_word (d : VReg) (a : VReg) (b : VReg) : encA 0x24 12 d.toNat a.toNat b.toNat < 2 ^ 32 ∧ decodeFields (encA 0x24 12 d.toNat a.toNat b.toNat) = .ok (Instr.vaddsI32 d a b) := by
  have key (wd : Nat) (e0 : bitsOf wd 24 21 = 12) (e1 : bitsOf wd 20 14 = d.toNat) (e2 : bitsOf wd 13 7 = a.toNat) (e3 : bitsOf wd 6 0 = b.toNat) : decode24 wd = .ok (Instr.vaddsI32 d a b) := by
    simp only [decode24, e0, e1, e2, e3, ofNat_of_toNat]
  obtain ⟨lt, f_maj, f_fn, f_d, f_a, f_b⟩ := encA_fields 0x24 12 d.toNat a.toNat b.toNat
    (by decide) (by decide) d.isLt a.isLt b.isLt
  exact ⟨lt, (decodeFields_24 _ f_maj).trans (key _ f_fn f_d f_a f_b)⟩
theorem vaddsI32 (d : VReg) (a : VReg) (b : VReg) : Statement (Instr.vaddsI32 d a b) := by
  intro hw w h
  have h := Option.some.inj h
  subst h
  exact readBack_of rfl (vaddsI32_word d a b).1 (vaddsI32_word d a b).2 hw
theorem vsubsI32_word (d : VReg) (a : VReg) (b : VReg) : encA 0x24 13 d.toNat a.toNat b.toNat < 2 ^ 32 ∧ decodeFields (encA 0x24 13 d.toNat a.toNat b.toNat) = .ok (Instr.vsubsI32 d a b) := by
  have key (wd : Nat) (e0 : bitsOf wd 24 21 = 13) (e1 : bitsOf wd 20 14 = d.toNat) (e2 : bitsOf wd 13 7 = a.toNat) (e3 : bitsOf wd 6 0 = b.toNat) : decode24 wd = .ok (Instr.vsubsI32 d a b) := by
    simp only [decode24, e0, e1, e2, e3, ofNat_of_toNat]
  obtain ⟨lt, f_maj, f_fn, f_d, f_a, f_b⟩ := encA_fields 0x24 13 d.toNat a.toNat b.toNat
    (by decide) (by decide) d.isLt a.isLt b.isLt
  exact ⟨lt, (decodeFields_24 _ f_maj).trans (key _ f_fn f_d f_a f_b)⟩
theorem vsubsI32 (d : VReg) (a : VReg) (b : VReg) : Statement (Instr.vsubsI32 d a b) := by
  intro hw w h
  have h := Option.some.inj h
  subst h
  exact readBack_of rfl (vsubsI32_word d a b).1 (vsubsI32_word d a b).2 hw
theorem vavgI32_word (d : VReg) (a : VReg) (b : VReg) : encA 0x24 14 d.toNat a.toNat b.toNat < 2 ^ 32 ∧ decodeFields (encA 0x24 14 d.toNat a.toNat b.toNat) = .ok (Instr.vavgI32 d a b) := by
  have key (wd : Nat) (e0 : bitsOf wd 24 21 = 14) (e1 : bitsOf wd 20 14 = d.toNat) (e2 : bitsOf wd 13 7 = a.toNat) (e3 : bitsOf wd 6 0 = b.toNat) : decode24 wd = .ok (Instr.vavgI32 d a b) := by
    simp only [decode24, e0, e1, e2, e3, ofNat_of_toNat]
  obtain ⟨lt, f_maj, f_fn, f_d, f_a, f_b⟩ := encA_fields 0x24 14 d.toNat a.toNat b.toNat
    (by decide) (by decide) d.isLt a.isLt b.isLt
  exact ⟨lt, (decodeFields_24 _ f_maj).trans (key _ f_fn f_d f_a f_b)⟩
theorem vavgI32 (d : VReg) (a : VReg) (b : VReg) : Statement (Instr.vavgI32 d a b) := by
  intro hw w h
  have h := Option.some.inj h
  subst h
  exact readBack_of rfl (vavgI32_word d a b).1 (vavgI32_word d a b).2 hw
theorem vaddI16_word (d : VReg) (a : VReg) (b : VReg) : encA 0x25 0 d.toNat a.toNat b.toNat < 2 ^ 32 ∧ decodeFields (encA 0x25 0 d.toNat a.toNat b.toNat) = .ok (Instr.vaddI16 d a b) := by
  have key (wd : Nat) (e0 : bitsOf wd 24 21 = 0) (e1 : bitsOf wd 20 14 = d.toNat) (e2 : bitsOf wd 13 7 = a.toNat) (e3 : bitsOf wd 6 0 = b.toNat) : decode25 wd = .ok (Instr.vaddI16 d a b) := by
    simp only [decode25, e0, e1, e2, e3, ofNat_of_toNat]
  obtain ⟨lt, f_maj, f_fn, f_d, f_a, f_b⟩ := encA_fields 0x25 0 d.toNat a.toNat b.toNat
    (by decide) (by decide) d.isLt a.isLt b.isLt
  exact ⟨lt, (decodeFields_25 _ f_maj).trans (key _ f_fn f_d f_a f_b)⟩
theorem vaddI16 (d : VReg) (a : VReg) (b : VReg) : Statement (Instr.vaddI16 d a b) := by
  intro hw w h
  have h := Option.some.inj h
  subst h
  exact readBack_of rfl (vaddI16_word d a b).1 (vaddI16_word d a b).2 hw
theorem vsubI16_word (d : VReg) (a : VReg) (b : VReg) : encA 0x25 1 d.toNat a.toNat b.toNat < 2 ^ 32 ∧ decodeFields (encA 0x25 1 d.toNat a.toNat b.toNat) = .ok (Instr.vsubI16 d a b) := by
  have key (wd : Nat) (e0 : bitsOf wd 24 21 = 1) (e1 : bitsOf wd 20 14 = d.toNat) (e2 : bitsOf wd 13 7 = a.toNat) (e3 : bitsOf wd 6 0 = b.toNat) : decode25 wd = .ok (Instr.vsubI16 d a b) := by
    simp only [decode25, e0, e1, e2, e3, ofNat_of_toNat]
  obtain ⟨lt, f_maj, f_fn, f_d, f_a, f_b⟩ := encA_fields 0x25 1 d.toNat a.toNat b.toNat
    (by decide) (by decide) d.isLt a.isLt b.isLt
  exact ⟨lt, (decodeFields_25 _ f_maj).trans (key _ f_fn f_d f_a f_b)⟩
theorem vsubI16 (d : VReg) (a : VReg) (b : VReg) : Statement (Instr.vsubI16 d a b) := by
  intro hw w h
  have h := Option.some.inj h
  subst h
  exact readBack_of rfl (vsubI16_word d a b).1 (vsubI16_word d a b).2 hw
theorem vaddsI16_word (d : VReg) (a : VReg) (b : VReg) : encA 0x25 2 d.toNat a.toNat b.toNat < 2 ^ 32 ∧ decodeFields (encA 0x25 2 d.toNat a.toNat b.toNat) = .ok (Instr.vaddsI16 d a b) := by
  have key (wd : Nat) (e0 : bitsOf wd 24 21 = 2) (e1 : bitsOf wd 20 14 = d.toNat) (e2 : bitsOf wd 13 7 = a.toNat) (e3 : bitsOf wd 6 0 = b.toNat) : decode25 wd = .ok (Instr.vaddsI16 d a b) := by
    simp only [decode25, e0, e1, e2, e3, ofNat_of_toNat]
  obtain ⟨lt, f_maj, f_fn, f_d, f_a, f_b⟩ := encA_fields 0x25 2 d.toNat a.toNat b.toNat
    (by decide) (by decide) d.isLt a.isLt b.isLt
  exact ⟨lt, (decodeFields_25 _ f_maj).trans (key _ f_fn f_d f_a f_b)⟩
theorem vaddsI16 (d : VReg) (a : VReg) (b : VReg) : Statement (Instr.vaddsI16 d a b) := by
  intro hw w h
  have h := Option.some.inj h
  subst h
  exact readBack_of rfl (vaddsI16_word d a b).1 (vaddsI16_word d a b).2 hw
theorem vsubsI16_word (d : VReg) (a : VReg) (b : VReg) : encA 0x25 3 d.toNat a.toNat b.toNat < 2 ^ 32 ∧ decodeFields (encA 0x25 3 d.toNat a.toNat b.toNat) = .ok (Instr.vsubsI16 d a b) := by
  have key (wd : Nat) (e0 : bitsOf wd 24 21 = 3) (e1 : bitsOf wd 20 14 = d.toNat) (e2 : bitsOf wd 13 7 = a.toNat) (e3 : bitsOf wd 6 0 = b.toNat) : decode25 wd = .ok (Instr.vsubsI16 d a b) := by
    simp only [decode25, e0, e1, e2, e3, ofNat_of_toNat]
  obtain ⟨lt, f_maj, f_fn, f_d, f_a, f_b⟩ := encA_fields 0x25 3 d.toNat a.toNat b.toNat
    (by decide) (by decide) d.isLt a.isLt b.isLt
  exact ⟨lt, (decodeFields_25 _ f_maj).trans (key _ f_fn f_d f_a f_b)⟩
theorem vsubsI16 (d : VReg) (a : VReg) (b : VReg) : Statement (Instr.vsubsI16 d a b) := by
  intro hw w h
  have h := Option.some.inj h
  subst h
  exact readBack_of rfl (vsubsI16_word d a b).1 (vsubsI16_word d a b).2 hw
theorem vaddsN16_word (d : VReg) (a : VReg) (b : VReg) : encA 0x25 4 d.toNat a.toNat b.toNat < 2 ^ 32 ∧ decodeFields (encA 0x25 4 d.toNat a.toNat b.toNat) = .ok (Instr.vaddsN16 d a b) := by
  have key (wd : Nat) (e0 : bitsOf wd 24 21 = 4) (e1 : bitsOf wd 20 14 = d.toNat) (e2 : bitsOf wd 13 7 = a.toNat) (e3 : bitsOf wd 6 0 = b.toNat) : decode25 wd = .ok (Instr.vaddsN16 d a b) := by
    simp only [decode25, e0, e1, e2, e3, ofNat_of_toNat]
  obtain ⟨lt, f_maj, f_fn, f_d, f_a, f_b⟩ := encA_fields 0x25 4 d.toNat a.toNat b.toNat
    (by decide) (by decide) d.isLt a.isLt b.isLt
  exact ⟨lt, (decodeFields_25 _ f_maj).trans (key _ f_fn f_d f_a f_b)⟩
theorem vaddsN16 (d : VReg) (a : VReg) (b : VReg) : Statement (Instr.vaddsN16 d a b) := by
  intro hw w h
  have h := Option.some.inj h
  subst h
  exact readBack_of rfl (vaddsN16_word d a b).1 (vaddsN16_word d a b).2 hw
theorem vsubsN16_word (d : VReg) (a : VReg) (b : VReg) : encA 0x25 5 d.toNat a.toNat b.toNat < 2 ^ 32 ∧ decodeFields (encA 0x25 5 d.toNat a.toNat b.toNat) = .ok (Instr.vsubsN16 d a b) := by
  have key (wd : Nat) (e0 : bitsOf wd 24 21 = 5) (e1 : bitsOf wd 20 14 = d.toNat) (e2 : bitsOf wd 13 7 = a.toNat) (e3 : bitsOf wd 6 0 = b.toNat) : decode25 wd = .ok (Instr.vsubsN16 d a b) := by
    simp only [decode25, e0, e1, e2, e3, ofNat_of_toNat]
  obtain ⟨lt, f_maj, f_fn, f_d, f_a, f_b⟩ := encA_fields 0x25 5 d.toNat a.toNat b.toNat
    (by decide) (by decide) d.isLt a.isLt b.isLt
  exact ⟨lt, (decodeFields_25 _ f_maj).trans (key _ f_fn f_d f_a f_b)⟩
theorem vsubsN16 (d : VReg) (a : VReg) (b : VReg) : Statement (Instr.vsubsN16 d a b) := by
  intro hw w h
  have h := Option.some.inj h
  subst h
  exact readBack_of rfl (vsubsN16_word d a b).1 (vsubsN16_word d a b).2 hw
theorem vavgI16_word (d : VReg) (a : VReg) (b : VReg) : encA 0x25 6 d.toNat a.toNat b.toNat < 2 ^ 32 ∧ decodeFields (encA 0x25 6 d.toNat a.toNat b.toNat) = .ok (Instr.vavgI16 d a b) := by
  have key (wd : Nat) (e0 : bitsOf wd 24 21 = 6) (e1 : bitsOf wd 20 14 = d.toNat) (e2 : bitsOf wd 13 7 = a.toNat) (e3 : bitsOf wd 6 0 = b.toNat) : decode25 wd = .ok (Instr.vavgI16 d a b) := by
    simp only [decode25, e0, e1, e2, e3, ofNat_of_toNat]
  obtain ⟨lt, f_maj, f_fn, f_d, f_a, f_b⟩ := encA_fields 0x25 6 d.toNat a.toNat b.toNat
    (by decide) (by decide) d.isLt a.isLt b.isLt
  exact ⟨lt, (decodeFields_25 _ f_maj).trans (key _ f_fn f_d f_a f_b)⟩
theorem vavgI16 (d : VReg) (a : VReg) (b : VReg) : Statement (Instr.vavgI16 d a b) := by
  intro hw w h
  have h := Option.some.inj h
  subst h
  exact readBack_of rfl (vavgI16_word d a b).1 (vavgI16_word d a b).2 hw
theorem vavgN16_word (d : VReg) (a : VReg) (b : VReg) : encA 0x25 7 d.toNat a.toNat b.toNat < 2 ^ 32 ∧ decodeFields (encA 0x25 7 d.toNat a.toNat b.toNat) = .ok (Instr.vavgN16 d a b) := by
  have key (wd : Nat) (e0 : bitsOf wd 24 21 = 7) (e1 : bitsOf wd 20 14 = d.toNat) (e2 : bitsOf wd 13 7 = a.toNat) (e3 : bitsOf wd 6 0 = b.toNat) : decode25 wd = .ok (Instr.vavgN16 d a b) := by
    simp only [decode25, e0, e1, e2, e3, ofNat_of_toNat]
  obtain ⟨lt, f_maj, f_fn, f_d, f_a, f_b⟩ := encA_fields 0x25 7 d.toNat a.toNat b.toNat
    (by decide) (by decide) d.isLt a.isLt b.isLt
  exact ⟨lt, (decodeFields_25 _ f_maj).trans (key _ f_fn f_d f_a f_b)⟩
theorem vavgN16 (d : VReg) (a : VReg) (b : VReg) : Statement (Instr.vavgN16 d a b) := by
  intro hw w h
  have h := Option.some.inj h
  subst h
  exact readBack_of rfl (vavgN16_word d a b).1 (vavgN16_word d a b).2 hw
theorem vaddI8_word (d : VReg) (a : VReg) (b : VReg) : encA 0x25 8 d.toNat a.toNat b.toNat < 2 ^ 32 ∧ decodeFields (encA 0x25 8 d.toNat a.toNat b.toNat) = .ok (Instr.vaddI8 d a b) := by
  have key (wd : Nat) (e0 : bitsOf wd 24 21 = 8) (e1 : bitsOf wd 20 14 = d.toNat) (e2 : bitsOf wd 13 7 = a.toNat) (e3 : bitsOf wd 6 0 = b.toNat) : decode25 wd = .ok (Instr.vaddI8 d a b) := by
    simp only [decode25, e0, e1, e2, e3, ofNat_of_toNat]
  obtain ⟨lt, f_maj, f_fn, f_d, f_a, f_b⟩ := encA_fields 0x25 8 d.toNat a.toNat b.toNat
    (by decide) (by decide) d.isLt a.isLt b.isLt
  exact ⟨lt, (decodeFields_25 _ f_maj).trans (key _ f_fn f_d f_a f_b)⟩
theorem vaddI8 (d : VReg) (a : VReg) (b : VReg) : Statement (Instr.vaddI8 d a b) := by
  intro hw w h
  have h := Option.some.inj h
  subst h
  exact readBack_of rfl (vaddI8_word d a b).1 (vaddI8_word d a b).2 hw
theorem vsubI8_word (d : VReg) (a : VReg) (b : VReg) : encA 0x25 9 d.toNat a.toNat b.toNat < 2 ^ 32 ∧ decodeFields (encA 0x25 9 d.toNat a.toNat b.toNat) = .ok (Instr.vsubI8 d a b) := by
  have key (wd : Nat) (e0 : bitsOf wd 24 21 = 9) (e1 : bitsOf wd 20 14 = d.toNat) (e2 : bitsOf wd 13 7 = a.toNat) (e3 : bitsOf wd 6 0 = b.toNat) : decode25 wd = .ok (Instr.vsubI8 d a b) := by
    simp only [decode25, e0, e1, e2, e3, ofNat_of_toNat]
  obtain ⟨lt, f_maj, f_fn, f_d, f_a, f_b⟩ := encA_fields 0x25 9 d.toNat a.toNat b.toNat
    (by decide) (by decide) d.isLt a.isLt b.isLt
  exact ⟨lt, (decodeFields_25 _ f_maj).trans (key _ f_fn f_d f_a f_b)⟩
theorem vsubI8 (d : VReg) (a : VReg) (b : VReg) : Statement (Instr.vsubI8 d a b) := by
  intro hw w h
  have h := Option.some.inj h
  subst h
  exact readBack_of rfl (vsubI8_word d a b).1 (vsubI8_word d a b).2 hw
theorem vaddsI8_word (d : VReg) (a : VReg) (b : VReg) : encA 0x25 10 d.toNat a.toNat b.toNat < 2 ^ 32 ∧ decodeFields (encA 0x25 10 d.toNat a.toNat b.toNat) = .ok (Instr.vaddsI8 d a b) := by
  have key (wd : Nat) (e0 : bitsOf wd 24 21 = 10) (e1 : bitsOf wd 20 14 = d.toNat) (e2 : bitsOf wd 13 7 = a.toNat) (e3 : bitsOf wd 6 0 = b.toNat) : decode25 wd = .ok (Instr.vaddsI8 d a b) := by
    simp only [decode25, e0, e1, e2, e3, ofNat_of_toNat]
  obtain ⟨lt, f_maj, f_fn, f_d, f_a, f_b⟩ := encA_fields 0x25 10 d.toNat a.toNat b.toNat
    (by decide) (by decide) d.isLt a.isLt b.isLt
  exact ⟨lt, (decodeFields_25 _ f_maj).trans (key _ f_fn f_d f_a f_b)⟩
theorem vaddsI8 (d : VReg) (a : VReg) (b : VReg) : Statement (Instr.vaddsI8 d a b) := by
  intro hw w h
  have h := Option.some.inj h
  subst h
  exact readBack_of rfl (vaddsI8_word d a b).1 (vaddsI8_word d a b).2 hw
theorem vsubsI8_word (d : VReg) (a : VReg) (b : VReg) : encA 0x25 11 d.toNat a.toNat b.toNat < 2 ^ 32 ∧ decodeFields (encA 0x25 11 d.toNat a.toNat b.toNat) = .ok (Instr.vsubsI8 d a b) := by
  have key (wd : Nat) (e0 : bitsOf wd 24 21 = 11) (e1 : bitsOf wd 20 14 = d.toNat) (e2 : bitsOf wd 13 7 = a.toNat) (e3 : bitsOf wd 6 0 = b.toNat) : decode25 wd = .ok (Instr.vsubsI8 d a b) := by
    simp only [decode25, e0, e1, e2, e3, ofNat_of_toNat]
  obtain ⟨lt, f_maj, f_fn, f_d, f_a, f_b⟩ := encA_fields 0x25 11 d.toNat a.toNat b.toNat
    (by decide) (by decide) d.isLt a.isLt b.isLt
  exact ⟨lt, (decodeFields_25 _ f_maj).trans (key _ f_fn f_d f_a f_b)⟩
theorem vsubsI8 (d : VReg) (a : VReg) (b : VReg) : Statement (Instr.vsubsI8 d a b) := by
  intro hw w h
  have h := Option.some.inj h
  subst h
  exact readBack_of rfl (vsubsI8_word d a b).1 (vsubsI8_word d a b).2 hw
theorem vaddsN8_word (d : VReg) (a : VReg) (b : VReg) : encA 0x25 12 d.toNat a.toNat b.toNat < 2 ^ 32 ∧ decodeFields (encA 0x25 12 d.toNat a.toNat b.toNat) = .ok (Instr.vaddsN8 d a b) := by
  have key (wd : Nat) (e0 : bitsOf wd 24 21 = 12) (e1 : bitsOf wd 20 14 = d.toNat) (e2 : bitsOf wd 13 7 = a.toNat) (e3 : bitsOf wd 6 0 = b.toNat) : decode25 wd = .ok (Instr.vaddsN8 d a b) := by
    simp only [decode25, e0, e1, e2, e3, ofNat_of_toNat]
  obtain ⟨lt, f_maj, f_fn, f_d, f_a, f_b⟩ := encA_fields 0x25 12 d.toNat a.toNat b.toNat
    (by decide) (by decide) d.isLt a.isLt b.isLt
  exact ⟨lt, (decodeFields_25 _ f_maj).trans (key _ f_fn f_d f_a f_b)⟩
theorem vaddsN8 (d : VReg) (a : VReg) (b : VReg) : Statement (Instr.vaddsN8 d a b) := by
  intro hw w h
  have h := Option.some.inj h
  subst h
  exact readBack_of rfl (vaddsN8_word d a b).1 (vaddsN8_word d a b).2 hw
theorem vsubsN8_word (d : VReg) (a : VReg) (b : VReg) : encA 0x25 13 d.toNat a.toNat b.toNat < 2 ^ 32 ∧ decodeFields (encA 0x25 13 d.toNat a.toNat b.toNat) = .ok (Instr.vsubsN8 d a b) := by
  have key (wd : Nat) (e0 : bitsOf wd 24 21 = 13) (e1 : bitsOf wd 20 14 = d.toNat) (e2 : bitsOf wd 13 7 = a.toNat) (e3 : bitsOf wd 6 0 = b.toNat) : decode25 wd = .ok (Instr.vsubsN8 d a b) := by
    simp only [decode25, e0, e1, e2, e3, ofNat_of_toNat]
  obtain ⟨lt, f_maj, f_fn, f_d, f_a, f_b⟩ := encA_fields 0x25 13 d.toNat a.toNat b.toNat
    (by decide) (by decide) d.isLt a.isLt b.isLt
  exact ⟨lt, (decodeFields_25 _ f_maj).trans (key _ f_fn f_d f_a f_b)⟩
theorem vsubsN8 (d : VReg) (a : VReg) (b : VReg) : Statement (Instr.vsubsN8 d a b) := by
  intro hw w h
  have h := Option.some.inj h
  subst h
  exact readBack_of rfl (vsubsN8_word d a b).1 (vsubsN8_word d a b).2 hw
theorem vavgI8_word (d : VReg) (a : VReg) (b : VReg) : encA 0x25 14 d.toNat a.toNat b.toNat < 2 ^ 32 ∧ decodeFields (encA 0x25 14 d.toNat a.toNat b.toNat) = .ok (Instr.vavgI8 d a b) := by
  have key (wd : Nat) (e0 : bitsOf wd 24 21 = 14) (e1 : bitsOf wd 20 14 = d.toNat) (e2 : bitsOf wd 13 7 = a.toNat) (e3 : bitsOf wd 6 0 = b.toNat) : decode25 wd = .ok (Instr.vavgI8 d a b) := by
    simp only [decode25, e0, e1, e2, e3, ofNat_of_toNat]
  obtain ⟨lt, f_maj, f_fn, f_d, f_a, f_b⟩ := encA_fields 0x25 14 d.toNat a.toNat b.toNat
    (by decide) (by decide) d.isLt a.isLt b.isLt
  exact ⟨lt, (decodeFields_25 _ f_maj).trans (key _ f_fn f_d f_a f_b)⟩
theorem vavgI8 (d : VReg) (a : VReg) (b : VReg) : Statement (Instr.vavgI8 d a b) := by
  intro hw w h
  have h := Option.some.inj h
  subst h
  exact readBack_of rfl (vavgI8_word d a b).1 (vavgI8_word d a b).2 hw
theorem vavgN8_word (d : VReg) (a : VReg) (b : VReg) : encA 0x25 15 d.toNat a.toNat b.toNat < 2 ^ 32 ∧ decodeFields (encA 0x25 15 d.toNat a.toNat b.toNat) = .ok (Instr.vavgN8 d a b) := by
  have key (wd : Nat) (e0 : bitsOf wd 24 21 = 15) (e1 : bitsOf wd 20 14 = d.toNat) (e2 : bitsOf wd 13 7 = a.toNat) (e3 : bitsOf wd 6 0 = b.toNat) : decode25 wd = .ok (Instr.vavgN8 d a b) := by
    simp only [decode25, e0, e1, e2, e3, ofNat_of_toNat]
  obtain ⟨lt, f_maj, f_fn, f_d, f_a, f_b⟩ := encA_fields 0x25 15 d.toNat a.toNat b.toNat
    (by decide) (by decide) d.isLt a.isLt b.isLt
  exact ⟨lt, (decodeFields_25 _ f_maj).trans (key _ f_fn f_d f_a f_b)⟩
theorem vavgN8 (d : VReg) (a : VReg) (b : VReg) : Statement (Instr.vavgN8 d a b) := by
  intro hw w h
  have h := Option.some.inj h
  subst h
  exact readBack_of rfl (vavgN8_word d a b).1 (vavgN8_word d a b).2 hw
theorem vand_word (d : VReg) (a : VReg) (b : VReg) : encA 0x26 0 d.toNat a.toNat b.toNat < 2 ^ 32 ∧ decodeFields (encA 0x26 0 d.toNat a.toNat b.toNat) = .ok (Instr.vand d a b) := by
  have key (wd : Nat) (e0 : bitsOf wd 24 21 = 0) (e1 : bitsOf wd 20 14 = d.toNat) (e2 : bitsOf wd 13 7 = a.toNat) (e3 : bitsOf wd 6 0 = b.toNat) : decode26 wd = .ok (Instr.vand d a b) := by
    simp only [decode26, e0, e1, e2, e3, ofNat_of_toNat]
  obtain ⟨lt, f_maj, f_fn, f_d, f_a, f_b⟩ := encA_fields 0x26 0 d.toNat a.toNat b.toNat
    (by decide) (by decide) d.isLt a.isLt b.isLt
  exact ⟨lt, (decodeFields_26 _ f_maj).trans (key _ f_fn f_d f_a f_b)⟩
theorem vand (d : VReg) (a : VReg) (b : VReg) : Statement (Instr.vand d a b) := by
  intro hw w h
  have h := Option.some.inj h
  subst h
  exact readBack_of rfl (vand_word d a b).1 (vand_word d a b).2 hw
theorem vor_word (d : VReg) (a : VReg) (b : VReg) : encA 0x26 1 d.toNat a.toNat b.toNat < 2 ^ 32 ∧ decodeFields (encA 0x26 1 d.toNat a.toNat b.toNat) = .ok (Instr.vor d a b) := by
  have key (wd : Nat) (e0 : bitsOf wd 24 21 = 1) (e1 : bitsOf wd 20 14 = d.toNat) (e2 : bitsOf wd 13 7 = a.toNat) (e3 : bitsOf wd 6 0 = b.toNat) : decode26 wd = .ok (Instr.vor d a b) := by
    simp only [decode26, e0, e1, e2, e3, ofNat_of_toNat]
  obtain ⟨lt, f_maj, f_fn, f_d, f_a, f_b⟩ := encA_fields 0x26 1 d.toNat a.toNat b.toNat
    (by decide) (by decide) d.isLt a.isLt b.isLt
  exact ⟨lt, (decodeFields_26 _ f_maj).trans (key _ f_fn f_d f_a f_b)⟩
theorem vor (d : VReg) (a : VReg) (b : VReg) : Statement (Instr.vor d a b) := by
  intro hw w h
  have h := Option.some.inj h
  subst h
  exact readBack_of rfl (vor_word d a b).1 (vor_word d a b).2 hw
theorem vxor_word (d : VReg) (a : VReg) (b : VReg) : encA 0x26 2 d.toNat a.toNat b.toNat < 2 ^ 32 ∧ decodeFields (encA 0x26 2 d.toNat a.toNat b.toNat) = .ok (Instr.vxor d a b) := by
  have key (wd : Nat) (e0 : bitsOf wd 24 21 = 2) (e1 : bitsOf wd 20 14 = d.toNat) (e2 : bitsOf wd 13 7 = a.toNat) (e3 : bitsOf wd 6 0 = b.toNat) : decode26 wd = .ok (Instr.vxor d a b) := by
    simp only [decode26, e0, e1, e2, e3, ofNat_of_toNat]
  obtain ⟨lt, f_maj, f_fn, f_d, f_a, f_b⟩ := encA_fields 0x26 2 d.toNat a.toNat b.toNat
    (by decide) (by decide) d.isLt a.isLt b.isLt
  exact ⟨lt, (decodeFields_26 _ f_maj).trans (key _ f_fn f_d f_a f_b)⟩
theorem vxor (d : VReg) (a : VReg) (b : VReg) : Statement (Instr.vxor d a b) := by
  intro hw w h
  have h := Option.some.inj h
  subst h
  exact readBack_of rfl (vxor_word d a b).1 (vxor_word d a b).2 hw
theorem vandn_word (d : VReg) (a : VReg) (b : VReg) : encA 0x26 3 d.toNat a.toNat b.toNat < 2 ^ 32 ∧ decodeFields (encA 0x26 3 d.toNat a.toNat b.toNat) = .ok (Instr.vandn d a b) := by
  have key (wd : Nat) (e0 : bitsOf wd 24 21 = 3) (e1 : bitsOf wd 20 14 = d.toNat) (e2 : bitsOf wd 13 7 = a.toNat) (e3 : bitsOf wd 6 0 = b.toNat) : decode26 wd = .ok (Instr.vandn d a b) := by
    simp only [decode26, e0, e1, e2, e3, ofNat_of_toNat]
  obtain ⟨lt, f_maj, f_fn, f_d, f_a, f_b⟩ := encA_fields 0x26 3 d.toNat a.toNat b.toNat
    (by decide) (by decide) d.isLt a.isLt b.isLt
  exact ⟨lt, (decodeFields_26 _ f_maj).trans (key _ f_fn f_d f_a f_b)⟩
theorem vandn (d : VReg) (a : VReg) (b : VReg) : Statement (Instr.vandn d a b) := by
  intro hw w h
  have h := Option.some.inj h
  subst h
  exact readBack_of rfl (vandn_word d a b).1 (vandn_word d a b).2 hw
theorem vshl_word (d : VReg) (a : VReg) (b : VReg) : encA 0x26 4 d.toNat a.toNat b.toNat < 2 ^ 32 ∧ decodeFields (encA 0x26 4 d.toNat a.toNat b.toNat) = .ok (Instr.vshl d a b) := by
  have key (wd : Nat) (e0 : bitsOf wd 24 21 = 4) (e1 : bitsOf wd 20 14 = d.toNat) (e2 : bitsOf wd 13 7 = a.toNat) (e3 : bitsOf wd 6 0 = b.toNat) : decode26 wd = .ok (Instr.vshl d a b) := by
    simp only [decode26, e0, e1, e2, e3, ofNat_of_toNat]
  obtain ⟨lt, f_maj, f_fn, f_d, f_a, f_b⟩ := encA_fields 0x26 4 d.toNat a.toNat b.toNat
    (by decide) (by decide) d.isLt a.isLt b.isLt
  exact ⟨lt, (decodeFields_26 _ f_maj).trans (key _ f_fn f_d f_a f_b)⟩
theorem vshl (d : VReg) (a : VReg) (b : VReg) : Statement (Instr.vshl d a b) := by
  intro hw w h
  have h := Option.some.inj h
  subst h
  exact readBack_of rfl (vshl_word d a b).1 (vshl_word d a b).2 hw
theorem vshr_word (d : VReg) (a : VReg) (b : VReg) : encA 0x26 5 d.toNat a.toNat b.toNat < 2 ^ 32 ∧ decodeFields (encA 0x26 5 d.toNat a.toNat b.toNat) = .ok (Instr.vshr d a b) := by
  have key (wd : Nat) (e0 : bitsOf wd 24 21 = 5) (e1 : bitsOf wd 20 14 = d.toNat) (e2 : bitsOf wd 13 7 = a.toNat) (e3 : bitsOf wd 6 0 = b.toNat) : decode26 wd = .ok (Instr.vshr d a b) := by
    simp only [decode26, e0, e1, e2, e3, ofNat_of_toNat]
  obtain ⟨lt, f_maj, f_fn, f_d, f_a, f_b⟩ := encA_fields 0x26 5 d.toNat a.toNat b.toNat
    (by decide) (by decide) d.isLt a.isLt b.isLt
  exact ⟨lt, (decodeFields_26 _ f_maj).trans (key _ f_fn f_d f_a f_b)⟩
theorem vshr (d : VReg) (a : VReg) (b : VReg) : Statement (Instr.vshr d a b) := by
  intro hw w h
  have h := Option.some.inj h
  subst h
  exact readBack_of rfl (vshr_word d a b).1 (vshr_word d a b).2 hw
theorem vsar_word (d : VReg) (a : VReg) (b : VReg) : encA 0x26 6 d.toNat a.toNat b.toNat < 2 ^ 32 ∧ decodeFields (encA 0x26 6 d.toNat a.toNat b.toNat) = .ok (Instr.vsar d a b) := by
  have key (wd : Nat) (e0 : bitsOf wd 24 21 = 6) (e1 : bitsOf wd 20 14 = d.toNat) (e2 : bitsOf wd 13 7 = a.toNat) (e3 : bitsOf wd 6 0 = b.toNat) : decode26 wd = .ok (Instr.vsar d a b) := by
    simp only [decode26, e0, e1, e2, e3, ofNat_of_toNat]
  obtain ⟨lt, f_maj, f_fn, f_d, f_a, f_b⟩ := encA_fields 0x26 6 d.toNat a.toNat b.toNat
    (by decide) (by decide) d.isLt a.isLt b.isLt
  exact ⟨lt, (decodeFields_26 _ f_maj).trans (key _ f_fn f_d f_a f_b)⟩
theorem vsar (d : VReg) (a : VReg) (b : VReg) : Statement (Instr.vsar d a b) := by
  intro hw w h
  have h := Option.some.inj h
  subst h
  exact readBack_of rfl (vsar_word d a b).1 (vsar_word d a b).2 hw
theorem vpopc_word (d : VReg) (a : VReg) : encA 0x26 7 d.toNat a.toNat 0 < 2 ^ 32 ∧ decodeFields (encA 0x26 7 d.toNat a.toNat 0) = .ok (Instr.vpopc d a) := by
  have key (wd : Nat) (e0 : bitsOf wd 24 21 = 7) (e1 : bitsOf wd 20 14 = d.toNat) (e2 : bitsOf wd 13 7 = a.toNat) (e3 : bitsOf wd 6 0 = 0) : decode26 wd = .ok (Instr.vpopc d a) := by
    simp only [decode26, e0, e1, e2, e3, ofNat_of_toNat, zeroed, if_true]
  obtain ⟨lt, f_maj, f_fn, f_d, f_a, f_b⟩ := encA_fields 0x26 7 d.toNat a.toNat 0
    (by decide) (by decide) d.isLt a.isLt (by decide)
  exact ⟨lt, (decodeFields_26 _ f_maj).trans (key _ f_fn f_d f_a f_b)⟩
theorem vpopc (d : VReg) (a : VReg) : Statement (Instr.vpopc d a) := by
  intro hw w h
  have h := Option.some.inj h
  subst h
  exact readBack_of rfl (vpopc_word d a).1 (vpopc_word d a).2 hw
theorem vclz_word (d : VReg) (a : VReg) : encA 0x26 8 d.toNat a.toNat 0 < 2 ^ 32 ∧ decodeFields (encA 0x26 8 d.toNat a.toNat 0) = .ok (Instr.vclz d a) := by
  have key (wd : Nat) (e0 : bitsOf wd 24 21 = 8) (e1 : bitsOf wd 20 14 = d.toNat) (e2 : bitsOf wd 13 7 = a.toNat) (e3 : bitsOf wd 6 0 = 0) : decode26 wd = .ok (Instr.vclz d a) := by
    simp only [decode26, e0, e1, e2, e3, ofNat_of_toNat, zeroed, if_true]
  obtain ⟨lt, f_maj, f_fn, f_d, f_a, f_b⟩ := encA_fields 0x26 8 d.toNat a.toNat 0
    (by decide) (by decide) d.isLt a.isLt (by decide)
  exact ⟨lt, (decodeFields_26 _ f_maj).trans (key _ f_fn f_d f_a f_b)⟩
theorem vclz (d : VReg) (a : VReg) : Statement (Instr.vclz d a) := by
  intro hw w h
  have h := Option.some.inj h
  subst h
  exact readBack_of rfl (vclz_word d a).1 (vclz_word d a).2 hw
theorem vbrev_word (d : VReg) (a : VReg) : encA 0x26 9 d.toNat a.toNat 0 < 2 ^ 32 ∧ decodeFields (encA 0x26 9 d.toNat a.toNat 0) = .ok (Instr.vbrev d a) := by
  have key (wd : Nat) (e0 : bitsOf wd 24 21 = 9) (e1 : bitsOf wd 20 14 = d.toNat) (e2 : bitsOf wd 13 7 = a.toNat) (e3 : bitsOf wd 6 0 = 0) : decode26 wd = .ok (Instr.vbrev d a) := by
    simp only [decode26, e0, e1, e2, e3, ofNat_of_toNat, zeroed, if_true]
  obtain ⟨lt, f_maj, f_fn, f_d, f_a, f_b⟩ := encA_fields 0x26 9 d.toNat a.toNat 0
    (by decide) (by decide) d.isLt a.isLt (by decide)
  exact ⟨lt, (decodeFields_26 _ f_maj).trans (key _ f_fn f_d f_a f_b)⟩
theorem vbrev (d : VReg) (a : VReg) : Statement (Instr.vbrev d a) := by
  intro hw w h
  have h := Option.some.inj h
  subst h
  exact readBack_of rfl (vbrev_word d a).1 (vbrev_word d a).2 hw
theorem vbfx_word (d : VReg) (a : VReg) (b : VReg) : encA 0x26 10 d.toNat a.toNat b.toNat < 2 ^ 32 ∧ decodeFields (encA 0x26 10 d.toNat a.toNat b.toNat) = .ok (Instr.vbfx d a b) := by
  have key (wd : Nat) (e0 : bitsOf wd 24 21 = 10) (e1 : bitsOf wd 20 14 = d.toNat) (e2 : bitsOf wd 13 7 = a.toNat) (e3 : bitsOf wd 6 0 = b.toNat) : decode26 wd = .ok (Instr.vbfx d a b) := by
    simp only [decode26, e0, e1, e2, e3, ofNat_of_toNat]
  obtain ⟨lt, f_maj, f_fn, f_d, f_a, f_b⟩ := encA_fields 0x26 10 d.toNat a.toNat b.toNat
    (by decide) (by decide) d.isLt a.isLt b.isLt
  exact ⟨lt, (decodeFields_26 _ f_maj).trans (key _ f_fn f_d f_a f_b)⟩
theorem vbfx (d : VReg) (a : VReg) (b : VReg) : Statement (Instr.vbfx d a b) := by
  intro hw w h
  have h := Option.some.inj h
  subst h
  exact readBack_of rfl (vbfx_word d a b).1 (vbfx_word d a b).2 hw
theorem vbfi_word (d : VReg) (a : VReg) (b : VReg) : encA 0x26 11 d.toNat a.toNat b.toNat < 2 ^ 32 ∧ decodeFields (encA 0x26 11 d.toNat a.toNat b.toNat) = .ok (Instr.vbfi d a b) := by
  have key (wd : Nat) (e0 : bitsOf wd 24 21 = 11) (e1 : bitsOf wd 20 14 = d.toNat) (e2 : bitsOf wd 13 7 = a.toNat) (e3 : bitsOf wd 6 0 = b.toNat) : decode26 wd = .ok (Instr.vbfi d a b) := by
    simp only [decode26, e0, e1, e2, e3, ofNat_of_toNat]
  obtain ⟨lt, f_maj, f_fn, f_d, f_a, f_b⟩ := encA_fields 0x26 11 d.toNat a.toNat b.toNat
    (by decide) (by decide) d.isLt a.isLt b.isLt
  exact ⟨lt, (decodeFields_26 _ f_maj).trans (key _ f_fn f_d f_a f_b)⟩
theorem vbfi (d : VReg) (a : VReg) (b : VReg) : Statement (Instr.vbfi d a b) := by
  intro hw w h
  have h := Option.some.inj h
  subst h
  exact readBack_of rfl (vbfi_word d a b).1 (vbfi_word d a b).2 hw
theorem vsel_word (k : KReg) (d : VReg) (a : VReg) (b : VReg) : encA 0x27 k.toNat d.toNat a.toNat b.toNat < 2 ^ 32 ∧ decodeFields (encA 0x27 k.toNat d.toNat a.toNat b.toNat) = .ok (Instr.vsel k d a b) := by
  have h_k := k.isLt
  have h_d := d.isLt
  have h_a := a.isLt
  have h_b := b.isLt
  have key (wd : Nat) (e0 : bitsOf wd 24 21 = k.toNat) (e1 : bitsOf wd 23 21 = k.toNat) (e2 : bitsOf wd 20 14 = d.toNat) (e3 : bitsOf wd 13 7 = a.toNat) (e4 : bitsOf wd 6 0 = b.toNat) : decode27 wd = .ok (Instr.vsel k d a b) := by
    have hc : k.toNat = 0 ∨ k.toNat = 1 ∨ k.toNat = 2 ∨ k.toNat = 3 ∨ k.toNat = 4 ∨ k.toNat = 5 ∨ k.toNat = 6 ∨ k.toNat = 7 := by omega
    simp only [decode27, e0, e1, e2, e3, e4, ofNat_of_toNat]
    rcases hc with hc | hc | hc | hc | hc | hc | hc | hc <;> rw [hc] <;> rfl
  obtain ⟨lt, f_maj, f_fn, f_d, f_a, f_b⟩ := encA_fields 0x27 k.toNat d.toNat a.toNat b.toNat
    (by decide) (Nat.lt_of_lt_of_le k.isLt (by decide)) d.isLt a.isLt b.isLt
  exact ⟨lt, (decodeFields_27 _ f_maj).trans (key _ f_fn (by unfold bitsOf encA; norm_num; omega) f_d f_a f_b)⟩
theorem vsel (k : KReg) (d : VReg) (a : VReg) (b : VReg) : Statement (Instr.vsel k d a b) := by
  intro hw w h
  have h := Option.some.inj h
  subst h
  exact readBack_of rfl (vsel_word k d a b).1 (vsel_word k d a b).2 hw
theorem vcmpi_word (c : ICond) (d : KReg) (a : VReg) (b : VReg) : encA 0x28 c.toCode d.toNat a.toNat b.toNat < 2 ^ 32 ∧ decodeFields (encA 0x28 c.toCode d.toNat a.toNat b.toNat) = .ok (Instr.vcmpi c d a b) := by
  have key (wd : Nat) (e0 : bitsOf wd 24 21 = c.toCode) (e1 : bitsOf wd 20 14 = d.toNat) (e2 : bitsOf wd 13 7 = a.toNat) (e3 : bitsOf wd 6 0 = b.toNat) : decode28 wd = .ok (Instr.vcmpi c d a b) := by
    simp only [decode28, e0, e1, e2, e3, ICond.ofCode_toCode, kreg_toNat, ofNat_of_toNat, bind1]
  obtain ⟨lt, f_maj, f_fn, f_d, f_a, f_b⟩ := encA_fields 0x28 c.toCode d.toNat a.toNat b.toNat
    (by decide) c.toCode_lt (Nat.lt_of_lt_of_le d.isLt (by decide)) a.isLt b.isLt
  exact ⟨lt, (decodeFields_28 _ f_maj).trans (key _ f_fn f_d f_a f_b)⟩
theorem vcmpi (c : ICond) (d : KReg) (a : VReg) (b : VReg) : Statement (Instr.vcmpi c d a b) := by
  intro hw w h
  have h := Option.some.inj h
  subst h
  exact readBack_of rfl (vcmpi_word c d a b).1 (vcmpi_word c d a b).2 hw
theorem vcvt_word (c : CvtCode) (d : VReg) (a : VReg) (sat : BitVec 1) : encA 0x29 c.toCode d.toNat a.toNat sat.toNat < 2 ^ 32 ∧ decodeFields (encA 0x29 c.toCode d.toNat a.toNat sat.toNat) = .ok (Instr.vcvt c d a sat) := by
  have key (wd : Nat) (e0 : bitsOf wd 24 21 = c.toCode) (e1 : bitsOf wd 20 14 = d.toNat) (e2 : bitsOf wd 13 7 = a.toNat) (e3 : bitsOf wd 6 1 = 0) (e4 : bitsOf wd 0 0 = sat.toNat) : decode29 wd = .ok (Instr.vcvt c d a sat) := by
    simp only [decode29, e0, e1, e2, e3, e4, CvtCode.ofCode_toCode, ofNat_of_toNat, bind1, zeroed, if_true]
  obtain ⟨lt, f_maj, f_fn, f_d, f_a, _⟩ := encA_fields 0x29 c.toCode d.toNat a.toNat sat.toNat
    (by decide) c.toCode_lt d.isLt a.isLt (Nat.lt_of_lt_of_le sat.isLt (by decide))
  exact ⟨lt, (decodeFields_29 _ f_maj).trans (key _ f_fn f_d f_a (by unfold bitsOf encA; norm_num; omega) (by unfold bitsOf encA; norm_num; omega))⟩
theorem vcvt (c : CvtCode) (d : VReg) (a : VReg) (sat : BitVec 1) : Statement (Instr.vcvt c d a sat) := by
  intro hw w h
  have h := Option.some.inj h
  subst h
  exact readBack_of rfl (vcvt_word c d a sat).1 (vcvt_word c d a sat).2 hw
theorem vrcp_word (d : VReg) (a : VReg) : encA 0x2A 0 d.toNat a.toNat 0 < 2 ^ 32 ∧ decodeFields (encA 0x2A 0 d.toNat a.toNat 0) = .ok (Instr.vrcp d a) := by
  have key (wd : Nat) (e0 : bitsOf wd 24 21 = 0) (e1 : bitsOf wd 20 14 = d.toNat) (e2 : bitsOf wd 13 7 = a.toNat) (e3 : bitsOf wd 6 0 = 0) : decode2A wd = .ok (Instr.vrcp d a) := by
    simp only [decode2A, e0, e1, e2, e3, ofNat_of_toNat, zeroed, if_true]
  obtain ⟨lt, f_maj, f_fn, f_d, f_a, f_b⟩ := encA_fields 0x2A 0 d.toNat a.toNat 0
    (by decide) (by decide) d.isLt a.isLt (by decide)
  exact ⟨lt, (decodeFields_2A _ f_maj).trans (key _ f_fn f_d f_a f_b)⟩
theorem vrcp (d : VReg) (a : VReg) : Statement (Instr.vrcp d a) := by
  intro hw w h
  have h := Option.some.inj h
  subst h
  exact readBack_of rfl (vrcp_word d a).1 (vrcp_word d a).2 hw
theorem vrsq_word (d : VReg) (a : VReg) : encA 0x2A 1 d.toNat a.toNat 0 < 2 ^ 32 ∧ decodeFields (encA 0x2A 1 d.toNat a.toNat 0) = .ok (Instr.vrsq d a) := by
  have key (wd : Nat) (e0 : bitsOf wd 24 21 = 1) (e1 : bitsOf wd 20 14 = d.toNat) (e2 : bitsOf wd 13 7 = a.toNat) (e3 : bitsOf wd 6 0 = 0) : decode2A wd = .ok (Instr.vrsq d a) := by
    simp only [decode2A, e0, e1, e2, e3, ofNat_of_toNat, zeroed, if_true]
  obtain ⟨lt, f_maj, f_fn, f_d, f_a, f_b⟩ := encA_fields 0x2A 1 d.toNat a.toNat 0
    (by decide) (by decide) d.isLt a.isLt (by decide)
  exact ⟨lt, (decodeFields_2A _ f_maj).trans (key _ f_fn f_d f_a f_b)⟩
theorem vrsq (d : VReg) (a : VReg) : Statement (Instr.vrsq d a) := by
  intro hw w h
  have h := Option.some.inj h
  subst h
  exact readBack_of rfl (vrsq_word d a).1 (vrsq_word d a).2 hw
theorem vsqrt_word (d : VReg) (a : VReg) : encA 0x2A 2 d.toNat a.toNat 0 < 2 ^ 32 ∧ decodeFields (encA 0x2A 2 d.toNat a.toNat 0) = .ok (Instr.vsqrt d a) := by
  have key (wd : Nat) (e0 : bitsOf wd 24 21 = 2) (e1 : bitsOf wd 20 14 = d.toNat) (e2 : bitsOf wd 13 7 = a.toNat) (e3 : bitsOf wd 6 0 = 0) : decode2A wd = .ok (Instr.vsqrt d a) := by
    simp only [decode2A, e0, e1, e2, e3, ofNat_of_toNat, zeroed, if_true]
  obtain ⟨lt, f_maj, f_fn, f_d, f_a, f_b⟩ := encA_fields 0x2A 2 d.toNat a.toNat 0
    (by decide) (by decide) d.isLt a.isLt (by decide)
  exact ⟨lt, (decodeFields_2A _ f_maj).trans (key _ f_fn f_d f_a f_b)⟩
theorem vsqrt (d : VReg) (a : VReg) : Statement (Instr.vsqrt d a) := by
  intro hw w h
  have h := Option.some.inj h
  subst h
  exact readBack_of rfl (vsqrt_word d a).1 (vsqrt_word d a).2 hw
theorem vexp2_word (d : VReg) (a : VReg) : encA 0x2A 3 d.toNat a.toNat 0 < 2 ^ 32 ∧ decodeFields (encA 0x2A 3 d.toNat a.toNat 0) = .ok (Instr.vexp2 d a) := by
  have key (wd : Nat) (e0 : bitsOf wd 24 21 = 3) (e1 : bitsOf wd 20 14 = d.toNat) (e2 : bitsOf wd 13 7 = a.toNat) (e3 : bitsOf wd 6 0 = 0) : decode2A wd = .ok (Instr.vexp2 d a) := by
    simp only [decode2A, e0, e1, e2, e3, ofNat_of_toNat, zeroed, if_true]
  obtain ⟨lt, f_maj, f_fn, f_d, f_a, f_b⟩ := encA_fields 0x2A 3 d.toNat a.toNat 0
    (by decide) (by decide) d.isLt a.isLt (by decide)
  exact ⟨lt, (decodeFields_2A _ f_maj).trans (key _ f_fn f_d f_a f_b)⟩
theorem vexp2 (d : VReg) (a : VReg) : Statement (Instr.vexp2 d a) := by
  intro hw w h
  have h := Option.some.inj h
  subst h
  exact readBack_of rfl (vexp2_word d a).1 (vexp2_word d a).2 hw
theorem vlog2_word (d : VReg) (a : VReg) : encA 0x2A 4 d.toNat a.toNat 0 < 2 ^ 32 ∧ decodeFields (encA 0x2A 4 d.toNat a.toNat 0) = .ok (Instr.vlog2 d a) := by
  have key (wd : Nat) (e0 : bitsOf wd 24 21 = 4) (e1 : bitsOf wd 20 14 = d.toNat) (e2 : bitsOf wd 13 7 = a.toNat) (e3 : bitsOf wd 6 0 = 0) : decode2A wd = .ok (Instr.vlog2 d a) := by
    simp only [decode2A, e0, e1, e2, e3, ofNat_of_toNat, zeroed, if_true]
  obtain ⟨lt, f_maj, f_fn, f_d, f_a, f_b⟩ := encA_fields 0x2A 4 d.toNat a.toNat 0
    (by decide) (by decide) d.isLt a.isLt (by decide)
  exact ⟨lt, (decodeFields_2A _ f_maj).trans (key _ f_fn f_d f_a f_b)⟩
theorem vlog2 (d : VReg) (a : VReg) : Statement (Instr.vlog2 d a) := by
  intro hw w h
  have h := Option.some.inj h
  subst h
  exact readBack_of rfl (vlog2_word d a).1 (vlog2_word d a).2 hw
theorem vsin_word (d : VReg) (a : VReg) : encA 0x2A 5 d.toNat a.toNat 0 < 2 ^ 32 ∧ decodeFields (encA 0x2A 5 d.toNat a.toNat 0) = .ok (Instr.vsin d a) := by
  have key (wd : Nat) (e0 : bitsOf wd 24 21 = 5) (e1 : bitsOf wd 20 14 = d.toNat) (e2 : bitsOf wd 13 7 = a.toNat) (e3 : bitsOf wd 6 0 = 0) : decode2A wd = .ok (Instr.vsin d a) := by
    simp only [decode2A, e0, e1, e2, e3, ofNat_of_toNat, zeroed, if_true]
  obtain ⟨lt, f_maj, f_fn, f_d, f_a, f_b⟩ := encA_fields 0x2A 5 d.toNat a.toNat 0
    (by decide) (by decide) d.isLt a.isLt (by decide)
  exact ⟨lt, (decodeFields_2A _ f_maj).trans (key _ f_fn f_d f_a f_b)⟩
theorem vsin (d : VReg) (a : VReg) : Statement (Instr.vsin d a) := by
  intro hw w h
  have h := Option.some.inj h
  subst h
  exact readBack_of rfl (vsin_word d a).1 (vsin_word d a).2 hw
theorem vcos_word (d : VReg) (a : VReg) : encA 0x2A 6 d.toNat a.toNat 0 < 2 ^ 32 ∧ decodeFields (encA 0x2A 6 d.toNat a.toNat 0) = .ok (Instr.vcos d a) := by
  have key (wd : Nat) (e0 : bitsOf wd 24 21 = 6) (e1 : bitsOf wd 20 14 = d.toNat) (e2 : bitsOf wd 13 7 = a.toNat) (e3 : bitsOf wd 6 0 = 0) : decode2A wd = .ok (Instr.vcos d a) := by
    simp only [decode2A, e0, e1, e2, e3, ofNat_of_toNat, zeroed, if_true]
  obtain ⟨lt, f_maj, f_fn, f_d, f_a, f_b⟩ := encA_fields 0x2A 6 d.toNat a.toNat 0
    (by decide) (by decide) d.isLt a.isLt (by decide)
  exact ⟨lt, (decodeFields_2A _ f_maj).trans (key _ f_fn f_d f_a f_b)⟩
theorem vcos (d : VReg) (a : VReg) : Statement (Instr.vcos d a) := by
  intro hw w h
  have h := Option.some.inj h
  subst h
  exact readBack_of rfl (vcos_word d a).1 (vcos_word d a).2 hw
theorem vtanh_word (d : VReg) (a : VReg) : encA 0x2A 7 d.toNat a.toNat 0 < 2 ^ 32 ∧ decodeFields (encA 0x2A 7 d.toNat a.toNat 0) = .ok (Instr.vtanh d a) := by
  have key (wd : Nat) (e0 : bitsOf wd 24 21 = 7) (e1 : bitsOf wd 20 14 = d.toNat) (e2 : bitsOf wd 13 7 = a.toNat) (e3 : bitsOf wd 6 0 = 0) : decode2A wd = .ok (Instr.vtanh d a) := by
    simp only [decode2A, e0, e1, e2, e3, ofNat_of_toNat, zeroed, if_true]
  obtain ⟨lt, f_maj, f_fn, f_d, f_a, f_b⟩ := encA_fields 0x2A 7 d.toNat a.toNat 0
    (by decide) (by decide) d.isLt a.isLt (by decide)
  exact ⟨lt, (decodeFields_2A _ f_maj).trans (key _ f_fn f_d f_a f_b)⟩
theorem vtanh (d : VReg) (a : VReg) : Statement (Instr.vtanh d a) := by
  intro hw w h
  have h := Option.some.inj h
  subst h
  exact readBack_of rfl (vtanh_word d a).1 (vtanh_word d a).2 hw
theorem vsigm_word (d : VReg) (a : VReg) : encA 0x2A 8 d.toNat a.toNat 0 < 2 ^ 32 ∧ decodeFields (encA 0x2A 8 d.toNat a.toNat 0) = .ok (Instr.vsigm d a) := by
  have key (wd : Nat) (e0 : bitsOf wd 24 21 = 8) (e1 : bitsOf wd 20 14 = d.toNat) (e2 : bitsOf wd 13 7 = a.toNat) (e3 : bitsOf wd 6 0 = 0) : decode2A wd = .ok (Instr.vsigm d a) := by
    simp only [decode2A, e0, e1, e2, e3, ofNat_of_toNat, zeroed, if_true]
  obtain ⟨lt, f_maj, f_fn, f_d, f_a, f_b⟩ := encA_fields 0x2A 8 d.toNat a.toNat 0
    (by decide) (by decide) d.isLt a.isLt (by decide)
  exact ⟨lt, (decodeFields_2A _ f_maj).trans (key _ f_fn f_d f_a f_b)⟩
theorem vsigm (d : VReg) (a : VReg) : Statement (Instr.vsigm d a) := by
  intro hw w h
  have h := Option.some.inj h
  subst h
  exact readBack_of rfl (vsigm_word d a).1 (vsigm_word d a).2 hw
theorem vdot4i_word (d : VReg) (a : VReg) (b : VReg) : encA 0x2B 0 d.toNat a.toNat b.toNat < 2 ^ 32 ∧ decodeFields (encA 0x2B 0 d.toNat a.toNat b.toNat) = .ok (Instr.vdot4i d a b) := by
  have key (wd : Nat) (e0 : bitsOf wd 24 21 = 0) (e1 : bitsOf wd 20 14 = d.toNat) (e2 : bitsOf wd 13 7 = a.toNat) (e3 : bitsOf wd 6 0 = b.toNat) : decode2B wd = .ok (Instr.vdot4i d a b) := by
    simp only [decode2B, e0, e1, e2, e3, ofNat_of_toNat]
  obtain ⟨lt, f_maj, f_fn, f_d, f_a, f_b⟩ := encA_fields 0x2B 0 d.toNat a.toNat b.toNat
    (by decide) (by decide) d.isLt a.isLt b.isLt
  exact ⟨lt, (decodeFields_2B _ f_maj).trans (key _ f_fn f_d f_a f_b)⟩
theorem vdot4i (d : VReg) (a : VReg) (b : VReg) : Statement (Instr.vdot4i d a b) := by
  intro hw w h
  have h := Option.some.inj h
  subst h
  exact readBack_of rfl (vdot4i_word d a b).1 (vdot4i_word d a b).2 hw
theorem vdot4n_word (d : VReg) (a : VReg) (b : VReg) : encA 0x2B 1 d.toNat a.toNat b.toNat < 2 ^ 32 ∧ decodeFields (encA 0x2B 1 d.toNat a.toNat b.toNat) = .ok (Instr.vdot4n d a b) := by
  have key (wd : Nat) (e0 : bitsOf wd 24 21 = 1) (e1 : bitsOf wd 20 14 = d.toNat) (e2 : bitsOf wd 13 7 = a.toNat) (e3 : bitsOf wd 6 0 = b.toNat) : decode2B wd = .ok (Instr.vdot4n d a b) := by
    simp only [decode2B, e0, e1, e2, e3, ofNat_of_toNat]
  obtain ⟨lt, f_maj, f_fn, f_d, f_a, f_b⟩ := encA_fields 0x2B 1 d.toNat a.toNat b.toNat
    (by decide) (by decide) d.isLt a.isLt b.isLt
  exact ⟨lt, (decodeFields_2B _ f_maj).trans (key _ f_fn f_d f_a f_b)⟩
theorem vdot4n (d : VReg) (a : VReg) (b : VReg) : Statement (Instr.vdot4n d a b) := by
  intro hw w h
  have h := Option.some.inj h
  subst h
  exact readBack_of rfl (vdot4n_word d a b).1 (vdot4n_word d a b).2 hw
theorem vdot2bf_word (d : VReg) (a : VReg) (b : VReg) : encA 0x2B 2 d.toNat a.toNat b.toNat < 2 ^ 32 ∧ decodeFields (encA 0x2B 2 d.toNat a.toNat b.toNat) = .ok (Instr.vdot2bf d a b) := by
  have key (wd : Nat) (e0 : bitsOf wd 24 21 = 2) (e1 : bitsOf wd 20 14 = d.toNat) (e2 : bitsOf wd 13 7 = a.toNat) (e3 : bitsOf wd 6 0 = b.toNat) : decode2B wd = .ok (Instr.vdot2bf d a b) := by
    simp only [decode2B, e0, e1, e2, e3, ofNat_of_toNat]
  obtain ⟨lt, f_maj, f_fn, f_d, f_a, f_b⟩ := encA_fields 0x2B 2 d.toNat a.toNat b.toNat
    (by decide) (by decide) d.isLt a.isLt b.isLt
  exact ⟨lt, (decodeFields_2B _ f_maj).trans (key _ f_fn f_d f_a f_b)⟩
theorem vdot2bf (d : VReg) (a : VReg) (b : VReg) : Statement (Instr.vdot2bf d a b) := by
  intro hw w h
  have h := Option.some.inj h
  subst h
  exact readBack_of rfl (vdot2bf_word d a b).1 (vdot2bf_word d a b).2 hw
theorem vdot2h_word (d : VReg) (a : VReg) (b : VReg) : encA 0x2B 3 d.toNat a.toNat b.toNat < 2 ^ 32 ∧ decodeFields (encA 0x2B 3 d.toNat a.toNat b.toNat) = .ok (Instr.vdot2h d a b) := by
  have key (wd : Nat) (e0 : bitsOf wd 24 21 = 3) (e1 : bitsOf wd 20 14 = d.toNat) (e2 : bitsOf wd 13 7 = a.toNat) (e3 : bitsOf wd 6 0 = b.toNat) : decode2B wd = .ok (Instr.vdot2h d a b) := by
    simp only [decode2B, e0, e1, e2, e3, ofNat_of_toNat]
  obtain ⟨lt, f_maj, f_fn, f_d, f_a, f_b⟩ := encA_fields 0x2B 3 d.toNat a.toNat b.toNat
    (by decide) (by decide) d.isLt a.isLt b.isLt
  exact ⟨lt, (decodeFields_2B _ f_maj).trans (key _ f_fn f_d f_a f_b)⟩
theorem vdot2h (d : VReg) (a : VReg) (b : VReg) : Statement (Instr.vdot2h d a b) := by
  intro hw w h
  have h := Option.some.inj h
  subst h
  exact readBack_of rfl (vdot2h_word d a b).1 (vdot2h_word d a b).2 hw
theorem vmovs_word (d : VReg) (a : SReg) : encA 0x2C 0 d.toNat a.toNat 0 < 2 ^ 32 ∧ decodeFields (encA 0x2C 0 d.toNat a.toNat 0) = .ok (Instr.vmovs d a) := by
  have key (wd : Nat) (e0 : bitsOf wd 24 21 = 0) (e1 : bitsOf wd 20 14 = d.toNat) (e2 : bitsOf wd 13 7 = a.toNat) (e3 : bitsOf wd 6 0 = 0) : decode2C wd = .ok (Instr.vmovs d a) := by
    simp only [decode2C, e0, e1, e2, e3, sreg_toNat, ofNat_of_toNat, bind1, zeroed, if_true]
  obtain ⟨lt, f_maj, f_fn, f_d, f_a, f_b⟩ := encA_fields 0x2C 0 d.toNat a.toNat 0
    (by decide) (by decide) d.isLt (Nat.lt_of_lt_of_le a.isLt (by decide)) (by decide)
  exact ⟨lt, (decodeFields_2C _ f_maj).trans (key _ f_fn f_d f_a f_b)⟩
theorem vmovs (d : VReg) (a : SReg) : Statement (Instr.vmovs d a) := by
  intro hw w h
  have h := Option.some.inj h
  subst h
  exact readBack_of rfl (vmovs_word d a).1 (vmovs_word d a).2 hw
theorem vmovsh_word (d : VReg) (a : SReg) : encA 0x2C 1 d.toNat a.toNat 0 < 2 ^ 32 ∧ decodeFields (encA 0x2C 1 d.toNat a.toNat 0) = .ok (Instr.vmovsh d a) := by
  have key (wd : Nat) (e0 : bitsOf wd 24 21 = 1) (e1 : bitsOf wd 20 14 = d.toNat) (e2 : bitsOf wd 13 7 = a.toNat) (e3 : bitsOf wd 6 0 = 0) : decode2C wd = .ok (Instr.vmovsh d a) := by
    simp only [decode2C, e0, e1, e2, e3, sreg_toNat, ofNat_of_toNat, bind1, zeroed, if_true]
  obtain ⟨lt, f_maj, f_fn, f_d, f_a, f_b⟩ := encA_fields 0x2C 1 d.toNat a.toNat 0
    (by decide) (by decide) d.isLt (Nat.lt_of_lt_of_le a.isLt (by decide)) (by decide)
  exact ⟨lt, (decodeFields_2C _ f_maj).trans (key _ f_fn f_d f_a f_b)⟩
theorem vmovsh (d : VReg) (a : SReg) : Statement (Instr.vmovsh d a) := by
  intro hw w h
  have h := Option.some.inj h
  subst h
  exact readBack_of rfl (vmovsh_word d a).1 (vmovsh_word d a).2 hw
theorem vlane_word (d : VReg) : encA 0x2C 2 d.toNat 0 0 < 2 ^ 32 ∧ decodeFields (encA 0x2C 2 d.toNat 0 0) = .ok (Instr.vlane d) := by
  have key (wd : Nat) (e0 : bitsOf wd 24 21 = 2) (e1 : bitsOf wd 20 14 = d.toNat) (e2 : bitsOf wd 13 7 = 0) (e3 : bitsOf wd 6 0 = 0) : decode2C wd = .ok (Instr.vlane d) := by
    simp only [decode2C, e0, e1, e2, e3, ofNat_of_toNat, zeroed, if_true]
  obtain ⟨lt, f_maj, f_fn, f_d, f_a, f_b⟩ := encA_fields 0x2C 2 d.toNat 0 0
    (by decide) (by decide) d.isLt (by decide) (by decide)
  exact ⟨lt, (decodeFields_2C _ f_maj).trans (key _ f_fn f_d f_a f_b)⟩
theorem vlane (d : VReg) : Statement (Instr.vlane d) := by
  intro hw w h
  have h := Option.some.inj h
  subst h
  exact readBack_of rfl (vlane_word d).1 (vlane_word d).2 hw
theorem vrand_word (d : VReg) : encA 0x2C 3 d.toNat 0 0 < 2 ^ 32 ∧ decodeFields (encA 0x2C 3 d.toNat 0 0) = .ok (Instr.vrand d) := by
  have key (wd : Nat) (e0 : bitsOf wd 24 21 = 3) (e1 : bitsOf wd 20 14 = d.toNat) (e2 : bitsOf wd 13 7 = 0) (e3 : bitsOf wd 6 0 = 0) : decode2C wd = .ok (Instr.vrand d) := by
    simp only [decode2C, e0, e1, e2, e3, ofNat_of_toNat, zeroed, if_true]
  obtain ⟨lt, f_maj, f_fn, f_d, f_a, f_b⟩ := encA_fields 0x2C 3 d.toNat 0 0
    (by decide) (by decide) d.isLt (by decide) (by decide)
  exact ⟨lt, (decodeFields_2C _ f_maj).trans (key _ f_fn f_d f_a f_b)⟩
theorem vrand (d : VReg) : Statement (Instr.vrand d) := by
  intro hw w h
  have h := Option.some.inj h
  subst h
  exact readBack_of rfl (vrand_word d).1 (vrand_word d).2 hw
theorem vext_word (d : SReg) (a : VReg) (b : SReg) : encA 0x2C 4 d.toNat a.toNat b.toNat < 2 ^ 32 ∧ decodeFields (encA 0x2C 4 d.toNat a.toNat b.toNat) = .ok (Instr.vext d a b) := by
  have key (wd : Nat) (e0 : bitsOf wd 24 21 = 4) (e1 : bitsOf wd 20 14 = d.toNat) (e2 : bitsOf wd 13 7 = a.toNat) (e3 : bitsOf wd 6 0 = b.toNat) : decode2C wd = .ok (Instr.vext d a b) := by
    simp only [decode2C, e0, e1, e2, e3, sreg_toNat, ofNat_of_toNat, bind1]
  obtain ⟨lt, f_maj, f_fn, f_d, f_a, f_b⟩ := encA_fields 0x2C 4 d.toNat a.toNat b.toNat
    (by decide) (by decide) (Nat.lt_of_lt_of_le d.isLt (by decide)) a.isLt (Nat.lt_of_lt_of_le b.isLt (by decide))
  exact ⟨lt, (decodeFields_2C _ f_maj).trans (key _ f_fn f_d f_a f_b)⟩
theorem vext (d : SReg) (a : VReg) (b : SReg) : Statement (Instr.vext d a b) := by
  intro hw w h
  have h := Option.some.inj h
  subst h
  exact readBack_of rfl (vext_word d a b).1 (vext_word d a b).2 hw
theorem vmovi_word (d : VReg) (imm : BitVec 18) : encC 0x2D d.toNat imm.toNat < 2 ^ 32 ∧ decodeFields (encC 0x2D d.toNat imm.toNat) = .ok (Instr.vmovi d imm) := by
  have key (wd : Nat) (e0 : bitsOf wd 24 18 = d.toNat) (e1 : bitsOf wd 17 0 = imm.toNat) : decode2D wd = .ok (Instr.vmovi d imm) := by
    simp only [decode2D, e0, e1, ofNat_of_toNat]
  obtain ⟨lt, f_maj, f_d, f_imm⟩ := encC_fields 0x2D d.toNat imm.toNat
    (by decide) d.isLt imm.isLt
  exact ⟨lt, (decodeFields_2D _ f_maj).trans (key _ f_d f_imm)⟩
theorem vmovi (d : VReg) (imm : BitVec 18) : Statement (Instr.vmovi d imm) := by
  intro hw w h
  have h := Option.some.inj h
  subst h
  exact readBack_of rfl (vmovi_word d imm).1 (vmovi_word d imm).2 hw
theorem vshflIdx_word (d : VReg) (a : VReg) (b : VReg) : encA 0x40 0 d.toNat a.toNat b.toNat < 2 ^ 32 ∧ decodeFields (encA 0x40 0 d.toNat a.toNat b.toNat) = .ok (Instr.vshflIdx d a b) := by
  have key (wd : Nat) (e0 : bitsOf wd 24 21 = 0) (e1 : bitsOf wd 20 14 = d.toNat) (e2 : bitsOf wd 13 7 = a.toNat) (e3 : bitsOf wd 6 0 = b.toNat) : decode40 wd = .ok (Instr.vshflIdx d a b) := by
    simp only [decode40, e0, e1, e2, e3, ofNat_of_toNat]
  obtain ⟨lt, f_maj, f_fn, f_d, f_a, f_b⟩ := encA_fields 0x40 0 d.toNat a.toNat b.toNat
    (by decide) (by decide) d.isLt a.isLt b.isLt
  exact ⟨lt, (decodeFields_40 _ f_maj).trans (key _ f_fn f_d f_a f_b)⟩
theorem vshflIdx (d : VReg) (a : VReg) (b : VReg) : Statement (Instr.vshflIdx d a b) := by
  intro hw w h
  have h := Option.some.inj h
  subst h
  exact readBack_of rfl (vshflIdx_word d a b).1 (vshflIdx_word d a b).2 hw
theorem vshflUp_word (d : VReg) (a : VReg) (b : SReg) : encA 0x40 1 d.toNat a.toNat b.toNat < 2 ^ 32 ∧ decodeFields (encA 0x40 1 d.toNat a.toNat b.toNat) = .ok (Instr.vshflUp d a b) := by
  have key (wd : Nat) (e0 : bitsOf wd 24 21 = 1) (e1 : bitsOf wd 20 14 = d.toNat) (e2 : bitsOf wd 13 7 = a.toNat) (e3 : bitsOf wd 6 0 = b.toNat) : decode40 wd = .ok (Instr.vshflUp d a b) := by
    simp only [decode40, e0, e1, e2, e3, sreg_toNat, ofNat_of_toNat, bind1]
  obtain ⟨lt, f_maj, f_fn, f_d, f_a, f_b⟩ := encA_fields 0x40 1 d.toNat a.toNat b.toNat
    (by decide) (by decide) d.isLt a.isLt (Nat.lt_of_lt_of_le b.isLt (by decide))
  exact ⟨lt, (decodeFields_40 _ f_maj).trans (key _ f_fn f_d f_a f_b)⟩
theorem vshflUp (d : VReg) (a : VReg) (b : SReg) : Statement (Instr.vshflUp d a b) := by
  intro hw w h
  have h := Option.some.inj h
  subst h
  exact readBack_of rfl (vshflUp_word d a b).1 (vshflUp_word d a b).2 hw
theorem vshflDown_word (d : VReg) (a : VReg) (b : SReg) : encA 0x40 2 d.toNat a.toNat b.toNat < 2 ^ 32 ∧ decodeFields (encA 0x40 2 d.toNat a.toNat b.toNat) = .ok (Instr.vshflDown d a b) := by
  have key (wd : Nat) (e0 : bitsOf wd 24 21 = 2) (e1 : bitsOf wd 20 14 = d.toNat) (e2 : bitsOf wd 13 7 = a.toNat) (e3 : bitsOf wd 6 0 = b.toNat) : decode40 wd = .ok (Instr.vshflDown d a b) := by
    simp only [decode40, e0, e1, e2, e3, sreg_toNat, ofNat_of_toNat, bind1]
  obtain ⟨lt, f_maj, f_fn, f_d, f_a, f_b⟩ := encA_fields 0x40 2 d.toNat a.toNat b.toNat
    (by decide) (by decide) d.isLt a.isLt (Nat.lt_of_lt_of_le b.isLt (by decide))
  exact ⟨lt, (decodeFields_40 _ f_maj).trans (key _ f_fn f_d f_a f_b)⟩
theorem vshflDown (d : VReg) (a : VReg) (b : SReg) : Statement (Instr.vshflDown d a b) := by
  intro hw w h
  have h := Option.some.inj h
  subst h
  exact readBack_of rfl (vshflDown_word d a b).1 (vshflDown_word d a b).2 hw
theorem vshflXor_word (d : VReg) (a : VReg) (b : SReg) : encA 0x40 3 d.toNat a.toNat b.toNat < 2 ^ 32 ∧ decodeFields (encA 0x40 3 d.toNat a.toNat b.toNat) = .ok (Instr.vshflXor d a b) := by
  have key (wd : Nat) (e0 : bitsOf wd 24 21 = 3) (e1 : bitsOf wd 20 14 = d.toNat) (e2 : bitsOf wd 13 7 = a.toNat) (e3 : bitsOf wd 6 0 = b.toNat) : decode40 wd = .ok (Instr.vshflXor d a b) := by
    simp only [decode40, e0, e1, e2, e3, sreg_toNat, ofNat_of_toNat, bind1]
  obtain ⟨lt, f_maj, f_fn, f_d, f_a, f_b⟩ := encA_fields 0x40 3 d.toNat a.toNat b.toNat
    (by decide) (by decide) d.isLt a.isLt (Nat.lt_of_lt_of_le b.isLt (by decide))
  exact ⟨lt, (decodeFields_40 _ f_maj).trans (key _ f_fn f_d f_a f_b)⟩
theorem vshflXor (d : VReg) (a : VReg) (b : SReg) : Statement (Instr.vshflXor d a b) := by
  intro hw w h
  have h := Option.some.inj h
  subst h
  exact readBack_of rfl (vshflXor_word d a b).1 (vshflXor_word d a b).2 hw
theorem vshflBcast_word (d : VReg) (a : VReg) (b : SReg) : encA 0x40 4 d.toNat a.toNat b.toNat < 2 ^ 32 ∧ decodeFields (encA 0x40 4 d.toNat a.toNat b.toNat) = .ok (Instr.vshflBcast d a b) := by
  have key (wd : Nat) (e0 : bitsOf wd 24 21 = 4) (e1 : bitsOf wd 20 14 = d.toNat) (e2 : bitsOf wd 13 7 = a.toNat) (e3 : bitsOf wd 6 0 = b.toNat) : decode40 wd = .ok (Instr.vshflBcast d a b) := by
    simp only [decode40, e0, e1, e2, e3, sreg_toNat, ofNat_of_toNat, bind1]
  obtain ⟨lt, f_maj, f_fn, f_d, f_a, f_b⟩ := encA_fields 0x40 4 d.toNat a.toNat b.toNat
    (by decide) (by decide) d.isLt a.isLt (Nat.lt_of_lt_of_le b.isLt (by decide))
  exact ⟨lt, (decodeFields_40 _ f_maj).trans (key _ f_fn f_d f_a f_b)⟩
theorem vshflBcast (d : VReg) (a : VReg) (b : SReg) : Statement (Instr.vshflBcast d a b) := by
  intro hw w h
  have h := Option.some.inj h
  subst h
  exact readBack_of rfl (vshflBcast_word d a b).1 (vshflBcast_word d a b).2 hw
theorem vshflUpImm_word (d : VReg) (a : VReg) (n : BitVec 5) : encA 0x40 9 d.toNat a.toNat n.toNat < 2 ^ 32 ∧ decodeFields (encA 0x40 9 d.toNat a.toNat n.toNat) = .ok (Instr.vshflUpImm d a n) := by
  have key (wd : Nat) (e0 : bitsOf wd 24 21 = 9) (e1 : bitsOf wd 20 14 = d.toNat) (e2 : bitsOf wd 13 7 = a.toNat) (e3 : bitsOf wd 6 5 = 0) (e4 : bitsOf wd 4 0 = n.toNat) : decode40 wd = .ok (Instr.vshflUpImm d a n) := by
    simp only [decode40, e0, e1, e2, e3, e4, ofNat_of_toNat, zeroed, if_true]
  obtain ⟨lt, f_maj, f_fn, f_d, f_a, _⟩ := encA_fields 0x40 9 d.toNat a.toNat n.toNat
    (by decide) (by decide) d.isLt a.isLt (Nat.lt_of_lt_of_le n.isLt (by decide))
  exact ⟨lt, (decodeFields_40 _ f_maj).trans (key _ f_fn f_d f_a (by unfold bitsOf encA; norm_num; omega) (by unfold bitsOf encA; norm_num; omega))⟩
theorem vshflUpImm (d : VReg) (a : VReg) (n : BitVec 5) : Statement (Instr.vshflUpImm d a n) := by
  intro hw w h
  have h := Option.some.inj h
  subst h
  exact readBack_of rfl (vshflUpImm_word d a n).1 (vshflUpImm_word d a n).2 hw
theorem vshflDownImm_word (d : VReg) (a : VReg) (n : BitVec 5) : encA 0x40 10 d.toNat a.toNat n.toNat < 2 ^ 32 ∧ decodeFields (encA 0x40 10 d.toNat a.toNat n.toNat) = .ok (Instr.vshflDownImm d a n) := by
  have key (wd : Nat) (e0 : bitsOf wd 24 21 = 10) (e1 : bitsOf wd 20 14 = d.toNat) (e2 : bitsOf wd 13 7 = a.toNat) (e3 : bitsOf wd 6 5 = 0) (e4 : bitsOf wd 4 0 = n.toNat) : decode40 wd = .ok (Instr.vshflDownImm d a n) := by
    simp only [decode40, e0, e1, e2, e3, e4, ofNat_of_toNat, zeroed, if_true]
  obtain ⟨lt, f_maj, f_fn, f_d, f_a, _⟩ := encA_fields 0x40 10 d.toNat a.toNat n.toNat
    (by decide) (by decide) d.isLt a.isLt (Nat.lt_of_lt_of_le n.isLt (by decide))
  exact ⟨lt, (decodeFields_40 _ f_maj).trans (key _ f_fn f_d f_a (by unfold bitsOf encA; norm_num; omega) (by unfold bitsOf encA; norm_num; omega))⟩
theorem vshflDownImm (d : VReg) (a : VReg) (n : BitVec 5) : Statement (Instr.vshflDownImm d a n) := by
  intro hw w h
  have h := Option.some.inj h
  subst h
  exact readBack_of rfl (vshflDownImm_word d a n).1 (vshflDownImm_word d a n).2 hw
theorem vshflXorImm_word (d : VReg) (a : VReg) (n : BitVec 5) : encA 0x40 11 d.toNat a.toNat n.toNat < 2 ^ 32 ∧ decodeFields (encA 0x40 11 d.toNat a.toNat n.toNat) = .ok (Instr.vshflXorImm d a n) := by
  have key (wd : Nat) (e0 : bitsOf wd 24 21 = 11) (e1 : bitsOf wd 20 14 = d.toNat) (e2 : bitsOf wd 13 7 = a.toNat) (e3 : bitsOf wd 6 5 = 0) (e4 : bitsOf wd 4 0 = n.toNat) : decode40 wd = .ok (Instr.vshflXorImm d a n) := by
    simp only [decode40, e0, e1, e2, e3, e4, ofNat_of_toNat, zeroed, if_true]
  obtain ⟨lt, f_maj, f_fn, f_d, f_a, _⟩ := encA_fields 0x40 11 d.toNat a.toNat n.toNat
    (by decide) (by decide) d.isLt a.isLt (Nat.lt_of_lt_of_le n.isLt (by decide))
  exact ⟨lt, (decodeFields_40 _ f_maj).trans (key _ f_fn f_d f_a (by unfold bitsOf encA; norm_num; omega) (by unfold bitsOf encA; norm_num; omega))⟩
theorem vshflXorImm (d : VReg) (a : VReg) (n : BitVec 5) : Statement (Instr.vshflXorImm d a n) := by
  intro hw w h
  have h := Option.some.inj h
  subst h
  exact readBack_of rfl (vshflXorImm_word d a n).1 (vshflXorImm_word d a n).2 hw
theorem vshflBcastImm_word (d : VReg) (a : VReg) (n : BitVec 5) : encA 0x40 12 d.toNat a.toNat n.toNat < 2 ^ 32 ∧ decodeFields (encA 0x40 12 d.toNat a.toNat n.toNat) = .ok (Instr.vshflBcastImm d a n) := by
  have key (wd : Nat) (e0 : bitsOf wd 24 21 = 12) (e1 : bitsOf wd 20 14 = d.toNat) (e2 : bitsOf wd 13 7 = a.toNat) (e3 : bitsOf wd 6 5 = 0) (e4 : bitsOf wd 4 0 = n.toNat) : decode40 wd = .ok (Instr.vshflBcastImm d a n) := by
    simp only [decode40, e0, e1, e2, e3, e4, ofNat_of_toNat, zeroed, if_true]
  obtain ⟨lt, f_maj, f_fn, f_d, f_a, _⟩ := encA_fields 0x40 12 d.toNat a.toNat n.toNat
    (by decide) (by decide) d.isLt a.isLt (Nat.lt_of_lt_of_le n.isLt (by decide))
  exact ⟨lt, (decodeFields_40 _ f_maj).trans (key _ f_fn f_d f_a (by unfold bitsOf encA; norm_num; omega) (by unfold bitsOf encA; norm_num; omega))⟩
theorem vshflBcastImm (d : VReg) (a : VReg) (n : BitVec 5) : Statement (Instr.vshflBcastImm d a n) := by
  intro hw w h
  have h := Option.some.inj h
  subst h
  exact readBack_of rfl (vshflBcastImm_word d a n).1 (vshflBcastImm_word d a n).2 hw
theorem vany_word (d : SReg) (a : KReg) : encA 0x41 0 d.toNat a.toNat 0 < 2 ^ 32 ∧ decodeFields (encA 0x41 0 d.toNat a.toNat 0) = .ok (Instr.vany d a) := by
  have key (wd : Nat) (e0 : bitsOf wd 24 21 = 0) (e1 : bitsOf wd 20 14 = d.toNat) (e2 : bitsOf wd 13 7 = a.toNat) (e3 : bitsOf wd 6 0 = 0) : decode41 wd = .ok (Instr.vany d a) := by
    simp only [decode41, e0, e1, e2, e3, sreg_toNat, kreg_toNat, bind1, zeroed, if_true]
  obtain ⟨lt, f_maj, f_fn, f_d, f_a, f_b⟩ := encA_fields 0x41 0 d.toNat a.toNat 0
    (by decide) (by decide) (Nat.lt_of_lt_of_le d.isLt (by decide)) (Nat.lt_of_lt_of_le a.isLt (by decide)) (by decide)
  exact ⟨lt, (decodeFields_41 _ f_maj).trans (key _ f_fn f_d f_a f_b)⟩
theorem vany (d : SReg) (a : KReg) : Statement (Instr.vany d a) := by
  intro hw w h
  have h := Option.some.inj h
  subst h
  exact readBack_of rfl (vany_word d a).1 (vany_word d a).2 hw
theorem vall_word (d : SReg) (a : KReg) : encA 0x41 1 d.toNat a.toNat 0 < 2 ^ 32 ∧ decodeFields (encA 0x41 1 d.toNat a.toNat 0) = .ok (Instr.vall d a) := by
  have key (wd : Nat) (e0 : bitsOf wd 24 21 = 1) (e1 : bitsOf wd 20 14 = d.toNat) (e2 : bitsOf wd 13 7 = a.toNat) (e3 : bitsOf wd 6 0 = 0) : decode41 wd = .ok (Instr.vall d a) := by
    simp only [decode41, e0, e1, e2, e3, sreg_toNat, kreg_toNat, bind1, zeroed, if_true]
  obtain ⟨lt, f_maj, f_fn, f_d, f_a, f_b⟩ := encA_fields 0x41 1 d.toNat a.toNat 0
    (by decide) (by decide) (Nat.lt_of_lt_of_le d.isLt (by decide)) (Nat.lt_of_lt_of_le a.isLt (by decide)) (by decide)
  exact ⟨lt, (decodeFields_41 _ f_maj).trans (key _ f_fn f_d f_a f_b)⟩
theorem vall (d : SReg) (a : KReg) : Statement (Instr.vall d a) := by
  intro hw w h
  have h := Option.some.inj h
  subst h
  exact readBack_of rfl (vall_word d a).1 (vall_word d a).2 hw
theorem vballot_word (d : SReg) (a : KReg) : encA 0x41 2 d.toNat a.toNat 0 < 2 ^ 32 ∧ decodeFields (encA 0x41 2 d.toNat a.toNat 0) = .ok (Instr.vballot d a) := by
  have key (wd : Nat) (e0 : bitsOf wd 24 21 = 2) (e1 : bitsOf wd 20 14 = d.toNat) (e2 : bitsOf wd 13 7 = a.toNat) (e3 : bitsOf wd 6 0 = 0) : decode41 wd = .ok (Instr.vballot d a) := by
    simp only [decode41, e0, e1, e2, e3, sreg_toNat, kreg_toNat, bind1, zeroed, if_true]
  obtain ⟨lt, f_maj, f_fn, f_d, f_a, f_b⟩ := encA_fields 0x41 2 d.toNat a.toNat 0
    (by decide) (by decide) (Nat.lt_of_lt_of_le d.isLt (by decide)) (Nat.lt_of_lt_of_le a.isLt (by decide)) (by decide)
  exact ⟨lt, (decodeFields_41 _ f_maj).trans (key _ f_fn f_d f_a f_b)⟩
theorem vballot (d : SReg) (a : KReg) : Statement (Instr.vballot d a) := by
  intro hw w h
  have h := Option.some.inj h
  subst h
  exact readBack_of rfl (vballot_word d a).1 (vballot_word d a).2 hw
theorem vmatch_word (d : KReg) (a : VReg) : encA 0x41 3 d.toNat a.toNat 0 < 2 ^ 32 ∧ decodeFields (encA 0x41 3 d.toNat a.toNat 0) = .ok (Instr.vmatch d a) := by
  have key (wd : Nat) (e0 : bitsOf wd 24 21 = 3) (e1 : bitsOf wd 20 14 = d.toNat) (e2 : bitsOf wd 13 7 = a.toNat) (e3 : bitsOf wd 6 0 = 0) : decode41 wd = .ok (Instr.vmatch d a) := by
    simp only [decode41, e0, e1, e2, e3, kreg_toNat, ofNat_of_toNat, bind1, zeroed, if_true]
  obtain ⟨lt, f_maj, f_fn, f_d, f_a, f_b⟩ := encA_fields 0x41 3 d.toNat a.toNat 0
    (by decide) (by decide) (Nat.lt_of_lt_of_le d.isLt (by decide)) a.isLt (by decide)
  exact ⟨lt, (decodeFields_41 _ f_maj).trans (key _ f_fn f_d f_a f_b)⟩
theorem vmatch (d : KReg) (a : VReg) : Statement (Instr.vmatch d a) := by
  intro hw w h
  have h := Option.some.inj h
  subst h
  exact readBack_of rfl (vmatch_word d a).1 (vmatch_word d a).2 hw
theorem vred_word (o : RedOp) (d : VReg) (a : VReg) : encA 0x42 o.toCode d.toNat a.toNat 0 < 2 ^ 32 ∧ decodeFields (encA 0x42 o.toCode d.toNat a.toNat 0) = .ok (Instr.vred o d a) := by
  have key (wd : Nat) (e0 : bitsOf wd 24 21 = o.toCode) (e1 : bitsOf wd 20 14 = d.toNat) (e2 : bitsOf wd 13 7 = a.toNat) (e3 : bitsOf wd 6 0 = 0) : decode42 wd = .ok (Instr.vred o d a) := by
    simp only [decode42, e0, e1, e2, e3, RedOp.ofCode_toCode, ofNat_of_toNat, bind1, zeroed, if_true]
  obtain ⟨lt, f_maj, f_fn, f_d, f_a, f_b⟩ := encA_fields 0x42 o.toCode d.toNat a.toNat 0
    (by decide) o.toCode_lt d.isLt a.isLt (by decide)
  exact ⟨lt, (decodeFields_42 _ f_maj).trans (key _ f_fn f_d f_a f_b)⟩
theorem vred (o : RedOp) (d : VReg) (a : VReg) : Statement (Instr.vred o d a) := by
  intro hw w h
  have h := Option.some.inj h
  subst h
  exact readBack_of rfl (vred_word o d a).1 (vred_word o d a).2 hw
theorem vscan_word (o : RedOp) (d : VReg) (a : VReg) : encA 0x43 o.toCode d.toNat a.toNat 0 < 2 ^ 32 ∧ decodeFields (encA 0x43 o.toCode d.toNat a.toNat 0) = .ok (Instr.vscan o d a) := by
  have key (wd : Nat) (e0 : bitsOf wd 24 21 = o.toCode) (e1 : bitsOf wd 20 14 = d.toNat) (e2 : bitsOf wd 13 7 = a.toNat) (e3 : bitsOf wd 6 0 = 0) : decode43 wd = .ok (Instr.vscan o d a) := by
    simp only [decode43, e0, e1, e2, e3, RedOp.ofCode_toCode, ofNat_of_toNat, bind1, zeroed, if_true]
  obtain ⟨lt, f_maj, f_fn, f_d, f_a, f_b⟩ := encA_fields 0x43 o.toCode d.toNat a.toNat 0
    (by decide) o.toCode_lt d.isLt a.isLt (by decide)
  exact ⟨lt, (decodeFields_43 _ f_maj).trans (key _ f_fn f_d f_a f_b)⟩
theorem vscan (o : RedOp) (d : VReg) (a : VReg) : Statement (Instr.vscan o d a) := by
  intro hw w h
  have h := Option.some.inj h
  subst h
  exact readBack_of rfl (vscan_word o d a).1 (vscan_word o d a).2 hw
theorem vtopk_word (k : BitVec 4) (d : VReg) (a : VReg) (b : VReg) : encA 0x44 k.toNat d.toNat a.toNat b.toNat < 2 ^ 32 ∧ decodeFields (encA 0x44 k.toNat d.toNat a.toNat b.toNat) = .ok (Instr.vtopk k d a b) := by
  have key (wd : Nat) (e0 : bitsOf wd 24 21 = k.toNat) (e1 : bitsOf wd 20 14 = d.toNat) (e2 : bitsOf wd 13 7 = a.toNat) (e3 : bitsOf wd 6 0 = b.toNat) : decode44 wd = .ok (Instr.vtopk k d a b) := by
    simp only [decode44, e0, e1, e2, e3, ofNat_of_toNat]
  obtain ⟨lt, f_maj, f_fn, f_d, f_a, f_b⟩ := encA_fields 0x44 k.toNat d.toNat a.toNat b.toNat
    (by decide) k.isLt d.isLt a.isLt b.isLt
  exact ⟨lt, (decodeFields_44 _ f_maj).trans (key _ f_fn f_d f_a f_b)⟩
theorem vtopk (k : BitVec 4) (d : VReg) (a : VReg) (b : VReg) : Statement (Instr.vtopk k d a b) := by
  intro hw w h
  have h := Option.some.inj h
  subst h
  exact readBack_of rfl (vtopk_word k d a b).1 (vtopk_word k d a b).2 hw
theorem brv_word (k : KReg) (disp : BitVec 14) : encD 0x45 k.toNat 0 disp.toNat < 2 ^ 32 ∧ decodeFields (encD 0x45 k.toNat 0 disp.toNat) = .ok (Instr.brv k disp) := by
  have h_k := k.isLt
  have h_disp := disp.isLt
  have key (wd : Nat) (e0 : bitsOf wd 24 21 = k.toNat) (e1 : bitsOf wd 23 21 = k.toNat) (e2 : bitsOf wd 20 14 = 0) (e3 : bitsOf wd 13 0 = disp.toNat) : decode45 wd = .ok (Instr.brv k disp) := by
    have hc : k.toNat = 0 ∨ k.toNat = 1 ∨ k.toNat = 2 ∨ k.toNat = 3 ∨ k.toNat = 4 ∨ k.toNat = 5 ∨ k.toNat = 6 ∨ k.toNat = 7 := by omega
    simp only [decode45, e0, e1, e2, e3, ofNat_of_toNat, zeroed, if_true]
    rcases hc with hc | hc | hc | hc | hc | hc | hc | hc <;> rw [hc] <;> rfl
  obtain ⟨lt, f_maj, f_cond, f_a, f_imm⟩ := encD_fields 0x45 k.toNat 0 disp.toNat
    (by decide) (Nat.lt_of_lt_of_le k.isLt (by decide)) (by decide) disp.isLt
  exact ⟨lt, (decodeFields_45 _ f_maj).trans (key _ f_cond (by unfold bitsOf encD; norm_num; omega) f_a f_imm)⟩
theorem brv (k : KReg) (disp : BitVec 14) : Statement (Instr.brv k disp) := by
  intro hw w h
  have h := Option.some.inj h
  subst h
  exact readBack_of rfl (brv_word k disp).1 (brv_word k disp).2 hw
theorem jpt_word (disp : BitVec 25) : encE 0x46 disp.toNat < 2 ^ 32 ∧ decodeFields (encE 0x46 disp.toNat) = .ok (Instr.jpt disp) := by
  have key (wd : Nat) (e0 : bitsOf wd 24 0 = disp.toNat) : decode46 wd = .ok (Instr.jpt disp) := by
    simp only [decode46, e0, ofNat_of_toNat]
  obtain ⟨lt, f_maj, f_imm⟩ := encE_fields 0x46 disp.toNat
    (by decide) disp.isLt
  exact ⟨lt, (decodeFields_46 _ f_maj).trans (key _ f_imm)⟩
theorem jpt (disp : BitVec 25) : Statement (Instr.jpt disp) := by
  intro hw w h
  have h := Option.some.inj h
  subst h
  exact readBack_of rfl (jpt_word disp).1 (jpt_word disp).2 hw
theorem join_word : encA 0x47 0 0 0 0 < 2 ^ 32 ∧ decodeFields (encA 0x47 0 0 0 0) = .ok Instr.join := by
  have key (wd : Nat) (e0 : bitsOf wd 24 21 = 0) (e1 : bitsOf wd 20 14 = 0) (e2 : bitsOf wd 13 7 = 0) (e3 : bitsOf wd 6 0 = 0) : decode47 wd = .ok Instr.join := by
    simp only [decode47, e0, e1, e2, e3, zeroed, if_true]
  obtain ⟨lt, f_maj, f_fn, f_d, f_a, f_b⟩ := encA_fields 0x47 0 0 0 0
    (by decide) (by decide) (by decide) (by decide) (by decide)
  exact ⟨lt, (decodeFields_47 _ f_maj).trans (key _ f_fn f_d f_a f_b)⟩
theorem join : Statement Instr.join := by
  intro hw w h
  have h := Option.some.inj h
  subst h
  exact readBack_of rfl (join_word).1 (join_word).2 hw
theorem bany_word (k : KReg) (disp : BitVec 14) : encD 0x48 k.toNat 0 disp.toNat < 2 ^ 32 ∧ decodeFields (encD 0x48 k.toNat 0 disp.toNat) = .ok (Instr.bany k disp) := by
  have h_k := k.isLt
  have h_disp := disp.isLt
  have key (wd : Nat) (e0 : bitsOf wd 24 21 = k.toNat) (e1 : bitsOf wd 23 21 = k.toNat) (e2 : bitsOf wd 20 14 = 0) (e3 : bitsOf wd 13 0 = disp.toNat) : decode48 wd = .ok (Instr.bany k disp) := by
    have hc : k.toNat = 0 ∨ k.toNat = 1 ∨ k.toNat = 2 ∨ k.toNat = 3 ∨ k.toNat = 4 ∨ k.toNat = 5 ∨ k.toNat = 6 ∨ k.toNat = 7 := by omega
    simp only [decode48, e0, e1, e2, e3, ofNat_of_toNat, zeroed, if_true]
    rcases hc with hc | hc | hc | hc | hc | hc | hc | hc <;> rw [hc] <;> rfl
  obtain ⟨lt, f_maj, f_cond, f_a, f_imm⟩ := encD_fields 0x48 k.toNat 0 disp.toNat
    (by decide) (Nat.lt_of_lt_of_le k.isLt (by decide)) (by decide) disp.isLt
  exact ⟨lt, (decodeFields_48 _ f_maj).trans (key _ f_cond (by unfold bitsOf encD; norm_num; omega) f_a f_imm)⟩
theorem bany (k : KReg) (disp : BitVec 14) : Statement (Instr.bany k disp) := by
  intro hw w h
  have h := Option.some.inj h
  subst h
  exact readBack_of rfl (bany_word k disp).1 (bany_word k disp).2 hw
theorem ball_word (k : KReg) (disp : BitVec 14) : encD 0x48 (8 + k.toNat) 0 disp.toNat < 2 ^ 32 ∧ decodeFields (encD 0x48 (8 + k.toNat) 0 disp.toNat) = .ok (Instr.ball k disp) := by
  have h_k := k.isLt
  have h_disp := disp.isLt
  have key (wd : Nat) (e0 : bitsOf wd 24 21 = (8 + k.toNat)) (e1 : bitsOf wd 23 21 = k.toNat) (e2 : bitsOf wd 20 14 = 0) (e3 : bitsOf wd 13 0 = disp.toNat) : decode48 wd = .ok (Instr.ball k disp) := by
    have hc : 8 + k.toNat = 8 ∨ 8 + k.toNat = 9 ∨ 8 + k.toNat = 10 ∨ 8 + k.toNat = 11 ∨ 8 + k.toNat = 12 ∨ 8 + k.toNat = 13 ∨ 8 + k.toNat = 14 ∨ 8 + k.toNat = 15 := by omega
    simp only [decode48, e0, e1, e2, e3, ofNat_of_toNat, zeroed, if_true]
    rcases hc with hc | hc | hc | hc | hc | hc | hc | hc <;> rw [hc] <;> rfl
  obtain ⟨lt, f_maj, f_cond, f_a, f_imm⟩ := encD_fields 0x48 (8 + k.toNat) 0 disp.toNat
    (by decide) (by omega) (by decide) disp.isLt
  exact ⟨lt, (decodeFields_48 _ f_maj).trans (key _ f_cond (by unfold bitsOf encD; norm_num; omega) f_a f_imm)⟩
theorem ball (k : KReg) (disp : BitVec 14) : Statement (Instr.ball k disp) := by
  intro hw w h
  have h := Option.some.inj h
  subst h
  exact readBack_of rfl (ball_word k disp).1 (ball_word k disp).2 hw
theorem cjoin_word (a : SReg) : encA 0x49 0 0 a.toNat 0 < 2 ^ 32 ∧ decodeFields (encA 0x49 0 0 a.toNat 0) = .ok (Instr.cjoin a) := by
  have key (wd : Nat) (e0 : bitsOf wd 24 21 = 0) (e1 : bitsOf wd 20 14 = 0) (e2 : bitsOf wd 13 7 = a.toNat) (e3 : bitsOf wd 6 0 = 0) : decode49 wd = .ok (Instr.cjoin a) := by
    simp only [decode49, e0, e1, e2, e3, sreg_toNat, bind1, zeroed, if_true]
  obtain ⟨lt, f_maj, f_fn, f_d, f_a, f_b⟩ := encA_fields 0x49 0 0 a.toNat 0
    (by decide) (by decide) (by decide) (Nat.lt_of_lt_of_le a.isLt (by decide)) (by decide)
  exact ⟨lt, (decodeFields_49 _ f_maj).trans (key _ f_fn f_d f_a f_b)⟩
theorem cjoin (a : SReg) : Statement (Instr.cjoin a) := by
  intro hw w h
  have h := Option.some.inj h
  subst h
  exact readBack_of rfl (cjoin_word a).1 (cjoin_word a).2 hw
theorem cleave_word (a : SReg) : encA 0x49 1 0 a.toNat 0 < 2 ^ 32 ∧ decodeFields (encA 0x49 1 0 a.toNat 0) = .ok (Instr.cleave a) := by
  have key (wd : Nat) (e0 : bitsOf wd 24 21 = 1) (e1 : bitsOf wd 20 14 = 0) (e2 : bitsOf wd 13 7 = a.toNat) (e3 : bitsOf wd 6 0 = 0) : decode49 wd = .ok (Instr.cleave a) := by
    simp only [decode49, e0, e1, e2, e3, sreg_toNat, bind1, zeroed, if_true]
  obtain ⟨lt, f_maj, f_fn, f_d, f_a, f_b⟩ := encA_fields 0x49 1 0 a.toNat 0
    (by decide) (by decide) (by decide) (Nat.lt_of_lt_of_le a.isLt (by decide)) (by decide)
  exact ⟨lt, (decodeFields_49 _ f_maj).trans (key _ f_fn f_d f_a f_b)⟩
theorem cleave (a : SReg) : Statement (Instr.cleave a) := by
  intro hw w h
  have h := Option.some.inj h
  subst h
  exact readBack_of rfl (cleave_word a).1 (cleave_word a).2 hw
theorem carrive_word (a : SReg) : encA 0x49 2 0 a.toNat 0 < 2 ^ 32 ∧ decodeFields (encA 0x49 2 0 a.toNat 0) = .ok (Instr.carrive a) := by
  have key (wd : Nat) (e0 : bitsOf wd 24 21 = 2) (e1 : bitsOf wd 20 14 = 0) (e2 : bitsOf wd 13 7 = a.toNat) (e3 : bitsOf wd 6 0 = 0) : decode49 wd = .ok (Instr.carrive a) := by
    simp only [decode49, e0, e1, e2, e3, sreg_toNat, bind1, zeroed, if_true]
  obtain ⟨lt, f_maj, f_fn, f_d, f_a, f_b⟩ := encA_fields 0x49 2 0 a.toNat 0
    (by decide) (by decide) (by decide) (Nat.lt_of_lt_of_le a.isLt (by decide)) (by decide)
  exact ⟨lt, (decodeFields_49 _ f_maj).trans (key _ f_fn f_d f_a f_b)⟩
theorem carrive (a : SReg) : Statement (Instr.carrive a) := by
  intro hw w h
  have h := Option.some.inj h
  subst h
  exact readBack_of rfl (carrive_word a).1 (carrive_word a).2 hw
theorem cwait_word (a : SReg) : encA 0x49 3 0 a.toNat 0 < 2 ^ 32 ∧ decodeFields (encA 0x49 3 0 a.toNat 0) = .ok (Instr.cwait a) := by
  have key (wd : Nat) (e0 : bitsOf wd 24 21 = 3) (e1 : bitsOf wd 20 14 = 0) (e2 : bitsOf wd 13 7 = a.toNat) (e3 : bitsOf wd 6 0 = 0) : decode49 wd = .ok (Instr.cwait a) := by
    simp only [decode49, e0, e1, e2, e3, sreg_toNat, bind1, zeroed, if_true]
  obtain ⟨lt, f_maj, f_fn, f_d, f_a, f_b⟩ := encA_fields 0x49 3 0 a.toNat 0
    (by decide) (by decide) (by decide) (Nat.lt_of_lt_of_le a.isLt (by decide)) (by decide)
  exact ⟨lt, (decodeFields_49 _ f_maj).trans (key _ f_fn f_d f_a f_b)⟩
theorem cwait (a : SReg) : Statement (Instr.cwait a) := by
  intro hw w h
  have h := Option.some.inj h
  subst h
  exact readBack_of rfl (cwait_word a).1 (cwait_word a).2 hw
theorem csync_word (a : SReg) : encA 0x49 4 0 a.toNat 0 < 2 ^ 32 ∧ decodeFields (encA 0x49 4 0 a.toNat 0) = .ok (Instr.csync a) := by
  have key (wd : Nat) (e0 : bitsOf wd 24 21 = 4) (e1 : bitsOf wd 20 14 = 0) (e2 : bitsOf wd 13 7 = a.toNat) (e3 : bitsOf wd 6 0 = 0) : decode49 wd = .ok (Instr.csync a) := by
    simp only [decode49, e0, e1, e2, e3, sreg_toNat, bind1, zeroed, if_true]
  obtain ⟨lt, f_maj, f_fn, f_d, f_a, f_b⟩ := encA_fields 0x49 4 0 a.toNat 0
    (by decide) (by decide) (by decide) (Nat.lt_of_lt_of_le a.isLt (by decide)) (by decide)
  exact ⟨lt, (decodeFields_49 _ f_maj).trans (key _ f_fn f_d f_a f_b)⟩
theorem csync (a : SReg) : Statement (Instr.csync a) := by
  intro hw w h
  have h := Option.some.inj h
  subst h
  exact readBack_of rfl (csync_word a).1 (csync_word a).2 hw
theorem ccount_word (d : SReg) (a : SReg) : encA 0x49 5 d.toNat a.toNat 0 < 2 ^ 32 ∧ decodeFields (encA 0x49 5 d.toNat a.toNat 0) = .ok (Instr.ccount d a) := by
  have key (wd : Nat) (e0 : bitsOf wd 24 21 = 5) (e1 : bitsOf wd 20 14 = d.toNat) (e2 : bitsOf wd 13 7 = a.toNat) (e3 : bitsOf wd 6 0 = 0) : decode49 wd = .ok (Instr.ccount d a) := by
    simp only [decode49, e0, e1, e2, e3, sreg_toNat, bind1, zeroed, if_true]
  obtain ⟨lt, f_maj, f_fn, f_d, f_a, f_b⟩ := encA_fields 0x49 5 d.toNat a.toNat 0
    (by decide) (by decide) (Nat.lt_of_lt_of_le d.isLt (by decide)) (Nat.lt_of_lt_of_le a.isLt (by decide)) (by decide)
  exact ⟨lt, (decodeFields_49 _ f_maj).trans (key _ f_fn f_d f_a f_b)⟩
theorem ccount (d : SReg) (a : SReg) : Statement (Instr.ccount d a) := by
  intro hw w h
  have h := Option.some.inj h
  subst h
  exact readBack_of rfl (ccount_word d a).1 (ccount_word d a).2 hw
theorem setfmt_word (imm : BitVec 18) : encC 0x4A 0 imm.toNat < 2 ^ 32 ∧ decodeFields (encC 0x4A 0 imm.toNat) = .ok (Instr.setfmt imm) := by
  have key (wd : Nat) (e0 : bitsOf wd 24 18 = 0) (e1 : bitsOf wd 17 0 = imm.toNat) : decode4A wd = .ok (Instr.setfmt imm) := by
    simp only [decode4A, e0, e1, ofNat_of_toNat, zeroed, if_true]
  obtain ⟨lt, f_maj, f_d, f_imm⟩ := encC_fields 0x4A 0 imm.toNat
    (by decide) (by decide) imm.isLt
  exact ⟨lt, (decodeFields_4A _ f_maj).trans (key _ f_d f_imm)⟩
theorem setfmt (imm : BitVec 18) : Statement (Instr.setfmt imm) := by
  intro hw w h
  have h := Option.some.inj h
  subst h
  exact readBack_of rfl (setfmt_word imm).1 (setfmt_word imm).2 hw
theorem settile_word (imm : BitVec 18) : encC 0x4B 0 imm.toNat < 2 ^ 32 ∧ decodeFields (encC 0x4B 0 imm.toNat) = .ok (Instr.settile imm) := by
  have key (wd : Nat) (e0 : bitsOf wd 24 18 = 0) (e1 : bitsOf wd 17 0 = imm.toNat) : decode4B wd = .ok (Instr.settile imm) := by
    simp only [decode4B, e0, e1, ofNat_of_toNat, zeroed, if_true]
  obtain ⟨lt, f_maj, f_d, f_imm⟩ := encC_fields 0x4B 0 imm.toNat
    (by decide) (by decide) imm.isLt
  exact ⟨lt, (decodeFields_4B _ f_maj).trans (key _ f_d f_imm)⟩
theorem settile (imm : BitVec 18) : Statement (Instr.settile imm) := by
  intro hw w h
  have h := Option.some.inj h
  subst h
  exact readBack_of rfl (settile_word imm).1 (settile_word imm).2 hw
theorem vldb_word (d : VReg) (sa : SReg) (b : VReg) (nd : BitVec 4) (sc : BitVec 1) : encM 0x50 d.toNat sa.toNat b.toNat nd.toNat sc.toNat < 2 ^ 32 ∧ decodeFields (encM 0x50 d.toNat sa.toNat b.toNat nd.toNat sc.toNat) = .ok (Instr.vldb d sa b nd sc) := by
  have key (wd : Nat) (e0 : bitsOf wd 24 18 = d.toNat) (e1 : bitsOf wd 17 12 = sa.toNat) (e2 : bitsOf wd 11 5 = b.toNat) (e3 : bitsOf wd 4 1 = nd.toNat) (e4 : bitsOf wd 0 0 = sc.toNat) : decode50 wd = .ok (Instr.vldb d sa b nd sc) := by
    simp only [decode50, e0, e1, e2, e3, e4, ofNat_of_toNat]
  obtain ⟨lt, f_maj, f_d, f_sa, f_b, f_nd, f_sc⟩ := encM_fields 0x50 d.toNat sa.toNat b.toNat nd.toNat sc.toNat
    (by decide) d.isLt sa.isLt b.isLt nd.isLt sc.isLt
  exact ⟨lt, (decodeFields_50 _ f_maj).trans (key _ f_d f_sa f_b f_nd f_sc)⟩
theorem vldb (d : VReg) (sa : SReg) (b : VReg) (nd : BitVec 4) (sc : BitVec 1) : Statement (Instr.vldb d sa b nd sc) := by
  intro hw w h
  have h := Option.some.inj h
  subst h
  exact readBack_of rfl (vldb_word d sa b nd sc).1 (vldb_word d sa b nd sc).2 hw
theorem vldbs_word (d : VReg) (sa : SReg) (b : VReg) (nd : BitVec 4) (sc : BitVec 1) : encM 0x51 d.toNat sa.toNat b.toNat nd.toNat sc.toNat < 2 ^ 32 ∧ decodeFields (encM 0x51 d.toNat sa.toNat b.toNat nd.toNat sc.toNat) = .ok (Instr.vldbs d sa b nd sc) := by
  have key (wd : Nat) (e0 : bitsOf wd 24 18 = d.toNat) (e1 : bitsOf wd 17 12 = sa.toNat) (e2 : bitsOf wd 11 5 = b.toNat) (e3 : bitsOf wd 4 1 = nd.toNat) (e4 : bitsOf wd 0 0 = sc.toNat) : decode51 wd = .ok (Instr.vldbs d sa b nd sc) := by
    simp only [decode51, e0, e1, e2, e3, e4, ofNat_of_toNat]
  obtain ⟨lt, f_maj, f_d, f_sa, f_b, f_nd, f_sc⟩ := encM_fields 0x51 d.toNat sa.toNat b.toNat nd.toNat sc.toNat
    (by decide) d.isLt sa.isLt b.isLt nd.isLt sc.isLt
  exact ⟨lt, (decodeFields_51 _ f_maj).trans (key _ f_d f_sa f_b f_nd f_sc)⟩
theorem vldbs (d : VReg) (sa : SReg) (b : VReg) (nd : BitVec 4) (sc : BitVec 1) : Statement (Instr.vldbs d sa b nd sc) := by
  intro hw w h
  have h := Option.some.inj h
  subst h
  exact readBack_of rfl (vldbs_word d sa b nd sc).1 (vldbs_word d sa b nd sc).2 hw
theorem vldh_word (d : VReg) (sa : SReg) (b : VReg) (nd : BitVec 4) (sc : BitVec 1) : encM 0x52 d.toNat sa.toNat b.toNat nd.toNat sc.toNat < 2 ^ 32 ∧ decodeFields (encM 0x52 d.toNat sa.toNat b.toNat nd.toNat sc.toNat) = .ok (Instr.vldh d sa b nd sc) := by
  have key (wd : Nat) (e0 : bitsOf wd 24 18 = d.toNat) (e1 : bitsOf wd 17 12 = sa.toNat) (e2 : bitsOf wd 11 5 = b.toNat) (e3 : bitsOf wd 4 1 = nd.toNat) (e4 : bitsOf wd 0 0 = sc.toNat) : decode52 wd = .ok (Instr.vldh d sa b nd sc) := by
    simp only [decode52, e0, e1, e2, e3, e4, ofNat_of_toNat]
  obtain ⟨lt, f_maj, f_d, f_sa, f_b, f_nd, f_sc⟩ := encM_fields 0x52 d.toNat sa.toNat b.toNat nd.toNat sc.toNat
    (by decide) d.isLt sa.isLt b.isLt nd.isLt sc.isLt
  exact ⟨lt, (decodeFields_52 _ f_maj).trans (key _ f_d f_sa f_b f_nd f_sc)⟩
theorem vldh (d : VReg) (sa : SReg) (b : VReg) (nd : BitVec 4) (sc : BitVec 1) : Statement (Instr.vldh d sa b nd sc) := by
  intro hw w h
  have h := Option.some.inj h
  subst h
  exact readBack_of rfl (vldh_word d sa b nd sc).1 (vldh_word d sa b nd sc).2 hw
theorem vldhs_word (d : VReg) (sa : SReg) (b : VReg) (nd : BitVec 4) (sc : BitVec 1) : encM 0x53 d.toNat sa.toNat b.toNat nd.toNat sc.toNat < 2 ^ 32 ∧ decodeFields (encM 0x53 d.toNat sa.toNat b.toNat nd.toNat sc.toNat) = .ok (Instr.vldhs d sa b nd sc) := by
  have key (wd : Nat) (e0 : bitsOf wd 24 18 = d.toNat) (e1 : bitsOf wd 17 12 = sa.toNat) (e2 : bitsOf wd 11 5 = b.toNat) (e3 : bitsOf wd 4 1 = nd.toNat) (e4 : bitsOf wd 0 0 = sc.toNat) : decode53 wd = .ok (Instr.vldhs d sa b nd sc) := by
    simp only [decode53, e0, e1, e2, e3, e4, ofNat_of_toNat]
  obtain ⟨lt, f_maj, f_d, f_sa, f_b, f_nd, f_sc⟩ := encM_fields 0x53 d.toNat sa.toNat b.toNat nd.toNat sc.toNat
    (by decide) d.isLt sa.isLt b.isLt nd.isLt sc.isLt
  exact ⟨lt, (decodeFields_53 _ f_maj).trans (key _ f_d f_sa f_b f_nd f_sc)⟩
theorem vldhs (d : VReg) (sa : SReg) (b : VReg) (nd : BitVec 4) (sc : BitVec 1) : Statement (Instr.vldhs d sa b nd sc) := by
  intro hw w h
  have h := Option.some.inj h
  subst h
  exact readBack_of rfl (vldhs_word d sa b nd sc).1 (vldhs_word d sa b nd sc).2 hw
theorem vldw_word (d : VReg) (sa : SReg) (b : VReg) (nd : BitVec 4) (sc : BitVec 1) : encM 0x54 d.toNat sa.toNat b.toNat nd.toNat sc.toNat < 2 ^ 32 ∧ decodeFields (encM 0x54 d.toNat sa.toNat b.toNat nd.toNat sc.toNat) = .ok (Instr.vldw d sa b nd sc) := by
  have key (wd : Nat) (e0 : bitsOf wd 24 18 = d.toNat) (e1 : bitsOf wd 17 12 = sa.toNat) (e2 : bitsOf wd 11 5 = b.toNat) (e3 : bitsOf wd 4 1 = nd.toNat) (e4 : bitsOf wd 0 0 = sc.toNat) : decode54 wd = .ok (Instr.vldw d sa b nd sc) := by
    simp only [decode54, e0, e1, e2, e3, e4, ofNat_of_toNat]
  obtain ⟨lt, f_maj, f_d, f_sa, f_b, f_nd, f_sc⟩ := encM_fields 0x54 d.toNat sa.toNat b.toNat nd.toNat sc.toNat
    (by decide) d.isLt sa.isLt b.isLt nd.isLt sc.isLt
  exact ⟨lt, (decodeFields_54 _ f_maj).trans (key _ f_d f_sa f_b f_nd f_sc)⟩
theorem vldw (d : VReg) (sa : SReg) (b : VReg) (nd : BitVec 4) (sc : BitVec 1) : Statement (Instr.vldw d sa b nd sc) := by
  intro hw w h
  have h := Option.some.inj h
  subst h
  exact readBack_of rfl (vldw_word d sa b nd sc).1 (vldw_word d sa b nd sc).2 hw
theorem vldd_word (d : VReg) (sa : SReg) (b : VReg) (nd : BitVec 4) (sc : BitVec 1) : encM 0x55 d.toNat sa.toNat b.toNat nd.toNat sc.toNat < 2 ^ 32 ∧ decodeFields (encM 0x55 d.toNat sa.toNat b.toNat nd.toNat sc.toNat) = .ok (Instr.vldd d sa b nd sc) := by
  have key (wd : Nat) (e0 : bitsOf wd 24 18 = d.toNat) (e1 : bitsOf wd 17 12 = sa.toNat) (e2 : bitsOf wd 11 5 = b.toNat) (e3 : bitsOf wd 4 1 = nd.toNat) (e4 : bitsOf wd 0 0 = sc.toNat) : decode55 wd = .ok (Instr.vldd d sa b nd sc) := by
    simp only [decode55, e0, e1, e2, e3, e4, ofNat_of_toNat]
  obtain ⟨lt, f_maj, f_d, f_sa, f_b, f_nd, f_sc⟩ := encM_fields 0x55 d.toNat sa.toNat b.toNat nd.toNat sc.toNat
    (by decide) d.isLt sa.isLt b.isLt nd.isLt sc.isLt
  exact ⟨lt, (decodeFields_55 _ f_maj).trans (key _ f_d f_sa f_b f_nd f_sc)⟩
theorem vldd (d : VReg) (sa : SReg) (b : VReg) (nd : BitVec 4) (sc : BitVec 1) : Statement (Instr.vldd d sa b nd sc) := by
  intro hw w h
  have h := Option.some.inj h
  subst h
  exact readBack_of rfl (vldd_word d sa b nd sc).1 (vldd_word d sa b nd sc).2 hw
theorem vldq_word (d : VReg) (sa : SReg) (b : VReg) (nd : BitVec 4) (sc : BitVec 1) : encM 0x56 d.toNat sa.toNat b.toNat nd.toNat sc.toNat < 2 ^ 32 ∧ decodeFields (encM 0x56 d.toNat sa.toNat b.toNat nd.toNat sc.toNat) = .ok (Instr.vldq d sa b nd sc) := by
  have key (wd : Nat) (e0 : bitsOf wd 24 18 = d.toNat) (e1 : bitsOf wd 17 12 = sa.toNat) (e2 : bitsOf wd 11 5 = b.toNat) (e3 : bitsOf wd 4 1 = nd.toNat) (e4 : bitsOf wd 0 0 = sc.toNat) : decode56 wd = .ok (Instr.vldq d sa b nd sc) := by
    simp only [decode56, e0, e1, e2, e3, e4, ofNat_of_toNat]
  obtain ⟨lt, f_maj, f_d, f_sa, f_b, f_nd, f_sc⟩ := encM_fields 0x56 d.toNat sa.toNat b.toNat nd.toNat sc.toNat
    (by decide) d.isLt sa.isLt b.isLt nd.isLt sc.isLt
  exact ⟨lt, (decodeFields_56 _ f_maj).trans (key _ f_d f_sa f_b f_nd f_sc)⟩
theorem vldq (d : VReg) (sa : SReg) (b : VReg) (nd : BitVec 4) (sc : BitVec 1) : Statement (Instr.vldq d sa b nd sc) := by
  intro hw w h
  have h := Option.some.inj h
  subst h
  exact readBack_of rfl (vldq_word d sa b nd sc).1 (vldq_word d sa b nd sc).2 hw
theorem vstb_word (d : VReg) (sa : SReg) (b : VReg) (nd : BitVec 4) (sc : BitVec 1) : encM 0x57 d.toNat sa.toNat b.toNat nd.toNat sc.toNat < 2 ^ 32 ∧ decodeFields (encM 0x57 d.toNat sa.toNat b.toNat nd.toNat sc.toNat) = .ok (Instr.vstb d sa b nd sc) := by
  have key (wd : Nat) (e0 : bitsOf wd 24 18 = d.toNat) (e1 : bitsOf wd 17 12 = sa.toNat) (e2 : bitsOf wd 11 5 = b.toNat) (e3 : bitsOf wd 4 1 = nd.toNat) (e4 : bitsOf wd 0 0 = sc.toNat) : decode57 wd = .ok (Instr.vstb d sa b nd sc) := by
    simp only [decode57, e0, e1, e2, e3, e4, ofNat_of_toNat]
  obtain ⟨lt, f_maj, f_d, f_sa, f_b, f_nd, f_sc⟩ := encM_fields 0x57 d.toNat sa.toNat b.toNat nd.toNat sc.toNat
    (by decide) d.isLt sa.isLt b.isLt nd.isLt sc.isLt
  exact ⟨lt, (decodeFields_57 _ f_maj).trans (key _ f_d f_sa f_b f_nd f_sc)⟩
theorem vstb (d : VReg) (sa : SReg) (b : VReg) (nd : BitVec 4) (sc : BitVec 1) : Statement (Instr.vstb d sa b nd sc) := by
  intro hw w h
  have h := Option.some.inj h
  subst h
  exact readBack_of rfl (vstb_word d sa b nd sc).1 (vstb_word d sa b nd sc).2 hw
theorem vsth_word (d : VReg) (sa : SReg) (b : VReg) (nd : BitVec 4) (sc : BitVec 1) : encM 0x58 d.toNat sa.toNat b.toNat nd.toNat sc.toNat < 2 ^ 32 ∧ decodeFields (encM 0x58 d.toNat sa.toNat b.toNat nd.toNat sc.toNat) = .ok (Instr.vsth d sa b nd sc) := by
  have key (wd : Nat) (e0 : bitsOf wd 24 18 = d.toNat) (e1 : bitsOf wd 17 12 = sa.toNat) (e2 : bitsOf wd 11 5 = b.toNat) (e3 : bitsOf wd 4 1 = nd.toNat) (e4 : bitsOf wd 0 0 = sc.toNat) : decode58 wd = .ok (Instr.vsth d sa b nd sc) := by
    simp only [decode58, e0, e1, e2, e3, e4, ofNat_of_toNat]
  obtain ⟨lt, f_maj, f_d, f_sa, f_b, f_nd, f_sc⟩ := encM_fields 0x58 d.toNat sa.toNat b.toNat nd.toNat sc.toNat
    (by decide) d.isLt sa.isLt b.isLt nd.isLt sc.isLt
  exact ⟨lt, (decodeFields_58 _ f_maj).trans (key _ f_d f_sa f_b f_nd f_sc)⟩
theorem vsth (d : VReg) (sa : SReg) (b : VReg) (nd : BitVec 4) (sc : BitVec 1) : Statement (Instr.vsth d sa b nd sc) := by
  intro hw w h
  have h := Option.some.inj h
  subst h
  exact readBack_of rfl (vsth_word d sa b nd sc).1 (vsth_word d sa b nd sc).2 hw
theorem vstw_word (d : VReg) (sa : SReg) (b : VReg) (nd : BitVec 4) (sc : BitVec 1) : encM 0x59 d.toNat sa.toNat b.toNat nd.toNat sc.toNat < 2 ^ 32 ∧ decodeFields (encM 0x59 d.toNat sa.toNat b.toNat nd.toNat sc.toNat) = .ok (Instr.vstw d sa b nd sc) := by
  have key (wd : Nat) (e0 : bitsOf wd 24 18 = d.toNat) (e1 : bitsOf wd 17 12 = sa.toNat) (e2 : bitsOf wd 11 5 = b.toNat) (e3 : bitsOf wd 4 1 = nd.toNat) (e4 : bitsOf wd 0 0 = sc.toNat) : decode59 wd = .ok (Instr.vstw d sa b nd sc) := by
    simp only [decode59, e0, e1, e2, e3, e4, ofNat_of_toNat]
  obtain ⟨lt, f_maj, f_d, f_sa, f_b, f_nd, f_sc⟩ := encM_fields 0x59 d.toNat sa.toNat b.toNat nd.toNat sc.toNat
    (by decide) d.isLt sa.isLt b.isLt nd.isLt sc.isLt
  exact ⟨lt, (decodeFields_59 _ f_maj).trans (key _ f_d f_sa f_b f_nd f_sc)⟩
theorem vstw (d : VReg) (sa : SReg) (b : VReg) (nd : BitVec 4) (sc : BitVec 1) : Statement (Instr.vstw d sa b nd sc) := by
  intro hw w h
  have h := Option.some.inj h
  subst h
  exact readBack_of rfl (vstw_word d sa b nd sc).1 (vstw_word d sa b nd sc).2 hw
theorem vstd_word (d : VReg) (sa : SReg) (b : VReg) (nd : BitVec 4) (sc : BitVec 1) : encM 0x5A d.toNat sa.toNat b.toNat nd.toNat sc.toNat < 2 ^ 32 ∧ decodeFields (encM 0x5A d.toNat sa.toNat b.toNat nd.toNat sc.toNat) = .ok (Instr.vstd d sa b nd sc) := by
  have key (wd : Nat) (e0 : bitsOf wd 24 18 = d.toNat) (e1 : bitsOf wd 17 12 = sa.toNat) (e2 : bitsOf wd 11 5 = b.toNat) (e3 : bitsOf wd 4 1 = nd.toNat) (e4 : bitsOf wd 0 0 = sc.toNat) : decode5A wd = .ok (Instr.vstd d sa b nd sc) := by
    simp only [decode5A, e0, e1, e2, e3, e4, ofNat_of_toNat]
  obtain ⟨lt, f_maj, f_d, f_sa, f_b, f_nd, f_sc⟩ := encM_fields 0x5A d.toNat sa.toNat b.toNat nd.toNat sc.toNat
    (by decide) d.isLt sa.isLt b.isLt nd.isLt sc.isLt
  exact ⟨lt, (decodeFields_5A _ f_maj).trans (key _ f_d f_sa f_b f_nd f_sc)⟩
theorem vstd (d : VReg) (sa : SReg) (b : VReg) (nd : BitVec 4) (sc : BitVec 1) : Statement (Instr.vstd d sa b nd sc) := by
  intro hw w h
  have h := Option.some.inj h
  subst h
  exact readBack_of rfl (vstd_word d sa b nd sc).1 (vstd_word d sa b nd sc).2 hw
theorem vstq_word (d : VReg) (sa : SReg) (b : VReg) (nd : BitVec 4) (sc : BitVec 1) : encM 0x5B d.toNat sa.toNat b.toNat nd.toNat sc.toNat < 2 ^ 32 ∧ decodeFields (encM 0x5B d.toNat sa.toNat b.toNat nd.toNat sc.toNat) = .ok (Instr.vstq d sa b nd sc) := by
  have key (wd : Nat) (e0 : bitsOf wd 24 18 = d.toNat) (e1 : bitsOf wd 17 12 = sa.toNat) (e2 : bitsOf wd 11 5 = b.toNat) (e3 : bitsOf wd 4 1 = nd.toNat) (e4 : bitsOf wd 0 0 = sc.toNat) : decode5B wd = .ok (Instr.vstq d sa b nd sc) := by
    simp only [decode5B, e0, e1, e2, e3, e4, ofNat_of_toNat]
  obtain ⟨lt, f_maj, f_d, f_sa, f_b, f_nd, f_sc⟩ := encM_fields 0x5B d.toNat sa.toNat b.toNat nd.toNat sc.toNat
    (by decide) d.isLt sa.isLt b.isLt nd.isLt sc.isLt
  exact ⟨lt, (decodeFields_5B _ f_maj).trans (key _ f_d f_sa f_b f_nd f_sc)⟩
theorem vstq (d : VReg) (sa : SReg) (b : VReg) (nd : BitVec 4) (sc : BitVec 1) : Statement (Instr.vstq d sa b nd sc) := by
  intro hw w h
  have h := Option.some.inj h
  subst h
  exact readBack_of rfl (vstq_word d sa b nd sc).1 (vstq_word d sa b nd sc).2 hw
theorem amoa_word (o : AmoaOp) (d : VReg) (b : VReg) (sa : SReg) (ret : BitVec 1) : encAM 0x5C o.toCode d.toNat b.toNat sa.toNat ret.toNat < 2 ^ 32 ∧ decodeFields (encAM 0x5C o.toCode d.toNat b.toNat sa.toNat ret.toNat) = .ok (Instr.amoa o d b sa ret) := by
  have key (wd : Nat) (e0 : bitsOf wd 24 21 = o.toCode) (e1 : bitsOf wd 20 14 = d.toNat) (e2 : bitsOf wd 13 7 = b.toNat) (e3 : bitsOf wd 6 1 = sa.toNat) (e4 : bitsOf wd 0 0 = ret.toNat) : decode5C wd = .ok (Instr.amoa o d b sa ret) := by
    simp only [decode5C, e0, e1, e2, e3, e4, AmoaOp.ofCode_toCode, ofNat_of_toNat, bind1]
  obtain ⟨lt, f_maj, f_fn, f_d, f_b, f_sa, f_ret⟩ := encAM_fields 0x5C o.toCode d.toNat b.toNat sa.toNat ret.toNat
    (by decide) o.toCode_lt d.isLt b.isLt sa.isLt ret.isLt
  exact ⟨lt, (decodeFields_5C _ f_maj).trans (key _ f_fn f_d f_b f_sa f_ret)⟩
theorem amoa (o : AmoaOp) (d : VReg) (b : VReg) (sa : SReg) (ret : BitVec 1) : Statement (Instr.amoa o d b sa ret) := by
  intro hw w h
  have h := Option.some.inj h
  subst h
  exact readBack_of rfl (amoa_word o d b sa ret).1 (amoa_word o d b sa ret).2 hw
theorem amol_word (o : AmolOp) (d : VReg) (b : VReg) (sa : SReg) (ret : BitVec 1) : encAM 0x5D o.toCode d.toNat b.toNat sa.toNat ret.toNat < 2 ^ 32 ∧ decodeFields (encAM 0x5D o.toCode d.toNat b.toNat sa.toNat ret.toNat) = .ok (Instr.amol o d b sa ret) := by
  have key (wd : Nat) (e0 : bitsOf wd 24 21 = o.toCode) (e1 : bitsOf wd 20 14 = d.toNat) (e2 : bitsOf wd 13 7 = b.toNat) (e3 : bitsOf wd 6 1 = sa.toNat) (e4 : bitsOf wd 0 0 = ret.toNat) : decode5D wd = .ok (Instr.amol o d b sa ret) := by
    simp only [decode5D, e0, e1, e2, e3, e4, AmolOp.ofCode_toCode, ofNat_of_toNat, bind1]
  obtain ⟨lt, f_maj, f_fn, f_d, f_b, f_sa, f_ret⟩ := encAM_fields 0x5D o.toCode d.toNat b.toNat sa.toNat ret.toNat
    (by decide) o.toCode_lt d.isLt b.isLt sa.isLt ret.isLt
  exact ⟨lt, (decodeFields_5D _ f_maj).trans (key _ f_fn f_d f_b f_sa f_ret)⟩
theorem amol (o : AmolOp) (d : VReg) (b : VReg) (sa : SReg) (ret : BitVec 1) : Statement (Instr.amol o d b sa ret) := by
  intro hw w h
  have h := Option.some.inj h
  subst h
  exact readBack_of rfl (amol_word o d b sa ret).1 (amol_word o d b sa ret).2 hw
theorem samoadd_word (d : SReg) (a : SReg) (b : SReg) : encA 0x5E 0 d.toNat a.toNat b.toNat < 2 ^ 32 ∧ decodeFields (encA 0x5E 0 d.toNat a.toNat b.toNat) = .ok (Instr.samoadd d a b) := by
  have key (wd : Nat) (e0 : bitsOf wd 24 21 = 0) (e1 : bitsOf wd 20 14 = d.toNat) (e2 : bitsOf wd 13 7 = a.toNat) (e3 : bitsOf wd 6 0 = b.toNat) : decode5E wd = .ok (Instr.samoadd d a b) := by
    simp only [decode5E, e0, e1, e2, e3, sreg_toNat, bind1]
  obtain ⟨lt, f_maj, f_fn, f_d, f_a, f_b⟩ := encA_fields 0x5E 0 d.toNat a.toNat b.toNat
    (by decide) (by decide) (Nat.lt_of_lt_of_le d.isLt (by decide)) (Nat.lt_of_lt_of_le a.isLt (by decide)) (Nat.lt_of_lt_of_le b.isLt (by decide))
  exact ⟨lt, (decodeFields_5E _ f_maj).trans (key _ f_fn f_d f_a f_b)⟩
theorem samoadd (d : SReg) (a : SReg) (b : SReg) : Statement (Instr.samoadd d a b) := by
  intro hw w h
  have h := Option.some.inj h
  subst h
  exact readBack_of rfl (samoadd_word d a b).1 (samoadd_word d a b).2 hw
theorem samocas_word (d : SReg) (a : SReg) (b : SReg) : encA 0x5E 1 d.toNat a.toNat b.toNat < 2 ^ 32 ∧ decodeFields (encA 0x5E 1 d.toNat a.toNat b.toNat) = .ok (Instr.samocas d a b) := by
  have key (wd : Nat) (e0 : bitsOf wd 24 21 = 1) (e1 : bitsOf wd 20 14 = d.toNat) (e2 : bitsOf wd 13 7 = a.toNat) (e3 : bitsOf wd 6 0 = b.toNat) : decode5E wd = .ok (Instr.samocas d a b) := by
    simp only [decode5E, e0, e1, e2, e3, sreg_toNat, bind1]
  obtain ⟨lt, f_maj, f_fn, f_d, f_a, f_b⟩ := encA_fields 0x5E 1 d.toNat a.toNat b.toNat
    (by decide) (by decide) (Nat.lt_of_lt_of_le d.isLt (by decide)) (Nat.lt_of_lt_of_le a.isLt (by decide)) (Nat.lt_of_lt_of_le b.isLt (by decide))
  exact ⟨lt, (decodeFields_5E _ f_maj).trans (key _ f_fn f_d f_a f_b)⟩
theorem samocas (d : SReg) (a : SReg) (b : SReg) : Statement (Instr.samocas d a b) := by
  intro hw w h
  have h := Option.some.inj h
  subst h
  exact readBack_of rfl (samocas_word d a b).1 (samocas_word d a b).2 hw
theorem samoswap_word (d : SReg) (a : SReg) (b : SReg) : encA 0x5E 2 d.toNat a.toNat b.toNat < 2 ^ 32 ∧ decodeFields (encA 0x5E 2 d.toNat a.toNat b.toNat) = .ok (Instr.samoswap d a b) := by
  have key (wd : Nat) (e0 : bitsOf wd 24 21 = 2) (e1 : bitsOf wd 20 14 = d.toNat) (e2 : bitsOf wd 13 7 = a.toNat) (e3 : bitsOf wd 6 0 = b.toNat) : decode5E wd = .ok (Instr.samoswap d a b) := by
    simp only [decode5E, e0, e1, e2, e3, sreg_toNat, bind1]
  obtain ⟨lt, f_maj, f_fn, f_d, f_a, f_b⟩ := encA_fields 0x5E 2 d.toNat a.toNat b.toNat
    (by decide) (by decide) (Nat.lt_of_lt_of_le d.isLt (by decide)) (Nat.lt_of_lt_of_le a.isLt (by decide)) (Nat.lt_of_lt_of_le b.isLt (by decide))
  exact ⟨lt, (decodeFields_5E _ f_maj).trans (key _ f_fn f_d f_a f_b)⟩
theorem samoswap (d : SReg) (a : SReg) (b : SReg) : Statement (Instr.samoswap d a b) := by
  intro hw w h
  have h := Option.some.inj h
  subst h
  exact readBack_of rfl (samoswap_word d a b).1 (samoswap_word d a b).2 hw
theorem samomax_word (d : SReg) (a : SReg) (b : SReg) : encA 0x5E 3 d.toNat a.toNat b.toNat < 2 ^ 32 ∧ decodeFields (encA 0x5E 3 d.toNat a.toNat b.toNat) = .ok (Instr.samomax d a b) := by
  have key (wd : Nat) (e0 : bitsOf wd 24 21 = 3) (e1 : bitsOf wd 20 14 = d.toNat) (e2 : bitsOf wd 13 7 = a.toNat) (e3 : bitsOf wd 6 0 = b.toNat) : decode5E wd = .ok (Instr.samomax d a b) := by
    simp only [decode5E, e0, e1, e2, e3, sreg_toNat, bind1]
  obtain ⟨lt, f_maj, f_fn, f_d, f_a, f_b⟩ := encA_fields 0x5E 3 d.toNat a.toNat b.toNat
    (by decide) (by decide) (Nat.lt_of_lt_of_le d.isLt (by decide)) (Nat.lt_of_lt_of_le a.isLt (by decide)) (Nat.lt_of_lt_of_le b.isLt (by decide))
  exact ⟨lt, (decodeFields_5E _ f_maj).trans (key _ f_fn f_d f_a f_b)⟩
theorem samomax (d : SReg) (a : SReg) (b : SReg) : Statement (Instr.samomax d a b) := by
  intro hw w h
  have h := Option.some.inj h
  subst h
  exact readBack_of rfl (samomax_word d a b).1 (samomax_word d a b).2 hw
theorem waitc_word (c : WaitCond) (a : SReg) (b : SReg) : encA 0x5E (4 + c.toCode) 0 a.toNat b.toNat < 2 ^ 32 ∧ decodeFields (encA 0x5E (4 + c.toCode) 0 a.toNat b.toNat) = .ok (Instr.waitc c a b) := by
  have h_c := WaitCond.toCode_lt c
  have h_a := a.isLt
  have h_b := b.isLt
  have key (wd : Nat) (e0 : bitsOf wd 24 21 = (4 + c.toCode)) (e1 : bitsOf wd 22 21 = c.toCode) (e2 : bitsOf wd 20 14 = 0) (e3 : bitsOf wd 13 7 = a.toNat) (e4 : bitsOf wd 6 0 = b.toNat) : decode5E wd = .ok (Instr.waitc c a b) := by
    have hc : 4 + c.toCode = 4 ∨ 4 + c.toCode = 5 ∨ 4 + c.toCode = 6 ∨ 4 + c.toCode = 7 := by omega
    simp only [decode5E, e0, e1, e2, e3, e4, WaitCond.ofCode_toCode, sreg_toNat, bind1, zeroed, if_true]
    rcases hc with hc | hc | hc | hc <;> rw [hc] <;> rfl
  obtain ⟨lt, f_maj, f_fn, f_d, f_a, f_b⟩ := encA_fields 0x5E (4 + c.toCode) 0 a.toNat b.toNat
    (by decide) (by omega) (by decide) (Nat.lt_of_lt_of_le a.isLt (by decide)) (Nat.lt_of_lt_of_le b.isLt (by decide))
  exact ⟨lt, (decodeFields_5E _ f_maj).trans (key _ f_fn (by unfold bitsOf encA; norm_num; omega) f_d f_a f_b)⟩
theorem waitc (c : WaitCond) (a : SReg) (b : SReg) : Statement (Instr.waitc c a b) := by
  intro hw w h
  have h := Option.some.inj h
  subst h
  exact readBack_of rfl (waitc_word c a b).1 (waitc_word c a b).2 hw
theorem fence_word : encA 0x5E 8 0 0 0 < 2 ^ 32 ∧ decodeFields (encA 0x5E 8 0 0 0) = .ok Instr.fence := by
  have key (wd : Nat) (e0 : bitsOf wd 24 21 = 8) (e1 : bitsOf wd 20 14 = 0) (e2 : bitsOf wd 13 7 = 0) (e3 : bitsOf wd 6 0 = 0) : decode5E wd = .ok Instr.fence := by
    simp only [decode5E, e0, e1, e2, e3, zeroed, if_true]
  obtain ⟨lt, f_maj, f_fn, f_d, f_a, f_b⟩ := encA_fields 0x5E 8 0 0 0
    (by decide) (by decide) (by decide) (by decide) (by decide)
  exact ⟨lt, (decodeFields_5E _ f_maj).trans (key _ f_fn f_d f_a f_b)⟩
theorem fence : Statement Instr.fence := by
  intro hw w h
  have h := Option.some.inj h
  subst h
  exact readBack_of rfl (fence_word).1 (fence_word).2 hw
theorem cline_word (a : SReg) : encA 0x5E 9 0 a.toNat 0 < 2 ^ 32 ∧ decodeFields (encA 0x5E 9 0 a.toNat 0) = .ok (Instr.cline a) := by
  have key (wd : Nat) (e0 : bitsOf wd 24 21 = 9) (e1 : bitsOf wd 20 14 = 0) (e2 : bitsOf wd 13 7 = a.toNat) (e3 : bitsOf wd 6 0 = 0) : decode5E wd = .ok (Instr.cline a) := by
    simp only [decode5E, e0, e1, e2, e3, sreg_toNat, bind1, zeroed, if_true]
  obtain ⟨lt, f_maj, f_fn, f_d, f_a, f_b⟩ := encA_fields 0x5E 9 0 a.toNat 0
    (by decide) (by decide) (by decide) (Nat.lt_of_lt_of_le a.isLt (by decide)) (by decide)
  exact ⟨lt, (decodeFields_5E _ f_maj).trans (key _ f_fn f_d f_a f_b)⟩
theorem cline (a : SReg) : Statement (Instr.cline a) := by
  intro hw w h
  have h := Option.some.inj h
  subst h
  exact readBack_of rfl (cline_word a).1 (cline_word a).2 hw
theorem pf_word (a : SReg) : encA 0x5E 10 0 a.toNat 0 < 2 ^ 32 ∧ decodeFields (encA 0x5E 10 0 a.toNat 0) = .ok (Instr.pf a) := by
  have key (wd : Nat) (e0 : bitsOf wd 24 21 = 10) (e1 : bitsOf wd 20 14 = 0) (e2 : bitsOf wd 13 7 = a.toNat) (e3 : bitsOf wd 6 0 = 0) : decode5E wd = .ok (Instr.pf a) := by
    simp only [decode5E, e0, e1, e2, e3, sreg_toNat, bind1, zeroed, if_true]
  obtain ⟨lt, f_maj, f_fn, f_d, f_a, f_b⟩ := encA_fields 0x5E 10 0 a.toNat 0
    (by decide) (by decide) (by decide) (Nat.lt_of_lt_of_le a.isLt (by decide)) (by decide)
  exact ⟨lt, (decodeFields_5E _ f_maj).trans (key _ f_fn f_d f_a f_b)⟩
theorem pf (a : SReg) : Statement (Instr.pf a) := by
  intro hw w h
  have h := Option.some.inj h
  subst h
  exact readBack_of rfl (pf_word a).1 (pf_word a).2 hw
theorem gaddr_word (d : SReg) (a : SReg) : encA 0x5E 11 d.toNat a.toNat 0 < 2 ^ 32 ∧ decodeFields (encA 0x5E 11 d.toNat a.toNat 0) = .ok (Instr.gaddr d a) := by
  have key (wd : Nat) (e0 : bitsOf wd 24 21 = 11) (e1 : bitsOf wd 20 14 = d.toNat) (e2 : bitsOf wd 13 7 = a.toNat) (e3 : bitsOf wd 6 0 = 0) : decode5E wd = .ok (Instr.gaddr d a) := by
    simp only [decode5E, e0, e1, e2, e3, sreg_toNat, bind1, zeroed, if_true]
  obtain ⟨lt, f_maj, f_fn, f_d, f_a, f_b⟩ := encA_fields 0x5E 11 d.toNat a.toNat 0
    (by decide) (by decide) (Nat.lt_of_lt_of_le d.isLt (by decide)) (Nat.lt_of_lt_of_le a.isLt (by decide)) (by decide)
  exact ⟨lt, (decodeFields_5E _ f_maj).trans (key _ f_fn f_d f_a f_b)⟩
theorem gaddr (d : SReg) (a : SReg) : Statement (Instr.gaddr d a) := by
  intro hw w h
  have h := Option.some.inj h
  subst h
  exact readBack_of rfl (gaddr_word d a).1 (gaddr_word d a).2 hw
theorem copy_word (z : CopySize) (d : VReg) (a : VReg) (b : SReg) : encA 0x60 z.toCode d.toNat a.toNat b.toNat < 2 ^ 32 ∧ decodeFields (encA 0x60 z.toCode d.toNat a.toNat b.toNat) = .ok (Instr.copy z d a b) := by
  have h_z := CopySize.toCode_lt z
  have h_d := d.isLt
  have h_a := a.isLt
  have h_b := b.isLt
  have key (wd : Nat) (e0 : bitsOf wd 24 21 = z.toCode) (e1 : bitsOf wd 22 21 = z.toCode) (e2 : bitsOf wd 20 14 = d.toNat) (e3 : bitsOf wd 13 7 = a.toNat) (e4 : bitsOf wd 6 0 = b.toNat) : decode60 wd = .ok (Instr.copy z d a b) := by
    have hc : z.toCode = 0 ∨ z.toCode = 1 ∨ z.toCode = 2 ∨ z.toCode = 3 := by omega
    simp only [decode60, e0, e1, e2, e3, e4, CopySize.ofCode_toCode, sreg_toNat, ofNat_of_toNat, bind1]
    rcases hc with hc | hc | hc | hc <;> rw [hc] <;> rfl
  obtain ⟨lt, f_maj, f_fn, f_d, f_a, f_b⟩ := encA_fields 0x60 z.toCode d.toNat a.toNat b.toNat
    (by decide) (Nat.lt_of_lt_of_le z.toCode_lt (by decide)) d.isLt a.isLt (Nat.lt_of_lt_of_le b.isLt (by decide))
  exact ⟨lt, (decodeFields_60 _ f_maj).trans (key _ f_fn (by unfold bitsOf encA; norm_num; omega) f_d f_a f_b)⟩
theorem copy (z : CopySize) (d : VReg) (a : VReg) (b : SReg) : Statement (Instr.copy z d a b) := by
  intro hw w h
  have h := Option.some.inj h
  subst h
  exact readBack_of rfl (copy_word z d a b).1 (copy_word z d a b).2 hw
theorem copyr_word (o : CopyrOp) (d : VReg) (a : VReg) (b : SReg) : encA 0x61 o.toCode d.toNat a.toNat b.toNat < 2 ^ 32 ∧ decodeFields (encA 0x61 o.toCode d.toNat a.toNat b.toNat) = .ok (Instr.copyr o d a b) := by
  have key (wd : Nat) (e0 : bitsOf wd 24 21 = o.toCode) (e1 : bitsOf wd 20 14 = d.toNat) (e2 : bitsOf wd 13 7 = a.toNat) (e3 : bitsOf wd 6 0 = b.toNat) : decode61 wd = .ok (Instr.copyr o d a b) := by
    simp only [decode61, e0, e1, e2, e3, CopyrOp.ofCode_toCode, sreg_toNat, ofNat_of_toNat, bind1]
  obtain ⟨lt, f_maj, f_fn, f_d, f_a, f_b⟩ := encA_fields 0x61 o.toCode d.toNat a.toNat b.toNat
    (by decide) o.toCode_lt d.isLt a.isLt (Nat.lt_of_lt_of_le b.isLt (by decide))
  exact ⟨lt, (decodeFields_61 _ f_maj).trans (key _ f_fn f_d f_a f_b)⟩
theorem copyr (o : CopyrOp) (d : VReg) (a : VReg) (b : SReg) : Statement (Instr.copyr o d a b) := by
  intro hw w h
  have h := Option.some.inj h
  subst h
  exact readBack_of rfl (copyr_word o d a b).1 (copyr_word o d a b).2 hw
theorem tcopy_word (d : SReg) (a : SReg) (b : SReg) : encA 0x62 0 d.toNat a.toNat b.toNat < 2 ^ 32 ∧ decodeFields (encA 0x62 0 d.toNat a.toNat b.toNat) = .ok (Instr.tcopy d a b) := by
  have key (wd : Nat) (e0 : bitsOf wd 24 21 = 0) (e1 : bitsOf wd 20 14 = d.toNat) (e2 : bitsOf wd 13 7 = a.toNat) (e3 : bitsOf wd 6 0 = b.toNat) : decode62 wd = .ok (Instr.tcopy d a b) := by
    simp only [decode62, e0, e1, e2, e3, sreg_toNat, bind1]
  obtain ⟨lt, f_maj, f_fn, f_d, f_a, f_b⟩ := encA_fields 0x62 0 d.toNat a.toNat b.toNat
    (by decide) (by decide) (Nat.lt_of_lt_of_le d.isLt (by decide)) (Nat.lt_of_lt_of_le a.isLt (by decide)) (Nat.lt_of_lt_of_le b.isLt (by decide))
  exact ⟨lt, (decodeFields_62 _ f_maj).trans (key _ f_fn f_d f_a f_b)⟩
theorem tcopy (d : SReg) (a : SReg) (b : SReg) : Statement (Instr.tcopy d a b) := by
  intro hw w h
  have h := Option.some.inj h
  subst h
  exact readBack_of rfl (tcopy_word d a b).1 (tcopy_word d a b).2 hw
theorem tcopyIn_word (d : SReg) (a : SReg) (b : SReg) : encA 0x62 1 d.toNat a.toNat b.toNat < 2 ^ 32 ∧ decodeFields (encA 0x62 1 d.toNat a.toNat b.toNat) = .ok (Instr.tcopyIn d a b) := by
  have key (wd : Nat) (e0 : bitsOf wd 24 21 = 1) (e1 : bitsOf wd 20 14 = d.toNat) (e2 : bitsOf wd 13 7 = a.toNat) (e3 : bitsOf wd 6 0 = b.toNat) : decode62 wd = .ok (Instr.tcopyIn d a b) := by
    simp only [decode62, e0, e1, e2, e3, sreg_toNat, bind1]
  obtain ⟨lt, f_maj, f_fn, f_d, f_a, f_b⟩ := encA_fields 0x62 1 d.toNat a.toNat b.toNat
    (by decide) (by decide) (Nat.lt_of_lt_of_le d.isLt (by decide)) (Nat.lt_of_lt_of_le a.isLt (by decide)) (Nat.lt_of_lt_of_le b.isLt (by decide))
  exact ⟨lt, (decodeFields_62 _ f_maj).trans (key _ f_fn f_d f_a f_b)⟩
theorem tcopyIn (d : SReg) (a : SReg) (b : SReg) : Statement (Instr.tcopyIn d a b) := by
  intro hw w h
  have h := Option.some.inj h
  subst h
  exact readBack_of rfl (tcopyIn_word d a b).1 (tcopyIn_word d a b).2 hw
theorem tcopyOut_word (d : SReg) (a : SReg) (b : SReg) : encA 0x62 2 d.toNat a.toNat b.toNat < 2 ^ 32 ∧ decodeFields (encA 0x62 2 d.toNat a.toNat b.toNat) = .ok (Instr.tcopyOut d a b) := by
  have key (wd : Nat) (e0 : bitsOf wd 24 21 = 2) (e1 : bitsOf wd 20 14 = d.toNat) (e2 : bitsOf wd 13 7 = a.toNat) (e3 : bitsOf wd 6 0 = b.toNat) : decode62 wd = .ok (Instr.tcopyOut d a b) := by
    simp only [decode62, e0, e1, e2, e3, sreg_toNat, bind1]
  obtain ⟨lt, f_maj, f_fn, f_d, f_a, f_b⟩ := encA_fields 0x62 2 d.toNat a.toNat b.toNat
    (by decide) (by decide) (Nat.lt_of_lt_of_le d.isLt (by decide)) (Nat.lt_of_lt_of_le a.isLt (by decide)) (Nat.lt_of_lt_of_le b.isLt (by decide))
  exact ⟨lt, (decodeFields_62 _ f_maj).trans (key _ f_fn f_d f_a f_b)⟩
theorem tcopyOut (d : SReg) (a : SReg) (b : SReg) : Statement (Instr.tcopyOut d a b) := by
  intro hw w h
  have h := Option.some.inj h
  subst h
  exact readBack_of rfl (tcopyOut_word d a b).1 (tcopyOut_word d a b).2 hw
theorem shpw_word (d : SReg) (a : SReg) : encA 0x63 0 d.toNat a.toNat 0 < 2 ^ 32 ∧ decodeFields (encA 0x63 0 d.toNat a.toNat 0) = .ok (Instr.shpw d a) := by
  have key (wd : Nat) (e0 : bitsOf wd 24 21 = 0) (e1 : bitsOf wd 20 14 = d.toNat) (e2 : bitsOf wd 13 7 = a.toNat) (e3 : bitsOf wd 6 0 = 0) : decode63 wd = .ok (Instr.shpw d a) := by
    simp only [decode63, e0, e1, e2, e3, sreg_toNat, bind1, zeroed, if_true]
  obtain ⟨lt, f_maj, f_fn, f_d, f_a, f_b⟩ := encA_fields 0x63 0 d.toNat a.toNat 0
    (by decide) (by decide) (Nat.lt_of_lt_of_le d.isLt (by decide)) (Nat.lt_of_lt_of_le a.isLt (by decide)) (by decide)
  exact ⟨lt, (decodeFields_63 _ f_maj).trans (key _ f_fn f_d f_a f_b)⟩
theorem shpw (d : SReg) (a : SReg) : Statement (Instr.shpw d a) := by
  intro hw w h
  have h := Option.some.inj h
  subst h
  exact readBack_of rfl (shpw_word d a).1 (shpw_word d a).2 hw
theorem shpi_word (a : SReg) : encA 0x63 1 0 a.toNat 0 < 2 ^ 32 ∧ decodeFields (encA 0x63 1 0 a.toNat 0) = .ok (Instr.shpi a) := by
  have key (wd : Nat) (e0 : bitsOf wd 24 21 = 1) (e1 : bitsOf wd 20 14 = 0) (e2 : bitsOf wd 13 7 = a.toNat) (e3 : bitsOf wd 6 0 = 0) : decode63 wd = .ok (Instr.shpi a) := by
    simp only [decode63, e0, e1, e2, e3, sreg_toNat, bind1, zeroed, if_true]
  obtain ⟨lt, f_maj, f_fn, f_d, f_a, f_b⟩ := encA_fields 0x63 1 0 a.toNat 0
    (by decide) (by decide) (by decide) (Nat.lt_of_lt_of_le a.isLt (by decide)) (by decide)
  exact ⟨lt, (decodeFields_63 _ f_maj).trans (key _ f_fn f_d f_a f_b)⟩
theorem shpi (a : SReg) : Statement (Instr.shpi a) := by
  intro hw w h
  have h := Option.some.inj h
  subst h
  exact readBack_of rfl (shpi_word a).1 (shpi_word a).2 hw
theorem sealB_word (d : SReg) : encA 0x64 0 d.toNat 0 0 < 2 ^ 32 ∧ decodeFields (encA 0x64 0 d.toNat 0 0) = .ok (Instr.sealB d) := by
  have key (wd : Nat) (e0 : bitsOf wd 24 21 = 0) (e1 : bitsOf wd 20 14 = d.toNat) (e2 : bitsOf wd 13 7 = 0) (e3 : bitsOf wd 6 0 = 0) : decode64 wd = .ok (Instr.sealB d) := by
    simp only [decode64, e0, e1, e2, e3, sreg_toNat, bind1, zeroed, if_true]
  obtain ⟨lt, f_maj, f_fn, f_d, f_a, f_b⟩ := encA_fields 0x64 0 d.toNat 0 0
    (by decide) (by decide) (Nat.lt_of_lt_of_le d.isLt (by decide)) (by decide) (by decide)
  exact ⟨lt, (decodeFields_64 _ f_maj).trans (key _ f_fn f_d f_a f_b)⟩
theorem sealB (d : SReg) : Statement (Instr.sealB d) := by
  intro hw w h
  have h := Option.some.inj h
  subst h
  exact readBack_of rfl (sealB_word d).1 (sealB_word d).2 hw
theorem waitb_word (a : SReg) : encA 0x64 1 0 a.toNat 0 < 2 ^ 32 ∧ decodeFields (encA 0x64 1 0 a.toNat 0) = .ok (Instr.waitb a) := by
  have key (wd : Nat) (e0 : bitsOf wd 24 21 = 1) (e1 : bitsOf wd 20 14 = 0) (e2 : bitsOf wd 13 7 = a.toNat) (e3 : bitsOf wd 6 0 = 0) : decode64 wd = .ok (Instr.waitb a) := by
    simp only [decode64, e0, e1, e2, e3, sreg_toNat, bind1, zeroed, if_true]
  obtain ⟨lt, f_maj, f_fn, f_d, f_a, f_b⟩ := encA_fields 0x64 1 0 a.toNat 0
    (by decide) (by decide) (by decide) (Nat.lt_of_lt_of_le a.isLt (by decide)) (by decide)
  exact ⟨lt, (decodeFields_64 _ f_maj).trans (key _ f_fn f_d f_a f_b)⟩
theorem waitb (a : SReg) : Statement (Instr.waitb a) := by
  intro hw w h
  have h := Option.some.inj h
  subst h
  exact readBack_of rfl (waitb_word a).1 (waitb_word a).2 hw
theorem mma_word (d : SReg) (a : SReg) (b : SReg) : encA 0x65 0 d.toNat a.toNat b.toNat < 2 ^ 32 ∧ decodeFields (encA 0x65 0 d.toNat a.toNat b.toNat) = .ok (Instr.mma d a b) := by
  have key (wd : Nat) (e0 : bitsOf wd 24 21 = 0) (e1 : bitsOf wd 20 14 = d.toNat) (e2 : bitsOf wd 13 7 = a.toNat) (e3 : bitsOf wd 6 0 = b.toNat) : decode65 wd = .ok (Instr.mma d a b) := by
    simp only [decode65, e0, e1, e2, e3, sreg_toNat, bind1]
  obtain ⟨lt, f_maj, f_fn, f_d, f_a, f_b⟩ := encA_fields 0x65 0 d.toNat a.toNat b.toNat
    (by decide) (by decide) (Nat.lt_of_lt_of_le d.isLt (by decide)) (Nat.lt_of_lt_of_le a.isLt (by decide)) (Nat.lt_of_lt_of_le b.isLt (by decide))
  exact ⟨lt, (decodeFields_65 _ f_maj).trans (key _ f_fn f_d f_a f_b)⟩
theorem mma (d : SReg) (a : SReg) (b : SReg) : Statement (Instr.mma d a b) := by
  intro hw w h
  have h := Option.some.inj h
  subst h
  exact readBack_of rfl (mma_word d a b).1 (mma_word d a b).2 hw
theorem mmam_word (d : SReg) (a : SReg) (b : SReg) : encA 0x65 1 d.toNat a.toNat b.toNat < 2 ^ 32 ∧ decodeFields (encA 0x65 1 d.toNat a.toNat b.toNat) = .ok (Instr.mmam d a b) := by
  have key (wd : Nat) (e0 : bitsOf wd 24 21 = 1) (e1 : bitsOf wd 20 14 = d.toNat) (e2 : bitsOf wd 13 7 = a.toNat) (e3 : bitsOf wd 6 0 = b.toNat) : decode65 wd = .ok (Instr.mmam d a b) := by
    simp only [decode65, e0, e1, e2, e3, sreg_toNat, bind1]
  obtain ⟨lt, f_maj, f_fn, f_d, f_a, f_b⟩ := encA_fields 0x65 1 d.toNat a.toNat b.toNat
    (by decide) (by decide) (Nat.lt_of_lt_of_le d.isLt (by decide)) (Nat.lt_of_lt_of_le a.isLt (by decide)) (Nat.lt_of_lt_of_le b.isLt (by decide))
  exact ⟨lt, (decodeFields_65 _ f_maj).trans (key _ f_fn f_d f_a f_b)⟩
theorem mmam (d : SReg) (a : SReg) (b : SReg) : Statement (Instr.mmam d a b) := by
  intro hw w h
  have h := Option.some.inj h
  subst h
  exact readBack_of rfl (mmam_word d a b).1 (mmam_word d a b).2 hw
theorem mmas_word (d : SReg) (a : SReg) (b : SReg) : encA 0x65 2 d.toNat a.toNat b.toNat < 2 ^ 32 ∧ decodeFields (encA 0x65 2 d.toNat a.toNat b.toNat) = .ok (Instr.mmas d a b) := by
  have key (wd : Nat) (e0 : bitsOf wd 24 21 = 2) (e1 : bitsOf wd 20 14 = d.toNat) (e2 : bitsOf wd 13 7 = a.toNat) (e3 : bitsOf wd 6 0 = b.toNat) : decode65 wd = .ok (Instr.mmas d a b) := by
    simp only [decode65, e0, e1, e2, e3, sreg_toNat, bind1]
  obtain ⟨lt, f_maj, f_fn, f_d, f_a, f_b⟩ := encA_fields 0x65 2 d.toNat a.toNat b.toNat
    (by decide) (by decide) (Nat.lt_of_lt_of_le d.isLt (by decide)) (Nat.lt_of_lt_of_le a.isLt (by decide)) (Nat.lt_of_lt_of_le b.isLt (by decide))
  exact ⟨lt, (decodeFields_65 _ f_maj).trans (key _ f_fn f_d f_a f_b)⟩
theorem mmas (d : SReg) (a : SReg) (b : SReg) : Statement (Instr.mmas d a b) := by
  intro hw w h
  have h := Option.some.inj h
  subst h
  exact readBack_of rfl (mmas_word d a b).1 (mmas_word d a b).2 hw
theorem mma2_word (d : SReg) (a : SReg) (b : SReg) : encA 0x65 3 d.toNat a.toNat b.toNat < 2 ^ 32 ∧ decodeFields (encA 0x65 3 d.toNat a.toNat b.toNat) = .ok (Instr.mma2 d a b) := by
  have key (wd : Nat) (e0 : bitsOf wd 24 21 = 3) (e1 : bitsOf wd 20 14 = d.toNat) (e2 : bitsOf wd 13 7 = a.toNat) (e3 : bitsOf wd 6 0 = b.toNat) : decode65 wd = .ok (Instr.mma2 d a b) := by
    simp only [decode65, e0, e1, e2, e3, sreg_toNat, bind1]
  obtain ⟨lt, f_maj, f_fn, f_d, f_a, f_b⟩ := encA_fields 0x65 3 d.toNat a.toNat b.toNat
    (by decide) (by decide) (Nat.lt_of_lt_of_le d.isLt (by decide)) (Nat.lt_of_lt_of_le a.isLt (by decide)) (Nat.lt_of_lt_of_le b.isLt (by decide))
  exact ⟨lt, (decodeFields_65 _ f_maj).trans (key _ f_fn f_d f_a f_b)⟩
theorem mma2 (d : SReg) (a : SReg) (b : SReg) : Statement (Instr.mma2 d a b) := by
  intro hw w h
  have h := Option.some.inj h
  subst h
  exact readBack_of rfl (mma2_word d a b).1 (mma2_word d a b).2 hw
theorem acld_word (d : SReg) (a : SReg) (b : SReg) : encA 0x65 4 d.toNat a.toNat b.toNat < 2 ^ 32 ∧ decodeFields (encA 0x65 4 d.toNat a.toNat b.toNat) = .ok (Instr.acld d a b) := by
  have key (wd : Nat) (e0 : bitsOf wd 24 21 = 4) (e1 : bitsOf wd 20 14 = d.toNat) (e2 : bitsOf wd 13 7 = a.toNat) (e3 : bitsOf wd 6 0 = b.toNat) : decode65 wd = .ok (Instr.acld d a b) := by
    simp only [decode65, e0, e1, e2, e3, sreg_toNat, bind1]
  obtain ⟨lt, f_maj, f_fn, f_d, f_a, f_b⟩ := encA_fields 0x65 4 d.toNat a.toNat b.toNat
    (by decide) (by decide) (Nat.lt_of_lt_of_le d.isLt (by decide)) (Nat.lt_of_lt_of_le a.isLt (by decide)) (Nat.lt_of_lt_of_le b.isLt (by decide))
  exact ⟨lt, (decodeFields_65 _ f_maj).trans (key _ f_fn f_d f_a f_b)⟩
theorem acld (d : SReg) (a : SReg) (b : SReg) : Statement (Instr.acld d a b) := by
  intro hw w h
  have h := Option.some.inj h
  subst h
  exact readBack_of rfl (acld_word d a b).1 (acld_word d a b).2 hw
theorem acst_word (d : SReg) (a : SReg) (b : SReg) : encA 0x65 5 d.toNat a.toNat b.toNat < 2 ^ 32 ∧ decodeFields (encA 0x65 5 d.toNat a.toNat b.toNat) = .ok (Instr.acst d a b) := by
  have key (wd : Nat) (e0 : bitsOf wd 24 21 = 5) (e1 : bitsOf wd 20 14 = d.toNat) (e2 : bitsOf wd 13 7 = a.toNat) (e3 : bitsOf wd 6 0 = b.toNat) : decode65 wd = .ok (Instr.acst d a b) := by
    simp only [decode65, e0, e1, e2, e3, sreg_toNat, bind1]
  obtain ⟨lt, f_maj, f_fn, f_d, f_a, f_b⟩ := encA_fields 0x65 5 d.toNat a.toNat b.toNat
    (by decide) (by decide) (Nat.lt_of_lt_of_le d.isLt (by decide)) (Nat.lt_of_lt_of_le a.isLt (by decide)) (Nat.lt_of_lt_of_le b.isLt (by decide))
  exact ⟨lt, (decodeFields_65 _ f_maj).trans (key _ f_fn f_d f_a f_b)⟩
theorem acst (d : SReg) (a : SReg) (b : SReg) : Statement (Instr.acst d a b) := by
  intro hw w h
  have h := Option.some.inj h
  subst h
  exact readBack_of rfl (acst_word d a b).1 (acst_word d a b).2 hw
theorem acz_word (a : SReg) (b : SReg) : encA 0x65 6 0 a.toNat b.toNat < 2 ^ 32 ∧ decodeFields (encA 0x65 6 0 a.toNat b.toNat) = .ok (Instr.acz a b) := by
  have key (wd : Nat) (e0 : bitsOf wd 24 21 = 6) (e1 : bitsOf wd 20 14 = 0) (e2 : bitsOf wd 13 7 = a.toNat) (e3 : bitsOf wd 6 0 = b.toNat) : decode65 wd = .ok (Instr.acz a b) := by
    simp only [decode65, e0, e1, e2, e3, sreg_toNat, bind1, zeroed, if_true]
  obtain ⟨lt, f_maj, f_fn, f_d, f_a, f_b⟩ := encA_fields 0x65 6 0 a.toNat b.toNat
    (by decide) (by decide) (by decide) (Nat.lt_of_lt_of_le a.isLt (by decide)) (Nat.lt_of_lt_of_le b.isLt (by decide))
  exact ⟨lt, (decodeFields_65 _ f_maj).trans (key _ f_fn f_d f_a f_b)⟩
theorem acz (a : SReg) (b : SReg) : Statement (Instr.acz a b) := by
  intro hw w h
  have h := Option.some.inj h
  subst h
  exact readBack_of rfl (acz_word a b).1 (acz_word a b).2 hw
theorem mrel_word : encA 0x65 7 0 0 0 < 2 ^ 32 ∧ decodeFields (encA 0x65 7 0 0 0) = .ok Instr.mrel := by
  have key (wd : Nat) (e0 : bitsOf wd 24 21 = 7) (e1 : bitsOf wd 20 14 = 0) (e2 : bitsOf wd 13 7 = 0) (e3 : bitsOf wd 6 0 = 0) : decode65 wd = .ok Instr.mrel := by
    simp only [decode65, e0, e1, e2, e3, zeroed, if_true]
  obtain ⟨lt, f_maj, f_fn, f_d, f_a, f_b⟩ := encA_fields 0x65 7 0 0 0
    (by decide) (by decide) (by decide) (by decide) (by decide)
  exact ⟨lt, (decodeFields_65 _ f_maj).trans (key _ f_fn f_d f_a f_b)⟩
theorem mrel : Statement Instr.mrel := by
  intro hw w h
  have h := Option.some.inj h
  subst h
  exact readBack_of rfl (mrel_word).1 (mrel_word).2 hw
theorem layer_word (a : SReg) (b : SReg) : encA 0x66 0 0 a.toNat b.toNat < 2 ^ 32 ∧ decodeFields (encA 0x66 0 0 a.toNat b.toNat) = .ok (Instr.layer a b) := by
  have key (wd : Nat) (e0 : bitsOf wd 24 21 = 0) (e1 : bitsOf wd 20 14 = 0) (e2 : bitsOf wd 13 7 = a.toNat) (e3 : bitsOf wd 6 0 = b.toNat) : decode66 wd = .ok (Instr.layer a b) := by
    simp only [decode66, e0, e1, e2, e3, sreg_toNat, bind1, zeroed, if_true]
  obtain ⟨lt, f_maj, f_fn, f_d, f_a, f_b⟩ := encA_fields 0x66 0 0 a.toNat b.toNat
    (by decide) (by decide) (by decide) (Nat.lt_of_lt_of_le a.isLt (by decide)) (Nat.lt_of_lt_of_le b.isLt (by decide))
  exact ⟨lt, (decodeFields_66 _ f_maj).trans (key _ f_fn f_d f_a f_b)⟩
theorem layer (a : SReg) (b : SReg) : Statement (Instr.layer a b) := by
  intro hw w h
  have h := Option.some.inj h
  subst h
  exact readBack_of rfl (layer_word a b).1 (layer_word a b).2 hw
theorem layerx2_word (a : SReg) (b : SReg) : encA 0x66 1 0 a.toNat b.toNat < 2 ^ 32 ∧ decodeFields (encA 0x66 1 0 a.toNat b.toNat) = .ok (Instr.layerx2 a b) := by
  have key (wd : Nat) (e0 : bitsOf wd 24 21 = 1) (e1 : bitsOf wd 20 14 = 0) (e2 : bitsOf wd 13 7 = a.toNat) (e3 : bitsOf wd 6 0 = b.toNat) : decode66 wd = .ok (Instr.layerx2 a b) := by
    simp only [decode66, e0, e1, e2, e3, sreg_toNat, bind1, zeroed, if_true]
  obtain ⟨lt, f_maj, f_fn, f_d, f_a, f_b⟩ := encA_fields 0x66 1 0 a.toNat b.toNat
    (by decide) (by decide) (by decide) (Nat.lt_of_lt_of_le a.isLt (by decide)) (Nat.lt_of_lt_of_le b.isLt (by decide))
  exact ⟨lt, (decodeFields_66 _ f_maj).trans (key _ f_fn f_d f_a f_b)⟩
theorem layerx2 (a : SReg) (b : SReg) : Statement (Instr.layerx2 a b) := by
  intro hw w h
  have h := Option.some.inj h
  subst h
  exact readBack_of rfl (layerx2_word a b).1 (layerx2_word a b).2 hw
theorem layert_word (a : SReg) (b : SReg) : encA 0x66 2 0 a.toNat b.toNat < 2 ^ 32 ∧ decodeFields (encA 0x66 2 0 a.toNat b.toNat) = .ok (Instr.layert a b) := by
  have key (wd : Nat) (e0 : bitsOf wd 24 21 = 2) (e1 : bitsOf wd 20 14 = 0) (e2 : bitsOf wd 13 7 = a.toNat) (e3 : bitsOf wd 6 0 = b.toNat) : decode66 wd = .ok (Instr.layert a b) := by
    simp only [decode66, e0, e1, e2, e3, sreg_toNat, bind1, zeroed, if_true]
  obtain ⟨lt, f_maj, f_fn, f_d, f_a, f_b⟩ := encA_fields 0x66 2 0 a.toNat b.toNat
    (by decide) (by decide) (by decide) (Nat.lt_of_lt_of_le a.isLt (by decide)) (Nat.lt_of_lt_of_le b.isLt (by decide))
  exact ⟨lt, (decodeFields_66 _ f_maj).trans (key _ f_fn f_d f_a f_b)⟩
theorem layert (a : SReg) (b : SReg) : Statement (Instr.layert a b) := by
  intro hw w h
  have h := Option.some.inj h
  subst h
  exact readBack_of rfl (layert_word a b).1 (layert_word a b).2 hw
theorem rceq_word (d : SReg) (a : SReg) : encA 0x66 3 d.toNat a.toNat 0 < 2 ^ 32 ∧ decodeFields (encA 0x66 3 d.toNat a.toNat 0) = .ok (Instr.rceq d a) := by
  have key (wd : Nat) (e0 : bitsOf wd 24 21 = 3) (e1 : bitsOf wd 20 14 = d.toNat) (e2 : bitsOf wd 13 7 = a.toNat) (e3 : bitsOf wd 6 0 = 0) : decode66 wd = .ok (Instr.rceq d a) := by
    simp only [decode66, e0, e1, e2, e3, sreg_toNat, bind1, zeroed, if_true]
  obtain ⟨lt, f_maj, f_fn, f_d, f_a, f_b⟩ := encA_fields 0x66 3 d.toNat a.toNat 0
    (by decide) (by decide) (Nat.lt_of_lt_of_le d.isLt (by decide)) (Nat.lt_of_lt_of_le a.isLt (by decide)) (by decide)
  exact ⟨lt, (decodeFields_66 _ f_maj).trans (key _ f_fn f_d f_a f_b)⟩
theorem rceq (d : SReg) (a : SReg) : Statement (Instr.rceq d a) := by
  intro hw w h
  have h := Option.some.inj h
  subst h
  exact readBack_of rfl (rceq_word d a).1 (rceq_word d a).2 hw
theorem rcepin_word (a : SReg) : encA 0x66 4 0 a.toNat 0 < 2 ^ 32 ∧ decodeFields (encA 0x66 4 0 a.toNat 0) = .ok (Instr.rcepin a) := by
  have key (wd : Nat) (e0 : bitsOf wd 24 21 = 4) (e1 : bitsOf wd 20 14 = 0) (e2 : bitsOf wd 13 7 = a.toNat) (e3 : bitsOf wd 6 0 = 0) : decode66 wd = .ok (Instr.rcepin a) := by
    simp only [decode66, e0, e1, e2, e3, sreg_toNat, bind1, zeroed, if_true]
  obtain ⟨lt, f_maj, f_fn, f_d, f_a, f_b⟩ := encA_fields 0x66 4 0 a.toNat 0
    (by decide) (by decide) (by decide) (Nat.lt_of_lt_of_le a.isLt (by decide)) (by decide)
  exact ⟨lt, (decodeFields_66 _ f_maj).trans (key _ f_fn f_d f_a f_b)⟩
theorem rcepin (a : SReg) : Statement (Instr.rcepin a) := by
  intro hw w h
  have h := Option.some.inj h
  subst h
  exact readBack_of rfl (rcepin_word a).1 (rcepin_word a).2 hw
theorem rceunpin_word (a : SReg) : encA 0x66 5 0 a.toNat 0 < 2 ^ 32 ∧ decodeFields (encA 0x66 5 0 a.toNat 0) = .ok (Instr.rceunpin a) := by
  have key (wd : Nat) (e0 : bitsOf wd 24 21 = 5) (e1 : bitsOf wd 20 14 = 0) (e2 : bitsOf wd 13 7 = a.toNat) (e3 : bitsOf wd 6 0 = 0) : decode66 wd = .ok (Instr.rceunpin a) := by
    simp only [decode66, e0, e1, e2, e3, sreg_toNat, bind1, zeroed, if_true]
  obtain ⟨lt, f_maj, f_fn, f_d, f_a, f_b⟩ := encA_fields 0x66 5 0 a.toNat 0
    (by decide) (by decide) (by decide) (Nat.lt_of_lt_of_le a.isLt (by decide)) (by decide)
  exact ⟨lt, (decodeFields_66 _ f_maj).trans (key _ f_fn f_d f_a f_b)⟩
theorem rceunpin (a : SReg) : Statement (Instr.rceunpin a) := by
  intro hw w h
  have h := Option.some.inj h
  subst h
  exact readBack_of rfl (rceunpin_word a).1 (rceunpin_word a).2 hw
theorem bsq_word (a : SReg) (b : SReg) : encA 0x67 0 0 a.toNat b.toNat < 2 ^ 32 ∧ decodeFields (encA 0x67 0 0 a.toNat b.toNat) = .ok (Instr.bsq a b) := by
  have key (wd : Nat) (e0 : bitsOf wd 24 21 = 0) (e1 : bitsOf wd 20 14 = 0) (e2 : bitsOf wd 13 7 = a.toNat) (e3 : bitsOf wd 6 0 = b.toNat) : decode67 wd = .ok (Instr.bsq a b) := by
    simp only [decode67, e0, e1, e2, e3, sreg_toNat, bind1, zeroed, if_true]
  obtain ⟨lt, f_maj, f_fn, f_d, f_a, f_b⟩ := encA_fields 0x67 0 0 a.toNat b.toNat
    (by decide) (by decide) (by decide) (Nat.lt_of_lt_of_le a.isLt (by decide)) (Nat.lt_of_lt_of_le b.isLt (by decide))
  exact ⟨lt, (decodeFields_67 _ f_maj).trans (key _ f_fn f_d f_a f_b)⟩
theorem bsq (a : SReg) (b : SReg) : Statement (Instr.bsq a b) := by
  intro hw w h
  have h := Option.some.inj h
  subst h
  exact readBack_of rfl (bsq_word a b).1 (bsq_word a b).2 hw
theorem ways_word (d : SReg) (a : SReg) (b : SReg) : encA 0x67 1 d.toNat a.toNat b.toNat < 2 ^ 32 ∧ decodeFields (encA 0x67 1 d.toNat a.toNat b.toNat) = .ok (Instr.ways d a b) := by
  have key (wd : Nat) (e0 : bitsOf wd 24 21 = 1) (e1 : bitsOf wd 20 14 = d.toNat) (e2 : bitsOf wd 13 7 = a.toNat) (e3 : bitsOf wd 6 0 = b.toNat) : decode67 wd = .ok (Instr.ways d a b) := by
    simp only [decode67, e0, e1, e2, e3, sreg_toNat, bind1]
  obtain ⟨lt, f_maj, f_fn, f_d, f_a, f_b⟩ := encA_fields 0x67 1 d.toNat a.toNat b.toNat
    (by decide) (by decide) (Nat.lt_of_lt_of_le d.isLt (by decide)) (Nat.lt_of_lt_of_le a.isLt (by decide)) (Nat.lt_of_lt_of_le b.isLt (by decide))
  exact ⟨lt, (decodeFields_67 _ f_maj).trans (key _ f_fn f_d f_a f_b)⟩
theorem ways (d : SReg) (a : SReg) (b : SReg) : Statement (Instr.ways d a b) := by
  intro hw w h
  have h := Option.some.inj h
  subst h
  exact readBack_of rfl (ways_word d a b).1 (ways_word d a b).2 hw
theorem waysrel_word (a : SReg) : encA 0x67 2 0 a.toNat 0 < 2 ^ 32 ∧ decodeFields (encA 0x67 2 0 a.toNat 0) = .ok (Instr.waysrel a) := by
  have key (wd : Nat) (e0 : bitsOf wd 24 21 = 2) (e1 : bitsOf wd 20 14 = 0) (e2 : bitsOf wd 13 7 = a.toNat) (e3 : bitsOf wd 6 0 = 0) : decode67 wd = .ok (Instr.waysrel a) := by
    simp only [decode67, e0, e1, e2, e3, sreg_toNat, bind1, zeroed, if_true]
  obtain ⟨lt, f_maj, f_fn, f_d, f_a, f_b⟩ := encA_fields 0x67 2 0 a.toNat 0
    (by decide) (by decide) (by decide) (Nat.lt_of_lt_of_le a.isLt (by decide)) (by decide)
  exact ⟨lt, (decodeFields_67 _ f_maj).trans (key _ f_fn f_d f_a f_b)⟩
theorem waysrel (a : SReg) : Statement (Instr.waysrel a) := by
  intro hw w h
  have h := Option.some.inj h
  subst h
  exact readBack_of rfl (waysrel_word a).1 (waysrel_word a).2 hw
theorem launch_word (a : SReg) (b : SReg) : encA 0x68 0 0 a.toNat b.toNat < 2 ^ 32 ∧ decodeFields (encA 0x68 0 0 a.toNat b.toNat) = .ok (Instr.launch a b) := by
  have key (wd : Nat) (e0 : bitsOf wd 24 21 = 0) (e1 : bitsOf wd 20 14 = 0) (e2 : bitsOf wd 13 7 = a.toNat) (e3 : bitsOf wd 6 0 = b.toNat) : decode68 wd = .ok (Instr.launch a b) := by
    simp only [decode68, e0, e1, e2, e3, sreg_toNat, bind1, zeroed, if_true]
  obtain ⟨lt, f_maj, f_fn, f_d, f_a, f_b⟩ := encA_fields 0x68 0 0 a.toNat b.toNat
    (by decide) (by decide) (by decide) (Nat.lt_of_lt_of_le a.isLt (by decide)) (Nat.lt_of_lt_of_le b.isLt (by decide))
  exact ⟨lt, (decodeFields_68 _ f_maj).trans (key _ f_fn f_d f_a f_b)⟩
theorem launch (a : SReg) (b : SReg) : Statement (Instr.launch a b) := by
  intro hw w h
  have h := Option.some.inj h
  subst h
  exact readBack_of rfl (launch_word a b).1 (launch_word a b).2 hw
theorem migrate_word (a : SReg) : encA 0x69 0 0 a.toNat 0 < 2 ^ 32 ∧ decodeFields (encA 0x69 0 0 a.toNat 0) = .ok (Instr.migrate a) := by
  have key (wd : Nat) (e0 : bitsOf wd 24 21 = 0) (e1 : bitsOf wd 20 14 = 0) (e2 : bitsOf wd 13 7 = a.toNat) (e3 : bitsOf wd 6 0 = 0) : decode69 wd = .ok (Instr.migrate a) := by
    simp only [decode69, e0, e1, e2, e3, sreg_toNat, bind1, zeroed, if_true]
  obtain ⟨lt, f_maj, f_fn, f_d, f_a, f_b⟩ := encA_fields 0x69 0 0 a.toNat 0
    (by decide) (by decide) (by decide) (Nat.lt_of_lt_of_le a.isLt (by decide)) (by decide)
  exact ⟨lt, (decodeFields_69 _ f_maj).trans (key _ f_fn f_d f_a f_b)⟩
theorem migrate (a : SReg) : Statement (Instr.migrate a) := by
  intro hw w h
  have h := Option.some.inj h
  subst h
  exact readBack_of rfl (migrate_word a).1 (migrate_word a).2 hw
theorem home_word : encA 0x69 1 0 0 0 < 2 ^ 32 ∧ decodeFields (encA 0x69 1 0 0 0) = .ok Instr.home := by
  have key (wd : Nat) (e0 : bitsOf wd 24 21 = 1) (e1 : bitsOf wd 20 14 = 0) (e2 : bitsOf wd 13 7 = 0) (e3 : bitsOf wd 6 0 = 0) : decode69 wd = .ok Instr.home := by
    simp only [decode69, e0, e1, e2, e3, zeroed, if_true]
  obtain ⟨lt, f_maj, f_fn, f_d, f_a, f_b⟩ := encA_fields 0x69 1 0 0 0
    (by decide) (by decide) (by decide) (by decide) (by decide)
  exact ⟨lt, (decodeFields_69 _ f_maj).trans (key _ f_fn f_d f_a f_b)⟩
theorem home : Statement Instr.home := by
  intro hw w h
  have h := Option.some.inj h
  subst h
  exact readBack_of rfl (home_word).1 (home_word).2 hw
theorem pfx_word (k : KReg) (z : BitVec 1) (rm : BitVec 3) (vc : VReg) : encP 0x70 (k.toNat * 4194304 + z.toNat * 2097152 + rm.toNat * 262144 + vc.toNat * 2048) < 2 ^ 32 ∧ decodeFields (encP 0x70 (k.toNat * 4194304 + z.toNat * 2097152 + rm.toNat * 262144 + vc.toNat * 2048)) = .ok (Instr.pfx k z rm vc) := by
  have h_k := k.isLt
  have h_z := z.isLt
  have h_rm := rm.isLt
  have h_vc := vc.isLt
  have key (wd : Nat) (e0 : bitsOf wd 24 22 = k.toNat) (e1 : bitsOf wd 21 21 = z.toNat) (e2 : bitsOf wd 20 18 = rm.toNat) (e3 : bitsOf wd 17 11 = vc.toNat) (e4 : bitsOf wd 10 0 = 0) : decode70 wd = .ok (Instr.pfx k z rm vc) := by
    simp only [decode70, e0, e1, e2, e3, e4, ofNat_of_toNat, zeroed, if_true]
  obtain ⟨lt, f_maj, _⟩ := encP_fields 0x70 (k.toNat * 4194304 + z.toNat * 2097152 + rm.toNat * 262144 + vc.toNat * 2048)
    (by decide) (by omega)
  exact ⟨lt, (decodeFields_70 _ f_maj).trans (key _ (by unfold bitsOf encP; norm_num; omega) (by unfold bitsOf encP; norm_num; omega) (by unfold bitsOf encP; norm_num; omega) (by unfold bitsOf encP; norm_num; omega) (by unfold bitsOf encP; norm_num; omega))⟩
theorem pfx (k : KReg) (z : BitVec 1) (rm : BitVec 3) (vc : VReg) : Statement (Instr.pfx k z rm vc) := by
  intro hw w h
  have h := Option.some.inj h
  subst h
  exact readBack_of rfl (pfx_word k z rm vc).1 (pfx_word k z rm vc).2 hw
theorem ord_word (scope : OrdScope) (order : OrdOrder) (nd : BitVec 4) : encP 0x71 (scope.toCode * 4194304 + order.toCode * 1048576 + nd.toNat * 65536) < 2 ^ 32 ∧ decodeFields (encP 0x71 (scope.toCode * 4194304 + order.toCode * 1048576 + nd.toNat * 65536)) = .ok (Instr.ord scope order nd) := by
  have h_scope := OrdScope.toCode_lt scope
  have h_order := OrdOrder.toCode_lt order
  have h_nd := nd.isLt
  have key (wd : Nat) (e0 : bitsOf wd 24 22 = scope.toCode) (e1 : bitsOf wd 21 20 = order.toCode) (e2 : bitsOf wd 19 16 = nd.toNat) (e3 : bitsOf wd 15 0 = 0) : decode71 wd = .ok (Instr.ord scope order nd) := by
    simp only [decode71, e0, e1, e2, e3, OrdScope.ofCode_toCode, OrdOrder.ofCode_toCode, ofNat_of_toNat, bind1, zeroed, if_true]
  obtain ⟨lt, f_maj, _⟩ := encP_fields 0x71 (scope.toCode * 4194304 + order.toCode * 1048576 + nd.toNat * 65536)
    (by decide) (by omega)
  exact ⟨lt, (decodeFields_71 _ f_maj).trans (key _ (by unfold bitsOf encP; norm_num; omega) (by unfold bitsOf encP; norm_num; omega) (by unfold bitsOf encP; norm_num; omega) (by unfold bitsOf encP; norm_num; omega))⟩
theorem ord (scope : OrdScope) (order : OrdOrder) (nd : BitVec 4) : Statement (Instr.ord scope order nd) := by
  intro hw w h
  have h := Option.some.inj h
  subst h
  exact readBack_of rfl (ord_word scope order nd).1 (ord_word scope order nd).2 hw
theorem limm_word (high : BitVec 25) : encP 0x72 high.toNat < 2 ^ 32 ∧ decodeFields (encP 0x72 high.toNat) = .ok (Instr.limm high) := by
  have key (wd : Nat) (e0 : bitsOf wd 24 0 = high.toNat) : decode72 wd = .ok (Instr.limm high) := by
    simp only [decode72, e0, ofNat_of_toNat]
  obtain ⟨lt, f_maj, f_payload⟩ := encP_fields 0x72 high.toNat
    (by decide) high.isLt
  exact ⟨lt, (decodeFields_72 _ f_maj).trans (key _ f_payload)⟩
theorem limm (high : BitVec 25) : Statement (Instr.limm high) := by
  intro hw w h
  have h := Option.some.inj h
  subst h
  exact readBack_of rfl (limm_word high).1 (limm_word high).2 hw
theorem hint_word (kind : BitVec 4) (arg : BitVec 21) : encP 0x73 (kind.toNat * 2097152 + arg.toNat) < 2 ^ 32 ∧ decodeFields (encP 0x73 (kind.toNat * 2097152 + arg.toNat)) = .ok (Instr.hint kind arg) := by
  have h_kind := kind.isLt
  have h_arg := arg.isLt
  have key (wd : Nat) (e0 : bitsOf wd 24 21 = kind.toNat) (e1 : bitsOf wd 20 0 = arg.toNat) : decode73 wd = .ok (Instr.hint kind arg) := by
    simp only [decode73, e0, e1, ofNat_of_toNat]
  obtain ⟨lt, f_maj, _⟩ := encP_fields 0x73 (kind.toNat * 2097152 + arg.toNat)
    (by decide) (by omega)
  exact ⟨lt, (decodeFields_73 _ f_maj).trans (key _ (by unfold bitsOf encP; norm_num; omega) (by unfold bitsOf encP; norm_num; omega))⟩
theorem hint (kind : BitVec 4) (arg : BitVec 21) : Statement (Instr.hint kind arg) := by
  intro hw w h
  have h := Option.some.inj h
  subst h
  exact readBack_of rfl (hint_word kind arg).1 (hint_word kind arg).2 hw
theorem bwid (a : BitVec 9) : Statement (Instr.bwid a) := by
  have key (wd : Nat) (e0 : bitsOf wd 31 27 = 1) (e1 : bitsOf wd 26 18 = a.toNat) (e2 : bitsOf wd 17 9 = 0) (e3 : bitsOf wd 8 0 = 0) : decodeMicro wd = .ok (Instr.bwid a) := by
    simp only [decodeMicro, e0, e1, e2, e3, ofNat_of_toNat, zeroed, if_true]
  intro _ w h
  have h := Option.some.inj h
  subst h
  obtain ⟨lt, f0, f1, f2, f3⟩ := encMicro_fields 1 a.toNat 0 0 (by decide) a.isLt (by decide) (by decide)
  exact readMicro_of rfl lt (key _ f0 f1 f2 f3)
theorem bnot (a : BitVec 9) (d : BitVec 9) : Statement (Instr.bnot a d) := by
  have key (wd : Nat) (e0 : bitsOf wd 31 27 = 2) (e1 : bitsOf wd 26 18 = a.toNat) (e2 : bitsOf wd 17 9 = 0) (e3 : bitsOf wd 8 0 = d.toNat) : decodeMicro wd = .ok (Instr.bnot a d) := by
    simp only [decodeMicro, e0, e1, e2, e3, ofNat_of_toNat, zeroed, if_true]
  intro _ w h
  have h := Option.some.inj h
  subst h
  obtain ⟨lt, f0, f1, f2, f3⟩ := encMicro_fields 2 a.toNat 0 d.toNat (by decide) a.isLt (by decide) d.isLt
  exact readMicro_of rfl lt (key _ f0 f1 f2 f3)
theorem band (a : BitVec 9) (b : BitVec 9) (d : BitVec 9) : Statement (Instr.band a b d) := by
  have key (wd : Nat) (e0 : bitsOf wd 31 27 = 3) (e1 : bitsOf wd 26 18 = a.toNat) (e2 : bitsOf wd 17 9 = b.toNat) (e3 : bitsOf wd 8 0 = d.toNat) : decodeMicro wd = .ok (Instr.band a b d) := by
    simp only [decodeMicro, e0, e1, e2, e3, ofNat_of_toNat]
  intro _ w h
  have h := Option.some.inj h
  subst h
  obtain ⟨lt, f0, f1, f2, f3⟩ := encMicro_fields 3 a.toNat b.toNat d.toNat (by decide) a.isLt b.isLt d.isLt
  exact readMicro_of rfl lt (key _ f0 f1 f2 f3)
theorem bor (a : BitVec 9) (b : BitVec 9) (d : BitVec 9) : Statement (Instr.bor a b d) := by
  have key (wd : Nat) (e0 : bitsOf wd 31 27 = 4) (e1 : bitsOf wd 26 18 = a.toNat) (e2 : bitsOf wd 17 9 = b.toNat) (e3 : bitsOf wd 8 0 = d.toNat) : decodeMicro wd = .ok (Instr.bor a b d) := by
    simp only [decodeMicro, e0, e1, e2, e3, ofNat_of_toNat]
  intro _ w h
  have h := Option.some.inj h
  subst h
  obtain ⟨lt, f0, f1, f2, f3⟩ := encMicro_fields 4 a.toNat b.toNat d.toNat (by decide) a.isLt b.isLt d.isLt
  exact readMicro_of rfl lt (key _ f0 f1 f2 f3)
theorem bxor (a : BitVec 9) (b : BitVec 9) (d : BitVec 9) : Statement (Instr.bxor a b d) := by
  have key (wd : Nat) (e0 : bitsOf wd 31 27 = 5) (e1 : bitsOf wd 26 18 = a.toNat) (e2 : bitsOf wd 17 9 = b.toNat) (e3 : bitsOf wd 8 0 = d.toNat) : decodeMicro wd = .ok (Instr.bxor a b d) := by
    simp only [decodeMicro, e0, e1, e2, e3, ofNat_of_toNat]
  intro _ w h
  have h := Option.some.inj h
  subst h
  obtain ⟨lt, f0, f1, f2, f3⟩ := encMicro_fields 5 a.toNat b.toNat d.toNat (by decide) a.isLt b.isLt d.isLt
  exact readMicro_of rfl lt (key _ f0 f1 f2 f3)
theorem badd (a : BitVec 9) (b : BitVec 9) (d : BitVec 9) : Statement (Instr.badd a b d) := by
  have key (wd : Nat) (e0 : bitsOf wd 31 27 = 6) (e1 : bitsOf wd 26 18 = a.toNat) (e2 : bitsOf wd 17 9 = b.toNat) (e3 : bitsOf wd 8 0 = d.toNat) : decodeMicro wd = .ok (Instr.badd a b d) := by
    simp only [decodeMicro, e0, e1, e2, e3, ofNat_of_toNat]
  intro _ w h
  have h := Option.some.inj h
  subst h
  obtain ⟨lt, f0, f1, f2, f3⟩ := encMicro_fields 6 a.toNat b.toNat d.toNat (by decide) a.isLt b.isLt d.isLt
  exact readMicro_of rfl lt (key _ f0 f1 f2 f3)
theorem bsub (a : BitVec 9) (b : BitVec 9) (d : BitVec 9) : Statement (Instr.bsub a b d) := by
  have key (wd : Nat) (e0 : bitsOf wd 31 27 = 7) (e1 : bitsOf wd 26 18 = a.toNat) (e2 : bitsOf wd 17 9 = b.toNat) (e3 : bitsOf wd 8 0 = d.toNat) : decodeMicro wd = .ok (Instr.bsub a b d) := by
    simp only [decodeMicro, e0, e1, e2, e3, ofNat_of_toNat]
  intro _ w h
  have h := Option.some.inj h
  subst h
  obtain ⟨lt, f0, f1, f2, f3⟩ := encMicro_fields 7 a.toNat b.toNat d.toNat (by decide) a.isLt b.isLt d.isLt
  exact readMicro_of rfl lt (key _ f0 f1 f2 f3)
theorem bcmplt (a : BitVec 9) (b : BitVec 9) (d : BitVec 9) : Statement (Instr.bcmplt a b d) := by
  have key (wd : Nat) (e0 : bitsOf wd 31 27 = 8) (e1 : bitsOf wd 26 18 = a.toNat) (e2 : bitsOf wd 17 9 = b.toNat) (e3 : bitsOf wd 8 0 = d.toNat) : decodeMicro wd = .ok (Instr.bcmplt a b d) := by
    simp only [decodeMicro, e0, e1, e2, e3, ofNat_of_toNat]
  intro _ w h
  have h := Option.some.inj h
  subst h
  obtain ⟨lt, f0, f1, f2, f3⟩ := encMicro_fields 8 a.toNat b.toNat d.toNat (by decide) a.isLt b.isLt d.isLt
  exact readMicro_of rfl lt (key _ f0 f1 f2 f3)
theorem bcmpeq (a : BitVec 9) (b : BitVec 9) (d : BitVec 9) : Statement (Instr.bcmpeq a b d) := by
  have key (wd : Nat) (e0 : bitsOf wd 31 27 = 9) (e1 : bitsOf wd 26 18 = a.toNat) (e2 : bitsOf wd 17 9 = b.toNat) (e3 : bitsOf wd 8 0 = d.toNat) : decodeMicro wd = .ok (Instr.bcmpeq a b d) := by
    simp only [decodeMicro, e0, e1, e2, e3, ofNat_of_toNat]
  intro _ w h
  have h := Option.some.inj h
  subst h
  obtain ⟨lt, f0, f1, f2, f3⟩ := encMicro_fields 9 a.toNat b.toNat d.toNat (by decide) a.isLt b.isLt d.isLt
  exact readMicro_of rfl lt (key _ f0 f1 f2 f3)
theorem bsel (a : BitVec 9) (b : BitVec 9) (d : BitVec 9) : Statement (Instr.bsel a b d) := by
  have key (wd : Nat) (e0 : bitsOf wd 31 27 = 10) (e1 : bitsOf wd 26 18 = a.toNat) (e2 : bitsOf wd 17 9 = b.toNat) (e3 : bitsOf wd 8 0 = d.toNat) : decodeMicro wd = .ok (Instr.bsel a b d) := by
    simp only [decodeMicro, e0, e1, e2, e3, ofNat_of_toNat]
  intro _ w h
  have h := Option.some.inj h
  subst h
  obtain ⟨lt, f0, f1, f2, f3⟩ := encMicro_fields 10 a.toNat b.toNat d.toNat (by decide) a.isLt b.isLt d.isLt
  exact readMicro_of rfl lt (key _ f0 f1 f2 f3)
theorem bshl (a : BitVec 9) (b : BitVec 9) (d : BitVec 9) : Statement (Instr.bshl a b d) := by
  have key (wd : Nat) (e0 : bitsOf wd 31 27 = 11) (e1 : bitsOf wd 26 18 = a.toNat) (e2 : bitsOf wd 17 9 = b.toNat) (e3 : bitsOf wd 8 0 = d.toNat) : decodeMicro wd = .ok (Instr.bshl a b d) := by
    simp only [decodeMicro, e0, e1, e2, e3, ofNat_of_toNat]
  intro _ w h
  have h := Option.some.inj h
  subst h
  obtain ⟨lt, f0, f1, f2, f3⟩ := encMicro_fields 11 a.toNat b.toNat d.toNat (by decide) a.isLt b.isLt d.isLt
  exact readMicro_of rfl lt (key _ f0 f1 f2 f3)
theorem bshr (a : BitVec 9) (b : BitVec 9) (d : BitVec 9) : Statement (Instr.bshr a b d) := by
  have key (wd : Nat) (e0 : bitsOf wd 31 27 = 12) (e1 : bitsOf wd 26 18 = a.toNat) (e2 : bitsOf wd 17 9 = b.toNat) (e3 : bitsOf wd 8 0 = d.toNat) : decodeMicro wd = .ok (Instr.bshr a b d) := by
    simp only [decodeMicro, e0, e1, e2, e3, ofNat_of_toNat]
  intro _ w h
  have h := Option.some.inj h
  subst h
  obtain ⟨lt, f0, f1, f2, f3⟩ := encMicro_fields 12 a.toNat b.toNat d.toNat (by decide) a.isLt b.isLt d.isLt
  exact readMicro_of rfl lt (key _ f0 f1 f2 f3)
theorem bpopc (a : BitVec 9) (d : BitVec 9) : Statement (Instr.bpopc a d) := by
  have key (wd : Nat) (e0 : bitsOf wd 31 27 = 13) (e1 : bitsOf wd 26 18 = a.toNat) (e2 : bitsOf wd 17 9 = 0) (e3 : bitsOf wd 8 0 = d.toNat) : decodeMicro wd = .ok (Instr.bpopc a d) := by
    simp only [decodeMicro, e0, e1, e2, e3, ofNat_of_toNat, zeroed, if_true]
  intro _ w h
  have h := Option.some.inj h
  subst h
  obtain ⟨lt, f0, f1, f2, f3⟩ := encMicro_fields 13 a.toNat 0 d.toNat (by decide) a.isLt (by decide) d.isLt
  exact readMicro_of rfl lt (key _ f0 f1 f2 f3)
theorem bcopy (a : BitVec 9) (d : BitVec 9) : Statement (Instr.bcopy a d) := by
  have key (wd : Nat) (e0 : bitsOf wd 31 27 = 14) (e1 : bitsOf wd 26 18 = a.toNat) (e2 : bitsOf wd 17 9 = 0) (e3 : bitsOf wd 8 0 = d.toNat) : decodeMicro wd = .ok (Instr.bcopy a d) := by
    simp only [decodeMicro, e0, e1, e2, e3, ofNat_of_toNat, zeroed, if_true]
  intro _ w h
  have h := Option.some.inj h
  subst h
  obtain ⟨lt, f0, f1, f2, f3⟩ := encMicro_fields 14 a.toNat 0 d.toNat (by decide) a.isLt (by decide) d.isLt
  exact readMicro_of rfl lt (key _ f0 f1 f2 f3)
theorem bset (b : BitVec 9) (d : BitVec 9) : Statement (Instr.bset b d) := by
  have key (wd : Nat) (e0 : bitsOf wd 31 27 = 15) (e1 : bitsOf wd 26 18 = 0) (e2 : bitsOf wd 17 9 = b.toNat) (e3 : bitsOf wd 8 0 = d.toNat) : decodeMicro wd = .ok (Instr.bset b d) := by
    simp only [decodeMicro, e0, e1, e2, e3, ofNat_of_toNat, zeroed, if_true]
  intro _ w h
  have h := Option.some.inj h
  subst h
  obtain ⟨lt, f0, f1, f2, f3⟩ := encMicro_fields 15 0 b.toNat d.toNat (by decide) (by decide) b.isLt d.isLt
  exact readMicro_of rfl lt (key _ f0 f1 f2 f3)
theorem bcount (a : BitVec 9) (d : BitVec 9) : Statement (Instr.bcount a d) := by
  have key (wd : Nat) (e0 : bitsOf wd 31 27 = 16) (e1 : bitsOf wd 26 18 = a.toNat) (e2 : bitsOf wd 17 9 = 0) (e3 : bitsOf wd 8 0 = d.toNat) : decodeMicro wd = .ok (Instr.bcount a d) := by
    simp only [decodeMicro, e0, e1, e2, e3, ofNat_of_toNat, zeroed, if_true]
  intro _ w h
  have h := Option.some.inj h
  subst h
  obtain ⟨lt, f0, f1, f2, f3⟩ := encMicro_fields 16 a.toNat 0 d.toNat (by decide) a.isLt (by decide) d.isLt
  exact readMicro_of rfl lt (key _ f0 f1 f2 f3)
theorem bend : Statement Instr.bend := by
  have key (wd : Nat) (e0 : bitsOf wd 31 27 = 17) (e1 : bitsOf wd 26 18 = 0) (e2 : bitsOf wd 17 9 = 0) (e3 : bitsOf wd 8 0 = 0) : decodeMicro wd = .ok Instr.bend := by
    simp only [decodeMicro, e0, e1, e2, e3, zeroed, if_true]
  intro _ w h
  have h := Option.some.inj h
  subst h
  obtain ⟨lt, f0, f1, f2, f3⟩ := encMicro_fields 17 0 0 0 (by decide) (by decide) (by decide) (by decide)
  exact readMicro_of rfl lt (key _ f0 f1 f2 f3)
theorem circleWake (p : PathId) : Statement (Instr.circleWake p) := fun _ _ h => nomatch h
theorem waitbWake (p : PathId) : Statement (Instr.waitbWake p) := fun _ _ h => nomatch h
theorem idleWake (p : PathId) : Statement (Instr.idleWake p) := fun _ _ h => nomatch h
theorem yieldHoldExpire (p : PathId) : Statement (Instr.yieldHoldExpire p) := fun _ _ h => nomatch h
theorem pathOverdue (p : PathId) : Statement (Instr.pathOverdue p) := fun _ _ h => nomatch h
theorem ringCycle : Statement Instr.ringCycle := fun _ _ h => nomatch h
theorem injectorLapStart : Statement Instr.injectorLapStart := fun _ _ h => nomatch h
theorem pledgeRaise (core : Nat) : Statement (Instr.pledgeRaise core) := fun _ _ h => nomatch h
theorem priceTableUpdate (t : PriceArgs) : Statement (Instr.priceTableUpdate t) := fun _ _ h => nomatch h
theorem setPowerLimit (watts : Nat) : Statement (Instr.setPowerLimit watts) := fun _ _ h => nomatch h
theorem setWfw (w : Nat) : Statement (Instr.setWfw w) := fun _ _ h => nomatch h
theorem setClusterFrequency (cl : Nat) (mhz : Nat) : Statement (Instr.setClusterFrequency cl mhz) := fun _ _ h => nomatch h
theorem fllStep (cl : Nat) : Statement (Instr.fllStep cl) := fun _ _ h => nomatch h
theorem droopTrip (cl : Nat) : Statement (Instr.droopTrip cl) := fun _ _ h => nomatch h
theorem droopClear (cl : Nat) : Statement (Instr.droopClear cl) := fun _ _ h => nomatch h
theorem boostStep (g : Nat) (core : Nat) : Statement (Instr.boostStep g core) := fun _ _ h => nomatch h
theorem boostReturn (core : Nat) : Statement (Instr.boostReturn core) := fun _ _ h => nomatch h
theorem engineRampComplete (core : Nat) : Statement (Instr.engineRampComplete core) := fun _ _ h => nomatch h
theorem engineRampExpire (core : Nat) : Statement (Instr.engineRampExpire core) := fun _ _ h => nomatch h
theorem tailDoorbell (q : Nat) (v : BitVec 64) (size : Nat) : Statement (Instr.tailDoorbell q v size) := fun _ _ h => nomatch h
theorem headRegisterWrite (q : Nat) (v : BitVec 64) : Statement (Instr.headRegisterWrite q v) := fun _ _ h => nomatch h
theorem cardFetch (q : Nat) : Statement (Instr.cardFetch q) := fun _ _ h => nomatch h
theorem gangPlace (q : Nat) : Statement (Instr.gangPlace q) := fun _ _ h => nomatch h
theorem gangRetire (g : Nat) : Statement (Instr.gangRetire g) := fun _ _ h => nomatch h
theorem launchPost (q : Nat) : Statement (Instr.launchPost q) := fun _ _ h => nomatch h
theorem gclkAdvance (g : Nat) : Statement (Instr.gclkAdvance g) := fun _ _ h => nomatch h
theorem tclkAdvance (part : Nat) : Statement (Instr.tclkAdvance part) := fun _ _ h => nomatch h
theorem epochAdvance (inst : Nat) : Statement (Instr.epochAdvance inst) := fun _ _ h => nomatch h
theorem rateRemeasure (inst : Nat) (req : Nat) : Statement (Instr.rateRemeasure inst req) := fun _ _ h => nomatch h
theorem penaltyWindowClose (inst : Nat) (part : Nat) : Statement (Instr.penaltyWindowClose inst part) := fun _ _ h => nomatch h
theorem loadReturn (n : Nat) : Statement (Instr.loadReturn n) := fun _ _ h => nomatch h
theorem storePerform (g : Nat) (t : Nat) (n : Nat) : Statement (Instr.storePerform g t n) := fun _ _ h => nomatch h
theorem crossDomainWriteApply (dom : Nat) (n : Nat) : Statement (Instr.crossDomainWriteApply dom n) := fun _ _ h => nomatch h
theorem monitorFire (w : Watcher) : Statement (Instr.monitorFire w) := fun _ _ h => nomatch h
theorem monitorPoll (w : Watcher) : Statement (Instr.monitorPoll w) := fun _ _ h => nomatch h
theorem translationWalkComplete (n : Nat) : Statement (Instr.translationWalkComplete n) := fun _ _ h => nomatch h
theorem copyElement (w : Nat) (n : Nat) : Statement (Instr.copyElement w n) := fun _ _ h => nomatch h
theorem copyComplete (w : Nat) : Statement (Instr.copyComplete w) := fun _ _ h => nomatch h
theorem orderedGroupAdd (w : Nat) : Statement (Instr.orderedGroupAdd w) := fun _ _ h => nomatch h
theorem replayEntryRun (g : Nat) (n : Nat) : Statement (Instr.replayEntryRun g n) := fun _ _ h => nomatch h
theorem leaseStart (core : Nat) : Statement (Instr.leaseStart core) := fun _ _ h => nomatch h
theorem accumulationStep (core : Nat) : Statement (Instr.accumulationStep core) := fun _ _ h => nomatch h
theorem leaseExpire (core : Nat) : Statement (Instr.leaseExpire core) := fun _ _ h => nomatch h
theorem matrixComplete (w : Nat) : Statement (Instr.matrixComplete w) := fun _ _ h => nomatch h
theorem adapterStage (w : Nat) : Statement (Instr.adapterStage w) := fun _ _ h => nomatch h
theorem tilePassStart (w : Nat) (n : Nat) : Statement (Instr.tilePassStart w n) := fun _ _ h => nomatch h
theorem tilePassComplete (w : Nat) (n : Nat) : Statement (Instr.tilePassComplete w n) := fun _ _ h => nomatch h
theorem layerComplete (w : Nat) : Statement (Instr.layerComplete w) := fun _ _ h => nomatch h
theorem rceProbePass (stack : Nat) (tile : Nat) : Statement (Instr.rceProbePass stack tile) := fun _ _ h => nomatch h
theorem epochPublish (stack : Nat) : Statement (Instr.epochPublish stack) := fun _ _ h => nomatch h
theorem tileRefresh (stack : Nat) (tile : Nat) : Statement (Instr.tileRefresh stack tile) := fun _ _ h => nomatch h
theorem pinLapse (g : Nat) (region : Nat) : Statement (Instr.pinLapse g region) := fun _ _ h => nomatch h
theorem fieldConversionComplete (w : Nat) : Statement (Instr.fieldConversionComplete w) := fun _ _ h => nomatch h
theorem bsqJobStart (w : Nat) : Statement (Instr.bsqJobStart w) := fun _ _ h => nomatch h
theorem bsqJobComplete (w : Nat) : Statement (Instr.bsqJobComplete w) := fun _ _ h => nomatch h
theorem waysrelRelease (w : Nat) : Statement (Instr.waysrelRelease w) := fun _ _ h => nomatch h
theorem rowActivation (stack : Nat) (row : Nat) (source : Nat) : Statement (Instr.rowActivation stack row source) := fun _ _ h => nomatch h
theorem activationIntervalEnd (stack : Nat) (row : Nat) : Statement (Instr.activationIntervalEnd stack row) := fun _ _ h => nomatch h
theorem sequencerWatchdogReset (stack : Nat) : Statement (Instr.sequencerWatchdogReset stack) := fun _ _ h => nomatch h
theorem sequencerResetComplete (stack : Nat) : Statement (Instr.sequencerResetComplete stack) := fun _ _ h => nomatch h
theorem nearRegionEnd (p : PathId) : Statement (Instr.nearRegionEnd p) := fun _ _ h => nomatch h
theorem timerCompare : Statement Instr.timerCompare := fun _ _ h => nomatch h
theorem slotStart : Statement Instr.slotStart := fun _ _ h => nomatch h
theorem saveComplete (g : Nat) : Statement (Instr.saveComplete g) := fun _ _ h => nomatch h
theorem saveForce (g : Nat) : Statement (Instr.saveForce g) := fun _ _ h => nomatch h
theorem drain (scope : DrainScope) (deadline : Nat) : Statement (Instr.drain scope deadline) := fun _ _ h => nomatch h
theorem drainDeadline (scope : DrainScope) : Statement (Instr.drainDeadline scope) := fun _ _ h => nomatch h
theorem resume (scope : DrainScope) : Statement (Instr.resume scope) := fun _ _ h => nomatch h
theorem saveCommand (part : Nat) : Statement (Instr.saveCommand part) := fun _ _ h => nomatch h
theorem gangResume (g : Nat) : Statement (Instr.gangResume g) := fun _ _ h => nomatch h
theorem clusterLendable (cl : Nat) : Statement (Instr.clusterLendable cl) := fun _ _ h => nomatch h
theorem switchGroupBind (members : List Nat) (leader : Nat) : Statement (Instr.switchGroupBind members leader) := fun _ _ h => nomatch h
theorem switchTickSend : Statement Instr.switchTickSend := fun _ _ h => nomatch h
theorem switchTickReceive (slot : Nat) : Statement (Instr.switchTickReceive slot) := fun _ _ h => nomatch h
theorem savedMessage (m : Nat) (forced : Bool) : Statement (Instr.savedMessage m forced) := fun _ _ h => nomatch h
theorem setSlotLength (us : Nat) : Statement (Instr.setSlotLength us) := fun _ _ h => nomatch h
theorem poolEntryRelease (pool : Nat) (part : Nat) : Statement (Instr.poolEntryRelease pool part) := fun _ _ h => nomatch h
theorem partitionActivate (part : Nat) (pcb : Nat) : Statement (Instr.partitionActivate part pcb) := fun _ _ h => nomatch h
theorem partitionDeactivate (part : Nat) : Statement (Instr.partitionDeactivate part) := fun _ _ h => nomatch h
theorem update (part : Nat) (pcb : Nat) : Statement (Instr.update part pcb) := fun _ _ h => nomatch h
theorem queueEnable (q : Nat) (desc : Nat) : Statement (Instr.queueEnable q desc) := fun _ _ h => nomatch h
theorem queueDisable (q : Nat) : Statement (Instr.queueDisable q) := fun _ _ h => nomatch h
theorem keyMapMove (unit : Nat) (slot : Nat) : Statement (Instr.keyMapMove unit slot) := fun _ _ h => nomatch h
theorem usageIntervalClose (part : Nat) : Statement (Instr.usageIntervalClose part) := fun _ _ h => nomatch h
theorem signatureRecordWrite (part : Nat) : Statement (Instr.signatureRecordWrite part) := fun _ _ h => nomatch h
theorem logsign (part : Nat) : Statement (Instr.logsign part) := fun _ _ h => nomatch h
theorem loghead (part : Nat) (v : BitVec 64) : Statement (Instr.loghead part v) := fun _ _ h => nomatch h
theorem frhead (part : Nat) (v : BitVec 64) : Statement (Instr.frhead part v) := fun _ _ h => nomatch h
theorem frreplay (part : Nat) (v : BitVec 64) : Statement (Instr.frreplay part v) := fun _ _ h => nomatch h
theorem frfail (part : Nat) (v : BitVec 64) : Statement (Instr.frfail part v) := fun _ _ h => nomatch h
theorem registerWrite (vf : Nat) (off : Nat) (v : BitVec 64) : Statement (Instr.registerWrite vf off v) := fun _ _ h => nomatch h
theorem hostBar2Write (vf : Nat) (off : Nat) (data : List (BitVec 8)) : Statement (Instr.hostBar2Write vf off data) := fun _ _ h => nomatch h
theorem hostBar2Read (vf : Nat) (off : Nat) (len : Nat) : Statement (Instr.hostBar2Read vf off len) := fun _ _ h => nomatch h
theorem vfFlr (vf : Nat) : Statement (Instr.vfFlr vf) := fun _ _ h => nomatch h
theorem flitReceive (port : Nat) (flit : List (BitVec 8)) : Statement (Instr.flitReceive port flit) := fun _ _ h => nomatch h
theorem portFail (port : Nat) : Statement (Instr.portFail port) := fun _ _ h => nomatch h
theorem routeLossTimeout (m : Nat) : Statement (Instr.routeLossTimeout m) := fun _ _ h => nomatch h
theorem setModnum (m : Nat) : Statement (Instr.setModnum m) := fun _ _ h => nomatch h
theorem powerGood : Statement Instr.powerGood := fun _ _ h => nomatch h
theorem bootStepComplete (ok : Bool) : Statement (Instr.bootStepComplete ok) := fun _ _ h => nomatch h
theorem cert : Statement Instr.cert := fun _ _ h => nomatch h
theorem attest (part : Nat) (nonce : BitVec 512) : Statement (Instr.attest part nonce) := fun _ _ h => nomatch h
theorem imageKeyRegister (hash : BitVec 512) : Statement (Instr.imageKeyRegister hash) := fun _ _ h => nomatch h
theorem imgload (image : Nat) : Statement (Instr.imgload image) := fun _ _ h => nomatch h
theorem region (region : Nat) (parts : List Nat) : Statement (Instr.region region parts) := fun _ _ h => nomatch h
theorem powerSample (watts : Nat) : Statement (Instr.powerSample watts) := fun _ _ h => nomatch h
theorem thermalThrottle (sensor : Nat) : Statement (Instr.thermalThrottle sensor) := fun _ _ h => nomatch h
theorem throttleStep : Statement Instr.throttleStep := fun _ _ h => nomatch h
theorem thermalShutdown (sensor : Nat) : Statement (Instr.thermalShutdown sensor) := fun _ _ h => nomatch h
theorem powerLoss : Statement Instr.powerLoss := fun _ _ h => nomatch h
theorem portTrained (port : Nat) : Statement (Instr.portTrained port) := fun _ _ h => nomatch h

end Sys2Proof.Laws.RoundTrip
end

