-- ==== Sys2Proof/Laws/Vector.lean ====
section
/-!
SUPPORT. The shapes of vector instructions: what a lane-wise write does, and the one equation each shape satisfies when it runs.
-/

namespace Sys2Proof.Machine

/-! ### The state an instruction finds -/

@[simp] theorem State.bound_third (s : State) (b : Bound) (d : VReg) (l : Fin 32) : s.bound.third b d l = s.third b d l := by
  unfold State.third
  split <;> simp
@[simp] theorem State.bound_draw (s : State) : s.bound.tr.draw = s.tr.draw := by simp [State.bound]
@[simp] theorem State.bound_gid (s : State) (l : Fin 32) : s.bound.gid l = s.gid l := by simp [State.gid]
@[simp] theorem State.bound_drawn (s : State) (l : Fin 32) (n : Nat) : s.bound.drawn l n = s.drawn l n := by simp [State.drawn]
@[simp] theorem State.bound_rho (s : State) (l : Fin 32) (k : Nat) : s.bound.rho l k = s.rho l k := by simp [State.rho]
@[simp] theorem vmode_bound (b : Bound) (s : State) : vmode b s.bound = vmode b s := by simp [vmode]
@[simp] theorem wmask_bound (b : Bound) (s : State) : wmask b s.bound = wmask b s := by simp [wmask]
@[simp] theorem State.bound_tile (s : State) : s.bound.tile = s.tile := by simp [State.tile]
@[simp] theorem State.bound_base (s : State) (l : Fin 32) : s.bound.base l = s.base l := by simp [State.base]
@[simp] theorem State.bound_sameTile (s : State) (i j : Fin 32) : s.bound.sameTile i j = s.sameTile i j := by simp [State.sameTile]
@[simp] theorem State.bound_activeTile (s : State) (l : Fin 32) : s.bound.activeTile l = s.activeTile l := by simp [State.activeTile]

/-! ### A lane-wise write -/

@[simp] theorem State.writeLanes_pc (s : State) (b : Bound) (d : VReg) (f : Fin 32 → Word32) : (s.writeLanes b d f).pc = s.pc := by
  simp [State.writeLanes, State.pc]
@[simp] theorem State.writeLanes_cur (s : State) (b : Bound) (d : VReg) (f : Fin 32 → Word32) : (s.writeLanes b d f).cur = s.cur := by
  unfold State.writeLanes State.wV State.cur Troupe.slot
  cases s.sel <;> rfl
@[simp] theorem State.writeMask_cur (s : State) (b : Bound) (d : KReg) (p : Fin 32 → Bool) : (s.writeMask b d p).cur = s.cur := by
  unfold State.writeMask State.wK State.cur Troupe.slot
  cases s.sel <;> rfl
@[simp] theorem State.advanceDraws_cur' (s : State) (m : BitVec 32) (n : Nat) : (s.advanceDraws m n).cur = s.cur := by
  unfold State.advanceDraws State.cur Troupe.slot
  cases s.sel <;> rfl
@[simp] theorem State.drawFor_cur' (s : State) (b : Bound) (n : Nat) : (s.drawFor b n).cur = s.cur := by
  unfold State.drawFor
  split <;> simp
theorem State.writeGroup_cur (s : State) (b : Bound) (d : VReg) (f : Nat → Fin 32 → Word32) : ∀ n, (s.writeGroup b d f n).cur = s.cur
  | 0 => rfl
  | n + 1 => by rw [State.writeGroup, State.writeLanes_cur, State.writeGroup_cur s b d f n]
/-- The mask of a write and the mode of its rounding are those before it. -/
theorem vmode_writeLanes (b c : Bound) (s : State) (d : VReg) (f : Fin 32 → Word32) : vmode c (s.writeLanes b d f) = vmode c s := by
  simp [vmode]
theorem wmask_writeLanes (b c : Bound) (s : State) (d : VReg) (f : Fin 32 → Word32) : wmask c (s.writeLanes b d f) = wmask c s := by
  have h : (s.writeLanes b d f).tr.kreg = s.tr.kreg := rfl
  simp [wmask, State.rK, State.pmask, h]
theorem State.writeGroup_kreg (s : State) (b : Bound) (d : VReg) (f : Nat → Fin 32 → Word32) : ∀ n, (s.writeGroup b d f n).tr.kreg = s.tr.kreg
  | 0 => rfl
  | n + 1 => State.writeGroup_kreg s b d f n
theorem vmode_writeGroup (b c : Bound) (s : State) (d : VReg) (f : Nat → Fin 32 → Word32) (n : Nat) : vmode c (s.writeGroup b d f n) = vmode c s := by
  simp [vmode, State.writeGroup_cur]
theorem wmask_writeGroup (b c : Bound) (s : State) (d : VReg) (f : Nat → Fin 32 → Word32) (n : Nat) : wmask c (s.writeGroup b d f n) = wmask c s := by
  simp [wmask, State.rK, State.pmask, State.writeGroup_kreg, State.writeGroup_cur]
/-- What a rounding form draws (R171). -/
theorem State.drawFor_writeLanes (s : State) (b : Bound) (d : VReg) (f : Fin 32 → Word32) (n : Nat) :
    (s.writeLanes b d f).drawFor b n =
      if vmode b s = .sr then (s.writeLanes b d f).advanceDraws (wmask b s) ((n + 3) / 4) else s.writeLanes b d f := by
  unfold State.drawFor
  rw [vmode_writeLanes, wmask_writeLanes]
theorem State.drawFor_writeGroup (s : State) (b : Bound) (d : VReg) (f : Nat → Fin 32 → Word32) (m n : Nat) :
    (s.writeGroup b d f m).drawFor b n =
      if vmode b s = .sr then (s.writeGroup b d f m).advanceDraws (wmask b s) ((n + 3) / 4) else s.writeGroup b d f m := by
  unfold State.drawFor
  rw [vmode_writeGroup, wmask_writeGroup]

/-! ### The shapes -/

/-- A lane-wise write that completes. -/
theorem writeLanes_eq {i : Instr} {s : State} (h : RunsOn i s) (d : VReg) (f : Bound → State → Fin 32 → Word32) :
    simple i s (fun b s => s.writeLanes b d (f b s)) = .next (s.bound.writeLanes s.att d (f s.att s.bound)).onward :=
  simple_eq h _ (by simp)
theorem plainV_eq {i : Instr} {s : State} (h : RunsOn i s) (d : VReg) (g : Bound → State → Fin 32 → Word32) :
    plainV i d g s = .next (s.bound.writeLanes s.att d (g s.att s.bound)).onward := writeLanes_eq h d g
theorem binV_eq {i : Instr} {s : State} (h : RunsOn i s) (d a b : VReg) (f : Word32 → Word32 → Word32) :
    binV i d a b f s = .next (s.bound.writeLanes s.att d fun l => f (s.rV a l) (s.rV b l)).onward := by
  unfold binV
  rw [writeLanes_eq h]
  simp only [State.bound_rV]
theorem unV_eq {i : Instr} {s : State} (h : RunsOn i s) (d a : VReg) (f : Word32 → Word32) :
    unV i d a f s = .next (s.bound.writeLanes s.att d fun l => f (s.rV a l)).onward := by
  unfold unV
  rw [writeLanes_eq h]
  simp only [State.bound_rV]
theorem sfuV_eq {i : Instr} {s : State} (h : RunsOn i s) (d a : VReg) (f : Word32 → Word32) :
    sfuV i d a f s = .next (s.bound.writeLanes s.att d fun l => f (s.rV a l)).onward := unV_eq h d a f
theorem roundV_eq {i : Instr} {s : State} (h : RunsOn i s) (d : VReg) (g : RMode → Bound → State → Fin 32 → FVal) :
    roundV i d g s = .next ((s.bound.writeLanes s.att d fun l =>
      round32 (vmode s.att s) (s.rho l 0) (g (vmode s.att s) s.att s.bound l)).drawFor s.att 1).onward := by
  unfold roundV
  rw [simple_eq h _ (by simp [State.pc])]
  simp only [vmode_bound, State.bound_rho]
theorem roundP_eq {i : Instr} {s : State} (h : RunsOn i s) (f : Fmt) (d : VReg) (g : RMode → Bound → State → Fin 32 → Nat → FVal) :
    roundP i f d g s = .next ((s.bound.writeLanes s.att d fun l =>
      BitVec.ofNat 16 (f.round .plain (vmode s.att s) (s.rho l 1) (g (vmode s.att s) s.att s.bound l 1)) ++
        BitVec.ofNat 16 (f.round .plain (vmode s.att s) (s.rho l 0) (g (vmode s.att s) s.att s.bound l 0))).drawFor s.att 2).onward := by
  unfold roundP
  rw [simple_eq h _ (by simp [State.pc])]
  simp only [vmode_bound, State.bound_rho]
theorem codeP_eq {i : Instr} {s : State} (h : RunsOn i s) (d : VReg) (g : State → Fin 32 → Nat → Nat) :
    codeP i d g s = .next (s.bound.writeLanes s.att d fun l => BitVec.ofNat 16 (g s.bound l 1) ++ BitVec.ofNat 16 (g s.bound l 0)).onward :=
  writeLanes_eq h d fun _ s l => BitVec.ofNat 16 (g s l 1) ++ BitVec.ofNat 16 (g s l 0)
theorem shuffle_eq {i : Instr} {s : State} (h : RunsOn i s) (k : Shuffle) (d a : VReg) (n : State → Fin 32 → Nat) :
    shuffle i k d a n s = .next (s.bound.writeLanes s.att d fun l => s.rV a (s.bound.shuffleLane k l (n s.bound l))).onward := by
  unfold shuffle
  rw [writeLanes_eq h]
  simp only [State.bound_rV]

end Sys2Proof.Machine
end

