-- ==== Sys2Proof/Tests/Slice0.lean ====
section
/-!
SUPPORT. Tests: ill-formed terms the checks refuse, one word of every encoding, the spec's worked examples, and for every statement with hypotheses a
state and operands that meet them.
-/

namespace Sys2Proof.Tests
open Sys2Proof Machine

set_option Elab.async false

/-! ### Ill-formed terms (R36, R41, R176, R182, R201, R205, R220, R35) -/

theorem test_wf_bfx_len : (Instr.bfx 5 6 8 0).wellFormed = false ∧ (Instr.bfi 5 6 60 5).wellFormed = false ∧ (Instr.bfi 5 6 59 5).wellFormed = true := by
  decide
theorem test_wf_settile : (Instr.settile 3).wellFormed = false ∧ (Instr.settile 64).wellFormed = false ∧ (Instr.settile 16).wellFormed = true := by decide
theorem test_wf_mask_zero : (Instr.vcmpf .lt 0 2 3).wellFormed = false ∧ (Instr.vcmpi .lt 0 2 3).wellFormed = false ∧ (Instr.vmatch 0 2).wellFormed = false := by
  decide
theorem test_wf_topk : (Instr.vtopk 0 16 2 3).wellFormed = false ∧ (Instr.vtopk 9 16 2 3).wellFormed = false ∧ (Instr.vtopk 3 17 2 3).wellFormed = false := by
  decide
theorem test_wf_pfx : (Instr.pfx 2 1 7 8).wellFormed = false ∧ (Instr.pfx 2 1 6 8).wellFormed = true := by decide
theorem test_wf_groups : (Instr.vldd 17 2 3 0 0).wellFormed = false ∧ (Instr.vldq 18 2 3 0 0).wellFormed = false ∧ (Instr.vldq 20 2 3 0 0).wellFormed = true := by
  decide


/-! ### Every encoding (R34, R49, R50, R51, R53): the word is the opcode table's fixed bits with these operands in its fields -/

theorem test_decode_01 :
  decodeWord 0x02024A25 = .ok (Instr.add 9 20 37) ∧ decodeWord 0x02224A25 = .ok (Instr.sub 9 20 37) ∧
    decodeWord 0x02424A25 = .ok (Instr.mul 9 20 37) ∧ decodeWord 0x02624A25 = .ok (Instr.mulh 9 20 37) ∧
    decodeWord 0x02824A25 = .ok (Instr.mulhn 9 20 37) ∧ decodeWord 0x02A24A25 = .ok (Instr.div 9 20 37) ∧
    decodeWord 0x02C24A25 = .ok (Instr.divn 9 20 37) ∧ decodeWord 0x02E24A25 = .ok (Instr.rem 9 20 37) ∧
    decodeWord 0x03024A25 = .ok (Instr.remn 9 20 37) ∧ decodeWord 0x03224A25 = .ok (Instr.min 9 20 37) ∧
    decodeWord 0x03424A25 = .ok (Instr.max 9 20 37) ∧ decodeWord 0x03624A25 = .ok (Instr.minn 9 20 37) ∧
    decodeWord 0x03824A25 = .ok (Instr.maxn 9 20 37) := by
  refine ⟨?_, ?_, ?_, ?_, ?_, ?_, ?_, ?_, ?_, ?_, ?_, ?_, ?_⟩ <;> rfl
theorem test_decode_02 :
  decodeWord 0x04024A25 = .ok (Instr.and 9 20 37) ∧ decodeWord 0x04224A25 = .ok (Instr.or 9 20 37) ∧ decodeWord 0x04424A25 = .ok (Instr.xor 9 20 37) ∧
    decodeWord 0x04624A25 = .ok (Instr.andn 9 20 37) ∧ decodeWord 0x04824A25 = .ok (Instr.shl 9 20 37) ∧
    decodeWord 0x04A24A25 = .ok (Instr.shr 9 20 37) ∧ decodeWord 0x04C24A25 = .ok (Instr.sar 9 20 37) ∧
    decodeWord 0x04E24A25 = .ok (Instr.seq 9 20 37) ∧ decodeWord 0x05024A25 = .ok (Instr.sne 9 20 37) ∧
    decodeWord 0x05224A25 = .ok (Instr.slt 9 20 37) ∧ decodeWord 0x05424A25 = .ok (Instr.sltn 9 20 37) ∧
    decodeWord 0x05624A25 = .ok (Instr.sel 9 20 37) ∧ decodeWord 0x05824A00 = .ok (Instr.clz 9 20) ∧ decodeWord 0x05A24A00 = .ok (Instr.ctz 9 20) ∧
    decodeWord 0x05C24A00 = .ok (Instr.popc 9 20) ∧ decodeWord 0x05E24A00 = .ok (Instr.brev 9 20) := by
  refine ⟨?_, ?_, ?_, ?_, ?_, ?_, ?_, ?_, ?_, ?_, ?_, ?_, ?_, ?_, ?_, ?_⟩ <;> rfl
theorem test_decode_03 :
  decodeWord 0x0624A10C = .ok (Instr.bfx 9 20 8 12) := rfl
theorem test_decode_04 :
  decodeWord 0x0824A10C = .ok (Instr.bfi 9 20 8 12) := rfl
theorem test_decode_05 :
  decodeWord 0x0A24A5A1 = .ok (Instr.addi 9 20 1441) := rfl
theorem test_decode_06 :
  decodeWord 0x0C24A5A1 = .ok (Instr.andi 9 20 1441) := rfl
theorem test_decode_07 :
  decodeWord 0x0E24A5A1 = .ok (Instr.ori 9 20 1441) := rfl
theorem test_decode_08 :
  decodeWord 0x1024A5A1 = .ok (Instr.xori 9 20 1441) := rfl
theorem test_decode_09 :
  decodeWord 0x1224A021 = .ok (Instr.shli 9 20 33) := rfl
theorem test_decode_0A :
  decodeWord 0x1424A021 = .ok (Instr.shri 9 20 33) := rfl
theorem test_decode_0B :
  decodeWord 0x1624A021 = .ok (Instr.sari 9 20 33) := rfl
theorem test_decode_0C :
  decodeWord 0x1824A5A1 = .ok (Instr.slti 9 20 1441) := rfl
theorem test_decode_0D :
  decodeWord 0x1A256B43 = .ok (Instr.movi 9 92995) := rfl
theorem test_decode_0E :
  decodeWord 0x1C256B43 = .ok (Instr.addpc 9 92995) := rfl
theorem test_decode_0F :
  decodeWord 0x1E024A25 = .ok (Instr.sfaddF64 9 20 37) ∧ decodeWord 0x1E224A25 = .ok (Instr.sfsubF64 9 20 37) ∧
    decodeWord 0x1E424A25 = .ok (Instr.sfmulF64 9 20 37) ∧ decodeWord 0x1E624A25 = .ok (Instr.sffmaF64 9 20 37) ∧
    decodeWord 0x1E824A25 = .ok (Instr.sfdivF64 9 20 37) ∧ decodeWord 0x1EA24A25 = .ok (Instr.sfcmpF64 9 20 37) ∧
    decodeWord 0x1EC24A25 = .ok (Instr.sfcvtF64 9 20 37) ∧ decodeWord 0x1F024A25 = .ok (Instr.sfaddF32 9 20 37) ∧
    decodeWord 0x1F224A25 = .ok (Instr.sfsubF32 9 20 37) ∧ decodeWord 0x1F424A25 = .ok (Instr.sfmulF32 9 20 37) ∧
    decodeWord 0x1F624A25 = .ok (Instr.sffmaF32 9 20 37) ∧ decodeWord 0x1F824A25 = .ok (Instr.sfdivF32 9 20 37) ∧
    decodeWord 0x1FA24A25 = .ok (Instr.sfcmpF32 9 20 37) ∧ decodeWord 0x1FC24A25 = .ok (Instr.sfcvtF32 9 20 37) := by
  refine ⟨?_, ?_, ?_, ?_, ?_, ?_, ?_, ?_, ?_, ?_, ?_, ?_, ?_, ?_⟩ <;> rfl
theorem test_decode_10 :
  decodeWord 0x2024C187 = .ok (Instr.ldb 9 12 1 135) := rfl
theorem test_decode_11 :
  decodeWord 0x2224C187 = .ok (Instr.ldbs 9 12 1 135) := rfl
theorem test_decode_12 :
  decodeWord 0x2424C187 = .ok (Instr.ldh 9 12 1 135) := rfl
theorem test_decode_13 :
  decodeWord 0x2624C187 = .ok (Instr.ldhs 9 12 1 135) := rfl
theorem test_decode_14 :
  decodeWord 0x2824C187 = .ok (Instr.ldw 9 12 1 135) := rfl
theorem test_decode_15 :
  decodeWord 0x2A24C187 = .ok (Instr.ldws 9 12 1 135) := rfl
theorem test_decode_16 :
  decodeWord 0x2C24C187 = .ok (Instr.ldd 9 12 1 135) := rfl
theorem test_decode_17 :
  decodeWord 0x2E24C187 = .ok (Instr.stb 9 12 1 135) := rfl
theorem test_decode_18 :
  decodeWord 0x3024C187 = .ok (Instr.sth 9 12 1 135) := rfl
theorem test_decode_19 :
  decodeWord 0x3224C187 = .ok (Instr.stw 9 12 1 135) := rfl
theorem test_decode_1A :
  decodeWord 0x3424C187 = .ok (Instr.std 9 12 1 135) := rfl
theorem test_decode_1B :
  decodeWord 0x3612D687 = .ok (Instr.br 1234567) := rfl
theorem test_decode_1C :
  decodeWord 0x382535A1 = .ok (Instr.brc .nez 20 13729) := rfl
theorem test_decode_1D :
  decodeWord 0x3A12D687 = .ok (Instr.call 1234567) := rfl
theorem test_decode_1E :
  decodeWord 0x3C000A00 = .ok (Instr.callr 20) ∧ decodeWord 0x3C200000 = .ok (Instr.ret) ∧ decodeWord 0x3C400A00 = .ok (Instr.jmpr 20) ∧
    decodeWord 0x3C626180 = .ok (Instr.mfs 9 67) ∧ decodeWord 0x3C81CA00 = .ok (Instr.mts 7 20) ∧ decodeWord 0x3CA00000 = .ok (Instr.nop) ∧
    decodeWord 0x3CC01687 = .ok (Instr.brk 5767) ∧ decodeWord 0x3CE01687 = .ok (Instr.sys 5767) ∧ decodeWord 0x3D024000 = .ok (Instr.clk 9) ∧
    decodeWord 0x3D200000 = .ok (Instr.exit) ∧ decodeWord 0x3D400000 = .ok (Instr.yield) ∧ decodeWord 0x3D626180 = .ok (Instr.mfc 9 67) ∧
    decodeWord 0x3D81CA00 = .ok (Instr.mtc 7 20) := by
  refine ⟨?_, ?_, ?_, ?_, ?_, ?_, ?_, ?_, ?_, ?_, ?_, ?_, ?_⟩ <;> rfl
theorem test_decode_1F :
  decodeWord 0x3E000000 = .ok (Instr.eret) ∧ decodeWord 0x3E200A25 = .ok (Instr.tlbi 20 37) ∧ decodeWord 0x3E400000 = .ok (Instr.idle) := by
  refine ⟨?_, ?_, ?_⟩ <;> rfl
theorem test_decode_20 :
  decodeWord 0x40061448 = .ok (Instr.vaddF32 24 40 72) ∧ decodeWord 0x40261448 = .ok (Instr.vsubF32 24 40 72) ∧
    decodeWord 0x40461448 = .ok (Instr.vmulF32 24 40 72) ∧ decodeWord 0x40661448 = .ok (Instr.vfmaF32 24 40 72) ∧
    decodeWord 0x40861448 = .ok (Instr.vfmsF32 24 40 72) ∧ decodeWord 0x40A61448 = .ok (Instr.vfnmaF32 24 40 72) ∧
    decodeWord 0x40C61448 = .ok (Instr.vminF32 24 40 72) ∧ decodeWord 0x40E61448 = .ok (Instr.vmaxF32 24 40 72) ∧
    decodeWord 0x41061400 = .ok (Instr.vabsF32 24 40) ∧ decodeWord 0x41261400 = .ok (Instr.vnegF32 24 40) ∧
    decodeWord 0x41461448 = .ok (Instr.vscaleF32 24 40 72) ∧ decodeWord 0x41661400 = .ok (Instr.vgetexpF32 24 40) ∧
    decodeWord 0x41861400 = .ok (Instr.vrndF32 24 40) ∧ decodeWord 0x41A61448 = .ok (Instr.vclampF32 24 40 72) ∧
    decodeWord 0x41C61400 = .ok (Instr.vmovF32 24 40) := by
  refine ⟨?_, ?_, ?_, ?_, ?_, ?_, ?_, ?_, ?_, ?_, ?_, ?_, ?_, ?_, ?_⟩ <;> rfl
theorem test_decode_21 :
  decodeWord 0x42061448 = .ok (Instr.vaddF16x2 24 40 72) ∧ decodeWord 0x42261448 = .ok (Instr.vsubF16x2 24 40 72) ∧
    decodeWord 0x42461448 = .ok (Instr.vmulF16x2 24 40 72) ∧ decodeWord 0x42661448 = .ok (Instr.vfmaF16x2 24 40 72) ∧
    decodeWord 0x42861448 = .ok (Instr.vfmsF16x2 24 40 72) ∧ decodeWord 0x42A61448 = .ok (Instr.vfnmaF16x2 24 40 72) ∧
    decodeWord 0x42C61448 = .ok (Instr.vminF16x2 24 40 72) ∧ decodeWord 0x42E61448 = .ok (Instr.vmaxF16x2 24 40 72) ∧
    decodeWord 0x43061400 = .ok (Instr.vabsF16x2 24 40) ∧ decodeWord 0x43261400 = .ok (Instr.vnegF16x2 24 40) := by
  refine ⟨?_, ?_, ?_, ?_, ?_, ?_, ?_, ?_, ?_, ?_⟩ <;> rfl
theorem test_decode_22 :
  decodeWord 0x44061448 = .ok (Instr.vaddBf16x2 24 40 72) ∧ decodeWord 0x44261448 = .ok (Instr.vsubBf16x2 24 40 72) ∧
    decodeWord 0x44461448 = .ok (Instr.vmulBf16x2 24 40 72) ∧ decodeWord 0x44661448 = .ok (Instr.vfmaBf16x2 24 40 72) ∧
    decodeWord 0x44861448 = .ok (Instr.vfmsBf16x2 24 40 72) ∧ decodeWord 0x44A61448 = .ok (Instr.vfnmaBf16x2 24 40 72) ∧
    decodeWord 0x44C61448 = .ok (Instr.vminBf16x2 24 40 72) ∧ decodeWord 0x44E61448 = .ok (Instr.vmaxBf16x2 24 40 72) ∧
    decodeWord 0x45061400 = .ok (Instr.vabsBf16x2 24 40) ∧ decodeWord 0x45261400 = .ok (Instr.vnegBf16x2 24 40) := by
  refine ⟨?_, ?_, ?_, ?_, ?_, ?_, ?_, ?_, ?_, ?_⟩ <;> rfl
theorem test_decode_23 :
  decodeWord 0x46215448 = .ok (Instr.vcmpf .ne 5 40 72) := rfl
theorem test_decode_24 :
  decodeWord 0x48061448 = .ok (Instr.vaddI32 24 40 72) ∧ decodeWord 0x48261448 = .ok (Instr.vsubI32 24 40 72) ∧
    decodeWord 0x48461448 = .ok (Instr.vmulI32 24 40 72) ∧ decodeWord 0x48661448 = .ok (Instr.vmulh 24 40 72) ∧
    decodeWord 0x48861448 = .ok (Instr.vmulhn 24 40 72) ∧ decodeWord 0x48A61448 = .ok (Instr.vmad 24 40 72) ∧
    decodeWord 0x48C61448 = .ok (Instr.vminI32 24 40 72) ∧ decodeWord 0x48E61448 = .ok (Instr.vmaxI32 24 40 72) ∧
    decodeWord 0x49061448 = .ok (Instr.vminn 24 40 72) ∧ decodeWord 0x49261448 = .ok (Instr.vmaxn 24 40 72) ∧
    decodeWord 0x49461400 = .ok (Instr.vabsI32 24 40) ∧ decodeWord 0x49661400 = .ok (Instr.vnegI32 24 40) ∧
    decodeWord 0x49861448 = .ok (Instr.vaddsI32 24 40 72) ∧ decodeWord 0x49A61448 = .ok (Instr.vsubsI32 24 40 72) ∧
    decodeWord 0x49C61448 = .ok (Instr.vavgI32 24 40 72) := by
  refine ⟨?_, ?_, ?_, ?_, ?_, ?_, ?_, ?_, ?_, ?_, ?_, ?_, ?_, ?_, ?_⟩ <;> rfl
theorem test_decode_25 :
  decodeWord 0x4A061448 = .ok (Instr.vaddI16 24 40 72) ∧ decodeWord 0x4A261448 = .ok (Instr.vsubI16 24 40 72) ∧
    decodeWord 0x4A461448 = .ok (Instr.vaddsI16 24 40 72) ∧ decodeWord 0x4A661448 = .ok (Instr.vsubsI16 24 40 72) ∧
    decodeWord 0x4A861448 = .ok (Instr.vaddsN16 24 40 72) ∧ decodeWord 0x4AA61448 = .ok (Instr.vsubsN16 24 40 72) ∧
    decodeWord 0x4AC61448 = .ok (Instr.vavgI16 24 40 72) ∧ decodeWord 0x4AE61448 = .ok (Instr.vavgN16 24 40 72) ∧
    decodeWord 0x4B061448 = .ok (Instr.vaddI8 24 40 72) ∧ decodeWord 0x4B261448 = .ok (Instr.vsubI8 24 40 72) ∧
    decodeWord 0x4B461448 = .ok (Instr.vaddsI8 24 40 72) ∧ decodeWord 0x4B661448 = .ok (Instr.vsubsI8 24 40 72) ∧
    decodeWord 0x4B861448 = .ok (Instr.vaddsN8 24 40 72) ∧ decodeWord 0x4BA61448 = .ok (Instr.vsubsN8 24 40 72) ∧
    decodeWord 0x4BC61448 = .ok (Instr.vavgI8 24 40 72) ∧ decodeWord 0x4BE61448 = .ok (Instr.vavgN8 24 40 72) := by
  refine ⟨?_, ?_, ?_, ?_, ?_, ?_, ?_, ?_, ?_, ?_, ?_, ?_, ?_, ?_, ?_, ?_⟩ <;> rfl
theorem test_decode_26 :
  decodeWord 0x4C061448 = .ok (Instr.vand 24 40 72) ∧ decodeWord 0x4C261448 = .ok (Instr.vor 24 40 72) ∧
    decodeWord 0x4C461448 = .ok (Instr.vxor 24 40 72) ∧ decodeWord 0x4C661448 = .ok (Instr.vandn 24 40 72) ∧
    decodeWord 0x4C861448 = .ok (Instr.vshl 24 40 72) ∧ decodeWord 0x4CA61448 = .ok (Instr.vshr 24 40 72) ∧
    decodeWord 0x4CC61448 = .ok (Instr.vsar 24 40 72) ∧ decodeWord 0x4CE61400 = .ok (Instr.vpopc 24 40) ∧
    decodeWord 0x4D061400 = .ok (Instr.vclz 24 40) ∧ decodeWord 0x4D261400 = .ok (Instr.vbrev 24 40) ∧
    decodeWord 0x4D461448 = .ok (Instr.vbfx 24 40 72) ∧ decodeWord 0x4D661448 = .ok (Instr.vbfi 24 40 72) := by
  refine ⟨?_, ?_, ?_, ?_, ?_, ?_, ?_, ?_, ?_, ?_, ?_, ?_⟩ <;> rfl
theorem test_decode_27 :
  decodeWord 0x4EC61448 = .ok (Instr.vsel 6 24 40 72) := rfl
theorem test_decode_28 :
  decodeWord 0x50215448 = .ok (Instr.vcmpi .ne 5 40 72) := rfl
theorem test_decode_29 :
  decodeWord 0x52261401 = .ok (Instr.vcvt .f32ToN32 24 40 1) := rfl
theorem test_decode_2A :
  decodeWord 0x54061400 = .ok (Instr.vrcp 24 40) ∧ decodeWord 0x54261400 = .ok (Instr.vrsq 24 40) ∧ decodeWord 0x54461400 = .ok (Instr.vsqrt 24 40) ∧
    decodeWord 0x54661400 = .ok (Instr.vexp2 24 40) ∧ decodeWord 0x54861400 = .ok (Instr.vlog2 24 40) ∧
    decodeWord 0x54A61400 = .ok (Instr.vsin 24 40) ∧ decodeWord 0x54C61400 = .ok (Instr.vcos 24 40) ∧
    decodeWord 0x54E61400 = .ok (Instr.vtanh 24 40) ∧ decodeWord 0x55061400 = .ok (Instr.vsigm 24 40) := by
  refine ⟨?_, ?_, ?_, ?_, ?_, ?_, ?_, ?_, ?_⟩ <;> rfl
theorem test_decode_2B :
  decodeWord 0x56061448 = .ok (Instr.vdot4i 24 40 72) ∧ decodeWord 0x56261448 = .ok (Instr.vdot4n 24 40 72) ∧
    decodeWord 0x56461448 = .ok (Instr.vdot2bf 24 40 72) ∧ decodeWord 0x56661448 = .ok (Instr.vdot2h 24 40 72) := by
  refine ⟨?_, ?_, ?_, ?_⟩ <;> rfl
theorem test_decode_2C :
  decodeWord 0x58060A00 = .ok (Instr.vmovs 24 20) ∧ decodeWord 0x58260A00 = .ok (Instr.vmovsh 24 20) ∧ decodeWord 0x58460000 = .ok (Instr.vlane 24) ∧
    decodeWord 0x58660000 = .ok (Instr.vrand 24) ∧ decodeWord 0x58825425 = .ok (Instr.vext 9 40 37) := by
  refine ⟨?_, ?_, ?_, ?_, ?_⟩ <;> rfl
theorem test_decode_2D :
  decodeWord 0x5A616B43 = .ok (Instr.vmovi 24 92995) := rfl
theorem test_decode_40 :
  decodeWord 0x80061448 = .ok (Instr.vshflIdx 24 40 72) ∧ decodeWord 0x80261425 = .ok (Instr.vshflUp 24 40 37) ∧
    decodeWord 0x80461425 = .ok (Instr.vshflDown 24 40 37) ∧ decodeWord 0x80661425 = .ok (Instr.vshflXor 24 40 37) ∧
    decodeWord 0x80861425 = .ok (Instr.vshflBcast 24 40 37) ∧ decodeWord 0x81261401 = .ok (Instr.vshflUpImm 24 40 1) ∧
    decodeWord 0x81461401 = .ok (Instr.vshflDownImm 24 40 1) ∧ decodeWord 0x81661401 = .ok (Instr.vshflXorImm 24 40 1) ∧
    decodeWord 0x81861401 = .ok (Instr.vshflBcastImm 24 40 1) := by
  refine ⟨?_, ?_, ?_, ?_, ?_, ?_, ?_, ?_, ?_⟩ <;> rfl
theorem test_decode_41 :
  decodeWord 0x82024180 = .ok (Instr.vany 9 3) ∧ decodeWord 0x82224180 = .ok (Instr.vall 9 3) ∧ decodeWord 0x82424180 = .ok (Instr.vballot 9 3) ∧
    decodeWord 0x82615400 = .ok (Instr.vmatch 5 40) := by
  refine ⟨?_, ?_, ?_, ?_⟩ <;> rfl
theorem test_decode_42 :
  decodeWord 0x84261400 = .ok (Instr.vred .addF32 24 40) := rfl
theorem test_decode_43 :
  decodeWord 0x86261400 = .ok (Instr.vscan .addF32 24 40) := rfl
theorem test_decode_44 :
  decodeWord 0x88661448 = .ok (Instr.vtopk 3 24 40 72) := rfl
theorem test_decode_45 :
  decodeWord 0x8AC02B43 = .ok (Instr.brv 6 11075) := rfl
theorem test_decode_46 :
  decodeWord 0x8C12D687 = .ok (Instr.jpt 1234567) := rfl
theorem test_decode_47 :
  decodeWord 0x8E000000 = .ok (Instr.join) := rfl
theorem test_decode_48 :
  decodeWord 0x90C02B43 = .ok (Instr.bany 6 11075) ∧ decodeWord 0x91C02B43 = .ok (Instr.ball 6 11075) := by
  refine ⟨?_, ?_⟩ <;> rfl
theorem test_decode_49 :
  decodeWord 0x92000A00 = .ok (Instr.cjoin 20) ∧ decodeWord 0x92200A00 = .ok (Instr.cleave 20) ∧ decodeWord 0x92400A00 = .ok (Instr.carrive 20) ∧
    decodeWord 0x92600A00 = .ok (Instr.cwait 20) ∧ decodeWord 0x92800A00 = .ok (Instr.csync 20) ∧ decodeWord 0x92A24A00 = .ok (Instr.ccount 9 20) := by
  refine ⟨?_, ?_, ?_, ?_, ?_, ?_⟩ <;> rfl
theorem test_decode_4A :
  decodeWord 0x9402D687 = .ok (Instr.setfmt 185991) := rfl
theorem test_decode_4B :
  decodeWord 0x96000008 = .ok (Instr.settile 8) := rfl
theorem test_decode_50 :
  decodeWord 0xA060C90F = .ok (Instr.vldb 24 12 72 7 1) := rfl
theorem test_decode_51 :
  decodeWord 0xA260C90F = .ok (Instr.vldbs 24 12 72 7 1) := rfl
theorem test_decode_52 :
  decodeWord 0xA460C90F = .ok (Instr.vldh 24 12 72 7 1) := rfl
theorem test_decode_53 :
  decodeWord 0xA660C90F = .ok (Instr.vldhs 24 12 72 7 1) := rfl
theorem test_decode_54 :
  decodeWord 0xA860C90F = .ok (Instr.vldw 24 12 72 7 1) := rfl
theorem test_decode_55 :
  decodeWord 0xAA60C90F = .ok (Instr.vldd 24 12 72 7 1) := rfl
theorem test_decode_56 :
  decodeWord 0xAC60C90F = .ok (Instr.vldq 24 12 72 7 1) := rfl
theorem test_decode_57 :
  decodeWord 0xAE60C90F = .ok (Instr.vstb 24 12 72 7 1) := rfl
theorem test_decode_58 :
  decodeWord 0xB060C90F = .ok (Instr.vsth 24 12 72 7 1) := rfl
theorem test_decode_59 :
  decodeWord 0xB260C90F = .ok (Instr.vstw 24 12 72 7 1) := rfl
theorem test_decode_5A :
  decodeWord 0xB460C90F = .ok (Instr.vstd 24 12 72 7 1) := rfl
theorem test_decode_5B :
  decodeWord 0xB660C90F = .ok (Instr.vstq 24 12 72 7 1) := rfl
theorem test_decode_5C :
  decodeWord 0xB8262419 = .ok (Instr.amoa .addI64 24 72 12 1) := rfl
theorem test_decode_5D :
  decodeWord 0xBA262419 = .ok (Instr.amol .or 24 72 12 1) := rfl
theorem test_decode_5E :
  decodeWord 0xBC024A25 = .ok (Instr.samoadd 9 20 37) ∧ decodeWord 0xBC224A25 = .ok (Instr.samocas 9 20 37) ∧
    decodeWord 0xBC424A25 = .ok (Instr.samoswap 9 20 37) ∧ decodeWord 0xBC624A25 = .ok (Instr.samomax 9 20 37) ∧
    decodeWord 0xBCA00A25 = .ok (Instr.waitc .eq 20 37) ∧ decodeWord 0xBD000000 = .ok (Instr.fence) ∧ decodeWord 0xBD200A00 = .ok (Instr.cline 20) ∧
    decodeWord 0xBD400A00 = .ok (Instr.pf 20) ∧ decodeWord 0xBD624A00 = .ok (Instr.gaddr 9 20) := by
  refine ⟨?_, ?_, ?_, ?_, ?_, ?_, ?_, ?_, ?_⟩ <;> rfl
theorem test_decode_60 :
  decodeWord 0xC0261425 = .ok (Instr.copy .b8 24 40 37) := rfl
theorem test_decode_61 :
  decodeWord 0xC2261425 = .ok (Instr.copyr .addF32 24 40 37) := rfl
theorem test_decode_62 :
  decodeWord 0xC4024A25 = .ok (Instr.tcopy 9 20 37) ∧ decodeWord 0xC4224A25 = .ok (Instr.tcopyIn 9 20 37) ∧
    decodeWord 0xC4424A25 = .ok (Instr.tcopyOut 9 20 37) := by
  refine ⟨?_, ?_, ?_⟩ <;> rfl
theorem test_decode_63 :
  decodeWord 0xC6024A00 = .ok (Instr.shpw 9 20) ∧ decodeWord 0xC6200A00 = .ok (Instr.shpi 20) := by
  refine ⟨?_, ?_⟩ <;> rfl
theorem test_decode_64 :
  decodeWord 0xC8024000 = .ok (Instr.sealB 9) ∧ decodeWord 0xC8200A00 = .ok (Instr.waitb 20) := by
  refine ⟨?_, ?_⟩ <;> rfl
theorem test_decode_65 :
  decodeWord 0xCA024A25 = .ok (Instr.mma 9 20 37) ∧ decodeWord 0xCA224A25 = .ok (Instr.mmam 9 20 37) ∧
    decodeWord 0xCA424A25 = .ok (Instr.mmas 9 20 37) ∧ decodeWord 0xCA624A25 = .ok (Instr.mma2 9 20 37) ∧
    decodeWord 0xCA824A25 = .ok (Instr.acld 9 20 37) ∧ decodeWord 0xCAA24A25 = .ok (Instr.acst 9 20 37) ∧
    decodeWord 0xCAC00A25 = .ok (Instr.acz 20 37) ∧ decodeWord 0xCAE00000 = .ok (Instr.mrel) := by
  refine ⟨?_, ?_, ?_, ?_, ?_, ?_, ?_, ?_⟩ <;> rfl
theorem test_decode_66 :
  decodeWord 0xCC000A25 = .ok (Instr.layer 20 37) ∧ decodeWord 0xCC200A25 = .ok (Instr.layerx2 20 37) ∧
    decodeWord 0xCC400A25 = .ok (Instr.layert 20 37) ∧ decodeWord 0xCC624A00 = .ok (Instr.rceq 9 20) ∧ decodeWord 0xCC800A00 = .ok (Instr.rcepin 20) ∧
    decodeWord 0xCCA00A00 = .ok (Instr.rceunpin 20) := by
  refine ⟨?_, ?_, ?_, ?_, ?_, ?_⟩ <;> rfl
theorem test_decode_67 :
  decodeWord 0xCE000A25 = .ok (Instr.bsq 20 37) ∧ decodeWord 0xCE224A25 = .ok (Instr.ways 9 20 37) ∧ decodeWord 0xCE400A00 = .ok (Instr.waysrel 20) := by
  refine ⟨?_, ?_, ?_⟩ <;> rfl
theorem test_decode_68 :
  decodeWord 0xD0000A25 = .ok (Instr.launch 20 37) := rfl
theorem test_decode_69 :
  decodeWord 0xD2000A00 = .ok (Instr.migrate 20) ∧ decodeWord 0xD2200000 = .ok (Instr.home) := by
  refine ⟨?_, ?_⟩ <;> rfl
theorem test_decode_70 :
  decodeWord 0xE1B08000 = .ok (Instr.pfx 6 1 4 16) := rfl
theorem test_decode_71 :
  decodeWord 0xE2410000 = .ok (Instr.ord .gang .relaxed 1) := rfl
theorem test_decode_72 :
  decodeWord 0xE412D687 = .ok (Instr.limm 1234567) := rfl
theorem test_decode_73 :
  decodeWord 0xE6E96B43 = .ok (Instr.hint 7 617283) := rfl
theorem test_decode_microOps :
  decodeMicroOp 0x08840000 = .ok (Instr.bwid 33) ∧ decodeMicroOp 0x10840101 = .ok (Instr.bnot 33 257) ∧
    decodeMicroOp 0x18848D01 = .ok (Instr.band 33 70 257) ∧ decodeMicroOp 0x20848D01 = .ok (Instr.bor 33 70 257) ∧
    decodeMicroOp 0x28848D01 = .ok (Instr.bxor 33 70 257) ∧ decodeMicroOp 0x30848D01 = .ok (Instr.badd 33 70 257) ∧
    decodeMicroOp 0x38848D01 = .ok (Instr.bsub 33 70 257) ∧ decodeMicroOp 0x40848D01 = .ok (Instr.bcmplt 33 70 257) ∧
    decodeMicroOp 0x48848D01 = .ok (Instr.bcmpeq 33 70 257) ∧ decodeMicroOp 0x50848D01 = .ok (Instr.bsel 33 70 257) ∧
    decodeMicroOp 0x58840701 = .ok (Instr.bshl 33 3 257) ∧ decodeMicroOp 0x60840701 = .ok (Instr.bshr 33 3 257) ∧
    decodeMicroOp 0x68840101 = .ok (Instr.bpopc 33 257) ∧ decodeMicroOp 0x70840101 = .ok (Instr.bcopy 33 257) ∧
    decodeMicroOp 0x78000301 = .ok (Instr.bset 1 257) ∧ decodeMicroOp 0x80840101 = .ok (Instr.bcount 33 257) := by
  refine ⟨?_, ?_, ?_, ?_, ?_, ?_, ?_, ?_, ?_, ?_, ?_, ?_, ?_, ?_, ?_, ?_⟩ <;> rfl
theorem test_decode_microOps_1 :
  decodeMicroOp 0x88000000 = .ok (Instr.bend) := rfl
/-! ### The spec's worked examples, one step each -/

/-- A troupe alone on the module: all lanes active, every register at its launch value. -/
noncomputable def here (sys : Bool) : State := State.reset.placeTroupe 0 sys
/-- A page of 1 GiB from address 0, readable and writable, behind the page of the code. -/
def bigPage (part : Nat) : TlbEntry :=
  { place := 0, part := part, va := 0, ipa := 0, pa := 0, size := 30, r := true, w := true, x := false, mt := 0 }
/-- The same with 1 GiB of home memory at its own addresses; and for a system troupe. -/
noncomputable def ram : State := { here false with tlbs := (here false).tlbs ++ [bigPage 0] }
noncomputable def sysRam : State := { here true with tlbs := (here true).tlbs ++ [bigPage 63] }
def isNext (o : Out) : Bool :=
  match o with
  | .next _ => true
  | _ => false
/-- The operation answers, and its answer is as told. -/
def meets {ε α : Type} (x : Except ε α) (p : α → Bool) : Bool :=
  match x with
  | .ok a => p a
  | .error _ => false
noncomputable def withS (s : State) (l : List (SReg × Word64)) : State := l.foldl (fun s x => s.wS x.1 x.2) s
noncomputable def withV (s : State) (d : VReg) (f : Fin 32 → Word32) : State := s.writeLanes s.att d f
noncomputable def next (o : Out) : State :=
  match o with
  | .next t => t
  | _ => State.reset
noncomputable def sAfter (i : Instr) (s : State) (r : SReg) : Word64 := (next (exec i s)).rS r
noncomputable def vAfter (i : Instr) (s : State) (r : VReg) (l : Fin 32) : Word32 := (next (exec i s)).rV r l

noncomputable def edges : State := withS (here false) [(1, 0x8000000000000000), (2, .allOnes 64), (4, 7), (12, 65)]
/-- Worked example "integer edge cases" (05): the ten rows. -/
theorem test_integer_edges : sAfter (.div 5 1 2) edges 5 = 0x8000000000000000 ∧ sAfter (.rem 6 1 2) edges 6 = 0 ∧
    sAfter (.div 7 4 3) edges 7 = .allOnes 64 ∧ sAfter (.remn 8 4 3) edges 8 = 7 ∧ sAfter (.mulh 9 1 1) edges 9 = 0x4000000000000000 := by
  decide +kernel
theorem test_integer_edges_2 : sAfter (.mulhn 10 2 2) edges 10 = 0xFFFFFFFFFFFFFFFE ∧ sAfter (.sar 11 1 12) edges 11 = 0xC000000000000000 ∧
    sAfter (.clz 13 3) edges 13 = 64 ∧ sAfter (.slt 15 2 4) edges 15 = 1 ∧ sAfter (.sltn 14 2 4) edges 14 = 0 := by decide +kernel
/-- R12: s0 reads as zero and takes no write. -/
theorem test_zero_register : sAfter (.addi 0 4 5) edges 0 = 0 := by decide +kernel

noncomputable def floats : State :=
  withS (here false) [(6, 0x43E0000000000000), (9, 0x7FF8000000000000), (10, 0x7E37E43C8800759C), (8, 8), (16, 6), (17, 14)]
/-- Worked example "conversions at the edges" (05). -/
theorem test_conversions_at_the_edges : sAfter (.sfcvtF64 20 6 7) floats 20 = 0x8000000000000000 ∧
    sAfter (.sfcvtF64 21 6 8) floats 21 = 0x7FFFFFFFFFFFFFFF ∧ sAfter (.sfcvtF64 22 9 8) floats 22 = 0 := by decide +kernel
theorem test_conversions_at_the_edges_2 : sAfter (.sfcvtF64 23 10 16) floats 23 = 0x7F800000 ∧
    sAfter (.sfcvtF64 24 10 17) floats 24 = 0x7F7FFFFF ∧ sAfter (.sfcmpF64 25 9 6) floats 25 = 8 := by decide +kernel

/-- Worked example "one tie in every mode" (04): 1 + 2^-8 and its negation to BF16, with the random bits of SR named. -/
theorem test_one_tie_in_every_mode :
    ([(RMode.rne, 0), (.rtz, 0), (.rdn, 0), (.rup, 0), (.rna, 0), (.sr, 0x7FFF), (.sr, 0x8000)].map fun m =>
      (bf16.round .plain m.1 m.2 (val32 0x3F808000), bf16.round .plain m.1 m.2 (val32 0xBF808000))) =
    [(0x3F80, 0xBF80), (0x3F80, 0xBF80), (0x3F80, 0xBF81), (0x3F81, 0xBF80), (0x3F81, 0xBF81), (0x3F80, 0xBF80), (0x3F81, 0xBF81)] := by decide +kernel

noncomputable def e4m3 : State := withV (withV (withV (withV (here false) 4 fun _ => 0x3F800000) 5 fun _ => 0x43FA0000) 6 fun _ => 0xBA83126F) 7
  fun _ => 0x7FC00000
/-- Worked example "four values into E4M3" (07). -/
theorem test_four_values_into_e4m3 : vAfter (.vcvt .f32ToE4m3 9 4 0) e4m3 9 3 = 0x7F817F38 ∧ vAfter (.vcvt .f32ToE4m3 9 4 1) e4m3 9 3 = 0x7F817E38 := by
  decide +kernel

noncomputable def dots : State := withV (withV (withV (here false) 2 fun _ => 0x807F02FF) 3 fun _ => 0x02030405) 8 fun _ => 0x7FFFFFF0
/-- The two rows under R189. -/
theorem test_dots : vAfter (.vdot4i 8 2 3) dots 8 31 = 0x80000070 ∧ vAfter (.vdot4n 8 2 3) dots 8 0 = 0x80000770 := by decide +kernel

/-- The list (5.0, 7), (2.0, 3), (2.0, 9) with the candidate of a score and an index. -/
noncomputable def top (score index : Word32) : State :=
  [(16, 0x40A00000), (17, 0x40000000), (18, 0x40000000), (19, 7), (20, 3), (21, 9), (2, score), (3, index)].foldl
    (fun s (x : VReg × Word32) => withV s x.1 fun _ => x.2) (here false)
noncomputable def listAfter (score index : Word32) : List Word32 :=
  [16, 17, 18, 19, 20, 21].map fun r => vAfter (.vtopk 3 16 2 3) (top score index) r 1
/-- Worked example "ties and NaN in a top-3 list" (08): its first row, and its third and fourth from the first list. -/
theorem test_top3_tie : listAfter 0x40000000 4 = [0x40A00000, 0x40000000, 0x40000000, 7, 3, 4] := by decide +kernel
theorem test_top3_nan : listAfter 0x7FC00000 1 = [0x40A00000, 0x40000000, 0x40000000, 7, 3, 9] ∧
    listAfter 0x40C00000 11 = [0x40C00000, 0x40A00000, 0x40000000, 11, 7, 3] := by decide +kernel

noncomputable def stored : State :=
  next (exec (.stb 4 2 15 0) (next (exec (.std 3 2 15 0) (withS ram [(2, 0x10000000), (3, 0x1122334455667788), (4, 0xAB)]))))
/-- Worked example "bytes from several stores" (01): LDW and LDBS behind the two stores, and GCLK, which counts both. -/
theorem test_bytes_from_several_stores : sAfter (.ldw 5 2 15 0) stored 5 = 0x556677AB ∧ sAfter (.ldbs 6 2 15 0) stored 6 = 0xFFFFFFFFFFFFFFAB ∧
    sAfter (.mfs 7 1) stored 7 = 2 := by decide +kernel

/-- The four words at 0x2000_0000 of the example, here at 0x1000_0000; lanes 0 to 7 with their offsets. -/
noncomputable def added : State :=
  let s := withS ram [(4, 0x10000000)]
  let s := { s with mem := writeCells (writeCells (writeCells s.mem 0x10000000 4 5) 0x10000008 4 2) 0x1000000C 4 7 }
  let s := withV (withV s 10 fun _ => 1) 11 fun l => [0, 4, 0, 8, 4, 0, 12, 8].getD l.val 0
  s.setCur { s.cur with mask := 0xFF }
/-- Worked example "duplicate addresses in one atomic" (12): v10 after, in lanes 0 to 8. -/
theorem test_duplicate_addresses : ([0, 1, 2, 3, 4, 5, 6, 7, 8].map fun l => vAfter (.amoa .addI32 10 11 4 1) added 10 l) = [5, 0, 6, 2, 1, 7, 7, 3, 1] := by
  decide +kernel
theorem test_duplicate_addresses_memory : (let t := next (exec (.amoa .addI32 10 11 4 1) added)
    [0, 4, 8, 12].map fun o => t.loadNat 1 .device (.phys (0x10000000 + o) 0) 4) = [8, 2, 4, 8] := by decide +kernel

/-- Worked example "group rounding in the matrix engine" (04): one result element, 32 products of 1.0 in two groups. -/
theorem test_group_rounding : (let ones := List.replicate 16 (val32 0x3F800000)
    accumulate 0x4B800000 [ones] = 0x4B800008 ∧ accumulate 0x4B800000 [ones, ones] = 0x4B800010) := by decide +kernel

/-- R91: Mix of seed 0, id 0, counter 0, computed by hand from the five lines of the rule (the finalizer of 0x9E37_79B9_7F4A_7C15). -/
theorem test_mix : mix 0 0 0 = 0xE220A8397B1DCDAF := by decide +kernel

/-! ### For every statement with hypotheses, a state and operands that meet them -/

theorem witness_ScalarArithmetic : ∀ i ∈ ([.add 5 6 7, .sub 5 6 7, .mul 5 6 7, .mulh 5 6 7, .mulhn 5 6 7, .div 5 6 7, .divn 5 6 7, .rem 5 6 7, .remn 5 6 7, .min 5 6 7, .max 5 6 7,
    .minn 5 6 7, .maxn 5 6 7] : List Instr), RunsOn i (here false) := by
  unfold RunsOn Runs; decide +kernel

theorem witness_ScalarLogic : ∀ i ∈ ([.and 5 6 7, .or 5 6 7, .xor 5 6 7, .andn 5 6 7, .shl 5 6 7, .shr 5 6 7, .sar 5 6 7, .seq 5 6 7, .sne 5 6 7, .slt 5 6 7, .sltn 5 6 7,
    .sel 5 6 7, .clz 5 6, .ctz 5 6, .popc 5 6, .brev 5 6] : List Instr), RunsOn i (here false) := by
  unfold RunsOn Runs; decide +kernel

theorem witness_VectorIntegers : ∀ i ∈ ([.vaddI32 16 24 32, .vsubI32 16 24 32, .vmulI32 16 24 32, .vmulh 16 24 32, .vmulhn 16 24 32, .vmad 16 24 32, .vminI32 16 24 32,
    .vmaxI32 16 24 32, .vminn 16 24 32, .vmaxn 16 24 32, .vabsI32 16 24, .vnegI32 16 24, .vaddsI32 16 24 32, .vsubsI32 16 24 32,
    .vavgI32 16 24 32, .vand 16 24 32, .vor 16 24 32, .vxor 16 24 32, .vandn 16 24 32, .vshl 16 24 32, .vshr 16 24 32, .vsar 16 24 32,
    .vpopc 16 24, .vclz 16 24, .vbrev 16 24, .vbfx 16 24 32, .vbfi 16 24 32, .vsel 3 16 24 32, .vaddI16 16 24 32, .vsubI16 16 24 32,
    .vaddsI16 16 24 32, .vsubsI16 16 24 32, .vaddsN16 16 24 32, .vsubsN16 16 24 32, .vavgI16 16 24 32, .vavgN16 16 24 32, .vaddI8 16 24 32,
    .vsubI8 16 24 32, .vaddsI8 16 24 32, .vsubsI8 16 24 32, .vaddsN8 16 24 32, .vsubsN8 16 24 32, .vavgI8 16 24 32, .vavgN8 16 24 32] : List Instr), RunsOn i (here false) := by
  unfold RunsOn Runs; decide +kernel

theorem witness_VectorFloat : ∀ i ∈ ([.vaddF32 16 24 32, .vsubF32 16 24 32, .vmulF32 16 24 32, .vfmaF32 16 24 32, .vfmsF32 16 24 32, .vfnmaF32 16 24 32, .vdot2bf 16 24 32,
    .vdot2h 16 24 32, .vscaleF32 16 24 32, .vrndF32 16 24, .vsqrt 16 24, .vminF32 16 24 32, .vmaxF32 16 24 32, .vabsF32 16 24, .vnegF32 16 24,
    .vgetexpF32 16 24, .vmovF32 16 24, .vclampF32 16 24 32, .vdot4i 16 24 32, .vdot4n 16 24 32, .vaddF16x2 16 24 32, .vsubF16x2 16 24 32,
    .vmulF16x2 16 24 32, .vfmaF16x2 16 24 32, .vfmsF16x2 16 24 32, .vfnmaF16x2 16 24 32, .vminF16x2 16 24 32, .vmaxF16x2 16 24 32,
    .vabsF16x2 16 24, .vnegF16x2 16 24, .vaddBf16x2 16 24 32, .vsubBf16x2 16 24 32, .vmulBf16x2 16 24 32, .vfmaBf16x2 16 24 32,
    .vfmsBf16x2 16 24 32, .vfnmaBf16x2 16 24 32, .vminBf16x2 16 24 32, .vmaxBf16x2 16 24 32, .vabsBf16x2 16 24, .vnegBf16x2 16 24] : List Instr), RunsOn i (here false) := by
  unfold RunsOn Runs; decide +kernel

theorem witness_VectorCompares : ∀ i ∈ ([.vcmpf .eq 1 24 32, .vcmpf .ne 1 24 32, .vcmpf .lt 1 24 32, .vcmpf .le 1 24 32, .vcmpf .gt 1 24 32, .vcmpf .ge 1 24 32, .vcmpf .un 1 24 32,
    .vcmpf .or 1 24 32, .vcmpi .eq 1 24 32, .vcmpi .ne 1 24 32, .vcmpi .lt 1 24 32, .vcmpi .le 1 24 32, .vcmpi .gt 1 24 32, .vcmpi .ge 1 24 32,
    .vcmpi .ltn 1 24 32, .vcmpi .len 1 24 32, .vcmpi .gtn 1 24 32, .vcmpi .gen 1 24 32] : List Instr), RunsOn i (here false) := by
  unfold RunsOn Runs; decide +kernel

theorem witness_MovesAndConversions : ∀ i ∈ ([.vmovs 16 6, .vmovsh 16 6, .vlane 16, .vmovi 16 1, .vrand 16, .vext 5 24 7, .vrcp 16 24, .vrsq 16 24, .vexp2 16 24, .vlog2 16 24,
    .vsin 16 24, .vcos 16 24, .vtanh 16 24, .vsigm 16 24, .vcvt .f32ToI32 16 24 0, .vcvt .f32ToN32 16 24 0, .vcvt .i32ToF32 16 24 0,
    .vcvt .n32ToF32 16 24 0, .vcvt .f32ToF16 16 24 0, .vcvt .f16ToF32 16 24 0, .vcvt .f32ToBf16 16 24 0, .vcvt .bf16ToF32 16 24 0,
    .vcvt .f32ToE4m3 16 24 0, .vcvt .f32ToE5m2 16 24 0, .vcvt .e4m3ToF32 16 24 0, .vcvt .e5m2ToF32 16 24 0, .vcvt .f32ToE2m1 16 24 0,
    .vcvt .e2m1ToF32 16 24 0, .vcvt .f32ToI8 16 24 0, .vcvt .i8ToF32 16 24 0] : List Instr), RunsOn i (here false) := by
  unfold RunsOn Runs; decide +kernel

theorem witness_ShufflesAndVotes : ∀ i ∈ ([.vshflIdx 16 24 32, .vshflUp 16 24 7, .vshflDown 16 24 7, .vshflXor 16 24 7, .vshflBcast 16 24 7, .vshflUpImm 16 24 1,
    .vshflDownImm 16 24 1, .vshflXorImm 16 24 1, .vshflBcastImm 16 24 1, .vballot 5 2, .vany 5 2, .vall 5 2, .vmatch 1 24] : List Instr), RunsOn i (here false) := by
  unfold RunsOn Runs; decide +kernel
theorem witness_ImmediatesAndBitFields : (∀ i ∈ ([.addi 5 6 1, .andi 5 6 1, .ori 5 6 1, .xori 5 6 1, .slti 5 6 1, .shli 5 6 63, .shri 5 6 63, .sari 5 6 63,
      .movi 5 1, .addpc 5 1, .bfx 5 6 63 1, .bfi 5 6 63 1, .bfx 5 6 33 31] : List Instr), RunsOn i (here false)) ∧
    (here false).cur.live = true ∧ TrapsNow (here false) ∧ 64 < (63 : BitVec 6).toNat + (2 : BitVec 5).toNat := by
  unfold RunsOn Runs; decide +kernel

/-- A value in s7. -/
noncomputable def holding (c : Nat) : State := withS (here false) [(7, .ofNat 64 c)]
noncomputable def holdingSys (c : Nat) : State := withS (here true) [(7, .ofNat 64 c)]

theorem witness_ScalarFloatingPoint : (∀ i ∈ ([.sfaddF64 5 6 7, .sfsubF64 5 6 7, .sfmulF64 5 6 7, .sffmaF64 5 6 7, .sfdivF64 5 6 7, .sfcmpF64 5 6 7,
      .sfaddF32 5 6 7, .sfsubF32 5 6 7, .sfmulF32 5 6 7, .sffmaF32 5 6 7, .sfdivF32 5 6 7, .sfcmpF32 5 6 7, .sfcvtF64 5 6 7, .sfcvtF32 5 6 7] : List Instr),
      RunsOn i (here false)) ∧
    (∀ c ∈ [6, 14, 15, 16], Runs (formOf (.sfcvtF64 5 6 7)) (holding c) ∧ TrapsNow (holding c) ∧ (holding c).pc ≠ topPc ∧
      (holding c).rS 7 = .ofNat 64 c) := by
  unfold RunsOn Runs; decide +kernel

theorem witness_ScalarFrame : Instr.scalarDest (.clk 5) = some 5 ∧ RunsOn (.clk 5) (here false) ∧ isNext (exec (.clk 5) (here false)) = true := by
  unfold RunsOn Runs; decide +kernel

/-- Not taken; taken to target 0, the lowest; taken below it; calls to the highest target and above it. -/
theorem witness_ControlTransfers :
    (∀ i ∈ ([.br (-0x400), .brc .eqz 6 (-0x400), .brc .nez 6 0, .brc .ltz 6 0, .brc .gez 6 (-0x401), .brc .lez 6 1, .brc .gtz 6 1, .bany 3 1,
       .bany 0 1, .ball 3 1, .ball 0 1] : List Instr), Runs (formOf i) (here false)) ∧ (here false).pc ≠ topPc ∧ TrapsNow (here false) ∧
    (let t (f : Word64) := (here false).pc.setWidth 64 + 4 * f
     t (-0x400) = 0 ∧ ¬ ((t (-0x401)).toNat < 2 ^ 48) ∧ (here false).rK 3 &&& (here false).cur.mask = 0 ∧ (here false).rS 6 = 0) ∧
    (let s := withS (here false) [(6, 0xFFFFFFFFFFFC), (7, 0x1000000000000), (62, 2)]
     (∀ i ∈ ([.callr 6, .callr 7, .jmpr 6, .jmpr 7, .ret, .call 1] : List Instr), Runs (formOf i) s) ∧ (s.rS 6).toNat < 2 ^ 48 ∧ (s.rS 6).toNat % 4 = 0 ∧
       ¬ (s.rS 7).toNat < 2 ^ 48 ∧ (s.rS 62).toNat % 4 ≠ 0 ∧ TrapsNow s) := by
  unfold Runs; decide +kernel

theorem witness_RegisterReads : (∀ n ∈ List.range 12, RunsOn (.mfs 5 (.ofNat 7 n)) (here false)) ∧
    RunsOn (.clk 5) (here false) ∧ Runs (formOf (.mfs 5 12)) (here false) ∧ TrapsNow (here false) ∧
    (∀ n ∈ List.range 11, RunsOn (.mfc 5 (.ofNat 7 n)) (here true)) ∧ Runs (formOf (.mfc 5 11)) (here true) ∧
    TrapsNow (here true) := by unfold RunsOn Runs; decide +kernel

/-- Each writable register with a legal value and, where there is one, a value next to it that is not legal. -/
theorem witness_RegisterWrites :
    (∀ x ∈ [(5, 0), (6, 32), (7, 128), (11, 4)], RunsOn (.mts (.ofNat 7 x.1) 7) (holding x.2)) ∧
    (∀ x ∈ [(5, 6), (6, 33), (7, 129), (11, 2), (0, 0), (12, 0)], Runs (formOf (.mts (.ofNat 7 x.1) 7)) (holding x.2) ∧ TrapsNow (holding x.2)) ∧
    legalFmt32 0 = true ∧ legalFmt32 6 = false ∧
    (∀ x ∈ [(0, 4), (1, 0xFFFFFFFFFF00), (2, 4), (3, 0), (4, 0), (5, 0xFF), (6, 15), (7, 0), (8, 0xFFFFFFFFF000), (10, 0)],
      RunsOn (.mtc (.ofNat 7 x.1) 7) (holdingSys x.2)) ∧
    (∀ x ∈ [(0, 2), (1, 0x1000000000000), (2, 2), (3, 0x4000000000000), (4, 0x4000000000000), (6, 16), (8, 2048), (9, 0), (11, 0)],
      Runs (formOf (.mtc (.ofNat 7 x.1) 7)) (holdingSys x.2) ∧ TrapsNow (holdingSys x.2)) := by
  unfold RunsOn Runs; decide +kernel

theorem witness_SoftwareTrapsAndReturns : Runs (formOf (.brk 0x123)) (here false) ∧ Runs (formOf (.sys 1)) (here false) ∧ TrapsNow (here false) ∧
    Runs (formOf .eret) (here true) ∧ (here true).ctl.sepc.toNat % 4 = 0 ∧
    (let s : State := { here true with ctl := { (here true).ctl with sepc := 2 } }
     Runs (formOf .eret) s ∧ s.ctl.sepc.toNat % 4 ≠ 0 ∧ TrapsNow s) := by unfold Runs; decide +kernel

/-- A path beside a sibling whose instruction has issued and waits for a walk. -/
noncomputable def besideWalk : State := (here false).setSibling { live := true, mask := 1, walking := true, waits := true, issued := some 0 }
/-- The trap finds a vector, its frame's base a page, and the troupe its privilege afterwards. -/
noncomputable def entering (s : State) (e : ErrRec) : Bool :=
  let s0 := ((s.setCur { s.cur with walking := false, issued := none, hand := false, wrap := none }).dropWide s.mine).dropLease
  let s1 := if e.cause = 11 then s0.machineCheck s0.req.core s0.gg.part e.mcpa e.aux.toNat true else s0
  let base : Word64 := if s1.gg.sys then s1.ctl.stframe else 0xFFFFFE0000000000
  (if s1.gg.sys then s1.ctl.stvec else s1.tr.trapvec) != 0 && s1.gg.err.isNone && meets (s1.placeBy true none 0 base .write) fun x =>
    (x.2.lane0Write false base x.1 256 (frameNat (s.fillRec e) (x.2.rS 61))).gg.sys == s1.gg.sys
/-- A user troupe with a vector and a system troupe with one, on a software trap and on a machine check; no vector, and an error already; a trap that
waits and one that does not, behind a sibling's trap in hand that issued first or later. -/
theorem witness_TrapEntryAndFrame :
    ([1, 9, 11].all fun c => entering { ram with tr := { ram.tr with trapvec := 0x2000 } } { cause := c } &&
      entering { sysRam with ctl := { sysRam.ctl with stvec := 0x2000, stframe := 0x10000000 } } { cause := c }) = true ∧
    ((here false).tr.trapvec = 0 ∧ (here true).ctl.stvec = 0 ∧ (here false).gg.err = none) ∧
    ((here false).cur.near = none ∧ (here false).sibling.live = false ∧ (here false).heldBack 1 = false) ∧
    (besideWalk.cur.near = none ∧ besideWalk.sibling.live = true ∧ besideWalk.sibling.frozen = false ∧ besideWalk.sibling.issued = some 0 ∧
      besideWalk.sibling.hand = false) ∧
    ([(1, true), (0, false)].all fun c =>
      let s := (besideWalk.setSibling { besideWalk.sibling with hand := true }).setCur { besideWalk.cur with issued := some c.1 }
      decide (s.sibling.issued.getD 0 < s.cur.issued.getD s.cycle) == c.2) = true := by decide +kernel

/-- The state with attachments pending. -/
noncomputable def pended (p : Pend) : State := (here false).setCur { (here false).cur with att := p }
/-- An ORD of an order and an nd at device scope, a PFX of a vc and a rounding mode. -/
def ordBits (order nd : Nat) : BitVec 25 := .ofNat 25 (2 * 2 ^ 22 + order * 2 ^ 20 + nd * 2 ^ 16)
def pfxBits (rm vc : Nat) : BitVec 25 := .ofNat 25 (rm * 2 ^ 18 + vc * 2 ^ 11)
/-- One instruction for each reason the rules give, and none for the same at its legal neighbour. -/
theorem witness_IllegalInstructions :
    ((here false).gg.sys = false ∧ (here false).cur.live = true ∧ TrapsNow (here false)) ∧
    ([(Instr.settile 3, {}, true), (.settile 4, {}, false), (.idle, {}, true), (.vaddI32 16 24 32, { pfx := some (pfxBits 1 0) }, true),
      (.vaddF32 16 24 32, { pfx := some (pfxBits 1 0) }, false), (.vclz 16 24, { pfx := some (pfxBits 0 7) }, true),
      (.add 5 6 7, { pfx := some 0 }, true), (.add 5 6 7, { ord := some (ordBits 0 15) }, true), (.ldd 5 6 1 1, { ord := some (ordBits 2 15) }, true),
      (.ldd 5 6 1 1, { ord := some (ordBits 1 15) }, false), (.std 5 6 1 1, { ord := some (ordBits 1 15) }, true), (.std 5 6 1 1, { ord := some (ordBits 2 15) }, false),
      (.ldd 5 6 1 1, { ord := some (ordBits 1 3) }, true), (.waitc .eq 6 7, { ord := some (ordBits 2 15) }, true), (.fence, { ord := some (ordBits 0 15) }, true),
      (.vaddF32 16 24 32, { limm := some 0 }, true), (.ldd 5 6 1 1, { limm := some 0 }, false)].all fun (x : Instr × Pend × Bool) =>
        step3Ok (formOf x.1) (pended x.2.1) == !x.2.2) = true ∧
    ([(Instr.vaddF32 15 2 3, 0, true), (.vaddF32 16 2 3, 0, false), (.vldq 12 6 2 15 0, 0, true), (.vldq 14 6 2 15 0, 0, false), (.vfmaF32 3 4 5, 15, true),
       (.vfmaF32 3 4 5, 16, false)].all fun (x : Instr × Nat × Bool) =>
        let s := if x.2.1 = 0 then here false else pended { pfx := some (pfxBits 0 x.2.1) }
        step3Ok (formOf x.1) { s with gg := { s.gg with vregs := 16 } } == x.2.2) = true ∧
    TrapsNow (pended { ord := some 0 }) := by decide +kernel

/-- Pending and not; below and at the top of memory; every kind of TLBI and the first that is none. -/
theorem witness_AttachmentsAndHints :
    (here false).cur.live = true ∧ (here false).cur.att.pfx = none ∧ (here false).pc ≠ topPc ∧ TrapsNow (here false) ∧
    (let s := (here false).setCur { (here false).cur with att := { pfx := some 0, ord := some 0, limm := some 0, hint := some 0 } }
     s.cur.live = true ∧ s.cur.att.pfx.isSome ∧ s.cur.att.ord.isSome ∧ s.cur.att.limm.isSome ∧ s.cur.att.hint.isSome) ∧
    Runs (formOf .nop) (here false) ∧
    (let s := (here false).setCur { (here false).cur with pc := topPc }
     Runs (formOf .nop) s ∧ s.pc = topPc ∧ TrapsNow s ∧ TrapsNow s.bound) ∧
    (let s := besideWalk.setCur { besideWalk.cur with pc := topPc }
     Runs (formOf .nop) s ∧ s.pc = topPc ∧ s.cur.near = none ∧ s.bound.trapWaits = true) ∧
    RunsOn .yield (here false) ∧ RunsOn .idle (here true) ∧ (here true).ctl.event &&& (here true).ctl.evmask = 0 ∧
    (let s : State := { here true with ctl := { (here true).ctl with event := 4, evmask := 4 } }
     RunsOn .idle s ∧ s.ctl.event &&& s.ctl.evmask ≠ 0) ∧
    (∀ k ∈ List.range 6, Runs (formOf (.tlbi 6 7)) (holdingSys k)) ∧ TrapsNow (here true) := by
  unfold RunsOn Runs; decide +kernel

/-- Asynchronous work with ORD acquire whose reads have not bound (R344). -/
def acquiring : Work :=
  { uid := 9, gang := 1, troupe := 0, batch := 1, lanes := .allOnes 32, core := 0, part := 0, sys := false, mode := { order := .acquire },
    kind := .copy { kind := .copy, z := 4, n := 1, elems := [(0, .flat 0x10000000, .flat 0x10000100, 0)] } }
noncomputable def held (s : State) : State := { s with works := [acquiring] }

noncomputable def split : State := { ram with tr := { ram.tr with kreg := ram.tr.kreg.set 1 0xFF } }
noncomputable def sideOn : State := split.setSibling { live := true, pc := 0x2000, mask := 0xFF000000 }
/-- No lane taken, every lane, some with the other slot free and with it taken, and a target below 0. -/
theorem witness_PathSplits : RunsOn (.brv 2 1) split ∧ split.cur.mask &&& split.rK 2 = 0 ∧ Runs (formOf (.brv 0 1)) split ∧
    split.cur.mask &&& ~~~split.rK 0 = 0 ∧ Runs (formOf (.brv 1 1)) split ∧ split.cur.mask &&& split.rK 1 = 0xFF ∧ TrapsNow split ∧
    split.sibling.live = false ∧ split.cur.near = none ∧ split.bound.heldBack 1 = false ∧ sideOn.bound.heldBack 1 = false ∧
    ((held split).bound.heldBack 1 = true ∧ Runs (formOf (.brv 1 1)) (held split)) ∧
    (meets (split.bound.writeEntry 0 { kind := 1, mask := split.bound.cur.mask }) fun u => !u.sibling.live && u.cur.near == none) ∧
    Runs (formOf (.brv 1 (-0x401))) split ∧ Runs (formOf (.brv 1 1)) sideOn ∧ sideOn.sibling.live = true ∧
    (meets (sideOn.bound.writeEntry 0 { kind := 1, mask := sideOn.bound.cur.mask }) fun u => u.sibling.live &&
      meets (({ u with tr := { u.tr with psp := 1 } } : State).writeEntry 1 { kind := 2, pc := 0x1004, mask := 0xFF, link := 1 }) fun _ => true) := by
  unfold RunsOn Runs; decide +kernel

/-- After the split above: the issuing path at 0x1004 in frame 1, its entry's join PC 0, or 0x1004. -/
noncomputable def inFrame (jpc : BitVec 48) : State := next (exec (.brv 1 1) (split.setCur { split.cur with jpc := jpc }))
theorem witness_JoinsAndEnds : RunsOn (.jpt (-0x400)) (here false) ∧ Runs (formOf (.jpt (-0x401))) (here false) ∧ TrapsNow (here false) ∧
    RunsOn .join (here false) ∧ (here false).cur.frame = 0 ∧
    Runs (formOf .join) (inFrame 0) ∧ (inFrame 0).cur.frame ≠ 0 ∧
    (meets ((inFrame 0).bound.readEntryRaw ((inFrame 0).cur.frame.toNat - 1)) fun x => (PathEntry.ofNat x.1).jpc != x.2.pc) ∧
    Runs (formOf .join) (inFrame 0x1004) ∧ (inFrame 0x1004).cur.frame ≠ 0 ∧
    (meets ((inFrame 0x1004).bound.readEntryRaw 0) fun x =>
      let p := PathEntry.ofNat x.1
      let e : PathEntry := { p with arrived := p.arrived ||| x.2.cur.mask }
      p.jpc == x.2.pc && p.valid 1 0 && e.arrived != e.mask && meets (x.2.writeEntry 0 e) fun v => meets v.freeSlot fun _ => true) ∧
    (let s := (inFrame 0x1004).setCur { (inFrame 0x1004).cur with mask := .allOnes 32 }
     Runs (formOf .join) s ∧ (meets (s.bound.readEntryRaw 0) fun x =>
      let p := PathEntry.ofNat x.1
      let e : PathEntry := { p with arrived := p.arrived ||| x.2.cur.mask }
      p.jpc == x.2.pc && p.valid 1 0 && e.arrived == e.mask && meets (x.2.linkJpc e.link.toNat) fun v => meets (v.2.releaseEntry 0 e) fun _ => true)) ∧
    ((inFrame 0).bound.heldBack 1 = false ∧ (held (inFrame 0)).bound.heldBack 1 = true ∧ Runs (formOf .join) (held (inFrame 0)) ∧ Runs (formOf .exit) (held (inFrame 0))) ∧
    (Runs (formOf .exit) (inFrame 0) ∧ (meets ((inFrame 0).bound.shrinkChain (inFrame 0).cur.mask 2 1) fun u => meets (u.settleChain 2 1) fun x =>
      !x.1 && meets x.2.freeSlot fun _ => true)) ∧
    (let s := (inFrame 0).setCur { (inFrame 0).cur with mask := .allOnes 32 }
     meets (s.bound.shrinkChain s.cur.mask 2 1) fun u => meets (u.settleChain 2 1) fun x => !x.1 && meets x.2.freeSlot fun _ => true) ∧
    (meets ((inFrame 0).bound.writeEntry 0 { kind := 1, jpc := 0x2000, mask := .allOnes 32, arrived := 0xFF }) fun t =>
      meets (t.shrinkChain (t.cur.mask) 2 1) fun u => meets (u.settleChain 2 1) fun x => x.1) ∧
    Runs (formOf .exit) (here false) ∧ (here false).tr.psp = 0 ∧ (here false).sibling.live = false ∧
    (let s := (here false).setSibling { live := true, mask := 1 }
     Runs (formOf .exit) s ∧ s.cur.frame = 0 ∧ s.tr.psp = 0 ∧ s.sibling.live = true) := by
  unfold RunsOn Runs; decide +kernel

/-- A troupe that is in circle 31 and owes it an arrival or not, beside another member or alone. -/
noncomputable def circled (member arrived : BitVec 512) : State := (withS (here false) [(6, 31), (7, 32)]).setCircle 31 { member := member, arrived := arrived, phase := false }
theorem witness_Circles : (∀ i ∈ ([.cjoin 7, .cleave 7, .carrive 7, .cwait 7, .csync 7, .ccount 5 7] : List Instr), Runs (formOf i) (circled 3 0)) ∧
    TrapsNow (circled 3 0) ∧ ((circled 3 0).rS 7).toNat = 32 ∧
    (∀ i ∈ ([.cjoin 6, .cleave 6, .carrive 6, .csync 6, .cwait 6, .ccount 5 6, .cjoin 0] : List Instr), RunsOn i (circled 3 0)) ∧
    Runs (formOf (.cleave 0)) (circled 3 0) ∧ ((circled 3 0).rS 6).toNat = 31 ∧
    ((circled 2 0).bound.isMember 31 = false ∧ Runs (formOf (.carrive 6)) (circled 2 0)) ∧
    ((circled 3 1).bound.isMember 31 = true ∧ (circled 3 1).bound.owed 31 = true ∧ RunsOn (.csync 6) (circled 3 1) ∧ RunsOn (.cwait 6) (circled 3 1)) ∧
    ((circled 3 0).bound.isMember 31 = true ∧ (circled 3 0).bound.owed 31 = false) ∧
    (let t := (circled 3 2).gangRelease
     let x := t.circle 31
     x.member ≠ 0 ∧ x.arrived ||| .ofNat 512 (2 ^ t.tr.idx) = x.member ∧
       (t.setCircle 31 { x with arrived := x.member, last := t.tr.idx }).secondArrivals 31 = []) ∧
    (let x := (circled 3 0).gangRelease.circle 31
     x.arrived ||| .ofNat 512 (2 ^ (circled 3 0).gangRelease.tr.idx) ≠ x.member) := by
  unfold RunsOn Runs; decide +kernel

theorem witness_LaneMask : (1 : KReg) ≠ 0 ∧ (3 : VReg) ≠ 2 := by decide
theorem witness_FloatPoints : (val32 0x7FC00000).isNan = true ∧ (val32 0xFF800001).isNan = true := by decide +kernel
theorem witness_ReductionsListsAndFormats : (∀ i ∈ ([.vred .addF32 16 24, .vscan .addF32 16 24, .vtopk 1 16 24 32, .vtopk 8 16 24 32, .setfmt 0, .setfmt 6,
      .settile 2] : List Instr), RunsOn i (here false)) ∧ legalFmt 0 = true ∧ legalFmt 6 = false ∧ TrapsNow (here false) := by
  unfold RunsOn Runs; decide +kernel
theorem witness_VectorFrame : Instr.vectorDest (.vcvt .e4m3ToF32 16 24 0) = some (16, 4) ∧ RunsOn (.vcvt .e4m3ToF32 16 24 0) (here false) ∧
    isNext (exec (.vcvt .e4m3ToF32 16 24 0) (here false)) = true := by unfold RunsOn Runs; decide +kernel

noncomputable def poke (s : State) (pa n v : Nat) : State := { s with mem := writeCells s.mem pa n v }
/-- s6 holds an address. -/
noncomputable def aimed (a : Word64) : State := withS ram [(6, a)]
noncomputable def laneAddrs (s : State) : List (Nat × Word64) := (lanesOf s.cur.mask).map fun l => (l.val, s.rS 6 + (s.rV 32 l).signExtend 64 * 1)

/-- An address in no class, the first misaligned one, one whose page no TLB maps, and the same once its walk has found it absent. -/
theorem witness_AccessFaults :
    (∀ i ∈ ([.ldb 5 6 1 1, .ldbs 5 6 1 1, .ldh 5 6 1 1, .ldhs 5 6 1 1, .ldw 5 6 1 1, .ldws 5 6 1 1, .ldd 5 6 1 1, .stb 5 6 1 1, .sth 5 6 1 1, .stw 5 6 1 1,
      .std 5 6 1 1, .samoadd 5 6 7, .samocas 5 6 7, .samoswap 5 6 7, .samomax 5 6 7] : List Instr), Runs (formOf i) (aimed 0x10000001)) ∧
    TrapsNow (aimed 0) ∧ (aimed 0).bound.classify 0 0x1000000000000 = .invalid ∧ (aimed 0).bound.classify 0 0x10000001 ≠ .invalid ∧
    (0x10000001 : Word64).toNat % 2 ≠ 0 ∧
    ([AccKind.read, .write, .atomic].all fun acc =>
      (match (aimed 0).bound.resolve true acc 8 [(0, 0x7F0000000000)] with
        | .error (.walk ..) => true
        | _ => false) &&
      match ((aimed 0).setCur { (aimed 0).cur with walked := [0x7F0000000] }).bound.resolve true acc 8 [(0, 0x7F0000000000)] with
        | .error (.park _) => true
        | _ => false) = true := by unfold Runs; decide +kernel

/-- What is resolved may go on, and the same with that work must wait. -/
noncomputable def both (s : State) (f : State → Except Stop (List (Nat × Loc) × State)) (p : List (Nat × Loc) × State → Bool) : Bool :=
  meets (f s) (fun x => p x && !x.2.heldBack x.2.pmask) && meets (f (held s)) fun x => p x && x.2.heldBack x.2.pmask

theorem witness_Loads :
    (∀ i ∈ ([.ldb 5 6 1 1, .ldbs 5 6 1 1, .ldh 5 6 1 1, .ldhs 5 6 1 1, .ldw 5 6 1 1, .ldws 5 6 1 1, .ldd 5 6 1 1, .vldb 16 6 32 1 1, .vldbs 16 6 32 1 1,
      .vldh 16 6 32 1 1, .vldhs 16 6 32 1 1, .vldw 16 6 32 1 1, .vldd 16 6 32 1 1, .vldq 16 6 32 1 1] : List Instr),
      Runs (formOf i) (aimed 0x10000000) ∧ Runs (formOf i) (held (aimed 0x10000000))) ∧
    ([1, 2, 4, 8].all fun z => both (aimed 0) (fun s => s.bound.resolve true .read z [(0, 0x10000008)]) fun x =>
      x.1.length == 1 && (x.2.dataErr true [(0, 0x10000008)] x.1).isNone) ∧ (aimed 0).tr.early = [] ∧
    ([1, 2, 4, 8, 16].all fun z => both (aimed 0x10000000) (fun s => s.bound.resolve false .read z (laneAddrs s)) fun x =>
      (x.2.dataErr false (laneAddrs (aimed 0x10000000)) x.1).isNone) := by unfold Runs; decide +kernel

theorem witness_Stores :
    (∀ i ∈ ([.stb 5 6 1 1, .sth 5 6 1 1, .stw 5 6 1 1, .std 5 6 1 1, .vstb 16 6 32 1 1, .vsth 16 6 32 1 1, .vstw 16 6 32 1 1, .vstd 16 6 32 1 1,
      .vstq 16 6 32 1 1] : List Instr), Runs (formOf i) (aimed 0x10000000) ∧ Runs (formOf i) (held (aimed 0x10000000))) ∧
    ([1, 2, 4, 8].all fun z => both (aimed 0) (fun s => s.bound.resolve true .write z [(0, 0x10000008)]) fun x => x.1.length == 1) ∧
    ([1, 2, 4, 8, 16].all fun z => both (aimed 0x10000000) (fun s => s.bound.resolve false .write z (laneAddrs s)) fun _ => true) := by
  unfold Runs; decide +kernel

/-- Lanes 0 and 1 of one store to two places. -/
noncomputable def twoLanes : State :=
  let s := withV (aimed 0x10000000) 32 fun l => .ofNat 32 (8 * l.val)
  next (exec (.vstw 16 6 32 1 1) (s.setCur { s.cur with mask := 3 }))
theorem witness_StoresPerform : Memory.wf ram.mem = true ∧ ram.req.gang = ram.gg.uid ∧ Memory.wf ram.gg.scratch = true ∧ ram.bellAt 0x10000000 = none ∧
    ram.pointL1 ram.req .device 0x10000000 0 = false ∧ ram.req.dom = 0 ∧
    (stored.gg.uid = 1 ∧ stored.tr.idx = 0 ∧ stored.gg.save = none ∧ (stored.tr.stream[0]?).isSome = true ∧ stored.tr.stream.take 0 = []) ∧
    (match twoLanes.tr.stream[1]? with
      | some e => (twoLanes.tr.stream.take 1).length == 1 && (twoLanes.tr.stream.take 1).all fun x => x.lanes &&& e.lanes == 0 &&
          decide (x.mode.order = .relaxed) && decide (e.mode.order = .relaxed) && x.ins == e.ins && !x.loc.meets x.size e.loc e.size
      | none => false) = true := by
  decide +kernel

theorem witness_AtomicValues : (5 : Nat) < 2 ^ 32 ∧ (2 : Nat) ^ 32 < 2 ^ 64 := by decide
theorem witness_Atomics :
    (∀ i ∈ ([.amoa .addI32 16 32 6 0, .amoa .addI32 16 32 6 1, .amol .cas64 16 32 6 0, .amol .cas64 16 32 6 1, .samoadd 5 6 7, .samoadd 0 6 7, .samocas 5 6 7,
      .samocas 0 6 7, .samoswap 5 6 7, .samoswap 0 6 7, .samomax 5 6 7, .samomax 0 6 7] : List Instr), Runs (formOf i) (aimed 0x10000000)) ∧
    both (aimed 0) (fun s => s.bound.resolve true .atomic 8 [(0, 0x10000008)]) (fun x => (x.2.dataErr true [(0, 0x10000008)] x.1).isNone) ∧
    ([4, 8].all fun z => both (aimed 0x10000000) (fun s => s.bound.resolve false .atomic z (laneAddrs s)) fun x =>
      (x.2.dataErr false (laneAddrs (aimed 0x10000000)) x.1).isNone) := by unfold Runs; decide +kernel

/-- The monitor pool used up beyond what a partition may have (R473). -/
noncomputable def noMonitors : State := let p := (aimed 0x10000000).part 0; (aimed 0x10000000).setPart { p with used := { p.used with monitor := 16384 } }
theorem witness_WaitsAndHints :
    ([true, false].all fun ok => (meets ((aimed 0).bound.waitRead 0x10000000 (if ok then 0 else 1) .eq .device true 15) fun x =>
        x.1 == ok && !x.2.2.heldBack x.2.2.pmask) &&
      meets ((held (aimed 0)).bound.waitRead 0x10000000 (if ok then 0 else 1) .eq .device true 15) fun x => x.1 == ok && x.2.2.heldBack x.2.2.pmask) = true ∧
    ((aimed 0x10000000).mayTake .monitor 0 1 none = true ∧ noMonitors.mayTake .monitor 0 1 none = false) ∧
    (∀ i ∈ ([.waitc .eq 6 0, .waitc .ne 6 0, .waitc .ge 6 0, .waitc .gen 6 0, .gaddr 5 6, .cline 6, .pf 6] : List Instr),
      RunsOn i (aimed 0x10000000) ∧ RunsOn i (held (aimed 0x10000000)) ∧ RunsOn i noMonitors) ∧
    (∀ o ∈ [1, 2, 3], RunsOn .fence ((here false).setCur { (here false).cur with att := { ord := some (.ofNat 25 (2 * 2 ^ 22 + o * 2 ^ 20)) } })) := by
  unfold RunsOn Runs; decide +kernel
/-- GADDR, CLINE and PF: of no flat address, of a page that a TLB maps, of one that none maps, and with every request entry in use. -/
theorem witness_WaitsAndHints_lines :
    (let s := aimed 0x1000000000000
     Runs (formOf (.gaddr 5 6)) s ∧ Runs (formOf (.cline 6)) s ∧ Runs (formOf (.pf 6)) s ∧ TrapsNow s ∧ s.bound.classify 0 (s.rS 6) = .invalid ∧
       (s.bound.noteClip s.att.ord.scope).classify 0 (s.rS 6) = .invalid ∧ ((s.bound.noteClip s.att.ord.scope).countRetire).classify 0 (s.rS 6) = .invalid) ∧
    (let s := aimed 0x10000000
     let t := s.bound.noteClip s.att.ord.scope
     t.classify 0 (s.rS 6) = .flat 0x10000000 ∧ isPricePage s.gg.sys 0x10000000 = false ∧
       (meets (t.place none 0 (t.rS 6) .read) fun x => x.1 == .phys 0x10000000 0) ∧
       ((t.countRetire.tlbFind t.countRetire.req.core t.countRetire.gg.part 0x10000000).map TlbEntry.r) = some true ∧
       (t.countRetire.fills.filter fun f => f.core == t.countRetire.req.core).length < 768) ∧
    (let s := aimed 0x7F0000000000
     let t := s.bound.noteClip s.att.ord.scope
     t.classify 0 (s.rS 6) = .flat 0x7F0000000000 ∧ isPricePage s.gg.sys 0x7F0000000000 = false ∧
       (match t.place none 0 (t.rS 6) .read with
         | .error (.walk ..) => true
         | _ => false) = true) ∧
    (let s : State := { aimed 0x10000000 with fills := List.replicate 768 { core := 0, pa := 0, gang := 1, part := 0, depth := 1 } }
     Runs (formOf (.pf 6)) s ∧ 768 ≤ (s.fills.filter fun f => f.core == s.req.core).length) := by
  unfold Runs; decide +kernel
theorem witness_WaitsAndHints_gang : ((aimed 0x10000000).bound.noteClip (aimed 0x10000000).att.ord.scope).gg = (aimed 0x10000000).gg := rfl

theorem witness_MemoryFrame :
    (let s := withS stored [(6, 0x10000100)]
     s.tr.stream.length + 64 ≤ 768 ∧ stored.tr.stream ≠ [] ∧ (meets (s.bound.resolve false .read 16 (laneAddrs s)) fun x => !x.2.heldBack x.2.pmask &&
       (x.2.dataErr false (laneAddrs s) x.1).isNone && s.tr.stream.all fun e => x.1.all fun l => x.1.all fun m => l.1 == m.1 || !l.2.meets 16 m.2 16 ||
         !e.loc.meets e.size l.2 16) = true) ∧
    (∀ s ∈ [aimed 0x10000000, withS stored [(6, 0x10000100)]],
      s.att.ord.order ≠ .acquire ∧ s.att.ord.order ≠ .acqRel ∧ s.att.ord.scope ≠ .system ∧
      (s.tr.stream.all fun e => e.aop.isNone && decide (e.mode.order = .relaxed) && !e.loc.device) = true ∧
      (∀ i ∈ ([.ldd 5 6 1 1, .std 5 6 1 1, .vldq 16 6 32 1 1, .vstq 16 6 32 1 1, .vldb 16 6 32 1 1, .vstb 16 6 32 1 1] : List Instr),
        RunsOn i s ∧ isNext (exec i s) = true)) := by unfold RunsOn Runs; decide +kernel

/-- One batch sealed, with one work in it or none. -/
noncomputable def sealed (works : List Work) : State := let s := holding 1; { s with tr := { s.tr with batch := 1 }, works := works }
noncomputable def fieldWork (kind : WorkKind) : Work := { uid := 9, gang := 1, troupe := 0, batch := 1, lanes := 1, core := 0, part := 0, sys := false, kind := kind }
theorem witness_Batches : RunsOn (.sealB 5) (here false) ∧ Runs (formOf (.waitb 7)) (holding 1) ∧ TrapsNow (holding 1) ∧
    (holding 1).tr.batch.toNat < ((holding 1).rS 7).toNat ∧
    (let s := sealed [fieldWork (.release 0)]
     RunsOn (.waitb 7) s ∧ (s.rS 7).toNat ≤ s.tr.batch.toNat ∧ s.bound.unfinished (s.rS 7).toNat = true) ∧
    (RunsOn (.waitb 7) (sealed []) ∧ (sealed []).bound.unfinished 1 = false) := by unfold RunsOn Runs; decide +kernel

/-- A record of one dimension of four 4-byte elements at an address. -/
def shapeAt (base : Nat) : Nat := 4 * 2 ^ 320 + 4 * 2 ^ 256 + base * 2 ^ 192 + 2
noncomputable def shaped (l : List ShapeSlot) : State :=
  let s := poke (withS ram [(6, 0x10000000), (7, 0x1001), (8, 1), (9, 0x2001)]) 0x10000000 256 (shapeAt 0x10001000)
  s.setPart { s.part 0 with shapes := l }
def liveShape (base : Nat) : ShapeSlot := { gen := 1, data := some (shapeAt base) }
theorem witness_ShapeRecords : shValid (shapeAt 0x10001000) = true ∧ shValid 0 = false ∧ RunsOn (.shpw 5 6) (shaped []) ∧ TrapsNow (shaped []) ∧
    Unheld (shaped []).bound ∧
    (meets ((shaped []).bound.readRecord 0x10000000 256) fun x => shValid x.1) ∧ (meets ((shaped []).bound.readRecord 0x10001000 256) fun x => !shValid x.1) ∧
    (let s := shaped [{}, liveShape 0x10001000]
     RunsOn (.shpi 7) s ∧ (s.rS 7).toNat < 2 ^ 32 ∧ s.myPart.shapes[(s.rS 7).toNat / 4096]? = some (liveShape 0x10001000) ∧
       Runs (formOf (.shpi 8)) s ∧ s.myPart.shape (s.rS 8).toNat = none) := by unfold RunsOn Runs; decide +kernel

/-- A purse of 8,192 tokens in core 0. -/
noncomputable def rich (s : State) : State := s.setCore { s.core 0 with purse := 8192 }
noncomputable def copying : State := rich (withS (withV (withV ram 16 fun l => .ofNat 32 (0x10000000 + 16 * l.val)) 24 fun l => .ofNat 32 (0x10001000 + 16 * l.val))
  [(6, 0x1), (7, 0), (8, 0x10002000), (9, 1)])
/-- Two records of one shape, a field of one part in slot 0, and at 0x1000_2000 a block for a field: rows 0 to 31. -/
noncomputable def shapedCopy : State :=
  let s := poke copying 0x10002000 16 (32 * 2 ^ 32)
  s.setPart { s.part 0 with shapes := [liveShape 0x10001000, liveShape 0x10003000], fields := [{ gen := 1, live := true, held := true, parts := [(0, 0)], rows := [], items := [] }] }
theorem witness_CopiesIssue :
    (∀ i ∈ ([.copy .b4 16 24 7, .copy .b16 16 24 7, .copyr .addI32 16 24 7, .tcopy 9 9 7, .tcopyIn 9 9 8, .tcopyOut 9 9 8] : List Instr),
      Runs (formOf i) copying) ∧
    ((lanesOf copying.bound.pmask).all fun l => copying.bound.classify l (copying.rV 17 l ++ copying.rV 16 l) == .flat (0x10000000 + 16 * l.val)) ∧
    (copying.rS 7).toNat % 16 = 0 ∧ Unheld copying.bound ∧
    (meets (copying.bound.readCcb 0) fun x => ccOk .copy x.1 && ccOk (.reduce .addI32) x.1 && x.2.mayTake .copy x.2.gg.part 1 x.2.copySince &&
      decide (x.2.mayPay 1)) ∧
    (meets ((copying.setCore { core := 0 }).bound.readCcb 0) fun x => ccOk .copy x.1 && x.2.mayTake .copy x.2.gg.part 1 x.2.copySince &&
      decide (¬ x.2.mayPay 1)) ∧
    (let p := copying.part 0
     meets ((copying.setPart { p with used := { p.used with copy := 16384 } }).bound.readCcb 0) fun x => ccOk .copy x.1 &&
       !x.2.mayTake .copy x.2.gg.part 1 x.2.copySince) ∧
    (16 * 32 + copying.prices.copyb.toNat - 1) / copying.prices.copyb.toNat = 1 ∧
    (let s := shapedCopy
     let p := s.bound.myPart
     p.shape 1 = some (shapeAt 0x10001000) ∧ p.shape 0x1001 = some (shapeAt 0x10003000) ∧ shCount (shapeAt 0x10001000) = 4 ∧
       s.bound.shapeRange (shapeAt 0x10001000) = none ∧ (p.field? 1).isSome = true ∧ ccWid (32 * 2 ^ 32) ≤ 8 * shEsz (shapeAt 0x10001000) ∧
       p.shape 2 = none ∧ TrapsNow s ∧ Unheld s.bound ∧ (meets (s.bound.readCcb (s.rS 8)) fun x => x.1 == 32 * 2 ^ 32 && ccOk .tin x.1 && ccOk .tout x.1 &&
         x.2.mayTake .copy x.2.gg.part 1 x.2.copySince && decide (x.2.mayPay 1))) := by unfold Runs; decide +kernel

/-- Operands of one row each; tiles of one element, and of 12 deep for MMAS. -/
noncomputable def tiling : State := rich (withS (here false) [(6, 0x0020000000000000), (7, 0x0010000000000000), (8, 0x0010000000000000), (9, 11 * 2 ^ 36)])
theorem witness_MatrixIssue :
    (∀ i ∈ ([.mma 5 6 7, .mmam 5 6 7, .mmas 9 6 7, .mma2 5 6 7, .acld 5 6 0, .acst 5 6 0, .acz 5 0] : List Instr), Runs (formOf i) tiling) ∧
    ([(0, 0), (1, 0), (2, 11 * 2 ^ 36), (3, 0)].all fun x =>
      let w : Word64 := .ofNat 64 x.2
      let f := tiling.cur.fmt
      mmaAccOk x.1 w && operandOk (tiling.rS 6) (aRow x.1 w f) false && operandOk (tiling.rS 7) (bRow w f) false && pairOk x.1 f &&
        decide (8 ≤ fmAfm f ∨ 8 ≤ fmBfm f → acK w % 32 = 0) &&
        (tiling.bound.operandRange (tiling.rS 6) (acM w) (aRow x.1 w f) (scaleBytes f (acK w) (acM w)) (if fmScm f = 2 then 4 else 1)).isNone &&
        (tiling.bound.operandRange (tiling.rS 7) (acK w) (bRow w f) (scaleBytes f (acK w) (acN w)) (if fmScm f = 2 then 4 else 1)).isNone &&
        decide (acAco w + 4 * acM w * acN w ≤ tiling.bound.gg.acsk)) ∧
    tiling.bound.matrixRoom = true ∧ (7 : SReg) ≠ 63 ∧ tiling.bound.mayPay 1 ∧ ¬ (here false).bound.mayPay 1 ∧
    (let s : State := { tiling with works := List.replicate 8 (fieldWork (.matrix { fn := 0, acc := 0, a := 0, b := 0 })) }
     Runs (formOf (.mma 5 6 7)) s ∧ s.bound.matrixRoom = false) ∧
    (let t := withS tiling [(5, 767 * 2 ^ 26 + 10 * 2 ^ 36), (7, 0x0600000000000000)]
     let s : State := { t with prices := { t.prices with mac16 := 1, mac8 := 1, mac4 := 1 } }
     let w := s.rS 5
     Runs (formOf (.mma 5 6 7)) s ∧ TrapsNow s ∧ mmaAccOk 0 w = true ∧ operandOk (s.rS 6) (aRow 0 w s.cur.fmt) false = true ∧
       operandOk (s.rS 7) (bRow w s.cur.fmt) false = true ∧ pairOk 0 s.cur.fmt = true ∧ ¬ (8 ≤ fmAfm s.cur.fmt ∨ 8 ≤ fmBfm s.cur.fmt) ∧
       fmScm s.cur.fmt = 0 ∧ 8192 < macs 0 w) ∧ tileOk 0 = true ∧ convOk false 0 = true ∧ convOk true 0 = true ∧
    RunsOn .mrel (here false) ∧ ((here false).bound.core (here false).bound.req.core).lease = none ∧
    (let s := (here false).setCore { (here false).core 0 with lease := some (1, 0) }
     RunsOn .mrel s ∧ (s.bound.core s.bound.req.core).lease = some (s.gg.uid, s.tr.idx)) := by unfold RunsOn Runs; decide +kernel

/-- A region of 32 × 32 on stack 0, in slot 0 of the partition's table. -/
def aRegion : Region := { id := 1, k := 32, n := 32, avail := true, homes := [0], tiles := [0] }
/-- A record of one row, columns 0 to 31, FP32 out; with REG1 for LAYERX2; with a window of 32 rows for LAYERT. -/
def layerRecord (more : Nat) : Nat := more + 2 ^ 512 + 0x0080000000000000 * 2 ^ 128 + 0x0040000000000000 * 2 ^ 64 + 31 * 2 ^ 48
noncomputable def layered (r : Nat) : State :=
  let s := poke (rich (withS ram [(6, 0x10000000)])) 0x10000000 128 r
  let s := (s.setPile { s.pile 0 with arr := true, up := true }).setPart { s.part 0 with regions := [{ gen := 1, region := some 1 }] }
  { s with regions := [aRegion] }
theorem witness_LayerPassesIssue :
    ([(0, layerRecord 0), (1, layerRecord (2 ^ 544)), (2, layerRecord (31 * 2 ^ 672))].all fun x =>
      let s := layered x.2
      decide (Unheld s.bound) && meets (s.bound.readRecord 0x10000000 128) fun y =>
        let v := y.2
        y.1 == x.2 && lrCtr y.1 == 0 && meets (v.checkCtr 0) (fun _ => true) && v.regionAt v.gg.part (lrReg y.1 false) == some aRegion &&
          (x.1 != 1 || v.regionAt v.gg.part (lrReg y.1 true) == some aRegion) && layerLayout x.1 y.1 (some 32) && layerShape x.1 y.1 aRegion aRegion &&
          v.regionOpen aRegion && (v.layerRanges x.1 y.1 0 32 aRegion.kb).isNone && v.layerRoom) ∧
    (∀ i ∈ ([.layer 6 0, .layerx2 6 0, .layert 6 0] : List Instr), Runs (formOf i) (layered (layerRecord 0))) ∧
    (layered (layerRecord 0)).bound.mayPay 4 := by unfold Runs; decide +kernel

noncomputable def calibrating (pins : List Pin) (v : Nat) : State :=
  let s := withS (layered 0) [(6, .ofNat 64 v)]
  { s with gg := { s.gg with pins := pins } }
theorem witness_CalibrationState :
    (∀ v ∈ [1, 3 * 2 ^ 32 + 1, 16 * 2 ^ 32 + 1, 31 * 2 ^ 32 + 1], RunsOn (.rceq 5 6) (calibrating [] v) ∧
      (calibrating [] v).bound.lapsePins.regionAt (calibrating [] v).bound.lapsePins.gg.part (v % 2 ^ 32) = some aRegion) ∧
    (∀ n ∈ [0, 7, 8], let s := calibrating (List.replicate n { region := 2, cycle := 0, epochs := [] }) 1
      RunsOn (.rcepin 6) s ∧ RunsOn (.rceunpin 6) s ∧ s.bound.lapsePins.gg.pins.length = n ∧ s.bound.lapsePins.gg.refusedPins.contains 1 = false ∧
        (s.bound.lapsePins.gg.pins.any fun p => p.region == 1) = false) ∧
    (let s := calibrating [{ region := 1, cycle := 0, epochs := [] }] 1
     RunsOn (.rcepin 6) s ∧ (s.bound.lapsePins.gg.pins.any fun p => p.region == 1) = true) := by unfold RunsOn Runs; decide +kernel

/-- Stacks up, a quota of one way, a field of one part in slot 0; at 0x1000_0000 a job record whose program, at 0x1000_0040, is BEND. -/
noncomputable def fielded (l : List FieldSlot) : State :=
  let s := poke (poke (rich (withS ram [(6, 1), (7, 0x10000000)])) 0x10000000 56 0x10000040) 0x10000040 4 0x88000000
  let s := s.setPile { s.pile 0 with up := true }
  s.setPart { s.part 0 with sh := { (s.part 0).sh with lqmsc := wayLines }, fields := l }
def aField : FieldSlot := { gen := 1, live := true, held := true, parts := [(0, 15)], rows := [], items := [] }
theorem witness_ComputeWays :
    RunsOn (.ways 5 6 0) (fielded []) ∧ freeField (fielded []).bound.myPart.fields 0 = some (0, 1) ∧ (fielded []).bound.waysStacks 0 1 1 none = [0] ∧
    (RunsOn (.ways 5 6 0) (fielded [aField]) ∧ (fielded [aField]).bound.waysStacks 0 1 1 none = []) ∧
    (RunsOn (.waysrel 6) (fielded [aField]) ∧ (fielded [aField]).bound.myPart.field? 1 = some (0, aField)) ∧
    Runs (formOf (.bsq 6 7)) (fielded [aField]) ∧
    (meets ((fielded [aField]).bound.readRecord 0x10000000 56) fun x => x.1 == 0x10000040 && jobLayout x.1 1 &&
      meets (x.2.readRecord 0x10000040 4) fun y => y.1 == 0x88000000 && y.2.myPart.field? 1 == some (0, aField)) ∧
    Unheld (fielded [aField]).bound ∧ programSteps [0x88000000] 1 false = 1 ∧ (fielded [aField]).mayPay 4 := by unfold RunsOn Runs; decide +kernel

noncomputable def micro : State := { State.reset.placeMicro 0x88000000 with jobSel := 1 }
theorem witness_MicroOps : (micro.job?.map fun x => (x.1.part, x.2.field)) = some (0, 0) ∧ ((micro.part 0).fields[0]?).isSome = true ∧
    microWhy 17 0 0 0 1 false = 0 ∧ microWhy 6 511 0 0 1 false = 0 ∧ microWhy 6 511 0 0 2 false ≠ 0 ∧ microWhy 10 0 0 0 1 false ≠ 0 ∧ micro.bad = [] := by
  decide +kernel
theorem witness_BitSerialArithmetic : ([5, 3] : List Nat).length = ([1, 2] : List Nat).length ∧ Nat.testBit 1 0 = true := by decide

/-- A troupe of 16 vector registers, at home and in a NEAR region. -/
noncomputable def migrating (near : Option Nat) : State :=
  let s := aimed 0x10000000
  let s : State := { s with gg := { s.gg with vregs := 16 } }
  s.setCur { s.cur with near := near }
/-- A card of type 1 at 0x1000_0000, and the gang's own queue 0, fed by LAUNCH, in slot 0 of the partition's table. -/
noncomputable def launching (hd : Word64) : State :=
  let s := poke (withS ram [(6, 0x10000000), (7, hd)]) 0x10000000 64 1
  (s.setQueue { q := 0, enabled := true, launchFed := true, part := 0, state := 0 }).setPart { s.part 0 with qtable := [(1, some 0)] }
theorem witness_NearMemoryAndLaunch :
    (RunsOn (.migrate 6) (migrating (some 0)) ∧ (migrating (some 0)).cur.near ≠ none) ∧
    (TrapsNow (migrating none) ∧ (migrating none).bound.classify 0 0x10000000 = .flat 0x10000000 ∧ Runs (formOf (.migrate 6)) (migrating none) ∧
      (meets ((migrating none).bound.place none 0 0x10000000 .read) fun x => x.1 == .phys 0x10000000 0 && x.2.homed 0x10000000 &&
        decide (x.2.gg.vregs ≤ 32) && !x.2.sibling.live && x.2.tr.psp == 0 && decide (x.2.nearOn (paStack 0x10000000) < 64))) ∧
    (32 < (aimed 0x10000000).gg.vregs ∧ (aimed 0x10000000).cur.near = none ∧ Runs (formOf (.migrate 6)) (aimed 0x10000000) ∧
      (aimed 0x10000000).bound.classify 0 0x10000000 = .flat 0x10000000 ∧
      (meets ((aimed 0x10000000).bound.place none 0 0x10000000 .read) fun x => x.1 == .phys 0x10000000 0)) ∧
    RunsOn .home (migrating none) ∧ RunsOn .home (migrating (some 0)) ∧ (migrating (some 0)).bound.endNear.tr.nearCopy = none ∧
    (let s := migrating (some 0)
     let s : State := { s with tlbs := [], tr := { s.tr with nearCopy := some s.copyHome, nearStack := [(0, 1)] } }
     Runs (formOf .home) s ∧ s.cur.near ≠ none ∧ s.bound.endNear.tr.nearCopy ≠ none) ∧
    (∀ hd ∈ [0, 1, 2], Runs (formOf (.launch 6 7)) (launching (.ofNat 64 hd)) ∧ Unheld (launching (.ofNat 64 hd)).bound ∧
      (meets ((launching (.ofNat 64 hd)).bound.readRecord 0x10000000 64) fun x => cdType x.1 == 1 && (x.2.queue 0).enabled && (x.2.queue 0).launchFed &&
        (x.2.queue 0).part == x.2.gg.part && x.2.gg.q == 0 && x.2.myPart.queue? hd == (if hd = 1 then some 0 else none))) ∧
    TrapsNow (launching 2) := by unfold RunsOn Runs; decide +kernel

noncomputable def asleep (s : State) (a : Asleep) : State := s.setCur { s.cur with sleep := some a }
def pathP : PathId := ⟨1, 0, .P⟩
noncomputable def inFocus (s : State) (p : State → Bool) : Bool := (s.troupe? 1 0).isSome && p (s.focusTo pathP) && (s.focusTo pathP).gg.save.isNone && (s.focusTo pathP).cur.live && !(s.focusTo pathP).cur.frozen
theorem witness_PathEvents :
    (let s : State := { here false with gg := { (here false).gg with save := some { deadline := 0 } } }
     (s.troupe? 1 0).isSome = true ∧ (s.focusTo pathP).gg.save ≠ none) ∧
    inFocus (asleep (circled 1 0) (.circle 31 5)) (fun t => t.cur.sleep == some (.circle 31 5) && !t.owed 31) ∧
    inFocus (asleep (circled 1 1) (.circle 31 5 true)) (fun t => t.cur.sleep == some (.circle 31 5 true) && t.owed 31) ∧
    inFocus (asleep (circled 1 1) (.circle 31 5)) (fun t => t.cur.sleep == some (.circle 31 5) && t.owed 31) ∧
    ([true, false].all fun done => inFocus (asleep (circled 1 0) (.arrive 31 true 5 done)) fun t => t.cur.sleep == some (.arrive 31 true 5 done)) ∧
    inFocus (asleep (sealed []) (.waitb 1 5)) (fun t => t.cur.sleep == some (.waitb 1 5) && !t.unfinished 1) ∧
    inFocus (asleep { here true with ctl := { (here true).ctl with event := 1, evmask := 1 } } (.idle 5)) (fun t => t.cur.sleep == some (.idle 5) && t.ctl.pending) ∧
    inFocus { (here false).setCur { (here false).cur with yield := some (0, []) } with cycle := 16 } (fun t => t.cur.yield == some (0, []) && decide (16 ≤ t.cycle)) ∧
    inFocus { here false with cycle := 16 } (fun t => t.readyPaths.contains pathP && decide (max t.cur.readyAt t.cur.lastIssue + 16 ≤ t.cycle)) ∧
    (let s : State := { here false with ctl := { (here false).ctl with tmrcmp := 0 } }
     s.ctl.tmrcmp.toNat ≤ s.cycle) := by decide +kernel

def legalPrices : PriceArgs := { mac16 := 2048, mac8 := 16384, mac4 := 8192, pass := 4, bsqp := 1, copyb := 65536 }
theorem witness_CarouselEvents : State.reset.ring = 128 * State.reset.lapFixed ∧
    (let s : State := { State.reset with lapFixed := 1, ring := 127 }
     s.ring < 128 * s.lapFixed) ∧
    State.reset.ownerOf 127 ≠ some 0 ∧ (State.reset.core 127).purse ≤ 8192 ∧
    State.reset.sysOn 0 = false ∧ ((here true).sysOn 0 = true ∧ ((here true).core 0).fwPurse ≤ 8192) ∧
    (let s := (here false).setPart { (here false).part 0 with active := true, lapTotal := 5 }
     s.ring = 128 * s.lapFixed ∧ s.parts ≠ [] ∧ s.lapPackets ≠ []) ∧
    State.reset.priceNext = none ∧
    (2048 ≤ legalPrices.mac16.toNat ∧ legalPrices.mac8.toNat ≤ 16384 ∧ 8192 ≤ legalPrices.mac4.toNat ∧ legalPrices.pass.toNat ≤ 4 ∧ 1 ≤ legalPrices.bsqp.toNat ∧
      legalPrices.copyb.toNat = 2 ^ 16) ∧
    (let s : State := { State.reset with priceNext := some State.reset.prices }
     let q := State.reset.prices
     let t : PriceArgs := { mac16 := q.mac16, mac8 := q.mac8, mac4 := q.mac4, pass := q.pass.setWidth 32, bsqp := q.bsqp.setWidth 32, copyb := q.copyb }
     s.priceNext = some q ∧ PriceArgs.over t q = q) ∧
    ((State.reset.counted.filter fun p => p.parent == 63).map fun p => (p.update.getD p.sh).wsh).sum + 256 ≤ 4096 := by decide +kernel

/-- Clusters of partition 0, the first with a core late for eight of the last phases. -/
noncomputable def lateCore (clusters : List Nat) : State :=
  let s := (clusters.foldl (fun (s : State) c => s.updCluster c fun x => { x with holder := some 0 }) State.reset)
  { s with late := [{ gang := 1, cores := [0, 0, 0, 0, 0], kept := [(0, 8)] }] }
theorem witness_ClocksAndHeat :
    ([([0, 1], some 1), ([0], none)].all fun (x : List Nat × Option Nat) =>
      let s := lateCore x.1
      let r := findD Lateness.gang 1 { gang := 1 } s.late
      r.late 0 && decide (8 ≤ coreCount r.kept 0) && decide (s.boostUp 0 < 4) && decide (s.targetMhz 0 + 25 ≤ 2100) &&
        (List.range 16).find? (fun y => y != 0 && (s.cluster y).owner.map s.levelOne == (s.cluster 0).owner.map s.levelOne &&
          ((s.cluster y).owner.map s.levelOne).isSome && !s.clusterLate y && decide (625 ≤ s.targetMhz y)) == x.2) = true ∧
    State.reset.boosts = [] ∧ (State.reset.cluster 15).setMhz = 1900 ∧ 2100 % 25 = 0 ∧ 600 % 25 = 0 ∧
    (let s : State := { (State.reset.setCore { core := 0, ramp := .ramping 0 256 }) with cycle := 64 }
     (s.core 0).ramp = .ramping 0 256 ∧ 0 + 64 ≤ s.cycle) ∧
    ((State.reset.setCore { core := 0, ramp := .ramped 0 }).core 0).ramp = .ramped 0 ∧ State.reset.overSince = none ∧
    (let s : State := { State.reset with overSince := some 0, cycle := 19000000 }
     s.overSince = some 0 ∧ 0 + 19000000 ≤ s.cycle) ∧
    State.reset.hot = [] ∧ State.reset.throttleAt ≤ State.reset.cycle ∧ State.reset.watts ≤ State.reset.wattsSet ∧ 1050 ≤ State.reset.watts ∧
    ({ State.reset with watts := 1750 } : State).watts + 50 ≤ State.reset.wattsSet ∧ ({ State.reset with hot := [3] } : State).hot ≠ [] ∧
    ({ State.reset with throttleAt := 1 } : State).cycle < 1 := by decide +kernel

/-- A partition whose root tables map 512 GiB of home memory at its own addresses: one leaf of 1 GiB below two tables in each stage. -/
noncomputable def mapped : State :=
  let e (kind oa : Nat) : Nat := oa + kind
  let s := [(0x8000, e 1 0x9000), (0x9000, e 2 0 + 0x18), (0xA000, e 1 0xB000), (0xB000, e 2 0 + 0x18)].foldl (fun s (x : Nat × Nat) => poke s x.1 8 x.2) (here false)
  s.setPart { s.part 0 with troot := 0x8000, proot := 0xA000 }

noncomputable def filling (pa mt depth : Nat) (write : Bool) : State :=
  { here false with fills := [{ core := 0, pa := pa, mt := mt, depth := depth, write := write }] }
noncomputable def walking (who : List PathId) (fills : List Fill) : State :=
  { mapped with walks := [{ core := 0, part := 0, sys := false, va := 0x10000000, acc := .read, who := who, fills := fills }] }
/-- A requester that last took its rate at tick 0, its gang's clock at n. -/
noncomputable def clocked (n : BitVec 32) : State :=
  { (here false).setCache { inst := 0, reqrs := [{ who := 1 }] } with gg := { (here false).gg with gclk := n } }
theorem witness_MemoryLevelEvents :
    (let s : State := { here false with gg := { (here false).gg with ret := 1 } }
     (s.gang? 1).map (fun x => decide (x.nC * x.nT ≤ x.ret)) = some true) ∧
    (here false).tenantGangs 0 ≤ ((here false).setPart { (here false).part 0 with tacc := 1 } |>.part 0).tacc ∧
    ([(127, 256), (207, 4096), (208, 16384)].all fun x => decide (x.2 ≤ ((here false).setCache { inst := x.1, reqs := x.2 } |>.cache x.1).reqs)) ∧
    ([(15, 15), (16, 16)].all fun x => ((clocked x.1).cache 0).reqrs.find? (fun r => r.who == 1) == some { who := 1 } &&
      decide (((clocked x.1).clockOf 0 1 + 2 ^ 32 - 0) % 2 ^ 32 = x.2)) = true ∧
    (let s := (here false).setCache { inst := 128, reqrs := [{ who := 0 }] }
     ((s.cache 128).reqrs.find? fun x => x.who == 0).isSome = true) ∧
    (let s := (here false).setCache { inst := 0, reqrs := [{ who := penaltyName 0 0, inserts := 65536 }] }
     65536 ≤ ((s.cache 0).reqr (penaltyName 0 0)).inserts) ∧ ((here false).cache 0 |>.reqr (penaltyName 0 0)).inserts < 65536 ∧
    (let h : Held := { id := 1, src := 0, pa := 0, n := 8, old := 0, views := [1], deps := [0] }
     let s : State := { here false with held := [h] }
     let t : State := { here false with held := [{ h with id := 0, deps := [] }, h] }
     s.held[0]? = some h ∧ s.held.find? (fun x => x.id == h.id) = some h ∧ (∀ x ∈ s.held, h.deps.contains x.id = true → x.views.contains 1 = false) ∧
       t.held.find? (fun x => x.id == h.id) = some h ∧ (t.held.any fun x => h.deps.contains x.id && x.views.contains 1) = true) ∧
    rateOf 17 = 1 ∧
    ([filling 0 1 3 false, filling (2 ^ 51) 0 3 false, filling 0 0 1 false, filling (5 * 2 ^ 40) 0 2 false, filling (5 * 2 ^ 40) 0 2 true,
      filling 0 0 2 false, filling 0 0 3 false].all fun s => (s.fills[0]?).isSome) = true ∧
    paHost (2 ^ 51) = true ∧ (filling 0 0 1 false).remote (5 * 2 ^ 40) = true ∧ (filling 0 0 1 false).remote 0 = false ∧
    (let s : State := { here false with fills := List.replicate 769 { core := 0, pa := 0 } }
     (s.fills[768]?).isSome = true ∧ 768 ≤ ((s.fills.take 768).filter fun g => g.core == 0).length) ∧
    ([filling 0 1 3 false, filling (2 ^ 51) 0 3 false, filling 0 0 1 false].all fun s => (s.fills[0]?).all fun f => !s.yields f && !s.throttled f) = true ∧
    (let f : Fill := { core := 0, pa := 0, part := 1, depth := 3 }
     let g : Fill := { core := 1, pa := 0, part := 0, depth := 3 }
     let s : State := ({ here false with fills := [f, g] } : State).setPart { (here false).part 0 with sh := { ((here false).part 0).sh with bwsh := 1 } }
     s.resource f ≠ none ∧ s.resource g = s.resource f ∧ s.bandShare f.part = 0 ∧ s.bandShare g.part ≠ 0 ∧ s.yields f = true) ∧
    (let s := walking [] []
     let s : State := { s with walks := List.replicate 65 { core := 0, part := 0, sys := false, va := 0, acc := .read } }
     (s.walks[64]?).isSome = true ∧ 64 ≤ ((s.walks.take 64).filter fun y => y.core == 0).length) ∧
    (match (walk (here false) ((here false).entryAt (some 0) 0) 0 false 0x7F0000000000 .read).1 with
      | .inl _ => true
      | _ => false) = true ∧
    (walking [⟨1, 0, .P⟩] []).walks.length = 1 ∧
    (let s := walking [] [{ core := 0, pa := 0x10000000 }]
     (match ((({ s with walks := s.walks.eraseIdx 0 } : State).walkBy 0 0 false 0x10000000 .read).2.translate 0 0 false 0x10000000 .read).1 with
      | .ok pa mt => pa == 0x10000000 && mt == 0
      | _ => false) = true) ∧
    (match (walk mapped (mapped.entryAt (some 0) 0) 0 false 0x10000000 .read).1 with
      | .inr l => l.pa == 0 && l.size == 30
      | _ => false) = true := by decide +kernel

/-- A line of an instance, and a state with lines in one. -/
def aLine (n way owner : Nat) : CLine := { line := n, way := way, owner := owner, tenant := owner }
noncomputable def lined (inst : Nat) (lines : List CLine) : State := (here false).setCache { inst := inst, lines := lines }
/-- At each level a line found and a line missed with room, without room, and with ND 0; at the L1 each case of a line found; a set with a way free, with
a line to leave, and with none: all lines another's while the requester is above its quota. -/
theorem witness_MemoryLevelEvents_lines :
    (let f : Fill := { core := 0, pa := 0, gang := 1 }
     (∀ i ∈ [0, l2Slice 0, mscSlice 0, rdcSlice 0], (((((lined i []).meet i 0).applyRequest i).cache i).find 0 = none) ∧
       ((((lined i [aLine 0 0 0]).meet i 0).applyRequest i).cache i).find 0 ≠ none) ∧
     (∃ w, (lined 0 []).room 0 f = .free w) ∧
     (∃ v, (lined 0 ((List.range 8).map fun k => aLine (instSets 0 * k) k 1)).room 0 f = .victim v) ∧
     (f.nd ≠ 0 ∧ f.pass = false ∧ (lined 0 []).gang? f.gang ≠ none)) ∧
    ((aLine 0 0 1).dirty = 0 ∧ (aLine 0 0 1).tracked = false ∧
      (let s := (((lined 0 [aLine 0 0 1]).meet 0 1).applyRequest 0)
       s.fillPoint { core := 0, pa := 0, gang := 1 } = false ∧ s.fillPoint { core := 0, pa := 0, gang := 1, scope := .troupe } = true)) ∧
    (let x : State := lined 128 ((List.range 16).map fun k => aLine (instSets 128 * k) k 1)
     let s := x.setPart { x.part 0 with sh := { (x.part 0).sh with lql2 := 0 } }
     s.room 128 { core := 0, pa := 0, part := 0 } = .none ∨ ∃ v, s.room 128 { core := 0, pa := 0, part := 0 } = .victim v) := by
  refine ⟨⟨by decide +kernel, ?_, ?_, by decide +kernel⟩, by decide +kernel, ?_⟩
  · exact ⟨0, by decide +kernel⟩
  · exact ⟨aLine 0 0 1, by decide +kernel⟩
  · exact .inl (by decide +kernel)

/-- The troupe's work, alone; a copy of two 4-byte elements. -/
noncomputable def working (x : Work) : State := { ram with works := [x] }
def aCopy (done groups : Nat) (ordc : Bool) (waits : List (Nat × List Nat)) : CopyWork :=
  { kind := .copy, z := 4, n := 2, elems := [(0, .flat 0x10000000, .flat 0x10001000, 0), (1, .flat 0x10000004, .flat 0x10001004, 0)], done := done, groups := groups, ordc := ordc, waits := waits }
noncomputable def copyWork (c : CopyWork) (replay : Bool) : Work := { fieldWork (.copy c) with replay := replay }
theorem witness_CopyEvents :
    (let x := copyWork (aCopy 0 0 false []) false
     (working x).work? 9 = some x ∧ (working x).begins x = true ∧ x.replay = false) ∧
    (let c : CopyWork := { aCopy 0 0 false [] with z := 16, vals := [(0, 0), (1, 0), (2, 0), (3, 0)] }
     let x := copyWork c false
     (working x).work? 9 = some x ∧ (working x).begins x = true ∧ x.replay = false ∧ x.reading = false ∧ c.n ≤ 2) ∧
    (let x := copyWork (aCopy 3 0 false []) false
     (working x).work? 9 = some x ∧ (aCopy 3 0 false []).allDone = true ∧ (working x).ctrBlocked x = false ∧ ((working x).workAdd x x.err).2 = true) ∧
    ((aCopy 3 2 true []).allDone = true ∧ (aCopy 3 2 true []).groupCount = 2) ∧
    (let c := aCopy 1 0 true []
     c.groups < c.groupCount ∧ (working (copyWork c false)).ctrBlocked (copyWork c false) = false ∧ (∀ e ∈ c.groupElems 0, c.landed e = true) ∧ ((working (copyWork c false)).workAdd (copyWork c false) false).2 = true) ∧
    (let x := copyWork (aCopy 0 0 false []) true
     (working x).works = [x] ∧ x.gang = 1 ∧ (working x).runs x = true ∧ (working x).handRoom x = true) ∧
    (let x := copyWork (aCopy 0 0 false [(1, [0])]) false
     (working x).works = [x] ∧ (working x).runs x = true) ∧
    (2 ^ 63 : Nat) < 2 ^ 64 := by decide +kernel
/-- Units of each kind of copy with the access they make, and a replay entry behind earlier work that has not run. -/
theorem witness_CopyEvents_units :
    (let c := aCopy 0 0 false []
     let x := copyWork c false
     let s := working x
     (meets (s.engineRead x c.snd (s.srcSpot x c 0) 4) fun _ => true) ∧ 0 < c.units ∧ c.isDone 0 = false ∧
       (∃ m < c.units, c.isDone m = false ∧ ∀ q ∈ c.vals, q.1 ≠ m)) ∧
    (let c : CopyWork := { aCopy 0 0 false [] with vals := [(0, 5), (1, 6)] }
     let x := copyWork c false
     let s := working x
     s.begins x = true ∧ (∀ m < c.units, c.isDone m = true ∨ ∃ q ∈ c.vals, q.1 = m) ∧ s.blocked x c 0 = false ∧
       (meets (s.engineWrite x (s.dstSpot x c 0) 4 5) fun _ => true)) ∧
    (let c : CopyWork := { aCopy 0 0 false [] with kind := .plain }
     let x := copyWork c false
     let s := working x
     s.blocked x c 0 = false ∧ (meets (s.engineRead x c.snd (s.srcSpot x c 0) 4) fun q => meets (q.2.engineWrite x (s.dstSpot x c 0) 4 q.1) fun _ => true)) ∧
    (let c : CopyWork := { aCopy 0 0 false [] with kind := .reduce .addI32 }
     let x := copyWork c false
     let s := working x
     (meets (s.enginePa x (s.dstSpot x c 0).va .atomic) fun q => (q.2.2.lineError 0 q.1).isNone)) ∧
    (∀ k ∈ [CopyKind.tin, .tout], let c : CopyWork := { aCopy 0 0 false [] with kind := k, field := 0, wid := 8 }
     let x := copyWork c false
     let s : State := { fielded [{ aField with items := [9] }] with works := [x] }
     s.headsField x.part c.field x.uid = true ∧ s.blocked x c 0 = false ∧ s.bad = [] ∧ ((s.part x.part).fields[c.field]?).isSome = true ∧
       (meets (s.engineRead x c.snd (s.srcSpot x c 0) 4) fun _ => true) ∧ (meets (s.engineWrite x (s.dstSpot x c 0) 4 0) fun _ => true)) ∧
    (let x := copyWork (aCopy 0 0 false []) true
     let s : State := { ram with works := [x, { x with uid := 10 }] }
     s.runs { x with uid := 10 } = true ∧ (s.works.any fun y => y.gang == 1 && decide (y.uid < 10) && y.unrun) = true) ∧
    (let x := copyWork (aCopy 0 0 false []) false
     let s := working x
     isPricePage x.sys 0x10000000 = false ∧ x.kind.engine ≠ 3 ∧ Memory.wf s.mem = true ∧ (s.gang? x.gang).isSome = true ∧
       ((s.troupe? x.gang x.troupe).map fun y => y.stream.isEmpty) = some true) ∧
    (0 < 8 ∧ 200 < 2 ^ 8 ∧ 3 + 8 ≤ (List.replicate 16 0).length) := by decide +kernel
theorem witness_CopyEvents_counter : (match (walk mapped (mapped.entryAt none 0) 0 false 0x10000000 .write).1 with
    | .inr l => l.pa == 0 && l.size == 30
    | _ => false) = true ∧ isPricePage false 0x10000000 = false ∧ mapped.bellAt 0x10000000 = none ∧
    ({ mapped with bells := [(0x10000, 0)] } : State).bellAt 0x10000000 ≠ none := by decide +kernel

def aMatrix (fn : Nat) : MatrixWork := { fn := fn, acc := 0, a := 0x0010000000000000, b := 0x0010000000000000 }
noncomputable def engine (x : Work) (lease : Option (Nat × Nat)) (ramp : Ramp) : State :=
  (working x).setCore { (working x).core 0 with lease := lease, ramp := ramp }
def aLayer (passes : List LPass) (adapter : Option (List (BitVec 32))) : LayerWork :=
  { fn := 0, record := layerRecord 0, delta := 0, rb := 128, reg0 := 1, reg1 := 1, passes := passes, adapter := adapter }
noncomputable def passing (x : Work) (lease : Option (Nat × Nat)) (ramp : Ramp) : State :=
  let s := layered (layerRecord 0)
  { s.setCore { s.core 0 with lease := lease, ramp := ramp } with works := [x] }
theorem witness_EngineEvents :
    (let x := fieldWork (.matrix (aMatrix 0))
     (((engine x none .idle).settleLease 0).core 0).lease = none ∧ ((engine x none .idle).settleLease 0).engineHead 0 = some x) ∧
    ([(Ramp.idle, 4), (.idle, 0), (.ramped 5, 0), (.ramping 0 256, 4), (.ramping 0 256, 0)].all fun r =>
      let x := fieldWork (.matrix (aMatrix r.2))
      let z := (engine x (some (1, 0)) r.1).settleLease 0
      (z.core 0).lease == some (1, 0) && (z.engineWorks 0).find? (fun y => y.gang == 1 && y.troupe == 0) == some x && (z.core 0).ramp == r.1) ∧
    (let s : State := { engine (fieldWork (.matrix (aMatrix 0))) (some (1, 0)) .idle with cycle := 95000 }
     (s.core 0).lease = some (1, 0) ∧ (s.core 0).leaseAt + 95000 ≤ s.cycle) ∧
    (let m := { aMatrix 0 with done := (aMatrix 0).blocks }
     let x := fieldWork (.matrix m)
     (working x).work? 9 = some x ∧ m.blocks ≤ m.done ∧ ((working x).finishWork x |>.core 0).lease ≠ some (1, 0) ∧
       ((engine x (some (1, 0)) .idle).finishWork x |>.core 0).lease = some (1, 0)) ∧
    (let x := fieldWork (.matrix (aMatrix 0))
     (working x).gang? x.gang = some ram.gg ∧ (working x).bad = [] ∧ (working x).work? x.uid ≠ none) ∧
    Memory.wf ram.gg.acs = true := by decide +kernel
/-- A layer whose one pass and adapter stage have ended, and the state in which its output is written. -/
def landedLayer : LayerWork := aLayer [{ row := 0, r := 0, c := 0, started := some (0, []), out := some [] }] (some [])
noncomputable def landed : State := passing (fieldWork (.layer landedLayer)) none .idle
noncomputable def writtenState : State := landed.updGang 1 fun g => layerWrite (landed.windowOf (fieldWork (.layer landedLayer)) []) g (g.ownCore 0) landedLayer
noncomputable def writtenWork : Work := ((writtenState.work? 9).getD (fieldWork (.layer landedLayer))).withLayer { landedLayer with wrote := true, snap := some [] }
noncomputable def writtenLayer : State := writtenState.setWork writtenWork
theorem witness_EngineEvents_written : landed.work? 9 = some (fieldWork (.layer landedLayer)) ∧ (landed.gang? 1).isSome = true ∧
    landed.runs (fieldWork (.layer landedLayer)) = true ∧ landedLayer.adapter ≠ none ∧ (∀ q ∈ landedLayer.passes, q.out ≠ none) ∧
    landed.ctrBlocked (fieldWork (.layer landedLayer)) = false ∧ landedLayer.wrote = false ∧ landed.bad = [] ∧
    ((writtenLayer.readsBound 9).workAdd writtenWork writtenWork.err).2 = true := by decide +kernel
theorem witness_EngineEvents_layers :
    ([(0, none), (2, none), (0, some (0, [])), (2, some (0, []))].all fun (c : Nat × Option (BitVec 32 × List Int)) =>
      let l : LayerWork := { aLayer [{ row := 0, r := 0, c := 0, started := c.2 }] none with fn := c.1 }
      let x := fieldWork (.layer l)
      let s := passing x none .idle
      s.work? 9 == some x && s.region? (l.region false) == some aRegion && s.begins x && !x.replay && (c.2.isSome || s.passSlot 0 (aRegion.tileAt 0 0)) && s.bad == []) = true ∧
    ([Ramp.idle, .ramped 5].all fun r =>
      let x := fieldWork (.layer (aLayer [] none))
      let s := passing x (some (1, 0)) r
      s.work? 9 == some x && (s.core 0).ramp == r && decide (s.settleLease 0 = s) && (s.gang? 1).isSome &&
        (s.engineWorks 0).find? (fun y => y.gang == 1 && y.troupe == 0) == some x && (s.core 0).lease == some (1, 0) && s.bad == []) = true := by
  decide +kernel

noncomputable def stacked (p : Stack) (regions : List Region) (works : List Work) (cycle : Nat) : State :=
  { (here false).setPile p with regions := regions, works := works, cycle := cycle }
def aJob (running ended : Bool) : JobWork := { field := 0, part0 := 0, parts := 1, prog := [0x88000000], status := 0x10000080, running := running, ended := ended }
noncomputable def fieldState (x : Work) (near : Option Nat) : State :=
  let s := fielded [{ aField with items := [9] }]
  let s := s.setCur { s.cur with near := near }
  { s with works := [x] }
theorem witness_StackAndFieldEvents :
    (let s : State := { stacked { stack := 15, up := true } [] [] 0 with bootStep := 8 }
     (s.pile 15).up = true ∧ (s.pile 15).resetting = none ∧ s.slotFree 15 3 = true ∧ (s.passesOn 15).length < 1536 ∧ (s.pile 15).rows = [] ∧
       s.mayPublish 15 = true ∧ ({ s with bootStep := 7 } : State).mayPublish 15 = false ∧ s.loads = [] ∧ s.rowHeld 15 7 true = false) ∧
    (∀ st ∈ [none, some JState.intent, some .programmed, some .verified],
     let r : Region := { aRegion with due := [(0, 0)] }
     let es : List JEntry := (st.map fun x => ({ region := 1, r := 0, c := 0, tile := 16384, isLoad := false, state := x } : JEntry)).toList
     let z := ({ stacked { stack := 0, up := true, journal := es } [r] [] 0 with bootStep := 8 } : State).freeOld 0
     z.tileOwner 0 0 = some (r, 0) ∧ (z.pile 0).resetting = none ∧ (r.due.any fun d => r.tileIndex d.1 d.2 == 0) = true ∧ z.mayPublish 0 = true ∧
       ((z.pile 0).journal.find? fun e => e.region == r.id && e.r == 0 / r.nt && e.c == 0 % r.nt) = es.head? ∧
       r.avail = true ∧ (z.pile 0).tileStopped 0 = false ∧ spareOf (z.pile 0).gone 0 = some 16384) ∧
    (let e : JEntry := { region := 1, r := 0, c := 0, tile := 0, isLoad := true, state := .verified }
     let l : Load := { image := 4, left := [0] }
     let s : State := { stacked { stack := 0, up := true, journal := [e] } [aRegion] [] 0 with loads := [l], images := [{ id := 4, bytes := [], sig := [], regions := [aRegion] }] }
     s.loads = [l] ∧ l.left.contains 0 = true ∧ (s.loadRegions l).contains e.region = true ∧ (∀ k ∈ l.left, k = 0)) ∧
    (rowTile 7 = none ∧ (rowTile (2 ^ 40)).isSome = true ∧ (let s := stacked { stack := 0 } [] [] 1900000000
     (s.cycle - (s.pile 0).rowsAt) / 60800000 ≠ 0 ∧ (s.cycle - (s.pile 0).tilesAt) / 1900000000 ≠ 0)) ∧
    (let l := aLine 3 12 0
     let s : State := (lined 208 [{ l with dirty := 1 }])
     s.bad.contains (l.line, 5) = false ∧ ([(0, 12)] : List (Nat × Nat)).contains (208 - 208, l.way) = true) ∧
    (let x := fieldWork (.job (aJob true false))
     let s : State := { fieldState x none with cycle := 1900000 }
     (s.pile 0).resetting = none ∧ s.sequencerBusy 0 = true ∧ (s.pile 0).progress + 1900000 ≤ s.cycle) ∧
    ((stacked { stack := 0, resetting := some 0 } [] [] 0).pile 0).resetting = some 0 ∧
    (let x := fieldWork (.conversion 0)
     (fieldState x none).work? 9 = some x ∧ (((fieldState x none).part 0).fields[0]?.map FieldSlot.held) = some true ∧ (fieldState x none).caches = []) ∧
    (let x := fieldWork (.release 0)
     (fieldState x none).work? 9 = some x ∧ (fieldState x none).headsField 0 0 9 = true) ∧
    (let x := fieldWork (.job (aJob false false))
     let s := fieldState x none
     s.work? 9 = some x ∧ s.headsField 0 0 9 = true ∧ (∀ y ∈ s.works, y = x) ∧ (∀ h ∈ s.jobStacks x (aJob false false), (s.pile h).resetting = none)) ∧
    (let x := fieldWork (.job (aJob true true))
     let s := fieldState x none
     let y := x.withJob { aJob true true with wrote := true }
     s.work? 9 = some x ∧ s.ctrBlocked x = false ∧
       (meets (s.engineWrite x (.flat 0x10000080) 8 (2 ^ 63)) fun u => ((u.setWork y).workAdd y y.err).2)) ∧
    (let s := fieldState (fieldWork (.release 0)) (some 0)
     let t : State := { s with gg := { s.gg with save := some { deadline := 0 } } }
     (t.troupe? 1 0).isSome = true ∧ (t.focusTo pathP).cur.live = true ∧ (t.focusTo pathP).cur.near ≠ none ∧ (t.focusTo pathP).gg.save ≠ none) := by
  decide +kernel

/-- Queue 0 of partition 0: 4 slots at 0x1000_0000, a card in slot 0. -/
noncomputable def queued (x : Queue) (r : Nat) : State :=
  let s := (poke mapped 0x10000000 64 r).setQueue { x with base := 0x10000000, enabled := true }
  (s.updCluster 0 fun c => { c with ok := true, holder := some 0 }).setPart { s.part 0 with clm := 1, tsm := 0xFFFF }
def aQueue (h t state : Nat) : Queue := { q := 0, h := h, t := t, state := state }
def slotIs (x : SlotRead) (p : Nat → Bool) : Bool :=
  match x with
  | .ok r => p r
  | _ => false
theorem witness_QueueAndGangEvents :
    (let s := queued (aQueue 0 1 0) 1
     let x := s.queue 0
     x.enabled = true ∧ x.launchFed = false ∧ x.t < 4 ∧ 4 ≤ x.h + 2 ^ x.logn ∧ x.h + 2 ^ x.logn < 5 ∧ x.state = 0 ∧
       (x.h < x.t ∧ (x.cards.filter fun c => !c.placedAll).length < 4 ∧ s.queueDrained x.part 0 = false ∧ x.wait = none) ∧
       slotIs ((s.setQueue { x with wait := none }).readSlot x x.h) (fun r => cdType r == 1 && ((s.setQueue { x with wait := none }).check2 x r none).isNone)) ∧
    (let s := queued (aQueue 0 2 1) 1
     (s.queue 0).enabled = true ∧ (s.queue 0).launchFed = false ∧ (s.queue 0).t < 5 ∧ (s.queue 0).h + 2 ^ (s.queue 0).logn < 5 ∧ (s.queue 0).state = 1 ∧ (s.queue 0).t - 2 ≤ (s.queue 0).size) ∧
    ([(4, fun _ _ => true), (3, fun (s : State) r => (s.check2 (s.queue 0) r none).isNone), (1 + 16, fun s r => s.check2 (s.queue 0) r none == some 2)].all
      fun (c : Nat × (State → Nat → Bool)) => let s := queued (aQueue 0 1 0) c.1
        slotIs (s.readSlot (s.queue 0) 0) fun r => r == c.1 && c.2 s r) ∧
    (let s := queued (aQueue 3 4 0) 0
     let s := poke s 0x100000C0 64 2
     slotIs (s.readSlot (s.queue 0) 3) (fun r => cdType r == 2) ∧ (s.queue 0).h % (s.queue 0).size = (s.queue 0).size - 1) ∧
    (let s := poke (queued (aQueue 0 2 0) (2 + 16)) 0x10000040 64 0x10000800
     slotIs (s.readSlot (s.queue 0) 0) (fun r => cdType r == 2 && slotIs (s.readSlot (s.queue 0) 1) (fun r2 => (s.check2 (s.queue 0) r (some r2)).isNone))) ∧
    (let s := queued { aQueue 0 3 0 with launchFed := true, posts := [{ bytes := 1, two := false, gang := 1, troupe := 0, batch := 1 }] } 0
     (s.queue 0).enabled = true ∧ (s.queue 0).t + 1 ≤ (s.queue 0).h + (s.queue 0).size ∧ s.slotMiss (s.queue 0) 1 = none) ∧
    (let s : State := { mapped with bootStep := 9, parts := mapped.parts.map fun p => { p with active := true, nq := 1 } }
     s.mbx = true ∧ s.queueOk 0 (2 * 2 ^ 155) = true) := by decide +kernel

/-- A staged card, and a free cluster of its partition. -/
noncomputable def staged : State :=
  let s := queued { aQueue 1 1 0 with cards := [{ uid := 7 }] } 0
  s.setPart { s.part 0 with frames := 4 }
/-- A gang whose one troupe has ended; its card has had all its gangs placed. -/
noncomputable def ending (cards : List Card) : State :=
  let s := queued { aQueue 1 1 0 with cards := cards } 0
  { s with tr := { s.tr with ended := true, p := {} }, gg := { s.gg with card := 7 } }
theorem witness_QueueAndGangEvents_gangs :
    (let a := staged.refreshActive.reclaim
     a.nextPart = some 0 ∧ a.placeable 0 = some (.card 0, (0, 0))) ∧
    ([([], false), ([({ uid := 7, ngang := 2, next := 1, liveGangs := 1 } : Card)], false), ([{ uid := 7, next := 1, liveGangs := 1, placedAll := true }], true)].all
      fun (c : List Card × Bool) => let s := ending c.1
        (s.gang? 1).isSome && s.finished s.gg && (((s.releaseGang s.gg).cardFor s.gg).map fun k => k.placedAll && k.liveGangs == 1 && k.doneWait == []) == (if c.1 = [] then none else some c.2)) ∧
    (∀ f ∈ [false, true], let s := ending [{ uid := 7, next := 1, liveGangs := 1, placedAll := true, doneWait := [2] }]
     let s := s.setPart { s.part 0 with faults := [{ num := 2, miss := { stage := true, addr := 0, acc := .write }, failed := f }] }
     let r := (s.releaseGang s.gg).settleChecksOf 1
     r.faultsOpen 0 [2] = !f ∧ r.faultsFailed 0 [2] = f ∧ s.checks = [] ∧ r.checks = []) ∧
    ((ending []).counterAdd 0 0 false 0 0 false).2 = none ∧ ([3, 1, 1, 2] : List Nat).length = 4 ∧
    (staged.bestPlace (staged.shapeOf 0 { uid := 7 })).isSome = true := by decide +kernel

/-- The smallest control block that passes: parent 63, a log of 16 entries, a ring of 16 records; with a minimum of one staging buffer or none. -/
def smallPcb (card : Nat) : Nat := 63 * 2 ^ 384 + (4 * 2 ^ 460 + 4 * 2 ^ 407 + card * 2 ^ 346) * 2 ^ 1024
noncomputable def booted : State := { mapped with bootStep := 9 }
noncomputable def activeZero (p : Partition) : State := { booted.setPart { p with active := true } with queues := [] }
/-- A partition waiting for its minimums, as PARTITION_ACTIVATE leaves it. -/
noncomputable def claimed (s : State) (n pcb : Nat) : State :=
  s.setPart { partOf n pcb with pending := true, vtime := (s.part n).vtime, shapeMax := (s.part n).shapeMax }
theorem witness_PartitionEvents :
    ([1, 62].all fun n => decide (6 ≤ booted.bootStep) && !(booted.part n).active && !(booted.part n).pending &&
      decide (((booted.others n).filter fun q => q.parent == 63).length < 16) && (booted.pcbCode (partOf n (smallPcb 0))).isNone &&
      (claimed booted n (smallPcb 0)).poolsFree && booted.pcbCode (partOf n 0) == some 1) ∧
    (let s := booted.setPart { booted.part 5 with active := true, keys := 7, used := { card := 4096 } }
     s.pcbCode (partOf 1 (smallPcb 1)) = none ∧ (claimed s 1 (smallPcb 1)).poolsFree = false) ∧
    ¬ 6 ≤ State.reset.bootStep ∧
    (let s := activeZero (booted.part 0)
     (s.part 0).active = true ∧ s.pcbCode (partOf 0 (smallPcb 0)) = none ∧ s.pcbCode (partOf 0 0) = some 1) ∧
    (let s : State := { activeZero (booted.part 0) with cycle := 1900000000 }
     (s.part 0).usage.closed < s.cycle / 1900000000) ∧
    (activeZero (booted.part 0)).cycle / 1900000000 ≤ ((activeZero (booted.part 0)).part 0).usage.closed ∧
    ((activeZero { booted.part 0 with sigDue := true }).part 0).sigDue = true ∧
    ((booted.part 0).logRoom = true ∧ 9 ≤ booted.bootStep ∧ ({ booted.part 0 with logk := 0, logtail := 1 } : Partition).logRoom = false) :=
  ⟨by decide +kernel, by decide +kernel, by decide +kernel, by decide +kernel, by decide +kernel, by decide +kernel, by decide +kernel, by decide +kernel⟩
/-- A path asleep in WAITC without a monitor entry, while the partition holds so many. -/
noncomputable def waiting (used : Nat) : State :=
  asleep (booted.setPart { booted.part 0 with active := true, used := { monitor := used } }) (.waitc 0 0 .eq .device false false 5)
theorem witness_PartitionEvents_2 : Memory.wf booted.mem = true ∧ booted.tryPending.waitList .card 0 = [] ∧ booted.tryPending.waitList .monitor 0 = [] ∧
    ((waiting 0).tryPending.waitList .monitor 0 = [(0, 0, .path pathP)] ∧ (waiting 0).tryPending.mayTake .monitor 0 1 (some 0) = true) ∧
    ((waiting 16384).tryPending.waitList .monitor 0 = [(0, 0, .path pathP)] ∧ (waiting 16384).tryPending.mayTake .monitor 0 1 (some 0) = false) := by
  decide +kernel
theorem witness_PartitionEvents_pools :
    (let s := booted.setPart { booted.part 0 with active := true, min := { card := 2 }, used := { card := 1 } }
     let p := s.part 0
     p.used.card < p.min.get .card - ((s.childrenOf p.id).map fun c => c.min.get .card).sum) ∧ (booted.part 0).min.get .card ≤ (booted.part 0).used.get .card ∧
    (let s := waiting 0
     s.mayTake .monitor 0 1 (some 0) = true ∧ s.mayTake .monitor 0 1 none = false ∧ (s.part 0).min.monitor ≤ (s.part 0).used.monitor ∧
       s.asks .monitor = [(0, 0, .path pathP)] ∧ s.grants .monitor 0 = true) := by decide +kernel

noncomputable def saving (forced : Bool) : State := { here false with gg := { (here false).gg with save := some { deadline := 0, forced := forced } } }
noncomputable def savedOne : State :=
  let s := staged.setQueue { aQueue 1 1 0 with enabled := true }
  { s with saved := [{ gang := { bootGang 3 false with troupes := [bootTroupe 4096] }, image := 0, forced := false, recl := false, cycle := 0 }] }
def aGroup (leader : Nat) : SwitchGroup := { members := [0, 5], leader := leader }
theorem witness_PreemptionEvents :
    (let s : State := { State.reset with cycle := 2 * State.reset.slotLen }
     s.group = none ∧ s.slotAt < s.cycle / s.slotLen * s.slotLen) ∧
    ((saving false).gang? 1).bind Gang.save = some { deadline := 0 } ∧ ((saving false).gang? 1).isSome = true ∧
    (let c := aCopy 0 0 false []
     ({ saving false with works := [copyWork { c with z := 16, done := 1 } false] } : State).saveReady 1 = false) ∧ (saving false).saveReady 1 = true ∧ 0 ≤ (saving false).cycle ∧
    (let s : State := { State.reset with drains := [{ scope := .partition 3, deadline := 0 }] }
     (s.drains.find? fun x => x.scope == .partition 3).isSome = true ∧ s.allGangs = []) ∧
    (let s : State := (({ State.reset with cycle := 190000 } : State).setPart { id := 3, active := true, lend := true }).updCluster 15 fun c => { c with holder := some 3 }
     (s.cluster 15).holder = some 3 ∧ (s.part 3).lend = true ∧ (s.cluster 15).borrower = none ∧ s.allGangs = [] ∧ s.placeableOn 3 15 = false ∧ 15 ∉ s.switching ∧
       (s.cluster 15).idleSince + 190000 ≤ s.cycle) ∧
    (let a := savedOne.refreshActive.reclaim
     a.nextPart = some 0 ∧ a.placeable 0 = some (.saved 3, (0, 1)) ∧ (a.saved.find? fun x => x.gang.uid == 3).isSome = true) ∧
    (savedOne.saved.map fun v => v.gang.troupes[0]?) = [some (bootTroupe 4096)] ∧ booted.mbx = true ∧ State.reset.mbx = false ∧
    (State.reset.modnum ∈ [0, 5] ∧ [0, 5].Nodup ∧ (List.range 1152).length ≤ 1152) ∧
    (let s : State := { State.reset with group := some (aGroup 0) }
     s.group = some (aGroup 0) ∧ (aGroup 0).leader = s.modnum ∧ (aGroup 0).tick = none ∧ (aGroup 0).nextTick ≤ s.cycle ∧ (aGroup 5).leader ≠ s.modnum ∧
       5 ∈ (aGroup 0).members ∧ 5 ≠ s.modnum ∧ 5 ∉ (aGroup 0).saved ∧ 5 ∉ (aGroup 0).forced) := by decide +kernel

noncomputable def hosted : State := activeZero (booted.part 0)
theorem witness_EdgesAndBoot :
    (hosted.part 0).active = true ∧ hosted.bar = [] ∧ (0x10000000000000 : Nat) % 2 ^ 36 = 0 ∧
    ((hosted.setQueue { aQueue 0 0 0 with enabled := true, page := 63 }).pageQueue 0 63 = some 0) ∧
    ([AccKind.read, .write].all fun k => match hosted.windowPas 1 0x10000000 k 8 with
      | some pas => pas.length == 8 && (pas.head?.bind hosted.bellAt).isNone && pas.all fun pa => (hosted.lineError 128 pa).isNone
      | none => false) = true ∧
    (let s : State := { hosted with bells := [(0x10000, 0)] }
     (match s.windowPas 1 0x10000000 .write 8 with
      | some pas => pas.head?.bind s.bellAt == some 0
      | none => false) = true) ∧
    hosted.windowPas 1 (2 ^ 36) .read 1 = none ∧
    (let s : State := { hosted with windows := [(1, 2 ^ 40)], domain := [5, 7], lost := [5] }
     [0x10000000].find? s.away = none ∧ [0x10000000, 5 * 2 ^ 40].find? s.away = some (5 * 2 ^ 40) ∧ s.homed 0x10000000 = true ∧ s.paLegal 0x10000000 = true ∧ s.bellAt 0x10000000 = none ∧ s.held = [] ∧ 7 ∈ s.domain ∧
       7 ≠ s.modnum ∧ ({ s with bells := [(0x10000, 0)] } : State).bellAt 0x10000000 = some 0 ∧ s.homed (5 * 2 ^ 40) = false) ∧
    (hosted.setPort { port := 35, trained := true } |>.port 35).trained = true ∧
    (let s : State := { hosted with domain := [7] }
     7 ≠ s.modnum ∧ 7 ∉ s.lost ∧ 7 ∈ s.domain ∧ s.group = none) ∧
    State.reset.bootFail = false ∧ State.reset.bootStep < 9 ∧ 9 ≤ booted.bootStep ∧ booted.mbx = true ∧
    (let s : State := { booted with images := [{ id := 4, bytes := [], sig := [], regions := [] }], imageKey := some 0, regions := [aRegion] }
     (s.images.find? fun i => i.id == 4).isSome = true ∧ s.imageKey = some 0 ∧ (s.region? 1).isSome = true) := by decide +kernel


/-- A word of a troupe, and one no instruction has; a job's micro-op; a posted step; no power. -/
noncomputable def placed (w : Nat) : State := State.reset.withFetchWord 32 w
def isPath (c : Option Cand) : Bool :=
  match c with
  | some (.path _) => true
  | _ => false
theorem witness_StepRunsInstruction :
    ([0x02014082, 0x00000000].all fun w => let s := placed w
      s.power && s.checks = [] && s.agenda = [] && isPath s.pick.1 && (s.chosen.all fun p =>
        meets (s.pick.2.passTime.focusTo p).fetch fun x => x.1 == BitVec.ofNat 32 w)) = true ∧
    (let s := (placed 0x02014082).setCur { (placed 0x02014082).cur with waits := true }
     s.pick.1 = some (.retry pathP) ∧ (meets (s.pick.2.passTime.focusTo pathP).fetch fun x => x.1 == 0x02014082)) ∧
    (let s : State := { placed 0x02014082 with bad := (List.range 64).map fun r => ((placed 0x02014082).regLine r, 0) }
     s.pick.1 = some (.path pathP) ∧ (meets (s.pick.2.passTime.focusTo pathP).fetch fun x => (meets (decodeWord x.1) fun i => (x.2.regErr i).isSome))) ∧
    (meets (decodeWord 0x02014082) fun _ => true) = true ∧ (meets (decodeWord 0) fun _ => true) = false ∧
    (let s := placed 0x88000000
     s.power = true ∧ s.checks = [] ∧ s.agenda = [] ∧ s.pick.1 = some (.micro 1) ∧ ({ s.pick.2.passTime with jobSel := 1 } : State).microWord = some 0x88000000 ∧
       (meets (decodeMicroOp 0x88000000) fun _ => true) = true) ∧
    (let s := { placed 0 with sched := [1] }
     (match s.pick.1 with
      | some (.event _) => true
      | _ => false) = true) ∧
    ({ State.reset with agenda := [.ringCycle] } : State).power = true ∧ ({ State.reset with power := false, agenda := [.powerGood] } : State).power = false ∧
    (∀ r, ({ State.reset with power := false } : State).agenda ≠ Instr.powerGood :: r) :=
  ⟨by decide +kernel, by decide +kernel, by decide +kernel, by decide +kernel, by decide +kernel, by decide +kernel, by decide +kernel, rfl, rfl,
   by intro r h; cases h⟩

/-- The first step after reset runs the word placed: ADDI s5, s0, 7 (02, major 0x05), at its launch values; the path goes on at the next word. -/
theorem test_step_runs_the_placed_word : (next (step (placed 0x0A140007))).rS 5 = 7 ∧ (next (step (placed 0x0A140007))).pc = 0x1004 := by decide +kernel

/-- Reset memory has the canonical form, and its step answers. -/
theorem witness_StepKeepsSafe : Memory.wf State.reset.mem = true ∧ isNext (step State.reset) = true := ⟨by decide +kernel, by decide +kernel⟩
theorem witness_EncodeDecodeAgree : (Instr.movi 7 0x1234).wellFormed = true ∧ (encode (.movi 7 0x1234)).isSome = true := by decide +kernel
theorem witness_ReservedWordsRefused : ((0 : BitVec 32).extractLsb' 25 7).toNat = 0 ∧ ((0xE8000000 : BitVec 32).extractLsb' 25 7).toNat = 0x74 ∧
    ((0 : BitVec 32).extractLsb' 27 5).toNat = 0 ∧ ((0x90000000 : BitVec 32).extractLsb' 27 5).toNat = 18 := by decide

end Sys2Proof.Tests
end

section
/-!
SUPPORT. What a plain load or store leaves alone: translation, the store stream of a troupe with nothing owed, the retirement (R22, R31, R107, R286).
-/

namespace Sys2Proof.Machine

/-! ### States up to the records an access makes of its own -/

/-- The state apart from what a translation may change: the TLBs, the walk caches and the requests of lines (R275, R453). -/
def State.sansWalks (s : State) : State := { s with fills := [], tlbs := [], wcache := [] }

/-- The state apart from the loads of the troupe that have bound ahead (R313). -/
def State.sansEarly (s : State) : State := { s with tr := { s.tr with early := [] } }

/-- The state apart from what an access that touches no byte may change: what a translation may, the troupe's stream, its early loads and the
number of its instruction (R107, R313), and the counts of its retirement (R31, R273). -/
def State.sansAccess (s : State) : State :=
  { s.sansWalks with parts := [], gg := { s.gg with ret := 0, gclk := 0 }, tr := { s.tr with stream := [], early := [], ins := 0 } }

/-- The same apart from the scalar and vector registers too. -/
def State.sansData (s : State) : State :=
  { s.sansAccess with tr := { s.sansAccess.tr with sreg := ({} : Troupe).sreg, vreg := ({} : Troupe).vreg } }

/-- A stream entry apart from the lanes that have read it by forwarding (R107, R316). -/
def StoreEntry.unseen (e : StoreEntry) : StoreEntry := { e with seen := 0 }

theorem State.gg_of_sansWalks {s t : State} (h : t.sansWalks = s.sansWalks) : t.gg = s.gg := by
  have hg := congrArg State.gg h
  exact hg
theorem State.tr_of_sansWalks {s t : State} (h : t.sansWalks = s.sansWalks) : t.tr = s.tr := by
  have ht := congrArg State.tr h
  exact ht
theorem State.sansAccess_of_sansWalks {s t : State} (h : t.sansWalks = s.sansWalks) : t.sansAccess = s.sansAccess := by
  unfold State.sansAccess
  rw [h, State.gg_of_sansWalks h, State.tr_of_sansWalks h]
theorem State.sansAccess_of_sansEarly {s t : State} (h : t.sansEarly = s.sansEarly) : t.sansAccess = s.sansAccess := by
  have hs := congrArg State.sansAccess h
  exact hs
theorem State.stream_of_sansEarly {s t : State} (h : t.sansEarly = s.sansEarly) : t.tr.stream = s.tr.stream := by
  have hs := congrArg (fun x : State => x.tr.stream) h
  exact hs
theorem State.sansData_of_sansAccess {s t : State} (h : t.sansAccess = s.sansAccess) : t.sansData = s.sansData := by
  unfold State.sansData
  rw [h]

/-! ### Translation -/

theorem State.walkBy_sansWalks (s : State) (core part : Nat) (sys : Bool) (va : Nat) (acc : AccKind) :
    (s.walkBy core part sys va acc).2.sansWalks = s.sansWalks := by
  unfold State.walkBy
  split <;> rfl
/-- A translation changes the TLBs, the walk caches and the requests alone (R453). -/
theorem State.translate_sansWalks (s : State) (core part : Nat) (sys : Bool) (va : Nat) (acc : AccKind) :
    (s.translate core part sys va acc).2.sansWalks = s.sansWalks := by
  unfold State.translate
  split
  · split
    · rfl
    · exact s.walkBy_sansWalks ..
  · exact s.walkBy_sansWalks ..
/-- An access that lands leaves the state its translation has left. -/
theorem State.landed_ok {s u : State} {ln : Option Nat} {a : Word64} {acc : AccKind} {x : Trans × State} {l : Loc}
    (h : s.landed ln a acc x = .ok (l, u)) : u = x.2 := by
  unfold State.landed at h
  split at h
  · split at h
    · cases h
    · cases h
      rfl
  all_goals cases h
theorem State.place_sansWalks {s u : State} {ln : Option Nat} {lane : Nat} {a : Word64} {acc : AccKind} {l : Loc}
    (h : s.place ln lane a acc = .ok (l, u)) : u.sansWalks = s.sansWalks := by
  unfold State.place State.placeBy at h
  split at h
  case h_1 => cases h
  case h_2 =>
    split at h
    · cases h
      rfl
    · cases h
  case h_3 =>
    split at h
    · split at h
      · cases h
        rfl
      · cases h
    · split at h
      · rw [State.landed_ok h]
        exact s.translate_sansWalks ..
      · cases h
/-- The lanes' translations, one after another; no lane lands twice. -/
theorem State.places_ok {one : Bool} {acc : AccKind} {as : List (Nat × Word64)} {s u : State} {ms : List PageMiss} {ls ls' : List (Nat × Loc)}
    (h : s.places one acc as ms ls = .ok (ls', u)) : u.sansWalks = s.sansWalks ∧ ls'.length ≤ ls.length + as.length := by
  induction as generalizing s ms ls with
  | nil =>
    unfold State.places at h
    split at h
    · cases h
      exact ⟨rfl, Nat.le_refl _⟩
    · cases h
  | cons x r ih =>
    obtain ⟨lane, a⟩ := x
    unfold State.places at h
    split at h
    next l s' hp =>
      obtain ⟨hw, hl⟩ := ih h
      refine ⟨hw.trans (State.place_sansWalks hp), ?_⟩
      simp only [List.length_append, List.length_cons, List.length_nil] at hl ⊢
      omega
    next =>
      obtain ⟨hw, hl⟩ := ih h
      exact ⟨hw, hl.trans (by simp only [List.length_cons]; omega)⟩
    next => cases h
    next => split at h <;> cases h
/-- Steps 6 and 7 of an access that lands (R283, R284). -/
theorem State.resolve_ok {s u : State} {one : Bool} {acc : AccKind} {z : Nat} {as : List (Nat × Word64)} {ls : List (Nat × Loc)}
    (h : s.resolve one acc z as = .ok (ls, u)) : u.sansWalks = s.sansWalks ∧ ls.length ≤ as.length := by
  unfold State.resolve at h
  split at h
  · cases h
  · obtain ⟨hw, hl⟩ := State.places_ok h
    exact ⟨hw, by simpa using hl⟩

/-! ### Requests, clips and the retirement -/

theorem State.addFill_sansWalks (s : State) (mode : AccMode) (write : Bool) (l : Loc) : (s.addFill mode write l).sansWalks = s.sansWalks := by
  unfold State.addFill
  split <;> rfl
/-- The requests of an access are all it adds to the levels (R275). -/
theorem State.addFills_sansWalks (s : State) (mode : AccMode) (write : Bool) (n : Nat) (ls : List Loc) :
    (s.addFills mode write n ls).sansWalks = s.sansWalks := by
  unfold State.addFills
  generalize distinctLines _ = ds
  induction ds generalizing s with
  | nil => rfl
  | cons l r ih => exact (ih _).trans (s.addFill_sansWalks mode write l)
/-- Below system scope nothing is clipped (R324). -/
theorem State.noteClip_of_ne_system (s : State) {scope : OrdScope} (h : scope ≠ .system) : s.noteClip scope = s := by
  have hc : s.clips scope = false := by simp [State.clips, h]
  simp only [State.noteClip, hc, Bool.false_eq_true, if_false]
theorem State.countRetire_sansAccess (s : State) : s.countRetire.sansAccess = s.sansAccess := by
  unfold State.countRetire
  dsimp only
  split <;> rfl
theorem State.countRetire_tr (s : State) : s.countRetire.tr = s.tr := by
  unfold State.countRetire
  dsimp only
  split <;> rfl

/-- How an access ends: its requests are made and it retires. -/
theorem State.retired_sansAccess (s : State) (mode : AccMode) (write : Bool) (n : Nat) (ls : List Loc) (h : mode.scope ≠ .system) :
    ((s.addFills mode write n ls).noteClip mode.scope).countRetire.sansAccess = s.sansAccess := by
  rw [State.countRetire_sansAccess, State.noteClip_of_ne_system _ h]
  exact State.sansAccess_of_sansWalks (s.addFills_sansWalks ..)
theorem State.retired_tr (s : State) (mode : AccMode) (write : Bool) (n : Nat) (ls : List Loc) (h : mode.scope ≠ .system) :
    ((s.addFills mode write n ls).noteClip mode.scope).countRetire.tr = s.tr := by
  rw [State.countRetire_tr, State.noteClip_of_ne_system _ h]
  exact State.tr_of_sansWalks (s.addFills_sansWalks ..)

/-! ### The stream of a troupe with nothing owed -/

/-- No atomic, no acquire and no device access is left to perform (R285, R452). -/
def State.PlainStream (s : State) : Prop := ∀ e ∈ s.tr.stream, e.aop = none ∧ ¬ Acquires e.mode ∧ e.loc.device = false

theorem isAcquire_eq_false {m : AccMode} (h : ¬ Acquires m) : isAcquire m.order = false := by
  unfold Acquires at h
  cases ho : m.order <;> simp [ho] at h <;> rfl

theorem Loc.meets_comm (a b : Loc) (n : Nat) : a.meets n b n = b.meets n a n := by
  cases a <;> cases b <;> simp only [Loc.meets, Bool.and_comm]

/-- Where no entry is wanted, none performs. -/
theorem splitStream_of_unwanted {want : StoreEntry → Bool} {l : List StoreEntry} (h : ∀ e ∈ l, want e = false) : splitStream want l = ([], l) := by
  induction l with
  | nil => rfl
  | cons e r ih =>
    obtain ⟨he, hr⟩ := List.forall_mem_cons.1 h
    simp [splitStream, ih hr, he]
theorem State.drainWhere_of_unwanted {s : State} {want : StoreEntry → Bool} (h : ∀ e ∈ s.tr.stream, want e = false) : s.drainWhere want = s := by
  simp only [State.drainWhere, splitStream_of_unwanted h, List.foldl_nil]
/-- Before a plain load binds, nothing has to perform (R24, R285, R452). -/
theorem State.settle_of_plain {s : State} (h : s.PlainStream) (lanes : BitVec 32) (ls : List (Nat × Loc)) (n : Nat) : s.settle lanes ls n = s := by
  refine State.drainWhere_of_unwanted fun e he => ?_
  obtain ⟨hop, hacq, hdev⟩ := h e he
  simp [isAcquire_eq_false hacq, hop, hdev]
/-- Lanes that share bytes nobody has stored in make nothing perform (R289). -/
theorem State.shareBytes_of_unmet {s : State} {ls : List (Nat × Loc)} {z : Nat}
    (h : ∀ e ∈ s.tr.stream, ∀ l ∈ ls, e.loc.meets e.size l.2 z = false) : s.shareBytes ls z = s := by
  unfold State.shareBytes
  split
  · rfl
  · refine State.drainWhere_of_unwanted fun e he => ?_
    rw [Bool.and_eq_false_iff]
    exact .inr (List.any_eq_false.2 fun l hl => by simp [h e he l hl])

/-! ### Early loads and the marks of forwarding -/

theorem State.foldl_forgetAt_sansEarly {α : Type} (lanes : α → BitVec 32) (loc : α → Loc) (n : α → Nat) (since : State → α → Nat) (bs : List α)
    (s : State) : (bs.foldl (fun s b => s.forgetAt (lanes b) (loc b) (n b) (since s b)) s).sansEarly = s.sansEarly := by
  induction bs generalizing s with
  | nil => rfl
  | cons b r ih => exact (ih _).trans rfl
/-- What a load that has bound does to the early loads is all it does to the state (R285, R310). -/
theorem State.afterLoad_sansEarly (s : State) (mode : AccMode) (bs : List (BitVec 32 × Loc × Nat × Nat)) :
    (s.afterLoad mode bs).sansEarly = s.sansEarly := by
  have h := State.foldl_forgetAt_sansEarly (fun b => b.1) (fun b => b.2.1) (fun b => b.2.2.1) (fun _ b => b.2.2.2) bs s
  unfold State.afterLoad
  dsimp only
  split
  · exact Eq.trans rfl h
  · exact h
/-- A scalar load marks the entries it has read and changes nothing else of them (R107, R316). -/
theorem State.noteSeen_stream (s : State) (ls : List (Nat × Loc)) (z : Nat) :
    (s.noteSeen ls z).tr.stream.map StoreEntry.unseen = s.tr.stream.map StoreEntry.unseen := by
  unfold State.noteSeen
  rw [List.map_map]
  refine List.map_congr_left fun e _ => ?_
  dsimp only [Function.comp_apply]
  split <;> rfl

end Sys2Proof.Machine
end

section
/-!
O39, the frame of plain loads and stores: what a load or a store that completes does to the state, then one effect for the four shapes of plain
access (R122, R288 to R290).
-/

namespace Sys2Proof.Machine

/-! ### Loads -/

/-- The entries a vector load's sharing lanes would make perform: none, when no lane has stored in what several lanes read (R289). -/
theorem unshared_of_apart {stream : List StoreEntry} {ls : List (Nat × Loc)} {z : Nat} {one : Bool}
    (h : one = false → ∀ e ∈ stream, ∀ x ∈ ls, ∀ y ∈ ls, x.1 ≠ y.1 → x.2.meets z y.2 z = true → e.loc.meets e.size x.2 z = false) :
    ∀ e ∈ stream, ∀ x ∈ ls.filter (fun l => !(one || ls.all fun m => m.1 == l.1 || !m.2.meets z l.2 z)), e.loc.meets e.size x.2 z = false := by
  intro e he x hx
  simp only [List.mem_filter, Bool.not_eq_true', Bool.or_eq_false_iff, List.all_eq_false] at hx
  obtain ⟨hxl, hone, y, hyl, hy⟩ := hx
  simp only [Bool.or_eq_true, beq_iff_eq, Bool.not_eq_true', not_or, Bool.not_eq_false] at hy
  exact h hone e he x hxl y hyl (Ne.symm hy.1) (by rw [Loc.meets_comm]; exact hy.2)

/-- A plain load that completes hands its register write a state that differs in its own records alone; of the stream, in the marks of
forwarding alone. -/
theorem State.load_done {s u : State} {one : Bool} {z : Nat} {mode : AccMode} {as : List (Nat × Word64)} {ls : List (Nat × Loc)}
    (k : State → List (Nat × Nat) → State) (hr : s.resolve one .read z as = .ok (ls, u)) (hd : u.dataErr one as ls = none) (hu : Unheld u)
    (hacq : ¬ Acquires mode) (hscope : mode.scope ≠ .system) (hplain : s.PlainStream)
    (hapart : one = false → ∀ e ∈ s.tr.stream, ∀ x ∈ ls, ∀ y ∈ ls, x.1 ≠ y.1 → x.2.meets z y.2 z = true → e.loc.meets e.size x.2 z = false) :
    ∃ w vs, s.load one z mode as k = .done (k w vs) ∧ w.sansAccess = s.sansAccess ∧
      w.tr.stream.map StoreEntry.unseen = s.tr.stream.map StoreEntry.unseen := by
  have hw := (State.resolve_ok hr).1
  have htr := State.tr_of_sansWalks hw
  have hsettle (lanes ls n) : u.settle lanes ls n = u := State.settle_of_plain (by unfold State.PlainStream; rw [htr]; exact hplain) lanes ls n
  have hshare := State.shareBytes_of_unmet (s := u) (z := z) (by rw [htr]; exact unshared_of_apart hapart)
  have hu' : u.heldBack u.pmask = false := hu
  simp only [State.load, hr, hd, hu', Bool.false_eq_true, if_false, hsettle, hshare, isAcquire_eq_false hacq]
  refine ⟨_, _, rfl, ?_, ?_⟩
  · rw [State.retired_sansAccess _ _ _ _ _ hscope, State.sansAccess_of_sansEarly (State.afterLoad_sansEarly ..)]
    refine Eq.trans ?_ (State.sansAccess_of_sansWalks hw)
    split <;> rfl
  · rw [State.retired_tr _ _ _ _ _ hscope, State.stream_of_sansEarly (State.afterLoad_sansEarly ..), ← htr]
    split
    · exact u.noteSeen_stream ls z
    · rfl

/-! ### Stores -/

/-- An entry that stores plainly in a place of an access of `z` bytes, or in half of one (R290). -/
def StoreEntry.StoresIn (e : StoreEntry) (ls : List (Nat × Loc)) (z : Nat) : Prop :=
  e.aop = none ∧ ∃ x ∈ ls, (e.loc = x.2 ∧ e.size = min z 8) ∨ (z = 16 ∧ e.loc = x.2.plus 8 ∧ e.size = 8)

/-- An entry as the stream takes it (R107, R324): with its instruction's number, its clip and where it goes. -/
def State.stamped (s : State) (e : StoreEntry) : StoreEntry := { e with ins := s.tr.ins, clip := s.clips e.mode.scope, out := s.outside e.loc }

/-- The entries of a lane's store: plain, of the access's mode, one at its place or two halves (R290). -/
theorem entriesOf_plain {lanes path : BitVec 32} {lane : Nat} {va : Word64} {l : Loc} {z v : Nat} {mode : AccMode} (hz : z = 16 ∨ z ≤ 8) :
    ∀ e ∈ entriesOf lanes path lane va l z v mode,
      e.aop = none ∧ e.mode = mode ∧ ((e.loc = l ∧ e.size = min z 8) ∨ (z = 16 ∧ e.loc = l.plus 8 ∧ e.size = 8)) := by
  intro e he
  unfold entriesOf at he
  split at he
  next h16 =>
    rcases List.mem_pair.1 he with rfl | rfl
    · exact ⟨rfl, rfl, .inl ⟨rfl, by simp [h16]⟩⟩
    · exact ⟨rfl, rfl, .inr ⟨h16, rfl, rfl⟩⟩
  next h16 =>
    obtain rfl := List.mem_singleton.1 he
    exact ⟨rfl, rfl, .inl ⟨rfl, (Nat.min_eq_left (hz.resolve_left h16)).symm⟩⟩
theorem entriesOf_length (lanes path : BitVec 32) (lane : Nat) (va : Word64) (l : Loc) (z v : Nat) (mode : AccMode) :
    (entriesOf lanes path lane va l z v mode).length = if z = 16 then 2 else 1 := by
  unfold entriesOf
  split <;> rfl

/-- Plain entries that find room join the end of the stream, and nothing performs (R107, R489). -/
theorem State.enter_of_room {s : State} {es : List StoreEntry} (hroom : s.tr.stream.length + es.length ≤ bufferEntries)
    (hacq : ∀ e ∈ es, ¬ Acquires e.mode) :
    (s.enter es).sansAccess = s.sansAccess ∧ (s.enter es).tr.stream = s.tr.stream ++ es.map s.stamped := by
  have hnone : ((es.map s.stamped).any fun e => isAcquire e.mode.order) = false := by
    refine List.any_eq_false.2 fun e he => ?_
    obtain ⟨e', he', rfl⟩ := List.mem_map.1 he
    simp [State.stamped, isAcquire_eq_false (hacq e' he')]
  have hforget := State.foldl_forgetAt_sansEarly (fun e : StoreEntry => e.lanes) (fun e => e.loc) (fun e => e.size) (fun t _ => t.tr.ins)
    (es.map s.stamped) s
  unfold State.stamped at hnone
  simp only [State.enter, if_neg (Nat.not_lt.2 hroom), hnone, Bool.false_eq_true, if_false]
  refine ⟨Eq.trans ?_ (State.sansAccess_of_sansEarly hforget), ?_⟩
  · rfl
  · exact congrArg (· ++ es.map s.stamped) (State.stream_of_sansEarly hforget)

/-- A plain store that completes adds its entries to the stream, at the places its address names, and no more (R107, R286, R290). -/
theorem State.store_done {s u : State} {one : Bool} {z : Nat} {mode : AccMode} {as : List (Nat × Word64)} {ls : List (Nat × Loc)}
    (val : Nat → Nat) (hr : s.resolve one .write z as = .ok (ls, u)) (hu : Unheld u) (hz : z = 16 ∨ z ≤ 8)
    (hacq : ¬ Acquires mode) (hscope : mode.scope ≠ .system) (hroom : s.tr.stream.length + 2 * as.length ≤ bufferEntries) :
    ∃ w, s.store one z mode as val = .done w ∧ w.sansAccess = s.sansAccess ∧
      ∃ es, w.tr.stream = s.tr.stream ++ es ∧ (z ≠ 16 → es.length = ls.length) ∧ ∀ e ∈ es, e.StoresIn ls z := by
  obtain ⟨hw, hlen⟩ := State.resolve_ok hr
  have htr := State.tr_of_sansWalks hw
  have hu' : u.heldBack u.pmask = false := hu
  simp only [State.store, hr, hu', Bool.false_eq_true, if_false]
  generalize hes : (ls.map _).flatten = es
  have hcount : es.length = ls.length * if z = 16 then 2 else 1 := by
    rw [← hes, List.length_flatten, List.map_map]
    rw [List.sum_eq_card_nsmul _ (if z = 16 then 2 else 1) (by
      intro n hn
      obtain ⟨x, _, rfl⟩ := List.mem_map.1 hn
      exact entriesOf_length ..)]
    simp
  have hplain : ∀ e ∈ es, e.StoresIn ls z ∧ e.mode = mode := by
    intro e he
    rw [← hes] at he
    obtain ⟨_, hl, hel⟩ := List.mem_flatten.1 he
    obtain ⟨x, hx, rfl⟩ := List.mem_map.1 hl
    obtain ⟨hop, hmode, hloc⟩ := entriesOf_plain hz e hel
    exact ⟨⟨hop, x, hx, hloc⟩, hmode⟩
  obtain ⟨hsame, hstream⟩ := State.enter_of_room (s := u) (es := es)
    (by rw [htr, hcount]; split <;> omega) (fun e he => by rw [(hplain e he).2]; exact hacq)
  refine ⟨_, rfl, ?_, es.map u.stamped, ?_, ?_, ?_⟩
  · rw [State.retired_sansAccess _ _ _ _ _ hscope, hsame]
    exact State.sansAccess_of_sansWalks hw
  · rw [State.retired_tr _ _ _ _ _ hscope, hstream, htr]
  · intro h16
    simp [hcount, h16]
  · intro e he
    obtain ⟨e', he', rfl⟩ := List.mem_map.1 he
    exact (hplain e' he').1

/-! ### Registers -/

@[simp] theorem State.wS_sansData (s : State) (d : SReg) (x : Word64) : (s.wS d x).sansData = s.sansData := by
  unfold State.wS
  split <;> rfl
@[simp] theorem State.writeLoaded_sansData (s : State) (v : VReg) (vs : List (Nat × Nat)) (n : Nat) : (s.writeLoaded v vs n).sansData = s.sansData := by
  induction n with
  | zero => rfl
  | succ n ih => exact Eq.trans rfl ih
@[simp] theorem State.writeLoaded_rS (s : State) (v : VReg) (vs : List (Nat × Nat)) (n : Nat) (r : SReg) : (s.writeLoaded v vs n).rS r = s.rS r := by
  induction n with
  | zero => rfl
  | succ n ih => exact Eq.trans rfl ih
@[simp] theorem State.writeLoaded_stream (s : State) (v : VReg) (vs : List (Nat × Nat)) (n : Nat) :
    (s.writeLoaded v vs n).tr.stream = s.tr.stream := by
  induction n with
  | zero => rfl
  | succ n ih => exact Eq.trans rfl ih

theorem VReg.toNat_plus {v : VReg} {n : Nat} (h : v.toNat + n < 128) : (VReg.plus v n).toNat = v.toNat + n := by
  simp only [VReg.plus, BitVec.toNat_add, BitVec.toNat_ofNat]
  omega
/-- A loaded group leaves the registers outside it (R288). -/
theorem State.writeLoaded_rV_outside (s : State) {v r : VReg} (vs : List (Nat × Nat)) {n : Nat} (hv : v.toNat + n ≤ 128)
    (h : r.toNat < v.toNat ∨ v.toNat + n ≤ r.toNat) (l : Fin 32) : (s.writeLoaded v vs n).rV r l = s.rV r l := by
  induction n with
  | zero => rfl
  | succ n ih =>
    have hne : r ≠ VReg.plus v n := fun e => by
      have := VReg.toNat_plus (v := v) (n := n) (by omega)
      rw [← e] at this
      omega
    exact (State.rV_wV_other _ _ _ _ hne).trans (ih (by omega) (by omega))
theorem mem_lanesOf {m : BitVec 32} {l : Fin 32} : l ∈ lanesOf m ↔ m.getLsbD l = true := by
  simp [lanesOf]
/-- It leaves the lanes outside the path (R138, R288). -/
theorem State.writeLoaded_rV_inactive (s : State) (v r : VReg) (vs : List (Nat × Nat)) (n : Nat) {l : Fin 32} (h : l ∉ lanesOf s.pmask) :
    (s.writeLoaded v vs n).rV r l = s.rV r l := by
  induction n with
  | zero => rfl
  | succ n ih =>
    refine Eq.trans ?_ ih
    rw [mem_lanesOf] at h
    by_cases e : r = VReg.plus v n
    · subst e
      exact (State.rV_wV_self ..).trans (if_neg h)
    · exact State.rV_wV_other _ _ _ _ e

/-! ### The four shapes of plain access -/

/-- A plain access of `z` bytes as the machine runs it: the instruction, its size, its group of registers, whether it is scalar and a load. -/
inductive PlainAccess (d sa : SReg) (v b : VReg) (nd : BitVec 4) (imm : BitVec 8) (sc : BitVec 1) : Instr × Nat × Nat × Bool × Bool → Prop
  | scalarLoad {i : Instr} {z : Nat} (ext : Nat → Word64) (run : ∀ s, exec i s = scalarLoad i z ext d sa nd imm s) :
      PlainAccess d sa v b nd imm sc (i, z, 0, true, true)
  | scalarStore {i : Instr} {z : Nat} (size : z ≤ 8) (run : ∀ s, exec i s = scalarStore i z d sa nd imm s) :
      PlainAccess d sa v b nd imm sc (i, z, 0, true, false)
  | vectorLoad {i : Instr} {z regs : Nat} (ext : Nat → Nat) (group : i.wellFormed = true → v.toNat + regs ≤ 128)
      (run : ∀ s, exec i s = vectorLoad i z regs ext v sa b nd sc s) : PlainAccess d sa v b nd imm sc (i, z, regs, false, true)
  | vectorStore {i : Instr} {z regs : Nat} (size : z = 16 ∨ z ≤ 8) (run : ∀ s, exec i s = vectorStore i z regs v sa b nd sc s) :
      PlainAccess d sa v b nd imm sc (i, z, regs, false, false)

/-- A well-formed instruction's group of a length that divides 128 ends within the registers (R35). -/
theorem group_fits {v b : VReg} {n : Nat} (h : (true && [(v, n), (b, 1)].all fun g => g.1.toNat % g.2 == 0) = true) (hn : n ∣ 128) :
    v.toNat + n ≤ 128 := by
  simp only [List.all_cons, Bool.true_and, Bool.and_eq_true, beq_iff_eq] at h
  exact Nat.le_of_lt_add_of_dvd (Nat.add_lt_add_right v.isLt n) (Nat.dvd_add_self_right.2 (Nat.dvd_of_mod_eq_zero h.1)) hn

/-- What a plain access that has completed has done: nothing to the state but for registers and the access's own records, the destination of a
load, the stream of a store. -/
structure AccessEffect (s t : State) (d : SReg) (v : VReg) (z regs : Nat) (ls : List (Nat × Loc)) (one load : Bool) : Prop where
  kept : t.sansData = s.bound.onward.sansData
  scalars : ∀ r, (load = true → one = true → r ≠ d) → t.rS r = s.rS r
  group : ∀ r, (load = true → one = false → r.toNat < v.toNat ∨ v.toNat + regs ≤ r.toNat) → ∀ l, t.rV r l = s.rV r l
  lanes : ∀ r l, l ∉ lanesOf s.cur.mask → t.rV r l = s.rV r l
  loaded : load = true → t.tr.stream.map StoreEntry.unseen = s.tr.stream.map StoreEntry.unseen
  stored : load = false → ∃ es, t.tr.stream = s.tr.stream ++ es ∧ (one = true → es.length = ls.length) ∧ ∀ e ∈ es, e.StoresIn ls z

/-- States equal up to registers and an access's records stay so when their paths go on to the next word (R17). -/
theorem State.onward_sansData {s t : State} (h : t.sansData = s.sansData) : t.onward.sansData = s.onward.sansData := by
  have e (x : State) : x.onward.sansData = x.sansData.onward := by
    unfold State.onward State.setCur State.cur
    cases hx : x.sel <;> simp [State.sansData, State.sansAccess, State.sansWalks, hx, Troupe.setSlot, Troupe.slot, State.pc, State.cur]
  rw [e, e, h]

/-- What the erased fields do not decide is equal in states equal up to them. -/
theorem State.eq_of_sansData {α : Type} {s t : State} (h : t.sansData = s.sansData) (f : State → α) (hf : ∀ x : State, f x.sansData = f x) :
    f t = f s := by
  rw [← hf t, h, hf]
/-- The gang keeps all but the counts of retired accesses (R31, R273). -/
theorem State.gg_of_sansData {s t : State} (h : t.sansData = s.sansData) : t.gg = { s.gg with ret := t.gg.ret, gclk := t.gg.gclk } := by
  have hg := congrArg (fun x : State => { x.gg with ret := t.gg.ret, gclk := t.gg.gclk }) h
  exact hg

@[simp] theorem State.onward_cur (s : State) : s.onward.cur = { s.cur.onward with pc := s.pc + 4 } := by simp [State.onward]
@[simp] theorem State.onward_rS (s : State) (r : SReg) : s.onward.rS r = s.rS r := by simp [State.onward, State.rS]
@[simp] theorem State.onward_rK (s : State) (k : KReg) : s.onward.rK k = s.rK k := by
  simp [State.rK, State.pmask, Slot.onward, State.onward]
@[simp] theorem State.onward_rV (s : State) (r : VReg) (l : Fin 32) : s.onward.rV r l = s.rV r l := by simp [State.onward, State.rV]
@[simp] theorem State.onward_stream (s : State) : s.onward.tr.stream = s.tr.stream := by simp [State.onward]
@[simp] theorem State.bound_caches (s : State) : s.bound.caches = s.caches := by simp [State.bound]
@[simp] theorem State.bound_stream (s : State) : s.bound.tr.stream = s.tr.stream := by simp [State.bound]

/-- A meaning that completes with registers and its own records changed puts the path at the next word. -/
theorem onward_of_done {i : Instr} {s t x : State} {k : Bound → State → Res} (h : RunsOn i s) (hk : k s.att s.bound = .done x)
    (hx : x.sansData = s.bound.sansData) (ht : run i s k = .next t) : t = x.onward := by
  have hpc : x.pc = s.pc := by
    have hp := congrArg State.pc hx
    exact Eq.trans hp s.bound_pc
  rw [run_done h hk hpc] at ht
  cases ht
  rfl

theorem State.rS_of_sansAccess {s w : State} (h : w.sansAccess = s.bound.sansAccess) (r : SReg) : w.rS r = s.rS r := by
  have hr := congrArg (State.rS · r) h
  exact Eq.trans hr (s.bound_rS r)
theorem State.rV_of_sansAccess {s w : State} (h : w.sansAccess = s.bound.sansAccess) (r : VReg) (l : Fin 32) : w.rV r l = s.rV r l := by
  have hr := congrArg (State.rV · r l) h
  exact Eq.trans hr (s.bound_rV r l)
theorem State.pmask_of_sansAccess {s w : State} (h : w.sansAccess = s.bound.sansAccess) : w.pmask = s.cur.mask := by
  have hm := congrArg State.pmask h
  exact Eq.trans hm s.bound_pmask
@[simp] theorem State.rV_wS (s : State) (d : SReg) (x : Word64) (r : VReg) (l : Fin 32) : (s.wS d x).rV r l = s.rV r l := by
  unfold State.wS
  split <;> rfl

/-- The active lanes' addresses do not depend on what binding the attachments does (R288). -/
theorem vectorAddrs_bound (s : State) (sa : SReg) (b : VReg) (n : Nat) :
    s.bound.vectorAddrs sa b n = (lanesOf s.cur.mask).map fun l => (l.val, s.rS sa + (s.rV b l).signExtend 64 * .ofNat 64 n) := by
  rw [State.vectorAddrs, s.bound_pmask]
  simp only [State.bound_rS, State.bound_rV, State.pmask]
theorem vectorAddrs_length (s : State) (sa : SReg) (b : VReg) (n : Nat) : (s.vectorAddrs sa b n).length ≤ 32 := by
  simpa [State.vectorAddrs, lanesOf] using List.length_filter_le (fun i : Fin 32 => s.pmask.getLsbD i) (List.finRange 32)

theorem wellFormed_of_runsOn {i : Instr} {s : State} (h : RunsOn i s) : i.wellFormed = true := by
  obtain ⟨⟨_, _, hstep3⟩, _⟩ := h
  simp only [step3Ok, Bool.and_eq_true] at hstep3
  obtain ⟨⟨⟨hwf, _⟩, _⟩, _⟩ := hstep3
  exact hwf

section effects
variable {i : Instr} {s t u : State} {d sa : SReg} {v b : VReg} {nd : BitVec 4} {imm : BitVec 8} {sc : BitVec 1} {z regs : Nat} {ls : List (Nat × Loc)}

/-- A plain scalar load that completes (R122). -/
theorem scalarLoad_effect {ext : Nat → Word64} (hrun : RunsOn i s) (hacq : ¬ Acquires s.att.ord) (hscope : s.att.ord.scope ≠ .system)
    (hplain : s.PlainStream) (hu : Unheld u) (hr : s.bound.resolve true .read z [(0, s.bound.scalarAddr s.att sa imm z)] = .ok (ls, u))
    (hd : u.dataErr true [(0, s.bound.scalarAddr s.att sa imm z)] ls = none) (ht : scalarLoad i z ext d sa nd imm s = .next t) :
    AccessEffect s t d v z 0 ls true true := by
  obtain ⟨w, vs, hload, hsame, hstream⟩ := State.load_done (mode := { s.att.ord with nd := nd })
    (fun s vs => s.wS d (ext ((vs.map Prod.snd).headD 0))) hr hd hu hacq hscope (by simpa [State.PlainStream] using hplain) nofun
  generalize ext ((vs.map Prod.snd).headD 0) = x at hload
  have hdata : (w.wS d x).sansData = s.bound.sansData := (w.wS_sansData d x).trans (State.sansData_of_sansAccess hsame)
  obtain rfl := onward_of_done hrun hload hdata ht
  have hV (r : VReg) (l : Fin 32) : (w.wS d x).onward.rV r l = s.rV r l := by
    rw [State.onward_rV, State.rV_wS, State.rV_of_sansAccess hsame]
  exact {
    kept := State.onward_sansData hdata
    scalars := fun r hne => by rw [State.onward_rS, State.rS_wS_other _ _ (hne rfl rfl), State.rS_of_sansAccess hsame]
    group := fun r _ l => hV r l
    lanes := fun r l _ => hV r l
    loaded := fun _ => by simpa using hstream
    stored := nofun }

/-- A plain vector load that completes (R288, R289). -/
theorem vectorLoad_effect {ext : Nat → Nat} (hrun : RunsOn i s) (hacq : ¬ Acquires s.att.ord) (hscope : s.att.ord.scope ≠ .system)
    (hplain : s.PlainStream) (hu : Unheld u) (hgroup : v.toNat + regs ≤ 128)
    (hapart : ∀ e ∈ s.tr.stream, ∀ x ∈ ls, ∀ y ∈ ls, x.1 ≠ y.1 → x.2.meets z y.2 z = true → e.loc.meets e.size x.2 z = false)
    (hr : s.bound.resolve false .read z (s.bound.vectorAddrs sa b (if sc = 1 then z else 1)) = .ok (ls, u))
    (hd : u.dataErr false (s.bound.vectorAddrs sa b (if sc = 1 then z else 1)) ls = none)
    (ht : vectorLoad i z regs ext v sa b nd sc s = .next t) : AccessEffect s t d v z regs ls false true := by
  obtain ⟨w, vs, hload, hsame, hstream⟩ := State.load_done (mode := { s.att.ord with nd := nd })
    (fun s vs => s.writeLoaded v (vs.map fun (l, n) => (l, ext n)) regs) hr hd hu hacq hscope (by simpa [State.PlainStream] using hplain)
    (fun _ => by simpa using hapart)
  generalize (vs.map fun (l, n) => (l, ext n)) = vals at hload
  have hdata : (w.writeLoaded v vals regs).sansData = s.bound.sansData :=
    (w.writeLoaded_sansData v vals regs).trans (State.sansData_of_sansAccess hsame)
  obtain rfl := onward_of_done hrun hload hdata ht
  exact {
    kept := State.onward_sansData hdata
    scalars := fun r _ => by rw [State.onward_rS, State.writeLoaded_rS, State.rS_of_sansAccess hsame]
    group := fun r hout l => by
      rw [State.onward_rV, w.writeLoaded_rV_outside vals hgroup (hout rfl rfl), State.rV_of_sansAccess hsame]
    lanes := fun r l hl => by
      rw [State.onward_rV, w.writeLoaded_rV_inactive v r vals regs (by rwa [State.pmask_of_sansAccess hsame]), State.rV_of_sansAccess hsame]
    loaded := fun _ => by simpa using hstream
    stored := nofun }

/-- A plain store that completes, scalar or vector (R122, R288, R290). -/
theorem store_effect {one : Bool} {as : List (Nat × Word64)} {val : Nat → Nat} {k : Bound → State → Res}
    (hk : k s.att s.bound = s.bound.store one z { s.att.ord with nd := nd } as val) (hz : z = 16 ∨ z ≤ 8) (hone : one = true → z ≠ 16)
    (hrun : RunsOn i s) (hacq : ¬ Acquires s.att.ord) (hscope : s.att.ord.scope ≠ .system) (hlanes : as.length ≤ 32)
    (hroom : s.tr.stream.length + 64 ≤ 768) (hu : Unheld u) (hr : s.bound.resolve one .write z as = .ok (ls, u)) (ht : run i s k = .next t) :
    AccessEffect s t d v z regs ls one false := by
  obtain ⟨w, hstore, hsame, es, hstream, hcount, hes⟩ := State.store_done (mode := { s.att.ord with nd := nd }) val hr hu hz hacq hscope
    (by rw [State.bound_stream, bufferEntries]; omega)
  have hdata := State.sansData_of_sansAccess hsame
  obtain rfl := onward_of_done hrun (hk.trans hstore) hdata ht
  exact {
    kept := State.onward_sansData hdata
    scalars := fun r _ => by rw [State.onward_rS, State.rS_of_sansAccess hsame]
    group := fun r _ l => by rw [State.onward_rV, State.rV_of_sansAccess hsame]
    lanes := fun r l _ => by rw [State.onward_rV, State.rV_of_sansAccess hsame]
    loaded := nofun
    stored := fun _ => ⟨es, by rw [State.onward_stream, hstream, State.bound_stream], fun h => hcount (hone h), hes⟩ }

/-- The addresses of an access by its active lanes: lane 0's of a scalar one (R122, R288). -/
def State.accessAddrs (s : State) (sa : SReg) (b : VReg) (imm : BitVec 8) (sc : BitVec 1) (z : Nat) (one : Bool) : List (Nat × Word64) :=
  if one then [(0, s.bound.scalarAddr s.att sa imm z)]
  else (lanesOf s.cur.mask).map fun l => (l.val, s.rS sa + (s.rV b l).signExtend 64 * .ofNat 64 (if sc = 1 then z else 1))

/-- Each shape of plain access that completes has the effect. -/
theorem PlainAccess.effect {one load : Bool} (h : PlainAccess d sa v b nd imm sc (i, z, regs, one, load)) (hrun : RunsOn i s)
    (hacq : ¬ Acquires s.att.ord) (hscope : s.att.ord.scope ≠ .system) (hplain : s.PlainStream) (hroom : s.tr.stream.length + 64 ≤ 768)
    (hapart : load = true → one = false →
      ∀ e ∈ s.tr.stream, ∀ x ∈ ls, ∀ y ∈ ls, x.1 ≠ y.1 → x.2.meets z y.2 z = true → e.loc.meets e.size x.2 z = false)
    (hu : Unheld u) (hr : s.bound.resolve one (if load then .read else .write) z (s.accessAddrs sa b imm sc z one) = .ok (ls, u))
    (hd : load = true → u.dataErr one (s.accessAddrs sa b imm sc z one) ls = none) (ht : exec i s = .next t) :
    AccessEffect s t d v z regs ls one load := by
  have haddrs : s.accessAddrs sa b imm sc z false = s.bound.vectorAddrs sa b (if sc = 1 then z else 1) := (vectorAddrs_bound ..).symm
  cases h with
  | scalarLoad ext run => exact scalarLoad_effect hrun hacq hscope hplain hu hr (hd rfl) ((run s).symm.trans ht)
  | scalarStore size run =>
    exact store_effect rfl (.inr size) (fun _ => by omega) hrun hacq hscope (Nat.le_of_ble_eq_true rfl) hroom hu hr ((run s).symm.trans ht)
  | vectorLoad ext group run =>
    rw [haddrs] at hr hd
    exact vectorLoad_effect hrun hacq hscope hplain hu (group (wellFormed_of_runsOn hrun)) (hapart rfl rfl) hr (hd rfl) ((run s).symm.trans ht)
  | vectorStore size run =>
    rw [haddrs] at hr
    exact store_effect rfl size nofun hrun hacq hscope (vectorAddrs_length ..) hroom hu hr ((run s).symm.trans ht)

end effects

/-- Settles O39: the access has one of four shapes, each shape's effect leaves the state as the bound path at its next word but for registers and the
access's own records, and every field of the frame is read off there. -/
theorem memoryFrame : Obligations.MemoryFrame := by
  intro s t u d sa v b nd imm sc i z regs ls one load scale as hi hrun hacq hacqRel hscope hplain hroom hapart hu hr hd ht
  have hshape : PlainAccess d sa v b nd imm sc (i, z, regs, one, load) := by
    refine List.forall_iff_forall_mem.1 ?_ _ hi
    exact ⟨.scalarLoad _ fun _ => rfl, .scalarLoad _ fun _ => rfl, .scalarLoad _ fun _ => rfl, .scalarLoad _ fun _ => rfl,
      .scalarLoad _ fun _ => rfl, .scalarLoad _ fun _ => rfl, .scalarLoad _ fun _ => rfl,
      .scalarStore (by decide) fun _ => rfl, .scalarStore (by decide) fun _ => rfl, .scalarStore (by decide) fun _ => rfl,
      .scalarStore (by decide) fun _ => rfl,
      .vectorLoad _ (group_fits · (by decide)) fun _ => rfl, .vectorLoad _ (group_fits · (by decide)) fun _ => rfl,
      .vectorLoad _ (group_fits · (by decide)) fun _ => rfl, .vectorLoad _ (group_fits · (by decide)) fun _ => rfl,
      .vectorLoad _ (group_fits · (by decide)) fun _ => rfl, .vectorLoad _ (group_fits · (by decide)) fun _ => rfl,
      .vectorLoad _ (group_fits · (by decide)) fun _ => rfl,
      .vectorStore (by decide) fun _ => rfl, .vectorStore (by decide) fun _ => rfl, .vectorStore (by decide) fun _ => rfl,
      .vectorStore (by decide) fun _ => rfl, .vectorStore (by decide) fun _ => rfl⟩
  obtain ⟨hkept, hscalars, hgroup, hlanes, hloaded, hstored⟩ := hshape.effect hrun (·.elim hacq hacqRel) hscope hplain hroom hapart hu hr hd ht
  have keeps {α : Type} := State.eq_of_sansData (α := α) hkept
  refine ⟨?_, ?_, ?_, ?_, ?_, ?_, ?_, ?_, ?_, ?_, ?_, ?_, ?_, ?_, ?_, ?_, ?_, ?_, hscalars, hgroup, hlanes, hloaded, hstored⟩
  · exact fun r g scope l => (keeps (State.readLoc · r g scope l) fun _ => rfl).trans (by simp [State.onward])
  · exact (keeps State.mem fun _ => rfl).trans (by simp [State.onward])
  · exact (keeps State.caches fun _ => rfl).trans (by simp [State.onward])
  · exact (State.gg_of_sansData hkept).trans (by simp [State.onward])
  · exact (keeps State.ctl fun _ => rfl).trans (by simp [State.onward])
  · exact (keeps State.pc fun _ => rfl).trans (by simp [State.pc])
  · exact (keeps State.sibling fun _ => rfl).trans (by simp [State.onward])
  · exact (keeps (·.cur.mask) fun _ => rfl).trans (by simp [Slot.onward])
  · exact (keeps (·.cur.fmt) fun _ => rfl).trans (by simp [Slot.onward])
  · exact (keeps (·.cur.jpc) fun _ => rfl).trans (by simp [Slot.onward])
  · exact (keeps (·.cur.frame) fun _ => rfl).trans (by simp [Slot.onward])
  · exact (keeps (·.tr.tilesz) fun _ => rfl).trans (by simp [State.onward])
  · exact (keeps (·.tr.rbnd) fun _ => rfl).trans (by simp [State.onward])
  · exact (keeps (·.tr.trapvec) fun _ => rfl).trans (by simp [State.onward])
  · exact (keeps (·.tr.batch) fun _ => rfl).trans (by simp [State.onward])
  · exact (keeps (·.tr.psp) fun _ => rfl).trans (by simp [State.onward])
  · exact (keeps (·.tr.draw) fun _ => rfl).trans (by simp [State.onward])
  · exact fun k => (keeps (State.rK · k) fun _ => rfl).trans (by simp)

end Sys2Proof.Machine
end

section
/-!
O5, O6: the values of reset. O12: a register-only scalar instruction is one write of its destination (R20, R105, R110 to R120).
-/

namespace Sys2Proof.Machine

/-- Settles O5: every value is a field's default. -/
theorem resetState : Obligations.ResetState :=
  ⟨⟨rfl, rfl, rfl, rfl, rfl, rfl, rfl, rfl, rfl, rfl, rfl⟩, rfl, rfl, fun _ => rfl, by decide⟩

/-- Settles O6: memory is empty at reset. -/
theorem resetSafe : Obligations.ResetSafe := reset_wf

/-- What completes leaves the path at the next word of a state in which one register of the bound state is written. -/
theorem exec_scalarDest {i : Instr} {d : SReg} {s : State} (h : i.scalarDest = some d) (hrun : RunsOn i s) :
    ∃ v, exec i s = .next (s.bound.wS d v).onward := by
  have writes (v : Bound → State → Word64) :
      ∃ w, simple i s (fun b s => s.wS d (v b s)) = .next (s.bound.wS d w).onward :=
    ⟨_, simple_eq hrun _ (by simp [State.pc])⟩
  unfold Instr.scalarDest at h
  split at h <;> cases h
  all_goals
    dsimp only [exec, execAdd, execSub, execMul, execMulh, execMulhn, execDiv, execDivn, execRem, execRemn, execMin, execMax, execMinn, execMaxn,
      execAnd, execOr, execXor, execAndn, execShl, execShr, execSar, execSeq, execSne, execSlt, execSltn, execSel, execClz, execCtz, execPopc,
      execBrev, execAddi, execAndi, execOri, execXori, execSlti, execShli, execShri, execSari, execBfx, execBfi, execMovi, execAddpc,
      execSfaddF64, execSfsubF64, execSfmulF64, execSffmaF64, execSfdivF64, execSfcmpF64, execSfaddF32, execSfsubF32, execSfmulF32,
      execSffmaF32, execSfdivF32, execSfcmpF32, execClk, binS, unS, immOp, floatS]
    exact writes _

/-! ### What the write of one register leaves alone -/

theorem sameScalarsBut_wS (s : State) (d : SReg) (v : Word64) : SameScalarsBut d s (s.bound.wS d v).onward := by
  intro r hr
  have hs : (s.bound.wS d v).onward.rS r = (s.bound.wS d v).rS r := by simp [State.onward, State.rS]
  rw [hs, State.rS_wS_other _ _ hr, State.bound_rS]

theorem sameVectors_wS (s : State) (d : SReg) (v : Word64) : SameVectors s (s.bound.wS d v).onward := by
  refine ⟨fun r l => ?_, fun k => ?_, ?_⟩
  · rw [← State.bound_rV s]
    simp [State.onward, State.rV]
  · rw [← State.bound_rK s]
    simp [State.onward, State.rK, State.pmask, Slot.onward]
  · simp [State.onward]

theorem sameStatus_wS (s : State) (d : SReg) (v : Word64) : SameStatus s (s.bound.wS d v).onward := by
  unfold SameStatus
  simp [State.onward, Slot.onward]

theorem sameBytes_wS (s : State) (d : SReg) (v : Word64) : SameBytes s (s.bound.wS d v).onward := by
  refine ⟨fun r g o l => ?_, ?_, ?_, ?_⟩ <;> simp [State.onward]

/-- Settles O12: the one write of the meaning, and what a write leaves alone. -/
theorem scalarFrame : Obligations.ScalarFrame := by
  intro i d s t hd hrun ht
  obtain ⟨v, hv⟩ := exec_scalarDest hd hrun
  cases hv.symm.trans ht
  exact ⟨sameScalarsBut_wS s d v, sameVectors_wS s d v, sameStatus_wS s d v, sameBytes_wS s d v⟩

end Sys2Proof.Machine
end

section
/-!
O13 to O16: transfers of control, special and control registers, BRK, SYS and ERET (R28, R29, R126 to R132, R443 to R446).
-/

namespace Sys2Proof.Machine

/-! ### Transfers (R126, R127) -/

/-- A branch that is taken goes to its target or traps on it; one not taken goes on. -/
theorem branch_ends {i : Instr} {s : State} {k : Bound → State → Res} {taken : Prop} {target : Word64} (h : Runs (formOf i) s)
    (hj : taken → k s.att s.bound = .jump target s.bound) (hd : ¬ taken → k s.att s.bound = .done s.bound) :
    (¬ taken → s.pc ≠ topPc → run i s k = .next s.bound.onward) ∧
    (taken → target.toNat < 2 ^ 48 ∧ target.toNat % 4 = 0 → run i s k = .next (s.bound.at_ target)) ∧
    (taken → ¬ (target.toNat < 2 ^ 48 ∧ target.toNat % 4 = 0) → TrapsNow s →
      run i s k = .next (s.takeTrap { cause := 2, addr := target, pc := s.pc.toNat, word := i.word })) :=
  ⟨fun hn hp => run_done ⟨h, hp⟩ (hd hn) (by simp), fun ht hv => run_jump h (hj ht) hv, fun ht hv hn => run_badJump h hn (hj ht) hv⟩

/-- The same of a branch whose condition is a Boolean of the path's registers. -/
theorem branch_if {i : Instr} {s : State} {taken : Prop} {w : Nat} {f : BitVec w} (c : State → Prop) [DecidablePred c]
    (h : Runs (formOf i) s) (hc : c s.bound ↔ taken) :
    let k : Bound → State → Res := fun b s => if c s then .jump (s.target b f) s else .done s
    let target := s.pc.setWidth 64 + 4 * immS s.att f
    (¬ taken → s.pc ≠ topPc → run i s k = .next s.bound.onward) ∧
    (taken → target.toNat < 2 ^ 48 ∧ target.toNat % 4 = 0 → run i s k = .next (s.bound.at_ target)) ∧
    (taken → ¬ (target.toNat < 2 ^ 48 ∧ target.toNat % 4 = 0) → TrapsNow s →
      run i s k = .next (s.takeTrap { cause := 2, addr := target, pc := s.pc.toNat, word := i.word })) :=
  branch_ends h (fun ht => by rw [if_pos (hc.2 ht), target_eq]) (fun ht => if_neg fun e => ht (hc.1 e))

/-- A transfer that is always taken. -/
theorem transfer_ends {i : Instr} {s t : State} {k : Bound → State → Res} {target : Word64} (h : Runs (formOf i) s)
    (hk : k s.att s.bound = .jump target t) :
    (target.toNat < 2 ^ 48 ∧ target.toNat % 4 = 0 → run i s k = .next (t.at_ target)) ∧
    (¬ (target.toNat < 2 ^ 48 ∧ target.toNat % 4 = 0) → TrapsNow s →
      run i s k = .next (s.takeTrap { cause := 2, addr := target, pc := s.pc.toNat, word := i.word })) :=
  ⟨fun hv => run_jump h hk hv, fun hv hn => run_badJump h hn hk hv⟩
/-- Nothing of a mask lies outside a set when the set has all of it. -/
theorem and_not_eq_zero_iff (x m : BitVec 32) : m &&& ~~~x = 0 ↔ x &&& m = m := by
  constructor <;> intro h <;> refine BitVec.eq_of_getLsbD_eq fun i hi => ?_ <;> have hb := congrArg (BitVec.getLsbD · i) h <;>
    simp [hi] at hb ⊢ <;> tauto

/-- Settles O13: each instruction's condition, target and link; then how a transfer ends. -/
theorem controlTransfers : Obligations.ControlTransfers := by
  constructor
  · intro s a k f g i taken far x wide14 wide25 target hi h
    simp only [List.mem_cons, Prod.mk.injEq, List.not_mem_nil, or_false] at hi
    rcases hi with ⟨rfl, rfl, rfl⟩ | ⟨rfl, rfl, rfl⟩ | ⟨rfl, rfl, rfl⟩ | ⟨rfl, rfl, rfl⟩ | ⟨rfl, rfl, rfl⟩ | ⟨rfl, rfl, rfl⟩ |
      ⟨rfl, rfl, rfl⟩ | ⟨rfl, rfl, rfl⟩ | ⟨rfl, rfl, rfl⟩
    · exact branch_ends (k := fun b s => .jump (s.target b g) s) h (fun _ => by rw [target_eq]; rfl) (absurd trivial)
    · exact branch_if (fun s => BrCond.holds .eqz (s.rS a) = true) h (by simp [BrCond.holds, x])
    · exact branch_if (fun s => BrCond.holds .nez (s.rS a) = true) h (by simp [BrCond.holds, x])
    · exact branch_if (fun s => BrCond.holds .ltz (s.rS a) = true) h (by simp [BrCond.holds, x, BitVec.slt])
    · exact branch_if (fun s => BrCond.holds .gez (s.rS a) = true) h (by simp [BrCond.holds, x, BitVec.slt])
    · exact branch_if (fun s => BrCond.holds .lez (s.rS a) = true) h (by simp [BrCond.holds, x, BitVec.slt])
    · exact branch_if (fun s => BrCond.holds .gtz (s.rS a) = true) h (by simp [BrCond.holds, x, BitVec.slt])
    · exact branch_if (fun s => s.rK k &&& s.pmask ≠ 0) h (by simp [State.pmask])
    · exact branch_if (fun s => s.pmask &&& ~~~s.rK k = 0) h (by simpa [State.pmask] using and_not_eq_zero_iff (s.rK k) s.cur.mask)
  · intro s a g i target link wide hi h
    simp only [List.mem_cons, Prod.mk.injEq, List.not_mem_nil, or_false] at hi
    rcases hi with ⟨rfl, rfl, rfl⟩ | ⟨rfl, rfl, rfl⟩ | ⟨rfl, rfl, rfl⟩ | ⟨rfl, rfl, rfl⟩
    · exact transfer_ends (k := fun b s => .jump (s.target b g) (s.wS 62 s.linkPc)) h (by rw [target_eq]; simp [State.linkPc]; rfl)
    · exact transfer_ends (k := fun _ s => .jump (s.rS a) (s.wS 62 s.linkPc)) h (by simp [State.linkPc])
    · exact transfer_ends (k := fun _ s => .jump (s.rS 62) s) h (by simp)
    · exact transfer_ends (k := fun _ s => .jump (s.rS a) s) h (by simp)

/-! ### Special and control registers (R28, R29, R443) -/

theorem readReg_some {i : Instr} {d : SReg} {s : State} {f : State → Option Word64} {v : Word64} (h : RunsOn i s) (hf : f s.bound = some v) :
    readReg i d s f = .next (s.bound.wS d v).onward :=
  run_done h (by rw [hf]) (by simp [State.pc])
theorem readReg_none {i : Instr} {d : SReg} {s : State} {f : State → Option Word64} (h : Runs (formOf i) s) (hn : TrapsNow s)
    (hf : f s.bound = none) : readReg i d s f = .next (s.takeTrap { cause := 1, pc := s.pc.toNat, word := i.word }) :=
  run_stopIllop h hn (by rw [hf])
theorem writeReg_some {i : Instr} {a : SReg} {s t : State} {f : State → Word64 → Option State} (h : RunsOn i s)
    (hf : f s.bound (s.rS a) = some t) (hp : t.pc = s.pc) : writeReg i a s f = .next t.onward :=
  run_done h (by rw [State.bound_rS, hf]) hp
theorem writeReg_none {i : Instr} {a : SReg} {s : State} {f : State → Word64 → Option State} (h : Runs (formOf i) s) (hn : TrapsNow s)
    (hf : f s.bound (s.rS a) = none) : writeReg i a s f = .next (s.takeTrap { cause := 1, pc := s.pc.toNat, word := i.word }) :=
  run_stopIllop h hn (by rw [State.bound_rS, hf])

/-- A number past the last register names none. -/
theorem State.readSpecial_none (s : State) {n : Nat} (h : 12 ≤ n) : s.readSpecial n = none := by
  obtain ⟨m, rfl⟩ := Nat.exists_eq_add_of_le' h
  rfl
theorem Ctl.read_none (c : Ctl) {n : Nat} (h : 11 ≤ n) : c.read n = none := by
  obtain ⟨m, rfl⟩ := Nat.exists_eq_add_of_le' h
  rfl
/-- A core's count is within 2 of the module's (R30). -/
theorem State.bound_cycleAt (s : State) (core : Nat) : ∃ k ≤ 2, s.bound.cycleAt core = .ofNat 64 (s.cycle + k) :=
  ⟨Config.clockSkew core % 3, by omega, by simp [State.cycleAt]⟩

theorem exec_mfs (d : SReg) (n : BitVec 7) (s : State) : exec (.mfs d n) s = readReg (.mfs d n) d s (·.readSpecial n.toNat) := rfl
theorem exec_mts (n : BitVec 7) (a : SReg) (s : State) : exec (.mts n a) s = writeReg (.mts n a) a s (·.writeSpecial n.toNat ·) := rfl
theorem exec_mfc (d : SReg) (n : BitVec 7) (s : State) : exec (.mfc d n) s = readReg (.mfc d n) d s (·.ctl.read n.toNat) := rfl
/-- A write of a control register puts the set it makes into the state; one of STVEC also lets a frozen sibling go on (R442). -/
def State.withCtl (n : BitVec 7) (s : State) (c : Ctl) : State := if n = 0 then ({ s with ctl := c } : State).unfreeze else { s with ctl := c }
theorem exec_mtc (n : BitVec 7) (a : SReg) (s : State) :
    exec (.mtc n a) s = writeReg (.mtc n a) a s fun s v => (s.ctl.write n.toNat v).map (s.withCtl n) := rfl

/-- Settles O14: what the register of each number holds is what the bound state holds of it. -/
theorem registerReads : Obligations.RegisterReads := by
  refine ⟨fun s d n => ⟨?_, ?_, ?_, ?_⟩, fun s d n => ⟨?_, ?_⟩⟩
  · rintro h rfl
    obtain ⟨k, hk, hv⟩ := s.bound_cycleAt s.bound.req.core
    rw [exec_mfs, readReg_some h (congrArg some hv)]
    exact ⟨k, hk, rfl⟩
  · intro h
    obtain ⟨k, hk, hv⟩ := s.bound_cycleAt s.bound.req.core
    have hx := simple_eq h (fun _ s => s.wS d (s.cycleAt s.req.core)) (by simp [State.pc])
    rw [hv] at hx
    exact ⟨k, hk, hx⟩
  · intro v hv h
    rw [exec_mfs]
    refine readReg_some h ?_
    simp only [List.mem_cons, Prod.mk.injEq, List.not_mem_nil, or_false] at hv
    rcases hv with ⟨rfl, rfl⟩ | ⟨rfl, rfl⟩ | ⟨rfl, rfl⟩ | ⟨rfl, rfl⟩ | ⟨rfl, rfl⟩ | ⟨rfl, rfl⟩ | ⟨rfl, rfl⟩ | ⟨rfl, rfl⟩ | ⟨rfl, rfl⟩ |
      ⟨rfl, rfl⟩ | ⟨rfl, rfl⟩ <;> simp [State.readSpecial]
  · exact fun hn h ht => exec_mfs d n s ▸ readReg_none h ht (State.readSpecial_none _ hn)
  · intro v hv h
    rw [exec_mfc]
    refine readReg_some h ?_
    simp only [List.mem_cons, Prod.mk.injEq, List.not_mem_nil, or_false] at hv
    rcases hv with ⟨rfl, rfl⟩ | ⟨rfl, rfl⟩ | ⟨rfl, rfl⟩ | ⟨rfl, rfl⟩ | ⟨rfl, rfl⟩ | ⟨rfl, rfl⟩ | ⟨rfl, rfl⟩ | ⟨rfl, rfl⟩ | ⟨rfl, rfl⟩ |
      ⟨rfl, rfl⟩ | ⟨rfl, rfl⟩ <;> simp [Ctl.read]
  · exact fun hn h ht => exec_mfc d n s ▸ readReg_none h ht (Ctl.read_none _ hn)

/-- A register of a number that takes a value when it is legal. -/
theorem writeReg_if {i : Instr} {a : SReg} {s t : State} {f : State → Word64 → Option State} {legal : Prop} {c : Bool} (hc : c = true ↔ legal)
    (hf : f s.bound (s.rS a) = if c then some t else none) (hp : t.pc = s.pc) :
    (legal → RunsOn i s → writeReg i a s f = .next t.onward) ∧
    (¬ legal → Runs (formOf i) s → TrapsNow s → writeReg i a s f = .next (s.takeTrap { cause := 1, pc := s.pc.toNat, word := i.word })) :=
  ⟨fun hl h => writeReg_some h (by rw [hf, if_pos (hc.2 hl)]) hp, fun hl h hn => writeReg_none h hn (by rw [hf, if_neg fun e => hl (hc.1 e)])⟩

theorem legalTilesz_iff (v : Word64) : legalTilesz (v.setWidth 6) = true ↔ v.toNat % 64 ∈ [2, 4, 8, 16, 32] := by
  simp [legalTilesz, ← BitVec.toNat_inj, or_assoc]
theorem legalVector_iff (v : Word64) : legalVector (v.setWidth 48) = true ↔ v.toNat % 4 = 0 := by
  simp only [legalVector, beq_iff_eq, BitVec.toNat_setWidth]
  omega

/-- The path in focus is where it was found when its slots are as they were found. -/
theorem State.pc_of_slots {s t : State} (hs : t.sel = s.bound.sel) (hp : t.tr.p = s.bound.tr.p) (hq : t.tr.q = s.bound.tr.q) : t.pc = s.pc := by
  rw [← State.bound_pc s]
  unfold State.pc State.cur Troupe.slot
  rw [hs, hp, hq]

/-- The numbers MTS writes (R28). -/
theorem State.writeSpecial_none (s : State) {n : Nat} (h : n ≠ 5 ∧ n ≠ 6 ∧ n ≠ 7 ∧ n ≠ 11) (v : Word64) : s.writeSpecial n v = none := by
  obtain ⟨h5, h6, h7, h11⟩ := h
  unfold State.writeSpecial
  split
  · exact absurd rfl h5
  · exact absurd rfl h6
  · exact absurd rfl h7
  · exact absurd rfl h11
  · rfl

/-- An MTC of a number other than STVEC's. -/
theorem mtc_if {s : State} {a : SReg} {n : BitVec 7} {legal : Prop} {e : Ctl} {c : Bool} (hn : n ≠ 0) (hc : c = true ↔ legal)
    (hw : s.ctl.write n.toNat (s.rS a) = if c then some e else none) :
    (legal → RunsOn (Instr.mtc n a) s → exec (Instr.mtc n a) s = .next ({ s.bound with ctl := e } : State).onward) ∧
    (¬ legal → Runs (formOf (Instr.mtc n a)) s → TrapsNow s →
      exec (Instr.mtc n a) s = .next (s.takeTrap { cause := 1, pc := s.pc.toNat, word := (Instr.mtc n a).word })) := by
  rw [exec_mtc]
  refine writeReg_if hc ?_ (State.pc_of_slots rfl rfl rfl)
  rw [State.bound_ctl, hw]
  split
  · exact congrArg some (if_neg hn)
  · rfl

theorem flatMultiple_iff (v : Word64) (n : Nat) : flatMultiple v n = true ↔ v.toNat < 2 ^ 48 ∧ v.toNat % n = 0 := by
  simp only [flatMultiple, Bool.and_eq_true, decide_eq_true_eq, beq_iff_eq]
theorem reserved_iff (v : Word64) : (bitsOf v.toNat 61 50 == 0) = true ↔ v.toNat / 2 ^ 50 % 2 ^ 12 = 0 := by
  simp [bitsOf]
theorem legalSatt0_iff (v : Word64) : legalSatt0 v = true ↔
    v.toNat / 2 ^ 50 % 2 ^ 12 = 0 ∧ legalPfx (v.setWidth 25) = true ∧ legalOrd (v.extractLsb' 25 25) = true := by
  have e : v.extractLsb' 0 25 = v.setWidth 25 := BitVec.eq_of_toNat_eq (by simp)
  simp only [legalSatt0, Bool.and_eq_true, reserved_iff, e, and_assoc]

/-- What MTC traps on: MCTAIL, a number past the last, a vector that is no word address (R443). -/
theorem Ctl.write_none (c : Ctl) {n : Nat} {v : Word64} (h : (n = 0 ∧ v.toNat % 4 ≠ 0) ∨ n = 9 ∨ 11 ≤ n) : c.write n v = none := by
  rcases h with ⟨rfl, hv⟩ | rfl | h
  · exact if_neg fun e => hv ((legalVector_iff v).1 e)
  · rfl
  · obtain ⟨m, rfl⟩ := Nat.exists_eq_add_of_le' h
    rfl

/-- Settles O15: the condition and the write of each number, then how a write ends. -/
theorem registerWrites : Obligations.RegisterWrites := by
  constructor
  · intro s a n v b
    constructor
    · intro legal t hi
      rw [exec_mts]
      rcases hi with _ | ⟨_, _ | ⟨_, _ | ⟨_, _ | ⟨_, ⟨⟩⟩⟩⟩⟩
      · exact writeReg_if Iff.rfl rfl (by simp [b, State.pc])
      · exact writeReg_if (legalTilesz_iff v) rfl (State.pc_of_slots rfl rfl rfl)
      · exact writeReg_if (c := decide ((v.setWidth 8).toNat ≤ 128)) (by simp [v]) (by simp [State.writeSpecial, v, b]) (State.pc_of_slots rfl rfl rfl)
      · refine writeReg_if (legalVector_iff v) (by rw [← State.bound_gg s]; rfl) ?_
        dsimp only
        split
        · exact State.pc_of_slots rfl rfl rfl
        · rw [State.unfreeze_pc]
          exact State.pc_of_slots rfl rfl rfl
    · intro hn h ht
      rw [exec_mts]
      exact writeReg_none h ht (State.writeSpecial_none _ (by simpa [← BitVec.toNat_inj] using hn) _)
  · intro s a n v b c
    refine ⟨fun legal e hi => ?_, ?_, ?_⟩
    · rcases hi with _ | ⟨_, _ | ⟨_, _ | ⟨_, _ | ⟨_, _ | ⟨_, _ | ⟨_, _ | ⟨_, _ | ⟨_, _ | ⟨_, ⟨⟩⟩⟩⟩⟩⟩⟩⟩⟩⟩
      · exact mtc_if (by decide) (flatMultiple_iff v 256) rfl
      · exact mtc_if (by decide) (legalVector_iff v) rfl
      · exact mtc_if (by decide) (legalSatt0_iff v) rfl
      · exact mtc_if (by decide) (reserved_iff v) rfl
      · exact mtc_if (c := true) (by decide) (by simp) rfl
      · exact mtc_if (c := decide ((v.setWidth 8).toNat < 16)) (by decide) (by simp [v]) (by simp [Ctl.write, v, c])
      · exact mtc_if (c := true) (by decide) (by simp) rfl
      · exact mtc_if (by decide) (flatMultiple_iff v 4096) rfl
      · exact mtc_if (c := true) (by decide) (by simp) rfl
    · rintro rfl hv h
      rw [exec_mtc]
      refine writeReg_some h ?_ ((State.unfreeze_pc _).trans (State.pc_of_slots rfl rfl rfl))
      rw [State.bound_ctl]
      exact congrArg (Option.map _) (if_pos ((legalVector_iff v).2 hv))
    · intro hv h ht
      rw [exec_mtc]
      refine writeReg_none h ht ?_
      rw [Ctl.write_none _ (by simpa [← BitVec.toNat_inj] using hv)]
      rfl

/-! ### BRK, SYS and ERET (R132, R446) -/

/-- Settles O16: BRK and SYS end in a trap of their own; ERET in the path's place or a trap on it. -/
theorem softwareTrapsAndReturns : Obligations.SoftwareTrapsAndReturns := by
  constructor
  · intro s code i cause hi h ht
    have hl : s.bound.linkPc = s.pc.setWidth 64 + 4 := by simp [State.linkPc]
    rcases hi with _ | ⟨_, _ | ⟨_, ⟨⟩⟩⟩
    · exact run_trap h ht (k := fun _ s => .stop (.trap { cause := 9, addr := s.linkPc, aux := code.setWidth 64 })) (by rw [hl])
    · exact run_trap h ht (k := fun _ s => .stop (.trap { cause := 10, addr := s.linkPc, aux := code.setWidth 64 })) (by rw [hl])
  · intro s h get c
    let k : Bound → State → Res := fun _ s =>
      if validTarget (s.ctl.sepc.setWidth 64) then .stay s.returnFromTrap else .stop (misaligned (s.ctl.sepc.setWidth 64))
    have hv : validTarget (s.bound.ctl.sepc.setWidth 64) = true ↔ c.sepc.toNat % 4 = 0 := by
      have hlt := s.ctl.sepc.isLt
      simp only [validTarget_iff, State.bound_ctl, BitVec.toNat_setWidth, c]
      omega
    refine ⟨fun hs => ?_, fun hs ht => ?_⟩
    · refine run_stay (k := k) h ((if_pos (hv.2 hs)).trans ?_)
      simp only [State.returnFromTrap, State.bound_ctl]
      rfl
    · refine run_trap (k := k) (e := { cause := 2, addr := c.sepc.setWidth 64 }) h ht ((if_neg fun e => hs (hv.1 e)).trans ?_)
      rw [State.bound_ctl]
      rfl

end Sys2Proof.Machine
end

section
/-!
O19: attachment words, NOP at the top of memory, YIELD, IDLE, TLBI (R19, R39, R131, R134, R447, R456).
-/

namespace Sys2Proof.Machine

/-! ### Attachment words (R39) -/

/-- An attachment word is recorded when it is legal and the first of its kind, and traps otherwise. -/
theorem attach_ends {s : State} {w : BitVec 32} {legal pending : Bool} {put : Pend → Pend} {earlier : Pend → Bool} (hl : s.cur.live = true)
    (he : earlier s.cur.att = pending) :
    (pending = false → legal = true → s.pc ≠ topPc → attach w legal s earlier put = .next (s.setCur { s.cur with att := put s.cur.att }).onward) ∧
    (pending = true ∨ legal = false → TrapsNow s →
      attach w legal s earlier put = .next (s.takeTrap { cause := 1, pc := s.pc.toNat, word := w })) := by
  constructor
  · intro hp hg ht
    simp only [attach, hl, he, hp, hg, Bool.not_true, Bool.or_false, Bool.false_eq_true, if_false]
    rw [State.advanceWord_eq (by simpa [State.pc] using ht)]
  · intro hp ht
    have hbad : (!legal || pending) = true := by rcases hp with rfl | rfl <;> simp
    simp only [attach, hl, he, hbad, Bool.not_true, Bool.false_eq_true, if_false, if_true]
    exact congrArg _ (State.stopWord_trap ht _ _)

theorem exec_pfx (k : KReg) (z : BitVec 1) (rm : BitVec 3) (vc : VReg) (s : State) : exec (.pfx k z rm vc) s =
    attach (pfxWord k z rm vc) (rm != 7) s (·.pfx.isSome) fun a => { a with pfx := some ((pfxWord k z rm vc).setWidth 25) } := rfl
theorem exec_ord (sc : OrdScope) (o : OrdOrder) (nd : BitVec 4) (s : State) : exec (.ord sc o nd) s =
    attach (ordWord sc o nd) true s (·.ord.isSome) fun a => { a with ord := some ((ordWord sc o nd).setWidth 25) } := rfl
theorem exec_limm (high : BitVec 25) (s : State) : exec (.limm high) s =
    attach (limmWord high) true s (·.limm.isSome) fun a => { a with limm := some high } := rfl
theorem exec_hint (kind : BitVec 4) (arg : BitVec 21) (s : State) : exec (.hint kind arg) s =
    attach (hintWord kind arg) true s (·.hint.isSome) fun a => { a with hint := some (kind ++ arg) } := rfl

/-! ### NOP at the top of memory (R18, R131) -/

theorem exec_nop {s : State} (h : Runs (formOf Instr.nop) s) : exec Instr.nop s = .next (s.bound.advanceWord Instr.nop.word) :=
  run_eq h fun _ s => .done s

/-- At the top of memory, outside a NEAR region, the fetch that follows traps once no trap in hand comes first (R434). -/
theorem State.advanceWord_top {s : State} (h : s.pc = topPc) (hn : s.cur.near = none) (w : BitVec 32) :
    s.advanceWord w = if s.trapWaits then s.setCur { s.cur.onward with wrap := some w, waits := true }
      else s.takeTrap { cause := 2, ft := true, pc := topPc.toNat, addr := topPc.setWidth 64, word := w } := by
  simp only [State.advanceWord, h, hn, Option.isSome_none, Bool.false_eq_true, if_false, if_true]

/-! ### YIELD, IDLE and TLBI (R447, R456) -/

/-- YIELD's hold (R134): until the quadrant's other ready paths have issued. -/
def State.yielded (s : State) : State :=
  let others := s.readyPaths.filter fun p => p != s.me && s.sameQuadrant p s.me
  s.setCur { s.cur with yield := if others = [] then none else some (s.cycle, others) }

theorem exec_idle {s : State} (h : RunsOn Instr.idle s) :
    exec Instr.idle s = if s.ctl.event &&& s.ctl.evmask ≠ 0 then .next s.bound.onward else .next (s.bound.sleepOn (.idle Instr.idle.word)).rests := by
  have hp : s.bound.ctl.pending = true ↔ s.ctl.event &&& s.ctl.evmask ≠ 0 := by simp [Ctl.pending]
  let k : Bound → State → Res := fun _ s => if s.ctl.pending then .done s else .stay (s.sleepOn (.idle Instr.idle.word))
  split
  next hc => exact run_done (k := k) h (if_pos (hp.2 hc)) (State.bound_pc s)
  next hc => exact run_stay (k := k) h.1 (if_neg fun e => hc (hp.1 e))

/-- A removal TLBI turns away (R456): the kind, the reserved bits, an address where none is used, one that is not flat. -/
def tlbiBad (x w : Nat) : Bool :=
  4 < bitsOf w 3 0 || bitsOf w 63 14 != 0 || bitsOf w 7 4 != 0 || ((bitsOf w 3 0 = 1 || bitsOf w 3 0 = 3 || bitsOf w 3 0 = 4) && x != 0) || 2 ^ 48 ≤ x

theorem tlbiBad_iff {x w : Nat} (hw : w < 2 ^ 64) :
    tlbiBad x w = true ↔ 4 < w % 16 ∨ w / 2 ^ 14 ≠ 0 ∨ w / 16 % 16 ≠ 0 ∨ (w % 16 ∈ [1, 3, 4] ∧ x ≠ 0) ∨ 2 ^ 48 ≤ x := by
  have hhigh : w / 2 ^ 14 % 2 ^ 50 = w / 2 ^ 14 := Nat.mod_eq_of_lt (by omega)
  simp only [tlbiBad, bitsOf, Nat.reduceAdd, Nat.reduceSub, hhigh]
  simp [or_assoc]

/-- A TLBI's entries removed and the accesses they translated performed (R456, R460). -/
def State.tlbiDone (s : State) (kind part x : Nat) : State :=
  let u := { s with tlbs := s.tlbs.filter fun e => !e.covered kind part x, wcache := s.wcache.filter fun e => !(kind == 4 || e.part == part) }
  let mine (g : Gang) : Bool := kind == 4 || g.part == part
  (u.saved.filter fun v => mine v.gang && v.gang.troupes.any fun t => !t.stream.isEmpty).foldl State.drainSaved (u.drainAll (u.allTroupes mine))

theorem exec_tlbi (a b : SReg) (s : State) : exec (.tlbi a b) s = run (.tlbi a b) s fun _ s =>
    if tlbiBad (s.rS a).toNat (s.rS b).toNat then .stop illop
    else .done (s.tlbiDone (bitsOf (s.rS b).toNat 3 0) (bitsOf (s.rS b).toNat 13 8) (s.rS a).toNat) := rfl

@[simp] theorem State.bound_tlbs (s : State) : s.bound.tlbs = s.tlbs := by simp [State.bound]
@[simp] theorem State.bound_wcache (s : State) : s.bound.wcache = s.wcache := by simp [State.bound]

/-- Settles O19: each attachment word's kind and payload, then how the words end. -/
theorem attachmentsAndHints : Obligations.AttachmentsAndHints := by
  refine ⟨?_, ?_, ?_, ?_⟩
  · intro s k z rm vc sc o nd kind high arg i pending legal att p scopes orders hi hl
    rcases hi with _ | ⟨_, _ | ⟨_, _ | ⟨_, _ | ⟨_, ⟨⟩⟩⟩⟩⟩
    · have hlegal : decide (rm ≠ 7) = (rm != 7) := Bool.eq_iff_iff.2 (by simp)
      rw [exec_pfx, pfx_word, ← pfx_payload, hlegal]
      exact attach_ends hl rfl
    · rw [exec_ord, ord_word]
      have hp := ord_payload sc o nd
      cases sc <;> cases o <;> exact hp ▸ attach_ends hl rfl
    · rw [exec_limm, limm_word]
      exact attach_ends hl rfl
    · rw [exec_hint, hint_word]
      exact attach_ends hl rfl
  · intro s h
    refine ⟨fun hp => ?_, fun hp ht => ?_, fun hp hn ht => ?_⟩
    · rw [exec_nop h, State.advanceWord_eq (by simpa using hp)]
    · rw [exec_nop h, State.advanceWord_top (by simpa using hp) ht.1, ht.2]
      rfl
    · rw [exec_nop h, State.advanceWord_top (by simpa using hp) (by simpa using hn), ht]
      rfl
  · refine fun s => ⟨?_, fun h hc => ?_, fun h hc => ?_⟩
    · intro h others
      rw [← State.bound_cycle s]
      exact simple_eq h (fun _ s => s.yielded) (by simp [State.yielded, State.pc])
    · rw [exec_idle h, if_pos hc]
    · rw [exec_idle h, if_neg (not_not.2 hc)]
  · intro s a b x w kind part bad
    have hb := tlbiBad_iff (x := x) (w := w) (s.rS b).isLt
    refine ⟨fun hbad h ht => ?_, ?_⟩
    · rw [exec_tlbi]
      exact run_stopIllop h ht (if_pos (by simpa only [State.bound_rS] using hb.2 hbad))
    · intro hbad h u mine
      rw [exec_tlbi, run_eq h, if_neg (by simpa only [State.bound_rS] using fun e => hbad (hb.1 e))]
      have hkind : bitsOf (s.rS b).toNat 3 0 = kind := by simp [bitsOf, kind, w]
      have hpart : bitsOf (s.rS b).toNat 13 8 = part := rfl
      simp only [State.bound_rS, hkind, hpart, State.finish, State.tlbiDone, State.bound_tlbs, State.bound_wcache]
      rfl

end Sys2Proof.Machine
end

section
/-!
O31: a vector instruction changes its destination group in its lanes, the draw counters and the PC alone (R20, R42, R168).
-/

namespace Sys2Proof.Machine

/-- The state apart from the vector registers and the draw counters. -/
def State.sansVectors (s : State) : State := { s with tr := { s.tr with vreg := ({} : Troupe).vreg, draw := ({} : Troupe).draw } }

/-- A change of a group of vector registers in the path's lanes, and of draw counters. -/
structure GroupChange (d : VReg) (n : Nat) (s t : State) : Prop where
  rest  : t.sansVectors = s.sansVectors
  regs  : ∀ r, (∀ j < n, r ≠ VReg.plus d j) → ∀ l, t.rV r l = s.rV r l
  lanes : ∀ r (l : Fin 32), s.cur.mask.getLsbD l = false → t.rV r l = s.rV r l

/-- What does not look at the vector registers is as before. -/
theorem GroupChange.keeps {α : Type} {d : VReg} {n : Nat} {s t : State} (h : GroupChange d n s t) (f : State → α)
    (hf : ∀ s, f s.sansVectors = f s) : f t = f s := by
  rw [← hf t, h.rest, hf]

theorem GroupChange.refl (d : VReg) (n : Nat) (s : State) : GroupChange d n s s := ⟨rfl, fun _ _ _ => rfl, fun _ _ _ => rfl⟩

/-- A write of R42 reaches lanes of the path alone. -/
theorem written_of_path (b : Bound) (s : State) (l : Fin 32) (h : s.cur.mask.getLsbD l = false) : (wmask b s ||| zmask b s).getLsbD l = false := by
  have hw : (wmask b s).getLsbD l = false := by
    unfold wmask
    split
    · exact h
    · split <;> simp only [BitVec.getLsbD_and, State.pmask, h, Bool.and_false]
  have hz : (zmask b s).getLsbD l = false := by
    unfold zmask
    split
    · split
      · simp only [BitVec.getLsbD_and, State.pmask, h, Bool.false_and]
      · exact BitVec.getLsbD_zero
    · exact BitVec.getLsbD_zero
  rw [BitVec.getLsbD_or, hw, hz, Bool.or_false]

theorem GroupChange.writeLanes {d : VReg} {n : Nat} {s t : State} (h : GroupChange d n s t) (b : Bound) {j : Nat} (hj : j < n)
    (f : Fin 32 → Word32) : GroupChange d n s (t.writeLanes b (VReg.plus d j) f) := by
  refine ⟨h.rest, fun r hr l => ?_, fun r l hl => ?_⟩
  · exact (State.rV_wV_other _ _ _ _ (hr j hj)).trans (h.regs r hr l)
  · by_cases hd : r = VReg.plus d j
    · subst hd
      have hm : t.cur.mask.getLsbD l = false := (h.keeps (·.cur.mask) fun _ => rfl) ▸ hl
      exact (State.rV_wV_self ..).trans (by rw [written_of_path b t l hm]; exact h.lanes _ l hl)
    · exact (State.rV_wV_other _ _ _ _ hd).trans (h.lanes r l hl)

theorem GroupChange.one (d : VReg) (s : State) (b : Bound) (f : Fin 32 → Word32) : GroupChange d 1 s (s.writeLanes b d f) := by
  have h := (GroupChange.refl d 1 s).writeLanes b (j := 0) Nat.one_pos f
  rwa [show VReg.plus d 0 = d by simp [VReg.plus]] at h

theorem GroupChange.group (d : VReg) (s : State) (b : Bound) (f : Nat → Fin 32 → Word32) (n : Nat) :
    ∀ m ≤ n, GroupChange d n s (s.writeGroup b d f m)
  | 0, _ => .refl d n s
  | m + 1, hm => (GroupChange.group d s b f n m (by omega)).writeLanes b hm (f m)

theorem GroupChange.advanceDraws {d : VReg} {n : Nat} {s t : State} (h : GroupChange d n s t) (m : BitVec 32) (k : Nat) :
    GroupChange d n s (t.advanceDraws m k) := by
  have hv (r : VReg) (l : Fin 32) : (t.advanceDraws m k).rV r l = t.rV r l := by simp [State.rV]
  have hs : (t.advanceDraws m k).sansVectors = t.sansVectors := by simp only [State.advanceDraws, State.sansVectors]
  exact ⟨hs.trans h.rest, fun r hr l => (hv r l).trans (h.regs r hr l), fun r l hl => (hv r l).trans (h.lanes r l hl)⟩
theorem GroupChange.drawFor {d : VReg} {n : Nat} {s t : State} (h : GroupChange d n s t) (b : Bound) (k : Nat) :
    GroupChange d n s (t.drawFor b k) := by
  unfold State.drawFor
  split
  · exact h.advanceDraws ..
  · exact h

theorem GroupChange.whole (d : VReg) (n : Nat) (s : State) (b : Bound) (f : Nat → Fin 32 → Word32) : GroupChange d n s (s.writeGroup b d f n) :=
  GroupChange.group d s b f n n (Nat.le_refl n)
/-- A conversion's draws, where it draws at all (R171). -/
theorem GroupChange.drawForIf {d : VReg} {n : Nat} {s t : State} (h : GroupChange d n s t) (b : Bound) (k : Nat) :
    GroupChange d n s (if k = 0 then t else t.drawFor b k) := by
  split
  · exact h
  · exact h.drawFor b k

/-- A vector instruction that completes changes its group. -/
theorem exec_vectorDest {i : Instr} {d : VReg} {n : Nat} {s : State} (h : i.vectorDest = some (d, n)) (hrun : RunsOn i s) :
    ∃ t, exec i s = .next t.onward ∧ GroupChange d n s.bound t := by
  have ends (f : Bound → State → State) (hf : ∀ b s, GroupChange d n s (f b s)) :
      ∃ t, simple i s f = .next t.onward ∧ GroupChange d n s.bound t :=
    ⟨_, simple_eq hrun f (((hf _ _).keeps (·.pc) fun _ => rfl).trans s.bound_pc), hf _ _⟩
  unfold Instr.vectorDest at h
  split at h <;> cases h
  all_goals
    dsimp only [exec, execVaddF32, execVsubF32, execVmulF32, execVfmaF32, execVfmsF32, execVfnmaF32, execVminF32, execVmaxF32, execVabsF32,
      execVnegF32, execVscaleF32, execVgetexpF32, execVrndF32, execVclampF32, execVmovF32, execVaddF16x2, execVsubF16x2, execVmulF16x2,
      execVfmaF16x2, execVfmsF16x2, execVfnmaF16x2, execVminF16x2, execVmaxF16x2, execVabsF16x2, execVnegF16x2, execVaddBf16x2, execVsubBf16x2,
      execVmulBf16x2, execVfmaBf16x2, execVfmsBf16x2, execVfnmaBf16x2, execVminBf16x2, execVmaxBf16x2, execVabsBf16x2, execVnegBf16x2,
      execVaddI32, execVsubI32, execVmulI32, execVmulh, execVmulhn, execVmad, execVminI32, execVmaxI32, execVminn, execVmaxn, execVabsI32,
      execVnegI32, execVaddsI32, execVsubsI32, execVavgI32, execVaddI16, execVsubI16, execVaddsI16, execVsubsI16, execVaddsN16, execVsubsN16,
      execVavgI16, execVavgN16, execVaddI8, execVsubI8, execVaddsI8, execVsubsI8, execVaddsN8, execVsubsN8, execVavgI8, execVavgN8, execVand,
      execVor, execVxor, execVandn, execVshl, execVshr, execVsar, execVpopc, execVclz, execVbrev, execVbfx, execVbfi, execVsel, execVrcp,
      execVrsq, execVsqrt, execVexp2, execVlog2, execVsin, execVcos, execVtanh, execVsigm, execVdot4i, execVdot4n, execVdot2bf, execVdot2h,
      execVmovs, execVmovsh, execVlane, execVrand, execVmovi, execVshflIdx, execVshflUp, execVshflDown, execVshflXor, execVshflBcast,
      execVshflUpImm, execVshflDownImm, execVshflXorImm, execVshflBcastImm, execVred, execVscan, execVcvt, execVtopk, roundV, plainV, roundP,
      codeP, binV, unV, sfuV, shuffle]
    refine ends _ fun b s => ?_
    simp only [GroupChange.one, GroupChange.whole, GroupChange.drawFor, GroupChange.drawForIf, GroupChange.advanceDraws]

/-- A path that goes on at the next word has the status of the state found, where its vector registers alone have changed. -/
theorem GroupChange.sameStatus {d : VReg} {n : Nat} {s t : State} (h : GroupChange d n s.bound t) : SameStatus s t.onward := by
  have hmask := h.keeps (·.cur.mask) fun _ => rfl
  have hfmt := h.keeps (·.cur.fmt) fun _ => rfl
  have hjpc := h.keeps (·.cur.jpc) fun _ => rfl
  have hframe := h.keeps (·.cur.frame) fun _ => rfl
  have hsibling := h.keeps (·.sibling) fun _ => rfl
  have htilesz := h.keeps (·.tr.tilesz) fun _ => rfl
  have hrbnd := h.keeps (·.tr.rbnd) fun _ => rfl
  have htrapvec := h.keeps (·.tr.trapvec) fun _ => rfl
  have hbatch := h.keeps (·.tr.batch) fun _ => rfl
  have hpsp := h.keeps (·.tr.psp) fun _ => rfl
  have hgg := h.keeps (·.gg) fun _ => rfl
  have hctl := h.keeps (·.ctl) fun _ => rfl
  unfold SameStatus
  simp [State.onward, Slot.onward, hmask, hfmt, hjpc, hframe, hsibling, htilesz, hrbnd, htrapvec, hbatch, hpsp, hgg, hctl]
theorem GroupChange.sameBytes {d : VReg} {n : Nat} {s t : State} (h : GroupChange d n s.bound t) : SameBytes s t.onward := by
  have hgg := h.keeps (·.gg) fun _ => rfl
  have hstream := h.keeps (·.tr.stream) fun _ => rfl
  refine ⟨fun r g o l => ?_, ?_, ?_, ?_⟩
  · exact (h.keeps (State.readLoc · r g o l) fun _ => rfl).trans (State.readLoc_bound s r g o l)
  all_goals simp [State.onward, hgg, hstream]

/-- Settles O31: the change of the meaning, then what goes on at the next word keeps of it. -/
theorem vectorFrame : Obligations.VectorFrame := by
  intro i d n s t hd hrun ht
  obtain ⟨u, hu, h⟩ := exec_vectorDest hd hrun
  cases hu.symm.trans ht
  have hV (r : VReg) (l : Fin 32) : u.onward.rV r l = u.rV r l := by simp [State.onward, State.rV]
  refine ⟨fun r hr l => ?_, fun r l hl => ?_, fun r => ?_, fun k => ?_, h.sameStatus, h.sameBytes⟩
  · rw [hV, h.regs r hr, State.bound_rV]
  · rw [hV, h.lanes r l (by simpa using hl), State.bound_rV]
  · have hS : u.onward.rS r = u.rS r := by simp [State.onward, State.rS]
    rw [hS, h.keeps (State.rS · r) fun _ => rfl, State.bound_rS]
  · have hK : u.onward.rK k = u.rK k := by simp [State.onward, State.rK, State.pmask, Slot.onward]
    rw [hK, h.keeps (State.rK · k) fun _ => rfl, State.bound_rK]

end Sys2Proof.Machine
end

section
/-!
O32: the faults of scalar accesses (R264, R283, R296, R436, R454).
-/

namespace Sys2Proof.Machine

/-! ### Where the checks of an access stop it -/

theorem State.resolve_invalid {s : State} {a : Word64} (acc : AccKind) (z : Nat) (h : s.classify 0 a = .invalid) :
    s.resolve true acc z [(0, a)] = .error (.trap { cause := 3, addr := a }) := by
  simp only [State.resolve, State.checkAddrs, h, if_true]
theorem State.resolve_misaligned {s : State} {a : Word64} (acc : AccKind) {z : Nat} (h : s.classify 0 a ≠ .invalid) (hz : a.toNat % z ≠ 0) :
    s.resolve true acc z [(0, a)] = .error (.trap { cause := 2, addr := a }) := by
  simp only [State.resolve, State.checkAddrs, h, hz, if_true, if_false, ne_eq, not_false_eq_true]

theorem State.load_stop {s : State} {one : Bool} {z : Nat} {as : List (Nat × Word64)} {x : Stop} (h : s.resolve one .read z as = .error x)
    (mode : AccMode) (k : State → List (Nat × Nat) → State) : s.load one z mode as k = .stop x := by
  simp only [State.load, h]
theorem State.store_stop {s : State} {one : Bool} {z : Nat} {as : List (Nat × Word64)} {x : Stop} (h : s.resolve one .write z as = .error x)
    (mode : AccMode) (val : Nat → Nat) : s.store one z mode as val = .stop x := by
  simp only [State.store, h]
theorem State.atomic_stop {s : State} {one : Bool} {z : Nat} {as : List (Nat × Word64)} {x : Stop} (h : s.resolve one .atomic z as = .error x)
    (mode : AccMode) (o : AtomicOp) (opnd : Nat → Nat × Nat) (ret : Option (State → List (Nat × Nat) → State)) :
    s.atomic one z mode o as opnd ret = .stop x := by
  simp only [State.atomic, h]

theorem siblingFirst_of_trapsNow {s : State} (h : TrapsNow s) : s.siblingFirst = false := (Bool.or_eq_false_iff.1 h.2).1

/-- An instruction that stops where its one address does not resolve. -/
theorem access_stops {i : Instr} {s : State} {k : Bound → State → Res} {acc : AccKind} {z : Nat} {a : Word64} (h : Runs (formOf i) s)
    (ht : TrapsNow s) (hk : ∀ x, s.bound.resolve true acc z [(0, a)] = .error x → k s.att s.bound = .stop x) :
    (s.bound.classify 0 a = .invalid → run i s k = .next (s.takeTrap { cause := 3, addr := a, pc := s.pc.toNat, word := i.word })) ∧
    (s.bound.classify 0 a ≠ .invalid → a.toNat % z ≠ 0 →
      run i s k = .next (s.takeTrap { cause := 2, addr := a, pc := s.pc.toNat, word := i.word })) ∧
    (∀ ms, s.bound.resolve true acc z [(0, a)] = .error (.park ms) → run i s k = .next (s.parkOn ms none i.word)) ∧
    (∀ va c, s.bound.resolve true acc z [(0, a)] = .error (.walk va c) → run i s k = .next (s.beginWalk va c)) := by
  refine ⟨fun hc => run_trap h ht (hk _ (State.resolve_invalid acc z hc)), fun hc hz => run_trap h ht (hk _ (State.resolve_misaligned acc hc hz)),
    fun ms hr => ?_, fun va c hr => ?_⟩
  · rw [run_eq h, hk _ hr]
    simp only [State.finish, State.stopWord, ht.1, siblingFirst_of_trapsNow ht, Option.isSome_none, Bool.false_eq_true, if_false]
    rfl
  · rw [run_eq h, hk _ hr]
    rfl

/-- Settles O32: a load, a store and an atomic each stop where their address does not resolve. -/
theorem accessFaults : Obligations.AccessFaults := by
  intro s d sa e f nd imm i z acc scaled hi
  have loads (i : Instr) (z : Nat) (ext : Nat → Word64) (h : Runs (formOf i) s) (ht : TrapsNow s) :=
    access_stops (k := fun b s => s.load true z { b.ord with nd := nd } [(0, s.scalarAddr b sa imm z)] fun s vs =>
      s.wS d (ext ((vs.map Prod.snd).headD 0))) h ht fun _ hr => State.load_stop hr _ _
  have stores (i : Instr) (z : Nat) (h : Runs (formOf i) s) (ht : TrapsNow s) :=
    access_stops (k := fun b s => s.store true z { b.ord with nd := nd } [(0, s.scalarAddr b sa imm z)] fun _ => (s.rS d).toNat) h ht
      fun _ hr => State.store_stop hr _ _
  have atomics (i : Instr) (o : AtomicOp) (h : Runs (formOf i) s) (ht : TrapsNow s) :=
    access_stops (a := s.rS sa) (k := fun bd s => s.atomic true 8 bd.ord o [(0, s.rS sa)] (fun _ => ((s.rS f).toNat, (s.rS e).toNat))
      (if e = 0 then none else some fun s olds => s.wS e (.ofNat 64 ((olds.map Prod.snd).headD 0)))) h ht
      fun x hr => by rw [State.bound_rS]; exact State.atomic_stop hr _ _ _ _
  rcases hi with _ | ⟨_, _ | ⟨_, _ | ⟨_, _ | ⟨_, _ | ⟨_, _ | ⟨_, _ | ⟨_, _ | ⟨_, _ | ⟨_, _ | ⟨_, _ | ⟨_, _ | ⟨_, _ | ⟨_, _ | ⟨_, _ | ⟨_, ⟨⟩⟩⟩⟩⟩⟩⟩⟩⟩⟩⟩⟩⟩⟩⟩⟩
  · exact loads _ 1 zext64
  · exact loads _ 1 (sext64 8)
  · exact loads _ 2 zext64
  · exact loads _ 2 (sext64 16)
  · exact loads _ 4 zext64
  · exact loads _ 4 (sext64 32)
  · exact loads _ 8 zext64
  · exact stores _ 1
  · exact stores _ 2
  · exact stores _ 4
  · exact stores _ 8
  · exact atomics _ .sadd
  · exact atomics _ .scas
  · exact atomics _ .sswap
  · exact atomics _ .smax

end Sys2Proof.Machine
end

section
/-!
O33: scalar and vector loads, and the bytes they read (R122, R285, R288 to R290, R307, R313).
-/

namespace Sys2Proof.Machine

theorem isAcquire_iff (m : AccMode) : isAcquire m.order = true ↔ m.order = .acquire ∨ m.order = .acqRel := by
  cases m.order <;> decide

/-- The invalidation of a load that acquires (R271, R285). -/
def State.acquireFor (s : State) (mode : AccMode) : State :=
  if mode.order = .acquire ∨ mode.order = .acqRel then s.acquireL1 s.req.core s.gg.part mode.scope s.req.one else s

theorem acquireFor_eq (s : State) (mode : AccMode) :
    (if isAcquire mode.order then s.acquireL1 s.req.core s.gg.part mode.scope s.req.one else s) = s.acquireFor mode :=
  if_congr (isAcquire_iff mode) rfl rfl

/-! ### The load of one place and of lanes -/

/-- A load behind ORD acquire waits to issue (R344). -/
theorem State.load_waits {s u : State} {one : Bool} {z : Nat} {mode : AccMode} {as : List (Nat × Word64)} {ls : List (Nat × Loc)}
    (k : State → List (Nat × Nat) → State) (hr : s.resolve one .read z as = .ok (ls, u)) (hd : u.dataErr one as ls = none) (hu : ¬ Unheld u) :
    s.load one z mode as k = .wait id := by
  simp only [State.load, hr, hd, Bool.not_eq_false _ ▸ hu, if_true]

/-- A scalar load that binds (R122, R307). -/
theorem State.load_one {s u : State} {z : Nat} {mode : AccMode} {as : List (Nat × Word64)} {l : Loc} (k : State → List (Nat × Nat) → State)
    (hr : s.resolve true .read z as = .ok ([(0, l)], u)) (hd : u.dataErr true as [(0, l)] = none) (hu : Unheld u) :
    let w := (u.settle u.pmask [(0, l)] z).acquireFor mode
    let got := w.bindLoad true w.pmask mode l z
    let x := (w.noteSeen [(0, l)] z).afterLoad mode got.2
    s.load true z mode as k = .done (k (((x.addFills mode false z [l]).noteClip mode.scope).countRetire) [(0, got.1)]) := by
  have hu' : u.heldBack u.pmask = false := hu
  simp only [State.load, hr, hd, hu', Bool.false_eq_true, if_false, if_true, acquireFor_eq]
  simp [State.shareBytes, loadLanes]

/-- Byte k of what a load reads is the byte at its k-th place (R24, R307). -/
theorem State.loadNat_byte (s : State) (lanes : BitVec 32) (scope : OrdScope) {z k : Nat} (h : k < z) (l : Loc) :
    s.loadNat lanes scope l z / 256 ^ k % 256 =
      ((forward lanes scope (l.plus k) s.tr.stream).getD (s.readFor lanes scope (l.plus k))).toNat := by
  induction z generalizing k l with
  | zero => omega
  | succ z ih =>
    have hb := ((forward lanes scope l s.tr.stream).getD (s.readFor lanes scope l)).isLt
    simp only [State.loadNat]
    cases k with
    | zero =>
      have h0 : l.plus 0 = l := by cases l <;> rfl
      rw [h0]
      omega
    | succ k =>
      have h1 : (l.plus 1).plus k = l.plus (k + 1) := by cases l <;> simp only [Loc.plus, Nat.add_assoc, Nat.add_comm 1 k]
      rw [Nat.pow_succ', ← Nat.div_div_eq_div_mul, Nat.add_mul_div_left _ _ (by decide), Nat.div_eq_of_lt hb, Nat.zero_add, ih (by omega), h1]

/-- A part of a load takes what one that bound ahead has bound, or reads now (R313). -/
theorem State.bindPart_cases (s : State) (alone : Bool) (lanes : BitVec 32) (mode : AccMode) (l : Loc) (n : Nat) :
    s.bindPart alone lanes mode l n = (s.loadNat lanes mode.scope l n, s.tr.ins) ∨
      ∃ e ∈ s.tr.early, alone = true ∧ l.device = false ∧ (Acquires mode → e.acq = true) ∧ e.lanes = lanes ∧ e.scope = mode.scope ∧ e.loc = l ∧
        e.size = n ∧ s.bindPart alone lanes mode l n = (e.val, e.since) := by
  unfold State.bindPart
  split
  next e he =>
    right
    split at he
    next hc =>
      simp only [Bool.and_eq_true, Bool.not_eq_true'] at hc
      have hp := List.find?_some he
      simp only [Bool.and_eq_true, beq_iff_eq, Bool.or_eq_true, Bool.not_eq_true'] at hp
      obtain ⟨⟨⟨⟨hlanes, hscope⟩, hloc⟩, hsize⟩, hacq⟩ := hp
      refine ⟨e, List.mem_of_find?_eq_some he, hc.1, hc.2, fun ha => ?_, hlanes, hscope, hloc, hsize, rfl⟩
      exact hacq.resolve_right fun hn => by rw [(isAcquire_iff mode).2 ha] at hn; cases hn
    next => cases he
  next => exact .inl rfl

/-! ### The load of lanes (R284, R289) -/

/-- No other lane of a load reads a lane's bytes (R289). -/
def aloneIn (ls : List (Nat × Loc)) (z : Nat) (x : Nat × Loc) : Bool := ls.all fun m => m.1 == x.1 || !m.2.meets z x.2 z

theorem State.shareBytes_eq (s : State) (ls : List (Nat × Loc)) (z : Nat) : s.shareBytes ls z =
    if ls = [] then s else s.drainWhere fun e => e.lanes &&& laneSet ls != 0 && ls.any fun l => e.loc.meets e.size l.2 z :=
  if_congr List.isEmpty_iff rfl rfl

/-- A vector load that binds: what lanes that share bytes have stored there performs first (R289). -/
theorem State.load_lanes {s u : State} {z : Nat} {mode : AccMode} {as : List (Nat × Word64)} {ls : List (Nat × Loc)}
    (k : State → List (Nat × Nat) → State) (hr : s.resolve false .read z as = .ok (ls, u)) (hd : u.dataErr false as ls = none) (hu : Unheld u) :
    let w := ((u.settle (laneSet ls) ls z).shareBytes (ls.filter fun x => !aloneIn ls z x) z).acquireFor mode
    let got := ls.map fun x =>
      (x.1, w.bindLoad (aloneIn ls z x) (if aloneIn ls z x then .ofNat 32 (2 ^ x.1) else laneSet ls) mode x.2 z)
    let x := w.afterLoad mode ((got.map fun g => g.2.2).flatten)
    s.load false z mode as k =
      .done (k (((x.addFills mode false z (ls.map Prod.snd)).noteClip mode.scope).countRetire) (got.map fun g => (g.1, g.2.1))) := by
  have hu' : u.heldBack u.pmask = false := hu
  simp only [State.load, hr, hd, hu', Bool.false_eq_true, if_false, acquireFor_eq]
  rfl

/-- A load that resolves waits behind ORD acquire (R344), and completes otherwise as its places say. -/
theorem load_ends {i : Instr} {s u t : State} {k : Bound → State → Res} (h : Runs (formOf i) s) (hdone : Unheld u → k s.att s.bound = .done t)
    (hwait : ¬ Unheld u → k s.att s.bound = .wait id) :
    (Unheld u → run i s k = .next (t.advanceWord i.word)) ∧ (¬ Unheld u → run i s k = .next s.mustWait) := by
  refine ⟨fun hu => ?_, fun hu => ?_⟩
  · rw [run_eq h, hdone hu]
    rfl
  · rw [run_eq h, hwait hu]
    rfl

/-- A scalar load at an address that resolves (R122). -/
theorem scalarLoad_ends {i : Instr} {s u : State} {d sa : SReg} {nd : BitVec 4} {imm : BitVec 8} {z : Nat} (ext : Nat → Word64) {l : Loc}
    (h : Runs (formOf i) s) (hr : s.bound.resolve true .read z [(0, s.rS sa + immS s.att imm * .ofNat 64 z)] = .ok ([(0, l)], u))
    (hd : u.dataErr true [(0, s.rS sa + immS s.att imm * .ofNat 64 z)] [(0, l)] = none) :
    let mode : AccMode := { s.att.ord with nd := nd }
    let w := (u.settle u.pmask [(0, l)] z).acquireFor mode
    let got := w.bindLoad true w.pmask mode l z
    let x := (w.noteSeen [(0, l)] z).afterLoad mode got.2
    (Unheld u → scalarLoad i z ext d sa nd imm s =
      .next (((((x.addFills mode false z [l]).noteClip mode.scope).countRetire).wS d (ext got.1)).advanceWord i.word)) ∧
    (¬ Unheld u → scalarLoad i z ext d sa nd imm s = .next s.mustWait) := by
  have ha : s.bound.scalarAddr s.att sa imm z = s.rS sa + immS s.att imm * .ofNat 64 z := by rw [State.scalarAddr, State.bound_rS]
  rw [← ha] at hr hd
  exact load_ends h (State.load_one _ hr hd) (State.load_waits _ hr hd)

/-- A vector load whose lanes' addresses resolve (R288). -/
theorem vectorLoad_ends {i : Instr} {s u : State} {d b : VReg} {sa : SReg} {nd : BitVec 4} {sc : BitVec 1} {z regs : Nat} (ext : Nat → Nat)
    {ls : List (Nat × Loc)} (h : Runs (formOf i) s) :
    let as : List (Nat × Word64) :=
      (lanesOf s.cur.mask).map fun l => (l.val, s.rS sa + (s.rV b l).signExtend 64 * .ofNat 64 (if sc = 1 then z else 1))
    let mode : AccMode := { s.att.ord with nd := nd }
    let w := ((u.settle (laneSet ls) ls z).shareBytes (ls.filter fun x => !aloneIn ls z x) z).acquireFor mode
    let got := ls.map fun x =>
      (x.1, w.bindLoad (aloneIn ls z x) (if aloneIn ls z x then .ofNat 32 (2 ^ x.1) else laneSet ls) mode x.2 z)
    let x := w.afterLoad mode ((got.map fun g => g.2.2).flatten)
    s.bound.resolve false .read z as = .ok (ls, u) → u.dataErr false as ls = none →
    (Unheld u → vectorLoad i z regs ext d sa b nd sc s =
      .next ((((x.addFills mode false z (ls.map Prod.snd)).noteClip mode.scope).countRetire.writeLoaded d
        (got.map fun g => (g.1, ext g.2.1)) regs).advanceWord i.word)) ∧
    (¬ Unheld u → vectorLoad i z regs ext d sa b nd sc s = .next s.mustWait) := by
  intro as mode w got x hr hd
  have has : s.bound.vectorAddrs sa b (if sc = 1 then z else 1) = as := vectorAddrs_bound s sa b _
  rw [← has] at hr hd
  refine load_ends h (fun hu => (State.load_lanes _ hr hd hu).trans ?_) (State.load_waits _ hr hd)
  have hvals : (got.map fun g => (g.1, g.2.1)).map (fun (l, v) => (l, ext v)) = got.map fun g => (g.1, ext g.2.1) := List.map_map
  exact congrArg (fun vs => Res.done (State.writeLoaded _ d vs regs)) hvals

/-- Settles O33: what each load does once its places are known, the value a part takes, and the bytes of a value. -/
theorem loads : Obligations.Loads := by
  refine ⟨?_, ?_, fun s lanes scope l z k h => s.loadNat_byte lanes scope h l, ?_⟩
  · intro s u d sa nd imm i z ext l wide a mode v w got x hi h hr hd
    rcases hi with _ | ⟨_, _ | ⟨_, _ | ⟨_, _ | ⟨_, _ | ⟨_, _ | ⟨_, _ | ⟨_, ⟨⟩⟩⟩⟩⟩⟩⟩⟩
    all_goals exact scalarLoad_ends _ h hr hd
  · intro s lanes alone mode l n b
    refine ⟨s.bindPart_cases alone lanes mode l n, fun he => ?_⟩
    rcases s.bindPart_cases alone lanes mode l n with h | ⟨e, hm, _⟩
    · exact congrArg Prod.fst h
    · rw [he] at hm
      cases hm
  · intro s u d b sa nd sc i z regs ext ls scale as mode all alone same shared v0 v w got x hi h hr hd
    have hv : v = v0.shareBytes same z := (v0.shareBytes_eq same z).symm
    clear_value v
    subst hv
    rcases hi with _ | ⟨_, _ | ⟨_, _ | ⟨_, _ | ⟨_, _ | ⟨_, _ | ⟨_, _ | ⟨_, ⟨⟩⟩⟩⟩⟩⟩⟩⟩
    all_goals exact vectorLoad_ends _ h hr hd

end Sys2Proof.Machine
end

section
/-!
O50: the wakes of sleeping paths, holds, overdue paths, the timer and the monitors of a path (R134, R162, R215, R337, R443, R447, R484).
-/

namespace Sys2Proof.Machine

theorem State.onPath_of_isSome {s : State} {p : PathId} (h : (s.troupe? p.gang p.troupe).isSome = true) (f : State → State) :
    s.onPath p f = f (s.focusTo p) := if_pos h

end Sys2Proof.Machine

namespace Sys2Proof
open Machine

/-- Settles O50: in focus, each event's guard and what it sleeps on decide. -/
theorem pathEvents : Obligations.PathEvents := by
  intro s p t awake
  refine ⟨fun hp => ?_, fun ht => congrArg Host.Outcome.next (if_pos ht)⟩
  have on (f : State → State) : s.onPath p f = f t := State.onPath_of_isSome hp f
  refine ⟨fun hsave => ?_, fun c w done hsave hl hf hs ho => ?_, fun c w hsave hl hf hs ho => ?_, fun c waits w done n hsave hl hf hs => ?_,
    fun n w hsave hl hf hs hu => ?_, fun w hsave hl hf hs he => ?_, fun c l hy hc => ?_, fun hr hc => ?_, congrArg Host.Outcome.next (on (·.recheck false)),
    congrArg Host.Outcome.next (on (·.recheck true))⟩
  · have hsave' : t.gg.save.isSome = true := Option.isSome_iff_ne_none.2 hsave
    refine ⟨congrArg Host.Outcome.next ((on _).trans ?_), congrArg Host.Outcome.next ((on _).trans ?_), congrArg Host.Outcome.next ((on _).trans ?_)⟩
    · simp only [hsave', Bool.or_true, if_true]
    · split
      · simp [hsave]
      · rfl
    · split
      · simp [hsave]
      · rfl
  · refine congrArg Host.Outcome.next ((on _).trans ?_)
    have hgo : (t.owed c.toNat && !done) = false := by rcases ho with h | h <;> simp [h]
    simp [hsave, hl, hf, hs, hgo, State.wakeUp, awake]
  · refine congrArg Host.Outcome.next ((on _).trans ?_)
    simp [hsave, hl, hf, hs, ho]
  · refine congrArg Host.Outcome.next ((on _).trans ?_)
    simp [hsave, hl, hf, hs, State.wakeUp, awake]
  · refine congrArg Host.Outcome.next ((on _).trans ?_)
    simp [hsave, hl, hf, hs, hu, State.wakeUp, awake]
  · refine congrArg Host.Outcome.next ((on _).trans ?_)
    simp [hsave, hl, hf, hs, he, State.wakeUp, awake]
  · refine congrArg Host.Outcome.next ((on _).trans ?_)
    simp [hy, hc]
  · refine congrArg Host.Outcome.next ((on _).trans ?_)
    rw [if_pos]
    rw [hr, Bool.true_and]
    exact decide_eq_true hc

end Sys2Proof
end

section
/-!
O4: a step is what the chosen unit has reached (R18, R19, R53, R162, R234, R416, R448, R526).
-/

namespace Sys2Proof.Machine

/-! ### One turn of the loop of R19 -/

theorem State.runWord_wrap {s : State} {v : BitVec 32} (h : s.cur.wrap = some v) :
    s.runWord = .next (s.stopWord v (.trap { cause := 2, ft := true, addr := topPc.setWidth 64 })) := by
  simp only [State.runWord, h]
theorem State.runWord_unfetched {s : State} {x : Stop} (hw : s.cur.wrap = none) (hf : s.fetch = .error x) : s.runWord = .next (s.stopWord 0 x) := by
  simp only [State.runWord, hw, hf]
theorem State.runWord_illegal {s t : State} {w : BitVec 32} {e : DecodeError} (hw : s.cur.wrap = none) (hf : s.fetch = .ok (w, t))
    (hd : decodeWord w = .error e) : s.runWord = .next (t.stopWord w illop) := by
  simp only [State.runWord, hw, hf, hd]
theorem State.runWord_regErr {s t : State} {w : BitVec 32} {i : Instr} {x : Stop} (hw : s.cur.wrap = none) (hf : s.fetch = .ok (w, t))
    (hd : decodeWord w = .ok i) (hx : t.regErr i = some x) : s.runWord = .next (t.stopWord w x) := by
  simp only [State.runWord, hw, hf, hd, State.runInstr, hx]
theorem State.runWord_exec {s t : State} {w : BitVec 32} {i : Instr} (hw : s.cur.wrap = none) (hf : s.fetch = .ok (w, t))
    (hd : decodeWord w = .ok i) (hx : t.regErr i = none) : s.runWord = exec i (t.forWide i) := by
  simp only [State.runWord, hw, hf, hd, State.runInstr, hx]

/-! ### A path's word, tried for the first time or again (R162) -/

/-- What follows a path's word: it waits; it has issued; or, tried again, it is ready from now and another goes first (R162, R234). -/
noncomputable def State.afterWord (u : State) (again : Bool) (p : PathId) (t : State) : State :=
  let ready : State := u.updTroupe p.gang p.troupe fun x => x.setSlot p.slot { x.slot p.slot with waits := false, readyAt := u.cycle }
  if t.waitedAt p then t
  else if again = false ∨ (u.readyPaths.all fun q => !u.sameQuadrant q p || u.takesFirst p q) = true then ((u.reprice t p).noteIssued p).lastWord p
  else if (ready.nextWord p).any wideWord then (ready.forWideAt p).setBasis p (ready.basisOf p) else ready

/-- The outcome of a path's word made that of the step. -/
noncomputable def State.endOfWord (u : State) (again : Bool) (p : PathId) : Out → Out
  | .next t => .next (u.afterWord again p t)
  | o => o

theorem State.runCand_word (u : State) (again : Bool) (p : PathId) :
    u.runCand (if again then .retry p else .path p) = u.endOfWord again p (u.focusTo p).runWord := by
  cases again
  · simp only [Bool.false_eq_true, if_false, State.runCand, State.runPath]
    cases (u.focusTo p).runWord <;> simp only [State.endOfWord, State.afterWord, true_or, if_true]
  · simp only [if_true, State.runCand, State.runRetry]
    cases (u.focusTo p).runWord <;> simp only [State.endOfWord, State.afterWord, Bool.true_eq_false, false_or]

/-! ### The step of a module with power -/

theorem step_powered {s : State} (h : s.power = true) : step s = s.stepPowered := if_pos h
theorem step_picked {s s1 : State} {c : Cand} (h : s.power = true) (hc : s.checks = []) (ha : s.agenda = []) (hp : s.pick = (some c, s1)) :
    step s = s1.passTime.runCand c := by
  simp only [step_powered h, State.stepPowered, hc, ha, hp]

/-- Settles O4: the candidate chosen, then the word its path has reached, its micro-op or its row. -/
theorem stepRunsInstruction : Obligations.StepRunsInstruction := by
  refine ⟨?_, ?_, ?_, ?_, ?_, ?_, ?_⟩
  · intro s s1 s2 p w again h hc ha hp u f ready after
    have hstep : step s = u.endOfWord again p f.runWord := (step_picked h hc ha hp).trans (u.runCand_word again p)
    have hnext {t : State} (ht : f.runWord = .next t) : step s = .next (after t) := by
      rw [hstep, ht]
      rfl
    refine ⟨fun v hv => hnext (State.runWord_wrap hv), fun x hw hf => hnext (State.runWord_unfetched hw hf), fun hw hf => ⟨?_, ?_, ?_, ?_, ?_⟩⟩
    · exact fun i t hd hx he => hnext ((State.runWord_exec hw hf hd hx).trans he)
    · intro i x hd hx he
      rw [hstep, State.runWord_exec hw hf hd hx, he]
      rfl
    · intro i r hd hx he
      rw [hstep, State.runWord_exec hw hf hd hx, he]
      rfl
    · exact fun i x hd hx => hnext (State.runWord_regErr hw hf hd hx)
    · exact fun e hd => hnext (State.runWord_illegal hw hf hd)
  · intro s s1 u w i h hc ha hp hw hd
    rw [step_picked h hc ha hp]
    simp only [State.runCand, State.runMicro, hw, hd]
  · intro s c r h hc
    simp only [step_powered h, State.stepPowered, hc]
  · intro s i r h hc ha
    simp only [step_powered h, State.stepPowered, hc, ha]
  · intro s s1 i h hc ha hp
    exact step_picked h hc ha hp
  · intro s r h ha
    simp only [step, State.stepOnce, h, ha, Bool.false_eq_true, if_false]
  · intro s h ha
    simp only [step, State.stepOnce, h, Bool.false_eq_true, if_false]

end Sys2Proof.Machine
end

section
/-!
O57 fails: the errors of what a retiring gang wrote back are settled with it and leave no check behind, yet the state is not the one after the
write-back (R250, R448).
-/

namespace Sys2Proof.Machine

/-- A gang of one ended troupe whose core's L1 holds a dirty line of the gang's with an uncorrectable error (R448). -/
def retiringWithBadLine : State :=
  { gg := { uid := 1 }, tr := { ended := true }, caches := [{ inst := 0, lines := [{ line := 0, owner := 1, tag := .troupe, dirty := 1 }] }],
    bad := [(0, 2)] }

/-- The write-back meets the error, and the gang's end in error is due (R448). -/
theorem retiringWithBadLine_released : (retiringWithBadLine.releaseGang retiringWithBadLine.gg).checks = [⟨1, 0, 0, 0, 2⟩] := by decide +kernel
/-- With it settled none is left. -/
theorem retiringWithBadLine_settled : ((retiringWithBadLine.releaseGang retiringWithBadLine.gg).settleChecksOf 1).checks = [] := by decide +kernel

/-- Refutes O57 in the last clause on retirement: no check stands before or after, but one has been settled in between. -/
theorem not_queueAndGangEvents : ¬ Obligations.QueueAndGangEvents := by
  rintro ⟨-, hgangs, -⟩
  obtain ⟨-, -, hretire⟩ := hgangs retiringWithBadLine 0 0 0 1
  obtain ⟨-, -, -, hsame⟩ := hretire retiringWithBadLine.gg (by decide +kernel) (by decide +kernel)
  have h := congrArg State.checks (hsame rfl retiringWithBadLine_settled)
  rw [retiringWithBadLine_released] at h
  cases retiringWithBadLine_settled.symm.trans h

end Sys2Proof.Machine
end

section
/-!
SUPPORT. What leaves memory as it is: every function of the model that writes no byte. A function on states says so as an equation, one that
may stop says it of the state it answers.
-/

namespace Sys2Proof.Machine

/-! ### Machine/Memory.lean -/

@[simp] theorem State.dropTracked_mem (s : State) (lines : List Nat) : (s.dropTracked lines).mem = s.mem := rfl

@[simp] theorem State.releaseHeld_mem (s : State) (p : Held → Bool) : (s.releaseHeld p).mem = s.mem := rfl

@[simp] theorem State.acquireL1_mem (s : State) (core part : Nat) (scope : OrdScope) (one : Bool) :
    (s.acquireL1 core part scope one).mem = s.mem := rfl

@[simp] theorem State.writeL1_mem (s : State) (r : Req) (scope : OrdScope) (nd : BitVec 4) (pa n v : Nat) :
    (s.writeL1 r scope nd pa n v).mem = s.mem := rfl

@[simp] theorem State.applyOne_mem (s : State) (dom id : Nat) : (s.applyOne dom id).mem = s.mem := by
  unfold State.applyOne
  (repeat' split) <;> simp

/-! ### Machine/Translate.lean -/

@[simp] theorem State.tlbFill_mem (s : State) (core : Nat) (e : TlbEntry) : (s.tlbFill core e).mem = s.mem := rfl

@[simp] theorem State.askReads_mem (s : State) (core part : Nat) (missed : List Nat) :
    (s.askReads core part missed).mem = s.mem := rfl

@[simp] theorem State.walkDone_mem (s : State) (core part : Nat) (reads : List Nat) :
    (s.walkDone core part reads).mem = s.mem := rfl

@[simp] theorem State.walkBy_mem (s : State) (core part : Nat) (sys : Bool) (va : Nat) (acc : AccKind) :
    (s.walkBy core part sys va acc).2.mem = s.mem := by
  unfold State.walkBy
  split <;> simp

@[simp] theorem State.translate_mem (s : State) (core part : Nat) (sys : Bool) (va : Nat) (acc : AccKind) :
    (s.translate core part sys va acc).2.mem = s.mem := by
  unfold State.translate
  (repeat' split) <;> simp

@[simp] theorem State.askLines_mem (s : State) (part pa n : Nat) (write : Bool) : (s.askLines part pa n write).mem = s.mem := rfl

@[simp] theorem State.askFlat_mem (s : State) (part va n : Nat) : (s.askFlat part va n).mem = s.mem := by
  unfold State.askFlat
  (repeat' split) <;> simp

@[simp] theorem State.raiseMsi_mem (s : State) (part vec : Nat) : (s.raiseMsi part vec).mem = s.mem := by
  simp [State.raiseMsi, apply_ite State.mem]

/-! ### Machine/Ops.lean -/

@[simp] theorem State.updGang_mem (s : State) (uid : Nat) (f : Gang → Gang) : (s.updGang uid f).mem = s.mem := by
  unfold State.updGang
  split <;> simp

@[simp] theorem State.updTroupe_mem (s : State) (uid t : Nat) (f : Troupe → Troupe) : (s.updTroupe uid t f).mem = s.mem := by
  unfold State.updTroupe
  split <;> simp

@[simp] theorem State.focusTo_mem (s : State) (p : PathId) : (s.focusTo p).mem = s.mem := by
  unfold State.focusTo
  (repeat' split) <;> simp

theorem State.mem_of_sansWalks {s t : State} (h : t.sansWalks = s.sansWalks) : t.mem = s.mem := by
  have := congrArg State.mem h
  exact this

/-- A fold of steps that leave memory leaves it. -/
theorem State.foldl_mem {α : Type} {f : State → α → State} (hf : ∀ s a, (f s a).mem = s.mem) (l : List α) (s : State) :
    (l.foldl f s).mem = s.mem := by
  induction l generalizing s with
  | nil => rfl
  | cons a r ih => rw [List.foldl_cons, ih, hf]

theorem State.placeBy_mem {s t : State} {now : Bool} {ln : Option Nat} {lane : Nat} {a : Word64} {acc : AccKind} {l : Loc}
    (h : s.placeBy now ln lane a acc = .ok (l, t)) : t.mem = s.mem := by
  unfold State.placeBy at h
  split at h
  · cases h
  · split at h <;> cases h
    rfl
  · split at h
    · split at h <;> cases h
      rfl
    · split at h
      · rw [State.landed_ok h, State.translate_mem]
      · cases h

theorem State.place_mem {s t : State} {ln : Option Nat} {lane : Nat} {a : Word64} {acc : AccKind} {l : Loc}
    (h : s.place ln lane a acc = .ok (l, t)) : t.mem = s.mem := State.mem_of_sansWalks (State.place_sansWalks h)

theorem State.resolve_mem {s t : State} {one : Bool} {acc : AccKind} {z : Nat} {as : List (Nat × Word64)} {ls : List (Nat × Loc)}
    (h : s.resolve one acc z as = .ok (ls, t)) : t.mem = s.mem := State.mem_of_sansWalks (State.resolve_ok h).1

@[simp] theorem State.lostWrite_mem (s : State) (r : Req) (pa : Nat) : (s.lostWrite r pa).mem = s.mem := rfl

@[simp] theorem State.forget_mem (s : State) (lanes : BitVec 32) (t : Nat) : (s.forget lanes t).mem = s.mem := rfl

@[simp] theorem State.forgetAt_mem (s : State) (lanes : BitVec 32) (l : Loc) (n t : Nat) :
    (s.forgetAt lanes l n t).mem = s.mem := rfl

@[simp] theorem State.acquire_mem (s : State) (lanes : BitVec 32) (scope : OrdScope) (t : Nat) :
    (s.acquire lanes scope t).mem = s.mem := rfl

@[simp] theorem State.noteSent_mem (s : State) (lanes : BitVec 32) (l : Loc) : (s.noteSent lanes l).mem = s.mem := by
  unfold State.noteSent
  (repeat' split) <;> simp

@[simp] theorem State.addFill_mem (s : State) (mode : AccMode) (write : Bool) (l : Loc) : (s.addFill mode write l).mem = s.mem := by
  unfold State.addFill
  split <;> simp

@[simp] theorem State.addFills_mem (s : State) (mode : AccMode) (write : Bool) (n : Nat) (ls : List Loc) :
    (s.addFills mode write n ls).mem = s.mem := State.foldl_mem (fun s l => s.addFill_mem mode write l) _ s

@[simp] theorem State.countRetire_mem (s : State) : (s.countRetire).mem = s.mem := by
  simp [State.countRetire, apply_ite State.mem]

theorem State.lane0_mem {s t : State} {off : Nat} {acc : AccKind} {l : Loc} (h : s.lane0 off acc = .ok (l, t)) : t.mem = s.mem :=
  State.place_mem h

@[simp] theorem State.dropWide_mem (s : State) (p : PathId → Bool) : (s.dropWide p).mem = s.mem := rfl

@[simp] theorem State.clearFwPurses_mem (s : State) : (s.clearFwPurses).mem = s.mem := rfl

@[simp] theorem State.endInError_mem (s : State) (uid : Nat) (e : ErrRec) : (s.endInError uid e).mem = s.mem := by
  simp [State.endInError, apply_ite State.mem]

@[simp] theorem State.vectored_mem (s : State) (r : ErrRec) (base : Word64) (target : BitVec 48) :
    (s.vectored r base target).mem = s.mem := by
  simp [State.vectored, apply_ite State.mem]

@[simp] theorem State.dropLease_mem (s : State) : (s.dropLease).mem = s.mem := rfl

@[simp] theorem State.returnFromTrap_mem (s : State) : (s.returnFromTrap).mem = s.mem := rfl

@[simp] theorem State.unfreeze_mem (s : State) : (s.unfreeze).mem = s.mem := rfl

/-! ### Machine/Operands.lean -/

@[simp] theorem State.writeLanes_mem (s : State) (b : Bound) (d : VReg) (f : Fin 32 → Word32) :
    (s.writeLanes b d f).mem = s.mem := rfl

@[simp] theorem State.writeGroup_mem (s : State) (b : Bound) (d : VReg) (f : Nat → Fin 32 → Word32) (n : Nat) :
    (s.writeGroup b d f n).mem = s.mem := by
  induction n with
  | zero => rfl
  | succ n ih => rw [State.writeGroup, State.writeLanes_mem, ih]

@[simp] theorem State.writeMask_mem (s : State) (b : Bound) (d : KReg) (p : Fin 32 → Bool) : (s.writeMask b d p).mem = s.mem := rfl

@[simp] theorem State.drawFor_mem (s : State) (b : Bound) (n : Nat) : (s.drawFor b n).mem = s.mem := by
  unfold State.drawFor
  split <;> simp

@[simp] theorem State.beginWalk_mem (s : State) (va : Nat) (acc : AccKind) : (s.beginWalk va acc).mem = s.mem := by
  simp [State.beginWalk, apply_ite State.mem]

@[simp] theorem State.mustWait_mem (s : State) : (s.mustWait).mem = s.mem := rfl

@[simp] theorem State.holdStop_mem (s : State) : (s.holdStop).mem = s.mem := rfl

/-! ### Machine/Circles.lean -/

@[simp] theorem State.setCircle_mem (s : State) (c : Nat) (x : Circle) : (s.setCircle c x).mem = s.mem := rfl

@[simp] theorem State.noteLast_mem (s : State) (last : Nat) : (s.noteLast last).mem = s.mem := by
  unfold State.noteLast
  split <;> simp

@[simp] theorem State.mapSlots_mem (s : State) (f : Slot → Slot) : (s.mapSlots f).mem = s.mem := rfl

@[simp] theorem State.flip_mem (s : State) (c : Nat) : (s.flip c).mem = s.mem := by
  simp [State.flip]

@[simp] theorem State.arriveSecond_mem (s : State) (c : Nat) (a : Nat × SlotId × Bool) : (s.arriveSecond c a).mem = s.mem := by
  simp [State.arriveSecond, apply_ite State.mem]

@[simp] theorem State.completeIf_mem (s : State) (c : Nat) : (s.completeIf c).mem = s.mem := by
  unfold State.completeIf
  split
  · rw [State.foldl_mem fun s a => s.arriveSecond_mem c a, State.flip_mem]
  · rfl

@[simp] theorem State.gangAcquire_mem (s : State) : (s.gangAcquire).mem = s.mem := rfl

@[simp] theorem State.sleepOn_mem (s : State) (a : Asleep) : (s.sleepOn a).mem = s.mem := rfl

@[simp] theorem State.leaveCircle_mem (s : State) (c : Nat) : (s.leaveCircle c).mem = s.mem := by
  unfold State.leaveCircle
  split <;> simp

theorem State.onPath_mem (s : State) (p : PathId) {f : State → State} (hf : ∀ s, (f s).mem = s.mem) :
    (s.onPath p f).mem = s.mem := by
  unfold State.onPath
  split
  · rw [hf, State.focusTo_mem]
  · rfl

/-! ### Machine/Paths.lean -/

@[simp] theorem State.endIfDone_mem (s : State) : s.endIfDone.mem = s.mem := by
  unfold State.endIfDone
  split
  · rfl
  · simp [State.foldl_mem State.leaveCircle_mem]

/-! ### Machine/Pools.lean -/

@[simp] theorem State.takeEntry_mem (s : State) (pool : Pool) (part n : Nat) : (s.takeEntry pool part n).mem = s.mem := rfl

@[simp] theorem State.giveEntry_mem (s : State) (pool : Pool) (part n : Nat) : (s.giveEntry pool part n).mem = s.mem := rfl

@[simp] theorem State.countBytes_mem (s : State) (part mem fab : Nat) : (s.countBytes part mem fab).mem = s.mem := by
  unfold State.countBytes
  split <;> simp

@[simp] theorem State.granted_mem (s : State) (pool : Pool) (part n : Nat) (waited : Bool) :
    (s.granted pool part n waited).mem = s.mem := by
  unfold State.granted
  split <;> simp

/-! ### Machine/Access.lean -/

@[simp] theorem State.afterLoad_mem (s : State) (mode : AccMode) (bs : List (BitVec 32 × Loc × Nat × Nat)) :
    (s.afterLoad mode bs).mem = s.mem := by
  unfold State.afterLoad
  simp only [apply_ite State.mem, State.forget_mem, ite_self]
  exact State.foldl_mem (fun s b => s.forgetAt_mem ..) bs s

@[simp] theorem State.noteSeen_mem (s : State) (ls : List (Nat × Loc)) (z : Nat) : (s.noteSeen ls z).mem = s.mem := rfl

@[simp] theorem State.bindEarly_mem (s : State) (x : EarlyAsk) : (s.bindEarly x).mem = s.mem := by
  simp [State.bindEarly, apply_ite State.mem]

/-! ### Machine/Wide.lean -/

@[simp] theorem State.joinWide_mem (s : State) (p : PathId) : (s.joinWide p).mem = s.mem := by
  simp [State.joinWide, apply_ite State.mem]

@[simp] theorem State.forWideAt_mem (s : State) (p : PathId) : (s.forWideAt p).mem = s.mem := by
  simp [State.forWideAt, apply_ite State.mem]

@[simp] theorem State.setBasis_mem (s : State) (p : PathId) (b : Option PriceBasis) : (s.setBasis p b).mem = s.mem := by
  simp [State.setBasis, apply_ite State.mem]

@[simp] theorem State.waitWide_mem (s : State) (b : PriceBasis) : (s.waitWide b).mem = s.mem := by
  simp [State.waitWide, apply_ite State.mem]

@[simp] theorem State.pay_mem (s : State) (price : Nat) : (s.pay price).mem = s.mem := by
  simp [State.pay, apply_ite State.mem]

@[simp] theorem State.freeWide_mem (s : State) : (s.freeWide).mem = s.mem := rfl

/-! ### Machine/Control.lean -/

theorem State.writeSpecial_mem {s t : State} {n : Nat} {v : Word64} (h : s.writeSpecial n v = some t) : t.mem = s.mem := by
  unfold State.writeSpecial at h
  split at h
  case h_4 =>
    split at h <;> cases h
    simp [apply_ite State.mem]
  case h_5 => cases h
  all_goals
    split at h <;> cases h
    rfl

/-! ### Machine/PathEvents.lean -/

@[simp] theorem State.noteIssued_mem (s : State) (p : PathId) : (s.noteIssued p).mem = s.mem := by
  simp [State.noteIssued]

/-! ### Machine/Carousel.lean -/

@[simp] theorem State.emptyPurses_mem (s : State) (cl : Nat) : (s.emptyPurses cl).mem = s.mem := rfl

@[simp] theorem State.capture_mem (s : State) (stop : Nat) (p : Packet) : (s.capture stop p).1.mem = s.mem := by
  unfold State.capture
  (repeat' split) <;> simp

@[simp] theorem State.stopLap_mem (s : State) : (s.stopLap).mem = s.mem := by
  simp [State.stopLap, apply_ite State.mem]

@[simp] theorem State.turn_mem (s : State) (ps : List Packet) : (s.turn ps).1.mem = s.mem := by
  induction ps generalizing s with
  | nil => rfl
  | cons p r ih =>
    unfold State.turn
    dsimp only
    rw [ih]
    split <;> simp

@[simp] theorem State.endPriceUpdate_mem (s : State) : (s.endPriceUpdate).mem = s.mem := by
  unfold State.endPriceUpdate
  split <;> simp

@[simp] theorem State.setWatts_mem (s : State) (w : Nat) : (s.setWatts w).mem = s.mem := by
  simp [State.setWatts]

/-! ### Machine/Monitors.lean -/

@[simp] theorem State.endWaitc_mem (s : State) (entry : Bool) : (s.endWaitc entry).mem = s.mem := by
  unfold State.endWaitc
  split <;> simp

@[simp] theorem State.readDep_mem (s : State) (part : Nat) (poll : Bool) (d : Dep) : (s.readDep part poll d).1.mem = s.mem := by
  grind [State.readDep, State.askFlat_mem, State.giveEntry_mem]

@[simp] theorem State.readDeps_mem (s : State) (part : Nat) (poll : Bool) (ds : List Dep) :
    (s.readDeps part poll ds).1.mem = s.mem := by
  induction ds generalizing s with
  | nil => rfl
  | cons d r ih =>
    unfold State.readDeps
    dsimp only
    rw [ih, State.readDep_mem]

theorem foldl_readDeps_mem (part : Nat) (poll : Bool) (cs : List Card) (acc : State × List Card) : (cs.foldl (fun acc c =>
      let (s, ds) := acc.1.readDeps part poll c.deps
      (s, acc.2 ++ [{ c with deps := ds }])) acc).1.mem = acc.1.mem := by
  induction cs generalizing acc with
  | nil => rfl
  | cons c r ih => rw [List.foldl_cons, ih, State.readDeps_mem]

@[simp] theorem State.recheckCards_mem (s : State) (q : Nat) (poll : Bool) : (s.recheckCards q poll).mem = s.mem :=
  foldl_readDeps_mem (s.queue q).part poll (s.queue q).cards (s, [])

@[simp] theorem State.markDead_mem (s : State) (line : Nat) : (s.markDead line).mem = s.mem := rfl

/-! ### Machine/Work.lean -/

@[simp] theorem State.readsBound_mem (s : State) (w : Nat) : (s.readsBound w).mem = s.mem := by
  unfold State.readsBound
  (repeat' split) <;> simp

@[simp] theorem State.engineError_mem (s : State) (w engine addr : Nat) : (s.engineError w engine addr).mem = s.mem := by
  unfold State.engineError
  split <;> simp

@[simp] theorem State.engineTouch_mem (s : State) (x : Work) (nd : BitVec 4) (write : Bool) (pa mt n : Nat) :
    (s.engineTouch x nd write pa mt n).mem = s.mem := by
  simp [State.engineTouch, apply_ite State.mem]

@[simp] theorem State.noteWrote_mem (s : State) (x : Work) (pa : Nat) : (s.noteWrote x pa).mem = s.mem := by
  simp [State.noteWrote]

theorem State.checkCtr_mem {s t : State} {ctr : Nat} (h : s.checkCtr ctr = .ok t) : t.mem = s.mem := by
  unfold State.checkCtr at h
  split at h
  · cases h
    rfl
  · split at h
    · cases h
    next hp =>
      cases h
      exact State.place_mem hp

@[simp] theorem State.endWaitb_mem (s : State) (n : Nat) : (s.endWaitb n).mem = s.mem := by
  unfold State.endWaitb
  dsimp only
  rw [State.foldl_mem fun s k => s.noteSent_mem (.allOnes 32) (.phys (128 * k) 0), State.forget_mem]
  split <;> simp

/-! ### Machine/Copy.lean -/

@[simp] theorem State.takeCopy_mem (s : State) : (s.takeCopy).mem = s.mem := by
  simp [State.takeCopy]

@[simp] theorem State.addItem_mem (s : State) (part slot w : Nat) : (s.addItem part slot w).mem = s.mem := rfl

@[simp] theorem State.updField_mem (s : State) (part slot : Nat) (f : FieldSlot → FieldSlot) :
    (s.updField part slot f).mem = s.mem := rfl

@[simp] theorem State.clearRows_mem (s : State) (part slot : Nat) (rows : Nat → Nat → Bool) :
    (s.clearRows part slot rows).mem = s.mem := by
  unfold State.clearRows
  split <;> simp

@[simp] theorem State.finishWork_mem (s : State) (x : Work) : (s.finishWork x).mem = s.mem := by
  unfold State.finishWork
  split <;> simp

/-! ### Machine/Matrix.lean -/

@[simp] theorem State.endLease_mem (s : State) (core : Nat) : (s.endLease core).mem = s.mem := rfl

@[simp] theorem State.settleLease_mem (s : State) (core : Nat) : (s.settleLease core).mem = s.mem := by
  unfold State.settleLease
  split <;> simp

theorem State.rampStep_mem {s : State} (core : Nat) (mma : Bool) {t : State} (h : s.rampStep core mma = some t) :
    t.mem = s.mem := by
  grind [State.rampStep, State.setCore_mem]

/-! ### Machine/Rows.lean -/

@[simp] theorem State.scheduleTile_mem (s : State) (stack tile : Nat) : (s.scheduleTile stack tile).mem = s.mem := by
  unfold State.scheduleTile
  (repeat' split) <;> simp

@[simp] theorem State.setRow_mem (s : State) (stack : Nat) (c : RowCount) : (s.setRow stack c).mem = s.mem := rfl

@[simp] theorem State.countRow_mem (s : State) (stack row : Nat) (demand : Bool) : (s.countRow stack row demand).mem = s.mem := by
  grind [State.countRow, State.setRow_mem, State.scheduleTile_mem]

@[simp] theorem State.countTile_mem (s : State) (stack tile : Nat) : (s.countTile stack tile).mem = s.mem :=
  State.foldl_mem (fun s _ => s.countRow_mem ..) _ s

@[simp] theorem State.countDram_mem (s : State) (pa : Nat) (demand : Bool) : (s.countDram pa demand).mem = s.mem := rfl

/-! ### Machine/Layers.lean -/

@[simp] theorem State.chargePasses_mem (s : State) (r : Nat) (ps : List LPass) : (s.chargePasses r ps).mem = s.mem := by
  unfold State.chargePasses
  split <;> simp

@[simp] theorem State.lapsePins_mem (s : State) : (s.lapsePins).mem = s.mem := rfl

@[simp] theorem State.journalDone_mem (s : State) (h n : Nat) : (s.journalDone h n).mem = s.mem := rfl

@[simp] theorem State.mapLoads_mem (s : State) (h : Nat) : (s.mapLoads h).mem = s.mem := by
  simp [State.mapLoads, apply_ite State.mem]

@[simp] theorem State.publish_mem (s : State) (h : Nat) : (s.publish h).mem = s.mem := by
  simp [State.publish]

@[simp] theorem State.freeOld_mem (s : State) (h : Nat) : (s.freeOld h).mem = s.mem := by
  simp [State.freeOld, apply_ite State.mem]

@[simp] theorem State.fitTiles_mem (s : State) (h : Nat) : (s.fitTiles h).mem = s.mem :=
  State.foldl_mem (fun s t => by split <;> simp) _ s

@[simp] theorem State.arouse_mem (s : State) (h : Nat) : (s.arouse h).mem = s.mem := by
  unfold State.arouse
  split <;> simp

@[simp] theorem State.journalMap_mem (s : State) (h : Nat) (f : JEntry → Option JEntry) : (s.journalMap h f).mem = s.mem := rfl

@[simp] theorem State.setEntry_mem (s : State) (h : Nat) (e : JEntry) (t : JState) : (s.setEntry h e t).mem = s.mem := rfl

@[simp] theorem State.beginRefresh_mem (s : State) (h : Nat) (r : Region) (i tile : Nat) :
    (s.beginRefresh h r i tile).mem = s.mem := by
  unfold State.beginRefresh
  dsimp only
  split
  · rfl
  · split
    · simp
    · split <;> simp

@[simp] theorem State.programStep_mem (s : State) (h : Nat) (r : Region) (i tile : Nat) (e : JEntry) :
    (s.programStep h r i tile e).mem = s.mem := by
  unfold State.programStep
  split
  · rw [State.countTile_mem, State.setEntry_mem]
  · dsimp only
    split
    · rw [State.setEntry_mem, State.countTile_mem]
    · split
      · rw [State.setEntry_mem, State.countTile_mem]
      · rw [State.journalMap_mem, State.countTile_mem]
  · split
    · rfl
    · rw [State.fitTiles_mem, State.setRegion_mem, State.journalDone_mem, State.publish_mem, State.journalMap_mem]

@[simp] theorem State.recoverJournal_mem (s : State) (on : Nat → Bool) : (s.recoverJournal on).mem = s.mem := rfl

@[simp] theorem State.handBack_mem (s : State) (x : Work) : (s.handBack x).mem = s.mem := rfl

/-! ### Machine/Fields.lean -/

@[simp] theorem State.endJob_mem (s : State) (x : Work) (j : JobWork) (stops : List (Nat × Nat × Nat)) :
    (s.endJob x j stops).mem = s.mem := rfl

@[simp] theorem State.badMicro_mem (s : State) (w : BitVec 32) : (s.badMicro w).mem = s.mem := by
  unfold State.badMicro
  split <;> simp

/-! ### Machine/Place.lean -/

@[simp] theorem State.refreshOne_mem (s : State) (was : List Partition) (p : Nat) : (s.refreshOne was p).mem = s.mem := by
  simp [State.refreshOne, apply_ite State.mem]

@[simp] theorem State.refreshActive_mem (s : State) : s.refreshActive.mem = s.mem :=
  State.foldl_mem (fun s p => s.refreshOne_mem _ p) _ s

@[simp] theorem State.endBorrow_mem (s : State) (cl : Nat) : (s.endBorrow cl).mem = s.mem := rfl

@[simp] theorem State.borrowFor_mem (s : State) (part cl : Nat) : (s.borrowFor part cl).mem = s.mem := by
  unfold State.borrowFor
  split <;> simp

@[simp] theorem State.chargePlace_mem (s : State) (part n : Nat) : (s.chargePlace part n).mem = s.mem := by
  unfold State.chargePlace
  split <;> simp

@[simp] theorem State.acquireOn_mem (s : State) (part cl c0 nC : Nat) : (s.acquireOn part cl c0 nC).mem = s.mem :=
  State.foldl_mem (fun s _ => s.acquireL1_mem ..) _ s

@[simp] theorem State.placeCard_mem (s : State) (q cl c0 : Nat) : (s.placeCard q cl c0).mem = s.mem := by
  unfold State.placeCard
  dsimp only
  split
  · rfl
  · simp [apply_ite State.mem]

@[simp] theorem State.countResidency_mem (s : State) (now : Nat) (g : Gang) : (s.countResidency now g).mem = s.mem := rfl

@[simp] theorem State.removeGang_mem (s : State) (g : Gang) : (s.removeGang g).mem = s.mem := by
  simp [State.removeGang, apply_ite State.mem]

@[simp] theorem State.settleDrains_mem (s : State) : (s.settleDrains).mem = s.mem := rfl

@[simp] theorem State.leaveCard_mem (s : State) (g : Gang) (bad : Bool) : (s.leaveCard g bad).mem = s.mem := rfl

@[simp] theorem State.freeFramesOf_mem (s : State) (g : Gang) : (s.freeFramesOf g).mem = s.mem := rfl

@[simp] theorem State.endSaved_mem (s : State) (uid : Nat) (e : Gang → ErrRec) : (s.endSaved uid e).mem = s.mem := by
  unfold State.endSaved
  split <;> simp

/-! ### Machine/Caches.lean -/

@[simp] theorem State.meet_mem (s : State) (i who : Nat) : (s.meet i who).mem = s.mem := by
  simp [State.meet, apply_ite State.mem]

@[simp] theorem State.catchUp_mem (s : State) (i : Nat) : (s.catchUp i).mem = s.mem := rfl

@[simp] theorem State.advanceEpoch_mem (s : State) (i : Nat) : (s.advanceEpoch i).mem = s.mem := rfl

@[simp] theorem State.applyRequest_mem (s : State) (i : Nat) : (s.applyRequest i).mem = s.mem := by
  simp [State.applyRequest, apply_ite State.mem]

@[simp] theorem State.countInsert_mem (s : State) (i : Nat) (f : Fill) : (s.countInsert i f).mem = s.mem := by
  unfold State.countInsert
  split <;> simp

@[simp] theorem State.countFill_mem (s : State) (f : Fill) : (s.countFill f).mem = s.mem := by
  simp [State.countFill]

@[simp] theorem State.repair_mem (s : State) (f : Fill) : (s.repair f).mem = s.mem := by
  grind [State.repair]

@[simp] theorem State.countUncached_mem (s : State) (f : Fill) : (s.countUncached f).mem = s.mem := by
  simp [State.countUncached, apply_ite State.mem]

@[simp] theorem State.chargeBand_mem (s : State) (f : Fill) : (s.chargeBand f).mem = s.mem := by
  unfold State.chargeBand
  split <;> simp

/-! ### Machine/Partitions.lean -/

@[simp] theorem State.fillHolders_mem (s : State) : s.fillHolders.mem = s.mem := by
  refine State.foldl_mem (fun s cl => ?_) _ s
  split
  · rfl
  · split
    · split <;> simp
    · rfl

@[simp] theorem State.forgetRequester_mem (s : State) (id : Nat) : (s.forgetRequester id).mem = s.mem := rfl

@[simp] theorem State.grantAsk_mem (s : State) (part : Nat) (a : Ask) : (s.grantAsk part a).mem = s.mem := by
  unfold State.grantAsk
  split
  · simp
  · simp
  · dsimp only
    split <;> simp
  · rfl

@[simp] theorem State.grantNext_mem (s : State) (pool : Pool) (part : Nat) : (s.grantNext pool part).mem = s.mem := by
  unfold State.grantNext
  split
  · split <;> simp
  · rfl

@[simp] theorem State.sampleLines_mem (s : State) (part now : Nat) : (s.sampleLines part now).mem = s.mem := by
  simp [State.sampleLines, apply_ite State.mem]

@[simp] theorem State.countResident_mem (s : State) (part now : Nat) : (s.countResident part now).mem = s.mem :=
  State.foldl_mem (fun s g => by simp) _ s

@[simp] theorem State.startIncoming_mem (s : State) (g : SwitchGroup) (t : Nat) : (s.startIncoming g t).mem = s.mem :=
  State.foldl_mem (fun s cl => by simp) g.clusters { s with slot := g.slot, slotAt := s.cycle }

@[simp] theorem State.tryIncoming_mem (s : State) : s.tryIncoming.mem = s.mem := by
  unfold State.tryIncoming
  split
  · split
    · split <;> simp
    · rfl
  · rfl

@[simp] theorem State.checkSwitch_mem (s : State) : s.checkSwitch.mem = s.mem := by
  unfold State.checkSwitch
  split
  · split <;> simp
  · rfl

/-! ### Machine/Near.lean -/

@[simp] theorem State.restartNear_mem (s : State) (h : Nat) : (s.restartNear h).mem = s.mem := by
  refine State.foldl_mem (fun s p => s.onPath_mem p fun s => ?_) _ s
  split
  · split <;> rfl
  · rfl

/-! ### Machine/Preempt.lean -/

@[simp] theorem State.suspendWork_mem (s : State) (x : Work) : (s.suspendWork x).mem = s.mem := by
  simp [State.suspendWork, apply_ite State.mem]

@[simp] theorem State.forceItems_mem (s : State) (uid part n : Nat) : (s.forceItems uid part n).mem = s.mem := by
  induction n generalizing s with
  | zero => rfl
  | succ n ih =>
    unfold State.forceItems
    dsimp only
    split
    · rfl
    · rw [ih]
      split <;> simp

/-! ### Machine/Fabric.lean -/

@[simp] theorem State.unmaskMsi_mem (s : State) (vf : Nat) : (s.unmaskMsi vf).mem = s.mem := rfl

@[simp] theorem State.setPort_mem (s : State) (p : Port) : (s.setPort p).mem = s.mem := rfl

/-! ### Machine/Boot.lean -/

@[simp] theorem State.freeSpares_mem (s : State) (freed : Nat → List Nat) : (s.freeSpares freed).mem = s.mem := rfl

@[simp] theorem State.dropRecords_mem (s : State) (out : Region → Bool) : (s.dropRecords out).mem = s.mem := rfl

@[simp] theorem State.bootAction_mem (s : State) (n : Nat) : (s.bootAction n).mem = s.mem := by
  unfold State.bootAction
  split
  case h_2 => exact State.foldl_mem (fun s h => s.setPile_mem _) _ s
  case h_5 => simp
  case h_6 => exact State.foldl_mem (fun s h => by split <;> simp) _ s
  all_goals rfl

@[simp] theorem State.setAside_mem (s : State) (id : Nat) : (s.setAside id).2.mem = s.mem := by
  grind [State.setAside, State.dropRecords_mem]

theorem State.placeRegion_mem {s t : State} {r : Region} (h : s.placeRegion r = some t) : t.mem = s.mem := by
  unfold State.placeRegion at h
  dsimp only at h
  obtain ⟨ts, -, rfl⟩ := Option.map_eq_some_iff.1 h
  refine (State.foldl_mem (fun s h => ?_) r.stacks _).trans ?_
  · rw [State.setPile_mem, State.arouse_mem]
  · dsimp only
    rw [State.foldl_mem State.freeOld_mem, State.setAside_mem]

theorem State.placeRegions_mem {rs : List Region} {s t : State} (h : s.placeRegions rs = some t) : t.mem = s.mem := by
  induction rs generalizing s with
  | nil =>
    cases h
    rfl
  | cons r rs ih =>
    obtain ⟨u, hu, ht⟩ := Option.bind_eq_some_iff.1 h
    rw [ih ht, State.placeRegion_mem hu]

@[simp] theorem State.stop_mem (s : State) : (s.stop).mem = s.mem := rfl

/-! ### Machine/MemVector.lean -/

@[simp] theorem State.writeLoaded_mem (s : State) (d : VReg) (vs : List (Nat × Nat)) (n : Nat) :
    (s.writeLoaded d vs n).mem = s.mem := by
  induction n with
  | zero => rfl
  | succ n ih => rw [State.writeLoaded, State.wV_mem, ih]

/-! ### Machine/Schedule.lean -/

@[simp] theorem State.lastWord_mem (s : State) (p : PathId) : (s.lastWord p).mem = s.mem := by
  unfold State.lastWord
  split <;> simp

end Sys2Proof.Machine
end

section
/-!
SUPPORT. Memory keeps its canonical form (log 1): stores and their order, traps, the path stack. What writes memory keeps the form, whatever
it finds; a function that may stop keeps it in the state it answers.
-/

namespace Sys2Proof.Machine

/-! ### Machine/Memory.lean -/

theorem State.grantLine_wf {s : State} (h : Memory.wf s.mem = true) (core line : Nat) :
    Memory.wf (s.grantLine core line).mem = true :=
  State.foldl_wf _ (fun _ x hs => State.writeBack_wf hs x.1 x.2) _ h

/-! ### Machine/Translate.lean -/

theorem State.writeFor_wf {s : State} (h : Memory.wf s.mem = true) (part pa n v : Nat) :
    Memory.wf (s.writeFor part pa n v).mem = true := by
  unfold State.writeFor
  (repeat' split) <;> simp [h, State.writeHome_wf]

theorem State.writeFlat_wf {s : State} (h : Memory.wf s.mem = true) (part va n v : Nat) :
    Memory.wf (s.writeFlat part va n v).mem = true := by
  unfold State.writeFlat
  split <;> simp [h, State.writeFor_wf]

theorem State.writeStatus_wf {s : State} (h : Memory.wf s.mem = true) (q : Nat) : Memory.wf (s.writeStatus q).mem = true := by
  simp [State.writeStatus, State.writeFlat_wf, h]

theorem State.writeIpa_wf {s : State} (h : Memory.wf s.mem = true) (part addr n v : Nat) :
    Memory.wf (s.writeIpa part addr n v).mem = true := by
  unfold State.writeIpa
  split <;> simp [h, State.writeFor_wf]

theorem State.writeAcct_wf {s : State} (h : Memory.wf s.mem = true) (part : Nat) : Memory.wf (s.writeAcct part).mem = true := by
  unfold State.writeAcct
  split <;> simp [h, State.writeIpa_wf]

theorem State.writeFaultRecords_wf {s : State} (h : Memory.wf s.mem = true) (part n : Nat) :
    Memory.wf (s.writeFaultRecords part n).mem = true := by
  induction n generalizing s with
  | zero => exact h
  | succ n ih =>
    unfold State.writeFaultRecords
    dsimp only
    split
    · exact h
    · split
      · refine ih (State.writeAcct_wf ?_ part)
        split <;> simp [h, State.writeIpa_wf]
      · exact h

theorem State.recordFault_wf {s : State} (h : Memory.wf s.mem = true) (part : Nat) (f : PFault) :
    Memory.wf (s.recordFault part f).2.mem = true := by
  unfold State.recordFault
  dsimp only
  split
  · exact h
  · exact State.writeFaultRecords_wf (by simpa using h) part 1

theorem State.recordFaults_wf {s : State} (h : Memory.wf s.mem = true) (part : Nat) (fs : List PFault) :
    Memory.wf (s.recordFaults part fs).2.mem = true := by
  induction fs generalizing s with
  | nil => exact h
  | cons f r ih => exact ih (State.recordFault_wf h part f)

/-! ### Machine/Ops.lean -/

theorem State.tailBell_wf {s : State} (h : Memory.wf s.mem = true) (q : Nat) (v : Word64) (n : Nat) :
    Memory.wf (s.tailBell q v n).mem = true := by
  grind [State.tailBell, State.writeStatus_wf, State.setQueue_mem, State.raiseMsi_mem]

theorem State.performAt_wf {s : State} (h : Memory.wf s.mem = true) (r : Req) (scope : OrdScope) (nd : BitVec 4) (l : Loc)
    (n v : Nat) : Memory.wf (s.performAt r scope nd l n v).mem = true := by
  unfold State.performAt
  (repeat' split) <;> simp [h, State.tailBell_wf, State.writeHome_wf, State.writeNear_wf]

theorem State.beforeAtomic_wf {s : State} (h : Memory.wf s.mem = true) (r : Req) (scope : OrdScope) (nd : BitVec 4)
    (l : Loc) : Memory.wf (s.beforeAtomic r scope nd l).mem = true := by
  unfold State.beforeAtomic
  split
  next pa mt =>
    split
    · exact h
    · dsimp only
      split
      next l _ =>
        have hw := State.writeBack_wf h r.core l
        split
        · exact State.grantLine_wf hw r.core (lineOf pa)
        · exact hw
      · split
        · exact State.grantLine_wf h r.core (lineOf pa)
        · exact h
  · exact h

theorem State.rmw_wf {s : State} (h : Memory.wf s.mem = true) (r : Req) (mode : AccMode) (l : Loc) (n : Nat)
    (o : AtomicOp) (v cmp : Nat) : Memory.wf (s.rmw r mode l n o v cmp).2.mem = true := by
  simp [State.rmw, State.performAt_wf, State.beforeAtomic_wf, h]

theorem State.writeBackFor_wf {s : State} (h : Memory.wf s.mem = true) (scope : OrdScope) :
    Memory.wf (s.writeBackFor scope).mem = true := by
  simp [State.writeBackFor, State.releaseL1_wf, h]

theorem State.performEntry_wf {s : State} (h : Memory.wf s.mem = true) (r : Req) (e : StoreEntry) :
    Memory.wf (s.performEntry r e).mem = true := by
  have hr : Memory.wf (if isRelease e.mode.order then (s.noteSent e.lanes e.loc).releaseL1 r.core e.mode.scope r.one
      else s.noteSent e.lanes e.loc).mem = true := by
    split <;> simp [h, State.releaseL1_wf]
  unfold State.performEntry
  dsimp only
  split
  · exact State.performAt_wf (by split <;> simpa) ..
  · exact State.rmw_wf (by split <;> simpa) ..

theorem State.drainWhere_wf {s : State} (h : Memory.wf s.mem = true) (want : StoreEntry → Bool) :
    Memory.wf (s.drainWhere want).mem = true :=
  State.foldl_wf _ (fun _ e hs => State.performEntry_wf hs _ e) _ h

theorem State.drain_wf {s : State} (h : Memory.wf s.mem = true) (lanes : BitVec 32) : Memory.wf (s.drain lanes).mem = true := by
  simp [State.drain, State.drainWhere_wf, h]

theorem State.drainFor_wf {s : State} (h : Memory.wf s.mem = true) (free : Bool) (ls : List (Nat × Loc)) (n : Nat) :
    Memory.wf (s.drainFor free ls n).mem = true := by
  simp [State.drainFor, State.drainWhere_wf, h]

theorem State.releaseFor_wf {s : State} (h : Memory.wf s.mem = true) (scope : OrdScope) (clip : Bool) :
    Memory.wf (s.releaseFor scope clip).mem = true := by
  simp [State.releaseFor, State.writeBackFor_wf, State.drainWhere_wf, h]

theorem State.settle_wf {s : State} (h : Memory.wf s.mem = true) (lanes : BitVec 32) (ls : List (Nat × Loc)) (n : Nat) :
    Memory.wf (s.settle lanes ls n).mem = true := by
  simp [State.settle, State.drainWhere_wf, h]

theorem State.enter_wf {s : State} (h : Memory.wf s.mem = true) (es : List StoreEntry) : Memory.wf (s.enter es).mem = true := by
  unfold State.enter
  simp only [apply_ite State.mem, State.forget_mem, ite_self, State.foldl_mem fun s (e : StoreEntry) => s.forgetAt_mem e.lanes e.loc e.size s.tr.ins]
  split
  · exact State.drain_wf h _
  · exact h

theorem State.noteClip_wf {s : State} (h : Memory.wf s.mem = true) (scope : OrdScope) :
    Memory.wf (s.noteClip scope).mem = true := by
  unfold State.noteClip
  split <;> simp [h, State.writeAcct_wf]

theorem State.lane0Write_wf {s : State} (h : Memory.wf s.mem = true) (stack : Bool) (va : Word64) (l : Loc) (n v : Nat) :
    Memory.wf (s.lane0Write stack va l n v).mem = true := by
  simp [State.lane0Write, State.enter_wf, h]

theorem State.lane0Read_wf {s : State} (h : Memory.wf s.mem = true) (l : Loc) (n : Nat) :
    Memory.wf (s.lane0Read l n).2.mem = true := by
  simp [State.lane0Read, State.settle_wf, h]

theorem State.parkOn_wf {s : State} (h : Memory.wf s.mem = true) (ms : List PageMiss) (frame : Option (SlotId × ErrRec))
    (word : BitVec 32) : Memory.wf (s.parkOn ms frame word).mem = true :=
  State.recordFaults_wf (by simpa using h) ..

theorem State.vector_wf {s : State} (h : Memory.wf s.mem = true) (e : ErrRec) : Memory.wf (s.vector e).mem = true := by
  unfold State.vector
  dsimp only
  generalize (if s.gg.sys then s.ctl.stvec else s.tr.trapvec) = target
  generalize (if s.gg.sys then s.ctl.stframe else 0xFFFFFE0000000000) = base
  split
  · simpa using h
  · split
    · exact State.parkOn_wf h ..
    · simpa using h
    next hp =>
      rw [State.vectored_mem]
      have hu : Memory.wf _ = true := State.placeBy_mem hp ▸ h
      exact State.lane0Write_wf hu ..

theorem State.machineCheck_wf {s : State} (h : Memory.wf s.mem = true) (core part pa unit : Nat) (prec : Bool) :
    Memory.wf (s.machineCheck core part pa unit prec).mem = true := by
  simp [State.machineCheck, State.writeFlat_wf, h]

theorem State.takeTrap_wf {s : State} (h : Memory.wf s.mem = true) (e : ErrRec) : Memory.wf (s.takeTrap e).mem = true := by
  refine State.vector_wf ?_ _
  split <;> simp [h, State.machineCheck_wf]

theorem State.lane0_wf {s t : State} {off : Nat} {acc : AccKind} {l : Loc} (e : s.lane0 off acc = .ok (l, t))
    (h : Memory.wf s.mem = true) : Memory.wf t.mem = true := by rwa [State.lane0_mem e]

/-! ### Machine/Operands.lean -/

theorem State.writeMaskStack_wf {xs : List (Nat × Nat)} {s t : State} (e : s.writeMaskStack xs = .ok t)
    (h : Memory.wf s.mem = true) : Memory.wf t.mem = true := by
  induction xs generalizing s with
  | nil =>
    cases e
    exact h
  | cons x r ih =>
    unfold State.writeMaskStack at e
    split at e
    · cases e
    · split at e
      · cases e
      next hl =>
        have hu := State.lane0_wf hl h
        exact ih e (State.lane0Write_wf hu ..)

theorem State.nearDone_wf {s : State} (h : Memory.wf s.mem = true) : Memory.wf (s.nearDone).mem = true := by
  simp [State.nearDone, State.drain_wf, h]

theorem State.endNear_wf {s : State} (h : Memory.wf s.mem = true) : Memory.wf s.endNear.mem = true := by
  have hn := State.nearDone_wf h
  unfold State.endNear
  dsimp only
  split
  next he =>
    have ht := State.writeMaskStack_wf he hn
    rwa [State.acquire_mem]
  · exact State.parkOn_wf hn _ none 0
  · exact State.takeTrap_wf (by exact hn) _
  · rwa [State.beginWalk_mem]

theorem State.advanceWord_wf {s : State} (h : Memory.wf s.mem = true) (w : BitVec 32) : Memory.wf (s.advanceWord w).mem = true := by
  unfold State.advanceWord
  split
  · have hn : Memory.wf (if s.cur.near.isSome then s.endNear else s).mem = true := by
      split
      · exact State.endNear_wf h
      · exact h
    dsimp only
    generalize (if s.cur.near.isSome then s.endNear else s) = u at hn ⊢
    split
    · simpa using hn
    · exact State.takeTrap_wf hn _
  · simpa using h

theorem State.stopWord_wf {s : State} (h : Memory.wf s.mem = true) (w : BitVec 32) (x : Stop) :
    Memory.wf (s.stopWord w x).mem = true := by
  unfold State.stopWord
  split <;> (repeat' split) <;> simp [h, State.endNear_wf, State.takeTrap_wf, State.parkOn_wf]

/-- What a meaning answers has canonical memory: the state it ends in, and what a wait records in a state of canonical memory. -/
def Res.Canonical : Res → Prop
  | .done t | .jump _ t | .stay t => Memory.wf t.mem = true
  | .stop _ => True
  | .wait f => ∀ s : State, Memory.wf s.mem = true → Memory.wf (f s).mem = true

@[simp] theorem Res.canonical_done (t : State) : (Res.done t).Canonical ↔ Memory.wf t.mem = true := Iff.rfl
@[simp] theorem Res.canonical_jump (a : Word64) (t : State) : (Res.jump a t).Canonical ↔ Memory.wf t.mem = true := Iff.rfl
@[simp] theorem Res.canonical_stay (t : State) : (Res.stay t).Canonical ↔ Memory.wf t.mem = true := Iff.rfl
@[simp] theorem Res.canonical_stop (x : Stop) : (Res.stop x).Canonical := trivial
theorem Res.canonical_wait {f : State → State} :
    (Res.wait f).Canonical ↔ ∀ s : State, Memory.wf s.mem = true → Memory.wf (f s).mem = true := Iff.rfl

theorem State.finish_wf {s : State} (h : Memory.wf s.mem = true) (w : BitVec 32) {r : Res} (hr : r.Canonical) :
    Memory.wf (s.finish w r).mem = true := by
  unfold State.finish
  split
  · exact State.advanceWord_wf hr w
  · split
    · rwa [State.setCur_mem]
    · exact State.stopWord_wf h ..
  · rwa [State.setCur_mem]
  · exact State.stopWord_wf h ..
  · rw [State.mustWait_mem]
    exact hr s h

theorem orStop_canonical {α : Type} {x : Except Stop α} {k : α → Res} (hk : ∀ a, x = .ok a → (k a).Canonical) :
    (orStop x k).Canonical := by
  unfold orStop
  split
  · exact hk _ rfl
  · trivial

/-! ### Machine/Circles.lean -/

theorem State.gangRelease_wf {s : State} (h : Memory.wf s.mem = true) : Memory.wf (s.gangRelease).mem = true := by
  simp [State.gangRelease, State.releaseFor_wf, h]

theorem State.arriveAt_wf {s : State} (h : Memory.wf s.mem = true) (c : Nat) : Memory.wf (s.arriveAt c).mem = true := by
  simp [State.arriveAt, State.gangRelease_wf, h]

theorem State.waitOn_canonical {s : State} (h : Memory.wf s.mem = true) (c : Nat) (word : BitVec 32) :
    (s.waitOn c word).Canonical := by
  unfold State.waitOn
  split <;> simpa using h

theorem State.arriveLater_canonical {s : State} (h : Memory.wf s.mem = true) (c : Nat) (wait : Bool) (word : BitVec 32) :
    (s.arriveLater c wait word).Canonical := by
  rw [State.arriveLater, Res.canonical_stay, State.sleepOn_mem]
  exact State.gangRelease_wf h

theorem State.onPath_wf {s : State} (h : Memory.wf s.mem = true) (p : PathId) {f : State → State}
    (hf : ∀ s : State, Memory.wf s.mem = true → Memory.wf (f s).mem = true) : Memory.wf (s.onPath p f).mem = true := by
  unfold State.onPath
  split
  · exact hf _ (by rwa [State.focusTo_mem])
  · exact h

theorem State.wakeUp_wf {s : State} (h : Memory.wf s.mem = true) (word : BitVec 32) : Memory.wf (s.wakeUp word).mem = true := by
  simp [State.wakeUp, State.advanceWord_wf, h]

/-! ### Machine/Paths.lean -/

theorem State.readEntryRaw_wf {s t : State} {n e : Nat} (hr : s.readEntryRaw n = .ok (e, t)) (h : Memory.wf s.mem = true) :
    Memory.wf t.mem = true := by
  unfold State.readEntryRaw at hr
  split at hr
  · cases hr
    exact h
  · split at hr
    · cases hr
    · split at hr
      · cases hr
      next l u hl =>
        have hu := State.lane0Read_wf (State.lane0_wf hl h) l 32
        split at hr
        · cases hr
        · rwa [Except.ok.inj hr] at hu

theorem State.writeEntry_wf {s t : State} {n : Nat} {e : PathEntry} (hw : s.writeEntry n e = .ok t)
    (h : Memory.wf s.mem = true) : Memory.wf t.mem = true := by
  unfold State.writeEntry at hw
  split at hw
  · cases hw
    exact h
  · split at hw
    · cases hw
    · split at hw <;> cases hw
      next hl =>
        have hu := State.lane0_wf hl h
        exact State.lane0Write_wf hu ..

theorem State.popReleased_wf {n : Nat} {s t : State} (hp : s.popReleased n = .ok t) (h : Memory.wf s.mem = true) :
    Memory.wf t.mem = true := by
  induction n generalizing s with
  | zero =>
    cases hp
    exact h
  | succ n ih =>
    unfold State.popReleased at hp
    split at hp
    · cases hp
    next hr =>
      have hu := State.readEntryRaw_wf hr h
      split at hp
      · exact ih hp hu
      · cases hp
        exact hu

theorem State.releaseEntry_wf {s t : State} {n : Nat} {e : PathEntry} (hr : s.releaseEntry n e = .ok t)
    (h : Memory.wf s.mem = true) : Memory.wf t.mem = true := by
  unfold State.releaseEntry at hr
  split at hr
  · cases hr
  next hw => exact State.popReleased_wf hr (State.writeEntry_wf hw h)

theorem State.findPath_wf {n : Nat} {s t : State} {x : Option (Nat × PathEntry)} (hf : s.findPath n = .ok (x, t))
    (h : Memory.wf s.mem = true) : Memory.wf t.mem = true := by
  induction n generalizing s with
  | zero =>
    cases hf
    exact h
  | succ n ih =>
    unfold State.findPath at hf
    split at hf
    · cases hf
    next hr =>
      have hu := State.readEntryRaw_wf hr h
      dsimp only at hf
      split at hf
      · split at hf <;> cases hf
        exact hu
      · split at hf
        · cases hf
        · exact ih hf hu

theorem State.freeSlot_wf {s t : State} (hf : s.freeSlot = .ok t) (h : Memory.wf s.mem = true) : Memory.wf t.mem = true := by
  have h0 : Memory.wf (s.setCur { near := s.cur.near }).unfreeze.mem = true := by simpa using h
  unfold State.freeSlot at hf
  dsimp only at hf
  split at hf
  · cases hf
  next hp =>
    cases hf
    rw [State.setCur_mem]
    exact State.findPath_wf hp h0
  next hp =>
    split at hf <;> cases hf
    next hr =>
      rw [State.setCur_mem]
      exact State.releaseEntry_wf hr (State.findPath_wf hp h0)

theorem State.linkJpc_wf {s t : State} {link : Nat} {jpc : BitVec 48} (hl : s.linkJpc link = .ok (jpc, t))
    (h : Memory.wf s.mem = true) : Memory.wf t.mem = true := by
  unfold State.linkJpc at hl
  split at hl
  · cases hl
    exact h
  · split at hl <;> cases hl
    next hr => exact State.readEntryRaw_wf hr h

theorem State.completeJoin_wf {s t : State} {n : Nat} {e : PathEntry} {pc : BitVec 48}
    (hj : s.completeJoin n e pc = .ok t) (h : Memory.wf s.mem = true) : Memory.wf t.mem = true := by
  unfold State.completeJoin at hj
  split at hj
  · cases hj
  next hl =>
    split at hj <;> cases hj
    next hr =>
      rw [State.setCur_mem]
      exact State.releaseEntry_wf hr (State.linkJpc_wf hl h)

theorem State.split_wf {s t : State} {m f : BitVec 32} {target : BitVec 48} (hs : s.split m f target = .ok t)
    (h : Memory.wf s.mem = true) : Memory.wf t.mem = true := by
  unfold State.split at hs
  dsimp only at hs
  split at hs
  · cases hs
  next hw =>
    have hu := State.writeEntry_wf hw h
    split at hs
    · split at hs <;> cases hs
      next hv =>
        have hw := State.writeEntry_wf hv hu
        exact hw
    · cases hs
      exact hu

theorem map_eq_ok {ε α β : Type} {f : α → β} {x : Except ε α} {b : β} (h : x.map f = .ok b) : ∃ a, x = .ok a ∧ f a = b := by
  cases x with
  | error e => cases h
  | ok a =>
    cases h
    exact ⟨a, rfl, rfl⟩

theorem State.join_wf {s t : State} {b : Bool} (hj : s.join = .ok (b, t)) (h : Memory.wf s.mem = true) :
    Memory.wf t.mem = true := by
  unfold State.join at hj
  split at hj
  · cases hj
    exact h
  · dsimp only at hj
    split at hj
    · cases hj
    next hr =>
      have hu := State.readEntryRaw_wf hr h
      split at hj
      · cases hj
        exact hu
      · split at hj
        · cases hj
        · split at hj
          · obtain ⟨v, hv, e⟩ := map_eq_ok hj
            cases e
            simpa using State.completeJoin_wf hv hu
          · split at hj
            · cases hj
            next hw =>
              obtain ⟨v, hv, e⟩ := map_eq_ok hj
              cases e
              exact State.freeSlot_wf hv (State.writeEntry_wf hw hu)

theorem State.shrinkChain_wf {lanes : BitVec 32} {fuel link : Nat} {s t : State}
    (hs : s.shrinkChain lanes fuel link = .ok t) (h : Memory.wf s.mem = true) : Memory.wf t.mem = true := by
  induction fuel generalizing s link with
  | zero =>
    cases hs
    exact h
  | succ fuel ih =>
    unfold State.shrinkChain at hs
    split at hs
    · cases hs
      exact h
    · split at hs
      · cases hs
      next hr =>
        dsimp only at hs
        split at hs
        · cases hs
        · split at hs
          · cases hs
          next hw => exact ih hs (State.writeEntry_wf hw (State.readEntryRaw_wf hr h))

theorem State.settleChain_wf {fuel link : Nat} {s t : State} {b : Bool} (hs : s.settleChain fuel link = .ok (b, t))
    (h : Memory.wf s.mem = true) : Memory.wf t.mem = true := by
  induction fuel generalizing s link with
  | zero =>
    cases hs
    exact h
  | succ fuel ih =>
    unfold State.settleChain at hs
    split at hs
    · cases hs
      exact h
    · split at hs
      · cases hs
      next hr =>
        have hu := State.readEntryRaw_wf hr h
        dsimp only at hs
        split at hs
        · cases hs
          exact hu
        · split at hs
          · obtain ⟨v, hv, e⟩ := map_eq_ok hs
            cases e
            exact State.completeJoin_wf hv hu
          · split at hs
            · cases hs
            next hw => exact ih hs (State.releaseEntry_wf hw hu)

theorem State.exit_wf {s t : State} (he : s.exit = .ok t) (h : Memory.wf s.mem = true) : Memory.wf t.mem = true := by
  unfold State.exit at he
  dsimp only at he
  split at he
  · cases he
  next hc =>
    have hu := State.shrinkChain_wf hc h
    split at he
    · cases he
    next hs =>
      cases he
      simpa using State.settleChain_wf hs hu
    next hs =>
      obtain ⟨v, hv, e⟩ := map_eq_ok he
      cases e
      simpa using State.freeSlot_wf hv (State.settleChain_wf hs hu)

end Sys2Proof.Machine
end

section
/-!
SUPPORT. Memory keeps its canonical form (log 1): the accesses of a troupe, monitors and asynchronous work.
-/

namespace Sys2Proof.Machine

/-! ### Machine/Pools.lean -/

theorem State.noteRefusal_wf {s : State} (h : Memory.wf s.mem = true) (pool : Pool) (part : Nat) :
    Memory.wf (s.noteRefusal pool part).mem = true := by
  simp [State.noteRefusal, State.writeAcct_wf, h]

theorem State.ite_wf {c : Prop} [Decidable c] {s t : State} (hs : Memory.wf s.mem = true) (ht : Memory.wf t.mem = true) :
    Memory.wf (if c then s else t).mem = true := by
  split
  · exact hs
  · exact ht

/-! ### Machine/Access.lean -/

theorem State.shareBytes_wf {s : State} (h : Memory.wf s.mem = true) (ls : List (Nat × Loc)) (z : Nat) :
    Memory.wf (s.shareBytes ls z).mem = true := by
  unfold State.shareBytes
  split
  · exact h
  · exact State.drainWhere_wf h _

/-! ### Machine/Ops.lean -/

theorem State.resolve_wf {s t : State} {one : Bool} {acc : AccKind} {z : Nat} {as : List (Nat × Word64)} {ls : List (Nat × Loc)}
    (e : s.resolve one acc z as = .ok (ls, t)) (h : Memory.wf s.mem = true) : Memory.wf t.mem = true := by rwa [State.resolve_mem e]

theorem State.load_canonical {s : State} (h : Memory.wf s.mem = true) (one : Bool) (z : Nat) (mode : AccMode) (as : List (Nat × Word64))
    {k : State → List (Nat × Nat) → State} (hk : ∀ u vs, Memory.wf u.mem = true → Memory.wf (k u vs).mem = true) :
    (s.load one z mode as k).Canonical := by
  unfold State.load
  split
  · trivial
  next ls u he =>
    split
    · trivial
    · split
      · exact fun _ h => h
      · refine hk _ _ ?_
        rw [State.countRetire_mem]
        refine State.noteClip_wf ?_ mode.scope
        rw [State.addFills_mem, State.afterLoad_mem]
        simp only [apply_ite State.mem, State.noteSeen_mem, State.acquireL1_mem, ite_self]
        exact State.shareBytes_wf (State.settle_wf (State.resolve_wf he h) _ _ _) _ _

theorem State.store_canonical {s : State} (h : Memory.wf s.mem = true) (one : Bool) (z : Nat) (mode : AccMode) (as : List (Nat × Word64))
    (val : Nat → Nat) : (s.store one z mode as val).Canonical := by
  unfold State.store
  split
  · trivial
  next ls u he =>
    split
    · exact fun _ h => h
    · rw [Res.canonical_done, State.countRetire_mem]
      refine State.noteClip_wf ?_ mode.scope
      rw [State.addFills_mem]
      exact State.enter_wf (State.resolve_wf he h) _

/-! ### Machine/Access.lean -/

theorem State.rmws_wf {s : State} (h : Memory.wf s.mem = true) (mode : AccMode) (z : Nat) (o : AtomicOp) (opnd : Nat → Nat × Nat)
    (ls : List (Nat × Loc)) : Memory.wf (s.rmws mode z o opnd ls).2.mem = true := by
  induction ls generalizing s with
  | nil => exact h
  | cons l r ih => exact ih (State.rmw_wf h ..)

theorem State.atomic_canonical {s : State} (h : Memory.wf s.mem = true) (one : Bool) (z : Nat) (mode : AccMode) (o : AtomicOp)
    (as : List (Nat × Word64)) (opnd : Nat → Nat × Nat) {ret : Option (State → List (Nat × Nat) → State)}
    (hk : ∀ k ∈ ret, ∀ u vs, Memory.wf u.mem = true → Memory.wf (k u vs).mem = true) : (s.atomic one z mode o as opnd ret).Canonical := by
  unfold State.atomic
  split
  · trivial
  next ls u he =>
    split
    · trivial
    · split
      · exact fun _ h => h
      · have hu : Memory.wf ((u.addFills mode true z (ls.map Prod.snd)).noteClip mode.scope).mem = true :=
          State.noteClip_wf (by simpa using State.resolve_wf he h) mode.scope
        generalize (u.addFills mode true z (ls.map Prod.snd)).noteClip mode.scope = v at hu ⊢
        dsimp only
        split
        · rw [Res.canonical_done, State.countRetire_mem]
          exact State.enter_wf hu _
        next k =>
          rw [Res.canonical_done, State.countRetire_mem]
          refine hk k rfl _ _ (State.rmws_wf ?_ _ _ _ _ _)
          rw [State.foldl_mem fun s l => by rw [State.noteSent_mem, State.forgetAt_mem]]
          simp only [apply_ite State.mem, State.acquire_mem, ite_self]
          refine State.drainFor_wf ?_ _ _ _
          split
          · exact State.releaseFor_wf hu _ _
          · exact hu

/-! ### Machine/Wide.lean -/

theorem State.fetch_wf {s t : State} {w : BitVec 32} (hf : s.fetch = .ok (w, t)) (h : Memory.wf s.mem = true) :
    Memory.wf t.mem = true := by
  have hstack : ∀ u, (if s.tr.nearStack.isEmpty || s.cur.near.isSome then .ok s
      else (s.writeMaskStack s.tr.nearStack).map fun s => { s with tr := { s.tr with nearStack := [] } }) = Except.ok u →
      Memory.wf u.mem = true := by
    intro u hu
    split at hu
    · cases hu
      exact h
    · obtain ⟨v, hv, rfl⟩ := map_eq_ok hu
      have := State.writeMaskStack_wf hv h
      exact this
  unfold State.fetch at hf
  split at hf
  · cases hf
  next hu =>
    have hw := hstack _ hu
    split at hf
    · cases hf
    next hl =>
      rw [← State.place_mem hl] at hw
      split at hf
      · cases hf
      · dsimp only at hf
        split at hf <;> cases hf
        · simpa [apply_ite State.mem] using hw
        · exact hw

theorem State.joinReady_wf {s : State} (h : Memory.wf s.mem = true) : Memory.wf s.joinReady.mem = true := by
  refine State.foldl_wf _ (fun s p hs => ?_) _ h
  dsimp only
  split
  · exact hs
  · split
    · rwa [State.joinWide_mem]
    · exact hs

theorem State.forWide_wf {s : State} (h : Memory.wf s.mem = true) (i : Instr) : Memory.wf (s.forWide i).mem = true := by
  unfold State.forWide
  split <;> simp [h, State.joinReady_wf]

theorem State.issueWide_canonical {s : State} (h : Memory.wf s.mem = true) (b : PriceBasis) {k : State → Res}
    (hk : ∀ u, Memory.wf u.mem = true → (k u).Canonical) : (s.issueWide b k).Canonical := by
  unfold State.issueWide
  dsimp only
  split
  · exact hk _ (by rwa [State.freeWide_mem])
  · split
    · exact hk _ (by rwa [State.pay_mem])
    · intro u hu
      rwa [State.waitWide_mem]

/-! ### Machine/Control.lean -/

theorem State.drainAll_wf {s : State} (h : Memory.wf s.mem = true) (ps : List PathId) : Memory.wf (s.drainAll ps).mem = true := by
  unfold State.drainAll
  rw [State.focusTo_mem]
  exact State.foldl_wf _ (fun s p hs => State.drain_wf (by rwa [State.focusTo_mem]) _) _ h

theorem State.drainSaved_wf {s : State} (h : Memory.wf s.mem = true) (v : SavedGang) : Memory.wf (s.drainSaved v).mem = true := by
  unfold State.drainSaved
  dsimp only
  exact State.drainAll_wf (by exact h) _

/-! ### Machine/PathEvents.lean -/

theorem State.countReady_wf {s : State} (h : Memory.wf s.mem = true) : Memory.wf (s.countReady).mem = true := by
  simp [State.countReady, h]

/-! ### Machine/Monitors.lean -/

theorem State.waitRead_wf {s t : State} {x v : Word64} {c : WaitCond} {scope : OrdScope} {acq : Bool} {nd : BitVec 4} {b : Bool} {l : Loc}
    (hr : s.waitRead x v c scope acq nd = .ok (b, l, t)) (h : Memory.wf s.mem = true) : Memory.wf t.mem = true := by
  unfold State.waitRead at hr
  split at hr
  · cases hr
  next ls u he =>
    split at hr
    · cases hr
    · have hs : Memory.wf (u.settle u.pmask ls 8).mem = true := State.settle_wf (State.resolve_wf he h) _ _ _
      cases hr
      simpa [apply_ite State.mem] using hs

theorem State.sleepWaitc_wf {s : State} (h : Memory.wf s.mem = true) (x v : Word64) (c : WaitCond) (scope : OrdScope) (acq : Bool)
    (word : BitVec 32) (l : Loc) : Memory.wf (s.sleepWaitc x v c scope acq word l).mem = true := by
  unfold State.sleepWaitc
  dsimp only
  rw [State.sleepOn_mem, State.setCur_mem]
  split
  · simpa using h
  · exact State.noteRefusal_wf (by simpa using h) _ _

theorem State.recheck_wf {s : State} (h : Memory.wf s.mem = true) (poll : Bool) : Memory.wf (s.recheck poll).mem = true := by
  unfold State.recheck
  split
  · exact h
  · split
    · refine State.ite_wf h ?_
      · split
        next hr =>
          have hu := State.waitRead_wf hr (by simpa using h)
          exact State.advanceWord_wf (by simpa using hu) _
        next hr =>
          have hu := State.waitRead_wf hr (by simpa using h)
          simpa using hu
        · exact State.stopWord_wf (by simpa using h) _ _
    · exact h

theorem State.watch_wf {s : State} (h : Memory.wf s.mem = true) (w : Watcher) (poll : Bool) :
    Memory.wf (s.watch w poll).mem = true := by
  unfold State.watch
  split
  · exact State.onPath_wf h _ fun s hs => State.recheck_wf hs poll
  · rwa [State.recheckCards_mem]

theorem State.unheld_canonical (s : State) {k : Res} (hk : k.Canonical) : (s.unheld k).Canonical := by
  unfold State.unheld
  split
  · intro u hu
    rwa [State.freeWide_mem]
  · exact hk

/-! ### Machine/Work.lean -/

theorem State.addWork_wf {s : State} (h : Memory.wf s.mem = true) (kind : WorkKind) (ctr : Nat) (inc : BitVec 32)
    (mode : AccMode) : Memory.wf (s.addWork kind ctr inc mode).2.mem = true := by
  unfold State.addWork
  simp only [apply_ite State.mem, State.forget_mem, ite_self]
  split
  · exact State.releaseFor_wf h _ _
  · split
    · exact h
    · exact State.drain_wf h _

theorem State.counterAdd_wf {s : State} (h : Memory.wf s.mem = true) (dom part : Nat) (sys : Bool) (ctr : Nat)
    (inc : BitVec 32) (e : Bool) : Memory.wf (s.counterAdd dom part sys ctr inc e).1.mem = true := by
  unfold State.counterAdd
  split
  · exact h
  · exact State.machineCheck_wf h _ _ _ _ _
  · exact State.writeHome_wf (by rwa [State.applyHeld_mem]) _ _ _ _
  · exact h

theorem State.workAdd_wf {s : State} (h : Memory.wf s.mem = true) (x : Work) (e : Bool) :
    Memory.wf (s.workAdd x e).1.mem = true := by
  have hc := State.counterAdd_wf h (s.engineDom x) x.part x.sys x.ctr x.inc e
  unfold State.workAdd
  split
  · simpa using h
  · split
    next he =>
      rw [he] at hc
      dsimp only
      split
      · simpa using hc
      · exact hc
    next he =>
      rw [he] at hc
      simpa using hc
    next u m he =>
      rw [he] at hc
      have hf := State.recordFault_wf hc x.part (u.workFault x m)
      simpa [apply_ite State.mem] using hf

theorem State.enginePa_wf {s t : State} {x : Work} {va : Nat} {acc : AccKind} {pa mt : Nat} (he : s.enginePa x va acc = .ok (pa, mt, t))
    (h : Memory.wf s.mem = true) : Memory.wf t.mem = true := by
  have ht := s.translate_mem x.core x.part x.sys va acc
  unfold State.enginePa at he
  split at he
  · cases he
  · split at he
    next hp =>
      rw [hp] at ht
      split at he <;> cases he
      rwa [ht]
    all_goals cases he

theorem State.performBefore_wf {s : State} (h : Memory.wf s.mem = true) (x : Work) (l : Loc) (n : Nat) :
    Memory.wf (s.performBefore x l n).mem = true := by
  unfold State.performBefore
  dsimp only
  split
  · exact State.onPath_wf h _ fun s hs => State.drainWhere_wf hs _
  · exact h

theorem State.flushLine_wf {s : State} (h : Memory.wf s.mem = true) (core pa : Nat) :
    Memory.wf (s.flushLine core pa).mem = true := by
  unfold State.flushLine
  split <;> simp [h, State.writeBack_wf]

theorem State.engineRead_wf {s t : State} {x : Work} {nd : BitVec 4} {p : Spot} {n v : Nat} (he : s.engineRead x nd p n = .ok (v, t))
    (h : Memory.wf s.mem = true) : Memory.wf t.mem = true := by
  unfold State.engineRead at he
  split at he
  · dsimp only at he
    split at he <;> cases he
    exact State.performBefore_wf h _ _ _
  · split at he
    · cases he
      exact h
    · split at he
      · cases he
      next hp =>
        dsimp only at he
        split at he <;> cases he
        rw [State.engineTouch_mem]
        exact State.flushLine_wf (State.performBefore_wf (State.enginePa_wf hp h) _ _ _) _ _

theorem State.engineWrite_wf {s t : State} {x : Work} {p : Spot} {n v : Nat} (he : s.engineWrite x p n v = .ok t)
    (h : Memory.wf s.mem = true) : Memory.wf t.mem = true := by
  unfold State.engineWrite at he
  split at he
  · cases he
    rw [State.updGang_mem]
    exact State.performBefore_wf h _ _ _
  · split at he
    · cases he
    next pa mt u hp =>
      have hu := State.performBefore_wf (State.enginePa_wf hp h) x (.phys pa mt) n
      generalize u.performBefore x (.phys pa mt) n = w at he hu
      dsimp only at he
      split at he
      · cases he
        exact State.tailBell_wf hu _ _ _
      · split at he
        · cases he
        · have hl := State.flushLine_wf hu x.core pa
          cases he
          rw [State.engineTouch_mem, State.noteWrote_mem]
          split
          · exact State.writeNear_wf hl _ _ _ _
          · exact State.writeHome_wf hl _ _ _ _

theorem State.engineCheck_wf {s : State} (h : Memory.wf s.mem = true) (x : Work) (mc : Option (Nat × Nat)) :
    Memory.wf (s.engineCheck x mc).mem = true := by
  unfold State.engineCheck
  split
  · exact h
  · exact State.machineCheck_wf h _ _ _ _ _

theorem State.readSpan_wf {fuel : Nat} {s t : State} {va n v : Nat} (he : s.readSpan va n fuel = .ok (v, t))
    (h : Memory.wf s.mem = true) : Memory.wf t.mem = true := by
  induction fuel generalizing s va n v with
  | zero =>
    cases he
    exact h
  | succ fuel ih =>
    unfold State.readSpan at he
    dsimp only at he
    split at he
    · cases he
      exact h
    · split at he
      · cases he
      next l u hl =>
        split at he
        · cases he
        · split at he <;> cases he
          next hr =>
            have hu : Memory.wf u.mem = true := by rwa [State.place_mem hl]
            refine ih hr ?_
            rw [State.addFill_mem, State.forgetAt_mem, State.noteSeen_mem]
            exact State.settle_wf hu _ _ _

theorem State.readRecord_wf {s t : State} {va n v : Nat} (he : s.readRecord va n = .ok (v, t))
    (h : Memory.wf s.mem = true) : Memory.wf t.mem = true := State.readSpan_wf he h

/-! ### Machine/Copy.lean -/

theorem State.readCcb_wf {s t : State} {b : Word64} {c : Nat} (he : s.readCcb b = .ok (c, t)) (h : Memory.wf s.mem = true) :
    Memory.wf t.mem = true := by
  unfold State.readCcb at he
  split at he
  · cases he
    exact h
  · split at he
    · cases he
    next hr =>
      split at he <;> cases he
      next hc =>
        rw [State.checkCtr_mem hc]
        exact State.readRecord_wf hr h

theorem State.waitCopy_wf {s : State} (h : Memory.wf s.mem = true) : Memory.wf s.waitCopy.mem = true := by
  unfold State.waitCopy
  split
  · rwa [State.freeWide_mem]
  · rw [State.freeWide_mem]
    exact State.noteRefusal_wf (by simpa using h) _ _

theorem State.issueCopy_canonical {s : State} (h : Memory.wf s.mem = true) (c : CopyWork) (ccb bytes : Nat)
    (mode : AccMode) : (s.issueCopy c ccb bytes mode).Canonical := by
  unfold State.issueCopy
  split
  · exact fun _ => State.waitCopy_wf
  · refine State.issueWide_canonical h _ fun u hu => ?_
    rw [Res.canonical_done, State.countRetire_mem]
    refine State.noteClip_wf ?_ _
    simp only [apply_ite State.mem, State.addItem_mem, ite_self]
    refine State.addWork_wf ?_ _ _ _ _
    split <;> simpa using hu

theorem State.failElem_wf {s : State} (h : Memory.wf s.mem = true) (x : Work) (c : CopyWork) (u addr : Nat)
    (mc : Option (Nat × Nat)) : Memory.wf (s.failElem x c u addr mc).mem = true := by
  simp [State.failElem, State.engineCheck_wf, h]

theorem State.stopElem_wf {s : State} (h : Memory.wf s.mem = true) (x : Work) (c : CopyWork) (u addr : Nat) (e : ElemStop) :
    Memory.wf (s.stopElem x c u addr e).mem = true := by
  unfold State.stopElem
  split
  next m =>
    have hf := State.recordFault_wf h x.part (s.workFault x m)
    simpa [apply_ite State.mem] using hf
  · exact State.failElem_wf h _ _ _ _ _

theorem State.copyUnitWrite_wf {s : State} (h : Memory.wf s.mem = true) (x : Work) (c : CopyWork) (u z v addr : Nat)
    (dst : Spot) : Memory.wf (match s.engineWrite x dst z v with
      | .ok s => s.setWork (((s.work? x.uid).getD x).withCopy (c.finish u))
      | .error t => s.stopElem x c u addr t).mem = true := by
  split
  next he =>
    rw [State.setWork_mem]
    exact State.engineWrite_wf he h
  · exact State.stopElem_wf h _ _ _ _ _

theorem State.unitStep_wf {s : State} (h : Memory.wf s.mem = true) (x : Work) (c : CopyWork) (u : Nat) :
    Memory.wf (s.unitStep x c u).mem = true := by
  unfold State.unitStep
  split
  · exact h
  · dsimp only
    split
    case h_1 =>
      split
      · split
        next he =>
          rw [State.setWork_mem]
          exact State.engineRead_wf he h
        · exact State.stopElem_wf h _ _ _ _ _
      · split
        · exact h
        · split
          · exact h
          · exact State.copyUnitWrite_wf h _ _ _ _ _ _ _
    case h_2 =>
      split
      · exact h
      · split
        · exact State.stopElem_wf h _ _ _ _ _
        next hp =>
          have hu := State.enginePa_wf hp h
          split
          · exact State.failElem_wf hu _ _ _ _ _
          · rw [State.setWork_mem, State.engineTouch_mem, State.noteWrote_mem]
            exact State.writeHome_wf (State.flushLine_wf (State.performBefore_wf hu _ _ _) _ _) _ _ _ _
    case h_3 =>
      split
      · exact h
      · split
        next he => exact State.copyUnitWrite_wf (State.engineRead_wf he h) _ _ _ _ _ _ _
        · exact State.stopElem_wf h _ _ _ _ _
    case h_4 =>
      split
      · exact h
      · split
        next he =>
          have hu := State.engineRead_wf he h
          simpa [apply_ite State.mem] using hu
        · exact State.stopElem_wf h _ _ _ _ _
    case h_5 =>
      split
      · exact h
      · split
        · exact State.failElem_wf h _ _ _ _ _
        · exact State.copyUnitWrite_wf h _ _ _ _ _ _ _

theorem State.unitSteps_wf {s : State} (h : Memory.wf s.mem = true) (w : Nat) (us : List Nat) :
    Memory.wf (s.unitSteps w us).mem = true := by
  refine State.foldl_wf _ (fun s u hs => ?_) _ h
  split
  · split
    · exact State.unitStep_wf hs _ _ _
    · exact hs
  · exact hs

theorem State.wordStep_wf {s : State} (h : Memory.wf s.mem = true) (w : Nat) (us : List Nat) :
    Memory.wf (s.wordStep w us).mem = true := by
  unfold State.wordStep
  dsimp only
  split
  · exact State.unitSteps_wf h _ _
  · exact State.unitSteps_wf h _ _

theorem State.elemStep_wf {s : State} (h : Memory.wf s.mem = true) (x : Work) (c : CopyWork) (e : Nat) :
    Memory.wf (s.elemStep x c e).mem = true := by
  unfold State.elemStep
  simp only [apply_ite State.mem, State.readsBound_mem, ite_self]
  split
  · exact State.unitSteps_wf h _ _
  · exact State.wordStep_wf h _ _

theorem State.replayElems_wf {s : State} (h : Memory.wf s.mem = true) (x : Work) (c : CopyWork) :
    Memory.wf (s.replayElems x c).mem = true := by
  unfold State.replayElems
  dsimp only
  split
  · exact h
  · refine State.ite_wf ?_ (State.ite_wf ?_ ?_)
    · rw [apply_ite State.mem, State.readsBound_mem, ite_self]
      exact State.failElem_wf (by simpa using h) _ _ _ _ _
    · rw [apply_ite State.mem, State.readsBound_mem, ite_self]
      exact State.unitSteps_wf (by simpa using h) _ _
    · exact State.elemStep_wf (by simpa using h) _ _ _

theorem State.issueMatrix_canonical {s : State} (h : Memory.wf s.mem = true) (m : MatrixWork) (b : Option PriceBasis) :
    (s.issueMatrix m b).Canonical := by
  unfold State.issueMatrix
  split
  · intro u hu
    rwa [State.freeWide_mem]
  · dsimp only
    split
    · exact State.issueWide_canonical h _ fun u hu => State.addWork_wf hu _ _ _ _
    · exact State.addWork_wf h _ _ _ _

/-! ### Machine/Matrix.lean -/

theorem State.matrixStep_wf {s : State} (h : Memory.wf s.mem = true) (x : Work) (m : MatrixWork) :
    Memory.wf (s.matrixStep x m).mem = true := by
  grind [State.matrixStep, State.engineCheck_wf, State.engineError_mem, State.setWork_mem, State.updGang_mem]

/-! ### Machine/Layers.lean -/

theorem State.layerError_wf {s : State} (h : Memory.wf s.mem = true) (x : Work) (l : LayerWork) (ps : List Nat)
    (pa u : Nat) : Memory.wf (s.layerError x l ps pa u).mem = true := by
  simp [State.layerError, State.engineCheck_wf, h]

end Sys2Proof.Machine
end

section
/-!
SUPPORT. Memory keeps its canonical form (log 1): the caches, saves, the host's side, and the time that passes in a step.
-/

namespace Sys2Proof.Machine

/-! ### Machine/Fields.lean -/

theorem State.writeBackSlice_wf {s : State} (h : Memory.wf s.mem = true) (i : Nat) (l : CLine) :
    Memory.wf (s.writeBackSlice i l).mem = true := by
  unfold State.writeBackSlice
  split
  · exact h
  · split
    · dsimp only
      exact writeBytes_wf _ _ h
    · split <;> simpa using h

theorem State.clearWays_wf {s : State} (h : Memory.wf s.mem = true) (ways : List (Nat × Nat)) :
    Memory.wf (s.clearWays ways).mem = true := by
  unfold State.clearWays
  exact State.foldl_wf _ (fun s c hs => State.foldl_wf _ (fun s l hs => State.writeBackSlice_wf hs _ l) _ hs) _ h

/-! ### Machine/Launch.lean -/

theorem State.haltQueue_wf {s : State} (h : Memory.wf s.mem = true) (q code : Nat) : Memory.wf (s.haltQueue q code).mem = true := by
  simp [State.haltQueue, State.writeStatus_wf, h]

theorem State.slotFails_wf {s : State} (h : Memory.wf s.mem = true) (q : Nat) (x : SlotRead) :
    Memory.wf (s.slotFails q x).mem = true := by
  unfold State.slotFails
  split <;> simp [h, State.haltQueue_wf, State.recordFault_wf, State.machineCheck_wf]

theorem State.clearSlot_wf {s : State} (h : Memory.wf s.mem = true) (x : Queue) (c : Nat) :
    Memory.wf (s.clearSlot x c).mem = true := by
  simp [State.clearSlot, State.writeFlat_wf, h]

theorem State.armDeps_wf {s : State} (h : Memory.wf s.mem = true) (part : Nat) (ds : List Dep) :
    Memory.wf (s.armDeps part ds).1.mem = true := by
  induction ds generalizing s with
  | nil => exact h
  | cons d r ih =>
    unfold State.armDeps
    dsimp only
    refine ih ?_
    split
    · exact h
    · split
      · simpa using h
      · have hr := State.noteRefusal_wf h .monitor part
        exact hr

theorem State.advanceHead_wf {s : State} (h : Memory.wf s.mem = true) (q n : Nat) : Memory.wf (s.advanceHead q n).mem = true := by
  unfold State.advanceHead
  dsimp only
  refine State.writeStatus_wf ?_ q
  rw [State.setQueue_mem]
  exact State.foldl_wf _ (fun s k hs => State.clearSlot_wf hs _ _) _ h

theorem State.stage_wf {s : State} (h : Memory.wf s.mem = true) (q r r2 : Nat) : Memory.wf (s.stage q r r2).mem = true := by
  grind [State.stage, State.armDeps_wf, State.advanceHead_wf, State.noteRefusal_wf, State.setQueue_mem,
    State.takeEntry_mem, State.granted_mem]

theorem State.putSlot_wf {s : State} (h : Memory.wf s.mem = true) (x : Queue) (c v : Nat) :
    Memory.wf (s.putSlot x c v).mem = true := by
  simp [State.putSlot, State.writeFlat_wf, h]

theorem State.disableQueue_wf {s : State} (h : Memory.wf s.mem = true) (q : Nat) : Memory.wf (s.disableQueue q).mem = true := by
  simp [State.disableQueue, State.writeStatus_wf, h]

/-! ### Machine/Place.lean -/

theorem State.recordItems_wf {s : State} (h : Memory.wf s.mem = true) (uid part n : Nat) :
    Memory.wf (s.recordItems uid part n).mem = true := by
  induction n generalizing s with
  | zero => exact h
  | succ n ih =>
    unfold State.recordItems
    split
    · exact ih (by simpa using h)
    · exact State.writeAcct_wf (by simpa using h) _

theorem State.recordGang_wf {s : State} (h : Memory.wf s.mem = true) (uid : Nat) : Memory.wf (s.recordGang uid).mem = true :=
  State.foldl_wf _ (fun _ _ hs => State.recordItems_wf hs _ _ _) _ h

theorem State.askSave_wf {s : State} (h : Memory.wf s.mem = true) (uid us : Nat) (r : SaveReq) :
    Memory.wf (s.askSave uid us r).mem = true := by
  unfold State.askSave
  split
  · split
    · simpa using h
    · dsimp only
      refine State.recordGang_wf ?_ uid
      rw [State.updGang_mem, State.dropWide_mem]
      refine State.foldl_wf _ (fun s p hs => State.onPath_wf hs p fun s hs => ?_) _ h
      exact State.ite_wf (State.endNear_wf hs) hs
  · exact h

theorem State.reclaim_wf {s : State} (h : Memory.wf s.mem = true) : Memory.wf s.reclaim.mem = true := by
  refine State.foldl_wf _ (fun s cl hs => ?_) _ h
  dsimp only
  split
  · refine State.ite_wf ?_ hs
    exact State.foldl_wf _ (fun s g hs => State.askSave_wf hs _ _ _) _ (by simpa using hs)
  · exact hs

theorem State.noteError_wf {s : State} (h : Memory.wf s.mem = true) (g : Gang) (e : ErrRec) :
    Memory.wf (s.noteError g e).mem = true := by
  simp [State.noteError, State.writeStatus_wf, h]

theorem State.retire_wf {s : State} (h : Memory.wf s.mem = true) (g : Gang) : Memory.wf (s.retire g).mem = true := by
  grind [State.retire, State.noteError_wf, State.settleDrains_mem, State.freeFramesOf_mem, State.removeGang_mem,
    State.leaveCard_mem]

theorem State.releaseGang_wf {s : State} (h : Memory.wf s.mem = true) (g : Gang) : Memory.wf (s.releaseGang g).mem = true :=
  State.foldl_wf _ (fun _ _ hs => State.releaseL1_wf hs _ _ _) _ h

theorem State.settleCheck_wf {s : State} (h : Memory.wf s.mem = true) (c : Check) : Memory.wf (s.settleCheck c).mem = true := by
  grind [State.settleCheck, State.machineCheck_wf, State.endInError_mem, State.endSaved_mem]

theorem State.settleChecksOf_wf {s : State} (h : Memory.wf s.mem = true) (uid : Nat) :
    Memory.wf (s.settleChecksOf uid).mem = true :=
  State.foldl_wf _ (fun _ c hs => State.settleCheck_wf hs c) _ h

/-! ### Machine/Caches.lean -/

theorem State.evict_wf {s : State} (h : Memory.wf s.mem = true) (i : Nat) (l : CLine) : Memory.wf (s.evict i l).mem = true := by
  unfold State.evict
  split <;> simp [h, State.writeBackSlice_wf, State.writeBack_wf]

theorem State.makeRoom_wf {s t : State} (h : Memory.wf s.mem = true) (i : Nat) (f : Fill) {a0}
    (e : s.makeRoom i f = some (a0, t)) : Memory.wf t.mem = true := by
  grind [State.makeRoom, State.evict_wf]

theorem State.insertLine_wf {s : State} (h : Memory.wf s.mem = true) (i who : Nat) (f : Fill) (l : CLine) :
    Memory.wf (s.insertLine i who f l).mem = true := by
  grind [State.insertLine, State.makeRoom_wf, State.setCache_mem, State.countInsert_mem]

theorem State.placeStored_wf {s : State} (h : Memory.wf s.mem = true) (core : Nat) : Memory.wf (s.placeStored core).mem = true := by
  refine State.foldl_wf _ (fun s l hs => ?_) _ h
  dsimp only
  split
  · exact hs
  next hr =>
    have hu := State.makeRoom_wf hs _ _ hr
    split
    · simpa using hu
    · exact hu

theorem State.placeAll_wf {s : State} (h : Memory.wf s.mem = true) : Memory.wf s.placeAll.mem = true :=
  State.foldl_wf _ (fun _ _ hs => State.placeStored_wf hs _) _ h

theorem State.fillMsc_wf {s : State} (h : Memory.wf s.mem = true) (f : Fill) : Memory.wf (s.fillMsc f).mem = true := by
  grind [State.fillMsc, State.insertLine_wf, State.countFill_mem, State.setCache_mem, State.meet_mem,
    State.applyRequest_mem]

theorem State.fillL2_wf {s : State} (h : Memory.wf s.mem = true) (f : Fill) : Memory.wf (s.fillL2 f).mem = true := by
  grind [State.fillL2, State.fillMsc_wf, State.insertLine_wf, State.setCache_mem, State.meet_mem, State.applyRequest_mem]

theorem State.fillRdc_wf {s : State} (h : Memory.wf s.mem = true) (f : Fill) : Memory.wf (s.fillRdc f).mem = true := by
  grind [State.fillRdc, State.insertLine_wf, State.countBytes_mem, State.setCache_mem, State.meet_mem,
    State.applyRequest_mem]

theorem State.fillBeyond_wf {s : State} (h : Memory.wf s.mem = true) (f : Fill) : Memory.wf (s.fillBeyond f).mem = true := by
  unfold State.fillBeyond
  (repeat' split) <;> simp [h, State.fillL2_wf, State.fillRdc_wf]

theorem State.fillL1_wf {s : State} (h : Memory.wf s.mem = true) (f : Fill) : Memory.wf (s.fillL1 f).mem = true := by
  grind [State.fillL1, State.fillBeyond_wf, State.insertLine_wf, State.setCache_mem, State.meet_mem, State.applyRequest_mem]

theorem State.serve_wf {s : State} (h : Memory.wf s.mem = true) (f : Fill) : Memory.wf (s.serve f).mem = true := by
  grind [State.serve, State.fillL1_wf, State.fillBeyond_wf, State.fillMsc_wf, State.repair_mem, State.countUncached_mem]

theorem State.wakeParked_wf {s : State} (h : Memory.wf s.mem = true) (p : PathId) : Memory.wf (s.wakeParked p).mem = true := by
  refine State.onPath_wf h p fun s hs => ?_
  split
  · exact hs
  · refine State.ite_wf hs (State.ite_wf ?_ (State.ite_wf hs ?_))
    · split
      · rwa [State.endInError_mem]
      · split
        · exact State.takeTrap_wf (by exact hs) _
        · exact hs
    · split
      · exact State.vector_wf (by exact hs) _
      · exact hs

theorem State.wakeAll_wf {s : State} (h : Memory.wf s.mem = true) : Memory.wf s.wakeAll.mem = true :=
  State.foldl_wf _ (fun _ p hs => State.wakeParked_wf hs p) _ h

/-! ### Machine/Partitions.lean -/

theorem State.finishActivation_wf {s : State} (h : Memory.wf s.mem = true) (id : Nat) :
    Memory.wf (s.finishActivation id).mem = true := by
  simp [State.finishActivation, State.loseKey_wf, State.writeAcct_wf, h]

theorem State.tryPending_wf {s : State} (h : Memory.wf s.mem = true) : Memory.wf (s.tryPending).mem = true := by
  unfold State.tryPending
  (repeat' split) <;> simp [h, State.finishActivation_wf]

theorem State.writeLog_wf {s : State} (h : Memory.wf s.mem = true) (part entry : Nat) :
    Memory.wf (s.writeLog part entry).mem = true := by
  grind [State.writeLog, State.writeAcct_wf, State.writeIpa_wf, State.setPart_mem, State.raiseMsi_mem]

theorem State.writeSignature_wf {s : State} (h : Memory.wf s.mem = true) (part : Nat) :
    Memory.wf (s.writeSignature part).mem = true := by
  grind [State.writeSignature, State.writeLog_wf, State.setPart_mem]

theorem State.closeInterval_wf {s : State} (h : Memory.wf s.mem = true) (part cyc1 : Nat) :
    Memory.wf (s.closeInterval part cyc1).mem = true := by
  grind [State.closeInterval, State.writeSignature_wf, State.writeLog_wf, State.setPart_mem, State.sampleLines_mem,
    State.countResident_mem]

theorem State.endOne_wf {s : State} (h : Memory.wf s.mem = true) (part : Nat) : Memory.wf (s.endOne part).mem = true := by
  have hw := State.writeSignature_wf (State.closeInterval_wf h part s.cycle) part
  unfold State.endOne
  dsimp only
  refine State.loseKey_wf ?_ _
  dsimp only
  rw [State.foldl_mem fun s c => s.emptyPurses_mem c]
  refine State.foldl_wf _ (fun s x hs => State.disableQueue_wf hs _) _ ?_
  rwa [State.foldl_mem fun s g => s.removeGang_mem g]

theorem State.endPartition_wf {s : State} (h : Memory.wf s.mem = true) (part : Nat) :
    Memory.wf (s.endPartition part).mem = true := by
  unfold State.endPartition
  rw [State.checkSwitch_mem, State.fillHolders_mem]
  exact State.endOne_wf (State.foldl_wf _ (fun s p hs => State.endOne_wf hs p) _ h) part

/-! ### Machine/Near.lean -/

theorem State.saveL1_wf {s : State} (h : Memory.wf s.mem = true) (core uid : Nat) : Memory.wf (s.saveL1 core uid).mem = true := by
  unfold State.saveL1
  rw [State.setCache_mem]
  exact State.foldl_wf _ (fun s l hs => State.writeBack_wf hs core l) _ h

theorem State.failRest_wf {s : State} (h : Memory.wf s.mem = true) (uid n : Nat) : Memory.wf (s.failRest uid n).mem = true := by
  induction n with
  | zero => exact h
  | succ n ih =>
    unfold State.failRest
    dsimp only
    split
    · split
      · exact State.ite_wf ih (State.failElem_wf ih _ _ _ _ _)
      · exact ih
    · exact ih

theorem State.stopFieldWork_wf {s : State} (h : Memory.wf s.mem = true) (part slot : Nat) :
    Memory.wf (s.stopFieldWork part slot).mem = true := by
  refine State.foldl_wf _ (fun s x hs => State.ite_wf hs ?_) _ h
  split
  · split <;> simpa using hs
  · split
    · exact State.failRest_wf hs _ _
    · exact hs
  · split <;> simpa using hs
  · split <;> simpa using hs
  · exact hs

theorem State.loseField_wf {s : State} (h : Memory.wf s.mem = true) (part slot : Nat) (f : FieldSlot) :
    Memory.wf (s.loseField part slot f).mem = true := by
  simp [State.loseField, State.stopFieldWork_wf, h]

theorem State.loseFields_wf {s : State} (h : Memory.wf s.mem = true) (k : Nat) : Memory.wf (s.loseFields k).mem = true :=
  State.foldl_wf _ (fun _ _ hs => State.foldl_wf _ (fun _ _ hs => State.loseField_wf hs _ _ _) _ hs) _ h

/-! ### Machine/Preempt.lean -/

theorem State.settleTroupe_wf {s : State} (h : Memory.wf s.mem = true) : Memory.wf (s.settleTroupe).mem = true := by
  grind [State.settleTroupe, State.drainWhere_wf, State.nearDone_wf]

theorem State.completeSave_wf {s : State} (h : Memory.wf s.mem = true) (uid : Nat) (r : SaveReq) :
    Memory.wf (s.completeSave uid r).mem = true := by
  unfold State.completeSave
  split
  · exact h
  · dsimp only
    have hs : ∀ (ps : List PathId) (ks : List Nat) (core : Nat → Nat), Memory.wf (ks.foldl (fun s k => s.saveL1 (core k) uid)
        (ps.foldl (fun s p => s.onPath p State.settleTroupe) s)).mem = true := fun ps ks core =>
      State.foldl_wf _ (fun s k hs => State.saveL1_wf hs _ _) _
        (State.foldl_wf _ (fun s p hs => State.onPath_wf hs p fun s hs => State.settleTroupe_wf hs) _ h)
    split
    · exact hs _ _ _
    · rw [State.checkSwitch_mem]
      dsimp only
      rw [State.removeGang_mem, State.foldl_mem State.suspendWork_mem]
      exact hs _ _ _

theorem State.changeHolder_wf {s : State} (h : Memory.wf s.mem = true) (slot cl : Nat) :
    Memory.wf (s.changeHolder slot cl).mem = true := by
  unfold State.changeHolder
  rw [State.updCluster_mem]
  refine State.ite_wf h ?_
  rw [State.emptyPurses_mem]
  split
  · exact State.foldl_wf _ (fun s g hs => State.askSave_wf hs _ _ _) _ h
  · exact h

theorem State.beginTick_wf {s : State} (h : Memory.wf s.mem = true) (g : SwitchGroup) (slot : Nat) :
    Memory.wf (s.beginTick g slot).mem = true := by
  unfold State.beginTick
  dsimp only
  rw [State.checkSwitch_mem]
  exact State.foldl_wf _ (fun s x hs => State.askSave_wf hs _ _ _) _ (by exact h)

/-! ### Machine/Fabric.lean -/

theorem State.hostWrite_wf {pas : List Nat} {bs : List Byte} {s : State} (h : Memory.wf s.mem = true) :
    Memory.wf (s.hostWrite pas bs).mem = true := by
  induction pas generalizing s bs with
  | nil => exact h
  | cons pa r ih =>
    cases bs with
    | nil => exact h
    | cons b bs => exact ih (State.writeHome_wf h _ _ _ _)

theorem State.arriving_wf {s : State} (h : Memory.wf s.mem = true) (m pa : Nat) (data : List Byte) :
    Memory.wf (s.arriving m pa data).mem = true := by
  unfold State.arriving
  (repeat' split) <;> simp [h, State.tailBell_wf, State.remoteWrite_wf]

theorem State.recheckNow_wf {s : State} (h : Memory.wf s.mem = true) : Memory.wf (s.recheckNow).mem = true := by
  unfold State.recheckNow
  split <;> simp [h, State.recheck_wf]

theorem State.recheckAll_wf {s : State} (h : Memory.wf s.mem = true) : Memory.wf s.recheckAll.mem = true :=
  State.foldl_wf _ (fun _ p hs => State.onPath_wf hs p fun _ hs => State.recheckNow_wf hs) _ h

/-! ### Machine/Schedule.lean -/

theorem State.reprice_mem (s t : State) (p : PathId) : (s.reprice t p).mem = t.mem := by
  unfold State.reprice
  dsimp only
  split
  · split <;> simp
  · rfl

theorem State.closeEnded_wf {s : State} (h : Memory.wf s.mem = true) (part : Nat) : Memory.wf (s.closeEnded part).mem = true := by
  have hf : ∀ (l : List Nat) (at_ : State → Nat), Memory.wf (l.foldl (fun s _ => s.closeInterval part (at_ s)) s).mem = true := fun l at_ =>
    State.foldl_wf _ (fun s _ hs => State.closeInterval_wf hs part (at_ s)) l h
  rw [State.closeEnded, State.sampleLines_mem]
  exact hf (List.range _) fun s => ((s.part part).usage.closed + 1) * intervalLen

theorem State.passTime_wf {s : State} (h : Memory.wf s.mem = true) : Memory.wf s.passTime.mem = true :=
  State.foldl_wf _ (fun _ p hs => State.closeEnded_wf hs p) _ (State.placeAll_wf (by rwa [State.tick_mem]))

theorem State.pick_mem (s : State) : s.pick.2.mem = s.mem := by
  unfold State.pick
  split <;> rfl

end Sys2Proof.Machine
end

section
/-!
SUPPORT for O7: the shapes of a row and the row-only instructions keep memory's canonical form.
-/

namespace Sys2Proof.Machine

/-- The state an instruction or a row answers, if it answers one, has canonical memory. -/
def NextCanonical (r : Out) : Prop := ∀ t, r = .next t → Memory.wf t.mem = true

theorem nextCanonical_next {t : State} (h : Memory.wf t.mem = true) : NextCanonical (.next t) := by
  intro u e
  cases e
  exact h
theorem nextCanonical_fault (f : Fault) : NextCanonical (.fault f) := fun _ e => nomatch e
theorem nextCanonical_refused (r : Refusal) : NextCanonical (.refused r) := fun _ e => nomatch e

@[simp] theorem Res.canonical_wait_id : (Res.wait id).Canonical := fun _ h => h
@[simp] theorem Res.canonical_wait_freeWide : (Res.wait State.freeWide).Canonical := fun s h => by rwa [State.freeWide_mem]

theorem Res.ite_canonical {c : Prop} [Decidable c] {r q : Res} (hr : r.Canonical) (hq : q.Canonical) :
    (if c then r else q).Canonical := by
  split
  · exact hr
  · exact hq

/-! ### Machine/Operands.lean -/

theorem runForm_canonical {i : Form} {s : State} (h : Memory.wf s.mem = true) {k : Bound → State → Res}
    (hk : ∀ b u, Memory.wf u.mem = true → (k b u).Canonical) : NextCanonical (runForm i s k) := by
  unfold runForm
  split
  · exact nextCanonical_fault _
  · split
    · exact nextCanonical_next (State.endNear_wf h)
    · split
      · exact nextCanonical_next (State.stopWord_wf h _ _)
      · exact nextCanonical_next (State.finish_wf h _ (hk _ _ (by simpa using h)))

theorem run_canonical {i : Instr} {s : State} (h : Memory.wf s.mem = true) {k : Bound → State → Res}
    (hk : ∀ b u, Memory.wf u.mem = true → (k b u).Canonical) : NextCanonical (run i s k) := runForm_canonical h hk

theorem simple_canonical {i : Instr} {s : State} (h : Memory.wf s.mem = true) {f : Bound → State → State}
    (hf : ∀ b u, (f b u).mem = u.mem) : NextCanonical (simple i s f) :=
  run_canonical h fun b u hu => by rwa [Res.canonical_done, hf]

/-! ### Machine/Circles.lean -/

theorem circleOp_canonical {i : Instr} {a : SReg} {s : State} (h : Memory.wf s.mem = true) {k : Nat → State → Res}
    (hk : ∀ c u, Memory.wf u.mem = true → (k c u).Canonical) : NextCanonical (circleOp i a s k) := by
  refine run_canonical h fun b u hu => ?_
  split
  · trivial
  · exact hk _ u hu

theorem execCjoin_canonical {s : State} (h : Memory.wf s.mem = true) (a : SReg) : NextCanonical (execCjoin a s) := by
  refine circleOp_canonical h fun c u hu => ?_
  split <;> simp [hu]

theorem execCleave_canonical {s : State} (h : Memory.wf s.mem = true) (a : SReg) : NextCanonical (execCleave a s) := by
  refine circleOp_canonical h fun c u hu => ?_
  split <;> simp [hu]

theorem execCarrive_canonical {s : State} (h : Memory.wf s.mem = true) (a : SReg) : NextCanonical (execCarrive a s) := by
  refine circleOp_canonical h fun c u hu => ?_
  (repeat' split) <;> simp [hu, State.arriveAt_wf, State.arriveLater_canonical]

theorem execCwait_canonical {s : State} (h : Memory.wf s.mem = true) (a : SReg) : NextCanonical (execCwait a s) :=
  circleOp_canonical h fun _ _ hu => State.waitOn_canonical hu _ _

theorem execCsync_canonical {s : State} (h : Memory.wf s.mem = true) (a : SReg) : NextCanonical (execCsync a s) := by
  refine circleOp_canonical h fun c u hu => ?_
  split
  · trivial
  · split
    · exact State.arriveLater_canonical hu _ _ _
    · exact State.waitOn_canonical (State.arriveAt_wf hu c) _ _

theorem execCcount_canonical {s : State} (h : Memory.wf s.mem = true) (d a : SReg) : NextCanonical (execCcount d a s) :=
  circleOp_canonical h fun _ u hu => by simpa using hu

theorem execCircleWake_canonical {s : State} (h : Memory.wf s.mem = true) (p : PathId) : NextCanonical (execCircleWake p s) := by
  refine nextCanonical_next (State.onPath_wf h p fun u hu => State.ite_wf hu ?_)
  split
  · exact State.ite_wf hu (State.wakeUp_wf (by simpa using hu) _)
  · exact State.ite_wf (State.wakeUp_wf hu _) hu
  · exact hu

/-! ### Machine/Paths.lean -/

theorem execBrv_canonical {s : State} (h : Memory.wf s.mem = true) (k : KReg) (disp : BitVec 14) :
    NextCanonical (execBrv k disp s) := by
  refine run_canonical h fun b u hu => ?_
  refine Res.ite_canonical hu (Res.ite_canonical hu (Res.ite_canonical trivial (Res.ite_canonical trivial (Res.ite_canonical (by simp) ?_))))
  exact orStop_canonical fun t ht => State.split_wf ht hu

theorem execJpt_canonical {s : State} (h : Memory.wf s.mem = true) (disp : BitVec 25) : NextCanonical (execJpt disp s) := by
  refine run_canonical h fun b u hu => ?_
  dsimp only
  (repeat' split) <;> simp [hu]

theorem execJoin_canonical {s : State} (h : Memory.wf s.mem = true) : NextCanonical (execJoin s) := by
  refine run_canonical h fun b u hu => Res.ite_canonical (by simp) (orStop_canonical fun t ht => ?_)
  have hj := State.join_wf ht hu
  exact Res.ite_canonical hj hj

theorem execBany_canonical {s : State} (h : Memory.wf s.mem = true) (k : KReg) (disp : BitVec 14) :
    NextCanonical (execBany k disp s) := by
  refine run_canonical h fun b u hu => ?_
  split <;> simp [hu]

theorem execBall_canonical {s : State} (h : Memory.wf s.mem = true) (k : KReg) (disp : BitVec 14) :
    NextCanonical (execBall k disp s) := by
  refine run_canonical h fun b u hu => ?_
  split <;> simp [hu]

theorem execExit_canonical {s : State} (h : Memory.wf s.mem = true) : NextCanonical (execExit s) :=
  run_canonical h fun _ _ hu => Res.ite_canonical (by simp) (orStop_canonical fun _ ht => State.exit_wf ht hu)

/-! ### Machine/Control.lean -/

theorem execBr_canonical {s : State} (h : Memory.wf s.mem = true) (disp : BitVec 25) : NextCanonical (execBr disp s) :=
  run_canonical h fun _ _ hu => hu

theorem execBrc_canonical {s : State} (h : Memory.wf s.mem = true) (c : BrCond) (a : SReg) (disp : BitVec 14) :
    NextCanonical (execBrc c a disp s) := by
  refine run_canonical h fun b u hu => ?_
  split <;> simp [hu]

theorem execCall_canonical {s : State} (h : Memory.wf s.mem = true) (disp : BitVec 25) : NextCanonical (execCall disp s) :=
  run_canonical h fun _ _ hu => hu

theorem execCallr_canonical {s : State} (h : Memory.wf s.mem = true) (a : SReg) : NextCanonical (execCallr a s) :=
  run_canonical h fun _ _ hu => hu

theorem execRet_canonical {s : State} (h : Memory.wf s.mem = true) : NextCanonical (execRet s) :=
  run_canonical h fun _ _ hu => hu

theorem execJmpr_canonical {s : State} (h : Memory.wf s.mem = true) (a : SReg) : NextCanonical (execJmpr a s) :=
  run_canonical h fun _ _ hu => hu

theorem readReg_canonical {i : Instr} {d : SReg} {s : State} (h : Memory.wf s.mem = true) (f : State → Option Word64) :
    NextCanonical (readReg i d s f) := by
  refine run_canonical h fun b u hu => ?_
  split
  · simpa using hu
  · trivial

theorem writeReg_canonical {i : Instr} {a : SReg} {s : State} (h : Memory.wf s.mem = true) {f : State → Word64 → Option State}
    (hf : ∀ u v t, f u v = some t → t.mem = u.mem) : NextCanonical (writeReg i a s f) := by
  refine run_canonical h fun b u hu => ?_
  split
  next ht => rwa [Res.canonical_done, hf _ _ _ ht]
  · trivial

theorem execMts_canonical {s : State} (h : Memory.wf s.mem = true) (n : BitVec 7) (a : SReg) : NextCanonical (execMts n a s) :=
  writeReg_canonical h fun _ _ _ => State.writeSpecial_mem

theorem execClk_canonical {s : State} (h : Memory.wf s.mem = true) (d : SReg) : NextCanonical (execClk d s) :=
  simple_canonical h fun _ _ => by simp

theorem execNop_canonical {s : State} (h : Memory.wf s.mem = true) : NextCanonical (execNop s) :=
  simple_canonical h fun _ _ => rfl

theorem execBrk_canonical {s : State} (h : Memory.wf s.mem = true) (code : BitVec 14) : NextCanonical (execBrk code s) :=
  run_canonical h fun _ _ _ => by simp

theorem execSys_canonical {s : State} (h : Memory.wf s.mem = true) (code : BitVec 14) : NextCanonical (execSys code s) :=
  run_canonical h fun _ _ _ => by simp

theorem execYield_canonical {s : State} (h : Memory.wf s.mem = true) : NextCanonical (execYield s) :=
  simple_canonical h fun _ _ => rfl

theorem execMtc_canonical {s : State} (h : Memory.wf s.mem = true) (n : BitVec 7) (a : SReg) : NextCanonical (execMtc n a s) := by
  refine writeReg_canonical h fun u v t ht => ?_
  obtain ⟨c, -, rfl⟩ := Option.map_eq_some_iff.1 ht
  simp [apply_ite State.mem]

theorem execEret_canonical {s : State} (h : Memory.wf s.mem = true) : NextCanonical (execEret s) := by
  refine run_canonical h fun b u hu => ?_
  split <;> simp [hu]

theorem execIdle_canonical {s : State} (h : Memory.wf s.mem = true) : NextCanonical (execIdle s) := by
  refine run_canonical h fun b u hu => ?_
  split <;> simp [hu]

theorem execTlbi_canonical {s : State} (h : Memory.wf s.mem = true) (a b : SReg) : NextCanonical (execTlbi a b s) := by
  refine run_canonical h fun bd u hu => Res.ite_canonical trivial ?_
  exact State.foldl_wf _ (fun _ v hs => State.drainSaved_wf hs v) _ (State.drainAll_wf (by exact hu) _)

theorem attach_canonical {s : State} (h : Memory.wf s.mem = true) (w : BitVec 32) (legal : Bool) (earlier : Pend → Bool)
    (put : Pend → Pend) : NextCanonical (attach w legal s earlier put) := by
  unfold attach
  split
  · exact nextCanonical_fault _
  · split
    · exact nextCanonical_next (State.stopWord_wf h _ _)
    · exact nextCanonical_next (State.advanceWord_wf (by simpa using h) _)

/-! ### Machine/PathEvents.lean -/

theorem execIdleWake_canonical {s : State} (h : Memory.wf s.mem = true) (p : PathId) : NextCanonical (execIdleWake p s) := by
  refine nextCanonical_next (State.onPath_wf h p fun u hu => ?_)
  split
  · exact State.ite_wf (State.wakeUp_wf hu _) hu
  · exact hu

theorem execYieldHoldExpire_canonical {s : State} (h : Memory.wf s.mem = true) (p : PathId) :
    NextCanonical (execYieldHoldExpire p s) := by
  unfold execYieldHoldExpire
  grind [nextCanonical_next, State.onPath_mem, State.setCur_mem]

theorem execPathOverdue_canonical {s : State} (h : Memory.wf s.mem = true) (p : PathId) : NextCanonical (execPathOverdue p s) := by
  unfold execPathOverdue
  grind [nextCanonical_next, State.fetch_wf, State.onPath_mem, State.focusTo_mem, State.setCur_mem]

theorem execTimerCompare_canonical {s : State} (h : Memory.wf s.mem = true) : NextCanonical (execTimerCompare s) := by
  refine nextCanonical_next ?_
  split <;> simp [h]

/-! ### Machine/Carousel.lean -/

theorem execRingCycle_canonical {s : State} (h : Memory.wf s.mem = true) : NextCanonical (execRingCycle s) := by
  unfold execRingCycle
  grind [nextCanonical_next, State.countReady_wf, State.turn_mem, State.stopLap_mem]

theorem execInjectorLapStart_canonical {s : State} (h : Memory.wf s.mem = true) : NextCanonical (execInjectorLapStart s) := by
  unfold execInjectorLapStart
  grind [nextCanonical_next]

theorem execPledgeRaise_canonical {s : State} (h : Memory.wf s.mem = true) (core : Nat) : NextCanonical (execPledgeRaise core s) :=
  nextCanonical_next (by simpa using h)

theorem execPriceTableUpdate_canonical {s : State} (h : Memory.wf s.mem = true) (t : PriceArgs) :
    NextCanonical (execPriceTableUpdate t s) := by
  unfold execPriceTableUpdate
  grind [nextCanonical_next, State.endPriceUpdate_mem]

theorem execSetPowerLimit_canonical {s : State} (h : Memory.wf s.mem = true) (w : Nat) : NextCanonical (execSetPowerLimit w s) := by
  refine nextCanonical_next ?_
  split <;> simp [h]

theorem execSetWfw_canonical {s : State} (h : Memory.wf s.mem = true) (w : Nat) : NextCanonical (execSetWfw w s) := by
  refine nextCanonical_next ?_
  split <;> simp [h]

theorem execSetClusterFrequency_canonical {s : State} (h : Memory.wf s.mem = true) (cl mhz : Nat) :
    NextCanonical (execSetClusterFrequency cl mhz s) := by
  refine nextCanonical_next ?_
  split <;> simp [h]

theorem execFllStep_canonical {s : State} (h : Memory.wf s.mem = true) (cl : Nat) : NextCanonical (execFllStep cl s) := by
  refine nextCanonical_next ?_
  split <;> simp [h]

theorem execDroopTrip_canonical {s : State} (h : Memory.wf s.mem = true) (cl : Nat) : NextCanonical (execDroopTrip cl s) := by
  refine nextCanonical_next ?_
  split <;> simp [h]

theorem execDroopClear_canonical {s : State} (h : Memory.wf s.mem = true) (cl : Nat) : NextCanonical (execDroopClear cl s) := by
  refine nextCanonical_next ?_
  split <;> simp [h]

theorem execBoostStep_canonical {s : State} (h : Memory.wf s.mem = true) (g core : Nat) :
    NextCanonical (execBoostStep g core s) := by
  unfold execBoostStep
  grind [nextCanonical_next]

theorem execBoostReturn_canonical {s : State} (h : Memory.wf s.mem = true) (core : Nat) : NextCanonical (execBoostReturn core s) :=
  nextCanonical_next (by simpa using h)

theorem execEngineRampComplete_canonical {s : State} (h : Memory.wf s.mem = true) (core : Nat) :
    NextCanonical (execEngineRampComplete core s) := by
  refine nextCanonical_next ?_
  (repeat' split) <;> simp [h]

theorem execEngineRampExpire_canonical {s : State} (h : Memory.wf s.mem = true) (core : Nat) :
    NextCanonical (execEngineRampExpire core s) := by
  refine nextCanonical_next ?_
  (repeat' split) <;> simp [h]

/-! ### Machine/Monitors.lean -/

theorem execWaitc_canonical {s : State} (h : Memory.wf s.mem = true) (c : WaitCond) (a b : SReg) :
    NextCanonical (execWaitc c a b s) := by
  refine run_canonical h fun bd u hu => ?_
  dsimp only
  split
  · trivial
  next hr =>
    refine Res.ite_canonical (by simp) (Res.ite_canonical (State.noteClip_wf (State.waitRead_wf hr hu) _) fun v hv => ?_)
    exact State.noteClip_wf (State.sleepWaitc_wf (by simpa using hv) _ _ _ _ _ _ _) _

theorem execMonitorFire_canonical {s : State} (h : Memory.wf s.mem = true) (w : Watcher) : NextCanonical (execMonitorFire w s) := by
  refine nextCanonical_next ?_
  simp [h, State.watch_wf]

theorem execMonitorPoll_canonical {s : State} (h : Memory.wf s.mem = true) (w : Watcher) : NextCanonical (execMonitorPoll w s) := by
  refine nextCanonical_next ?_
  simp [h, State.watch_wf]

theorem execFence_canonical {s : State} (h : Memory.wf s.mem = true) : NextCanonical (execFence s) := by
  refine run_canonical h fun b u hu => ?_
  dsimp only
  (repeat' split) <;> simp [hu, State.noteClip_wf, State.releaseFor_wf]

theorem execCline_canonical {s : State} (h : Memory.wf s.mem = true) (a : SReg) : NextCanonical (execCline a s) := by
  refine run_canonical h fun b u hu => ?_
  have hc := State.noteClip_wf hu b.ord.scope
  dsimp only
  split
  · refine Res.ite_canonical hc ?_
    split
    next hp =>
      rw [← State.place_mem hp] at hc
      rw [Res.canonical_done, State.markDead_mem]
      split
      · exact State.writeBack_wf hc _ _
      · exact hc
    · trivial
    · exact hc
  · exact hc

theorem execPf_canonical {s : State} (h : Memory.wf s.mem = true) (a : SReg) : NextCanonical (execPf a s) := by
  refine run_canonical h fun b u hu => ?_
  dsimp only
  (repeat' split) <;> simp [hu, State.noteClip_wf]

theorem execGaddr_canonical {s : State} (h : Memory.wf s.mem = true) (d a : SReg) : NextCanonical (execGaddr d a s) := by
  refine run_canonical h fun b u hu => ?_
  split <;> simp [hu]

/-! ### Machine/Work.lean -/

theorem execSeal_canonical {s : State} (h : Memory.wf s.mem = true) (d : SReg) : NextCanonical (execSeal d s) :=
  runForm_canonical h fun _ u hu => by simpa using hu

theorem execWaitb_canonical {s : State} (h : Memory.wf s.mem = true) (a : SReg) : NextCanonical (execWaitb a s) := by
  unfold execWaitb
  refine runForm_canonical h fun b u hu => Res.ite_canonical trivial (Res.ite_canonical ?_ ?_) <;> simpa using hu

theorem execWaitbWake_canonical {s : State} (h : Memory.wf s.mem = true) (p : PathId) : NextCanonical (execWaitbWake p s) := by
  refine nextCanonical_next (State.onPath_wf h p fun u hu => ?_)
  split
  · exact State.ite_wf (State.wakeUp_wf (by simpa using hu) _) hu
  · exact hu

theorem execShpw_canonical {s : State} (h : Memory.wf s.mem = true) (d a : SReg) : NextCanonical (execShpw d a s) := by
  refine runForm_canonical h fun b u hu => Res.ite_canonical trivial (Res.ite_canonical trivial (State.unheld_canonical _ ?_))
  split
  · trivial
  next hr =>
    refine Res.ite_canonical trivial ?_
    simpa using State.readRecord_wf hr hu

theorem execShpi_canonical {s : State} (h : Memory.wf s.mem = true) (a : SReg) : NextCanonical (execShpi a s) := by
  refine runForm_canonical h fun b u hu => ?_
  dsimp only
  (repeat' split) <;> simp [hu]

/-! ### Machine/Copy.lean -/

theorem copyLanes_canonical {i : Form} {kind : CopyKind} {z : Nat} {noScratch : Bool} {b : SReg} {s : State} (h : Memory.wf s.mem = true)
    (addrs : State → Fin 32 → List Word64) (opnd : State → Fin 32 → Nat) :
    NextCanonical (copyLanes i kind z noScratch b s addrs opnd) := by
  refine runForm_canonical h fun bd u hu => ?_
  dsimp only
  split
  · trivial
  · split
    · trivial
    · refine State.unheld_canonical _ ?_
      split
      · trivial
      next hr =>
        split
        · trivial
        · exact State.issueCopy_canonical (State.readCcb_wf hr hu) _ _ _ _

theorem tcopyWith_canonical {i : Form} {kind : CopyKind} {b : SReg} {s : State} (h : Memory.wf s.mem = true)
    (look : State → Nat → Except Stop (CopyWork × Nat)) : NextCanonical (tcopyWith i kind b s look) := by
  refine runForm_canonical h fun bd u hu => ?_
  split
  · trivial
  · refine State.unheld_canonical _ ?_
    split
    · trivial
    next hr =>
      split
      · trivial
      · dsimp only
        split
        · trivial
        · exact State.issueCopy_canonical (State.readCcb_wf hr hu) _ _ _ _

theorem execCopyElement_canonical {s : State} (h : Memory.wf s.mem = true) (w n : Nat) : NextCanonical (execCopyElement w n s) := by
  unfold execCopyElement
  grind [nextCanonical_next, State.elemStep_wf, State.unitSteps_wf, State.readsBound_mem]

theorem execCopyComplete_canonical {s : State} (h : Memory.wf s.mem = true) (w : Nat) : NextCanonical (execCopyComplete w s) := by
  unfold execCopyComplete
  grind [nextCanonical_next, State.workAdd_wf, State.finishWork_mem]

theorem execOrderedGroupAdd_canonical {s : State} (h : Memory.wf s.mem = true) (w : Nat) :
    NextCanonical (execOrderedGroupAdd w s) := by
  unfold execOrderedGroupAdd
  grind [nextCanonical_next, State.workAdd_wf, State.setWork_mem]

/-! ### Machine/Matrix.lean -/

theorem mmaFamily_canonical {s : State} (h : Memory.wf s.mem = true) (fn : Nat) (d a b : SReg) :
    NextCanonical (mmaFamily fn d a b s) := by
  refine runForm_canonical h fun bd u hu => ?_
  refine Res.ite_canonical trivial (Res.ite_canonical trivial (Res.ite_canonical trivial (Res.ite_canonical trivial (Res.ite_canonical trivial ?_))))
  dsimp only
  split
  · trivial
  · exact State.issueMatrix_canonical hu _ _

theorem tileMove_canonical {s : State} (h : Memory.wf s.mem = true) (fn : Nat) (d a b : SReg) :
    NextCanonical (tileMove fn d a b s) := by
  refine runForm_canonical h fun bd u hu => ?_
  dsimp only
  split
  · trivial
  · split
    · trivial
    · exact State.issueMatrix_canonical hu _ _

theorem execAcz_canonical {s : State} (h : Memory.wf s.mem = true) (a b : SReg) : NextCanonical (execAcz a b s) := by
  refine runForm_canonical h fun bd u hu => ?_
  dsimp only
  split
  · trivial
  · split
    · trivial
    · exact State.issueMatrix_canonical hu _ _

theorem execMrel_canonical {s : State} (h : Memory.wf s.mem = true) : NextCanonical (execMrel s) := by
  refine runForm_canonical h fun b u hu => ?_
  dsimp only
  (repeat' split) <;> simp [hu]

theorem execLeaseStart_canonical {s : State} (h : Memory.wf s.mem = true) (core : Nat) : NextCanonical (execLeaseStart core s) := by
  refine nextCanonical_next ?_
  split <;> simp [h]

theorem execAccumulationStep_canonical {s : State} (h : Memory.wf s.mem = true) (core : Nat) :
    NextCanonical (execAccumulationStep core s) := by
  have hl : Memory.wf (s.settleLease core).mem = true := by rwa [State.settleLease_mem]
  unfold execAccumulationStep
  refine nextCanonical_next ?_
  generalize s.settleLease core = u at hl ⊢
  dsimp only
  split
  · exact hl
  · split
    · split
      · split
        next hr => exact State.matrixStep_wf (by rwa [State.rampStep_mem _ _ hr]) _ _
        · exact State.ite_wf (by simpa using hl) hl
      · exact hl
    · exact hl

theorem execLeaseExpire_canonical {s : State} (h : Memory.wf s.mem = true) (core : Nat) :
    NextCanonical (execLeaseExpire core s) := by
  refine nextCanonical_next ?_
  split <;> simp [h]

theorem execMatrixComplete_canonical {s : State} (h : Memory.wf s.mem = true) (w : Nat) :
    NextCanonical (execMatrixComplete w s) := by
  unfold execMatrixComplete
  grind [nextCanonical_next, State.settleLease_mem, State.finishWork_mem, State.setCore_mem]

/-! ### Machine/Rows.lean -/

theorem execRowActivation_canonical {s : State} (h : Memory.wf s.mem = true) (stack row source : Nat) :
    NextCanonical (execRowActivation stack row source s) := by
  refine nextCanonical_next ?_
  split <;> simp [h]

theorem execActivationIntervalEnd_canonical {s : State} (h : Memory.wf s.mem = true) (stack row : Nat) :
    NextCanonical (execActivationIntervalEnd stack row s) := by
  refine nextCanonical_next ?_
  (repeat' split) <;> simp [h]

/-! ### Machine/Layers.lean -/

theorem layerForm_canonical {s : State} (h : Memory.wf s.mem = true) (fn : Nat) (a b : SReg) :
    NextCanonical (layerForm fn a b s) := by
  refine runForm_canonical h fun bd u hu =>
    Res.ite_canonical trivial (Res.ite_canonical trivial (Res.ite_canonical trivial (State.unheld_canonical _ ?_)))
  split
  · trivial
  next hr =>
    split
    · trivial
    next hc =>
      have hv := State.readRecord_wf hr hu
      rw [← State.checkCtr_mem hc] at hv
      refine Res.ite_canonical trivial ?_
      split
      · trivial
      · trivial
      · refine Res.ite_canonical trivial (Res.ite_canonical trivial (Res.ite_canonical trivial ?_))
        split
        · trivial
        · refine Res.ite_canonical trivial (Res.ite_canonical (by simp) (State.issueWide_canonical hv _ fun w hw => ?_))
          exact State.noteClip_wf (State.addWork_wf (by simpa using hw) _ _ _ _) _

theorem execTilePassStart_canonical {s : State} (h : Memory.wf s.mem = true) (w n : Nat) :
    NextCanonical (execTilePassStart w n s) := by
  have hrows : ∀ (c : Prop) [Decidable c] (x : Work) (stack tile : Nat) (rows : List (Int × Nat)),
      Memory.wf (if c then s.setWork x else
        rows.foldl (fun s q => if q.1 = 0 then s else s.countRow stack (tileRow tile q.2) true) (s.setWork x)).mem = true := by
    intro c _ x stack tile rows
    have hx : Memory.wf (s.setWork x).mem = true := by rwa [State.setWork_mem]
    refine State.ite_wf hx (State.foldl_wf _ (fun u q hu => State.ite_wf hu ?_) _ hx)
    rwa [State.countRow_mem]
  refine nextCanonical_next ?_
  split
  · split
    · split
      · refine State.ite_wf h (State.ite_wf (State.layerError_wf ?_ _ _ _ _ _) ?_) <;> exact hrows _ _ _ _ _
      · exact h
    · exact h
  · exact h

theorem execTilePassComplete_canonical {s : State} (h : Memory.wf s.mem = true) (w n : Nat) :
    NextCanonical (execTilePassComplete w n s) := by
  refine nextCanonical_next ?_
  split
  · split
    · split
      · split
        · refine State.ite_wf (State.layerError_wf ?_ _ _ _ _ _) ?_ <;> simpa using h
        · exact h
      · exact h
    · exact h
  · exact h

theorem execAdapterStage_canonical {s : State} (h : Memory.wf s.mem = true) (w : Nat) : NextCanonical (execAdapterStage w s) := by
  unfold execAdapterStage
  grind [nextCanonical_next, State.layerError_wf, State.rampStep_mem, State.settleLease_mem, State.setCore_mem,
    State.setWork_mem, State.updGang_mem]

theorem execLayerComplete_canonical {s : State} (h : Memory.wf s.mem = true) (w : Nat) : NextCanonical (execLayerComplete w s) := by
  unfold execLayerComplete
  grind [nextCanonical_next, State.layerError_wf, State.workAdd_wf, State.readsBound_mem, State.finishWork_mem,
    State.setWork_mem, State.updGang_mem]

theorem execRceq_canonical {s : State} (h : Memory.wf s.mem = true) (d a : SReg) : NextCanonical (execRceq d a s) := by
  refine runForm_canonical h fun b u hu => ?_
  dsimp only
  (repeat' split) <;> simp [hu]

theorem execRcepin_canonical {s : State} (h : Memory.wf s.mem = true) (a : SReg) : NextCanonical (execRcepin a s) := by
  refine runForm_canonical h fun b u hu => ?_
  dsimp only
  (repeat' split) <;> simp [hu]

theorem execRceunpin_canonical {s : State} (h : Memory.wf s.mem = true) (a : SReg) : NextCanonical (execRceunpin a s) := by
  refine runForm_canonical h fun b u hu => ?_
  dsimp only
  (repeat' split) <;> simp [hu]

theorem execPinLapse_canonical {s : State} (h : Memory.wf s.mem = true) (g _region : Nat) :
    NextCanonical (execPinLapse g _region s) :=
  nextCanonical_next (by simpa using h)

theorem execEpochPublish_canonical {s : State} (h : Memory.wf s.mem = true) (stack : Nat) :
    NextCanonical (execEpochPublish stack s) := by
  refine nextCanonical_next ?_
  split <;> simp [h]

theorem execRceProbePass_canonical {s : State} (h : Memory.wf s.mem = true) (stack tile : Nat) :
    NextCanonical (execRceProbePass stack tile s) := by
  refine nextCanonical_next ?_
  split <;> simp [h]

theorem execTileRefresh_canonical {s : State} (h : Memory.wf s.mem = true) (stack tile : Nat) :
    NextCanonical (execTileRefresh stack tile s) := by
  refine nextCanonical_next ?_
  (repeat' split) <;> simp [h]

theorem execReplayEntryRun_canonical {s : State} (h : Memory.wf s.mem = true) (g n : Nat) :
    NextCanonical (execReplayEntryRun g n s) := by
  refine nextCanonical_next ?_
  (repeat' split) <;> simp [h, State.replayElems_wf]

/-! ### Machine/Fields.lean -/

theorem execWays_canonical {s : State} (h : Memory.wf s.mem = true) (d a b : SReg) : NextCanonical (execWays d a b s) := by
  refine runForm_canonical h fun b u hu => ?_
  dsimp only
  (repeat' split) <;> simp [hu, State.addWork_wf]

theorem execFieldConversionComplete_canonical {s : State} (h : Memory.wf s.mem = true) (w : Nat) :
    NextCanonical (execFieldConversionComplete w s) := by
  unfold execFieldConversionComplete
  grind [nextCanonical_next, State.clearWays_wf, State.updField_mem, State.finishWork_mem, State.clearRows_mem]

theorem execWaysrel_canonical {s : State} (h : Memory.wf s.mem = true) (a : SReg) : NextCanonical (execWaysrel a s) := by
  refine runForm_canonical h fun b u hu => ?_
  dsimp only
  (repeat' split) <;> simp [hu, State.addWork_wf]

theorem execWaysrelRelease_canonical {s : State} (h : Memory.wf s.mem = true) (w : Nat) :
    NextCanonical (execWaysrelRelease w s) := by
  refine nextCanonical_next ?_
  (repeat' split) <;> simp [h]

theorem micro_canonical {s : State} (h : Memory.wf s.mem = true) (op a b d : Nat) : NextCanonical (micro op a b d s) := by
  unfold micro
  split
  · exact nextCanonical_fault _
  · dsimp only
    split
    · exact nextCanonical_next (by rwa [State.endJob_mem])
    next x _ _ _ =>
      have hf : ∀ hs : List Nat, Memory.wf (hs.foldl (fun s h => s.engineCheck x (some (stackPa h, 5))) s).mem = true :=
        fun hs => State.foldl_wf _ (fun _ _ hs => State.engineCheck_wf hs x _) _ h
      split
      all_goals
        refine nextCanonical_next ?_
        simp only [State.endJob_mem, State.setWork_mem]
        rw [State.foldl_mem fun s h => s.setPile_mem _]
        simp only [apply_ite State.mem, State.clearRows_mem, State.updField_mem, ite_self]
        exact hf _

theorem execBsq_canonical {s : State} (h : Memory.wf s.mem = true) (a b : SReg) : NextCanonical (execBsq a b s) := by
  refine runForm_canonical h fun bd u hu =>
    Res.ite_canonical trivial (Res.ite_canonical trivial (Res.ite_canonical trivial (State.unheld_canonical _ ?_)))
  split
  · trivial
  next hr =>
    split
    · trivial
    next hp =>
      have hv := State.readRecord_wf hp (State.readRecord_wf hr hu)
      split
      · trivial
      · refine Res.ite_canonical trivial (Res.ite_canonical trivial (State.issueWide_canonical hv _ fun w hw => ?_))
        rw [Res.canonical_done, State.addItem_mem]
        refine State.addWork_wf ?_ _ _ _ _
        rwa [State.foldl_mem State.arouse_mem]

theorem execBsqJobStart_canonical {s : State} (h : Memory.wf s.mem = true) (w : Nat) : NextCanonical (execBsqJobStart w s) := by
  refine nextCanonical_next ?_
  split
  · split
    · refine State.ite_wf h ?_
      rwa [State.setWork_mem, State.foldl_mem fun s h => s.setPile_mem _]
    · exact h
  · exact h

theorem execBsqJobComplete_canonical {s : State} (h : Memory.wf s.mem = true) (w : Nat) :
    NextCanonical (execBsqJobComplete w s) := by
  unfold execBsqJobComplete
  grind [nextCanonical_next, State.recordFault_wf, State.engineWrite_wf, State.workAdd_wf, State.finishWork_mem,
    State.setWork_mem]

/-! ### Machine/Launch.lean -/

theorem execCardFetch_canonical {s : State} (h : Memory.wf s.mem = true) (q : Nat) : NextCanonical (execCardFetch q s) := by
  unfold execCardFetch
  grind [nextCanonical_next, State.haltQueue_wf, State.stage_wf, State.slotFails_wf, State.advanceHead_wf,
    State.setQueue_mem]

theorem execTailDoorbell_canonical {s : State} (h : Memory.wf s.mem = true) (q : Nat) (v : BitVec 64) (size : Nat) :
    NextCanonical (execTailDoorbell q v size s) := by
  refine nextCanonical_next ?_
  simp [h, State.tailBell_wf]

theorem execHeadRegisterWrite_canonical {s : State} (h : Memory.wf s.mem = true) (q : Nat) (v : BitVec 64) :
    NextCanonical (execHeadRegisterWrite q v s) := by
  refine nextCanonical_next (State.ite_wf (State.writeStatus_wf ?_ q) h)
  rw [State.setQueue_mem]
  exact State.foldl_wf _ (fun _ _ hs => State.clearSlot_wf hs _ _) _ h

/-- The record of a launch, its second half included, read in canonical memory. -/
theorem launchRecord_wf {s t : State} {c d : Prop} [Decidable c] [Decidable d] {r v va n : Nat} {x : Stop}
    (e : (if c then Except.ok (r, s) else if d then .error x else s.readRecord va n) = .ok (v, t)) (h : Memory.wf s.mem = true) :
    Memory.wf t.mem = true := by
  split at e
  · cases e
    exact h
  · split at e
    · cases e
    · exact State.readRecord_wf e h

theorem execLaunch_canonical {s : State} (h : Memory.wf s.mem = true) (a b : SReg) : NextCanonical (execLaunch a b s) := by
  refine runForm_canonical h fun bd u hu =>
    Res.ite_canonical trivial (Res.ite_canonical trivial (Res.ite_canonical trivial (State.unheld_canonical _ ?_)))
  split
  · trivial
  next hr =>
    have hv := State.readRecord_wf hr hu
    dsimp only
    split
    · trivial
    next ht =>
      have hw := launchRecord_wf ht hv
      have hpost : ∀ (v : State) (q : Queue), Memory.wf v.mem = true → Memory.wf ((v.releaseFor .device false).setQueue q).mem = true :=
        fun v q hv => by
          rw [State.setQueue_mem]
          exact State.releaseFor_wf hv _ _
      split
      · trivial
      · exact Res.ite_canonical trivial (hpost _ _ hw)

theorem execLaunchPost_canonical {s : State} (h : Memory.wf s.mem = true) (q : Nat) : NextCanonical (execLaunchPost q s) := by
  have hslot : ∀ (c : Prop) [Decidable c] (x : Queue) (i v j w : Nat), Memory.wf ((if c then s.putSlot x i v else s).putSlot x j w).mem = true :=
    fun c _ x i v j w => State.putSlot_wf (State.ite_wf (State.putSlot_wf h x i v) h) x j w
  refine nextCanonical_next ?_
  split
  · exact h
  next p rest _ =>
    refine State.ite_wf h ?_
    dsimp only
    refine State.ite_wf ?_ (State.ite_wf h (State.ite_wf ?_ (State.ite_wf h ?_)))
    · split
      · exact State.recordFault_wf h _ _
      · refine State.writeStatus_wf ?_ q
        rw [State.setQueue_mem, apply_ite State.mem, State.giveEntry_mem, ite_self]
        refine State.ite_wf (State.putSlot_wf ?_ _ _ _) ?_ <;> exact hslot _ _ _ _ _ _
    · rwa [State.setQueue_mem, State.granted_mem]
    · rw [State.setQueue_mem]
      exact State.noteRefusal_wf h _ _

theorem execQueueEnable_canonical {s : State} (h : Memory.wf s.mem = true) (q desc : Nat) :
    NextCanonical (execQueueEnable q desc s) := by
  refine nextCanonical_next ?_
  (repeat' split) <;> simp [h, State.writeStatus_wf]

theorem execQueueDisable_canonical {s : State} (h : Memory.wf s.mem = true) (q : Nat) : NextCanonical (execQueueDisable q s) := by
  refine nextCanonical_next ?_
  split <;> simp [h, State.disableQueue_wf]

/-! ### Machine/Place.lean -/

theorem execGangPlace_canonical {s : State} (h : Memory.wf s.mem = true) (q : Nat) : NextCanonical (execGangPlace q s) := by
  refine nextCanonical_next ?_
  (repeat' split) <;> simp [h, State.reclaim_wf]

theorem execGangRetire_canonical {s : State} (h : Memory.wf s.mem = true) (g : Nat) : NextCanonical (execGangRetire g s) := by
  unfold execGangRetire
  grind [nextCanonical_next, State.retire_wf, State.counterAdd_wf, State.releaseGang_wf, State.recordFault_wf,
    State.settleChecksOf_wf, State.setQueue_mem]

/-! ### Machine/Caches.lean -/

theorem execGclkAdvance_canonical {s : State} (h : Memory.wf s.mem = true) (g : Nat) : NextCanonical (execGclkAdvance g s) := by
  refine nextCanonical_next ?_
  (repeat' split) <;> simp [h]

theorem execTclkAdvance_canonical {s : State} (h : Memory.wf s.mem = true) (part : Nat) :
    NextCanonical (execTclkAdvance part s) := by
  refine nextCanonical_next ?_
  split <;> simp [h]

theorem execRateRemeasure_canonical {s : State} (h : Memory.wf s.mem = true) (inst req : Nat) :
    NextCanonical (execRateRemeasure inst req s) := by
  refine nextCanonical_next ?_
  split <;> simp [h]

theorem execPenaltyWindowClose_canonical {s : State} (h : Memory.wf s.mem = true) (inst part : Nat) :
    NextCanonical (execPenaltyWindowClose inst part s) :=
  nextCanonical_next (by simpa using h)

theorem execEpochAdvance_canonical {s : State} (h : Memory.wf s.mem = true) (inst : Nat) :
    NextCanonical (execEpochAdvance inst s) := by
  refine nextCanonical_next ?_
  split <;> simp [h]

theorem execLoadReturn_canonical {s : State} (h : Memory.wf s.mem = true) (n : Nat) : NextCanonical (execLoadReturn n s) := by
  unfold execLoadReturn
  grind [nextCanonical_next, State.serve_wf, State.chargeBand_mem, State.onPath_mem, State.bindEarly_mem]

theorem execStorePerform_canonical {s : State} (h : Memory.wf s.mem = true) (g t n : Nat) :
    NextCanonical (execStorePerform g t n s) := by
  refine nextCanonical_next (State.onPath_wf h _ fun u hu => ?_)
  split
  · exact State.ite_wf hu (State.performEntry_wf (by exact hu) _ _)
  · exact hu

theorem execCrossDomainWriteApply_canonical {s : State} (h : Memory.wf s.mem = true) (dom n : Nat) :
    NextCanonical (execCrossDomainWriteApply dom n s) := by
  refine nextCanonical_next ?_
  split <;> simp [h]

theorem execTranslationWalkComplete_canonical {s : State} (h : Memory.wf s.mem = true) (n : Nat) :
    NextCanonical (execTranslationWalkComplete n s) := by
  refine nextCanonical_next ?_
  split
  · exact h
  next w _ =>
    refine State.ite_wf h ?_
    dsimp only
    rw [State.foldl_mem fun s f => ?_, State.foldl_mem fun s p => s.updTroupe_mem _ _ _, State.walkBy_mem]
    · exact h
    · have ht := s.translate_mem w.core w.part w.sys f.pa .read
      split
      next he => rwa [he] at ht
      next he => rwa [he] at ht

/-! ### Machine/Partitions.lean -/

theorem execPartitionActivate_canonical {s : State} (h : Memory.wf s.mem = true) (part pcb : Nat) :
    NextCanonical (execPartitionActivate part pcb s) := by
  unfold execPartitionActivate
  grind [nextCanonical_next, State.finishActivation_wf, State.setPart_mem, State.report_mem]

theorem execUpdate_canonical {s : State} (h : Memory.wf s.mem = true) (part pcb : Nat) : NextCanonical (execUpdate part pcb s) := by
  refine nextCanonical_next ?_
  (repeat' split) <;> simp [h]

theorem execFrhead_canonical {s : State} (h : Memory.wf s.mem = true) (part : Nat) (v : BitVec 64) :
    NextCanonical (execFrhead part v s) := by
  refine nextCanonical_next ?_
  split <;> simp [h, State.writeFaultRecords_wf]

theorem execFrreplay_canonical {s : State} (h : Memory.wf s.mem = true) (part : Nat) (v : BitVec 64) :
    NextCanonical (execFrreplay part v s) := by
  refine nextCanonical_next ?_
  split <;> simp [h, State.wakeAll_wf]

theorem execFrfail_canonical {s : State} (h : Memory.wf s.mem = true) (part : Nat) (v : BitVec 64) :
    NextCanonical (execFrfail part v s) := by
  refine nextCanonical_next (State.ite_wf h (State.wakeAll_wf ?_))
  exact State.foldl_wf _ (fun _ _ hs => State.haltQueue_wf hs _ _) _ (by simpa using h)

theorem execPoolEntryRelease_canonical {s : State} (h : Memory.wf s.mem = true) (pool part : Nat) :
    NextCanonical (execPoolEntryRelease pool part s) := by
  refine nextCanonical_next ?_
  split <;> simp [h, State.tryPending_wf]

theorem execKeyMapMove_canonical {s : State} (h : Memory.wf s.mem = true) (unit slot : Nat) :
    NextCanonical (execKeyMapMove unit slot s) :=
  nextCanonical_next (State.ite_wf h (filter_wf _ h))

theorem execUsageIntervalClose_canonical {s : State} (h : Memory.wf s.mem = true) (part : Nat) :
    NextCanonical (execUsageIntervalClose part s) := by
  refine nextCanonical_next ?_
  (repeat' split) <;> simp [h, State.closeInterval_wf]

theorem execSignatureRecordWrite_canonical {s : State} (h : Memory.wf s.mem = true) (part : Nat) :
    NextCanonical (execSignatureRecordWrite part s) := by
  refine nextCanonical_next ?_
  split <;> simp [h, State.writeSignature_wf]

theorem execLogsign_canonical {s : State} (h : Memory.wf s.mem = true) (part : Nat) : NextCanonical (execLogsign part s) := by
  refine nextCanonical_next ?_
  split <;> simp [h]

theorem execLoghead_canonical {s : State} (h : Memory.wf s.mem = true) (part : Nat) (v : BitVec 64) :
    NextCanonical (execLoghead part v s) := by
  refine nextCanonical_next ?_
  split <;> simp [h]

theorem execPartitionDeactivate_canonical {s : State} (h : Memory.wf s.mem = true) (part : Nat) :
    NextCanonical (execPartitionDeactivate part s) := by
  refine nextCanonical_next ?_
  split <;> simp [h, State.tryPending_wf, State.endPartition_wf]

theorem execVfFlr_canonical {s : State} (h : Memory.wf s.mem = true) (vf : Nat) : NextCanonical (execVfFlr vf s) := by
  refine nextCanonical_next ?_
  split <;> simp [h, State.tryPending_wf, State.endPartition_wf]

/-! ### Machine/Near.lean -/

theorem execMigrate_canonical {s : State} (h : Memory.wf s.mem = true) (a : SReg) : NextCanonical (execMigrate a s) := by
  refine runForm_canonical h fun bd u hu => Res.ite_canonical hu ?_
  split
  · trivial
  · exact hu
  · split
    · trivial
    next hp =>
      rw [← State.place_mem hp] at hu
      refine Res.ite_canonical hu ?_
      rw [Res.canonical_done, State.setCur_mem]
      dsimp only
      exact State.saveL1_wf (State.releaseFor_wf hu _ _) _ _
    next hp => rwa [← State.place_mem hp] at hu

theorem execHome_canonical {s : State} (h : Memory.wf s.mem = true) : NextCanonical (execHome s) :=
  runForm_canonical h fun _ _ hu => Res.ite_canonical hu (Res.ite_canonical (State.endNear_wf hu) fun _ => State.endNear_wf)

theorem execNearRegionEnd_canonical {s : State} (h : Memory.wf s.mem = true) (p : PathId) :
    NextCanonical (execNearRegionEnd p s) := by
  refine nextCanonical_next (State.onPath_wf h p fun u hu => State.ite_wf hu (State.ite_wf (State.endNear_wf hu) ?_))
  split
  · exact hu
  · exact State.endNear_wf hu
  · exact State.ite_wf hu (State.endNear_wf hu)

theorem execSequencerWatchdogReset_canonical {s : State} (h : Memory.wf s.mem = true) (stack : Nat) :
    NextCanonical (execSequencerWatchdogReset stack s) := by
  refine nextCanonical_next ?_
  split <;> simp [h, State.loseFields_wf]

theorem execSequencerResetComplete_canonical {s : State} (h : Memory.wf s.mem = true) (stack : Nat) :
    NextCanonical (execSequencerResetComplete stack s) := by
  refine nextCanonical_next ?_
  split <;> simp [h]

/-! ### Machine/Preempt.lean -/

theorem execSaveComplete_canonical {s : State} (h : Memory.wf s.mem = true) (g : Nat) : NextCanonical (execSaveComplete g s) := by
  refine nextCanonical_next ?_
  (repeat' split) <;> simp [h, State.completeSave_wf]

theorem execSaveForce_canonical {s : State} (h : Memory.wf s.mem = true) (g : Nat) : NextCanonical (execSaveForce g s) := by
  have hf : ∀ xs : List Work, (xs.foldl (fun s x => s.forceItems x.uid x.part (x.left - (x.saveEntries + x.reserve))) s).mem = s.mem :=
    fun xs => State.foldl_mem (fun s x => s.forceItems_mem _ _ _) xs s
  refine nextCanonical_next ?_
  split
  · refine State.ite_wf h ?_
    dsimp only
    split
    · refine State.ite_wf ?_ ?_ <;> simpa [hf] using h
    · simpa [hf] using h
  · exact h

theorem execSlotStart_canonical {s : State} (h : Memory.wf s.mem = true) : NextCanonical (execSlotStart s) := by
  refine nextCanonical_next (State.ite_wf h ?_)
  exact State.foldl_wf _ (fun _ cl hs => State.changeHolder_wf hs _ cl) _ (by exact h)

theorem execSetSlotLength_canonical {s : State} (h : Memory.wf s.mem = true) (us : Nat) :
    NextCanonical (execSetSlotLength us s) := by
  refine nextCanonical_next ?_
  split <;> simp [h]

theorem execClusterLendable_canonical {s : State} (h : Memory.wf s.mem = true) (cl : Nat) :
    NextCanonical (execClusterLendable cl s) := by
  refine nextCanonical_next ?_
  (repeat' split) <;> simp [h]

theorem execDrain_canonical {s : State} (h : Memory.wf s.mem = true) (scope : DrainScope) (deadline : Nat) :
    NextCanonical (execDrain scope deadline s) := by
  refine nextCanonical_next ?_
  split <;> simp [h]

theorem execDrainDeadline_canonical {s : State} (h : Memory.wf s.mem = true) (scope : DrainScope) :
    NextCanonical (execDrainDeadline scope s) := by
  refine nextCanonical_next ?_
  split
  · refine State.ite_wf h ?_
    exact State.foldl_wf _ (fun _ _ hs => State.askSave_wf hs _ _ _) _ (by exact h)
  · exact h

theorem execResume_canonical {s : State} (h : Memory.wf s.mem = true) (scope : DrainScope) :
    NextCanonical (execResume scope s) := by
  refine nextCanonical_next ?_
  split <;> simp [h]

theorem execSaveCommand_canonical {s : State} (h : Memory.wf s.mem = true) (part : Nat) : NextCanonical (execSaveCommand part s) :=
  nextCanonical_next (State.ite_wf (State.foldl_wf _ (fun _ _ hs => State.askSave_wf hs _ _ _) _ h) h)

theorem execGangResume_canonical {s : State} (h : Memory.wf s.mem = true) (g : Nat) : NextCanonical (execGangResume g s) := by
  have hr : Memory.wf s.refreshActive.reclaim.mem = true := State.reclaim_wf (by rwa [State.refreshActive_mem])
  refine nextCanonical_next ?_
  split
  · split
    · refine State.ite_wf hr ?_
      refine State.foldl_wf _ (fun _ p hs => State.wakeParked_wf hs p) _ ?_
      simpa using hr
    · exact hr
  · exact hr

theorem execSwitchGroupBind_canonical {s : State} (h : Memory.wf s.mem = true) (members : List Nat) (leader : Nat) :
    NextCanonical (execSwitchGroupBind members leader s) := by
  refine nextCanonical_next ?_
  (repeat' split) <;> simp [h]

theorem execSwitchTickSend_canonical {s : State} (h : Memory.wf s.mem = true) : NextCanonical (execSwitchTickSend s) := by
  refine nextCanonical_next ?_
  (repeat' split) <;> simp [h, State.beginTick_wf]

theorem execSwitchTickReceive_canonical {s : State} (h : Memory.wf s.mem = true) (slot : Nat) :
    NextCanonical (execSwitchTickReceive slot s) := by
  refine nextCanonical_next ?_
  (repeat' split) <;> simp [h, State.beginTick_wf]

theorem execSavedMessage_canonical {s : State} (h : Memory.wf s.mem = true) (m : Nat) (forced : Bool) :
    NextCanonical (execSavedMessage m forced s) := by
  refine nextCanonical_next ?_
  (repeat' split) <;> simp [h]

/-! ### Machine/Fabric.lean -/

theorem State.doorbell_canonical {s : State} (h : Memory.wf s.mem = true) (vf off : Nat) (v : BitVec 64) :
    NextCanonical (s.doorbell vf off v) := by
  unfold State.doorbell
  split
  · exact execFrhead_canonical h _ _
  · exact execFrreplay_canonical h _ _
  · exact execFrfail_canonical h _ _
  · exact execLoghead_canonical h _ _
  · exact execLogsign_canonical h _
  · exact nextCanonical_next (State.ite_wf h h)
  · exact nextCanonical_next h

theorem execRegisterWrite_canonical {s : State} (h : Memory.wf s.mem = true) (vf off : Nat) (v : BitVec 64) :
    NextCanonical (execRegisterWrite vf off v s) := by
  unfold execRegisterWrite
  grind [nextCanonical_next, execHeadRegisterWrite_canonical, execTailDoorbell_canonical, State.doorbell_canonical,
    State.unmaskMsi_mem]

theorem execHostBar2Write_canonical {s : State} (h : Memory.wf s.mem = true) (vf off : Nat) (data : List (BitVec 8)) :
    NextCanonical (execHostBar2Write vf off data s) := by
  refine nextCanonical_next ?_
  (repeat' split) <;> simp [h, State.tailBell_wf, State.hostWrite_wf, State.machineCheck_wf]

theorem execHostBar2Read_canonical {s : State} (h : Memory.wf s.mem = true) (vf off len : Nat) :
    NextCanonical (execHostBar2Read vf off len s) := by
  refine nextCanonical_next ?_
  (repeat' split) <;> simp [h, State.machineCheck_wf]

theorem execFlitReceive_canonical {s : State} (h : Memory.wf s.mem = true) (port : Nat) (flit : List (BitVec 8)) :
    NextCanonical (execFlitReceive port flit s) := by
  refine nextCanonical_next ?_
  (repeat' split) <;> simp [h, State.arriving_wf]

theorem execPortFail_canonical {s : State} (h : Memory.wf s.mem = true) (port : Nat) : NextCanonical (execPortFail port s) := by
  refine nextCanonical_next ?_
  split <;> simp [h]

theorem execPortTrained_canonical {s : State} (h : Memory.wf s.mem = true) (port : Nat) :
    NextCanonical (execPortTrained port s) := by
  refine nextCanonical_next ?_
  split <;> simp [h]

theorem execRouteLossTimeout_canonical {s : State} (h : Memory.wf s.mem = true) (m : Nat) :
    NextCanonical (execRouteLossTimeout m s) := by
  unfold execRouteLossTimeout
  split
  · exact nextCanonical_next h
  · have hr : Memory.wf ({ s with lost := s.lost ++ [m] } : State).recheckAll.mem = true := State.recheckAll_wf h
    dsimp only
    split
    · split
      · exact execSavedMessage_canonical hr _ _
      · exact nextCanonical_next hr
    · exact nextCanonical_next hr

theorem foldl_cellSet_wf (at_ : Host.Cell → Nat) {m : List Host.Cell} (cs : List Host.Cell) (h : Memory.wf m = true) :
    Memory.wf (cs.foldl (fun l c => cellSet l (at_ c) c.2) m) = true := by
  induction cs generalizing m with
  | nil => exact h
  | cons c r ih => exact ih (cellSet_wf h _ _)

theorem execSetModnum_canonical {s : State} (h : Memory.wf s.mem = true) (m : Nat) : NextCanonical (execSetModnum m s) :=
  nextCanonical_next (State.ite_wf (foldl_cellSet_wf _ _ (filter_wf _ h)) h)

/-! ### Machine/Boot.lean -/

theorem execPowerGood_canonical {s : State} (h : Memory.wf s.mem = true) : NextCanonical (execPowerGood s) := by
  refine nextCanonical_next (filter_wf _ ?_)
  rwa [State.freeSpares_mem, State.dropRecords_mem]

theorem execBootStepComplete_canonical {s : State} (h : Memory.wf s.mem = true) (ok : Bool) :
    NextCanonical (execBootStepComplete ok s) := by
  refine nextCanonical_next ?_
  (repeat' split) <;> simp [h]

theorem execCert_canonical {s : State} (h : Memory.wf s.mem = true) : NextCanonical (execCert s) := by
  refine nextCanonical_next ?_
  split <;> simp [h]

theorem execAttest_canonical {s : State} (h : Memory.wf s.mem = true) (part : Nat) (nonce : BitVec 512) :
    NextCanonical (execAttest part nonce s) := by
  refine nextCanonical_next ?_
  split <;> simp [h]

theorem execImageKeyRegister_canonical {s : State} (h : Memory.wf s.mem = true) (hash : BitVec 512) :
    NextCanonical (execImageKeyRegister hash s) := by
  refine nextCanonical_next ?_
  split <;> simp [h]

theorem execImgload_canonical {s : State} (h : Memory.wf s.mem = true) (image : Nat) : NextCanonical (execImgload image s) := by
  unfold execImgload
  grind [nextCanonical_next, State.report_mem, State.placeRegions_mem]

theorem execRegion_canonical {s : State} (h : Memory.wf s.mem = true) (region : Nat) (parts : List Nat) :
    NextCanonical (execRegion region parts s) := by
  refine nextCanonical_next (State.ite_wf h (State.ite_wf ?_ ?_))
  · rwa [State.report_mem, State.foldl_mem fun s p => s.setPart_mem _]
  · rwa [State.report_mem]

theorem execPowerSample_canonical {s : State} (h : Memory.wf s.mem = true) (watts : Nat) :
    NextCanonical (execPowerSample watts s) := by
  refine nextCanonical_next ?_
  (repeat' split) <;> simp [h]

theorem execThermalThrottle_canonical {s : State} (h : Memory.wf s.mem = true) (sensor : Nat) :
    NextCanonical (execThermalThrottle sensor s) :=
  nextCanonical_next (by simpa using h)

theorem execThrottleStep_canonical {s : State} (h : Memory.wf s.mem = true) : NextCanonical (execThrottleStep s) := by
  refine nextCanonical_next ?_
  (repeat' split) <;> simp [h]

theorem execThermalShutdown_canonical {s : State} (h : Memory.wf s.mem = true) (sensor : Nat) :
    NextCanonical (execThermalShutdown sensor s) :=
  nextCanonical_next (by simpa using h)

theorem execPowerLoss_canonical {s : State} (h : Memory.wf s.mem = true) : NextCanonical (execPowerLoss s) :=
  nextCanonical_next (by simpa using h)

/-! ### Machine/CrossLane.lean -/

theorem execSetfmt_canonical {s : State} (h : Memory.wf s.mem = true) (imm : BitVec 18) : NextCanonical (execSetfmt imm s) := by
  refine run_canonical h fun b u hu => ?_
  dsimp only
  (repeat' split) <;> simp [hu]

end Sys2Proof.Machine
end

section
/-!
SUPPORT for O7: the shapes shared by the scalar, lane-wise and memory instructions keep memory's canonical form, and with them
every instruction, as `exec` dispatches it.
-/

namespace Sys2Proof.Machine

/-! ### Scalar shapes -/

theorem binS_canonical {s : State} (h : Memory.wf s.mem = true) (i : Instr) (d a b : SReg) (f : Word64 → Word64 → Word64) :
    NextCanonical (binS i d a b f s) :=
  simple_canonical h fun _ u => u.wS_mem ..

theorem unS_canonical {s : State} (h : Memory.wf s.mem = true) (i : Instr) (d a : SReg) (f : Word64 → Word64) :
    NextCanonical (unS i d a f s) :=
  simple_canonical h fun _ u => u.wS_mem ..

theorem immOp_canonical {s : State} (h : Memory.wf s.mem = true) (i : Instr) (d a : SReg) (imm : Bound → Word64)
    (f : Word64 → Word64 → Word64) : NextCanonical (immOp i d a imm f s) :=
  simple_canonical h fun _ u => u.wS_mem ..

theorem floatS_canonical {s : State} (h : Memory.wf s.mem = true) (i : Instr) (f : Fmt) (d : SReg)
    (g : RMode → State → FVal) : NextCanonical (floatS i f d g s) :=
  simple_canonical h fun _ u => u.wS_mem ..

theorem cvtS_canonical {s : State} (h : Memory.wf s.mem = true) (i : Instr) (f : Fmt) (d a b : SReg) :
    NextCanonical (cvtS i f d a b s) :=
  run_canonical h fun _ _ hu => Res.ite_canonical trivial (by rwa [Res.canonical_done, State.wS_mem])

/-! ### Lane-wise shapes -/

theorem roundV_canonical {s : State} (h : Memory.wf s.mem = true) (i : Instr) (d : VReg)
    (g : RMode → Bound → State → Fin 32 → FVal) : NextCanonical (roundV i d g s) :=
  simple_canonical h fun _ _ => by rw [State.drawFor_mem, State.writeLanes_mem]

theorem plainV_canonical {s : State} (h : Memory.wf s.mem = true) (i : Instr) (d : VReg)
    (g : Bound → State → Fin 32 → Word32) : NextCanonical (plainV i d g s) :=
  simple_canonical h fun _ u => u.writeLanes_mem ..

theorem roundP_canonical {s : State} (h : Memory.wf s.mem = true) (i : Instr) (f : Fmt) (d : VReg)
    (g : RMode → Bound → State → Fin 32 → Nat → FVal) : NextCanonical (roundP i f d g s) :=
  simple_canonical h fun _ _ => by rw [State.drawFor_mem, State.writeLanes_mem]

theorem codeP_canonical {s : State} (h : Memory.wf s.mem = true) (i : Instr) (d : VReg) (g : State → Fin 32 → Nat → Nat) :
    NextCanonical (codeP i d g s) :=
  simple_canonical h fun _ u => u.writeLanes_mem ..

theorem binV_canonical {s : State} (h : Memory.wf s.mem = true) (i : Instr) (d a b : VReg) (f : Word32 → Word32 → Word32) :
    NextCanonical (binV i d a b f s) :=
  simple_canonical h fun _ u => u.writeLanes_mem ..

theorem unV_canonical {s : State} (h : Memory.wf s.mem = true) (i : Instr) (d a : VReg) (f : Word32 → Word32) :
    NextCanonical (unV i d a f s) :=
  simple_canonical h fun _ u => u.writeLanes_mem ..

theorem sfuV_canonical {s : State} (h : Memory.wf s.mem = true) (i : Instr) (d a : VReg) (f : Word32 → Word32) :
    NextCanonical (sfuV i d a f s) :=
  simple_canonical h fun _ u => u.writeLanes_mem ..

theorem shuffle_canonical {s : State} (h : Memory.wf s.mem = true) (i : Instr) (k : Shuffle) (d a : VReg)
    (n : State → Fin 32 → Nat) : NextCanonical (shuffle i k d a n s) :=
  simple_canonical h fun _ u => u.writeLanes_mem ..

/-! ### Memory shapes -/

theorem scalarLoad_canonical {s : State} (h : Memory.wf s.mem = true) (i : Instr) (z : Nat) (ext : Nat → Word64) (d sa : SReg)
    (nd : BitVec 4) (imm : BitVec 8) : NextCanonical (scalarLoad i z ext d sa nd imm s) :=
  run_canonical h fun _ _ hu => State.load_canonical hu _ _ _ _ fun _ _ hv => by rwa [State.wS_mem]

theorem scalarStore_canonical {s : State} (h : Memory.wf s.mem = true) (i : Instr) (z : Nat) (d sa : SReg) (nd : BitVec 4)
    (imm : BitVec 8) : NextCanonical (scalarStore i z d sa nd imm s) :=
  run_canonical h fun _ _ hu => State.store_canonical hu ..

theorem scalarAtomic_canonical {s : State} (h : Memory.wf s.mem = true) (i : Instr) (o : AtomicOp) (d a b : SReg) :
    NextCanonical (scalarAtomic i o d a b s) := by
  refine run_canonical h fun _ _ hu => State.atomic_canonical hu _ _ _ _ _ _ fun k hk _ _ hv => ?_
  split at hk
  · cases hk
  · cases hk
    rwa [State.wS_mem]

theorem vectorLoad_canonical {s : State} (h : Memory.wf s.mem = true) (i : Instr) (z regs : Nat) (ext : Nat → Nat) (d : VReg)
    (sa : SReg) (b : VReg) (nd : BitVec 4) (sc : BitVec 1) : NextCanonical (vectorLoad i z regs ext d sa b nd sc s) :=
  run_canonical h fun _ _ hu => State.load_canonical hu _ _ _ _ fun _ _ hv => by rwa [State.writeLoaded_mem]

theorem vectorStore_canonical {s : State} (h : Memory.wf s.mem = true) (i : Instr) (z regs : Nat) (d : VReg) (sa : SReg)
    (b : VReg) (nd : BitVec 4) (sc : BitVec 1) : NextCanonical (vectorStore i z regs d sa b nd sc s) :=
  run_canonical h fun _ _ hu => State.store_canonical hu ..

theorem vectorAtomic_canonical {s : State} (h : Memory.wf s.mem = true) (i : Instr) (z : Nat) (o : AtomicOp)
    (opnd : State → Fin 32 → Nat × Nat) (d b : VReg) (sa : SReg) (ret : BitVec 1) :
    NextCanonical (vectorAtomic i z o opnd d b sa ret s) := by
  refine run_canonical h fun _ _ hu => State.atomic_canonical hu _ _ _ _ _ _ fun k hk _ _ hv => ?_
  split at hk
  · cases hk
    rwa [State.writeLoaded_mem]
  · cases hk

theorem execVcvt_canonical {s : State} (h : Memory.wf s.mem = true) (c : CvtCode) (d a : VReg) (sat : BitVec 1) :
    NextCanonical (execVcvt c d a sat s) :=
  simple_canonical h fun _ _ => by
    dsimp only
    split
    · rw [State.writeGroup_mem]
    · rw [State.drawFor_mem, State.writeGroup_mem]

/-! ### Every instruction -/

/-- The dispatch keeps memory's canonical form: a shape's lemma for each instruction of the shape, a row's own lemma for the rest. -/
theorem exec_canonical {s : State} (h : Memory.wf s.mem = true) (i : Instr) : NextCanonical (exec i s) := by
  cases i <;> dsimp only [exec]
  case add | sub | mul | mulh | mulhn | div | divn | rem | remn | min | max | minn | maxn | and | or | xor | andn | shl |
      shr | sar | seq | sne | slt | sltn => exact binS_canonical h _ _ _ _ _
  case sel | bfx | bfi | movi | addpc | sfcmpF64 | sfcmpF32 | vscaleF32 | vrndF32 | vcmpf | vmad | vbfi | vsel | vcmpi |
      vsqrt | vmovs | vmovsh | vlane | vrand | vext | vmovi | vany | vall | vballot | vmatch | vred | vscan | vtopk |
      settile => exact simple_canonical h fun _ _ => by simp
  case clz | ctz | popc | brev | shli | shri | sari => exact unS_canonical h _ _ _ _
  case addi | andi | ori | xori | slti => exact immOp_canonical h _ _ _ _ _
  case sfaddF64 | sfsubF64 | sfmulF64 | sffmaF64 | sfdivF64 | sfaddF32 | sfsubF32 | sfmulF32 | sffmaF32 | sfdivF32 =>
    exact floatS_canonical h _ _ _ _
  case sfcvtF64 | sfcvtF32 => exact cvtS_canonical h _ _ _ _ _
  case ldb | ldbs | ldh | ldhs | ldw | ldws | ldd => exact scalarLoad_canonical h _ _ _ _ _ _ _
  case stb | sth | stw | std => exact scalarStore_canonical h _ _ _ _ _ _
  case mfs | mfc => exact readReg_canonical h _
  case vaddF32 | vsubF32 | vmulF32 | vfmaF32 | vfmsF32 | vfnmaF32 | vdot2bf | vdot2h => exact roundV_canonical h _ _ _
  case vminF32 | vmaxF32 | vabsF32 | vnegF32 | vgetexpF32 | vclampF32 | vmovF32 | vdot4i | vdot4n =>
    exact plainV_canonical h _ _ _
  case vaddF16x2 | vsubF16x2 | vmulF16x2 | vfmaF16x2 | vfmsF16x2 | vfnmaF16x2 | vaddBf16x2 | vsubBf16x2 | vmulBf16x2 |
      vfmaBf16x2 | vfmsBf16x2 | vfnmaBf16x2 => exact roundP_canonical h _ _ _ _
  case vminF16x2 | vmaxF16x2 | vabsF16x2 | vnegF16x2 | vminBf16x2 | vmaxBf16x2 | vabsBf16x2 | vnegBf16x2 =>
    exact codeP_canonical h _ _ _
  case vaddI32 | vsubI32 | vmulI32 | vmulh | vmulhn | vminI32 | vmaxI32 | vminn | vmaxn | vaddsI32 | vsubsI32 | vavgI32 |
      vaddI16 | vsubI16 | vaddsI16 | vsubsI16 | vaddsN16 | vsubsN16 | vavgI16 | vavgN16 | vaddI8 | vsubI8 | vaddsI8 |
      vsubsI8 | vaddsN8 | vsubsN8 | vavgI8 | vavgN8 | vand | vor | vxor | vandn | vshl | vshr | vsar | vbfx =>
    exact binV_canonical h _ _ _ _ _
  case vabsI32 | vnegI32 | vpopc | vclz | vbrev => exact unV_canonical h _ _ _ _
  case vrcp | vrsq | vexp2 | vlog2 | vsin | vcos | vtanh | vsigm => exact sfuV_canonical h _ _ _ _
  case vshflIdx | vshflUp | vshflDown | vshflXor | vshflBcast | vshflUpImm | vshflDownImm | vshflXorImm | vshflBcastImm =>
    exact shuffle_canonical h _ _ _ _ _
  case vldb | vldbs | vldh | vldhs | vldw | vldd | vldq => exact vectorLoad_canonical h _ _ _ _ _ _ _ _ _
  case vstb | vsth | vstw | vstd | vstq => exact vectorStore_canonical h _ _ _ _ _ _ _ _
  case amoa | amol => exact vectorAtomic_canonical h _ _ _ _ _ _ _ _
  case samoadd | samocas | samoswap | samomax => exact scalarAtomic_canonical h _ _ _ _ _
  case copy | copyr => exact copyLanes_canonical h _ _
  case tcopy | tcopyIn | tcopyOut => exact tcopyWith_canonical h _
  case mma | mmam | mmas | mma2 => exact mmaFamily_canonical h _ _ _ _
  case acld | acst => exact tileMove_canonical h _ _ _ _
  case layer | layerx2 | layert => exact layerForm_canonical h _ _ _
  case pfx | ord | limm | hint => exact attach_canonical h _ _ _ _
  case bwid | bnot | band | bor | bxor | badd | bsub | bcmplt | bcmpeq | bsel | bshl | bshr | bpopc | bcopy | bset |
      bcount | bend => exact micro_canonical h _ _ _ _
  case br => exact execBr_canonical h _
  case brc => exact execBrc_canonical h _ _ _
  case call => exact execCall_canonical h _
  case callr => exact execCallr_canonical h _
  case ret => exact execRet_canonical h
  case jmpr => exact execJmpr_canonical h _
  case mts => exact execMts_canonical h _ _
  case nop => exact execNop_canonical h
  case brk => exact execBrk_canonical h _
  case sys => exact execSys_canonical h _
  case clk => exact execClk_canonical h _
  case exit => exact execExit_canonical h
  case yield => exact execYield_canonical h
  case mtc => exact execMtc_canonical h _ _
  case eret => exact execEret_canonical h
  case tlbi => exact execTlbi_canonical h _ _
  case idle => exact execIdle_canonical h
  case brv => exact execBrv_canonical h _ _
  case jpt => exact execJpt_canonical h _
  case join => exact execJoin_canonical h
  case bany => exact execBany_canonical h _ _
  case ball => exact execBall_canonical h _ _
  case cjoin => exact execCjoin_canonical h _
  case cleave => exact execCleave_canonical h _
  case carrive => exact execCarrive_canonical h _
  case cwait => exact execCwait_canonical h _
  case csync => exact execCsync_canonical h _
  case ccount => exact execCcount_canonical h _ _
  case setfmt => exact execSetfmt_canonical h _
  case waitc => exact execWaitc_canonical h _ _ _
  case fence => exact execFence_canonical h
  case cline => exact execCline_canonical h _
  case pf => exact execPf_canonical h _
  case gaddr => exact execGaddr_canonical h _ _
  case shpw => exact execShpw_canonical h _ _
  case shpi => exact execShpi_canonical h _
  case sealB => exact execSeal_canonical h _
  case waitb => exact execWaitb_canonical h _
  case acz => exact execAcz_canonical h _ _
  case mrel => exact execMrel_canonical h
  case rceq => exact execRceq_canonical h _ _
  case rcepin => exact execRcepin_canonical h _
  case rceunpin => exact execRceunpin_canonical h _
  case bsq => exact execBsq_canonical h _ _
  case ways => exact execWays_canonical h _ _ _
  case waysrel => exact execWaysrel_canonical h _
  case launch => exact execLaunch_canonical h _ _
  case migrate => exact execMigrate_canonical h _
  case home => exact execHome_canonical h
  case circleWake => exact execCircleWake_canonical h _
  case waitbWake => exact execWaitbWake_canonical h _
  case idleWake => exact execIdleWake_canonical h _
  case yieldHoldExpire => exact execYieldHoldExpire_canonical h _
  case pathOverdue => exact execPathOverdue_canonical h _
  case ringCycle => exact execRingCycle_canonical h
  case injectorLapStart => exact execInjectorLapStart_canonical h
  case pledgeRaise => exact execPledgeRaise_canonical h _
  case priceTableUpdate => exact execPriceTableUpdate_canonical h _
  case setPowerLimit => exact execSetPowerLimit_canonical h _
  case setWfw => exact execSetWfw_canonical h _
  case setClusterFrequency => exact execSetClusterFrequency_canonical h _ _
  case fllStep => exact execFllStep_canonical h _
  case droopTrip => exact execDroopTrip_canonical h _
  case droopClear => exact execDroopClear_canonical h _
  case boostStep => exact execBoostStep_canonical h _ _
  case boostReturn => exact execBoostReturn_canonical h _
  case engineRampComplete => exact execEngineRampComplete_canonical h _
  case engineRampExpire => exact execEngineRampExpire_canonical h _
  case tailDoorbell => exact execTailDoorbell_canonical h _ _ _
  case headRegisterWrite => exact execHeadRegisterWrite_canonical h _ _
  case cardFetch => exact execCardFetch_canonical h _
  case gangPlace => exact execGangPlace_canonical h _
  case gangRetire => exact execGangRetire_canonical h _
  case launchPost => exact execLaunchPost_canonical h _
  case gclkAdvance => exact execGclkAdvance_canonical h _
  case tclkAdvance => exact execTclkAdvance_canonical h _
  case epochAdvance => exact execEpochAdvance_canonical h _
  case rateRemeasure => exact execRateRemeasure_canonical h _ _
  case penaltyWindowClose => exact execPenaltyWindowClose_canonical h _ _
  case loadReturn => exact execLoadReturn_canonical h _
  case storePerform => exact execStorePerform_canonical h _ _ _
  case crossDomainWriteApply => exact execCrossDomainWriteApply_canonical h _ _
  case monitorFire => exact execMonitorFire_canonical h _
  case monitorPoll => exact execMonitorPoll_canonical h _
  case translationWalkComplete => exact execTranslationWalkComplete_canonical h _
  case copyElement => exact execCopyElement_canonical h _ _
  case copyComplete => exact execCopyComplete_canonical h _
  case orderedGroupAdd => exact execOrderedGroupAdd_canonical h _
  case replayEntryRun => exact execReplayEntryRun_canonical h _ _
  case leaseStart => exact execLeaseStart_canonical h _
  case accumulationStep => exact execAccumulationStep_canonical h _
  case leaseExpire => exact execLeaseExpire_canonical h _
  case matrixComplete => exact execMatrixComplete_canonical h _
  case adapterStage => exact execAdapterStage_canonical h _
  case tilePassStart => exact execTilePassStart_canonical h _ _
  case tilePassComplete => exact execTilePassComplete_canonical h _ _
  case layerComplete => exact execLayerComplete_canonical h _
  case rceProbePass => exact execRceProbePass_canonical h _ _
  case epochPublish => exact execEpochPublish_canonical h _
  case tileRefresh => exact execTileRefresh_canonical h _ _
  case pinLapse => exact execPinLapse_canonical h _ _
  case fieldConversionComplete => exact execFieldConversionComplete_canonical h _
  case bsqJobStart => exact execBsqJobStart_canonical h _
  case bsqJobComplete => exact execBsqJobComplete_canonical h _
  case waysrelRelease => exact execWaysrelRelease_canonical h _
  case rowActivation => exact execRowActivation_canonical h _ _ _
  case activationIntervalEnd => exact execActivationIntervalEnd_canonical h _ _
  case sequencerWatchdogReset => exact execSequencerWatchdogReset_canonical h _
  case sequencerResetComplete => exact execSequencerResetComplete_canonical h _
  case nearRegionEnd => exact execNearRegionEnd_canonical h _
  case timerCompare => exact execTimerCompare_canonical h
  case slotStart => exact execSlotStart_canonical h
  case saveComplete => exact execSaveComplete_canonical h _
  case saveForce => exact execSaveForce_canonical h _
  case drain => exact execDrain_canonical h _ _
  case drainDeadline => exact execDrainDeadline_canonical h _
  case resume => exact execResume_canonical h _
  case saveCommand => exact execSaveCommand_canonical h _
  case gangResume => exact execGangResume_canonical h _
  case clusterLendable => exact execClusterLendable_canonical h _
  case switchGroupBind => exact execSwitchGroupBind_canonical h _ _
  case switchTickSend => exact execSwitchTickSend_canonical h
  case switchTickReceive => exact execSwitchTickReceive_canonical h _
  case savedMessage => exact execSavedMessage_canonical h _ _
  case setSlotLength => exact execSetSlotLength_canonical h _
  case poolEntryRelease => exact execPoolEntryRelease_canonical h _ _
  case partitionActivate => exact execPartitionActivate_canonical h _ _
  case partitionDeactivate => exact execPartitionDeactivate_canonical h _
  case update => exact execUpdate_canonical h _ _
  case queueEnable => exact execQueueEnable_canonical h _ _
  case queueDisable => exact execQueueDisable_canonical h _
  case keyMapMove => exact execKeyMapMove_canonical h _ _
  case usageIntervalClose => exact execUsageIntervalClose_canonical h _
  case signatureRecordWrite => exact execSignatureRecordWrite_canonical h _
  case logsign => exact execLogsign_canonical h _
  case loghead => exact execLoghead_canonical h _ _
  case frhead => exact execFrhead_canonical h _ _
  case frreplay => exact execFrreplay_canonical h _ _
  case frfail => exact execFrfail_canonical h _ _
  case registerWrite => exact execRegisterWrite_canonical h _ _ _
  case hostBar2Write => exact execHostBar2Write_canonical h _ _ _
  case hostBar2Read => exact execHostBar2Read_canonical h _ _ _
  case vfFlr => exact execVfFlr_canonical h _
  case flitReceive => exact execFlitReceive_canonical h _ _
  case portFail => exact execPortFail_canonical h _
  case routeLossTimeout => exact execRouteLossTimeout_canonical h _
  case setModnum => exact execSetModnum_canonical h _
  case powerGood => exact execPowerGood_canonical h
  case bootStepComplete => exact execBootStepComplete_canonical h _
  case cert => exact execCert_canonical h
  case attest => exact execAttest_canonical h _ _
  case imageKeyRegister => exact execImageKeyRegister_canonical h _
  case imgload => exact execImgload_canonical h _
  case region => exact execRegion_canonical h _ _
  case powerSample => exact execPowerSample_canonical h _
  case thermalThrottle => exact execThermalThrottle_canonical h _
  case throttleStep => exact execThrottleStep_canonical h
  case thermalShutdown => exact execThermalShutdown_canonical h _
  case powerLoss => exact execPowerLoss_canonical h
  case portTrained => exact execPortTrained_canonical h _
  case vcvt => exact execVcvt_canonical h _ _ _ _

end Sys2Proof.Machine
end

section
/-!
O7: a step keeps memory's canonical form (log 1): a word, a micro-op, a step of a unit, and the time that passes before them.
-/

namespace Sys2Proof.Machine

/-! ### Words and micro-ops (R19, R53) -/

theorem State.runInstr_canonical {s : State} (h : Memory.wf s.mem = true) (w : BitVec 32) (i : Instr) :
    NextCanonical (s.runInstr w i) := by
  unfold State.runInstr
  split
  · exact nextCanonical_next (State.stopWord_wf h _ _)
  · exact exec_canonical (State.forWide_wf h i) i

theorem State.runWord_canonical {s : State} (h : Memory.wf s.mem = true) : NextCanonical s.runWord := by
  unfold State.runWord
  split
  · exact nextCanonical_next (State.stopWord_wf h _ _)
  · split
    · exact nextCanonical_next (State.stopWord_wf h _ _)
    next hf =>
      have hu := State.fetch_wf hf h
      split
      · exact State.runInstr_canonical hu _ _
      · exact nextCanonical_next (State.stopWord_wf hu _ _)

theorem State.runMicro_canonical {s : State} (h : Memory.wf s.mem = true) (w : Nat) : NextCanonical (s.runMicro w) := by
  unfold State.runMicro
  dsimp only
  split
  · exact nextCanonical_next h
  · split
    · exact exec_canonical (by exact h) _
    · exact nextCanonical_next (by rwa [State.badMicro_mem])

/-! ### Paths and units (R162) -/

theorem State.afterWord_wf {u t : State} (hu : Memory.wf u.mem = true) (ht : Memory.wf t.mem = true) (again : Bool)
    (p : PathId) : Memory.wf (u.afterWord again p t).mem = true := by
  unfold State.afterWord
  refine State.ite_wf ht (State.ite_wf ?_ (State.ite_wf ?_ ?_))
  · rwa [State.lastWord_mem, State.noteIssued_mem, State.reprice_mem]
  · rwa [State.setBasis_mem, State.forWideAt_mem, State.updTroupe_mem]
  · rwa [State.updTroupe_mem]

theorem State.endOfWord_canonical {u : State} (hu : Memory.wf u.mem = true) (again : Bool) (p : PathId) {r : Out}
    (hr : NextCanonical r) : NextCanonical (u.endOfWord again p r) := by
  cases r with
  | next t => exact nextCanonical_next (State.afterWord_wf hu (hr t rfl) again p)
  | fault f => exact nextCanonical_fault f
  | refused r => exact nextCanonical_refused r

theorem State.runCand_canonical {s : State} (h : Memory.wf s.mem = true) (c : Cand) : NextCanonical (s.runCand c) := by
  have hword (p : PathId) : NextCanonical (s.focusTo p).runWord := State.runWord_canonical (by rwa [State.focusTo_mem])
  cases c with
  | path p =>
    rw [show s.runCand (.path p) = _ from s.runCand_word false p]
    exact State.endOfWord_canonical h _ _ (hword p)
  | retry p =>
    rw [show s.runCand (.retry p) = _ from s.runCand_word true p]
    exact State.endOfWord_canonical h _ _ (hword p)
  | micro w => exact State.runMicro_canonical h w
  | event i => exact exec_canonical (State.forWide_wf h i) i

/-! ### A step -/

theorem State.stepPowered_canonical {s : State} (h : Memory.wf s.mem = true) : NextCanonical s.stepPowered := by
  have hpick : Memory.wf s.pick.2.mem = true := by rwa [State.pick_mem]
  have hpass := State.passTime_wf h
  unfold State.stepPowered
  split
  · exact nextCanonical_next (State.settleCheck_wf (by exact hpass) _)
  · exact exec_canonical (by exact hpass) _
  · split
    · next hp =>
      rw [hp] at hpick
      exact State.runCand_canonical (State.passTime_wf hpick) _
    · next hp =>
      rw [hp] at hpick
      exact nextCanonical_next (State.passTime_wf hpick)

theorem step_canonical {s : State} (h : Memory.wf s.mem = true) : NextCanonical (step s) := by
  unfold step State.stepOnce
  split
  · exact State.stepPowered_canonical h
  · split
    · exact exec_canonical (by rwa [State.tick_mem]) _
    · exact nextCanonical_fault _

/-- Settles O7: with power, by what is due (an end in error, the agenda's head, the candidate chosen); without, by POWER_GOOD's row. -/
theorem stepKeepsSafe : Obligations.StepKeepsSafe := fun _ t h ht => step_canonical h t ht

end Sys2Proof.Machine
end

section
/-!
O2, O1, O3: the word of an instruction read back, the spec's worked words, and the reserved majors and codes (R33, R34, R49 to R54).
-/

namespace Sys2Proof.Laws.RoundTrip

/-- Every instruction's word is read back as it: the law of its row. -/
theorem statement : ∀ i : Instr, Statement i
  | .add d a b => add d a b | .sub d a b => sub d a b | .mul d a b => mul d a b | .mulh d a b => mulh d a b | .mulhn d a b => mulhn d a b
  | .div d a b => div d a b | .divn d a b => divn d a b | .rem d a b => rem d a b | .remn d a b => remn d a b | .min d a b => min d a b
  | .max d a b => max d a b | .minn d a b => minn d a b | .maxn d a b => maxn d a b | .and d a b => and d a b | .or d a b => or d a b
  | .xor d a b => xor d a b | .andn d a b => andn d a b | .shl d a b => shl d a b | .shr d a b => shr d a b | .sar d a b => sar d a b
  | .seq d a b => seq d a b | .sne d a b => sne d a b | .slt d a b => slt d a b | .sltn d a b => sltn d a b | .sel d a b => sel d a b
  | .clz d a => clz d a | .ctz d a => ctz d a | .popc d a => popc d a | .brev d a => brev d a | .bfx d a pos len => bfx d a pos len
  | .bfi d a pos len => bfi d a pos len | .addi d a imm => addi d a imm | .andi d a imm => andi d a imm | .ori d a imm => ori d a imm
  | .xori d a imm => xori d a imm | .shli d a n => shli d a n | .shri d a n => shri d a n | .sari d a n => sari d a n
  | .slti d a imm => slti d a imm | .movi d imm => movi d imm | .addpc d imm => addpc d imm | .sfaddF64 d a b => sfaddF64 d a b
  | .sfsubF64 d a b => sfsubF64 d a b | .sfmulF64 d a b => sfmulF64 d a b | .sffmaF64 d a b => sffmaF64 d a b
  | .sfdivF64 d a b => sfdivF64 d a b | .sfcmpF64 d a b => sfcmpF64 d a b | .sfcvtF64 d a b => sfcvtF64 d a b
  | .sfaddF32 d a b => sfaddF32 d a b | .sfsubF32 d a b => sfsubF32 d a b | .sfmulF32 d a b => sfmulF32 d a b
  | .sffmaF32 d a b => sffmaF32 d a b | .sfdivF32 d a b => sfdivF32 d a b | .sfcmpF32 d a b => sfcmpF32 d a b
  | .sfcvtF32 d a b => sfcvtF32 d a b | .ldb d sa nd imm => ldb d sa nd imm | .ldbs d sa nd imm => ldbs d sa nd imm
  | .ldh d sa nd imm => ldh d sa nd imm | .ldhs d sa nd imm => ldhs d sa nd imm | .ldw d sa nd imm => ldw d sa nd imm
  | .ldws d sa nd imm => ldws d sa nd imm | .ldd d sa nd imm => ldd d sa nd imm | .stb d sa nd imm => stb d sa nd imm
  | .sth d sa nd imm => sth d sa nd imm | .stw d sa nd imm => stw d sa nd imm | .std d sa nd imm => std d sa nd imm | .br disp => br disp
  | .brc c a disp => brc c a disp | .call disp => call disp | .callr a => callr a | .ret => ret | .jmpr a => jmpr a | .mfs d n => mfs d n
  | .mts n a => mts n a | .nop => nop | .brk code => brk code | .sys code => sys code | .clk d => clk d | .exit => exit | .yield => yield
  | .mfc d n => mfc d n | .mtc n a => mtc n a | .eret => eret | .tlbi a b => tlbi a b | .idle => idle | .vaddF32 d a b => vaddF32 d a b
  | .vsubF32 d a b => vsubF32 d a b | .vmulF32 d a b => vmulF32 d a b | .vfmaF32 d a b => vfmaF32 d a b | .vfmsF32 d a b => vfmsF32 d a b
  | .vfnmaF32 d a b => vfnmaF32 d a b | .vminF32 d a b => vminF32 d a b | .vmaxF32 d a b => vmaxF32 d a b | .vabsF32 d a => vabsF32 d a
  | .vnegF32 d a => vnegF32 d a | .vscaleF32 d a b => vscaleF32 d a b | .vgetexpF32 d a => vgetexpF32 d a | .vrndF32 d a => vrndF32 d a
  | .vclampF32 d a b => vclampF32 d a b | .vmovF32 d a => vmovF32 d a | .vaddF16x2 d a b => vaddF16x2 d a b
  | .vsubF16x2 d a b => vsubF16x2 d a b | .vmulF16x2 d a b => vmulF16x2 d a b | .vfmaF16x2 d a b => vfmaF16x2 d a b
  | .vfmsF16x2 d a b => vfmsF16x2 d a b | .vfnmaF16x2 d a b => vfnmaF16x2 d a b | .vminF16x2 d a b => vminF16x2 d a b
  | .vmaxF16x2 d a b => vmaxF16x2 d a b | .vabsF16x2 d a => vabsF16x2 d a | .vnegF16x2 d a => vnegF16x2 d a
  | .vaddBf16x2 d a b => vaddBf16x2 d a b | .vsubBf16x2 d a b => vsubBf16x2 d a b | .vmulBf16x2 d a b => vmulBf16x2 d a b
  | .vfmaBf16x2 d a b => vfmaBf16x2 d a b | .vfmsBf16x2 d a b => vfmsBf16x2 d a b | .vfnmaBf16x2 d a b => vfnmaBf16x2 d a b
  | .vminBf16x2 d a b => vminBf16x2 d a b | .vmaxBf16x2 d a b => vmaxBf16x2 d a b | .vabsBf16x2 d a => vabsBf16x2 d a
  | .vnegBf16x2 d a => vnegBf16x2 d a | .vcmpf c d a b => vcmpf c d a b | .vaddI32 d a b => vaddI32 d a b | .vsubI32 d a b => vsubI32 d a b
  | .vmulI32 d a b => vmulI32 d a b | .vmulh d a b => vmulh d a b | .vmulhn d a b => vmulhn d a b | .vmad d a b => vmad d a b
  | .vminI32 d a b => vminI32 d a b | .vmaxI32 d a b => vmaxI32 d a b | .vminn d a b => vminn d a b | .vmaxn d a b => vmaxn d a b
  | .vabsI32 d a => vabsI32 d a | .vnegI32 d a => vnegI32 d a | .vaddsI32 d a b => vaddsI32 d a b | .vsubsI32 d a b => vsubsI32 d a b
  | .vavgI32 d a b => vavgI32 d a b | .vaddI16 d a b => vaddI16 d a b | .vsubI16 d a b => vsubI16 d a b | .vaddsI16 d a b => vaddsI16 d a b
  | .vsubsI16 d a b => vsubsI16 d a b | .vaddsN16 d a b => vaddsN16 d a b | .vsubsN16 d a b => vsubsN16 d a b
  | .vavgI16 d a b => vavgI16 d a b | .vavgN16 d a b => vavgN16 d a b | .vaddI8 d a b => vaddI8 d a b | .vsubI8 d a b => vsubI8 d a b
  | .vaddsI8 d a b => vaddsI8 d a b | .vsubsI8 d a b => vsubsI8 d a b | .vaddsN8 d a b => vaddsN8 d a b | .vsubsN8 d a b => vsubsN8 d a b
  | .vavgI8 d a b => vavgI8 d a b | .vavgN8 d a b => vavgN8 d a b | .vand d a b => vand d a b | .vor d a b => vor d a b
  | .vxor d a b => vxor d a b | .vandn d a b => vandn d a b | .vshl d a b => vshl d a b | .vshr d a b => vshr d a b
  | .vsar d a b => vsar d a b | .vpopc d a => vpopc d a | .vclz d a => vclz d a | .vbrev d a => vbrev d a | .vbfx d a b => vbfx d a b
  | .vbfi d a b => vbfi d a b | .vsel k d a b => vsel k d a b | .vcmpi c d a b => vcmpi c d a b | .vcvt c d a sat => vcvt c d a sat
  | .vrcp d a => vrcp d a | .vrsq d a => vrsq d a | .vsqrt d a => vsqrt d a | .vexp2 d a => vexp2 d a | .vlog2 d a => vlog2 d a
  | .vsin d a => vsin d a | .vcos d a => vcos d a | .vtanh d a => vtanh d a | .vsigm d a => vsigm d a | .vdot4i d a b => vdot4i d a b
  | .vdot4n d a b => vdot4n d a b | .vdot2bf d a b => vdot2bf d a b | .vdot2h d a b => vdot2h d a b | .vmovs d a => vmovs d a
  | .vmovsh d a => vmovsh d a | .vlane d => vlane d | .vrand d => vrand d | .vext d a b => vext d a b | .vmovi d imm => vmovi d imm
  | .vshflIdx d a b => vshflIdx d a b | .vshflUp d a b => vshflUp d a b | .vshflDown d a b => vshflDown d a b
  | .vshflXor d a b => vshflXor d a b | .vshflBcast d a b => vshflBcast d a b | .vshflUpImm d a n => vshflUpImm d a n
  | .vshflDownImm d a n => vshflDownImm d a n | .vshflXorImm d a n => vshflXorImm d a n | .vshflBcastImm d a n => vshflBcastImm d a n
  | .vany d a => vany d a | .vall d a => vall d a | .vballot d a => vballot d a | .vmatch d a => vmatch d a | .vred o d a => vred o d a
  | .vscan o d a => vscan o d a | .vtopk k d a b => vtopk k d a b | .brv k disp => brv k disp | .jpt disp => jpt disp | .join => join
  | .bany k disp => bany k disp | .ball k disp => ball k disp | .cjoin a => cjoin a | .cleave a => cleave a | .carrive a => carrive a
  | .cwait a => cwait a | .csync a => csync a | .ccount d a => ccount d a | .setfmt imm => setfmt imm | .settile imm => settile imm
  | .vldb d sa b nd sc => vldb d sa b nd sc | .vldbs d sa b nd sc => vldbs d sa b nd sc | .vldh d sa b nd sc => vldh d sa b nd sc
  | .vldhs d sa b nd sc => vldhs d sa b nd sc | .vldw d sa b nd sc => vldw d sa b nd sc | .vldd d sa b nd sc => vldd d sa b nd sc
  | .vldq d sa b nd sc => vldq d sa b nd sc | .vstb d sa b nd sc => vstb d sa b nd sc | .vsth d sa b nd sc => vsth d sa b nd sc
  | .vstw d sa b nd sc => vstw d sa b nd sc | .vstd d sa b nd sc => vstd d sa b nd sc | .vstq d sa b nd sc => vstq d sa b nd sc
  | .amoa o d b sa ret => amoa o d b sa ret | .amol o d b sa ret => amol o d b sa ret | .samoadd d a b => samoadd d a b
  | .samocas d a b => samocas d a b | .samoswap d a b => samoswap d a b | .samomax d a b => samomax d a b | .waitc c a b => waitc c a b
  | .fence => fence | .cline a => cline a | .pf a => pf a | .gaddr d a => gaddr d a | .copy z d a b => copy z d a b
  | .copyr o d a b => copyr o d a b | .tcopy d a b => tcopy d a b | .tcopyIn d a b => tcopyIn d a b | .tcopyOut d a b => tcopyOut d a b
  | .shpw d a => shpw d a | .shpi a => shpi a | .sealB d => sealB d | .waitb a => waitb a | .mma d a b => mma d a b
  | .mmam d a b => mmam d a b | .mmas d a b => mmas d a b | .mma2 d a b => mma2 d a b | .acld d a b => acld d a b
  | .acst d a b => acst d a b | .acz a b => acz a b | .mrel => mrel | .layer a b => layer a b | .layerx2 a b => layerx2 a b
  | .layert a b => layert a b | .rceq d a => rceq d a | .rcepin a => rcepin a | .rceunpin a => rceunpin a | .bsq a b => bsq a b
  | .ways d a b => ways d a b | .waysrel a => waysrel a | .launch a b => launch a b | .migrate a => migrate a | .home => home
  | .pfx k z rm vc => pfx k z rm vc | .ord scope order nd => ord scope order nd | .limm high => limm high | .hint kind arg => hint kind arg
  | .bwid a => bwid a | .bnot a d => bnot a d | .band a b d => band a b d | .bor a b d => bor a b d | .bxor a b d => bxor a b d
  | .badd a b d => badd a b d | .bsub a b d => bsub a b d | .bcmplt a b d => bcmplt a b d | .bcmpeq a b d => bcmpeq a b d
  | .bsel a b d => bsel a b d | .bshl a b d => bshl a b d | .bshr a b d => bshr a b d | .bpopc a d => bpopc a d | .bcopy a d => bcopy a d
  | .bset b d => bset b d | .bcount a d => bcount a d | .bend => bend | .circleWake p => circleWake p | .waitbWake p => waitbWake p
  | .idleWake p => idleWake p | .yieldHoldExpire p => yieldHoldExpire p | .pathOverdue p => pathOverdue p | .ringCycle => ringCycle
  | .injectorLapStart => injectorLapStart | .pledgeRaise core => pledgeRaise core | .priceTableUpdate t => priceTableUpdate t
  | .setPowerLimit watts => setPowerLimit watts | .setWfw w => setWfw w | .setClusterFrequency cl mhz => setClusterFrequency cl mhz
  | .fllStep cl => fllStep cl | .droopTrip cl => droopTrip cl | .droopClear cl => droopClear cl | .boostStep g core => boostStep g core
  | .boostReturn core => boostReturn core | .engineRampComplete core => engineRampComplete core
  | .engineRampExpire core => engineRampExpire core | .tailDoorbell q v size => tailDoorbell q v size
  | .headRegisterWrite q v => headRegisterWrite q v | .cardFetch q => cardFetch q | .gangPlace q => gangPlace q
  | .gangRetire g => gangRetire g | .launchPost q => launchPost q | .gclkAdvance g => gclkAdvance g | .tclkAdvance part => tclkAdvance part
  | .epochAdvance inst => epochAdvance inst | .rateRemeasure inst req => rateRemeasure inst req
  | .penaltyWindowClose inst part => penaltyWindowClose inst part | .loadReturn n => loadReturn n
  | .storePerform g t n => storePerform g t n | .crossDomainWriteApply dom n => crossDomainWriteApply dom n
  | .monitorFire w => monitorFire w | .monitorPoll w => monitorPoll w | .translationWalkComplete n => translationWalkComplete n
  | .copyElement w n => copyElement w n | .copyComplete w => copyComplete w | .orderedGroupAdd w => orderedGroupAdd w
  | .replayEntryRun g n => replayEntryRun g n | .leaseStart core => leaseStart core | .accumulationStep core => accumulationStep core
  | .leaseExpire core => leaseExpire core | .matrixComplete w => matrixComplete w | .adapterStage w => adapterStage w
  | .tilePassStart w n => tilePassStart w n | .tilePassComplete w n => tilePassComplete w n | .layerComplete w => layerComplete w
  | .rceProbePass stack tile => rceProbePass stack tile | .epochPublish stack => epochPublish stack
  | .tileRefresh stack tile => tileRefresh stack tile | .pinLapse g region => pinLapse g region
  | .fieldConversionComplete w => fieldConversionComplete w | .bsqJobStart w => bsqJobStart w | .bsqJobComplete w => bsqJobComplete w
  | .waysrelRelease w => waysrelRelease w | .rowActivation stack row source => rowActivation stack row source
  | .activationIntervalEnd stack row => activationIntervalEnd stack row | .sequencerWatchdogReset stack => sequencerWatchdogReset stack
  | .sequencerResetComplete stack => sequencerResetComplete stack | .nearRegionEnd p => nearRegionEnd p | .timerCompare => timerCompare
  | .slotStart => slotStart | .saveComplete g => saveComplete g | .saveForce g => saveForce g
  | .drain scope deadline => drain scope deadline | .drainDeadline scope => drainDeadline scope | .resume scope => resume scope
  | .saveCommand part => saveCommand part | .gangResume g => gangResume g | .clusterLendable cl => clusterLendable cl
  | .switchGroupBind members leader => switchGroupBind members leader | .switchTickSend => switchTickSend
  | .switchTickReceive slot => switchTickReceive slot | .savedMessage m forced => savedMessage m forced
  | .setSlotLength us => setSlotLength us | .poolEntryRelease pool part => poolEntryRelease pool part
  | .partitionActivate part pcb => partitionActivate part pcb | .partitionDeactivate part => partitionDeactivate part
  | .update part pcb => update part pcb | .queueEnable q desc => queueEnable q desc | .queueDisable q => queueDisable q
  | .keyMapMove unit slot => keyMapMove unit slot | .usageIntervalClose part => usageIntervalClose part
  | .signatureRecordWrite part => signatureRecordWrite part | .logsign part => logsign part | .loghead part v => loghead part v
  | .frhead part v => frhead part v | .frreplay part v => frreplay part v | .frfail part v => frfail part v
  | .registerWrite vf off v => registerWrite vf off v | .hostBar2Write vf off data => hostBar2Write vf off data
  | .hostBar2Read vf off len => hostBar2Read vf off len | .vfFlr vf => vfFlr vf | .flitReceive port flit => flitReceive port flit
  | .portFail port => portFail port | .routeLossTimeout m => routeLossTimeout m | .setModnum m => setModnum m | .powerGood => powerGood
  | .bootStepComplete ok => bootStepComplete ok | .cert => cert | .attest part nonce => attest part nonce
  | .imageKeyRegister hash => imageKeyRegister hash | .imgload image => imgload image | .region r parts => region r parts
  | .powerSample watts => powerSample watts | .thermalThrottle sensor => thermalThrottle sensor | .throttleStep => throttleStep
  | .thermalShutdown sensor => thermalShutdown sensor | .powerLoss => powerLoss | .portTrained port => portTrained port

/-- Settles O2, by the law of each row. -/
theorem encodeDecodeAgree : Obligations.EncodeDecodeAgree := statement

/-- Settles O1: each word is the one the encoder gives its instruction, and is read back as that. -/
theorem specWordsDecode : Obligations.SpecWordsDecode :=
  ⟨std 3 2 15 0 rfl _ rfl, bfx 5 6 8 12 rfl _ rfl, vtopk 3 16 2 3 rfl _ rfl, sealB 20 rfl _ rfl, mma 20 21 22 rfl _ rfl,
    launch 5 6 rfl _ rfl, badd 0 16 32 rfl _ rfl⟩

end Sys2Proof.Laws.RoundTrip
end

section
/-!
O3: the reserved majors and micro-op codes (R52, R53).
-/

namespace Sys2Proof

/-- A word's bits read as a bit vector's field. -/
theorem bitsOf_eq_extractLsb' (w : BitVec 32) (lo n : Nat) (hn : 0 < n) : bitsOf w.toNat (lo + n - 1) lo = (w.extractLsb' lo n).toNat := by
  rw [bitsOf, BitVec.extractLsb'_toNat, Nat.shiftRight_eq_div_pow, show lo + n - 1 + 1 - lo = n by omega]

/-- The reserved majors (R52). -/
def reservedMajors : List Nat :=
  [0] ++ (List.range 18).map (0x2E + ·) ++ [0x4C, 0x4D, 0x4E, 0x4F, 0x5F] ++ (List.range 6).map (0x6A + ·) ++ (List.range 12).map (0x74 + ·)

/-- The reserved micro-op codes (R53). -/
def reservedMicroCodes : List Nat := [0] ++ (List.range 14).map (18 + ·)

/-- No major that has a table is reserved. -/
theorem decodeFields_reserved {w : Nat} (h : bitsOf w 31 25 ∈ reservedMajors) : decodeFields w = .error .reservedMajor := by
  unfold decodeFields
  generalize bitsOf w 31 25 = m at h
  split
  pick_goal -1
  · rfl
  all_goals exact absurd h (by decide)

/-- No code of a micro-op is reserved. -/
theorem decodeMicro_reserved {w : Nat} (h : bitsOf w 31 27 ∈ reservedMicroCodes) : decodeMicro w = .error .reservedMajor := by
  unfold decodeMicro
  generalize bitsOf w 31 27 = m at h
  split
  pick_goal -1
  · rfl
  all_goals exact absurd h (by decide)

/-- Settles O3: a reserved code falls past every case of the decoder. -/
theorem reservedWordsRefused : Obligations.ReservedWordsRefused := by
  refine ⟨fun w h => ?_, fun w h => ?_⟩
  · rw [← bitsOf_eq_extractLsb' w 25 7 (by decide)] at h
    rw [decodeWord, decodeFields_reserved h, bind1]
  · rw [← bitsOf_eq_extractLsb' w 27 5 (by decide)] at h
    exact decodeMicro_reserved h

end Sys2Proof
end

section
/-!
O47: the micro-ops of a running job (R53, R54, R416, R419).
-/

namespace Sys2Proof.Machine

/-! ### The stacks of a job and the rows of its field -/

theorem State.part_id (s : State) (p : Nat) : (s.part p).id = p := findD_key Partition.id p { id := p } rfl s.parts

/-- The fields of a partition after one of them has changed. -/
theorem State.fields_updField (s : State) (part slot : Nat) (g : FieldSlot → FieldSlot) (p : Nat) :
    ((s.updField part slot g).part p).fields = if p = part then (s.part p).fields.modify slot g else (s.part p).fields := by
  unfold State.updField
  rw [State.part_setPart]
  dsimp only
  rw [State.part_id]
  split
  next h => rw [h]
  next => rfl

/-- A change of a field that keeps its parts leaves every job its stacks. -/
theorem State.jobStacks_updField (s : State) (part slot : Nat) {g : FieldSlot → FieldSlot} (hg : ∀ f, (g f).parts = f.parts) (x : Work)
    (j : JobWork) : (s.updField part slot g).jobStacks x j = s.jobStacks x j := by
  unfold State.jobStacks
  rw [State.fields_updField]
  by_cases hp : x.part = part
  · rw [if_pos hp, List.getElem?_modify]
    cases (s.part x.part).fields[j.field]? with
    | none => rfl
    | some f => by_cases hs : slot = j.field <;> simp [hs, hg]
  · rw [if_neg hp]

/-- The names of rows that hold errors are no part of a job. -/
theorem State.jobStacks_clearRows (s : State) (part slot : Nat) (rows : Nat → Nat → Bool) (x : Work) (j : JobWork) :
    (s.clearRows part slot rows).jobStacks x j = s.jobStacks x j := by
  unfold State.clearRows
  split <;> rfl

/-! ### One micro-op -/

/-- The rows a micro-op writes in a field's parts `ks`, their parity made anew unless one bit line is written (BCOUNT; R416, R419). -/
def State.microWritten (s : State) (x : Work) (j : JobWork) (f : FieldSlot) (ks : List Nat) (op d : Nat) (rows : List Nat) : State :=
  let m := lanesOfParts f.parts.length ks
  let wm := if op = 16 then m &&& (2 ^ (768 * f.parts.length) - 1) else m
  let z := if rows = [] then s else s.updField x.part j.field fun f => { f with rows := putRows f.rows wm d rows }
  if op = 16 then z else z.clearRows x.part j.field fun p r => ks.contains p && decide (d ≤ r) && decide (r < d + rows.length)

theorem State.jobStacks_microWritten (s : State) (x : Work) (j : JobWork) (f : FieldSlot) (ks : List Nat) (op d : Nat) (rows : List Nat)
    (y : Work) (i : JobWork) : (s.microWritten x j f ks op d rows).jobStacks y i = s.jobStacks y i := by
  unfold State.microWritten
  dsimp only
  split <;> split <;> simp only [State.jobStacks_clearRows, State.jobStacks_updField, implies_true]

/-- The sequencers of some stacks have made progress (R516). -/
def State.progressed (s : State) (hs : List Nat) : State := hs.foldl (fun s h => s.setPile { s.pile h with progress := s.cycle }) s

/-- A job at its next word, with the width and the flag row of its program (R54). -/
def JobWork.afterMicro (j : JobWork) (op a d : Nat) : JobWork :=
  { j with ix := j.ix + 1, width := if op = 1 then a else j.width, flag := if op = 8 ∨ op = 9 then some d else j.flag }

/-- Rows from one on written in the parts `ks`; the program goes on at its next word, or ends at BEND, at its last word, or with no part
left (R416). -/
def State.microGoes (s : State) (x : Work) (j : JobWork) (f : FieldSlot) (ks : List Nat) (op a d : Nat) (r : Nat × List Nat) : Out :=
  let u := s.microWritten x j f ks op r.1 r.2
  let t := u.progressed (u.jobStacks x j)
  if op = 17 ∨ j.prog.length ≤ j.ix + 1 ∨ ks = [] then .next (t.endJob x (j.afterMicro op a d) [])
  else .next (t.setWork (x.withJob (j.afterMicro op a d)))

/-- A micro-op with a reason of R54 stops the program on every stack. -/
theorem micro_stops {s : State} {x : Work} {j : JobWork} {op a b d : Nat} (hj : s.job? = some (x, j))
    (hw : microWhy op a b d j.width j.flag.isSome ≠ 0) : micro op a b d s =
      .next (s.endJob x j (((s.jobParts x j).map Prod.snd).eraseDups.map fun h => (h, j.ix, microWhy op a b d j.width j.flag.isSome))) := by
  unfold micro
  rw [hj]
  exact if_pos hw

/-- Any other applies on the stacks where no row it reads has a parity error, and the program stops on the rest (R419). -/
theorem micro_goes {s : State} {x : Work} {j : JobWork} {f : FieldSlot} {op a b d : Nat} (hj : s.job? = some (x, j))
    (hf : (s.part x.part).fields[j.field]? = some f) (hw : microWhy op a b d j.width j.flag.isSome = 0) :
    let ps := s.jobParts x j
    let hit := ((ps.filter fun q => (microReads op a b j.width j.flag).any fun r => s.rowBad x.part j.field q.1 r).map Prod.snd).eraseDups
    let ks := (ps.filter fun q => !hit.contains q.2).map Prod.fst
    micro op a b d s = (hit.foldl (fun s h => s.engineCheck x (some (stackPa h, 5))) s).microGoes x
      { j with stops := j.stops ++ hit.map fun h => (h, j.ix, 7) } f ks op a d
      (microResult op a b d j.width j.flag f.parts.length (lanesOfParts f.parts.length ks) f.rows) := by
  unfold micro
  rw [hj]
  dsimp -zeta only
  rw [hf, if_neg (not_not.2 hw)]
  rfl

/-- The lanes of the parts a job covers (R411). -/
def State.jobLanes (s : State) (x : Work) (j : JobWork) (f : FieldSlot) : Nat := lanesOfParts f.parts.length ((s.jobParts x j).map Prod.fst)

/-- With no parity error it writes its rows in every part of the job. -/
theorem micro_writes {s : State} {x : Work} {j : JobWork} {f : FieldSlot} {op a b d : Nat} {rows : List Nat} (hj : s.job? = some (x, j))
    (hf : (s.part x.part).fields[j.field]? = some f) (hw : microWhy op a b d j.width j.flag.isSome = 0)
    (hr : ∀ q ∈ s.jobParts x j, ∀ r ∈ microReads op a b j.width j.flag, s.rowBad x.part j.field q.1 r = false)
    (hm : microResult op a b d j.width j.flag f.parts.length (s.jobLanes x j f) f.rows = (d, rows)) :
    let t := (s.microWritten x j f ((s.jobParts x j).map Prod.fst) op d rows).progressed (s.jobStacks x j)
    let k := j.afterMicro op a d
    micro op a b d s =
      .next (if op = 17 ∨ j.prog.length ≤ j.ix + 1 ∨ s.jobParts x j = [] then t.endJob x k [] else t.setWork (x.withJob k)) := by
  have hhit : ((s.jobParts x j).filter fun q => (microReads op a b j.width j.flag).any fun r => s.rowBad x.part j.field q.1 r) = [] := by
    simpa [List.filter_eq_nil_iff] using fun p h q => hr (p, h) q
  have hks : ((s.jobParts x j).filter fun q => !([] : List Nat).contains q.2) = s.jobParts x j := by simp
  rw [micro_goes hj hf hw]
  rw [State.jobLanes] at hm
  simp only [hhit, hks, hm, List.map_nil, List.eraseDups_nil, List.foldl_nil, List.append_nil, State.microGoes,
    State.jobStacks_microWritten, List.map_eq_nil_iff]
  split <;> rfl

/-! ### The rows of each micro-op -/

/-- The rows of a group in some lanes, as numbers read off one by one. -/
theorem groupAt_and (rows : List Nat) (r w m : Nat) :
    (groupAt rows r w).map (fun x => x &&& m) = (List.range w).map fun k => rows.getD (r + k) 0 &&& m := by
  rw [groupAt, List.map_map]
  rfl

/-- Two groups taken row by row. -/
theorem zipWith_groups (g h : Nat → Nat) (f : Nat → Nat → Nat) (w : Nat) :
    ((List.range w).map g).zipWith f ((List.range w).map h) = (List.range w).map fun k => f (g k) (h k) := by
  rw [List.zipWith_map, List.zipWith_self]

/-- What a micro-op's rows and fields make of the state, where `t` and `k` are the state and the job it leaves. -/
theorem micro_ends {s t : State} {x : Work} {j k : JobWork} {f : FieldSlot} {i : Instr} {op a b d : Nat} {rows : List Nat}
    (hj : s.job? = some (x, j)) (hf : (s.part x.part).fields[j.field]? = some f) (hx : exec i s = micro op a b d s)
    (ht : t = (s.microWritten x j f ((s.jobParts x j).map Prod.fst) op d rows).progressed (s.jobStacks x j)) (hk : k = j.afterMicro op a d)
    (hm : microResult op a b d j.width j.flag f.parts.length (s.jobLanes x j f) f.rows = (d, rows)) :
    let why := microWhy op a b d j.width j.flag.isSome
    (why ≠ 0 → exec i s = .next (s.endJob x j (((s.jobParts x j).map Prod.snd).eraseDups.map fun h => (h, j.ix, why)))) ∧
    (why = 0 → (∀ q ∈ s.jobParts x j, ∀ r ∈ microReads op a b j.width j.flag, s.rowBad x.part j.field q.1 r = false) →
      exec i s =
        .next (if op = 17 ∨ j.prog.length ≤ j.ix + 1 ∨ s.jobParts x j = [] then t.endJob x k [] else t.setWork (x.withJob k))) :=
  ⟨fun hw => hx.trans (micro_stops hj hw), fun hw hr => by rw [hx, hk, ht]; exact micro_writes hj hf hw hr hm⟩

/-- Settles O47: a reason of R54 stops the program; otherwise each micro-op's rows are those of its result. -/
theorem microOps : Obligations.MicroOps := by
  intro s x j f a b d op i rows ps m w row each as bs flag wm z fa fb fd c t k hj hf hi
  have one (r : List Nat → List Nat) : (d.toNat, r ((groupAt f.rows a.toNat w).map (fun x => x &&& m))) = (d.toNat, r as) := by
    rw [groupAt_and]
  have two (r : List Nat → List Nat → List Nat) : (d.toNat, r ((groupAt f.rows a.toNat w).map (fun x => x &&& m))
      ((groupAt f.rows b.toNat w).map (fun x => x &&& m))) = (d.toNat, r as bs) := by
    rw [groupAt_and, groupAt_and]
  have zips (g : Nat → Nat → Nat) := (two fun p q => p.zipWith g q).trans (congrArg (Prod.mk d.toNat) (zipWith_groups _ _ g w))
  simp only [List.mem_cons, Prod.mk.injEq, List.not_mem_nil, or_false] at hi
  rcases hi with ⟨rfl, rfl, rfl⟩ | ⟨rfl, rfl, rfl⟩ | ⟨rfl, rfl, rfl⟩ | ⟨rfl, rfl, rfl⟩ | ⟨rfl, rfl, rfl⟩ | ⟨rfl, rfl, rfl⟩ |
    ⟨rfl, rfl, rfl⟩ | ⟨rfl, rfl, rfl⟩ | ⟨rfl, rfl, rfl⟩ | ⟨rfl, rfl, rfl⟩ | ⟨rfl, rfl, rfl⟩ | ⟨rfl, rfl, rfl⟩ | ⟨rfl, rfl, rfl⟩ |
    ⟨rfl, rfl, rfl⟩ | ⟨rfl, rfl, rfl⟩ | ⟨rfl, rfl, rfl⟩ | ⟨rfl, rfl, rfl⟩
  · exact micro_ends (op := 1) hj hf rfl rfl rfl rfl
  · exact micro_ends (op := 2) hj hf rfl rfl rfl ((one fun p => p.map _).trans (congrArg (Prod.mk d.toNat) (List.map_map ..)))
  · exact micro_ends (op := 3) hj hf rfl rfl rfl (zips _)
  · exact micro_ends (op := 4) hj hf rfl rfl rfl (zips _)
  · exact micro_ends (op := 5) hj hf rfl rfl rfl (zips _)
  · exact micro_ends (op := 6) hj hf rfl rfl rfl (two fun p q => addRows p q 0)
  · exact micro_ends (op := 7) hj hf rfl rfl rfl (two fun p q => addRows p (q.map fun y => m ^^^ y) m)
  · exact micro_ends (op := 8) hj hf rfl rfl rfl (two fun p q => [lessRows m p q 0])
  · exact micro_ends (op := 9) hj hf rfl rfl rfl (two fun p q => [(p.zipWith (fun y z => m ^^^ y ^^^ z) q).foldl (fun y z => y &&& z) m])
  · exact micro_ends (op := 10) hj hf rfl rfl rfl (zips _)
  · exact micro_ends (op := 11) hj hf rfl rfl rfl (one fun p => (List.range w).map fun k => if k < b.toNat then 0 else p.getD (k - b.toNat) 0)
  · exact micro_ends (op := 12) hj hf rfl rfl rfl (one fun p => (List.range w).map fun k => p.getD (k + b.toNat) 0)
  · exact micro_ends (op := 13) hj hf rfl rfl rfl (one (popRows w))
  · exact micro_ends (op := 14) hj hf rfl rfl rfl (one id)
  · exact micro_ends (op := 15) hj hf rfl rfl rfl rfl
  · exact micro_ends (op := 16) hj hf rfl rfl rfl rfl
  · exact micro_ends (op := 17) hj hf rfl rfl rfl rfl

end Sys2Proof.Machine
end

section
/-!
O18: the checks of step 3 and ILLOP (R21, R35, R36, R40 to R43, R50 to R52).
-/

namespace Sys2Proof.Machine

/-! ### What the checks ask -/

theorem bindOk_iff {f : Form} {n : Nat} {a : Pend} : bindOk f n a = true ↔
    (∀ p, a.pfx = some p → pfxOk f n p = true) ∧ (a.ord ≠ none → takesOrd f = true) ∧ (takesOrd f = true → orderOk f a.bound = true) ∧
      (a.limm ≠ none → takesLimm f = true) := by
  unfold bindOk
  simp only [Bool.and_eq_true, and_assoc]
  refine and_congr ?_ (and_congr ?_ (and_congr ?_ ?_))
  · cases a.pfx <;> simp
  · cases a.ord <;> simp
  · cases takesOrd f <;> simp
  · cases a.limm <;> simp

theorem step3Ok_iff {f : Form} {s : State} : step3Ok f s = true ↔
    f.wf = true ∧ (∀ r ∈ f.vregs, r.1.toNat + r.2 ≤ s.gg.vregs) ∧ (s.gg.sys = false → f.priv = false) ∧
      bindOk f s.gg.vregs s.cur.att = true := by
  have hpriv : (s.gg.sys || !f.priv) = true ↔ (s.gg.sys = false → f.priv = false) := by cases s.gg.sys <;> simp
  simp only [step3Ok, inAlloc, Bool.and_eq_true, List.all_eq_true, decide_eq_true_eq, hpriv, and_assoc]

/-- The instructions of system privilege (R51). -/
theorem privileged_of {i : Instr} (h : (∃ a b, i = .tlbi a b) ∨ (∃ a n, i = .mfc a n ∨ i = .mtc n a) ∨ i = .eret ∨ i = .idle) :
    privileged i = true := by
  rcases h with ⟨_, _, rfl⟩ | ⟨_, _, rfl | rfl⟩ | rfl | rfl <;> rfl

/-- The majors with a field that LIMM widens, beside the scalar accesses (R40). -/
theorem major_of_limmBinds {i : Instr} (h : limmBinds i = true) :
    i.major ∈ [0x05, 0x06, 0x07, 0x08, 0x0C, 0x0D, 0x0E, 0x1B, 0x1C, 0x1D, 0x2D, 0x45, 0x46, 0x48, 0x4A] := by
  unfold limmBinds at h
  split at h
  pick_goal -1
  · cases h
  all_goals exact of_decide_eq_true rfl

theorem takesOrd_iff (f : Form) : takesOrd f = true ↔
    (0x10 ≤ f.maj ∧ f.maj ≤ 0x1A) ∨ (0x50 ≤ f.maj ∧ f.maj ≤ 0x5D) ∨ (f.maj = 0x5E ∧ f.code ≤ 10) ∨ (0x60 ≤ f.maj ∧ f.maj ≤ 0x62) ∨
      (f.maj = 0x66 ∧ f.code ≤ 2) := by
  simp [takesOrd, or_assoc]

theorem isRelease_iff (o : OrdOrder) : isRelease o = true ↔ o = .release ∨ o = .acqRel := by cases o <;> simp [isRelease]

/-- A nonzero rm is illegal where nothing rounds (R41, R194). -/
theorem noRm_of {f : Form} (h : (0x23 ≤ f.maj ∧ f.maj ≤ 0x28) ∨ f.maj = 0x2C ∨ f.maj = 0x2D ∨
    (f.maj = 0x29 ∧ f.code ∈ [5, 7, 10, 11, 13, 15]) ∨ (f.maj = 0x2B ∧ f.code ≤ 1)) : noRm f = true := by
  unfold noRm
  split <;> simp_all
  all_goals omega

/-- The majors without an instruction of three sources (R170). -/
theorem threeSource_of_major {f : Form} (h : f.maj ∈ [0x23, 0x25, 0x27, 0x28, 0x29, 0x2A, 0x2C, 0x2D]) : threeSource f = false := by
  unfold threeSource
  split <;> simp_all

theorem pfxOk_iff {f : Form} {n : Nat} {p : BitVec 25} : pfxOk f n p = true ↔
    (0x20 ≤ f.maj ∧ f.maj ≤ 0x2D) ∧ (threeSource f = false → (pfxOf p).vc = 0) ∧ (noRm f = true → (pfxOf p).rm = 0) ∧
      (threeSource f = true → (pfxOf p).vc.toNat < n) ∧ (f.bare = true → p = 0) := by
  simp only [pfxOk, Bool.and_eq_true, and_assoc, decide_eq_true_eq]
  refine and_congr_right fun _ => and_congr_right fun _ => and_congr ?_ (and_congr ?_ (and_congr ?_ ?_))
  · cases threeSource f <;> simp
  · cases noRm f <;> simp
  · cases threeSource f <;> simp
  · cases f.bare <;> simp

/-! ### Every instruction but the attachment words runs in the frame of its form -/

/-- An outcome is that of a meaning run in the frame of an instruction's form (R19 to R21). -/
def Framed (i : Instr) (s : State) (r : Out) : Prop := ∃ k, r = run i s k

theorem Framed.run {i : Instr} {s : State} (k : Bound → State → Res) : Framed i s (run i s k) := ⟨k, rfl⟩
theorem Framed.of_form {i : Instr} {f : Form} {s : State} (h : f = formOf i) (k : Bound → State → Res) : Framed i s (runForm f s k) :=
  ⟨k, by rw [h]; rfl⟩
theorem Framed.simple {i : Instr} {s : State} {f : Bound → State → State} : Framed i s (simple i s f) := .run _
theorem Framed.cvtS {i : Instr} {s : State} {f d a b} : Framed i s (Machine.cvtS i f d a b s) := .run _
theorem Framed.scalarLoad {i : Instr} {s : State} {z ext d sa nd imm} : Framed i s (Machine.scalarLoad i z ext d sa nd imm s) := .run _
theorem Framed.scalarStore {i : Instr} {s : State} {z d sa nd imm} : Framed i s (Machine.scalarStore i z d sa nd imm s) := .run _
theorem Framed.vectorLoad {i : Instr} {s : State} {z regs ext d sa b nd sc} : Framed i s (Machine.vectorLoad i z regs ext d sa b nd sc s) := .run _
theorem Framed.vectorStore {i : Instr} {s : State} {z regs d sa b nd sc} : Framed i s (Machine.vectorStore i z regs d sa b nd sc s) := .run _
theorem Framed.vectorAtomic {i : Instr} {s : State} {z o opnd d b sa ret} : Framed i s (Machine.vectorAtomic i z o opnd d b sa ret s) := .run _
theorem Framed.scalarAtomic {i : Instr} {s : State} {o d a b} : Framed i s (Machine.scalarAtomic i o d a b s) := .run _
theorem Framed.readReg {i : Instr} {s : State} {d f} : Framed i s (Machine.readReg i d s f) := .run _
theorem Framed.writeReg {i : Instr} {s : State} {a f} : Framed i s (Machine.writeReg i a s f) := .run _
theorem Framed.circleOp {i : Instr} {s : State} {a k} : Framed i s (Machine.circleOp i a s k) := .run _
theorem Framed.binS {i : Instr} {s : State} {d a b f} : Framed i s (Machine.binS i d a b f s) := .simple
theorem Framed.unS {i : Instr} {s : State} {d a f} : Framed i s (Machine.unS i d a f s) := .simple
theorem Framed.immOp {i : Instr} {s : State} {d a imm f} : Framed i s (Machine.immOp i d a imm f s) := .simple
theorem Framed.floatS {i : Instr} {s : State} {f d g} : Framed i s (Machine.floatS i f d g s) := .simple
theorem Framed.roundV {i : Instr} {s : State} {d g} : Framed i s (Machine.roundV i d g s) := .simple
theorem Framed.plainV {i : Instr} {s : State} {d g} : Framed i s (Machine.plainV i d g s) := .simple
theorem Framed.roundP {i : Instr} {s : State} {f d g} : Framed i s (Machine.roundP i f d g s) := .simple
theorem Framed.codeP {i : Instr} {s : State} {d g} : Framed i s (Machine.codeP i d g s) := .simple
theorem Framed.binV {i : Instr} {s : State} {d a b f} : Framed i s (Machine.binV i d a b f s) := .simple
theorem Framed.unV {i : Instr} {s : State} {d a f} : Framed i s (Machine.unV i d a f s) := .simple
theorem Framed.sfuV {i : Instr} {s : State} {d a f} : Framed i s (Machine.sfuV i d a f s) := .simple
theorem Framed.shuffle {i : Instr} {s : State} {k d a n} : Framed i s (Machine.shuffle i k d a n s) := .simple
theorem Framed.copyLanes {i : Instr} {s : State} {f kind z n b addrs opnd} (h : f = formOf i) :
    Framed i s (Machine.copyLanes f kind z n b s addrs opnd) := .of_form h _
theorem Framed.tcopyWith {i : Instr} {s : State} {f kind b look} (h : f = formOf i) :
    Framed i s (Machine.tcopyWith f kind b s look) := .of_form h _
theorem Framed.mmaFamily {i : Instr} {s : State} {fn} {d a b : SReg} (h : formA 0x65 fn d.toNat a.toNat b.toNat = formOf i) :
    Framed i s (Machine.mmaFamily fn d a b s) := .of_form h _
theorem Framed.tileMove {i : Instr} {s : State} {fn} {d a b : SReg} (h : formA 0x65 fn d.toNat a.toNat b.toNat = formOf i) :
    Framed i s (Machine.tileMove fn d a b s) := .of_form h _
theorem Framed.layerForm {i : Instr} {s : State} {fn} {a b : SReg} (h : formA 0x66 fn 0 a.toNat b.toNat = formOf i) :
    Framed i s (Machine.layerForm fn a b s) := .of_form h _

/-- Every instruction of a troupe but the attachment words runs in the frame of its form. -/
theorem exec_framed {i : Instr} (s : State) (h : i.ofTroupe = true) (hm : i.major ∉ [0x70, 0x71, 0x72, 0x73]) : Framed i s (exec i s) := by
  cases i <;> dsimp only [exec]
  case br | brc | call | callr | ret | jmpr | brk | sys | exit | eret | tlbi | idle | brv | jpt | join | bany | ball | setfmt | waitc |
      fence | cline | pf | gaddr => exact .run _
  case sel | bfx | bfi | movi | addpc | sfcmpF64 | sfcmpF32 | nop | clk | yield | vscaleF32 | vrndF32 | vcmpf | vmad | vbfi | vsel |
      vcmpi | vcvt | vsqrt | vmovs | vmovsh | vlane | vrand | vext | vmovi | vany | vall | vballot | vmatch | vred | vscan | vtopk |
      settile => exact .simple
  case sfcvtF64 | sfcvtF32 => exact .cvtS
  case ldb | ldbs | ldh | ldhs | ldw | ldws | ldd => exact .scalarLoad
  case stb | sth | stw | std => exact .scalarStore
  case mfs | mfc => exact .readReg
  case mts | mtc => exact .writeReg
  case cjoin | cleave | carrive | cwait | csync | ccount => exact .circleOp
  case vldb | vldbs | vldh | vldhs | vldw | vldd | vldq => exact .vectorLoad
  case vstb | vsth | vstw | vstd | vstq => exact .vectorStore
  case amoa | amol => exact .vectorAtomic
  case samoadd | samocas | samoswap | samomax => exact .scalarAtomic
  case add | sub | mul | mulh | mulhn | div | divn | rem | remn | min | max | minn | maxn | and | or | xor | andn | shl | shr | sar |
      seq | sne | slt | sltn => exact .binS
  case clz | ctz | popc | brev | shli | shri | sari => exact .unS
  case addi | andi | ori | xori | slti => exact .immOp
  case sfaddF64 | sfsubF64 | sfmulF64 | sffmaF64 | sfdivF64 | sfaddF32 | sfsubF32 | sfmulF32 | sffmaF32 | sfdivF32 => exact .floatS
  case vaddF32 | vsubF32 | vmulF32 | vfmaF32 | vfmsF32 | vfnmaF32 | vdot2bf | vdot2h => exact .roundV
  case vminF32 | vmaxF32 | vabsF32 | vnegF32 | vgetexpF32 | vclampF32 | vmovF32 | vdot4i | vdot4n => exact .plainV
  case vaddF16x2 | vsubF16x2 | vmulF16x2 | vfmaF16x2 | vfmsF16x2 | vfnmaF16x2 | vaddBf16x2 | vsubBf16x2 | vmulBf16x2 | vfmaBf16x2 |
      vfmsBf16x2 | vfnmaBf16x2 => exact .roundP
  case vminF16x2 | vmaxF16x2 | vabsF16x2 | vnegF16x2 | vminBf16x2 | vmaxBf16x2 | vabsBf16x2 | vnegBf16x2 => exact .codeP
  case vaddI32 | vsubI32 | vmulI32 | vmulh | vmulhn | vminI32 | vmaxI32 | vminn | vmaxn | vaddsI32 | vsubsI32 | vavgI32 | vaddI16 |
      vsubI16 | vaddsI16 | vsubsI16 | vaddsN16 | vsubsN16 | vavgI16 | vavgN16 | vaddI8 | vsubI8 | vaddsI8 | vsubsI8 | vaddsN8 | vsubsN8 |
      vavgI8 | vavgN8 | vand | vor | vxor | vandn | vshl | vshr | vsar | vbfx => exact .binV
  case vabsI32 | vnegI32 | vpopc | vclz | vbrev => exact .unV
  case vrcp | vrsq | vexp2 | vlog2 | vsin | vcos | vtanh | vsigm => exact .sfuV
  case vshflIdx | vshflUp | vshflDown | vshflXor | vshflBcast | vshflUpImm | vshflDownImm | vshflXorImm | vshflBcastImm
    => exact .shuffle
  case copy | copyr => exact .copyLanes rfl
  case tcopy | tcopyIn | tcopyOut => exact .tcopyWith rfl
  case shpw | shpi | sealB | acz | mrel | rceq | rcepin | rceunpin | bsq | ways | waysrel | launch | migrate | home =>
    exact .of_form rfl _
  case waitb a =>
    unfold execWaitb
    exact .of_form rfl _
  case mma | mmam | mmas | mma2 => exact .mmaFamily rfl
  case acld | acst => exact .tileMove rfl
  case layer | layerx2 | layert => exact .layerForm rfl
  case pfx | ord | limm | hint => exact absurd (of_decide_eq_true rfl) hm
  all_goals cases h

/-! ### The reasons -/

/-- What a PFX in force must keep to (R40, R41). -/
theorem pfxOk_of_step3Ok {f : Form} {s : State} (h : step3Ok f s = true) (hp : s.cur.att.pfx ≠ none) :
    pfxOk f s.gg.vregs (s.cur.att.pfx.getD 0) = true := by
  obtain ⟨-, -, -, hbind⟩ := step3Ok_iff.1 h
  obtain ⟨hpfx, -⟩ := bindOk_iff.1 hbind
  obtain ⟨p, hp⟩ := Option.ne_none_iff_exists'.1 hp
  rw [hp]
  exact hpfx p hp

/-- The order and nd in force at an instruction that takes ORD (R43). -/
theorem orderOk_of_step3Ok {f : Form} {s : State} (h : step3Ok f s = true) (ht : takesOrd f = true) : orderOk f s.att = true := by
  obtain ⟨-, -, -, hbind⟩ := step3Ok_iff.1 h
  obtain ⟨-, -, horder, -⟩ := bindOk_iff.1 hbind
  exact horder ht

/-- A load neither releases nor has an nd of ORD's; a store neither acquires nor has one (R43). -/
theorem orderOk_load {f : Form} {b : Bound} (h : (0x10 ≤ f.maj ∧ f.maj ≤ 0x16) ∨ (0x50 ≤ f.maj ∧ f.maj ≤ 0x56)) :
    orderOk f b = (!isRelease b.ord.order && b.ord.nd == 15) := by
  unfold orderOk
  rw [if_pos (by simpa using h)]
theorem orderOk_store {f : Form} {b : Bound} (h : (0x17 ≤ f.maj ∧ f.maj ≤ 0x1A) ∨ (0x57 ≤ f.maj ∧ f.maj ≤ 0x5B)) :
    orderOk f b = (!isAcquire b.ord.order && b.ord.nd == 15) := by
  unfold orderOk
  rw [if_neg (by simp; omega), if_pos (by simpa using h)]
/-- WAITC does not release, and FENCE has an order (R43). -/
theorem orderOk_waitc {f : Form} {b : Bound} (h : f.maj = 0x5E ∧ f.code ∈ [4, 5, 6, 7]) : orderOk f b = !isRelease b.ord.order := by
  obtain ⟨hm, hc⟩ := h
  simp only [List.mem_cons, List.not_mem_nil, or_false] at hc
  rcases hc with hc | hc | hc | hc <;> simp [orderOk, hm, hc]
theorem orderOk_fence {f : Form} {b : Bound} (h : f.maj = 0x5E ∧ f.code = 8) : orderOk f b = (b.ord.order != .relaxed) := by
  simp [orderOk, h.1, h.2]

/-- An instruction that step 3 turns away traps ILLOP at its word. -/
theorem exec_illop {i : Instr} {s : State} (ht : i.ofTroupe = true) (hm : i.major ∉ [0x70, 0x71, 0x72, 0x73]) (hl : s.cur.live = true)
    (hn : TrapsNow s) (hf : step3Ok (formOf i) s = false) :
    exec i s = .next (s.takeTrap { cause := 1, pc := s.pc.toNat, word := i.word }) := by
  obtain ⟨k, hk⟩ := exec_framed s ht hm
  rw [hk, run_illop hl hn hf]

theorem step3Ok_of_illFormed {i : Instr} (s : State) (h : i.wellFormed = false) : step3Ok (formOf i) s = false := by
  simp [step3Ok, formOf, h]

/-- Settles O18: the frame turns the instruction away; and each reason contradicts what step 3 asks. -/
theorem illegalInstructions : Obligations.IllegalInstructions := by
  constructor
  · exact fun s i ht hm hl hn hf => exec_illop ht hm hl hn hf
  · intro s i m att p ords o hwhy
    rw [← Bool.not_eq_true]
    intro h
    obtain ⟨-, halloc, hpriv, hbind⟩ := step3Ok_iff.1 h
    obtain ⟨-, hord, -, hlimm⟩ := bindOk_iff.1 hbind
    have hatt : s.att.ord = o := by
      change (s.cur.att.ord.map ordOf).getD {} = o
      dsimp only [o, att]
      cases s.cur.att.ord <;> rfl
    have horder (ht : ords) : orderOk (formOf i) s.att = true := orderOk_of_step3Ok h ((takesOrd_iff (formOf i)).2 ht)
    have hpfx (hp : att.pfx ≠ none) := pfxOk_iff.1 (pfxOk_of_step3Ok h hp)
    rcases hwhy with hw | ⟨r, hr, hlt⟩ | ⟨hs, hi⟩ | ⟨hp, hmaj⟩ | ⟨hp, hrm, hno⟩ | ⟨hp, hvc, hle⟩ | ⟨hp, hvc, hmaj⟩ | ⟨ho, hno⟩ | ⟨hmaj, ho⟩ |
      ⟨hmaj, ho⟩ | ⟨hmaj, hcode, ho⟩ | ⟨hmaj, hcode, ho⟩ | ⟨hl, hmaj⟩
    · exact absurd h (by simp [step3Ok_of_illFormed s hw])
    · exact absurd (halloc r hr) (Nat.not_le.2 hlt)
    · exact absurd (hpriv hs) (by simp [formOf, privileged_of hi])
    · obtain ⟨⟨hlo, hhi⟩, -⟩ := hpfx hp
      exact hmaj.elim (Nat.not_lt.2 hlo) (Nat.not_lt.2 hhi)
    · obtain ⟨-, -, hrm0, -⟩ := hpfx hp
      exact hrm (hrm0 (noRm_of hno))
    · obtain ⟨-, hvc0, -, hlt, -⟩ := hpfx hp
      cases hthree : threeSource (formOf i) with
      | false => exact hvc (hvc0 hthree)
      | true => exact absurd (hlt hthree) (Nat.not_lt.2 hle)
    · obtain ⟨-, hvc0, -⟩ := hpfx hp
      exact hvc (hvc0 (threeSource_of_major hmaj))
    · exact hno ((takesOrd_iff (formOf i)).1 (hord ho))
    · have hok := horder (by omega)
      rw [orderOk_load hmaj, hatt, Bool.and_eq_true, Bool.not_eq_true', beq_iff_eq] at hok
      obtain ⟨hrel, hnd⟩ := hok
      exact ho.elim (fun hr => Bool.false_ne_true (hrel.symm.trans ((isRelease_iff _).2 hr))) (absurd hnd)
    · have hok := horder (by omega)
      rw [orderOk_store hmaj, hatt, Bool.and_eq_true, Bool.not_eq_true', beq_iff_eq] at hok
      obtain ⟨hacq, hnd⟩ := hok
      exact ho.elim (fun ha => Bool.false_ne_true (hacq.symm.trans ((isAcquire_iff _).2 ha))) (absurd hnd)
    · have hok := horder (.inr (.inr (.inl ⟨hmaj, by simp at hcode; omega⟩)))
      rw [orderOk_waitc ⟨hmaj, hcode⟩, hatt, Bool.not_eq_true'] at hok
      exact Bool.false_ne_true (hok.symm.trans ((isRelease_iff _).2 ho))
    · have hok := horder (by omega)
      rw [orderOk_fence ⟨hmaj, hcode⟩, hatt, ho] at hok
      exact Bool.false_ne_true hok
    · have htakes := hlimm hl
      simp only [takesLimm, Bool.or_eq_true, Bool.and_eq_true, decide_eq_true_eq] at htakes
      rcases htakes with hs | hb
      · change 0x10 ≤ m ∧ m ≤ 0x1A at hs
        omega
      · have hin := major_of_limmBinds hb
        simp at hin
        change m = _ ∨ _ at hin
        omega

end Sys2Proof.Machine
end

section
/-!
O10: immediate forms, MOVI, ADDPC and bit fields (R36, R44, R114 to R116).
-/

namespace Sys2Proof.Machine

/-! ### Bit fields (R114) -/

theorem getLsbD_fieldMask (w pos len k : Nat) :
    (fieldMask w pos len).getLsbD k = (decide (k < w) && (decide (pos ≤ k) && decide (k < pos + len))) := by
  rw [fieldMask, BitVec.getLsbD_ofNat, Nat.testBit_mul_two_pow, Nat.testBit_two_pow_sub_one]
  simp only [← Bool.decide_and]
  grind

/-- BFX bit by bit. -/
theorem bfx_eq_ofFnLE {w : Nat} (x : BitVec w) (pos len : Nat) :
    bfx x pos len = BitVec.ofFnLE fun k => decide (k.val < len) && x.getLsbD (pos + k) := by
  apply BitVec.eq_of_getLsbD_eq
  intro k hk
  rw [bfx, BitVec.getLsbD_ushiftRight, BitVec.getLsbD_and, getLsbD_fieldMask, BitVec.getLsbD_ofFnLE, dif_pos hk]
  by_cases h : pos + k < w
  · simp [h, Bool.and_comm]
  · simp [BitVec.getLsbD_of_ge x _ (Nat.le_of_not_lt h)]

/-- BFI bit by bit. -/
theorem bfi_eq_ofFnLE {w : Nat} (z x : BitVec w) (pos len : Nat) :
    bfi z x pos len = BitVec.ofFnLE fun k => if decide (pos ≤ k.val) && decide (k.val < pos + len) then x.getLsbD (k - pos) else z.getLsbD k := by
  apply BitVec.eq_of_getLsbD_eq
  intro k hk
  rw [bfi, BitVec.getLsbD_or, BitVec.getLsbD_and, BitVec.getLsbD_and, BitVec.getLsbD_not, BitVec.getLsbD_shiftLeft, getLsbD_fieldMask,
    BitVec.getLsbD_ofFnLE, dif_pos hk]
  by_cases hin : pos ≤ k ∧ k < pos + len
  · simp [hk, hin.1, hin.2, Nat.not_lt.2 hin.1]
  · have hout : (decide (pos ≤ k) && decide (k < pos + len)) = false := by simpa using hin
    simp [hk, hout]

/-- A field of no bits, or one beyond bit 63, breaks the rule of R36. -/
theorem bitField_illFormed {pos : BitVec 6} {len : BitVec 5} (h : len = 0 ∨ 64 < pos.toNat + len.toNat) :
    (len != 0 && decide (pos.toNat + len.toNat ≤ 64)) = false := by
  rcases h with rfl | h
  · rfl
  · simp [Nat.not_le.2 h]

/-- Settles O10: the value each instruction writes, with its immediate widened behind the LIMM that is bound. -/
theorem immediatesAndBitFields : Obligations.ImmediatesAndBitFields := by
  constructor
  · intro s d a e n f i v x wide wide18 hi h
    have hslt (y : Word64) : (if x.toInt < y.toInt then 1 else 0 : Word64) = ofBool (x.slt y) := by
      simp [ofBool, BitVec.slt]
    simp only [List.mem_cons, Prod.mk.injEq, List.not_mem_nil, or_false] at hi
    rcases hi with ⟨rfl, rfl⟩ | ⟨rfl, rfl⟩ | ⟨rfl, rfl⟩ | ⟨rfl, rfl⟩ | ⟨rfl, rfl⟩ | ⟨rfl, rfl⟩ | ⟨rfl, rfl⟩ | ⟨rfl, rfl⟩ |
      ⟨rfl, rfl⟩ | ⟨rfl, rfl⟩
    · exact immOp_eq h d a (immS · e) (· + ·)
    · exact immOp_eq h d a (immZ · e) (· &&& ·)
    · exact immOp_eq h d a (immZ · e) (· ||| ·)
    · exact immOp_eq h d a (immZ · e) (· ^^^ ·)
    · rw [hslt]
      exact immOp_eq h d a (immS · e) fun y z => ofBool (y.slt z)
    · exact unS_eq h d a (· <<< n.toNat)
    · exact unS_eq h d a (· >>> n.toNat)
    · exact unS_eq h d a (·.sshiftRight n.toNat)
    · exact simple_eq h (fun b t => t.wS d (immS b f)) (by simp [State.pc])
    · rw [← State.bound_pc64]
      exact simple_eq h (fun b t => t.wS d (t.pc64 + immS b f)) (by simp [State.pc])
  · intro s d a pos len i v x inField hi
    simp only [List.mem_cons, Prod.mk.injEq, List.not_mem_nil, or_false] at hi
    have hbad (h : len = 0 ∨ 64 < pos.toNat + len.toNat) : i.wellFormed = false := by
      rcases hi with ⟨rfl, -⟩ | ⟨rfl, -⟩ <;> simp only [Instr.wellFormed, Instr.fieldsOk, bitField_illFormed h, Bool.false_and]
    rcases hi with ⟨rfl, rfl⟩ | ⟨rfl, rfl⟩
    · rw [← bfx_eq_ofFnLE]
      exact ⟨fun _ _ h => unS_eq h d a (bfx · pos.toNat len.toNat),
        fun h hl hn => exec_illop rfl (of_decide_eq_true rfl) hl hn (step3Ok_of_illFormed s (hbad h))⟩
    · rw [← bfi_eq_ofFnLE]
      exact ⟨fun _ _ h => binS_eq h d d a (bfi · · pos.toNat len.toNat),
        fun h hl hn => exec_illop rfl (of_decide_eq_true rfl) hl hn (step3Ok_of_illFormed s (hbad h))⟩

end Sys2Proof.Machine
end

section
/-!
O23: the lanes a vector instruction writes (R42).
-/

namespace Sys2Proof.Machine

/-! ### The lanes of m, and those that zeroing clears -/

theorem getLsbD_wmask (b : Bound) (s : State) (l : Nat) : (wmask b s).getLsbD l =
    (s.cur.mask.getLsbD l && b.pfx.all fun x => x.k == 0 || (s.tr.kreg.get x.k.toFin).getLsbD l) := by
  unfold wmask
  cases b.pfx with
  | none => simp [State.pmask]
  | some x =>
    change (if x.k = 0 then s.pmask else s.rK x.k &&& s.pmask).getLsbD l = (s.cur.mask.getLsbD l && (x.k == 0 || _))
    by_cases hk : x.k = 0
    · simp [hk, State.pmask]
    · rw [if_neg hk, beq_eq_false_iff_ne.2 hk, State.rK, if_neg hk, BitVec.getLsbD_and, Bool.and_comm, Bool.false_or, State.pmask]

theorem getLsbD_zmask (b : Bound) (s : State) (l : Fin 32) :
    (zmask b s).getLsbD l = (s.cur.mask.getLsbD l && b.pfx.any (·.z) && !(wmask b s).getLsbD l) := by
  unfold zmask
  cases b.pfx with
  | none => simp
  | some x => cases hz : x.z <;> simp [hz, State.pmask]

theorem rV_writeLanes_self (s : State) (b : Bound) (d : VReg) (f : Fin 32 → Word32) (l : Fin 32) : (s.writeLanes b d f).rV d l =
    if (wmask b s).getLsbD l then f l else if s.cur.mask.getLsbD l && b.pfx.any (·.z) then 0 else s.rV d l := by
  rw [State.writeLanes, State.rV_wV_self, BitVec.getLsbD_or, getLsbD_zmask]
  cases (wmask b s).getLsbD l <;> simp

theorem getLsbD_writeMask_self (s : State) (b : Bound) {q : KReg} (hq : q ≠ 0) (g : Fin 32 → Bool) (l : Fin 32) :
    ((s.writeMask b q g).rK q).getLsbD l =
      if (wmask b s).getLsbD l then g l else if s.cur.mask.getLsbD l && b.pfx.any (·.z) then false else (s.rK q).getLsbD l := by
  have hg : (maskOf g).getLsbD l = g l := by rw [maskOf, BitVec.getLsbD_ofFnLE, dif_pos l.isLt]
  rw [State.writeMask, State.rK_wK_self _ hq]
  simp only [BitVec.getLsbD_or, BitVec.getLsbD_and, BitVec.getLsbD_not, getLsbD_zmask, hg]
  cases (wmask b s).getLsbD l <;> cases s.cur.mask.getLsbD l <;> simp [Bool.and_comm]

/-! ### What a write leaves alone -/

theorem sameStatus_writeLanes (s : State) (b : Bound) (d : VReg) (f : Fin 32 → Word32) : SameStatus s (s.writeLanes b d f) := by
  simp [SameStatus, State.writeLanes]
theorem sameStatus_writeMask (s : State) (b : Bound) (q : KReg) (g : Fin 32 → Bool) : SameStatus s (s.writeMask b q g) := by
  simp [SameStatus, State.writeMask]
theorem sameBytes_writeLanes (s : State) (b : Bound) (d : VReg) (f : Fin 32 → Word32) : SameBytes s (s.writeLanes b d f) :=
  ⟨fun _ _ _ _ => rfl, rfl, rfl, rfl⟩
theorem sameBytes_writeMask (s : State) (b : Bound) (q : KReg) (g : Fin 32 → Bool) : SameBytes s (s.writeMask b q g) :=
  ⟨fun _ _ _ _ => rfl, rfl, rfl, rfl⟩

theorem State.rK_writeMask_other (s : State) (b : Bound) {q r : KReg} (h : r ≠ q) (g : Fin 32 → Bool) : (s.writeMask b q g).rK r = s.rK r := by
  have hne : q.toNat ≠ r.toNat := fun e => h (BitVec.eq_of_toNat_eq e.symm)
  rw [State.rK_eq, State.rK_eq, State.writeMask, State.wK_kreg]
  simp only [Vector.getElem_set_ne _ _ hne, State.pmask, State.wK_cur]

/-- Settles O23: a PFX gives the lanes of m and whether zeroing is on; one register is written. -/
theorem laneMask : Obligations.LaneMask := by
  intro s p d q f g l b k z inM t u
  have hm : (wmask b s).getLsbD l = inM l := by
    rw [getLsbD_wmask]
    cases p <;> rfl
  have hz : b.pfx.any (·.z) = z := by cases p <;> rfl
  refine ⟨?_, ?_, fun _ => rfl, fun _ => rfl, sameStatus_writeLanes .., sameBytes_writeLanes .., ?_, ?_, fun _ => rfl, fun _ => rfl,
    sameStatus_writeMask .., sameBytes_writeMask ..⟩
  · rw [rV_writeLanes_self, hm, hz]
  · exact fun r hr => State.rV_wV_other _ _ _ _ hr
  · exact fun hq => by rw [getLsbD_writeMask_self s b hq, hm, hz]
  · exact fun r hr => State.rK_writeMask_other s b hr g

end Sys2Proof.Machine
end

section
/-!
O28: moves between registers and lanes, VRAND, VCVT and the functions (R183 to R193).
-/

namespace Sys2Proof.Machine

theorem extractLsb'_low (x : Word64) : x.extractLsb' 0 32 = x.setWidth 32 := BitVec.eq_of_toNat_eq (by simp)
theorem extractLsb'_high (x : Word64) : x.extractLsb' 32 32 = (x >>> 32).setWidth 32 := BitVec.eq_of_toNat_eq (by simp)

/-- The value a lane draws first is the Mix of its counter (R92). -/
theorem State.drawn_zero (s : State) (l : Fin 32) : s.drawn l 0 = mix s.gg.srseed (s.gid l) (s.tr.draw.get l) := by
  rw [State.drawn, BitVec.add_zero]

theorem State.bound_rho_lane (s : State) (l : Fin 32) : s.bound.rho l = s.rho l := funext fun k => s.bound_rho l k

theorem exec_vrand {s : State} {d : VReg} (h : RunsOn (.vrand d) s) : exec (.vrand d) s =
    .next ((s.bound.writeLanes s.att d fun l => (s.drawn l 0).setWidth 32).advanceDraws (wmask s.att s) 1).onward := by
  let f (b : Bound) (t : State) := (t.writeLanes b d fun l => (t.drawn l 0).extractLsb' 0 32).advanceDraws (wmask b t) 1
  have hx := simple_eq h f (by simp [f, State.pc])
  simp only [f, extractLsb'_low, State.bound_drawn, wmask_bound] at hx
  exact hx

theorem exec_vcvt {s : State} {c : CvtCode} {d a : VReg} {sat : BitVec 1} (h : RunsOn (.vcvt c d a sat) s) :
    let f (j : Nat) (l : Fin 32) := cvtLane c (sat == 1) (vmode s.att s) (s.rho l) (fun k => s.rV (VReg.plus a k) l) j
    let t := s.bound.writeGroup s.att d f c.dstCount
    exec (.vcvt c d a sat) s = .next (if cvtDraws c = 0 then t else t.drawFor s.att (cvtDraws c)).onward := by
  let f (b : Bound) (t : State) : State :=
    let u := t.writeGroup b d (fun j l => cvtLane c (sat == 1) (vmode b t) (t.rho l) (fun k => t.rV (VReg.plus a k) l) j) c.dstCount
    if cvtDraws c = 0 then u else u.drawFor b (cvtDraws c)
  have hf : (f s.att s.bound).pc = s.pc :=
    (((GroupChange.whole d _ s.bound s.att _).drawForIf s.att (cvtDraws c)).keeps (·.pc) fun _ => rfl).trans s.bound_pc
  have hx := simple_eq h f hf
  simp only [f, vmode_bound, State.bound_rho_lane, State.bound_rV] at hx
  exact hx

/-- Settles O28: what each instruction writes, and what VRAND and VCVT draw. -/
theorem movesAndConversions : Obligations.MovesAndConversions := by
  constructor
  · intro s d e a w f i v wide next
    refine ⟨fun hi h => ?_, fun h => ?_, fun h => ?_⟩
    · have lanes (g : Bound → State → Fin 32 → Word32) (hg : g s.att s.bound = v)
          (hx : exec i s = simple i s fun b t => t.writeLanes b d (g b t)) : exec i s = .next (s.bound.writeLanes s.att d v).onward := by
        rw [hx, writeLanes_eq h, hg]
      simp only [List.mem_cons, Prod.mk.injEq, List.not_mem_nil, or_false] at hi
      rcases hi with ⟨rfl, rfl⟩ | ⟨rfl, rfl⟩ | ⟨rfl, rfl⟩ | ⟨rfl, rfl⟩
      · exact lanes (fun _ t _ => (t.rS a).extractLsb' 0 32) (by simp only [extractLsb'_low, State.bound_rS]) rfl
      · exact lanes (fun _ t _ => (t.rS a).extractLsb' 32 32) (by simp only [extractLsb'_high, State.bound_rS]) rfl
      · exact lanes (fun _ _ l => .ofNat 32 l) rfl rfl
      · exact lanes (fun b _ _ => (immS b f).setWidth 32) rfl rfl
    · rw [exec_vrand h]
      simp only [State.drawn_zero]
      rfl
    · have hx := simple_eq h (fun _ t => t.wS e ((t.rV w (Fin.ofNat 32 (t.rS a).toNat)).setWidth 64)) (by simp [State.pc])
      simp only [State.bound_rV, State.bound_rS] at hx
      exact hx
  · intro s c d a sat i f m n t
    refine ⟨fun h => ?_, fun hi h => ?_⟩
    · have hn : cvtDraws c = n := by cases c <;> rfl
      rw [exec_vcvt h, hn, State.drawFor_writeGroup, vmode_bound, wmask_bound, ite_and]
      by_cases hz : n = 0
      · rw [if_pos hz, if_neg (not_not.mpr hz)]
      · rw [if_neg hz, if_pos hz]
    · simp only [List.mem_cons, Prod.mk.injEq, List.not_mem_nil, or_false] at hi
      rcases hi with ⟨rfl, rfl⟩ | ⟨rfl, rfl⟩ | ⟨rfl, rfl⟩ | ⟨rfl, rfl⟩ | ⟨rfl, rfl⟩ | ⟨rfl, rfl⟩ | ⟨rfl, rfl⟩ | ⟨rfl, rfl⟩ <;>
        exact sfuV_eq h d a _

end Sys2Proof.Machine
end

section
/-!
O11: scalar floating point (R117 to R121).
-/

namespace Sys2Proof.Machine

/-! ### Operands, results and codes (R117 to R119) -/

theorem sval_fp64 (v : Word64) : sval fp64 v = fp64.unpack v.toNat := rfl
theorem sval_fp32 (v : Word64) : sval fp32 v = fp32.unpack (v.toNat % 2 ^ 32) := if_neg (by decide)

/-- The four codes of R119. -/
theorem cmpCode_eq (u w : FVal) :
    cmpCode u w = if u.cmp w = some .eq then 1 else if u.cmp w = some .lt then 2 else if u.cmp w = some .gt then 4 else 8 := by
  unfold cmpCode
  rcases u.cmp w with - | - | - | - <;> rfl

/-- A float operation writes its exact value, rounded once (R118). -/
theorem floatS_value {i : Instr} {s : State} (h : RunsOn i s) {f : Fmt} {d : SReg} {g : RMode → State → FVal} {u : FVal}
    (hu : g (smode s.bound) s.bound = u) :
    floatS i f d g s = .next (s.bound.wS d (.ofNat 64 (f.round .plain (smode s.bound) 0 u))).onward := hu ▸ floatS_eq h f d g

/-- A float compare writes its code (R119). -/
theorem compareS_code {i : Instr} {s : State} (h : RunsOn i s) {f : Fmt} {d a b : SReg} {v : Word64}
    (hv : cmpCode (sval f (s.bound.rS a)) (sval f (s.bound.rS b)) = v) :
    simple i s (fun _ t => t.wS d (cmpCode (sval f (t.rS a)) (sval f (t.rS b)))) = .next (s.bound.wS d v).onward :=
  hv ▸ simple_eq h (fun _ t => t.wS d (cmpCode (sval f (t.rS a)) (sval f (t.rS b)))) (by simp [State.pc])

/-! ### SFCVT (R120, R121) -/

theorem cvtS_eq {i : Instr} {s : State} (h : RunsOn i s) (f : Fmt) (d a b : SReg) (hc : ¬ ((s.rS b).toNat % 8 = 7 ∨ 16 ≤ (s.rS b).toNat)) :
    cvtS i f d a b s = .next (s.bound.wS d (sfcvt f (s.rS b).toNat (smode s.bound) (s.rS a))).onward :=
  run_done h (by rw [State.bound_rS, State.bound_rS]; exact if_neg hc) (by simp [State.pc])

theorem cvtS_reserved {i : Instr} {s : State} (h : Runs (formOf i) s) (hn : TrapsNow s) (f : Fmt) (d a b : SReg)
    (hc : (s.rS b).toNat % 8 = 7 ∨ 16 ≤ (s.rS b).toNat) :
    cvtS i f d a b s = .next (s.takeTrap { cause := 1, aux := s.rS b, pc := s.pc.toNat, word := i.word }) :=
  run_trap h hn (e := { cause := 1, aux := s.rS b }) (by simp only [State.bound_rS, if_pos hc]; rfl)

/-- Settles O11: the exact value or the code of each operation from its operands read in the format; then SFCVT, by its code. -/
theorem scalarFloatingPoint : Obligations.ScalarFloatingPoint := by
  constructor
  · intro s d a b m i v hm x y z xs ys zs r64 r32 code hi h
    obtain rfl : m = smode s.bound := hm.trans (smode_eq s).symm
    simp only [List.mem_cons, Prod.mk.injEq, List.not_mem_nil, or_false] at hi
    have hx : sval fp64 (s.bound.rS a) = x := by rw [State.bound_rS, sval_fp64]
    have hy : sval fp64 (s.bound.rS b) = y := by rw [State.bound_rS, sval_fp64]
    have hz : sval fp64 (s.bound.rS d) = z := by rw [State.bound_rS, sval_fp64]
    have hxs : sval fp32 (s.bound.rS a) = xs := by rw [State.bound_rS, sval_fp32]
    have hys : sval fp32 (s.bound.rS b) = ys := by rw [State.bound_rS, sval_fp32]
    have hzs : sval fp32 (s.bound.rS d) = zs := by rw [State.bound_rS, sval_fp32]
    clear_value x y z xs ys zs
    rcases hi with ⟨rfl, rfl⟩ | ⟨rfl, rfl⟩ | ⟨rfl, rfl⟩ | ⟨rfl, rfl⟩ | ⟨rfl, rfl⟩ | ⟨rfl, rfl⟩ | ⟨rfl, rfl⟩ | ⟨rfl, rfl⟩ | ⟨rfl, rfl⟩ |
      ⟨rfl, rfl⟩ | ⟨rfl, rfl⟩ | ⟨rfl, rfl⟩ <;>
    dsimp only [exec, execSfaddF64, execSfsubF64, execSfmulF64, execSffmaF64, execSfdivF64, execSfcmpF64, execSfaddF32, execSfsubF32, execSfmulF32,
      execSffmaF32, execSfdivF32, execSfcmpF32]
    · exact floatS_value h (by rw [hx, hy])
    · exact floatS_value h (by rw [hx, hy])
    · exact floatS_value h (by rw [hx, hy])
    · exact floatS_value h (by rw [hx, hy, hz])
    · exact floatS_value h (by rw [hx, hy])
    · exact compareS_code h (by rw [hx, hy, cmpCode_eq])
    · exact floatS_value h (by rw [hxs, hys])
    · exact floatS_value h (by rw [hxs, hys])
    · exact floatS_value h (by rw [hxs, hys])
    · exact floatS_value h (by rw [hxs, hys, hzs])
    · exact floatS_value h (by rw [hxs, hys])
    · exact compareS_code h (by rw [hxs, hys, cmpCode_eq])
  · intro s d a b i wide hi hr c x m own
    have hm : smode s.bound = m := smode_eq s
    have hexec : exec i s = cvtS i (if wide then fp64 else fp32) d a b s := by subst hi; cases wide <;> rfl
    have hx : sval (if wide then fp64 else fp32) (s.rS a) = x := by
      cases wide
      · exact sval_fp32 _
      · exact sval_fp64 _
    rw [hexec]
    refine ⟨fun n v hn hc hp hv => ?_, fun hc ht => cvtS_reserved hr ht _ d a b hc⟩
    have hsat : (c / 8 % 2 = 1) = (8 ≤ c) := by rw [eq_iff_iff]; omega
    simp only [List.mem_cons, Prod.mk.injEq, List.not_mem_nil, or_false] at hv
    rw [cvtS_eq ⟨hr, hp⟩ _ d a b (by omega), hm]
    suffices hs : sfcvt (if wide then fp64 else fp32) c m (s.rS a) = v by rw [← hs]
    unfold sfcvt
    rw [hn, hx]
    simp only [hsat]
    rcases hv with ⟨rfl, rfl⟩ | ⟨rfl, rfl⟩ | ⟨rfl, rfl⟩ | ⟨rfl, rfl⟩ | ⟨rfl, rfl⟩ | ⟨rfl, rfl⟩ | ⟨rfl, rfl⟩
    · rfl
    · rfl
    · rfl
    · rfl
    · cases wide <;> rfl
    · cases wide <;> rfl
    · cases wide <;> rfl

end Sys2Proof.Machine
end

section
/-!
O24: vector integers, whole and packed (R76, R77, R177 to R181).
-/

namespace Sys2Proof.Machine

/-! ### Edge cases of R77 by the library's operations -/

/-- Where equal keys have equal answers, a choice by ≤ is one by <. -/
theorem ite_le_eq_ite_lt {β γ : Type} [LinearOrder β] {m n : β} {p q : γ} (h : m = n → p = q) :
    (if m ≤ n then p else q) = if m < n then p else q := by
  rcases lt_trichotomy m n with hl | rfl | hg
  · rw [if_pos hl.le, if_pos hl]
  · rw [if_pos le_rfl, if_neg (lt_irrefl m), h rfl]
  · rw [if_neg (not_le.2 hg), if_neg (not_lt.2 hg.le)]

theorem mins_eq_ite_slt {w : Nat} (x y : BitVec w) : mins x y = if x.slt y then x else y := by
  simp only [mins, BitVec.slt_iff_toInt_lt]
  exact ite_le_eq_ite_lt BitVec.eq_of_toInt_eq
theorem maxs_eq_ite_slt {w : Nat} (x y : BitVec w) : maxs x y = if x.slt y then y else x := by
  simp only [maxs, BitVec.slt_iff_toInt_lt]
  exact ite_le_eq_ite_lt fun h => (BitVec.eq_of_toInt_eq h).symm
theorem minn_eq_ite_ult {w : Nat} (x y : BitVec w) : minn x y = if x.ult y then x else y := by
  simp only [minn, BitVec.ult_iff_toNat_lt]
  exact ite_le_eq_ite_lt BitVec.eq_of_toNat_eq
theorem maxn_eq_ite_ult {w : Nat} (x y : BitVec w) : maxn x y = if x.ult y then y else x := by
  simp only [maxn, BitVec.ult_iff_toNat_lt]
  exact ite_le_eq_ite_lt fun h => (BitVec.eq_of_toNat_eq h).symm

/-- Clamping to the signed range. -/
theorem clampS_eq (w : Nat) (e : Int) : clampS w e = .ofInt w (max (-(2 ^ (w - 1))) (min (2 ^ (w - 1) - 1) e)) := by
  have hw : (1 : Int) ≤ 2 ^ (w - 1) := one_le_pow₀ (by decide)
  unfold clampS
  generalize (2 : Int) ^ (w - 1) = m at *
  split
  · congr 1
    omega
  · split <;> congr 1 <;> omega

/-- Clamping to the natural range. -/
theorem clampN_eq (w : Nat) (e : Int) : clampN w e = .ofInt w (max 0 (min (2 ^ w - 1) e)) := by
  have hw : (1 : Int) ≤ 2 ^ w := one_le_pow₀ (by decide)
  have htop : BitVec.allOnes w = .ofInt w (2 ^ w - 1) := by
    have hcast : (2 : Int) ^ w - 1 = ((2 ^ w - 1 : Nat) : Int) := by simp
    rw [hcast, BitVec.ofInt_natCast, ← BitVec.toNat_allOnes, BitVec.ofNat_toNat, BitVec.setWidth_eq]
  unfold clampN
  rw [htop]
  generalize (2 : Int) ^ w = m at *
  split
  · rw [show max 0 (min (m - 1) e) = 0 by omega]
    rfl
  · split <;> congr 1 <;> omega

/-! ### Parts (R76) -/

theorem extractLsb'_parts16 (f : BitVec 16 → BitVec 16 → BitVec 16) (x y : Word32) {j : Nat} (hj : j < 2) :
    (parts16 f x y).extractLsb' (16 * j) 16 = f (x.extractLsb' (16 * j) 16) (y.extractLsb' (16 * j) 16) := by
  interval_cases j
  · exact BitVec.extractLsb'_append_eq_right
  · exact BitVec.extractLsb'_append_eq_left

theorem extractLsb'_parts8 (f : BitVec 8 → BitVec 8 → BitVec 8) (x y : Word32) {j : Nat} (hj : j < 4) :
    (parts8 f x y).extractLsb' (8 * j) 8 = f (x.extractLsb' (8 * j) 8) (y.extractLsb' (8 * j) 8) := by
  unfold parts8
  interval_cases j
  · exact BitVec.extractLsb'_append_eq_right
  · rw [BitVec.extractLsb'_append_eq_of_le (by decide)]
    exact BitVec.extractLsb'_append_eq_right
  · rw [BitVec.extractLsb'_append_eq_of_le (by decide), BitVec.extractLsb'_append_eq_of_le (by decide)]
    exact BitVec.extractLsb'_append_eq_right
  · rw [BitVec.extractLsb'_append_eq_of_le (by decide), BitVec.extractLsb'_append_eq_of_le (by decide)]
    exact BitVec.extractLsb'_append_eq_left

/-- The operations on parts of R178, numbered as the sum, the difference, the two clamped both ways, and the averages. -/
def packedOp (w : Nat) : Nat → BitVec w → BitVec w → BitVec w
  | 0 => fun x y => x + y
  | 1 => fun x y => x - y
  | 2 => addsS
  | 3 => subsS
  | 4 => addsN
  | 5 => subsN
  | 6 => avgS
  | _ => avgN

/-- Settles O24: what each whole form writes in a lane; a packed form is its operation on each part. -/
theorem vectorIntegers : Obligations.VectorIntegers := by
  constructor
  · intro s d a b k i v x y c clamp pos len field hi h
    simp only [List.mem_cons, Prod.mk.injEq, List.not_mem_nil, or_false] at hi
    rcases hi with ⟨rfl, rfl⟩ | ⟨rfl, rfl⟩ | ⟨rfl, rfl⟩ | ⟨rfl, rfl⟩ | ⟨rfl, rfl⟩ | ⟨rfl, rfl⟩ | ⟨rfl, rfl⟩ | ⟨rfl, rfl⟩ | ⟨rfl, rfl⟩ |
      ⟨rfl, rfl⟩ | ⟨rfl, rfl⟩ | ⟨rfl, rfl⟩ | ⟨rfl, rfl⟩ | ⟨rfl, rfl⟩ | ⟨rfl, rfl⟩ | ⟨rfl, rfl⟩ | ⟨rfl, rfl⟩ | ⟨rfl, rfl⟩ | ⟨rfl, rfl⟩ |
      ⟨rfl, rfl⟩ | ⟨rfl, rfl⟩ | ⟨rfl, rfl⟩ | ⟨rfl, rfl⟩ | ⟨rfl, rfl⟩ | ⟨rfl, rfl⟩ | ⟨rfl, rfl⟩ | ⟨rfl, rfl⟩ | ⟨rfl, rfl⟩
    · exact binV_eq h d a b (· + ·)
    · exact binV_eq h d a b (· - ·)
    · exact binV_eq h d a b (· * ·)
    · exact (binV_eq h d a b mulh).trans (by simp only [mulh_eq (w := 32) (by decide), x, y])
    · exact (binV_eq h d a b mulhn).trans (by simp only [mulhn_eq, x, y])
    · exact (writeLanes_eq h d fun t u l => u.rV a l * u.rV b l + u.third t d l).trans
        (by simp only [State.bound_rV, State.bound_third, x, y, c])
    · exact (binV_eq h d a b mins).trans (by simp only [mins_eq_ite_slt, x, y])
    · exact (binV_eq h d a b maxs).trans (by simp only [maxs_eq_ite_slt, x, y])
    · exact (binV_eq h d a b minn).trans (by simp only [minn_eq_ite_ult, x, y])
    · exact (binV_eq h d a b maxn).trans (by simp only [maxn_eq_ite_ult, x, y])
    · exact unV_eq h d a absS
    · exact unV_eq h d a (- ·)
    · exact (binV_eq h d a b addsS).trans (by simp only [addsS, clampS_eq]; rfl)
    · exact (binV_eq h d a b subsS).trans (by simp only [subsS, clampS_eq]; rfl)
    · exact binV_eq h d a b avgS
    · exact binV_eq h d a b (· &&& ·)
    · exact binV_eq h d a b (· ||| ·)
    · exact binV_eq h d a b (· ^^^ ·)
    · exact binV_eq h d a b (· &&& ~~~ ·)
    · exact binV_eq h d a b fun x y => x <<< (y.toNat % 32)
    · exact binV_eq h d a b fun x y => x >>> (y.toNat % 32)
    · exact binV_eq h d a b fun x y => x.sshiftRight (y.toNat % 32)
    · exact (unV_eq h d a popc).trans (by simp only [popc_eq, x])
    · exact (unV_eq h d a Machine.clz).trans (by simp only [clz_eq (w := 32) (by decide), x])
    · exact (unV_eq h d a brev).trans (by simp only [brev_eq, x])
    · exact binV_eq h d a b fun x y => bfx x (vpos y) (vlen y)
    · refine (writeLanes_eq h d fun t u l => bfi (u.third t d l) (u.rV a l) (vpos (u.rV b l)) (vlen (u.rV b l))).trans ?_
      simp only [State.bound_rV, State.bound_third]
      rfl
    · refine (writeLanes_eq h d fun t u l => if (u.rK k).getLsbD l then u.rV a l else u.rV b l).trans ?_
      simp only [State.bound_rV, State.bound_rK, x, y]
  · intro s d a b i w f j l signed natural forms16 forms8 hi h
    obtain ⟨n, hi, hf⟩ := hi
    obtain rfl : f = packedOp w n := by
      simp only [List.mem_cons, Prod.mk.injEq, List.not_mem_nil, or_false] at hf
      rcases hf with ⟨rfl, rfl⟩ | ⟨rfl, rfl⟩ | ⟨rfl, rfl⟩ | ⟨rfl, rfl⟩ | ⟨rfl, rfl⟩ | ⟨rfl, rfl⟩ | ⟨rfl, rfl⟩ | ⟨rfl, rfl⟩
      · rfl
      · rfl
      · exact funext₂ fun x y => (clampS_eq ..).symm
      · exact funext₂ fun x y => (clampS_eq ..).symm
      · exact funext₂ fun x y => (clampN_eq ..).symm
      · exact funext₂ fun x y => (clampN_eq ..).symm
      · rfl
      · rfl
    rcases hi with ⟨rfl, hi⟩ | ⟨rfl, hi⟩
    · have hexec : exec i s = binV i d a b (parts16 (packedOp 16 n)) s := by
        simp only [forms16, List.mem_cons, Prod.mk.injEq, List.not_mem_nil, or_false] at hi
        rcases hi with ⟨rfl, rfl⟩ | ⟨rfl, rfl⟩ | ⟨rfl, rfl⟩ | ⟨rfl, rfl⟩ | ⟨rfl, rfl⟩ | ⟨rfl, rfl⟩ | ⟨rfl, rfl⟩ | ⟨rfl, rfl⟩ <;> rfl
      exact ⟨_, hexec.trans (binV_eq h d a b _), fun hj => extractLsb'_parts16 _ _ _ (by omega)⟩
    · have hexec : exec i s = binV i d a b (parts8 (packedOp 8 n)) s := by
        simp only [forms8, List.mem_cons, Prod.mk.injEq, List.not_mem_nil, or_false] at hi
        rcases hi with ⟨rfl, rfl⟩ | ⟨rfl, rfl⟩ | ⟨rfl, rfl⟩ | ⟨rfl, rfl⟩ | ⟨rfl, rfl⟩ | ⟨rfl, rfl⟩ | ⟨rfl, rfl⟩ | ⟨rfl, rfl⟩ <;> rfl
      exact ⟨_, hexec.trans (binV_eq h d a b _), fun hj => extractLsb'_parts8 _ _ _ (by omega)⟩

end Sys2Proof.Machine
end

section
/-!
O30: reductions, scans, top-k lists, SETFMT and SETTILE (R102, R202 to R205, R220).
-/

namespace Sys2Proof.Machine

/-! ### The combinations and the tree (R102, R202) -/

/-- The combination of two positions of a level, an absent operand passing the other through (R102). -/
def redPair (o : RedOp) : Option Word32 → Option Word32 → Option Word32
  | some x, some y => some (redOp o x y)
  | some x, none => some (redCanon o x)
  | none, y => y.map (redCanon o)

/-- Position i of a level comes from positions 2i and 2i + 1 of the one below. -/
theorem getD_redLevel (o : RedOp) (l : List (Option Word32)) (i : Nat) :
    (redLevel o l).getD i none = redPair o (l.getD (2 * i) none) (l.getD (2 * i + 1) none) := by
  induction l using redLevel.induct generalizing i with
  | case1 x y r ih | case2 x r ih | case3 y r ih =>
    cases i with
    | zero => rfl
    | succ i => exact ih i
  | case4 x | case5 =>
    cases i with
    | zero => rfl
    | succ i => rfl
  | case6 => rfl

theorem redCanon_of_isNan {x : Word32} (h : (val32 x).isNan = true) (o : RedOp) :
    redCanon o x = if o ∈ [.addF32, .minF32, .maxF32] then 0x7FC00000 else x := by
  have hc : BitVec.ofNat 32 (fp32.canon x.toNat) = 0x7FC00000 := by
    change (fp32.unpack x.toNat).isNan = true at h
    rw [Fmt.canon, if_pos h]
    rfl
  cases o with
  | addF32 | minF32 | maxF32 => exact hc
  | _ => rfl
theorem redCanon_of_not_isNan {x : Word32} (h : (val32 x).isNan = false) (o : RedOp) : redCanon o x = x := by
  have hc : BitVec.ofNat 32 (fp32.canon x.toNat) = x := by
    change (fp32.unpack x.toNat).isNan = false at h
    rw [Fmt.canon, h]
    exact BitVec.eq_of_toNat_eq (by simp)
  cases o with
  | addF32 | minF32 | maxF32 => exact hc
  | _ => rfl

/-- R204: by the score, then by the index. -/
theorem ranksAhead_iff (sc id x cid : Word32) : ranksAhead sc id x cid = true ↔
    (val32 sc).cmp (val32 x) = some .gt ∨ ((val32 sc).cmp (val32 x) = some .eq ∧ id.toNat ≤ cid.toNat) := by
  unfold ranksAhead
  rcases (val32 sc).cmp (val32 x) with - | - | - | - <;> simp

/-! ### The lanes of a tile (R153, R196) -/

theorem State.sameTile_eq (s : State) (j l : Fin 32) :
    s.sameTile j l = decide (s.tr.tilesz.toNat * (j.val / s.tr.tilesz.toNat) = s.tr.tilesz.toNat * (l.val / s.tr.tilesz.toNat)) := rfl

theorem State.bound_tileValues (s : State) (a : VReg) (l : Fin 32) : s.bound.tileValues a l = s.tileValues a l := by
  simp only [State.tileValues, State.bound_sameTile, State.bound_pmask, State.bound_rV]

/-- The active lanes of a lane's tile, by one test a lane. -/
theorem State.activeTile_eq (s : State) (l : Fin 32) :
    s.activeTile l = (List.finRange 32).filter fun (j : Fin 32) => s.cur.mask.getLsbD j && s.sameTile j l := by
  rw [State.activeTile, lanesOf, List.filter_filter]
  exact List.filter_congr fun _ _ => Bool.and_comm ..

/-- The combination of the active lanes of a lane's tile up to its own, in ascending order (R203). -/
def State.scanValue (s : State) (o : RedOp) (a : VReg) (l : Fin 32) : Word32 :=
  match (s.activeTile l).filter fun (j : Fin 32) => decide (j.val ≤ l.val) with
  | [] => 0
  | (j : Fin 32) :: r => r.foldl (fun acc (i : Fin 32) => redOp o acc (s.rV a i)) (redCanon o (s.rV a j))

theorem State.bound_scanValue (s : State) (o : RedOp) (a : VReg) (l : Fin 32) : s.bound.scanValue o a l = s.scanValue o a l := by
  simp only [State.scanValue, State.bound_activeTile, State.bound_rV]

/-! ### Top-k lists (R204, R205) -/

theorem State.bound_topkPlace (s : State) (k : Nat) (d a b : VReg) (l : Fin 32) : s.bound.topkPlace k d a b l = s.topkPlace k d a b l := by
  simp only [State.topkPlace, State.bound_rV]
theorem State.bound_topkEntry (s : State) (k : Nat) (d a b base new : VReg) (i : Nat) (l : Fin 32) :
    s.bound.topkEntry k d a b base new i l = s.topkEntry k d a b base new i l := by
  simp only [State.topkEntry, State.bound_topkPlace, State.bound_rV]

theorem State.writeGroup_pc (s : State) (b : Bound) (d : VReg) (f : Nat → Fin 32 → Word32) (n : Nat) : (s.writeGroup b d f n).pc = s.pc := by
  rw [State.pc, State.writeGroup_cur, State.pc]

/-- A write of a group of vector registers that completes. -/
theorem writeGroup_eq {i : Instr} {s : State} (h : RunsOn i s) (d : VReg) (n : Nat) (f : State → Nat → Fin 32 → Word32) :
    simple i s (fun b t => t.writeGroup b d (f t) n) = .next (s.bound.writeGroup s.att d (f s.bound) n).onward :=
  simple_eq h (fun b t => t.writeGroup b d (f t) n) (by rw [State.writeGroup_pc, State.bound_pc])

/-! ### SETFMT (R220) -/

theorem execSetfmt_legal {s : State} {f : BitVec 18} (h : RunsOn (.setfmt f) s) (hv : legalFmt (immZ s.att f) = true) :
    execSetfmt f s = .next (s.bound.setCur { s.bound.cur with fmt := (immZ s.att f).setWidth 32 }).onward :=
  run_done h (by simp only [hv, if_true]) (by simp [State.pc])
theorem execSetfmt_illegal {s : State} {f : BitVec 18} (h : Runs (formOf (.setfmt f)) s) (hn : TrapsNow s)
    (hv : legalFmt (immZ s.att f) = false) :
    execSetfmt f s = .next (s.takeTrap { cause := 1, pc := s.pc.toNat, word := (Instr.setfmt f).word }) :=
  run_stopIllop h hn (by simp only [hv, Bool.false_eq_true, if_false])

/-- Settles O30: the levels of the tree by positions, then what each instruction writes. -/
theorem reductionsListsAndFormats : Obligations.ReductionsListsAndFormats := by
  constructor
  · intro o x y sc id cid l n i
    refine ⟨?_, fun h => redCanon_of_isNan h o, fun h => redCanon_of_not_isNan h o, ?_, rfl, rfl, ranksAhead_iff sc id x cid⟩
    · cases o <;> rfl
    · rw [getD_redLevel]
      rcases l.getD (2 * i) none with - | _ <;> rcases l.getD (2 * i + 1) none with - | _ <;> rfl
  · intro s o k d a b f size inTile active value
    refine ⟨fun h => ?_, fun h => ?_, fun h => ?_, fun hv h => ?_, fun hv h hn => ?_, fun h => ?_⟩
    · refine (writeLanes_eq h d fun _ t l => redTree o 5 (t.tileValues a l)).trans ?_
      simp only [State.bound_tileValues]
      rfl
    · refine (writeLanes_eq h d fun _ t l => t.scanValue o a l).trans ?_
      congr 3
      funext l
      rw [State.bound_scanValue, State.scanValue, State.activeTile_eq]
      rfl
    · have hx := writeGroup_eq h d (2 * k.toNat) fun t j l =>
        if j < k.toNat then t.topkEntry k.toNat d a b d a j l else t.topkEntry k.toNat d a b (VReg.plus d k.toNat) b (j - k.toNat) l
      refine Eq.trans hx ?_
      congr 3
      funext j l
      simp only [State.bound_topkEntry]
      split <;> rfl
    · exact execSetfmt_legal h hv
    · exact execSetfmt_illegal h hn hv
    · exact simple_eq h (fun _ t => { t with tr := { t.tr with tilesz := f.setWidth 6 } }) s.bound_pc

end Sys2Proof.Machine
end

section
/-!
O36: what a read-modify-write makes of the old value (R292, R293, R296).
-/

namespace Sys2Proof.Machine

/-! ### Words written from numbers -/

theorem toNat_ofNat_of_lt {w x : Nat} (h : x < 2 ^ w) : (BitVec.ofNat w x).toNat = x := Nat.mod_eq_of_lt h

theorem toNat_extractLsb'_ofNat {w x : Nat} (h : x < 2 ^ w) (k n : Nat) : ((BitVec.ofNat w x).extractLsb' k n).toNat = x / 2 ^ k % 2 ^ n := by
  rw [BitVec.extractLsb'_toNat, toNat_ofNat_of_lt h, Nat.shiftRight_eq_div_pow]

section operations
variable {w x v : Nat} (hx : x < 2 ^ w) (hv : v < 2 ^ w)
include hx hv

theorem toNat_add_ofNat : (BitVec.ofNat w x + BitVec.ofNat w v).toNat = (x + v) % 2 ^ w := by
  rw [BitVec.toNat_add, toNat_ofNat_of_lt hx, toNat_ofNat_of_lt hv]
theorem toNat_and_ofNat : (BitVec.ofNat w x &&& BitVec.ofNat w v).toNat = x &&& v := by
  rw [BitVec.toNat_and, toNat_ofNat_of_lt hx, toNat_ofNat_of_lt hv]
theorem toNat_or_ofNat : (BitVec.ofNat w x ||| BitVec.ofNat w v).toNat = x ||| v := by
  rw [BitVec.toNat_or, toNat_ofNat_of_lt hx, toNat_ofNat_of_lt hv]
theorem toNat_xor_ofNat : (BitVec.ofNat w x ^^^ BitVec.ofNat w v).toNat = x ^^^ v := by
  rw [BitVec.toNat_xor, toNat_ofNat_of_lt hx, toNat_ofNat_of_lt hv]
theorem toNat_mins_ofNat :
    (mins (BitVec.ofNat w x) (BitVec.ofNat w v)).toNat = if (BitVec.ofNat w x).toInt ≤ (BitVec.ofNat w v).toInt then x else v := by
  rw [mins, apply_ite BitVec.toNat, toNat_ofNat_of_lt hx, toNat_ofNat_of_lt hv]
theorem toNat_maxs_ofNat :
    (maxs (BitVec.ofNat w x) (BitVec.ofNat w v)).toNat = if (BitVec.ofNat w x).toInt ≤ (BitVec.ofNat w v).toInt then v else x := by
  rw [maxs, apply_ite BitVec.toNat, toNat_ofNat_of_lt hx, toNat_ofNat_of_lt hv]
theorem toNat_minn_ofNat : (minn (BitVec.ofNat w x) (BitVec.ofNat w v)).toNat = min x v := by
  rw [minn, apply_ite BitVec.toNat, toNat_ofNat_of_lt hx, toNat_ofNat_of_lt hv, Nat.min_def]
theorem toNat_maxn_ofNat : (maxn (BitVec.ofNat w x) (BitVec.ofNat w v)).toNat = max x v := by
  rw [maxn, apply_ite BitVec.toNat, toNat_ofNat_of_lt hx, toNat_ofNat_of_lt hv, Nat.max_def]

end operations

/-- A compare and swap of numbers that fit (R293). -/
theorem casNat_eq {w x v c : Nat} (hx : x < 2 ^ w) (hv : v < 2 ^ w) (hc : c < 2 ^ w) :
    (if (BitVec.ofNat w x).toNat = c % 2 ^ w then (BitVec.ofNat w v).toNat else (BitVec.ofNat w x).toNat) = if x = c then v else x := by
  rw [toNat_ofNat_of_lt hx, toNat_ofNat_of_lt hv, Nat.mod_eq_of_lt hc]

/-- The packed BF16 sum: each part rounded on its own (R76, R85). -/
theorem toNat_parts16_bf16Add {x v : Nat} (hx : x < 2 ^ 32) (hv : v < 2 ^ 32) :
    let bf (n k : Nat) : FVal := bf16.unpack (n / 2 ^ (16 * k) % 2 ^ 16)
    let part (k : Nat) : Nat := bf16.round .plain .rne 0 (sumExact .rne [bf x k, bf v k]) % 2 ^ 16
    (parts16 bf16Add (.ofNat 32 x) (.ofNat 32 v)).toNat = part 1 * 2 ^ 16 + part 0 := by
  simp only [parts16, bf16Add, append_toNat, BitVec.toNat_ofNat, toNat_extractLsb'_ofNat hx, toNat_extractLsb'_ofNat hv, Nat.mul_one, Nat.mul_zero]

/-- Settles O36: an operand that fits its word is the number its word holds. -/
theorem atomicValues : Obligations.AtomicValues := by
  intro o x v c w hx64 hv64 hc64 s32 s64 f bf part
  refine ⟨fun hx hv hc hw => ?_, fun hw => ?_⟩ <;> simp only [List.mem_cons, Prod.mk.injEq, List.not_mem_nil, or_false] at hw
  · have ex : (BitVec.ofNat 32 x).toNat = x := toNat_ofNat_of_lt hx
    have ev : (BitVec.ofNat 32 v).toNat = v := toNat_ofNat_of_lt hv
    rcases hw with ⟨rfl, rfl⟩ | ⟨rfl, rfl⟩ | ⟨rfl, rfl⟩ | ⟨rfl, rfl⟩ | ⟨rfl, rfl⟩ | ⟨rfl, rfl⟩ | ⟨rfl, rfl⟩ | ⟨rfl, rfl⟩ | ⟨rfl, rfl⟩ |
      ⟨rfl, rfl⟩ | ⟨rfl, rfl⟩ | ⟨rfl, rfl⟩ | ⟨rfl, rfl⟩ | ⟨rfl, rfl⟩ | ⟨rfl, rfl⟩
    · exact toNat_add_ofNat hx hv
    · exact toNat_mins_ofNat hx hv
    · exact toNat_maxs_ofNat hx hv
    · exact toNat_minn_ofNat hx hv
    · exact toNat_maxn_ofNat hx hv
    · simp only [AtomicOp.new, round32, val32, BitVec.toNat_ofNat, Nat.mod_eq_of_lt hx, Nat.mod_eq_of_lt hv, f]
    · exact toNat_parts16_bf16Add hx hv
    · simp only [AtomicOp.new, ex, ev]
    · simp only [AtomicOp.new, ex, ev]
    · simp only [AtomicOp.new, ex, ev]
    · exact toNat_and_ofNat hx hv
    · exact toNat_or_ofNat hx hv
    · exact toNat_xor_ofNat hx hv
    · exact ev
    · exact casNat_eq hx hv hc
  · rcases hw with ⟨rfl, rfl⟩ | ⟨rfl, rfl⟩ | ⟨rfl, rfl⟩ | ⟨rfl, rfl⟩ | ⟨rfl, rfl⟩ | ⟨rfl, rfl⟩ | ⟨rfl, rfl⟩ | ⟨rfl, rfl⟩ | ⟨rfl, rfl⟩
    · exact toNat_add_ofNat hx64 hv64
    · exact toNat_and_ofNat hx64 hv64
    · exact toNat_or_ofNat hx64 hv64
    · exact toNat_xor_ofNat hx64 hv64
    · exact casNat_eq hx64 hv64 hc64
    · exact toNat_add_ofNat hx64 hv64
    · exact casNat_eq hx64 hv64 hc64
    · exact toNat_ofNat_of_lt hv64
    · exact toNat_maxs_ofNat hx64 hv64

end Sys2Proof.Machine
end

section
/-!
O42: COPY, COPYR and the TCOPY forms (R340 to R342, R348, R349, R354).
-/

namespace Sys2Proof.Machine

/-! ### The block and the addresses (R341, R342) -/

theorem ccAddrOk_of_aligned {b : Word64} (h : b.toNat < 2 ^ 48 ∧ b.toNat % 16 = 0) : ccAddrOk b = none := by
  obtain ⟨h, ha⟩ := h
  rw [ccAddrOk, if_neg (Nat.not_le.2 h), if_neg (not_not.2 ha), ite_self]

/-- Step 6 finds nothing where every address is one the copy may name, at a multiple of its element (R342, R350). -/
theorem State.copyAddrs_eq_none {s : State} {noScratch : Bool} {z : Nat} {l : List (Nat × List Word64)}
    (h : ∀ x ∈ l, ∀ a ∈ x.2, s.classify x.1 a ≠ .invalid ∧ (noScratch = true → ∀ off, s.classify x.1 a ≠ .scratch off) ∧ a.toNat % z = 0) :
    s.copyAddrs noScratch z l = none := by
  induction l with
  | nil => rfl
  | cons x r ih =>
    obtain ⟨hx, hr⟩ := List.forall_mem_cons.1 h
    unfold State.copyAddrs
    dsimp only
    rw [List.find?_eq_none.2, List.find?_eq_none.2]
    · exact ih hr
    · intro a ha
      obtain ⟨-, -, hz⟩ := hx a ha
      simp [hz]
    · intro a ha
      obtain ⟨hv, hs, -⟩ := hx a ha
      cases hn : noScratch with
      | false => simpa using hv
      | true =>
        cases hc : s.classify x.1 a with
        | flat va => simp
        | scratch off => exact absurd hc (hs hn off)
        | invalid => exact absurd hc hv

/-! ### How a copy whose checks have passed ends (R234, R342, R474) -/

theorem State.issueWide_of_mayPay {t : State} {b : PriceBasis} (h : t.mayPay (t.prices.price b)) (k : State → Res) :
    t.issueWide b k = k (t.paid (t.prices.price b)) := by
  unfold State.issueWide State.paid
  dsimp only
  split
  · rfl
  · exact if_pos (h.resolve_left ‹_›)
theorem State.issueWide_of_not_mayPay {t : State} {b : PriceBasis} (h : ¬ t.mayPay (t.prices.price b)) (k : State → Res) :
    t.issueWide b k = .wait fun s => s.waitWide b := by
  obtain ⟨h0, hl⟩ := not_or.1 h
  simp only [State.issueWide, if_neg h0, if_neg hl]

theorem State.issueCopy_issues {t : State} {c : CopyWork} {ccb bytes : Nat} {mode : AccMode}
    (ht : t.mayTake .copy t.gg.part 1 t.copySince = true) (hp : t.mayPay (t.prices.price (.bytes bytes))) :
    t.issueCopy c ccb bytes mode = .done (t.copied c ccb bytes mode) := by
  rw [State.issueCopy, ht, State.issueWide_of_mayPay hp]
  rfl
theorem State.issueCopy_unlicensed {t : State} {c : CopyWork} {ccb bytes : Nat} {mode : AccMode}
    (ht : t.mayTake .copy t.gg.part 1 t.copySince = true) (hp : ¬ t.mayPay (t.prices.price (.bytes bytes))) :
    t.issueCopy c ccb bytes mode = .wait fun s => s.waitWide (.bytes bytes) := by
  rw [State.issueCopy, ht, State.issueWide_of_not_mayPay hp]
  rfl
theorem State.issueCopy_refused {t : State} {c : CopyWork} {ccb bytes : Nat} {mode : AccMode}
    (ht : t.mayTake .copy t.gg.part 1 t.copySince = false) : t.issueCopy c ccb bytes mode = .wait State.waitCopy := by
  rw [State.issueCopy, ht]
  rfl

theorem State.unheld_eq {s : State} (h : Unheld s) (k : Res) : s.unheld k = k := if_neg (by rw [h]; exact Bool.false_ne_true)

/-! ### COPY and COPYR (R348, R349) -/

theorem State.bound_pairAt (s : State) (r : VReg) (l : Fin 32) : s.bound.pairAt r l = s.rV (VReg.plus r 1) l ++ s.rV r l := by
  rw [State.pairAt, State.bound_rV, State.bound_rV]

/-- The work of a copy by lanes: one element for each lane, its source the second address where there is one. -/
def State.laneCopy (s : State) (kind : CopyKind) (z c : Nat) (addrs : Fin 32 → List Word64) (opnd : Fin 32 → Nat) : CopyWork :=
  let spot (l : Fin 32) (n : Nat) : Spot := (s.classify l ((addrs l).getD n 0)).spot
  { kind := kind, z := z, n := (lanesOf s.pmask).length, elems := (lanesOf s.pmask).map fun (l : Fin 32) => (l.val, spot l 1, spot l 0, opnd l),
    snd := ccSnd c }

section checked
variable {f : Form} {s t : State} {kind : CopyKind} {z c : Nat} {flatOnly : Bool} {b : SReg}

/-- A copy by lanes whose checks have passed is left to the pool and the price (R342). -/
theorem copyLanes_checked {addrs : State → Fin 32 → List Word64} {opnd : State → Fin 32 → Nat} {as : Fin 32 → List Word64} {os : Fin 32 → Nat}
    (h : Runs f s) (has : ∀ l, addrs s.bound l = as l) (hos : ∀ l, opnd s.bound l = os l)
    (ha : ∀ l ∈ lanesOf s.bound.pmask, ∀ x ∈ as l, s.bound.classify l x ≠ .invalid ∧
      (flatOnly = true → ∀ off, s.bound.classify l x ≠ .scratch off) ∧ x.toNat % z = 0)
    (hb : (s.rS b).toNat < 2 ^ 48 ∧ (s.rS b).toNat % 16 = 0) (hu : Unheld s.bound) (hr : s.bound.readCcb (s.rS b) = .ok (c, t))
    (hc : ccOk kind c = true) :
    copyLanes f kind z flatOnly b s addrs opnd = .next (s.finish f.word
      (t.issueCopy (s.bound.laneCopy kind z c as os) c (z * (lanesOf s.bound.pmask).length) s.att.ord)) := by
  obtain rfl : addrs s.bound = as := funext has
  obtain rfl : opnd s.bound = os := funext hos
  have hnone : s.bound.copyAddrs flatOnly z ((lanesOf s.bound.pmask).map fun (l : Fin 32) => (l.val, addrs s.bound l)) = none := by
    refine State.copyAddrs_eq_none fun x hx => ?_
    obtain ⟨l, hl, rfl⟩ := List.mem_map.1 hx
    exact ha l hl
  unfold copyLanes
  rw [runForm_eq h]
  simp only [hnone, State.bound_rS, ccAddrOk_of_aligned hb, State.unheld_eq hu, hr, hc, List.length_map, List.headD_eq_getD, Bool.not_true,
    Bool.false_eq_true, if_false]
  rfl

/-- A copy of shapes whose handles have resolved issues with an entry of the pool and a licence for its price (R342, R354). -/
theorem tcopyWith_issues {look : State → Nat → Except Stop (CopyWork × Nat)} {w : CopyWork} {bytes : Nat} (h : Runs f s)
    (hb : (s.rS b).toNat < 2 ^ 48 ∧ (s.rS b).toNat % 16 = 0) (hu : Unheld s.bound) (hr : s.bound.readCcb (s.rS b) = .ok (c, t))
    (hl : look s.bound c = .ok (w, bytes)) (hp : t.prices.price (.bytes bytes) ≤ 8192)
    (ht : t.mayTake .copy t.gg.part 1 t.copySince = true) (hpay : t.mayPay (t.prices.price (.bytes bytes))) :
    tcopyWith f kind b s look = .next ((t.copied
      { w with kind := kind, ordc := ccOrdc c, gsh := ccGsh c, snd := ccSnd c, row0 := ccRow0 c, wid := ccWid c, sgn := ccSgn c }
      c bytes s.att.ord).advanceWord f.word) := by
  unfold tcopyWith
  rw [runForm_eq h]
  simp only [State.bound_rS, ccAddrOk_of_aligned hb, State.unheld_eq hu, hr, hl, if_neg (Nat.not_lt.2 hp), State.issueCopy_issues ht hpay,
    State.finish]

/-- A copy of shapes whose handles do not resolve stops (R342, step 8). -/
theorem tcopyWith_unresolved {look : State → Nat → Except Stop (CopyWork × Nat)} {x : Stop} (h : Runs f s)
    (hb : (s.rS b).toNat < 2 ^ 48 ∧ (s.rS b).toNat % 16 = 0) (hu : Unheld s.bound) (hr : s.bound.readCcb (s.rS b) = .ok (c, t))
    (hl : look s.bound c = .error x) : tcopyWith f kind b s look = .next (s.stopWord f.word x) := by
  unfold tcopyWith
  rw [runForm_eq h]
  simp only [State.bound_rS, ccAddrOk_of_aligned hb, State.unheld_eq hu, hr, hl, State.finish]

end checked

theorem tcopyChecks_ok {s : State} {kind : CopyKind} {bva c : Nat} {fits : Bool} {shapes : List Nat} {w : CopyWork} {bytes : Nat}
    (hc : ccOk kind c = true) (hf : fits = true) (hs : ∀ r ∈ shapes, s.shapeRange r = none) :
    tcopyChecks s kind bva c fits shapes w bytes = .ok (w, bytes) := by
  simp only [tcopyChecks, hc, hf, List.findSome?_eq_none_iff.2 hs, Bool.not_true, Bool.false_eq_true, if_false]

/-- Settles O42: the checks pass, then the pool and the price decide; a stale handle is a trap of its own. -/
theorem copiesIssue : Obligations.CopiesIssue := by
  constructor
  · intro s t i k o d a b kind z c addrs opnd flatOnly pair lanes spot w hi hrun ha hb hu hr hc price
    have hexec : exec i s = .next (s.finish i.word (t.issueCopy w c (z * lanes.length) s.att.ord)) := by
      simp only [List.mem_cons, Prod.mk.injEq, List.not_mem_nil, or_false] at hi
      rcases hi with ⟨rfl, rfl, rfl, rfl, rfl, rfl⟩ | ⟨rfl, rfl, rfl, rfl, rfl, rfl⟩
      · exact copyLanes_checked (addrs := fun u l => [u.pairAt d l, u.pairAt a l]) (opnd := fun _ _ => 0) hrun
          (fun l => by rw [State.bound_pairAt, State.bound_pairAt]) (fun _ => rfl) ha hb hu hr hc
      · exact copyLanes_checked (addrs := fun u l => [u.pairAt d l])
          (opnd := fun u l => (u.rV a l).toNat + u.copyRho l ((u.classify l (u.pairAt d l)).spot).va * 2 ^ 32) hrun
          (fun l => by rw [State.bound_pairAt]) (fun l => by rw [State.bound_pairAt, State.bound_rV]) ha hb hu hr hc
    rw [hexec]
    refine ⟨fun ht => ⟨fun hp => ?_, fun hp => ?_⟩, fun ht => ?_⟩
    · rw [State.issueCopy_issues ht hp]
      rfl
    · rw [State.issueCopy_unlicensed ht hp]
      rfl
    · rw [State.issueCopy_refused ht]
      dsimp only [State.finish, State.waitCopy]
      split <;> rfl
  · intro s t d a b c dh ah p done hlt hal hr
    have hdone {i : Instr} {kind : CopyKind} {w : CopyWork} {bytes : Nat} {look : State → Nat → Except Stop (CopyWork × Nat)}
        (hi : exec i s = tcopyWith (formOf i) kind b s look) (hl : ccOk kind c = true → look s.bound c = .ok (w, bytes)) : done i kind w bytes :=
      fun hrun hu hc hp ht hpay => hi.trans (tcopyWith_issues hrun ⟨hlt, hal⟩ hu hr (hl hc) hp ht hpay)
    simp only [p, dh, ah]
    refine ⟨fun dr ar hd ha hn he hdr har => ?_, fun k f ar hd ha hn hw har => ?_, fun k f dr hd ha hn hw hdr => ?_, fun hrun hn hu hd => ?_⟩
    · refine hdone (by dsimp only [exec, execTcopy]) fun hc => ?_
      simp only [State.bound_rS, hd, ha]
      exact tcopyChecks_ok hc (by simp [hn, he]) (by simp [hdr, har])
    · refine hdone (by dsimp only [exec, execTcopyIn]) fun hc => ?_
      simp only [State.bound_rS, hd, ha]
      exact tcopyChecks_ok hc (by simp [FieldSlot.lanes, hn, hw]) (by simp [har])
    · refine hdone (by dsimp only [exec, execTcopyOut]) fun hc => ?_
      simp only [State.bound_rS, hd, ha]
      exact tcopyChecks_ok hc (by simp [FieldSlot.lanes, hn, hw]) (by simp [hdr])
    · dsimp only [exec, execTcopy]
      rw [tcopyWith_unresolved (x := staleHandle ((s.rS d).toNat % 2 ^ 32)) hrun ⟨hlt, hal⟩ hu hr (by simp only [State.bound_rS, hd])]
      exact congrArg _ (State.stopWord_trap hn _ _)

end Sys2Proof.Machine
end

section
/-!
O8, O9: integer arithmetic, logic, shifts, compares and bit counts (R77, R110, R112, R113).
-/

namespace Sys2Proof.Machine

/-! ### The value a scalar instruction writes -/

theorem binS_value {i : Instr} {s : State} (h : RunsOn i s) {d a b : SReg} {f : Word64 → Word64 → Word64} {v : Word64}
    (hv : f (s.rS a) (s.rS b) = v) : binS i d a b f s = .next (s.bound.wS d v).onward := hv ▸ binS_eq h d a b f
theorem unS_value {i : Instr} {s : State} (h : RunsOn i s) {d a : SReg} {f : Word64 → Word64} {v : Word64} (hv : f (s.rS a) = v) :
    unS i d a f s = .next (s.bound.wS d v).onward := hv ▸ unS_eq h d a f

/-- Settles O8: each instruction is the operation of R110 that its row names; the edge cases are those of R77. -/
theorem scalarArithmetic : Obligations.ScalarArithmetic := by
  intro s d a b i v x y hi h
  simp only [List.mem_cons, Prod.mk.injEq, List.not_mem_nil, or_false] at hi
  rcases hi with ⟨rfl, rfl⟩ | ⟨rfl, rfl⟩ | ⟨rfl, rfl⟩ | ⟨rfl, rfl⟩ | ⟨rfl, rfl⟩ | ⟨rfl, rfl⟩ | ⟨rfl, rfl⟩ | ⟨rfl, rfl⟩ | ⟨rfl, rfl⟩ |
    ⟨rfl, rfl⟩ | ⟨rfl, rfl⟩ | ⟨rfl, rfl⟩ | ⟨rfl, rfl⟩
  · exact binS_eq h d a b (· + ·)
  · exact binS_eq h d a b (· - ·)
  · exact binS_eq h d a b (· * ·)
  · exact binS_value h (mulh_eq (by decide) x y)
  · exact binS_value h (mulhn_eq x y)
  · exact binS_eq h d a b divs
  · exact binS_eq h d a b divn
  · exact binS_eq h d a b rems
  · exact binS_eq h d a b remn
  · exact binS_value h (mins_eq_ite_slt x y)
  · exact binS_value h (maxs_eq_ite_slt x y)
  · exact binS_value h (minn_eq_ite_ult x y)
  · exact binS_value h (maxn_eq_ite_ult x y)

/-! ### Truth values (R112) -/

theorem ofBool_eq_ite {w : Nat} {c : Bool} {p : Prop} [Decidable p] (h : c = true ↔ p) : (ofBool c : BitVec w) = if p then 1 else 0 :=
  if_congr h rfl rfl

/-- Settles O9: each instruction is the operation of R112 that its row names; SEL alone reads the old s[d]. -/
theorem scalarLogic : Obligations.ScalarLogic := by
  intro s d a b i v x y n hi h
  simp only [List.mem_cons, Prod.mk.injEq, List.not_mem_nil, or_false] at hi
  rcases hi with ⟨rfl, rfl⟩ | ⟨rfl, rfl⟩ | ⟨rfl, rfl⟩ | ⟨rfl, rfl⟩ | ⟨rfl, rfl⟩ | ⟨rfl, rfl⟩ | ⟨rfl, rfl⟩ | ⟨rfl, rfl⟩ | ⟨rfl, rfl⟩ |
    ⟨rfl, rfl⟩ | ⟨rfl, rfl⟩ | ⟨rfl, rfl⟩ | ⟨rfl, rfl⟩ | ⟨rfl, rfl⟩ | ⟨rfl, rfl⟩ | ⟨rfl, rfl⟩
  · exact binS_eq h d a b (· &&& ·)
  · exact binS_eq h d a b (· ||| ·)
  · exact binS_eq h d a b (· ^^^ ·)
  · exact binS_eq h d a b (· &&& ~~~·)
  · exact binS_eq h d a b fun v w => v <<< (w.toNat % 64)
  · exact binS_eq h d a b fun v w => v >>> (w.toNat % 64)
  · exact binS_eq h d a b fun v w => v.sshiftRight (w.toNat % 64)
  · exact binS_value (f := fun v w => ofBool (v == w)) h (ofBool_eq_ite beq_iff_eq)
  · exact binS_value (f := fun v w => ofBool (v != w)) h ((ofBool_eq_ite bne_iff_ne).trans (ite_not ..))
  · exact binS_value (f := fun v w => ofBool (v.slt w)) h (ofBool_eq_ite BitVec.slt_iff_toInt_lt)
  · exact binS_value (f := fun v w => ofBool (v.ult w)) h (ofBool_eq_ite BitVec.ult_iff_toNat_lt)
  · have hsel := simple_eq h (fun _ t => t.wS d (if t.rS d ≠ 0 then t.rS a else t.rS b)) (by simp [State.pc])
    simp only [State.bound_rS] at hsel
    rw [← ite_not]
    exact hsel
  · exact unS_value h (clz_eq (by decide) x)
  · exact unS_value h (ctz_eq x)
  · exact unS_value h (popc_eq x)
  · exact unS_value h (brev_eq x)

end Sys2Proof.Machine
end

section
/-!
O21: JPT, JOIN and EXIT, and the path stack they work on (R133, R144 to R152, R207, R208).
-/

namespace Sys2Proof.Machine

section
variable {s u v : State} {n link raw : Nat} {e : PathEntry} {lanes : BitVec 32}

/-! ### Entries released (R149) -/

theorem State.releaseEntry_of_written (h : s.writeEntry n { e with kind := 0 } = .ok u) : s.releaseEntry n e = u.popReleased u.tr.psp.toNat := by
  simp only [State.releaseEntry, h]
theorem State.popReleased_succ (h : s.readEntryRaw n = .ok (raw, u)) : s.popReleased (n + 1) =
    if (PathEntry.ofNat raw).kind = 0 then u.popReleased n else .ok { u with tr := { u.tr with psp := .ofNat 32 (n + 1) } } := by
  simp only [State.popReleased, h]

/-! ### The search for a spilled path (R148) -/

theorem PathEntry.kind_of_valid {kind : Nat} (h : e.valid kind n = true) : e.kind = kind := by
  simp only [PathEntry.valid, Bool.and_eq_true, beq_iff_eq] at h
  obtain ⟨⟨⟨⟨⟨hkind, _⟩, _⟩, _⟩, _⟩, _⟩ := h
  exact hkind

theorem State.findPath_succ_join (h : s.readEntryRaw n = .ok (raw, u)) (hk : (PathEntry.ofNat raw).kind ≤ 1) :
    s.findPath (n + 1) = u.findPath n := by
  simp only [State.findPath, h]
  rw [if_neg (by omega), if_neg (by omega)]
theorem State.findPath_succ_path (h : s.readEntryRaw n = .ok (raw, u)) (hv : (PathEntry.ofNat raw).valid 2 n = true) :
    s.findPath (n + 1) = .ok (some (n, PathEntry.ofNat raw), u) := by
  simp only [State.findPath, h, hv, PathEntry.kind_of_valid hv, if_true]

/-! ### Slots freed (R148, R437) -/

/-- The state in which a freed slot looks for a path: the slot free, the sibling thawed. -/
def State.vacated (s : State) : State := (s.setCur { near := s.cur.near }).unfreeze

theorem State.freeSlot_of_none (h : s.vacated.findPath s.vacated.tr.psp.toNat = .ok (none, u)) : s.freeSlot = .ok (u.setCur {}) := by
  rw [State.vacated] at h
  simp only [State.freeSlot, h]
theorem State.freeSlot_of_some (h : s.vacated.findPath s.vacated.tr.psp.toNat = .ok (some (n, e), u)) (hr : u.releaseEntry n e = .ok v) :
    s.freeSlot = .ok (v.setCur { live := true, pc := e.pc, mask := e.mask, fmt := e.fmt, jpc := e.jpc, frame := e.link, nudge := e.nudge,
                                 readyAt := v.cycle, near := s.cur.near }) := by
  rw [State.vacated] at h
  simp only [State.freeSlot, h, hr]

theorem State.vacated_psp (s : State) : s.vacated.tr.psp = s.tr.psp := s.setCur_tr_psp _

/-! ### Joins that complete (R146) -/

theorem State.linkJpc_of_read (hl : link ≠ 0) (h : s.readEntryRaw (link - 1) = .ok (raw, u)) :
    s.linkJpc link = .ok ((PathEntry.ofNat raw).jpc, u) := by
  simp only [State.linkJpc, if_neg hl, h]

/-- The merged path of an entry at a place (R16, R146). -/
def PathEntry.merged (e : PathEntry) (pc jpc : BitVec 48) (r : State) : Slot :=
  { live := true, pc := .ofNat 48 (pc.toNat / 4 * 4), mask := e.arrived, fmt := e.fmt, jpc := jpc, frame := e.link, readyAt := r.cycle,
    near := r.cur.near }

theorem State.completeJoin_of_released {pc jpc : BitVec 48} (hl : s.linkJpc e.link.toNat = .ok (jpc, u)) (hr : u.releaseEntry n e = .ok v) :
    s.completeJoin n e pc = .ok (v.setCur (e.merged pc jpc v)) := by
  simp only [State.completeJoin, hl, hr, PathEntry.merged]

/-! ### The chain of an ended path (R147) -/

theorem State.shrinkChain_succ (hl : link ≠ 0) (h : s.readEntryRaw (link - 1) = .ok (raw, u)) (hv : (PathEntry.ofNat raw).valid 1 (link - 1) = true)
    (hw : u.writeEntry (link - 1) { PathEntry.ofNat raw with mask := (PathEntry.ofNat raw).mask &&& ~~~lanes } = .ok v) :
    s.shrinkChain lanes (n + 1) link = v.shrinkChain lanes n (PathEntry.ofNat raw).link.toNat := by
  simp only [State.shrinkChain, if_neg hl, h, hv, hw, Bool.not_true, Bool.false_eq_true, if_false]

theorem State.settleChain_awaiting (hl : link ≠ 0) (h : s.readEntryRaw (link - 1) = .ok (raw, u))
    (ha : (PathEntry.ofNat raw).arrived ≠ (PathEntry.ofNat raw).mask) : s.settleChain (n + 1) link = .ok (false, u) := by
  simp only [State.settleChain, if_neg hl, h, if_pos ha]
theorem State.settleChain_empty (hl : link ≠ 0) (h : s.readEntryRaw (link - 1) = .ok (raw, u))
    (ha : (PathEntry.ofNat raw).arrived = (PathEntry.ofNat raw).mask) (hm : (PathEntry.ofNat raw).mask = 0)
    (hr : u.releaseEntry (link - 1) (PathEntry.ofNat raw) = .ok v) :
    s.settleChain (n + 1) link = v.settleChain n (PathEntry.ofNat raw).link.toNat := by
  simp only [State.settleChain, if_neg hl, h, if_neg (not_not.2 ha), if_neg (not_not.2 hm), hr]
theorem State.settleChain_complete {jpc : BitVec 48} {r : State} (hl : link ≠ 0) (h : s.readEntryRaw (link - 1) = .ok (raw, u))
    (ha : (PathEntry.ofNat raw).arrived = (PathEntry.ofNat raw).mask) (hm : (PathEntry.ofNat raw).mask ≠ 0)
    (hj : u.linkJpc (PathEntry.ofNat raw).link.toNat = .ok (jpc, v)) (hr : v.releaseEntry (link - 1) (PathEntry.ofNat raw) = .ok r) :
    s.settleChain (n + 1) link = .ok (true, r.setCur ((PathEntry.ofNat raw).merged (PathEntry.ofNat raw).jpc jpc r)) := by
  simp only [State.settleChain, if_neg hl, h, if_neg (not_not.2 ha), if_pos hm, State.completeJoin_of_released hj hr, Except.map]

end

/-! ### JPT (R144, R207) -/

theorem exec_jpt (g : BitVec 25) (s : State) : exec (.jpt g) s = run (.jpt g) s fun b t =>
    if validTarget (t.target b g) then .done (t.setCur { t.cur with jpc := (t.target b g).setWidth 48 })
    else .stop (misaligned (t.target b g)) := rfl

theorem exec_jpt_valid {g : BitVec 25} {s : State} {a : Word64} (ha : s.bound.target s.att g = a) (hv : a.toNat < 2 ^ 48 ∧ a.toNat % 4 = 0)
    (h : RunsOn (.jpt g) s) : exec (.jpt g) s = .next (s.bound.setCur { s.bound.cur with jpc := a.setWidth 48 }).onward := by
  rw [exec_jpt]
  exact run_done h (by rw [ha, if_pos ((validTarget_iff a).2 hv)]) (by simp [State.pc])
theorem exec_jpt_misaligned {g : BitVec 25} {s : State} {a : Word64} (ha : s.bound.target s.att g = a)
    (hv : ¬ (a.toNat < 2 ^ 48 ∧ a.toNat % 4 = 0)) (h : Runs (formOf (.jpt g)) s) (hn : TrapsNow s) :
    exec (.jpt g) s = .next (s.takeTrap { cause := 2, addr := a, pc := s.pc.toNat, word := (Instr.jpt g).word }) := by
  rw [exec_jpt]
  exact run_trap h hn (e := { cause := 2, addr := a }) (by rw [ha, if_neg (mt (validTarget_iff a).1 hv)]; rfl)

/-! ### JOIN (R146, R208) -/

/-- What a JOIN's effect makes of the path: it goes on, or its place is set. -/
def resOfJoin (r : Bool × State) : Res := if r.1 then .done r.2 else .stay r.2

theorem exec_join (s : State) : exec .join s = run .join s fun _ t =>
    if t.cur.frame != 0 && t.heldBack 1 then .wait id else orStop t.join resOfJoin := rfl

theorem exec_join_noFrame {s : State} (hf : s.cur.frame = 0) (h : RunsOn .join s) :
    exec .join s = .next (s.bound.setCur { s.bound.cur with jpc := 0 }).onward := by
  rw [exec_join]
  refine run_done h ?_ (by simp [State.pc])
  simp only [State.join, State.bound_frame, hf, bne_self_eq_false, Bool.false_and, Bool.false_eq_true, if_false, if_true]
  rfl
theorem exec_join_held {s : State} (hf : s.cur.frame ≠ 0) (hb : s.bound.heldBack 1 = true) (h : Runs (formOf .join) s) :
    exec .join s = .next s.mustWait := by
  rw [exec_join, run_eq h]
  simp only [State.bound_frame, bne_iff_ne.2 hf, hb, Bool.and_self, if_true]
  rfl

section
variable {s u : State} {n raw : Nat}

/-- A JOIN of a frame that nothing holds back ends as its effect does. -/
theorem exec_join_frame (hb : s.bound.heldBack 1 = false) (h : Runs (formOf .join) s) :
    exec .join s = .next (s.finish Instr.join.word (orStop s.bound.join resOfJoin)) := by
  rw [exec_join, run_eq h]
  simp only [hb, Bool.and_false, Bool.false_eq_true, if_false]
  rfl

theorem State.join_other (hf : s.cur.frame ≠ 0) (hn : s.cur.frame.toNat - 1 = n) (hr : s.readEntryRaw n = .ok (raw, u))
    (hj : (PathEntry.ofNat raw).jpc ≠ u.pc) : s.join = .ok (true, u.setCur { u.cur with jpc := (PathEntry.ofNat raw).jpc }) := by
  simp only [State.join, if_neg hf, hn, hr, if_pos hj]
theorem State.join_invalid (hf : s.cur.frame ≠ 0) (hn : s.cur.frame.toNat - 1 = n) (hr : s.readEntryRaw n = .ok (raw, u))
    (hj : (PathEntry.ofNat raw).jpc = u.pc) (hv : (PathEntry.ofNat raw).valid 1 n = false) :
    s.join = .error (badEntry n raw) := by
  simp only [State.join, if_neg hf, hn, hr, if_neg (not_not.2 hj), hv, Bool.not_false, if_true]

/-- An entry with the lanes of a path that has reached its join among those arrived. -/
def PathEntry.joinedBy (e : PathEntry) (lanes : BitVec 32) : PathEntry := { e with arrived := e.arrived ||| lanes }

theorem State.join_awaiting {v t : State} (hf : s.cur.frame ≠ 0) (hn : s.cur.frame.toNat - 1 = n) (hr : s.readEntryRaw n = .ok (raw, u))
    (hj : (PathEntry.ofNat raw).jpc = u.pc) (hv : (PathEntry.ofNat raw).valid 1 n = true)
    (ha : ((PathEntry.ofNat raw).joinedBy u.cur.mask).arrived ≠ (PathEntry.ofNat raw).mask)
    (hw : u.writeEntry n ((PathEntry.ofNat raw).joinedBy u.cur.mask) = .ok v) (ht : v.freeSlot = .ok t) :
    s.join = .ok (false, t) := by
  simp only [PathEntry.joinedBy] at ha hw
  simp only [State.join, if_neg hf, hn, hr, if_neg (not_not.2 hj), hv, Bool.not_true, Bool.false_eq_true, if_false, if_neg ha, hw, ht, Except.map]
theorem State.join_complete {v r : State} {jpc : BitVec 48} (hf : s.cur.frame ≠ 0) (hn : s.cur.frame.toNat - 1 = n)
    (hr : s.readEntryRaw n = .ok (raw, u)) (hj : (PathEntry.ofNat raw).jpc = u.pc)
    (hv : (PathEntry.ofNat raw).valid 1 n = true)
    (ha : ((PathEntry.ofNat raw).joinedBy u.cur.mask).arrived = (PathEntry.ofNat raw).mask)
    (hl : u.linkJpc (PathEntry.ofNat raw).link.toNat = .ok (jpc, v))
    (hrel : v.releaseEntry n ((PathEntry.ofNat raw).joinedBy u.cur.mask) = .ok r) :
    s.join = .ok (false, (r.setCur (((PathEntry.ofNat raw).joinedBy u.cur.mask).merged u.pc jpc r)).unfreeze) := by
  have hc := State.completeJoin_of_released (e := (PathEntry.ofNat raw).joinedBy u.cur.mask) (pc := u.pc) hl hrel
  simp only [PathEntry.joinedBy] at ha hc ⊢
  simp only [State.join, if_neg hf, hn, hr, if_neg (not_not.2 hj), hv, Bool.not_true, Bool.false_eq_true, if_false, if_pos ha, hc, Except.map]

end

/-! ### EXIT (R133, R147) -/

theorem exec_exit (s : State) : exec .exit s = run .exit s fun _ t =>
    if (t.cur.frame != 0 || t.tr.psp != 0) && t.heldBack 1 then .wait id else orStop t.exit .stay := rfl

theorem exec_exit_held {s : State} (hf : s.cur.frame ≠ 0) (hb : s.bound.heldBack 1 = true) (h : Runs (formOf .exit) s) :
    exec .exit s = .next s.mustWait := by
  rw [exec_exit, run_eq h]
  simp only [State.bound_frame, bne_iff_ne.2 hf, hb, Bool.true_or, Bool.and_self, if_true]
  rfl

/-- An EXIT that nothing holds back, or that has no entry to touch, ends as its effect does. -/
theorem exec_exit_ok {s t : State} (hb : s.bound.heldBack 1 = false ∨ (s.cur.frame = 0 ∧ s.tr.psp = 0)) (h : Runs (formOf .exit) s)
    (ht : s.bound.exit = .ok t) : exec .exit s = .next t.rests := by
  rw [exec_exit]
  refine run_stay h ?_
  have hc : ((s.bound.cur.frame != 0 || s.bound.tr.psp != 0) && s.bound.heldBack 1) = false := by
    rcases hb with hb | ⟨hf, hp⟩
    · rw [hb, Bool.and_false]
    · rw [State.bound_frame, State.bound_psp, hf, hp]
      rfl
  simp only [hc, ht, Bool.false_eq_true, if_false]
  rfl

section
variable {s u v t : State} {link : Nat} {lanes : BitVec 32}

theorem State.exit_merged (hm : s.cur.mask = lanes) (hl : s.cur.frame.toNat = link) (hu : s.shrinkChain lanes (link + 1) link = .ok u)
    (hv : u.settleChain (link + 1) link = .ok (true, v)) : s.exit = .ok v.unfreeze := by
  simp only [State.exit, hm, hl, hu, hv]
theorem State.exit_freed (hm : s.cur.mask = lanes) (hl : s.cur.frame.toNat = link) (hu : s.shrinkChain lanes (link + 1) link = .ok u)
    (hv : u.settleChain (link + 1) link = .ok (false, v)) (ht : v.freeSlot = .ok t) : s.exit = .ok t.endIfDone := by
  simp only [State.exit, hm, hl, hu, hv, ht, Except.map]

end

/-- A path of no frame that ends with no path spilled frees its slot (R133). -/
theorem State.exit_noFrame {s : State} (hf : s.cur.frame = 0) (hp : s.tr.psp = 0) : s.exit = .ok (s.vacated.setCur {}).endIfDone := by
  refine State.exit_freed (u := s) (v := s) (link := 0) rfl (congrArg BitVec.toNat hf) rfl rfl (State.freeSlot_of_none ?_)
  rw [State.vacated_psp, hp]
  rfl

theorem State.live_slots (s : State) : (s.tr.p.live || s.tr.q.live) = (s.cur.live || s.sibling.live) := by
  unfold State.cur State.sibling Troupe.slot SlotId.other
  cases s.sel
  · rfl
  · exact Bool.or_comm ..
theorem State.unfreeze_sibling_live (s : State) : s.unfreeze.sibling.live = s.sibling.live := by
  unfold State.unfreeze State.sibling Troupe.slot
  cases s.sel <;> dsimp only [SlotId.other] <;> split <;> rfl

/-- The slot of the path in focus freed, no path spilled: the troupe goes on when the sibling is live, and ends otherwise (R133). -/
theorem State.freed_live {s : State} (hp : s.tr.psp = 0) :
    ((s.vacated.setCur {}).tr.p.live || (s.vacated.setCur {}).tr.q.live || (s.vacated.setCur {}).tr.psp != 0) = s.sibling.live := by
  rw [State.live_slots, State.setCur_cur, State.setCur_sibling, State.setCur_tr_psp, State.vacated_psp, hp, State.vacated,
    State.unfreeze_sibling_live, State.setCur_sibling]
  simp

theorem State.endIfDone_of_live {s : State} (h : (s.tr.p.live || s.tr.q.live || s.tr.psp != 0) = true) : s.endIfDone = s := if_pos h
theorem State.endIfDone_of_free {s : State} (h : (s.tr.p.live || s.tr.q.live || s.tr.psp != 0) = false) :
    let left := ((List.range 32).foldl (fun u c => u.leaveCircle c) s).dropLease
    s.endIfDone = ({ left with tr := { left.tr with ended := true } } : State).clearFwPurses := if_neg (by rw [h]; exact Bool.false_ne_true)

/-- Settles O21: JPT and JOIN, the operations on the path stack, EXIT in a frame, EXIT outside. -/
theorem joinsAndEnds : Obligations.JoinsAndEnds := by
  refine ⟨?_, ?_, ?_, ?_⟩
  · intro s g wide target b n
    have ht : s.bound.target s.att g = target := target_eq s g
    have hn : b.cur.frame.toNat - 1 = n := by rw [State.bound_frame]
    have hframe {q : Prop} (h : b.cur.frame ≠ 0 → q) (hf : s.cur.frame ≠ 0) : q := h (s.bound_frame ▸ hf)
    refine ⟨exec_jpt_valid ht, exec_jpt_misaligned ht, exec_join_noFrame, exec_join_held, fun raw u => hframe fun hf hw hr hj h => ?_,
      fun raw u => hframe fun hf hw hr hj h => ⟨fun hv htn => ?_, fun hv ha v t he ht => ?_, fun hv ha jpc v r hl he => ?_⟩⟩
    · rw [exec_join_frame hw h, State.join_other hf hn hr hj]
      rfl
    · rw [exec_join_frame hw h, State.join_invalid hf hn hr hj hv]
      exact congrArg _ (State.stopWord_trap htn _ _)
    · rw [exec_join_frame hw h, State.join_awaiting hf hn hr hj hv ha he ht]
      rfl
    · rw [exec_join_frame hw h, State.join_complete hf hn hr hj hv ha hl he]
      rfl
  · intro s u v n link raw e lanes
    exact ⟨rfl, State.linkJpc_of_read, State.releaseEntry_of_written, rfl, State.popReleased_succ, rfl, State.findPath_succ_join,
      State.findPath_succ_path, ⟨State.freeSlot_of_none, State.freeSlot_of_some⟩, State.shrinkChain_succ, rfl, rfl, fun hl hr =>
        ⟨State.settleChain_awaiting hl hr, State.settleChain_empty hl hr, fun ha hm jpc r => State.settleChain_complete hl hr ha hm⟩⟩
  · intro s u v t h hf link
    have hl : s.bound.cur.frame.toNat = link := by rw [State.bound_frame]
    exact ⟨fun hb => exec_exit_held hf hb h, fun hb hu =>
      ⟨fun hv => exec_exit_ok (.inl hb) h (State.exit_merged s.bound_mask hl hu hv),
        fun hv ht => exec_exit_ok (.inl hb) h (State.exit_freed s.bound_mask hl hu hv ht)⟩⟩
  · intro s h hf hp freed
    have hfreed : s.bound.vacated.setCur {} = freed := by rw [State.vacated, State.bound_near]
    have hexec : exec .exit s = .next freed.endIfDone.rests := by
      rw [← hfreed]
      exact exec_exit_ok (.inr ⟨hf, hp⟩) h (State.exit_noFrame (s.bound_frame.trans hf) (s.bound_psp.trans hp))
    have hlive := State.freed_live (s.bound_psp.trans hp)
    rw [hfreed, State.bound_sibling] at hlive
    refine ⟨fun hs => ?_, fun hs => ?_⟩
    · rw [hexec, State.endIfDone_of_live (hlive.trans hs)]
    · rw [hexec, State.endIfDone_of_free (hlive.trans hs)]

end Sys2Proof.Machine
end

section
/-!
O34: scalar and vector stores, and the stream they enter (R107, R122, R286, R288 to R290, R324, R489).
-/

namespace Sys2Proof.Machine

/-! ### The store of the lanes given -/

/-- A store behind ORD acquire waits to issue (R344). -/
theorem State.store_waits {s u : State} {one : Bool} {z : Nat} {mode : AccMode} {as : List (Nat × Word64)} {ls : List (Nat × Loc)}
    (val : Nat → Nat) (hr : s.resolve one .write z as = .ok (ls, u)) (hu : ¬ Unheld u) : s.store one z mode as val = .wait id := by
  simp only [State.store, hr, Bool.not_eq_false _ ▸ hu, if_true]

/-- A store that nothing holds back enters its lanes' entries (R286, R289). -/
theorem State.store_enters {s u : State} {one : Bool} {z : Nat} {mode : AccMode} {as : List (Nat × Word64)} {ls : List (Nat × Loc)}
    (val : Nat → Nat) (hr : s.resolve one .write z as = .ok (ls, u)) (hu : Unheld u) :
    let vaOf (lane : Nat) : Word64 := u.heldVa lane (((as.find? fun a => a.1 == lane).map Prod.snd).getD 0)
    let entries (x : Nat × Loc) : List StoreEntry :=
      Machine.entriesOf (storeLanes u one x.1) u.pmask (storeLane u one x.1) (vaOf x.1) x.2 z (val x.1) mode
    s.store one z mode as val =
      .done ((((u.enter (ls.map entries).flatten).addFills mode true z (ls.map Prod.snd)).noteClip mode.scope).countRetire) := by
  have hu' : u.heldBack u.pmask = false := hu
  simp only [State.store, hr, hu', Bool.false_eq_true, if_false]

/-! ### The two shapes of store (R122, R288) -/

theorem State.bound_groupNat (s : State) (d : VReg) (l : Fin 32) (n : Nat) : s.bound.groupNat d l n = s.groupNat d l n := by
  induction n with
  | zero => rfl
  | succ n ih => rw [State.groupNat, State.groupNat, ih, State.bound_rV]

/-- A scalar store of at most 8 bytes at an address that resolves is one entry of its path's lanes. -/
theorem scalarStore_ends {i : Instr} {s u : State} {d sa : SReg} {nd : BitVec 4} {imm : BitVec 8} {z : Nat} {l : Loc} (hz : z ≠ 16)
    (h : Runs (formOf i) s) (hr : s.bound.resolve true .write z [(0, s.rS sa + immS s.att imm * .ofNat 64 z)] = .ok ([(0, l)], u)) :
    let mode : AccMode := { s.att.ord with nd := nd }
    let entry : StoreEntry := { lanes := u.pmask, lane := lowLane u.pmask, path := u.pmask,
                                va := u.heldVa 0 (s.rS sa + immS s.att imm * .ofNat 64 z), loc := l, size := z,
                                data := (s.rS d).toNat % 2 ^ (8 * z), mode := mode }
    (Unheld u → scalarStore i z d sa nd imm s =
      .next (((((u.enter [entry]).addFills mode true z [l]).noteClip mode.scope).countRetire).advanceWord i.word)) ∧
    (¬ Unheld u → scalarStore i z d sa nd imm s = .next s.mustWait) := by
  have ha : s.bound.scalarAddr s.att sa imm z = s.rS sa + immS s.att imm * .ofNat 64 z := by rw [State.scalarAddr, State.bound_rS]
  rw [← ha] at hr ⊢
  refine load_ends h (fun hu => (State.store_enters _ hr hu).trans ?_) (State.store_waits _ hr)
  simp only [List.map_cons, List.map_nil, List.flatten_cons, List.flatten_nil, List.append_nil, entriesOf, if_neg hz, State.bound_rS]
  rfl

/-- A vector store whose lanes' addresses resolve is its lanes' entries (R288, R290). -/
theorem vectorStore_ends {i : Instr} {s u : State} {d b : VReg} {sa : SReg} {nd : BitVec 4} {sc : BitVec 1} {z regs : Nat}
    {ls : List (Nat × Loc)} (h : Runs (formOf i) s) :
    let as : List (Nat × Word64) :=
      (lanesOf s.cur.mask).map fun l => (l.val, s.rS sa + (s.rV b l).signExtend 64 * .ofNat 64 (if sc = 1 then z else 1))
    let mode : AccMode := { s.att.ord with nd := nd }
    let vaOf (lane : Nat) : Word64 := u.heldVa lane (((as.find? fun a => a.1 == lane).map Prod.snd).getD 0)
    let entries (x : Nat × Loc) : List StoreEntry :=
      entriesOf (.ofNat 32 (2 ^ x.1)) u.pmask x.1 (vaOf x.1) x.2 z (s.groupNat d (Fin.ofNat 32 x.1) regs) mode
    s.bound.resolve false .write z as = .ok (ls, u) →
    (Unheld u → vectorStore i z regs d sa b nd sc s = .next
      (((((u.enter (ls.map entries).flatten).addFills mode true z (ls.map Prod.snd)).noteClip mode.scope).countRetire).advanceWord i.word)) ∧
    (¬ Unheld u → vectorStore i z regs d sa b nd sc s = .next s.mustWait) := by
  intro as mode vaOf entries hr
  have has : s.bound.vectorAddrs sa b (if sc = 1 then z else 1) = as := vectorAddrs_bound s sa b _
  simp only [entries, vaOf, ← State.bound_groupNat s]
  rw [← has] at hr ⊢
  exact load_ends h (State.store_enters _ hr) (State.store_waits _ hr)

/-! ### Entering the stream (R107, R289, R489) -/

/-- The room a store finds: the earlier entries have performed when there is none for it (R489). -/
def State.roomFor (s : State) (n : Nat) : State := if bufferEntries < s.tr.stream.length + n then s.drain (.allOnes 32) else s

/-- The early loads of bytes that entries meet no longer stand (R24), and behind an acquire none of the path does (R285). -/
def State.forgetFor (s : State) (es : List StoreEntry) : State :=
  let t := es.foldl (fun s e => s.forgetAt e.lanes e.loc e.size s.tr.ins) s
  if es.any fun e => isAcquire e.mode.order then t.forget t.pmask t.tr.ins else t

theorem State.forgetFor_sansEarly (s : State) (es : List StoreEntry) : (s.forgetFor es).sansEarly = s.sansEarly := by
  have h := State.foldl_forgetAt_sansEarly (fun e : StoreEntry => e.lanes) (fun e => e.loc) (fun e => e.size) (fun t _ => t.tr.ins) es s
  unfold State.forgetFor
  dsimp only
  split
  · exact Eq.trans rfl h
  · exact h

theorem State.foldl_forgetAt_early (es : List StoreEntry) (s : State) :
    (es.foldl (fun s e => s.forgetAt e.lanes e.loc e.size s.tr.ins) s).tr.early ⊆ s.tr.early := by
  induction es generalizing s with
  | nil => exact List.Subset.refl _
  | cons e r ih => exact List.Subset.trans (ih _) (List.filter_subset_self _)
theorem State.forgetFor_early (s : State) (es : List StoreEntry) : (s.forgetFor es).tr.early ⊆ s.tr.early := by
  have h := State.foldl_forgetAt_early es s
  unfold State.forgetFor
  dsimp only
  split
  · exact List.Subset.trans (List.filter_subset_self _) h
  · exact h

/-- What differs in the early loads alone is the same state with those. -/
theorem State.eq_of_sansEarly {s t : State} (h : t.sansEarly = s.sansEarly) : t = { s with tr := { s.tr with early := t.tr.early } } := by
  have he := congrArg (fun x : State => { x with tr := { x.tr with early := t.tr.early } }) h
  exact he

/-- Entries join the end of the stream under their instruction's number; of what has bound early some may be forgotten (R24, R107). -/
theorem State.enter_eq (s : State) (es : List StoreEntry) :
    let d := s.roomFor es.length
    s.enter es = { d with tr := { d.tr with stream := d.tr.stream ++ es.map d.stamped, ins := d.tr.ins + 1,
                                            early := (d.forgetFor (es.map d.stamped)).tr.early } } := by
  intro d
  have hd := State.eq_of_sansEarly (d.forgetFor_sansEarly (es.map d.stamped))
  have henter : s.enter es = { d.forgetFor (es.map d.stamped) with tr := { (d.forgetFor (es.map d.stamped)).tr with
    stream := (d.forgetFor (es.map d.stamped)).tr.stream ++ es.map d.stamped, ins := (d.forgetFor (es.map d.stamped)).tr.ins + 1 } } := rfl
  rw [henter, hd]

/-- Settles O34: the entries each store makes, then what entering the stream does. -/
theorem stores : Obligations.Stores := by
  refine ⟨?_, ?_, ?_⟩
  · intro s u d sa nd imm i z l wide a mode entry hi h hr
    rcases hi with _ | ⟨_, _ | ⟨_, _ | ⟨_, _ | ⟨_, ⟨⟩⟩⟩⟩⟩
    all_goals exact scalarStore_ends (by decide) h hr
  · intro s u d b sa nd sc i z regs ls scale as mode vaOf entry entries hi h hr
    rcases hi with _ | ⟨_, _ | ⟨_, _ | ⟨_, _ | ⟨_, _ | ⟨_, ⟨⟩⟩⟩⟩⟩⟩
    all_goals exact vectorStore_ends h hr
  · intro s es t d
    have ht : t = { d with tr := { d.tr with stream := d.tr.stream ++ es.map d.stamped, ins := d.tr.ins + 1,
                                             early := (d.forgetFor (es.map d.stamped)).tr.early } } := s.enter_eq es
    have hsub := d.forgetFor_early (es.map d.stamped)
    clear_value t
    subst ht
    exact ⟨rfl, rfl, fun x hx => hsub hx, rfl⟩

end Sys2Proof.Machine
end

section
/-!
O20: BRV and the split of a path (R145, R206, R209).
-/

namespace Sys2Proof.Machine

/-! ### The split (R145) -/

/-- The issuing path after join entry n is pushed: the lanes that did not take the branch, in the entry's frame. -/
def State.inJoinFrame (u : State) (n : Nat) (rest : BitVec 32) : State :=
  ({ u with tr := { u.tr with psp := .ofNat 32 (n + 1) } } : State).setCur { u.cur with mask := rest, frame := .ofNat 32 (n + 1) }

@[simp] theorem State.inJoinFrame_sibling (u : State) (n : Nat) (rest : BitVec 32) : (u.inJoinFrame n rest).sibling = u.sibling :=
  State.setCur_sibling _ _
@[simp] theorem State.inJoinFrame_near (u : State) (n : Nat) (rest : BitVec 32) : (u.inJoinFrame n rest).cur.near = u.cur.near := by
  rw [State.inJoinFrame, State.setCur_cur]

/-- The join entry of a path that splits. -/
def Slot.joinEntry (x : Slot) : PathEntry := { kind := 1, jpc := x.jpc, mask := x.mask, fmt := x.fmt, link := x.frame }

/-- The child of a path x in the frame of join entry n, as the other slot takes it. -/
def Slot.child (x : Slot) (n : Nat) (taken : BitVec 32) (target : BitVec 48) (path : State) : Slot :=
  { live := true, pc := target, mask := taken, fmt := x.fmt, jpc := x.jpc, frame := .ofNat 32 (n + 1), nudge := path.cur.nudge,
    readyAt := path.cycle, near := x.near }
/-- The same child as the entry it is spilled to. -/
def Slot.childEntry (x : Slot) (n : Nat) (taken : BitVec 32) (target : BitVec 48) (path : State) : PathEntry :=
  { kind := 2, pc := target, mask := taken, fmt := x.fmt, jpc := x.jpc, link := .ofNat 32 (n + 1), nudge := path.cur.nudge }

/-- The second half of a split: the child of x takes the other slot when that is free, and is spilled otherwise. -/
def State.placeChild (path : State) (x : Slot) (n : Nat) (taken : BitVec 32) (target : BitVec 48) : Except Stop State :=
  if path.sibling.live || path.cur.near.isSome then
    match path.writeEntry (n + 1) (x.childEntry n taken target path) with
    | .error e => .error e
    | .ok v => .ok { v with tr := { v.tr with psp := .ofNat 32 (n + 2) } }
  else .ok (path.setSibling (x.child n taken target path))

section
variable {s u v : State} {n : Nat} {taken rest : BitVec 32} {target : BitVec 48}

/-- A split whose join entry is written goes on to place the child. -/
theorem State.split_of_written (hn : s.tr.psp.toNat = n) (hu : s.writeEntry n s.cur.joinEntry = .ok u) :
    s.split taken rest target = (u.inJoinFrame n rest).placeChild s.cur n taken target := by
  simp only [Slot.joinEntry] at hu
  simp only [State.split, hn, hu]
  rfl

/-- With the other slot free the child stands there. -/
theorem State.split_beside (hn : s.tr.psp.toNat = n) (hu : s.writeEntry n s.cur.joinEntry = .ok u) (hs : u.sibling.live = false)
    (hnear : u.cur.near = none) :
    s.split taken rest target = .ok ((u.inJoinFrame n rest).setSibling (s.cur.child n taken target (u.inJoinFrame n rest))) := by
  rw [State.split_of_written hn hu, State.placeChild, State.inJoinFrame_sibling, State.inJoinFrame_near, hs, hnear]
  rfl

/-- With the other slot taken the child is spilled: its entry stands above the join entry. -/
theorem State.split_spilled (hn : s.tr.psp.toNat = n) (hu : s.writeEntry n s.cur.joinEntry = .ok u) (hs : u.sibling.live = true)
    (hv : (u.inJoinFrame n rest).writeEntry (n + 1) (s.cur.childEntry n taken target (u.inJoinFrame n rest)) = .ok v) :
    s.split taken rest target = .ok { v with tr := { v.tr with psp := .ofNat 32 (n + 2) } } := by
  rw [State.split_of_written hn hu, State.placeChild, State.inJoinFrame_sibling, hs, hv]
  rfl

end

/-! ### BRV (R206) -/

theorem exec_brv (k : KReg) (f : BitVec 14) (s : State) : exec (.brv k f) s = run (.brv k f) s fun b t =>
    let a := t.target b f
    if t.pmask &&& t.rK k = 0 then .done t
    else if t.pmask &&& ~~~t.rK k = 0 then .jump a t
    else if !validTarget a then .stop (misaligned a)
    else if t.cur.near.isSome && decide (4 ≤ t.maskLevels) then .stop illop
    else if t.heldBack 1 then .wait id
    else orStop (t.split (t.pmask &&& t.rK k) (t.pmask &&& ~~~t.rK k) (a.setWidth 48)) .done := rfl

section
variable {k : KReg} {f : BitVec 14} {s t : State} {taken rest : BitVec 32} {a : Word64}

theorem exec_brv_noneTaken (ht : s.bound.pmask &&& s.bound.rK k = 0) (h : RunsOn (.brv k f) s) :
    exec (.brv k f) s = .next s.bound.onward := by
  rw [exec_brv]
  exact run_done h (if_pos ht) s.bound_pc

section
variable (ha : s.bound.target s.att f = a) (ht : s.bound.pmask &&& s.bound.rK k = taken) (ht0 : taken ≠ 0)
include ha ht ht0

theorem exec_brv_allTaken (hr : s.bound.pmask &&& ~~~s.bound.rK k = 0) (hv : a.toNat < 2 ^ 48 ∧ a.toNat % 4 = 0)
    (h : Runs (formOf (.brv k f)) s) : exec (.brv k f) s = .next (s.bound.at_ a) := by
  rw [exec_brv]
  refine run_jump h ?_ hv
  simp only [ha, ht, if_neg ht0, if_pos hr]

/-- A taken BRV to an address that is no target traps, whether it would split or not (R17). -/
theorem exec_brv_badTarget (hv : ¬ (a.toNat < 2 ^ 48 ∧ a.toNat % 4 = 0)) (hn : TrapsNow s) (h : Runs (formOf (.brv k f)) s) :
    exec (.brv k f) s = .next (s.takeTrap { cause := 2, addr := a, pc := s.pc.toNat, word := (Instr.brv k f).word }) := by
  rw [exec_brv]
  by_cases hr : s.bound.pmask &&& ~~~s.bound.rK k = 0
  · refine run_badJump h hn (t := s.bound) ?_ hv
    simp only [ha, ht, if_neg ht0, if_pos hr]
  · refine run_trap h hn (e := { cause := 2, addr := a }) ?_
    simp only [ha, ht, if_neg ht0, if_neg hr, mt (validTarget_iff a).1 hv, Bool.not_false, if_true]
    rfl

/-! The lanes part, outside a NEAR region. -/

variable (hr : s.bound.pmask &&& ~~~s.bound.rK k = rest) (hr0 : rest ≠ 0) (hv : a.toNat < 2 ^ 48 ∧ a.toNat % 4 = 0)
  (hnear : s.cur.near = none)
include hr hr0 hv hnear

/-- A BRV whose lanes part waits while lane 0's accesses are held back (R344), and ends as the split ends otherwise. -/
theorem exec_brv_parts (h : Runs (formOf (.brv k f)) s) : exec (.brv k f) s = .next (s.finish (Instr.brv k f).word
    (if s.bound.heldBack 1 then .wait id else orStop (s.bound.split taken rest (a.setWidth 48)) .done)) := by
  rw [exec_brv, run_eq h]
  simp only [ha, ht, hr, if_neg ht0, if_neg hr0, (validTarget_iff a).2 hv, State.bound_near, hnear, Option.isSome_none, Bool.not_true,
    Bool.false_and, Bool.false_eq_true, if_false]
  rfl

theorem exec_brv_held (hb : s.bound.heldBack 1 = true) (h : Runs (formOf (.brv k f)) s) : exec (.brv k f) s = .next s.mustWait := by
  rw [exec_brv_parts ha ht ht0 hr hr0 hv hnear h, if_pos hb]
  rfl
theorem exec_brv_split (hb : s.bound.heldBack 1 = false) (h : Runs (formOf (.brv k f)) s)
    (hs : s.bound.split taken rest (a.setWidth 48) = .ok t) : exec (.brv k f) s = .next (t.advanceWord (Instr.brv k f).word) := by
  rw [exec_brv_parts ha ht ht0 hr hr0 hv hnear h, if_neg (Bool.eq_false_iff.1 hb), hs]
  rfl

end
end

/-- Settles O20: no lane taken, every lane, a bad target, then the split: held back, beside, spilled. -/
theorem pathSplits : Obligations.PathSplits := by
  intro s k f i wide target valid taken rest n x entry number child path
  have ha : s.bound.target s.att f = target := target_eq s f
  have ht : s.bound.pmask &&& s.bound.rK k = taken := by rw [State.bound_pmask, State.bound_rK]; rfl
  have hr : s.bound.pmask &&& ~~~s.bound.rK k = rest := by rw [State.bound_pmask, State.bound_rK]; rfl
  have hn : s.bound.tr.psp.toNat = n := congrArg BitVec.toNat s.bound_psp
  refine ⟨fun h0 => exec_brv_noneTaken (ht.trans h0), fun ht0 hr0 => exec_brv_allTaken ha ht ht0 (hr.trans hr0),
    exec_brv_badTarget ha ht, fun ht0 => exec_brv_held ha ht ht0 hr, fun ht0 hr0 hv hnear hb _ h u hu hs hun => ?_,
    fun ht0 hr0 hv hnear hb _ h u v hu hs hw => ?_⟩
  · have hchild : x.child n taken (target.setWidth 48) (path u) = child (path u) := by
      rw [Slot.child, s.bound_near.trans hnear]
    rw [exec_brv_split ha ht ht0 hr hr0 hv hnear hb h (State.split_beside hn hu hs hun), ← hchild]
    rfl
  · exact exec_brv_split ha ht ht0 hr hr0 hv hnear hb h (State.split_spilled hn hu hs hw)

end Sys2Proof.Machine
end

section
/-!
O25: vector compares (R168, R176, R182).
-/

namespace Sys2Proof.Machine

/-- The conditions of R176 by the order of the two values. -/
theorem fcond_eq (c : FCond) (x y : FVal) : fcond c x y = match c with
    | .eq => x.cmp y == some .eq
    | .ne => x.cmp y != some .eq
    | .lt => x.cmp y == some .lt
    | .le => x.cmp y == some .lt || x.cmp y == some .eq
    | .gt => x.cmp y == some .gt
    | .ge => x.cmp y == some .gt || x.cmp y == some .eq
    | .un => x.cmp y == none
    | .or => x.cmp y != none := by
  unfold fcond
  rcases x.cmp y with - | - | - | - <;> cases c <;> rfl

/-- The conditions of R182 by the numbers of the two words. -/
theorem icond_eq (c : ICond) (x y : Word32) : icond c x y = match c with
    | .eq => decide (x = y)
    | .ne => decide (x ≠ y)
    | .lt => decide (x.toInt < y.toInt)
    | .le => decide (x.toInt ≤ y.toInt)
    | .gt => decide (y.toInt < x.toInt)
    | .ge => decide (y.toInt ≤ x.toInt)
    | .ltn => decide (x.toNat < y.toNat)
    | .len => decide (x.toNat ≤ y.toNat)
    | .gtn => decide (y.toNat < x.toNat)
    | .gen => decide (y.toNat ≤ x.toNat) := by
  cases c with
  | ne => exact decide_not.symm
  | _ => rfl

/-- A write of mask bits that completes. -/
theorem writeMask_eq {i : Instr} {s : State} (h : RunsOn i s) (d : KReg) (f : State → Fin 32 → Bool) :
    simple i s (fun b t => t.writeMask b d (f t)) = .next (s.bound.writeMask s.att d (f s.bound)).onward :=
  simple_eq h _ (by simp [State.pc])

section
variable {s : State} {d : KReg} {a b : VReg} {v : Fin 32 → Bool}

theorem exec_vcmpf {c : FCond} (h : RunsOn (.vcmpf c d a b) s) (hv : ∀ l, fcond c (val32 (s.rV a l)) (val32 (s.rV b l)) = v l) :
    exec (.vcmpf c d a b) s = .next (s.bound.writeMask s.att d v).onward := by
  obtain rfl : (fun l => fcond c (val32 (s.rV a l)) (val32 (s.rV b l))) = v := funext hv
  simp only [← s.bound_rV]
  exact writeMask_eq h d fun t l => fcond c (val32 (t.rV a l)) (val32 (t.rV b l))

theorem exec_vcmpi {c : ICond} (h : RunsOn (.vcmpi c d a b) s) (hv : ∀ l, icond c (s.rV a l) (s.rV b l) = v l) :
    exec (.vcmpi c d a b) s = .next (s.bound.writeMask s.att d v).onward := by
  obtain rfl : (fun l => icond c (s.rV a l) (s.rV b l)) = v := funext hv
  simp only [← s.bound_rV]
  exact writeMask_eq h d fun t l => icond c (t.rV a l) (t.rV b l)

end

/-- Settles O25: each code of R176 by the order of the values, each of R182 by the numbers. -/
theorem vectorCompares : Obligations.VectorCompares := by
  intro s d a b i v x y c hi h
  simp only [List.mem_cons, Prod.mk.injEq, List.not_mem_nil, or_false] at hi
  rcases hi with ⟨rfl, rfl⟩ | ⟨rfl, rfl⟩ | ⟨rfl, rfl⟩ | ⟨rfl, rfl⟩ | ⟨rfl, rfl⟩ | ⟨rfl, rfl⟩ | ⟨rfl, rfl⟩ | ⟨rfl, rfl⟩ | hi
  iterate 8 · exact exec_vcmpf h fun _ => fcond_eq ..
  · rcases hi with ⟨rfl, rfl⟩ | ⟨rfl, rfl⟩ | ⟨rfl, rfl⟩ | ⟨rfl, rfl⟩ | ⟨rfl, rfl⟩ | ⟨rfl, rfl⟩ | ⟨rfl, rfl⟩ | ⟨rfl, rfl⟩ | ⟨rfl, rfl⟩ |
      ⟨rfl, rfl⟩ <;>
      exact exec_vcmpi h fun _ => icond_eq ..

end Sys2Proof.Machine
end

section
/-!
O26: vector floating point, FP32 and packed (R171, R173 to R175, R189).
-/

namespace Sys2Proof.Machine

/-! ### What a form writes and draws (R171) -/

section
variable {i : Instr} {s : State} {d : VReg}

/-- A form that rounds its lanes draws one value in each lane it writes under SR. -/
theorem simple_drawFor_eq (h : RunsOn i s) {f : Bound → State → Fin 32 → Word32} {v : Fin 32 → Word32} (hv : ∀ l, f s.att s.bound l = v l) :
    simple i s (fun b t => (t.writeLanes b d (f b t)).drawFor b 1) =
      .next (if true && vmode s.att s == .sr then (s.bound.writeLanes s.att d v).advanceDraws (wmask s.att s) 1
        else s.bound.writeLanes s.att d v).onward := by
  obtain rfl : f s.att s.bound = v := funext hv
  rw [simple_eq h _ (by simp [State.pc]), State.drawFor_writeLanes, vmode_bound, wmask_bound]
  simp only [Bool.true_and, beq_iff_eq]

/-- An FP32 form writes its exact value, rounded once in the mode in force. -/
theorem roundV_writes (h : RunsOn i s) {g : RMode → Bound → State → Fin 32 → FVal} {v : Fin 32 → Word32}
    (hv : ∀ l, round32 (vmode s.att s) (s.rho l 0) (g (vmode s.att s) s.att s.bound l) = v l) :
    roundV i d g s = .next (if true && vmode s.att s == .sr then (s.bound.writeLanes s.att d v).advanceDraws (wmask s.att s) 1
      else s.bound.writeLanes s.att d v).onward :=
  simple_drawFor_eq h fun l => by rw [vmode_bound, s.bound_rho, hv]

/-- A form that does not round draws nothing. -/
theorem plainV_writes (h : RunsOn i s) {g : Bound → State → Fin 32 → Word32} {v : Fin 32 → Word32} (hv : ∀ l, g s.att s.bound l = v l) :
    plainV i d g s = .next (s.bound.writeLanes s.att d v).onward := by
  rw [plainV_eq h, show g s.att s.bound = v from funext hv]

end

/-! ### Dot products (R189) -/

theorem byte8_eq (x : Word32) (k : Nat) : byte8 x k = x.extractLsb' (8 * k) 8 :=
  BitVec.eq_of_toNat_eq (by simp [byte8, Nat.shiftRight_eq_div_pow])

/-! ### Packed parts (R175) -/

/-- The exact value of a part in the packed forms that round, numbered as the sum, the difference, the product and the three fused forms. -/
def packedExact (f : Fmt) (d a b : VReg) (n : Nat) (m : RMode) (t : Bound) (s : State) (l : Fin 32) (k : Nat) : FVal :=
  let x := f.unpack (part16 (s.rV a l) k)
  let y := f.unpack (part16 (s.rV b l) k)
  let c := f.unpack (part16 (s.third t d l) k)
  match n with
  | 0 => sumExact m [x, y]
  | 1 => sumExact m [x, y.neg]
  | 2 => x.mul y
  | 3 => sumExact m [x.mul y, c]
  | 4 => sumExact m [x.mul y, c.neg]
  | _ => sumExact m [c, (x.mul y).neg]

/-- The code of a part in the packed forms that do not round, numbered on from 6: the smaller, the larger, the magnitude, the negative. -/
def packedCode (f : Fmt) (a b : VReg) (n : Nat) (s : State) (l : Fin 32) (k : Nat) : Nat :=
  match n with
  | 6 => f.minCode (part16 (s.rV a l) k) (part16 (s.rV b l) k)
  | 7 => f.largerCode (part16 (s.rV a l) k) (part16 (s.rV b l) k)
  | 8 => f.absCode (part16 (s.rV a l) k)
  | _ => f.negCode (part16 (s.rV a l) k)

section
variable (f : Fmt) (d a b : VReg) (n : Nat) (s : State)

theorem packedExact_bound (m : RMode) (t : Bound) : packedExact f d a b n m t s.bound = packedExact f d a b n m t s := by
  funext l k
  unfold packedExact
  simp only [State.bound_rV, State.bound_third]
theorem packedCode_bound : packedCode f a b n s.bound = packedCode f a b n s := by
  funext l k
  unfold packedCode
  simp only [State.bound_rV]

end

section
variable {f : Fmt} {d a b : VReg} {n : Nat} {i : Instr} {s : State} {v : Fin 32 → Nat → Nat}

/-- A packed form that rounds: each part once, and one value drawn for the two. -/
theorem roundP_packedExact (h : RunsOn i s)
    (hv : ∀ l k, f.round .plain (vmode s.att s) (s.rho l k) (packedExact f d a b n (vmode s.att s) s.att s l k) = v l k) :
    roundP i f d (packedExact f d a b n) s = .next
      (if vmode s.att s = .sr
        then (s.bound.writeLanes s.att d fun l => BitVec.ofNat 16 (v l 1) ++ BitVec.ofNat 16 (v l 0)).advanceDraws (wmask s.att s) 1
        else s.bound.writeLanes s.att d fun l => BitVec.ofNat 16 (v l 1) ++ BitVec.ofNat 16 (v l 0)).onward := by
  rw [roundP_eq h, packedExact_bound, State.drawFor_writeLanes, vmode_bound, wmask_bound]
  simp only [hv]

theorem codeP_packedCode (h : RunsOn i s) (hv : ∀ l k, packedCode f a b n s l k = v l k) :
    codeP i d (packedCode f a b n) s =
      .next (s.bound.writeLanes s.att d fun l => BitVec.ofNat 16 (v l 1) ++ BitVec.ofNat 16 (v l 0)).onward := by
  rw [codeP_eq h, packedCode_bound]
  simp only [hv]

end

/-- Settles O26: the exact value or the code each FP32 form writes; a packed form is its operation on each part. -/
theorem vectorFloat : Obligations.VectorFloat := by
  constructor
  · intro s d a b i v rounds m x y c part r dot byte t hi h
    have ha (l : Fin 32) : s.bound.rV a l = s.rV a l := s.bound_rV a l
    have hb (l : Fin 32) : s.bound.rV b l = s.rV b l := s.bound_rV b l
    have hc (l : Fin 32) : s.bound.third s.att d l = s.third s.att d l := s.bound_third s.att d l
    simp only [List.mem_cons, Prod.mk.injEq, List.not_mem_nil, or_false] at hi
    rcases hi with ⟨rfl, rfl, rfl⟩ | ⟨rfl, rfl, rfl⟩ | ⟨rfl, rfl, rfl⟩ | ⟨rfl, rfl, rfl⟩ | ⟨rfl, rfl, rfl⟩ | ⟨rfl, rfl, rfl⟩ | ⟨rfl, rfl, rfl⟩ |
      ⟨rfl, rfl, rfl⟩ | ⟨rfl, rfl, rfl⟩ | ⟨rfl, rfl, rfl⟩ | ⟨rfl, rfl, rfl⟩ | ⟨rfl, rfl, rfl⟩ | ⟨rfl, rfl, rfl⟩ | ⟨rfl, rfl, rfl⟩ |
      ⟨rfl, rfl, rfl⟩ | ⟨rfl, rfl, rfl⟩ | ⟨rfl, rfl, rfl⟩ | ⟨rfl, rfl, rfl⟩ | ⟨rfl, rfl, rfl⟩ | ⟨rfl, rfl, rfl⟩ <;>
    dsimp only [exec, execVaddF32, execVsubF32, execVmulF32, execVfmaF32, execVfmsF32, execVfnmaF32, execVdot2bf, execVdot2h, execVscaleF32, execVrndF32,
      execVsqrt, execVminF32, execVmaxF32, execVabsF32, execVnegF32, execVgetexpF32, execVmovF32, execVclampF32, execVdot4i, execVdot4n]
    · exact roundV_writes h fun l => by rw [ha, hb]; rfl
    · exact roundV_writes h fun l => by rw [ha, hb]; rfl
    · exact roundV_writes h fun l => by rw [ha, hb]; rfl
    · exact roundV_writes h fun l => by rw [ha, hb, hc]; rfl
    · exact roundV_writes h fun l => by rw [ha, hb, hc]; rfl
    · exact roundV_writes h fun l => by rw [ha, hb, hc]; rfl
    · exact roundV_writes h fun l => by rw [ha, hb, hc]; rfl
    · exact roundV_writes h fun l => by rw [ha, hb, hc]; rfl
    · exact simple_drawFor_eq h fun l => by rw [ha, hb, vmode_bound, s.bound_rho]
    · exact simple_drawFor_eq h fun l => by rw [ha, vmode_bound, s.bound_rho]
    · exact simple_drawFor_eq h fun l => by rw [ha, vmode_bound, s.bound_rho]
    · exact plainV_writes h fun l => by rw [ha, hb]
    · exact plainV_writes h fun l => by rw [ha, hb]
    · exact plainV_writes h fun l => by rw [ha]
    · exact plainV_writes h fun l => by rw [ha]
    · exact plainV_writes h fun l => by rw [ha]
    · exact plainV_writes h fun l => by rw [ha]
    · exact plainV_writes h fun l => by rw [ha, hb, hc]
    · exact plainV_writes h fun l => by simp only [ha, hb, hc, byte8_eq]; rfl
    · exact plainV_writes h fun l => by simp only [ha, hb, hc, byte8_eq]; rfl
  · intro s d a b i f n v m p x y c r t hi hv h
    have hexec : exec i s = if n < 6 then roundP i f d (packedExact f d a b n) s else codeP i d (packedCode f a b n) s := by
      simp only [List.mem_cons, Prod.mk.injEq, List.not_mem_nil, or_false] at hi
      rcases hi with ⟨rfl, rfl, rfl⟩ | ⟨rfl, rfl, rfl⟩ | ⟨rfl, rfl, rfl⟩ | ⟨rfl, rfl, rfl⟩ | ⟨rfl, rfl, rfl⟩ | ⟨rfl, rfl, rfl⟩ | ⟨rfl, rfl, rfl⟩ |
        ⟨rfl, rfl, rfl⟩ | ⟨rfl, rfl, rfl⟩ | ⟨rfl, rfl, rfl⟩ | ⟨rfl, rfl, rfl⟩ | ⟨rfl, rfl, rfl⟩ | ⟨rfl, rfl, rfl⟩ | ⟨rfl, rfl, rfl⟩ |
        ⟨rfl, rfl, rfl⟩ | ⟨rfl, rfl, rfl⟩ | ⟨rfl, rfl, rfl⟩ | ⟨rfl, rfl, rfl⟩ | ⟨rfl, rfl, rfl⟩ | ⟨rfl, rfl, rfl⟩ <;> rfl
    have hv : ∀ l k, (if n < 6 then f.round .plain m (s.rho l k) (packedExact f d a b n m s.att s l k) else packedCode f a b n s l k) = v l k := by
      simp only [List.mem_cons, Prod.mk.injEq, List.not_mem_nil, or_false] at hv
      rcases hv with ⟨rfl, rfl⟩ | ⟨rfl, rfl⟩ | ⟨rfl, rfl⟩ | ⟨rfl, rfl⟩ | ⟨rfl, rfl⟩ | ⟨rfl, rfl⟩ | ⟨rfl, rfl⟩ | ⟨rfl, rfl⟩ | ⟨rfl, rfl⟩ |
        ⟨rfl, rfl⟩ <;> exact fun _ _ => rfl
    rw [hexec, ite_and]
    by_cases hn : n < 6
    · simp only [if_pos hn] at hv ⊢
      exact roundP_packedExact h hv
    · simp only [if_neg hn] at hv ⊢
      exact codeP_packedCode h hv

end Sys2Proof.Machine
end

section
/-!
O27: the points the rules name of VSCALE, VRND, VGETEXP, VCLAMP and the function unit (R173, R174, R187).
-/

namespace Sys2Proof.Machine

/-! ### NaN, infinities and zeros (R83, R88) -/

theorem val32_eq_nan {x : Word32} (h : (val32 x).isNan = true) : val32 x = .nan := by
  cases hx : val32 x with
  | nan => rfl
  | inf s => rw [hx] at h; cases h
  | fin s m e => rw [hx] at h; cases h

/-- The infinities and the zeros are the codes of their own values. -/
theorem val32_special {x : Word32} (h : x ∈ [0x00000000, 0x80000000, 0x7F800000, 0xFF800000]) :
    ∃ s, (val32 x = .fin s 0 (-149) ∧ x = if s then 0x80000000 else 0) ∨ (val32 x = .inf s ∧ x = if s then 0xFF800000 else 0x7F800000) := by
  simp only [List.mem_cons, List.not_mem_nil, or_false] at h
  rcases h with rfl | rfl | rfl | rfl
  · exact ⟨false, .inl ⟨by decide, rfl⟩⟩
  · exact ⟨true, .inl ⟨by decide, rfl⟩⟩
  · exact ⟨false, .inr ⟨by decide, rfl⟩⟩
  · exact ⟨true, .inr ⟨by decide, rfl⟩⟩

theorem round32_nan (m : RMode) (r : Nat) : round32 m r .nan = 0x7FC00000 := rfl
theorem round32_inf (m : RMode) (r : Nat) (s : Bool) : round32 m r (.inf s) = if s then 0xFF800000 else 0x7F800000 := by cases s <;> rfl
theorem round32_zero (m : RMode) (r : Nat) (s : Bool) (e : Int) : round32 m r (.fin s 0 e) = if s then 0x80000000 else 0 := by cases s <;> rfl

/-! ### VSCALE, VRND and VGETEXP (R174) -/

section
variable {x : Word32} (m : RMode) (r : Nat) (n : Int)

theorem scale32_of_nan (h : val32 x = .nan) : scale32 m r x n = 0x7FC00000 := by rw [scale32, h]; rfl
theorem rnd32_of_nan (h : val32 x = .nan) : rnd32 m r x = 0x7FC00000 := by rw [rnd32, h]; rfl
theorem getexp32_of_nan (h : val32 x = .nan) : getexp32 x = 0x7FC00000 := by rw [getexp32, h]

theorem scale32_special (h : x ∈ [0x00000000, 0x80000000, 0x7F800000, 0xFF800000]) : scale32 m r x n = x := by
  obtain ⟨s, ⟨hv, hx⟩ | ⟨hv, hx⟩⟩ := val32_special h
  · rw [scale32, hv]
    exact (round32_zero ..).trans hx.symm
  · rw [scale32, hv]
    exact (round32_inf ..).trans hx.symm
theorem rnd32_special (h : x ∈ [0x00000000, 0x80000000, 0x7F800000, 0xFF800000]) : rnd32 m r x = x := by
  obtain ⟨s, ⟨hv, hx⟩ | ⟨hv, hx⟩⟩ := val32_special h
  · rw [rnd32, hv]
    exact (round32_zero ..).trans hx.symm
  · rw [rnd32, hv]
    exact (round32_inf ..).trans hx.symm

end

/-! ### The smaller and the larger of two values, and VCLAMP (R85, R173) -/

theorem minExp_pair_comm (x y : FVal) (q : Int) : minExp [x, y] q = minExp [y, x] q := by
  cases x <;> cases y <;> simp only [minExp]
  omega

/-- The order of two values, taken the other way round. -/
theorem FVal.cmp_swap (x y : FVal) : y.cmp x = (x.cmp y).map Ordering.swap := by
  unfold FVal.cmp
  extract_lets key p q
  have hq : p = q := minExp_pair_comm y x 0
  rw [Bool.or_comm, Bool.or_comm (key y != 0), hq]
  split
  · rfl
  · split <;> rw [Option.map_some, Std.OrientedCmp.eq_swap (cmp := compare)]

theorem FVal.isNan_of_cmp {x y : FVal} {o : Ordering} (h : x.cmp y = some o) : x.isNan = false := by
  cases x with
  | nan => cases h
  | _ => rfl

section
variable {f : Fmt} {p q : Nat}

theorem Fmt.minCode_of_lt (h : (f.unpack p).cmp (f.unpack q) = some .lt) : f.minCode p q = p := by rw [Fmt.minCode, h]
theorem Fmt.minCode_of_gt (h : (f.unpack p).cmp (f.unpack q) = some .gt) : f.minCode p q = q := by rw [Fmt.minCode, h]
theorem Fmt.minCode_of_nans (hp : f.unpack p = .nan) (hq : f.unpack q = .nan) : f.minCode p q = f.qnan := by
  rw [Fmt.minCode, hp, hq]
  rfl
theorem Fmt.largerCode_of_nan (hp : f.unpack p = .nan) : f.largerCode p q = if (f.unpack q).isNan then f.qnan else q := by
  rw [Fmt.largerCode, hp]
  rfl

end

section
variable {x y c : Word32} (hx : val32 x = .nan)
include hx

/-- Beside a NaN the larger of x and y is y, or the canonical NaN for two. -/
theorem clamp32_of_nan : clamp32 x y c = .ofNat 32 (fp32.minCode c.toNat (if (val32 y).isNan then fp32.qnan else y.toNat)) := by
  rw [clamp32, Fmt.largerCode_of_nan hx, val32]

theorem clamp32_of_nans (hy : val32 y = .nan) (hc : val32 c = .nan) : clamp32 x y c = 0x7FC00000 := by
  rw [clamp32_of_nan hx, hy, if_pos (show FVal.nan.isNan = true from rfl), Fmt.minCode_of_nans hc (by decide)]
  rfl
theorem clamp32_of_nan_of_lt (h : (val32 y).cmp (val32 c) = some .lt) : clamp32 x y c = y := by
  have hcy : (val32 c).cmp (val32 y) = some .gt := by rw [FVal.cmp_swap (val32 y), h, Option.map_some, Ordering.swap]
  rw [clamp32_of_nan hx, FVal.isNan_of_cmp h, if_neg Bool.false_ne_true, Fmt.minCode_of_gt hcy, BitVec.ofNat_toNat, BitVec.setWidth_eq]
theorem clamp32_of_nan_of_gt (h : (val32 y).cmp (val32 c) = some .gt) : clamp32 x y c = c := by
  have hcy : (val32 c).cmp (val32 y) = some .lt := by rw [FVal.cmp_swap (val32 y), h, Option.map_some, Ordering.swap]
  rw [clamp32_of_nan hx, FVal.isNan_of_cmp h, if_neg Bool.false_ne_true, Fmt.minCode_of_lt hcy, BitVec.ofNat_toNat, BitVec.setWidth_eq]

end

/-! ### The function unit (R187) -/

/-- Every function of the unit answers a NaN with the canonical one. -/
theorem sfu_of_nan {f : Word32 → Word32} {m : RMode} {r : Nat}
    (hf : f ∈ [Sfu.rcp, Sfu.rsq, Sfu.sqrt m r, Sfu.exp2, Sfu.log2, Sfu.sincos 5 0, Sfu.sincos 6 1, Sfu.tanh, Sfu.sigm])
    {x : Word32} (hx : val32 x = .nan) : f x = 0x7FC00000 := by
  have hflush : fp32.flush (val32 x) = .nan := by rw [hx]; rfl
  simp only [List.mem_cons, List.not_mem_nil, or_false] at hf
  rcases hf with rfl | rfl | rfl | rfl | rfl | rfl | rfl | rfl | rfl
  · rw [Sfu.rcp, hflush]; rfl
  · rw [Sfu.rsq, hflush]; rfl
  · rw [Sfu.sqrt, hflush]; rfl
  · rw [Sfu.exp2, hflush]; rfl
  · rw [Sfu.log2, hflush]; rfl
  · rw [Sfu.sincos, hflush]; rfl
  · rw [Sfu.sincos, hflush]; rfl
  · rw [Sfu.tanh, hflush]; rfl
  · rw [Sfu.sigm, hflush]; rfl

/-- The root of an infinity or a zero is exact: no mode rounds it. -/
theorem sqrt_special (m : RMode) (r : Nat) :
    [0x7F800000, 0xFF800000, 0x00000000, 0x80000000].map (Sfu.sqrt m r) = [0x7F800000, 0x7FC00000, 0x00000000, 0x80000000] := by
  have hroots : [0x7F800000, 0xFF800000, 0x00000000, 0x80000000].map (fun x => (fp32.flush (val32 x)).sqrt) =
      [.inf false, .nan, .fin false 0 0, .fin true 0 0] := by decide
  calc [0x7F800000, 0xFF800000, 0x00000000, 0x80000000].map (Sfu.sqrt m r)
      = ([0x7F800000, 0xFF800000, 0x00000000, 0x80000000].map fun x => (fp32.flush (val32 x)).sqrt).map (round32 m r) := by
        rw [List.map_map]; rfl
    _ = _ := by rw [hroots]; rfl

/-- Settles O27: a NaN by the lemmas on NaN operands, an infinity or a zero by its value, the other points by evaluation. -/
theorem floatPoints : Obligations.FloatPoints := by
  refine ⟨fun m r n x => ⟨fun h => ?_, fun h => ⟨scale32_special m r n h, rnd32_special m r h⟩, ?_, ?_⟩,
    fun x y c => ⟨fun hx hy hc => ?_, fun hx h => ?_, fun hx h => ?_, fun h => ?_⟩, fun m r => ⟨fun f hf x h => ?_, ?_⟩⟩
  · have hx := val32_eq_nan h
    exact ⟨scale32_of_nan m r n hx, rnd32_of_nan m r hx, getexp32_of_nan hx⟩
  · decide
  · rw [rnd32, show val32 0xBE800000 = .fin true (2 ^ 23) (-25) by decide]
    rfl
  · exact clamp32_of_nans (val32_eq_nan hx) (val32_eq_nan hy) (val32_eq_nan hc)
  · exact clamp32_of_nan_of_lt (val32_eq_nan hx) h
  · exact clamp32_of_nan_of_gt (val32_eq_nan hx) h
  · simp only [List.mem_cons, Prod.mk.injEq, List.not_mem_nil, or_false] at h
    rcases h with ⟨rfl, rfl, rfl⟩ | ⟨rfl, rfl, rfl⟩ | ⟨rfl, rfl, rfl⟩ | ⟨rfl, rfl, rfl⟩ | ⟨rfl, rfl, rfl⟩ | ⟨rfl, rfl, rfl⟩ |
      ⟨rfl, rfl, rfl⟩ | ⟨rfl, rfl, rfl⟩ <;> decide
  · exact sfu_of_nan hf (val32_eq_nan h)
  · exact ⟨by decide, by decide, sqrt_special m r, by decide, by decide, by decide, by decide, by decide, by decide⟩

end Sys2Proof.Machine
end

section
/-!
O29: shuffles and votes (R196, R198 to R201).
-/

namespace Sys2Proof.Machine

/-! ### Shuffles (R199) -/

/-- The number of the lane a shuffle reads (R199). -/
def State.shuffleIndex (s : State) (k : Shuffle) (l : Fin 32) (n : Nat) : Nat :=
  match k with
  | .idx | .bcast => s.base l + n % s.tile
  | .up => if l.val < s.base l + n then l.val else l.val - n
  | .down => if s.base l + s.tile - 1 < l.val + n then l.val else l.val + n
  | .xor => l.val ^^^ (n % s.tile)

theorem State.shuffleLane_eq (s : State) (k : Shuffle) (l : Fin 32) (n : Nat) : s.shuffleLane k l n = Fin.ofNat 32 (s.shuffleIndex k l n) := by
  have self : Fin.ofNat 32 l.val = l := Fin.ext (Nat.mod_eq_of_lt l.isLt)
  cases k with
  | idx | bcast | xor => rfl
  | up | down =>
    simp only [State.shuffleLane, State.shuffleIndex]
    rw [apply_ite (Fin.ofNat 32), self]

theorem State.bound_shuffleIndex (s : State) (k : Shuffle) (l : Fin 32) (n : Nat) : s.bound.shuffleIndex k l n = s.shuffleIndex k l n := by
  simp only [State.shuffleIndex, State.bound_base, State.bound_tile]

/-- A shuffle that completes, its operand read before the attachments are bound. -/
theorem shuffle_index_eq {i : Instr} {s : State} (h : RunsOn i s) (k : Shuffle) (d a : VReg) {n : State → Fin 32 → Nat} (hn : n s.bound = n s) :
    shuffle i k d a n s = .next (s.bound.writeLanes s.att d fun l => s.rV a (Fin.ofNat 32 (s.shuffleIndex k l (n s l)))).onward := by
  rw [shuffle_eq h, hn]
  simp only [State.shuffleLane_eq, State.bound_shuffleIndex]

/-! ### Lanes of one tile (R153, R196) -/

theorem getLsbD_maskOf (p : Fin 32 → Bool) (l : Fin 32) : (maskOf p).getLsbD l = p l := by
  rw [maskOf, BitVec.getLsbD_ofFnLE, dif_pos l.isLt]

theorem State.sameTile_iff {s : State} (h : 0 < s.tr.tilesz.toNat) (i j : Fin 32) :
    s.sameTile i j = true ↔ i.val / s.tr.tilesz.toNat = j.val / s.tr.tilesz.toNat := by
  rw [State.sameTile_eq, decide_eq_true_iff, Nat.mul_left_cancel_iff h]

theorem State.mem_activeTile {s : State} (h : 0 < s.tr.tilesz.toNat) {j l : Fin 32} :
    j ∈ s.activeTile l ↔ s.cur.mask.getLsbD j = true ∧ j.val / s.tr.tilesz.toNat = l.val / s.tr.tilesz.toNat := by
  rw [State.activeTile, List.mem_filter, mem_lanesOf, State.sameTile_iff h, State.pmask]

/-! ### Votes (R200, R201) -/

/-- The lanes of the path whose tile holds a lane of q. -/
def State.anyVote (s : State) (q : KReg) : BitVec 32 := maskOf fun l => s.pmask.getLsbD l && (s.activeTile l).any fun j => (s.rK q).getLsbD j
/-- The lanes of the path whose tile has every lane of the path in q. -/
def State.allVote (s : State) (q : KReg) : BitVec 32 := maskOf fun l => s.pmask.getLsbD l && (s.activeTile l).all fun j => (s.rK q).getLsbD j
/-- The lanes before which no active lane of their tile holds their value. -/
def State.firstOfValue (s : State) (a : VReg) : BitVec 32 :=
  maskOf fun l => !((s.activeTile l).any fun (j : Fin 32) => decide (j.val < l.val) && s.rV a j == s.rV a l)

theorem State.bound_anyVote (s : State) (q : KReg) : s.bound.anyVote q = s.anyVote q := by
  simp only [State.anyVote, State.bound_pmask, State.bound_activeTile, State.bound_rK]
theorem State.bound_allVote (s : State) (q : KReg) : s.bound.allVote q = s.allVote q := by
  simp only [State.allVote, State.bound_pmask, State.bound_activeTile, State.bound_rK]
theorem State.bound_firstOfValue (s : State) (a : VReg) : s.bound.firstOfValue a = s.firstOfValue a := by
  simp only [State.firstOfValue, State.bound_activeTile, State.bound_rV]

section tile
variable {s : State} (h : 0 < s.tr.tilesz.toNat)
include h

theorem State.getLsbD_anyVote (q : KReg) (l : Fin 32) : (s.anyVote q).getLsbD l = true ↔ s.cur.mask.getLsbD l = true ∧
    ∃ j : Fin 32, j.val / s.tr.tilesz.toNat = l.val / s.tr.tilesz.toNat ∧ s.cur.mask.getLsbD j = true ∧ (s.rK q).getLsbD j = true := by
  rw [State.anyVote, getLsbD_maskOf, Bool.and_eq_true, List.any_eq_true, State.pmask]
  simp only [State.mem_activeTile h, and_assoc, and_left_comm]

theorem State.getLsbD_allVote (q : KReg) (l : Fin 32) : (s.allVote q).getLsbD l = true ↔ s.cur.mask.getLsbD l = true ∧
    ∀ j : Fin 32, j.val / s.tr.tilesz.toNat = l.val / s.tr.tilesz.toNat → s.cur.mask.getLsbD j = true → (s.rK q).getLsbD j = true := by
  rw [State.allVote, getLsbD_maskOf, Bool.and_eq_true, List.all_eq_true, State.pmask]
  exact and_congr_right fun _ => forall_congr' fun j => by rw [State.mem_activeTile h, and_comm, and_imp]

theorem State.getLsbD_firstOfValue (a : VReg) (l : Fin 32) : (s.firstOfValue a).getLsbD l = true ↔
    ∀ j : Fin 32, j.val < l.val → j.val / s.tr.tilesz.toNat = l.val / s.tr.tilesz.toNat → s.cur.mask.getLsbD j = true → s.rV a j ≠ s.rV a l := by
  rw [State.firstOfValue, getLsbD_maskOf, Bool.not_eq_true', List.any_eq_false]
  refine forall_congr' fun j => ?_
  rw [State.mem_activeTile h, Bool.and_eq_true, decide_eq_true_iff, beq_iff_eq, not_and]
  exact ⟨fun H hj ht hm => H ⟨hm, ht⟩ hj, fun H hm hj => H hj hm.2 hm.1⟩

end tile

/-- An instruction that writes one scalar register, and completes. -/
theorem simple_wS_eq {i : Instr} {s : State} (h : RunsOn i s) (d : SReg) {f : State → Word64} (hf : f s.bound = f s) :
    simple i s (fun _ t => t.wS d (f t)) = .next (s.bound.wS d (f s)).onward := by
  rw [simple_eq h _ (by simp [State.pc]), hf]

/-- Settles O29: the lane each shuffle names; the members of a lane's tile, then each vote over them. -/
theorem shufflesAndVotes : Obligations.ShufflesAndVotes := by
  constructor
  · intro s d a b r n i j size base x up down hi h
    have reg (k : Shuffle) := shuffle_index_eq h k d a (n := fun t _ => (t.rS r).toNat) (by simp only [State.bound_rS])
    have imm (k : Shuffle) := shuffle_index_eq h k d a (n := fun _ _ => n.toNat) rfl
    simp only [List.mem_cons, Prod.mk.injEq, List.not_mem_nil, or_false] at hi
    rcases hi with ⟨rfl, rfl⟩ | ⟨rfl, rfl⟩ | ⟨rfl, rfl⟩ | ⟨rfl, rfl⟩ | ⟨rfl, rfl⟩ | ⟨rfl, rfl⟩ | ⟨rfl, rfl⟩ | ⟨rfl, rfl⟩ | ⟨rfl, rfl⟩
    · exact shuffle_index_eq h .idx d a (n := fun t l => (t.rV b l).toNat) (by simp only [State.bound_rV])
    · exact reg .up
    · exact reg .down
    · exact reg .xor
    · exact reg .bcast
    · exact imm .up
    · exact imm .down
    · exact imm .xor
    · exact imm .bcast
  · intro s d k q a tile m
    refine ⟨fun h => ?_, fun ht h => ?_, fun ht h => ?_, fun ht h => ?_⟩
    · exact simple_wS_eq h d (f := fun t => (t.rK k &&& t.pmask).setWidth 64) (by simp only [State.bound_rK, State.bound_pmask])
    · exact ⟨_, simple_wS_eq h d (f := fun t => (t.anyVote k).setWidth 64) (by simp only [State.bound_anyVote]), State.getLsbD_anyVote ht k⟩
    · exact ⟨_, simple_wS_eq h d (f := fun t => (t.allVote k).setWidth 64) (by simp only [State.bound_allVote]), State.getLsbD_allVote ht k⟩
    · have hx := simple_eq h (fun _ t => t.wK q t.pmask (t.firstOfValue a)) (by simp [State.pc])
      rw [State.bound_pmask, State.bound_firstOfValue] at hx
      exact ⟨_, hx, State.getLsbD_firstOfValue ht a⟩

end Sys2Proof.Machine
end

section
/-!
O22: circles (R213 to R219).
-/

namespace Sys2Proof.Machine

/-! ### A circle instruction by its meaning's end (R213) -/

section circleOp
variable {i : Instr} {s : State} {a : SReg} {k : Nat → State → Res}

/-- A number with a bit above 4 traps, whatever the instruction would do. -/
theorem circleOp_badNumber (h : Runs (formOf i) s) (hn : TrapsNow s) (hc : 32 ≤ (s.rS a).toNat) (k : Nat → State → Res) :
    circleOp i a s k = .next (s.takeTrap { cause := 1, aux := s.rS a, pc := s.pc.toNat, word := i.word }) :=
  run_trap h hn (e := { cause := 1, aux := s.rS a }) (by rw [State.bound_rS, if_pos hc]; rfl)

/-- Below 32 the meaning is run on the circle of that number. -/
theorem circleOp_eq (h : Runs (formOf i) s) (hc : (s.rS a).toNat < 32) (k : Nat → State → Res) :
    circleOp i a s k = .next (s.finish i.word (k (s.rS a).toNat s.bound)) := by
  unfold circleOp
  rw [run_eq h]
  simp only [State.bound_rS, if_neg (Nat.not_le.2 hc)]
  rfl

theorem circleOp_trap (h : Runs (formOf i) s) (hn : TrapsNow s) (hc : (s.rS a).toNat < 32) {v : Word64}
    (hk : k (s.rS a).toNat s.bound = .stop (illopAux v)) :
    circleOp i a s k = .next (s.takeTrap { cause := 1, aux := v, pc := s.pc.toNat, word := i.word }) := by
  rw [circleOp_eq h hc, hk]
  exact congrArg _ (State.stopWord_trap hn _ _)

theorem circleOp_done (h : RunsOn i s) (hc : (s.rS a).toNat < 32) {t : State} (hk : k (s.rS a).toNat s.bound = .done t) (hp : t.pc = s.pc) :
    circleOp i a s k = .next t.onward := by
  rw [circleOp_eq h.1 hc, hk, State.finish, State.advanceWord_eq (by rw [hp]; exact h.2)]

end circleOp

/-- Each circle instruction is a circle operation of its number. -/
theorem exec_circleOp {i : Instr} {d a : SReg}
    (hi : i ∈ [Instr.cjoin a, Instr.cleave a, Instr.carrive a, Instr.cwait a, Instr.csync a, Instr.ccount d a]) (s : State) :
    ∃ k, exec i s = circleOp i a s k := by
  simp only [List.mem_cons, List.not_mem_nil, or_false] at hi
  rcases hi with rfl | rfl | rfl | rfl | rfl | rfl <;> dsimp only [exec] <;> exact ⟨_, rfl⟩

/-! ### CJOIN and CLEAVE (R214) -/

theorem execCjoin_joins {s : State} {a : SReg} (h : RunsOn (.cjoin a) s) (h0 : 0 < (s.rS a).toNat) (hc : (s.rS a).toNat < 32) :
    let x := s.bound.circle (s.rS a).toNat
    execCjoin a s = .next (s.bound.setCircle (s.rS a).toNat { x with member := x.member ||| troupeBit s.tr.idx }).onward :=
  circleOp_done h hc (by simp only [if_neg h0.ne', State.bound_idx]) s.bound_pc
theorem execCjoin_zero {s : State} {a : SReg} (h : RunsOn (.cjoin a) s) (h0 : (s.rS a).toNat = 0) : execCjoin a s = .next s.bound.onward :=
  circleOp_done h (by omega) (by simp only [if_pos h0]) s.bound_pc
theorem execCleave_leaves {s : State} {a : SReg} (h : Runs (formOf (.cleave a)) s) (h0 : 0 < (s.rS a).toNat) (hc : (s.rS a).toNat < 32) :
    execCleave a s = .next ((s.bound.leaveCircle (s.rS a).toNat).advanceWord (Instr.cleave a).word) := by
  rw [execCleave, circleOp_eq h hc, if_neg h0.ne']
  rfl
theorem execCleave_zero {s : State} {a : SReg} (h : Runs (formOf (.cleave a)) s) (hn : TrapsNow s) (h0 : (s.rS a).toNat = 0) :
    execCleave a s = .next (s.takeTrap { cause := 1, pc := s.pc.toNat, word := (Instr.cleave a).word }) :=
  circleOp_trap h hn (by omega) (v := 0) (if_pos h0)

/-! ### Arrivals and waits (R215, R216, R219) -/

/-- The path in focus asleep at its instruction. -/
def State.asleep (s : State) (z : Asleep) : State := (s.setCur { s.cur with sleep := some z }).rests

/-- CARRIVE, and CSYNC, which then waits. -/
def State.arrival (s : State) (v : Word64) (waits : Bool) (word : BitVec 32) (c : Nat) : Res :=
  if !s.isMember c then .stop (illopAux v)
  else if s.owed c then s.arriveLater c waits word
  else if waits then (s.arriveAt c).waitOn c word
  else .done (s.arriveAt c)

theorem exec_arrival {i : Instr} {waits : Bool} {a : SReg} (hi : (i, waits) ∈ [(Instr.carrive a, false), (Instr.csync a, true)]) (s : State) :
    exec i s = circleOp i a s fun c t => t.arrival (t.rS a) waits i.word c := by
  simp only [List.mem_cons, Prod.mk.injEq, List.not_mem_nil, or_false] at hi
  rcases hi with ⟨rfl, rfl⟩ | ⟨rfl, rfl⟩ <;> rfl

section arrival
variable {s : State} {c : Nat} (v : Word64) (waits : Bool) (word : BitVec 32)

theorem State.arrival_of_stranger (hm : s.isMember c = false) : s.arrival v waits word c = .stop (illopAux v) := by
  rw [State.arrival, hm]
  rfl
theorem State.arrival_of_owed (hm : s.isMember c = true) (ho : s.owed c = true) :
    s.arrival v waits word c = s.arriveLater c waits word := by
  rw [State.arrival, hm, ho]
  rfl
theorem State.arrival_of_first (hm : s.isMember c = true) (ho : s.owed c = false) :
    s.arrival v waits word c = if waits then (s.arriveAt c).waitOn c word else .done (s.arriveAt c) := by
  rw [State.arrival, hm, ho]
  rfl

end arrival

theorem State.finish_arriveLater (s u : State) (c : Nat) (waits : Bool) (word w : BitVec 32) :
    s.finish w (u.arriveLater c waits word) = u.gangRelease.asleep (.arrive (.ofNat 5 c) waits word false u.cycle) := rfl
theorem State.finish_waitOn (s u : State) (c : Nat) (word w : BitVec 32) :
    s.finish w (u.waitOn c word) = if u.owed c then u.asleep (.circle (.ofNat 5 c) word) else u.gangAcquire.advanceWord w := by
  rw [State.waitOn]
  split <;> rfl

section arrivals
variable {s : State} {a : SReg} {i : Instr} {waits : Bool} (hi : (i, waits) ∈ [(Instr.carrive a, false), (Instr.csync a, true)])
  (h : Runs (formOf i) s) (hc : (s.rS a).toNat < 32)
include hi h hc

theorem exec_arrival_stranger (hn : TrapsNow s) (hm : s.bound.isMember (s.rS a).toNat = false) :
    exec i s = .next (s.takeTrap { cause := 1, aux := s.rS a, pc := s.pc.toNat, word := i.word }) := by
  rw [exec_arrival hi]
  exact circleOp_trap h hn hc (by rw [State.arrival_of_stranger _ _ _ hm, State.bound_rS])
theorem exec_arrival_owed (hm : s.bound.isMember (s.rS a).toNat = true) (ho : s.bound.owed (s.rS a).toNat = true) :
    exec i s = .next (s.bound.gangRelease.asleep (.arrive (.ofNat 5 (s.rS a).toNat) waits i.word false s.cycle)) := by
  rw [exec_arrival hi, circleOp_eq h hc, State.arrival_of_owed _ _ _ hm ho, State.finish_arriveLater, State.bound_cycle]
theorem exec_arrival_first (hm : s.bound.isMember (s.rS a).toNat = true) (ho : s.bound.owed (s.rS a).toNat = false) :
    let t := s.bound.arriveAt (s.rS a).toNat
    exec i s = .next (if waits = true ∧ t.owed (s.rS a).toNat = true then t.asleep (.circle (.ofNat 5 (s.rS a).toNat) i.word)
      else (if waits then t.gangAcquire else t).advanceWord i.word) := by
  rw [exec_arrival hi, circleOp_eq h hc, State.arrival_of_first _ _ _ hm ho]
  cases waits with
  | false => simp [State.finish]
  | true => simp [State.finish_waitOn]

end arrivals

theorem execCwait_sleeps {s : State} {a : SReg} (h : Runs (formOf (.cwait a)) s) (hc : (s.rS a).toNat < 32)
    (ho : s.bound.owed (s.rS a).toNat = true) :
    execCwait a s = .next (s.bound.asleep (.circle (.ofNat 5 (s.rS a).toNat) (Instr.cwait a).word)) := by
  rw [execCwait, circleOp_eq h hc, State.finish_waitOn, if_pos ho]
theorem execCwait_returns {s : State} {a : SReg} (h : Runs (formOf (.cwait a)) s) (hc : (s.rS a).toNat < 32)
    (ho : s.bound.owed (s.rS a).toNat = false) :
    execCwait a s = .next (s.bound.gangAcquire.advanceWord (Instr.cwait a).word) := by
  rw [execCwait, circleOp_eq h hc, State.finish_waitOn, if_neg (ne_true_of_eq_false ho)]

/-! ### A circle's record (R214, R215) -/

theorem State.circle_setCircle (s : State) (c : Nat) (x : Circle) : (s.setCircle c x).circle c = x :=
  Vector.getElem_set_self _

@[simp] theorem State.noteLast_gg (s : State) (last : Nat) : (s.noteLast last).gg = s.gg := by
  unfold State.noteLast
  split <;> rfl
@[simp] theorem State.noteLast_tr (s : State) (last : Nat) : (s.noteLast last).tr = s.tr := by
  unfold State.noteLast
  split <;> rfl

theorem State.circle_flip (s : State) (c : Nat) :
    (s.flip c).circle c = { s.circle c with phase := !(s.circle c).phase, arrived := 0 } := by
  rw [State.flip, State.circle, State.noteLast_gg]
  exact State.circle_setCircle ..

/-! ### The second arrivals that a phase leaves asleep (R215, R217) -/

/-- The second arrival on a circle that a slot of troupe t sleeps in and has not made. -/
def Slot.secondArrival (x : Slot) (c t : Nat) (i : SlotId) : Option (Nat × Nat × SlotId × Bool) :=
  match x.sleep with
  | some (.arrive k w _ false n) => if k.toNat = c then some (n, t, i, w) else none
  | _ => none

/-- A phase's completion ends waits, not second arrivals. -/
theorem Slot.secondArrival_phaseDone (x : Slot) (e c t : Nat) (i : SlotId) : (x.phaseDone e).secondArrival c t i = x.secondArrival c t i := by
  unfold Slot.phaseDone
  split
  next k w done h =>
    split
    · simp only [Slot.secondArrival, h]
    · rfl
  next => rfl

theorem State.secondArrivals_eq (s : State) (c : Nat) : s.secondArrivals c =
    (sortBy (fun a b => decide (a.1 ≤ b.1)) ((s.troupesOf s.gg).map fun t =>
      [t.p.secondArrival c t.idx .P, t.q.secondArrival c t.idx .Q].filterMap id).flatten).map Prod.snd := rfl

theorem State.troupesOf_flip (s : State) (e : Nat) : (s.flip e).troupesOf (s.flip e).gg =
    (s.troupesOf s.gg).map fun t => { t with p := t.p.phaseDone e, q := t.q.phaseDone e } := by
  simp only [State.troupesOf, State.flip, State.noteLast_gg, State.noteLast_tr, if_true]
  rfl

theorem State.secondArrivals_flip (s : State) (e c : Nat) : (s.flip e).secondArrivals c = s.secondArrivals c := by
  rw [State.secondArrivals_eq, State.troupesOf_flip, List.map_map, State.secondArrivals_eq]
  simp only [Function.comp_def, Slot.secondArrival_phaseDone]

/-! ### Completion (R215) -/

theorem State.completeIf_of_not {s : State} {c : Nat} (h : (s.circle c).arrived ≠ (s.circle c).member) : s.completeIf c = s := by
  rw [State.completeIf, State.complete?, beq_eq_false_iff_ne.2 h, Bool.and_false]
  rfl

theorem State.completeIf_of_last {s : State} {c : Nat} (hm : (s.circle c).member ≠ 0) (ha : (s.circle c).arrived = (s.circle c).member)
    (hs : s.secondArrivals c = []) : s.completeIf c = s.flip c := by
  have h : s.complete? c = true := by
    rw [State.complete?, bne_iff_ne.2 hm, beq_iff_eq.2 ha]
    rfl
  simp only [State.completeIf, h, if_true, State.secondArrivals_flip, hs, List.foldl_nil]

/-- The state as a troupe's own arrival leaves it, before the phase may complete. -/
def State.arrived (s : State) (c : Nat) : State :=
  s.gangRelease.setCircle c { s.gangRelease.circle c with
    arrived := (s.gangRelease.circle c).arrived ||| troupeBit s.gangRelease.tr.idx, last := s.gangRelease.tr.idx }

theorem State.arriveAt_eq (s : State) (c : Nat) : s.arriveAt c = (s.arrived c).completeIf c := rfl

theorem State.circle_arrived (s : State) (c : Nat) : (s.arrived c).circle c = { s.gangRelease.circle c with
    arrived := (s.gangRelease.circle c).arrived ||| troupeBit s.gangRelease.tr.idx, last := s.gangRelease.tr.idx } :=
  State.circle_setCircle ..

/-- The last arrival of a circle's members, while nobody sleeps in a second one. -/
theorem State.circle_arriveAt_last (s : State) {c : Nat} (hm : (s.gangRelease.circle c).member ≠ 0)
    (hl : (s.gangRelease.circle c).arrived ||| troupeBit s.gangRelease.tr.idx = (s.gangRelease.circle c).member)
    (hs : (s.gangRelease.setCircle c { s.gangRelease.circle c with
      arrived := (s.gangRelease.circle c).member, last := s.gangRelease.tr.idx }).secondArrivals c = []) :
    (s.arriveAt c).circle c =
      { s.gangRelease.circle c with arrived := 0, phase := !(s.gangRelease.circle c).phase, last := s.gangRelease.tr.idx } := by
  rw [State.arriveAt_eq, State.completeIf_of_last, State.circle_flip, State.circle_arrived]
  · rw [State.circle_arrived]
    exact hm
  · rw [State.circle_arrived]
    exact hl
  · rw [State.arrived, hl]
    exact hs

/-- An arrival before the last adds its own. -/
theorem State.circle_arriveAt_early (s : State) {c : Nat}
    (hl : (s.gangRelease.circle c).arrived ||| troupeBit s.gangRelease.tr.idx ≠ (s.gangRelease.circle c).member) :
    (s.arriveAt c).circle c = { s.gangRelease.circle c with
      arrived := (s.gangRelease.circle c).arrived ||| troupeBit s.gangRelease.tr.idx, last := s.gangRelease.tr.idx } := by
  rw [State.arriveAt_eq, State.completeIf_of_not, State.circle_arrived]
  rw [State.circle_arrived]
  exact hl

/-! ### CCOUNT (R218) -/

theorem popNat_eq_cpop {w : Nat} (x : BitVec w) : popNat w x.toNat = x.cpop.toNat := by
  rw [BitVec.toNat_cpop, cpopNatRec_popNat, Nat.zero_add]

theorem execCcount_eq {s : State} {d a : SReg} (h : RunsOn (.ccount d a) s) (hc : (s.rS a).toNat < 32) :
    let x := s.bound.circle (s.rS a).toNat
    execCcount d a s = .next (s.bound.wS d (.ofNat 64 (x.member.cpop.toNat + x.arrived.cpop.toNat * 2 ^ 16 +
      if x.phase then 2 ^ 32 else 0))).onward :=
  circleOp_done h hc (by simp only [popNat_eq_cpop]) (by simp [State.pc])

/-- Settles O22: a circle instruction by its number and its meaning's end; then the circle's record after an arrival. -/
theorem circles : Obligations.Circles := by
  refine ⟨?_, ?_, ?_⟩
  · intro s d a c bit x
    refine ⟨fun i hi hc h hn => ?_, fun h0 hc h => execCjoin_joins h h0 hc, fun h0 h => execCjoin_zero h h0,
      fun h0 hc h => execCleave_leaves h h0 hc, fun h0 h hn => execCleave_zero h hn h0⟩
    obtain ⟨k, hk⟩ := exec_circleOp hi s
    rw [hk]
    exact circleOp_badNumber h hn hc k
  · intro s a i waits c b hi hc
    exact ⟨fun hm h hn => exec_arrival_stranger hi h hc hn hm, fun hm ho h => exec_arrival_owed hi h hc hm ho,
      fun hm ho h => exec_arrival_first hi h hc hm ho, fun ho h => execCwait_sleeps h hc ho, fun ho h => execCwait_returns h hc ho⟩
  · intro s d a c hc x bit y
    refine ⟨fun hm hl hs => ?_, fun hl => ?_, fun hn h => ?_⟩
    · rw [show y = _ from s.circle_arriveAt_last hm hl hs]
      exact ⟨rfl, rfl, rfl⟩
    · rw [show y = _ from s.circle_arriveAt_early hl]
      exact ⟨rfl, rfl, rfl⟩
    · subst hn
      exact execCcount_eq h hc

end Sys2Proof.Machine
end

section
/-!
SUPPORT. Taking an exception (R434 to R442): the handler a path enters, the frame's fields, the end of a gang in error, and the stops that wait.
-/

namespace Sys2Proof.Machine

/-! ### The handler a path enters (R437, R442) -/

/-- The path in focus in its handler, its sibling frozen, before the vector is cleared. -/
noncomputable def State.handling (s : State) (base : Word64) (target : BitVec 48) : State :=
  let u := (s.wS 61 base).setCur { s.cur with pc := target, att := {}, walked := [], waits := false, refused := false }
  u.setSibling { s.sibling.stopped with frozen := s.sibling.live }

theorem State.vectored_user {s : State} (h : s.gg.sys = false) (r : ErrRec) (base : Word64) (target : BitVec 48) :
    s.vectored r base target =
      { s.handling base target with tr := { (s.handling base target).tr with trapvec := 0 } } := by
  simp [State.vectored, State.handling, h]

theorem State.vectored_sys {s : State} (h : s.gg.sys = true) (r : ErrRec) (base : Word64) (target : BitVec 48) :
    s.vectored r base target = { s.handling base target with ctl := { s.ctl with
      sepc := .ofNat 48 r.resume, stvec := 0,
      satt0 := .ofNat 64 (attBit s.cur.att.pfx 63 + attBit s.cur.att.ord 62 + attNat s.cur.att.ord * 2 ^ 25 + attNat s.cur.att.pfx),
      satt1 := .ofNat 64 (attBit s.cur.att.limm 63 + attBit s.cur.att.hint 62 + attNat s.cur.att.hint * 2 ^ 25 + attNat s.cur.att.limm) } } := by
  simp [State.vectored, State.handling, h]

theorem State.vectored_cases (s : State) (r : ErrRec) (base : Word64) (target : BitVec 48) :
    (∃ v, s.vectored r base target = { s.handling base target with tr := { (s.handling base target).tr with trapvec := v } }) ∨
      ∃ c, s.vectored r base target = { s.handling base target with ctl := c } := by
  cases h : s.gg.sys
  · exact .inl ⟨0, s.vectored_user h ..⟩
  · exact .inr ⟨_, s.vectored_sys h ..⟩

theorem State.cur_trapvec (s : State) (v : BitVec 48) : { s with tr := { s.tr with trapvec := v } : State }.cur = s.cur := by
  unfold State.cur Troupe.slot
  cases s.sel <;> rfl
theorem State.sibling_trapvec (s : State) (v : BitVec 48) : { s with tr := { s.tr with trapvec := v } : State }.sibling = s.sibling := by
  unfold State.sibling Troupe.slot SlotId.other
  cases s.sel <;> rfl

@[simp] theorem State.vectored_cur (s : State) (r : ErrRec) (base : Word64) (target : BitVec 48) :
    (s.vectored r base target).cur = { s.cur with pc := target, att := {}, walked := [], waits := false, refused := false } := by
  rcases s.vectored_cases r base target with ⟨v, e⟩ | ⟨c, e⟩ <;> rw [e]
  · rw [State.cur_trapvec]
    simp [State.handling]
  · change (s.handling base target).cur = _
    simp [State.handling]
@[simp] theorem State.vectored_sibling (s : State) (r : ErrRec) (base : Word64) (target : BitVec 48) :
    (s.vectored r base target).sibling = { s.sibling.stopped with frozen := s.sibling.live } := by
  rcases s.vectored_cases r base target with ⟨v, e⟩ | ⟨c, e⟩ <;> rw [e]
  · rw [State.sibling_trapvec]
    simp [State.handling]
  · change (s.handling base target).sibling = _
    simp [State.handling]
@[simp] theorem State.vectored_rS (s : State) (r : ErrRec) (base : Word64) (target : BitVec 48) (q : SReg) :
    (s.vectored r base target).rS q = if q = 61 then base else s.rS q := by
  have h : (s.vectored r base target).rS q = (s.wS 61 base).rS q := by
    rcases s.vectored_cases r base target with ⟨v, e⟩ | ⟨c, e⟩ <;> simp [e, State.rS, State.handling]
  rw [h]
  split
  next hq => rw [hq, State.rS_wS_self, if_neg (by decide)]
  next hq => exact s.rS_wS_other base hq
theorem State.vectored_sameVectors (s : State) (r : ErrRec) (base : Word64) (target : BitVec 48) :
    SameVectors s (s.vectored r base target) := by
  refine ⟨fun q l => ?_, fun k => ?_, ?_⟩
  · rcases s.vectored_cases r base target with ⟨v, e⟩ | ⟨c, e⟩ <;> simp [e, State.rV, State.handling]
  · have hm : (s.vectored r base target).pmask = s.pmask := by simp [State.pmask]
    have hk : (s.vectored r base target).tr.kreg = s.tr.kreg := by
      rcases s.vectored_cases r base target with ⟨v, e⟩ | ⟨c, e⟩ <;> simp [e, State.handling]
    rw [State.rK, State.rK, hm, hk]
  · rcases s.vectored_cases r base target with ⟨v, e⟩ | ⟨c, e⟩ <;> simp [e, State.handling]
theorem State.vectored_sameBytes (s : State) (r : ErrRec) (base : Word64) (target : BitVec 48) :
    SameBytes s (s.vectored r base target) := by
  have h (r' g scope l) : (s.handling base target).readLoc r' g scope l = s.readLoc r' g scope l := by
    change (s.wS 61 base).readLoc r' g scope l = _
    rw [State.readLoc_wS]
  rcases s.vectored_cases r base target with ⟨v, e⟩ | ⟨c, e⟩ <;> rw [e]
  · exact ⟨h, by simp [State.handling], by simp [State.handling], by simp [State.handling]⟩
  · exact ⟨h, by simp [State.handling], by simp [State.handling], by simp [State.handling]⟩

/-! ### What a system trap saves for ERET (R442, R446) -/

theorem attBit_eq (o : Option (BitVec 25)) (k : Nat) : attBit o k = o.isSome.toNat * 2 ^ k := by
  cases o <;> simp [attBit]
/-- An attachment read back from a word whose bit marks it and whose field holds it. -/
theorem att_readBack {w : Word64} {k lo : Nat} {o : Option (BitVec 25)} (hk : w.toNat / 2 ^ k % 2 = o.isSome.toNat)
    (hv : w.toNat / 2 ^ lo % 2 ^ 25 = attNat o) : (if w.getLsbD k then some (w.extractLsb' lo 25) else none) = o := by
  have hb : w.getLsbD k = o.isSome := by
    rw [BitVec.getLsbD, Nat.testBit_eq_decide_div_mod_eq, hk]
    cases o <;> rfl
  rw [hb]
  cases o with
  | none => rfl
  | some x =>
    refine congrArg some (BitVec.eq_of_toNat_eq ?_)
    rw [BitVec.extractLsb'_toNat, Nat.shiftRight_eq_div_pow, hv]
    rfl
/-- Two attachments saved in a word: both read back, and nothing stands between them (R444). -/
theorem satt_saved (a b : Option (BitVec 25)) (w : Word64) (hw : w = .ofNat 64 (attBit a 63 + attBit b 62 + attNat b * 2 ^ 25 + attNat a)) :
    (if w.getLsbD 63 then some (w.extractLsb' 0 25) else none) = a ∧ (if w.getLsbD 62 then some (w.extractLsb' 25 25) else none) = b ∧
      w.toNat / 2 ^ 50 % 2 ^ 12 = 0 := by
  have ha : attNat a < 2 ^ 25 := (a.getD 0).isLt
  have hb : attNat b < 2 ^ 25 := (b.getD 0).isLt
  have ha1 := a.isSome.toNat_le
  have hb1 := b.isSome.toNat_le
  have hn : w.toNat = a.isSome.toNat * 2 ^ 63 + b.isSome.toNat * 2 ^ 62 + attNat b * 2 ^ 25 + attNat a := by
    rw [hw, BitVec.toNat_ofNat, attBit_eq, attBit_eq]
    omega
  refine ⟨att_readBack ?_ ?_, att_readBack ?_ ?_, ?_⟩ <;> omega

/-! ### The end of a gang in error (R438) -/

theorem Slot.halt_cases (x : Slot) : x.halt = {} ∨ (x.halt.live = true ∧ x.halt.frozen = false ∧ x.halt.hand = false ∧ x.halt.issued ≠ none) := by
  unfold Slot.halt
  split
  next h =>
    simp only [Bool.and_eq_true, Bool.not_eq_true', Option.isSome_iff_ne_none] at h
    obtain ⟨⟨⟨hl, hf⟩, hh⟩, hi⟩ := h
    exact .inr ⟨hl, hf, hh, hi⟩
  · exact .inl rfl
theorem Slot.halt_stopped (x : Slot) : x.stopped.halt = {} := by simp [Slot.halt, Slot.stopped]

/-- A troupe of a gang that has ended in error (R438). -/
def Troupe.Halted (u : Troupe) : Prop :=
  (∀ x ∈ [u.p, u.q], x = {} ∨ (x.live = true ∧ x.frozen = false ∧ x.hand = false ∧ x.issued ≠ none)) ∧
    (u.ended = true ↔ u.p.live = false ∧ u.q.live = false) ∧ u.park = none

theorem Troupe.halt_halted (u : Troupe) : u.halt.Halted := by
  refine ⟨fun x hx => ?_, by simp [Troupe.halt], rfl⟩
  rcases List.mem_pair.1 hx with rfl | rfl
  · exact u.p.halt_cases
  · exact u.q.halt_cases

/-- In the gang in focus every troupe halts, and the record kept is the new one or an earlier one. -/
theorem State.endInError_focus (s : State) (e : ErrRec) :
    (s.endInError s.gg.uid e).tr = s.tr.halt ∧ (s.endInError s.gg.uid e).gg.troupes = s.gg.troupes.map Troupe.halt ∧
      (s.endInError s.gg.uid e).gg.uid = s.gg.uid ∧ (s.endInError s.gg.uid e).sel = s.sel ∧ (s.endInError s.gg.uid e).gg.err ≠ none ∧
      (s.gg.err = none → (s.endInError s.gg.uid e).gg.err = some e) := by
  have hp (p : Prop) [Decidable p] (x : Partition) : (if p then s else s.setPart x).gg = s.gg := by split <;> rfl
  have ht (p : Prop) [Decidable p] (x : Partition) : (if p then s else s.setPart x).tr = s.tr := by split <;> rfl
  have hs (p : Prop) [Decidable p] (x : Partition) : (if p then s else s.setPart x).sel = s.sel := by split <;> rfl
  simp [State.endInError, State.clearFwPurses, State.dropWide, State.updGang, hp, ht, hs]
  cases s.gg.err with
  | none => simp
  | some o => simp; split <;> simp

/-! ### The trap taken -/

/-- The state a trap's vectoring finds: what the trap ends is ended, a machine check recorded (R434, R448). -/
def State.trapping (s : State) (e : ErrRec) : State :=
  if e.cause = 11 then s.untied.machineCheck s.untied.req.core s.untied.gg.part e.mcpa e.aux.toNat true else s.untied

theorem State.takeTrap_eq (s : State) (e : ErrRec) : s.takeTrap e = (s.trapping e).vector (s.fillRec e) := rfl
theorem State.vector_error {s : State} {r : ErrRec}
    (h : (if s.gg.sys then s.ctl.stvec else s.tr.trapvec) = 0 ∨ r.cause = 12 ∨ s.gg.err ≠ none) : s.vector r = s.endInError s.gg.uid r := by
  unfold State.vector
  rw [if_pos (by simpa only [Option.isSome_iff_ne_none] using h)]
theorem State.vector_placed {s s2 : State} {r : ErrRec} {l : Loc} (h12 : r.cause ≠ 12) (he : s.gg.err = none)
    (ht : (if s.gg.sys then s.ctl.stvec else s.tr.trapvec) ≠ 0)
    (hp : s.placeBy true none 0 (if s.gg.sys then s.ctl.stframe else 0xFFFFFE0000000000) .write = .ok (l, s2)) :
    s.vector r = (s2.lane0Write false (if s.gg.sys then s.ctl.stframe else 0xFFFFFE0000000000) l 256 (frameNat r (s2.rS 61))).vectored r
      (if s.gg.sys then s.ctl.stframe else 0xFFFFFE0000000000) (if s.gg.sys then s.ctl.stvec else s.tr.trapvec) := by
  unfold State.vector
  dsimp only
  rw [if_neg (fun h => h.elim ht fun h => h.elim h12 fun h => by simp [he] at h), hp]

/-- Without a machine check the path in focus has stopped for good when its gang ends in error. -/
theorem State.trapping_cur_halt {s : State} {e : ErrRec} (h : e.cause ≠ 11) : (s.trapping e).cur.halt = {} := by
  rw [State.trapping, if_neg h]
  change (s.setCur s.cur.stopped).cur.halt = {}
  rw [State.setCur_cur, Slot.halt_stopped]

theorem Troupe.halt_slot (u : Troupe) (i : SlotId) : u.halt.slot i = (u.slot i).halt := by cases i <;> rfl

/-- Values one above another in fields of given widths, the lowest first. -/
def packFields : List (Nat × Nat) → Nat
  | [] => 0
  | (w, v) :: r => v + 2 ^ w * packFields r

/-- A field of packed values reads back when it and those below it fit. -/
theorem packFields_field (v w : Nat) (r : List (Nat × Nat)) (hv : v < 2 ^ w) : ∀ l : List (Nat × Nat), (∀ x ∈ l, x.2 < 2 ^ x.1) →
    packFields (l ++ (w, v) :: r) / 2 ^ (l.map Prod.fst).sum % 2 ^ w = v
  | [], _ => by simp [packFields, Nat.add_mul_mod_self_left, Nat.mod_eq_of_lt hv]
  | (a, b) :: l, h => by
    have hb : b < 2 ^ a := h (a, b) (by simp)
    rw [List.cons_append, packFields, List.map_cons, List.sum_cons, Nat.pow_add, ← Nat.div_div_eq_div_mul,
      Nat.add_mul_div_left _ _ (Nat.two_pow_pos a), Nat.div_eq_of_lt hb, Nat.zero_add]
    exact packFields_field v w r hv l fun x hx => h x (List.mem_cons_of_mem _ hx)

/-- FLAGS and PAV of an error record (R440). -/
def ErrRec.flags (e : ErrRec) : Nat :=
  (if e.dlen = 0 then 0 else 128) + (if e.dtr then 64 else 0) + (if e.ft then 32 else 0) + (if e.slotQ then 16 else 0) +
    (if e.lane.isSome then 8 else 0) + (if e.imp then 4 else 0) + (if e.sysp then 2 else 0)
def ErrRec.pav (e : ErrRec) : Nat :=
  attBit e.attQ.hint 7 + attBit e.attQ.limm 6 + attBit e.attQ.ord 5 + attBit e.attQ.pfx 4 +
    attBit e.attP.hint 3 + attBit e.attP.limm 2 + attBit e.attP.ord 1 + attBit e.attP.pfx 0

theorem ErrRec.flags_lt (e : ErrRec) : e.flags < 2 ^ 8 := by
  unfold ErrRec.flags
  have h (p : Prop) [Decidable p] (n : Nat) : (if p then n else 0) ≤ n := by split <;> omega
  have h0 (p : Prop) [Decidable p] (n : Nat) : (if p then 0 else n) ≤ n := by split <;> omega
  have := h0 (e.dlen = 0) 128; have := h (e.dtr = true) 64; have := h (e.ft = true) 32; have := h (e.slotQ = true) 16
  have := h (e.lane.isSome = true) 8; have := h (e.imp = true) 4; have := h (e.sysp = true) 2
  omega
theorem attBit_le (o : Option (BitVec 25)) (k : Nat) : attBit o k ≤ 2 ^ k := by
  unfold attBit
  split <;> simp
theorem ErrRec.pav_lt (e : ErrRec) : e.pav < 2 ^ 8 := by
  unfold ErrRec.pav
  have := attBit_le e.attQ.hint 7; have := attBit_le e.attQ.limm 6; have := attBit_le e.attQ.ord 5; have := attBit_le e.attQ.pfx 4
  have := attBit_le e.attP.hint 3; have := attBit_le e.attP.limm 2; have := attBit_le e.attP.ord 1; have := attBit_le e.attP.pfx 0
  omega

/-- The fields of a trap frame from its lowest bit up (R437 to R441). -/
def frameFields (e : ErrRec) (v : Word64) : List (Nat × Nat) :=
  [(24, 0), (25, attNat e.attQ.hint), (25, attNat e.attQ.limm), (25, attNat e.attQ.ord), (25, attNat e.attQ.pfx),
   (25, attNat e.attP.hint), (25, attNat e.attP.limm), (25, attNat e.attP.ord), (25, attNat e.attP.pfx),
   (64, e.aux.toNat), (64, e.addr.toNat), (7, 0), (9, e.troupe % 2 ^ 9), (32, e.gang % 2 ^ 32), (8, e.pav), (48, e.pc % 2 ^ 48),
   (32, e.word.toNat), (3, 0), (5, e.lane.getD 0 % 32), (8, e.flags), (8, e.cause % 2 ^ 8), (1024, e.detail % 2 ^ (8 * 128)),
   (64, v.toNat), (64, e.resume % 2 ^ 64), (384, 0)]

theorem frameNat_eq (e : ErrRec) (v : Word64) : frameNat e v = packFields (frameFields e v) := by
  have key (x a0 a1 a2 a3 a4 a5 a6 a7 aux addr tr g pav pc w ln fl ca de v r : Nat) :
      ca * x ^ 504 + fl * x ^ 496 + ln * x ^ 491 + w * x ^ 456 + pc * x ^ 408 + pav * x ^ 400 + g * x ^ 368 + tr * x ^ 359 + addr * x ^ 288 +
        aux * x ^ 224 + a7 * x ^ 199 + a6 * x ^ 174 + a5 * x ^ 149 + a4 * x ^ 124 + a3 * x ^ 99 + a2 * x ^ 74 + a1 * x ^ 49 + a0 * x ^ 24 +
        de * x ^ 512 + v * x ^ 1536 + r * x ^ 1600 =
      0 + x ^ 24 * (a0 + x ^ 25 * (a1 + x ^ 25 * (a2 + x ^ 25 * (a3 + x ^ 25 * (a4 + x ^ 25 * (a5 + x ^ 25 * (a6 + x ^ 25 * (a7 + x ^ 25 *
        (aux + x ^ 64 * (addr + x ^ 64 * (0 + x ^ 7 * (tr + x ^ 9 * (g + x ^ 32 * (pav + x ^ 8 * (pc + x ^ 48 * (w + x ^ 32 * (0 + x ^ 3 * (ln + x ^ 5 * (fl + x ^ 8 *
        (ca + x ^ 8 * (de + x ^ 1024 * (v + x ^ 64 * (r + x ^ 64 * (0 + x ^ 384 * 0)))))))))))))))))))))))) := by ring
  unfold frameNat ErrRec.bytes frameFields
  simp only [packFields]
  exact key 2 _ _ _ _ _ _ _ _ _ _ _ _ _ _ _ _ _ _ _ _ _


theorem frameFields_fit (e : ErrRec) (v : Word64) : ∀ x ∈ frameFields e v, x.2 < 2 ^ x.1 := by
  have ha (o : Option (BitVec 25)) : attNat o < 2 ^ 25 := (o.getD 0).isLt
  have hm (n k : Nat) : n % 2 ^ k < 2 ^ k := Nat.mod_lt _ (Nat.two_pow_pos k)
  simp only [frameFields, List.forall_mem_cons, ha, hm, e.flags_lt, e.pav_lt, BitVec.isLt, Nat.two_pow_pos, true_and, List.not_mem_nil,
    false_imp_iff, implies_true, and_true]
  exact Nat.mod_lt _ (by decide)

/-- The widths of the fields of a trap frame. -/
def frameWidths : List Nat :=
  [24, 25, 25, 25, 25, 25, 25, 25, 25, 64, 64, 7, 9, 32, 8, 48, 32, 3, 5, 8, 8, 1024, 64, 64, 384]

/-- A field of the trap frame at the bit where the layout puts it. -/
theorem frameNat_field (e : ErrRec) (v : Word64) (k : Nat) {lo n x : Nat} (hx : (frameFields e v)[k]? = some (n, x))
    (hlo : (frameWidths.take k).sum = lo) : frameNat e v / 2 ^ lo % 2 ^ n = x := by
  have hs : frameFields e v = (frameFields e v).take k ++ (n, x) :: (frameFields e v).drop (k + 1) := by
    rw [← (List.getElem?_eq_some_iff.1 hx).2, List.cons_getElem_drop_succ, List.take_append_drop]
  have hw : ((frameFields e v).take k).map Prod.fst = frameWidths.take k := List.map_take
  have hfit := frameFields_fit e v
  have h := packFields_field x n ((frameFields e v).drop (k + 1)) (hfit _ (List.mem_of_getElem? hx)) ((frameFields e v).take k) fun y hy =>
    hfit y (List.mem_of_mem_take hy)
  rwa [← hs, hw, hlo, ← frameNat_eq] at h


theorem frameNat_fields (e : ErrRec) (v : Word64) :
    let at_ (lo n : Nat) := frameNat e v / 2 ^ lo % 2 ^ n
    at_ 504 8 = e.cause % 2 ^ 8 ∧ at_ 456 32 = e.word.toNat ∧ at_ 408 48 = e.pc % 2 ^ 48 ∧ at_ 368 32 = e.gang % 2 ^ 32 ∧
       at_ 359 9 = e.troupe % 2 ^ 9 ∧ at_ 288 64 = e.addr.toNat ∧ at_ 224 64 = e.aux.toNat ∧ at_ 1536 64 = v.toNat ∧
       at_ 1600 64 = e.resume % 2 ^ 64 ∧ at_ 1664 384 = 0 :=
  ⟨frameNat_field e v 20 rfl (by decide), frameNat_field e v 16 rfl (by decide), frameNat_field e v 15 rfl (by decide), frameNat_field e v 13 rfl (by decide),
    frameNat_field e v 12 rfl (by decide), frameNat_field e v 10 rfl (by decide), frameNat_field e v 9 rfl (by decide), frameNat_field e v 22 rfl (by decide),
    frameNat_field e v 23 rfl (by decide), frameNat_field e v 24 rfl (by decide)⟩

/-! ### Stops that wait (R434 to R436) -/

theorem State.siblingFirst_iff (s : State) : s.siblingFirst = true ↔ s.sibling.live = true ∧ s.sibling.frozen = false ∧
    s.sibling.issued ≠ none ∧ (s.sibling.hand = true → s.sibling.issued.getD 0 < s.cur.issued.getD s.cycle) := by
  simp [State.siblingFirst, Option.isSome_iff_ne_none, and_assoc, imp_iff_not_or]

theorem State.holdStop_eq (s : State) :
    s.holdStop = s.setCur { s.cur with issued := some (s.cur.issued.getD s.cycle), waits := true, hand := true } := by
  unfold State.holdStop Slot.hasIssued
  cases s.cur.issued <;> rfl

theorem State.stopWord_trap_eq {s : State} (hn : s.cur.near = none) (w : BitVec 32) (e : ErrRec) : s.stopWord w (.trap e) =
    if s.siblingFirst || s.heldBack 1 then s.holdStop else s.takeTrap { e with pc := s.pc.toNat, word := w } := by
  simp [State.stopWord, hn, State.trapWaits]
theorem State.stopWord_park_eq {s : State} (hn : s.cur.near = none) (w : BitVec 32) (ms : List PageMiss) : s.stopWord w (.park ms) =
    if s.siblingFirst then s.holdStop else s.parkOn ms none w := by
  simp [State.stopWord, hn]

/-- Settles O17: a vectored trap is the handler's entry behind the frame's stores, any other an end in error; the frame is its fields packed; and
a stop waits where the sibling comes first. -/
theorem trapEntryAndFrame : Obligations.TrapEntryAndFrame := by
  refine ⟨?_, fun e v => frameNat_fields e v, ?_⟩
  · intro s e l s2 r s0 s1 base target resume t f get
    refine ⟨fun h12 ht he hp hs => ?_, fun h => ?_⟩
    · have e1 : t = f.vectored r base target := State.vector_placed h12 he ht hp
      have hu : f.gg.sys = false → t.tr.trapvec = 0 ∧ t.ctl = f.ctl := fun hf => by
        rw [e1, State.vectored_user hf]
        exact ⟨rfl, rfl⟩
      refine ⟨by simp [e1], by simp [e1], by simp [e1], by simp [e1], fun q hq => by rw [e1, State.vectored_rS, if_neg hq], e1 ▸ f.vectored_sameVectors ..,
        e1 ▸ f.vectored_sameBytes .., by simp [e1], by simp [e1], by simp [e1], by simp [e1], hu, fun hf => ?_⟩
      obtain ⟨hp, ho, hz⟩ := satt_saved f.cur.att.pfx f.cur.att.ord _ rfl
      obtain ⟨hl, hh, hy⟩ := satt_saved f.cur.att.limm f.cur.att.hint _ rfl
      rw [e1, State.vectored_sys hf]
      exact ⟨rfl, rfl, by simp [State.handling], hp, ho, hl, hh, hz, hy⟩
    · have e1 : t = s1.endInError s1.gg.uid r := State.vector_error h
      obtain ⟨htr, hts, hid, hsel, herr, hrec⟩ := s1.endInError_focus r
      rw [← e1] at htr hts hid hsel herr hrec
      refine ⟨fun u hu => ?_, fun h11 => ?_, hrec, herr, hid⟩
      · rw [htr, hts, List.mem_cons, List.mem_map] at hu
        rcases hu with rfl | ⟨v, -, rfl⟩
        · exact s1.tr.halt_halted
        · exact v.halt_halted
      · rw [State.cur, htr, hsel, Troupe.halt_slot]
        exact State.trapping_cur_halt h11
  · intro s w e ms hn y first held
    have hf : s.siblingFirst = true ↔ first := s.siblingFirst_iff
    have hh : s.holdStop = held := s.holdStop_eq
    rw [State.stopWord_trap_eq hn, State.stopWord_park_eq hn, ← hh, ← hf]
    refine ⟨fun h => ?_, fun h1 h2 => ?_, fun h => ?_, fun h => ?_⟩
    · rw [if_pos (by simpa using h)]
    · rw [if_neg (by rw [h2, Bool.or_false]; exact h1)]
    · rw [if_pos h]
    · rw [if_neg h]

end Sys2Proof.Machine
end

section
/-!
SUPPORT. Clocks, boosts, ramps, power and heat (R238 to R241, R443, R531, R532).
-/

namespace Sys2Proof.Machine

/-! ### Frequencies (R238, R239) -/

theorem Cluster.fll_eq (c : Cluster) (t : Nat) : c.fll t =
    { c with mhz := if c.mhz < t then c.mhz + 25 else if t < c.mhz then c.mhz - 25 else c.mhz, volt := if c.mhz < t then c.mhz + 25 else c.mhz } := by
  unfold Cluster.fll
  by_cases h : c.mhz < t
  · simp only [if_pos h]
  · simp only [if_neg h]
    split <;> rfl

theorem State.targetMhz_bounds (s : State) (cl : Nat) : 600 ≤ s.targetMhz cl ∧ s.targetMhz cl ≤ 2100 := by
  unfold State.targetMhz
  omega
/-- Without boosts the target is the frequency set. -/
theorem State.targetMhz_unboosted {s : State} (h : s.boosts = []) (cl : Nat) (hlo : 600 ≤ (s.cluster cl).setMhz) (hhi : (s.cluster cl).setMhz ≤ 2100) :
    s.targetMhz cl = (s.cluster cl).setMhz := by
  simp only [State.targetMhz, State.boostUp, State.boostDown, h, List.filter_nil, List.length_nil]
  omega

theorem execSetClusterFrequency_inRange {cl mhz : Nat} (s : State) (hc : cl < 16) (hlo : 600 ≤ mhz) (hhi : mhz ≤ 2100) (hm : mhz % 25 = 0) :
    execSetClusterFrequency cl mhz s = .next (s.updCluster cl fun x => { x with setMhz := mhz }) := by
  rw [execSetClusterFrequency, if_pos ⟨hc, hlo, hhi, hm⟩]
theorem execFllStep_inRange {cl : Nat} (s : State) (hc : cl < 16) :
    execFllStep cl s = .next (s.updCluster cl fun x => x.fll (s.targetMhz cl)) := by rw [execFllStep, if_pos hc]
theorem execDroopTrip_inRange {cl : Nat} (s : State) (hc : cl < 16) :
    execDroopTrip cl s = .next (s.updCluster cl fun x => { x with droop := true }) := by rw [execDroopTrip, if_pos hc]
theorem execDroopClear_inRange {cl : Nat} (s : State) (hc : cl < 16) :
    execDroopClear cl s = .next (s.updCluster cl fun x => { x with droop := false }) := by rw [execDroopClear, if_pos hc]

/-! ### Boosts (R240) -/

/-- The cluster that gives up a step for a late core (R240). -/
def State.donor (s : State) (core : Nat) : Option Nat :=
  (List.range 16).find? fun x => x != core / 8 && (s.cluster x).owner.map s.levelOne == (s.cluster (core / 8)).owner.map s.levelOne &&
    ((s.cluster x).owner.map s.levelOne).isSome && !s.clusterLate x && decide (625 ≤ s.targetMhz x)

section boost
variable {s : State} {g core : Nat} (hr : (findD Lateness.gang g { gang := g } s.late).late core = true)
  (hk : 8 ≤ coreCount (findD Lateness.gang g { gang := g } s.late).kept core) (hc : core < 128)
include hr hk hc

/-- The step's phases are counted off; a donor's cluster falls for it while the late core's is below its limits. -/
theorem execBoostStep_due : execBoostStep g core s =
    let t : State := { s with late := upsert Lateness.gang ((findD Lateness.gang g { gang := g } s.late).spend core) s.late }
    .next (match s.donor core with
      | some d => if s.boostUp (core / 8) < 4 ∧ s.targetMhz (core / 8) + 25 ≤ 2100 then { t with boosts := s.boosts ++ [(g, core, d)] } else t
      | none => t) := by
  have hcl : core / 8 < 16 := by omega
  unfold execBoostStep
  dsimp only
  rw [if_pos ⟨hcl, hr, hk⟩]
  rfl
theorem execBoostStep_donor {d : Nat} (hu : s.boostUp (core / 8) < 4) (ht : s.targetMhz (core / 8) + 25 ≤ 2100) (hd : s.donor core = some d) :
    execBoostStep g core s = .next { s with boosts := s.boosts ++ [(g, core, d)],
                                            late := upsert Lateness.gang ((findD Lateness.gang g { gang := g } s.late).spend core) s.late } := by
  rw [execBoostStep_due hr hk hc, hd]
  dsimp only
  rw [if_pos ⟨hu, ht⟩]
theorem execBoostStep_noDonor (hd : s.donor core = none) :
    execBoostStep g core s =
      .next { s with late := upsert Lateness.gang ((findD Lateness.gang g { gang := g } s.late).spend core) s.late } := by
  rw [execBoostStep_due hr hk hc, hd]
end boost

/-! ### Ramps (R241) -/

theorem execEngineRampComplete_due {s : State} {core t hold : Nat} (hr : (s.core core).ramp = .ramping t hold) (ht : t + 64 ≤ s.cycle) :
    execEngineRampComplete core s = .next (s.setCore { s.core core with ramp := .ramped (s.cycle + hold) }) := by
  simp only [execEngineRampComplete, hr, if_pos ht]
theorem execEngineRampExpire_due {s : State} {core u : Nat} (hr : (s.core core).ramp = .ramped u) (hu : u ≤ s.cycle) :
    execEngineRampExpire core s = .next (s.setCore { s.core core with ramp := .idle }) := by
  simp only [execEngineRampExpire, hr, if_pos hu]

/-! ### Power (R443, R531) -/

theorem execPowerSample_under {s : State} {watts : Nat} (h : watts ≤ 550) : execPowerSample watts s = .next { s with overSince := none } := by
  rw [execPowerSample, if_pos h]
theorem execPowerSample_first {s : State} {watts : Nat} (h : 550 < watts) (ho : s.overSince = none) :
    execPowerSample watts s = .next { s with overSince := some s.cycle } := by
  rw [execPowerSample, if_neg (by omega), ho]
theorem execPowerSample_alert {s : State} {watts n : Nat} (h : 550 < watts) (ho : s.overSince = some n) (hn : n + 19000000 ≤ s.cycle) :
    execPowerSample watts s =
      .next { s.updCluster s.fastest (fun x => { x with setMhz := max 600 (x.setMhz - 25) }) with ctl := { s.ctl with event := s.ctl.event ||| 8 } } := by
  rw [execPowerSample, if_neg (by omega), ho]
  dsimp only
  rw [if_pos hn]

/-! ### Heat (R532) -/

@[simp] theorem State.setWatts_watts (s : State) (w : Nat) : (s.setWatts w).watts = w := rfl
theorem State.endPriceUpdate_cases (s : State) : (∃ p, s.endPriceUpdate = { s with prices := p, priceNext := none }) ∨ s.endPriceUpdate = s := by
  unfold State.endPriceUpdate
  cases s.priceNext
  · exact .inr rfl
  · exact .inl ⟨_, rfl⟩
@[simp] theorem State.setWatts_hot (s : State) (w : Nat) : (s.setWatts w).hot = s.hot := by
  rcases s.endPriceUpdate_cases with ⟨p, h⟩ | h <;> simp [State.setWatts, h]
@[simp] theorem State.setWatts_throttleAt (s : State) (w : Nat) : (s.setWatts w).throttleAt = s.throttleAt := by
  rcases s.endPriceUpdate_cases with ⟨p, h⟩ | h <;> simp [State.setWatts, h]

/-- The sensors as a throttle step finds them, cooled or not (log 2). -/
noncomputable def State.sensed (s : State) : State := if Config.freeNat s.freeCtr % 2 = 1 then { s with hot := [] } else s

theorem State.sensed_cases (s : State) : ∃ l, s.sensed = { s with hot := l } ∧ (s.hot = [] → l = []) := by
  unfold State.sensed
  split
  · exact ⟨[], rfl, fun _ => rfl⟩
  · exact ⟨s.hot, rfl, id⟩

/-- A throttle step by whether it is due, whether a sensor is hot, and where the limit stands. -/
theorem execThrottleStep_eq (s : State) : execThrottleStep s =
    let u := s.sensed
    let due : State := { u with throttleAt := s.cycle + 19000000 }
    .next (if s.cycle < s.throttleAt then u
      else if u.hot ≠ [] then (if 1050 ≤ s.watts then due.setWatts (s.watts - 50) else if s.watts = 1000 then u else due.setWatts 1000)
      else if s.watts < s.wattsSet then due.setWatts (min s.wattsSet (s.watts + 50)) else u) := by
  obtain ⟨l, e, -⟩ := s.sensed_cases
  unfold execThrottleStep
  rw [show (if Config.freeNat s.freeCtr % 2 = 1 then { s with hot := [] } else s) = s.sensed from rfl, e]

theorem execThrottleStep_early {s : State} (h : s.cycle < s.throttleAt) : execThrottleStep s = .next s.sensed := by
  rw [execThrottleStep_eq]
  dsimp only
  rw [if_pos h]
/-- A due step while a sensor stays hot takes 50 W off the limit. -/
theorem execThrottleStep_hot {s : State} (h : s.throttleAt ≤ s.cycle) (hw : 1050 ≤ s.watts) (hh : s.sensed.hot ≠ []) :
    execThrottleStep s = .next (({ s.sensed with throttleAt := s.cycle + 19000000 } : State).setWatts (s.watts - 50)) := by
  rw [execThrottleStep_eq]
  dsimp only
  rw [if_neg (by omega), if_pos hh, if_pos hw]
/-- A due step with every sensor cool gives back up to 50 W of the limit firmware has set. -/
theorem execThrottleStep_cool {s : State} (h : s.throttleAt ≤ s.cycle) (hh : s.sensed.hot = []) :
    execThrottleStep s = .next (if s.watts < s.wattsSet then
      ({ s.sensed with throttleAt := s.cycle + 19000000 } : State).setWatts (min s.wattsSet (s.watts + 50)) else s.sensed) := by
  rw [execThrottleStep_eq]
  dsimp only
  rw [if_neg (by omega), if_neg (by simpa using hh)]

theorem State.sensed_watts (s : State) : s.sensed.watts = s.watts := by
  obtain ⟨l, e, -⟩ := s.sensed_cases
  rw [e]
theorem State.sensed_hot_nil {s : State} (h : s.hot = []) : s.sensed.hot = [] := by
  obtain ⟨l, e, hl⟩ := s.sensed_cases
  rw [e]
  exact hl h

theorem execThermalThrottle_new {s : State} {sensor : Nat} (h : s.hot.contains sensor = false) :
    execThermalThrottle sensor s = .next { s with hot := s.hot ++ [sensor], ctl := { s.ctl with event := s.ctl.event ||| 8 } } := by
  rw [execThermalThrottle, h]
  rfl

theorem throttle_hot {s : State} (h : s.throttleAt ≤ s.cycle) (hw : 1050 ≤ s.watts) : ∃ t, execThrottleStep s = .next t ∧
    (t.hot ≠ [] → t.watts = s.watts - 50 ∧ t.throttleAt = s.cycle + 19000000) := by
  by_cases hh : s.sensed.hot = []
  · refine ⟨_, execThrottleStep_cool h hh, fun ht => absurd ?_ ht⟩
    split
    · rw [State.setWatts_hot]
      exact hh
    · exact hh
  · exact ⟨_, execThrottleStep_hot h hw hh, fun _ => ⟨rfl, by simp⟩⟩

/-- Settles O52: each event where its condition holds; the throttle step by whether the sensors have cooled. -/
theorem clocksAndHeat : Obligations.ClocksAndHeat := by
  intro s cl core mhz g n watts sensor c k
  refine ⟨execSetClusterFrequency_inRange s, fun h => ?_, ⟨(s.targetMhz_bounds cl).1, (s.targetMhz_bounds cl).2, fun hb => s.targetMhz_unboosted hb cl⟩,
    execDroopTrip_inRange s, execDroopClear_inRange s, ?_, rfl, fun t hold => execEngineRampComplete_due, fun u => execEngineRampExpire_due,
    execPowerSample_under, execPowerSample_first, execPowerSample_alert, execThermalThrottle_new, fun _ ht hw _ => throttle_hot ht hw, fun hh ht hw => ?_,
    fun h => ⟨_, execThrottleStep_early h, s.sensed_watts⟩, ⟨_, rfl, rfl⟩, rfl⟩
  · exact (execFllStep_inRange s h).trans (by simp only [Cluster.fll_eq])
  · rintro r rfl hr hk hc donor late
    exact ⟨fun d hu ht hd => execBoostStep_donor hr hk hc hu ht hd, fun hd => execBoostStep_noDonor hr hk hc hd⟩
  · refine ⟨_, execThrottleStep_cool ht (State.sensed_hot_nil hh), ?_⟩
    rw [if_pos (by omega), State.setWatts_watts]
    omega

end Sys2Proof.Machine
end

section
/-!
SUPPORT. The carousel: laps, ring cycles, captures, pledges and prices (R222 to R236, R531).
-/

namespace Sys2Proof.Machine

/-! ### A lap (R224, R463) -/

/-- A partition with an accepted UPDATE in force (R463). -/
def Partition.updated (p : Partition) : Partition :=
  match p.update with
  | some v => { p with sh := v, update := none }
  | none => p

theorem Partition.updated_eq (p : Partition) : p.updated = { p with sh := p.will, update := none } := by
  unfold Partition.updated Partition.will
  split
  next v h => rw [h, Option.getD_some]
  next h => rw [h, Option.getD_none, ← h]

/-- A partition with its total of a lap fixed (R224). -/
def State.lapPart (s : State) (p : Partition) : Partition :=
  let r := lapShare (injection (licence s.watts)) (if p.active then s.share p.id else 0) p.carry
  { p with lapTotal := r.1, carry := r.2 }

/-- The state once the UPDATEs are in force, and once every total is fixed. -/
def State.updatesInForce (s : State) : State := { s with parts := s.parts.map Partition.updated }
def State.totalsFixed (s : State) : State :=
  let f := lapShare (injection (licence s.watts)) s.wfw s.fwCarry
  { s with parts := s.parts.map s.lapPart, fwTotal := f.1, fwCarry := f.2, lapFixed := s.lapFixed + 1 }

theorem execInjectorLapStart_due {s : State} (h : s.ring = 128 * s.lapFixed) : execInjectorLapStart s =
    .next { s.updatesInForce.totalsFixed with lapServes := s.updatesInForce.totalsFixed.lapPackets } := by
  unfold execInjectorLapStart
  rw [if_neg (by simpa using h)]
  rfl

/-- A share hangs on what the fixing of a total leaves alone. -/
theorem share_map {s t : State} {f : Partition → Partition} (ht : t.parts = s.parts.map f) (hi : ∀ p, (f p).id = p.id) (hs : ∀ p, (f p).sh = p.sh)
    (hp : ∀ p, (f p).parent = p.parent) (ha : ∀ p, (f p).active = p.active) (hg : ∀ p, (f p).pending = p.pending) (k : Nat) :
    t.share k = s.share k := by
  have hpart : (t.part k).sh = (s.part k).sh := by
    unfold State.part
    rw [ht]
    induction s.parts with
    | nil => rfl
    | cons p r ih =>
      simp only [List.map_cons, findD, hi]
      split
      · exact hs p
      · exact ih
  have hch : (t.childrenOf k).map (fun c => c.sh.wsh) = (s.childrenOf k).map fun c => c.sh.wsh := by
    unfold State.childrenOf State.counted
    rw [ht]
    simp only [List.filter_map, List.map_map, Function.comp_def, hi, hs, hp, ha, hg]
  rw [State.share, hpart, hch, State.share]

theorem State.share_totalsFixed (s : State) (k : Nat) : s.totalsFixed.share k = s.share k :=
  share_map (f := s.lapPart) rfl (fun _ => rfl) (fun _ => rfl) (fun _ => rfl) (fun _ => rfl) (fun _ => rfl) k

/-- The total and the remaining fraction of a lap make up the injection's part and the fraction before (R224). -/
theorem lapShare_sum (i w carry : Nat) : 4096 * (lapShare i w carry).1 + (lapShare i w carry).2 = 128 * i * w + carry :=
  Nat.div_add_mod _ _

theorem lapStart_part {s : State} {n : Nat} {p q : Partition} (hp : s.parts[n]? = some p) (hq : s.updatesInForce.totalsFixed.parts[n]? = some q) :
    q.id = p.id ∧ q.sh = p.will ∧ q.update = none ∧
      4096 * q.lapTotal + q.carry =
        128 * injection (licence s.watts) * (if p.active then s.updatesInForce.totalsFixed.share q.id else 0) + p.carry ∧ q.carry < 4096 := by
  have e : q = s.updatesInForce.lapPart p.updated := by
    have h : s.updatesInForce.totalsFixed.parts = s.parts.map fun x => s.updatesInForce.lapPart x.updated := List.map_map
    rw [h, List.getElem?_map, hp] at hq
    exact (Option.some.inj hq).symm
  rw [Partition.updated_eq] at e
  subst e
  refine ⟨rfl, rfl, rfl, ?_, Nat.mod_lt _ (by decide)⟩
  rw [State.share_totalsFixed]
  exact lapShare_sum ..

theorem lapPackets_totals (s : State) : ∀ p ∈ s.lapPackets, p.count = s.lapTotalOf p.part ∧ p.cap = s.lapTotalOf p.part / max 1 (s.stopsOf p.part) := by
  intro p hp
  obtain ⟨k, -, rfl⟩ := List.mem_map.1 hp
  exact ⟨rfl, rfl⟩

theorem execRingCycle_due {s : State} (h : s.ring < 128 * s.lapFixed) : execRingCycle s =
    let u := s.countReady.stopLap
    let x := u.turn u.packets
    .next { x.1 with packets := x.2 ++ (x.1.lapServes.take 1).map (fun p => { p with born := x.1.ring }), lapServes := x.1.lapServes.drop 1,
                     ring := x.1.ring + 1 } := by
  unfold execRingCycle
  rw [if_neg (by omega)]

/-! ### Captures (R225, R228) -/

/-- What a stop takes of a packet at a level of its purse (R225, R236, R240). -/
def State.taken (s : State) (stop : Nat) (p : Packet) (level captured : Nat) (capped : Bool) : Nat :=
  min p.count (min (8192 - level) (min (if capped then p.cap - captured else 8192) (if s.early stop then 4096 - level else 8192)))

theorem State.taken_le (s : State) (stop : Nat) (p : Packet) (level captured : Nat) (capped : Bool) :
    s.taken stop p level captured capped ≤ p.count ∧ s.taken stop p level captured capped ≤ 8192 - level :=
  ⟨Nat.min_le_left .., (Nat.min_le_right ..).trans (Nat.min_le_left ..)⟩

theorem State.capture_system {s : State} {stop : Nat} {p : Packet} (hp : p.part = 63) (hs : s.sysOn stop = true) : s.capture stop p =
    let c := s.core stop
    let n := s.taken stop p c.fwPurse c.capturedSys c.cappedSys
    (s.setCore { c with fwPurse := c.fwPurse + n, capturedSys := c.capturedSys + n }, { p with count := p.count - n }) := by
  unfold State.capture
  rw [if_pos hp, if_pos hs]
  rfl
theorem State.capture_system_none {s : State} {stop : Nat} {p : Packet} (hp : p.part = 63) (hs : s.sysOn stop = false) :
    s.capture stop p = (s, p) := by
  unfold State.capture
  rw [if_pos hp, if_neg (by simp [hs])]
theorem State.capture_own {s : State} {stop : Nat} {p : Packet} (hp : p.part ≠ 63) (ho : s.ownerOf stop = some p.part) : s.capture stop p =
    let c := s.core stop
    let n := s.taken stop p c.purse c.captured c.capped
    (s.setCore { c with purse := c.purse + n, captured := c.captured + n }, { p with count := p.count - n }) := by
  unfold State.capture
  rw [if_neg hp, if_pos ho]
  rfl
theorem State.capture_other {s : State} {stop : Nat} {p : Packet} (hp : p.part ≠ 63) (ho : s.ownerOf stop ≠ some p.part) :
    s.capture stop p = (s, p) := by
  unfold State.capture
  rw [if_neg hp, if_neg ho]

/-- No token is made: what the firmware purse gains the packet loses (R228). -/
theorem capture_system_sum {s : State} {stop : Nat} {p : Packet} (hp : p.part = 63) (hs : s.sysOn stop = true) (hl : (s.core stop).fwPurse ≤ 8192) :
    let t := (s.capture stop p).1
    let q := (s.capture stop p).2
    (t.core stop).fwPurse ≤ 8192 ∧ (t.core stop).purse = (s.core stop).purse ∧ (t.core stop).fwPurse + q.count = (s.core stop).fwPurse + p.count ∧
      q.part = p.part := by
  have ⟨h1, h2⟩ := s.taken_le stop p (s.core stop).fwPurse (s.core stop).capturedSys (s.core stop).cappedSys
  rw [State.capture_system hp hs]
  simp only [State.core_setCore, State.core_core, if_true, true_and, and_true]
  omega

/-- No token is made: what a purse gains the packet loses (R225). -/
theorem capture_sum {s : State} {stop : Nat} {p : Packet} (hp : p.part ≠ 63) (hl : (s.core stop).purse ≤ 8192) :
    let t := (s.capture stop p).1
    let q := (s.capture stop p).2
    (t.core stop).purse ≤ 8192 ∧ (s.core stop).purse ≤ (t.core stop).purse ∧ (t.core stop).purse + q.count = (s.core stop).purse + p.count ∧
      q.part = p.part ∧ q.born = p.born := by
  by_cases ho : s.ownerOf stop = some p.part
  · have ⟨h1, h2⟩ := s.taken_le stop p (s.core stop).purse (s.core stop).captured (s.core stop).capped
    rw [State.capture_own hp ho]
    simp only [State.core_setCore, State.core_core, if_true, and_true]
    omega
  · rw [State.capture_other hp ho]
    exact ⟨hl, Nat.le_refl _, rfl, rfl, rfl⟩

/-! ### Pledges (R235) -/

theorem Core.raise_eq (c : Core) (p : Prop) [Decidable p] : (if p then { c with pledge := true } else c) = { c with pledge := c.pledge || decide p } := by
  by_cases h : p <;> simp [h]
theorem Core.raiseSys_eq (c : Core) (p : Prop) [Decidable p] :
    (if p then { c with pledgeSys := true } else c) = { c with pledgeSys := c.pledgeSys || decide p } := by
  by_cases h : p <;> simp [h]

/-- A head that has waited 256 ring cycles makes its core pledge, a user's and a system's apart. -/
theorem execPledgeRaise_eq (core : Nat) (s : State) : execPledgeRaise core s =
    let c := s.core core
    .next (s.setCore { c with pledge := c.pledge || (c.wide != [] && decide (c.headAt + 256 ≤ s.ring)),
                              pledgeSys := c.pledgeSys || (c.wideSys != [] && decide (c.headAtSys + 256 ≤ s.ring)) }) := by
  have hb (l : List (PathId × Nat × Option PriceBasis)) (n : Nat) : decide (l ≠ [] ∧ n + 256 ≤ s.ring) = (l != [] && decide (n + 256 ≤ s.ring)) := by
    by_cases hl : l = [] <;> simp [hl]
  simp only [execPledgeRaise, Core.raise_eq, ← hb]
  exact congrArg (fun c => Host.Outcome.next (s.setCore c)) (Core.raiseSys_eq { s.core core with pledge := _ } _)

/-! ### Prices and the power limit (R231, R232, R531) -/

theorem State.endPriceUpdate_none {s : State} (h : s.priceNext = none) : s.endPriceUpdate = s := by rw [State.endPriceUpdate, h]
theorem State.endPriceUpdate_some {s : State} {q : Prices} (h : s.priceNext = some q) :
    s.endPriceUpdate = { s with prices := { q with gen := s.prices.gen + 1 }, priceNext := none } := by rw [State.endPriceUpdate, h]

/-- The same prices given again end the update in progress (R232). -/
theorem execPriceTableUpdate_again {s : State} {q : Prices} {t : PriceArgs} (h : s.priceNext = some q) (ho : PriceArgs.over t q = q) :
    execPriceTableUpdate t s = .next { s with prices := { q with gen := s.prices.gen + 1 }, priceNext := none } := by
  have he : PriceArgs.over t { q with gen := s.prices.gen + 1 } = { q with gen := s.prices.gen + 1 } :=
    congrArg (fun p : Prices => { p with gen := s.prices.gen + 1 }) ho
  unfold execPriceTableUpdate
  rw [State.endPriceUpdate_some h]
  simp only [he, h, Option.isSome_some, beq_self_eq_true, Bool.and_self, Bool.not_true, Bool.and_false, Bool.false_eq_true, if_false]

/-- Legal prices with no update in progress make GEN odd and wait as the new table (R232). -/
theorem execPriceTableUpdate_first {s : State} {t : PriceArgs} (h : s.priceNext = none) (hl : PriceArgs.legal t = true) :
    execPriceTableUpdate t s =
      .next { s with prices := { s.prices with gen := s.prices.gen + 1 }, priceNext := some (PriceArgs.over t s.prices) } := by
  unfold execPriceTableUpdate
  rw [State.endPriceUpdate_none h]
  simp only [hl, h, Option.isSome_none, Bool.false_and, Bool.not_false, Bool.and_self, if_true]

theorem PriceArgs.legal_of_ranges {t : PriceArgs} (h16 : 2048 ≤ t.mac16.toNat ∧ t.mac16.toNat ≤ 8192)
    (h8 : 4096 ≤ t.mac8.toNat ∧ t.mac8.toNat ≤ 16384) (h4 : 8192 ≤ t.mac4.toNat ∧ t.mac4.toNat ≤ 32768)
    (hp : 1 ≤ t.pass.toNat ∧ t.pass.toNat ≤ 4) (hb : 1 ≤ t.bsqp.toNat ∧ t.bsqp.toNat ≤ 4)
    (hc : ∃ k, t.copyb.toNat = 2 ^ k ∧ 12 ≤ k ∧ k ≤ 16) : PriceArgs.legal t = true := by
  obtain ⟨k, hk, hlo, hhi⟩ := hc
  have h1 : 2 ^ 12 ≤ 2 ^ k := Nat.pow_le_pow_right (by decide) hlo
  have h2 : 2 ^ k ≤ 2 ^ 16 := Nat.pow_le_pow_right (by decide) hhi
  simp only [PriceArgs.legal, hk, Nat.log2_two_pow, h16, h8, h4, hp, hb, decide_true, Bool.and_self, beq_self_eq_true, Bool.true_and, Bool.and_true,
    Bool.and_eq_true, decide_eq_true_eq]
  omega

theorem execSetPowerLimit_legal {s : State} {w : Nat} (hlo : 1000 ≤ w) (hhi : w ≤ 1800) :
    execSetPowerLimit w s = .next (({ s with wattsSet := w } : State).setWatts w) := by
  rw [execSetPowerLimit, if_pos ⟨hlo, hhi⟩]

theorem State.setWatts_none {s : State} (h : s.priceNext = none) (w : Nat) : s.setWatts w =
    { s with watts := w, prices := { s.prices with gen := s.prices.gen + 1 },
             priceNext := some { s.prices with licw := .ofNat 16 (licence w), inj := .ofNat 16 (injection (licence w)) } } := by
  rw [State.setWatts, State.endPriceUpdate_none h]

/-- Settles O51: the lap's totals by the fixing of each partition's, a capture by whose packet it is, prices by whether an update is in progress. -/
theorem carouselEvents : Obligations.CarouselEvents := by
  refine ⟨fun s => ⟨fun h => ?_, execRingCycle_due, lapPackets_totals s⟩, ?_, ?_⟩
  · exact ⟨_, execInjectorLapStart_due h, rfl, rfl, rfl, rfl, rfl, rfl, fun n p q => lapStart_part⟩
  · intro s stop p _ t q
    refine ⟨fun hp ho => ?_, fun hp hs => ?_, capture_system_sum, capture_sum⟩
    · exact Prod.mk.inj (State.capture_other hp ho)
    · exact Prod.mk.inj (State.capture_system_none hp hs)
  · intro s core w t
    refine ⟨execPledgeRaise_eq core s, fun q => execPriceTableUpdate_again, fun hn h16 h8 h4 hp hb hc => ?_, fun hlo hhi hn => ?_, fun hw hs => ?_,
      fun h => ?_⟩
    · refine ⟨_, _, execPriceTableUpdate_first hn (PriceArgs.legal_of_ranges h16 h8 h4 hp hb hc), rfl, rfl, rfl, rfl, rfl, rfl, ?_, ?_⟩
      · exact (BitVec.toNat_setWidth ..).trans (Nat.mod_eq_of_lt (by omega))
      · exact (BitVec.toNat_setWidth ..).trans (Nat.mod_eq_of_lt (by omega))
    · have e := execSetPowerLimit_legal (s := s) hlo hhi
      rw [State.setWatts_none (s := { s with wattsSet := w }) hn] at e
      refine ⟨_, _, e, rfl, rfl, rfl, rfl, ?_, ?_⟩
      · exact (BitVec.toNat_ofNat ..).trans (Nat.mod_eq_of_lt (by unfold licence; omega))
      · exact (BitVec.toNat_ofNat ..).trans (Nat.mod_eq_of_lt (by unfold injection licence; omega))
    · exact congrArg _ (if_pos ⟨hw, hs⟩)
    · exact congrArg _ (if_neg (by omega))

end Sys2Proof.Machine
end

section
/-!
SUPPORT. The matrix instructions at issue (R233, R357 to R368, R375, R377).
-/

namespace Sys2Proof.Machine

@[simp] theorem State.bound_prices (s : State) : s.bound.prices = s.prices := by simp [State.bound]

/-! ### The end of the checks (R234, R375) -/

theorem State.issueMatrix_full {s : State} (h : s.matrixRoom = false) (m : MatrixWork) (b : Option PriceBasis) :
    s.issueMatrix m b = .wait State.freeWide := by
  rw [State.issueMatrix, h]
  rfl
theorem State.issueMatrix_free {s : State} (h : s.matrixRoom = true) (m : MatrixWork) :
    s.issueMatrix m none = .done (s.joins (.matrix m) 0 0 {}) := by
  rw [State.issueMatrix, h]
  rfl
theorem State.issueMatrix_wide {s : State} (h : s.matrixRoom = true) (m : MatrixWork) (b : PriceBasis) :
    s.issueMatrix m (some b) = s.issueWide b fun s => .done (s.joins (.matrix m) 0 0 {}) := by
  rw [State.issueMatrix, h]
  rfl
theorem State.issueMatrix_paid {s : State} (h : s.matrixRoom = true) (m : MatrixWork) {b : PriceBasis} (hp : s.mayPay (s.prices.price b)) :
    s.issueMatrix m (some b) = .done ((s.paid (s.prices.price b)).joins (.matrix m) 0 0 {}) :=
  (State.issueMatrix_wide h m b).trans (State.issueWide_of_mayPay hp _)
theorem State.issueMatrix_unlicensed {s : State} (h : s.matrixRoom = true) (m : MatrixWork) {b : PriceBasis} (hp : ¬ s.mayPay (s.prices.price b)) :
    s.issueMatrix m (some b) = .wait fun s => s.waitWide b :=
  (State.issueMatrix_wide h m b).trans (State.issueWide_of_not_mayPay hp _)

/-! ### The MMA family (R357 to R365, R377) -/

/-- What step 3 asks of the words and formats of an instruction of the MMA family. -/
structure MmaLegal (fn : Nat) (w a : Word64) (f : BitVec 32) (bs : List Word64) : Prop where
  acc : mmaAccOk fn w = true
  opA : operandOk a (aRow fn w f) (fmScm f != 0) = true
  opB : ∀ x ∈ bs, operandOk x (bRow w f) (fmScm f != 0) = true
  pair : pairOk fn f = true
  mx : 8 ≤ fmAfm f ∨ 8 ≤ fmBfm f → acK w % 32 = 0

/-- The price of an instruction of the MMA family (R230, R365). -/
def State.mmaPrice (s : State) (fn : Nat) (d : SReg) : Nat := s.prices.price (macBasis s.cur.fmt (macs fn (s.rS d)))

/-- The end of an instruction of the MMA family whose words and formats are legal: its price, its ranges, then its issue (R365, R377). -/
def State.mmaEnd (s : State) (fn : Nat) (d a b : SReg) : Res :=
  let w := s.rS d
  let f := s.cur.fmt
  let al := if fmScm f = 2 then 4 else 1
  if 8192 < s.mmaPrice fn d then .stop (priceTrap (s.mmaPrice fn d))
  else
    match ((s.bound.operandRange (s.rS a) (acM w) (aRow fn w f) (scaleBytes f (acK w) (acM w)) al ::
        (bWords fn b s).map fun x => s.bound.operandRange x (acK w) (bRow w f) (scaleBytes f (acK w) (acN w)) al).findSome? id).or
        (s.bound.tileRange w) with
    | some x => .stop x
    | none => s.bound.issueMatrix { fn := fn, acc := w, a := s.rS a, b := s.rS b, b1 := (bWords fn b s).getD 1 0, fmt := f,
                                    rb := min s.tr.rbnd.toNat (acM w) } (some (macBasis f (macs fn w)))

section mma
variable {fn : Nat} {d a b : SReg} {s : State} (hf : fn = 3 → b ≠ 63) (hr : Runs (formA 0x65 fn d.toNat a.toNat b.toNat) s)
  (hl : MmaLegal fn (s.rS d) (s.rS a) s.cur.fmt (bWords fn b s))
include hf hr hl

/-- Legal words and formats lead to the price, then to the ranges. -/
theorem mmaFamily_legal :
    mmaFamily fn d a b s = .next (s.finish (formA 0x65 fn d.toNat a.toNat b.toNat).word (s.mmaEnd fn d a b)) := by
  obtain ⟨h1, h2, h3, h4, h5⟩ := hl
  have hb : bWords fn b s.bound = bWords fn b s := by simp only [bWords, State.bound_rS]
  have hm : ((decide (8 ≤ fmAfm s.cur.fmt) || decide (8 ≤ fmBfm s.cur.fmt)) && acK (s.rS d) % 32 != 0) = false := by
    by_cases h : 8 ≤ fmAfm s.cur.fmt ∨ 8 ≤ fmBfm s.cur.fmt
    · simp [h5 h]
    · simp only [not_or] at h
      simp [h]
  unfold mmaFamily
  rw [runForm_eq hr]
  simp only [State.bound_rS, State.bound_fmt, State.bound_prices, State.bound_rbnd, hb, if_neg (fun h : fn = 3 ∧ b = 63 => hf h.1 h.2), h1, h2,
    List.all_eq_true.2 h3, h4, hm, Bool.not_true, Bool.or_self, Bool.false_eq_true, if_false]
  rfl

theorem mmaFamily_price (hp : 8192 < s.mmaPrice fn d) : mmaFamily fn d a b s =
    .next (s.stopWord (formA 0x65 fn d.toNat a.toNat b.toNat).word (priceTrap (s.mmaPrice fn d))) := by
  rw [mmaFamily_legal hf hr hl, State.mmaEnd, if_pos hp]
  rfl

theorem mmaFamily_issues (hp : s.mmaPrice fn d ≤ 8192)
    (ha : s.bound.operandRange (s.rS a) (acM (s.rS d)) (aRow fn (s.rS d) s.cur.fmt) (scaleBytes s.cur.fmt (acK (s.rS d)) (acM (s.rS d)))
      (if fmScm s.cur.fmt = 2 then 4 else 1) = none)
    (hb : ∀ x ∈ bWords fn b s, s.bound.operandRange x (acK (s.rS d)) (bRow (s.rS d) s.cur.fmt)
      (scaleBytes s.cur.fmt (acK (s.rS d)) (acN (s.rS d))) (if fmScm s.cur.fmt = 2 then 4 else 1) = none)
    (ht : acAco (s.rS d) + 4 * acM (s.rS d) * acN (s.rS d) ≤ s.bound.gg.acsk) :
    mmaFamily fn d a b s = .next (s.finish (formA 0x65 fn d.toNat a.toNat b.toNat).word
      (s.bound.issueMatrix { fn := fn, acc := s.rS d, a := s.rS a, b := s.rS b, b1 := (bWords fn b s).getD 1 0, fmt := s.cur.fmt,
                             rb := min s.tr.rbnd.toNat (acM (s.rS d)) } (some (macBasis s.cur.fmt (macs fn (s.rS d)))))) := by
  rw [mmaFamily_legal hf hr hl, State.mmaEnd, if_neg (by omega), List.findSome?_eq_none_iff.2, State.tileRange, if_pos ht]
  · rfl
  · intro r hr
    rcases List.mem_cons.1 hr with rfl | hr
    · exact ha
    · obtain ⟨x, hx, rfl⟩ := List.mem_map.1 hr
      exact hb x hx

end mma

/-! ### Tile instructions and MREL (R366 to R368) -/

theorem tileMove_issues {fn : Nat} {d a b : SReg} {s : State} (hr : Runs (formA 0x65 fn d.toNat a.toNat b.toNat) s)
    (hw : tileOk (s.rS d) = true) (hc : convOk (fn == 5) (s.rS b) = true)
    (ho : operandOk (s.rS a) (acN (s.rS d) * mfBytes (bitsOf (s.rS b).toNat 3 0)) false = true)
    (ha : s.bound.operandRange (s.rS a) (acM (s.rS d)) (acN (s.rS d) * mfBytes (bitsOf (s.rS b).toNat 3 0)) 0 1 = none)
    (ht : acAco (s.rS d) + 4 * acM (s.rS d) * acN (s.rS d) ≤ s.bound.gg.acsk) (hm : s.bound.matrixRoom = true) :
    tileMove fn d a b s = .next ((s.bound.joins (.matrix { fn := fn, acc := s.rS d, a := s.rS a, b := s.rS b, fmt := s.cur.fmt, rb := acM (s.rS d) })
      0 0 {}).advanceWord (formA 0x65 fn d.toNat a.toNat b.toNat).word) := by
  unfold tileMove
  rw [runForm_eq hr]
  simp only [State.bound_rS, State.bound_fmt, hw, hc, ho, ha, State.tileRange, if_pos ht, Bool.not_true, Bool.or_self, Bool.false_eq_true, if_false,
    Option.or_none, State.issueMatrix_free hm, State.finish]

theorem execAcz_issues {a b : SReg} {s : State} (hr : Runs (formA 0x65 6 0 a.toNat b.toNat) s) (hw : tileOk (s.rS a) = true)
    (hb : (s.rS b).toNat < 2 ^ 32) (ht : acAco (s.rS a) + 4 * acM (s.rS a) * acN (s.rS a) ≤ s.bound.gg.acsk) (hm : s.bound.matrixRoom = true) :
    execAcz a b s = .next ((s.bound.joins (.matrix { fn := 6, acc := s.rS a, b := s.rS b, fmt := s.cur.fmt, rb := acM (s.rS a) })
      0 0 {}).advanceWord (formA 0x65 6 0 a.toNat b.toNat).word) := by
  have hd : decide (2 ^ 32 ≤ (s.rS b).toNat) = false := decide_eq_false (Nat.not_le.2 hb)
  unfold execAcz
  rw [runForm_eq hr]
  simp only [State.bound_rS, State.bound_fmt, hw, hd, State.tileRange, if_pos ht, Bool.not_true, Bool.or_self, Bool.false_eq_true, if_false,
    State.issueMatrix_free hm, State.finish]

theorem execMrel_eq {s : State} (hr : Runs (formA 0x65 7 0 0 0) s) : execMrel s =
    let c := s.bound.core s.bound.req.core
    .next ((if c.lease = some (s.gg.uid, s.tr.idx) then (s.bound.setCore { c with mrel := c.mrel.or (some s.bound.nextUid) }).settleLease c.core
      else s.bound).advanceWord (formA 0x65 7 0 0 0).word) := by
  unfold execMrel
  rw [runForm_eq hr, State.bound_gg, State.bound_idx]
  rfl

/-- The instructions of the MMA family by their code. -/
theorem exec_mmaFamily {s : State} {i : Instr} {fn : Nat} {d a b : SReg} {bs : List Word64}
    (hi : (i, fn, bs) ∈ [(Instr.mma d a b, 0, [s.rS b]), (Instr.mmam d a b, 1, [s.rS b]), (Instr.mmas d a b, 2, [s.rS b]),
       (Instr.mma2 d a b, 3, [s.rS b, s.rS (b + 1)])]) :
    exec i s = mmaFamily fn d a b s ∧ formOf i = formA 0x65 fn d.toNat a.toNat b.toNat ∧ bs = bWords fn b s := by
  simp only [List.mem_cons, Prod.mk.injEq, List.not_mem_nil, or_false] at hi
  rcases hi with ⟨rfl, rfl, rfl⟩ | ⟨rfl, rfl, rfl⟩ | ⟨rfl, rfl, rfl⟩ | ⟨rfl, rfl, rfl⟩ <;> exact ⟨rfl, rfl, rfl⟩

/-- Settles O43: the words and formats, the price, the ranges, then the queue and the licence; MREL by whose lease it is. -/
theorem matrixIssue : Obligations.MatrixIssue := by
  constructor
  · intro s i fn d a b bs w f scales rate per price al m hi hf hr hacc ha hb hpair hmx
    obtain ⟨he, hform, rfl⟩ := exec_mmaFamily hi
    have hword : i.word = (formA 0x65 fn d.toNat a.toNat b.toNat).word := congrArg Form.word hform
    rw [hform] at hr
    have hl : MmaLegal fn (s.rS d) (s.rS a) s.cur.fmt (bWords fn b s) := ⟨hacc, ha, hb, hpair, hmx⟩
    have hprice : price = s.bound.prices.price (macBasis s.cur.fmt (macs fn (s.rS d))) := by rw [State.bound_prices]; rfl
    rw [he, hword]
    refine ⟨fun hp hra hrb ht => ?_, fun hp hn => ?_⟩
    · rw [mmaFamily_issues hf hr hl hp hra hrb ht]
      refine ⟨fun hm hpay => ?_, fun hm hpay _ => ?_, fun hm => ?_⟩
      · rw [hprice] at hpay ⊢
        rw [State.issueMatrix_paid hm _ hpay]
        rfl
      · rw [hprice] at hpay
        rw [State.issueMatrix_unlicensed hm _ hpay]
        rfl
      · rw [State.issueMatrix_full hm]
        rfl
    · rw [mmaFamily_price hf hr hl hp]
      exact congrArg _ (State.stopWord_trap hn _ _)
  · intro s i fn d a b
    refine ⟨?_, fun w hw hr ht hb hs hm => ?_, fun hr hne => ?_, fun hr he => ?_⟩
    · intro w hw row hi hr ht hc ho ha hs hm
      subst hw
      simp only [List.mem_cons, Prod.mk.injEq, List.not_mem_nil, or_false] at hi
      rcases hi with ⟨rfl, rfl⟩ | ⟨rfl, rfl⟩ <;> exact tileMove_issues hr ht hc ho ha hs hm
    · subst hw
      exact execAcz_issues hr ht hb hs hm
    · refine (execMrel_eq hr.1).trans ?_
      dsimp only
      rw [if_neg hne, State.advanceWord_eq (by rw [State.bound_pc]; exact hr.2)]
    · refine (execMrel_eq hr.1).trans ?_
      dsimp only
      rw [if_pos he]
      rfl

end Sys2Proof.Machine
end

section
/-!
SUPPORT. Bytes and rows that copies move, counters and reductions (R339, R345, R349, R354).
-/

namespace Sys2Proof.Machine

/-! ### Bytes written (R345) -/

/-- Each byte of a write is its part of the value; every other byte stays. -/
theorem cellGet_writeCells {c : Nat} : ∀ {m : List Host.Cell} (a n v : Nat), Memory.wf m = true →
    cellGet (writeCells m a n v) c = if a ≤ c ∧ c < a + n then .ofNat 8 (v / 2 ^ (8 * (c - a))) else cellGet m c
  | m, a, 0, v, _ => by rw [if_neg (by omega), writeCells]
  | m, a, n + 1, v, h => by
    rw [writeCells, cellGet_writeCells (a + 1) n (v / 256) (cellSet_wf h a _)]
    by_cases hc : c = a
    · rw [if_neg (by omega), if_pos (by omega), hc, cellGet_cellSet_self a _ h, Nat.sub_self, Nat.mul_zero, Nat.pow_zero, Nat.div_one]
    · rw [cellGet_cellSet_other _ hc h]
      by_cases hin : a + 1 ≤ c ∧ c < a + 1 + n
      · have e : 2 ^ (8 * (c - a)) = 256 * 2 ^ (8 * (c - (a + 1))) := by
          rw [show c - a = c - (a + 1) + 1 by omega, Nat.mul_succ, Nat.pow_add, Nat.mul_comm]
        rw [if_pos hin, if_pos (by omega), Nat.div_div_eq_div_mul, e]
      · rw [if_neg hin, if_neg (by omega)]

@[simp] theorem State.writeHome_mem (s : State) (w : Option Nat) (pa n v : Nat) : (s.writeHome w pa n v).mem = writeCells s.mem pa n v := by
  simp only [State.writeHome, State.fresh_mem, State.applyHeld_mem]

/-! ### Lanes of a field's rows (R354) -/

theorem testBit_setBitNat (r e : Nat) (b : Bool) : (setBitNat r e b).testBit e = b := by
  unfold setBitNat
  cases b with
  | true => simp [Nat.testBit_or]
  | false =>
    by_cases h : r.testBit e = true
    · rw [if_neg Bool.false_ne_true, if_pos h]
      rw [Nat.testBit_eq_decide_div_mod_eq, decide_eq_true_eq] at h
      have hd : (r - 2 ^ e) / 2 ^ e = r / 2 ^ e - 1 := by simpa using Nat.sub_mul_div r (2 ^ e) 1
      rw [Nat.testBit_eq_decide_div_mod_eq, hd, decide_eq_false_iff_not]
      omega
    · rw [if_neg Bool.false_ne_true, if_neg h]
      simpa using h

theorem sum_testBits (n : Nat) : ∀ w, ((List.range w).map fun k => if n.testBit k then 2 ^ k else 0).sum = n % 2 ^ w
  | 0 => by simp [Nat.mod_one]
  | w + 1 => by
    rw [List.range_succ, List.map_append, List.sum_append, sum_testBits n w, Nat.mod_pow_succ]
    rcases Nat.mod_two_eq_zero_or_one (n / 2 ^ w) with h | h <;> simp [Nat.testBit_eq_decide_div_mod_eq, h]

/-- The element written into a lane is the one read from it. -/
theorem readLane_writeLane {rows : List Nat} {row0 wid e n : Nat} (hn : n < 2 ^ wid) (hr : row0 + wid ≤ rows.length) :
    readLane (writeLane rows row0 wid e n) row0 wid e = n := by
  have hrow : ∀ k ∈ List.range wid, (if ((writeLane rows row0 wid e n).getD (row0 + k) 0).testBit e then 2 ^ k else 0) =
      if n.testBit k then 2 ^ k else 0 := by
    intro k hk
    have hk := List.mem_range.1 hk
    have hlt : row0 + k < rows.length := by omega
    have hin : row0 ≤ row0 + k ∧ row0 + k < row0 + wid := by omega
    rw [List.getD_eq_getElem?_getD, writeLane, List.getElem?_mapIdx, List.getElem?_eq_getElem hlt, Option.map_some, Option.getD_some, if_pos hin,
      testBit_setBitNat, Nat.add_sub_cancel_left]
  rw [readLane, List.map_congr_left hrow, sum_testBits, Nat.mod_eq_of_lt hn]

/-! ### Counters (R339) -/

theorem counterNext_eq {c inc : Nat} {e : Bool} (hc : c < 2 ^ 64) :
    counterNext c inc e % 2 ^ 63 = (c + inc) % 2 ^ 63 ∧ counterNext c inc e < 2 ^ 64 ∧ (2 ^ 63 ≤ counterNext c inc e ↔ e = true ∨ 2 ^ 63 ≤ c) := by
  rw [counterNext, Nat.mod_eq_of_lt hc]
  split
  next h => exact ⟨by omega, by omega, iff_of_true (by omega) h⟩
  next h => exact ⟨by omega, by omega, iff_of_false (by omega) h⟩

section add
variable {s : State} {dom part ctr : Nat} {sys : Bool} {inc : Word32} {e : Bool}

theorem State.counterAdd_drop (h : s.addPlace part sys ctr = .drop) : s.counterAdd dom part sys ctr inc e = (s, none) := by
  rw [State.counterAdd, h]
theorem State.addPlace_none : s.addPlace part sys 0 = .drop := rfl
theorem State.addPlace_pricePage (h : isPricePage sys ctr = true) : s.addPlace part sys ctr = .drop := by
  rw [State.addPlace, h, Bool.or_true, if_pos rfl]

/-- The place of an add whose page is mapped. -/
theorem State.addPlace_mapped {l : TlbEntry} (h0 : ctr ≠ 0) (hp : isPricePage sys ctr = false)
    (hw : (walk s (s.entryAt none part) part sys ctr .write).1 = .inr l) : s.addPlace part sys ctr =
      if (s.bellAt (l.pa + ctr % 2 ^ l.size)).isSome then .drop
      else if s.away (l.pa + ctr % 2 ^ l.size) then .lost (l.pa + ctr % 2 ^ l.size) else .home (l.pa + ctr % 2 ^ l.size) := by
  rw [State.addPlace, if_neg (by simp [h0, hp]), hw]

end add

/-- An add at a mapped page is made, or fails with its module, or is dropped on a doorbell page (R244, R522). -/
theorem counterAdd_mapped {s : State} {dom part ctr : Nat} {sys : Bool} {inc : Word32} {e : Bool} {l : TlbEntry} (h0 : ctr ≠ 0)
    (hp : isPricePage sys ctr = false) (hw : (walk s (s.entryAt none part) part sys ctr .write).1 = .inr l) :
    let pa := l.pa + ctr % 2 ^ l.size
    (s.bellAt pa = none → s.away pa = false →
       s.counterAdd dom part sys ctr inc e = ((s.applyHeld dom pa 8).writeHome none pa 8 (counterNext (readCells s.mem pa 8) inc.toNat e), some (.inr pa))) ∧
     (s.bellAt pa = none → s.away pa = true → s.counterAdd dom part sys ctr inc e = (s.machineCheck 128 part pa 9 false, none)) ∧
     (s.bellAt pa ≠ none → s.counterAdd dom part sys ctr inc e = (s, none)) := by
  have hplace := State.addPlace_mapped h0 hp hw
  refine ⟨fun hb ha => ?_, fun hb ha => ?_, fun hb => State.counterAdd_drop ?_⟩
  · rw [hb, ha] at hplace
    rw [State.counterAdd, hplace]
    rfl
  · rw [hb, ha] at hplace
    rw [State.counterAdd, hplace]
    rfl
  · rw [hplace, if_pos (Option.isSome_iff_ne_none.2 hb)]

/-! ### Reductions (R349) -/

theorem copyrOp_new {o : CopyrOp} {x v rho w : Nat} (hx : x < 2 ^ 32) (hv : v < 2 ^ 32) :
    let s32 (n : Nat) : Int := (BitVec.ofNat 32 n).toInt
    let f (n : Nat) := fp32.unpack n
    let half := sumExact .rne [bf16.unpack (x % 2 ^ 16), f v]
    (o, w) ∈ [(.addI32, (x + v) % 2 ^ 32), (.addF32, fp32.round .plain .rne 0 (sumExact .rne [f x, f v]) % 2 ^ 32), (.addBf16, bf16.round .plain .rne 0 half),
      (.addBf16Sr, bf16.round .plain .sr rho half), (.addBf16SrSat, bf16.round .sat .sr rho half), (.minI32, if s32 x ≤ s32 v then x else v),
      (.maxI32, if s32 x ≤ s32 v then v else x), (.and, x &&& v), (.or, x ||| v)] → CopyrOp.new o x v rho = w := by
  intro s32 f half h
  have ev : val32 (BitVec.ofNat 32 v) = f v := congrArg fp32.unpack (toNat_ofNat_of_lt hv)
  have ex : val32 (BitVec.ofNat 32 x) = f x := congrArg fp32.unpack (toNat_ofNat_of_lt hx)
  simp only [List.mem_cons, Prod.mk.injEq, List.not_mem_nil, or_false] at h
  rcases h with ⟨rfl, rfl⟩ | ⟨rfl, rfl⟩ | ⟨rfl, rfl⟩ | ⟨rfl, rfl⟩ | ⟨rfl, rfl⟩ | ⟨rfl, rfl⟩ | ⟨rfl, rfl⟩ | ⟨rfl, rfl⟩ | ⟨rfl, rfl⟩
  · exact toNat_add_ofNat hx hv
  · simp only [CopyrOp.new, round32, ex, ev, BitVec.toNat_ofNat]
  · simp only [CopyrOp.new, ev, half]
  · simp only [CopyrOp.new, ev, half]
  · simp only [CopyrOp.new, ev, half]
  · exact toNat_mins_ofNat hx hv
  · exact toNat_maxs_ofNat hx hv
  · exact toNat_and_ofNat hx hv
  · exact toNat_or_ofNat hx hv

end Sys2Proof.Machine
end

section
/-!
SUPPORT. What an engine's read and write of an element do (R344, R345).
-/

namespace Sys2Proof.Machine

/-! ### Gangs by name -/

theorem State.gang?_updGang_self {s : State} {uid : Nat} {g : Gang} (h : s.gang? uid = some g) {f : Gang → Gang} (hf : ∀ g, (f g).uid = g.uid) :
    (s.updGang uid f).gang? uid = some (f g) := by
  unfold State.gang? at h ⊢
  unfold State.updGang
  split at h
  · cases h
  next h0 =>
    rw [if_neg h0]
    split at h
    next he =>
      obtain rfl := Option.some.inj h
      rw [if_pos he, if_pos ((hf s.gg).trans he)]
    next hne =>
      have hp : ((fun g => g.uid == uid) ∘ fun g => if g.uid = uid then f g else g) = fun g : Gang => g.uid == uid := by
        funext g
        dsimp only [Function.comp]
        split
        · rw [hf]
        · rfl
      rw [if_neg hne, if_neg hne, List.find?_map, hp, h, Option.map_some, if_pos (beq_iff_eq.1 (List.find?_some h :))]

theorem State.gang?_updGang_other {s : State} {uid k : Nat} (h : k ≠ uid) {f : Gang → Gang} (hf : ∀ g, (f g).uid = g.uid) :
    (s.updGang uid f).gang? k = s.gang? k := by
  unfold State.gang? State.updGang
  by_cases h0 : k = 0
  · rw [if_pos h0, if_pos h0]
  rw [if_neg h0, if_neg h0]
  by_cases he : s.gg.uid = uid
  · rw [if_pos he, if_neg (by rw [hf, he]; exact Ne.symm h), if_neg (by rw [he]; exact Ne.symm h)]
  · rw [if_neg he]
    split
    · rfl
    · have hp : ((fun g => g.uid == k) ∘ fun g => if g.uid = uid then f g else g) = fun g : Gang => g.uid == k := by
        funext g
        dsimp only [Function.comp]
        split
        · rw [hf]
        · rfl
      have hm : ∀ l : List Gang, (l.find? fun g => g.uid == k).map (fun g => if g.uid = uid then f g else g) = l.find? fun g => g.uid == k := by
        intro l
        cases hl : l.find? fun g => g.uid == k with
        | none => rfl
        | some g => rw [Option.map_some, if_neg (by rw [beq_iff_eq.1 (List.find?_some hl :)]; exact h)]
      rw [List.find?_map, hp, hm]

/-! ### Accesses of an engine -/

/-- A troupe that owes no store has nothing to perform first. -/
theorem State.performBefore_idle {s : State} {x : Work} (h : ∀ y, s.troupe? x.gang x.troupe = some y → y.stream = []) (l : Loc) (n : Nat) :
    s.performBefore x l n = s := by
  unfold State.performBefore
  refine if_neg ?_
  cases ht : s.troupe? x.gang x.troupe with
  | none => exact Bool.false_ne_true
  | some y => rw [Option.any_some, h y ht]; exact Bool.false_ne_true

/-- An engine other than a field's acts in the DD (R501). -/
theorem State.engineDom_zero {s : State} {x : Work} (h : x.kind.engine ≠ 3) : s.engineDom x = 0 := by
  unfold State.engineDom State.seqStack
  cases hk : x.kind with
  | job j => rw [hk] at h; exact absurd rfl h
  | _ => rfl

section flat
variable {s t : State} {x : Work} {va pa mt n : Nat}

theorem State.engineRead_flat (nd : BitVec 4) (hp : s.enginePa x va .read = .ok (pa, mt, t)) (hpp : isPricePage x.sys va = false)
    (he : ((t.performBefore x (.phys pa mt) n).flushLine x.core pa).lineError x.core pa = none) :
    s.engineRead x nd (.flat va) n = .ok (((t.performBefore x (.phys pa mt) n).flushLine x.core pa).viewNat 0 pa n,
      ((t.performBefore x (.phys pa mt) n).flushLine x.core pa).engineTouch x nd false pa mt n) := by
  simp only [State.engineRead, hpp, Bool.false_eq_true, if_false, hp, he]

theorem State.engineWrite_flat (v : Nat) (hp : s.enginePa x va .write = .ok (pa, mt, t)) (hb : (t.performBefore x (.phys pa mt) n).bellAt pa = none)
    (ha : (t.performBefore x (.phys pa mt) n).away pa = false) (he : x.kind.engine ≠ 3) :
    s.engineWrite x (.flat va) n v = .ok (((((t.performBefore x (.phys pa mt) n).flushLine x.core pa).writeHome none pa n v).noteWrote x pa).engineTouch
      x x.mode.nd true pa mt n) := by
  simp only [State.engineWrite, hp, hb, ha, State.engineDom_zero he, Bool.false_eq_true, ne_eq, not_true_eq_false, false_and, if_false]

end flat

/-- A write in the scratchpad changes the gang's bytes alone. -/
theorem State.engineWrite_scratch {s : State} {x : Work} {va n v : Nat} {g : Gang} (hg : s.gang? x.gang = some g)
    (hi : ∀ y, s.troupe? x.gang x.troupe = some y → y.stream = []) : ∃ r, s.engineWrite x (.scratch va) n v = .ok r ∧ r.mem = s.mem ∧
      r.gang? x.gang = some { g with scratch := writeCells g.scratch va n v } := by
  refine ⟨_, rfl, ?_, ?_⟩
  · rw [State.performBefore_idle hi, State.updGang_mem]
  · rw [State.performBefore_idle hi]
    exact State.gang?_updGang_self hg fun _ => rfl

end Sys2Proof.Machine
end

section
/-!
O54: the events of copies (R338, R339, R344 to R349, R354, R355, R404, R459).
-/

namespace Sys2Proof.Machine

/-! ### One step of a unit (R344, R347, R354) -/

/-- The state once a unit of a work has been written. -/
def State.landUnit (t : State) (x : Work) (c : CopyWork) (u : Nat) : State := t.setWork (((t.work? x.uid).getD x).withCopy (c.finish u))

section unit
variable {s t r : State} {x : Work} {c : CopyWork} {u v : Nat} (hu : u < c.units) (hd : c.isDone u = false) (hw : ∀ q ∈ c.waits, q.1 ≠ u)
include hu hd hw

/-- A unit of the copy that is neither done nor waiting takes its step. -/
theorem unit_open : ¬ (c.units ≤ u ∨ c.isDone u = true ∨ (c.waits.any fun w => w.1 == u) = true) := by
  rintro (h | h | h)
  · omega
  · rw [hd] at h
    exact Bool.false_ne_true h
  · obtain ⟨q, hq, he⟩ := List.any_eq_true.1 h
    exact hw q hq (beq_iff_eq.1 he)

theorem unitStep_copy_read (hk : c.kind = .copy) (hv : ∀ q ∈ c.vals, q.1 ≠ u) :
    (s.engineRead x c.snd (s.srcSpot x c u) c.unitSize = .ok (v, t) →
      s.unitStep x c u = t.setWork (x.withCopy { c with vals := c.vals ++ [(u, v)] })) ∧
    ∀ e, s.engineRead x c.snd (s.srcSpot x c u) c.unitSize = .error e → s.unitStep x c u = s.stopElem x c u (s.spotVa x (s.srcSpot x c u)) e := by
  have hf : c.vals.find? (fun q => q.1 == u) = none := List.find?_eq_none.2 fun q hq => by simpa using hv q hq
  constructor
  · intro h
    rw [State.unitStep, if_neg (unit_open hu hd hw)]
    simp only [hk, hf, h]
  · intro e h
    rw [State.unitStep, if_neg (unit_open hu hd hw)]
    simp only [hk, hf, h]

theorem unitStep_copy_write (hk : c.kind = .copy) (hf : c.vals.find? (fun q => q.1 == u) = some (u, v))
    (hh : ∀ m < c.units, s.holdsWrites x c m = false) (hb : s.blocked x c u = false) :
    (s.engineWrite x (s.dstSpot x c u) c.unitSize v = .ok t → s.unitStep x c u = t.landUnit x c u) ∧
    ∀ e, s.engineWrite x (s.dstSpot x c u) c.unitSize v = .error e → s.unitStep x c u = s.stopElem x c u (s.spotVa x (s.dstSpot x c u)) e := by
  have hn : ((List.range c.units).any fun m => s.holdsWrites x c m) = false :=
    List.any_eq_false.2 fun m hm => by rw [hh m (List.mem_range.1 hm)]; exact Bool.false_ne_true
  constructor
  · intro h
    rw [State.unitStep, if_neg (unit_open hu hd hw)]
    simp only [hk, hf, hn, hb, h, Bool.false_eq_true, if_false, State.landUnit]
  · intro e h
    rw [State.unitStep, if_neg (unit_open hu hd hw)]
    simp only [hk, hf, hn, hb, h, Bool.false_eq_true, if_false]

theorem unitStep_copy_held (hk : c.kind = .copy) (hv : ∃ q ∈ c.vals, q.1 = u) {m : Nat} (hm : m < c.units) (hh : s.holdsWrites x c m = true) :
    s.unitStep x c u = s := by
  obtain ⟨q, hq, he⟩ := hv
  obtain ⟨p, hp⟩ := Option.isSome_iff_exists.1 (List.find?_isSome.2 ⟨q, hq, beq_iff_eq.2 he⟩ : (c.vals.find? fun q => q.1 == u).isSome = true)
  have hn : ((List.range c.units).any fun m => s.holdsWrites x c m) = true := List.any_eq_true.2 ⟨m, List.mem_range.2 hm, hh⟩
  rw [State.unitStep, if_neg (unit_open hu hd hw)]
  simp only [hk, hp, hn, if_true]

theorem unitStep_plain (hk : c.kind = .plain) (hb : s.blocked x c u = false)
    (hr : s.engineRead x c.snd (s.srcSpot x c u) c.unitSize = .ok (v, t)) (ht : t.engineWrite x (s.dstSpot x c u) c.unitSize v = .ok r) :
    s.unitStep x c u = r.landUnit x c u := by
  rw [State.unitStep, if_neg (unit_open hu hd hw)]
  simp only [hk, hb, hr, ht, Bool.false_eq_true, if_false, State.landUnit]

theorem unitStep_reduce_mem {o : CopyrOp} {pa mt : Nat} (hk : c.kind = .reduce o) (hb : s.blocked x c u = false)
    (hp : s.enginePa x (s.dstSpot x c u).va .atomic = .ok (pa, mt, t)) (he : t.lineError x.core pa = none) :
    let y := (t.performBefore x (.phys pa mt) c.unitSize).flushLine x.core pa
    let opnd := ((c.elems[u / c.per]?).map fun q => q.2.2.2).getD 0
    (s.unitStep x c u).mem =
      writeCells y.mem pa c.unitSize (CopyrOp.new o (readCells y.mem pa c.unitSize) (opnd % 2 ^ 32) (opnd / 2 ^ 32)) := by
  rw [State.unitStep, if_neg (unit_open hu hd hw)]
  simp only [hk, hb, hp, he, Bool.false_eq_true, if_false, State.setWork_mem, State.engineTouch_mem, State.noteWrote_mem, State.writeHome_mem]

section whole
variable (hz : c.z ≠ 16)
include hz

theorem unitStep_tin (hk : c.kind = .tin) (hh : s.headsField x.part c.field x.uid = true)
    (hr : s.engineRead x c.snd (s.srcSpot x c u) c.unitSize = .ok (v, t)) :
    s.unitStep x c u =
      (t.updField x.part c.field fun f => { f with rows := writeLane f.rows c.row0 c.wid u v }).setWork (x.withCopy (c.finish u)) := by
  have hper : c.per = 1 := if_neg hz
  rw [State.unitStep, if_neg (unit_open hu hd hw)]
  simp only [hk, hh, hr, hper, Nat.mod_one, Nat.div_one, Bool.not_true, Bool.false_eq_true, if_false, if_true]

/-- The value of a lane as a copy out of a field writes it (R340, R354). -/
def CopyWork.laneValue (c : CopyWork) (lane : Nat) : Nat :=
  (if c.sgn = true ∧ lane.testBit (c.wid - 1) = true then lane + (2 ^ (8 * c.z) - 2 ^ c.wid) else lane) % 2 ^ (8 * c.unitSize)

theorem unitStep_tout {f : FieldSlot} (hk : c.kind = .tout) (hh : s.headsField x.part c.field x.uid = true) (hb : s.blocked x c u = false)
    (hbad : s.bad = []) (hf : (s.part x.part).fields[c.field]? = some f)
    (ht : s.engineWrite x (s.dstSpot x c u) c.unitSize (c.laneValue (readLane f.rows c.row0 c.wid u)) = .ok t) :
    s.unitStep x c u = t.landUnit x c u := by
  have hper : c.per = 1 := if_neg hz
  have hl : s.laneError x.part c.field ((List.range c.wid).map fun k => c.row0 + k) u = none := by
    rw [State.laneError, hf, hbad]
    simp
  rw [CopyWork.laneValue] at ht
  rw [State.unitStep, if_neg (unit_open hu hd hw)]
  simp only [hk, hh, hb, hl, hf, ht, hper, Nat.mod_one, Nat.div_one, Nat.mul_zero, Nat.pow_zero, Option.map_some, Option.getD_some, Bool.and_eq_true,
    Bool.not_true, Bool.or_self, Bool.false_eq_true, if_false, State.landUnit]

end whole
end unit

theorem holdsWrites_false {s : State} {x : Work} {c : CopyWork} {m : Nat}
    (h : c.isDone m = true ∨ (∃ q ∈ c.vals, q.1 = m) ∨ ∃ q ∈ c.waits, q.1 = m) : s.holdsWrites x c m = false := by
  rcases h with h | ⟨q, hq, he⟩ | ⟨q, hq, he⟩
  · simp [State.holdsWrites, h]
  · have : (c.vals.any fun w => w.1 == m) = true := List.any_eq_true.2 ⟨q, hq, beq_iff_eq.2 he⟩
    simp [State.holdsWrites, this]
  · have : (c.waits.any fun w => w.1 == m) = true := List.any_eq_true.2 ⟨q, hq, beq_iff_eq.2 he⟩
    simp [State.holdsWrites, this]
theorem holdsWrites_true {s : State} {x : Work} {c : CopyWork} {m : Nat} (hb : s.begins x = true) (hd : c.isDone m = false)
    (hv : ∀ q ∈ c.vals, q.1 ≠ m) (hw : ∀ q ∈ c.waits, q.1 ≠ m) : s.holdsWrites x c m = true := by
  have h1 : (c.vals.any fun w => w.1 == m) = false := List.any_eq_false.2 fun q hq => by simpa using hv q hq
  have h2 : (c.waits.any fun w => w.1 == m) = false := List.any_eq_false.2 fun q hq => by simpa using hw q hq
  simp [State.holdsWrites, hb, hd, h1, h2]

/-! ### The events of a copy -/

theorem State.work?_uid {s : State} {w : Nat} {x : Work} (h : s.work? w = some x) : x.uid = w := beq_iff_eq.1 (List.find?_some h :)

section events
variable {s : State} {w n : Nat} {x : Work} {c : CopyWork} (hx : s.work? w = some x) (hk : x.kind = .copy c)
include hx hk

theorem State.unitSteps_one (u : Nat) : s.unitSteps w [u] = s.unitStep x c u := by
  simp only [State.unitSteps, List.foldl_cons, List.foldl_nil, hx, hk]

/-- A step of an element no other is written with is the step of its one unit. -/
theorem elemStep_one (hz : 4 ≤ c.z) (h16 : c.z ≠ 16) :
    s.elemStep x c n = if x.reading = true then (s.unitStep x c n).readsBound w else s.unitStep x c n := by
  have hper : c.per = 1 := if_neg h16
  have hus : ((s.mates x c n).map c.unitsOf).flatten = [n] := by simp [State.mates, hz, CopyWork.unitsOf, hper]
  unfold State.elemStep
  rw [hus, hper, State.work?_uid hx]
  dsimp only
  rw [if_pos (List.length_singleton), State.unitSteps_one hx hk]

theorem execCopyElement_begins (hr : x.replay = false) (hb : s.begins x = true) : execCopyElement w n s =
    .next (if n < c.n then s.elemStep x c n
      else if c.z = 16 then (if x.reading then (s.unitSteps w [n - c.n]).readsBound w else s.unitSteps w [n - c.n]) else s) := by
  simp only [execCopyElement, hx, hk, hr, hb, Bool.true_or, Bool.not_true, Bool.or_self, Bool.false_eq_true, if_false]

theorem execCopyElement_half (hr : x.replay = false) (hb : s.begins x = true) (hn : c.n ≤ n) (hz : c.z = 16) (hd : x.reading = false) :
    execCopyElement w n s = .next (s.unitStep x c (n - c.n)) := by
  rw [execCopyElement_begins hx hk hr hb, if_neg (Nat.not_lt.2 hn), if_pos hz, hd, State.unitSteps_one hx hk]
  rfl

theorem execCopyComplete_added (ha : c.allDone = true) (hb : s.ctrBlocked x = false) (ho : c.ordc = false) {t : State}
    (ht : s.workAdd x x.err = (t, true)) : execCopyComplete w s = .next (t.finishWork x) := by
  simp only [execCopyComplete, hx, hk, ha, hb, ho, ht, Bool.not_true, Bool.or_self, Bool.false_eq_true, if_false]
theorem execCopyComplete_ordered (ha : c.allDone = true) (hb : s.ctrBlocked x = false) (ho : c.ordc = true) (hg : c.groups = c.groupCount) :
    execCopyComplete w s = .next (s.finishWork x) := by
  simp only [execCopyComplete, hx, hk, ha, hb, ho, hg, Bool.not_true, Bool.or_self, Bool.false_eq_true, if_false, if_true]

theorem execOrderedGroupAdd_added (ho : c.ordc = true) (hg : c.groups < c.groupCount) (hb : s.ctrBlocked x = false)
    (hl : ∀ e ∈ c.groupElems c.groups, c.landed e = true) {t : State}
    (ht : s.workAdd x ((c.groupElems c.groups).any fun e => (c.unitsOf e).any fun u => c.bad.testBit u) = (t, true)) :
    execOrderedGroupAdd w s = .next (t.setWork { x.withCopy { c with groups := c.groups + 1 } with ctrWait := [] }) := by
  have hn : ((c.groupElems c.groups).any fun e => !c.landed e) = false := List.any_eq_false.2 fun e he => by simp [hl e he]
  simp only [execOrderedGroupAdd, hx, hk, ho, decide_eq_false (Nat.not_le.2 hg), hb, hn, ht, Bool.not_true, Bool.or_self, Bool.false_eq_true, if_false]

end events

/-! ### Replay entries (R347, R404, R459, R492) -/

/-- The works of a gang that hold replay entries. -/
def State.replaying (s : State) (g : Nat) : List Work :=
  s.works.filter fun y => y.gang == g && (y.replay || match y.kind with
    | .copy c => !c.waits.isEmpty
    | _ => false)

/-- What a replay entry's run makes of its work: handed back in issue order, or its waiting units tried again. -/
def State.replayOne (s : State) (g : Nat) (x : Work) : State :=
  if !s.runs x then s
  else if x.replay then
    if (s.works.any fun y => y.gang == g && decide (y.uid < x.uid) && y.unrun) || !s.handRoom x then s else s.handBack x
  else
    match x.kind with
    | .copy c => s.replayElems x c
    | _ => s

theorem execReplayEntryRun_eq {s : State} {g n : Nat} {x : Work} (hx : (s.replaying g)[n]? = some x) :
    execReplayEntryRun g n s = .next (s.replayOne g x) := by
  have h : execReplayEntryRun g n s = .next (match (s.replaying g)[n]? with
    | some x => s.replayOne g x
    | none => s) := rfl
  rw [h, hx]

section replay
variable {s : State} {g : Nat} {x : Work}

theorem replayOne_idle (hr : s.runs x = false) : s.replayOne g x = s := by
  rw [State.replayOne, hr]
  rfl
theorem replayOne_recorded (hp : x.replay = true) (hr : s.runs x = true) : s.replayOne g x =
    if (∃ y ∈ s.works, y.gang = g ∧ y.uid < x.uid ∧ y.unrun = true) ∨ s.handRoom x = false then s else s.handBack x := by
  have he : ((s.works.any fun y => y.gang == g && decide (y.uid < x.uid) && y.unrun) || !s.handRoom x) = true ↔
      (∃ y ∈ s.works, y.gang = g ∧ y.uid < x.uid ∧ y.unrun = true) ∨ s.handRoom x = false := by simp [and_assoc]
  simp only [State.replayOne, hr, hp, he, Bool.not_true, Bool.false_eq_true, if_false, if_true]
theorem replayOne_waiting {c : CopyWork} (hp : x.replay = false) (hk : x.kind = .copy c) (hr : s.runs x = true) :
    s.replayOne g x = s.replayElems x c := by
  simp only [State.replayOne, hr, hp, hk, Bool.not_true, Bool.false_eq_true, if_false]

end replay

/-- Settles O54: each event where its condition holds; a unit's step by the kind of copy; the bytes of a write; an add by its place. -/
theorem copyEvents : Obligations.CopyEvents := by
  refine ⟨?_, ?_, ?_, ⟨fun c inc e => counterNext_eq, fun s dom part sys inc e => State.counterAdd_drop State.addPlace_none,
    fun s dom part ctr inc e h => State.counterAdd_drop (State.addPlace_pricePage ?_), fun s dom part ctr sys inc e l => counterAdd_mapped⟩,
    fun o x v rho w => copyrOp_new⟩
  · intro s w n g x c
    refine ⟨fun hx hk => ⟨fun hr hb hn => ?_, fun hr hb hn h4 h16 => ?_, execCopyElement_half hx hk, fun ha hb ho t => execCopyComplete_added hx hk ha hb ho,
      execCopyComplete_ordered hx hk, fun ho hg hb hl t => execOrderedGroupAdd_added hx hk ho hg hb hl⟩, ?_⟩
    · exact (execCopyElement_begins hx hk hr hb).trans (by rw [if_pos hn])
    · exact (execCopyElement_begins hx hk hr hb).trans (by rw [if_pos hn, elemStep_one hx hk h4 h16])
    · intro hx earlier kind
      have he : exec (Instr.replayEntryRun g n) s = .next (s.replayOne g x) := execReplayEntryRun_eq hx
      rw [he]
      refine ⟨fun hr => ?_, fun hp hr hn hh => ?_, fun hp hr h => ?_, fun hp hk hr => ?_⟩
      · rw [replayOne_idle hr]
      · rw [replayOne_recorded hp hr, if_neg (not_or.2 ⟨hn, by simp [hh]⟩)]
        rfl
      · rw [replayOne_recorded hp hr, if_pos h]
      · rw [replayOne_waiting hp hk hr]
  · intro s t r x c u v z src dst landed hu hd hw
    refine ⟨unitStep_copy_read hu hd hw, fun hk hf _ hm hb => ?_, fun hk hb hm hv => ?_, unitStep_plain hu hd hw,
      fun o pa mt => unitStep_reduce_mem hu hd hw, fun hk hz => unitStep_tin hu hd hw hz hk, fun f hk hz hh hb hbad hf => ?_,
      fun rows row0 wid e n _ => readLane_writeLane⟩
    · exact unitStep_copy_write hu hd hw hk hf (fun m h => holdsWrites_false (hm m h)) hb
    · obtain ⟨m, hlt, hd', hv', hw'⟩ := hm
      exact unitStep_copy_held hu hd hw hk hv hlt (holdsWrites_true hb hd' hv' hw')
    · exact unitStep_tout hu hd hw hz hk hh hb hbad hf
  · intro s t x nd va pa mt n v u
    refine ⟨fun hp hpp he => ⟨_, State.engineRead_flat nd hp hpp he, State.engineTouch_mem ..⟩, fun hp hb ha he hwf =>
      ⟨_, State.engineWrite_flat v hp hb ha he, fun a => ?_⟩, fun g hg hi hwf => ?_⟩
    · rw [State.engineTouch_mem, State.noteWrote_mem, State.writeHome_mem]
      exact cellGet_writeCells pa n v hwf
    · obtain ⟨r, hr, hm, hgr⟩ := State.engineWrite_scratch (n := n) (v := v) hg hi
      exact ⟨r, _, hr, hm, hgr, fun a => cellGet_writeCells va n v hwf⟩
  · simp [isPricePage, h, pricePage]

end Sys2Proof.Machine
end

section
/-!
SUPPORT. The matrix engine: leases and steps, the blocks of a tile, what a step writes (R361, R367, R368, R372 to R378).
-/

namespace Sys2Proof.Machine

/-! ### Works and gangs by name -/

theorem State.work?_updGang (s : State) (uid w : Nat) (f : Gang → Gang) : (s.updGang uid f).work? w = s.work? w := by
  unfold State.updGang
  split <;> rfl
theorem State.updGang_bad (s : State) (uid : Nat) (f : Gang → Gang) : (s.updGang uid f).bad = s.bad := by
  unfold State.updGang
  split <;> rfl

/-- A work put back under its name is found there. -/
theorem State.work?_setWork {s : State} {x : Work} (h : s.work? x.uid ≠ none) : (s.setWork x).work? x.uid = some x := by
  obtain ⟨y, hy⟩ := Option.ne_none_iff_exists'.1 h
  have hp : ((fun y : Work => y.uid == x.uid) ∘ fun y => if y.uid = x.uid then x else y) = fun y => y.uid == x.uid := by
    funext y
    dsimp only [Function.comp]
    split
    next he => rw [he]
    next => rfl
  have hf : s.works.find? (fun y => y.uid == x.uid) = some y := hy
  rw [State.work?, State.setWork, List.find?_map, hp, hf, Option.map_some, if_pos (State.work?_uid hy)]

/-! ### The blocks of a tile (R372) -/

/-- Every row of the tile lies in a row block. -/
theorem MatrixWork.exists_rowBlock {m : MatrixWork} {i : Nat} (hi : i < acM m.acc) : ∃ p ∈ m.rowBlocks, p.1 ≤ i ∧ i < p.2 := by
  simp only [MatrixWork.rowBlocks, List.mem_append, List.mem_map, List.mem_range]
  generalize (if m.fn = 3 then m.rb else acM m.acc) = cut
  by_cases h : i < cut
  · exact ⟨_, .inl ⟨i / 16, by omega, rfl⟩, by dsimp only; omega, by dsimp only; omega⟩
  · exact ⟨_, .inr ⟨(i - cut) / 16, by omega, rfl⟩, by dsimp only; omega, by dsimp only; omega⟩

/-- The elements of the block in row block `r` and column block `c`. -/
theorem MatrixWork.mem_blockElems {m : MatrixWork} {r c i j : Nat} (hc : c < m.colBlocks)
    (hi : (m.rowBlocks.getD r (0, 0)).1 ≤ i ∧ i < (m.rowBlocks.getD r (0, 0)).2) (hj : 32 * c ≤ j ∧ j < 32 * c + 32) (hn : j < acN m.acc) :
    (i, j) ∈ m.blockElems (r * m.colBlocks + c) := by
  have hr : (r * m.colBlocks + c) / m.colBlocks = r := by
    rw [Nat.mul_comm, Nat.mul_add_div (by omega), Nat.div_eq_of_lt hc, Nat.add_zero]
  have hm : (r * m.colBlocks + c) % m.colBlocks = c := by rw [Nat.mul_comm, Nat.mul_add_mod, Nat.mod_eq_of_lt hc]
  simp only [MatrixWork.blockElems, hr, hm, List.mem_flatten, List.mem_map, List.mem_range]
  refine ⟨_, ⟨i - (m.rowBlocks.getD r (0, 0)).1, by omega, rfl⟩, List.mem_map.2 ⟨j - 32 * c, List.mem_range.2 (by omega), ?_⟩⟩
  rw [Nat.add_sub_cancel' hi.1, Nat.add_sub_cancel' hj.1]

theorem MatrixWork.exists_block {m : MatrixWork} {i j : Nat} (hi : i < acM m.acc) (hj : j < acN m.acc) :
    ∃ n < m.blocks, (i, j) ∈ m.blockElems n := by
  obtain ⟨p, hp, hin⟩ := MatrixWork.exists_rowBlock hi
  obtain ⟨r, hr, rfl⟩ := List.mem_iff_getElem.1 hp
  have hc : j / 32 < m.colBlocks := by unfold MatrixWork.colBlocks; omega
  refine ⟨r * m.colBlocks + j / 32, ?_, MatrixWork.mem_blockElems hc (by rwa [List.getD_eq_getElem _ _ hr]) (by omega) hj⟩
  calc r * m.colBlocks + j / 32 < (r + 1) * m.colBlocks := by rw [Nat.succ_mul]; omega
    _ ≤ m.blocks := Nat.mul_le_mul_right _ hr

/-! ### What a step writes (R361, R367, R378) -/

/-- The value of R378 a tile element takes in a step that meets an error. -/
def errorElem (m : MatrixWork) : Word32 :=
  if (m.fn ≤ 3 ∧ intAcc m.fmt = true) ∨ (4 ≤ m.fn ∧ (bitsOf m.b.toNat 3 0 = 3 ∨ bitsOf m.b.toNat 3 0 = 6)) then 0x80000000 else 0x7FC00000
/-- The value an error-free step of an instruction other than ACST gives element `e`, whose old value is `old`. -/
def cleanElem (rd : Nat → Byte) (m : MatrixWork) (e : Nat × Nat) (old : Word32) : Word32 :=
  if m.fn = 4 then acldElem (bitsOf m.b.toNat 3 0) (windowNat rd (opDao m.a + 16 * opStride m.a * e.1 + e.2 *
      mfBytes (bitsOf m.b.toNat 3 0)) (mfBytes (bitsOf m.b.toNat 3 0)))
  else if m.fn = 6 then m.b.setWidth 32
  else mmaElem rd m e.1 e.2 old
/-- The new value of a tile element. -/
def tileElem (g : Gang) (own ctr : Nat) (m : MatrixWork) (cells : List Host.Cell) (bad : Bool) (e : Nat × Nat) : Word32 :=
  if bad then errorElem m else cleanElem (windowByte g cells own ctr) m e (.ofNat 32 (readCells g.acs (tilePlace own m.acc e.1 e.2) 4))

section step
variable {g : Gang} {own ctr : Nat} {m : MatrixWork} {cells : List Host.Cell} {es : List (Nat × Nat)} {bad : Bool}

theorem stepGang_tile (h : m.fn ≠ 5) : stepGang g own ctr m cells es bad =
    { g with acs := es.foldl (fun c e => writeCells c (tilePlace own m.acc e.1 e.2) 4 (tileElem g own ctr m cells bad e).toNat) g.acs } := by
  have hv (rd : Nat → Byte) (e : Nat × Nat) (old : Word32) : (match m.fn with
      | 4 => acldElem (bitsOf m.b.toNat 3 0) (windowNat rd (opDao m.a + 16 * opStride m.a * e.1 + e.2 * mfBytes (bitsOf m.b.toNat 3 0))
          (mfBytes (bitsOf m.b.toNat 3 0)))
      | 6 => m.b.setWidth 32
      | _ => mmaElem rd m e.1 e.2 old) = cleanElem rd m e old := by
    unfold cleanElem
    split
    next h4 => rw [if_pos h4]
    next h6 => rw [h6, if_neg (by decide), if_pos rfl]
    next h4 h6 => rw [if_neg h4, if_neg h6]
  have hp : (if (decide (m.fn ≤ 3) && intAcc m.fmt) || (4 ≤ m.fn && (bitsOf m.b.toNat 3 0 == 3 || bitsOf m.b.toNat 3 0 == 6)) then (0x80000000 : Word32)
      else 0x7FC00000) = errorElem m := by simp only [errorElem, Bool.or_eq_true, Bool.and_eq_true, decide_eq_true_eq, beq_iff_eq]
  rw [stepGang, if_neg h]
  dsimp only
  rw [List.foldl_map, hp]
  congr 2
  funext c e
  exact congrArg (fun v : Word32 => writeCells c (tilePlace own m.acc e.1 e.2) 4 (if bad then errorElem m else v).toNat) (hv ..)
theorem stepGang_store (h : m.fn = 5) :
    stepGang g own ctr m cells es bad = { g with scratch := (stepGang g own ctr m cells es bad).scratch } := by
  simp only [stepGang, if_pos h]
theorem stepGang_uid : (stepGang g own ctr m cells es bad).uid = g.uid := by
  by_cases h : m.fn = 5
  · rw [stepGang_store h]
  · rw [stepGang_tile h]

/-- Writes of words leave every byte outside them. -/
theorem cellGet_foldl_writeCells {α : Type} {a : Nat} {place : α → Nat} {val : α → Nat} : ∀ {l : List α} {c : List Host.Cell}, Memory.wf c = true →
    (∀ e ∈ l, a < place e ∨ place e + 4 ≤ a) → cellGet (l.foldl (fun c e => writeCells c (place e) 4 (val e)) c) a = cellGet c a
  | [], _, _, _ => rfl
  | e :: l, c, hc, h => by
    rw [List.foldl_cons, cellGet_foldl_writeCells (writeCells_wf _ _ _ hc) fun e he => h e (.tail _ he),
      cellGet_writeCells_other _ _ _ hc (h e (.head _))]

/-- A step of one element leaves its new value in the element's place. -/
theorem readCells_stepGang_one {e : Nat × Nat} (h : m.fn ≠ 5) (hwf : Memory.wf g.acs = true) :
    readCells (stepGang g own ctr m cells [e] bad).acs (tilePlace own m.acc e.1 e.2) 4 = (tileElem g own ctr m cells bad e).toNat := by
  rw [stepGang_tile h]
  exact (readCells_writeCells _ _ _ hwf).trans (Nat.mod_eq_of_lt (tileElem g own ctr m cells bad e).isLt)

end step

theorem State.stepError_clean {s : State} (h : s.bad = []) (g : Gang) (own : Nat) (m : MatrixWork) (es : List (Nat × Nat)) :
    s.stepError g own m es = none := by
  simp only [State.stepError, h, List.any_nil, Bool.and_false, Bool.false_eq_true, if_false, Option.or_none]

theorem State.matrixStep_clean {s : State} {x : Work} {m : MatrixWork} {g : Gang} (hg : s.gang? x.gang = some g)
    (he : s.stepError g (g.ownCore x.troupe) m (m.blockElems m.done) = none) : s.matrixStep x m =
    (s.updGang x.gang fun h => stepGang h (g.ownCore x.troupe) s.freeCtr m (m.snap.getD g.scratch) (m.blockElems m.done) false).setWork
      { x with kind := .matrix { m with done := m.done + 1, snap := some (m.snap.getD g.scratch) } } := by
  simp only [State.matrixStep, hg, he, Option.isSome_none]

/-! ### Leases and steps (R368, R373, R374) -/

theorem execLeaseStart_free {s : State} {core : Nat} {x : Work} (hl : ((s.settleLease core).core core).lease = none)
    (hx : (s.settleLease core).engineHead core = some x) : execLeaseStart core s = .next ((s.settleLease core).setCore
      { (s.settleLease core).core core with lease := some (x.gang, x.troupe), leaseAt := (s.settleLease core).cycle, leaseDone := 0, mrel := none }) := by
  simp only [execLeaseStart, hl, hx]

section leased
variable {s : State} {core g t : Nat} {x : Work} {m : MatrixWork} (hl : ((s.settleLease core).core core).lease = some (g, t))
  (hx : ((s.settleLease core).engineWorks core).find? (fun y => y.gang == g && y.troupe == t) = some x) (hk : x.kind = .matrix m)
include hl hx hk

/-- The holder's oldest work steps where the engine's clock allows it. -/
theorem execAccumulationStep_step {u : State} (hr : (s.settleLease core).rampStep core (decide (m.fn ≤ 3)) = some u) :
    execAccumulationStep core s = .next (u.matrixStep x m) := by
  simp only [execAccumulationStep, hl, hx, hk, hr]
theorem execAccumulationStep_ramp (hr : (s.settleLease core).rampStep core (decide (m.fn ≤ 3)) = none) :
    execAccumulationStep core s = .next (if ((s.settleLease core).core core).ramp = .idle then
      (s.settleLease core).setCore { (s.settleLease core).core core with ramp := .ramping (s.settleLease core).cycle 256 }
      else s.settleLease core) := by
  simp only [execAccumulationStep, hl, hx, hk, hr]

end leased

section ramp
variable {s : State} {core : Nat} {mma : Bool}

theorem State.rampStep_idle (h : (s.core core).ramp = .idle) : s.rampStep core mma = if mma then none else some s := by
  simp only [State.rampStep, h]
theorem State.rampStep_ramping {a hold : Nat} (h : (s.core core).ramp = .ramping a hold) : s.rampStep core mma =
    if mma then none else some (s.setCore { s.core core with ramp := .ramping a (max hold (s.cycle + 256 - (a + 64))) }) := by
  simp only [State.rampStep, h]
theorem State.rampStep_ramped {u : Nat} (h : (s.core core).ramp = .ramped u) :
    s.rampStep core mma = some (s.setCore { s.core core with ramp := .ramped (max u (s.cycle + 256)) }) := by
  simp only [State.rampStep, h]

end ramp

theorem State.leaseOver_expired {s : State} {c : Core} {g t : Nat} (hl : c.lease = some (g, t)) (he : c.leaseAt + 95000 ≤ s.cycle) :
    s.leaseOver c = true := by
  simp only [State.leaseOver, hl, he, decide_true, Bool.or_true, Bool.true_or]

theorem execLeaseExpire_expired {s : State} {core g t : Nat} (hl : (s.core core).lease = some (g, t)) (he : (s.core core).leaseAt + 95000 ≤ s.cycle) :
    execLeaseExpire core s = .next (s.setCore { s.core core with lease := none, mrel := none, leaseDone := 0 }) := by
  simp only [execLeaseExpire, he, decide_true, if_true, State.settleLease, State.leaseOver_expired hl he, State.endLease]

theorem execMatrixComplete_done {s : State} {w : Nat} {x : Work} {m : MatrixWork} (hx : s.work? w = some x) (hk : x.kind = .matrix m)
    (hd : m.blocks ≤ m.done) (hr : x.replay = false) : execMatrixComplete w s =
    .next ((if ((s.finishWork x).core x.core).lease = some (x.gang, x.troupe) then
      (s.finishWork x).setCore { (s.finishWork x).core x.core with leaseDone := ((s.finishWork x).core x.core).leaseDone + 1 }
      else s.finishWork x).settleLease x.core) := by
  have hn : ¬ (m.done < m.blocks ∨ x.replay = true) := by simp [hr, hd]
  simp only [execMatrixComplete, hx, hk, if_neg hn]

end Sys2Proof.Machine
end

section
/-!
SUPPORT. The events of a layer instruction (R384 to R386, R390, R395, R396, R398, R400, R403) where no line is bad, and O55.
-/

namespace Sys2Proof.Machine

/-! ### No bad line -/

theorem State.padError_clean {s : State} (h : s.bad = []) (x : Work) (o n : Nat) : s.padError x o n = false := by
  unfold State.padError
  split
  · simp only [h, List.any_nil, Bool.false_and]
  · rfl
theorem State.matError_clean {s : State} (h : s.bad = []) (x : Work) (w : Word64) (rows c0 c1 : Nat) : s.matError x w rows c0 c1 = false := by
  simp only [State.matError, State.padError_clean h, List.any_eq_false, Bool.false_eq_true, not_false_eq_true, implies_true]
theorem State.adapterBad_clean {s : State} (h : s.bad = []) (x : Work) (l : LayerWork) (g : Gang) (k : Nat) : s.adapterBad x l g k = ([], []) := by
  have hn (n : Nat) : ((List.range n).any fun _ => false) = false := by simp
  simp only [State.adapterBad, State.matError_clean h, h, List.contains_nil, hn, Bool.and_false, Bool.or_false, List.filter_false, List.map_nil]

theorem State.scheduleTile_bad (s : State) (stack tile : Nat) : (s.scheduleTile stack tile).bad = s.bad := by
  unfold State.scheduleTile
  (repeat' split) <;> simp only [State.setRegion_bad]
theorem State.countRow_bad (s : State) (stack row : Nat) (demand : Bool) : (s.countRow stack row demand).bad = s.bad := by
  have hr (c : RowCount) : (s.setRow stack c).bad = s.bad := by rw [State.setRow, State.setPile_bad]
  unfold State.countRow
  split
  · dsimp only
    split
    · rw [State.scheduleTile_bad, hr]
    · exact hr _
  · exact hr _

/-- The rows a pass drives, each with a nonzero code, counted (R515). -/
def State.countDriven (s : State) (h tile : Nat) (codes : List Int) : State :=
  codes.zipIdx.foldl (fun u q => if q.1 = 0 then u else u.countRow h (tileRow tile q.2) true) s
theorem State.countDriven_bad (s : State) (h tile : Nat) (codes : List Int) : (s.countDriven h tile codes).bad = s.bad := by
  unfold State.countDriven
  generalize codes.zipIdx = l
  induction l generalizing s with
  | nil => rfl
  | cons q l ih =>
    rw [List.foldl_cons, ih]
    split
    · rfl
    · exact State.countRow_bad ..

/-! ### Passes (R384, R385, R390) -/

section passes
variable {s : State} {w n : Nat} {x : Work} {l : LayerWork} {p : LPass} {r : Region} (hx : s.work? w = some x) (hk : x.kind = .layer l)
  (hp : l.passes[n]? = some p) (hr : s.region? (l.region p.second) = some r)
include hx hk hp hr

theorem execTilePassStart_clean (hb : s.begins x = true) (hrep : x.replay = false) (hst : p.started = none)
    (hslot : s.passSlot (r.homes.getD p.c 16) (r.tileAt (s.epochFor l p.second (r.homes.getD p.c 16)).1 (r.tileIndex p.r p.c)) = true) (hbad : s.bad = []) :
    execTilePassStart w n s =
      let h := r.homes.getD p.c 16
      let e := s.epochFor l p.second h
      let cells := s.layerCells x l
      let d := driveOf (s.windowOf x cells) l r p
      let t := s.setWork (x.withLayer { l with snap := some cells, epochs := e.2, passes := l.passes.set n { p with started := some d, epoch := e.1 } })
      .next (if l.fn = 2 then t else t.countDriven h (r.tileAt e.1 (r.tileIndex p.r p.c)) d.2) := by
  have hc (t : State) (q : Prop) [Decidable q] (h tile : Nat) (codes : List Int) (ht : t.bad = []) :
      (if q then t else t.countDriven h tile codes).bad = [] := by
    split
    · exact ht
    · rw [State.countDriven_bad, ht]
  simp only [execTilePassStart, hx, hk, hp, Option.bind_some, hr, hb, hrep, hst, hslot, Option.isSome_none, Bool.not_true, Bool.or_self,
    Bool.false_eq_true, if_false]
  refine congrArg Host.Outcome.next (if_neg ?_)
  rw [Bool.not_eq_true, List.any_eq_false]
  exact fun q _ => Bool.not_eq_true _ ▸ State.padError_clean (hc _ _ _ _ _ (by exact hbad)) ..

theorem execTilePassComplete_clean {d : Word32 × List Int} (hst : p.started = some d) (ho : p.out = none) (hbad : s.bad = []) :
    execTilePassComplete w n s =
      .next (s.setWork (x.withLayer { l with passes := l.passes.set n { p with out := some (passOut s.freeCtr l r p d) } })) := by
  simp only [execTilePassComplete, hx, hk, hp, Option.bind_some, hr, hst, ho, State.setWork_bad, hbad, List.contains_nil, Bool.false_eq_true, if_false]

end passes

/-! ### Completion (R386, R400) -/

theorem execLayerComplete_clean {s : State} {w : Nat} {x : Work} {l : LayerWork} {g : Gang} (hx : s.work? w = some x) (hk : x.kind = .layer l)
    (hg : s.gang? x.gang = some g) (hr : s.runs x = true) (hrep : x.replay = false) (ha : l.adapter ≠ none) (hout : ∀ q ∈ l.passes, q.out ≠ none)
    (hc : s.ctrBlocked x = false) (hw : l.wrote = false) (hbad : s.bad = []) :
    let cells := s.layerCells x l
    let u := s.updGang x.gang fun g => layerWrite (s.windowOf x cells) g (g.ownCore x.troupe) l
    let y := ((u.work? w).getD x).withLayer { l with wrote := true, snap := some cells }
    ∀ t, ((u.setWork y).readsBound w).workAdd y y.err = (t, true) → execLayerComplete w s = .next (t.finishWork y) := by
  intro cells u y t ht
  have hn : l.adapter.isNone = false := by rwa [Option.isNone_eq_false_iff, Option.isSome_iff_ne_none]
  have hp : (l.passes.any fun p => p.out.isNone) = false := List.any_eq_false.2 fun q hq => by simpa using hout q hq
  obtain rfl := State.work?_uid hx
  have hy : y.uid = x.uid := by
    have hu : u.work? x.uid = some x := (State.work?_updGang ..).trans hx
    simp only [y, hu, Option.getD_some, Work.withLayer]
  have ht' : ((u.setWork y).readsBound y.uid).workAdd y y.err = (t, true) := by rw [hy, ht]
  simp only [u, y, cells] at ht'
  simp only [execLayerComplete, hx, hk, hg, hr, hrep, hn, hp, hc, hw, State.padError_clean hbad, Bool.not_true, Bool.or_self, Bool.and_false,
    Bool.false_eq_true, if_false, List.filter_false, List.map_nil, if_true, ht']
  rfl

/-! ### The adapter stage (R241, R396) -/

theorem State.settleLease_work? (s : State) (core w : Nat) : (s.settleLease core).work? w = s.work? w := by
  unfold State.settleLease
  split <;> rfl

section adapter
variable {s : State} {w : Nat} {x : Work} {l : LayerWork} {g : Gang} (hx : s.work? w = some x) (hk : x.kind = .layer l)
  (hs : s.settleLease x.core = s) (hg : s.gang? x.gang = some g)
  (hf : (s.engineWorks x.core).find? (fun y => y.gang == x.gang && y.troupe == x.troupe) = some x)
  (hl : (s.core x.core).lease = some (x.gang, x.troupe))
include hx hk hs hg hf hl

theorem execAdapterStage_idle (hr : (s.core x.core).ramp = .idle) :
    execAdapterStage w s = .next (s.setCore { s.core x.core with ramp := .ramping s.cycle 256 }) := by
  simp only [execAdapterStage, hx, hs, hk, hg, hf, hl, Option.map_some, State.work?_uid hx, ne_eq, not_true, or_self, if_false,
    State.rampStep_idle hr, if_true, hr]

/-- The stage changes its gang's accumulator store and its work, which keeps the terms. -/
theorem execAdapterStage_ramped {v : Nat} (hr : (s.core x.core).ramp = .ramped v) (hbad : s.bad = []) : ∃ f terms, execAdapterStage w s =
    .next ((((s.setCore { s.core x.core with ramp := .ramped (max v (s.cycle + 256)) }).updGang x.gang f).setWork
      (x.withLayer { l with snap := some (s.layerCells x l), adapter := some terms })).settleLease x.core) := by
  have hb (c : Core) (f : Gang → Gang) (y : Work) : (((s.setCore c).updGang x.gang f).setWork y).bad = [] := by
    rw [State.setWork_bad, State.updGang_bad, State.setCore_bad, hbad]
  obtain ⟨o, ho⟩ : ∃ o, o = execAdapterStage w s := ⟨_, rfl⟩
  have hn : ¬ (x.uid ≠ w ∨ (s.core x.core).lease ≠ some (x.gang, x.troupe)) := not_or.2 ⟨not_not.2 (State.work?_uid hx), not_not.2 hl⟩
  have h := ho
  simp only [execAdapterStage, hx, hs, hk, hg, hf, Option.map_some, if_neg hn, State.rampStep_ramped hr, State.adapterBad_clean (hb _ _ _), if_true] at h
  exact ⟨_, _, ho.symm.trans h⟩

end adapter

/-- Settles O55: the engine's events where their conditions hold, the blocks of a tile, the bytes a step writes, the passes of a layer. -/
theorem engineEvents : Obligations.EngineEvents := by
  refine ⟨?_, ?_, fun m i j _ => MatrixWork.exists_block, ?_, ?_⟩
  · intro s core w x m g t
    refine ⟨execLeaseStart_free, fun hl hx hk => ⟨fun hm hr => ?_, fun u hr => ?_, fun a hold hm hr => ?_, fun a hold hm hr => ?_, fun hm hr => ?_⟩,
      execLeaseExpire_expired, fun hx hk hd hrep => ⟨fun hl => ?_, fun hl => ?_⟩⟩
    · exact execAccumulationStep_step hl hx hk (by rw [State.rampStep_idle hr, if_neg (by simpa using hm)])
    · exact execAccumulationStep_step hl hx hk (State.rampStep_ramped hr)
    · exact execAccumulationStep_step hl hx hk (by rw [State.rampStep_ramping hr, if_neg (by simpa using hm)])
    · exact (execAccumulationStep_ramp hl hx hk (by rw [State.rampStep_ramping hr, if_pos (by simpa using hm)])).trans
        (by rw [if_neg (by rw [hr]; exact Ramp.noConfusion)])
    · exact (execAccumulationStep_ramp hl hx hk (by rw [State.rampStep_idle hr, if_pos (by simpa using hm)])).trans (by rw [if_pos hr])
    · exact (execMatrixComplete_done hx hk hd hrep).trans (by rw [if_neg hl])
    · exact (execMatrixComplete_done hx hk hd hrep).trans (by rw [if_pos hl])
  · intro s x m g hg
    refine ⟨fun he => ?_, fun hb => State.stepError_clean hb ..⟩
    have hu (h : Gang) : (stepGang h (g.ownCore x.troupe) s.freeCtr m (m.snap.getD g.scratch) (m.blockElems m.done) false).uid = h.uid := stepGang_uid
    rw [State.matrixStep_clean hg he]
    exact ⟨State.gang?_updGang_self hg hu, by rw [State.setWork_mem, State.updGang_mem], fun k hk => State.gang?_updGang_other hk hu,
      fun hw => State.work?_setWork (by rwa [State.work?_updGang])⟩
  · intro g own ctr m cells es bad
    refine ⟨fun h => ?_, stepGang_store, fun h hwf a ha => ?_, fun e he h hb hwf => ?_, fun e he h hb hwf => ?_⟩
    · rw [stepGang_tile h]
    · rw [stepGang_tile h]
      exact cellGet_foldl_writeCells hwf ha
    · subst he hb
      exact (readCells_stepGang_one h hwf).trans rfl
    · subst he hb
      refine (readCells_stepGang_one h hwf).trans ?_
      rw [tileElem, if_pos rfl, errorElem, apply_ite BitVec.toNat]
      rfl
  · intro s w n x l p r hx hk
    refine ⟨fun hp hr => ⟨fun hb hrep hst hslot hbad hfn => ?_, fun hb hrep hst hslot hbad hfn => ?_, fun d => execTilePassComplete_clean hx hk hp hr⟩,
      fun g hg hr hrep ha hout hc hw hbad _ => execLayerComplete_clean hx hk hg hr hrep ha hout hc hw hbad, fun g v hr hs hg hf _ hl hbad => ?_,
      fun g hr hs hg hf _ hl => execAdapterStage_idle hx hk hs hg hf hl hr⟩
    · exact (execTilePassStart_clean hx hk hp hr hb hrep hst hslot hbad).trans (by dsimp only; rw [if_pos hfn])
    · exact (execTilePassStart_clean hx hk hp hr hb hrep hst hslot hbad).trans (by dsimp only; rw [if_neg hfn]; rfl)
    · obtain ⟨f, terms, he⟩ := execAdapterStage_ramped hx hk hs hg hf hl hr hbad
      obtain rfl := State.work?_uid hx
      refine ⟨_, _, _, he, ?_, (State.settleLease_work? ..).trans (State.work?_setWork (x := x.withLayer _) ?_), rfl, Option.some_ne_none _, rfl⟩
      · rw [State.settleLease_mem, State.setWork_mem, State.updGang_mem, State.setCore_mem]
      · rw [State.work?_updGang]
        exact hx ▸ Option.some_ne_none _

end Sys2Proof.Machine
end

section
/-!
SUPPORT. MIGRATE, HOME and LAUNCH (R261, R262, R507 to R510), and O49.
-/

namespace Sys2Proof.Machine

/-! ### MIGRATE and HOME (R507 to R509) -/

/-- A troupe of a NEAR region migrates no further. -/
theorem execMigrate_near {s : State} {a : SReg} (h : RunsOn (.migrate a) s) (hn : s.cur.near ≠ none) : execMigrate a s = .next s.bound.onward := by
  obtain ⟨n, hn⟩ := Option.ne_none_iff_exists'.1 hn
  exact run_done h (by simp only [State.bound_near, hn, Option.isSome_some, if_true]) s.bound_pc

/-- What refuses a MIGRATE to the stack of a place (R507). -/
def State.refusesMigrate (u : State) (x : Word64) (pa mt : Nat) : Bool :=
  32 < u.gg.vregs || u.sibling.live || u.tr.psp != 0 || decide (2 ^ 48 ≤ x.toNat) || !u.homed pa || mt != 0 || decide (nmuContexts ≤ u.nearOn (paStack pa))

theorem State.refusesMigrate_iff (u : State) (x : Word64) (pa mt : Nat) : u.refusesMigrate x pa mt = true ↔
    32 < u.gg.vregs ∨ u.sibling.live = true ∨ u.tr.psp ≠ 0 ∨ 2 ^ 48 ≤ x.toNat ∨ u.homed pa = false ∨ mt ≠ 0 ∨ 64 ≤ u.nearOn (paStack pa) := by
  simp only [State.refusesMigrate, Bool.or_eq_true, decide_eq_true_eq, bne_iff_ne, Bool.not_eq_true', or_assoc]
  rfl

/-- The troupe on the NMUs of a stack, its state kept at home, once its stores are in memory (R507, R508). -/
def State.migrated (u : State) (h : Nat) : State :=
  let t := (u.releaseFor .device false).saveL1 u.req.core u.gg.uid
  let r : State := { t with tr := { t.tr with nearCopy := some t.copyHome, nearStack := [] } }
  r.setCur { r.cur with near := some h }

theorem execMigrate_flat {s u : State} {a : SReg} {va pa mt : Nat} (h : Runs (formOf (.migrate a)) s) (hn : s.cur.near = none)
    (hc : s.bound.classify 0 (s.rS a) = .flat va) (hp : s.bound.place none 0 (s.rS a) .read = .ok (.phys pa mt, u)) :
    execMigrate a s = .next ((if u.refusesMigrate (s.rS a) pa mt then u else u.migrated (paStack pa)).advanceWord (Instr.migrate a).word) := by
  unfold execMigrate
  rw [runForm_eq (i := formA 0x69 0 0 a.toNat 0) h]
  simp only [State.bound_near, hn, Option.isSome_none, Bool.false_eq_true, if_false, State.bound_rS, hc, hp]
  change Host.Outcome.next (s.finish _ (if u.refusesMigrate (s.rS a) pa mt = true then .done u else .done (u.migrated (paStack pa)))) = _
  split <;> rfl

theorem execHome_home {s : State} (h : RunsOn .home s) (hn : s.cur.near = none) : execHome s = .next s.bound.onward :=
  run_done h (by simp only [State.bound_near, hn, Option.isNone_none, if_true]) s.bound_pc

theorem execHome_near {s : State} (h : Runs (formOf .home) s) (hn : s.cur.near ≠ none) :
    execHome s = .next (if s.bound.endNear.tr.nearCopy = none then s.bound.endNear.advanceWord Instr.home.word else s.endNear.mustWait) := by
  obtain ⟨n, hn⟩ := Option.ne_none_iff_exists'.1 hn
  unfold execHome
  rw [runForm_eq (i := formA 0x69 1 0 0 0) h]
  simp only [State.bound_near, hn, Option.isNone_some, Bool.false_eq_true, if_false, Option.isNone_iff_eq_none]
  split <;> rfl

/-! ### LAUNCH (R261, R262, R351) -/

/-- The queue LAUNCH posts to: the gang's own for 0, else the one its handle names. -/
def State.launchQueue (u : State) (hd : Word64) : Option Nat := if hd = 0 then some u.gg.q else u.myPart.queue? hd.toNat

/-- The post of a one-slot card, behind those of its queue, after a release at device scope (R261, R262). -/
def State.posted (u : State) (q r : Nat) : State :=
  let t := u.releaseFor .device false
  let p : Post := { bytes := if cdType r = 0 ∨ cdType r = 3 then r / 16 * 16 + 15 else r, two := false, gang := t.gg.uid,
                    troupe := t.tr.idx, batch := t.tr.batch + 1 }
  t.setQueue { (t.queue q) with posts := (t.queue q).posts ++ [p] }

section launch
variable {s u : State} {a b : SReg} {r q : Nat} (h : Runs (formOf (.launch a b)) s) (hca : (s.rS a).toNat < 2 ^ 48)
  (hal : (s.rS a).toNat % 64 = 0) (hhd : (s.rS b).toNat < 2 ^ 32) (hu : Unheld s.bound) (hr : s.bound.readRecord (s.rS a).toNat 64 = .ok (r, u))
  (htwo : cdType r ≠ 2)
include h hca hal hhd hu hr htwo

/-- LAUNCH once its one-slot card is read is a matter of the queue. -/
theorem execLaunch_read : execLaunch a b s = .next (s.finish (Instr.launch a b).word (match u.launchQueue (s.rS b) with
    | none => .stop (staleHandle (s.rS b).toNat)
    | some q => if !(u.queue q).enabled || (u.queue q).part != u.gg.part || !(u.queue q).launchFed then .stop (staleHandle (s.rS b).toNat)
      else .done (u.posted q r))) := by
  have hflat : s.bound.classify 0 (s.rS a) = .flat (s.rS a).toNat := if_pos (Nat.div_eq_of_lt hca)
  unfold execLaunch
  rw [runForm_eq (i := formA 0x68 0 0 a.toNat b.toNat) h]
  simp only [State.bound_rS, Nat.div_eq_of_lt hhd, ne_eq, not_true_eq_false, if_false, hflat, reduceCtorEq, hal, State.unheld_eq hu, hr,
    beq_eq_false_iff_ne.2 htwo, Bool.not_false, if_true]
  rfl

theorem execLaunch_posts (hq : u.launchQueue (s.rS b) = some q) (he : (u.queue q).enabled = true) (hp : (u.queue q).part = u.gg.part)
    (hf : (u.queue q).launchFed = true) : execLaunch a b s = .next ((u.posted q r).advanceWord (Instr.launch a b).word) := by
  rw [execLaunch_read h hca hal hhd hu hr htwo, hq]
  simp only [he, hp, hf, Bool.not_true, bne_self_eq_false, Bool.or_self, Bool.false_eq_true, if_false]
  rfl

theorem execLaunch_stale (hq : u.launchQueue (s.rS b) = none) (hn : TrapsNow s) :
    execLaunch a b s = .next (s.takeTrap { cause := 7, aux := s.rS b, pc := s.pc.toNat, word := (Instr.launch a b).word }) := by
  rw [execLaunch_read h hca hal hhd hu hr htwo, hq]
  refine congrArg _ ((State.stopWord_trap hn _ _).trans ?_)
  simp only [BitVec.ofNat_toNat, BitVec.setWidth_eq]

end launch

/-- Settles O49: MIGRATE by where the troupe runs and what refuses it, HOME by where the troupe runs, LAUNCH by the queue it names. -/
theorem nearMemoryAndLaunch : Obligations.NearMemoryAndLaunch := by
  refine ⟨fun s u a va pa mt => ⟨execMigrate_near, fun hn hc hp hrun => ?_, execHome_home, fun hrun hn hk => ?_, fun hrun hn hk => ?_⟩, ?_⟩
  · refine ⟨fun hx => ?_, fun hx => ?_⟩ <;> refine (execMigrate_flat hrun hn hc hp).trans ?_
    · rw [if_pos ((State.refusesMigrate_iff ..).2 hx)]
    · rw [if_neg fun hx' => hx ((State.refusesMigrate_iff ..).1 hx')]
      rfl
  · exact (execHome_near hrun hn).trans (by rw [if_pos hk])
  · exact (execHome_near hrun hn).trans (by rw [if_neg hk])
  · intro s u a b r q ca hd i hca hal hhd hu hr htwo hrun
    exact ⟨execLaunch_posts hrun hca hal hhd hu hr htwo, fun h0 hq hn => execLaunch_stale hrun hca hal hhd hu hr htwo ((if_neg h0).trans hq) hn⟩

end Sys2Proof.Machine
end

section
/-!
SUPPORT. Slots, saves, drains, resumption, lending and switch groups (R258, R323, R465, R468, R481 to R485, R492, R494 to R496), and O59.
-/

namespace Sys2Proof.Machine

/-! ### Slots and lending (R465, R468, R481) -/

theorem execSlotStart_due {s : State} (hg : s.group = none) (h : s.slotAt < s.cycle / s.slotLen * s.slotLen) : execSlotStart s =
    .next ((List.range 16).foldl (fun t c => t.changeHolder (s.cycle / s.slotLen % 16) c)
      { s with slot := s.cycle / s.slotLen % 16, slotAt := s.cycle / s.slotLen * s.slotLen }) := by
  simp only [execSlotStart, hg, Option.isSome_none, Bool.false_eq_true, false_or, if_neg (Nat.not_le.2 h)]

theorem execSetSlotLength_pos {us : Nat} (h : us ≠ 0) (s : State) : execSetSlotLength us s = .next { s with slotLen := 1900 * us } := by
  simp only [execSetSlotLength, if_neg h]

theorem execClusterLendable_idle {s : State} {cl p : Nat} (hp : (s.cluster cl).holder = some p) (hcl : cl < 16) (hl : (s.part p).lend = true)
    (hb : (s.cluster cl).borrower = none) (hg : ∀ x ∈ s.allGangs, x.cluster ≠ cl) (hn : s.placeableOn p cl = false) (hs : cl ∉ s.switching)
    (hi : (s.cluster cl).idleSince + 190000 ≤ s.cycle) :
    execClusterLendable cl s = .next (s.updCluster cl fun c => { c with lendable := true }) := by
  have hempty : (s.allGangs.any fun g => g.cluster == cl) = false := by simpa using hg
  simp [execClusterLendable, hp, hcl, hl, hb, hempty, hn, hs, hi]

/-! ### Saves (R483 to R485, R493) -/

/-- The items of a gang's work that are not begun, forced to become replay entries (R485). -/
def State.forceAll (s : State) (g : Nat) : State :=
  (s.works.filter fun x => x.gang == g).foldl (fun s x => s.forceItems x.uid x.part (x.left - (x.saveEntries + x.reserve))) s

@[simp] theorem State.forceItems_gg (s : State) (uid part n : Nat) : (s.forceItems uid part n).gg = s.gg := by
  induction n generalizing s with
  | zero => rfl
  | succ n ih =>
    unfold State.forceItems
    dsimp only
    split
    · rfl
    · rw [ih]
      split <;> rfl

theorem State.forceAll_keeps (s : State) (g : Nat) : (s.forceAll g).mem = s.mem ∧ (s.forceAll g).gg = s.gg :=
  List.foldlRecOn (motive := fun t : State => t.mem = s.mem ∧ t.gg = s.gg) _ _ ⟨rfl, rfl⟩ fun t ⟨hm, hg⟩ _ _ =>
    ⟨(t.forceItems_mem ..).trans hm, (t.forceItems_gg ..).trans hg⟩

section saves
variable {s : State} {g : Nat} {r : SaveReq} (h : (s.gang? g).bind Gang.save = some r)
include h

theorem execSaveComplete_ready (hr : s.saveReady g = true) : execSaveComplete g s = .next (s.completeSave g r) := by
  simp only [execSaveComplete, h, hr, if_true]

theorem execSaveComplete_busy (hr : s.saveReady g = false) : execSaveComplete g s = .next s := by
  simp only [execSaveComplete, h, hr, Bool.false_eq_true, if_false]

theorem execSaveForce_late (hf : r.forced = false) (hd : r.deadline ≤ s.cycle) (hs : r.switch = false) :
    execSaveForce g s = .next ((s.forceAll g).updGang g fun x => { x with save := some { r with forced := true } }) := by
  simp only [execSaveForce, h, hf, hs, Nat.not_lt.2 hd, Bool.false_eq_true, or_self, false_and, if_false]
  split <;> rfl

end saves

/-- One save serves all that ask for it, within the shortest of their times (R485, R493, R495). -/
theorem State.askSave_again {s : State} {g : Nat} {x : Gang} {k : SaveReq} (hg : s.gang? g = some x) (hk : x.save = some k) (us : Nat) (r : SaveReq) :
    s.askSave g us r = s.updGang g fun y =>
      { y with save := some { k with deadline := min k.deadline (s.cycle + 1900 * us), recl := k.recl || r.recl, switch := k.switch || r.switch,
                                     cause := k.cause.or r.cause } } := by
  simp only [State.askSave, hg, hk]

theorem execSaveCommand_system {s : State} (h : s.mbx = true) :
    execSaveCommand 63 s = .next ((s.allGangs.filter Gang.sys).foldl (fun s g => s.askSave g.uid 20 { deadline := 0 }) s) := by
  simp only [execSaveCommand, h, Bool.true_and, beq_self_eq_true, if_true]

/-! ### Drains (R482) -/

theorem execDrain_begins {s : State} (h : s.mbx = true) (d : DrainScope) (us : Nat) : execDrain d us s =
    .next ({ s with drains := (s.drains.filter fun x => x.scope != d) ++
      [{ scope := d, deadline := s.cycle + 1900 * if 10 ≤ us ∧ us ≤ 10000 then us else 200 }] } : State).settleDrains := by
  simp only [execDrain, h, Bool.not_true, Bool.false_eq_true, if_false]

theorem execDrainDeadline_late {s : State} {d : DrainScope} {r : DrainRec} (hr : s.drains.find? (fun x => x.scope == d) = some r) (hd : r.done = false)
    (he : r.escalated = false) (hl : r.deadline ≤ s.cycle) : execDrainDeadline d s =
    .next ((s.allGangs.filter (DrainScope.saves d)).foldl (fun (t : State) (x : Gang) => t.askSave x.uid 20 { deadline := 0, cause := some d })
      { s with drains := s.drains.map fun x => if x.scope = d then { x with escalated := true, done := true } else x }) := by
  simp only [execDrainDeadline, hr, hd, he, Nat.not_lt.2 hl, Bool.false_eq_true, or_self, if_false]
  rfl

theorem execResume_ends {s : State} (h : s.mbx = true) (d : DrainScope) :
    execResume d s = .next { s with drains := s.drains.filter fun x => x.scope != d } := by
  simp only [execResume, h, Bool.not_true, Bool.false_eq_true, if_false]

/-- Before the mailbox is up its commands do nothing (log 69). -/
theorem exec_mailbox_off {s : State} (h : s.mbx = false) (d : DrainScope) (us : Nat) :
    ∀ i ∈ [Instr.drain d us, Instr.resume d, Instr.saveCommand 63], exec i s = .next s := by
  intro i hi
  simp only [List.mem_cons, List.not_mem_nil, or_false] at hi
  rcases hi with rfl | rfl | rfl
  · change execDrain d us s = _
    simp only [execDrain, h, Bool.not_false, if_true]
  · change execResume d s = _
    simp only [execResume, h, Bool.not_false, if_true]
  · change execSaveCommand 63 s = _
    simp only [execSaveCommand, h, Bool.false_and, Bool.false_eq_true, if_false]

/-! ### Resumption (R323, R487, R492) -/

/-- The state in which a saved gang of a partition comes back: its cores have acquired at device scope, its placement is paid for (R323, R492). -/
def State.readyFor (s : State) (p cl c0 : Nat) (v : SavedGang) : State :=
  ((s.borrowFor p cl).acquireOn p cl c0 v.gang.nC).chargePlace p (v.gang.nC * v.gang.nT)

/-- A saved gang among those resident, its work's engines those of its new cores (R492). -/
def State.resume (b : State) (g cl c0 : Nat) (v : SavedGang) : State :=
  let x := b.resumed v cl c0
  let u := b.updCluster cl fun k => { k with lendable := false }
  (x.troupes.map fun t => (⟨g, t.idx, .P⟩ : PathId)).foldl State.wakeParked
    { u with gangs := u.gangs ++ [x], saved := u.saved.filter fun v => v.gang.uid != g,
             works := u.works.map fun y => if y.gang = g then { y with core := 8 * cl + c0 + y.troupe / x.nT } else y }

theorem execGangResume_next {s : State} {g p cl c0 : Nat} {v : SavedGang} (hp : s.refreshActive.reclaim.nextPart = some p)
    (hpl : s.refreshActive.reclaim.placeable p = some (.saved g, (cl, c0)))
    (hv : (s.refreshActive.reclaim.saved.find? fun x => x.gang.uid == g) = some v) :
    execGangResume g s = .next ((s.refreshActive.reclaim.readyFor p cl c0 v).resume g cl c0 v) := by
  simp only [execGangResume, hp, hpl, hv, ne_eq, not_true_eq_false, if_false]
  rfl

/-! ### Switch groups (R494 to R496) -/

theorem execSwitchGroupBind_legal {s : State} {ms : List Nat} {leader : Nat} (hm : s.mbx = true) (h2 : 2 ≤ ms.length) (hn : ms.length ≤ 1152)
    (hl : leader ∈ ms) (hs : s.modnum ∈ ms) (hd : ms.Nodup) : execSwitchGroupBind ms leader s =
    .next (({ s with group := some { members := ms, leader := leader, nextTick := s.slotAt + s.slotLen } } : State).report .ok) := by
  simp only [execSwitchGroupBind, hm, h2, hn, List.contains_iff_mem.2 hl, List.contains_iff_mem.2 hs, hd, Bool.not_true, Bool.false_eq_true, and_self, if_false,
    if_true]

section group
variable {s : State} {g : SwitchGroup} (h : s.group = some g)
include h

theorem execSwitchTickSend_due (hl : g.leader = s.modnum) (ht : g.tick = none) (hn : g.nextTick ≤ s.cycle) :
    execSwitchTickSend s = .next ((s.report (.tickSent ((s.slot + 1) % 16))).beginTick g ((s.slot + 1) % 16)) := by
  simp only [execSwitchTickSend, h, hl, ht, hn, and_self, if_true]

theorem execSwitchTickReceive_member (hl : g.leader ≠ s.modnum) (ht : g.tick = none) (slot : Nat) :
    execSwitchTickReceive slot s = .next (s.beginTick g (slot % 16)) := by
  simp only [execSwitchTickReceive, h, ht, hl, ne_eq, not_false_eq_true, and_self, if_true]

theorem execSavedMessage_first {m : Nat} (hm : m ∈ g.members) (hn : m ≠ s.modnum) (hs : m ∉ g.saved) (hf : m ∉ g.forced) (forced : Bool) :
    execSavedMessage m forced s = .next ({ s with group := some { g with
      saved := g.saved ++ [m], forced := if forced then g.forced ++ [m] else g.forced, late := g.members.idxOf m } } : State).tryIncoming := by
  simp [execSavedMessage, h, hm, hn, hs, hf]

end group

/-- Settles O59: each event where its condition holds; a gang resumed keeps what its saved troupes hold. -/
theorem preemptionEvents : Obligations.PreemptionEvents := by
  refine ⟨fun s g cl us d => ?_, fun s v cl c0 i t ht => ?_, fun s ms leader slot m forced g => ?_⟩
  · exact ⟨execSlotStart_due, fun h => execSetSlotLength_pos h s,
      fun r hr => ⟨execSaveComplete_ready hr, execSaveComplete_busy hr, fun hf hd hs => ⟨_, execSaveForce_late hr hf hd hs, s.forceAll_keeps g⟩⟩,
      fun h => execDrain_begins h d us, fun _ => execDrainDeadline_late, fun _ _ r hg hk => State.askSave_again hg hk us r, fun h => execResume_ends h d,
      execSaveCommand_system, fun h => exec_mailbox_off h d us, fun p => execClusterLendable_idle, fun p v c0 => execGangResume_next⟩
  · refine ⟨rfl, rfl, rfl, rfl, rfl, rfl, rfl, rfl, List.length_map .., _, (List.getElem?_map ..).trans (congrArg _ ht), ?_⟩
    exact ⟨rfl, rfl, rfl, rfl, rfl, rfl, rfl, rfl, rfl, rfl, rfl, rfl, rfl, rfl, rfl, rfl, rfl, rfl, rfl, rfl, rfl⟩
  · exact ⟨fun hm h2 hn hl hs hd => ⟨_, execSwitchGroupBind_legal hm h2 hn hl hs hd, rfl⟩, fun h => execSwitchTickSend_due h,
      fun h hl ht => execSwitchTickReceive_member h hl ht slot, fun h hm hn hs hf => execSavedMessage_first h hm hn hs hf forced⟩

end Sys2Proof.Machine
end

section
/-!
SUPPORT. What the host does at BAR0 and BAR2 (R244, R253, R443, R457, R459, R477, R523 to R525).
-/

namespace Sys2Proof.Machine

/-! ### Registers of BAR0 written (R523) -/

theorem heldOffset_iff {vf off : Nat} :
    heldOffset vf off = true ↔ (0x50000 ≤ off ∧ off < 0x50800 ∨ vf = 0 ∧ 0x70000 ≤ off ∧ off < 0x71000) := by
  simp only [heldOffset, Bool.or_eq_true, Bool.and_eq_true, decide_eq_true_eq, beq_iff_eq, and_assoc]

theorem execRegisterWrite_held {s : State} {vf off : Nat} (hv : vf ≤ 63) (h8 : off % 8 = 0) (ha : vf = 0 ∨ (s.part (vf - 1)).active = true)
    (ho : 0x50000 ≤ off ∧ off < 0x50800 ∨ vf = 0 ∧ 0x70000 ≤ off ∧ off < 0x71000) (v : BitVec 64) :
    execRegisterWrite vf off v s = .next (State.unmaskMsi { s with bar := upsert Prod.fst (vf * 2 ^ 20 + off, v.toNat) s.bar } vf) := by
  have hact : ¬ (vf ≠ 0 ∧ (!(s.part (vf - 1)).active) = true) := by simpa [or_iff_not_imp_left] using ha
  rw [execRegisterWrite, if_neg (by omega), if_neg hact, if_pos (heldOffset_iff.2 ho)]

theorem execRegisterWrite_mailbox (s : State) (v : BitVec 64) :
    execRegisterWrite 0 0x72000 v s = .next { s with ctl := { s.ctl with event := s.ctl.event ||| 2 } } := rfl

section function
variable {s : State} {vf : Nat} (h1 : 1 ≤ vf) (hv : vf ≤ 63) (ha : (s.part (vf - 1)).active = true)
include h1 hv ha

theorem execRegisterWrite_page {page q k : Nat} (hp : page < 64) (hq : s.pageQueue (vf - 1) page = some q) (hk : k < 0x1000) (h8 : k % 8 = 0)
    (v : BitVec 64) : execRegisterWrite vf (0x1000 * page + k) v s =
      if k = 0 then execTailDoorbell q v 8 s else if k = 8 then execHeadRegisterWrite q v s else .next s := by
  rw [execRegisterWrite, if_neg (by omega), if_neg (by simp [ha]), if_neg (mt heldOffset_iff.1 (by omega)), if_neg (by omega), if_pos (by omega),
    Nat.mul_add_div (by decide), Nat.div_eq_of_lt hk, Nat.add_zero, hq, Nat.mul_add_mod, Nat.mod_eq_of_lt hk]

theorem execRegisterWrite_doorbell {off : Nat} (h8 : off % 8 = 0) (hlo : 0x40000 ≤ off) (hhi : off < 0x50000) (v : BitVec 64) :
    execRegisterWrite vf off v s = s.doorbell vf off v := by
  rw [execRegisterWrite, if_neg (by omega), if_neg (by simp [ha]), if_neg (mt heldOffset_iff.1 (by omega)), if_neg (by omega), if_neg (by omega)]

theorem execRegisterWrite_event {o : Nat} {i : Instr} {v : BitVec 64} (hi : (o, i) ∈ [(0x40000, Instr.frhead (vf - 1) v),
    (0x40008, Instr.frreplay (vf - 1) v), (0x40010, Instr.frfail (vf - 1) v), (0x40018, Instr.loghead (vf - 1) v), (0x40020, Instr.logsign (vf - 1))]) :
    execRegisterWrite vf o v s = exec i s := by
  simp only [List.mem_cons, Prod.mk.injEq, List.not_mem_nil, or_false] at hi
  obtain ⟨rfl, rfl⟩ | ⟨rfl, rfl⟩ | ⟨rfl, rfl⟩ | ⟨rfl, rfl⟩ | ⟨rfl, rfl⟩ := hi <;>
    exact execRegisterWrite_doorbell h1 hv ha (by decide) (by decide) (by decide) v

theorem execRegisterWrite_window {v : BitVec 64} (hm : v.toNat % 2 ^ 36 = 0) :
    execRegisterWrite vf 0x40100 v s = .next { s with windows := upsert Prod.fst (vf, v.toNat) s.windows } := by
  rw [execRegisterWrite_doorbell h1 hv ha (by decide) (by decide) (by decide)]
  exact congrArg _ (if_pos hm)

end function

/-! ### Registers of BAR0 read (R525) -/

theorem State.barRead_unaligned (s : State) {off : Nat} (h : off % 8 ≠ 0) (vf : Nat) : s.barRead vf off = 0 := if_pos (.inr h)

section read
variable (s : State) {vf : Nat} (hv : vf ≤ 63)
include hv

theorem State.barRead_ready : s.barRead vf 0x60000 = s.ready vf := by
  simp [State.barRead, Nat.not_lt.2 hv]

theorem State.barRead_counters (h1 : 1 ≤ vf) :
    s.barRead vf 0x40000 = (s.part (vf - 1)).hf % 2 ^ 64 ∧ s.barRead vf 0x40008 = (s.part (vf - 1)).replayed % 2 ^ 64 := by
  simp [State.barRead, Nat.not_lt.2 hv, Nat.one_le_iff_ne_zero.1 h1]

theorem State.barRead_page (h1 : 1 ≤ vf) {page q k : Nat} (hp : page < 64) (hq : s.pageQueue (vf - 1) page = some q) (hk : k < 0x1000) (h8 : k % 8 = 0) :
    s.barRead vf (0x1000 * page + k) = if k = 0 then (s.queue q).t % 2 ^ 64 else if k = 8 then (s.queue q).h % 2 ^ 64 else 0 := by
  unfold State.barRead
  dsimp only
  rw [if_neg (by omega), if_neg (by omega), if_neg (by omega), if_neg (by omega), if_neg (by omega), if_pos (by omega),
    Nat.mul_add_div (by decide), Nat.div_eq_of_lt hk, Nat.add_zero, hq, Nat.mul_add_mod, Nat.mod_eq_of_lt hk]

end read

/-! ### The window of BAR2 (R244, R523, R524) -/

section window
variable {s : State} {vf off : Nat} {pas : List Nat}

section write
variable {data : List (BitVec 8)} (h : s.windowPas vf off .write data.length = some pas)
include h

theorem execHostBar2Write_memory (hb : pas.head?.bind s.bellAt = none) (ha : ∀ pa ∈ pas, s.away pa = false) :
    execHostBar2Write vf off data s = .next (s.hostWrite pas data) := by
  simp only [execHostBar2Write, h, hb, List.find?_eq_none.2 fun pa hpa => Bool.not_eq_true _ ▸ ha pa hpa]

theorem execHostBar2Write_lost {pa : Nat} (hb : pas.head?.bind s.bellAt = none) (ha : pas.find? s.away = some pa) :
    execHostBar2Write vf off data s = .next ((s.machineCheck 128 (vf - 1) pa 9 false).report .unsupported) := by
  simp only [execHostBar2Write, h, hb, ha]

theorem execHostBar2Write_bell {q : Nat} (hb : pas.head?.bind s.bellAt = some q) :
    execHostBar2Write vf off data s = .next (s.tailBell q (.ofNat 64 (natOf data)) data.length) := by
  simp only [execHostBar2Write, h, hb]

end write

theorem State.hostWrite_byte (s : State) (pa : Nat) (b : BitVec 8) (a : Nat) (h : Memory.wf s.mem = true) :
    cellGet (s.hostWrite [pa] [b]).mem a = if a = pa then b else cellGet s.mem a := by
  change cellGet (s.writeHome none pa 1 b.toNat).mem a = _
  rw [State.writeHome_mem, cellGet_writeCells pa 1 _ h]
  by_cases ha : a = pa
  · rw [if_pos (by omega), if_pos ha, ha, Nat.sub_self, Nat.mul_zero, Nat.pow_zero, Nat.div_one, BitVec.ofNat_toNat, BitVec.setWidth_eq]
  · rw [if_neg (by omega), if_neg ha]

theorem execHostBar2Read_good {n : Nat} (h : s.windowPas vf off .read n = some pas) (hg : ∀ pa ∈ pas, s.lineError 128 pa = none) :
    execHostBar2Read vf off n s = .next (s.report (.data (natOf (pas.map fun pa => s.viewByte 0 pa)) n)) := by
  have hnone : (pas.findSome? fun pa => (s.lineError 128 pa).map fun u => (pa, u)) = none :=
    List.findSome?_eq_none_iff.2 fun pa hpa => by rw [hg pa hpa]; rfl
  simp only [execHostBar2Read, h, hnone]

theorem execHostBar2Read_untranslated {n : Nat} (h : s.windowPas vf off .read n = none) :
    execHostBar2Read vf off n s = .next (s.report .unsupported) := by
  simp only [execHostBar2Read, h]

end window

end Sys2Proof.Machine
end

section
/-!
SUPPORT. Flits and the writes they carry, ports, routes lost, the module's number (R448, R496, R503, R519, R521, R522).
-/

namespace Sys2Proof.Machine

/-! ### Flits (R521) -/

/-- The state once the write a flit carries, if any, has arrived (R503). -/
def State.carried (s : State) (flit : List (BitVec 8)) : State :=
  match Config.flitWrite flit with
  | some (m, pa, data) => s.arriving m pa data
  | none => s

section flit
variable {s : State} {n : Nat} {flit : List (BitVec 8)} (hn : n < 36) (ht : (s.port n).trained = true)
include hn ht

theorem execFlitReceive_good (hl : flit.length = 64) (hf : Config.flitOk flit = true) :
    execFlitReceive n flit s = .next ((s.carried flit).report (.flitAck true)) := by
  unfold execFlitReceive
  dsimp only
  rw [if_neg (by simp [ht]; omega), if_pos ⟨hl, hf⟩]
  rfl

theorem execFlitReceive_empty (hl : flit.length = 64) (hf : Config.flitOk flit = true) (hw : Config.flitWrite flit = none) :
    execFlitReceive n flit s = .next (s.report (.flitAck true)) := by
  rw [execFlitReceive_good hn ht hl hf, State.carried, hw]

theorem execFlitReceive_write {m pa : Nat} {data : List Byte} (hl : flit.length = 64) (hf : Config.flitOk flit = true)
    (hw : Config.flitWrite flit = some (m, pa, data)) : execFlitReceive n flit s = .next ((s.arriving m pa data).report (.flitAck true)) := by
  rw [execFlitReceive_good hn ht hl hf, State.carried, hw]

theorem execFlitReceive_bad (hf : flit.length ≠ 64 ∨ Config.flitOk flit = false) :
    execFlitReceive n flit s = .next ((s.setPort { s.port n with retries := (s.port n).retries + 1 }).report (.flitAck false)) := by
  unfold execFlitReceive
  dsimp only
  rw [if_neg (by simp [ht]; omega), if_neg (by simpa [or_iff_not_imp_left] using hf)]

end flit

/-! ### The writes of other modules (R244, R503, R519; log 103) -/

theorem State.arriving_refused {s : State} {m pa : Nat} (h : m = s.modnum ∨ m ∉ s.domain ∨ s.homed pa = false ∨ s.paLegal pa = false) (data : List Byte) :
    s.arriving m pa data = s := by
  rw [State.arriving, if_pos (by simpa using h)]

section arriving
variable {s : State} {m pa : Nat} (hm : m ≠ s.modnum) (hd : m ∈ s.domain) (hh : s.homed pa = true) (hl : s.paLegal pa = true) (data : List Byte)
include hm hd hh hl

theorem State.arriving_bell {q : Nat} (hb : s.bellAt pa = some q) : s.arriving m pa data = s.tailBell q (.ofNat 64 (natOf data)) data.length := by
  rw [State.arriving, if_neg (by simp [*]), hb]

theorem State.arriving_memory (hb : s.bellAt pa = none) : s.arriving m pa data = s.remoteWrite m pa data.length (natOf data) := by
  rw [State.arriving, if_neg (by simp [*]), hb]

end arriving

/-- A byte of a number read from memory is the byte there. -/
theorem readCells_byte {m : List Host.Cell} {n a k : Nat} (h : k < n) : BitVec.ofNat 8 (readCells m a n / 2 ^ (8 * k)) = cellGet m (a + k) := by
  induction n generalizing a k with
  | zero => omega
  | succ n ih =>
    have hb := (cellGet m a).isLt
    rw [readCells]
    cases k with
    | zero => exact BitVec.eq_of_toNat_eq (by simp; omega)
    | succ k =>
      rw [show 2 ^ (8 * (k + 1)) = 2 ^ 8 * 2 ^ (8 * k) by rw [← Nat.pow_add]; congr 1; omega, ← Nat.div_div_eq_div_mul,
        show ((cellGet m a).toNat + 256 * readCells m (a + 1) n) / 2 ^ 8 = readCells m (a + 1) n by omega, ih (by omega), Nat.add_right_comm, Nat.add_assoc]

theorem State.fresh_held (s : State) (pa n : Nat) : (s.fresh pa n).held = s.held := by
  unfold State.fresh
  split <;> rfl

theorem State.applyHeld_none {s : State} (h : s.held = []) (dom pa n : Nat) : s.applyHeld dom pa n = s := if_pos (by rw [h]; rfl)

/-- With no write held, another module's write is held from every view (R503, rule 3). -/
theorem State.remoteWrite_held {s : State} (h : s.held = []) (m pa n v : Nat) : ∃ x, (s.remoteWrite m pa n v).held = [x] ∧ x.views = List.range 17 ∧
    x.pa = pa ∧ x.n = n ∧ x.old = readCells s.mem pa n := by
  simp only [State.remoteWrite, State.applyHeld_none h, State.fresh_held, State.fresh_mem, h, List.nil_append]
  exact ⟨_, rfl, rfl, rfl, rfl, rfl⟩

theorem State.remoteWrite_mem (s : State) (m pa n v : Nat) : (s.remoteWrite m pa n v).mem = writeCells s.mem pa n v := by
  simp only [State.remoteWrite, State.fresh_mem, State.applyHeld_mem]

/-- A view that has not applied the write sees the bytes of before (R503). -/
theorem State.viewByte_remoteWrite {s : State} (h : s.held = []) (hwf : Memory.wf s.mem = true) (m pa n v : Nat) {dom : Nat} (hdom : dom < 17) (a : Nat) :
    (s.remoteWrite m pa n v).viewByte dom a = s.viewByte dom a := by
  obtain ⟨x, hx, hviews, hpa, hn, hold⟩ := State.remoteWrite_held h m pa n v
  have hbyte : x.byteAt dom a = if pa ≤ a ∧ a < pa + n then some (cellGet s.mem a) else none := by
    simp only [Held.byteAt, hviews, List.contains_iff_mem.2 (List.mem_range.2 hdom), hpa, hn, hold, Bool.true_and, Bool.and_eq_true, decide_eq_true_eq]
    refine if_ctx_congr Iff.rfl (fun ha => ?_) fun _ => rfl
    rw [readCells_byte (by omega), Nat.add_sub_cancel' ha.1]
  simp only [State.viewByte, hx, h, List.findSome?_cons, List.findSome?_nil, hbyte, State.remoteWrite_mem, cellGet_writeCells pa n v hwf]
  by_cases ha : pa ≤ a ∧ a < pa + n
  · simp only [if_pos ha]
  · simp only [if_neg ha]

/-! ### Ports, routes and the module's number (R519, R521, R522) -/

theorem execRouteLossTimeout_first {s : State} {m : Nat} (hm : m ≠ s.modnum) (hl : m ∉ s.lost) (hd : m ∈ s.domain) (hg : s.group = none) :
    execRouteLossTimeout m s = .next ({ s with lost := s.lost ++ [m] } : State).recheckAll := by
  rw [execRouteLossTimeout, if_neg (by simp [*])]
  simp only [hg]

theorem execSetModnum_other {s : State} {m : Nat} (h : m ≤ 1151) (hm : m ≠ s.modnum) : ∃ t, execSetModnum m s = .next t ∧ t.modnum = m ∧
    (Memory.wf s.mem = true → Memory.wf t.mem = true) ∧ t.gg = s.gg ∧ t.tr = s.tr ∧ t.parts = s.parts := by
  rw [execSetModnum, if_pos ⟨h, hm⟩]
  exact ⟨_, rfl, rfl, fun hwf => foldl_cellSet_wf _ _ (filter_wf _ hwf), rfl, rfl, rfl⟩

end Sys2Proof.Machine
end

section
/-!
SUPPORT. Power good, the steps of boot and READY (R392, R525, R526, R530).
-/

namespace Sys2Proof.Machine

/-! ### Stacks by number -/

theorem State.pile_setPile (s : State) (p : Stack) (n : Nat) : (s.setPile p).pile n = if n = p.stack then p else s.pile n := by
  unfold State.setPile State.pile
  split
  · subst n
    exact findD_upsert_self Stack.stack _ p s.piles
  · exact findD_upsert_other Stack.stack _ p (by assumption) s.piles

@[simp] theorem State.pile_stack (s : State) (n : Nat) : (s.pile n).stack = n := findD_key Stack.stack n { stack := n } rfl s.piles

/-! ### Power good (R526, R530) -/

/-- What a memory reads where only the cells of some addresses are kept. -/
theorem cellGet_filter (p : Nat → Bool) (a : Nat) : ∀ {lo : Nat} {m : List Host.Cell}, cellsFrom lo m = true →
    cellGet (m.filter fun c => p c.1) a = if p a then cellGet m a else 0
  | _, [], _ => (ite_self _).symm
  | lo, (k, v) :: r, h => by
    simp only [cellsFrom, Bool.and_eq_true, decide_eq_true_eq] at h
    obtain ⟨-, hr⟩ := h
    have ih := cellGet_filter p a hr
    rw [List.filter_cons]
    by_cases hk : k = a
    · subst hk
      cases hp : p k with
      | true => simp [cellGet]
      | false => simp [ih, hp]
    · cases hp : p k with
      | true =>
        simp only [cellGet, if_neg hk, ih, if_true]
        split <;> simp
      | false =>
        simp only [cellGet, if_neg hk, ih, Bool.false_eq_true, if_false]
        by_cases hlt : a < k
        · rw [if_pos hlt, cellGet_below hr (Nat.lt_succ_of_lt hlt)]
        · rw [if_neg hlt]

theorem State.regions_dropRecords_old (s : State) : (s.dropRecords fun r => decide (oldRegion ≤ r.id)).regions = s.regions.filter fun r => r.id < 2 ^ 40 :=
  List.filter_congr fun r _ => (decide_not (p := oldRegion ≤ r.id)).symm.trans (decide_eq_decide.2 Nat.not_le)

/-- Power good leaves home memory empty and every other place as it was. -/
theorem cellGet_powerGood {s : State} (h : Memory.wf s.mem = true) (pa : Nat) :
    cellGet (s.mem.filter fun c => !s.homed c.1) pa = if s.homed pa = true then 0 else cellGet s.mem pa := by
  rw [cellGet_filter (fun a => !s.homed a) pa h]
  cases s.homed pa <;> rfl

/-! ### The steps of boot (R526) -/

/-- A step taken for each of a list of numbers, that turns what belongs to its own number into a fixed point, turns what belongs to each of them. -/
theorem foldl_each {β : Type} {f : State → Nat → State} {g : State → Nat → β} {φ : β → β}
    (hf : ∀ s h n, g (f s h) n = if n = h then φ (g s n) else g s n) (hφ : ∀ b, φ (φ b) = φ b) (l : List Nat) (s : State) (n : Nat) :
    g (l.foldl f s) n = if n ∈ l then φ (g s n) else g s n := by
  induction l generalizing s with
  | nil => rfl
  | cons h l ih =>
    rw [List.foldl_cons, ih, hf]
    by_cases hn : n = h <;> by_cases hl : n ∈ l <;> simp [hn, hl, hφ]

theorem State.bootAction_up (s : State) {h : Nat} (hh : h < 16) : ((s.bootAction 3).pile h).up = true := by
  have hf (s : State) (h n : Nat) : ((s.setPile { s.pile h with up := true }).pile n).up = if n = h then true else (s.pile n).up := by
    rw [State.pile_setPile, apply_ite Stack.up, State.pile_stack]
  rw [State.bootAction, foldl_each (g := fun s n => (s.pile n).up) (φ := fun _ => true) hf fun _ => rfl, if_pos (List.mem_range.2 hh)]

theorem State.mapLoads_epoch (s : State) (h n : Nat) : ((s.mapLoads h).pile n).epoch = (s.pile n).epoch := by
  unfold State.mapLoads
  dsimp only
  split
  · rfl
  · refine (congrArg Stack.epoch (State.pile_setPile ..)).trans ?_
    split
    · subst n
      rw [State.pile_stack]
    · rfl

theorem State.publish_epoch (s : State) (h n : Nat) : ((s.publish h).pile n).epoch = if n = h then (s.pile n).epoch + 1 else (s.pile n).epoch := by
  unfold State.publish
  dsimp only
  rw [State.pile_setPile, apply_ite Stack.epoch, State.pile_stack, State.mapLoads_epoch, State.mapLoads_epoch, State.pile_setPile, State.pile_setPile]
  simp only [State.pile_stack, if_true]
  by_cases hn : n = h
  · rw [if_pos hn, if_pos hn, hn]
  · rw [if_neg hn, if_neg hn, if_neg hn]

theorem State.scheduleTile_pile (s : State) (h tile n : Nat) : (s.scheduleTile h tile).pile n = s.pile n := by
  unfold State.scheduleTile
  split
  · split <;> rfl
  · rfl

theorem State.fitTiles_pile (s : State) (h n : Nat) : (s.fitTiles h).pile n = s.pile n :=
  List.foldlRecOn (motive := fun t : State => t.pile n = s.pile n) _ _ rfl fun t ht _ _ => by
    split
    · exact (t.scheduleTile_pile ..).trans ht
    · exact ht

theorem State.bootAction_epoch (s : State) {h : Nat} (hh : h < 16) (he : (s.pile h).epoch = 0) : ((s.bootAction 8).pile h).epoch = 1 := by
  have hf (s : State) (h n : Nat) : ((if (s.pile h).epoch = 0 then (s.publish h).fitTiles h else s).pile n).epoch =
      if n = h then (fun e => if e = 0 then 1 else e) (s.pile n).epoch else (s.pile n).epoch := by
    by_cases hz : (s.pile h).epoch = 0
    · rw [if_pos hz, State.fitTiles_pile, State.publish_epoch]
      split
      · simp only [*, if_true]
      · rfl
    · rw [if_neg hz]
      split
      · simp only [*, if_false]
      · rfl
  rw [State.bootAction, foldl_each (g := fun s n => (s.pile n).epoch) (φ := fun e => if e = 0 then 1 else e) hf fun e => by split <;> simp [*],
    if_pos (List.mem_range.2 hh), he]
  rfl

theorem find?_upsert {α : Type} (key : α → Nat) (v : α) (l : List α) : (upsert key v l).find? (fun x => key x == key v) = some v := by
  induction l with
  | nil => simp [upsert]
  | cons x r ih =>
    rw [upsert]
    split
    · simp
    · rw [List.find?_cons_of_neg (by simpa using ‹_›), ih]

theorem State.bootAction_selfTest (s : State) (c : Fin 16) : ((s.bootAction 5).clusters.get c).ok = Config.selfTest c := by
  exact congrArg Cluster.ok (Vector.get_ofFn ..)

section boot
variable {s : State} (hf : s.bootFail = false) (hs : s.bootStep < 9)
include hf hs

theorem execBootStepComplete_goesOn (hb : s.bootable = true) :
    execBootStepComplete true s = .next (({ s with bootStep := s.bootStep + 1 } : State).bootAction (s.bootStep + 1)) := by
  simp only [execBootStepComplete, hf, hb, Nat.not_le.2 hs, Bool.false_eq_true, or_self, if_false, Bool.and_self, if_true]

theorem execBootStepComplete_fails {ok : Bool} (hb : (ok && s.bootable) = false) : execBootStepComplete ok s = .next { s with bootFail := true } := by
  simp only [execBootStepComplete, hf, hb, Nat.not_le.2 hs, Bool.false_eq_true, or_self, if_false]

end boot

/-! ### READY (R525) -/

theorem bitIf_eq (b : Bool) (k : Nat) : bitIf b k = b.toNat * 2 ^ k := by cases b <;> simp [bitIf]

/-- The number of a row of bits. -/
def bitRow (f : Nat → Bool) (n : Nat) : Nat := ((List.range n).map fun k => bitIf (f k) k).sum

theorem bitRow_succ (f : Nat → Bool) (n : Nat) : bitRow f (n + 1) = 2 ^ n * (f n).toNat + bitRow f n := by
  rw [bitRow, List.range_succ, List.map_append, List.sum_append, List.map_singleton, List.sum_singleton, bitIf_eq, Nat.mul_comm, Nat.add_comm]
  rfl

theorem bitRow_lt (f : Nat → Bool) (n : Nat) : bitRow f n < 2 ^ n := by
  induction n with
  | zero => exact Nat.one_pos
  | succ n ih =>
    rw [bitRow_succ, Nat.pow_succ]
    have := Nat.mul_le_mul_left (2 ^ n) (f n).toNat_le
    omega

theorem testBit_bitRow {f : Nat → Bool} {n k : Nat} (hk : k < n) : (bitRow f n).testBit k = f k := by
  induction n with
  | zero => omega
  | succ n ih =>
    rw [bitRow_succ, Nat.testBit_two_pow_mul_add _ (bitRow_lt f n)]
    split
    · exact ih ‹_›
    · obtain rfl : k = n := by omega
      rw [Nat.sub_self]
      cases f k <;> rfl

/-- Bits 11 to 0 of READY. -/
def State.readyFlag (s : State) (vf : Nat) (k : Nat) : Bool :=
  let act := if vf = 0 then decide (6 ≤ s.bootStep) else (s.part (vf - 1)).active
  match k with
  | 0 | 3 | 6 => act
  | 1 => decide (3 ≤ s.bootStep)
  | 2 => decide (2 ≤ s.bootStep)
  | 4 | 5 => if vf = 0 then decide (4 ≤ s.bootStep) else act
  | 7 => s.ports.any Port.trained
  | 8 => decide (9 ≤ s.bootStep)
  | 11 => s.bootFail
  | _ => false

/-- Bits 15 to 0 of READY: the boot step above the flags. -/
def State.readyLow (s : State) (vf : Nat) : Nat := 2 ^ 12 * (s.bootStep % 16) + bitRow (s.readyFlag vf) 12

def State.okRow (s : State) : Nat := bitRow (fun k => (s.cluster k).ok) 16
def State.arrRow (s : State) : Nat := bitRow (fun k => (s.pile k).arr) 16
def State.upRow (s : State) : Nat := bitRow (fun k => (s.pile k).up) 16

theorem sum_bitIf_add (f : Nat → Bool) (d : Nat) (l : List Nat) :
    (l.map fun k => bitIf (f k) (d + k)).sum = 2 ^ d * (l.map fun k => bitIf (f k) k).sum := by
  rw [← List.sum_map_mul_left]
  refine congrArg List.sum (List.map_congr_left fun k _ => ?_)
  rw [bitIf_eq, bitIf_eq, Nat.pow_add, Nat.mul_left_comm]

/-- READY is its rows of stacks, arrays and clusters above the boot step and the flags. -/
theorem State.ready_eq (s : State) (vf : Nat) :
    s.ready vf = 2 ^ 16 * (2 ^ 16 * (2 ^ 16 * s.upRow + s.arrRow) + s.okRow) + s.readyLow vf := by
  have hflags : bitRow (s.readyFlag vf) 12 = ((List.range 12).map fun k => bitIf (s.readyFlag vf k) k).sum := rfl
  have hready : s.ready vf = ((List.range 16).map fun h => bitIf (s.pile h).up (48 + h) + bitIf (s.pile h).arr (32 + h) + bitIf (s.cluster h).ok (16 + h)).sum +
      s.bootStep % 16 * 2 ^ 12 + bitIf (s.readyFlag vf 11) 11 + bitIf (s.readyFlag vf 8) 8 + bitIf (s.readyFlag vf 7) 7 + bitIf (s.readyFlag vf 6) 6 +
      bitIf (s.readyFlag vf 5) 5 + bitIf (s.readyFlag vf 4) 4 + bitIf (s.readyFlag vf 3) 3 + bitIf (s.readyFlag vf 2) 2 + bitIf (s.readyFlag vf 1) 1 +
      bitIf (s.readyFlag vf 0) 0 := rfl
  have h9 : bitIf (s.readyFlag vf 9) 9 = 0 := rfl
  have h10 : bitIf (s.readyFlag vf 10) 10 = 0 := rfl
  simp only [List.range_succ, List.range_zero, List.nil_append, List.cons_append, List.map_cons, List.map_nil, List.sum_cons, List.sum_nil, h9, h10] at hflags
  rw [State.readyLow, hflags, hready, List.sum_map_add, List.sum_map_add, sum_bitIf_add, sum_bitIf_add, sum_bitIf_add, State.upRow, State.arrRow,
    State.okRow, bitRow, bitRow, bitRow]
  omega

theorem State.readyLow_lt (s : State) (vf : Nat) : s.readyLow vf < 2 ^ 16 := by
  have := bitRow_lt (s.readyFlag vf) 12
  rw [State.readyLow]
  omega

theorem State.ready_flag (s : State) (vf : Nat) {k : Nat} (hk : k < 12) : (s.ready vf).testBit k = s.readyFlag vf k := by
  rw [State.ready_eq, Nat.testBit_two_pow_mul_add _ (s.readyLow_lt vf), if_pos (by omega), State.readyLow,
    Nat.testBit_two_pow_mul_add _ (bitRow_lt _ 12), if_pos hk, testBit_bitRow hk]

theorem State.ready_bootStep (s : State) (vf : Nat) (h : s.bootStep < 16) : s.ready vf / 2 ^ 12 % 16 = s.bootStep := by
  have := bitRow_lt (s.readyFlag vf) 12
  rw [State.ready_eq, State.readyLow]
  omega

section rows
variable (s : State) (vf : Nat) {k : Nat} (hk : k < 16)
include hk

theorem State.ready_ok : (s.ready vf).testBit (16 + k) = (s.cluster k).ok := by
  rw [State.ready_eq, Nat.testBit_two_pow_mul_add _ (s.readyLow_lt vf), if_neg (by omega), Nat.add_sub_cancel_left,
    Nat.testBit_two_pow_mul_add (b := s.okRow) _ (bitRow_lt _ 16), if_pos hk, State.okRow, testBit_bitRow hk]

theorem State.ready_arr : (s.ready vf).testBit (32 + k) = (s.pile k).arr := by
  rw [State.ready_eq, Nat.testBit_two_pow_mul_add _ (s.readyLow_lt vf), if_neg (by omega),
    Nat.testBit_two_pow_mul_add (b := s.okRow) _ (bitRow_lt _ 16), if_neg (by omega), show 32 + k - 16 - 16 = k by omega,
    Nat.testBit_two_pow_mul_add (b := s.arrRow) _ (bitRow_lt _ 16), if_pos hk, State.arrRow, testBit_bitRow hk]

theorem State.ready_up : (s.ready vf).testBit (48 + k) = (s.pile k).up := by
  rw [State.ready_eq, Nat.testBit_two_pow_mul_add _ (s.readyLow_lt vf), if_neg (by omega),
    Nat.testBit_two_pow_mul_add (b := s.okRow) _ (bitRow_lt _ 16), if_neg (by omega),
    Nat.testBit_two_pow_mul_add (b := s.arrRow) _ (bitRow_lt _ 16), if_neg (by omega), show 48 + k - 16 - 16 - 16 = k by omega, State.upRow,
    testBit_bitRow hk]

end rows

end Sys2Proof.Machine
end

section
/-!
SUPPORT. Certificates, reports, image keys, loads and regions (R98, R351, R382, R383, R527 to R530), and O60.
-/

namespace Sys2Proof.Machine

/-! ### Identity and attestation (R527, R528) -/

theorem execCert_booted {s : State} (h : 9 ≤ s.bootStep) : execCert s = .next (s.report (.bytes (Config.certificates s.attKey))) :=
  congrArg _ (if_pos h)

theorem bytesOf_length (n v : Nat) : (bytesOf n v).length = n := by rw [bytesOf, List.length_map, List.length_range]

theorem execAttest_booted {s : State} {part : Nat} (h : 9 ≤ s.bootStep) (ha : part = 63 ∨ (s.part part).active = true) (nonce : BitVec 512) :
    ∃ sig, sig.length = 512 ∧ execAttest part nonce s = .next (s.report (.bytes (bytesOf 512 (s.reportBody part nonce) ++ sig))) :=
  ⟨_, bytesOf_length .., congrArg _ (if_pos ⟨h, ha⟩)⟩

/-! ### Array images (R98, R382, R529, R530) -/

theorem execImageKeyRegister_up {s : State} (h : s.mbx = true) (hash : BitVec 512) :
    execImageKeyRegister hash s = .next (({ s with imageKey := some hash } : State).report .ok) := congrArg _ (if_pos h)

/-- The load of an image whose regions are placed, behind the loads it takes regions over from (R383, R530). -/
def State.loadBegun (t : State) (image : Nat) (i : Image) : State :=
  let before : List Load := (t.loads.map fun l => { l with taken := l.taken ++ i.regions.map Region.id }).filter fun l => t.loadRegions l != []
  { t with loads := before ++ [{ image := image, left := (i.regions.map Region.stacks).flatten.eraseDups }] }

/-- Whether the load of an image with a key is accepted (R98, R529). -/
def State.verifies (s : State) (i : Image) (k : BitVec 512) : Bool := s.mbx && Config.verify k i.bytes i.sig && i.regions.all Region.loadable

theorem execImgload_eq {s : State} {image : Nat} {i : Image} {k : BitVec 512} (hi : s.images.find? (fun i => i.id == image) = some i)
    (hk : s.imageKey = some k) : execImgload image s = .next (if s.verifies i k then
      (s.placeRegions i.regions).elim (s.report (.refused 0)) fun u => (u.loadBegun image i).report .ok
    else s.report (.refused 0)) := by
  simp only [execImgload, hi, hk, State.verifies]
  cases s.placeRegions i.regions <;> rfl

theorem execRegion_known {s : State} {region : Nat} {parts : List Nat} (h : s.mbx = true) (hr : (s.region? region).isSome = true)
    (hp : ∀ p ∈ parts, (s.part p).active = true ∨ p = 63) : execRegion region parts s =
    .next ((parts.foldl (fun s p => s.setPart { s.part p with regions := putRegion region (s.part p).regions }) s).report .ok) := by
  have hall : (parts.all fun p => (s.part p).active || p == 63) = true := by simpa using hp
  simp only [execRegion, h, hr, hall, Bool.not_true, Bool.false_eq_true, and_self, if_false, if_true]

/-- Settles O60: each register by its offset, an access of the window by what its translation finds, a flit by its check; what power good keeps, what
each step of boot brings, READY by its bits; a load by its verification and its tiles. -/
theorem edgesAndBoot : Obligations.EdgesAndBoot := by
  refine ⟨fun s vf off q n v data pas => ?_, fun s n m flit => ?_, fun s vf => ?_, fun s part image region nonce hash parts => ?_⟩
  · exact ⟨fun hv h8 ha ho => execRegisterWrite_held hv h8 ha ho v, execRegisterWrite_mailbox s v,
      fun h1 hv ha => ⟨fun page hp hq => ⟨execRegisterWrite_page h1 hv ha hp hq (k := 0) (by decide) (by decide) v,
        execRegisterWrite_page h1 hv ha hp hq (k := 8) (by decide) (by decide) v⟩, fun o i => execRegisterWrite_event h1 hv ha,
        execRegisterWrite_window h1 hv ha⟩,
      fun h hb => ⟨execHostBar2Write_memory h hb, fun pa => execHostBar2Write_lost h hb⟩, fun pa b a h => s.hostWrite_byte pa b a h,
      fun h => execHostBar2Write_bell h, execHostBar2Read_good, execHostBar2Read_untranslated,
      fun hv => ⟨s.barRead_ready hv, fun h => s.barRead_unaligned h vf, fun h1 =>
        let ⟨hreported, hreplayed⟩ := s.barRead_counters hv h1
        ⟨hreported, hreplayed, fun page hp hq =>
          ⟨s.barRead_page hv h1 hp hq (k := 0) (by decide) (by decide), s.barRead_page hv h1 hp hq (k := 8) (by decide) (by decide)⟩⟩⟩⟩
  · refine ⟨fun hn ht => ⟨fun hl hf => ⟨execFlitReceive_empty hn ht hl hf, fun k pa data => execFlitReceive_write hn ht hl hf⟩,
        execFlitReceive_bad hn ht⟩,
      fun pa data hm hd hh hp => ⟨fun q => State.arriving_bell hm hd hh hp data, fun hb h hwf => ?_⟩, fun pa data h => State.arriving_refused h data,
      fun hn => congrArg _ (if_pos hn), fun hn => congrArg _ (if_pos hn), execRouteLossTimeout_first, execSetModnum_other⟩
    dsimp only
    rw [State.arriving_memory hm hd hh hp data hb]
    obtain ⟨x, hx, hviews, -⟩ := State.remoteWrite_held h m pa data.length (natOf data)
    exact ⟨fun a => by rw [State.remoteWrite_mem, cellGet_writeCells pa _ _ hwf], ⟨x, hx, hviews⟩,
      fun dom hdom a => State.viewByte_remoteWrite h hwf m pa _ _ hdom a⟩
  · refine ⟨?_, execBootStepComplete_goesOn, fun hf hs hb => execBootStepComplete_fails hf hs hb, ?_, fun hf hs => execBootStepComplete_fails hf hs rfl,
      ⟨rfl, rfl, fun h => s.bootAction_epoch, rfl, fun h => s.bootAction_up, s.bootAction_selfTest, find?_upsert Prod.fst (63, s.keyDraws) s.keys⟩,
      fun hs => ⟨s.ready_flag vf (by decide), s.ready_flag vf (by decide), s.ready_flag vf (by decide), s.ready_flag vf (by decide),
        s.ready_flag vf (by decide), s.ready_bootStep vf hs, fun k hk => ⟨s.ready_ok vf hk, s.ready_arr vf hk, s.ready_up vf hk⟩⟩⟩
    · exact ⟨_, rfl, rfl, rfl, rfl, rfl, rfl, rfl, rfl, rfl, rfl, fun _ => rfl, rfl, congrArg (List.map Region.kept) s.regions_dropRecords_old, rfl, rfl, rfl,
        fun h pa => cellGet_powerGood h pa⟩
    · by_cases h : s.bootStep = 0 <;> simp [State.bootable, h]
  · refine ⟨execCert_booted, fun h ha => execAttest_booted h ha nonce, fun h => execImageKeyRegister_up h hash,
      fun i k hi hk => ⟨_, execImgload_eq hi hk, ?_⟩, execRegion_known⟩
    change _ ∧ (s.verifies i k = false ∨ _) ∨ ∃ u, _ ∧ s.verifies i k = true ∧ _
    cases hg : s.verifies i k with
    | false => exact .inl ⟨rfl, .inl rfl⟩
    | true =>
      cases hp : s.placeRegions i.regions with
      | none => exact .inl ⟨rfl, .inr rfl⟩
      | some u => exact .inr ⟨u, rfl, rfl, rfl⟩

end Sys2Proof.Machine
end

section
/-!
O35: an unperformed store performs at its place (R265, R271, R286, R308, R522), and which entries stand before it (R285, R289, R311, R316, R324).
-/

namespace Sys2Proof.Machine

/-! ### What a store changes at its place -/

/-- The same bytes as `cellGet_writeCells`, read as digits in base 256. -/
theorem cellGet_writeCells_digit {m : List Host.Cell} (h : Memory.wf m = true) (a n v c : Nat) :
    cellGet (writeCells m a n v) c = if a ≤ c ∧ c < a + n then .ofNat 8 (v / 256 ^ (c - a)) else cellGet m c := by
  rw [cellGet_writeCells a n v h, Nat.pow_mul]

theorem State.applyHeld_focus (s : State) (dom pa n : Nat) : (s.applyHeld dom pa n).gg = s.gg ∧ (s.applyHeld dom pa n).tr = s.tr := by
  unfold State.applyHeld
  split
  · exact ⟨rfl, rfl⟩
  · split <;> exact ⟨rfl, rfl⟩

theorem State.fresh_focus (s : State) (pa n : Nat) : (s.fresh pa n).gg = s.gg ∧ (s.fresh pa n).tr = s.tr := by
  unfold State.fresh
  split <;> exact ⟨rfl, rfl⟩

/-- A write at a home slice leaves the gang and the troupe in focus. -/
theorem State.writeHome_focus (s : State) (w : Option Nat) (pa n v : Nat) : (s.writeHome w pa n v).gg = s.gg ∧ (s.writeHome w pa n v).tr = s.tr := by
  obtain ⟨hgg, htr⟩ := s.applyHeld_focus 0 pa n
  obtain ⟨hgg', htr'⟩ := (s.applyHeld 0 pa n).fresh_focus pa n
  exact ⟨hgg'.trans hgg, htr'.trans htr⟩

section places
variable {s : State} {r : Req} {pa : Nat} (scope : OrdScope) (nd : BitVec 4) (mt n v : Nat)

theorem State.performAt_scratch (h : r.gang = s.gg.uid) (off : Nat) :
    s.performAt r scope nd (.scratch off) n v = { s with gg := { s.gg with scratch := writeCells s.gg.scratch off n v } } := if_pos h.symm

theorem State.performAt_lost (hb : s.bellAt pa = none) (ha : s.away pa = true) :
    s.performAt r scope nd (.phys pa mt) n v = s.lostWrite r pa := by
  simp only [State.performAt, hb, ha, if_true]

theorem State.performAt_home (hb : s.bellAt pa = none) (ha : s.away pa = false) (hp : s.pointL1 r scope pa mt = false) (hd : r.dom = 0) :
    s.performAt r scope nd (.phys pa mt) n v = s.writeHome (some r.core) pa n v := by
  simp only [State.performAt, hb, ha, hp, hd, ne_eq, not_true_eq_false, false_and, Bool.false_eq_true, if_false]

end places

/-! ### Which entries stand before one -/

/-- An entry lets a later one perform first when it is no acquire ahead of its lanes, none of its own instruction in the same bytes, and
either shares no lane and, for a release, nothing with its path, or is one that a clipped release passes. -/
theorem StoreEntry.precedes_eq_false {x e : StoreEntry} (hacq : Acquires x.mode → x.path &&& e.lanes = 0)
    (hins : x.ins = e.ins → x.loc.meets x.size e.loc e.size = false)
    (hlane : x.lanes &&& e.lanes = 0 ∧ (Releases e.mode → (x.lanes ||| x.seen) &&& e.path = 0) ∨
      Releases e.mode ∧ e.clip = true ∧ x.out = true ∧ x.loc.meets x.size e.loc e.size = false) : x.precedes e = false := by
  have behind : (isAcquire x.mode.order && x.path &&& e.lanes != 0) = false := by
    rw [Bool.and_eq_false_imp, isAcquire_iff, bne_eq_false_iff_eq]
    exact hacq
  have together : (x.ins == e.ins && x.loc.meets x.size e.loc e.size) = false := by
    rw [Bool.and_eq_false_imp, beq_iff_eq]
    exact hins
  have order : ((x.lanes &&& e.lanes != 0 || (isRelease e.mode.order && (x.lanes ||| x.seen) &&& e.path != 0)) &&
      !(isRelease e.mode.order && e.clip && x.out && !x.loc.meets x.size e.loc e.size)) = false := by
    rcases hlane with ⟨hl, hrel⟩ | ⟨hrel, hc, ho, hm⟩
    · have hpath : (isRelease e.mode.order && (x.lanes ||| x.seen) &&& e.path != 0) = false := by
        rw [Bool.and_eq_false_imp, isRelease_iff, bne_eq_false_iff_eq]
        exact hrel
      rw [hl, hpath]
      rfl
    · rw [(isRelease_iff _).2 hrel, hc, ho, hm]
      exact Bool.and_false _
  rw [StoreEntry.precedes, behind, together, order]
  rfl

theorem mayPerform_of {l : List StoreEntry} {n : Nat} {e : StoreEntry} (h : ∀ x ∈ l.take n, x.precedes e = false) : mayPerform l n e = true :=
  List.all_eq_true.2 fun x hx => by rw [h x hx]; rfl

/-- A troupe in focus is performed for where it stands. -/
theorem State.onPath_inFocus {s : State} {g t : Nat} (hg : s.gg.uid = g) (h0 : g ≠ 0) (ht : s.tr.idx = t) (i : SlotId) (f : State → State) :
    s.onPath ⟨g, t, i⟩ f = f { s with sel := i } := by
  have here : s.gg.uid = g ∧ s.tr.idx = t := ⟨hg, ht⟩
  rw [State.onPath_of_isSome (by simp only [State.troupe?, h0, here, and_self, if_true, if_false, Option.isSome_some])]
  exact congrArg f (if_pos here)

/-- Who makes an access does not depend on what the troupe has still to perform. -/
theorem State.req_restream (s : State) (l : List StoreEntry) : ({ s with tr := { s.tr with stream := l } } : State).req = s.req := by
  simp only [State.req, State.reqOf, State.oneCore, State.troupesOf, if_true, List.any_cons]
  rfl

theorem execStorePerform_performs {s : State} {g t n : Nat} {e : StoreEntry} (hg : s.gg.uid = g) (h0 : g ≠ 0) (ht : s.tr.idx = t)
    (hsave : s.gg.save = none) (he : s.tr.stream[n]? = some e) (hmay : mayPerform s.tr.stream n e = true) :
    execStorePerform g t n s =
      .next (({ s with sel := .P, tr := { s.tr with stream := s.tr.stream.eraseIdx n } } : State).performEntry
        ({ s with sel := .P, tr := { s.tr with stream := s.tr.stream.eraseIdx n } } : State).req e) := by
  rw [execStorePerform, State.onPath_inFocus hg h0 ht]
  simp only [he, hsave, hmay, Option.isSome_none, Bool.not_true, Bool.or_self, Bool.false_eq_true, if_false]
  exact congrArg (fun r => Host.Outcome.next (State.performEntry _ r e)) (({ s with sel := .P } : State).req_restream (s.tr.stream.eraseIdx n)).symm

/-- Settles O35: the bytes by the place a store is performed at, the order by what an entry lets pass. -/
theorem storesPerform : Obligations.StoresPerform := by
  refine ⟨fun s r scope nd n v c hs => ⟨fun off hr hwf => ?_, fun pa mt hb ha => State.performAt_lost scope nd mt n v hb ha,
    fun pa mt hb ha hp hd => ?_⟩, fun s g t n e hg h0 ht hsave he hbefore => ?_⟩
  · dsimp only
    rw [State.performAt_scratch scope nd n v hr]
    exact ⟨cellGet_writeCells_digit hwf off n v c, rfl⟩
  · dsimp only
    rw [State.performAt_home scope nd mt n v hb ha hp hd, State.writeHome_mem]
    exact ⟨cellGet_writeCells_digit hs pa n v c, s.writeHome_focus _ pa n v⟩
  · refine execStorePerform_performs hg h0 ht hsave he (mayPerform_of fun x hx => ?_)
    obtain ⟨hacq, hins, hlane⟩ := hbefore x hx
    exact StoreEntry.precedes_eq_false hacq hins hlane

end Sys2Proof.Machine
end

section
/-!
SUPPORT. Caches by number, what they keep of requesters (R276, R280), the sweep of an epoch (R277), held writes entering a view (R503).
-/

namespace Sys2Proof.Machine

/-! ### Records by number -/

/-- A change that keeps the keys changes the record found. -/
theorem findD_map {α : Type} {key : α → Nat} {f : α → α} (hf : ∀ x, key (f x) = key x) {k : Nat} {d : α} (hd : f d = d) (l : List α) :
    findD key k d (l.map f) = f (findD key k d l) := by
  induction l with
  | nil => exact hd.symm
  | cons x r ih =>
    simp only [List.map_cons, findD, hf, ih]
    split <;> rfl

@[simp] theorem State.cache_inst (s : State) (i : Nat) : (s.cache i).inst = i := findD_key CacheInst.inst i { inst := i } rfl s.caches

/-- A cache as it was put, the others as they were. -/
theorem State.cache_setCache (s : State) (c : CacheInst) (k : Nat) : (s.setCache c).cache k = if k = c.inst then c else s.cache k := by
  unfold State.cache State.setCache
  split
  next h => subst h; exact findD_upsert_self _ _ _ _
  next h => exact findD_upsert_other _ _ _ h _

@[simp] theorem CacheInst.reqr_who (c : CacheInst) (name : Nat) : (c.reqr name).who = name := findD_key Requester.who name { who := name } rfl c.reqrs

@[simp] theorem CacheInst.setReqr_inst (c : CacheInst) (r : Requester) : (c.setReqr r).inst = c.inst := rfl

/-- What a cache keeps of a requester as it was put, of the others as it was. -/
theorem CacheInst.reqr_setReqr (c : CacheInst) (r : Requester) (name : Nat) : (c.setReqr r).reqr name = if name = r.who then r else c.reqr name := by
  unfold CacheInst.reqr CacheInst.setReqr
  split
  next h => subst h; exact findD_upsert_self _ _ _ _
  next h => exact findD_upsert_other _ _ _ h _

/-! ### Clocks of lines (R273, R274) -/

theorem execGclkAdvance_ticks {s : State} {g : Nat} {x : Gang} (hg : s.gang? g = some x) (hr : x.nC * x.nT ≤ x.ret) :
    execGclkAdvance g s =
      let t := s.updGang g fun y => { y with ret := y.ret - y.nC * y.nT, gclk := y.gclk + 1 }
      .next (t.setPart { t.part x.part with tacc := (t.part x.part).tacc + 1 }) := by
  simp only [execGclkAdvance, hg, if_neg (Nat.not_lt.2 hr)]

/-! ### Measures and windows (R276, R280) -/

@[simp] theorem Requester.measure_who (r : Requester) (i now epochs : Nat) : (r.measure i now epochs).who = r.who := by
  dsimp only [Requester.measure]
  split <;> rfl

/-- Within 16 ticks of the last measure nothing is measured. -/
theorem Requester.measure_early {r : Requester} {i now : Nat} (h : ticksSince i now r.tick < 16) (epochs : Nat) : r.measure i now epochs = r :=
  if_pos (.inl h)

theorem Requester.measure_due {r : Requester} {i now : Nat} (h : 16 ≤ ticksSince i now r.tick) (hw : r.who < 2 ^ 40) (epochs : Nat) :
    (r.measure i now epochs).j = (if ticksSince i now r.tick < 32 then rateOf (epochs - r.epoch) else -8) ∧ (r.measure i now epochs).epoch = epochs := by
  have hn : ¬ (ticksSince i now r.tick < 16 ∨ 2 ^ 40 ≤ r.who) := by omega
  simp only [Requester.measure, if_neg hn, and_self]

theorem Requester.window_open {r : Requester} (h : r.inserts < 65536) : r.window = r := if_pos h

theorem Requester.window_closed {r : Requester} (h : 65536 ≤ r.inserts) : r.window = { r with
    p := if 32768 < r.expiries then min (r.p + 1) 3 else if 16384 ≤ r.expiries then r.p else r.p - 1, inserts := 0, expiries := 0 } :=
  if_neg (Nat.not_lt.2 h)

/-- The cache after a requester is measured. -/
theorem execRateRemeasure_known {s : State} {inst req : Nat} {r : Requester} (h : (s.cache inst).reqrs.find? (fun x => x.who == req) = some r) :
    ∃ t, execRateRemeasure inst req s = .next t ∧ t.mem = s.mem ∧ t.gg = s.gg ∧
      (t.cache inst).reqr req = r.measure inst (s.clockOf inst req) (s.cache inst).epochs := by
  have hw : r.who = req := beq_iff_eq.1 (List.find?_some h :)
  refine ⟨s.setCache ((s.cache inst).setReqr (r.measure inst (s.clockOf inst req) (s.cache inst).epochs)), ?_, rfl, rfl, ?_⟩
  · simp only [execRateRemeasure, h]
  · rw [State.cache_setCache, if_pos (by rw [CacheInst.setReqr_inst, State.cache_inst]), CacheInst.reqr_setReqr, if_pos (by rw [Requester.measure_who, hw])]

/-! ### The advance of an epoch (R276, R277) -/

/-- Whether the clock reaching `now` finds a line's stamp due. -/
def CLine.isDue (now : Nat) (l : CLine) : Bool := !l.dead && l.stamp == now
/-- A line after the sweep at `now`. -/
def CLine.swept (now : Nat) (l : CLine) : CLine := if l.isDue now then (if l.expired then { l with aged := true } else { l with expired := true }) else l
/-- A cache at its next epoch, its lines swept. -/
def CacheInst.advanced (c : CacheInst) : CacheInst :=
  { c with now := (c.now + 1) % 256, reqs := 0, epochs := c.epochs + 1, lines := c.lines.map (CLine.swept ((c.now + 1) % 256)) }
/-- The tenants' names of the lines that expire at the next epoch of cache `i`, one for each line. -/
def CacheInst.expiring (c : CacheInst) (i : Nat) : List Nat :=
  (c.lines.filter fun l => l.isDue ((c.now + 1) % 256) && !l.expired).map fun l => penaltyName i l.tenant

theorem State.advanceEpoch_eq (s : State) (i : Nat) : s.advanceEpoch i =
    s.setCache ((((s.catchUp i).cache i).expiring i).foldl CacheInst.expire ((s.catchUp i).cache i).advanced) := rfl

/-- Measures and windows that end change what the cache keeps of requesters, and nothing else. -/
theorem State.cache_catchUp (s : State) (i : Nat) : (s.catchUp i).cache i =
    { s.cache i with reqrs := (s.cache i).reqrs.map fun r => (r.measure i (s.clockOf i r.who) (s.cache i).epochs).window } := by
  rw [State.catchUp, State.cache_setCache, if_pos (s.cache_inst i).symm]

/-- Expiries counted change nothing of a cache but its counts. -/
theorem CacheInst.expire_foldl (names : List Nat) (c : CacheInst) :
    names.foldl CacheInst.expire c = { c with reqrs := (names.foldl CacheInst.expire c).reqrs } := by
  induction names generalizing c with
  | nil => rfl
  | cons a r ih => rw [List.foldl_cons, ih]; rfl

/-- An expiry counted is one more for its tenant. -/
theorem CacheInst.expire_expiries (c : CacheInst) (a name : Nat) :
    ((c.expire a).reqr name).expiries = (c.reqr name).expiries + if a = name then 1 else 0 := by
  rw [CacheInst.expire, CacheInst.reqr_setReqr]
  simp only [CacheInst.reqr_who]
  by_cases h : a = name
  · rw [if_pos h.symm, if_pos h, h]
  · rw [if_neg (Ne.symm h), if_neg h, Nat.add_zero]

/-- Each tenant's count grows by the expiries of its own. -/
theorem CacheInst.expiries_foldl (names : List Nat) (c : CacheInst) (name : Nat) :
    ((names.foldl CacheInst.expire c).reqr name).expiries = (c.reqr name).expiries + names.count name := by
  induction names generalizing c with
  | nil => rfl
  | cons a r ih =>
    rw [List.foldl_cons, ih, CacheInst.expire_expiries, List.count_cons, Nat.add_assoc, Nat.add_comm (r.count name)]
    simp only [beq_iff_eq]

theorem CacheInst.count_expiring (c : CacheInst) (i name : Nat) : (c.expiring i).count name =
    (c.lines.filter fun l => l.isDue ((c.now + 1) % 256) && !l.expired && penaltyName i l.tenant == name).length := by
  rw [CacheInst.expiring, List.count_eq_countP, List.countP_map, List.countP_filter, List.countP_eq_length_filter]
  refine congrArg (fun p => (c.lines.filter p).length) (funext fun l => ?_)
  exact Bool.and_comm _ _

/-- A cache after its epoch has advanced: the lines swept, each tenant's expiries counted. -/
theorem State.cache_advanceEpoch (s : State) (i : Nat) :
    ∃ reqrs, (s.advanceEpoch i).cache i = { (s.cache i).advanced with reqrs := reqrs } ∧
      ∀ name, ((s.advanceEpoch i).cache i |>.reqr name).expiries = (((s.catchUp i).cache i).reqr name).expiries +
        ((s.cache i).expiring i).count name := by
  have hcatch := s.cache_catchUp i
  have hexp : ((s.catchUp i).cache i).expiring i = (s.cache i).expiring i := by rw [hcatch]; rfl
  have hat : (s.advanceEpoch i).cache i = ((s.cache i).expiring i).foldl CacheInst.expire ((s.catchUp i).cache i).advanced := by
    have hi : i = (((s.cache i).expiring i).foldl CacheInst.expire ((s.catchUp i).cache i).advanced).inst := by
      rw [CacheInst.expire_foldl]
      exact ((s.catchUp i).cache_inst i).symm
    rw [State.advanceEpoch_eq, hexp, State.cache_setCache, if_pos hi]
  refine ⟨(((s.cache i).expiring i).foldl CacheInst.expire ((s.catchUp i).cache i).advanced).reqrs, hat.trans ?_, fun name => ?_⟩
  · rw [CacheInst.expire_foldl, hcatch]
    rfl
  · rw [hat, CacheInst.expiries_foldl]
    rfl

theorem State.cache_advanceEpoch_other (s : State) {i k : Nat} (h : k ≠ i) : (s.advanceEpoch i).cache k = s.cache k := by
  rw [State.advanceEpoch_eq, State.cache_setCache, if_neg]
  rw [CacheInst.expire_foldl]
  exact fun e => h (e.trans ((s.catchUp i).cache_inst i))

/-! ### Held writes entering a view (R309, R314, R503) -/

theorem execCrossDomainWriteApply_held {s : State} {n : Nat} {h : Held} (hh : s.held[n]? = some h) (dom : Nat) :
    execCrossDomainWriteApply dom n s = .next (s.applyOne dom h.id) := by
  simp only [execCrossDomainWriteApply, hh]

/-- The held writes once a view has applied one. -/
def State.heldAfter (s : State) (dom id : Nat) : List Held :=
  (s.held.map fun x => if x.id = id then { x with views := x.views.filter fun v => v != dom } else x).filter fun x => !x.views.isEmpty

/-- A write waits for one it follows that the view has not applied. -/
theorem State.applyOne_waits {s : State} {dom : Nat} {h x : Held} (hf : s.held.find? (fun x => x.id == h.id) = some h) (hx : x ∈ s.held)
    (hd : h.deps.contains x.id = true) (hv : x.views.contains dom = true) : s.applyOne dom h.id = s := by
  have behind : (s.held.any fun x => h.deps.contains x.id && x.views.contains dom) = true :=
    List.any_eq_true.2 ⟨x, hx, by rw [hd, hv]; rfl⟩
  simp only [State.applyOne, hf, behind, if_true]

theorem State.applyOne_enters {s : State} {dom : Nat} {h : Held} (hf : s.held.find? (fun x => x.id == h.id) = some h)
    (hd : ∀ x ∈ s.held, h.deps.contains x.id = true → x.views.contains dom = false) : s.applyOne dom h.id =
    let t := { s with held := s.heldAfter dom h.id }
    if dom = 0 then t.dropTracked (linesOf h.pa h.n) else t := by
  have behind : (s.held.any fun x => h.deps.contains x.id && x.views.contains dom) = false :=
    List.any_eq_false.2 fun x hx => by simpa using hd x hx
  simp only [State.applyOne, hf, behind, Bool.false_eq_true, if_false]
  rfl

/-- The write that has entered a view is held from it no longer. -/
theorem State.heldAfter_views {s : State} {dom id : Nat} {x : Held} (hx : x ∈ s.heldAfter dom id) (hid : x.id = id) :
    x.views.contains dom = false := by
  obtain ⟨hm, -⟩ := List.mem_filter.1 hx
  obtain ⟨y, -, rfl⟩ := List.mem_map.1 hm
  by_cases h : y.id = id
  · simp [h]
  · simp only [if_neg h] at hid
    exact absurd hid h

/-- Every other write stays held. -/
theorem State.mem_heldAfter_other {s : State} {dom id : Nat} {x : Held} (hx : x ∈ s.held) (hid : x.id ≠ id) (hv : x.views ≠ []) :
    x ∈ s.heldAfter dom id :=
  List.mem_filter.2 ⟨List.mem_map.2 ⟨x, hx, if_neg hid⟩, by simpa using hv⟩

/-- An L1 has lost its tracked copies of some lines, a slice nothing. -/
theorem State.cache_dropTracked (s : State) (lines : List Nat) (k : Nat) : (s.dropTracked lines).cache k =
    if (s.cache k).inst < 128 then { s.cache k with lines := (s.cache k).lines.filter fun l => !l.tracked || !lines.contains l.line }
    else s.cache k :=
  findD_map (key := CacheInst.inst)
    (f := fun c => if c.inst < 128 then { c with lines := c.lines.filter fun l => !l.tracked || !lines.contains l.line } else c)
    (fun c => by split <;> rfl) (by dsimp only; split <;> rfl) s.caches

theorem State.dropTracked_lines {s : State} {lines : List Nat} {k : Nat} (hk : k < 128) {l : CLine} (hl : l ∈ ((s.dropTracked lines).cache k).lines)
    (ht : l.tracked = true) : lines.contains l.line = false := by
  rw [State.cache_dropTracked, State.cache_inst, if_pos hk] at hl
  simpa [ht] using (List.mem_filter.1 hl).2

/-- A view that has every held write sees memory. -/
theorem State.viewByte_applied {s : State} {dom : Nat} (h : ∀ x ∈ s.held, x.views.contains dom = false) (a : Nat) :
    s.viewByte dom a = cellGet s.mem a := by
  have seen : (s.held.findSome? fun x => x.byteAt dom a) = none :=
    List.findSome?_eq_none_iff.2 fun x hx => by simp only [Held.byteAt, h x hx, Bool.false_and, Bool.false_eq_true, if_false]
  rw [State.viewByte, seen]

theorem State.applyOne_held {s : State} {dom : Nat} {h : Held} (hf : s.held.find? (fun x => x.id == h.id) = some h)
    (hd : ∀ x ∈ s.held, h.deps.contains x.id = true → x.views.contains dom = false) :
    (s.applyOne dom h.id).held = s.heldAfter dom h.id := by
  rw [State.applyOne_enters hf hd]
  dsimp only
  split <;> rfl

/-- The DD's view of a write's lines is no longer an L1's tracked copy. -/
theorem State.applyOne_untracked {s : State} {h : Held} (hf : s.held.find? (fun x => x.id == h.id) = some h)
    (hd : ∀ x ∈ s.held, h.deps.contains x.id = true → x.views.contains 0 = false) {k : Nat} (hk : k < 128) {l : CLine}
    (hl : l ∈ ((s.applyOne 0 h.id).cache k).lines) (ht : l.tracked = true) : (linesOf h.pa h.n).contains l.line = false := by
  rw [State.applyOne_enters hf hd] at hl
  exact State.dropTracked_lines hk hl ht

/-- The only held write applied, the view sees memory. -/
theorem State.viewByte_applyOne {s : State} {dom : Nat} {h : Held} (hf : s.held.find? (fun x => x.id == h.id) = some h)
    (hd : ∀ x ∈ s.held, h.deps.contains x.id = true → x.views.contains dom = false) (h1 : s.held = [h]) (a : Nat) :
    (s.applyOne dom h.id).viewByte dom a = cellGet s.mem a := by
  rw [State.viewByte_applied, State.applyOne_mem]
  intro x hx
  rw [State.applyOne_held hf hd] at hx
  refine State.heldAfter_views hx ?_
  obtain ⟨hm, -⟩ := List.mem_filter.1 hx
  rw [h1, List.map_singleton, List.mem_singleton, if_pos rfl] at hm
  rw [hm]

end Sys2Proof.Machine
end

section
/-!
SUPPORT. Lines touched and the room of a missing line (R275, R277 to R279), the rate exponent (R276).
-/

namespace Sys2Proof.Machine

/-! ### Touching (R275, R277) -/

/-- The stamp a touch gives (R275, R277). -/
def State.stampFor (s : State) (i who : Nat) (f : Fill) : Nat :=
  ((s.cache i).now + min 127 (max 1 (scaled (s.ticks i f.part f.nd)
    (if f.seq then 0 else ((s.cache i).reqr who).j + (((s.cache i).reqr (penaltyName i f.part)).p : Int))))) % 256

theorem State.touched_dead (s : State) (i who : Nat) {f : Fill} (h : f.nd = 0) (l : CLine) :
    s.touched i who f l = { l with owner := who, tenant := f.part, expired := false, aged := false, dead := true } := if_pos h

theorem State.touched_stamped (s : State) (i who : Nat) {f : Fill} (h : f.nd ≠ 0) (l : CLine) : s.touched i who f l =
    { l with owner := who, tenant := f.part, expired := false, aged := false, dead := false, stamp := s.stampFor i who f } := if_neg h

/-- A touched line is its requester's and counts as neither expired nor aged; its bytes and what it holds modified stay. -/
theorem State.touched_marks (s : State) (i who : Nat) (f : Fill) (l : CLine) :
    (s.touched i who f l).owner = who ∧ (s.touched i who f l).tenant = f.part ∧ (s.touched i who f l).expired = false ∧
      (s.touched i who f l).aged = false ∧ (s.touched i who f l).dead = decide (f.nd = 0) ∧ (s.touched i who f l).data = l.data ∧
      (s.touched i who f l).dirty = l.dirty := by
  by_cases h : f.nd = 0
  · rw [State.touched_dead s i who h l]
    exact ⟨rfl, rfl, rfl, rfl, (decide_eq_true h).symm, rfl, rfl⟩
  · rw [State.touched_stamped s i who h l]
    exact ⟨rfl, rfl, rfl, rfl, (decide_eq_false h).symm, rfl, rfl⟩

theorem State.ticks_eq (s : State) (i part : Nat) (nd : BitVec 4) :
    s.ticks i part nd = if nd = 15 then 2 ^ s.defnd i part else if nd = 14 then 8192 else 2 ^ (nd.toNat - 1) := by
  have h15 : (nd.toNat = 15) = (nd = 15) := propext (BitVec.toNat_inj (y := 15))
  have h14 : (nd.toNat = 14) = (nd = 14) := propext (BitVec.toNat_inj (y := 14))
  simp only [State.ticks, h15, h14]

/-! ### Which line leaves first (R278) -/

/-- The one of two lines that leaves first, the lower way of a tie. -/
def sooner (now : Nat) (b : Option CLine) (l : CLine) : Option CLine :=
  match b with
  | none => some l
  | some m => if m.leaves now < l.leaves now ∨ (m.leaves now = l.leaves now ∧ l.way < m.way) then some l else some m

/-- Behind a line some line leaves first, it or one that follows, and none of them before that. -/
theorem sooner_foldl (now : Nat) : ∀ (ls : List CLine) (b : CLine), ∃ v, ls.foldl (sooner now) (some b) = some v ∧ v ∈ b :: ls ∧
    ∀ m ∈ b :: ls, m.leaves now ≤ v.leaves now
  | [], b => ⟨b, rfl, by simp, by simp⟩
  | l :: r, b => by
    obtain ⟨c, hc, hmem, hb, hl⟩ : ∃ c, sooner now (some b) l = some c ∧ (c = b ∨ c = l) ∧ b.leaves now ≤ c.leaves now ∧ l.leaves now ≤ c.leaves now := by
      simp only [sooner]
      split
      · exact ⟨l, rfl, .inr rfl, by omega, le_rfl⟩
      · exact ⟨b, rfl, .inl rfl, le_rfl, by omega⟩
    obtain ⟨v, hv, hin, hmax⟩ := sooner_foldl now r c
    rw [List.forall_mem_cons] at hmax
    refine ⟨v, by rw [List.foldl_cons, hc, hv], ?_, ?_⟩
    · simp only [List.mem_cons] at hin ⊢
      rcases hin with rfl | hin
      · exact hmem.imp_right .inl
      · exact .inr (.inr hin)
    · simp only [List.forall_mem_cons]
      exact ⟨hb.trans hmax.1, hl.trans hmax.1, hmax.2⟩

theorem worst_some {now : Nat} {ls : List CLine} {v : CLine} (h : worst now ls = some v) : v ∈ ls ∧ ∀ m ∈ ls, m.leaves now ≤ v.leaves now := by
  cases ls with
  | nil => cases h
  | cons l r =>
    obtain ⟨w, hw, hin, hmax⟩ := sooner_foldl now r l
    obtain rfl : w = v := Option.some.inj (hw.symm.trans h)
    exact ⟨hin, hmax⟩

theorem worst_none {now : Nat} {ls : List CLine} (h : worst now ls = none) : ls = [] := by
  cases ls with
  | nil => rfl
  | cons l r =>
    obtain ⟨w, hw, -⟩ := sooner_foldl now r l
    cases hw.symm.trans h

/-- Dead lines leave first, then aged ones, then expired ones (R278, classes 3 to 5). -/
theorem CLine.leaves_order (a b : CLine) (now : Nat) :
    (a.dead = true → b.dead = false → b.leaves now < a.leaves now) ∧
    (a.dead = false → b.dead = false → a.aged = true → b.aged = false → b.leaves now < a.leaves now) ∧
    (a.dead = false → b.dead = false → a.aged = false → b.aged = false → a.expired = true → b.expired = false → b.leaves now < a.leaves now) := by
  refine ⟨fun ha hb => ?_, fun ha hb ha' hb' => ?_, fun ha hb ha' hb' hx hy => ?_⟩
  · simp only [CLine.leaves, ha, hb, if_true, Bool.false_eq_true, if_false]
    (repeat' split) <;> omega
  · simp only [CLine.leaves, ha, hb, ha', hb', if_true, Bool.false_eq_true, if_false]
    split <;> omega
  · simp only [CLine.leaves, ha, hb, ha', hb', hx, hy, if_true, Bool.false_eq_true, if_false]
    omega

/-! ### Room (R278, R279, R467) -/

/-- The lines of a request's set that stand in cache ways. -/
def State.setLines (s : State) (i : Nat) (f : Fill) : List CLine :=
  (s.cache i).lines.filter fun l => l.line % instSets i == lineOf f.pa % instSets i && (s.usableWays i).contains l.way
/-- Whether a line's owner is at its quota. -/
def State.rich (s : State) (i : Nat) (m : CLine) : Bool := decide (128 ≤ i) && s.aboveQuota i m.owner
/-- Whether a request may take its own lines' room only. -/
def State.ownOnly (s : State) (i : Nat) (f : Fill) : Bool := !f.seq && s.aboveQuota i f.part
/-- The lines a request's victim is chosen of. -/
def State.victims (s : State) (i : Nat) (f : Fill) : List CLine :=
  if s.ownOnly i f then (s.setLines i f).filter fun l => l.owner == f.part
  else if (s.setLines i f).filter (s.rich i) = [] then s.setLines i f else (s.setLines i f).filter (s.rich i)
/-- A way that no line of the request's set holds. -/
def State.freeWay (s : State) (i : Nat) (f : Fill) : Option Nat := (s.usableWays i).find? fun w => !((s.setLines i f).any fun l => l.way == w)

theorem State.room_eq (s : State) (i : Nat) (f : Fill) :
    s.room i f = (s.freeWay i f).elim ((worst (s.cache i).now (s.victims i f)).elim .none .victim) .free := by
  have pick (o : Option CLine) : (match o with
      | some l => Room.victim l
      | none => Room.none) = o.elim .none .victim := by cases o <;> rfl
  change (match s.freeWay i f with
    | some w => Room.free w
    | none => _) = _
  cases s.freeWay i f with
  | some w => rfl
  | none =>
    simp only [Option.elim_none, State.victims]
    change (if s.ownOnly i f = true then _ else _) = _
    split <;> exact pick _

theorem State.freeWay_some {s : State} {i : Nat} {f : Fill} {w : Nat} (h : s.freeWay i f = some w) :
    w ∈ s.usableWays i ∧ ∀ m ∈ s.setLines i f, m.way ≠ w := by
  refine ⟨List.mem_of_find?_eq_some h, fun m hm hw => ?_⟩
  have hnone := List.find?_some h
  rw [Bool.not_eq_true', List.any_eq_false] at hnone
  exact hnone m hm (beq_iff_eq.2 hw)

/-- With no free way every way holds a line of the set. -/
theorem State.freeWay_none {s : State} {i : Nat} {f : Fill} (h : s.freeWay i f = none) : ∀ w ∈ s.usableWays i, ∃ m ∈ s.setLines i f, m.way = w := by
  intro w hw
  have hany := List.find?_eq_none.1 h w hw
  rw [Bool.not_eq_true', Bool.not_eq_false, List.any_eq_true] at hany
  obtain ⟨m, hm, e⟩ := hany
  exact ⟨m, hm, beq_iff_eq.1 e⟩

theorem State.room_free {s : State} {i : Nat} {f : Fill} {w : Nat} (h : s.room i f = .free w) : s.freeWay i f = some w := by
  rw [State.room_eq] at h
  cases hw : s.freeWay i f with
  | some v => rw [hw] at h; cases h; rfl
  | none =>
    rw [hw, Option.elim_none] at h
    cases hv : worst (s.cache i).now (s.victims i f) <;> rw [hv] at h <;> cases h

theorem State.room_victim {s : State} {i : Nat} {f : Fill} {v : CLine} (h : s.room i f = .victim v) :
    s.freeWay i f = none ∧ worst (s.cache i).now (s.victims i f) = some v := by
  rw [State.room_eq] at h
  cases hw : s.freeWay i f with
  | some w => rw [hw] at h; cases h
  | none =>
    rw [hw, Option.elim_none] at h
    cases hv : worst (s.cache i).now (s.victims i f) <;> rw [hv] at h <;> cases h
    exact ⟨rfl, rfl⟩

theorem State.room_none {s : State} {i : Nat} {f : Fill} (h : s.room i f = .none) : s.freeWay i f = none ∧ s.victims i f = [] := by
  rw [State.room_eq] at h
  cases hw : s.freeWay i f with
  | some w => rw [hw] at h; cases h
  | none =>
    rw [hw, Option.elim_none] at h
    cases hv : worst (s.cache i).now (s.victims i f) with
    | some v => rw [hv] at h; cases h
    | none => exact ⟨rfl, worst_none hv⟩

theorem State.ownOnly_iff (s : State) (i : Nat) (f : Fill) : s.ownOnly i f = true ↔ f.seq = false ∧ s.aboveQuota i f.part = true := by
  rw [State.ownOnly, Bool.and_eq_true, Bool.not_eq_true']

theorem State.rich_iff (s : State) (i : Nat) (m : CLine) : s.rich i m = true ↔ 128 ≤ i ∧ s.aboveQuota i m.owner = true := by
  rw [State.rich, Bool.and_eq_true, decide_eq_true_iff]

/-- Of whom a victim is chosen: a requester at its quota gives up a line of its own, another the line of an owner at its quota where there is one. -/
theorem State.mem_victims {s : State} {i : Nat} {f : Fill} {m : CLine} : m ∈ s.victims i f ↔ m ∈ s.setLines i f ∧
    (s.ownOnly i f = true → m.owner = f.part) ∧ (¬ s.ownOnly i f = true → (∃ x ∈ s.setLines i f, s.rich i x = true) → s.rich i m = true) := by
  have someRich : (∃ x ∈ s.setLines i f, s.rich i x = true) ↔ (s.setLines i f).filter (s.rich i) ≠ [] := by
    simp only [ne_eq, List.filter_eq_nil_iff, not_forall, not_not, exists_prop]
  unfold State.victims
  by_cases own : s.ownOnly i f = true
  · simp [own]
  · by_cases poor : (s.setLines i f).filter (s.rich i) = []
    · simp [own, someRich, poor]
    · simp [own, someRich, poor, List.mem_filter]

/-- With no line to choose of, the set is empty, or the requester is at its quota and has no line in it. -/
theorem State.victims_nil {s : State} {i : Nat} {f : Fill} (h : s.victims i f = []) :
    s.setLines i f = [] ∨ s.ownOnly i f = true ∧ ∀ m ∈ s.setLines i f, m.owner ≠ f.part := by
  have out (m : CLine) : m ∉ s.victims i f := by rw [h]; exact List.not_mem_nil
  by_cases own : s.ownOnly i f = true
  · exact .inr ⟨own, fun m hm ho => out m (State.mem_victims.2 ⟨hm, fun _ => ho, absurd own⟩)⟩
  · refine .inl (List.eq_nil_iff_forall_not_mem.2 fun m hm => ?_)
    by_cases rich : ∃ x ∈ s.setLines i f, s.rich i x = true
    · obtain ⟨x, hx, hr⟩ := rich
      exact out x (State.mem_victims.2 ⟨hx, fun h => absurd h own, fun _ _ => hr⟩)
    · exact out m (State.mem_victims.2 ⟨hm, fun h => absurd h own, fun _ h => absurd h rich⟩)

/-- The victim: every way is held, and it leaves first of the lines it is chosen of (R278, R279, R467). -/
theorem State.room_victim_chosen {s : State} {i : Nat} {f : Fill} {v : CLine} (h : s.room i f = .victim v) :
    let now := (s.cache i).now
    (∀ w ∈ s.usableWays i, ∃ m ∈ s.setLines i f, m.way = w) ∧ v ∈ s.setLines i f ∧
    (s.ownOnly i f = true → v.owner = f.part ∧ ∀ m ∈ s.setLines i f, m.owner = f.part → m.leaves now ≤ v.leaves now) ∧
    (¬ s.ownOnly i f = true → (∃ m ∈ s.setLines i f, s.rich i m = true) →
      s.rich i v = true ∧ ∀ m ∈ s.setLines i f, s.rich i m = true → m.leaves now ≤ v.leaves now) ∧
    (¬ s.ownOnly i f = true → (∀ m ∈ s.setLines i f, ¬ s.rich i m = true) → ∀ m ∈ s.setLines i f, m.leaves now ≤ v.leaves now) := by
  obtain ⟨hfull, hworst⟩ := State.room_victim h
  obtain ⟨hv, hmax⟩ := worst_some hworst
  obtain ⟨hset, hown, hrich⟩ := State.mem_victims.1 hv
  refine ⟨State.freeWay_none hfull, hset, fun own => ⟨hown own, fun m hm ho => hmax m (State.mem_victims.2 ⟨hm, fun _ => ho, absurd own⟩)⟩,
    fun own there => ⟨hrich own there, fun m hm hr => hmax m (State.mem_victims.2 ⟨hm, fun h => absurd h own, fun _ _ => hr⟩)⟩,
    fun own poor m hm => hmax m (State.mem_victims.2 ⟨hm, fun h => absurd h own, fun _ there => ?_⟩)⟩
  obtain ⟨x, hx, hr⟩ := there
  exact absurd hr (poor x hx)

/-- No room: there is no cache way, or the requester is at its quota and has no line in the set (R279). -/
theorem State.room_none_why {s : State} {i : Nat} {f : Fill} (h : s.room i f = .none) :
    s.usableWays i = [] ∨ s.ownOnly i f = true ∧ ∀ m ∈ s.setLines i f, m.owner ≠ f.part := by
  obtain ⟨hfull, hv⟩ := State.room_none h
  refine (State.victims_nil hv).imp_left fun empty => List.eq_nil_iff_forall_not_mem.2 fun w hw => ?_
  obtain ⟨m, hm, -⟩ := State.freeWay_none hfull w hw
  rw [empty] at hm
  exact List.not_mem_nil hm

/-! ### The rate exponent (R276) -/

/-- Within its bounds the exponent is the ceiling of the logarithm, less 4. -/
theorem rateOf_inside {d : Nat} {k : Int} (hd : 0 < d) (h : rateOf d = k) (hk : k < 8) : k = (Nat.clog 2 d : Int) - 4 := by
  rw [rateOf, if_neg (by omega)] at h
  omega

theorem rateOf_bounds {d : Nat} {k : Int} (hd : 0 < d) (h : rateOf d = k) (hk : k < 8) :
    (d : Int) ≤ 2 ^ (k + 4).toNat ∧ (-4 < k → 2 ^ (k + 3).toNat < (d : Int)) := by
  have hc := rateOf_inside hd h hk
  refine ⟨?_, fun h4 => ?_⟩
  · rw [show (k + 4).toNat = Nat.clog 2 d by omega]
    exact_mod_cast Nat.le_pow_clog one_lt_two d
  · rw [show (k + 3).toNat = Nat.clog 2 d - 1 by omega]
    have h1 : 1 < d := by
      by_contra hle
      have : Nat.clog 2 d = 0 := Nat.clog_of_right_le_one (by omega) 2
      omega
    exact_mod_cast Nat.pow_pred_clog_lt_self one_lt_two h1

end Sys2Proof.Machine
end

section
/-!
SUPPORT. A line asked for, level by level (R124, R269 to R272, R275, R277, R307, R510, R519), who waits (R287, R466, R515), walks (R303, R453, R454).
-/

namespace Sys2Proof.Machine

/-! ### A line kept (R277, R279) -/

/-- A cache once a request of a requester has been applied. -/
def State.asked (s : State) (i who : Nat) : State := (s.meet i who).applyRequest i

theorem State.insertLine_eq (s : State) (i who : Nat) (f : Fill) (l : CLine) : s.insertLine i who f l =
    (if f.nd = 0 then none else s.makeRoom i f).elim s fun x =>
      let v := x.2.countInsert i f
      v.setCache ((v.cache i).put (v.touched i who f { l with way := x.1 })) := by
  unfold State.insertLine
  split
  · rfl
  · cases s.makeRoom i f <;> rfl

section levels
variable {s : State} {f : Fill}

/-! ### The MSC slice -/

theorem State.fillMsc_hit {l : CLine} (h : ((s.asked (mscSlice f.pa) f.part).cache (mscSlice f.pa)).find (lineOf f.pa) = some l) :
    s.fillMsc f =
      let i := mscSlice f.pa
      let u := s.asked i f.part
      u.setCache ((u.cache i).put (f.mark (u.touched i f.part f l))) := by
  simp only [State.asked] at h ⊢
  simp only [State.fillMsc, h]

theorem State.fillMsc_miss (h : ((s.asked (mscSlice f.pa) f.part).cache (mscSlice f.pa)).find (lineOf f.pa) = none) :
    s.fillMsc f = ((s.asked (mscSlice f.pa) f.part).countFill f).insertLine (mscSlice f.pa) f.part f (f.mark { line := lineOf f.pa, owner := f.part }) := by
  simp only [State.asked] at h ⊢
  simp only [State.fillMsc, h]

/-! ### The L2 slice -/

theorem State.fillL2_pass (hp : f.pass = true) (h : (s.cache (l2Slice f.pa)).find (lineOf f.pa) = none) : s.fillL2 f = s.fillMsc f := by
  simp only [State.fillL2, hp, h, Option.isNone_none, Bool.and_self, if_true]

section notPassed
variable (hp : f.pass = false ∨ (s.cache (l2Slice f.pa)).find (lineOf f.pa) ≠ none)
include hp

/-- What does not go on to the MSC slice at once asks the L2 slice. -/
theorem State.fillL2_asks : (f.pass && ((s.cache (l2Slice f.pa)).find (lineOf f.pa)).isNone) = false := by
  rcases hp with h | h
  · rw [h, Bool.false_and]
  · rw [Option.isNone_eq_false_iff.2 (Option.isSome_iff_ne_none.2 h), Bool.and_false]

theorem State.fillL2_hit {l : CLine} (h : ((s.asked (l2Slice f.pa) f.part).cache (l2Slice f.pa)).find (lineOf f.pa) = some l) :
    s.fillL2 f =
      let i := l2Slice f.pa
      let u := s.asked i f.part
      u.setCache ((u.cache i).put (f.mark (u.touched i f.part f l))) := by
  simp only [State.asked] at h ⊢
  simp only [State.fillL2, State.fillL2_asks hp, Bool.false_eq_true, if_false, h]

/-- A line missed is asked of the MSC slice; a write goes on there when the line is not kept here. -/
theorem State.fillL2_miss (h : ((s.asked (l2Slice f.pa) f.part).cache (l2Slice f.pa)).find (lineOf f.pa) = none) :
    s.fillL2 f =
      let i := l2Slice f.pa
      let u := s.asked i f.part
      (u.fillMsc { f with write := f.write && (decide (f.nd = 0) || decide (u.room i f = .none)) }).insertLine i f.part f
        (f.mark { line := lineOf f.pa, owner := f.part }) := by
  simp only [State.asked] at h ⊢
  simp only [State.fillL2, State.fillL2_asks hp, Bool.false_eq_true, if_false, h]
  rfl

section missed
variable (h : ((s.asked (l2Slice f.pa) f.part).cache (l2Slice f.pa)).find (lineOf f.pa) = none)
include h

theorem State.fillL2_miss_kept (hn : f.nd ≠ 0) (hr : (s.asked (l2Slice f.pa) f.part).room (l2Slice f.pa) f ≠ .none) :
    s.fillL2 f = ((s.asked (l2Slice f.pa) f.part).fillMsc { f with write := false }).insertLine (l2Slice f.pa) f.part f
      (f.mark { line := lineOf f.pa, owner := f.part }) := by
  rw [State.fillL2_miss hp h]
  dsimp only
  rw [decide_eq_false hn, decide_eq_false hr, Bool.or_self, Bool.and_false]

theorem State.fillL2_miss_goesOn (hn : f.nd = 0 ∨ (s.asked (l2Slice f.pa) f.part).room (l2Slice f.pa) f = .none) :
    s.fillL2 f = ((s.asked (l2Slice f.pa) f.part).fillMsc f).insertLine (l2Slice f.pa) f.part f
      (f.mark { line := lineOf f.pa, owner := f.part }) := by
  rw [State.fillL2_miss hp h]
  dsimp only
  rw [← Bool.decide_or, decide_eq_true hn, Bool.and_true]

end missed
end notPassed

/-! ### The RDC slice -/

theorem State.fillRdc_hit {l : CLine} (h : ((s.asked (rdcSlice f.pa) f.part).cache (rdcSlice f.pa)).find (lineOf f.pa) = some l)
    (ht : l.tenant = f.part) : s.fillRdc f =
      let i := rdcSlice f.pa
      let u := s.asked i f.part
      u.setCache ((u.cache i).put (u.touched i f.part f l)) := by
  simp only [State.asked] at h ⊢
  simp only [State.fillRdc, h, if_pos ht]

theorem State.fillRdc_miss (h : ((s.asked (rdcSlice f.pa) f.part).cache (rdcSlice f.pa)).find (lineOf f.pa) = none) :
    s.fillRdc f = ((s.asked (rdcSlice f.pa) f.part).countBytes f.part 0 128).insertLine (rdcSlice f.pa) f.part f
      { line := lineOf f.pa, owner := f.part, data := (s.asked (rdcSlice f.pa) f.part).homeLine (lineOf f.pa) } := by
  simp only [State.asked] at h ⊢
  simp only [State.fillRdc, h]

/-! ### The L1 -/

theorem State.fillBeyond_eq (s : State) (f : Fill) : s.fillBeyond f =
    if s.remote f.pa = false then s.fillL2 f else if f.write = true then s.countBytes f.part 0 128 else s.fillRdc f := by
  unfold State.fillBeyond
  cases s.remote f.pa <;> rfl

section resident
variable {g : Gang} (hg : s.gang? f.gang = some g)
include hg

theorem State.fillL1_hit {l : CLine} (h : ((s.asked f.core f.gang).cache f.core).find (lineOf f.pa) = some l) : s.fillL1 f =
    let i := f.core
    let u := s.asked i f.gang
    let hit := u.setCache ((u.cache i).put (u.touched i f.gang f l))
    let through := f.write && !u.fillPoint f
    if through then hit.fillBeyond f
    else if l.dirty ≠ 0 ∨ l.tracked ∨ u.fillPoint f then hit
    else
      let v := u.fillBeyond { f with write := through }
      v.setCache ((v.cache i).put (v.touched i f.gang f { l with tracked := true, fill := f.scope, data := v.homeLine l.line })) := by
  simp only [State.asked] at h ⊢
  simp only [State.fillL1, hg, Option.isSome_some, if_true, h]
  rfl

theorem State.fillL1_miss (h : ((s.asked f.core f.gang).cache f.core).find (lineOf f.pa) = none) : s.fillL1 f =
    let i := f.core
    let u := s.asked i f.gang
    let through := f.write && !u.fillPoint f
    let v := u.fillBeyond { f with write := through }
    if through then v
    else v.insertLine i f.gang f
      { line := lineOf f.pa, owner := f.gang, tracked := !u.fillPoint f, fill := f.scope, data := v.homeLine (lineOf f.pa) } := by
  simp only [State.asked] at h ⊢
  simp only [State.fillL1, hg, Option.isSome_some, if_true, h]
  rfl

/-- A write that goes on touches a copy and allocates none (R124, R271). -/
theorem State.fillL1_hit_through {l : CLine} (h : ((s.asked f.core f.gang).cache f.core).find (lineOf f.pa) = some l)
    (ht : (f.write && !(s.asked f.core f.gang).fillPoint f) = true) : s.fillL1 f =
    ((s.asked f.core f.gang).setCache (((s.asked f.core f.gang).cache f.core).put ((s.asked f.core f.gang).touched f.core f.gang f l))).fillBeyond f :=
  (State.fillL1_hit hg h).trans (if_pos ht)

theorem State.fillL1_hit_stays {l : CLine} (h : ((s.asked f.core f.gang).cache f.core).find (lineOf f.pa) = some l)
    (ht : (f.write && !(s.asked f.core f.gang).fillPoint f) = false)
    (hit : l.dirty ≠ 0 ∨ l.tracked = true ∨ (s.asked f.core f.gang).fillPoint f = true) : s.fillL1 f =
    (s.asked f.core f.gang).setCache (((s.asked f.core f.gang).cache f.core).put ((s.asked f.core f.gang).touched f.core f.gang f l)) :=
  (State.fillL1_hit hg h).trans ((if_neg (Bool.eq_false_iff.1 ht)).trans (if_pos hit))

/-- An untracked clean copy away from its scope point comes from beyond again (R307). -/
theorem State.fillL1_hit_anew {l : CLine} (h : ((s.asked f.core f.gang).cache f.core).find (lineOf f.pa) = some l)
    (ht : (f.write && !(s.asked f.core f.gang).fillPoint f) = false)
    (hit : ¬ (l.dirty ≠ 0 ∨ l.tracked = true ∨ (s.asked f.core f.gang).fillPoint f = true)) : s.fillL1 f =
    let v := (s.asked f.core f.gang).fillBeyond { f with write := false }
    v.setCache ((v.cache f.core).put (v.touched f.core f.gang f { l with tracked := true, fill := f.scope, data := v.homeLine l.line })) := by
  refine (State.fillL1_hit hg h).trans ((if_neg (Bool.eq_false_iff.1 ht)).trans ((if_neg hit).trans ?_))
  dsimp only
  rw [ht]

theorem State.fillL1_miss_through (h : ((s.asked f.core f.gang).cache f.core).find (lineOf f.pa) = none)
    (ht : (f.write && !(s.asked f.core f.gang).fillPoint f) = true) : s.fillL1 f =
    (s.asked f.core f.gang).fillBeyond { f with write := f.write && !(s.asked f.core f.gang).fillPoint f } :=
  (State.fillL1_miss hg h).trans (if_pos ht)

theorem State.fillL1_miss_kept (h : ((s.asked f.core f.gang).cache f.core).find (lineOf f.pa) = none)
    (ht : (f.write && !(s.asked f.core f.gang).fillPoint f) = false) : s.fillL1 f =
    State.insertLine ((s.asked f.core f.gang).fillBeyond { f with write := f.write && !(s.asked f.core f.gang).fillPoint f }) f.core f.gang f
      { line := lineOf f.pa, owner := f.gang, tracked := !(s.asked f.core f.gang).fillPoint f, fill := f.scope,
        data := ((s.asked f.core f.gang).fillBeyond { f with write := f.write && !(s.asked f.core f.gang).fillPoint f }).homeLine (lineOf f.pa) } :=
  (State.fillL1_miss hg h).trans (if_neg (Bool.eq_false_iff.1 ht))

end resident
end levels

/-! ### Lines that come back (R287, R466, R515) -/

/-- A request served: what no level keeps is counted, the rest is asked of the first level it may fill. -/
theorem State.serve_eq (s : State) (f : Fill) : s.serve f =
    let t := s.repair f
    if f.pad = true then s
    else if f.mt ≠ 0 ∨ paHost f.pa = true then
      (if paHost f.pa = true then t else if t.remote f.pa = true then t.countBytes f.part 0 128
       else (t.countBytes f.part 128 0).countDram f.pa (!f.seq))
    else if f.depth = 1 then t.fillL1 f
    else if t.remote f.pa = true then (if f.write = true then t.countBytes f.part 0 128 else t.fillRdc f)
    else if f.depth = 2 then t.fillL2 f else t.fillMsc f := by
  unfold State.serve
  cases hp : f.pad with
  | true => rfl
  | false =>
    have hu (t : State) : t.countUncached f = (if paHost f.pa = true then t else if t.remote f.pa = true then t.countBytes f.part 0 128
       else (t.countBytes f.part 128 0).countDram f.pa (!f.seq)) := by
      rw [State.countUncached, hp, Bool.false_or]
      rfl
    simp only [Bool.false_eq_true, if_false, hu, State.fillBeyond_eq]
    cases (s.repair f).remote f.pa <;> simp

theorem State.begun_iff (s : State) (n : Nat) (f : Fill) :
    s.begun n f = true ↔ ((s.fills.take n).filter fun g => g.core == f.core).length < 768 := decide_eq_true_iff

theorem execLoadReturn_serves {s : State} {n : Nat} {f : Fill} (hf : s.fills[n]? = some f)
    (hb : ((s.fills.take n).filter fun g => g.core == f.core).length < 768) (hy : s.yields f = false) (ht : s.throttled f = false) :
    execLoadReturn n s = .next ((({ s with fills := s.fills.eraseIdx n } : State).chargeBand f).serve f) := by
  simp only [execLoadReturn, hf, (s.begun_iff n f).2 hb, hy, ht, Bool.not_true, Bool.or_self, Bool.false_eq_true, if_false]

theorem execLoadReturn_waits {s : State} {n : Nat} {f : Fill} (hf : s.fills[n]? = some f)
    (h : 768 ≤ ((s.fills.take n).filter fun g => g.core == f.core).length ∨ s.yields f = true ∨ s.throttled f = true) :
    execLoadReturn n s = .next s := by
  have held : (!s.begun n f || s.yields f || s.throttled f) = true := by
    rcases h with h | h | h
    · rw [Bool.eq_false_iff.2 fun hb => Nat.not_lt.2 h ((s.begun_iff n f).1 hb)]
      rfl
    · rw [h, Bool.or_true, Bool.true_or]
    · rw [h, Bool.or_true]
  simp only [execLoadReturn, hf, held, if_true]

/-- A request of a partition without a share yields to a begun one of a partition with one. -/
theorem State.yields_shareless {s : State} {f g : Fill} {m : Nat} (hm : s.fills[m]? = some g) (hn : s.resource f ≠ none)
    (hr : s.resource g = s.resource f) (hf : f.part < 63) (hg : g.part < 63) (hp : f.part ≠ g.part) (h0 : s.bandShare f.part = 0)
    (hs : s.bandShare g.part ≠ 0) (hb : ((s.fills.take m).filter fun x => x.core == g.core).length < 768) : s.yields f = true := by
  have mem : (g, m) ∈ s.fills.zipIdx := List.mem_zipIdx_iff_getElem?.2 hm
  have goesFirst : (decide (g.part < 63) && g.part != f.part && s.bandShare g.part != 0 && s.begun m g && s.resource g == s.resource f &&
      (s.bandShare f.part == 0 || decide ((s.part g.part).bandTime < (s.part f.part).bandTime))) = true := by
    simp [hg, hp.symm, hs, (s.begun_iff m g).2 hb, hr, h0]
  rw [State.yields, Option.isSome_iff_ne_none.2 hn, decide_eq_true hf, Bool.true_and, Bool.true_and]
  exact List.any_eq_true.2 ⟨_, mem, goesFirst⟩

/-! ### Walks (R303, R453, R454) -/

theorem State.walkBy_leaf {s : State} {core part va : Nat} {sys : Bool} {acc : AccKind} {e : TlbEntry} {l : List Nat}
    (h : walk s (s.entryAt (some (core / 8)) part) part sys va acc = (.inr e, l)) :
    s.walkBy core part sys va acc = (.ok (e.pa + va % 2 ^ e.size) e.mt, (s.walkDone core part l).tlbFill core e) := by
  simp only [State.walkBy, h]

/-- A walk that ends in a fault caches nothing. -/
theorem State.walkBy_fault {s : State} {core part va : Nat} {sys : Bool} {acc : AccKind} {x : Trans} {l : List Nat}
    (h : walk s (s.entryAt (some (core / 8)) part) part sys va acc = (.inl x, l)) :
    (s.walkBy core part sys va acc).1 = x ∧ (s.walkBy core part sys va acc).2.tlbs = s.tlbs ∧ (s.walkBy core part sys va acc).2.wcache = s.wcache := by
  have e : s.walkBy core part sys va acc = (x, s.askReads core part (s.walkReads core part l)) := by simp only [State.walkBy, h]
  rw [e]
  exact ⟨rfl, rfl, rfl⟩

theorem execTranslationWalkComplete_waits {s : State} {n : Nat} {w : Walk} (hw : s.walks[n]? = some w)
    (h : 64 ≤ ((s.walks.take n).filter fun y => y.core == w.core).length) : execTranslationWalkComplete n s = .next s := by
  have full : walkSlots ≤ ((s.walks.take n).filter fun y => y.core == w.core).length := h
  simp only [execTranslationWalkComplete, hw, if_pos full]

/-- A prefetch that asked for a walk is sent where its address translates, and dropped where not (R303). -/
def Walk.send (w : Walk) (s : State) (f : Fill) : State :=
  match s.translate w.core w.part w.sys f.pa .read with
  | (.ok pa mt, s) => { s with fills := s.fills ++ [{ f with pa := pa, mt := mt }] }
  | (_, s) => s

theorem Walk.send_ok {w : Walk} {s v : State} {f : Fill} {pa mt : Nat} (h : s.translate w.core w.part w.sys f.pa .read = (.ok pa mt, v)) :
    w.send s f = { v with fills := v.fills ++ [{ f with pa := pa, mt := mt }] } := by
  simp only [Walk.send, h]

/-- A walk of a core's slots ends: its paths go on, then its prefetches. -/
theorem execTranslationWalkComplete_ends {s : State} {n : Nat} {w : Walk} (hw : s.walks[n]? = some w)
    (h : ((s.walks.take n).filter fun y => y.core == w.core).length < 64) : execTranslationWalkComplete n s =
    let u := (({ s with walks := s.walks.eraseIdx n } : State).walkBy w.core w.part w.sys w.va w.acc).2
    .next (w.fills.foldl w.send
      (w.who.foldl (fun u p => u.updTroupe p.gang p.troupe fun t => t.setSlot p.slot ((t.slot p.slot).walkDone w.va u.cycle)) u)) := by
  have begun : ¬ walkSlots ≤ ((s.walks.take n).filter fun y => y.core == w.core).length := Nat.not_le.2 h
  simp only [execTranslationWalkComplete, hw, if_neg begun]
  rfl

end Sys2Proof.Machine
end

section
/-!
O53: clocks, epochs, rates and penalties (R273, R274, R276, R277, R280), lines touched and their room (R275 to R279), the levels (R269 to R272), lines
that come back and walks that end (R287, R303, R453, R454, R466, R515), held writes (R503).
-/

namespace Sys2Proof.Machine

/-- Settles O53: the sweep and the counts of an epoch, the line that leaves first, each level by whether it holds the line, what a line that comes back
and a walk that ends do. -/
theorem memoryLevelEvents : Obligations.MemoryLevelEvents := by
  refine ⟨fun s g part inst req dom n => ?_, fun s i who f l => ?_, fun s f => ?_, fun d k hd h _ hk => rateOf_bounds hd h hk, fun s n => ?_⟩
  · refine ⟨fun x => execGclkAdvance_ticks, fun h => congrArg Host.Outcome.next (if_pos h), fun h => congrArg Host.Outcome.next (if_pos h),
      fun r hr hreq => ?_, ⟨rfl, Requester.window_open, fun h => ?_⟩, ?_, fun h hh => ?_, fun h hf =>
      ⟨fun x hx hd hv => State.applyOne_waits hf hx hd hv, fun hd => ⟨s.applyOne_mem dom h.id, fun x hx hid => ?_, fun x hx hid hv => ?_, ?_,
        State.viewByte_applyOne hf hd⟩⟩⟩
    · obtain ⟨t, ht, hmem, hgg, hreqr⟩ := execRateRemeasure_known hr
      have hw : r.who = req := beq_iff_eq.1 (List.find?_some hr :)
      refine ⟨fun early => ⟨t, ht, ?_⟩, fun due => ⟨t, ht, hmem, hgg, ?_⟩⟩
      · rw [hreqr, Requester.measure_early early]
      · rw [hreqr]
        exact Requester.measure_due due (hw ▸ hreq) _
    · rw [Requester.window_closed h]
      exact ⟨rfl, rfl, rfl⟩
    · obtain ⟨reqrs, hat, hcount⟩ := s.cache_advanceEpoch inst
      refine ⟨congrArg CacheInst.now hat, congrArg CacheInst.reqs hat, congrArg CacheInst.epochs hat, congrArg CacheInst.lines hat,
        fun k hk => s.cache_advanceEpoch_other hk, rfl, fun name => ?_⟩
      rw [hcount, CacheInst.count_expiring]
      rfl
    · exact execCrossDomainWriteApply_held hh dom
    · rw [State.applyOne_held hf hd] at hx
      exact State.heldAfter_views hx hid
    · rw [State.applyOne_held hf hd]
      exact State.mem_heldAfter_other hx hid hv
    · rintro rfl k hk l hl ht
      exact State.applyOne_untracked hf hd hk hl ht
  · refine ⟨s.touched_marks i who f l, fun h => ?_, ⟨fun w h => State.freeWay_some (State.room_free h), fun v h => ?_, fun h => ?_⟩, CLine.leaves_order⟩
    · rw [State.touched_stamped s i who h l]
      dsimp only [State.stampFor]
      rw [State.ticks_eq]
    · have chosen := State.room_victim_chosen h
      simp only [State.ownOnly_iff, State.rich_iff] at chosen
      exact chosen
    · have why := State.room_none_why h
      rw [State.ownOnly_iff] at why
      exact why
  · intro keep L
    have hkeep (t : State) (i who : Nat) (l : CLine) : t.insertLine i who f l = keep t i who l := by
      rw [State.insertLine_eq]
      dsimp only [keep]
      cases (if f.nd = 0 then none else t.makeRoom i f) <;> rfl
    refine ⟨⟨fun l h => State.fillMsc_hit h, fun h => (State.fillMsc_miss h).trans (hkeep _ _ _ _)⟩,
      ⟨State.fillL2_pass, fun hp => ⟨fun l h => State.fillL2_hit hp h,
        fun h hn hr => (State.fillL2_miss_kept hp h hn hr).trans (hkeep _ _ _ _),
        fun h hn => (State.fillL2_miss_goesOn hp h hn).trans (hkeep _ _ _ _)⟩⟩,
      ⟨fun l h ht => State.fillRdc_hit h ht, fun h => (State.fillRdc_miss h).trans (hkeep _ _ _ _)⟩,
      fun g hg => ⟨fun l h => ⟨fun ht => (State.fillL1_hit_through hg h ht).trans (State.fillBeyond_eq _ _), State.fillL1_hit_stays hg h,
        fun ht hd hk hp => ?_⟩, fun h => ⟨fun ht => (State.fillL1_miss_through hg h ht).trans (State.fillBeyond_eq _ _), fun ht => ?_⟩⟩⟩
    · have away : ¬ (l.dirty ≠ 0 ∨ l.tracked = true ∨ (s.asked f.core f.gang).fillPoint f = true) := by
        rintro (h | h | h)
        · exact h hd
        · exact Bool.eq_false_iff.1 hk h
        · exact Bool.eq_false_iff.1 hp h
      rw [State.fillL1_hit_anew hg h ht away, State.fillBeyond_eq]
      rfl
    · rw [State.fillL1_miss_kept hg h ht, hkeep, State.fillBeyond_eq]
      rfl
  · refine ⟨fun f hf hb hy ht => ?_, fun f hf h => execLoadReturn_waits hf h, fun f g m _ hm hn hr hf hg hp h0 hs hb =>
      State.yields_shareless hm hn hr hf hg hp h0 hs hb, fun w hw h => execTranslationWalkComplete_waits hw h, fun w hw h hfills => ?_,
      fun w f pa mt v hw h hwho hfills htr => ?_, fun core part sys va acc e l h => ⟨State.walkBy_leaf h, fun x hx => State.walkBy_fault hx⟩⟩
    · exact (execLoadReturn_serves hf hb hy ht).trans (congrArg _ (State.serve_eq _ f))
    · refine (execTranslationWalkComplete_ends hw h).trans ?_
      rw [hfills]
      rfl
    · refine (execTranslationWalkComplete_ends hw h).trans ?_
      rw [hfills, hwho]
      exact congrArg _ (Walk.send_ok htr)

end Sys2Proof.Machine
end

section
/-!
O48: bit-sliced arithmetic, as one lane sees it (R416).
-/

namespace Sys2Proof.Machine

/-- The bit of a row in a lane. -/
def laneBit (e x : Nat) : Nat := if x.testBit e then 1 else 0
/-- The number a group of rows holds in a lane, its lowest row first (R416). -/
def laneNum (e : Nat) (l : List Nat) : Nat := l.foldr (fun x n => laneBit e x + 2 * n) 0

@[simp] theorem laneNum_cons (e x : Nat) (l : List Nat) : laneNum e (x :: l) = laneBit e x + 2 * laneNum e l := rfl
@[simp] theorem laneBit_zero (e : Nat) : laneBit e 0 = 0 := by simp [laneBit]
theorem laneNum_replicate_zero (e n : Nat) : laneNum e (List.replicate n 0) = 0 := by
  induction n with
  | zero => rfl
  | succ n ih => rw [List.replicate_succ, laneNum_cons, laneBit_zero, ih]

/-- One full adder: the sum row and the carry row of three rows. -/
theorem laneBit_fullAdder (e a b c : Nat) :
    laneBit e (a ^^^ b ^^^ c) + 2 * laneBit e ((a &&& b) ||| (c &&& (a ^^^ b))) = laneBit e a + laneBit e b + laneBit e c := by
  simp only [laneBit, Nat.testBit_xor, Nat.testBit_or, Nat.testBit_and]
  cases a.testBit e <;> cases b.testBit e <;> cases c.testBit e <;> rfl

theorem length_addRows {as bs : List Nat} (c : Nat) (h : as.length = bs.length) : (addRows as bs c).length = as.length := by
  induction as, bs, c using addRows.induct with
  | case1 a as b bs c ih => simp only [addRows, List.length_cons, ih (Nat.succ.inj h)]
  | case2 as bs c hne =>
    cases as with
    | nil => rfl
    | cons a as =>
      cases bs with
      | nil => cases h
      | cons b bs => exact absurd rfl (hne a as b bs rfl)

/-- The sum of two groups and a carry, modulo 2 to the width. -/
theorem laneNum_addRows (e : Nat) {as bs : List Nat} (c : Nat) (h : as.length = bs.length) :
    laneNum e (addRows as bs c) = (laneNum e as + laneNum e bs + laneBit e c) % 2 ^ as.length := by
  induction as generalizing bs c with
  | nil => exact (Nat.mod_one _).symm
  | cons a as ih =>
    cases bs with
    | nil => cases h
    | cons b bs =>
      have hadd := laneBit_fullAdder e a b c
      have hlow : laneBit e (a ^^^ b ^^^ c) < 2 := by unfold laneBit; split <;> omega
      rw [addRows, laneNum_cons, ih _ (Nat.succ.inj h), laneNum_cons, laneNum_cons, List.length_cons, Nat.pow_succ']
      rw [show laneBit e a + 2 * laneNum e as + (laneBit e b + 2 * laneNum e bs) + laneBit e c = laneBit e (a ^^^ b ^^^ c) +
        2 * (laneNum e as + laneNum e bs + laneBit e ((a &&& b) ||| (c &&& (a ^^^ b)))) by omega]
      rw [Nat.mod_mul, Nat.add_mul_mod_self_left, Nat.mod_eq_of_lt hlow, Nat.add_mul_div_left _ _ Nat.two_pos, Nat.div_eq_of_lt hlow, Nat.zero_add]

/-- The order of two groups; below them, the order so far. -/
theorem testBit_lessRows {m e : Nat} (hm : m.testBit e = true) {as bs : List Nat} (l : Nat) (h : as.length = bs.length) :
    (lessRows m as bs l).testBit e = true ↔ laneNum e as < laneNum e bs + laneBit e l := by
  induction as generalizing bs l with
  | nil =>
    obtain rfl := List.length_eq_zero_iff.1 h.symm
    change l.testBit e = true ↔ 0 < 0 + laneBit e l
    unfold laneBit
    cases l.testBit e <;> decide
  | cons a as ih =>
    cases bs with
    | nil => cases h
    | cons b bs =>
      rw [lessRows, ih _ (Nat.succ.inj h), laneNum_cons, laneNum_cons]
      simp only [laneBit, Nat.testBit_xor, Nat.testBit_or, Nat.testBit_and, hm]
      cases a.testBit e <;> cases b.testBit e <;> cases l.testBit e <;> simp <;> omega

/-- A count of one bits: each row adds its bit, modulo 2 to the width. -/
theorem laneNum_foldl_addRows (e w : Nat) (as acc : List Nat) (h : acc.length = w) :
    laneNum e (as.foldl (fun acc a => addRows acc (List.replicate w 0) a) acc) % 2 ^ w = (laneNum e acc + (as.map (laneBit e)).sum) % 2 ^ w := by
  induction as generalizing acc with
  | nil => rfl
  | cons a as ih =>
    have hw : acc.length = (List.replicate w 0).length := h.trans List.length_replicate.symm
    rw [List.foldl_cons, ih _ ((length_addRows a hw).trans h), laneNum_addRows e a hw, laneNum_replicate_zero, h, Nat.add_zero, Nat.mod_add_mod,
      List.map_cons, List.sum_cons, Nat.add_assoc]

theorem laneNum_lt (e : Nat) (l : List Nat) : laneNum e l < 2 ^ l.length := by
  induction l with
  | nil => exact Nat.one_pos
  | cons x l ih =>
    have hx : laneBit e x < 2 := by unfold laneBit; split <;> omega
    rw [laneNum_cons, List.length_cons, Nat.pow_succ']
    omega

theorem length_popRows (w : Nat) (as : List Nat) : (popRows w as).length = w := by
  refine List.foldlRecOn (motive := fun (acc : List Nat) => acc.length = w) as _ List.length_replicate fun acc h a _ => ?_
  rw [length_addRows a (h.trans List.length_replicate.symm), h]

/-- Settles O48: sums by full adders, the order from the lowest bit up, counts row by row. -/
theorem bitSerialArithmetic : Obligations.BitSerialArithmetic := by
  intro as bs c m e hlen hm
  refine ⟨laneNum_addRows e c hlen, testBit_lessRows hm (l := 0) hlen |>.trans (by rw [laneBit_zero]; rfl), ?_⟩
  change laneNum e (popRows as.length as) = _
  rw [← Nat.mod_eq_of_lt ((laneNum_lt e _).trans_eq (by rw [length_popRows])), popRows, laneNum_foldl_addRows e _ _ _ List.length_replicate,
    laneNum_replicate_zero, Nat.zero_add]
  rfl

end Sys2Proof.Machine
end

section
/-!
O41: SHPW and SHPI (R351 to R353). The table a record is put into may be longer than the room its partition has.
-/

namespace Sys2Proof.Machine

/-- A record put into a table whose partition has no room left, though a slot of it is free, gets no handle (R351, R353). -/
theorem putShape_noRoom (r g : Nat) : putShape r 0 [{ gen := g, data := none }] 0 = (0, [{ gen := g, data := none }]) := rfl

/-- Refutes O41 in its last clause: the lowest free slot lies past the room of the table, which the clause leaves unbounded below. -/
theorem not_shapeRecords : ¬ Obligations.ShapeRecords := by
  intro h
  obtain ⟨-, -, -, -, hlow⟩ := h State.reset State.reset 0 0 0
  have hput := hlow [{ gen := 1, data := none }] 0 0 1 (fun k hk => absurd hk (Nat.not_lt_zero k)) rfl
  rw [putShape_noRoom] at hput
  exact absurd (congrArg Prod.fst hput) (by decide)

end Sys2Proof.Machine
end

section
/-!
O37: atomics with and without return, scalar and vector (R285, R291, R294 to R296, R311, R324).
-/

namespace Sys2Proof.Machine

/-! ### The atomic of the lanes given -/

/-- The entry an atomic without return makes for a lane (R295). -/
def State.atomicEntry (v : State) (one : Bool) (z : Nat) (mode : AccMode) (o : AtomicOp) (as : List (Nat × Word64)) (opnd : Nat → Nat × Nat)
    (x : Nat × Loc) : StoreEntry :=
  { lanes := storeLanes v one x.1, lane := storeLane v one x.1, path := v.pmask,
    va := v.heldVa x.1 (((as.find? fun a => a.1 == x.1).map Prod.snd).getD 0), loc := x.2, size := z, data := (opnd x.1).1,
    cmp := (opnd x.1).2, aop := some o, mode := mode }

/-- What an atomic with return does before its first read-modify-write: the release, the earlier accesses, the acquire; and no value bound ahead
at its bytes stands (R24, R285, R311, R313, R324). -/
def State.readyForRmws (v : State) (one : Bool) (mode : AccMode) (ls : List (Nat × Loc)) (z : Nat) : State :=
  let w1 := if mode.order = .release ∨ mode.order = .acqRel then v.releaseFor mode.scope (v.clips mode.scope) else v
  let w2 := w1.drainFor (isRelease mode.order && w1.clips mode.scope) ls z
  let w3 := if mode.order = .acquire ∨ mode.order = .acqRel then w2.acquire w2.pmask mode.scope w2.tr.ins else w2
  ls.foldl (fun t x => (t.forgetAt (storeLanes t one x.1) x.2 z t.tr.ins).noteSent (storeLanes t one x.1) x.2) w3

section atomic
variable {s u : State} {one : Bool} {z : Nat} {mode : AccMode} {o : AtomicOp} {as : List (Nat × Word64)} {ls : List (Nat × Loc)}
  {opnd : Nat → Nat × Nat} (hr : s.resolve one .atomic z as = .ok (ls, u)) (hd : u.dataErr one as ls = none)
include hr hd

/-- An atomic behind ORD acquire waits to issue (R344). -/
theorem State.atomic_waits (ret : Option (State → List (Nat × Nat) → State)) (hu : ¬ Unheld u) :
    s.atomic one z mode o as opnd ret = .wait id := by
  simp only [State.atomic, hr, hd, Bool.not_eq_false _ ▸ hu, if_true]

/-- An atomic without return joins its lanes' store streams (R295). -/
theorem State.atomic_joins (hu : Unheld u) :
    let v := (u.addFills mode true z (ls.map Prod.snd)).noteClip mode.scope
    s.atomic one z mode o as opnd none = .done ((v.enter (ls.map (v.atomicEntry one z mode o as opnd))).countRetire) := by
  have hu' : u.heldBack u.pmask = false := hu
  simp only [State.atomic, hr, hd, hu', Bool.false_eq_true, if_false]
  rfl

/-- An atomic with return makes its read-modify-writes in ascending lane order (R291, R311). -/
theorem State.atomic_returns (put : State → List (Nat × Nat) → State) (hu : Unheld u) :
    let v := (u.addFills mode true z (ls.map Prod.snd)).noteClip mode.scope
    let done := (v.readyForRmws one mode ls z).rmws mode z o opnd ls
    s.atomic one z mode o as opnd (some put) = .done ((put done.2 done.1).countRetire) := by
  have hu' : u.heldBack u.pmask = false := hu
  simp only [State.atomic, hr, hd, hu', Bool.false_eq_true, if_false, isRelease_iff, isAcquire_iff, State.readyForRmws]

/-- An atomic ends as it waits, joins the stream, or returns. -/
theorem State.atomic_ends (ret : Bool) (put : State → List (Nat × Nat) → State) {i : Instr} {t : State} {k : Bound → State → Res}
    (h : Runs (formOf i) t) (hk : k t.att t.bound = s.atomic one z mode o as opnd (if ret = true then some put else none)) :
    let v := (u.addFills mode true z (ls.map Prod.snd)).noteClip mode.scope
    let done := (v.readyForRmws one mode ls z).rmws mode z o opnd ls
    (Unheld u → ret = false → run i t k = .next (((v.enter (ls.map (v.atomicEntry one z mode o as opnd))).countRetire).advanceWord i.word)) ∧
    (Unheld u → ret = true → run i t k = .next ((put done.2 done.1).countRetire.advanceWord i.word)) ∧
    (¬ Unheld u → run i t k = .next t.mustWait) := by
  intro v done
  refine ⟨fun hu hf => ?_, fun hu ht => ?_, fun hu => ?_⟩ <;> rw [run_eq h, hk]
  · rw [if_neg (by rw [hf]; exact Bool.false_ne_true), State.atomic_joins hr hd hu]
    rfl
  · rw [if_pos ht, State.atomic_returns hr hd put hu]
    rfl
  · rw [State.atomic_waits hr hd _ hu]
    rfl

end atomic

/-! ### The two shapes of atomic (R291, R296) -/

theorem State.bound_amolOperands (s : State) (o : AmolOp) (d : VReg) (l : Fin 32) : AmolOp.operands o s.bound d l = AmolOp.operands o s d l := by
  cases o <;> simp only [AmolOp.operands, State.bound_rV, State.bound_groupNat]

/-- What a vector atomic does in the frame of its instruction (R291). -/
def vectorAtomicMeaning (z : Nat) (o : AtomicOp) (opnd : State → Fin 32 → Nat × Nat) (d b : VReg) (sa : SReg) (ret : BitVec 1) (bd : Bound)
    (s : State) : Res :=
  s.atomic false z bd.ord o (s.vectorAddrs sa b 1) (fun l => opnd s (Fin.ofNat 32 l))
    (if ret = 1 then some fun s olds => s.writeLoaded d olds (z / 4) else none)

/-- What a scalar atomic does in the frame of its instruction (R296). -/
def scalarAtomicMeaning (o : AtomicOp) (d a b : SReg) (bd : Bound) (s : State) : Res :=
  s.atomic true 8 bd.ord o [(0, s.rS a)] (fun _ => ((s.rS b).toNat, (s.rS d).toNat))
    (if d = 0 then none else some fun s olds => s.wS d (.ofNat 64 ((olds.map Prod.snd).headD 0)))

theorem vectorAtomic_eq (i : Instr) (z : Nat) (o : AtomicOp) (opnd : State → Fin 32 → Nat × Nat) (d b : VReg) (sa : SReg) (ret : BitVec 1)
    (s : State) : vectorAtomic i z o opnd d b sa ret s = run i s (vectorAtomicMeaning z o opnd d b sa ret) := rfl
theorem scalarAtomic_eq (i : Instr) (o : AtomicOp) (d a b : SReg) (s : State) :
    scalarAtomic i o d a b s = run i s (scalarAtomicMeaning o d a b) := rfl

/-- Binding the attachments leaves a vector atomic's addresses and operands (R39, R288). -/
theorem vectorAtomicMeaning_bound (s : State) (z : Nat) (o : AtomicOp) {opnd : State → Fin 32 → Nat × Nat} (d b : VReg) (sa : SReg)
    (ret : BitVec 1) (ho : ∀ l, opnd s.bound l = opnd s l) :
    vectorAtomicMeaning z o opnd d b sa ret s.att s.bound =
      s.bound.atomic false z s.att.ord o ((lanesOf s.cur.mask).map fun l => (l.val, s.rS sa + (s.rV b l).signExtend 64))
        (fun l => opnd s (Fin.ofNat 32 l)) (if (ret == 1) = true then some fun s olds => s.writeLoaded d olds (z / 4) else none) := by
  simp only [vectorAtomicMeaning, vectorAddrs_bound, ho, beq_iff_eq, BitVec.ofNat_eq_ofNat, BitVec.mul_one]

/-- Binding the attachments leaves a scalar atomic's address and operands (R39, R296). -/
theorem scalarAtomicMeaning_bound (s : State) (o : AtomicOp) (d a b : SReg) :
    scalarAtomicMeaning o d a b s.att s.bound =
      s.bound.atomic true 8 s.att.ord o [(0, s.rS a)] (fun _ => ((s.rS b).toNat, (s.rS d).toNat))
        (if (d != 0) = true then some fun s olds => s.wS d (.ofNat 64 ((olds.map Prod.snd).headD 0)) else none) := by
  simp only [scalarAtomicMeaning, State.bound_rS, bne_iff_ne, ite_not]

/-- Settles O37: the meaning of either shape over the registers as they stood, then how an atomic of its lanes ends. -/
theorem atomics : Obligations.Atomics := by
  intro s u d b e a q oa ol ret i z o one with_ ls opnd put mode as v lanes entry w1 w2 w3 w4 done sOp sPut hi h hr hd
  have hentry : entry = v.atomicEntry one z mode o as opnd := rfl
  have hdone : done = (v.readyForRmws one mode ls z).rmws mode z o opnd ls := rfl
  clear_value entry done
  subst hentry hdone
  simp only [List.mem_cons, Prod.mk.injEq, List.not_mem_nil, or_false] at hi
  rcases hi with ⟨rfl, rfl, rfl, rfl, rfl, rfl, rfl⟩ | ⟨rfl, rfl, rfl, rfl, rfl, rfl, rfl⟩ | ⟨rfl, rfl, rfl, rfl, rfl, rfl, rfl⟩ |
    ⟨rfl, rfl, rfl, rfl, rfl, rfl, rfl⟩ | ⟨rfl, rfl, rfl, rfl, rfl, rfl, rfl⟩ | ⟨rfl, rfl, rfl, rfl, rfl, rfl, rfl⟩
  · dsimp only [exec, execAmoa]
    rw [vectorAtomic_eq]
    exact State.atomic_ends hr hd _ _ h (vectorAtomicMeaning_bound s _ _ d b a ret fun l => congrArg (·, 0) (s.bound_groupNat d l _))
  · dsimp only [exec, execAmol]
    rw [vectorAtomic_eq]
    exact State.atomic_ends hr hd _ _ h (vectorAtomicMeaning_bound s _ _ d b a ret fun l => s.bound_amolOperands ol d l)
  all_goals
    dsimp only [exec, execSamoadd, execSamocas, execSamoswap, execSamomax]
    rw [scalarAtomic_eq]
    exact State.atomic_ends hr hd _ _ h (scalarAtomicMeaning_bound s _ e a q)

end Sys2Proof.Machine
end

section
/-!
O38: WAITC, FENCE, GADDR, CLINE and PF (R297 to R304, R287, R510).
-/

namespace Sys2Proof.Machine

/-! ### The clip counted (R324, R476) -/

theorem State.writeFor_focus (s : State) (part pa n v : Nat) : (s.writeFor part pa n v).gg = s.gg ∧ (s.writeFor part pa n v).tr = s.tr := by
  unfold State.writeFor
  split
  · split <;> exact ⟨rfl, rfl⟩
  · exact s.writeHome_focus none pa n v
theorem State.writeIpa_focus (s : State) (part addr n v : Nat) :
    (s.writeIpa part addr n v).gg = s.gg ∧ (s.writeIpa part addr n v).tr = s.tr := by
  unfold State.writeIpa
  split
  · exact s.writeFor_focus ..
  · exact ⟨rfl, rfl⟩
/-- A clip is counted outside the gang and the troupe. -/
theorem State.noteClip_tr (s : State) (scope : OrdScope) : (s.noteClip scope).tr = s.tr := by
  unfold State.noteClip
  dsimp only
  split
  · unfold State.writeAcct
    dsimp only
    split
    · rfl
    · exact (State.writeIpa_focus ..).2
  · rfl
theorem State.rS_noteClip (s : State) (scope : OrdScope) (r : SReg) : (s.noteClip scope).rS r = s.rS r := by
  unfold State.rS
  rw [State.noteClip_tr]
theorem State.rS_noteClip_bound (s : State) (scope : OrdScope) (r : SReg) : (s.bound.noteClip scope).rS r = s.rS r := by
  rw [State.rS_noteClip, State.bound_rS]

/-! ### WAITC (R297 to R300) -/

theorem isAcquire_eq_decide (o : OrdOrder) : isAcquire o = decide (o = .acquire ∨ o = .acqRel) := by cases o <;> rfl

/-- A condition of R297 over the numbers of the two values. -/
theorem WaitCond.holds_iff (c : WaitCond) (x y : Word64) : WaitCond.holds c x y = true ↔ match c with
    | .eq => x = y
    | .ne => x ≠ y
    | .ge => y.toNat % 2 ^ 63 ≤ x.toNat % 2 ^ 63
    | .gen => y.toNat ≤ x.toNat := by
  cases c <;> simp only [WaitCond.holds, decide_eq_true_eq, beq_iff_eq, bne_iff_ne, BitVec.toNat_setWidth]

section waitc
variable {s u : State} {c : WaitCond} {a b : SReg} {ok : Bool} {l : Loc} (h : Runs (formOf (.waitc c a b)) s)
  (hr : s.bound.waitRead (s.rS a) (s.rS b) c s.att.ord.scope (decide (s.att.ord.order = .acquire ∨ s.att.ord.order = .acqRel)) s.att.ord.nd =
    .ok (ok, l, u))
include h hr

/-- WAITC once its read has resolved: held back, satisfied, or asleep (R298, R344). -/
theorem execWaitc_read : execWaitc c a b s = .next (s.finish (Instr.waitc c a b).word
    (if u.heldBack u.pmask = true then .wait id
     else if ok = true then .done (u.noteClip s.att.ord.scope)
     else .wait fun t => ((t.addFills { nd := s.att.ord.nd, scope := s.att.ord.scope } false 8 [l]).sleepWaitc (s.rS a) (s.rS b) c s.att.ord.scope
       (decide (s.att.ord.order = .acquire ∨ s.att.ord.order = .acqRel)) (Instr.waitc c a b).word l).noteClip s.att.ord.scope)) := by
  unfold execWaitc
  rw [run_eq h]
  simp only [State.bound_rS, isAcquire_eq_decide, hr]
  rfl

theorem execWaitc_goesOn (hok : ok = true) (hu : Unheld u) :
    execWaitc c a b s = .next ((u.noteClip s.att.ord.scope).advanceWord (Instr.waitc c a b).word) := by
  rw [execWaitc_read h hr, if_neg (by rw [show u.heldBack u.pmask = false from hu]; exact Bool.false_ne_true), if_pos hok]
  rfl

theorem execWaitc_sleeps (hok : ok = false) (hu : Unheld u) :
    execWaitc c a b s = .next (((s.addFills { nd := s.att.ord.nd, scope := s.att.ord.scope } false 8 [l]).sleepWaitc (s.rS a) (s.rS b) c
      s.att.ord.scope (decide (s.att.ord.order = .acquire ∨ s.att.ord.order = .acqRel)) (Instr.waitc c a b).word l).noteClip
        s.att.ord.scope).mustWait := by
  rw [execWaitc_read h hr, if_neg (by rw [show u.heldBack u.pmask = false from hu]; exact Bool.false_ne_true),
    if_neg (by rw [hok]; exact Bool.false_ne_true)]
  rfl

theorem execWaitc_waits (hu : ¬ Unheld u) : execWaitc c a b s = .next s.mustWait := by
  rw [execWaitc_read h hr, if_pos (by simpa using hu)]
  rfl

end waitc

/-! ### FENCE and GADDR (R301, R304) -/

theorem execFence_eq {s : State} (h : Runs (formOf .fence) s) :
    let o := s.att.ord
    let r := if o.order = .release ∨ o.order = .acqRel then s.bound.releaseFor o.scope (s.bound.clips o.scope) else s.bound
    let q := if o.order = .acquire ∨ o.order = .acqRel then r.acquire r.pmask o.scope r.tr.ins else r
    execFence s = .next ((q.noteClip o.scope).advanceWord Instr.fence.word) := by
  unfold execFence
  rw [run_eq h]
  simp only [isRelease_iff, isAcquire_iff]
  rfl

theorem execGaddr_flat {s : State} {d a : SReg} {va : Nat} (h : RunsOn (.gaddr d a) s) (hc : s.bound.classify 0 (s.rS a) = .flat va) :
    execGaddr d a s = .next (s.bound.wS d (.ofNat 64 va)).onward :=
  run_done h (by simp only [State.bound_rS, hc]) (by simp [State.pc])

theorem execGaddr_other {s : State} {d a : SReg} (h : Runs (formOf (.gaddr d a)) s) (ht : TrapsNow s)
    (hc : ∀ va, s.bound.classify 0 (s.rS a) ≠ .flat va) :
    execGaddr d a s = .next (s.takeTrap { cause := 3, addr := s.rS a, pc := s.pc.toNat, word := (Instr.gaddr d a).word }) := by
  refine run_trap (e := { cause := 3, addr := s.rS a }) h ht ?_
  simp only [State.bound_rS]
  cases hk : s.bound.classify 0 (s.rS a) with
  | flat va => exact absurd hk (hc va)
  | scratch off => rfl
  | invalid => rfl

/-! ### CLINE (R302) -/

section cline
variable {s : State} {a : SReg} (h : Runs (formOf (.cline a)) s)
include h

theorem execCline_notFlat (hc : ∀ va, (s.bound.noteClip s.att.ord.scope).classify 0 (s.rS a) ≠ .flat va) :
    execCline a s = .next ((s.bound.noteClip s.att.ord.scope).advanceWord (Instr.cline a).word) := by
  unfold execCline
  rw [run_eq h]
  simp only [State.rS_noteClip_bound]
  cases hk : (s.bound.noteClip s.att.ord.scope).classify 0 (s.rS a) with
  | flat va => exact absurd hk (hc va)
  | scratch off => rfl
  | invalid => rfl

variable {va : Nat} (hc : (s.bound.noteClip s.att.ord.scope).classify 0 (s.rS a) = .flat va) (hp : isPricePage s.gg.sys va = false)
  (hg : (s.bound.noteClip s.att.ord.scope).gg = s.gg)
include hc hp hg

/-- CLINE of an address of a memory page is a matter of its translation. -/
theorem execCline_flat : execCline a s = .next (s.finish (Instr.cline a).word
    (match (s.bound.noteClip s.att.ord.scope).place none 0 ((s.bound.noteClip s.att.ord.scope).rS a) .read with
      | .ok (.phys pa _, t) =>
        .done ((match (t.cache t.req.core).find (lineOf pa) with
          | some l => t.writeBack t.req.core l
          | none => t).markDead (lineOf pa))
      | .error (.walk v k) => .stop (.walk v k)
      | _ => .done (s.bound.noteClip s.att.ord.scope))) := by
  unfold execCline
  rw [run_eq h]
  simp only [State.rS_noteClip_bound, hc, hg, hp, Bool.false_eq_true, if_false]
  rfl

theorem execCline_line {pa mt : Nat} {u : State}
    (hl : (s.bound.noteClip s.att.ord.scope).place none 0 ((s.bound.noteClip s.att.ord.scope).rS a) .read = .ok (.phys pa mt, u)) :
    execCline a s = .next (((match (u.cache u.req.core).find (lineOf pa) with
      | some l => u.writeBack u.req.core l
      | none => u).markDead (lineOf pa)).advanceWord (Instr.cline a).word) := by
  rw [execCline_flat h hc hp hg, hl]
  rfl

theorem execCline_walks {v : Nat} {k : AccKind}
    (hl : (s.bound.noteClip s.att.ord.scope).place none 0 ((s.bound.noteClip s.att.ord.scope).rS a) .read = .error (.walk v k)) :
    execCline a s = .next (s.beginWalk v k) := by
  rw [execCline_flat h hc hp hg, hl]
  rfl

end cline

/-! ### PF (R287, R303, R510) -/

/-- The request of a prefetch, its address still to be given. -/
def State.prefetch (c : State) (o : AccMode) : Fill :=
  { core := c.req.core, pa := 0, scope := o.scope, nd := o.nd, gang := c.gg.uid, part := c.gg.part, pass := c.req.dom != 0,
    depth := if c.req.dom ≠ 0 then 2 else pfDepth o.scope }

/-- What a prefetch of a page leaves: the request of a line the TLBs map with read permission, or one on a walk (R303, R454). -/
def State.prefetched (c : State) (o : AccMode) (va : Nat) : State :=
  let same (w : Walk) : Bool := w.isFor c.req.core c.gg.part c.gg.sys va
  let g := { c.prefetch o with pa := va }
  match c.tlbFind c.req.core c.gg.part va with
  | some e =>
    let on : State := { c with fills := c.fills ++ [{ c.prefetch o with pa := e.pa + va % 2 ^ e.size, mt := e.mt }] }
    if e.r = true then on else c
  | none =>
    let on : State := { c with walks := c.walks.map fun (w : Walk) => if same w then { w with fills := w.fills ++ [g] } else w }
    let new : State :=
      { c with walks := c.walks ++ [{ core := c.req.core, part := c.gg.part, sys := c.gg.sys, va := va, acc := .read, fills := [g] }] }
    if c.walks.any same = true then on else new

/-- PF, its clip noted and its retirement counted, is a matter of its page and of the request entries in use (R287, R303). -/
theorem execPf_eq {s : State} {a : SReg} (h : Runs (formOf (.pf a)) s) :
    let c := (s.bound.noteClip s.att.ord.scope).countRetire
    execPf a s = .next ((match c.classify 0 (c.rS a) with
      | .flat va => if isPricePage c.gg.sys va = true ∨ 768 ≤ c.entriesOf c.req.core then c else c.prefetched s.att.ord va
      | _ => c).advanceWord (Instr.pf a).word) := by
  intro c
  have hexec : execPf a s = .next (s.finish (Instr.pf a).word _) := run_eq h _
  rw [hexec]
  refine congrArg (fun r => Host.Outcome.next (s.finish _ r)) (a₂ := .done _) ?_
  dsimp only
  generalize hc : (s.bound.noteClip s.att.ord.scope).countRetire = d
  obtain rfl : c = d := hc
  clear_value c
  cases c.classify 0 (c.rS a) with
  | flat va =>
    by_cases hx : isPricePage c.gg.sys va = true ∨ 768 ≤ c.entriesOf c.req.core
    · simp only [if_pos hx]
      exact if_pos (by rwa [Bool.or_eq_true, decide_eq_true_eq])
    · simp only [if_neg hx]
      refine (if_neg (by rwa [Bool.or_eq_true, decide_eq_true_eq])).trans ?_
      simp only [bne_iff_ne, State.prefetched, State.prefetch]
      cases c.tlbFind c.req.core c.gg.part va with
      | some e => dsimp only; split <;> rfl
      | none => dsimp only; split <;> rfl
  | scratch off => rfl
  | invalid => rfl

/-- Settles O38: WAITC by what its read found, the other four by the class of the address. -/
theorem waitsAndHints : Obligations.WaitsAndHints := by
  refine ⟨fun s u c a b => ⟨fun l hr hu h => execWaitc_goesOn h hr rfl hu, fun l hr hu h => execWaitc_sleeps h hr rfl hu,
    fun ok l hr hu h => execWaitc_waits h hr hu, WaitCond.holds_iff c⟩, fun s d a => ⟨fun h => execFence_eq h.1, fun va hc h => execGaddr_flat h hc,
    fun hc h ht => execGaddr_other h ht hc, fun hc h => execCline_notFlat h hc, fun va pa mt u hc hp hg hl h => execCline_line h hc hp hg hl,
    fun va v k hc hp hg hl h => execCline_walks h hc hp hg hl, fun h => ?_⟩⟩
  intro i c core used depth f
  have hexec : exec i s = _ := execPf_eq h
  refine ⟨fun hor => ?_, fun va hc => ⟨fun hp => ?_, fun hp hused => ⟨fun e he => ?_, fun hn => ?_⟩⟩⟩
  · rw [hexec]
    cases hc : c.classify 0 (c.rS a) with
    | flat va => exact congrArg (fun t : State => Host.Outcome.next (t.advanceWord i.word)) (if_pos (.inr (hor.resolve_left fun hn => hn va hc)))
    | scratch off => rfl
    | invalid => rfl
  all_goals rw [hexec, hc]
  · exact congrArg (fun t : State => Host.Outcome.next (t.advanceWord i.word)) (if_pos (.inl hp))
  all_goals
    refine congrArg (fun t : State => Host.Outcome.next (t.advanceWord i.word))
      ((if_neg (not_or.2 ⟨by rw [hp]; exact Bool.false_ne_true, Nat.not_le.2 hused⟩)).trans ?_)
    unfold State.prefetched
  · rw [he]
    rfl
  · rw [hn]
    rfl

end Sys2Proof.Machine
end

section
/-!
O40: work that joins the open batch, SEAL and WAITB (R322, R335 to R337, R344).
-/

namespace Sys2Proof.Machine

/-! ### The open batch (R335, R344) -/

/-- What of the issuing lanes' earlier accesses performs before a work joins, and what bound ahead no longer stands (R344, rules 1 and 3; log 20). -/
def State.beforeWork (s : State) (kind : WorkKind) (mode : AccMode) : State :=
  let c := if mode.order = .release ∨ mode.order = .acqRel then s.releaseFor mode.scope (s.clips mode.scope)
           else if kind.copies = true then s else s.drain s.pmask
  if mode.order = .acquire ∨ mode.order = .acqRel then c.forget c.pmask c.tr.ins else c

/-- The work an instruction of the path in focus makes, of the batch after the last sealed (R335). -/
def State.newWork (r : State) (kind : WorkKind) (ctr : Nat) (inc : Word32) (mode : AccMode) : Work :=
  { uid := r.nextUid, pc := r.pc, gang := r.gg.uid, troupe := r.tr.idx, batch := r.tr.batch + 1, lanes := r.pmask, core := r.req.core,
    part := r.gg.part, sys := r.gg.sys, ins := r.tr.ins, ctr := ctr, inc := inc, mode := mode, kind := kind }

theorem State.addWork_eq (s : State) (kind : WorkKind) (ctr : Nat) (inc : Word32) (mode : AccMode) :
    let r := s.beforeWork kind mode
    s.addWork kind ctr inc mode = (r.nextUid, { r with works := r.works ++ [r.newWork kind ctr inc mode], nextUid := r.nextUid + 1 }) := by
  simp only [State.addWork, State.beforeWork, isRelease_iff, isAcquire_iff]
  rfl

/-! ### SEAL and WAITB (R336, R337) -/

theorem execSeal_eq {s : State} {d : SReg} (h : RunsOn (.sealB d) s) :
    execSeal d s = .next (({ s.bound with tr := { s.bound.tr with batch := s.tr.batch + 1 } } : State).wS d (s.tr.batch + 1)).onward := by
  refine run_done h (congrArg Res.done ?_) ?_
  · simp only [State.bound_batch]
  · rw [State.pc, State.wS_cur]
    exact s.bound_cur_pc

section waitb
variable {s : State} {a : SReg} (h : Runs (formOf (.waitb a)) s)
include h

/-- WAITB is a matter of the batch's number and of the work it has left. -/
theorem execWaitb_eq : execWaitb a s = .next (s.finish (Instr.waitb a).word
    (if s.tr.batch.toNat < (s.rS a).toNat then .stop (illopAux (s.rS a))
     else if s.bound.unfinished (s.rS a).toNat = true then .stay (s.bound.sleepOn (.waitb (s.rS a) (Instr.waitb a).word))
     else .done (s.bound.endWaitb (s.rS a).toNat))) := by
  unfold execWaitb
  rw [runForm_eq (i := formA 0x64 1 0 a.toNat 0) h]
  simp only [State.bound_rS, State.bound_batch]
  rfl

theorem execWaitb_unsealed (ht : TrapsNow s) (hn : s.tr.batch.toNat < (s.rS a).toNat) :
    execWaitb a s = .next (s.takeTrap { cause := 1, aux := s.rS a, pc := s.pc.toNat, word := (Instr.waitb a).word }) := by
  rw [execWaitb_eq h, if_pos hn]
  exact congrArg _ (State.stopWord_trap ht _ _)
theorem execWaitb_sleeps (hn : (s.rS a).toNat ≤ s.tr.batch.toNat) (hw : s.bound.unfinished (s.rS a).toNat = true) :
    execWaitb a s = .next (s.bound.sleepOn (.waitb (s.rS a) (Instr.waitb a).word)).rests := by
  rw [execWaitb_eq h, if_neg (Nat.not_lt.2 hn), if_pos hw]
  rfl
theorem execWaitb_ends (hn : (s.rS a).toNat ≤ s.tr.batch.toNat) (hw : s.bound.unfinished (s.rS a).toNat = false) :
    execWaitb a s = .next ((s.bound.endWaitb (s.rS a).toNat).advanceWord (Instr.waitb a).word) := by
  rw [execWaitb_eq h, if_neg (Nat.not_lt.2 hn), if_neg (Bool.eq_false_iff.1 hw)]
  rfl

end waitb

/-- Settles O40: what a joining work finds and is, then SEAL, then WAITB by the batch it names. -/
theorem batches : Obligations.Batches := by
  refine ⟨fun s kind ctr inc mode => ?_, fun s d a => ⟨execSeal_eq, execWaitb_unsealed, execWaitb_sleeps, execWaitb_ends⟩⟩
  exact congrArg Prod.snd (s.addWork_eq kind ctr inc mode)

end Sys2Proof.Machine
end

section
/-!
O45: RCEQ, RCEPIN and RCEUNPIN (R405 to R407).
-/

namespace Sys2Proof.Machine

/-! ### Pins that have stood for 10 s (R406) -/

theorem Gang.lapse_pins (g : Gang) (cycle : Nat) : ∀ p ∈ (g.lapse cycle).pins, cycle < p.cycle + 19000000000 := by
  intro p hp
  by_contra hold
  have hmem (h : p ∈ g.pins) : p.region ∈ (g.pins.filter fun p => decide (p.cycle + pinCounts ≤ cycle)).map Pin.region :=
    List.mem_map_of_mem (List.mem_filter.2 ⟨h, decide_eq_true (Nat.not_lt.1 hold)⟩)
  unfold Gang.lapse at hp
  dsimp only at hp
  split at hp
  · rename_i hnone
    exact absurd (hmem hp) (hnone ▸ List.not_mem_nil)
  · obtain ⟨hin, hkept⟩ := List.mem_filter.1 hp
    rw [List.contains_iff_mem.2 (hmem hin)] at hkept
    cases hkept

theorem Gang.lapse_part (g : Gang) (cycle : Nat) : (g.lapse cycle).part = g.part := by
  unfold Gang.lapse
  dsimp only
  split <;> rfl

/-- Lapsing pins leaves the regions' tables. -/
theorem State.regionAt_lapsePins (s : State) (v : Nat) : s.lapsePins.regionAt s.lapsePins.gg.part v = s.regionAt s.gg.part v :=
  congrArg (fun n => s.regionAt n v) (s.gg.lapse_part s.cycle)

/-! ### RCEQ (R405) -/

/-- What is read of a stack (R405): nothing where it holds no tile of the region, else the pin's epoch, and the stack's where there is no pin. -/
theorem State.rceq_stack (s : State) (r : Region) (h : Nat) : s.rceq r (16 + h) =
    if r.homes.contains h = true then
      match (s.gg.pinEpochs 0 r.id).find? fun e => e.2.1 == h with
      | some e => .ofNat 64 (e.2.2 % 2 ^ 48 + 2 ^ 48)
      | none => .ofNat 64 ((s.pile h).epoch % 2 ^ 48)
    else 0 := by
  rw [Nat.add_comm]
  rfl
theorem Gang.pinEpochs_unpinned {g : Gang} {region : Nat} (sel : Nat) (h : (g.pins.any fun p => p.region == region) = false) :
    g.pinEpochs sel region = [] := by
  rw [Gang.pinEpochs, List.find?_eq_none.2 (List.any_eq_false.1 h)]

theorem execRceq_eq {s : State} {d a : SReg} {r : Region} (hv : (s.rS a).toNat < 2 ^ 40)
    (hs : bitsOf (s.rS a).toNat 39 32 ≤ 3 ∨ 16 ≤ bitsOf (s.rS a).toNat 39 32 ∧ bitsOf (s.rS a).toNat 39 32 ≤ 31)
    (hr : s.bound.regionAt s.bound.gg.part ((s.rS a).toNat % 2 ^ 32) = some r) (h : RunsOn (.rceq d a) s) :
    execRceq d a s = .next (s.bound.lapsePins.wS d (s.bound.lapsePins.rceq r (bitsOf (s.rS a).toNat 39 32))).onward := by
  have htop : bitsOf (s.rS a).toNat 63 40 = 0 := by simp only [bitsOf]; omega
  refine run_done h ?_ ?_
  · simp only [State.bound_rS, htop]
    rw [if_neg (by omega), hr]
  · rw [State.pc, State.wS_cur]
    exact s.bound_cur_pc

/-! ### RCEPIN and RCEUNPIN (R406, R407) -/

/-- The gang's pins with one more of the current epochs of a region's stacks (R406). -/
def State.pinned (b : State) (r : Region) : State :=
  { b with gg := { b.gg with pins := b.gg.pins ++ [{ region := r.id, cycle := b.cycle, epochs := r.stacks.map fun h => (h, (b.pile h).epoch) }],
                             lapsed := b.gg.lapsed.filter fun x => x != r.id, refusedPins := b.gg.refusedPins.filter fun x => x != r.id } }

section pins
variable {s : State} {a : SReg} {r : Region} (hv : (s.rS a).toNat < 2 ^ 32) (hr : s.bound.regionAt s.bound.gg.part (s.rS a).toNat = some r)
include hv hr

theorem execRcepin_eq (h : RunsOn (.rcepin a) s) : let b := s.bound.lapsePins
    execRcepin a s = .next (if (b.gg.pins.any fun p => p.region == r.id) = true then b
      else if 8 ≤ b.gg.pins.length then
        { b with gg := { b.gg with refusedPins := if b.gg.refusedPins.contains r.id then b.gg.refusedPins else b.gg.refusedPins ++ [r.id] } }
      else b.pinned r).onward := by
  intro b
  refine run_done h ?_ ?_
  · simp only [State.bound_rS, if_neg (Nat.not_le.2 hv), hr]
    change (if (b.gg.pins.any fun p => p.region == r.id) = true then _ else _) = _
    split
    · rfl
    · split <;> rfl
  · have hb : b.pc = s.pc := s.bound_cur_pc
    split
    · exact hb
    · split <;> exact hb

theorem execRceunpin_eq (h : RunsOn (.rceunpin a) s) : let b := s.bound.lapsePins
    execRceunpin a s = .next ({ b with gg := { b.gg with pins := b.gg.pins.filter fun p => p.region != r.id } } : State).onward := by
  intro b
  refine run_done h ?_ s.bound_cur_pc
  simp only [State.bound_rS, if_neg (Nat.not_le.2 hv), hr]
  rfl

end pins

/-- Settles O45: RCEQ by its selection, RCEPIN by whether the region is pinned and by how many pins there are, RCEUNPIN. -/
theorem calibrationState : Obligations.CalibrationState := by
  intro s d a r b v sel bit pinned
  refine ⟨fun hv hs hr h => execRceq_eq hv hs ((s.bound.regionAt_lapsePins _).symm.trans hr) h, ⟨rfl, rfl, rfl, rfl, fun p hp => ?_, fun h _ => ?_⟩,
    fun hv hr => ?_⟩
  · have hstood := Gang.lapse_pins s.bound.gg s.bound.cycle p hp
    rwa [State.bound_cycle] at hstood
  · refine ⟨fun hno => ?_, fun hin hp => ?_⟩
    · rw [State.rceq_stack, if_neg (Bool.eq_false_iff.1 hno)]
    · rw [State.rceq_stack, if_pos hin, Gang.pinEpochs_unpinned 0 hp]
      rfl
  · have hr' : s.bound.regionAt s.bound.gg.part (s.rS a).toNat = some r := (s.bound.regionAt_lapsePins _).symm.trans hr
    refine ⟨fun h hp => ?_, fun h hp hlen href => ?_, fun h hp hlen => ?_, execRceunpin_eq hv hr'⟩ <;>
      refine (execRcepin_eq hv hr' h).trans (congrArg (fun t : State => Host.Outcome.next t.onward) ?_)
    · exact if_pos hp
    · refine (if_neg (Bool.eq_false_iff.1 hp)).trans ((if_pos hlen).trans ?_)
      rw [if_neg (Bool.eq_false_iff.1 href)]
    · exact (if_neg (Bool.eq_false_iff.1 hp)).trans (if_neg (Nat.not_le.2 hlen))

end Sys2Proof.Machine
end

section
/-!
O46: WAYS, WAYSREL and BSQ (R413 to R415, R417, R418).
-/

namespace Sys2Proof.Machine

/-! ### The partition of the gang in focus, as its stores perform -/

/-- An operation that leaves the partition of the gang in focus leaves it however often it is done. -/
theorem State.foldl_ggPart {α : Type} {f : State → α → State} (hf : ∀ s x, (f s x).gg.part = s.gg.part) (l : List α) (s : State) :
    (l.foldl f s).gg.part = s.gg.part := by
  induction l generalizing s with
  | nil => rfl
  | cons x r ih => exact (ih _).trans (hf s x)

theorem State.writeFlat_ggPart (s : State) (part va n v : Nat) : (s.writeFlat part va n v).gg.part = s.gg.part := by
  unfold State.writeFlat
  split
  · rw [(State.writeFor_focus ..).1]
  · rfl
theorem State.writeStatus_ggPart (s : State) (q : Nat) : (s.writeStatus q).gg.part = s.gg.part := State.writeFlat_ggPart ..
theorem State.raiseMsi_ggPart (s : State) (part vec : Nat) : (s.raiseMsi part vec).gg.part = s.gg.part := by
  unfold State.raiseMsi
  dsimp only
  split <;> rfl
theorem State.tailBell_ggPart (s : State) (q : Nat) (v : Word64) (n : Nat) : (s.tailBell q v n).gg.part = s.gg.part := by
  unfold State.tailBell
  dsimp only
  split
  · rfl
  · split
    · exact State.writeStatus_ggPart ..
    · split
      · split
        · exact (State.raiseMsi_ggPart ..).trans (State.writeStatus_ggPart ..)
        · exact State.writeStatus_ggPart ..
      · exact State.writeStatus_ggPart ..
theorem State.updGang_ggPart (s : State) (uid : Nat) {f : Gang → Gang} (hf : ∀ g, (f g).part = g.part) : (s.updGang uid f).gg.part = s.gg.part := by
  unfold State.updGang
  split
  · exact hf s.gg
  · rfl
theorem State.writeNear_ggPart (s : State) (dom pa n v : Nat) : (s.writeNear dom pa n v).gg.part = s.gg.part := by
  unfold State.writeNear
  dsimp only
  split
  · rw [(State.writeHome_focus ..).1, (State.applyHeld_focus ..).1]
  · rfl
theorem State.performAt_ggPart (s : State) (r : Req) (scope : OrdScope) (nd : BitVec 4) (l : Loc) (n v : Nat) :
    (s.performAt r scope nd l n v).gg.part = s.gg.part := by
  unfold State.performAt
  split
  · exact State.updGang_ggPart s r.gang fun _ => rfl
  · rfl
  · split
    · exact State.tailBell_ggPart ..
    · split
      · rfl
      · split
        · rfl
        · split
          · exact State.writeNear_ggPart ..
          · rw [(State.writeHome_focus ..).1]
theorem State.writeBack_ggPart (s : State) (core : Nat) (l : CLine) : (s.writeBack core l).gg.part = s.gg.part := by
  unfold State.writeBack
  split
  · rfl
  · split
    · rfl
    · exact congrArg Gang.part (State.applyHeld_focus ..).1
theorem State.releaseL1_ggPart (s : State) (core : Nat) (scope : OrdScope) (one : Bool) : (s.releaseL1 core scope one).gg.part = s.gg.part :=
  State.foldl_ggPart (fun s l => s.writeBack_ggPart core l) _ _
theorem State.grantLine_ggPart (s : State) (core line : Nat) : (s.grantLine core line).gg.part = s.gg.part :=
  State.foldl_ggPart (f := fun s (x : Nat × CLine) => s.writeBack x.1 x.2) (fun s x => s.writeBack_ggPart x.1 x.2) _ _
theorem State.beforeAtomic_ggPart (s : State) (r : Req) (scope : OrdScope) (nd : BitVec 4) (l : Loc) :
    (s.beforeAtomic r scope nd l).gg.part = s.gg.part := by
  unfold State.beforeAtomic
  split
  · split
    · rfl
    · dsimp only
      split
      · split
        · exact (State.grantLine_ggPart _ r.core _).trans (State.writeBack_ggPart ..)
        · exact State.writeBack_ggPart ..
      · split
        · exact State.grantLine_ggPart _ r.core _
        · rfl
  · rfl
theorem State.noteSent_gg (s : State) (lanes : BitVec 32) (l : Loc) : (s.noteSent lanes l).gg = s.gg := by
  unfold State.noteSent
  split
  · split <;> rfl
  · rfl
theorem State.performEntry_ggPart (s : State) (r : Req) (e : StoreEntry) : (s.performEntry r e).gg.part = s.gg.part := by
  have hsent : (s.noteSent e.lanes e.loc).gg.part = s.gg.part := congrArg Gang.part (s.noteSent_gg ..)
  have hrel : (if isRelease e.mode.order then (s.noteSent e.lanes e.loc).releaseL1 r.core e.mode.scope r.one
      else s.noteSent e.lanes e.loc).gg.part = s.gg.part := by
    split
    · exact (State.releaseL1_ggPart ..).trans hsent
    · exact hsent
  unfold State.performEntry
  dsimp only
  generalize (if isRelease e.mode.order = true then (s.noteSent e.lanes e.loc).releaseL1 r.core e.mode.scope r.one
      else s.noteSent e.lanes e.loc) = t at hrel ⊢
  have hacq : (if isAcquire e.mode.order = true then t.acquire e.path e.mode.scope t.tr.ins else t).gg.part = s.gg.part := by
    split <;> exact hrel
  split
  · exact (State.performAt_ggPart ..).trans hacq
  · exact (State.performAt_ggPart ..).trans ((State.beforeAtomic_ggPart ..).trans hacq)
/-- Stores that perform leave the partition of the gang in focus. -/
theorem State.drainWhere_ggPart (s : State) (want : StoreEntry → Bool) : (s.drainWhere want).gg.part = s.gg.part :=
  State.foldl_ggPart (f := fun s e => s.performEntry s.req e) (fun s e => s.performEntry_ggPart _ e) _ _
/-- So does a work that joins the open batch with no order of its own (R335, R344). -/
theorem State.addWork_ggPart (s : State) {kind : WorkKind} (hk : kind.copies = false) (ctr : Nat) (inc : Word32) :
    (s.addWork kind ctr inc {}).2.gg.part = s.gg.part := by
  rw [State.addWork_eq]
  change (if kind.copies = true then s else s.drain s.pmask).gg.part = _
  rw [if_neg (by rw [hk]; exact Bool.false_ne_true)]
  exact State.drainWhere_ggPart ..

/-! ### WAYS (R413, R414) -/

section ways
variable {s : State} {d a b : SReg} (h : RunsOn (.ways d a b) s) (hh : (s.rS a).toNat < 256) (hw1 : 1 ≤ bitsOf (s.rS a).toNat 3 0)
  (hw12 : bitsOf (s.rS a).toNat 3 0 ≤ 12) (haff : (s.rS b).toNat < 2 ^ 48)

/-- The stacks WAYS chooses for the path in focus (R414). -/
def State.waysHomes (x : State) (a b : SReg) : List Nat :=
  x.waysStacks x.gg.part (bitsOf (x.rS a).toNat 3 0) (bitsOf (x.rS a).toNat 7 4 + 1)
    (if x.rS b = 0 then none else x.homeOf x.gg.part x.gg.sys (x.rS b).toNat)

/-- The field WAYS grants in a slot on the stacks chosen (R413, R414; log 98). -/
def State.grantField (x : State) (d a b : SReg) (k gen : Nat) : State :=
  let t := x.addWork (.conversion k) 0 0 {}
  let f : FieldSlot := { gen := gen, live := true, held := true, items := [t.1],
                         parts := ((x.waysHomes a b).map fun h => (x.topWays h (bitsOf (x.rS a).toNat 3 0)).map fun y => (h, y)).flatten }
  (t.2.setPart { t.2.myPart with fields := putField t.2.myPart.fields k f }).wS d (.ofNat 64 (handleOf k gen))

include h hh hw1 hw12 haff

/-- WAYS of legal operands is a matter of a free slot and of enough stacks. -/
theorem execWays_eq : execWays d a b s = .next (s.finish (Instr.ways d a b).word (match freeField s.bound.myPart.fields 0 with
    | none => .done (s.bound.wS d 0)
    | some (k, gen) => if (s.bound.waysHomes a b).length < bitsOf (s.rS a).toNat 7 4 + 1 then .done (s.bound.wS d 0)
      else .done (s.bound.grantField d a b k gen))) := by
  unfold execWays
  rw [runForm_eq (i := formA 0x67 1 d.toNat a.toNat b.toNat) h.1]
  simp only [State.bound_rS, if_neg (show ¬ (256 ≤ (s.rS a).toNat ∨ bitsOf (s.rS a).toNat 3 0 = 0 ∨ 12 < bitsOf (s.rS a).toNat 3 0) by omega),
    if_neg (Nat.not_le.2 haff), State.waysHomes, State.grantField]
  rfl

theorem execWays_none (hn : freeField s.bound.myPart.fields 0 = none ∨ (s.bound.waysHomes a b).length < bitsOf (s.rS a).toNat 7 4 + 1) :
    execWays d a b s = .next (s.bound.wS d 0).onward := by
  have hpc : (s.bound.wS d 0).pc = s.pc := by simp [State.pc]
  rw [execWays_eq h hh hw1 hw12 haff]
  split
  · exact congrArg _ (State.advanceWord_eq (hpc ▸ h.2) _)
  next hf =>
    rw [if_pos (hn.resolve_left (by rw [hf]; exact Option.some_ne_none _))]
    exact congrArg _ (State.advanceWord_eq (hpc ▸ h.2) _)

theorem execWays_grants {k gen : Nat} (hf : freeField s.bound.myPart.fields 0 = some (k, gen))
    (hn : bitsOf (s.rS a).toNat 7 4 + 1 ≤ (s.bound.waysHomes a b).length) :
    execWays d a b s = .next ((s.bound.grantField d a b k gen).advanceWord (Instr.ways d a b).word) := by
  rw [execWays_eq h hh hw1 hw12 haff, hf]
  dsimp only
  rw [if_neg (Nat.not_lt.2 hn)]
  rfl

end ways

/-! ### WAYSREL (R415) -/

theorem execWaysrel_eq {s : State} {a : SReg} {k : Nat} {f : FieldSlot} (hh : (s.rS a).toNat < 2 ^ 32)
    (hf : s.bound.myPart.field? (s.rS a).toNat = some (k, f)) (h : Runs (formOf (.waysrel a)) s) :
    let t := s.bound.addWork (.release k) 0 0 {}
    execWaysrel a s = .next ((t.2.updField s.gg.part k fun g =>
      { g with live := false, gen := nextGen g.gen, items := g.items ++ [t.1] }).advanceWord (Instr.waysrel a).word) := by
  intro t
  have hpart : t.2.gg.part = s.gg.part := (State.addWork_ggPart s.bound rfl 0 0).trans (congrArg Gang.part s.bound_gg)
  rw [← hpart]
  unfold execWaysrel
  rw [runForm_eq (i := formA 0x67 2 0 a.toNat 0) h]
  simp only [State.bound_rS, if_neg (Nat.not_le.2 hh), hf]
  rfl

/-! ### BSQ (R417, R418) -/

/-- The words of a job's program (R417). -/
def jobWords (r pr : Nat) : List (BitVec 32) := (List.range (jrLen r)).map fun n => .ofNat 32 (pr / 2 ^ (32 * n))

/-- A job joins the items of its field, its price paid, the stacks of its parts aroused (R417, R418, R516). -/
def State.queueJob (v : State) (k : Nat) (f : FieldSlot) (r pr va : Nat) : State :=
  let basis : PriceBasis := .steps (programSteps (jobWords r pr) 1 false * jrParts r)
  let t := ((((f.parts.drop (jrPart0 r)).take (jrParts r)).map Prod.fst).eraseDups).foldl State.arouse (v.paid (v.prices.price basis))
  let y := t.addWork (.job { field := k, part0 := jrPart0 r, parts := jrParts r, prog := jobWords r pr, status := va + 56 }) (jrCtr r) (jrInc r) {}
  y.2.addItem y.2.gg.part k y.1

section bsq
variable {s u v : State} {a b : SReg} {k r pr : Nat} {f : FieldSlot} (h : Runs (formOf (.bsq a b)) s) (hh : (s.rS a).toNat < 2 ^ 32)
  (hva : (s.rS b).toNat < 2 ^ 48) (hal : (s.rS b).toNat % 64 = 0) (hu : Unheld s.bound) (hr : s.bound.readRecord (s.rS b).toNat 56 = .ok (r, u))
  (hpr : u.readRecord (jrProg r) (4 * jrLen r) = .ok (pr, v)) (hf : v.myPart.field? (s.rS a).toNat = some (k, f))
  (hl : jobLayout r f.parts.length = true)
include h hh hva hal hu hr hpr hf hl

/-- BSQ once its record and its program are read is a matter of the price. -/
theorem execBsq_read : let price := v.prices.price (.steps (programSteps (jobWords r pr) 1 false * jrParts r))
    execBsq a b s = .next (s.finish (Instr.bsq a b).word (if 8192 < price then .stop (priceTrap price)
      else if v.mayPay price then .done (v.queueJob k f r pr (s.rS b).toNat)
      else .wait fun s => s.waitWide (.steps (programSteps (jobWords r pr) 1 false * jrParts r)))) := by
  intro price
  have hissue : v.issueWide (.steps (programSteps (jobWords r pr) 1 false * jrParts r)) (fun w =>
      let w := (((f.parts.drop (jrPart0 r)).take (jrParts r)).map Prod.fst).eraseDups.foldl State.arouse w
      let y := w.addWork (.job { field := k, part0 := jrPart0 r, parts := jrParts r, prog := jobWords r pr, status := (s.rS b).toNat + 56 })
        (jrCtr r) (jrInc r) {}
      .done (y.2.addItem y.2.gg.part k y.1)) =
      if v.mayPay price then .done (v.queueJob k f r pr (s.rS b).toNat)
      else .wait fun s => s.waitWide (.steps (programSteps (jobWords r pr) 1 false * jrParts r)) := by
    split
    next hp => exact State.issueWide_of_mayPay hp _
    next hp => exact State.issueWide_of_not_mayPay hp _
  rw [← hissue]
  unfold execBsq
  rw [runForm_eq (i := formA 0x67 0 0 a.toNat b.toNat) h]
  simp only [State.bound_rS, if_neg (Nat.not_le.2 hh), if_neg (Nat.not_le.2 hva), hal, State.unheld_eq hu, hr, hpr, hf, hl, Bool.not_true,
    Bool.false_eq_true, if_false, ne_eq, not_true_eq_false]
  rfl

theorem execBsq_queues (hp : v.prices.price (.steps (programSteps (jobWords r pr) 1 false * jrParts r)) ≤ 8192)
    (hpay : v.mayPay (v.prices.price (.steps (programSteps (jobWords r pr) 1 false * jrParts r)))) :
    execBsq a b s = .next ((v.queueJob k f r pr (s.rS b).toNat).advanceWord (Instr.bsq a b).word) := by
  rw [execBsq_read h hh hva hal hu hr hpr hf hl, if_neg (Nat.not_lt.2 hp), if_pos hpay]
  rfl

theorem execBsq_dear (hp : 8192 < v.prices.price (.steps (programSteps (jobWords r pr) 1 false * jrParts r))) (ht : TrapsNow s) :
    execBsq a b s = .next (s.takeTrap
      { cause := 6, aux := .ofNat 64 (v.prices.price (.steps (programSteps (jobWords r pr) 1 false * jrParts r)) % 2 ^ 32 + 8192 * 2 ^ 32),
        pc := s.pc.toNat, word := (Instr.bsq a b).word }) := by
  rw [execBsq_read h hh hva hal hu hr hpr hf hl, if_pos hp]
  exact congrArg _ (State.stopWord_trap ht _ _)

end bsq

/-- Settles O46: WAYS by what it can grant, WAYSREL, BSQ by the price of its program's steps. -/
theorem computeWays : Obligations.ComputeWays := by
  intro s d a b x h w n aff homes
  have hhomes : homes = x.waysHomes a b := by simp only [homes, State.waysHomes, x, State.bound_rS]; rfl
  clear_value homes
  subst hhomes
  refine ⟨fun hh hw1 hw12 haff hrun => ⟨execWays_none hrun hh hw1 hw12 haff, fun k gen hf hn => ?_⟩,
    fun k f hh hf hrun => execWaysrel_eq hh hf hrun.1, ?_⟩
  · refine (execWays_grants hrun hh hw1 hw12 haff hf hn).trans ?_
    simp only [State.grantField, x, State.bound_rS]
    rfl
  · intro k f r pr u v va prog price t y hh hva hal hu hr hpr hf hl hrun
    exact ⟨execBsq_queues hrun hh hva hal hu hr hpr hf hl, execBsq_dear hrun hh hva hal hu hr hpr hf hl⟩

end Sys2Proof.Machine
end

section
/-!
O44: the tile passes of a layer instruction (R390, R393, R406). The work of a gang with a pin of the region names the record the pin maps, not the one
that the region's handle names.
-/

namespace Sys2Proof.Machine

open Sys2Proof.Tests

/-- The state of O44's witness, its region loaded anew once: the table names record 1, which sets record 2 aside, and the gang's pin is older than the
mapping of record 1. -/
noncomputable def pinnedLayer : State :=
  let s := layered (layerRecord 0)
  { s with
    regions := [{ aRegion with aside := some 2 }, { aRegion with id := 2 }]
    gg := { s.gg with pins := [{ region := 1, cycle := 0, epochs := [(0, 0)] }] } }

/-- The record of the region as it stands: the one its handle names. -/
def newRegion : Region := { aRegion with aside := some 2 }

/-- The regions that the layer works of a state name first. -/
def firstRegions (s : State) : List Nat :=
  s.works.filterMap fun x =>
    match x.kind with
    | .layer l => some l.reg0
    | _ => none

/-- What O44 states for the instruction, issued at `v`: the price, the work with the state it issues in, and the state after it. -/
def statedPrice (v : State) : Nat :=
  let r := layerRecord 0
  let ps := layerPasses 0 r (min v.tr.rbnd.toNat (lrM r)) newRegion.kb
  v.prices.pass.toNat * ps.length + (layerMacs r newRegion.k + v.prices.mac16.toNat - 1) / v.prices.mac16.toNat
def statedLayer (v : State) : LayerWork × State :=
  let r := layerRecord 0
  let rb := min v.tr.rbnd.toNat (lrM r)
  let ps := layerPasses 0 r rb newRegion.kb
  let w := ((v.paid (statedPrice v)).chargePasses r ps).lapsePins
  ({ fn := 0, record := r, delta := 0, rb := rb, reg0 := newRegion.id, reg1 := newRegion.id, passes := ps,
     adapter := if lrRank r ≠ 0 ∧ ps ≠ [] then none else some [], epochs := w.gg.pinEpochs 0 newRegion.id ++ [] }, w)
noncomputable def statedAfter (v : State) : State :=
  (((statedLayer v).2.joins (.layer (statedLayer v).1) (lrCtr (layerRecord 0)) (lrInc (layerRecord 0)) pinnedLayer.att.ord).noteClip
    pinnedLayer.att.ord.scope).advanceWord (Instr.layer 6 0).word

theorem ok_of_meets {ε α : Type} {x : Except ε α} {p : α → Bool} (h : meets x p = true) : ∃ a, x = .ok a ∧ p a = true := by
  cases x with
  | error e => cases h
  | ok a => exact ⟨a, rfl, h⟩

/-- What the instruction does in that state: its work names record 2 (R389, R390). -/
theorem exec_pinnedLayer : firstRegions (next (exec (.layer 6 0) pinnedLayer)) = [2] := by decide +kernel

theorem runs_pinnedLayer : Runs (formOf (.layer 6 0)) pinnedLayer := by unfold Runs; decide +kernel

theorem rank_layerRecord : lrRank (layerRecord 0) = 0 := by decide +kernel

theorem unheld_pinnedLayer : Unheld pinnedLayer.bound := by decide +kernel

theorem read_pinnedLayer : meets (pinnedLayer.bound.readRecord 0x10000000 128) (fun y => y.1 == layerRecord 0 &&
    meets (y.2.checkCtr (lrCtr (layerRecord 0))) fun v =>
      v.regionAt v.gg.part (lrReg (layerRecord 0) false) == some newRegion && v.regionOpen newRegion &&
      (v.layerRanges 0 (layerRecord 0) 0 32 newRegion.kb).isNone && decide (statedPrice v ≤ 8192) && v.layerRoom &&
      decide (v.mayPay (statedPrice v)) && firstRegions (statedAfter v) == [1]) = true := by decide +kernel

/-- Refutes O44: with the gang's pin the instruction's work names record 2, where the statement has record 1. -/
theorem not_layerPassesIssue : ¬ Obligations.LayerPassesIssue := by
  intro h
  obtain ⟨⟨r, u⟩, hread, hu⟩ := ok_of_meets read_pinnedLayer
  obtain ⟨hr, hu⟩ := (Bool.and_eq_true _ _).mp hu
  rw [show r = layerRecord 0 from eq_of_beq hr] at hread
  obtain ⟨v, hctr, hv⟩ := ok_of_meets hu
  simp only [Bool.and_eq_true, beq_iff_eq, decide_eq_true_eq, Option.isNone_iff_eq_none] at hv
  obtain ⟨⟨⟨⟨⟨⟨hregion, hopen⟩, hranges⟩, hprice⟩, hroom⟩, hpay⟩, hafter⟩ := hv
  have hstated : exec (.layer 6 0) pinnedLayer = .next (statedAfter v) :=
    h pinnedLayer u v (.layer 6 0) 0 6 0 (layerRecord 0) newRegion newRegion (.head _) runs_pinnedLayer (by decide +kernel) (by decide +kernel)
      (by decide +kernel) unheld_pinnedLayer hread (by decide +kernel) hctr hregion rfl (by decide +kernel) (by decide +kernel) hopen hopen hranges
      hprice hroom (fun hrank => absurd rank_layerRecord hrank) hpay
  have hfirst := exec_pinnedLayer
  rw [hstated] at hfirst
  exact absurd (hafter.symm.trans hfirst) (by decide)

end Sys2Proof.Machine
end

section
/-!
O58: the end of a partition (R465, R480). The statement speaks of every state, also of one whose list of partitions holds two records of one number:
the end of the partition clears the first, and its clusters pass to the second (`State.holderFor`).
-/

namespace Sys2Proof.Machine

/-- Partition 0 twice, active both times; its log has no room, and the second record holds every cluster in every slot. -/
def twiceZero : State :=
  { State.reset with parts := [{ id := 0, active := true, logtail := 1 }, { id := 0, active := true, clm := .allOnes 16, tsm := .allOnes 16 }] }

theorem twiceZero_active : (twiceZero.part 0).active = true := by decide

/-- The partition has ended, and holds cluster 0 again (R465). -/
theorem holder_endPartition_twiceZero : ((twiceZero.endPartition 0).cluster 0).holder = some 0 := by decide +kernel

/-- Refutes O58 in its clause on the end of a partition: of two records of partition 0 one is left, which holds its clusters. -/
theorem not_partitionEvents : ¬ Obligations.PartitionEvents := by
  rintro ⟨hcontrol, -⟩
  obtain ⟨-, -, -, -, -, hend⟩ := hcontrol twiceZero 0 0
  obtain ⟨-, -, -, -, -, -, -, hclusters⟩ := hend twiceZero_active (by decide)
  obtain ⟨hholder, -⟩ := hclusters 0 (by decide)
  exact hholder holder_endPartition_twiceZero

end Sys2Proof.Machine
end

section
/-!
O56: probes, epochs, refreshes, activations and the watchdog of a stack; fields, jobs and NEAR regions (R389 to R392, R406, R409, R412 to R421, R511 to
R517, R528, R530).
-/

namespace Sys2Proof.Machine

/-! ### Probes (R389, R409) -/

theorem Stack.tileStopped_eq_false {p : Stack} {tile : Nat} (h : ∀ c ∈ p.rows, rowTile c.row ≠ some tile ∨ c.alertSeq = false) :
    p.tileStopped tile = false := by
  refine List.any_eq_false.2 fun c hc => ?_
  rw [Bool.and_eq_true, beq_iff_eq, not_and, Bool.not_eq_true]
  exact fun hrow => (h c hc).resolve_left fun hne => hne hrow

/-- A tile that is being programmed, or that a pass drives, has no free slot. -/
theorem State.slotFree_eq_false {s : State} {h tile : Nat} (hbusy : (∃ e ∈ (s.pile h).journal, e.tile = tile) ∨ tile ∈ s.passesOn h) :
    s.slotFree h tile = false := by
  have hprogramming : (∃ e ∈ (s.pile h).journal, e.tile = tile) → s.programming h tile = true := fun ⟨e, he, htile⟩ =>
    List.any_eq_true.2 ⟨e, he, beq_iff_eq.2 htile⟩
  unfold State.slotFree
  rcases hbusy with hjournal | hpass
  · simp [hprogramming hjournal]
  · simp [hpass]

theorem rceProbePass_drives {s : State} {h tile : Nat} (hh : h < 16) (hup : (s.pile h).up = true) (hreset : (s.pile h).resetting = none)
    (hslot : s.slotFree h tile = true) (hpasses : (s.passesOn h).length < 1536)
    (hrows : ∀ c ∈ (s.pile h).rows, rowTile c.row ≠ some tile ∨ c.alertSeq = false) :
    exec (Instr.rceProbePass h tile) s = .next ((s.setPile { s.pile h with progress := s.cycle }).countTile h tile) :=
  congrArg Host.Outcome.next (if_pos ⟨hh, hup, by rw [hreset]; rfl, by rw [hslot, decide_eq_true hpasses]; rfl,
    by rw [Stack.tileStopped_eq_false hrows]; rfl⟩)

theorem rceProbePass_waits {s : State} {h tile : Nat} (hbusy : (∃ e ∈ (s.pile h).journal, e.tile = tile) ∨ tile ∈ s.passesOn h) :
    exec (Instr.rceProbePass h tile) s = .next s := by
  refine congrArg Host.Outcome.next (if_neg ?_)
  rintro ⟨-, -, -, hidle, -⟩
  rw [State.slotFree_eq_false hbusy] at hidle
  exact Bool.false_ne_true hidle

/-! ### Epochs and the loads they map (R389, R528, R530) -/

/-- The entries of a stack's journal that program a load's regions. -/
def State.entryOf (s : State) (l : Load) (e : JEntry) : Bool := e.isLoad && (s.loadRegions l).contains e.region

theorem State.mapLoads_pile_other (s : State) {h k : Nat} (hk : k ≠ h) : (s.mapLoads h).pile k = s.pile k := by
  unfold State.mapLoads
  dsimp only
  split
  · rfl
  · exact (State.pile_setPile ..).trans (if_neg (by rwa [State.pile_stack]))

/-- Of its stack the loads' mapping changes the journal and its number alone. -/
theorem State.mapLoads_pile_self (s : State) (h : Nat) : ∃ n j, (s.mapLoads h).pile h = { s.pile h with jseq := n, journal := j } := by
  unfold State.mapLoads
  dsimp only
  split
  · exact ⟨_, _, rfl⟩
  · exact ⟨_, _, (State.pile_setPile ..).trans (if_pos (State.pile_stack ..).symm)⟩

theorem State.mapLoads_of_no_load {s : State} (hloads : s.loads = []) (h : Nat) : s.mapLoads h = s := by
  unfold State.mapLoads
  rw [hloads]
  rfl

/-- A load all of whose entries on the stack are verified is ready there, and leaves no entry behind. -/
theorem State.mapLoads_of_ready {s : State} {h : Nat} {l : Load} (hloads : s.loads = [l]) (hleft : l.left.contains h = true)
    (hready : ∀ e ∈ (s.pile h).journal, s.entryOf l e = true → e.state = .verified) :
    ((s.mapLoads h).pile h).journal = (s.pile h).journal.filter (fun e => !s.entryOf l e) ∧
      (l.left.filter (fun k => k != h) = [] → (s.mapLoads h).loads = [] ∧
        ∀ r ∈ (s.mapLoads h).regions, (s.loadRegions l).contains r.id = true → r.avail = true) := by
  have hall : ((s.pile h).journal.all fun e => !s.entryOf l e || e.state == .verified) = true := by
    refine List.all_eq_true.2 fun e he => ?_
    cases hm : s.entryOf l e with
    | false => rfl
    | true => rw [hready e he hm]; rfl
  have hon : (l.left.contains h && (s.pile h).journal.all fun e => !(e.isLoad && (s.loadRegions l).contains e.region) || e.state == .verified) = true := by
    rw [hleft]
    exact hall
  unfold State.mapLoads
  simp only [hloads, List.any_cons, List.any_nil, Bool.or_false, List.map_cons, List.map_nil, hon, Bool.not_true, Bool.false_eq_true,
    if_false, if_true, Bool.true_and]
  refine ⟨(congrArg Stack.journal (State.pile_setPile s _ h)).trans ?_, fun hnone => ?_⟩
  · rw [if_pos (State.pile_stack s h).symm]
    rfl
  rw [hnone]
  refine ⟨rfl, fun r hr hmine => ?_⟩
  obtain ⟨r', -, rfl⟩ := List.mem_map.1 hr
  split
  · rfl
  next hids =>
    rw [if_neg hids] at hmine
    refine absurd ?_ hids
    simpa [State.loadRegions] using hmine

/-- The new epoch of a stack, before its loads are mapped (R389). -/
def State.inNextEpoch (s : State) (h : Nat) : State :=
  s.setPile { s.pile h with older := s.keptEpochs h, epoch := (s.pile h).epoch + 1, publishedAt := s.cycle }

theorem State.inNextEpoch_pile_self (s : State) (h : Nat) :
    (s.inNextEpoch h).pile h = { s.pile h with older := s.keptEpochs h, epoch := (s.pile h).epoch + 1, publishedAt := s.cycle } :=
  (State.pile_setPile ..).trans (if_pos (State.pile_stack s h).symm)

theorem State.inNextEpoch_pile_other (s : State) {h k : Nat} (hk : k ≠ h) : (s.inNextEpoch h).pile k = s.pile k :=
  (State.pile_setPile ..).trans (if_neg (by rwa [State.pile_stack]))

/-- A publication maps the loads of the stack in its new epoch, then may set ARR (R525). -/
theorem State.publish_eq (s : State) (h : Nat) : s.publish h =
    ((s.inNextEpoch h).mapLoads h).setPile { ((s.inNextEpoch h).mapLoads h).pile h with
      arr := (((s.inNextEpoch h).mapLoads h).pile h).arr || !((((s.inNextEpoch h).mapLoads h).pile h).journal.any JEntry.isLoad) } := rfl

theorem State.publish_pile_self (s : State) (h : Nat) : (s.publish h).pile h = { ((s.inNextEpoch h).mapLoads h).pile h with
    arr := (((s.inNextEpoch h).mapLoads h).pile h).arr || !((((s.inNextEpoch h).mapLoads h).pile h).journal.any JEntry.isLoad) } := by
  rw [State.publish_eq, State.pile_setPile]
  exact if_pos (State.pile_stack _ h).symm

theorem State.publish_pile_other (s : State) {h k : Nat} (hk : k ≠ h) : (s.publish h).pile k = s.pile k := by
  rw [State.publish_eq, State.pile_setPile]
  exact (if_neg (by rwa [State.pile_stack])).trans ((State.mapLoads_pile_other _ hk).trans (s.inNextEpoch_pile_other hk))

theorem State.publish_journal (s : State) (h : Nat) : ((s.publish h).pile h).journal = (((s.inNextEpoch h).mapLoads h).pile h).journal :=
  by rw [s.publish_pile_self]

/-- The epoch published, when, and those kept of before. -/
theorem State.publish_stamp (s : State) (h : Nat) : ((s.publish h).pile h).epoch = (s.pile h).epoch + 1 ∧
    ((s.publish h).pile h).publishedAt = s.cycle ∧ ((s.publish h).pile h).older = s.keptEpochs h := by
  obtain ⟨n, j, hmap⟩ := (s.inNextEpoch h).mapLoads_pile_self h
  rw [s.publish_pile_self h, hmap, s.inNextEpoch_pile_self h]
  exact ⟨rfl, rfl, rfl⟩

theorem State.publish_arr (s : State) (h : Nat) :
    ((s.publish h).pile h).arr = true ↔ (s.pile h).arr = true ∨ ∀ e ∈ ((s.publish h).pile h).journal, e.isLoad = false := by
  obtain ⟨n, j, hmap⟩ := (s.inNextEpoch h).mapLoads_pile_self h
  rw [s.publish_pile_self h, hmap, s.inNextEpoch_pile_self h]
  simp

theorem State.publish_of_no_load {s : State} (hloads : s.loads = []) (h : Nat) :
    ((s.publish h).pile h).journal = (s.pile h).journal ∧ (s.publish h).regions = s.regions := by
  have hmap : (s.inNextEpoch h).mapLoads h = s.inNextEpoch h := State.mapLoads_of_no_load (s := s.inNextEpoch h) hloads h
  refine ⟨?_, ?_⟩
  · rw [s.publish_journal, hmap, s.inNextEpoch_pile_self]
  · rw [s.publish_eq, hmap]
    rfl

/-- With its one load ready, a publication leaves no entry of it; when the load has no other stack left it ends. -/
theorem State.publish_of_ready {s : State} {h : Nat} {l : Load} (hloads : s.loads = [l]) (hleft : l.left.contains h = true)
    (hready : ∀ e ∈ (s.pile h).journal, e.isLoad = true ∧ (s.loadRegions l).contains e.region = true → e.state = .verified) :
    (∀ e ∈ ((s.publish h).pile h).journal, ¬ (e.isLoad = true ∧ (s.loadRegions l).contains e.region = true)) ∧
      ((∀ k ∈ l.left, k = h) → (s.publish h).loads = [] ∧
        ∀ r ∈ (s.publish h).regions, (s.loadRegions l).contains r.id = true → r.avail = true) := by
  have hepoch : ∀ e ∈ ((s.inNextEpoch h).pile h).journal, (s.inNextEpoch h).entryOf l e = true → e.state = .verified := by
    rw [s.inNextEpoch_pile_self]
    exact fun e he hmine => hready e he (Bool.and_eq_true_iff.1 hmine)
  obtain ⟨hjournal, hlast⟩ := State.mapLoads_of_ready (s := s.inNextEpoch h) hloads hleft hepoch
  rw [s.publish_journal, hjournal]
  refine ⟨fun e he hmine => ?_, fun honly => hlast (List.filter_eq_nil_iff.2 fun k hk => by simpa using honly k hk)⟩
  obtain ⟨-, hkept⟩ := List.mem_filter.1 he
  exact absurd (Bool.and_eq_true_iff.2 hmine) (Bool.eq_false_iff.1 ((Bool.not_eq_true' _).mp hkept))

/-! ### The steps of a refresh (R392) -/

@[simp] theorem State.arouse_cycle (s : State) (h : Nat) : (s.arouse h).cycle = s.cycle := by
  unfold State.arouse
  split <;> rfl

/-- With a spare left on the tile's die, its programming is recorded and the tile read back. -/
theorem State.beginRefresh_spare {s : State} {h tile t : Nat} {r : Region} (i : Nat) (havail : r.avail = true)
    (hstopped : (s.pile h).tileStopped tile = false) (hspare : spareOf (s.pile h).gone (tile / tilesPerDie) = some t) :
    s.beginRefresh h r i tile = ((s.arouse h).setPile
      { (s.arouse h).pile h with
        gone := (s.pile h).gone ++ [t], progress := s.cycle,
        journal := ((s.arouse h).pile h).journal ++
          [{ region := r.id, r := i / r.nt, c := i % r.nt, tile := t, isLoad := false, hash := r.tileHash i }] }).countTile h tile := by
  unfold State.beginRefresh
  dsimp only
  rw [havail, hstopped, if_neg (by decide), hspare, State.arouse_cycle]

section refresh
variable {s : State} {h tile i : Nat} {r : Region}

/-- The entry of a stack's journal for a place of a region. -/
def Stack.entryFor (p : Stack) (r : Region) (i : Nat) : Option JEntry := p.journal.find? fun e => e.isOf r i

/-- A step of a programming on a running stack, by the journal's entry for the place. -/
theorem tileRefresh_eq (howner : (s.freeOld h).tileOwner h tile = some (r, i)) (hh : h < 16) (hup : ((s.freeOld h).pile h).up = true)
    (hreset : ((s.freeOld h).pile h).resetting = none) :
    exec (Instr.tileRefresh h tile) s = .next (
      match ((s.freeOld h).pile h).entryFor r i with
      | some e => if e.isLoad && !(s.freeOld h).loading e.region then s.freeOld h else (s.freeOld h).programStep h r i tile e
      | none => if r.due.any fun d => r.tileIndex d.1 d.2 == i then (s.freeOld h).beginRefresh h r i tile else s.freeOld h) := by
  have hruns : ¬ (16 ≤ h ∨ (!((s.freeOld h).pile h).up) = true ∨ ((s.freeOld h).pile h).resetting.isSome = true) := by
    rw [hup, hreset]
    simpa using hh
  change Host.Outcome.next _ = _
  rw [howner]
  exact congrArg Host.Outcome.next (if_neg hruns)

variable (howner : (s.freeOld h).tileOwner h tile = some (r, i)) (hh : h < 16) (hup : ((s.freeOld h).pile h).up = true)
  (hreset : ((s.freeOld h).pile h).resetting = none)
include howner hh hup hreset

theorem tileRefresh_begins {t : Nat} (hentry : ((s.freeOld h).pile h).entryFor r i = none)
    (hdue : (r.due.any fun d => r.tileIndex d.1 d.2 == i) = true) (havail : r.avail = true) (hstopped : ((s.freeOld h).pile h).tileStopped tile = false)
    (hspare : spareOf ((s.freeOld h).pile h).gone (tile / 16896) = some t) :
    exec (Instr.tileRefresh h tile) s = .next ((((s.freeOld h).arouse h).setPile
      { ((s.freeOld h).arouse h).pile h with
        gone := ((s.freeOld h).pile h).gone ++ [t], progress := (s.freeOld h).cycle,
        journal := (((s.freeOld h).arouse h).pile h).journal ++
          [{ region := r.id, r := i / r.nt, c := i % r.nt, tile := t, isLoad := false, hash := r.tileHash i }] }).countTile h tile) := by
  rw [tileRefresh_eq howner hh hup hreset, hentry]
  exact congrArg Host.Outcome.next ((if_pos hdue).trans (State.beginRefresh_spare i havail hstopped hspare))

theorem tileRefresh_idle (hentry : ((s.freeOld h).pile h).entryFor r i = none) (hdue : (r.due.any fun d => r.tileIndex d.1 d.2 == i) = false) :
    exec (Instr.tileRefresh h tile) s = .next (s.freeOld h) := by
  rw [tileRefresh_eq howner hh hup hreset, hentry]
  exact congrArg Host.Outcome.next (if_neg (Bool.eq_false_iff.1 hdue))

/-- An entry of a refresh takes its next step. -/
theorem tileRefresh_steps {e : JEntry} (hentry : ((s.freeOld h).pile h).entryFor r i = some e) (hload : e.isLoad = false) :
    exec (Instr.tileRefresh h tile) s = .next ((s.freeOld h).programStep h r i tile e) := by
  rw [tileRefresh_eq howner hh hup hreset, hentry]
  exact congrArg Host.Outcome.next (if_neg (by rw [hload]; exact Bool.false_ne_true))

end refresh

theorem State.programStep_intent (s : State) (h : Nat) (r : Region) (i tile : Nat) {e : JEntry} (hstate : e.state = .intent) :
    s.programStep h r i tile e = (s.setEntry h e .programmed).countTile h e.tile := by
  unfold State.programStep
  rw [hstate]

/-- Read back, a tile is verified, or, at a free choice, the spare is retired with its entry. -/
theorem State.programStep_programmed (s : State) (h : Nat) (r : Region) (i tile : Nat) {e : JEntry} (hstate : e.state = .programmed)
    (htile : e.tile ≠ tile) : s.programStep h r i tile e = (s.countTile h e.tile).setEntry h e .verified ∨
      s.programStep h r i tile e = (s.countTile h e.tile).journalMap h fun x => if x = e then none else some x := by
  unfold State.programStep
  rw [hstate]
  by_cases hok : (e.isLoad || decide (Config.freeNat (s.countTile h e.tile).freeCtr % 2 = 0)) = true
  · exact .inl (if_pos hok)
  · exact .inr ((if_neg hok).trans (if_neg htile))

theorem State.programStep_verified_waits {s : State} {h : Nat} (r : Region) (i tile : Nat) {e : JEntry} (hstate : e.state = .verified)
    (hpublish : s.mayPublish h = false) : s.programStep h r i tile e = s := by
  unfold State.programStep
  rw [hstate, hpublish]
  dsimp only
  rw [Bool.not_false, Bool.or_true, if_pos rfl]

/-- A verified refresh is mapped by the epoch its stack publishes (R389, R392). -/
theorem State.programStep_verified {s : State} {h : Nat} (r : Region) {i tile : Nat} {e : JEntry} (hstate : e.state = .verified)
    (hload : e.isLoad = false) (hpublish : s.mayPublish h = true) (htile : e.tile ≠ tile) :
    let b := ((s.journalMap h fun x => if x = e then none else some x).publish h).journalDone h 1
    let new : Region := { r.refreshedAt i with tiles := r.tiles.set i e.tile, moves := r.moves ++ [(i, (b.pile h).epoch, tile)] }
    s.programStep h r i tile e = (b.setRegion { new with since := ((b.region? r.id).map Region.since).getD r.since }).fitTiles h := by
  intro b new
  unfold State.programStep
  rw [hstate, hload, hpublish]
  dsimp only
  rw [if_neg htile]
  rfl

/-! ### Pins, activations and the watchdog (R406, R515, R516) -/

@[simp] theorem State.rowOf_row (s : State) (h row : Nat) : (s.rowOf h row).row = row := findD_key RowCount.row row { row := row } rfl (s.pile h).rows

theorem State.rowOf_setRow (s : State) (h : Nat) (c : RowCount) : (s.setRow h c).rowOf h c.row = c := by
  unfold State.setRow State.rowOf
  rw [State.pile_setPile, if_pos (State.pile_stack s h).symm]
  exact findD_upsert_self RowCount.row _ c _

/-- What counting an activation of an LPDDR-6 row leaves. -/
theorem State.rowOf_countRow (s : State) (h : Nat) {row : Nat} (d : Bool) (hrow : rowTile row = none) :
    (s.countRow h row d).rowOf h row = (s.rowOf h row).dram d s.cycle := by
  unfold State.countRow
  rw [hrow]
  have hset := s.rowOf_setRow h ((s.rowOf h row).dram d s.cycle)
  rwa [show ((s.rowOf h row).dram d s.cycle).row = row from s.rowOf_row h row] at hset

theorem RowCount.dram_counts (c : RowCount) (d : Bool) (cycle : Nat) :
    let n := c.dram d cycle
    n.demand = c.demand + (if d then 1 else 0) ∧ n.seq = c.seq + (if d then 0 else 1) ∧ n.alertSeq = (c.alertSeq || decide (16384 ≤ n.demand + n.seq)) ∧
      n.alertDemand = (c.alertDemand || decide (24576 ≤ n.demand)) ∧ n.life = if 4096 ≤ c.life + 1 then 0 else c.life + 1 :=
  ⟨rfl, rfl, rfl, rfl, rfl⟩

theorem rowActivation_counts {s : State} {h row src : Nat} (hh : h < 16) (hheld : s.rowHeld h row (src == 0) = false) :
    exec (Instr.rowActivation h row src) s = .next (s.countRow h row (src == 0)) :=
  congrArg Host.Outcome.next (if_neg fun hor => hor.elim (Nat.not_le.2 hh) (Bool.eq_false_iff.1 hheld))

/-- CYCLE at which the present interval of a row's kind began. -/
def Stack.intervalAt (p : Stack) (row : Nat) : Nat := if (rowTile row).isSome then p.tilesAt else p.rowsAt

theorem activationIntervalEnd_early {s : State} {h row : Nat} (hn : (s.cycle - (s.pile h).intervalAt row) / rowInterval row = 0) :
    exec (Instr.activationIntervalEnd h row) s = .next s := congrArg Host.Outcome.next (if_pos (.inr hn))

/-- The counts of the rows of the kind begin anew, at the end of the last interval that has passed. -/
theorem activationIntervalEnd_clears {s : State} {h row : Nat} (hh : h < 16) (hn : (s.cycle - (s.pile h).intervalAt row) / rowInterval row ≠ 0) :
    let ended := (s.pile h).intervalAt row + (s.cycle - (s.pile h).intervalAt row) / rowInterval row * rowInterval row
    exec (Instr.activationIntervalEnd h row) s = .next (s.setPile { s.pile h with
      rows := (s.pile h).rows.map fun c => if (rowTile c.row).isSome = (rowTile row).isSome then c.cleared else c,
      rowsAt := if (rowTile row).isSome then (s.pile h).rowsAt else ended,
      tilesAt := if (rowTile row).isSome then ended else (s.pile h).tilesAt }) :=
  congrArg Host.Outcome.next (if_neg fun hor => hor.elim (Nat.not_le.2 hh) hn)

theorem sequencerWatchdogReset_resets {s : State} {h : Nat} (hh : h < 16) (hreset : (s.pile h).resetting = none) (hbusy : s.sequencerBusy h = true)
    (hlate : (s.pile h).progress + 1900000 ≤ s.cycle) : exec (Instr.sequencerWatchdogReset h) s =
      .next ((((s.setPile { s.pile h with resetting := some s.cycle }).loseFields h).restartNear h).report (.sequencerReset h)) := by
  refine congrArg Host.Outcome.next (if_neg ?_)
  rw [hreset, hbusy]
  simp only [Option.isSome_none, Bool.not_true, Bool.false_eq_true, false_or]
  omega

theorem sequencerResetComplete_ends {s : State} {h c : Nat} (hreset : (s.pile h).resetting = some c) : exec (Instr.sequencerResetComplete h) s =
    .next ((s.setPile { s.pile h with resetting := none, progress := s.cycle }).recoverJournal fun k => k == h) :=
  congrArg Host.Outcome.next (if_pos (by rw [hreset]; rfl))

theorem State.recoverJournal_pile (s : State) (on : Nat → Bool) (h : Nat) : (s.recoverJournal on).pile h =
    if on h then { s.pile h with journal := (s.pile h).journal.map fun e => { e with state := .intent } } else s.pile h := by
  have hkey (p : Stack) : (if on p.stack then { p with journal := p.journal.map fun e => { e with state := .intent } } else p).stack = p.stack := by
    split <;> rfl
  refine (findD_map (key := Stack.stack) hkey (by split <;> rfl) s.piles).trans ?_
  exact congrArg (fun n => if on n then ({ s.pile h with journal := (s.pile h).journal.map fun e => { e with state := .intent } } : Stack) else s.pile h)
    (s.pile_stack h)

/-! ### Fields and NEAR regions (R412, R415, R419 to R421, R511) -/

section work
variable {s : State} {w : Nat} {x : Work}

theorem fieldConversionComplete_clears (hwork : s.work? w = some x) {k : Nat} {f : FieldSlot} (hkind : x.kind = .conversion k)
    (hfield : (s.part x.part).fields[k]? = some f) (hheld : f.held = true) : exec (Instr.fieldConversionComplete w) s =
      .next ((((s.clearWays f.parts).clearRows x.part k fun _ _ => true).updField x.part k fun f =>
        { f with rows := List.replicate 512 0 }).finishWork x) := by
  change Host.Outcome.next _ = _
  rw [hwork]
  dsimp only
  rw [hkind]
  dsimp only
  rw [hfield]
  dsimp only
  rw [if_pos hheld]

theorem waysrelRelease_frees (hwork : s.work? w = some x) {k : Nat} (hkind : x.kind = .release k) (hhead : s.headsField x.part k w = true) :
    exec (Instr.waysrelRelease w) s = .next (((s.updField x.part k FieldSlot.released).clearRows x.part k fun _ _ => true).finishWork x) := by
  change Host.Outcome.next _ = _
  rw [hwork]
  dsimp only
  rw [hkind]
  exact congrArg Host.Outcome.next (if_pos hhead)

/-- Whether another job runs on a stack that a job covers (R420). -/
def State.jobBusy (s : State) (x : Work) (j : JobWork) : Bool :=
  s.works.any fun y =>
    match y.kind with
    | .job i => i.running && !i.ended && (s.jobStacks y i).any fun h => (s.jobStacks x j).contains h
    | _ => false

theorem State.jobBusy_eq_false {j : JobWork} (hfree : ∀ y ∈ s.works, ∀ i, y.kind = .job i →
    i.running = false ∨ i.ended = true ∨ ∀ h ∈ s.jobStacks y i, h ∉ s.jobStacks x j) : s.jobBusy x j = false := by
  refine List.any_eq_false.2 fun y hy => ?_
  cases hkind : y.kind with
  | job i =>
    rcases hfree y hy i hkind with hrun | hend | hstacks
    · simp [hrun]
    · simp [hend]
    · simp only [Bool.and_eq_true, not_and, List.any_eq_true, List.contains_iff_mem, not_exists]
      exact fun _ => hstacks
  | _ => exact Bool.false_ne_true

theorem bsqJobStart_starts (hwork : s.work? w = some x) {j : JobWork} (hkind : x.kind = .job j) (hrunning : j.running = false)
    (hended : j.ended = false) (hhead : s.headsField x.part j.field w = true) (hbusy : s.jobBusy x j = false)
    (hreset : ∀ h ∈ s.jobStacks x j, (s.pile h).resetting = none) : exec (Instr.bsqJobStart w) s =
      .next (((s.jobStacks x j).foldl (fun s h => s.setPile { s.pile h with progress := s.cycle }) s).setWork (x.withJob { j with running := true })) := by
  have hnone : ((s.jobStacks x j).any fun h => (s.pile h).resetting.isSome) = false :=
    List.any_eq_false.2 fun h hh => by rw [hreset h hh]; exact Bool.false_ne_true
  change Host.Outcome.next _ = _
  rw [hwork]
  dsimp only
  rw [hkind]
  exact congrArg Host.Outcome.next (if_neg (by
    change ¬ (j.running || j.ended || s.jobBusy x j || !s.headsField x.part j.field w || (s.jobStacks x j).any fun h => (s.pile h).resetting.isSome) = true
    rw [hrunning, hended, hbusy, hhead, hnone]
    decide))

theorem bsqJobComplete_finishes (hwork : s.work? w = some x) {j : JobWork} (hkind : x.kind = .job j) (hended : j.ended = true)
    (hctr : s.ctrBlocked x = false) (hwrote : j.wrote = false) {u t : State} (hwrite : s.engineWrite x (.flat j.status) 8 j.statusWord = .ok u)
    (hadd : (u.setWork (x.withJob { j with wrote := true })).workAdd (x.withJob { j with wrote := true })
      ((x.withJob { j with wrote := true }).err || j.why != 0) = (t, true)) :
    exec (Instr.bsqJobComplete w) s = .next (t.finishWork (x.withJob { j with wrote := true })) := by
  change Host.Outcome.next _ = _
  rw [hwork]
  dsimp only
  rw [hkind]
  dsimp only
  rw [if_neg (by rw [hended, hctr]; decide), if_neg (by rw [hwrote]; decide),
    show s.engineWrite x (.flat j.status) 8 j.statusWord = .ok u from hwrite]
  dsimp only
  rw [hadd]

end work

theorem nearRegionEnd_ends {s : State} {p : PathId} (htroupe : (s.troupe? p.gang p.troupe).isSome = true) (hlive : (s.focusTo p).cur.live = true)
    (hnear : (s.focusTo p).cur.near ≠ none) (hsave : (s.focusTo p).gg.save ≠ none) : exec (Instr.nearRegionEnd p) s = .next (s.focusTo p).endNear := by
  change Host.Outcome.next (if _ then _ else _) = _
  have hregion : ¬ (!(s.focusTo p).cur.live || (s.focusTo p).cur.near.isNone) = true := by
    rw [hlive]
    simpa using hnear
  rw [if_pos htroupe]
  exact congrArg Host.Outcome.next ((if_neg hregion).trans (if_pos (Option.isSome_iff_ne_none.2 hsave)))

/-! ### The lines of granted ways (R412, R414) -/

/-- The caches of `s` stand in `t`, and without a machine check to come its memory. -/
def State.KeepsLines (s t : State) : Prop := t.caches = s.caches ∧ (s.bad = [] → t.bad = [] ∧ t.mem = s.mem)

theorem State.KeepsLines.refl (s : State) : s.KeepsLines s := ⟨rfl, fun hbad => ⟨hbad, rfl⟩⟩

theorem State.KeepsLines.trans {s t u : State} (hst : s.KeepsLines t) (htu : t.KeepsLines u) : s.KeepsLines u :=
  ⟨htu.1.trans hst.1, fun hbad => ⟨(htu.2 (hst.2 hbad).1).1, (htu.2 (hst.2 hbad).1).2.trans (hst.2 hbad).2⟩⟩

theorem State.writeBackSlice_clean (s : State) (i : Nat) {l : CLine} (hclean : l.dirty = 0) : s.writeBackSlice i l = s := if_pos hclean

/-- A modified line of a stack's own slice goes to LPDDR-6, counted for its tenant. -/
theorem State.writeBackSlice_home {s : State} {i : Nat} {l : CLine} (hi : 208 ≤ i) (hdirty : l.dirty ≠ 0) (hgood : s.bad.contains (l.line, 5) = false) :
    s.writeBackSlice i l = (s.countBytes l.tenant 128 0).countDram (128 * l.line) (decide (l.tenant ≤ 63)) := by
  have hunit : sliceUnit i = 5 := by
    unfold sliceUnit
    rw [if_neg (by omega), if_neg (by omega)]
  unfold State.writeBackSlice
  rw [if_neg hdirty, hunit, if_neg (Bool.eq_false_iff.1 hgood), if_neg (by omega)]

theorem State.keepsLines_countBytes (s : State) (n bytes fab : Nat) : s.KeepsLines (s.countBytes n bytes fab) := by
  unfold State.countBytes
  dsimp only
  split <;> exact State.KeepsLines.refl s

theorem State.keepsLines_writeBackSlice (s : State) {i : Nat} (hi : 208 ≤ i) (l : CLine) : s.KeepsLines (s.writeBackSlice i l) := by
  by_cases hclean : l.dirty = 0
  · rw [s.writeBackSlice_clean i hclean]
    exact State.KeepsLines.refl s
  · cases hbad : s.bad.contains (l.line, sliceUnit i) with
    | true =>
      unfold State.writeBackSlice
      rw [if_neg hclean, if_pos hbad]
      exact ⟨rfl, fun hnone => by rw [hnone] at hbad; cases hbad⟩
    | false =>
      unfold State.writeBackSlice
      rw [if_neg hclean, if_neg (Bool.eq_false_iff.1 hbad), if_neg (by omega)]
      exact (s.keepsLines_countBytes ..).trans ⟨rfl, fun hnone => ⟨hnone, rfl⟩⟩

theorem State.keepsLines_foldl {α : Type} (f : State → α → State) (l : List α) (s : State) (hf : ∀ t : State, ∀ a ∈ l, t.KeepsLines (f t a)) :
    s.KeepsLines (l.foldl f s) :=
  List.foldlRecOn (motive := fun t => s.KeepsLines t) _ _ (.refl s) fun t ht a ha => ht.trans (hf t a ha)

/-- A line of a granted way (R414). -/
def CacheInst.lends (ways : List (Nat × Nat)) (c : CacheInst) (l : CLine) : Bool := decide (208 ≤ c.inst) && ways.contains (c.inst - 208, l.way)

/-- The lines of granted ways written back: they leave the slices then. -/
def State.waysWritten (s : State) (ways : List (Nat × Nat)) : State :=
  s.caches.foldl (fun s c => (c.lines.filter (c.lends ways)).foldl (fun s l => s.writeBackSlice c.inst l) s) s

theorem State.clearWays_eq (s : State) (ways : List (Nat × Nat)) : s.clearWays ways =
    { s.waysWritten ways with caches := (s.waysWritten ways).caches.map fun c => { c with lines := c.lines.filter fun l => !c.lends ways l } } := rfl

theorem State.keepsLines_waysWritten (s : State) (ways : List (Nat × Nat)) : s.KeepsLines (s.waysWritten ways) := by
  refine State.keepsLines_foldl _ _ s fun t c _ => State.keepsLines_foldl _ _ t fun u l hl => u.keepsLines_writeBackSlice ?_ l
  obtain ⟨-, hlends⟩ := List.mem_filter.1 hl
  exact of_decide_eq_true (Bool.and_eq_true_iff.1 hlends).1

theorem State.clearWays_cache (s : State) (ways : List (Nat × Nat)) (k : Nat) : (s.clearWays ways).cache k =
    { s.cache k with lines := (s.cache k).lines.filter fun l => !(s.cache k).lends ways l } := by
  rw [State.clearWays_eq, (s.keepsLines_waysWritten ways).1]
  exact findD_map (key := CacheInst.inst) (f := fun c => { c with lines := c.lines.filter fun l => !c.lends ways l }) (fun _ => rfl) rfl s.caches

/-- The lines that stay are those of no granted way. -/
theorem State.mem_clearWays_lines (s : State) (ways : List (Nat × Nat)) (k : Nat) (l : CLine) : l ∈ ((s.clearWays ways).cache k).lines ↔
    l ∈ (s.cache k).lines ∧ ¬ (208 ≤ k ∧ ways.contains (k - 208, l.way) = true) := by
  rw [State.clearWays_cache, List.mem_filter]
  refine and_congr_right fun _ => ?_
  rw [Bool.not_eq_true', Bool.eq_false_iff, CacheInst.lends, State.cache_inst, Ne, Bool.and_eq_true_iff, decide_eq_true_iff]

theorem State.clearWays_mem {s : State} (hbad : s.bad = []) (ways : List (Nat × Nat)) : (s.clearWays ways).mem = s.mem :=
  ((s.keepsLines_waysWritten ways).2 hbad).2

/-- Settles O56, part by part: the lemmas above on a stack, on the work of fields, and on granted ways. -/
theorem stackAndFieldEvents : Obligations.StackAndFieldEvents := by
  refine ⟨fun s h tile row src g region => ⟨rceProbePass_drives, rceProbePass_waits,
    fun hh hpublish => congrArg Host.Outcome.next (if_pos ⟨hh, hpublish⟩),
    fun hpublish => congrArg Host.Outcome.next (if_neg fun hor => Bool.eq_false_iff.1 hpublish hor.2), ?_, fun r i howner hh hup hreset => ?_, rfl,
    rowActivation_counts, fun d hrow => ?_, ?_, sequencerWatchdogReset_resets, fun c hreset => ⟨sequencerResetComplete_ends hreset, ?_⟩⟩,
    fun s w x => ⟨fun hwork => ?_, fun p => nearRegionEnd_ends⟩,
    fun s ways k l => ⟨s.mem_clearWays_lines ways k l, fun hbad => State.clearWays_mem hbad ways, State.writeBackSlice_home, s.writeBackSlice_clean k⟩⟩
  · obtain ⟨hepoch, hat, hkept⟩ := s.publish_stamp h
    exact ⟨hepoch, hat, hkept, fun k hk => s.publish_pile_other hk, s.publish_mem h, s.publish_arr h, fun hloads => State.publish_of_no_load hloads h,
      fun l hloads hleft => State.publish_of_ready hloads hleft⟩
  · refine ⟨fun t hentry hdue havail hstopped hspare => tileRefresh_begins howner hh hup hreset hentry hdue havail hstopped hspare,
      tileRefresh_idle howner hh hup hreset, fun e hentry hload => ?_⟩
    rw [tileRefresh_steps howner hh hup hreset hentry hload]
    refine ⟨fun hstate => ?_, fun hstate htile => ?_, fun hstate hpublish => ?_, fun hstate hpublish htile => ?_⟩
    · rw [State.programStep_intent _ h r i tile hstate]
    · exact (State.programStep_programmed _ h r i tile hstate htile).imp (congrArg Host.Outcome.next) (congrArg Host.Outcome.next)
    · rw [State.programStep_verified_waits r i tile hstate hpublish]
    · exact congrArg Host.Outcome.next (State.programStep_verified r hstate hload hpublish htile)
  · have hcount := s.rowOf_countRow h d hrow
    rw [hcount]
    exact RowCount.dram_counts _ d _
  · exact ⟨activationIntervalEnd_early, activationIntervalEnd_clears⟩
  · have hkeep : (((s.setPile { s.pile h with resetting := none, progress := s.cycle }).recoverJournal fun k => k == h).pile h) = _ :=
      State.recoverJournal_pile ..
    rw [hkeep, beq_self_eq_true, if_pos rfl, State.pile_setPile, if_pos (State.pile_stack s h).symm]
    exact ⟨rfl, rfl⟩
  · refine ⟨fun k f => fieldConversionComplete_clears hwork, fun k => waysrelRelease_frees hwork, fun j hkind => ⟨?_, ?_⟩⟩
    · exact fun hrunning hended hhead hfree => bsqJobStart_starts hwork hkind hrunning hended hhead (State.jobBusy_eq_false hfree)
    · exact fun hended hctr hwrote u t => bsqJobComplete_finishes hwork hkind hended hctr hwrote

end Sys2Proof.Machine
end
